-- ==== Sys2Proof/Word.lean ====
section
/-! DEFINITION. The word types of the TBX-F1 and the shape of sparse storage.
R5 numbers bits from the least significant, R7 makes every register 32 bits wide. -/
namespace Sys2Proof

/-- One byte of a structure, a frame or a memory. -/
abbrev Byte := BitVec 8
/-- A register word (R7). -/
abbrev Word := BitVec 32
/-- A handle, seed, serial number or map entry (R189). -/
abbrev W64 := BitVec 64
/-- The bytes of a structure in ascending order. -/
abbrev Bytes := List Byte

/-- Sparse storage: a key and its value, keys strictly rising, no entry equal to what
an unlisted key reads as (`Machine.SMap.wf`). -/
abbrev SMap (α : Type) := List (Nat × α)

end Sys2Proof
end

