-- ==== Sys2Proof/Syntax.lean ====
section
/-! DEFINITION. The commands of the block: one constructor per row of spec/opcode_table.json. An operand is what the
command brings from outside the chip: which port, stall, channel, core or thread it concerns, the word a host wrote, the bytes a peer chip, the wire or host memory
delivered, a sensor reading. Bytes are in ascending order; multi-byte fields are little-endian (R6). -/
namespace Sys2Proof

/-- Where a register access comes from (R221, R625): the PF, VF n + 1, which serves stall n, or the control core's
window. -/
inductive Src
  | pf
  | vf (n : Nat)
  | cc
  deriving DecidableEq, Repr

/-- The head outputs of one position of one row at SAMPLE_COMPLETE: which head, and the fp32 logit bits
of each token it computed. The heads' values are the kernels' outputs, outside this spec. -/
structure HeadOut where
  /-- Head 0 is the main head at the row's next position; 1 to 3 the speculative heads; 4 to 6 the main
  head's distribution at the first to third guessed position of the previous step (R425). In a row that a
  promoted APPEND joins (R239), 4 is the position that ends the old generation. -/
  head : Nat
  logits : List (Nat × Word)
  deriving DecidableEq, Repr

/-- What a member chip knows of a row that it samples. The step record carries none of it, and no rule says how
it comes there: seed, profile, generation index of the row's first draw, MAX_NEW. (DESIGN CHOICE, log 38) -/
structure Known where
  seed : W64
  profile : Nat
  index : Nat
  maxNew : Nat
  deriving DecidableEq, Repr

/-- The head outputs of one row, named by the master's request index; `known` is used on a member chip. -/
structure RowOut where
  req : Nat
  heads : List HeadOut
  known : Known := ⟨0, 0, 0, 0⟩
  deriving DecidableEq, Repr

/-- What a core has made of one target matrix for one row when the side engine adds to it (R378): the row of the step, the
target's bit in TARGETS, the int8 input vector and the base product in bf16. -/
structure RowProduct where
  row : Nat
  target : Nat
  x : Bytes
  base : List (BitVec 16)
  deriving DecidableEq, Repr

/-- What a kernel yields at its end: the bytes of OUT, and the target products that the side engine adds to (R378). -/
structure KernelOut where
  bytes : Bytes
  products : List RowProduct := []
  deriving DecidableEq, Repr

/-- A sampled token on its way to the head chip. -/
structure Tok where
  token : Nat
  accepted : Bool
  logprob : BitVec 16
  deriving DecidableEq, Repr

/-- The tokens of one row, as they arrive at the head chip: the token that ends an old generation (R239), the
tokens that stand, the guesses, the guesses rejected; `empty` when the mask allowed none (R417). -/
structure RowTok where
  req : Nat
  empty : Bool := false
  ended : List Tok := []
  toks : List Tok := []
  guesses : List Nat := []
  rejected : Nat := 0
  deriving DecidableEq, Repr

/-- The tokens of a step sampled on a member chip: the FT of sampling and the rows. -/
structure Arrived where
  ft : Nat
  rows : List RowTok
  deriving DecidableEq, Repr

/-- The strap and GPIO levels at the sampling instant (R577, R578). -/
structure Straps where
  root : Bool
  linkmode : Bool
  boot : Nat
  sched : Bool
  tick : Nat
  hosten : Bool
  smb : Nat
  cid : Nat
  deriving DecidableEq, Repr

/-- The kinds of job fault (R525). -/
inductive JobKind | illegal | pageBound | pondEcc | adapter
  deriving DecidableEq, Repr

/-- The commands: those with operands, then those without, each in the table's order. -/
inductive Instr
  -- Ethernet ports, spring (chapter 12)
  | frameSfdReceive (port : Nat) (frame : Bytes) (fcsOk : Bool)
  | springMatch (port : Nat)
  | springOperation (port : Nat)
  | springLdComplete (port : Nat)
  | triggerDecision (port : Nat)
  | fcsVerdict (port : Nat) (desc : Bytes)
  | triggerDeliver (port : Nat)
  | rxqDb (port : Nat) (value : Word)
  | txqDb (port : Nat) (value : Word)
  | hostFrameTransmit (port : Nat) (desc frame : Bytes)
  | tokenArrival (aisle step : Nat) (remote : List Arrived)
  | egressTransmitStart (port : Nat)
  | egrLoadCommit (data : Option Bytes)
  | leaseGrant (lease : Nat) (value : Word)
  | spgRuleEnWrite (j : Nat) (value : Word)
  -- Decziry links, flits, notices (chapter 02)
  | linkEnWrite (port : Nat) (value : Word)
  | linkRetrainWrite (port : Nat) (value : Word)
  | linkFarEndDetect (port : Nat)
  | linkSymbolLock (port : Nat)
  | linkDeskewDone (port : Nat)
  | measureComplete (port : Nat)
  | linkTrainingTimeout (port : Nat)
  | echo (port : Nat) (msg : Bytes) (count : Nat)
  | hello (port : Nat) (msg : Bytes)
  | laneLockLoss (port : Nat)
  | keepaliveTimeout (port : Nat)
  | abandonedFlit (port vc set : Nat)
  | flitCrcError (port : Nat)
  | replayRequest (port : Nat) (from_ : Nat)
  | linkAck (port count : Nat)
  | creditReturn (port vc set count : Nat)
  | flitReceive (port set : Nat) (flit : Bytes)
  | pw (flits : List Bytes) (fault : Nat)
  | rd (flits : List Bytes)
  | rdr (flits : List Bytes)
  | pwackSend (src stall : Nat)
  | pwack (flit : Bytes)
  | farFault (payload : Bytes)
  | wake (payload : Bytes)
  | rowMask (payload : Bytes)
  | chipLost (payload : Bytes)
  | fabFarqHeadWrite (value : Word)
  | discover (port : Nat) (msg : Bytes)
  | report (msg : Bytes)
  | assign (port : Nat) (msg : Bytes)
  | staged (msg : Bytes)
  | epochArm (msg : Bytes)
  | routeHoldRelease (stall dst : Nat)
  | rejoin (msg : Bytes)
  | unassignedChipSeen (port : Nat) (serial : W64)
  | imgData (msg : Bytes)
  | imgReport (msg : Bytes)
  | imgArm (msg : Bytes)
  | imgAbort (msg : Bytes)
  | stallReset (msg : Bytes)
  | reset (msg : Bytes)
  -- clock and fabric time (chapter 03)
  | clkStatus (port : Nat) (msg : Bytes)
  | ftReq (port : Nat)
  | ftSet (port : Nat) (msg : Bytes) (elapsed : Nat)
  | ftCheck (port : Nat) (msg : Bytes)
  -- ticks, delay lists, power (chapters 03 and 08)
  | idleTimerExpire (dom : Nat)
  | pwrTransitionComplete (dom : Nat)
  | domainReloadComplete (dom : Nat) (failing : List Nat)
  | domainWake (dom src : Nat)
  | pwrReq (value : Word)
  | thermalSample (temps : List Int)
  | registerAccessWake (src : Src) (off : Nat) (write : Option Word)
  | registerAccessOff (src : Src) (off : Nat) (write : Option Word)
  | undecodedAccess (src : Src) (off size : Nat)
  | registerWrite (src : Src) (off : Nat) (value : Word)
  | bar2Write (off : Nat) (data : Bytes)
  | bar2Read (off len : Nat) (ecc : List Nat)
  | bar4Write (off : Nat) (data : Bytes)
  | bar4Read (off len : Nat) (ecc : List Nat)
  -- images (chapter 04)
  | imgStart (value : Word)
  | imageFrameFetched (frame : Option Bytes)
  | imgDrainWrite (value : Word)
  | stallDrained (stall : Nat)
  -- channels and commands (chapters 05, 06, 07)
  | chCreate (stall : Nat) (src : Src)
  | chDestroy (stall idx : Nat)
  | chModify (stall idx : Nat)
  | sqDb (stall : Nat) (value : Word)
  | cqDb (stall : Nat) (value : Word)
  | commandFetch (ch : Nat) (entry : Option Bytes)
  | queueDmaFail (ch : Nat)
  | completionPost (ch : Nat)
  | coalesceTimer (ch : Nat)
  | budgetPeriodStart (ch : Nat)
  | tillSnap (stall : Nat) (value : Word)
  | submit (ch : Nat) (tokens : Option (List Word))
  | append (ch : Nat) (tokens : Option (List Word))
  | cancel (ch : Nat)
  | cancelEffect (req : Nat)
  | supersedeEffect (req : Nat)
  | pause (ch : Nat)
  | resume (ch : Nat)
  | close (ch : Nat)
  | setDeadline (ch : Nat)
  | batch (ch : Nat) (members : Option (List (Bytes × List Word)))
  | fence (ch : Nat)
  | fenceComplete (ch : Nat)
  | adopt (ch : Nat)
  | fwAdmissionTimeout (rec : Nat)
  | admPost (modl rec outcome status : Nat)
  | composeStep (aisle : Nat)
  | stepIssue (aisle : Nat)
  | stepRecordReceive (record : Bytes)
  | stepCommitConfirm (aisle step chip : Nat)
  | stepEnd (aisle step : Nat)
  | generationFinal (req : Nat)
  | rtbIdleExpire (req : Nat)
  | pauseComplete (req : Nat)
  | resumeComplete (req : Nat) (lakeError : Bool)
  | proxyStage (modl rec : Nat)
  | proxyRelease (modl req : Nat)
  | batchStart (stall : Nat)
  -- cores and work items (chapter 08)
  | workItemReady (slot : Nat)
  | coreIdle (core : Nat)
  | kernelStart (core : Nat)
  | kernelComplete (core : Nat) (output : KernelOut)
  | watchdogTrip (core : Nat)
  | coreStoreEcc (core : Nat)
  | windowFillComplete (core : Nat)
  | adapterFetchComplete (stall adapter : Nat)
  | wksSubmitGo (value : Word)
  | jobFault (kind : JobKind) (slot : Nat) (rows : List Nat) (page : Nat)
  | dlyInsert (value : Word)
  | dlyRemove (value : Word)
  | evtPost (flag : Nat)
  | evtClear (flag : Nat)
  -- control core (chapter 09)
  | epost (thread flag : Nat)
  | eclr (thread flag : Nat)
  | ewait (thread flag : Nat)
  | bmove (thread : Nat)
  | bscan (thread : Nat)
  | bcrc (thread : Nat)
  | bulkUnitComplete (thread : Nat) (lakeError : Bool)
  | interruptTake (thread : Nat)
  | mbxDbPost (slot : Nat)
  | mbxDbFree (slot : Nat)
  | mbxInfo (slot : Nat)
  | moduleCtl (slot : Nat)
  | moduleMsg (slot : Nat) (reply : Option Bytes)
  | powerSet (slot : Nat)
  | fwRecord (slot : Nat)
  | callbackFault (thread : Nat) (budget : Bool)
  | admBlock (modl ch : Nat) (set : Bool)
  | timerSet (modl due flag : Nat)
  -- sampler, rings, masks (chapter 10)
  | sampleComplete (aisle step : Nat) (rows : List RowOut)
  | ringDb (stall : Nat) (value : Word)
  | ringDmaFail (ring : Nat)
  | ringCreate (stall : Nat) (src : Src)
  | ringDestroy (stall idx : Nat)
  -- near-memory dies (chapter 11)
  | pimZero (run : Nat)
  | pimCopy (run : Nat)
  | pimNot (run : Nat)
  | pimAnd (run : Nat)
  | pimOr (run : Nat)
  | pimMaj3 (run : Nat)
  | pimXor (run : Nat)
  | pimXfer (run : Nat)
  | pimMaskout (run : Nat)
  | pimCommandStart (run : Nat)
  | rowOperationComplete (run : Nat)
  | pimCommandComplete (run : Nat)
  | handshakePreempt (die : Nat)
  | refreshDue (chan : Nat)
  | dieTempCross (die : Nat) (temp : Int)
  | lakeAccess (cls off : Nat) (write : Option Bytes) (ecc : Nat)
  -- host link and management ports (chapter 12)
  | pcieLinkChange (width rate : Nat)
  | vfFlr (vf : Nat)
  | dmaError (src : Src)
  | smbSerial (pecOk : Bool)
  | smbTemp (pecOk : Bool)
  | smbResetCause (pecOk : Bool)
  | smbLogSummary (pecOk : Bool)
  | smbPower (pecOk : Bool)
  | smbFt (pecOk : Bool)
  | smbWake (mask : Nat) (pecOk : Bool)
  -- faults, log (chapter 13)
  | coreRepair (value : Word)
  | repairComplete (failing : List Nat)
  | haltEnWrite (value : Word)
  | logHeadWrite (value : Word)
  -- resets (chapter 14)
  | safeClr (src : Src)
  | wdtKick (value : Word)
  | rstFabGo (value : Word)
  | strapSample (straps : Straps)
  | rstBlockStall (stall : Nat)
  -- security (chapter 15)
  | secmStatus (chan : Nat)
  | selftest (chan : Nat) (failing : Option Nat)
  | authChallenge (chan : Nat)
  | authResponse (chan : Nat)
  | logout (chan : Nat)
  | sessionTimeout (chan : Nat)
  | attest (chan : Nat)
  | random (chan : Nat)
  | provisionSlot (chan : Nat)
  | clearSlot (chan : Nat)
  | lcProvision (chan : Nat)
  | lcAdvance (chan : Nat)
  | ctrRaise (chan : Nat)
  | debugUnlock (chan : Nat)
  | zeroise (chan : Nat)
  | tamperDetect (cause : Nat)
  | selftestFail (test : Nat) (conditional : Bool)
  | seedPoolRefill (count : Nat)
  -- added rows
  | resetPinRise (warm : Bool)
  | portLinkChange (port : Nat) (up : Bool)
  -- commands without operands, in the same order of chapters
  | triggerEnterAdmission
  | ptpCmdLoad
  | ptpMappingActivate
  | egressPatch
  | egrLdTemplate
  | egrLdMap
  | spgBind
  | spgUnbind
  | fabDiscStart
  | discoveryBegin
  | discoveryComplete
  | epochCommit
  | rejoinSend
  | clockLocked
  | upstreamClockDepart
  | holdoverSwitch
  | holdoverTimeout
  | haltHoldExpire
  | refclkLoss
  | refclkReturn
  | slewStep
  | tickBoundary
  | delayListProcess
  | deadline
  | deferStart
  | ttlPause
  | ttlNode
  | prewarm
  | timedWork
  | drain
  | fwTimer
  | quietDeadlock
  | imgActivate
  | imgCtlAbort
  | imageStaged
  | installComplete
  | bundleCommit
  | bundleTimeout
  | admissionDecision
  | cycleStart
  | slotStart
  | cycleRestart
  | poolSlotFree
  | maskStage
  | maskCommit
  | maskRelease
  | pimCmdGo
  | pimCmdAbort
  | bankFrameStart
  | aspmL1Entry
  | l1Exit
  | pfFlr
  | bypass
  | idcode
  | samplePreload
  | extest
  | clamp
  | highz
  | haltCtlClear
  | haltCtlForce
  | logUnfreeze
  | por
  | pinCold
  | pinWarm
  | pciePerst
  | wdtExpire
  | swCold
  | swWarm
  | warmResetTaken
  | farewellEnd
  | nvPulseEnd
  | blockReady
  | releaseComplete
  | rstBlockEgr
  | rstBlockCcr
  | quiesceTimeout
  | zeroiseEraseComplete
  | drbgReseed
  | perstDeassert
  | firmwareReloaded
  | pfD3hot
  deriving DecidableEq, Repr

end Sys2Proof
end

