-- ==== Sys2Proof/Decode.lean ====
section
/-! DEFINITION. The block's commands have no instruction words: spec/opcode_table.json gives no row any
bits, so no word spells a command. -/
namespace Sys2Proof

/-- The command that a word spells by the table's bits. No row of the table gives bits, so none is spelt. -/
def decodeTableWord (_nbits _w : Nat) : Option Instr := none

end Sys2Proof
end

