-- ==== Sys2Proof/Config.lean ====
section
/-! DEFINITION. What the specification leaves open or outside itself, as opaque constants: nothing can
evaluate them, so a statement about them holds whatever they are. Each is named in the assumption log. -/
namespace Sys2Proof.Config

/-- A value the specification does not state: the `n`th such value drawn (`State.freshN`). (DESIGN CHOICE, log 3) -/
opaque freeValue : Nat → Nat

/-- The DRBG's output, byte `i` of draw `n` (R609): its algorithm's inputs are entropy. -/
opaque drbg : Nat → Nat → Byte

/-- SHA-384 (R586 names it; its definition is FIPS 180-4's). (DESIGN CHOICE, log 66) -/
opaque sha384 : Bytes → Bytes
/-- HMAC-SHA-384 of a key and bytes. -/
opaque hmac : Bytes → Bytes → Bytes
/-- ECDSA P-384 verification: public key, digest, signature. -/
opaque ecdsaVerify : Bytes → Bytes → Bytes → Bool
/-- ECDSA P-384 signature: private key label, digest, DRBG draw. -/
opaque ecdsaSign : Nat → Bytes → Nat → Bytes
/-- AES-256-GCM opening of one image: wrapped key, IV, associated data, ciphertext and tag. -/
opaque gcmOpen : Bytes → Bytes → Bytes → Bytes → Bytes → Option Bytes
/-- AES-256 key unwrap of a wrapped blob under a wrapping key. -/
opaque kwUnwrap : Bytes → Bytes → Option Bytes
/-- Keys from the hardware unique key, by label: 2 the DTK public key, 3 the key-wrapping key of R600 for a context. -/
opaque derive : Nat → Bytes → Bytes
/-- A fused public key: 0 is signing slot 0. -/
opaque fusedKey : Nat → Bytes

/-- SECM firmware version (R607). -/
opaque secmVersion : Nat

/-- The fp16 logarithm that the sampler reports of a token of weight 0, by the sum of the weights: R420 states none. (DESIGN CHOICE, log 36) -/
opaque logprobZero : Nat → BitVec 16

/-- What the sampler makes of a logit that is plus infinity or not a number, by its bits: some number, or nothing. R418 states
no result for one. -/
opaque nonfiniteLogit : Nat → Option (Int × Int)

/-- What a member stall on another chip was granted, by chip and stall: pages, entries, pause-area slots. The
head chip keeps counts of them (R242); no rule says how it learns the grants. (DESIGN CHOICE, log 39) -/
opaque memberGrant : Nat → Nat → Nat × Nat × Nat
/-- Tokens per page of a model on another chip (R247), by chip and model; no rule says how the head learns it. -/
opaque memberPageTokens : Nat → Nat → Nat
/-- The stalls that a FULL image loads a model in, one bit a stall; no rule says which. (DESIGN CHOICE, log 63) -/
opaque modelStalls : Nat → Word
/-- The physical cores of the kernel plan that hold a weight window, by model and WEIGHT_TAG (R365, R366); no section
gives the plan. (DEDUCED, log 49) -/
opaque kernelPlan : Nat → Nat → List Nat
/-- Where the device placed a page list or prompt in pond, in 64-byte units (R230), by request index: 0 the
page list, 1 the prompt. (DESIGN CHOICE, log 50) -/
opaque placement : Nat → Nat → Nat

/-- Where the A and B matrices of an adapter's target lie in its data, as byte offsets, by model, adapter id, target and
kernel; no rule lays the data out. (DESIGN CHOICE, log 78) -/
opaque adapterAt : Nat → Nat → Nat → Nat → Nat × Nat
/-- How a 32-bit sum becomes the int8 input of the next product (R378 states the widths only). (DESIGN CHOICE, log 78) -/
opaque narrow8 : BitVec 32 → BitVec 8
/-- The bf16 value taken for a number m·2^e that bf16 does not hold, and for a result that is not finite: no rule gives the
rounding. (DESIGN CHOICE, log 78) -/
opaque bf16Round : Int → Int → BitVec 16
/-- What the further operations of a kernel make of its target products (R326 gives no instruction set): the kernel, the
bytes the command brings, the products. (DESIGN CHOICE, log 78) -/
opaque kernelRest : Nat → Bytes → List (List (BitVec 16)) → Bytes
/-- Where in the installed store the `n`th section written would lie, before R157's free space is looked at. (DESIGN
CHOICE, log 88) -/
opaque storePlace : Nat → Nat
/-- The live width, the full width and the hop latency in FT of the bundle of another chip toward a further chip, as the
fabric reports them to admission at the `n`th look (R64); how the report travels is not stated. (DESIGN CHOICE, log 81) -/
opaque farBundle : Nat → Nat → Nat → Nat × Nat × Nat
/-- Mapped and owned cores of a stall of another chip, as the `n`th look finds them (R520). (DESIGN CHOICE, log 81) -/
opaque farCores : Nat → Nat → Nat → Nat × Nat
/-- The state of a domain of another chip as the `n`th look finds it (R119): 0 ON, 1 CG, 2 RET, 3 OFF. (DESIGN CHOICE, log 81) -/
opaque farState : Nat → Nat → Nat → Nat
/-- The clusters (bits 3:0) and pond halves (bits 5:4) that a stall of another chip uses there (R22); how the head chip
knows them is not stated. (DESIGN CHOICE, log 38) -/
opaque memberUses : Nat → Nat → Nat
/-- Cores that run a stall's output heads on the last member chip of its aisle, one bit a core (R20); no section names
them. (DESIGN CHOICE, log 87) -/
opaque headCores : Nat → W64

end Sys2Proof.Config
end

