-- ==== Sys2Proof/Machine/Bits.lean ====
section
/-! DEFINITION. Sparse storage, little-endian fields (R6), bit fields (R5), the CRCs the fabric, images and
serial numbers use, and truncated time fields (R10). -/
namespace Sys2Proof.Machine

/-! ### Sparse storage -/

/-- The value at a key, `d` where the key is not listed. -/
def look {α : Type} : SMap α → Nat → α → α
  | [], _, d => d
  | (j, v) :: t, k, d => if j = k then v else look t k d

/-- Remove a key. -/
def del {α : Type} : SMap α → Nat → SMap α
  | [], _ => []
  | (j, v) :: t, k => if j = k then t else (j, v) :: del t k

/-- Insert a key in order, replacing what it holds. -/
def ins {α : Type} : SMap α → Nat → α → SMap α
  | [], k, v => [(k, v)]
  | (j, w) :: t, k, v =>
    if k < j then (k, v) :: (j, w) :: t else if j = k then (k, v) :: t else (j, w) :: ins t k v

/-- Set a key whose unlisted value is `d`: the default removes the entry. -/
def put {α : Type} [DecidableEq α] (m : SMap α) (k : Nat) (v d : α) : SMap α :=
  if v = d then del m k else ins m k v

/-- Keys strictly rise from `lo`. -/
def risingFrom {α : Type} : Nat → SMap α → Bool
  | _, [] => true
  | lo, (j, _) :: t => decide (lo ≤ j) && risingFrom (j + 1) t

/-- The canonical form: keys strictly rise and no entry holds the unlisted value. -/
def smapWf {α : Type} [DecidableEq α] (d : Nat → α) (m : SMap α) : Bool :=
  risingFrom 0 m && m.all (fun p => decide (p.2 ≠ d p.1))

/-- The canonical form of a byte memory, whose unlisted bytes read as zero. -/
def Memory.wf (m : SMap Byte) : Bool := smapWf (fun _ => 0) m

/-- Write bytes at consecutive keys. -/
def putBytes (m : SMap Byte) (k : Nat) : Bytes → SMap Byte
  | [] => m
  | b :: t => putBytes (put m k b 0) (k + 1) t

/-- Read `n` bytes at consecutive keys. (DESIGN CHOICE, log 4) -/
def lookBytes (m : SMap Byte) (k n : Nat) : Bytes := (List.range n).map (fun i => look m (k + i) 0)

/-- Drop every key in `[k, k + n)`. -/
def delRange {α : Type} (m : SMap α) (k n : Nat) : SMap α := m.filter (fun p => p.1 < k || k + n ≤ p.1)

/-- Change what a key holds. -/
def upd {α : Type} [DecidableEq α] (m : SMap α) (k : Nat) (d : α) (f : α → α) : SMap α := put m k (f (look m k d)) d

/-! ### Bytes and bit fields -/

/-- Bits `hi:lo` of a number (R5). -/
def bits (w hi lo : Nat) : Nat := w / 2 ^ lo % 2 ^ (hi + 1 - lo)
/-- One bit. -/
def bit (w i : Nat) : Bool := w / 2 ^ i % 2 = 1
/-- A Boolean as a bit. -/
def b2n (b : Bool) : Nat := if b then 1 else 0
/-- `v` placed at bit `lo`. -/
def at_ (lo v : Nat) : Nat := v * 2 ^ lo
/-- A number as a register word. -/
abbrev w32 (n : Nat) : Word := BitVec.ofNat 32 n
/-- Bytes as a number, least significant first (R6). -/
def leNat : Bytes → Nat
  | [] => 0
  | b :: t => b.toNat + 256 * leNat t
/-- Bytes as a number, most significant first (network order). -/
def beNat (l : Bytes) : Nat := leNat l.reverse
/-- The `n` low bytes of a number, least significant first. -/
def leBytes : Nat → Nat → Bytes
  | 0, _ => []
  | n + 1, v => BitVec.ofNat 8 v :: leBytes n (v / 256)
/-- The `n` low bytes of a number, most significant first. -/
def beBytes (n v : Nat) : Bytes := (leBytes n v).reverse
/-- `n` bytes from offset `k`, padded with zero. -/
def slice (l : Bytes) (k n : Nat) : Bytes := (List.range n).map (fun i => (l.drop k).getD i 0)
/-- One byte as a number. -/
def u8 (l : Bytes) (k : Nat) : Nat := (l.getD k 0).toNat
/-- Two bytes, little-endian. -/
def u16 (l : Bytes) (k : Nat) : Nat := leNat (slice l k 2)
/-- Three bytes, little-endian. -/
def u24 (l : Bytes) (k : Nat) : Nat := leNat (slice l k 3)
/-- Four bytes, little-endian. -/
def u32 (l : Bytes) (k : Nat) : Nat := leNat (slice l k 4)
/-- Eight bytes, little-endian. -/
def u64 (l : Bytes) (k : Nat) : Nat := leNat (slice l k 8)
/-- `l` cut or zero-padded to `n` bytes. -/
def fit (n : Nat) (l : Bytes) : Bytes := slice l 0 n
/-- Zero bytes. -/
abbrev zeros (n : Nat) : Bytes := List.replicate n 0
/-- All of the bytes are zero. -/
def allZero (l : Bytes) : Bool := l.all (· == 0)
/-- A `w`-bit two's-complement number as an integer. -/
def sint (w n : Nat) : Int := if n < 2 ^ (w - 1) then n else (n : Int) - 2 ^ w
/-- An integer as a `w`-bit two's-complement number. -/
def toTwos (w : Nat) (i : Int) : Nat := (i % (2 ^ w : Nat)).toNat
/-- Population count of the low `n` bits. -/
def popc (n w : Nat) : Nat := ((List.range n).filter (bit w)).length
/-- The set bits of the low `n` bits, ascending. -/
def setBits (n w : Nat) : List Nat := (List.range n).filter (bit w)
/-- A mask with the listed bits set. -/
def maskOf (l : List Nat) : Nat := l.dedup.foldl (fun m i => m + 2 ^ i) 0
/-- Rounding up division. -/
def cdiv (a b : Nat) : Nat := (a + b - 1) / b
/-- A saturating 32-bit count. -/
def sat32 (n : Nat) : Nat := min n (2 ^ 32 - 1)
/-- The lowest number below `n` that passes a test. (DEDUCED, log 51) -/
def lowest (n : Nat) (p : Nat → Bool) : Option Nat := (List.range n).find? p
/-- Replace the `i`th element. -/
def setAt {α : Type} (l : List α) (i : Nat) (v : α) : List α := l.set i v

/-! ### CRCs -/

/-- One bit of the reflected CRC-32C (polynomial 0x1EDC6F41, reflected 0x82F63B78). -/
def crc32cBit (c : BitVec 32) : BitVec 32 := if c &&& 1 = 1 then (c >>> 1) ^^^ 0x82F63B78#32 else c >>> 1
/-- One byte of the CRC-32C register. -/
def crc32cByte (c : BitVec 32) (b : Byte) : BitVec 32 :=
  let c := c ^^^ b.zeroExtend 32
  crc32cBit (crc32cBit (crc32cBit (crc32cBit (crc32cBit (crc32cBit (crc32cBit (crc32cBit c)))))))
/-- CRC-32C continued from a value shown (after the final inversion). -/
def crc32cFrom (c : BitVec 32) (l : Bytes) : BitVec 32 := ~~~ (l.foldl crc32cByte (~~~ c))
/-- CRC-32C of bytes. -/
def crc32c (l : Bytes) : BitVec 32 := crc32cFrom 0 l

/-- One byte of the SMBus packet error code, CRC-8 with polynomial x^8 + x^2 + x + 1. -/
def crc8Byte (c b : Byte) : Byte :=
  let step (c : Byte) : Byte := if c.msb then (c <<< 1) ^^^ 0x07#8 else c <<< 1
  step (step (step (step (step (step (step (step (c ^^^ b))))))))

/-- The Internet ones-complement sum of 16-bit big-endian words, folded. -/
def onesFold (n : Nat) : Nat :=
  let a := n % 65536 + n / 65536
  let b := a % 65536 + a / 65536
  b % 65536 + b / 65536
/-- Sum of big-endian 16-bit words, an odd last byte padded with zero. -/
def sum16 : Bytes → Nat
  | [] => 0
  | [a] => a.toNat * 256
  | a :: b :: t => a.toNat * 256 + b.toNat + sum16 t

/-! ### Truncated times (R10) -/

/-- The instant that a field of the low `n` bits of FT denotes at FT `now` (R10). -/
def expandFt (n f now : Nat) : Nat :=
  let m := 2 ^ n
  let f := f % m
  let c := now / m * m + f            -- candidate in the same period
  -- the candidates around `now`, as integers, nearest first and the earlier one on a tie
  if c ≤ now then
    if now - c ≤ c + m - now then c else c + m
  else if m ≤ c then
    if now - (c - m) ≤ c - now then c - m else c
  else c

/-! ### int8 and bf16 (R378) -/

/-- Int8 products accumulated in 32 bits. -/
def dot8 (a b : List (BitVec 8)) : BitVec 32 := BitVec.ofInt 32 (((a.zip b).map (fun x => x.1.toInt * x.2.toInt)).sum)
/-- The value m·2^e of a finite bf16 word. -/
def bf16Val (w : BitVec 16) : Option (Int × Int) :=
  let x := bits w.toNat 14 7
  let f := bits w.toNat 6 0
  let sg : Int := if bit w.toNat 15 then -1 else 1
  if x = 255 then none else if x = 0 then some (sg * f, -133) else some (sg * (128 + f), x - 134)
/-- Divide out factors of two, at most `n`. -/
def oddPart : Nat → Nat → Int → Nat × Int
  | 0, m, e => (m, e)
  | n + 1, m, e => if m = 0 ∨ m % 2 = 1 then (m, e) else oddPart n (m / 2) (e + 1)
/-- The bf16 word of m·2^e: its own where there is one, else as the hardware rounds. -/
def bf16Of (m e : Int) : BitVec 16 :=
  let o := oddPart 256 m.natAbs e
  let sg := if m < 0 then 32768 else 0
  let top := Nat.log2 o.1
  let x : Int := o.2 + top + 127
  if m = 0 then 0
  else if top ≤ 7 ∧ 1 ≤ x ∧ x ≤ 254 then BitVec.ofNat 16 (sg + x.toNat * 128 + (o.1 * 2 ^ (7 - top) - 128))
  else if x < 1 ∧ -133 ≤ o.2 then BitVec.ofNat 16 (sg + o.1 * 2 ^ (o.2 + 133).toNat)
  else Config.bf16Round m e
/-- A product and a sum in bf16; of an operand that is not finite the hardware's. -/
def bf16Mul (a b : BitVec 16) : BitVec 16 :=
  match bf16Val a, bf16Val b with
  | some x, some y => bf16Of (x.1 * y.1) (x.2 + y.2)
  | _, _ => Config.bf16Round a.toNat b.toNat
def bf16Add (a b : BitVec 16) : BitVec 16 :=
  match bf16Val a, bf16Val b with
  | some x, some y =>
    let e := min x.2 y.2
    bf16Of (x.1 * 2 ^ (x.2 - e).toNat + y.1 * 2 ^ (y.2 - e).toNat) e
  | _, _ => Config.bf16Round a.toNat b.toNat

end Sys2Proof.Machine
end

