-- ==== Sys2Proof/Machine/Regs.lean ====
section
/-! DEFINITION. Every register of the BAR0 map (R7, R620) with its fields, access codes (R11),
reset letters (R12) and reset value, block by block as the register index of chapter 16 lists them.
A register whose content the model keeps in a structured field of State is listed too: its bits are
what a read shows. -/
namespace Sys2Proof.Machine

/-- Access codes of R11. -/
inductive Acc | rw | ro | wo | w1c | rs | rwl
  deriving DecidableEq, Repr

/-- Reset letters of R12 (`keep` is the dash). -/
inductive RstLetter | c | w | s | keep | p
  deriving DecidableEq, Repr

/-- One field: bits `hi:lo`, both ends included (R5). -/
structure Fld where
  hi : Nat
  lo : Nat
  acc : Acc
  rst : RstLetter
  deriving DecidableEq, Repr

/-- A register or an array of registers: `count` words from `off`, `stride` bytes apart. -/
structure RegSpec where
  name : String
  off : Nat
  count : Nat
  stride : Nat
  reset : Nat
  flds : List Fld
  deriving DecidableEq, Repr

/-- A register of one word. -/
abbrev reg1 (name : String) (off reset : Nat) (flds : List Fld) : RegSpec := ⟨name, off, 1, 4, reset, flds⟩
/-- An array of registers. -/
abbrev regN (name : String) (off count stride reset : Nat) (flds : List Fld) : RegSpec :=
  ⟨name, off, count, stride, reset, flds⟩
/-- A register of one 32-bit field. -/
abbrev full (a : Acc) (r : RstLetter) : List Fld := [⟨31, 0, a, r⟩]

/-- GLB block (chapter 14). -/
def glbRegs : List RegSpec := [
  reg1 "GLB_ID" 0x00 0x7A101F3C [⟨31, 0, .ro, .c⟩],
  reg1 "GLB_REV" 0x04 0 [⟨8, 0, .ro, .keep⟩],
  reg1 "GLB_SERIAL_LO" 0x08 0 (full .ro .keep),
  reg1 "GLB_SERIAL_HI" 0x0C 0 (full .ro .keep),
  reg1 "GLB_SERIAL_CRC" 0x10 0 (full .ro .keep),
  reg1 "GLB_STRAPS" 0x14 0 [⟨23, 16, .ro, .c⟩, ⟨9, 0, .ro, .c⟩],
  reg1 "GLB_CAP" 0x18 (8 + 2 * 16 + 32 * 64 + 68 * 4096) [⟨18, 0, .ro, .keep⟩],
  reg1 "GLB_GPIO_OE" 0x20 0 [⟨7, 0, .rw, .c⟩],
  reg1 "GLB_GPIO_OUT" 0x24 0 [⟨7, 0, .rw, .c⟩],
  reg1 "GLB_GPIO_IN" 0x28 0 [⟨7, 0, .ro, .keep⟩]]

/-- RST block (chapter 14). -/
def rstRegs : List RegSpec := [
  reg1 "RST_CAUSE" 0x00 0 [⟨12, 0, .w1c, .c⟩],
  reg1 "RST_CTL" 0x04 0 [⟨2, 0, .wo, .c⟩],
  reg1 "RST_STAT" 0x08 0 [⟨0, 0, .ro, .p⟩, ⟨6, 1, .ro, .c⟩],
  reg1 "RST_GAP" 0x0C 64 [⟨7, 0, .rw, .c⟩],
  reg1 "RST_QTO" 0x10 20 [⟨9, 0, .rw, .c⟩],
  reg1 "RST_BLOCK" 0x14 0 [⟨5, 0, .wo, .c⟩, ⟨31, 31, .wo, .c⟩],
  reg1 "RST_BLOCK_STAT" 0x18 0 [⟨2, 0, .ro, .c⟩, ⟨3, 3, .w1c, .c⟩],
  reg1 "RST_WDT" 0x1C 0 [⟨15, 0, .rw, .w⟩, ⟨31, 31, .wo, .w⟩],
  reg1 "RST_FAB" 0x20 0 [⟨7, 0, .rw, .c⟩, ⟨30, 30, .w1c, .c⟩, ⟨31, 31, .wo, .c⟩]]

/-- PWR block (chapter 03). -/
def pwrRegs : List RegSpec := [
  reg1 "PWR_STATE" 0x00 0 [⟨23, 0, .ro, .c⟩],
  reg1 "PWR_TRANS" 0x04 0 [⟨11, 0, .ro, .c⟩],
  reg1 "PWR_REQ" 0x08 0 [⟨5, 0, .rw, .w⟩, ⟨6, 6, .wo, .w⟩, ⟨7, 7, .w1c, .w⟩],
  reg1 "PWR_HOLD_CG" 0x0C 0 (full .rw .w),
  reg1 "PWR_WAKE" 0x10 0 [⟨5, 0, .w1c, .w⟩],
  reg1 "PWR_FALSEWAKE" 0x14 0 (full .ro .w),
  reg1 "PWR_THERM" 0x20 0 [⟨1, 0, .ro, .c⟩, ⟨23, 8, .ro, .c⟩],
  reg1 "PWR_DUTY" 0x24 (16 * 16) [⟨2, 0, .ro, .c⟩, ⟨8, 4, .ro, .c⟩],
  regN "PWR_POLICY" 0x100 12 4 0 [⟨19, 0, .rw, .w⟩]]

/-- CLK block (chapter 03). -/
def clkRegs : List RegSpec := [
  reg1 "CLK_CTL" 0x00 0 [⟨6, 0, .rw, .c⟩],
  reg1 "CLK_STAT" 0x04 0 [⟨4, 0, .ro, .c⟩, ⟨6, 5, .rs, .c⟩, ⟨15, 7, .ro, .c⟩],
  reg1 "CLK_FT_LO" 0x08 0 (full .ro .c),
  reg1 "CLK_FT_HI" 0x0C 0 (full .ro .c),
  reg1 "CLK_TICK" 0x10 0 [⟨1, 0, .ro, .c⟩, ⟨15, 8, .ro, .c⟩],
  reg1 "CLK_RESID" 0x14 0 [⟨3, 0, .ro, .c⟩],
  reg1 "CLK_SKEW" 0x18 0 [⟨7, 0, .ro, .c⟩],
  reg1 "CLK_HOLD" 0x1C 0 [⟨31, 0, .ro, .c⟩],
  reg1 "CLK_UPLAT" 0x20 0 [⟨15, 0, .ro, .c⟩]]

/-- SECM block (chapter 15). -/
def secmRegs : List RegSpec := [
  reg1 "SECM_STAT" 0x00 0 [⟨2, 0, .ro, .c⟩, ⟨5, 4, .ro, .c⟩, ⟨11, 8, .ro, .keep⟩, ⟨13, 12, .ro, .c⟩],
  reg1 "SECM_CMD" 0x04 0 [⟨7, 0, .wo, .c⟩, ⟨31, 31, .wo, .c⟩],
  reg1 "SECM_RESULT" 0x08 0 [⟨7, 0, .ro, .c⟩, ⟨31, 31, .ro, .c⟩],
  reg1 "SECM_SLOTS" 0x0C 0 [⟨27, 0, .ro, .keep⟩],
  regN "SECM_CTR" 0x10 5 4 0 (full .ro .keep),
  regN "SECM_CTRUSE" 0x30 5 4 0 [⟨12, 0, .ro, .keep⟩],
  reg1 "SECM_TAMPER" 0x44 0 [⟨23, 0, .ro, .keep⟩],
  reg1 "SECM_CFG" 0x48 0 [⟨0, 0, .rwl, .keep⟩],
  reg1 "SECM_AUTHFAIL" 0x50 0 (full .ro .c),
  regN "SECM_ARG" 0x100 64 4 0 (full .rw .c),
  regN "SECM_RSP" 0x200 192 4 0 (full .ro .c)]

/-- LOG block (chapter 13). -/
def logRegs : List RegSpec := [
  reg1 "LOG_CTL" 0x00 (3 * 2 + 2 * 16 + 64) [⟨2, 0, .rw, .c⟩, ⟨6, 4, .rw, .c⟩, ⟨8, 8, .wo, .c⟩],
  reg1 "LOG_STAT" 0x04 0 [⟨12, 0, .ro, .c⟩],
  reg1 "LOG_HEAD" 0x08 0 [⟨10, 0, .rw, .c⟩],
  reg1 "LOG_TAIL" 0x0C 0 [⟨10, 0, .ro, .c⟩],
  reg1 "LOG_DROPPED" 0x10 0 (full .ro .c),
  reg1 "LOG_SEQ" 0x14 0 (full .ro .c),
  reg1 "LOG_SEL" 0x20 0 [⟨10, 0, .rw, .c⟩],
  regN "LOG_DATA" 0x40 8 4 0 (full .ro .c)]

/-- IMG block (chapter 04). -/
def imgRegs : List RegSpec := [
  reg1 "IMG_CTL" 0x00 0 [⟨2, 0, .wo, .w⟩, ⟨5, 3, .rw, .w⟩],
  reg1 "IMG_STAT" 0x04 0 [⟨6, 0, .ro, .w⟩, ⟨7, 7, .w1c, .w⟩, ⟨15, 8, .ro, .w⟩],
  reg1 "IMG_ERR" 0x08 0 [⟨15, 0, .ro, .w⟩],
  regN "IMG_ERR_ARG" 0x0C 2 4 0 (full .ro .w),
  reg1 "IMG_FRAMES" 0x14 0 (full .ro .w),
  reg1 "IMG_STAGE_BASE" 0x18 0x00600000 (full .ro .c),
  reg1 "IMG_STORE_BASE" 0x1C 0x00700000 (full .ro .c),
  reg1 "IMG_DRAIN" 0x20 0 (full .rw .w),
  reg1 "IMG_DRAIN_DL" 0x24 100 [⟨13, 0, .rw, .w⟩],
  reg1 "IMG_DRAINED" 0x28 0 (full .ro .w),
  reg1 "IMG_BUNDLE_TO" 0x2C 10 [⟨9, 0, .rw, .c⟩],
  regN "IMG_VER" 0x40 5 4 0 (full .ro .c),
  regN "IMG_DIGEST" 0x80 12 4 0 (full .ro .c)]

/-- MGT block (chapters 12 and 13). -/
def mgtRegs : List RegSpec := [
  reg1 "MGT_ADDR" 0x00 0 [⟨6, 0, .ro, .c⟩],
  reg1 "MGT_CMDS" 0x04 0 (full .ro .w),
  reg1 "MGT_PEC_ERR" 0x08 0 (full .ro .w),
  reg1 "HALT_STAT" 0x10 256 [⟨7, 0, .rs, .c⟩, ⟨8, 8, .ro, .c⟩],
  reg1 "HALT_EN" 0x14 (0x77 + 1000 * 256) [⟨23, 0, .rw, .c⟩],
  reg1 "HALT_CTL" 0x18 0 [⟨1, 0, .wo, .c⟩, ⟨2, 2, .w1c, .c⟩]]

/-- FAB block (chapter 02). EN of every link resets to 1. -/
def fabRegs : List RegSpec := [
  reg1 "FAB_ID" 0x00 0 [⟨9, 0, .ro, .c⟩],
  reg1 "FAB_DISC_CTL" 0x04 0 [⟨0, 0, .wo, .c⟩, ⟨1, 1, .rw, .c⟩],
  reg1 "FAB_DISC_STAT" 0x08 0 [⟨1, 0, .ro, .c⟩, ⟨2, 2, .rs, .c⟩, ⟨11, 3, .ro, .c⟩],
  reg1 "FAB_TOPO_FP" 0x0C 0 (full .ro .c),
  reg1 "FAB_EPOCH" 0x10 0 (full .ro .w),
  reg1 "FAB_EPOCH_GRID" 0x14 20 [⟨4, 0, .rw, .c⟩],
  regN "FAB_EPOCH_AT" 0x18 2 4 0 (full .ro .w),
  reg1 "FAB_FARQ_HEAD" 0x20 0 [⟨7, 0, .rw, .w⟩],
  reg1 "FAB_FARQ_TAIL" 0x24 0 [⟨8, 0, .ro, .w⟩],
  reg1 "FAB_ERR" 0x28 0 [⟨3, 0, .w1c, .w⟩],
  regN "FAB_LINK_CTL" 0x100 8 0x40 1 [⟨1, 0, .rw, .c⟩, ⟨2, 2, .wo, .c⟩],
  regN "FAB_LINK_STAT" 0x104 8 0x40 0 [⟨3, 0, .ro, .c⟩, ⟨4, 4, .w1c, .c⟩, ⟨8, 5, .ro, .c⟩],
  regN "FAB_LINK_HOPLAT" 0x108 8 0x40 0 [⟨9, 0, .ro, .c⟩],
  regN "FAB_LINK_REPLAY" 0x10C 8 0x40 0 (full .ro .w),
  regN "FAB_LINK_CRCERR" 0x110 8 0x40 0 (full .ro .w),
  regN "FAB_LINK_FECCORR" 0x114 8 0x40 0 (full .ro .w),
  regN "FAB_LINK_TXFLITS" 0x118 8 0x40 0 (full .ro .w),
  regN "FAB_LINK_RXFLITS" 0x11C 8 0x40 0 (full .ro .w),
  regN "FAB_ROUTE_ACTIVE" 0x1000 256 4 0 (full .ro .w),
  regN "FAB_ROUTE_STAGED" 0x1400 256 4 0 (full .ro .w),
  regN "FAB_FARQ" 0x2000 2048 4 0 (full .ro .w)]

/-- SPG block (chapter 12). -/
def spgRegs : List RegSpec := [
  reg1 "SPG_CTL" 0x00 3 [⟨1, 0, .rw, .c⟩],
  reg1 "SPG_BUF" 0x04 0 [⟨3, 0, .ro, .w⟩],
  reg1 "SPG_ERR" 0x08 0 [⟨1, 0, .w1c, .w⟩],
  reg1 "SPG_TRIGGERS" 0x0C 0 (full .ro .w),
  regN "SPG_REFUSE" 0x10 5 4 0 (full .ro .w),
  reg1 "SPG_BIND_KEY" 0x40 0 (full .rw .w),
  reg1 "SPG_BIND_CH" 0x44 0 [⟨11, 0, .rw, .w⟩],
  regN "SPG_BIND_REQ" 0x48 2 4 0 (full .rw .w),
  reg1 "SPG_BIND_CMD" 0x50 0 [⟨1, 0, .wo, .w⟩, ⟨31, 31, .wo, .w⟩],
  reg1 "SPG_BIND_STAT" 0x54 0 [⟨2, 0, .ro, .w⟩],
  regN "SPG_RULE_EN" 0x100 8 4 0 (full .rw .w)]

/-- EGR block (chapter 12). HOST_MAX of a port resets to 2,048. -/
def egrRegs : List RegSpec := [
  regN "EGR_LD_ADDR" 0x00 2 4 0 (full .rw .w),
  reg1 "EGR_LD_INDEX" 0x08 0 (full .rw .w),
  reg1 "EGR_LD_CMD" 0x0C 0 [⟨1, 0, .wo, .w⟩, ⟨31, 31, .wo, .w⟩],
  reg1 "EGR_LD_STAT" 0x10 0 [⟨1, 0, .ro, .w⟩],
  reg1 "EGR_NOTOKEN" 0x14 0 (full .ro .w),
  reg1 "EGR_LEASE_EMPTY" 0x18 0 (full .ro .w),
  reg1 "EGR_LEASE_ERR" 0x1C 0 [⟨0, 0, .w1c, .w⟩],
  reg1 "EGR_LEASE_LOW" 0x20 0 (full .rw .w),
  regN "PTP_STAGED" 0x100 3 4 0 (full .rw .c),
  reg1 "PTP_SEC_HI" 0x10C 0 [⟨15, 0, .rw, .c⟩],
  regN "PTP_NS_ADJ" 0x110 2 4 0 (full .rw .c),
  reg1 "PTP_CMD" 0x118 0 [⟨0, 0, .wo, .c⟩],
  regN "PORT_CFG" 0x200 2 0x100 (2048 * 16) [⟨15, 0, .rw, .c⟩],
  regN "PORT_STAT" 0x204 2 0x100 0 [⟨0, 0, .ro, .c⟩],
  regN "PORT_CNT" 0x210 9 4 0 (full .ro .w),
  regN "PORT_CNT1" 0x310 9 4 0 (full .ro .w),
  regN "PORT_QBASE" 0x240 4 4 0 (full .rw .w),
  regN "PORT_QBASE1" 0x340 4 4 0 (full .rw .w),
  regN "PORT_QK" 0x250 2 0x100 0 [⟨7, 0, .rw, .w⟩],
  regN "PORT_RXQ_DB" 0x254 2 0x100 0 [⟨11, 0, .wo, .w⟩],
  regN "PORT_TXQ_DB" 0x258 2 0x100 0 [⟨11, 0, .wo, .w⟩],
  regN "LEASE_NEXT" 0x1000 64 16 0 (full .ro .w),
  regN "LEASE_LEFT" 0x1004 64 16 0 (full .ro .w),
  regN "LEASE_START" 0x1008 64 16 0 (full .wo .w),
  regN "LEASE_LEN" 0x100C 64 16 0 [⟨23, 0, .wo, .w⟩, ⟨31, 30, .wo, .w⟩]]

/-- HLK block (chapter 12). Vector e resets to 2,032 + e (R508), in `regReset`. -/
def hlkRegs : List RegSpec := [
  reg1 "HLK_LINK" 0x00 0 [⟨3, 0, .ro, .c⟩, ⟨6, 4, .ro, .c⟩],
  reg1 "HLK_AER_UNCORR" 0x04 0 (full .ro .w),
  regN "HLK_EVTVEC" 0x100 16 4 0 [⟨10, 0, .rw, .c⟩]]

/-- CC block (chapter 09). CC_INT_ROUTE resets to the table of R387. -/
def ccRegs : List RegSpec := [
  reg1 "CC_STAT" 0x00 0 [⟨1, 0, .ro, .w⟩, ⟨7, 4, .ro, .w⟩],
  reg1 "CC_FWVER" 0x04 0 (full .ro .w),
  reg1 "CC_FWREC" 0x08 0 (full .ro .w),
  reg1 "CC_INT_PEND" 0x10 0 [⟨7, 0, .ro, .w⟩],
  reg1 "CC_INT_ROUTE" 0x14 0xC0844408 (full .rw .w),
  regN "CC_THREAD" 0x20 4 4 0 [⟨1, 0, .ro, .w⟩, ⟨4, 4, .rw, .w⟩, ⟨8, 5, .ro, .w⟩],
  reg1 "CC_MOD_STAT" 0x30 0 [⟨15, 0, .ro, .w⟩],
  regN "CC_RETIRED" 0x40 4 4 0 (full .ro .w),
  regN "MBX0_CMD" 0x100 16 4 0 (full .rw .w), regN "MBX0_RSP" 0x140 16 4 0 (full .ro .w),
  regN "MBX1_CMD" 0x180 16 4 0 (full .rw .w), regN "MBX1_RSP" 0x1C0 16 4 0 (full .ro .w),
  regN "MBX2_CMD" 0x200 16 4 0 (full .rw .w), regN "MBX2_RSP" 0x240 16 4 0 (full .ro .w),
  regN "MBX3_CMD" 0x280 16 4 0 (full .rw .w), regN "MBX3_RSP" 0x2C0 16 4 0 (full .ro .w),
  reg1 "MBX_DB" 0x300 0 [⟨2, 0, .wo, .w⟩],
  reg1 "MBX_STAT" 0x304 0 [⟨7, 0, .ro, .w⟩, ⟨8, 8, .w1c, .w⟩]]

/-- CORE block (chapters 08 and 13). -/
def coreRegs : List RegSpec := [
  regN "CORE_FENCE" 0x00 2 4 0 (full .ro .c),
  reg1 "CORE_FENCE2" 0x08 0 [⟨3, 0, .ro, .c⟩],
  reg1 "CORE_WDT" 0x10 0 (full .ro .c),
  reg1 "CORE_AVAIL" 0x14 0 [⟨6, 0, .ro, .c⟩, ⟨11, 8, .ro, .c⟩],
  reg1 "CORE_REPAIR" 0x18 0 [⟨1, 0, .wo, .c⟩, ⟨31, 31, .wo, .c⟩],
  reg1 "CORE_REPAIR_STAT" 0x1C 0 [⟨2, 0, .ro, .c⟩, ⟨8, 4, .ro, .c⟩],
  reg1 "CORE_JOBF" 0x20 0 (full .ro .c),
  regN "CORE_MAP" 0x100 64 4 0 [⟨9, 0, .ro, .c⟩, ⟨14, 10, .ro, .w⟩]]

/-- WKS/EVT block (chapter 08). -/
def wksRegs : List RegSpec := [
  reg1 "WKS_STAT" 0x00 0 [⟨12, 0, .ro, .w⟩, ⟨13, 13, .w1c, .w⟩],
  reg1 "WKS_STALL_MAX" 0x04 256 [⟨12, 0, .rw, .w⟩],
  regN "WKS_COUNT" 0x08 4 4 0 (full .ro .w),
  regN "WKS_READY" 0x20 4 4 0 [⟨12, 0, .ro, .w⟩],
  regN "WKS_SUBMIT" 0x100 16 4 0 (full .rw .w),
  reg1 "WKS_SUBMIT_GO" 0x140 0 [⟨11, 0, .ro, .w⟩, ⟨31, 31, .ro, .w⟩],
  regN "EVT_FLAGS" 0x1000 32 4 0 (full .ro .w),
  reg1 "EVT_POST" 0x1080 0 [⟨9, 0, .wo, .w⟩, ⟨31, 31, .wo, .w⟩],
  regN "EVT_ARM" 0x1100 64 4 0 (full .rw .w),
  reg1 "EVT_STAT" 0x1200 0 [⟨22, 0, .ro, .w⟩, ⟨31, 30, .w1c, .w⟩],
  reg1 "EVT_DEADLOCKS" 0x1204 0 (full .ro .w)]

/-- DLY block (chapter 08). -/
def dlyRegs : List RegSpec := [
  regN "DLY_FILL" 0x00 4 4 0 [⟨13, 0, .ro, .w⟩],
  regN "DLY_LATE" 0x10 4 4 0 (full .ro .w),
  reg1 "DLY_NODEFULL" 0x20 0 (full .ro .w),
  regN "DLY_ENTRY" 0x40 4 4 0 (full .rw .w),
  reg1 "DLY_CMD" 0x50 0 [⟨1, 0, .wo, .w⟩, ⟨4, 4, .wo, .w⟩, ⟨28, 16, .wo, .w⟩, ⟨31, 31, .wo, .w⟩],
  reg1 "DLY_RESULT" 0x54 0 [⟨12, 0, .ro, .w⟩, ⟨18, 16, .ro, .w⟩, ⟨31, 31, .ro, .w⟩]]

/-- ADM block (chapter 07). -/
def admRegs : List RegSpec := [
  reg1 "ADM_MARGIN" 0x00 64 [⟨15, 0, .rw, .w⟩],
  reg1 "ADM_QUEUE" 0x04 (8 * 256) [⟨5, 0, .ro, .w⟩, ⟨12, 8, .rw, .w⟩],
  reg1 "ADM_CTX" 0x08 2048 [⟨15, 0, .rw, .w⟩],
  regN "ADM_OUTCOME" 0x10 4 4 0 (full .ro .w)]

/-- STP block (chapter 07). -/
def stpRegs : List RegSpec := [
  reg1 "STP_POLICY" 0x00 (1 + 32 * 256) [⟨0, 0, .rw, .w⟩, ⟨14, 8, .rw, .w⟩],
  reg1 "STP_STAT" 0x04 0 [⟨5, 0, .ro, .w⟩],
  reg1 "STP_CYCLES" 0x08 0 (full .ro .w),
  regN "STP_CYCLE_AT" 0x0C 2 4 0 (full .ro .w),
  regN "STP_COUNT" 0x14 4 4 0 (full .ro .w),
  regN "STP_IVL" 0x100 64 16 0 [⟨15, 0, .ro, .w⟩],
  regN "STP_NEXT_ISSUE" 0x104 64 16 0 (full .ro .w),
  regN "STP_STEPS" 0x108 64 16 0 (full .ro .w),
  regN "STP_DISPLACED" 0x10C 64 16 0 (full .ro .w)]

/-- SMP block (chapter 10). -/
def smpRegs : List RegSpec := [
  reg1 "SMP_STAT" 0x00 0 [⟨15, 0, .ro, .w⟩],
  reg1 "SMP_MASK_SEL" 0x04 0 [⟨14, 0, .rw, .w⟩],
  reg1 "SMP_MASK_CMD" 0x08 0 [⟨1, 0, .wo, .w⟩, ⟨31, 31, .wo, .w⟩],
  reg1 "SMP_MASK_INFO" 0x0C 0 [⟨26, 0, .ro, .w⟩],
  reg1 "SMP_MASK_PAGE" 0x10 0 [⟨13, 0, .ro, .w⟩],
  regN "SMP_COUNT" 0x20 7 4 0 (full .ro .w)]

/-- PFX block (chapter 06). -/
def pfxRegs : List RegSpec := [
  reg1 "PFX_STAT" 0x00 0 [⟨17, 0, .ro, .w⟩, ⟨18, 18, .w1c, .w⟩],
  reg1 "PFX_HOLD" 0x04 10000 (full .rw .w),
  regN "PFX_COUNT" 0x08 3 4 0 (full .ro .w)]

/-- NMC block (chapter 11). -/
def nmcRegs : List RegSpec := [
  reg1 "NMC_MODE" 0x00 0 (full .ro .c),
  reg1 "NMC_DIE_STAT" 0x04 0 [⟨3, 0, .ro, .c⟩, ⟨23, 8, .ro, .c⟩],
  reg1 "NMC_ECC_CORR" 0x08 0 (full .ro .c),
  reg1 "NMC_ERR" 0x0C 0 [⟨1, 0, .w1c, .c⟩],
  regN "NMC_ERR_ADDR" 0x10 2 4 0 (full .ro .c),
  regN "NMC_BUSY" 0x100 16 4 0 (full .ro .c)]

/-- PIM block (chapter 11). -/
def pimRegs : List RegSpec := [
  regN "PIM_DESC" 0x00 8 4 0 (full .rw .c),
  reg1 "PIM_CMD" 0x20 0 [⟨1, 0, .wo, .c⟩],
  reg1 "PIM_CTL" 0x24 0 [⟨0, 0, .rw, .c⟩],
  reg1 "PIM_STAT" 0x28 0 [⟨7, 0, .ro, .c⟩, ⟨8, 8, .w1c, .c⟩, ⟨19, 16, .ro, .c⟩],
  reg1 "PIM_PROGRESS" 0x2C 0 [⟨14, 0, .ro, .c⟩],
  reg1 "PIM_DONE" 0x30 0 (full .ro .c),
  regN "PIM_LAST" 0x40 8 4 0 (full .ro .c)]

/-- One stall window (chapters 05, 06, 07, 09, 10), offsets within the window. -/
def stallRegs : List RegSpec := [
  reg1 "STALL_ID" 0x00 0 [⟨12, 0, .ro, .c⟩, ⟨22, 13, .ro, .w⟩],
  reg1 "STALL_USE" 0x04 0 [⟨27, 0, .ro, .s⟩],
  reg1 "STALL_ERR" 0x08 0 [⟨1, 0, .w1c, .s⟩],
  reg1 "STALL_ORPHAN" 0x0C 0 (full .ro .s),
  reg1 "CH_CMD" 0x20 0 [⟨1, 0, .wo, .s⟩, ⟨13, 4, .wo, .s⟩],
  reg1 "CH_RESULT" 0x24 0 [⟨2, 0, .ro, .s⟩, ⟨8, 8, .ro, .s⟩],
  regN "CH_HANDLE" 0x28 2 4 0 (full .ro .s),
  regN "CH_SQ_BASE" 0x30 2 4 0 (full .rw .s),
  regN "CH_CQ_BASE" 0x38 2 4 0 (full .rw .s),
  reg1 "CH_CFG0" 0x40 0 [⟨25, 0, .rw, .s⟩],
  reg1 "CH_CFG1" 0x44 0 [⟨2, 0, .rw, .s⟩, ⟨19, 4, .rw, .s⟩],
  reg1 "CH_BUDGET" 0x48 0 (full .rw .s),
  reg1 "SQ_DB" 0x80 0 [⟨21, 0, .wo, .s⟩],
  reg1 "CQ_DB" 0x84 0 [⟨21, 0, .wo, .s⟩],
  reg1 "TILL_SNAP" 0x90 0 [⟨9, 0, .rw, .s⟩, ⟨31, 31, .wo, .s⟩],
  regN "TILL_ADDR" 0x94 2 4 0 (full .rw .s),
  reg1 "TILL_STAT" 0x9C 0 [⟨0, 0, .ro, .s⟩, ⟨1, 1, .w1c, .s⟩],
  reg1 "RING_CMD" 0x100 0 [⟨14, 0, .wo, .s⟩],
  reg1 "RING_RESULT" 0x104 0 [⟨2, 0, .ro, .s⟩, ⟨8, 8, .ro, .s⟩],
  regN "RING_HANDLE" 0x108 2 4 0 (full .ro .s),
  regN "RING_BASE" 0x110 2 4 0 (full .rw .s),
  reg1 "RING_CFG" 0x118 0 [⟨12, 0, .rw, .s⟩],
  reg1 "RING_DB" 0x120 0 [⟨24, 0, .wo, .s⟩],
  reg1 "RING_SEL" 0x124 0 [⟨12, 0, .rw, .s⟩],
  reg1 "RING_INFO" 0x128 0 [⟨29, 0, .ro, .s⟩],
  reg1 "RING_ERR" 0x12C 0 [⟨1, 0, .w1c, .s⟩],
  reg1 "RTB_LEAD" 0x200 0 [⟨11, 0, .rw, .w⟩],
  reg1 "RTB_IDLE" 0x204 0 (full .rw .s),
  reg1 "RTB_TTL_DEF" 0x208 1000000 (full .rw .s),
  reg1 "RTB_PAUSED" 0x20C 0 [⟨25, 0, .ro, .s⟩],
  reg1 "PFX_CTL" 0x210 0 [⟨1, 0, .rw, .s⟩],
  regN "ADM_PBLOCK" 0x300 32 4 0 (full .rw .s),
  reg1 "ADM_DEFER_MAX" 0x380 256 [⟨12, 0, .rw, .s⟩],
  reg1 "ADP_CACHE" 0x400 0 [⟨13, 0, .rw, .s⟩],
  reg1 "ADP_STAT" 0x404 0 [⟨27, 0, .ro, .s⟩],
  regN "ADP_COUNT" 0x408 3 4 0 (full .ro .s),
  regN "CH_STAT" 0x1000 1024 4 0 [⟨26, 0, .ro, .s⟩]]

/-- The registers of the block whose 64 KiB range has number `b` (R620). -/
def blockRegs (b : Nat) : List RegSpec :=
  match b with
  | 0x00 => glbRegs | 0x01 => rstRegs | 0x02 => pwrRegs | 0x03 => clkRegs | 0x04 => secmRegs
  | 0x05 => logRegs | 0x06 => imgRegs | 0x07 => mgtRegs | 0x08 => fabRegs | 0x09 => spgRegs
  | 0x0A => egrRegs | 0x0B => hlkRegs | 0x0C => ccRegs | 0x0D => coreRegs | 0x0E => wksRegs
  | 0x0F => dlyRegs | 0x14 => admRegs | 0x15 => stpRegs | 0x16 => smpRegs | 0x17 => pfxRegs
  | 0x19 => nmcRegs | 0x1A => pimRegs
  | _ => if 0x40 ≤ b ∧ b < 0x60 then stallRegs else []

/-- The BAR0 offset is inside a block that decodes (R620); RTB window and tills included. -/
def decoded (off : Nat) : Bool :=
  let b := off / 0x10000
  (b ≤ 0x1A) || (0x20 ≤ b && b < 0x28) || (0x40 ≤ b && b < 0x60)

/-- Does the word at `rel` lie in this register or array? -/
def RegSpec.covers (r : RegSpec) (rel : Nat) : Bool :=
  r.off ≤ rel && (rel - r.off) % r.stride == 0 && (rel - r.off) / r.stride < r.count

/-- The register defined at a BAR0 offset, if any (R620). -/
def regAt (off : Nat) : Option RegSpec :=
  if off % 4 = 0 then (blockRegs (off / 0x10000)).find? (·.covers (off % 0x10000)) else none

/-- What a register reads as after the reset that clears it (the Effect columns; R508 for the vectors). -/
def regReset (off : Nat) : Word :=
  if 0x000B0100 ≤ off ∧ off < 0x000B0140 then BitVec.ofNat 32 (2032 + (off - 0x000B0100) / 4)
  else match regAt off with
    | some r => BitVec.ofNat 32 r.reset
    | none => 0

/-- The mask of bits `hi:lo`. -/
def Fld.mask (f : Fld) : Word := BitVec.ofNat 32 ((2 ^ (f.hi + 1 - f.lo) - 1) * 2 ^ f.lo)

/-- The union of the masks of a register's fields that pass a test. -/
def RegSpec.maskOf (r : RegSpec) (p : Fld → Bool) : Word :=
  (r.flds.filter p).foldl (fun m f => m ||| f.mask) 0

/-- The kind of a chip-wide reset, widest last. -/
inductive ResetReach | stall | warm | cold | por
  deriving DecidableEq, Repr

/-- Does a field with this letter return to its reset value at this reset (R12)? -/
def RstLetter.clearedBy : RstLetter → ResetReach → Bool
  | .c, .cold => true | .c, .por => true
  | .w, .warm => true | .w, .cold => true | .w, .por => true
  | .s, _ => true
  | .p, .por => true
  | _, _ => false

end Sys2Proof.Machine
end

