-- ==== Sys2Proof/Machine/State.lean ====
section
/-! DEFINITION. The state of one Fliurune TBX-F1 chip as plain data, its fault and refusal reasons, and
`State.reset`. Each field's comment gives what it is, the rule that names it and its reset value where
that is not zero, empty or none. Time is `ft`, counted in fast cycles (R104). -/
namespace Sys2Proof.Machine

/-- Why a step stops with a fault. -/
inductive Fault
  /-- Raised by every meaning whose command carries an operand outside the range the hardware can carry
  (a port above 7, a stall above 31, a flit that is not 80 bytes). No such command can reach the chip.
  Safe: nothing is claimed of it. -/
  | operandRange
  deriving DecidableEq, Repr

/-- Why a command is refused. -/
inductive Refusal
  /-- Raised by an arm of `exec` whose meaning is not written. Safe. -/
  | notModelled (mnemonic : String)
  deriving DecidableEq, Repr

/-! ### Power (chapter 03) -/

/-- Domain states of R114, in PWR_STATE's encoding. -/
inductive PState | on | cg | ret | off
  deriving DecidableEq, Repr

/-- One switched domain (R113 to R127). Reset: OFF, at rest. -/
structure Dom where
  /-- state, or the target while in transition (R119) -/
  st : PState := .off
  /-- state the transition left (R115) -/
  src : PState := .off
  /-- start FT of the transition in progress -/
  begun : Option Nat := none
  /-- FT at which the transition in progress completes (R115) -/
  done : Option Nat := none
  /-- it is an idle timer's (R118) -/
  byTimer : Bool := false
  /-- reloading after OFF to ON until this FT (R116) -/
  reload : Option Nat := none
  /-- final target of a move that passes through ON (R127) -/
  via : Option PState := none
  /-- a wake arrived after the power switch was commanded (R117) -/
  wakeAfter : Bool := false
  /-- held PWR_REQ target (R127) -/
  held : Option PState := none
  /-- idle ticks counted (R124) -/
  idle : Nat := 0
  /-- work seen since the tick opened (R124) -/
  worked : Bool := false
  deriving DecidableEq, Repr

/-! ### Clock and fabric time (chapter 03) -/

/-- What a link's far end last advertised (R50, R94). -/
structure Nbr where
  serial : W64 := 0
  port : Nat := 0
  coded : Bool := false
  /-- bit 0 ROOT, bit 1 LOCKED, bit 2 HOLDOVER, bit 3 SLEWING -/
  flags : BitVec 8 := 0
  rank : Nat := 31
  tick : Nat := 0
  deriving DecidableEq, Repr

/-- CLK block state. Reset (C): local source, not locked, FT not valid. -/
structure Clk where
  /-- CLK_STAT.SRC: 0 local, 1 REFCLK, 2 upstream, 3 alternate, 4 holdover -/
  source : Nat := 0
  /-- CLK_STAT.LOCKED (R96) -/
  locked : Bool := false
  /-- CLK_STAT.FT_VALID (R105, R106) -/
  ftValid : Bool := false
  /-- CLK_STAT.SKEW_ERR (R108) -/
  skewErr : Bool := false
  /-- CLK_STAT.TICK_MISMATCH (R106) -/
  tickMismatch : Bool := false
  /-- advertised clock rank, 31 when not locked (R94). Reset 31 -/
  rank : Nat := 31
  /-- port used as source -/
  port : Nat := 0
  /-- chosen upstream (R94, R95) -/
  up : Option Nat := none
  /-- chosen alternate upstream (R94, R95) -/
  alt : Option Nat := none
  /-- residual of R106 in 1/16 FT -/
  resid : Int := 0
  /-- one-way latency of the source link in 1/16 FT -/
  uplat : Nat := 0
  /-- correction still to be slewed (R109) -/
  slew : Int := 0
  /-- CLK_STAT.SLEWING (R110) -/
  slewing : Bool := false
  /-- fast cycle, of those `Rst.aon` counts, from which the next edge may be corrected (R109) -/
  slewNext : Nat := 0
  /-- FT of the holdover entry (R98) -/
  holdStart : Option Nat := none
  /-- CLK_HOLD.ENTRIES, saturating -/
  holdEntries : Nat := 0
  /-- condition 2 of HALT_OUT has begun in this holdover (R538) -/
  holdHalted : Bool := false
  /-- this holdover has lasted 50 ms and R101 has acted -/
  holdLost : Bool := false
  /-- REFCLK present at the root (R102). Reset: present -/
  refclk : Bool := true
  /-- latch of CLK_FT_HI (CLK_FT_LO read) -/
  hiLatch : Word := 0
  deriving DecidableEq, Repr

/-! ### Fabric (chapter 02) -/

/-- A flit waiting on a port: virtual channel, buffer set, its 80 bytes. -/
structure QFlit where
  vc : Nat
  set : Nat
  flit : Bytes
  /-- held until this FT (R87, R88) -/
  hold : Nat := 0
  deriving DecidableEq, Repr

/-- A packet received in part (R60, R70, R90): the port of its first flit, its channel and set, and its flits so far,
each with the port it came on. -/
structure RxPart where
  port : Nat
  vc : Nat
  set : Nat
  flits : List (Nat × Bytes)
  /-- the port its last flit was forwarded on, 8 where it is dropped; none for a packet that ends here -/
  fwd : Option Nat := none
  /-- its link went down before it was whole: what was forwarded still wants its closing flit, 1, or has it, 2 (R90) -/
  dead : Nat := 0
  deriving DecidableEq, Repr

/-- One Decziry link (R31 to R42, R54 to R57, R91). Reset: DETECT at once, because EN resets to 1. -/
structure Link where
  /-- training state 0 to 8 (R39) -/
  st : Nat := 1
  /-- mode in force since the last training: coded (R31, R34) -/
  coded : Bool := false
  /-- STAT.MODE_MISMATCH (R35) -/
  mismatch : Bool := false
  /-- failed training attempts (R39, R40) -/
  attempts : Nat := 0
  /-- STAT.BENCHED (R91) -/
  benched : Bool := false
  /-- hop latency in FT (R33) -/
  hoplat : Nat := 0
  /-- one-way latency in 1/16 FT measured under R41 -/
  lat16 : Nat := 0
  /-- FT at which the training attempt began (R40) -/
  trainAt : Nat := 0
  /-- round trips recorded in MEASURE (R41) -/
  echoes : List Nat := []
  /-- far end as last reported -/
  nbr : Option Nbr := none
  /-- replay buffer: flits sent and not acknowledged, oldest first (R37) -/
  replay : List QFlit := []
  /-- failed transmissions of the flit at the replay point (R38) -/
  fails : Nat := 0
  /-- receiver discards every flit that arrives before this FT, at which the replay it asked for begins (R37) -/
  discardTill : Nat := 0
  /-- the replay's first flit is still to come (R37) -/
  discarding : Bool := false
  /-- flits held for credit or order, oldest first (R57) -/
  txq : List QFlit := []
  /-- credits in use, by 2·vc + set (R54) -/
  used : SMap Nat := []
  /-- flit slots the REQ head has waited (R55) -/
  reqWait : Nat := 0
  /-- an FT_CHECK of the far end has been answered since training (R108) -/
  checked : Bool := false
  /-- chip id of the far end, as its own messages name it (R47) -/
  far : Option Nat := none
  /-- flits waiting in the receive buffers (R81, R83): set and flit -/
  rxHeld : List (Nat × Bytes) := []
  deriving DecidableEq, Repr

/-- One posted write a source still has to see acknowledged (R71, R76). -/
structure WriteRec where
  /-- how many posted writes this chip had issued before it (R76) -/
  num : Nat
  seq : Nat
  handle : W64
  /-- channels of this chip whose requests' work it carries (R76) -/
  chans : List Nat := []
  faulted : Bool := false
  deriving DecidableEq, Repr

/-- A write stream at its source: this chip's stall to one destination chip (R70 to R76). -/
structure SrcStream where
  /-- SEQ of the next write -/
  next : Nat := 0
  /-- acknowledged SEQ count, as the SEQ after it (R74) -/
  acked : Nat := 0
  /-- fault count modulo 65,536 (R74) -/
  faults : Nat := 0
  /-- loss count modulo 65,536 (R74) -/
  losses : Nat := 0
  /-- latest PWACK not yet taken: ACK_SEQ, FAULTS, LOST (R74) -/
  waiting : Option (Nat × Nat × Nat) := none
  /-- unacknowledged writes, oldest first, at most 32,768 (R71) -/
  out : List WriteRec := []
  /-- the first packet on a new route is held this long after the last flit on the old one (R87) -/
  holdFor : Option Nat := none
  /-- FT at which this chip last sent a flit of the stream (R87) -/
  lastTx : Nat := 0
  /-- packets held by R71 or R87 -/
  held : List (List Bytes) := []
  deriving DecidableEq, Repr

/-- A write stream at its destination (R72, R73). -/
structure DstStream where
  /-- next SEQ expected -/
  next : Nat := 0
  faults : Nat := 0
  lost : Nat := 0
  /-- writes covered and not yet acknowledged -/
  unacked : Nat := 0
  /-- FT of the oldest unacknowledged one -/
  oldest : Option Nat := none
  deriving DecidableEq, Repr

/-- A read issued by this chip (R70, R89). -/
structure ReadRec where
  dst : Nat
  handle : W64
  failed : Bool := false
  deriving DecidableEq, Repr

/-- One chip of the root's discovery record (R51, R65 to R69). -/
structure ChipRec where
  serial : W64
  path : Bytes
  pathLen : Nat
  strapCid : Nat
  /-- port, neighbour serial, neighbour port, mode, hop latency -/
  links : List (Nat × W64 × Nat × Nat × Nat)
  id : Nat := 0
  deriving DecidableEq, Repr

/-- FAB block state. -/
structure Fab where
  /-- FAB_ID.CHIP and VALID (R68) -/
  chip : Nat := 0
  valid : Bool := false
  links : SMap Link := []
  /-- active routing table (R58) -/
  active : SMap Word := []
  /-- staged routing table (R58, R160) -/
  stagedTab : SMap Word := []
  /-- the routing table of the image last staged, as the lake keeps it (R113, R116) -/
  tabCopy : SMap Word := []
  /-- FAB_EPOCH.CUR -/
  cur : Nat := 0
  /-- FAB_EPOCH.STAGED -/
  stagedNum : Nat := 0
  /-- armed epoch: number and commit FT (R85, R86) -/
  armed : Option (Nat × Nat) := none
  /-- FAB_EPOCH_AT -/
  epochAt : Nat := 0
  /-- a route image is active (R113) -/
  routeActive : Bool := false
  /-- root: STAGED reports, as epoch·256 + chip (R85) -/
  reports : List Nat := []
  /-- root: an epoch waits for HOLDOVER and SLEWING flags to clear (R103) -/
  armWait : Option Nat := none
  /-- packets received in part, in the order of their first flits (R60, R70, R90) -/
  parts : List RxPart := []
  /-- posted writes toward a chip are held until this FT: their route has become an ALTERNATE (R88) -/
  altHold : SMap Nat := []
  /-- posted writes issued so far (R76) -/
  issues : Nat := 0
  srcStreams : SMap SrcStream := []
  dstStreams : SMap DstStream := []
  reads : List ReadRec := []
  /-- FAB_FARQ entries, oldest first (R80, R81) -/
  farq : List Bytes := []
  /-- FAB_FARQ_HEAD -/
  farqHead : Nat := 0
  /-- far faults held while FAB_FARQ is full, from R89 first (R81) -/
  farHeld : List Bytes := []
  /-- last 256 accepted notices, bytes 1 to 23 (R80) -/
  farHist : List Bytes := []
  /-- discovery wanted: FAB_DISC_CTL.START taken (R65) -/
  discWant : Bool := false
  discBusy : Bool := false
  discDone : Bool := false
  /-- discovery number (R51) -/
  discNum : Nat := 0
  /-- FT of the first DISCOVER -/
  discAt : Nat := 0
  /-- root's discovery record (R51) -/
  chips : List ChipRec := []
  /-- chips in the Market as an ASSIGN or the root's discovery gave it -/
  market : Nat := 0
  /-- arrival port of the first DISCOVER or the ASSIGN of R584 -/
  upPort : Option Nat := none
  /-- discovery number already forwarded -/
  discSeen : Option Nat := none
  /-- chips declared lost (R532) -/
  lost : List Nat := []
  /-- chips whose R536 record check waits: rejoined, reported an active image (R537) -/
  rejoined : List Nat := []
  deriving DecidableEq, Repr

/-! ### Spring, egress, ports (chapter 12) -/

/-- A spring rule (R482). -/
structure Rule where
  loaded : Bool := false
  dmac : Bytes := []
  etype : Bytes := []
  ports : Nat := 0
  /-- loaded ENABLED flag -/
  enabled0 : Bool := false
  /-- ENABLED as SPG_RULE_ENj leaves it -/
  enabled : Bool := false
  wake : Bool := false
  submitOk : Bool := false
  supersede : Bool := false
  hostCopy : Bool := false
  entry : Nat := 0
  channel : Nat := 0
  model : Nat := 0
  prio : Nat := 0
  budget : Nat := 0
  profile : Nat := 0
  ctrl : Nat := 0
  maxNew : Nat := 0
  template : Nat := 0xFFFF
  adapter : Nat := 0
  deriving DecidableEq, Repr

/-- The frame a port is receiving and its parser (R475, R484 to R487). -/
structure Parse where
  sfd : Nat
  frame : Bytes
  fcsOk : Bool
  /-- byte 13 compared (R485) -/
  matched : Bool := false
  /-- matching rule whose program runs -/
  first : Option Nat := none
  /-- some rule opened domains -/
  woke : Bool := false
  pc : Nat := 0
  acc : Nat := 0
  key : Nat := 0
  /-- RULE executed: rule index and FT -/
  rule : Option (Nat × Nat) := none
  ops : Nat := 0
  tokens : List Nat := []
  /-- FT of the last MAP or EMIT -/
  lastEmit : Nat := 0
  /-- FT at which the next operation may execute -/
  readyAt : Nat := 0
  /-- an LD waits for its completion -/
  loading : Option Nat := none
  /-- program ended: some true END, some false DROP -/
  ended : Option Bool := none
  /-- trigger decided: accepted or not -/
  decided : Option Bool := none
  decidedAt : Nat := 0
  /-- FCS verdict fallen -/
  verdict : Option Bool := none
  deriving DecidableEq, Repr

/-- A trigger in the buffer (R488 to R492). -/
structure Trig where
  port : Nat
  rule : Nat
  channel : Nat
  key : Nat
  tokens : List Nat
  sfd : Nat
  /-- absolute deadline FT, none for BUDGET 0 (R489) -/
  deadline : Option Nat
  /-- bound request index and generation, none for a SUBMIT -/
  bound : Option (Nat × Nat)
  /-- the internal command has been delivered (R487) -/
  delivered : Bool := false
  deriving DecidableEq, Repr

/-- A patch record (R494). -/
structure Patch where
  pos : Nat
  width : Nat
  ofs : Nat
  base : Nat
  deriving DecidableEq, Repr

/-- An egress template (R494). -/
structure Tmpl where
  loaded : Bool := false
  port : Nat := 0
  l3 : Nat := 0
  l4 : Nat := 0
  kind : Nat := 0
  ipidInc : Bool := false
  requireAll : Bool := false
  udpCsum : Bool := false
  lease : Nat := 0xFF
  patches : List Patch := []
  frame : Bytes := []
  /-- frames patched since the load (IPID_INC) -/
  sent : Nat := 0
  deriving DecidableEq, Repr

/-- A TCP sequence lease (R499). -/
structure Lease where
  next : Word := 0
  left : Nat := 0
  /-- staged START word -/
  start : Word := 0
  deriving DecidableEq, Repr

/-- An order frame being patched: template, tokens by generation index, request and deadline. -/
structure PatchJob where
  template : Nat
  tokens : List (Nat × Nat)
  req : Nat
  gen : Nat
  deadline : Option Nat
  late : Bool
  /-- FT at which the patch completes (R497) -/
  at_ : Nat
  /-- template as committed at token arrival (R495) -/
  tmpl : Tmpl
  /-- its frame with the map patches of that instant -/
  frame : Bytes
  /-- acceptance FT of the command whose generation it leaves for -/
  acc : Nat
  deriving DecidableEq, Repr

/-- A template frame in a port queue (R501). -/
structure QFrame where
  frame : Bytes
  req : Nat
  gen : Nat
  deadline : Option Nat
  late : Bool
  /-- FT from which its SFD may leave (R497) -/
  ready : Nat
  /-- acceptance FT of the command whose generation it leaves for -/
  acc : Nat
  deriving DecidableEq, Repr

/-- An FT-to-PTP mapping (R479). -/
structure PtpMap where
  ft : Nat := 0
  sec : Nat := 0
  ns : Nat := 0
  adj : Int := 0
  deriving DecidableEq, Repr

/-- One Ethernet port (R474 to R478, R501 to R504). -/
structure Port where
  /-- frames received and not yet settled, oldest first -/
  parse : List Parse := []
  /-- template frames queued, at most 16 -/
  q : List QFrame := []
  /-- the wire is taken until this FT -/
  busyUntil : Nat := 0
  link : Bool := false
  rxTail : Nat := 0
  rxHead : Nat := 0
  txTail : Nat := 0
  txHead : Nat := 0
  deriving DecidableEq, Repr

/-- A load of templates or map entries in progress (R495). -/
structure EgrLoad where
  isMap : Bool
  index : Nat
  count : Nat
  addr : W64
  deriving DecidableEq, Repr

/-- Spring and egress state. -/
structure Spg where
  /-- operations by index (R484), as 8 bytes each -/
  ops : SMap W64 := []
  /-- map entries (R481) -/
  map : SMap Word := []
  rules : SMap Rule := []
  /-- key bindings: channel, key, request index, generation (R488 to R490) -/
  keys : List (Nat × Nat × Nat × Nat) := []
  /-- trigger buffer, decision order, at most 8 -/
  buf : List Trig := []
  ports : SMap Port := []
  tmpls : SMap Tmpl := []
  /-- egress map (R496) -/
  emap : SMap W64 := []
  leases : SMap Lease := []
  load : Option EgrLoad := none
  jobs : List PatchJob := []
  /-- mapping in force (R479) -/
  ptp : PtpMap := {}
  /-- staged mapping waiting for its FT -/
  ptpNext : Option PtpMap := none
  /-- the PCI Express link is in L1 (R648) -/
  l1 : Bool := false
  /-- the PF is in D3hot (R648) -/
  d3 : Bool := false
  /-- FT of the last TLP in either direction -/
  lastTlp : Nat := 0
  /-- boundary-scan instruction in force (R512): 0 BYPASS, 1 IDCODE, 2 SAMPLE, 3 EXTEST, 4 CLAMP, 5 HIGHZ -/
  jtag : Nat := 1
  /-- TAP data register shown -/
  jtagDr : Word := 0
  deriving DecidableEq, Repr

/-! ### Structure configuration (chapters 04, 05, 07, 08, 09, 10, 11) -/

/-- A stall record (R181). -/
structure StallCfg where
  enabled : Bool := false
  mode : Nat := 0
  aisle : Nat := 0xFF
  position : Nat := 0
  cores : W64 := 0
  pondPages : Nat := 0
  entries : Nat := 0
  chBase : Nat := 0
  chCount : Nat := 0
  rings : Nat := 0
  pinPages : Nat := 0
  fwRecords : Nat := 0
  pauseSlots : Nat := 0
  deriving DecidableEq, Repr

/-- An adapter descriptor (R371). -/
structure AdpCfg where
  id : Nat
  rank : Nat
  targets : Nat
  scale : Nat
  bytes : Nat
  /-- section offset of its data -/
  ofs : Nat := 0
  deriving DecidableEq, Repr

/-- A section in the installed store (R157): type, instance, the stall its image targets, lake offset, bytes. -/
structure StoreSec where
  type : Nat
  inst : Nat
  stall : Nat
  ofs : Nat
  len : Nat
  deriving DecidableEq, Repr

/-- A model section of one chip (R363, R364, R371) and the stalls that have it loaded. -/
structure Model where
  loaded : Bool := false
  stalls : List Nat := []
  pinned : Bool := false
  stateless : Bool := false
  layers : Nat := 0
  layerFirst : Nat := 0
  layerCount : Nat := 0
  specHeads : Nat := 0
  slice : Nat := 1
  maxRank : Nat := 0
  width : Nat := 0
  attHeads : Nat := 0
  pageTokens : Nat := 0
  context : Nat := 0
  vocab : Nat := 0
  eos : Nat := 0
  kvLayout : Nat := 0
  weightBytes : Nat := 0
  /-- WEIGHT_TAG and bytes of each window -/
  windows : List (Nat × Nat) := []
  /-- section offset of each window, by WEIGHT_TAG -/
  winOfs : SMap Nat := []
  adapters : List AdpCfg := []
  deriving DecidableEq, Repr

/-- A kernel record (R329). -/
structure Kernel where
  loaded : Bool := false
  cls : Nat := 0
  bound : Nat := 0
  tag : Nat := 0
  store : Nat := 0
  deriving DecidableEq, Repr

/-- A cost-table stage (R278). -/
structure Stage where
  kind : Nat
  pos : Nat
  arg : Nat
  lat : List Nat
  occ : List Nat
  deriving DecidableEq, Repr

/-- A COST section (R277). -/
structure Cost where
  loaded : Bool := false
  rowEdges : List Nat := []
  ctxEdges : List Nat := []
  assumeAcc : Nat := 0
  pageFt : Nat := 0
  exitPos : Nat := 0
  rung2 : Option Nat := none
  stages : List Stage := []
  deriving DecidableEq, Repr

/-- A sampler profile (R405). -/
structure Profile where
  loaded : Bool := false
  sampled : Bool := false
  maskEn : Bool := false
  temp : Nat := 0
  topK : Nat := 0
  topP : Nat := 0
  masks : List Nat := []
  stops : List Nat := []
  maxBlocks : Nat := 0
  deriving DecidableEq, Repr

/-- A slot of the cycle table (R316). -/
structure CycSlot where
  len : Nat
  model : Nat
  rung : Nat
  depth : Nat
  idle : Bool
  group : Nat
  rows : Nat
  cores : BitVec 68
  deriving DecidableEq, Repr

/-- The CYCLE section (R315, R316): period in ticks, phase, primary plan, spare plans with tolerated sets. -/
structure Cycle where
  period : Nat
  phase : Nat
  slots : List CycSlot
  spares : List (BitVec 68 × List CycSlot)
  deriving DecidableEq, Repr

/-- The near-memory part (R462). -/
structure NmcPlan where
  hsMask : BitVec 16 := 0
  frame : Nat := 0
  burst : Nat := 1
  /-- slot length and class -/
  slots : List (Nat × Nat) := []
  deriving DecidableEq, Repr

/-- A policy module (R397 to R401). -/
structure Module where
  /-- 0 empty, 1 running, 2 disabled, 3 failed -/
  st : Nat := 0
  stalls : Word := 0
  key : Nat := 0
  code : Nat := 0
  data : Nat := 0
  entries : List Nat := []
  budgets : List Nat := []
  claim : Bool := false
  /-- flags armed by TIMER_SET -/
  flags : List Nat := []
  deriving DecidableEq, Repr

/-- A FIRMWARE section header (R404). -/
structure FwHdr where
  version : Nat
  format : Nat
  code : Nat
  data : Nat
  entry : Nat
  lake : Nat
  deriving DecidableEq, Repr

/-- A POWER domain record (R128). -/
structure PowRec where
  dom : Nat
  idle : Nat
  target : Nat
  floor : Nat
  deriving DecidableEq, Repr

/-- A link budget record (R141). -/
structure LinkBudget where
  chip : Nat
  port : Nat
  coded : Bool
  lat : Nat
  width : Nat
  deriving DecidableEq, Repr

/-- The active configuration of the chip: what the installed store's directory names (R157). Spring operations, map
and rules are in `Spg`, the routing tables in `Fab`. -/
structure Conf where
  /-- a configuration is installed -/
  present : Bool := false
  /-- STRUCTURE chip record MODE (R180) -/
  chipMode : Nat := 0
  stalls : SMap StallCfg := []
  /-- aisle chains: chip and stall, head first -/
  aisles : SMap (List (Nat × Nat)) := []
  models : SMap Model := []
  kernels : SMap Kernel := []
  costs : SMap Cost := []
  profiles : SMap Profile := []
  cycle : Option Cycle := none
  nmc : NmcPlan := {}
  modules : SMap Module := []
  /-- base firmware (R404) -/
  firmware : Option FwHdr := none
  /-- RTB_LEAD as the loader set it, by head stall (R270) -/
  leads : SMap Nat := []
  /-- power policy of the POWER section in force: PWR register and value (R128) -/
  power : List (Nat × Nat) := []
  deriving DecidableEq, Repr

/-! ### Channels, tills, rings (chapters 05 and 10) -/

/-- A submission entry (R198, R200). -/
structure Sqe where
  op : Nat := 0
  supersede : Bool := false
  hostSeed : Bool := false
  noDeadline : Bool := false
  cid : Nat := 0
  prio : Nat := 0
  handle : W64 := 0
  deadline : Nat := 0
  model : Nat := 0
  adapter : Nat := 0
  ctrl : Nat := 0
  profile : Nat := 0
  maxNew : Nat := 0
  count : Nat := 0
  addr : W64 := 0
  ring : W64 := 0
  seed : W64 := 0
  budget : Nat := 0
  ttl : Nat := 0
  raw : Bytes := []
  deriving DecidableEq, Repr

/-- A completion entry before it is written (R206). -/
structure Cqe where
  final : Bool
  status : Nat
  cid : Nat
  req : Nat
  outcome : Nat
  rung : Nat
  deferred : Bool
  cstat : Nat
  displaced : Nat
  specAcc : Nat
  predict : Nat
  ingress : Nat
  admits : Nat
  first : Nat
  last : Nat
  deriving DecidableEq, Repr

/-- A FENCE waiting for the stall's writes (R76). -/
structure FenceRec where
  cid : Nat
  /-- posted writes that this chip had issued at its acceptance: it waits for those of its stall -/
  upto : Nat
  /-- FT of its acceptance -/
  accepted : Nat
  deriving DecidableEq, Repr

/-- A channel (R193 to R220). -/
structure Chan where
  /-- 0 closed, 1 open, 2 destroying, 3 ERROR -/
  st : Nat := 0
  stall : Nat := 0
  src : Src := .pf
  sqBase : W64 := 0
  cqBase : W64 := 0
  sqK : Nat := 0
  cqK : Nat := 0
  vec : Nat := 0
  coalN : Nat := 0
  coalT : Nat := 0
  prioMax : Nat := 0
  weight : Nat := 1
  maxLive : Nat := 4096
  tokens : Nat := 0
  period : Nat := 0
  /-- CH_CFG1 and CH_BUDGET of a MODIFY that waits for the next admission decision (R194) -/
  modify : Option (Word × Word) := none
  /-- tokens left in the period (R292) -/
  left : Nat := 0
  sqHead : Nat := 0
  sqTail : Nat := 0
  cqTail : Nat := 0
  cqHead : Nat := 0
  /-- PHASE of the current pass (R214). 1 on the first pass -/
  phase : Bool := true
  /-- posted entries not yet returned by CQ_DB -/
  posted : Nat := 0
  /-- reserved CQ slots (R216) -/
  reserved : Nat := 0
  /-- entry held for want of slots, with its need (R217) -/
  held : Option (Sqe × Nat) := none
  /-- fetched entries awaiting acceptance, oldest first (R204) -/
  acc : List Sqe := []
  /-- completions awaiting their CQ write, oldest first -/
  compq : List Cqe := []
  /-- posted entries not yet signalled, and the FT of the oldest (COAL_N, COAL_T) -/
  unsig : Nat := 0
  unsigAt : Option Nat := none
  /-- commands are accepted no earlier than this FT (R270) -/
  notBefore : Nat := 0
  fences : List FenceRec := []
  /-- FT from which the next FENCE covers writes (R76) -/
  fenceFrom : Nat := 0
  /-- faulted writes since the last FENCE: place in order of issue, SEQ, handle, source stall -/
  faulted : List (Nat × Nat × W64 × Nat) := []
  deriving DecidableEq, Repr

/-- A till (R223). -/
structure Till where
  snapFt : Nat := 0
  cmds : Nat := 0
  triggers : Nat := 0
  admits : Nat := 0
  fallback : Nat := 0
  defer_ : Nat := 0
  displaced : Nat := 0
  refused : SMap Nat := []
  lateDropped : Nat := 0
  lateFinished : Nat := 0
  faults : Nat := 0
  specRejected : Nat := 0
  waitSum : Nat := 0
  waitMax : Nat := 0
  tokens : Nat := 0
  hist : SMap Nat := []
  deriving DecidableEq, Repr

/-- What a till held before the fast cycle `at_`, and what the events of that cycle alone have counted (R225). -/
structure TillNow where
  at_ : Nat := 0
  before : Till := {}
  since : Till := {}
  deriving DecidableEq, Repr

/-- A token record (R429). PHASE is given at the write. -/
structure TokRec where
  token : Word
  position : Nat
  specAcc : Bool := false
  fallback : Bool := false
  final : Bool := false
  cancelled : Bool := false
  late : Bool := false
  logprob : BitVec 16 := 0
  rung : Nat := 0
  depth : Nat := 0
  ft : Nat := 0
  deriving DecidableEq, Repr

/-- An output ring (R431 to R439). -/
structure Ring where
  /-- 0 free, 1 unbound, 2 bound, 3 ERROR -/
  st : Nat := 0
  stall : Nat := 0
  /-- function whose requester ID its writes carry -/
  src : Src := .pf
  base : W64 := 0
  k : Nat := 4
  pond : Bool := false
  vec : Nat := 0
  notify : Nat := 0
  /-- next record slot -/
  tail : Nat := 0
  /-- records written and not returned -/
  unread : Nat := 0
  /-- PHASE of the current pass -/
  phase : Bool := true
  req : Option Nat := none
  deriving DecidableEq, Repr

/-! ### Request table (chapter 06) -/

/-- Entry states, in R233's order. -/
inductive RState
  | free | admitting | deferred | ready | prefill | decode | blocked | pausing | paused | resuming
  | draining | closing | fw
  deriving DecidableEq, Repr

/-- A pending command (R227): an APPEND with its tokens, or a CLOSE. -/
structure Pend where
  isClose : Bool
  cid : Nat := 0
  tokens : List Nat := []
  maxNew : Nat := 0
  deadline : Option Nat := none
  ingress : Nat := 0
  /-- the command posts an ACK and a FINAL: false for tokens kept under R266 and R295 -/
  posts : Bool := true
  /-- a spring trigger: no ACK (R212) -/
  trig : Bool := false
  /-- CTRL bits 4:0 of an APPEND -/
  ctrl : Nat := 0
  template : Nat := 0xFFFF
  prio : Nat := 0
  /-- PRIO as the command asks for it, before PRIO_MAX (R194) -/
  askPrio : Nat := 0
  deriving DecidableEq, Repr

/-- A speculative guess awaiting its verification (R425): token, depth and weights of its distribution. -/
structure Guess where
  token : Nat
  weights : List (Nat × Nat)
  total : Nat
  logprob : BitVec 16
  rung : Nat
  depth : Nat
  ft : Nat
  deriving DecidableEq, Repr

/-- What the open command is (R227). -/
inductive OpenCmd | none_ | submit | append | resume | adopt | close
  deriving DecidableEq, Repr

/-- The fields of a request entry that the RTB window shows (R230, R231). -/
structure Entry where
  st : RState := .free
  stall : Nat := 0
  prio : Nat := 0
  channel : Nat := 0
  poison : Bool := false
  superseded : Bool := false
  deferred : Bool := false
  fwOwned : Bool := false
  shadow : Bool := false
  expired : Bool := false
  orphan : Bool := false
  model : Nat := 0
  adapter : Nat := 0
  rung : Nat := 0
  maxRung : Nat := 0
  spec : Nat := 0
  specCur : Nat := 0
  deadline : Option Nat := none
  cid : Nat := 0
  displaced : Nat := 0
  committed : Nat := 0
  maxLen : Nat := 0
  genLen : Nat := 0
  maxNew : Nat := 0
  budget : Nat := 0
  late : Bool := false
  ring : Option Nat := none
  adapterEn : Bool := false
  /-- page list: pond page and SHARED (R246) -/
  pages : List (Nat × Bool) := []
  /-- unprocessed prompt tokens -/
  prompt : List Nat := []
  ttlDue : Nat := 0
  till : Nat := 0
  profile : Nat := 0
  seed : W64 := 0
  ingress : Nat := 0
  admitOfs : Nat := 0
  deriving DecidableEq, Repr

/-- A pending APPEND promoted into the step that ends the old generation (R239). -/
structure Promo where
  /-- tokens of it in that row -/
  joined : Nat
  /-- FT of its admission outcome -/
  at_ : Nat
  /-- FT at which its first tokens reached the head chip -/
  ft : Option Nat := none
  /-- records of them written to the ring, and those not yet written -/
  written : Nat := 0
  recs : List TokRec := []
  /-- status with which its generation ends by them -/
  endSt : Option Nat := none
  /-- its order frame's fate is settled, and the status of one that was late -/
  exempt : Bool := false
  lateSt : Option Nat := none
  deriving DecidableEq, Repr

/-- What SEQ keeps beside each entry (R232) and the life of its current generation. -/
structure Side where
  open_ : OpenCmd := .none_
  /-- the open command is a spring trigger's (R212) -/
  trig : Bool := false
  pend : Option Pend := none
  /-- state held before ADMITTING (R234) -/
  before : RState := .free
  /-- ACK already posted -/
  acked : Bool := false
  outcome : Nat := 0
  /-- highest rung used (R299) -/
  rungMax : Nat := 0
  acceptAt : Nat := 0
  admitAt : Nat := 0
  /-- predicted start of a DEFERRED request -/
  start : Nat := 0
  firstAt : Option Nat := none
  lastAt : Option Nat := none
  tokensOut : Nat := 0
  specAcc : Nat := 0
  /-- step in flight (R27) -/
  inStep : Option Nat := none
  /-- the row's bit was masked in that step (R346) -/
  masked : Bool := false
  guesses : List Guess := []
  /-- records held for ring space (R435) -/
  heldRecs : List TokRec := []
  /-- status the ended generation's FINAL carries -/
  ending : Option Nat := none
  /-- status the pending command's FINAL carries when the request is freed -/
  pendEnding : Option Nat := none
  /-- the ended request is freed after the step (CLOSING, R234) -/
  freeing : Bool := false
  /-- acceptance FT of a CANCEL or SUPERSEDE in flight (R270, R274); true for CANCEL -/
  cancelAt : Option (Nat × Bool) := none
  /-- CID of the CANCEL -/
  cancelCid : Nat := 0
  /-- FT at which the CANCEL was accepted (R207) -/
  cancelIn : Nat := 0
  template : Nat := 0xFFFF
  /-- the order frame's fate is settled (R284) -/
  exempt : Bool := false
  /-- LATE_POLICY finish has applied (R313) -/
  lateFin : Bool := false
  /-- the first step has been issued (queue wait counted, R224) -/
  issued : Bool := false
  /-- steps and chips whose commit confirmations are outstanding, as step·256 + chip (R241) -/
  confirm : List Nat := []
  /-- FT of the last work (R258) -/
  idleSince : Nat := 0
  /-- pages moved per chip for pause or resume -/
  slots : List Nat := []
  /-- last matched prefix node and nodes matched (R251) -/
  pfxNode : Option Nat := none
  pfxDepth : Nat := 0
  /-- token history since the request began, for prefix insertion (R254) -/
  history : List Nat := []
  /-- bound cycle row: group and row (R319) -/
  cycRow : Option (Nat × Nat) := none
  /-- FT at which the poison flag was set (R530) -/
  poisonAt : Option Nat := none
  /-- tokens that rung 2 served and that are still to be prefilled (R266, R295) -/
  kept : List Nat := []
  /-- member of a running batch: batch number -/
  batch : Option Nat := none
  /-- key bound at admission -/
  key : Option Nat := none
  /-- the activations of its step have reached this chip (R18) -/
  fed : Bool := false
  /-- the members have been ordered to create its shadow (R243) -/
  shadowed : Bool := false
  /-- pause-area slots are reserved for it on every chip of the aisle (R262) -/
  lake : Bool := false
  /-- its pages are in the lake, and none are counted on the member stalls -/
  away : Bool := false
  /-- a pending APPEND served on rung 2 while RESUMING (R266): 0 no, 1 in admission, 2 admitted, 3 step ended -/
  r2 : Nat := 0
  /-- rung-2 service: generated tokens so far (R266, R295) -/
  r2Toks : List Nat := []
  /-- rung-2 service: FT of the outcome, and of the records (R224, R266) -/
  r2At : Nat := 0
  r2Out : Option Nat := none
  /-- PRIO as the open command asks for it, before PRIO_MAX (R194) -/
  askPrio : Nat := 0
  /-- pending APPEND admitted at composition (R239) -/
  promoted : Option Promo := none
  /-- the open command's own tokens, which rung 2 runs over (R294) -/
  own : List Nat := []
  /-- no token sampled at or after this FT is delivered (R272, R530) -/
  cutoff : Option Nat := none
  /-- closing record owed once the step in flight has returned (R272, R430) -/
  owed : Option TokRec := none
  /-- the seed is settled: HOST_SEED, or drawn at admission (R423, R610) -/
  seeded : Bool := true
  /-- KV layout id of the conversation's context (R171) -/
  layout : Option Nat := none
  deriving DecidableEq, Repr

/-- A prefix node (R249). -/
structure PfxNode where
  valid : Bool := false
  partial_ : Bool := false
  stall : Nat := 0
  model : Nat := 0
  adapter : Nat := 0xFFFF
  span : List Nat := []
  parent : Nat := 0x3FFFF
  child : Nat := 0x3FFFF
  sibling : Nat := 0x3FFFF
  page : Nat := 0xFFFF
  refs : Nat := 0
  /-- its TTL_NODE entry has come due, at this DUE (R255) -/
  evictable : Option Nat := none
  /-- where its 64 bytes lie in pond, in 64-byte units -/
  place : Nat := 0
  deriving DecidableEq, Repr

/-- What the head chip counts as taken from a member stall on another chip (R242): its free counts are the
member's grants less these. `lost` stands for R535's m = 0. -/
structure Free where
  pages : Nat := 0
  entries : Nat := 0
  slots : Nat := 0
  lost : Bool := false
  deriving DecidableEq, Repr

/-- What base firmware keeps of a firmware-tracked request beside its entry, which `State.rtb` holds at the
request's index (R256, R402, R403). -/
structure FwRec where
  /-- acceptance FT of the command whose outcome is not posted -/
  since : Option Nat := none
  /-- proxy entry staged for it (R257) -/
  proxy : Option Nat := none
  deriving DecidableEq, Repr

/-! ### Admission and steps (chapter 07) -/

/-- A command in the admission input queue (R288). -/
structure AdmCmd where
  /-- request index; for a batch the batch number -/
  req : Nat
  isBatch : Bool := false
  /-- a RESUME or ADOPT -/
  isResume : Bool := false
  at_ : Nat
  deriving DecidableEq, Repr

/-- One row of a step (R302, R306). -/
structure Row where
  req : Nat
  gen : Nat
  committed : Nat
  /-- prompt tokens the step consumes -/
  prompt : List Nat
  /-- positions the step writes -/
  new : Nat
  spec : Nat
  rung : Nat
  orders : Nat
  aslot : Nat
  lane : Nat
  /-- guesses under verification -/
  verify : Nat
  /-- the sampler draws for this row: it consumes the last prompt token or generates -/
  samples : Bool := false
  /-- first step of a generation whose action leaves by egress (R28) -/
  trig : Bool := false
  /-- tokens of a promoted APPEND among the prompt tokens (R239) -/
  joined : Nat := 0
  live : Bool := true
  /-- what was sampled for the row -/
  out : Option RowTok := none
  /-- the guesses made, with their distributions (R425) -/
  guesses : List Guess := []
  /-- tokens that the head chip committed at arrival: of the generation that the row runs, and of the one that
  joined it -/
  taken : Nat := 0
  takenNext : Nat := 0
  /-- its tokens have reached the head chip -/
  arrived : Bool := false
  /-- the row's effects have been committed -/
  ended : Bool := false
  /-- status with which the generation ends at the step's end -/
  endSt : Option Nat := none
  /-- the same for the generation that joined -/
  endNext : Option Nat := none
  deriving DecidableEq, Repr

/-- A step composed, in flight or returned (R25, R305). -/
structure Step where
  num : Nat
  aisle : Nat
  model : Nat
  issue : Nat
  issued : Bool := false
  /-- 0 composed, 1 issued, 2 sampled, 3 arrived -/
  phase : Nat := 0
  rows : List Row
  adapters : List Nat
  cyc : Option Nat := none
  /-- FT since which its issue has waited for pool slots (R333) -/
  blockedAt : Option Nat := none
  /-- FT at which the sampler produced the tokens -/
  sampledAt : Nat := 0
  /-- its issue interval (R281) -/
  occ : Nat := 0
  /-- its activations have reached this chip, or the chip heads the aisle (R18) -/
  fed : Bool := false
  /-- this chip's layers are done and its activations have gone on (R18) -/
  sent : Bool := false
  /-- FT at which its last work item here was done -/
  doneAt : Option Nat := none
  /-- a kernel of it read poisoned units (R75) -/
  tainted : Bool := false
  deriving DecidableEq, Repr

/-- Per-aisle composer state. -/
structure Aisle where
  stepNum : Nat := 0
  /-- FT of the last issue slot taken -/
  lastIssue : Option Nat := none
  ivl : Nat := 0
  /-- steps since the last empty slot (R129) -/
  dutyRun : Nat := 0
  /-- model whose turn it is and turns left (R187) -/
  turn : Nat := 0
  turnsLeft : Nat := 0
  /-- shadow orders waiting for the next step record (R243): REQ, its ORDERS bits, COMMITTED, PFX -/
  orders : List (Nat × Nat × Nat × Nat) := []
  deriving DecidableEq, Repr

/-- A batch of a Host-batch stall (R322, R323). -/
structure Batch where
  num : Nat
  stall : Nat
  channel : Nat
  cid : Nat
  prio : Nat
  accept : Nat
  members : List Nat
  admitted : Bool := false
  running : Bool := false
  /-- it was deferred (R209) -/
  deferred : Bool := false
  askPrio : Nat := 0
  deriving DecidableEq, Repr

/-- Fixed-cycle state (R315 to R321, R529). -/
structure Fixed where
  /-- plan in use, 0 primary -/
  plan : Nat := 0
  degraded : Bool := false
  /-- start FT of the current cycle -/
  at_ : Nat := 0
  /-- next slot of the plan -/
  slot : Nat := 0
  /-- the cycle is idled for duty (R132) -/
  idled : Bool := false
  dutyRun : Nat := 0
  /-- stopped by a job fault at this FT (R529) -/
  stopped : Option Nat := none
  /-- bound rows: group, row, request -/
  bound : List (Nat × Nat × Nat) := []
  deriving DecidableEq, Repr

/-! ### Cores, work items, delay lists, events (chapter 08) -/

/-- A weight window held by a core store: tag, bytes, pinned, last use. -/
structure Window where
  tag : Nat
  bytes : Nat
  pinned : Bool
  used : Nat
  /-- its weights in the core store (R13, R325) -/
  data : Bytes := []
  deriving DecidableEq, Repr

/-- A physical core (R325, R327, R335, R345). -/
structure Core where
  fenced : Bool := false
  /-- pool slot of the work item it holds -/
  item : Option Nat := none
  /-- FT at which the kernel may start (R339) -/
  startAt : Nat := 0
  /-- kernel started at this FT -/
  started : Option Nat := none
  /-- window being filled: tag -/
  filling : Option Nat := none
  windows : List Window := []
  /-- row-mask register (R345) -/
  rowMask : W64 := 0
  deriving DecidableEq, Repr

/-- Work-item states (R334). -/
inductive WState | free | timed | parked | ready | running | retained
  deriving DecidableEq, Repr

/-- A pool slot: the descriptor of R332 and its state. -/
structure Item where
  st : WState := .free
  kernel : Nat := 0
  stall : Nat := 0
  prio : Nat := 0
  timed : Bool := false
  wait : Bool := false
  post : Bool := false
  cyc : Bool := false
  rep : Bool := false
  dlk : Bool := false
  step : Nat := 0
  rowMask : W64 := 0
  inp : Nat := 0
  inLen : Nat := 0
  out : Nat := 0
  outLen : Nat := 0
  affinity : W64 := 0
  due : Nat := 0
  event : Nat := 0
  waitFlag : Nat := 0
  arg : W64 := 0
  /-- created outside any step -/
  loose : Bool := false
  /-- ready list: cluster, and joining order (R337) -/
  list : Option Nat := none
  order : Nat := 0
  /-- aisle of its step -/
  aisle : Nat := 0
  /-- core that failed it (R517) -/
  notCore : Option Nat := none
  /-- 0 layers, 1 heads: heads follow the layers of their step -/
  stage : Nat := 0
  /-- what it works on has not come yet: the predecessor's activations, or the layers' results (R18) -/
  hold : Bool := false
  /-- it begins with the embedding gather of the step's new tokens (R19) -/
  gather : Bool := false
  deriving DecidableEq, Repr

/-- A delay entry (R349) with its 13-bit id. -/
structure DlyEntry where
  due : Nat
  kind : Nat
  late : Bool := false
  arg : W64 := 0
  id : Nat := 0
  deriving DecidableEq, Repr

/-- Delay lists, in processing order, and what this boundary has processed (R348 to R356). -/
structure Dly where
  l0 : List DlyEntry := []
  l1 : List DlyEntry := []
  l2 : List DlyEntry := []
  l3 : List DlyEntry := []
  /-- deadlines, starts and TTLs of firmware-tracked requests, which no list entry serves (R348): base firmware keeps them -/
  fw : List DlyEntry := []
  /-- entries processed at the boundary whose action is still to be taken -/
  fired : List DlyEntry := []
  /-- boundary last processed -/
  last : Option Nat := none
  deriving DecidableEq, Repr

/-- Cores, pool, events. -/
structure Wks where
  cores : SMap Core := []
  /-- addressable core a to physical core plus one, 0 unmapped. Reset: R327's map -/
  map : SMap Nat := []
  pool : SMap Item := []
  joins : Nat := 0
  /-- steps whose work items wait for pool slots (R333): aisle, step, items, since -/
  waiting : List (Nat × Nat × List Item × Nat) := []
  /-- repair: cluster and phase 0 draining, 1 cycling (R522) -/
  repair : Option (Nat × Nat) := none
  dly : Dly := {}
  /-- control-core waiters: thread and flag -/
  waiters : List (Nat × Nat) := []
  /-- EVT_STAT.QUIET -/
  quiet : Nat := 0
  /-- tick boundary last taken -/
  tickAt : Option Nat := none
  /-- flags posted and flags cleared in the fast cycle `evtAt` (R358) -/
  evtAt : Nat := 0
  posted : List Nat := []
  cleared : List Nat := []
  deriving DecidableEq, Repr

/-! ### Control core (chapter 09) -/

/-- A bulk instruction in progress: 0 BMOVE, 1 BSCAN, 2 BCRC. -/
structure Bulk where
  op : Nat
  deriving DecidableEq, Repr

/-- A control-core thread (R380, R381, R388 to R392). -/
structure Thread where
  /-- 0 running, 1 waiting, 2 halted, 3 faulted. Reset: halted, there is no firmware -/
  st : Nat := 2
  /-- G0 to G31 (G0 reads as zero) -/
  g : SMap W64 := []
  pc : Nat := 0
  /-- result of the last EWAIT -/
  ewait : Nat := 0
  /-- priorities of the handlers running, innermost first (R389) -/
  handlers : List Nat := []
  /-- protection region (R381) -/
  region : List (Nat × Nat) := []
  bulk : Option Bulk := none
  /-- fault pending: 1 protection, 2 bulk operand, 3 lake error -/
  fault : Nat := 0
  /-- module slot whose callback runs, and callback index -/
  modl : Option (Nat × Nat) := none
  deriving DecidableEq, Repr

/-- Control core state. -/
structure Cc where
  threads : SMap Thread := []
  sram : SMap Byte := []
  /-- 0 running, 1 reloading, 2 halted, 3 fault. Reset: halted -/
  run : Nat := 2
  /-- mailbox slot states (R384) -/
  mbx : SMap Nat := []
  /-- module callbacks that wait for a thread: slot and callback index -/
  calls : List (Nat × Nat) := []
  /-- firmware-tracked records -/
  recs : SMap FwRec := []
  /-- firmware-tracked admission queue: request indices -/
  admq : List Nat := []
  deriving DecidableEq, Repr

/-! ### Sampler masks, near memory (chapters 10 and 11) -/

/-- A mask id (R411, R412). -/
structure Mask where
  stall : Nat := 0
  staged : Option Nat := none
  page : Option Nat := none
  blocks : Nat := 0
  /-- FT of the first COMMIT -/
  first : Nat := 0
  /-- pages replaced by a COMMIT, with its FT, waiting for older steps (R412) -/
  old : List (Nat × Nat) := []
  /-- RELEASE taken -/
  releasing : Bool := false
  deriving DecidableEq, Repr

/-- An in-bank descriptor (R459). -/
structure PimDesc where
  op : Nat
  scope : Nat
  resume : Bool
  chan : Nat
  bank : Nat
  a : Nat
  b : Nat
  c : Nat
  d : Nat
  count : Nat
  dbank : Nat
  maskId : Nat
  maskStall : Nat
  event : Nat
  post : Bool
  raw : Bytes
  deriving DecidableEq, Repr

/-- A queued or running in-bank command. -/
structure PimRun where
  id : Nat
  desc : PimDesc
  running : Bool := false
  /-- index of the row operation in progress -/
  index : Nat := 0
  /-- a row operation runs since this FT -/
  since : Option Nat := none
  /-- status other than OK with which it ends; 4 while an abort waits for the row operation -/
  status : Nat := 0
  /-- all row operations are complete -/
  finished : Bool := false
  /-- accesses to its rows that were waiting at its GO: they precede it (R458) -/
  before : List Instr := []
  deriving DecidableEq, Repr

/-- Near-memory state. -/
structure Nmc where
  /-- lake bytes; cold reset treats them as empty (R551) -/
  lake : SMap Byte := []
  /-- lake directory (R261) -/
  dir : SMap Entry := []
  /-- pause-area slots of each directory record's pages (R260, R261) -/
  dirSlots : SMap (List Nat) := []
  /-- copy of the request generations (R260) -/
  dirGen : SMap Nat := []
  /-- KV layout of each paused conversation's pages (R171) -/
  dirLayout : SMap Nat := []
  /-- the directory of the installed store in force (R157) -/
  store : List StoreSec := []
  /-- in-bank queue and running commands, oldest first (R456, R457) -/
  q : List PimRun := []
  nextId : Nat := 0
  /-- die temperatures -/
  temp0 : Int := 0
  temp1 : Int := 0
  /-- HANDSHAKE channels whose refresh is pending (R468) -/
  refresh : List Nat := []
  /-- FT of the last refresh of each channel, plus one -/
  lastRefresh : SMap Nat := []
  /-- SCHEDULED channels refreshed in the frame in force (R466) -/
  refreshed : List Nat := []
  /-- dies whose burst has been served: row operations resume (R468) -/
  burst : List Nat := []
  /-- FT since which a channel carries in-bank work, plus one (NMC_BUSY) -/
  busyAt : SMap Nat := []
  deriving DecidableEq, Repr

/-! ### Security module (chapter 15) -/

/-- A session of a request channel (R594). -/
structure Session where
  /-- 0 none, 1 User, 2 CO -/
  role : Nat := 0
  ident : Nat := 0
  /-- FT of the last command -/
  last : Nat := 0
  /-- outstanding challenge and its FT -/
  challenge : Option (Bytes × Nat) := none
  /-- SECM_RESULT.STATUS and BUSY of the channel -/
  status : Nat := 0
  busy : Bool := false
  /-- SECM_RSP -/
  rsp : Bytes := []
  /-- SECM_ARG of channel 1 (channel 0's is in the registers) -/
  arg : Bytes := []
  /-- command taken while the key store is being erased (R592) -/
  queued : Option Instr := none
  deriving DecidableEq, Repr

/-- The cells that a non-volatile write pulse changes (R563, R564): lifecycle word, counters, raises used, CO banks. -/
structure NvCells where
  lc : Nat
  ctr : SMap Nat
  ctrUse : SMap Nat
  banks : List (List Bytes × Bool)
  deriving DecidableEq, Repr

/-- SECM state. -/
structure Secm where
  /-- 0 SELFTEST, 1 READY, 2 ERROR, 3 ZEROISING -/
  st : Nat := 0
  /-- lifecycle word 0x1, 0x3, 0x7, 0xF. Reset: kept; a new part is BLANK -/
  lc : Nat := 1
  /-- the HUK has been destroyed (R591) -/
  hukGone : Bool := false
  debugOpen : Bool := false
  chans : SMap Session := []
  /-- signing slots: public key; slot 0 is in fuses -/
  sign : SMap Bytes := []
  wrap : SMap Bytes := []
  user : SMap Bytes := []
  /-- CO bank sets: hashes, and the set's valid word -/
  banks : List (List Bytes × Bool) := []
  /-- consecutive failures by identity byte -/
  fails : SMap Nat := []
  locked : List Nat := []
  /-- anti-rollback counters and raises used, by kind index 0 to 4 -/
  ctr : SMap Nat := []
  ctrUse : SMap Nat := []
  tamperCause : Nat := 0
  tamperCount : Nat := 0
  /-- a tamper entry is to be logged after release (R614) -/
  tamperLog : Bool := false
  /-- tamper cause waiting for the erase to complete (R613) -/
  tamperWait : Option Nat := none
  /-- the erase of wrap and user slots is in progress since this FT -/
  erasing : Option Nat := none
  /-- an erase interrupted by power loss is pending (R612) -/
  erasePending : Bool := false
  /-- what waits for the erase, and its channel: 1 ZEROISE, 2 LC_ADVANCE to RETIRED, 3 DEBUG_UNLOCK -/
  after : Option (Nat × Nat) := none
  /-- volatile keys present -/
  ksk : Bool := false
  dak : Bool := false
  dtk : Bool := false
  imgKey : Bool := false
  /-- DRBG draws so far, requests since reseed and FT of the reseed -/
  draws : Nat := 0
  requests : Nat := 0
  reseedAt : Nat := 0
  drbg : Bool := false
  /-- seeds in the pool (R610) -/
  pool : Nat := 0
  poolDraws : Nat := 0
  /-- self-tests passed since the last cold reset -/
  tested : Bool := false
  /-- PLAIN_DIGEST of the last image of each kind to reach DONE -/
  digests : SMap Bytes := []
  /-- write pulses not known to have ended, in order: the FT of each one's end and the cells before it (R564) -/
  nvOld : List (Nat × NvCells) := []
  deriving DecidableEq, Repr

/-! ### Images, log, reset (chapters 04, 13, 14) -/

/-- An image header (R137). -/
structure ImgHdr where
  kind : Nat := 0
  encrypted : Bool := false
  member : Bool := false
  advance : Bool := false
  sections : Nat := 0
  chip : Nat := 0
  stall : Nat := 0xFF
  frames : Nat := 0
  version : Nat := 0
  topo : Word := 0
  bundle : W64 := 0
  members : Nat := 0
  iv : Bytes := []
  digest : Bytes := []
  signKey : Nat := 0
  wrapKey : Nat := 0
  deriving DecidableEq, Repr

/-- A section-table entry (R138). -/
structure SecEnt where
  type : Nat
  encrypted : Bool
  first : Nat
  count : Nat
  length : Nat
  inst : Nat
  schema : Nat
  crc : Word
  reserved : Bool
  deriving DecidableEq, Repr

/-- Loader state (R156). -/
structure Img where
  /-- IMG_STAT.STATE -/
  st : Nat := 0
  hdr : ImgHdr := {}
  secs : List SecEnt := []
  /-- frames as stored, in order -/
  frames : List Bytes := []
  /-- plaintext of each section but the signature, once check 12 has passed -/
  plains : List Bytes := []
  /-- source of the load (IMG_CTL.SRC) -/
  source : Nat := 0
  /-- frames of the source read so far, or received from the root -/
  pos : Nat := 0
  /-- a boot image from flash: AUTO is implied (R156) -/
  boot : Bool := false
  /-- root: member being forwarded: chip, next frame index, frames (R152) -/
  fwd : Option (Nat × Nat × Nat) := none
  /-- root: the bundle's end has been met -/
  ended : Bool := false
  /-- loader's drains: stall mask -/
  drains : Word := 0
  /-- deadline FT of each drain, plus one: host's by stall, loader's by 32 + stall (R169) -/
  drainAt : SMap Nat := []
  /-- commit FT armed by IMG_ARM -/
  armed : Option Nat := none
  /-- root: bundle whose reports are counted, its MEMBERS, chips reported INSTALLED, FT of the first report -/
  bundleId : W64 := 0
  members : Nat := 0
  reports : List Nat := []
  firstReport : Option Nat := none
  /-- the control core reloads (R166) -/
  reloading : Bool := false
  /-- in HOLD, the loader waits for the root to forward its first image (R149) -/
  fromRoot : Bool := false
  /-- the bundle in progress: of the first member header read, or of the frames the root forwards (R153) -/
  bundleNow : Option W64 := none
  /-- the second directory of the installed store (R157) -/
  store : List StoreSec := []
  deriving DecidableEq, Repr

/-- A trouble-log entry (R542). -/
structure LogEntry where
  ft : Nat
  code : Nat
  sev : Nat
  stall : Nat
  seq : Nat
  args : List Nat
  deriving DecidableEq, Repr

/-- Trouble log (R542 to R546). -/
structure Log where
  /-- ring contents by index -/
  ring : SMap LogEntry := []
  head : Nat := 0
  tail : Nat := 0
  unread : Nat := 0
  seq : Nat := 0
  dropped : Nat := 0
  frozen : Bool := false
  deriving DecidableEq, Repr

/-- Reset unit (chapter 14). -/
structure Rst where
  /-- block of the release order in progress, 0 none (RST_STAT.PHASE). Reset: 1, straps first -/
  phase : Nat := 1
  /-- the release in progress is a cold one -/
  cold : Bool := true
  /-- straps have been sampled since the cold release -/
  sampled : Bool := false
  /-- FT at which the block in progress may be ready (R557, R558). Reset: 256, the start of the SECM self-test -/
  readyAt : Nat := 256
  /-- COLD_RST_N, and WARM_RST_N, has been low since its reset (R560) -/
  pinHeld : Bool := false
  warmHeld : Bool := false
  /-- a reset is in force and a low pin keeps its release from beginning -/
  waiting : Bool := false
  /-- PERST# is asserted -/
  perst : Bool := false
  /-- level of the STRAP_ROOT pin, as last sampled; the snapshot of R577 is cleared by a cold reset, the pin stays -/
  rootPin : Bool := false
  /-- cause bits of the reset in progress -/
  causes : BitVec 13 := 0
  /-- farewell in progress: deadline FT (R554) -/
  farewell : Option Nat := none
  /-- warm reset taken and not yet applied -/
  warmTaken : Bool := false
  /-- NV pulse in progress until this FT (R563) -/
  nvUntil : Option Nat := none
  /-- causes held by the pulse -/
  nvHeld : BitVec 13 := 0
  /-- held causes to log as 0x0103 after release -/
  nvLog : BitVec 13 := 0
  /-- release FTs of the last cold resets other than POR, in AON cycles, newest first (R565) -/
  coldTimes : List Nat := []
  safeHold : Bool := false
  /-- block reset in progress: target and timeout FT -/
  block : Option (Nat × Nat) := none
  /-- domain that a block reset takes OFF and ON (R571) -/
  blockDom : Option Nat := none
  /-- watchdog count began at this FT -/
  wdtAt : Option Nat := none
  /-- a REJOIN is owed once the configuration is rebuilt (R582) -/
  rejoin : Bool := false
  /-- THERMAL release waits for the temperature (R570) -/
  thermalWait : Bool := false
  /-- fast cycles since power-on; eight are an AON cycle (R565) -/
  aon : Nat := 0
  deriving DecidableEq, Repr

/-! ### What leaves the chip -/

/-- Everything the chip sends or shows outside, in order. (DEDUCED, log 25; DESIGN CHOICE, log 79) -/
inductive Emit
  /-- a member's confirmation of a step's commit, to the head chip (R241) -/
  | confirm (dst aisle step : Nat)
  /-- a flit on a Decziry port -/
  | flit (port : Nat) (flit : Bytes)
  /-- link-level symbol: 0 replay request, 1 acknowledgement, 2 credit -/
  | linkSym (port kind vc set n : Nat)
  /-- an Ethernet frame: port, bytes without FCS, SFD FT -/
  | frame (port : Nat) (frame : Bytes) (ft : Nat)
  /-- a DMA write to host memory by a function -/
  | hostWrite (src : Src) (addr : W64) (data : Bytes)
  /-- a DMA read request -/
  | hostRead (src : Src) (addr : W64) (len : Nat)
  /-- an MSI-X signal: function, vector -/
  | msix (src : Src) (vec : Nat)
  /-- an AER report: function -/
  | aer (src : Src)
  /-- completion of a host access: data and EP bit -/
  | complete (src : Src) (data : Bytes) (ep : Bool)
  /-- Unsupported Request completion -/
  | ur (src : Src)
  /-- HALT_OUT level -/
  | halt (level : Bool)
  /-- SMBus block read data -/
  | smb (data : Bytes)
  /-- TAP data register -/
  | tap (data : Word)
  /-- PCI Express link state: 0 L0, 1 L1, 2 Detect -/
  | pcie (state : Nat)
  deriving DecidableEq, Repr

/-! ### The chip -/

/-- The whole chip. -/
structure State where
  /-- fabric time (R104) -/
  ft : Nat := 0
  /-- registers by BAR0 offset; an unlisted one reads `regReset` -/
  regs : SMap Word := []
  /-- bits that the device has set in the fast cycle of the first component (R11): register and bit -/
  setNow : Nat × List (Nat × Nat) := (0, [])
  /-- the registers that the control core has written in a fast cycle, latest first, with what they then hold (R625) -/
  ccNow : Nat × List (Nat × Word) := (0, [])
  /-- fused identity: serial number, stepping, part X -/
  serial : W64 := 0
  stepping : Nat := 0
  partX : Bool := false
  /-- strap snapshot (R577) -/
  straps : Straps := ⟨false, false, 0, false, 0, false, 0, 0⟩
  /-- GPIO pin levels -/
  gpio : BitVec 8 := 0
  rst : Rst := {}
  doms : SMap Dom := []
  clk : Clk := {}
  fab : Fab := {}
  spg : Spg := {}
  conf : Conf := {}
  chans : SMap Chan := []
  tills : SMap Till := []
  tillNow : SMap TillNow := []
  rings : SMap Ring := []
  rtb : SMap Entry := []
  side : SMap Side := []
  /-- 8-bit generations by kind·2^24 + index, 1 at first use (R191) -/
  gens : SMap Nat := []
  /-- latched words of an RTB entry read (chapter 06, register detail) -/
  rtbLatch : SMap Word := []
  /-- latched high words of RO pairs and till fields, by offset (R226, R624) -/
  pairLatch : SMap Word := []
  pfx : SMap PfxNode := []
  /-- pond pages that hold a stall's prefix nodes, 128 nodes each -/
  pfxPages : SMap (List Nat) := []
  /-- pond pages that hold a stall's page-list blocks, 128 blocks each, and the blocks of each request's page list, in
  64-byte units of pond (R246, R647) -/
  listPages : SMap (List Nat) := []
  listBlocks : SMap (List Nat) := []
  /-- head chip's counts of member stalls, by chip·32 + stall (R242) -/
  free : SMap Free := []
  /-- pond pages allocated: page to owner stall + 1 -/
  pageOwner : SMap Nat := []
  /-- pond bytes; cold and warm reset clear them -/
  pond : SMap Byte := []
  /-- poisoned 64-byte units of pond (R75) -/
  poison : SMap Nat := []
  admq : List AdmCmd := []
  /-- FT of the next admission slot (R288) -/
  admNext : Nat := 0
  steps : List Step := []
  aisles : SMap Aisle := []
  batches : List Batch := []
  batchNum : Nat := 0
  fixed : Fixed := {}
  wks : Wks := {}
  cc : Cc := {}
  masks : SMap Mask := []
  /-- adapter cache: stall·65,536 + adapter to last use + 1 -/
  adps : SMap Nat := []
  /-- adapter fetches in progress: stall, adapter, and the FT at which it can be complete -/
  adpFetch : List (Nat × Nat × Nat) := []
  /-- pond pages of each cached adapter, by the same key (R374) -/
  adpPages : SMap (List Nat) := []
  /-- pond copies of PINNED models, by stall·256 + model (R366) -/
  pinPages : SMap (List Nat) := []
  nmc : Nmc := {}
  secm : Secm := {}
  img : Img := {}
  log : Log := {}
  /-- register accesses and received packets waiting for a domain, 12 for AON, oldest first (R622, R83) -/
  heldAcc : List (Nat × Instr) := []
  /-- the MODEL's own: free values drawn so far -/
  freshN : Nat := 0
  /-- everything sent so far -/
  out : List Emit := []
  /-- commands waiting, first in first out -/
  pending : List Instr := []
  deriving DecidableEq, Repr

/-- The chip right after the release of a power-on cold reset, before its straps are sampled: every switched
domain OFF (R557), every link in DETECT (R576), HALT_OUT asserted (R540), RST_CAUSE showing POR (R567). (DESIGN CHOICE, log 5) (DESIGN CHOICE, log 6) -/
def State.reset : State :=
  { regs := [(0x00010000, 1)], rst := { causes := 1 } }

end Sys2Proof.Machine
end

