-- ==== Sys2Proof/WellFormed.lean ====
section
/-! DEFINITION. Which commands can reach the chip: every operand within the range its wires or its
structure can carry (R13, R15, R43, R474, R620). No check here judges content a rule gives an effect. -/
namespace Sys2Proof

/-- An 80-byte flit (R43). -/
abbrev flitOk (f : Bytes) : Bool := f.length == 80

/-- A fetched or delivered structure of a fixed size, when it arrives. -/
abbrev sizeOk (n : Nat) : Option Bytes → Bool
  | none => true
  | some b => b.length == n

/-- A VF is one of 32. -/
abbrev srcOk : Src → Bool
  | .vf n => n < 32
  | _ => true

/-- An aligned offset in the BAR0 of the function that makes the access (R620, R626). -/
abbrev offOk (c : Src) (o : Nat) : Bool :=
  match c with
  | .vf n => n < 32 && o < 0x10000
  | _ => o < 0x4000000

/-- A VF reaches the window of its own stall only (R221): VF n + 1 is source `vf n` and stall n. -/
abbrev ownWindow (c : Src) (stall : Nat) : Bool := match c with | .vf n => n == stall | _ => true

/-- Every operand is one the hardware can carry. (DESIGN CHOICE, log 2) -/
def Instr.wf : Instr → Bool
  -- Ethernet ports (R474)
  | .frameSfdReceive p _ _ | .springMatch p | .springOperation p | .springLdComplete p | .triggerDecision p
  | .triggerDeliver p | .rxqDb p _ | .txqDb p _ | .egressTransmitStart p
  | .portLinkChange p _ => p < 2
  | .hostFrameTransmit p d _ => p < 2 && d.length == 16
  | .fcsVerdict p d => p < 2 && d.length == 16
  | .tokenArrival a _ _ | .composeStep a | .stepIssue a | .stepEnd a _ | .sampleComplete a _ _ => a < 64
  | .stepCommitConfirm a _ c => a < 64 && c < 256
  | .leaseGrant l _ => l < 64
  | .spgRuleEnWrite j _ => j < 8
  -- links (R31)
  | .linkEnWrite p _ | .linkRetrainWrite p _ | .linkFarEndDetect p | .linkSymbolLock p | .linkDeskewDone p
  | .measureComplete p | .linkTrainingTimeout p | .echo p _ _ | .hello p _ | .laneLockLoss p
  | .keepaliveTimeout p | .flitCrcError p | .replayRequest p _ | .linkAck p _ | .discover p _ | .assign p _
  | .unassignedChipSeen p _ | .clkStatus p _ | .ftReq p | .ftSet p _ _ | .ftCheck p _ => p < 8
  | .abandonedFlit p v t | .creditReturn p v t _ => p < 8 && v < 8 && t < 2
  | .flitReceive p t f => p < 8 && t < 2 && flitOk f
  | .pw fs _ | .rd fs | .rdr fs => !fs.isEmpty && fs.all flitOk
  | .pwack f => flitOk f
  | .farFault b | .wake b | .rowMask b | .chipLost b => b.length == 64
  | .pwackSend c s | .routeHoldRelease s c => c < 256 && s < 32
  -- power (R113)
  | .idleTimerExpire d | .pwrTransitionComplete d | .domainReloadComplete d _ => d < 12
  | .domainWake d s => d < 12 && s < 8
  | .thermalSample t => t.length == 8
  -- register and memory apertures (R7, R620, R627, R630)
  | .registerAccessWake c o _ | .registerAccessOff c o _ | .registerWrite c o _ => offOk c o && o % 4 == 0
  | .undecodedAccess c o _ => offOk c o
  | .bar2Write o d => 1 ≤ d.length && d.length ≤ 256 && o + d.length ≤ 2 ^ 27
  | .bar2Read o n _ => 1 ≤ n && n ≤ 256 && o + n ≤ 2 ^ 27
  | .bar4Write o d => o + d.length ≤ 2 ^ 36
  | .bar4Read o n _ => o + n ≤ 2 ^ 36
  | .imageFrameFetched f => sizeOk 4096 f
  -- stall windows and channels (R13)
  | .chCreate s c | .ringCreate s c => s < 32 && srcOk c && ownWindow c s
  | .dmaError c | .safeClr c => srcOk c
  | .stallDrained s | .chDestroy s _ | .chModify s _ | .sqDb s _ | .cqDb s _ | .tillSnap s _
  | .batchStart s | .ringDb s _ | .ringDestroy s _ | .rstBlockStall s => s < 32
  | .adapterFetchComplete s a => s < 32 && a < 65536
  | .commandFetch c e => c < 4096 && sizeOk 64 e
  | .queueDmaFail c | .completionPost c | .coalesceTimer c | .budgetPeriodStart c | .submit c _ | .append c _
  | .cancel c | .pause c | .resume c | .close c | .setDeadline c | .batch c _ | .fence c | .fenceComplete c
  | .adopt c => c < 4096
  | .cancelEffect r | .supersedeEffect r | .generationFinal r | .rtbIdleExpire r | .pauseComplete r
  | .resumeComplete r _ => r < 2 ^ 24
  | .ringDmaFail r => r < 8192
  | .proxyRelease _ r => r < 4096
  | .stepRecordReceive r => !r.isEmpty
  -- cores and work items (R325, R331)
  | .coreIdle c | .kernelStart c | .kernelComplete c _ | .watchdogTrip c | .coreStoreEcc c
  | .windowFillComplete c => c < 68
  | .workItemReady w => w < 4096
  | .jobFault _ w rs p => w < 4096 && rs.all (· < 64) && p < 16384
  | .evtPost f | .evtClear f => f < 1024
  | .epost t f | .eclr t f | .ewait t f => t < 4 && f < 1024
  | .bmove t | .bscan t | .bcrc t | .bulkUnitComplete t _ | .interruptTake t | .callbackFault t _ => t < 4
  | .mbxDbPost k | .mbxDbFree k | .mbxInfo k | .moduleCtl k | .moduleMsg k _ | .powerSet k | .fwRecord k => k < 4
  | .admBlock _ c _ => c < 4096
  -- near memory (R440)
  | .handshakePreempt d | .dieTempCross d _ => d < 2
  | .refreshDue c => c < 16
  | .lakeAccess c o w _ => c < 8 && o < 2 ^ 35 && (match w with | none => true | some b => o + b.length ≤ 2 ^ 35)
  -- host link, security (R507, R594)
  | .vfFlr v => v < 32
  | .strapSample t => t.boot < 4 && t.tick < 4 && t.smb < 4 && t.cid < 256
  | .secmStatus c | .selftest c _ | .authChallenge c | .authResponse c | .logout c | .sessionTimeout c | .attest c
  | .random c | .provisionSlot c | .clearSlot c | .lcProvision c | .lcAdvance c | .ctrRaise c | .debugUnlock c
  | .zeroise c => c < 2
  | .tamperDetect c => c < 8
  | .selftestFail t _ => t < 256
  -- commands with no operand, or whose operands carry no range
  | .triggerEnterAdmission | .ptpCmdLoad | .ptpMappingActivate | .egressPatch | .egrLdTemplate | .egrLdMap
  | .egrLoadCommit _ | .spgBind | .spgUnbind | .fabFarqHeadWrite _ | .fabDiscStart | .discoveryBegin | .report _
  | .discoveryComplete | .staged _ | .epochArm _ | .epochCommit | .rejoin _ | .rejoinSend | .imgData _
  | .imgReport _ | .imgArm _ | .imgAbort _ | .stallReset _ | .reset _ | .clockLocked | .upstreamClockDepart
  | .holdoverSwitch | .holdoverTimeout | .haltHoldExpire | .refclkLoss | .refclkReturn | .slewStep | .tickBoundary
  | .delayListProcess | .deadline | .deferStart | .ttlPause | .ttlNode | .prewarm | .timedWork | .drain | .fwTimer
  | .quietDeadlock | .pwrReq _ | .imgStart _ | .imgActivate | .imgCtlAbort | .imageStaged | .imgDrainWrite _
  | .installComplete | .bundleCommit | .bundleTimeout | .admissionDecision | .fwAdmissionTimeout _ | .admPost _ _ _ _
  | .proxyStage _ _ | .cycleStart | .slotStart | .cycleRestart | .poolSlotFree | .wksSubmitGo _ | .dlyInsert _
  | .dlyRemove _ | .timerSet _ _ _ | .maskStage | .maskCommit | .maskRelease | .pimCmdGo | .pimCmdAbort | .pimZero _
  | .pimCopy _ | .pimNot _ | .pimAnd _ | .pimOr _ | .pimMaj3 _ | .pimXor _ | .pimXfer _ | .pimMaskout _
  | .pimCommandStart _ | .rowOperationComplete _ | .pimCommandComplete _ | .bankFrameStart | .pcieLinkChange _ _
  | .aspmL1Entry | .l1Exit | .pfFlr | .smbSerial _ | .smbTemp _ | .smbResetCause _
  | .smbLogSummary _ | .smbPower _ | .smbFt _ | .smbWake _ _ | .bypass | .idcode | .samplePreload | .extest | .clamp
  | .highz | .coreRepair _ | .repairComplete _ | .haltCtlClear | .haltCtlForce | .haltEnWrite _ | .logHeadWrite _
  | .logUnfreeze | .por | .pinCold | .pinWarm | .pciePerst | .wdtExpire | .swCold | .swWarm | .wdtKick _
  | .rstFabGo _ | .warmResetTaken | .farewellEnd | .nvPulseEnd | .blockReady | .releaseComplete | .rstBlockEgr
  | .rstBlockCcr | .quiesceTimeout | .zeroiseEraseComplete | .drbgReseed | .seedPoolRefill _ | .resetPinRise _
  | .perstDeassert | .firmwareReloaded | .pfD3hot => true

end Sys2Proof
end

