-- ==== Sys2Proof/Machine/Ops.lean ====
section
/-! DEFINITION. Operations every block shares: registers, what leaves the chip, the trouble log and
HALT_OUT (chapter 13), device events and control-core interrupts, power domains and wakes (chapter 3). -/
namespace Sys2Proof.Machine

/-! ### The outcome of a command -/

/-- The outcome of a command: the state its effect leaves, the queue as it was. An operand the hardware
cannot carry is a fault. -/
def run (c : Instr) (s t : State) : Host.Outcome State Fault Refusal :=
  if c.wf then .next { t with pending := s.pending } else .fault .operandRange

/-- Apply `f` when `p` holds. -/
abbrev when_ (p : Bool) (f : State → State) (s : State) : State := if p then f s else s

/-- Apply `f` for each element in order. -/
def forEach {α : Type} (l : List α) (f : α → State → State) (s : State) : State := l.foldl (fun s a => f a s) s

/-- Draw a value the specification does not state. -/
def fresh (s : State) : Nat × State := (Config.freeValue s.freshN, { s with freshN := s.freshN + 1 })

/-! ### Registers (R7, R11) -/

/-- A register's stored word as a number. -/
def rd (s : State) (off : Nat) : Nat := (look s.regs off (regReset off)).toNat
/-- Store a register's word. -/
def wr (off v : Nat) (s : State) : State := { s with regs := put s.regs off (w32 v) (regReset off) }
/-- Bits of a stored register. -/
def rdf (s : State) (off hi lo : Nat) : Nat := bits (rd s off) hi lo
/-- Replace the bits `hi:lo` of a stored register. -/
def wrf (off hi lo v : Nat) (s : State) : State :=
  wr off (rd s off - rdf s off hi lo * 2 ^ lo + v % 2 ^ (hi + 1 - lo) * 2 ^ lo) s
/-- The device sets one bit: what it sets in a fast cycle is kept for R11. -/
def setBit (off i : Nat) (s : State) : State :=
  { wrf off i i 1 s with setNow := (s.ft, (if s.setNow.1 = s.ft then s.setNow.2 else []) ++ [(off, i)]) }
/-- Clear one bit. -/
def clrBit (off i : Nat) (s : State) : State := wrf off i i 0 s
/-- Count up, saturating at 2^32 - 1. -/
def bumpSat (off : Nat) (s : State) : State := wr off (sat32 (rd s off + 1)) s
/-- Add to a 32-bit counter that wraps. -/
def addWrap (off n : Nat) (s : State) : State := wr off ((rd s off + n) % 2 ^ 32) s
/-- A 64-bit pair at `off` (low word first). -/
def rd64 (s : State) (off : Nat) : Nat := rd s off + rd s (off + 4) * 2 ^ 32
/-- Store a 64-bit pair. -/
def wr64 (off v : Nat) (s : State) : State := wr (off + 4) (v / 2 ^ 32) (wr off (v % 2 ^ 32) s)
/-- A register of stall `s`'s window (R620). -/
abbrev win (stall off : Nat) : Nat := 0x00400000 + stall * 0x10000 + off

/-! ### What leaves the chip -/

/-- It goes over the PCI Express link as a TLP. -/
def Emit.tlp : Emit → Bool
  | .hostWrite .. | .hostRead .. | .msix .. | .ur .. => true
  | .complete src _ _ => src != .cc
  | _ => false

/-- The pins carry it: the boundary-scan port always its own data, every other pin the device's function unless EXTEST,
CLAMP or HIGHZ is in force (R512). -/
def carried (s : State) : Emit → Bool
  | .tap _ => true
  | _ => decide (s.spg.jtag < 3)

/-- Send something out of the chip; a TLP ends the link's idle time (R648). -/
def emit (e : Emit) (s : State) : State :=
  { s with out := if carried s e then s.out ++ [e] else s.out
           spg := if e.tlp then { s.spg with lastTlp := s.ft } else s.spg }

/-- Signal a device event of R508 on the vector HLK_EVTVEC names. -/
def devEvent (e : Nat) (s : State) : State :=
  emit (.msix .pf (rdf s (0x000B0100 + 4 * e) 10 0)) s

/-- Raise control-core interrupt source `i` (R387): its CC_INT_PEND bit. -/
def ccInt (i : Nat) (s : State) : State := setBit 0x000C0010 i s

/-! ### Trouble log and HALT_OUT (R538 to R547) -/

/-- Severity of a code (R547; block 0x14 by chapter 15). Codes of lesser severity are listed; the default
of the remaining documented codes is 2. -/
def sevOf (code : Nat) : Nat :=
  if code ∈ [0x0204, 0x0306, 0x1402, 0x1403, 0x1410] then 3
  else if code ∈ [0x0101, 0x0203, 0x0304, 0x0402, 0x0408, 0x0701, 0x0801, 0x0804, 0x0E02, 0x0E04, 0x0E06,
      0x1206, 0x1301, 0x1502, 0x1616, 0x1619, 0x1701, 0x1401, 0x1407, 0x1408, 0x140B] then 0
  else if code ∈ [0x0103, 0x0201, 0x0301, 0x0406, 0x0409, 0x040A, 0x040B, 0x0602, 0x0603, 0x0604, 0x0730,
      0x0802, 0x0806, 0x0A02, 0x0A03, 0x0E03, 0x0F05, 0x1002, 0x1204, 0x1205, 0x1501, 0x1612, 0x1615, 0x1618,
      0x161A, 0x1702, 0x1404, 0x1406, 0x1409, 0x140A] then 1
  else if 0x13F0 ≤ code ∧ code ≤ 0x13FF then 1
  else 2

/-- LOG_CTL and HALT registers. -/
abbrev rLogCtl : Nat := 0x00050000
/-- HALT_STAT. -/
abbrev rHaltStat : Nat := 0x00070010
/-- HALT_EN. -/
abbrev rHaltEn : Nat := 0x00070014
/-- HALT_CTL. -/
abbrev rHaltCtl : Nat := 0x00070018

/-- Write an entry, or drop it (R544, R545): the log after, and whether the entry was written. -/
def Log.write (l : Log) (e : LogEntry) : Log × Bool :=
  let dflt : LogEntry := ⟨0, 0, 0, 0, 0, []⟩
  if l.unread < 2048 then
    ({ l with ring := put l.ring l.tail e dflt, tail := (l.tail + 1) % 2048, unread := l.unread + 1 }, true)
  else if l.frozen then ({ l with dropped := sat32 (l.dropped + 1) }, false)
  else ({ l with ring := put l.ring l.tail e dflt, tail := (l.tail + 1) % 2048, head := (l.tail + 1) % 2048,
                 dropped := sat32 (l.dropped + 1) }, true)

/-- Raise one event: sequence number, entry, interrupt (R542, R543, R544, R546). Answers whether it was written. -/
def log1 (code stall : Nat) (args : List Nat) (s : State) : State × Bool :=
  let e : LogEntry := ⟨s.ft, code, sevOf code, stall, s.log.seq, args⟩
  let r := s.log.write e
  let t := { s with log := { r.1 with seq := (s.log.seq + 1) % 2 ^ 32 } }
  let irq := r.2 && bit (rd s rLogCtl) 6 && decide (rdf s rLogCtl 5 4 ≤ sevOf code)
  (when_ irq (devEvent 6) t, r.2)

/-- Assert HALT_OUT for a condition (R538): COND, the level and code 0x1702, without the freeze check. -/
def haltSet (c : Nat) (s : State) : State :=
  let s := emit (.halt true) (setBit rHaltStat 8 (setBit rHaltStat c s))
  (log1 0x1702 0xFF [2 ^ c] s).1

/-- Freeze the log when a written entry of this severity does so (R545), and condition 7 (R538). -/
def freezeCheck (code : Nat) (written : Bool) (s : State) : State :=
  if written && !s.log.frozen && bit (rd s rLogCtl) 0 && decide (rdf s rLogCtl 2 1 ≤ sevOf code) then
    let s := (log1 0x1501 0xFF [] { s with log := { s.log with frozen := true } }).1
    when_ (bit (rd s rHaltEn) 7) (haltSet 7) s
  else s

/-- A condition of R538 arises: when its HALT_EN bit is set, HALT_OUT is asserted and 0x1702 logged. -/
def haltRaise (c : Nat) (s : State) : State :=
  if bit (rd s rHaltEn) c then
    let s := emit (.halt true) (setBit rHaltStat 8 (setBit rHaltStat c s))
    let r := log1 0x1702 0xFF [2 ^ c] s
    freezeCheck 0x1702 r.2 r.1
  else s

/-- Log an event (R542 to R546); one of severity 3 is condition 0 (R538), raised directly after it (R543). -/
def logEv (code stall : Nat) (args : List Nat) (s : State) : State :=
  let r := log1 code stall args s
  let s := when_ (sevOf code == 3) (haltRaise 0) r.1
  freezeCheck code r.2 s

/-- Log an event that concerns no stall. -/
abbrev logC (code : Nat) (args : List Nat := []) (s : State) : State := logEv code 0xFF args s

/-- A failed DMA access is reported through AER for a function, and logged (R509). -/
def dmaFail (src : Src) (s : State) : State := logC 0x0702 [] (bumpSat 0x000B0004 (emit (.aer src) s))

/-! ### Power domains (R113 to R127) -/

/-- Domain ids of R113. -/
abbrev dPNA : Nat := 4
/-- PNB. -/
abbrev dPNB : Nat := 5
/-- SEQ. -/
abbrev dSEQ : Nat := 6
/-- LNK. -/
abbrev dLNK : Nat := 7
/-- NMC. -/
abbrev dNMC : Nat := 8
/-- HST. -/
abbrev dHST : Nat := 9
/-- EGR. -/
abbrev dEGR : Nat := 10
/-- CCR. -/
abbrev dCCR : Nat := 11
/-- PWR_REQ. -/
abbrev rPwrReq : Nat := 0x00020008
/-- PWR_HOLD_CG. -/
abbrev rHoldCg : Nat := 0x0002000C
/-- PWR_WAKE. -/
abbrev rPwrWake : Nat := 0x00020010
/-- PWR_THERM. -/
abbrev rTherm : Nat := 0x00020020
/-- PWR_DUTY. -/
abbrev rDuty : Nat := 0x00020024
/-- PWR_POLICYn. -/
abbrev rPolicy (n : Nat) : Nat := 0x00020100 + 4 * n

/-- A domain. -/
def dom (s : State) (d : Nat) : Dom := look s.doms d {}
/-- Store a domain. -/
def setDom (d : Nat) (v : Dom) (s : State) : State := { s with doms := put s.doms d v {} }
/-- Change the spring and egress state. -/
def modSpg (f : Spg → Spg) (s : State) : State := { s with spg := f s.spg }
/-- Change a domain. -/
def modDom (d : Nat) (f : Dom → Dom) (s : State) : State := setDom d (f (dom s d)) s

/-- The domain is ON, at rest and reloaded: usable (R115, R116). 12 stands for AON, which
is always on, 13 for the PCI Express link out of L1 (R648), and 65,536 + t for the instant t. -/
def isOn (s : State) (d : Nat) : Bool :=
  let x := dom s d
  if 65536 ≤ d then decide (d - 65536 ≤ s.ft) else if d = 13 then !s.spg.l1 else 12 ≤ d || (x.st == .on && x.done.isNone && x.reload.isNone && x.via.isNone)

/-- The state's number in PWR_STATE. -/
def PState.num : PState → Nat | .on => 0 | .cg => 1 | .ret => 2 | .off => 3
/-- The state a number names. -/
def PState.ofNum : Nat → PState | 0 => .on | 1 => .cg | 2 => .ret | _ => .off

/-- Transition times of R115. -/
def transFt (a b : PState) : Nat :=
  match a, b with
  | .on, .cg => 1
  | .on, .ret => 64 | .cg, .ret => 64
  | .on, .off => 160 | .cg, .off => 160 | .ret, .off => 160
  | .cg, .on => 13 | .ret, .on => 256 | .off, .on => 3840
  | _, _ => 0

/-- Reload times of R116. -/
def reloadFt (d : Nat) : Nat :=
  if d < 4 then 1600 else match d with
  | 6 => 2048 | 7 => 3200 | 8 => 320000 | 9 => 1600 | 10 => 800 | 11 => 16000 | _ => 0

/-- Command a direct transition of R115 now. -/
def startTrans (d : Nat) (q : PState) (s : State) : State :=
  let x := dom s d
  setDom d { x with src := x.st, st := q, begun := some s.ft, done := some (s.ft + transFt x.st q), idle := 0, byTimer := false } s

/-- A move of R127: direct, or through ON where R115 gives no direct transition. -/
def startMove (d : Nat) (q : PState) (s : State) : State :=
  let x := dom s d
  if x.st = q then s
  else match x.st, q with
    | .ret, .cg | .off, .cg | .off, .ret => modDom d (fun x => { x with via := some q }) (startTrans d .on s)
    | _, _ => startTrans d q s

/-- The reset unit still holds an OFF domain: a release has not come to it (R557), or HST stays OFF with
STRAP_HOSTEN at 0 (R578). -/
def heldOff (s : State) (d : Nat) : Bool :=
  let r := s.rst
  (dom s d).st == .off && (dom s d).done.isNone
    && (r.phase != 0 || r.waiting || r.thermalWait || (d == dHST && !s.straps.hosten))

/-- A transition that an idle timer began in this fast cycle gives way to a wake: it has not happened (R118). -/
def undoExpiry (d : Nat) (s : State) : State :=
  let x := dom s d
  if x.byTimer ∧ x.begun = some s.ft ∧ x.done.isSome then
    setDom d { x with st := x.src, begun := none, done := none, byTimer := false, via := none } s
  else s

/-- A wake reaches a domain (R117, R118, R127): its idle timer restarts and it goes ON. -/
def wakeDom (d : Nat) (s : State) : State :=
  if heldOff s d then s else
  let s := undoExpiry d s
  let x := dom s d
  let s := modDom d (fun x => { x with idle := 0, worked := true }) s
  -- a held request to go below ON is discarded with ERR
  let drop := (match x.held with | some .on => false | some _ => true | none => false) || x.via.isSome
  let s := when_ drop (fun s => setBit rPwrReq 7 (modDom d (fun x => { x with held := none, via := none }) s)) s
  match x.done with
  | none => if x.st = .on then s else startTrans d .on s
  | some _ =>
    if x.st = .on then s
    else if x.st = .cg then modDom d (fun x => { x with wakeAfter := true }) s
    else if s.ft < x.begun.getD 0 + 24 then
      logC 0x0203 [] (modDom d (fun x => { x with st := .on, begun := some s.ft, done := some (s.ft + 13) }) s)
    else modDom d (fun x => { x with wakeAfter := true }) s

/-- A wake source opens domains (R120): PWR_WAKE records it when one of them is not ON. -/
def wakeAll (src : Nat) (ds : List Nat) (s : State) : State :=
  let sleeping := ds.any (fun d => !isOn s d)
  forEach ds wakeDom (when_ sleeping (setBit rPwrWake src) s)

/-- Work touches a domain: its idle count restarts (R124). -/
def touch (d : Nat) (s : State) : State := modDom d (fun x => { x with idle := 0, worked := true }) s

/-- The clusters whose cores a stall owns: core a of CORES sits in cluster a / 16 (R325, R327). -/
def clustersOf (c : StallCfg) : List Nat :=
  (List.range 4).filter (fun k => bits c.cores.toNat (16 * k + 15) (16 * k) != 0)

/-- A stall's record. -/
def stallCfg (s : State) (n : Nat) : StallCfg := look s.conf.stalls n {}

/-- First page of a stall's quota (R647). -/
def quotaBase (s : State) (n : Nat) : Nat := ((List.range n).map (fun i => (stallCfg s i).pondPages)).sum

/-- The pond halves holding a stall's quota (R647). -/
def halvesOf (s : State) (n : Nat) : List Nat :=
  let b := quotaBase s n
  let k := (stallCfg s n).pondPages
  (if k ≠ 0 ∧ b < 8192 then [dPNA] else []) ++ (if k ≠ 0 ∧ 8192 < b + k then [dPNB] else [])

/-- The domains in a WAKE mask's byte (R121). -/
def wakeMask (m : Nat) : List Nat := setBits 8 m

/-- The domain that a BAR0 offset's block sits in (R620): `none` for AON. -/
def domOf (off : Nat) : Option Nat :=
  let b := off / 0x10000
  if b = 0x08 then (if 0x1000 ≤ off % 0x10000 ∧ off % 0x10000 < 0x1800 then some dLNK else none)
  else if b = 0x0A then some dEGR else if b = 0x0B then some dHST else if b = 0x0C then some dCCR
  else if 0x10 ≤ b ∧ b ≤ 0x17 then some dSEQ
  else if b = 0x18 then some dPNA
  else if b = 0x19 ∨ b = 0x1A then some dNMC
  else if 0x20 ≤ b ∧ b < 0x28 then some dSEQ
  else if 0x40 ≤ b ∧ b < 0x60 then some dSEQ
  else none

/-! ### Time -/

/-- The tick length in FT (R111). -/
def tickLen (s : State) : Nat := 8 * 2 ^ s.straps.tick
/-- Microseconds in FT. -/
abbrev us (n : Nat) : Nat := 1600 * n

/-- The AON region, as the domain of a waiting access or packet. -/
abbrev dAON : Nat := 12

/-- The host link in L0, as what a host access that meets L1 waits for (R648). -/
abbrev dL0 : Nat := 13

/-- An instant, as what a waiting command waits for. -/
abbrev dAt (t : Nat) : Nat := 65536 + t

/-- Put a register access or a received packet where it waits for its domain (R622, R83). -/
def await (d : Nat) (c : Instr) (s : State) : State := { s with heldAcc := s.heldAcc ++ [(d, c)] }

end Sys2Proof.Machine
end

