-- ==== Sys2Proof/Machine/Lake.lean ====
section
/-! DEFINITION. The lake: where an offset lies, when its controller can serve an access or run in-bank work, and the
access itself (R440 to R449, R458, R464 to R468). -/
namespace Sys2Proof.Machine

/-- Change the near-memory state. -/
def modNmc (f : Nmc → Nmc) (s : State) : State := { s with nmc := f s.nmc }

/-! ### The installed store (R157) -/

/-- Bytes of a section in force, from an offset. -/
def storeBytes (s : State) (type inst ofs n : Nat) : Bytes :=
  match s.nmc.store.find? (fun x => x.type == type && x.inst == inst) with
  | some x => lookBytes s.nmc.lake (x.ofs + ofs) (min n (x.len - ofs))
  | none => []
/-- A range of the store touches no section of a directory. -/
def storeFree (dir : List StoreSec) (a n : Nat) : Bool :=
  decide (0x700000000 ≤ a ∧ a + n ≤ 0x800000000) && dir.all (fun x => decide (a + n ≤ x.ofs ∨ x.ofs + x.len ≤ a))
/-- Free space of the store for `n` bytes: a free place, or the first place after a section in use. -/
def storeAt (dir : List StoreSec) (k n : Nat) : Option Nat :=
  (Config.storePlace k :: 0x700000000 :: dir.map (fun x => x.ofs + x.len)).find? (fun a => storeFree dir a n)
/-- Put bytes into pages of pond, 8 KiB each. -/
def putPages (ps : List Nat) (b : Bytes) (s : State) : State :=
  { s with pond := ps.zipIdx.foldl (fun m p => putBytes m (8192 * p.1) ((b.drop (8192 * p.2)).take 8192)) s.pond }
/-- Bytes of pages of pond. -/
def pageBytes (s : State) (ps : List Nat) : Bytes := ps.flatMap (fun p => lookBytes s.pond (8192 * p) 8192)


/-- Channel, bank and row of a lake offset (R440). -/
def laneOf (off : Nat) : Nat × Nat × Nat := (off / 2 ^ 13 % 16, off / 2 ^ 17 % 32, off / 2 ^ 22)
/-- The offset of a row. -/
def rowAddr (chan bank row : Nat) : Nat := row * 2 ^ 22 + bank * 2 ^ 17 + chan * 2 ^ 13

/-- Rows of a command's own bank that an operation names: first rows of its ranges (R450). -/
def PimDesc.rows (d : PimDesc) : List Nat :=
  match d.op with
  | 1 => [d.d] | 2 | 3 => [d.a, d.d] | 4 | 5 | 7 => [d.a, d.b, d.d] | 6 => [d.a, d.b, d.c, d.d] | _ => [d.a]

/-- The banks a command works on (R452). -/
def PimDesc.bankIn (d : PimDesc) (chan bank : Nat) : Bool :=
  (d.scope == 2 || chan == d.chan) && (d.scope != 0 || bank == d.bank || (d.op == 8 && bank == d.dbank))

/-- A command names a row. -/
def PimDesc.names (d : PimDesc) (off : Nat) : Bool :=
  let x := laneOf off
  let has (f : Nat) : Bool := decide (f ≤ x.2.2) && decide (x.2.2 < f + d.count)
  d.bankIn x.1 x.2.1 && (((d.op != 8 || x.2.1 == d.bank) && d.rows.any has) || (d.op == 8 && x.2.1 == d.dbank && has d.d))

/-- The channels a command works on. -/
def PimDesc.chans (d : PimDesc) : List Nat := if d.scope = 2 then List.range 16 else [d.chan]

/-- A channel is in HANDSHAKE mode (R462). -/
def handshake (s : State) (c : Nat) : Bool := bit s.conf.nmc.hsMask.toNat c
/-- The die of a channel. -/
def dieOf (c : Nat) : Nat := c / 8
/-- The command works on a HANDSHAKE channel of the die. -/
def PimDesc.onDie (s : State) (d : PimDesc) (die : Nat) : Bool := d.chans.any (fun c => dieOf c == die && handshake s c)
/-- PIM_RDY is low: a row operation runs in a HANDSHAKE channel of the die (R467). -/
def rowBusy (s : State) (die : Nat) : Bool := s.nmc.q.any (fun r => r.since.isSome && r.desc.onDie s die)
/-- A command has started on a HANDSHAKE channel of the die and is not over. -/
def dieWorks (s : State) (die : Nat) : Bool := s.nmc.q.any (fun r => r.running && !r.finished && r.desc.onDie s die)
/-- An all-bank refresh occupies the channel for 176 FT (R447). -/
def refreshing (s : State) (c : Nat) : Bool :=
  let v := look s.nmc.lastRefresh c 0
  v != 0 && decide (s.ft < v - 1 + 176)

/-- The bank-time slot at this instant: record index, class, FT left in it; none without a plan (R464). -/
def slotNow (s : State) : Option (Nat × Nat × Nat) :=
  let rec go : Nat → Nat → List (Nat × Nat) → Option (Nat × Nat × Nat)
    | _, _, [] => none
    | i, t, (len, cls) :: rest => if t < len then some (i, cls, len - t) else go (i + 1) (t - len) rest
  if s.conf.nmc.frame = 0 then none else go 0 (s.ft % s.conf.nmc.frame) s.conf.nmc.slots

/-- The slot class that serves an access class: 0 WEIGHTS, 1 to 3 PAGES, 4 MASK, 5 to 7 HOST (R446, R464). -/
def slotOf (cls : Nat) : Nat := if cls = 0 then 1 else if cls ≤ 3 then 2 else if cls = 4 then 3 else 4

/-- The plan lets an ordinary access of a class start on a SCHEDULED channel (R464, R465). Without a plan every
access is served. -/
def slotServes (s : State) (cls : Nat) : Bool :=
  match slotNow s with
  | none => true
  | some (_, c, left) => (c == slotOf cls || c == 5) && decide (2 ≤ left)

/-- No queued or running in-bank command names a row of the range, but for commands that the access precedes (R458). -/
def rowsFree (s : State) (off n : Nat) (acc : Option Instr) : Bool :=
  (List.range (n / 8192 + 2)).all (fun i =>
    let o := (off / 8192 + i) * 8192
    decide (off + n ≤ o ∧ i ≠ 0) || decide (2 ^ 32 ≤ o) || !s.nmc.q.any (fun r => r.desc.names o && !acc.any r.before.contains))

/-- The controller can serve an ordinary access now. On a HANDSHAKE channel whose die's in-bank commands are under way
an access waits for their preemption (R468). -/
def lakeNow (s : State) (off n cls : Nat) (acc : Option Instr := none) : Bool :=
  let c := (laneOf off).1
  isOn s dNMC && rowsFree s off n acc && !refreshing s c
    && (if handshake s c then !dieWorks s (dieOf c) && !s.nmc.refresh.any (fun x => dieOf x == dieOf c) else slotServes s cls)

/-- Offset, length and class of a waiting lake access. -/
def lakeOf : Instr → Option (Nat × Nat × Nat)
  | .lakeAccess cls off w _ => some (off, (w.map List.length).getD 64, cls)
  | .bar4Write off d => some (off, d.length, 5)
  | .bar4Read off n _ => some (off, n, 5)
  | _ => none

/-- The same for a waiting access that has come as far as the lake, not one held back by the host link (R648). -/
def atLake (p : Nat × Instr) : Option (Nat × Nat × Nat) := if p.1 = dNMC then lakeOf p.2 else none

/-- The waiting access that a channel serves next: the best class, then arrival order (R446, R448). -/
def lakeNext (s : State) (c : Nat) : Option (Nat × Instr) :=
  let l := s.heldAcc.filter (fun p => ((atLake p).map (fun x => (laneOf x.1).1 == c)).getD false)
  (List.range 8).findSome? (fun k => l.find? (fun p => ((atLake p).map (fun x => x.2.2 == k)).getD false))

/-- An access of the class waits behind one that the channel serves first. -/
def lakeBehind (s : State) (off cls : Nat) : Bool :=
  match (lakeNext s (laneOf off).1).bind atLake with
  | some x => decide (x.2.2 ≤ cls)
  | none => false

/-- Single-bit errors corrected and uncorrectable units of an access, outside the rule region (R444, R445): bit 0 of
`ecc` says that the unit is uncorrectable, the bits above count the words corrected. (DESIGN CHOICE, log 71) -/
def lakeEcc (off ecc : Nat) (s : State) : State :=
  if off < 2 ^ 32 then s
  else
    let s := wr 0x00190008 (sat32 (rd s 0x00190008 + ecc / 2)) s
    if ecc % 2 = 0 then s
    else
      let s := if bit (rd s 0x0019000C) 0 then s else wr64 0x00190010 off s
      logC 0x1201 [off % 2 ^ 32, off / 2 ^ 32] (setBit 0x0019000C 0 s)

/-- Serve an ordinary access: a write stores its bytes. -/
def lakeServe (off : Nat) (write : Option Bytes) (ecc : Nat) (s : State) : State :=
  let s := touch dNMC (lakeEcc off ecc s)
  match write with
  | some b => modNmc (fun m => { m with lake := putBytes m.lake off b }) s
  | none => s

/-- A waiting command's domain is ON; a lake access also waits for its controller and its turn. -/
def heldReady (s : State) (p : Nat × Instr) : Bool :=
  match atLake p with
  | some (off, n, cls) => lakeNow s off n cls (some p.2) && lakeNext s (laneOf off).1 == some p
  | none => isOn s p.1

end Sys2Proof.Machine
end

