-- ==== Sys2Proof/Machine/Net.lean ====
section
/-! DEFINITION. The fabric as its users see it: flit headers (R44), routing and transmission (R54 to R61),
control messages (R47 to R52) and notices (R78, R79, R121, R271, R533). -/
namespace Sys2Proof.Machine

/-! ### Links and their registers -/

/-- A link. -/
def link (s : State) (p : Nat) : Link := look s.fab.links p {}
/-- Change the fabric block. -/
def modFab (f : Fab → Fab) (s : State) : State := { s with fab := f s.fab }
/-- Store a link. -/
def setLink (p : Nat) (l : Link) (s : State) : State := modFab (fun b => { b with links := put b.links p l {} }) s
/-- Change a link. -/
def modLink (p : Nat) (f : Link → Link) (s : State) : State := setLink p (f (link s p)) s
/-- A register of link `p`'s block. -/
abbrev rLink (p o : Nat) : Nat := 0x00080100 + 0x40 * p + o
/-- FAB_ERR. -/
abbrev rFabErr : Nat := 0x00080028

/-- CRC-16 with polynomial 0x1021 from 0xFFFF, one byte (R36). -/
def crc16Byte (c : BitVec 16) (b : Byte) : BitVec 16 :=
  let step (c : BitVec 16) : BitVec 16 := if c.msb then (c <<< 1) ^^^ 0x1021#16 else c <<< 1
  step (step (step (step (step (step (step (step (c ^^^ (b.zeroExtend 16 <<< 8)))))))))
/-- CRC-16 of bytes (R36). -/
def crc16 (l : Bytes) : BitVec 16 := l.foldl crc16Byte 0xFFFF

/-! ### Flit headers (R44) -/

/-- The fields of a flit header. -/
structure Hdr where
  type : Nat
  vc : Nat
  poison : Bool := false
  eop : Bool := true
  dst : Nat
  src : Nat
  stall : Nat := 0
  kind : Nat := 0
  seq : Nat := 0
  index : Nat := 0
  gen : Nat := 0
  ofs : Nat := 0
  len : Nat := 63
  ep : Bool := false
  abt : Bool := false
  /-- a reserved field is not zero (R46) -/
  rsv : Bool := false
  deriving DecidableEq, Repr

/-- Read a flit's header. -/
def hdrOf (f : Bytes) : Hdr :=
  let b0 := u8 f 0
  let b3 := u8 f 3
  let b13 := u8 f 13
  let o := u24 f 10
  { type := bits b0 3 0, vc := bits b0 5 4, poison := bit b0 6, eop := bit b0 7, dst := u8 f 1, src := u8 f 2,
    stall := bits b3 4 0, kind := bits b3 7 5, seq := u16 f 4, index := u24 f 6, gen := u8 f 9,
    ofs := bits o 20 0, len := bits b13 5 0, ep := bit b13 6, abt := bit b13 7, rsv := bits o 23 21 != 0 }

/-- Header bytes 0 to 13. -/
def hdrBytes (h : Hdr) : Bytes :=
  [BitVec.ofNat 8 (h.type + 16 * h.vc + 64 * b2n h.poison + 128 * b2n h.eop), BitVec.ofNat 8 h.dst,
   BitVec.ofNat 8 h.src, BitVec.ofNat 8 (h.stall + 32 * h.kind)] ++ leBytes 2 h.seq ++ leBytes 3 h.index
  ++ leBytes 1 h.gen ++ leBytes 3 h.ofs ++ [BitVec.ofNat 8 (h.len + 64 * b2n h.ep + 128 * b2n h.abt)]

/-- A flit of a header and 64 payload bytes, its CRC field zero. -/
def mkFlit (h : Hdr) (payload : Bytes) : Bytes := hdrBytes h ++ zeros 2 ++ fit 64 payload

/-- The payload of a flit. -/
def payload (f : Bytes) : Bytes := slice f 16 64

/-- The flit as it goes on a link: with the CRC of R36 in direct mode, zero there in coded mode. -/
def onLink (coded : Bool) (f : Bytes) : Bytes :=
  let h := f.take 14
  let p := f.drop 16
  h ++ (if coded then zeros 2 else leBytes 2 (crc16 (h ++ p)).toNat) ++ p

/-- The handle a header names: GEN, CHIP unknown in the header so the source's, STALL, KIND, INDEX (R189). -/
def handleOf (gen chip stall kind index : Nat) : Nat :=
  gen * 2 ^ 56 + chip * 2 ^ 48 + stall * 2 ^ 43 + kind * 2 ^ 40 + index

/-! ### Transmission (R37, R54, R55, R57) -/

/-- Buffers of a virtual channel's set at the far end (R54). -/
def credits (vc : Nat) : Nat := match vc with | 0 => 32 | 1 => 16 | _ => 8
/-- Depth of the replay buffer (R37). -/
def replayCap (coded : Bool) : Nat := if coded then 96 else 32

/-- The chip runs from its local oscillator: it is not the root and has locked to no upstream yet (R93). -/
def onLocal (s : State) : Bool := !s.straps.root && s.clk.source == 0

/-- May this held flit go now: a credit, room in the replay buffer, its hold over, the link carrying it. Until a chip
that is not the root has locked, its links pass CTL alone (R93). -/
def canSend (s : State) (l : Link) (q : QFlit) : Bool :=
  decide (look l.used (2 * q.vc + q.set) 0 < credits q.vc) && decide (l.replay.length < replayCap l.coded)
    && decide (q.hold ≤ s.ft) && (q.vc == 3 || !onLocal s)
    && (if q.vc = 3 then l.st == 4 || l.st == 5 || l.st == 6 else l.st == 6 && !l.benched)

/-- The first held flit of each channel and set: the ones that may be next (R57). -/
def heads : List QFlit → List QFlit
  | [] => []
  | q :: t => q :: (heads t).filter (fun r => !(r.vc == q.vc && r.set == q.set))

/-- The flit that takes the next slot (R55): CTL, NOTICE, RSP, REQ, but REQ after waiting three slots. -/
def pick (s : State) (l : Link) : Option QFlit :=
  let c := (heads l.txq).filter (canSend s l)
  let req := c.find? (fun q => q.vc == 0)
  let best := [3, 2, 1, 0].findSome? (fun v => c.find? (fun q => q.vc == v))
  if 3 ≤ l.reqWait then (match req with | some q => some q | none => best) else best

/-- One flit slot of a link in FT, whole ones (R31). -/
def flitSlot (coded : Bool) : Nat := if coded then 3 else 5

/-- A flit of one of this chip's own write streams leaves: its FT is what a hold of R87 counts from. -/
def noteSent (f : Bytes) (s : State) : State :=
  let h := hdrOf f
  if h.type = 1 ∧ h.src = s.fab.chip then
    modFab (fun b => { b with srcStreams := upd b.srcStreams (h.stall * 256 + h.dst) {} (fun z => { z with lastTx := s.ft }) }) s
  else s

/-- Send one flit on the link; one that is not CTL is work of LNK (R124). -/
def sendOne (p : Nat) (q : QFlit) (s : State) : State :=
  let l := link s p
  let s := when_ (q.vc != 3) (touch dLNK) (noteSent q.flit s)
  let waits := q.vc != 0 && (heads l.txq).any (fun r => r.vc == 0 && canSend s l r)
  let l := { l with txq := l.txq.erase q, replay := l.replay ++ [q],
                    used := upd l.used (2 * q.vc + q.set) 0 (· + 1),
                    reqWait := if q.vc = 0 then 0 else if waits then l.reqWait + 1 else l.reqWait }
  addWrap (rLink p 0x18) 1 (emit (.flit p (onLink l.coded q.flit)) (setLink p l s))

/-- Send what may go, at most `n` flits. -/
def pump (p : Nat) : Nat → State → State
  | 0, s => s
  | n + 1, s => match pick s (link s p) with
    | some q => pump p n (sendOne p q s)
    | none => s

/-- Queue a flit on a port and send what may go (R57). -/
def txFlit (p vc set : Nat) (flit : Bytes) (hold : Nat) (s : State) : State :=
  let s := modLink p (fun l => { l with txq := l.txq ++ [⟨vc, set, flit, hold⟩] }) s
  pump p (link s p).txq.length s

/-! ### Routing (R58 to R61) -/

/-- The active entry toward a chip. -/
def route (s : State) (dst : Nat) : Nat := (look s.fab.active dst 0).toNat
/-- The link is in its bundles. -/
def live (s : State) (p : Nat) : Bool := (link s p).st == 6 && !(link s p).benched
/-- The live ports of the bundle in use: PRIMARY, or ALTERNATE when every port of PRIMARY is down. -/
def routePorts (s : State) (dst : Nat) : List Nat :=
  let e := route s dst
  let pr := (setBits 8 (bits e 7 0)).filter (live s)
  if pr.isEmpty then (setBits 8 (bits e 15 8)).filter (live s) else pr
/-- The route is valid and live. -/
def reachable (s : State) (dst : Nat) : Bool := bit (route s dst) 31 && !(routePorts s dst).isEmpty
/-- The buffer set a packet leaves on (R58). On the reserved value 3 it stays on the set it arrived on. (DESIGN CHOICE, log 83) -/
def vcSet (s : State) (dst arrived : Nat) : Nat :=
  match bits (route s dst) 17 16 with | 0 => 0 | 1 => 1 | 2 => 1 | _ => arrived

/-- Until when a posted-write flit waits before it leaves on a port of its bundle: by how much the port is faster than
the slowest member (R60), and until the route it has left has emptied (R88). -/
def pwHold (s : State) (dst p : Nat) : Nat :=
  let slow := ((routePorts s dst).map (fun q => (link s q).hoplat)).foldl max 0
  let pad := slow - (link s p).hoplat
  max (if pad = 0 then 0 else s.ft + pad) (look s.fab.altHold dst 0)

/-- Put a packet's flits on its route: PW stripes over the bundle, others take the lowest live port (R59). -/
def inject (vc set dst : Nat) (flits : List Bytes) (hold : Nat) (s : State) : State :=
  let ps := routePorts s dst
  let pw := (flits.head?.map (fun f => (hdrOf f).type == 1)).getD false
  let one (pf : Nat × Bytes) (s : State) : State :=
    txFlit pf.1 vc set pf.2 (if pw then max hold (pwHold s dst pf.1) else hold) s
  let placed := (flits.zipIdx).map (fun x =>
    (if pw then ps.getD (x.2 % max ps.length 1) 0 else ps.headD 0, x.1))
  forEach placed one s

/-! ### Packets received in part (R60, R70, R90) -/

/-- Flits of one packet share these header fields. -/
def samePacket (a b : Hdr) : Bool :=
  a.type == b.type && a.src == b.src && a.dst == b.dst && a.stall == b.stall && a.seq == b.seq && a.index == b.index
    && a.gen == b.gen && a.kind == b.kind && (a.type == 1 || a.ofs == b.ofs)

/-- The header of a part's first flit. -/
def RxPart.hdr (x : RxPart) : Hdr := hdrOf ((x.flits.head?.map Prod.snd).getD [])
/-- The part's flit with EOP is in. -/
def RxPart.eopIn (x : RxPart) : Bool := x.flits.any (fun f => (hdrOf f.2).eop)
/-- Two ports lead to one chip. -/
def sameFar (s : State) (p q : Nat) : Bool :=
  p == q || ((link s p).nbr.isSome && (link s p).nbr.map Nbr.serial == (link s q).nbr.map Nbr.serial)
/-- Each flit's unit follows the one before, and the last has EOP. -/
def inSequence : List (Nat × Bytes) → Bool
  | [] => false
  | [f] => (hdrOf f.2).eop
  | f :: g :: t => (hdrOf g.2).ofs == (hdrOf f.2).ofs + 1 && inSequence (g :: t)

/-- A packet is whole: closed by an ABT flit (R90), or ended by EOP, and in a striped one no unit is missing and no link
from its sender still owes a replay (R60). (DEDUCED, log 84) -/
def RxPart.whole (s : State) (x : RxPart) : Bool :=
  x.flits.any (fun f => (hdrOf f.2).abt)
    || (x.eopIn && (x.hdr.type != 1
          || (inSequence x.flits && !(List.range 8).any (fun q => (link s q).discarding && sameFar s x.port q))))

/-- Put a flit where it stands in its packet: a posted write's by its unit (R60), another's last. -/
def putFlit (p : Nat) (f : Bytes) : List (Nat × Bytes) → List (Nat × Bytes)
  | [] => [(p, f)]
  | g :: t => if (hdrOf f).type = 1 ∧ (hdrOf f).ofs < (hdrOf g.2).ofs then (p, f) :: g :: t else g :: putFlit p f t

/-- The part that a flit belongs to: a posted write's on any port, another packet's on its own. -/
def partOf (s : State) (p set : Nat) (h : Hdr) : Option RxPart :=
  s.fab.parts.find? (fun x => x.vc == h.vc && x.set == set && samePacket x.hdr h && (h.type == 1 || (x.port == p && x.dead == 0)))

/-- Add a flit to its part, or begin one, with the port it is forwarded on. -/
def addFlit (p set : Nat) (f : Bytes) (fwd : Option Nat) (s : State) : State :=
  let h := hdrOf f
  modFab (fun b => { b with parts := match partOf s p set h with
    | some x => b.parts.map (fun y => if y == x then { x with flits := putFlit p f x.flits, fwd := fwd } else y)
    | none => b.parts ++ [⟨p, h.vc, set, [(p, f)], fwd, 0⟩] }) s

/-- Packets that a port received in part when it goes down are discarded (R90). One that was forwarded awaits its closing
flit; a posted write that ends here is remembered while flits of it are still to come on other ports. -/
def cutParts (p : Nat) (s : State) : State :=
  let cut (x : RxPart) : Bool :=
    x.dead == 0 && !x.whole s && (x.flits.any (fun f => f.1 == p) || (x.hdr.type == 1 && sameFar s x.port p))
  let gone (x : RxPart) : Bool := cut x && x.fwd.isNone && (x.hdr.type != 1 || x.eopIn)
  modFab (fun b => { b with parts := (b.parts.filter (fun x => !gone x)).map (fun x => if cut x then { x with dead := 1 } else x) }) s

/-! ### Notices -/

/-- The payload of a far-fault notice (R78). -/
def faultNotice (cause det srcChip srcStall dst seq handle ft ofs arg : Nat) : Bytes :=
  [0x02, BitVec.ofNat 8 cause, BitVec.ofNat 8 det, BitVec.ofNat 8 srcChip, BitVec.ofNat 8 srcStall,
   BitVec.ofNat 8 dst] ++ leBytes 2 seq ++ leBytes 8 handle ++ leBytes 8 ft ++ leBytes 3 ofs ++ zeros 1
  ++ leBytes 4 arg ++ zeros 32

/-- Deliver a notice that is for this chip: WAKE, FAR_FAULT and CHIP_LOST at once from AON, ROW_MASK through
LNK (R83). -/
def deliverNotice (pl : Bytes) (s : State) : State :=
  match u8 pl 0 with
  | 1 => await dAON (.wake pl) s
  | 2 => await dAON (.farFault pl) s
  | 3 => await dLNK (.rowMask pl) s
  | 4 => await dAON (.chipLost pl) s
  | _ => s

/-- Send a notice to a chip; one that names this chip is taken here. A notice without a live route is dropped
under R61. -/
def sendNotice (dst : Nat) (pl : Bytes) (s : State) : State :=
  if dst = s.fab.chip then deliverNotice pl s
  else if reachable s dst then
    let h : Hdr := { type := 5, vc := 2, dst := dst, src := s.fab.chip, ep := bit s.fab.cur 0 }
    inject 2 (vcSet s dst 0) dst [mkFlit h pl] 0 s
  else logC 0x040A [] (setBit rFabErr 3 s)

/-- A far-fault notice to the source of a write or the issuer of a read. -/
def sendFault (cause target srcStall dst seq handle ofs arg : Nat) (s : State) : State :=
  sendNotice target (faultNotice cause s.fab.chip target srcStall dst seq handle s.ft ofs arg) s

/-- Drop a packet that has no live route (R61). -/
def unreachable (flits : List Bytes) (s : State) : State :=
  let s := logC 0x040A [] (setBit rFabErr 3 s)
  match flits.head? with
  | none => s
  | some f =>
    let h := hdrOf f
    let hd (chip : Nat) := handleOf h.gen chip h.stall h.kind h.index
    if h.type = 1 then sendFault 5 h.src h.stall h.dst h.seq (hd h.src) h.ofs 0 s
    else if h.type = 2 then sendFault 5 h.src h.stall h.dst 0 (hd h.src) h.ofs 0 s
    else if h.type = 3 then sendFault 5 h.dst h.stall h.src 0 (hd h.dst) h.ofs 0 s
    else s

/-- Send a packet by the active table, or drop it under R61. -/
def sendPacket (vc dst arrived : Nat) (flits : List Bytes) (hold : Nat) (s : State) : State :=
  if reachable s dst then inject vc (vcSet s dst arrived) dst flits hold s else unreachable flits s

/-- The payload of a WAKE notice (R79). -/
def wakeNotice (aisle mask : Nat) : Bytes := [0x01, BitVec.ofNat 8 aisle, BitVec.ofNat 8 mask] ++ zeros 61
/-- The payload of a ROW_MASK notice (R271). -/
def rowMaskNotice (aisle cause handle ft : Nat) : Bytes :=
  [0x03, BitVec.ofNat 8 aisle, BitVec.ofNat 8 cause] ++ zeros 5 ++ leBytes 8 handle ++ leBytes 8 ft ++ zeros 40
/-- The payload of a CHIP_LOST notice (R533). -/
def chipLostNotice (lost sender kind causes ft : Nat) : Bytes :=
  [0x04, BitVec.ofNat 8 lost, BitVec.ofNat 8 sender, BitVec.ofNat 8 kind] ++ leBytes 4 causes ++ leBytes 8 ft
  ++ zeros 48

/-! ### Control messages (R47 to R53) -/

/-- The prefix of a control message. -/
structure Ctl where
  sub : Nat
  mode : Nat := 0
  reverse : Bool := false
  noids : Bool := false
  pathLen : Nat := 0
  hop : Nat := 0
  path : Nat := 0
  body : Bytes := []
  deriving DecidableEq, Repr

/-- Read a control message: its 32-byte prefix and its body. -/
def ctlOf (m : Bytes) : Ctl :=
  let b := u8 m 1
  { sub := u8 m 0, mode := bits b 1 0, reverse := bit b 2, noids := bit b 3, pathLen := u8 m 2, hop := u8 m 3,
    path := leNat (slice m 4 24), body := m.drop 32 }
/-- The bytes of a control message. -/
def ctlBytes (c : Ctl) : Bytes :=
  [BitVec.ofNat 8 c.sub, BitVec.ofNat 8 (c.mode + 4 * b2n c.reverse + 8 * b2n c.noids), BitVec.ofNat 8 c.pathLen,
   BitVec.ofNat 8 c.hop] ++ leBytes 24 c.path ++ zeros 4 ++ c.body
/-- Path entry `i` (R47): the OUT and IN ports. -/
def pathOut (path i : Nat) : Nat := bits path (6 * i + 2) (6 * i)
/-- The IN port of entry `i`. -/
def pathIn (path i : Nat) : Nat := bits path (6 * i + 5) (6 * i + 3)
/-- Write the OUT field of entry `i`, which is zero. -/
def withOut (path i p : Nat) : Nat := path + p * 2 ^ (6 * i)
/-- Write the IN field of entry `i`, which is zero. -/
def withIn (path i p : Nat) : Nat := path + p * 2 ^ (6 * i + 3)

/-- Body length of each message (R50 to R52), by the first body bytes where it varies. -/
def bodyLen (sub : Nat) (body : Bytes) : Nat :=
  match sub with
  | 0x11 => 32 + 16 * u8 body 9
  | 0x22 => 64
  | 0x30 => 4128
  | _ => 32
/-- The modes R49 gives a subtype: bits 1:0, and 4 for REVERSE. -/
def modesOf (sub : Nat) : List Nat :=
  match sub with
  | 0x01 | 0x02 | 0x03 | 0x04 | 0x05 | 0x06 => [0]
  | 0x10 | 0x12 | 0x21 | 0x30 | 0x32 | 0x33 | 0x41 => [1]
  | 0x11 => [5]
  | 0x20 | 0x31 => [2, 3]
  | 0x22 => [1, 2, 3]
  | 0x40 => [3]
  | _ => []
/-- The message is one that R53 keeps. -/
def ctlOk (m : Bytes) : Bool :=
  let c := ctlOf m
  (modesOf c.sub).contains (c.mode + 4 * b2n c.reverse) && (c.mode != 1 || decide (c.hop < c.pathLen))
    && decide (m.length ≤ 32 + max 32 ((bodyLen c.sub c.body + 31) / 64 * 64 + 32))

/-- Cut a message into flit payloads of 64 bytes. -/
def chunks64 : Nat → Bytes → List Bytes
  | 0, _ => []
  | n + 1, l => l.take 64 :: chunks64 n (l.drop 64)

/-- The flits of a control packet (R47). -/
def ctlFlits (dst src : Nat) (m : Bytes) : List Bytes :=
  let n := max 1 (cdiv m.length 64)
  ((chunks64 n m).zipIdx).map (fun x =>
    mkFlit { type := 6, vc := 3, dst := dst, src := src, eop := x.2 + 1 == n, len := 63 } x.1)

/-- Send a control packet on a port. -/
def ctlOn (p dst : Nat) (c : Ctl) (s : State) : State :=
  let noids := !s.fab.valid
  let c := { c with noids := noids, body := fit (bodyLen c.sub c.body) c.body }
  let src := if noids then 0 else s.fab.chip
  forEach (ctlFlits (if noids then 0 else dst) src (ctlBytes c)) (fun f => txFlit p 3 0 f 0) s

/-- The recorded chip of an id, at the root (R51). -/
def chipRec (s : State) (id : Nat) : Option ChipRec := s.fab.chips.find? (fun c => c.id == id)
/-- The chip at the far end of a port (R47): as its own messages name it, or as the root's record of its serial number
does; 0 while neither is known. (DESIGN CHOICE, log 83) -/
def farId (s : State) (p : Nat) : Nat :=
  let l := link s p
  let recorded := l.nbr.bind (fun n => (s.fab.chips.find? (fun c => c.serial == n.serial)).map ChipRec.id)
  (l.far.or recorded).getD 0
/-- A LINK message to the far end. -/
def ctlLink (p sub : Nat) (body : Bytes) (s : State) : State :=
  ctlOn p (farId s p) { sub := sub, body := body } s
/-- A PATH message outward along a recorded path. -/
def ctlPath (sub dst : Nat) (path : Nat) (len : Nat) (body : Bytes) (s : State) : State :=
  ctlOn (pathOut path 0) dst { sub := sub, mode := 1, pathLen := len, hop := 0, path := path, body := body } s
/-- A message to a chip by TABLE while a route image is active, else to the root by UP (R48, R49). -/
def ctlUp (sub dst : Nat) (body : Bytes) (s : State) : State :=
  if s.fab.routeActive then
    if reachable s dst then ctlOn ((routePorts s dst).headD 0) dst { sub := sub, mode := 3, body := body } s
    else logC 0x040A [] (setBit rFabErr 3 s)
  else match s.fab.upPort with
    | some p => ctlOn p dst { sub := sub, mode := 2, body := body } s
    | none => s
/-- A PATH message from the root to a recorded chip. -/
def ctlToChip (sub : Nat) (c : ChipRec) (body : Bytes) (s : State) : State :=
  ctlPath sub c.id (leNat c.path) c.pathLen body s

/-- The root chip. -/
abbrev isRoot (s : State) : Bool := s.straps.root

/-- HELLO and CLK_STATUS flags (R50). -/
def clkFlags (s : State) : Nat :=
  b2n (isRoot s) + 2 * b2n s.clk.locked + 4 * b2n (s.clk.source == 4) + 8 * b2n s.clk.slewing
/-- The body of CLK_STATUS (R50). -/
def clkStatusBody (s : State) : Bytes := [BitVec.ofNat 8 s.clk.rank, BitVec.ofNat 8 (clkFlags s)]
/-- Advertise the clock rank and flags on every ACTIVE link (R49, R94). -/
def advertise (s : State) : State :=
  forEach ((List.range 8).filter (fun p => (link s p).st == 6)) (fun p t => ctlLink p 0x03 (clkStatusBody t) t) s

/-! ### Aisles -/

/-- The chain of an aisle, head first. -/
def chain (s : State) (a : Nat) : List (Nat × Nat) := look s.conf.aisles a []
/-- The members of an aisle other than its head. -/
def members (s : State) (a : Nat) : List (Nat × Nat) := (chain s a).drop 1
/-- The aisle of a stall, if any. -/
def aisleOf (s : State) (n : Nat) : Option Nat :=
  let a := (stallCfg s n).aisle
  if a = 0xFF then none else some a
/-- This chip is the head of the aisle. -/
def isHead (s : State) (a : Nat) : Bool := ((chain s a).head?.map (fun p => p.1 == s.fab.chip)).getD false
/-- Send a notice to every member chip of an aisle other than this one. -/
def toMembers (a : Nat) (pl : Bytes) (s : State) : State :=
  forEach (((members s a).map Prod.fst).dedup.filter (· != s.fab.chip)) (fun c => sendNotice c pl) s

end Sys2Proof.Machine
end

