-- ==== Sys2Proof/Machine/Table.lean ====
section
/-! DEFINITION. What every command on requests shares: delay lists (R348 to R356), event flags (R357),
handles and generations (R189, R191), pond pages (R647), completions (R206, R216), tills (R223), output rings
(R429 to R439), row masks (R346, R347), and how a request ends (R234 to R241). -/
namespace Sys2Proof.Machine

/-! ### Delay lists -/

/-- Change the work-item and timer unit. -/
def modWks (f : Wks → Wks) (s : State) : State := { s with wks := f s.wks }
/-- Change the delay lists. -/
def modDly (f : Dly → Dly) (s : State) : State := modWks (fun w => { w with dly := f w.dly }) s

/-- Delay list `n`; 4 is what base firmware keeps for firmware-tracked requests. -/
def dlyList (d : Dly) (n : Nat) : List DlyEntry := match n with | 0 => d.l0 | 1 => d.l1 | 2 => d.l2 | 4 => d.fw | _ => d.l3
/-- Replace delay list `n`. -/
def setDlyList (n : Nat) (l : List DlyEntry) (d : Dly) : Dly :=
  match n with | 0 => { d with l0 := l } | 1 => { d with l1 := l } | 2 => { d with l2 := l } | 4 => { d with fw := l } | _ => { d with l3 := l }

/-- Insert in ascending DUE, after entries of equal DUE (R351). -/
def dlySorted (e : DlyEntry) : List DlyEntry → List DlyEntry
  | [] => [e]
  | x :: t => if e.due < x.due then e :: x :: t else x :: dlySorted e t

/-- The list that holds a kind (R348). -/
def listOfKind (k : Nat) : Nat := if k ≤ 2 then 0 else if k ≤ 4 then 1 else if k ≤ 7 then 2 else 3

/-- The lowest entry id that list `n` does not use (R356). -/
def dlyId (d : Dly) (n : Nat) : Nat := (lowest 8192 (fun i => !(dlyList d n).any (fun e => e.id == i))).getD 0

/-- Where an entry of a kind goes (R348): lists 0 and 1 serve request entries, a firmware-tracked request has none.
(DESIGN CHOICE, log 87) -/
def dlyHome (kind arg : Nat) : Nat := if kind ≤ 3 ∧ 4096 ≤ bits arg 23 0 then 4 else listOfKind kind

/-- Insert a device entry (R350, R356); a list holds 8,192 (R13). -/
def dlyIns (kind : Nat) (arg : Nat) (due : Nat) (s : State) : State :=
  modDly (fun d =>
    let n := dlyHome kind arg
    if n ≠ 4 ∧ 8192 ≤ (dlyList d n).length then d
    else setDlyList n (dlySorted ⟨due, kind, false, BitVec.ofNat 64 arg, dlyId d n⟩ (dlyList d n)) d) s

/-- Remove the entries of a kind that name `arg` (R354). -/
def dlyDel (kind : Nat) (arg : Nat) (s : State) : State :=
  modDly (fun d =>
    let n := dlyHome kind arg
    setDlyList n ((dlyList d n).filter (fun e => !(e.kind == kind && e.arg == BitVec.ofNat 64 arg))) d) s

/-! ### Event flags and work-item slots -/

/-- A pool slot. -/
def item (s : State) (k : Nat) : Item := look s.wks.pool k {}
/-- Store a pool slot. -/
def setItem (k : Nat) (i : Item) (s : State) : State := modWks (fun w => { w with pool := put w.pool k i {} }) s
/-- Change a pool slot. -/
def modItem (k : Nat) (f : Item → Item) (s : State) : State := setItem k (f (item s k)) s
/-- Free a pool slot. -/
def freeItem (k : Nat) (s : State) : State := setItem k {} s
/-- A flag is set. -/
def flagSet (s : State) (f : Nat) : Bool := bit (rd s (0x000E1000 + 4 * (f / 32))) (f % 32)
/-- How a flag is armed (EVT_ARMk): 0 none, 1 EVT_POST, 2 FAR_FAULT, 3 CHIP_LOST. -/
def armOf (s : State) (f : Nat) : Nat := bits (rd s (0x000E1100 + 4 * (f / 16))) (2 * (f % 16) + 1) (2 * (f % 16))

/-- A control-core thread. -/
def thread (s : State) (t : Nat) : Thread := look s.cc.threads t {}
/-- Change a thread. -/
def modThread (t : Nat) (f : Thread → Thread) (s : State) : State :=
  { s with cc := { s.cc with threads := put s.cc.threads t (f (thread s t)) {} } }

/-- A parked work item becomes READY, or DLK says how (R334, R361). -/
def unpark (k : Nat) (dlk : Bool) (s : State) : State := modItem k (fun i => { i with st := .ready, dlk := i.dlk || dlk }) s

/-- The flags posted and the flags cleared so far in this fast cycle. -/
def evtNow (s : State) : List Nat × List Nat := if s.wks.evtAt = s.ft then (s.wks.posted, s.wks.cleared) else ([], [])
/-- A wait on the flag that begins now returns at once (R357, R358). -/
def flagOpen (s : State) (f : Nat) : Bool := flagSet s f || (evtNow s).1.contains f

/-- An instruction of a control-core thread retires (CC_RETIREDt). -/
def retire (t : Nat) (s : State) : State := addWrap (0x000C0040 + 4 * t) 1 s
/-- A waiting thread's EWAIT returns. -/
def endWait (t r : Nat) (s : State) : State := retire t (modThread t (fun x => { x with st := 0, ewait := r }) s)

/-- Post a flag: it is set and every waiter is released (R357); a flag cleared in the same fast cycle ends clear
(R358). -/
def postFlag (f : Nat) (s : State) : State :=
  let n := evtNow s
  let s := if n.2.contains f then s else setBit (0x000E1000 + 4 * (f / 32)) (f % 32) s
  let ws := s.wks.waiters.filter (fun w => w.2 == f)
  let s := forEach ws (fun w => endWait w.1 0) s
  let s := modWks (fun w => { w with
    waiters := w.waiters.filter (fun x => x.2 != f), evtAt := s.ft, posted := f :: n.1.filter (· != f), cleared := n.2 }) s
  let parked := s.wks.pool.filter (fun p => p.2.st == .parked && p.2.waitFlag == f)
  forEach parked (fun p => unpark p.1 false) s

/-- Clear a flag (R357, R358). -/
def clearFlag (f : Nat) (s : State) : State :=
  let n := evtNow s
  modWks (fun w => { w with evtAt := s.ft, posted := n.1, cleared := f :: n.2.filter (· != f) })
    (clrBit (0x000E1000 + 4 * (f / 32)) (f % 32) s)

/-- Post every flag armed for an external source (R359). -/
def postArmed (src : Nat) (s : State) : State :=
  forEach ((List.range 1024).filter (fun f => armOf s f == src)) postFlag s

/-- A work item ends before dispatch with no live row: freed, its EVENT posted (R347). -/
def dropItem (k : Nat) (s : State) : State :=
  let i := item s k
  when_ i.post (postFlag i.event) (freeItem k s)

/-- Clear rows of a step in the pool, in its items that wait for a slot, and in the cores running it (R346, R347).
(DEDUCED, log 7) -/
def maskStep (aisle step row : Nat) (s : State) : State :=
  let mine (i : Item) : Bool := i.st != .free && i.aisle == aisle && i.step == step && !i.loose
  let clr (m : W64) : W64 := m &&& ~~~ (1#64 <<< row)
  let ks := s.wks.pool.filter (fun p => mine p.2)
  let s := forEach ks (fun p => modItem p.1 (fun i => { i with rowMask := clr i.rowMask })) s
  let s := modWks (fun w => { w with waiting := w.waiting.map (fun x =>
    if x.1 = aisle ∧ x.2.1 = step then (x.1, x.2.1, x.2.2.1.map (fun i => { i with rowMask := clr i.rowMask }), x.2.2.2) else x) }) s
  let cs := s.wks.cores.filter (fun c => (c.2.item.map (fun k => mine (item s k))).getD false)
  let s := forEach cs (fun c t => modWks (fun w =>
    { w with cores := upd w.cores c.1 {} (fun x => { x with rowMask := clr x.rowMask }) }) t) s
  forEach ks (fun p t =>
    let i := item t p.1
    if i.rowMask == 0 && (i.st == .timed || i.st == .parked || i.st == .ready) && !(t.wks.cores.any (fun c => c.2.item == some p.1))
    then dropItem p.1 t else t) s

/-! ### Handles and generations (R189 to R191) -/

/-- Key of a generation. -/
abbrev genKey (kind idx : Nat) : Nat := kind * 2 ^ 24 + idx
/-- The current generation of an index; 1 at its first use. -/
def genOf (s : State) (kind idx : Nat) : Nat := look s.gens (genKey kind idx) 1
/-- An object is freed: its generation steps, 255 to 1 (R191); a request's is copied to the lake (R260). -/
def bumpGen (kind idx : Nat) (s : State) : State :=
  let g := genOf s kind idx
  let n := if g = 255 then 1 else g + 1
  { s with
    gens := put s.gens (genKey kind idx) n 1
    nmc := if kind = 2 ∧ idx < 4096 then { s.nmc with dirGen := put s.nmc.dirGen idx n 1 } else s.nmc }
/-- GEN of a handle. -/
abbrev hGen (h : Nat) : Nat := bits h 63 56
/-- CHIP of a handle. -/
abbrev hChip (h : Nat) : Nat := bits h 55 48
/-- STALL of a handle. -/
abbrev hStall (h : Nat) : Nat := bits h 47 43
/-- KIND of a handle. -/
abbrev hKind (h : Nat) : Nat := bits h 42 40
/-- INDEX of a handle. -/
abbrev hIdx (h : Nat) : Nat := bits h 23 0

/-! ### Objects -/

/-- A request entry. -/
def ent (s : State) (r : Nat) : Entry := look s.rtb r {}
/-- Change a request entry. -/
def modEnt (r : Nat) (f : Entry → Entry) (s : State) : State := { s with rtb := put s.rtb r (f (ent s r)) {} }
/-- What SEQ keeps beside an entry. -/
def side (s : State) (r : Nat) : Side := look s.side r {}
/-- Change what SEQ keeps beside an entry. -/
def modSide (r : Nat) (f : Side → Side) (s : State) : State := { s with side := put s.side r (f (side s r)) {} }
/-- A channel. -/
def chan (s : State) (c : Nat) : Chan := look s.chans c {}
/-- Change a channel. -/
def modChan (c : Nat) (f : Chan → Chan) (s : State) : State := { s with chans := put s.chans c (f (chan s c)) {} }
/-- A till. -/
def till (s : State) (c : Nat) : Till := look s.tills c {}
/-- Count in a till, and in what the fast cycle under way has counted (R225). -/
def modTill (c : Nat) (f : Till → Till) (s : State) : State :=
  let n := look s.tillNow c {}
  let n := if n.at_ = s.ft then n else { at_ := s.ft, before := till s c }
  { s with tills := put s.tills c (f (till s c)) {}, tillNow := put s.tillNow c { n with since := f n.since } {} }
/-- A ring. -/
def ring (s : State) (i : Nat) : Ring := look s.rings i {}
/-- Change a ring. -/
def modRing (i : Nat) (f : Ring → Ring) (s : State) : State := { s with rings := put s.rings i (f (ring s i)) {} }
/-- A model's section on this chip. -/
def model (s : State) (m : Nat) : Model := look s.conf.models m {}
/-- A model's cost table. -/
def cost (s : State) (m : Nat) : Cost := look s.conf.costs m {}
/-- A kernel record. -/
def kernel (s : State) (k : Nat) : Kernel := look s.conf.kernels k {}
/-- A sampler profile: by model and id. -/
def profile (s : State) (m p : Nat) : Profile := look s.conf.profiles (m * 256 + p) {}

/-- Handle of a request-table entry. -/
def reqHandle (s : State) (r : Nat) : Nat := handleOf (genOf s 2 r) s.fab.chip (ent s r).stall 2 r
/-- Handle of a channel. -/
def chHandle (s : State) (c : Nat) : Nat := handleOf (genOf s 1 c) s.fab.chip (chan s c).stall 1 c
/-- Handle of a ring. -/
def ringHandle (s : State) (i : Nat) : Nat := handleOf (genOf s 3 i) s.fab.chip (ring s i).stall 3 i

/-! ### Pond pages (R647) -/

/-- The pages of a stall's quota. -/
def quota (s : State) (n : Nat) : List Nat := (List.range (stallCfg s n).pondPages).map (quotaBase s n + ·)
/-- A page is free. -/
def pageFree (s : State) (p : Nat) : Bool := look s.pageOwner p 0 == 0
/-- Pages a stall holds. -/
def pagesHeld (s : State) (n : Nat) : Nat := (s.pageOwner.filter (fun p => p.2 == n + 1)).length
/-- Free pages of a stall's quota. -/
def pagesFree (s : State) (n : Nat) : Nat := (stallCfg s n).pondPages - pagesHeld s n
/-- Give a page to a stall. -/
def takePage (n p : Nat) (s : State) : State := { s with pageOwner := put s.pageOwner p (n + 1) 0 }
/-- Allocate the lowest free page of a stall's quota. -/
def allocPage (n : Nat) (s : State) : Option Nat × State :=
  match (quota s n).find? (pageFree s) with
  | some p => (some p, takePage n p s)
  | none => (none, s)
/-- Allocate `k` pages, fewer when the quota ends. -/
def allocPages (n : Nat) : Nat → State → List Nat × State
  | 0, s => ([], s)
  | k + 1, s => match allocPage n s with
    | (some p, s) => let r := allocPages n k s; (p :: r.1, r.2)
    | (none, s) => ([], s)
/-- The lowest run of `k` consecutive free pages of a stall's quota (R431). -/
def findRun (s : State) (n k : Nat) : Option Nat :=
  (quota s n).find? (fun p => (List.range k).all (fun i => pageFree s (p + i) && (p + i) < quotaBase s n + (stallCfg s n).pondPages))
/-- Free a page. -/
def freePage (p : Nat) (s : State) : State := { s with pageOwner := put s.pageOwner p 0 0 }

/-! ### Page lists (R246) -/

/-- A page-list block: 30 page words and the next block. -/
def listBlock (ps : List (Nat × Bool)) (next : Option Nat) : Bytes :=
  fit 60 (ps.flatMap (fun p => leBytes 2 (p.1 % 2 ^ 14 + 2 ^ 14 * b2n p.2)))
    ++ leBytes 4 (match next with | some b => b % 2 ^ 21 | none => 2 ^ 31)

/-- Blocks that a list of `n` pages takes. -/
def listSize (n : Nat) : Nat := cdiv n 30

/-- The 64-byte places of a list of pond pages. -/
def places (ps : List Nat) : List Nat := ps.flatMap (fun p => (List.range 128).map (128 * p + ·))

/-- Take a block for a stall: the lowest place of its list pages, or the first of a new one. (DESIGN CHOICE, log 50) -/
def allocBlock (n : Nat) (s : State) : Option Nat × State :=
  let used := s.listBlocks.flatMap Prod.snd
  match (places (look s.listPages n [])).find? (fun b => !used.contains b) with
  | some b => (some b, s)
  | none => match allocPage n s with
    | (some p, s) => (some (128 * p), { s with listPages := put s.listPages n (look s.listPages n [] ++ [p]) [] })
    | (none, s) => (none, s)

/-- Add `k` blocks to a request's list. -/
def growList (r n : Nat) : Nat → State → State
  | 0, s => s
  | k + 1, s => match allocBlock n s with
    | (some b, s) => growList r n k { s with listBlocks := put s.listBlocks r (look s.listBlocks r [] ++ [b]) [] }
    | (none, s) => s

/-- List pages of a stall that hold no block go back to the quota. -/
def trimList (n : Nat) (s : State) : State :=
  let used := s.listBlocks.flatMap Prod.snd
  let gone := (look s.listPages n []).filter (fun p => !(places [p]).any used.contains)
  forEach gone freePage { s with listPages := put s.listPages n ((look s.listPages n []).filter (fun p => !gone.contains p)) [] }

/-- The page list of a request: its words, its blocks and the bytes of the chain (R246). -/
def setPages (r : Nat) (ps : List (Nat × Bool)) (s : State) : State :=
  let s := modEnt r (fun e => { e with pages := ps }) s
  let n := (ent s r).stall
  let k := listSize ps.length
  let bs := look s.listBlocks r []
  let s := if k < bs.length then trimList n { s with listBlocks := put s.listBlocks r (bs.take k) [] }
    else growList r n (k - bs.length) s
  let bs := look s.listBlocks r []
  { s with pond := bs.zipIdx.foldl (fun m b => putBytes m (64 * b.1) (listBlock ((ps.drop (30 * b.2)).take 30) bs[b.2 + 1]?)) s.pond }

/-! ### Prefix nodes (R249) -/

/-- A prefix node. -/
def node (s : State) (i : Nat) : PfxNode := look s.pfx i {}
/-- The 64 bytes of a node. -/
def nodeBytes (n : PfxNode) : Bytes :=
  [BitVec.ofNat 8 n.span.length, BitVec.ofNat 8 n.model] ++ leBytes 2 n.adapter ++ fit 32 (n.span.flatMap (leBytes 2))
    ++ leBytes 3 n.parent ++ leBytes 3 n.child ++ leBytes 3 n.sibling ++ [BitVec.ofNat 8 (b2n n.valid + 2 * b2n n.partial_)]
    ++ leBytes 2 n.page ++ leBytes 2 n.refs ++ zeros 14
/-- Change a prefix node, here and in pond. -/
def modNode (i : Nat) (f : PfxNode → PfxNode) (s : State) : State :=
  let n := f (node s i)
  { s with pfx := put s.pfx i n {}, pond := if n.valid || (node s i).valid then putBytes s.pond (64 * n.place) (nodeBytes n) else s.pond }
/-- The node that holds a page. -/
def nodeOfPage (s : State) (p : Nat) : Option Nat :=
  (s.pfx.find? (fun n => n.2.valid && n.2.page == p)).map Prod.fst

/-- One page list drops a node's page: at REFS 0 its TTL entry is inserted, or it is evictable at once when the
list's limit is met (R255, R355). -/
def nodeUnref (i : Nat) (s : State) : State :=
  let refs := (node s i).refs - 1
  let s := modNode i (fun n => { n with refs := refs }) s
  if refs ≠ 0 then s
  else
    let due := s.ft + us (rd s 0x00170004)
    if (s.wks.dly.l1.filter (fun e => e.kind == 4)).length < 4096 then dlyIns 4 i due s
    else bumpSat 0x000F0020 (modNode i (fun n => { n with evictable := some s.ft }) s)
/-- One more page list holds a node's page: its entry is removed (R255). -/
def nodeRef (i : Nat) (s : State) : State :=
  let s := when_ ((node s i).refs == 0) (dlyDel 4 i) s
  modNode i (fun n => { n with refs := n.refs + 1, evictable := none }) s

/-- Release a page list: shared pages lose one reference, private ones are freed (R273). -/
def releasePages (r : Nat) (s : State) : State :=
  let ps := (ent s r).pages
  let s := forEach ps (fun p s =>
    if p.2 then (match nodeOfPage s p.1 with | some i => nodeUnref i s | none => s) else freePage p.1 s) s
  setPages r [] s

/-! ### Completions and tills -/

/-- The free count of a channel's CQ (R216). -/
def cqFree (c : Chan) : Nat := 2 ^ c.cqK - c.posted - c.reserved
/-- Reserve or release CQ slots. -/
def reserve (c n : Nat) (s : State) : State := modChan c (fun x => { x with reserved := x.reserved + n }) s
/-- Release reservations. -/
def unreserve (c n : Nat) (s : State) : State := modChan c (fun x => { x with reserved := x.reserved - n }) s

/-- A completion awaits its CQ write; a channel in ERROR posts none (R220). -/
def post (c : Nat) (q : Cqe) (s : State) : State :=
  if (chan s c).st = 3 then unreserve c 1 s else modChan c (fun x => { x with compq := x.compq ++ [q] }) s

/-- Count one refusal in a till (R223). -/
def tillRefuse (c status : Nat) (s : State) : State :=
  modTill c (fun t => { t with refused := upd t.refused (status - 0x20) 0 (fun n => sat32 (n + 1)) }) s

/-- Count what a FINAL reports in the till (R223). -/
def tillFinal (c status : Nat) (s : State) : State :=
  if status = 0x30 then modTill c (fun t => { t with lateDropped := sat32 (t.lateDropped + 1) }) s
  else if status = 0x31 then modTill c (fun t => { t with lateFinished := sat32 (t.lateFinished + 1) }) s
  else if 0x40 ≤ status ∧ status ≤ 0x44 then modTill c (fun t => { t with faults := sat32 (t.faults + 1) }) s
  else s

/-- The 32-bit REQ field of a request (R206). -/
def reqField (s : State) (r : Nat) : Nat := genOf s 2 r * 2 ^ 24 + r

/-- An instant less the ingress, saturating at `n` bits. -/
def since (n ingress : Nat) : Option Nat → Nat
  | none => 0
  | some t => min (t - ingress) (2 ^ n - 1)

/-- The FINAL of a request's open command (R206, R209). -/
def finalOf (s : State) (r status : Nat) : Cqe :=
  let e := ent s r
  let x := side s r
  { final := true, status := status, cid := e.cid, req := reqField s r, outcome := x.outcome, rung := x.rungMax,
    deferred := e.deferred, cstat := 0, displaced := e.displaced, specAcc := x.specAcc, predict := x.tokensOut,
    ingress := e.ingress % 2 ^ 48, admits := min e.admitOfs 65535, first := since 32 e.ingress x.firstAt,
    last := since 32 e.ingress x.lastAt }

/-- A FINAL that names a command which never ran. -/
def bareFinal (s : State) (r cid status : Nat) (ingress : Nat) : Cqe :=
  { final := true, status := status, cid := cid, req := reqField s r, outcome := 0, rung := 0, deferred := false,
    cstat := 0, displaced := 0, specAcc := 0, predict := 0, ingress := ingress % 2 ^ 48, admits := 0, first := 0, last := 0 }

/-- An ACK that takes no part in admission, or a command status other than OK (R208, R211). -/
def plainAck (s : State) (cid cstat : Nat) (req : Nat) : Cqe :=
  { final := false, status := 0, cid := cid, req := req, outcome := 0, rung := 0, deferred := false, cstat := cstat,
    displaced := 0, specAcc := 0, predict := 0, ingress := s.ft % 2 ^ 48, admits := 0, first := 0, last := 0 }

/-! ### Output rings -/

/-- The 16 bytes of a token record (R429). -/
def recBytes (phase : Bool) (t : TokRec) : Bytes :=
  leBytes 4 t.token.toNat ++ leBytes 3 t.position ++
  [BitVec.ofNat 8 (b2n t.specAcc + 2 * b2n t.fallback + 4 * b2n t.final + 8 * b2n t.cancelled + 16 * b2n t.late
    + 128 * b2n phase)] ++ leBytes 2 t.logprob.toNat ++ [BitVec.ofNat 8 t.rung, BitVec.ofNat 8 t.depth]
  ++ leBytes 4 t.ft

/-- Free slots of a ring (R435). -/
def ringFree (g : Ring) : Nat := 2 ^ g.k - 1 - g.unread

/-- An MSI-X vector of stall `n`'s range (R507): the VF's own table, or entries 64·s on of the PF's. Whether a VF is
enabled is in no register here: an object that a VF's window created uses the VF's table. (DESIGN CHOICE, log 89) -/
def stallMsix (src : Src) (n vec : Nat) (s : State) : State :=
  emit (match src with | .vf k => .msix (.vf k) vec | _ => .msix .pf (64 * n + vec)) s

/-- Write one record (R433, R439): nothing goes to a ring in ERROR (R438). -/
def ringWrite (i : Nat) (t : TokRec) (s : State) : State :=
  let g := ring s i
  if g.st = 3 ∨ g.st = 0 then s
  else
    let b := recBytes g.phase t
    let a := g.base.toNat + 16 * g.tail
    let s := if g.pond then { s with pond := putBytes s.pond a b }
             else emit (.hostWrite g.src (BitVec.ofNat 64 a) b) s
    let wrap := g.tail + 1 = 2 ^ g.k
    let s := modRing i (fun g => { g with tail := if wrap then 0 else g.tail + 1, unread := g.unread + 1,
                                          phase := if wrap then !g.phase else g.phase }) s
    when_ (g.notify == 2 || (g.notify == 1 && t.final)) (stallMsix g.src g.stall g.vec) s

/-- Write a record of a request to its ring, if it has one that takes it, and count a token so delivered (R223). -/
def ringGive (r : Nat) (t : TokRec) (s : State) : State :=
  match (ent s r).ring with
  | some i =>
    let open_ := (ring s i).st != 3 && (ring s i).st != 0
    let s := ringWrite i t s
    when_ (open_ && t.token != 0xFFFFFFFF) (modTill (ent s r).till (fun x => { x with tokens := sat32 (x.tokens + 1) })) s
  | none => s

/-- A record of a request: to its ring, and into what the FINAL reports. -/
def recWrite (r : Nat) (t : TokRec) (s : State) : State :=
  let s := ringGive r t s
  if t.token = 0xFFFFFFFF then s
  else modSide r (fun x => { x with tokensOut := x.tokensOut + 1, lastAt := some s.ft, firstAt := x.firstAt.or (some s.ft) }) s

/-- Write every held record (R436). -/
def flushHeld (r : Nat) (s : State) : State :=
  let h := (side s r).heldRecs
  modSide r (fun x => { x with heldRecs := [] }) (forEach h (recWrite r) s)

/-- A closing record (R430). -/
def closingRec (s : State) (r : Nat) (cancelled late : Bool) : TokRec :=
  { token := 0xFFFFFFFF, position := (ent s r).committed, final := true, cancelled := cancelled, late := late,
    fallback := 0 < (ent s r).rung, rung := (ent s r).rung, depth := (ent s r).specCur, ft := s.ft }

/-- The generation runs: admitted and not yet ended. -/
def running (e : Entry) : Bool := e.st == .prefill || e.st == .decode || e.st == .blocked

/-- A step of the request is in flight and its tokens have not reached the head chip. -/
def awaited (s : State) (r : Nat) : Bool :=
  match (side s r).inStep with
  | none => false
  | some n => s.steps.any (fun t => t.num == n && decide (t.phase < 3) && t.rows.any (fun x => x.req == r))

/-- End the records of a running generation: the held ones are written or discarded, then the closing record
(R430, R436, R437). While a step in flight may still bring tokens sampled earlier, the closing record is owed
(R272). -/
def closeRecs (r : Nat) (cancelled late discard : Bool) (s : State) : State :=
  if running (ent s r) && (side s r).open_ != .none_ then
    let s := if discard then modSide r (fun x => { x with heldRecs := [] }) s else flushHeld r s
    let c := closingRec s r cancelled late
    if awaited s r then modSide r (fun x => { x with owed := some c, cutoff := x.cutoff.or (some s.ft) }) s
    else recWrite r c s
  else s

/-- Write the closing record owed, at the position COMMITTED has reached (R429). -/
def payRec (r : Nat) (s : State) : State :=
  match (side s r).owed with
  | none => s
  | some c => recWrite r { c with position := (ent s r).committed } (modSide r (fun x => { x with owed := none }) s)

/-! ### Row masks of a request -/

/-- The step of a request's aisle that holds it. -/
def stepOf (s : State) (r : Nat) : Option Step :=
  match (side s r).inStep with
  | none => none
  | some n => s.steps.find? (fun t => t.num == n && (aisleOf s (ent s r).stall).getD 0 == t.aisle && t.rows.any (fun x => x.req == r))

/-- Change a step. -/
def modStep (aisle num : Nat) (f : Step → Step) (s : State) : State :=
  { s with steps := s.steps.map (fun t => if t.aisle == aisle && t.num == num then f t else t) }

/-- Mask a request's rows on this chip (R346). -/
def maskHere (r : Nat) (s : State) : State :=
  match stepOf s r with
  | none => s
  | some t =>
    let i := t.rows.findIdx (fun x => x.req == r)
    let s := modStep t.aisle t.num (fun t => { t with rows := t.rows.map (fun x => if x.req == r then { x with live := false } else x) }) s
    maskStep t.aisle t.num i (modSide r (fun x => { x with masked := true, cutoff := x.cutoff.or (some s.ft) }) s)

/-- Send the ROW_MASK notices of R271 for a request with a step in flight. -/
def maskNotice (r cause eff : Nat) (s : State) : State :=
  match aisleOf s (ent s r).stall with
  | none => s
  | some a => toMembers a (rowMaskNotice a cause (reqHandle s r) eff) s

/-- Mask a request's rows everywhere, now. -/
def maskReq (r cause : Nat) (s : State) : State :=
  if (side s r).inStep.isSome then maskHere r (maskNotice r cause s.ft s) else s

/-! ### How a request ends -/

/-- Remove the DEADLINE and DEFER_START entries of a request (R354). -/
def dropTimers (r : Nat) (s : State) : State := dlyDel 2 (reqHandle s r) (dlyDel 1 (reqHandle s r) s)

/-- A batch whose members have all ended posts DONE_BATCH (R210, R323). -/
def batchLeave (r : Nat) (s : State) : State :=
  match (side s r).batch with
  | none => s
  | some n =>
    match s.batches.find? (fun b => b.num == n) with
    | none => s
    | some b =>
      let ms := b.members.filter (· != r)
      let s := { s with batches := s.batches.map (fun x => if x.num == n then { x with members := ms } else x) }
      if ms.isEmpty then
        post b.channel { final := true, status := 0x03, cid := b.cid, req := 0, outcome := if b.deferred then 2 else 0, rung := 0,
                         deferred := b.deferred, cstat := 0, displaced := 0, specAcc := 0, predict := 0,
                         ingress := b.accept % 2 ^ 48, admits := 0, first := 0, last := 0 }
          { s with batches := s.batches.filter (fun x => x.num != n) }
      else s

/-- Give back what the head chip counts for a request on the member stalls (R242). -/
def memberGive (r : Nat) (pages : Bool) (s : State) : State :=
  let e := ent s r
  if e.shadow || decide (2 ^ 24 ≤ r) then s else
  match aisleOf s e.stall with
  | none => s
  | some a =>
    let ps := (side s r).slots
    let ms := ((members s a).filter (fun m => m.1 != s.fab.chip)).zipIdx
    forEach ms (fun m s => { s with free := upd s.free (m.1.1 * 32 + m.1.2) {} (fun f =>
      { f with pages := if pages && !(side s r).away then f.pages - ps.getD m.2 0 else f.pages,
               entries := f.entries - 1 }) }) s

/-- Pause-area slots that `n` pages take: the pages and their slot-list pages (R261). -/
def slotsFor (n : Nat) : Nat := n + cdiv n 2048
/-- Slots that a request takes on a member stall where it holds `k` pages of its own: those of shared nodes too. -/
def lakeSlots (x : Side) (k : Nat) : Nat := slotsFor (k + x.pfxDepth)

/-- Free the lake copy of a request: its directory record, and its pause-area slots on every chip (R260, R264). -/
def dropLake (r : Nat) (s : State) : State :=
  let e := ent s r
  let x := side s r
  let has := x.lake
  let s := modSide r (fun x => { x with lake := false }) { s with nmc := { s.nmc with dir := del s.nmc.dir r, dirSlots := del s.nmc.dirSlots r, dirLayout := del s.nmc.dirLayout r } }
  match aisleOf s e.stall with
  | none => s
  | some a =>
    let ps := (side s r).slots
    let ms := ((members s a).filter (fun m => m.1 != s.fab.chip)).zipIdx
    if has then forEach ms (fun m s => { s with free := upd s.free (m.1.1 * 32 + m.1.2) {} (fun f =>
      { f with slots := f.slots - lakeSlots x (ps.getD m.2 0) }) }) s
    else s

/-- An entry that stands for a command with no table entry of its own (admission refuses it, R291). -/
abbrev isHolder (r : Nat) : Bool := decide (2 ^ 24 ≤ r)

/-- Remove a firmware-tracked request's proxy (R257). -/
def dropProxy (r : Nat) (s : State) : State :=
  match (look s.cc.recs r {}).proxy with
  | none => s
  | some p =>
    let s := { s with rtb := del s.rtb p, cc := { s.cc with recs := upd s.cc.recs r {} (fun x => { x with proxy := none }) } }
    bumpGen 2 p s

/-- No node. -/
abbrev noNode : Nat := 0x3FFFF
/-- PFX of a row descriptor (R252, R306). -/
def pfxWord (x : Side) : Nat := x.pfxNode.getD noNode + x.pfxDepth % 16384 * 2 ^ 18

/-- Order something of a request's shadows in the aisle's next step record (R243). (DESIGN CHOICE, log 65) -/
def orderShadow (r bits : Nat) (s : State) : State :=
  match aisleOf s (ent s r).stall with
  | some a =>
    if (members s a).isEmpty ∨ !(side s r).shadowed then s
    else { s with aisles := upd s.aisles a {} (fun x => { x with orders := x.orders ++ [(reqField s r, bits, (ent s r).committed, pfxWord (side s r))] }) }
  | none => s

/-- Free an entry: pages, lake copy, ring binding, key bindings, timers and counts go, and the generation steps
(R236). A CANCEL not yet in effect finds nothing (R276). -/
def freeEntry (r : Nat) (s : State) : State :=
  let e := ent s r
  let h := reqHandle s r
  let s := match (side s r).cancelAt with
    | some (_, true) => post e.channel { plainAck s (side s r).cancelCid 1 0 with ingress := (side s r).cancelIn % 2 ^ 48 } s
    | _ => s
  let s := dropLake r (releasePages r (memberGive r true s))
  let s := orderShadow r 2 (dropProxy r s)
  let s := { s with cc := { s.cc with recs := del s.cc.recs r, admq := s.cc.admq.filter (· != r) },
                    admq := s.admq.filter (fun c => c.isBatch || c.req != r) }
  let s := dlyDel 3 h (dropTimers r s)
  let s := match e.ring with
    | some i => when_ ((ring s i).req == some r) (modRing i (fun g => { g with req := none, st := if g.st == 2 then 1 else g.st })) s
    | none => s
  let s := { s with spg := { s.spg with keys := s.spg.keys.filter (fun k => k.2.2.1 != r) },
                    fixed := { s.fixed with bound := s.fixed.bound.filter (fun b => b.2.2 != r) } }
  let s := batchLeave r s
  let s := { s with rtb := put s.rtb r {} {}, side := put s.side r {} {} }
  if isHolder r then s else bumpGen 2 r s

/-- Post the FINAL of the open command, after its ACK where that is still owed (R210, R212). -/
def finishOpen (r status : Nat) (s : State) : State :=
  let e := ent s r
  let x := side s r
  let s := when_ (!x.acked && !x.trig && x.open_ != .close) (post e.channel { plainAck s e.cid 0 (reqField s r) with ingress := e.ingress % 2 ^ 48 }) s
  let s := tillFinal e.till status (post e.channel (finalOf s r status) s)
  modSide r (fun x => { x with open_ := .none_ }) s

/-- Post the FINAL of the pending command, if it owes one; its row on rung 2 is masked (R266, R346). -/
def finishPend (r status : Nat) (s : State) : State :=
  match (side s r).pend with
  | none => s
  | some p =>
    let e := ent s r
    let s := when_ (p.posts && !p.trig && !p.isClose) (post e.channel { plainAck s p.cid 0 (reqField s r) with ingress := p.ingress % 2 ^ 48 }) s
    let s := if p.posts then tillFinal e.till status (post e.channel (bareFinal s r p.cid status p.ingress) s) else s
    let s := when_ ((side s r).r2 == 2) (maskHere r) s
    modSide r (fun x => { x with pend := none, r2 := 0, cancelAt := x.cancelAt.filter Prod.snd }) s

/-- A step holds the request: it runs here, or members have still to confirm its commit (R241). -/
def stepHolds (s : State) (r : Nat) : Bool := (side s r).inStep.isSome || !(side s r).confirm.isEmpty

/-- Free a CLOSING request once no step holds it: FINALs, then the entry (R234). -/
def closeNow (r : Nat) (s : State) : State :=
  let x := side s r
  let s := match x.ending with | some st => finishOpen r st s | none => s
  let s := match x.pendEnding with | some st => finishPend r st s | none => s
  freeEntry r s

/-- A CLOSING request that no step holds any more is freed (R234, R241). -/
def closeIfDone (r : Nat) (s : State) : State := if (ent s r).st = .closing ∧ !stepHolds s r then closeNow r s else s

/-- The request enters CLOSING: its open command will complete `status` and its pending one `pend`. Its rows
are masked and its records closed; it is freed at once when no step holds it (R234, R273). -/
def toClosing (r status pendAppend pendClose : Nat) (cancelled : Bool) (s : State) : State :=
  let e := ent s r
  let x := side s r
  let op := if e.st = .draining then x.ending else if x.open_ = .none_ then none else some status
  let pe := x.pend.map (fun p => if p.isClose then pendClose else pendAppend)
  let s := closeRecs r cancelled false false s
  let s := flushHeld r (dropTimers r s)
  let s := modSide r (fun x => { x with ending := op, pendEnding := pe, freeing := true }) s
  let s := modEnt r (fun e => { e with st := .closing }) s
  let s := { s with admq := s.admq.filter (fun c => c.isBatch || c.req != r) }
  if stepHolds s r then s else closeNow r s

/-- A running generation ends and its FINAL waits in DRAINING (R234, R238): without a token, a closing record
is written. -/
def toDraining (r status : Nat) (closing late discard : Bool) (s : State) : State :=
  let s := if closing then closeRecs r false late discard s else s
  let s := dropTimers r s
  modEnt r (fun e => { e with st := .draining }) (modSide r (fun x => { x with ending := some status }) s)

/-- Module callbacks (R399): each running module that `p` picks and that has the callback is called on the lowest free
thread of 1 to 3, or waits for one. -/
def callModules (idx : Nat) (p : Nat × Module → Bool) (s : State) : State :=
  let ms := s.conf.modules.filter (fun m => m.2.st == 1 && p m && m.2.entries.getD idx 0xFFFF != 0xFFFF)
  forEach ms (fun m s =>
    match [1, 2, 3].find? (fun t => (thread s t).modl.isNone) with
    | some t => modThread t (fun x => { x with st := 0, modl := some (m.1, idx) }) s
    | none => { s with cc := { s.cc with calls := s.cc.calls ++ [(m.1, idx)] } }) s

/-- A callback of every module whose stalls meet the mask. -/
def callback (idx : Nat) (mask : Nat) (s : State) : State := callModules idx (fun m => (m.2.stalls.toNat &&& mask) != 0) s
/-- A callback of one module. -/
def callModule (k idx : Nat) (s : State) : State := callModules idx (fun m => m.1 == k) s
/-- A module claims the admission of a stall (R397, R402). -/
def claims (n : Nat) (m : Nat × Module) : Bool := m.2.claim && bit m.2.stalls.toNat n

/-- The request is firmware-tracked (R256). -/
abbrev isFw (r : Nat) : Bool := decide (4096 ≤ r) && !isHolder r

/-- A command goes to admission: into the input queue, or, for a firmware-tracked request, to base firmware and the
module that claims the stall (R387, R399, R402). -/
def enqueue (r : Nat) (isResume : Bool) (s : State) : State :=
  if isFw r then
    let s := { s with cc := { s.cc with admq := s.cc.admq ++ [r], recs := upd s.cc.recs r {} (fun x => { x with since := some s.ft }) } }
    callModules 1 (claims (ent s r).stall) (ccInt 1 s)
  else { s with admq := s.admq ++ [{ req := r, isResume := isResume, at_ := s.ft }] }

/-- What SEQ keeps of one command starts afresh with the next. -/
def freshCmd (x : Side) : Side :=
  { x with outcome := 0, rungMax := 0, firstAt := none, lastAt := none, tokensOut := 0, specAcc := 0,
           exempt := false, lateFin := false, issued := false, ending := none, guesses := [], acked := false,
           cutoff := none, owed := none, masked := false, promoted := none, r2 := 0, r2Toks := [], r2Out := none }

/-- The fields of an entry that only an open command uses (R230). -/
def clearCmd (e : Entry) : Entry :=
  { e with deadline := none, prompt := [], cid := 0, maxNew := 0, genLen := 0, displaced := 0, ingress := 0, admitOfs := 0,
           rung := 0, maxRung := 0, spec := 0, late := false, deferred := false }

/-- A pending APPEND becomes the open command and goes to admission, or a pending CLOSE ends the request, when
the request has entered READY (R235). -/
def promote (r : Nat) (s : State) : State :=
  match (side s r).pend with
  | none => modSide r (fun x => { x with idleSince := s.ft }) s
  | some p =>
    if p.isClose then
      let s := modSide r (fun x => { freshCmd x with open_ := if p.posts then .close else .none_, pend := none, acked := true }) s
      let s := modEnt r (fun e => { e with cid := p.cid, ingress := p.ingress }) s
      toClosing r 0x12 0x12 0x12 false s
    else
      let s := modSide r (fun x =>
        { freshCmd x with
          pend := none, open_ := if p.posts then .append else .none_, trig := p.trig, before := .ready,
          acked := !p.posts || p.trig, template := p.template, acceptAt := p.ingress, askPrio := p.askPrio }) s
      let s := modEnt r (fun e =>
        { e with st := .admitting, cid := p.cid, prompt := p.tokens, maxNew := p.maxNew,
                 deadline := p.deadline, ingress := p.ingress, maxRung := bits p.ctrl 1 0, spec := bits p.ctrl 3 2,
                 late := bit p.ctrl 4, prio := p.prio, genLen := 0, displaced := 0, deferred := false, rung := 0 }) s
      enqueue r false s

/-- The request enters READY; a pending command leaves it at once (R235). -/
def toReady (r : Nat) (s : State) : State :=
  promote r (modEnt r (fun e => { clearCmd e with st := .ready, ttlDue := 0 }) s)

/-- A request with nothing open ends with the command that names it, which completes `status` through CLOSING (R234,
R236, R531, R536). -/
def endWith (r cid ingress status : Nat) (trig : Bool) (s : State) : State :=
  let s := modSide r (fun x => { freshCmd x with open_ := .append, acked := true, trig := trig }) s
  let s := modEnt r (fun e => { e with cid := cid, ingress := ingress, st := if running e then .ready else e.st }) s
  toClosing r status 0x41 0x12 false s

end Sys2Proof.Machine
end

