-- ==== Sys2Proof/Machine/Loss.lean ====
section
/-! DEFINITION. Far faults and lost chips as the request table meets them (R80, R81, R530 to R535), and what
a link that goes down costs (R88 to R90). -/
namespace Sys2Proof.Machine

/-- The live requests of an aisle whose master is here. -/
def aisleReqs (s : State) (a : Nat) : List Nat :=
  ((s.rtb.filter (fun p => !p.2.shadow && p.2.st != .free && (aisleOf s p.2.stall) == some a)).map Prod.fst)

/-- A request has an open or pending command. -/
def hasCommand (s : State) (r : Nat) : Bool := (side s r).open_ != .none_ || (side s r).pend.isSome

/-- Every open and pending command of a request completes `status`: the request is freed, or kept and drained
(R535, R575). -/
def endReq (status : Nat) (free : Bool) (r : Nat) (s : State) : State :=
  let s := maskReq r 3 s
  if free then toClosing r status status status false s
  else
    let s := finishPend r status s
    if running (ent s r) then toDraining r status true false false s
    else if (ent s r).st = .draining then s
    else if (ent s r).st = .admitting || (ent s r).st = .deferred then
      let s := finishOpen r status (dropTimers r s)
      let s := { s with admq := s.admq.filter (fun c => c.isBatch || c.req != r) }
      let b := (side s r).before
      if b = .free then toClosing r status status status false s else modEnt r (fun e => { clearCmd e with st := b }) s
    else s

/-- A head chip ends what a lost or stopped member leaves of its aisles (R535). -/
def loseMember (x kind : Nat) (s : State) : State :=
  let as := (s.conf.aisles.filter (fun a => isHead s a.1 && (a.2.any (fun m => m.1 == x)) && x != s.fab.chip)).map Prod.fst
  forEach as (fun a s =>
    let rs := (aisleReqs s a).filter (fun r => hasCommand s r && (ent s r).st != .paused)
    let s := forEach rs (endReq 0x42 (kind != 3)) s
    -- no confirmation of its steps is to come
    let s := forEach (aisleReqs s a) (fun r s =>
      closeIfDone r (modSide r (fun y => { y with confirm := y.confirm.filter (fun c => c % 256 != x) }) s)) s
    if kind = 3 then s
    else forEach ((chain s a).filter (fun m => m.1 == x)) (fun m s =>
      { s with free := upd s.free (m.1 * 32 + m.2) {} (fun f => { f with lost := true }) }) s) s

/-- Declare a chip lost (R532, R535, R538 condition 4), for kinds RESET and UNREACHABLE. -/
def declareLost (x kind sender : Nat) (s : State) : State :=
  let mine := s.conf.aisles.any (fun a => a.2.any (fun m => m.1 == x) && a.2.any (fun m => m.1 == s.fab.chip))
  let s := logC 0x0410 [x, kind, sender] s
  let s := ccInt 6 (postArmed 3 s)
  let s := callback 6 (maskOf ((List.range 32).filter (fun n => (look s.conf.aisles (stallCfg s n).aisle []).any (fun m => m.1 == x)))) s
  let s := when_ mine (haltRaise 4) s
  let s := modFab (fun b => { b with lost := b.lost ++ [x] }) s
  loseMember x kind s

/-- Declare every chip lost whose routing entry has no live port left, and tell the chips still reachable
(R532). -/
def declareUnreachable (s : State) : State :=
  let gone := (List.range 256).filter (fun x =>
    x != s.fab.chip && bit (route s x) 31 && !bit (route s x) 30 && (routePorts s x).isEmpty && !s.fab.lost.contains x)
  forEach gone (fun x s =>
    let s := declareLost x 2 s.fab.chip s
    forEach ((List.range 256).filter (fun y => y != s.fab.chip && y != x && reachable s y && !bit (route s y) 30))
      (fun y => sendNotice y (chipLostNotice x s.fab.chip 2 0 s.ft)) s) s

/-- The shadow here of a master's INDEX and GEN, in the aisle that a stall of its chain writes for (R244). -/
def shadowNamed (s : State) (srcChip srcStall gen index : Nat) : Option Nat :=
  (s.rtb.find? (fun p => p.2.shadow && hIdx p.2.seed.toNat == index && hGen p.2.seed.toNat == gen
    && ((aisleOf s p.2.stall).map (fun a => (chain s a).contains (srcChip, srcStall))).getD false)).map Prod.fst

/-- The request a far-fault notice names (R80): a shadow, looked up by the master's handle (R244), or with this chip's
id in it an entry of the table here. The GEN of either must match. A header carries no CHIP, so a chip that knows the
request by no entry of its own names the source's; log 83. -/
def reqOfNotice (s : State) (pl : Bytes) : Option Nat :=
  let h := u64 pl 8
  let r := hIdx h
  let own := if hKind h = 2 ∧ r < 4096 ∧ hChip h = s.fab.chip ∧ hGen h = genOf s 2 r ∧ (ent s r).st ≠ .free ∧ !(ent s r).shadow
    then some r else none
  let sh := (shadowNamed s s.fab.chip (u8 pl 4 % 32) (hGen h) r).filter (fun r =>
    hChip h == s.fab.chip || hChip h == hChip (ent s r).seed.toNat)
  if hKind h = 2 then sh.or own else none

/-- Two handles name the same object, whichever chip they give. -/
def sameHandle (a b : Nat) : Bool := hGen a == hGen b && a % 2 ^ 48 == b % 2 ^ 48

/-- Account for a far fault in the write streams: the fault or loss count, and the writes it names (R74, R76). -/
def streamFault (pl : Bytes) (s : State) : State :=
  let cause := u8 pl 1
  let stall := u8 pl 4 % 32
  let dst := u8 pl 5
  let seq := u16 pl 6
  let k := stall * 256 + dst
  let lossy := cause == 5 || cause == 6
  let z := look s.fab.srcStreams k {}
  let names (w : WriteRec) : Bool := w.seq == seq && (!lossy || sameHandle w.handle.toNat (u64 pl 8))
  let named := z.out.find? names
  let z' : SrcStream := { z with
    faults := if lossy then z.faults else (z.faults + 1) % 65536,
    losses := if lossy && named.isSome then (z.losses + 1) % 65536 else z.losses,
    out := z.out.map (fun w => if names w then { w with faulted := true } else w) }
  let s := modFab (fun b => { b with srcStreams := put b.srcStreams k z' {} }) s
  match named with
  | some w => forEach w.chans (fun n => modChan n (fun c => { c with faulted := c.faulted ++ [(w.num, seq, w.handle, stall)] })) s
  | none => s

/-- Apply an accepted far-fault notice: poison, FAB_FARQ, log, till, armed flags, the modules of the source stall, the
interrupt and the vector of a queue of 192 (R80, R82, R359, R387, R399, R530). -/
def acceptFault (pl : Bytes) (s : State) : State :=
  let s := match reqOfNotice s pl with
    | some r =>
      let s := modEnt r (fun e => { e with poison := true }) (modSide r (fun x => { x with poisonAt := some s.ft }) s)
      let s := maskReq r 3 s
      if (ent s r).shadow then s else modTill (ent s r).till (fun t => { t with faults := sat32 (t.faults + 1) }) s
    | none => s
  let s := streamFault pl s
  let at_ := 0x00082000 + 32 * ((s.fab.farqHead + s.fab.farq.length) % 256)
  let s := forEach (List.range 8) (fun i => wr (at_ + 4 * i) (u32 pl (4 * i))) s
  let s := modFab (fun b => { b with farq := b.farq ++ [pl.take 32],
                                     farHist := (b.farHist ++ [slice pl 1 23]).drop (b.farHist.length - 255) }) s
  let s := logC 0x0405 [] s
  let s := postArmed 2 s
  let s := callback 6 (2 ^ (u8 pl 4 % 32)) s
  when_ (decide (192 ≤ s.fab.farq.length)) (fun s => ccInt 2 (devEvent 0 s)) s

/-- A notice names a read that this chip issued (R89): a loss, with SEQ zero, of no write of the stream. -/
def namesRead (s : State) (pl : Bytes) : Bool :=
  let z := look s.fab.srcStreams (u8 pl 4 % 32 * 256 + u8 pl 5) {}
  (u8 pl 1 == 5 || u8 pl 1 == 6) && u16 pl 6 == 0 && !z.out.any (fun w => w.seq == 0 && sameHandle w.handle.toNat (u64 pl 8))

/-- A read is taken as failed (R89): the response that may still arrive is to be discarded. -/
def failRead (dst : Nat) (h : W64) (s : State) : State :=
  let known := s.fab.reads.any (fun x => x.dst == dst && x.handle == h)
  modFab (fun b => { b with reads := if known then b.reads.map (fun x => if x.dst == dst && x.handle == h then { x with failed := true } else x)
                                     else b.reads ++ [⟨dst, h, true⟩] }) s

/-- A far-fault notice at its source (R80, R81): a repeat is discarded; with FAB_FARQ full it is held. A read
that the notice names is taken as failed (R89). -/
def takeFault (pl : Bytes) (s : State) : State :=
  if s.fab.farHist.contains (slice pl 1 23) then s
  else if 256 ≤ s.fab.farq.length then modFab (fun b => { b with farHeld := b.farHeld ++ [pl] }) s
  else acceptFault pl (when_ (namesRead s pl) (failRead (u8 pl 5) (BitVec.ofNat 64 (u64 pl 8))) s)

/-- The first flit of each packet in a list of flits. -/
def packetsOf : List QFlit → List QFlit
  | [] => []
  | q :: t => q :: (packetsOf t).filter (fun r => !samePacket (hdrOf q.flit) (hdrOf r.flit))

/-- What the sender does for one packet lost on a downed link (R89). -/
def lostPacket (all : List QFlit) (q : QFlit) (s : State) : State :=
  let h := hdrOf q.flit
  let hd (chip : Nat) := handleOf h.gen chip h.stall h.kind h.index
  match h.type with
  | 1 => sendFault 6 h.src h.stall h.dst h.seq (hd h.src) h.ofs 0 s
  | 2 => sendFault 6 h.src h.stall h.dst 0 (hd h.src) h.ofs 0 s
  | 3 => sendFault 6 h.dst h.stall h.src 0 (hd h.dst) h.ofs 0 s
  | 4 | 5 => sendPacket q.vc h.dst q.set ((all.filter (fun r => samePacket h (hdrOf r.flit))).map QFlit.flit) 0 s
  | _ => s

/-- The queued CTL flits that a routing table can carry elsewhere: those of whole packets sent by TABLE (R48). `first`: the
next one opens a packet; `tab`: the packet under way goes by TABLE. -/
def tableFlits : Bool → Bool → List QFlit → List QFlit
  | _, _, [] => []
  | first, tab, q :: t =>
    let tab := if first then bits (u8 q.flit 17) 1 0 == 3 else tab
    if q.vc = 3 then (if tab then [q] else []) ++ tableFlits (hdrOf q.flit).eop tab t else tableFlits first tab t

/-- A chip toward which every port of PRIMARY is down, with the ALTERNATE in use and shorter: posted writes that take it
wait until what was sent on the old route has arrived, and one flit slot (R87, R88). -/
def holdAlternate (p dst : Nat) (s : State) : State :=
  let e := route s dst
  match routePorts s dst with
  | n :: _ =>
    let old := bits e 23 18 * (link s p).hoplat
    let new := bits e 29 24 * (link s n).hoplat
    if bit (bits e 7 0) p ∧ ¬ bit (bits e 7 0) n ∧ new < old then
      modFab (fun b => { b with altHold := put b.altHold dst (s.ft + (old - new) + flitSlot (link s p).coded) 0 }) s
    else s
  | [] => s

/-- Move a downed port's queued flits, in order, to the live ports that remain toward each one's destination (R88): those
of posted writes in turn from the lowest, the others to the lowest. -/
def moveQueued (queued : List QFlit) (s : State) : State :=
  forEach (queued.zipIdx) (fun x s =>
    let q := x.1
    let h := hdrOf q.flit
    match routePorts s h.dst with
    | [] => if h.type = 6 then s else unreachable [q.flit] s
    | n :: ns =>
      if h.type = 1 then
        let n := (n :: ns).getD (x.2 % (ns.length + 1)) n
        txFlit n q.vc q.set q.flit (pwHold s h.dst n) s
      else txFlit n q.vc q.set q.flit 0 s) s

/-- Take a port out of service: packets received in part are cut off, queued flits move, unacknowledged packets are
handled, and the chips that are now unreachable are lost (R88 to R90, R532). -/
def portOut (p : Nat) (s : State) : State :=
  let l := link s p
  let lost := l.replay
  let opens := ((lost.filter (fun q => q.vc == 3)).getLast?.map (fun q => (hdrOf q.flit).eop)).getD true
  let queued := l.txq.filter (fun q => q.vc != 3) ++ tableFlits opens false l.txq
  let s := cutParts p s
  let s := setLink p { l with replay := [], txq := [], used := [], fails := 0, discarding := false, discardTill := 0, reqWait := 0 } s
  let s := forEach (s.fab.active.map Prod.fst) (holdAlternate p) s
  let s := moveQueued queued s
  let s := forEach (packetsOf lost) (lostPacket lost) s
  if s.fab.routeActive then declareUnreachable s else s

end Sys2Proof.Machine
end

