-- ==== Sys2Proof/Machine/Links.lean ====
section
/-! DEFINITION. Decziry links: training (R39 to R41), HELLO (R50), going down (R42, R88 to R91), link-level
integrity (R37, R38) and credits (R54); and how a chip chooses its upstream from what links advertise (R94 to
R100). -/
namespace Sys2Proof.Machine

/-! ### Choosing the upstream (R94, R95, R98) -/

/-- A far end that may serve as a clock source: ACTIVE, locked, without the HOLDOVER flag. -/
def clkOk (s : State) (p : Nat) : Option Nbr :=
  match (link s p).nbr with
  | some n => if (link s p).st = 6 ∧ n.rank < 31 ∧ ¬ n.flags.toNat / 4 % 2 = 1 then some n else none
  | none => none

/-- The lowest rank, then the lowest port, among ports that pass a test (R94). -/
def bestPort (s : State) (ok : Nat → Nbr → Bool) : Option Nat :=
  (List.range 8).foldl (fun acc p =>
    match clkOk s p with
    | none => acc
    | some n => if ok p n then (match acc with
        | none => some p
        | some q => if n.rank < ((clkOk s q).map Nbr.rank).getD 31 then some p else some q) else acc) none

/-- The upstream and alternate a non-root chip chooses (R94, R95, R100). -/
def chosen (s : State) : Option Nat × Option Nat :=
  let c := rd s 0x00030000
  if bit c 6 then
    let use (p : Nat) := if (clkOk s p).isSome then some p else none
    (use (bits c 2 0), use (bits c 5 3))
  else
    -- R100: a locked chip keeps an upstream that is itself in holdover
    let keep := match s.clk.up with
      | some p => if s.clk.locked && s.clk.source != 4 && (link s p).st == 6 && (((link s p).nbr.map (fun (n : Nbr) => n.flags.toNat / 4 % 2 == 1)).getD false)
                  then some p else none
      | none => none
    let up := keep.or (bestPort s (fun _ _ => true))
    let ser := (up.bind (fun p => (link s p).nbr)).map Nbr.serial
    (up, bestPort s (fun _ n => some n.serial != ser))

/-- Choose again after what links advertise changed; the root's source is its REFCLK, and a chip in holdover keeps the
choice it had until it switches (R99). -/
def rechoose (s : State) : State :=
  if isRoot s ∨ s.clk.source = 4 then s
  else let c := chosen s; { s with clk := { s.clk with up := c.1, alt := c.2 } }

/-- Enter holdover (R98): the flag is advertised and 0x0302 logged. The loop keeps its frequency, so LOCKED and the rank
advertised stay as they were; no rule says so. (DESIGN CHOICE, log 85) -/
def enterHoldover (s : State) : State :=
  if s.clk.source = 4 ∨ !s.clk.locked then s
  else
    let s := { s with clk := { s.clk with source := 4, holdHalted := false, holdLost := false, holdStart := some s.ft,
                                          holdEntries := min (s.clk.holdEntries + 1) 65535 } }
    advertise (logC 0x0302 [] s)

/-! ### Training -/

/-- The body of HELLO (R50). -/
def helloBody (s : State) (p : Nat) : Bytes :=
  leBytes 8 s.serial.toNat ++ [BitVec.ofNat 8 p, BitVec.ofNat 8 (b2n (link s p).coded), BitVec.ofNat 8 (clkFlags s),
    BitVec.ofNat 8 s.clk.rank, BitVec.ofNat 8 s.straps.tick] ++ leBytes 2 (link s p).lat16

/-- A link starts at DETECT: its mode is the one now configured (R34). -/
def startTraining (p : Nat) (s : State) : State :=
  modLink p (fun l => { l with st := 1, trainAt := s.ft, nbr := none, far := none, mismatch := false, echoes := [],
                               coded := bit (rd s (rLink p 0)) 1 }) s

/-- A training attempt fails: DETECT again, FAILED after three (R39, R40). -/
def failAttempt (p : Nat) (s : State) : State :=
  let n := (link s p).attempts + 1
  if 3 ≤ n then modLink p (fun l => { l with st := 8, attempts := 3 }) s
  else startTraining p (modLink p (fun l => { l with attempts := n }) s)

/-- FT_CHECK to the far end of a port (R50, R108). -/
def sendCheck (p : Nat) (s : State) : State :=
  ctlLink p 0x06 (leBytes 8 s.ft ++ [BitVec.ofNat 8 (toTwos 8 s.clk.resid)]) s

/-- The two ends agree, or not (R35, R50): ACTIVE and 0x0402, or MODE_MISMATCH and 0x0403. No rule says when ATTEMPTS is
cleared: here on entering ACTIVE, and on a write of EN (`linkEnWrite`). (DESIGN CHOICE, log 83) -/
def agree (p : Nat) (s : State) : State :=
  let l := link s p
  match l.nbr with
  | none => s
  | some n =>
    if l.st ≠ 5 then s
    else if n.coded ≠ l.coded then
      if l.mismatch then s else logC 0x0403 [] (modLink p (fun l => { l with mismatch := true }) s)
    else if n.serial = s.serial then s
    else
      let s := logC 0x0402 [] (modLink p (fun l => { l with st := 6, mismatch := false, attempts := 0, checked := false }) s)
      rechoose (when_ s.clk.ftValid (sendCheck p) s)

/-- Send echo number `n` (R41). -/
def sendEcho (p n : Nat) (s : State) : State :=
  ctlLink p 0x01 (leBytes 8 s.ft ++ [0, BitVec.ofNat 8 n]) s

/-- A link is declared down, or leaves service by a write: what it carried is handled, and the loss of the one in use as
clock source means holdover (R98). -/
def leaveService (p : Nat) (s : State) : State :=
  let active := (link s p).st == 6
  let s := modLink p (fun l => { l with benched := l.benched || (active && s.fab.routeActive), st := 7, trainAt := s.ft }) s
  let s := modLink p (fun l => { l with nbr := none, far := none }) (portOut p s)
  let s := when_ (s.clk.port == p && !isRoot s && (s.clk.source == 2 || s.clk.source == 3)) enterHoldover s
  rechoose s

/-- Declare a link down (R42): 0x0401, DOWN, the fabric MSI-X vector. In MEASURE or HELLO it fails the attempt. -/
def linkDown (p : Nat) (s : State) : State :=
  let st := (link s p).st
  let s := devEvent 0 (setBit (rLink p 4) 4 (logC 0x0401 [] s))
  if st = 6 then leaveService p s else failAttempt p (portOut p s)

/-- The link has lock on lanes that are aligned, so it can lose it, and keep-alive runs on it. Until DESKEW ends a lost
lock leaves training where it is. (DESIGN CHOICE, log 83) -/
def upish (s : State) (p : Nat) : Bool := let st := (link s p).st; st == 4 || st == 5 || st == 6

/-- FAB_LINKn_CTL.EN and MODE (R34, R39). -/
def linkEnWrite (p : Nat) (v : Word) (s : State) : State :=
  let was := (link s p).st
  let s := wr (rLink p 0) (v.toNat % 4) s
  if !bit v.toNat 0 then
    let s := when_ (was == 6) (leaveService p) s
    modLink p (fun l => { l with st := 0, nbr := none, attempts := 0 }) s
  else if was = 0 then startTraining p (modLink p (fun l => { l with attempts := 0 }) s)
  else s
def execLinkEnWrite (port : Nat) (value : Word) (s : State) := run (.linkEnWrite port value) s (linkEnWrite port value s)

/-- FAB_LINKn_CTL.RETRAIN: an ACTIVE link goes to RETRAIN (R39). -/
def execLinkRetrainWrite (port : Nat) (value : Word) (s : State) :=
  run (.linkRetrainWrite port value) s
    (if bit value.toNat 2 ∧ (link s port).st = 6 then leaveService port s else s)

/-- RETRAIN returns to DETECT (R39): on the fast cycle after the one that entered it. (DESIGN CHOICE, log 83) -/
def retrainStep (p : Nat) (s : State) : State := if (link s p).st = 7 then startTraining p s else s

/-- DETECT to LOCK; the mode configured now is the one trained (R34, R39). -/
def execLinkFarEndDetect (port : Nat) (s : State) :=
  run (.linkFarEndDetect port) s
    (if (link s port).st = 1 then
      modLink port (fun l => { l with st := 2, coded := bit (rd s (rLink port 0)) 1 }) s else s)

/-- LOCK to DESKEW (R39). -/
def execLinkSymbolLock (port : Nat) (s : State) :=
  run (.linkSymbolLock port) s (if (link s port).st = 2 then modLink port (fun l => { l with st := 3 }) s else s)

/-- DESKEW to MEASURE: the first of 64 echoes leaves (R39, R41). -/
def execLinkDeskewDone (port : Nat) (s : State) :=
  run (.linkDeskewDone port) s
    (if (link s port).st = 3 then sendEcho port 0 (modLink port (fun l => { l with st := 4, echoes := [] }) s) else s)

/-- Every round trip lies within 1 FT of the mean (R41). -/
def stable (e : List Nat) : Bool :=
  let sum := e.sum
  e.all (fun x => decide (64 * x ≤ sum + 64) && decide (sum ≤ 64 * x + 64))

/-- 64 echoes are back (R33, R41): the latency is recorded and HELLO begins, or the measurement starts again. -/
def measureComplete (p : Nat) (s : State) : State :=
  let l := link s p
  if l.st ≠ 4 ∨ l.echoes.length ≠ 64 then s
  else if !stable l.echoes then sendEcho p 0 (modLink p (fun l => { l with echoes := [] }) s)
  else
    -- one way: half of the mean less 16 FT, in 1/16 FT to the nearest
    let lat16 := (l.echoes.sum + 4) / 8 - 128
    let table := if l.coded then 118 else 29
    let hop := if lat16 ≤ 16 * table then table else cdiv lat16 16
    let s := modLink p (fun l => { l with st := 5, lat16 := lat16, hoplat := hop }) s
    agree p (ctlLink p 0x02 (helloBody s p) s)
def execMeasureComplete (port : Nat) (s : State) := run (.measureComplete port) s (measureComplete port s)

/-- The time a training attempt has (R40): by the mode it trains, which in DETECT is the one configured now (R34). -/
def trainLimit (s : State) (p : Nat) : Nat :=
  let l := link s p
  if (if l.st ≤ 1 then bit (rd s (rLink p 0)) 1 else l.coded) then 1600000 else 160000

/-- Training has not reached ACTIVE within 100 µs (direct) or 1 ms (coded): the attempt failed (R40). A link whose ends
are configured for different modes stays in HELLO (R35). -/
def execLinkTrainingTimeout (port : Nat) (s : State) :=
  let l := link s port
  run (.linkTrainingTimeout port) s
    (if 1 ≤ l.st ∧ l.st ≤ 5 ∧ ¬ (l.st = 5 ∧ l.mismatch) ∧ l.trainAt + trainLimit s port ≤ s.ft then failAttempt port s else s)

/-- ECHO (R41): returned 16 FT later with RETURN set, or its round trip recorded and the next one sent. -/
def echoMsg (p : Nat) (msg : Bytes) (count : Nat) (s : State) : State :=
  let b := (ctlOf msg).body
  if bit (u8 b 8) 0 then
    let l := link s p
    if l.st = 4 ∧ l.echoes.length < 64 ∧ u8 b 9 = l.echoes.length then
      let s := modLink p (fun l => { l with echoes := l.echoes ++ [count - u64 b 0] }) s
      if l.echoes.length < 63 then sendEcho p (l.echoes.length + 1) s else s
    else s
  else
    let reply : Ctl := { sub := 0x01, body := slice b 0 8 ++ [1, BitVec.ofNat 8 (u8 b 9)] ++ zeros 22, noids := !s.fab.valid }
    forEach (ctlFlits (if s.fab.valid then farId s p else 0) (if s.fab.valid then s.fab.chip else 0) (ctlBytes reply))
      (fun f => txFlit p 3 0 f (s.ft + 16)) s
def execEcho (port : Nat) (msg : Bytes) (count : Nat) (s : State) := run (.echo port msg count) s (echoMsg port msg count s)

/-- HELLO (R50, R94): what the far end advertises is recorded, and in HELLO the ends agree or not. -/
def helloMsg (p : Nat) (msg : Bytes) (s : State) : State :=
  let b := (ctlOf msg).body
  let l := link s p
  if 4 ≤ l.st ∧ l.st ≤ 6 then
    let n : Nbr := ⟨BitVec.ofNat 64 (u64 b 0), u8 b 8, bit (u8 b 9) 0, BitVec.ofNat 8 (u8 b 10), u8 b 11, u8 b 12 % 4⟩
    let s := setLink p { l with nbr := some n } s
    if l.st = 6 then rechoose s else agree p s
  else s
def execHello (port : Nat) (msg : Bytes) (s : State) := run (.hello port msg) s (helloMsg port msg s)

/-! ### Going down -/

/-- A lane without symbol lock for 32 FT (R42). -/
def execLaneLockLoss (port : Nat) (s : State) :=
  run (.laneLockLoss port) s (if upish s port then linkDown port s else s)
/-- No keep-alive symbol for 160 FT (R42). -/
def execKeepaliveTimeout (port : Nat) (s : State) :=
  run (.keepaliveTimeout port) s (if upish s port then linkDown port s else s)

/-- A packet that a link which went down left incomplete, and of which flits had been forwarded: one ABT flit of its type
on the same channel and set closes it, and what still comes of it is dropped (R90). -/
def abandonedFlit (p vc set : Nat) (s : State) : State :=
  match s.fab.parts.find? (fun x => x.dead == 1 && x.vc == vc && x.set == set && (x.port == p || x.flits.any (fun f => f.1 == p))) with
  | none => s
  | some x =>
    let h := x.hdr
    let done := x.eopIn || h.type != 1 || x.fwd.isNone
    let s := modFab (fun b => { b with parts := if done && x.fwd.isSome then b.parts.erase x
                                                else b.parts.map (fun y => if y == x then { x with dead := 2 } else y) }) s
    match x.fwd with
    | some q => if 8 ≤ q then s else sendPacket vc h.dst set [mkFlit { h with eop := true, abt := true, len := 0 } []] 0 s
    | none => s
def execAbandonedFlit (port vc set : Nat) (s : State) := run (.abandonedFlit port vc set) s (abandonedFlit port vc set s)

/-! ### Integrity and credits -/

/-- What a replay costs (R37): the time from the error to the errored flit's next arrival. -/
def replayCost (coded : Bool) : Nat := if coded then 288 else 96

/-- The receiver of a port discards what arrives now: a replay it asked for has not begun (R37). (DEDUCED, log 84) -/
def discards (s : State) (p : Nat) : Bool := let l := link s p; l.discarding && decide (s.ft < l.discardTill)

/-- A CRC error or uncorrectable codeword (R37): this and later flits are discarded and a replay asked for. -/
def flitCrcError (p : Nat) (s : State) : State :=
  if upish s p then
    let s := bumpSat (rLink p 0x10) s
    if discards s p then s
    else emit (.linkSym p 0 0 0 0) (modLink p (fun l => { l with discarding := true, discardTill := s.ft + replayCost l.coded }) s)
  else s
def execFlitCrcError (port : Nat) (s : State) := run (.flitCrcError port) s (flitCrcError port s)

/-- A replay request (R37, R38): `n` flits of the buffer are already good; the rest go again in order. The fifth
failed transmission of the flit there declares the link down. -/
def replayRequest (p n : Nat) (s : State) : State :=
  let l := link s p
  if !upish s p then s
  else
    let rest := l.replay.drop n
    let fails := if n = 0 then l.fails + 1 else 1
    let s := setLink p { l with replay := rest, fails := fails } s
    if 5 ≤ fails then linkDown p s
    else
      let s := bumpSat (rLink p 0x0C) s
      forEach rest (fun q s => addWrap (rLink p 0x18) 1 (emit (.flit p (onLink l.coded q.flit)) s)) s
def execReplayRequest (port : Nat) (from_ : Nat) (s : State) := run (.replayRequest port from_) s (replayRequest port from_ s)

/-- A link-level acknowledgement of `n` flits frees them (R37) and ends a count of failures (R38). -/
def execLinkAck (port count : Nat) (s : State) :=
  run (.linkAck port count) s
    (let s := modLink port (fun l => { l with replay := l.replay.drop count, fails := if count = 0 then l.fails else 0 }) s
     pump port (link s port).txq.length s)

/-- `n` credits return for a channel and set, and held flits may go (R54, R57). -/
def execCreditReturn (port vc set count : Nat) (s : State) :=
  run (.creditReturn port vc set count) s
    (let s := modLink port (fun l => { l with used := upd l.used (2 * vc + set) 0 (· - count) }) s
     pump port (link s port).txq.length s)

end Sys2Proof.Machine
end

