-- ==== Sys2Proof/Machine/Fabric.lean ====
section
/-! DEFINITION. Packets on the fabric: receipt and forwarding (R45 to R48, R53, R83), posted writes and their
acknowledgement (R70 to R77), far faults and notices (R80 to R82, R120, R271, R532), route epochs (R84 to R87). -/
namespace Sys2Proof.Machine

/-! ### Control messages -/

/-- The command a control message that is for this chip becomes (R49). -/
def ctlCommand (p : Nat) (m : Bytes) (ft : Nat) : Option Instr :=
  match u8 m 0 with
  | 0x01 => some (.echo p m ft) | 0x02 => some (.hello p m) | 0x03 => some (.clkStatus p m)
  | 0x04 => some (.ftReq p) | 0x05 => some (.ftSet p m 0) | 0x06 => some (.ftCheck p m)
  | 0x10 => some (.discover p m) | 0x11 => some (.report m) | 0x12 => some (.assign p m)
  | 0x20 => some (.staged m) | 0x21 => some (.epochArm m) | 0x22 => some (.rejoin m)
  | 0x30 => some (.imgData m) | 0x31 => some (.imgReport m) | 0x32 => some (.imgArm m)
  | 0x33 => some (.imgAbort m) | 0x40 => some (.stallReset m) | 0x41 => some (.reset m)
  | _ => none

/-- A control message is for this chip: its command follows. -/
def ctlTake (p : Nat) (m : Bytes) (s : State) : State :=
  match ctlCommand p m s.ft with | some c => await dAON c s | none => s

/-- Send a control message on, its header unchanged (R47). -/
def ctlFwd (p dst src : Nat) (c : Ctl) (s : State) : State :=
  forEach (ctlFlits dst src (ctlBytes c)) (fun f => txFlit p 3 0 f 0) s

/-- A whole control message has arrived: consumed or forwarded by its MODE (R48), or discarded (R53). -/
def ctlArrive (p : Nat) (h : Hdr) (m : Bytes) (s : State) : State :=
  let c := ctlOf m
  if !ctlOk m then logC 0x040B [] (setBit rFabErr 0 s)
  else match c.mode with
    | 0 => ctlTake p m (if c.noids then s else modLink p (fun l => { l with far := some h.src }) s)
    | 1 =>
      if c.reverse then
        if c.hop = 0 then ctlTake p m s
        else ctlFwd (pathIn c.path (c.hop - 1)) h.dst h.src { c with hop := c.hop - 1 } s
      else if c.hop + 1 = c.pathLen then ctlTake p m s
      else ctlFwd (pathOut c.path (c.hop + 1)) h.dst h.src { c with hop := c.hop + 1 } s
    | 2 =>
      if isRoot s then ctlTake p m s
      else (match s.fab.upPort with | some q => ctlFwd q h.dst h.src c s | none => s)
    | _ =>
      if h.dst = s.fab.chip ∧ s.fab.valid then ctlTake p m s
      else if reachable s h.dst then ctlFwd ((routePorts s h.dst).headD 0) h.dst h.src c s
      else logC 0x040A [] (setBit rFabErr 3 s)

/-! ### Receiving flits -/

/-- Packets of one write stream. -/
def sameStream (a b : Hdr) : Bool := a.src == b.src && a.stall == b.stall

/-- A whole packet for this chip must wait (R70): a posted write for an earlier SEQ of its stream of which flits are in, a
read for a posted write of the stream that began before it. -/
def partBlocked (s : State) (x : RxPart) : Bool :=
  let open_ (y : RxPart) : Bool := y.dead == 0 && y.fwd.isNone && y.hdr.type == 1 && sameStream y.hdr x.hdr
  if x.hdr.type = 1 then
    s.fab.parts.any (fun y => open_ y && (let k := (x.hdr.seq + 65536 - y.hdr.seq) % 65536; decide (0 < k) && decide (k < 32768)))
  else x.hdr.type == 2 && (s.fab.parts.takeWhile (fun y => y != x)).any open_

/-- What a whole packet for this chip does (R45). -/
def packetTake (x : RxPart) (s : State) : State :=
  let fl := x.flits.map Prod.snd
  match x.hdr.type with
  | 1 => await dLNK (.pw fl 0) s
  | 2 => await dLNK (.rd fl) s
  | 3 => await dLNK (.rdr fl) s
  | _ => ctlArrive x.port x.hdr ((fl.map payload).flatten) s

/-- The part can leave the list: whole and in turn; or all of a packet that is being dropped has come. -/
def partDone (s : State) (x : RxPart) : Bool :=
  if x.dead = 0 then x.whole s && (x.fwd.isSome || !partBlocked s x) else x.eopIn && (x.fwd.isNone || x.dead == 2)

/-- Packets that are whole go on, oldest first, at most `n`. -/
def settleParts : Nat → State → State
  | 0, s => s
  | n + 1, s =>
    match s.fab.parts.find? (partDone s) with
    | none => s
    | some x =>
      let s := modFab (fun b => { b with parts := b.parts.erase x }) s
      settleParts n (if x.dead = 0 ∧ x.fwd.isNone then packetTake x s else s)
/-- Every packet that is whole goes on. -/
def settleAll (s : State) : State := settleParts s.fab.parts.length s

/-- A flit for this chip: its packet is completed, and what the packet does follows (R45). -/
def localFlit (p set : Nat) (h : Hdr) (f : Bytes) (s : State) : State :=
  match h.type with
  | 4 => await dLNK (.pwack f) s
  | 5 => deliverNotice (payload f) s
  | _ => settleAll (addFlit p set f none s)

/-- The port on which a flit for another chip goes on (R59), 8 where it is dropped: its packet has no live route (R61),
or is being discarded (R90). -/
def passPort (s : State) (p set : Nat) (h : Hdr) : Nat :=
  let ps := routePorts s h.dst
  match partOf s p set h with
  | some x =>
    if x.dead ≠ 0 ∨ x.fwd = some 8 ∨ ps.isEmpty then 8
    else if h.type = 1 then ps.getD (x.flits.length % max ps.length 1) 8 else if ps.contains (x.fwd.getD 8) then x.fwd.getD 8 else ps.headD 8
  | none => if reachable s h.dst then ps.headD 8 else 8

/-- A flit for another chip goes on at once (R59), delayed on the faster links of its bundle (R60); a packet without a live
route is dropped whole (R61). -/
def passFlit (p set : Nat) (h : Hdr) (f : Bytes) (s : State) : State :=
  let q := passPort s p set h
  let opens := (partOf s p set h).isNone
  let t := settleAll (addFlit p set f (some q) s)
  if q < 8 then txFlit q h.vc (vcSet s h.dst set) f (if h.type = 1 then pwHold s h.dst q else 0) t
  else if opens then unreachable [f] t else t

/-- A flit could leave on a port at once: no earlier one of its channel and set waits there, and a credit and a place in
the replay buffer are free (R57). -/
def roomFor (s : State) (q vc set : Nat) : Bool :=
  let l := link s q
  !l.txq.any (fun x => x.vc == vc && x.set == set) && canSend s l ⟨vc, set, [], 0⟩

/-- The flit is taken by the AON link logic (R83). -/
def aonFlit (h : Hdr) (f : Bytes) : Bool :=
  let n := u8 (payload f) 0
  h.vc == 3 || (h.type == 5 && (n == 1 || n == 2 || n == 4))

/-- Far-fault notices that have left the receive buffers and are still to be accepted. -/
def faultsComing (s : State) : Nat :=
  let far (c : Instr) : Bool := match c with | .farFault _ => true | _ => false
  (s.heldAcc.filter (fun x => far x.2)).length + (s.pending.filter far).length

/-- The flit cannot leave its receive buffer yet: LNK is not ON (R83), the chip has not locked to an upstream (R93),
FAB_FARQ has no place for it (R81), or the port it goes on by can take none (R57). -/
def mustWait (s : State) (p set : Nat) (f : Bytes) : Bool :=
  let h := hdrOf f
  let q := passPort s p set h
  (!aonFlit h f && !isOn s dLNK) || (h.vc != 3 && onLocal s)
    || (h.type == 5 && u8 (payload f) 0 == 2 && h.dst == s.fab.chip && decide (256 ≤ s.fab.farq.length + faultsComing s))
    || (decide (1 ≤ h.type) && decide (h.type ≤ 6) && h.vc != 3 && h.dst != s.fab.chip && decide (q < 8)
          && !roomFor s q h.vc (vcSet s h.dst set))

/-- A flit leaves its buffer: a credit returns, and it is routed or consumed (R45, R46). -/
def consume (p set : Nat) (f : Bytes) (s : State) : State :=
  let h := hdrOf f
  let s := when_ (!aonFlit h f) (touch dLNK) (emit (.linkSym p 2 h.vc set 1) s)
  let s := when_ h.rsv (setBit rFabErr 1) s
  if h.type = 0 ∨ 6 < h.type then logC 0x040B [] (setBit rFabErr 0 s)
  else
    let s := when_ (h.vc != 3 && h.ep != bit s.fab.cur 0) (setBit rFabErr 2) s
    if h.vc = 3 ∨ h.dst = s.fab.chip then localFlit p set h f s else passFlit p set h f s

/-- An earlier flit of the channel and set that is held also holds this one; the AON link logic passes flits that
wait only for LNK (R57, R81, R83). -/
def behind (held : List (Nat × Bytes)) (set : Nat) (f : Bytes) : Bool :=
  let h := hdrOf f
  held.any (fun x => (hdrOf x.2).vc == h.vc && x.1 == set && (!aonFlit h f || aonFlit (hdrOf x.2) x.2))

/-- Flits held in a port's receive buffers go on, in order within each channel (R57, R81, R83). -/
def drainList (p : Nat) : List (Nat × Bytes) → List (Nat × Bytes) → State → State
  | [], _, s => s
  | (set, f) :: t, kept, s =>
    if behind kept set f ∨ mustWait s p set f then
      drainList p t ((set, f) :: kept) (modLink p (fun l => { l with rxHeld := l.rxHeld ++ [(set, f)] }) s)
    else drainList p t kept (consume p set f s)
/-- Let a port's held flits in. -/
def drainRx (p : Nat) (s : State) : State :=
  let l := (link s p).rxHeld
  drainList p l [] (modLink p (fun l => { l with rxHeld := [] }) s)
/-- Let every port's held flits in. -/
def drainAll (s : State) : State := forEach (List.range 8) drainRx s

/-- FLIT_RECEIVE (R36, R37, R45, R83, R120): counted and acknowledged at link level, then routed, consumed or held. One that
LNK takes wakes it, or restarts its idle timer. -/
def flitReceive (p set : Nat) (f : Bytes) (s : State) : State :=
  let l := link s p
  let h := hdrOf f
  if !(l.st == 6 || ((l.st == 4 || l.st == 5) && h.vc == 3)) then s
  else if !l.coded ∧ u16 f 14 ≠ (crc16 (f.take 14 ++ f.drop 16)).toNat then flitCrcError p s
  else if discards s p then s
  else
    let s := modLink p (fun l => { l with discarding := false }) s
    let s := emit (.linkSym p 1 0 0 1) (addWrap (rLink p 0x1C) 1 s)
    let s := when_ (!aonFlit h f) (wakeAll 5 [dLNK]) s
    if behind (link s p).rxHeld set f ∨ mustWait s p set f then
      modLink p (fun l => { l with rxHeld := l.rxHeld ++ [(set, f)] }) s
    else consume p set f s
def execFlitReceive (port set : Nat) (flit : Bytes) (s : State) := run (.flitReceive port set flit) s (flitReceive port set flit s)

/-! ### Posted writes -/

/-- A source stream's key: this chip's stall and the destination. -/
abbrev srcKey (stall dst : Nat) : Nat := stall * 256 + dst
/-- A destination stream's key: the source chip and its stall. -/
abbrev dstKey (src stall : Nat) : Nat := src * 32 + stall

/-- Inject a built packet of a stream, its header's destination giving the route. -/
def injectPW (dst : Nat) (flits : List Bytes) (s : State) : State := sendPacket 0 dst 0 flits 0 s

/-- Issue a posted write (R70, R71): built with the stream's next SEQ; held while the stream is at its limit or
on hold (R87). Each flit's OFFSET is that of its own 64-byte unit. (DEDUCED, log 84) -/
def issuePW (stall dst kind gen index ofs : Nat) (chans : List Nat) (poison : Bool) (data : Bytes) (s : State) : State :=
  let k := srcKey stall dst
  let z := look s.fab.srcStreams k {}
  let n := max 1 (cdiv data.length 64)
  let fl := ((chunks64 n data).zipIdx).map (fun x =>
    mkFlit { type := 1, vc := 0, poison := poison, eop := x.2 + 1 == n, dst := dst, src := s.fab.chip, stall := stall,
             kind := kind, seq := z.next, index := index, gen := gen, ofs := (ofs + x.2) % 2 ^ 21,
             len := (if x.2 + 1 = n then data.length - 64 * (n - 1) - 1 else 63), ep := bit s.fab.cur 0 } x.1)
  let hold := decide (32768 ≤ z.out.length) || z.holdFor.isSome || !z.held.isEmpty
  let w : WriteRec := { num := s.fab.issues, seq := z.next, handle := BitVec.ofNat 64 (handleOf gen s.fab.chip stall kind index), chans := chans }
  let z := { z with next := (z.next + 1) % 65536, out := z.out ++ [w], held := if hold then z.held ++ [fl] else z.held }
  let s := modFab (fun b => { b with srcStreams := put b.srcStreams k z {}, issues := b.issues + 1 }) s
  if hold then s else injectPW dst fl s

/-- Send what a stream holds, as far as R71's limit on writes issued and not acknowledged goes, once R87 lets it. -/
def releaseHeld (stall dst : Nat) (s : State) : State :=
  let k := srcKey stall dst
  let z := look s.fab.srcStreams k {}
  if z.holdFor.isSome then s
  else
    let n := 32768 - (z.out.length - z.held.length)
    let s := modFab (fun b => { b with srcStreams := put b.srcStreams k { z with held := z.held.drop n } {} }) s
    forEach (z.held.take n) (injectPW dst) s

/-- The request of the table here that a posted write's header names: this chip's own, when it heads the source's aisle or
the source has none (R244). -/
def ownNamed (s : State) (h : Hdr) : Option Nat :=
  if h.index < 4096 ∧ (ent s h.index).st ≠ .free ∧ !(ent s h.index).shadow ∧ (h.src = s.fab.chip
      ∨ ((aisleOf s (ent s h.index).stall).map (fun a => (chain s a).contains (h.src, h.stall))).getD false)
    then some h.index else none

/-- The stall is torn down or in reset (R77). -/
def stallGone (s : State) (n : Nat) : Bool := !(stallCfg s n).enabled || (s.rst.block.map (fun b => b.1 == n)).getD false

/-- A posted write of an aisle's last member to its head returns tokens, for which no rule gives an offset. -/
def tokenReturn (s : State) (h : Hdr) (r : Nat) : Bool :=
  ((aisleOf s (ent s r).stall).bind (fun a => (chain s a).getLast?)) == some (h.src, h.stall)

/-- A unit of a request's page list on this chip (R77). -/
def inPages (e : Entry) (u : Nat) : Bool := e.pages.any (fun q => q.1 == u / 128)

/-- The cause for which a posted write cannot be applied, 0 when it can (R77): what the data path met, `fault`; a stall
gone, or a stale generation; a unit outside the request's pages, or no shadow (R244). -/
def pwCause (s : State) (h : Hdr) (fault : Nat) (n : Nat) : Nat :=
  let inList (e : Entry) : Bool := (List.range n).all (fun i => inPages e (h.ofs + i))
  if fault ≠ 0 ∧ fault ≤ 2 ∨ h.kind ≠ 2 then fault
  else match shadowNamed s h.src h.stall h.gen h.index with
    | some r => if stallGone s (ent s r).stall then 3 else if inList (ent s r) then fault else 4
    | none => match ownNamed s h with
      | some r =>
        if stallGone s (ent s r).stall ∨ h.gen ≠ genOf s 2 r then 3
        else if tokenReturn s h r ∨ inList (ent s r) then fault else 4
      | none => if h.index < 4096 ∧ s.conf.aisles.any (fun a => isHead s a.1 && a.2.contains (h.src, h.stall)) then 3 else 4

/-- The chip that a posted write's handle names: the master's, where this chip knows the request (R189). -/
def handleChip (s : State) (h : Hdr) : Nat :=
  match shadowNamed s h.src h.stall h.gen h.index with
  | some r => hChip (ent s r).seed.toNat
  | none => if (ownNamed s h).isSome then s.fab.chip else h.src

/-- The argument of a far fault (R78): for PAGE_BOUND the bound, in pages; for ECC the syndrome, which no command brings
and nothing in the specification gives a value. (DESIGN CHOICE, log 83) -/
def faultArg (s : State) (h : Hdr) (cause : Nat) : Nat × State :=
  if cause = 1 then let f := fresh s; (f.1 % 2 ^ 32, f.2)
  else if cause = 4 then
    ((((shadowNamed s h.src h.stall h.gen h.index).or (ownNamed s h)).map (fun r => (ent s r).pages.length)).getD 0, s)
  else (0, s)

/-- A posted-write packet (R70, R72, R75, R77, R90): SEQs before it that never came are passed over, and it is
applied, faulted or, with ABT, passed over itself. A unit's poison mark follows the last packet that wrote any of it; no
rule says when a mark ends, and a kernel's own writes leave it. (DESIGN CHOICE, log 83) -/
def pwArrive (flits : List Bytes) (fault : Nat) (s : State) : State :=
  match flits.head? with
  | none => s
  | some f0 =>
    let h := hdrOf f0
    let abt := flits.any (fun f => (hdrOf f).abt)
    let k := dstKey h.src h.stall
    let d := look s.fab.dstStreams k {}
    let gap := (h.seq + 65536 - d.next) % 65536
    if 32768 ≤ gap then s          -- behind the stream: already covered
    else
      let cause := if abt then 0 else pwCause s h fault flits.length
      let d := { d with
        next := (h.seq + 1) % 65536, lost := (d.lost + gap + (if abt then 1 else 0)) % 65536,
        faults := if cause = 0 then d.faults else (d.faults + 1) % 65536,
        unacked := d.unacked + gap + 1, oldest := d.oldest.or (some s.ft) }
      let s := modFab (fun b => { b with dstStreams := put b.dstStreams k d {} }) s
      if abt then s
      else if cause ≠ 0 then
        let hd := handleOf h.gen (handleChip s h) h.stall h.kind h.index
        let a := faultArg s h cause
        logC 0x0406 [h.seq, h.src, h.stall] (sendFault cause h.src h.stall h.dst h.seq hd h.ofs a.1 a.2)
      else
        forEach flits.zipIdx (fun x s =>
          let u := h.ofs + x.2
          let n := (hdrOf x.1).len + 1
          { s with pond := putBytes s.pond (64 * u) ((payload x.1).take n),
                   poison := put s.poison u (if (hdrOf x.1).poison then 1 else 0) 0 }) s
/-- The packet is applied: not closed by ABT, not behind its stream, and with no cause of R77. -/
def pwTaken (flits : List Bytes) (fault : Nat) (s : State) : Bool :=
  match flits.head? with
  | none => false
  | some f =>
    let h := hdrOf f
    !flits.any (fun f => (hdrOf f).abt) && decide ((h.seq + 65536 - (look s.fab.dstStreams (dstKey h.src h.stall) {}).next) % 65536 < 32768)
      && pwCause s h fault flits.length == 0

/-- A read request: the 64-byte unit at its pond offset goes back as an RDR (R70); of a packet closed by ABT nothing is
done (R90). The header gives a pond offset only, and no rule says how an RD asks for lake data: the answer is from
pond. (DESIGN CHOICE, log 83) -/
def rdArrive (flits : List Bytes) (s : State) : State :=
  match flits.head? with
  | none => s
  | some f0 =>
    let h := hdrOf f0
    if flits.any (fun f => (hdrOf f).abt) then s else
    let data := lookBytes s.pond (64 * h.ofs) (h.len + 1)
    let g := mkFlit { h with type := 3, vc := 1, dst := h.src, src := s.fab.chip, eop := true,
                             poison := look s.poison h.ofs 0 != 0, ep := bit s.fab.cur 0, rsv := false } data
    sendPacket 1 h.src 0 [g] 0 s
def execRd (flits : List Bytes) (s : State) := run (.rd flits) s (rdArrive flits s)

/-- A read response completes its read, or is discarded when the read was taken as failed (R89): in both cases the read
is over. One closed by ABT is no response (R90). No rule gives an operation of the chip that issues a read, so what one
does with its data is not said. -/
def rdrArrive (flits : List Bytes) (s : State) : State :=
  match flits.head? with
  | none => s
  | some f0 =>
    let h := hdrOf f0
    if flits.any (fun f => (hdrOf f).abt) then s else
    let hd := BitVec.ofNat 64 (handleOf h.gen s.fab.chip h.stall h.kind h.index)
    match s.fab.reads.find? (fun x => x.dst == h.src && x.handle == hd) with
    | some x => modFab (fun b => { b with reads := b.reads.erase x }) s
    | none => s
def execRdr (flits : List Bytes) (s : State) := run (.rdr flits) s (rdrArrive flits s)

/-- The destination sends a cumulative PWACK after 16 covered writes, or 64 FT after the oldest (R72, R73). Its LEN counts
the six bytes that carry something; no rule gives it. (DESIGN CHOICE, log 83) -/
def pwackSend (src stall : Nat) (s : State) : State :=
  let k := dstKey src stall
  let d := look s.fab.dstStreams k {}
  let due := 16 ≤ d.unacked ∨ (0 < d.unacked ∧ (d.oldest.map (· + 64)).getD 0 ≤ s.ft)
  if due then
    let h : Hdr := { type := 4, vc := 1, dst := src, src := s.fab.chip, stall := stall, len := 5, ep := bit s.fab.cur 0 }
    let pl := leBytes 2 ((d.next + 65535) % 65536) ++ leBytes 2 d.faults ++ leBytes 2 d.lost ++ zeros 58
    let s := modFab (fun b => { b with dstStreams := put b.dstStreams k { d with unacked := 0, oldest := none } {} }) s
    sendPacket 1 src 0 [mkFlit h pl] 0 s
  else s
def execPwackSend (src stall : Nat) (s : State) := run (.pwackSend src stall) s (pwackSend src stall s)

/-- Take a waiting PWACK as acknowledged once the fault and loss counts match (R74). -/
def tryAck (stall dst : Nat) (s : State) : State :=
  let k := srcKey stall dst
  let z := look s.fab.srcStreams k {}
  match z.waiting with
  | none => s
  | some (a, f, l) =>
    if f = z.faults ∧ l = z.losses then
      let n := ((a + 1) + 65536 - z.acked) % 65536
      let z := { z with acked := (a + 1) % 65536, waiting := none, out := if n ≤ z.out.length then z.out.drop n else z.out }
      releaseHeld stall dst (modFab (fun b => { b with srcStreams := put b.srcStreams k z {} }) s)
    else s

/-- A PWACK at its source (R74). -/
def pwackArrive (flit : Bytes) (s : State) : State :=
  let h := hdrOf flit
  let pl := payload flit
  let k := srcKey h.stall h.src
  let z := look s.fab.srcStreams k {}
  let ahead := ((u16 pl 0 + 1) + 65536 - z.acked) % 65536
  let s := if ahead = 0 ∨ 32768 < ahead then s
    else modFab (fun b => { b with srcStreams := put b.srcStreams k { z with waiting := some (u16 pl 0, u16 pl 2, u16 pl 4) } {} }) s
  tryAck h.stall h.src s
def execPwack (flit : Bytes) (s : State) := run (.pwack flit) s (pwackArrive flit s)

/-! ### Notices -/

/-- A far fault is accepted or held (R80, R81), and an acknowledgement that may have waited for it is taken (R74). -/
def faultTake (pl : Bytes) (s : State) : State := tryAck (u8 pl 4 % 32) (u8 pl 5) (takeFault pl s)

/-- A far-fault notice (R80, R81); what its link holds back behind it follows. -/
def execFarFault (payload : Bytes) (s : State) :=
  run (.farFault payload) s (drainAll (faultTake payload s))

/-- A WAKE notice opens the domains of its mask (R120, R121). -/
def execWake (payload : Bytes) (s : State) := run (.wake payload) s (wakeAll 1 (wakeMask (u8 payload 2)) s)

/-- A ROW_MASK notice (R271, R346): at its effect FT, or on arrival when late, with 0x0802. -/
def rowMaskMsg (pl : Bytes) (s : State) : State :=
  let a := u8 pl 1
  let h := u64 pl 8
  let eff := u64 pl 16
  if s.ft < eff then await (dAt eff) (.rowMask pl) s
  else
    let s := when_ (decide (eff < s.ft)) (logC 0x0802) s
    let hits := s.steps.filter (fun t => t.aisle == a && t.rows.any (fun x => x.req == hIdx h && x.gen == hGen h))
    forEach hits (fun t s =>
      let i := t.rows.findIdx (fun x => x.req == hIdx h && x.gen == hGen h)
      let s := modStep a t.num (fun t => { t with rows := t.rows.map (fun x =>
        if x.req == hIdx h && x.gen == hGen h then { x with live := false } else x) }) s
      maskStep a t.num i s) s
def execRowMask (payload : Bytes) (s : State) := run (.rowMask payload) s (rowMaskMsg payload s)

/-- A CHIP_LOST notice (R532, R535): repeats about a lost chip are ignored; a CYCLE_STOP ends the member's
requests without declaring the chip lost. -/
def chipLostMsg (pl : Bytes) (s : State) : State :=
  let x := u8 pl 1
  let kind := u8 pl 3
  if x = s.fab.chip ∨ s.fab.lost.contains x then s
  else if kind = 3 then loseMember x 3 (postArmed 3 s)
  else declareLost x kind (u8 pl 2) s
def execChipLost (payload : Bytes) (s : State) := run (.chipLost payload) s (chipLostMsg payload s)

/-- Far faults held back are applied while FAB_FARQ has room (R81). -/
def applyHeld : Nat → State → State
  | 0, s => s
  | n + 1, s =>
    match s.fab.farHeld with
    | [] => s
    | pl :: t => if 256 ≤ s.fab.farq.length then s
      else applyHeld n (faultTake pl (modFab (fun b => { b with farHeld := t }) s))

/-- A write of FAB_FARQ_HEAD removes entries up to the new head, or is ignored (R82); then held faults and
notices come in. (DEDUCED, log 57) -/
def farqHeadWrite (v : Word) (s : State) : State :=
  let h := v.toNat % 256
  let n := (h + 256 - s.fab.farqHead) % 256
  if s.fab.farq.length < n then s
  else
    let s := modFab (fun b => { b with farqHead := h, farq := b.farq.drop n }) s
    drainAll (applyHeld s.fab.farHeld.length s)
def execFabFarqHeadWrite (value : Word) (s : State) := run (.fabFarqHeadWrite value) s (farqHeadWrite value s)

/-! ### Route epochs -/

/-- The epoch grid exponent (FAB_EPOCH_GRID). -/
def epochG (s : State) : Nat := let g := rdf s 0x00080014 4 0; if 16 ≤ g ∧ g ≤ 24 then g else 20
/-- The first epoch instant at or after `t` (R84). -/
def epochInstant (s : State) (t : Nat) : Nat := cdiv t (2 ^ epochG s) * 2 ^ epochG s

/-- Some chip known to this one advertises HOLDOVER or SLEWING (R103). -/
def marketBusy (s : State) : Bool :=
  s.clk.source == 4 || s.clk.slewing ||
    (List.range 8).any (fun p => (link s p).st == 6 &&
      ((link s p).nbr.map (fun (n : Nbr) => n.flags.toNat / 4 % 4 != 0)).getD false)

/-- The root arms epoch `n` on every chip (R85), or waits while R103 forbids it. (DEDUCED, log 60) -/
def armEpoch (n : Nat) (s : State) : State :=
  if marketBusy s then modFab (fun b => { b with armWait := some n }) s
  else
    let t := epochInstant s (s.ft + 102400)
    let body := leBytes 2 n ++ zeros 6 ++ leBytes 8 t
    let s := forEach (s.fab.chips.filter (fun c => c.serial != s.serial)) (fun c => ctlToChip 0x21 c body) s
    modFab (fun b => { b with armWait := none, armed := some (n, t), epochAt := t,
                              stagedTab := if b.stagedNum = n then b.stagedTab else b.active, stagedNum := n }) s

/-- The total hop latency of the route in force toward a chip: its hop count times the latency of this chip's own first
live link on it. No rule gives the chip a figure for further links. (DESIGN CHOICE, log 83) -/
def routeLat (s : State) (dst : Nat) : Nat :=
  let e := route s dst
  let p := (routePorts s dst).headD 0
  (if (bits e 7 0) / 2 ^ p % 2 = 1 then bits e 23 18 else bits e 29 24) * (link s p).hoplat

/-- Make the staged table active (R86, R87, R91): streams whose new route is shorter are held. -/
def commitEpoch (n code : Nat) (s : State) : State :=
  let old := s.fab.srcStreams.map (fun z =>
    (z.1, routeLat s (z.1 % 256), flitSlot (link s ((routePorts s (z.1 % 256)).headD 0)).coded))
  let s := modFab (fun b => { b with active := b.stagedTab, cur := n, armed := none, routeActive := true, altHold := [] }) s
  let s := forEach (List.range 8) (fun p => modLink p (fun l => { l with benched := if l.st = 6 then false else l.benched })) s
  let s := forEach old (fun o s =>
    let new := routeLat s (o.1 % 256)
    if new < o.2.1 then
      modFab (fun b => { b with srcStreams := upd b.srcStreams o.1 {} (fun z => { z with holdFor := some (o.2.1 - new + o.2.2) }) }) s
    else s) s
  logC code [] s

/-- At the root: when every chip has reported its staged table for epoch `n`, EPOCH_ARM goes out (R85). -/
def armIfStaged (n : Nat) (s : State) : State :=
  let all := (s.fab.chips.filter (fun c => c.serial != s.serial)).all (fun c => s.fab.reports.contains (n * 256 + c.id))
  if isRoot s ∧ s.fab.stagedNum = n ∧ all ∧ s.fab.armed.isNone then armEpoch n s else s

/-- The root takes a STAGED report; when every chip has reported, EPOCH_ARM goes out (R85). -/
def stagedMsg (msg : Bytes) (s : State) : State :=
  let b := (ctlOf msg).body
  if isRoot s then
    let n := u16 b 0
    armIfStaged n (modFab (fun f => { f with reports := (f.reports ++ [n * 256 + u8 b 2]).dedup }) s)
  else s
def execStaged (msg : Bytes) (s : State) := run (.staged msg) s (stagedMsg msg s)

/-- EPOCH_ARM (R86, R583): armed, or committed at once when its FT has passed. A chip that holds no table of that
number stages its active table unchanged. -/
def epochArmMsg (msg : Bytes) (s : State) : State :=
  let b := (ctlOf msg).body
  let n := u16 b 0
  let t := u64 b 8
  let s := if s.fab.stagedNum = n then s else modFab (fun f => { f with stagedNum := n, stagedTab := f.active }) s
  let s := modFab (fun f => { f with armed := some (n, t), epochAt := t }) s
  if t < s.ft then commitEpoch n 0x0409 s else s
def execEpochArm (msg : Bytes) (s : State) := run (.epochArm msg) s (epochArmMsg msg s)

/-- At the commit FT the staged table becomes active (R86). -/
def epochCommit (s : State) : State :=
  match s.fab.armed with
  | some (n, t) => if t ≤ s.ft ∧ s.fab.stagedNum = n then commitEpoch n 0x0408 s else s
  | none => s
def execEpochCommit (s : State) := run .epochCommit s (epochCommit s)

/-- Flits of one of this chip's write streams wait on some port. -/
def streamQueued (s : State) (stall dst : Nat) : Bool :=
  (List.range 8).any (fun p => (link s p).txq.any (fun q =>
    let h := hdrOf q.flit; h.type == 1 && h.src == s.fab.chip && h.stall == stall && h.dst == dst))

/-- The hold of R87 on a stream ends, counted from the last flit sent on the old route, and its packets are injected. -/
def routeHoldRelease (stall dst : Nat) (s : State) : State :=
  let k := srcKey stall dst
  let z := look s.fab.srcStreams k {}
  match z.holdFor with
  | some d => if !streamQueued s stall dst ∧ z.lastTx + d ≤ s.ft then
      releaseHeld stall dst (modFab (fun b => { b with srcStreams := put b.srcStreams k { z with holdFor := none } {} }) s)
    else s
  | none => s
def execRouteHoldRelease (stall dst : Nat) (s : State) := run (.routeHoldRelease stall dst) s (routeHoldRelease stall dst s)

/-! ### Each fast cycle -/

/-- What the links do on a fast cycle: a link in RETRAIN returns to DETECT (R39), flits whose hold is over leave (R41, R60),
packets that waited go on (R57, R70). -/
def linkCycle (s : State) : State :=
  let s := forEach (List.range 8) (fun p s => let s := retrainStep p s; pump p (link s p).txq.length s) s
  settleAll (drainAll s)

end Sys2Proof.Machine
end

