-- ==== Sys2Proof/Machine/Discovery.lean ====
section
/-! DEFINITION. Discovery and chip ids (R65 to R69, R581, R584), and how a chip rejoins its Market (R537, R582,
R583). -/
namespace Sys2Proof.Machine

/-- FAB_DISC_CTL.START on the root begins discovery; once a route image is active it is ignored (R65, R581). The
write also sets CID_SRC. -/
def fabDiscStart (s : State) : State :=
  if isRoot s ∧ !s.fab.routeActive then
    modFab (fun b => { b with discWant := true, discBusy := true, discDone := false }) s
  else s
def execFabDiscStart (s : State) := run .fabDiscStart s (fabDiscStart s)

/-- A link has finished training, failed, or is disabled. -/
def settled (s : State) (p : Nat) : Bool := let x := (link s p).st; x == 0 || x == 6 || x == 8

/-- The link records of a REPORT (R51). -/
def linkRecs (s : State) : List (Nat × W64 × Nat × Nat × Nat) :=
  (List.range 8).filterMap (fun p =>
    let l := link s p
    match l.st, l.nbr with
    | 6, some n => some (p, n.serial, n.port, b2n l.coded, l.hoplat)
    | _, _ => none)

/-- Once every root link has finished training or failed, the root sends DISCOVER on every ACTIVE link (R65). The
first discovery needs no START (R580). -/
def discoveryBegin (s : State) : State :=
  let b := s.fab
  if isRoot s ∧ (b.discWant ∨ (!b.discDone ∧ !b.discBusy ∧ bits (rd s 0x00080008) 2 2 = 0))
      ∧ (List.range 8).all (settled s) then
    let num := b.discNum + 1
    let me : ChipRec := { serial := s.serial, path := [], pathLen := 0, strapCid := s.straps.cid, links := linkRecs s }
    let s := modFab (fun b => { b with discWant := false, discBusy := true, discNum := num, discAt := s.ft, chips := [me] }) s
    forEach ((List.range 8).filter (fun p => (link s p).st == 6)) (fun p s =>
      ctlOn p (farId s p) { sub := 0x10, mode := 1, pathLen := 1, hop := 0, path := withOut 0 0 p,
                            body := leBytes 8 s.serial.toNat ++ leBytes 2 num } s) s
  else s
def execDiscoveryBegin (s : State) := run .discoveryBegin s (discoveryBegin s)

/-- A DISCOVER is answered with a REPORT along its path reversed; the first of its number is also forwarded
(R51, R65). One that comes back to the root is answered too, and goes no further. -/
def discoverMsg (p : Nat) (msg : Bytes) (s : State) : State :=
  let c := ctlOf msg
  if c.pathLen = 0 then s
  else
    let num := u16 c.body 8
    let path := withIn c.path (c.pathLen - 1) p
    let first := !isRoot s && s.fab.discSeen != some num
    let ls := linkRecs s
    let body := leBytes 8 s.serial.toNat ++ [BitVec.ofNat 8 s.straps.cid, BitVec.ofNat 8 ls.length] ++ leBytes 2 num
      ++ zeros 20 ++ (ls.map (fun l => [BitVec.ofNat 8 l.1] ++ leBytes 8 l.2.1.toNat ++
        [BitVec.ofNat 8 l.2.2.1, BitVec.ofNat 8 l.2.2.2.1, 0] ++ leBytes 2 l.2.2.2.2 ++ zeros 2)).flatten
    let s := when_ first (modFab (fun b => { b with discSeen := some num, upPort := some p })) s
    let s := ctlOn p 0 { sub := 0x11, mode := 1, reverse := true, pathLen := c.pathLen, hop := c.pathLen - 1, path := path, body := body } s
    if first ∧ c.pathLen < 32 then
      forEach ((List.range 8).filter (fun q => q != p && (link s q).st == 6)) (fun q s =>
        ctlOn q (farId s q) { c with mode := 1, pathLen := c.pathLen + 1, hop := c.pathLen, path := withOut path c.pathLen q } s) s
    else s
def execDiscover (port : Nat) (msg : Bytes) (s : State) := run (.discover port msg) s (discoverMsg port msg s)

/-- The root records the first REPORT of each serial number in the discovery under way (R51), of 256 chips (R14); what
becomes of a 257th is not stated: it gets no id. (DESIGN CHOICE, log 87) -/
def reportMsg (msg : Bytes) (s : State) : State :=
  let c := ctlOf msg
  let b := c.body
  let ser := BitVec.ofNat 64 (u64 b 0)
  if isRoot s ∧ s.fab.discBusy ∧ u16 b 10 = s.fab.discNum % 65536 ∧ !(s.fab.chips.any (fun x => x.serial == ser))
      ∧ s.fab.chips.length < 256 then
    let ls := (List.range (min (u8 b 9) 8)).map (fun i =>
      let o := 32 + 16 * i
      (u8 b o, BitVec.ofNat 64 (u64 b (o + 1)), u8 b (o + 9), u8 b (o + 10), u16 b (o + 12)))
    let r : ChipRec := { serial := ser, path := leBytes 24 c.path, pathLen := c.pathLen, strapCid := u8 b 8, links := ls }
    modFab (fun f => { f with chips := f.chips ++ [r] }) s
  else s
def execReport (msg : Bytes) (s : State) := run (.report msg) s (reportMsg msg s)

/-- Insert a chip in ascending order of serial number. -/
def serialSorted (c : ChipRec) : List ChipRec → List ChipRec
  | [] => [c]
  | x :: t => if c.serial.toNat < x.serial.toNat then c :: x :: t else x :: serialSorted c t

/-- Ids by serial number, or by strap (R66). -/
def withIds (byStrap : Bool) (root : W64) (cs : List ChipRec) : List ChipRec :=
  if byStrap then cs.map (fun c => { c with id := c.strapCid })
  else
    let others := (cs.filter (fun c => c.serial != root)).foldl (fun l c => serialSorted c l) []
    (cs.filter (fun c => c.serial == root)).map (fun c => { c with id := 0 }) ++
      (others.zipIdx).map (fun x => { x.1 with id := x.2 + 1 })

/-- The first pair of chips with one strap id (R67). -/
def dupPair : List ChipRec → Option (W64 × W64)
  | [] => none
  | c :: t => match t.find? (fun x => x.strapCid == c.strapCid) with
    | some x => some (c.serial, x.serial)
    | none => dupPair t

/-- Strap ids that cannot stand (R67): two equal ones, or 0 on a chip that is not the root. -/
def badStraps (root : W64) (cs : List ChipRec) : Option (W64 × W64) :=
  (dupPair cs).or ((cs.find? (fun c => c.serial != root && c.strapCid == 0)).map (fun c => (root, c.serial)))

/-- Insert a number in ascending order, once. -/
def natSorted (n : Nat) : List Nat → List Nat
  | [] => [n]
  | x :: t => if n = x then x :: t else if n < x then n :: x :: t else x :: natSorted n t

/-- The topology fingerprint (R69): CRC-32C of the sorted link records. -/
def topoFp (cs : List ChipRec) : Word :=
  let idOf (ser : W64) : Option Nat := (cs.find? (fun c => c.serial == ser)).map ChipRec.id
  let recs := cs.flatMap (fun c => c.links.filterMap (fun l => (idOf l.2.1).map (fun o =>
    let a := (c.id, l.1 + 128 * l.2.2.2.1)
    let b := (o, l.2.2.1 + 128 * l.2.2.2.1)
    let (x, y) := if a.1 < b.1 ∨ (a.1 = b.1 ∧ a.2 ≤ b.2) then (a, b) else (b, a)
    x.1 + 256 * x.2 + 65536 * y.1 + 16777216 * y.2)))
  crc32c (((recs.foldl (fun l n => natSorted n l) []).map (leBytes 4)).flatten)

/-- Every neighbour a record names has reported. -/
def discClosed (s : State) : Bool :=
  s.fab.chips.all (fun c => c.links.all (fun l => s.fab.chips.any (fun x => x.serial == l.2.1)))

/-- The root completes discovery (R66 to R69), or stops on a strap id that cannot stand. Strap ids are looked at
only where they give the ids, with CID_SRC at 1. (DESIGN CHOICE, log 83) -/
def discoveryComplete (s : State) : State :=
  if isRoot s ∧ s.fab.discBusy ∧ !s.fab.discWant ∧ (discClosed s ∨ s.fab.discAt + 1600000 ≤ s.ft) then
    let byStrap := bit (rd s 0x00080004) 1
    match (if byStrap then badStraps s.serial s.fab.chips else none) with
    | some (a, b) =>
      logC 0x0407 [a.toNat % 2 ^ 32, a.toNat / 2 ^ 32, b.toNat % 2 ^ 32, b.toNat / 2 ^ 32]
        (setBit 0x00080008 2 (modFab (fun f => { f with discBusy := false }) s))
    | none =>
      let cs := withIds byStrap s.serial s.fab.chips
      let n := cs.length
      let own := ((cs.find? (fun c => c.serial == s.serial)).map ChipRec.id).getD 0
      let s := modFab (fun f => { f with chips := cs, market := n, discBusy := false, discDone := true, chip := own, valid := true }) s
      let s := wr 0x0008000C (topoFp cs).toNat s
      forEach (cs.filter (fun c => c.serial != s.serial)) (fun c s =>
        ctlToChip 0x12 c (leBytes 8 c.serial.toNat ++ [BitVec.ofNat 8 c.id] ++ leBytes 2 n ++ zeros 5 ++ leBytes 8 s.serial.toNat) s) s
  else s
def execDiscoveryComplete (s : State) := run .discoveryComplete s (discoveryComplete s)

/-- An ASSIGN with this chip's serial number gives its id (R51, R68). -/
def assignMsg (p : Nat) (msg : Bytes) (s : State) : State :=
  let b := (ctlOf msg).body
  if u64 b 0 = s.serial.toNat then
    modFab (fun f => { f with chip := u8 b 8, valid := true, market := u16 b 9, upPort := f.upPort.or (some p) }) s
  else s
def execAssign (port : Nat) (msg : Bytes) (s : State) := run (.assign port msg) s (assignMsg port msg s)

/-- IMG_DIGEST as 48 bytes. -/
def imgDigest (s : State) : Bytes := ((List.range 12).map (fun i => leBytes 4 (rd s (0x00060080 + 4 * i)))).flatten

/-- A REJOIN (R537, R583): the root arms the next epoch with tables unchanged, and a head chip restores its counts
for a chip that reports an active image. -/
def rejoinMsg (msg : Bytes) (s : State) : State :=
  let c := ctlOf msg
  let b := c.body
  let id := u8 b 8
  let s := modFab (fun f => { f with lost := f.lost.filter (· != id) }) s
  let heads := s.conf.aisles.filter (fun a => isHead s a.1 && a.2.any (fun m => m.1 == id))
  let s := if allZero (slice b 16 48) then s
    else forEach heads (fun a s => forEach (a.2.filter (fun m => m.1 == id)) (fun m s =>
      { s with free := put s.free (m.1 * 32 + m.2) {} {} }) s) s
  if isRoot s then
    let s := if c.mode = 2 then forEach (s.fab.chips.filter (fun x => x.serial != s.serial && x.id != id)) (fun x => ctlToChip 0x22 x b) s else s
    modFab (fun f => { f with rejoined := (f.rejoined ++ [id]).dedup }) (armEpoch (s.fab.cur + 1) s)
  else s
def execRejoin (msg : Bytes) (s : State) := run (.rejoin msg) s (rejoinMsg msg s)

/-- A chip that has rebuilt its configuration after a warm reset and has FT_VALID sends REJOIN to the root and to
the head chip of each of its aisles (R582). -/
def rejoinSend (s : State) : State :=
  if s.rst.rejoin ∧ s.clk.ftValid ∧ s.fab.valid ∧ s.conf.present ∧ s.rst.phase = 0 then
    let body := leBytes 8 s.serial.toNat ++ [BitVec.ofNat 8 s.fab.chip] ++ zeros 7 ++ imgDigest s
    let hs := ((s.conf.aisles.filter (fun a => a.2.any (fun m => m.1 == s.fab.chip))).filterMap (fun a => a.2.head?.map Prod.fst)).dedup
    let hs := hs.filter (fun h => h != s.fab.chip && h != 0)
    let s := { s with rst := { s.rst with rejoin := false } }
    let s := if isRoot s then s else ctlUp 0x22 0 body s
    if s.fab.routeActive then forEach hs (fun h => ctlUp 0x22 h body) s else s
  else s
def execRejoinSend (s : State) := run .rejoinSend s (rejoinSend s)

/-- The root sees a chip with no id whose serial number it has recorded, and sends it its id (R584). -/
def execUnassignedChipSeen (port : Nat) (serial : W64) (s : State) :=
  run (.unassignedChipSeen port serial) s
    (if isRoot s ∧ s.fab.discDone then
      match s.fab.chips.find? (fun c => c.serial == serial && c.serial != s.serial) with
      | some c => ctlToChip 0x12 c (leBytes 8 c.serial.toNat ++ [BitVec.ofNat 8 c.id] ++ leBytes 2 s.fab.market ++ zeros 5 ++ leBytes 8 s.serial.toNat) s
      | none => s
    else s)

/-- Discard the work items of an aisle on this chip. -/
def dropAisleItems (a : Nat) (s : State) : State :=
  let ks := (s.wks.pool.filter (fun p => p.2.st != .free && p.2.aisle == a && !p.2.loose)).map Prod.fst
  let s := forEach ks freeItem s
  modWks (fun w => { w with cores := w.cores.map (fun c => (c.1, if (c.2.item.map ks.contains).getD false then { c.2 with item := none, started := none, filling := none } else c.2)) }) s

/-- Free a shadow: pages, and the entry (R245, R574). -/
def freeShadow (r : Nat) (s : State) : State :=
  let s := releasePages r s
  bumpGen 2 r { s with rtb := put s.rtb r {} {}, side := put s.side r {} {} }

/-- End every request of an aisle for a reset of one of its stalls (R575): commands complete LOST_RESET and what
is not PAUSED is freed. -/
def resetAisle (a : Nat) (s : State) : State :=
  forEach ((aisleReqs s a).filter (fun r => (ent s r).st != .paused)) (endReq 0x44 true) s

/-- STALL_RESET (R574, R575): a member frees its shadows that are not PAUSED; the head ends the aisle's requests
and restores its counts for the member. -/
def stallResetMsg (msg : Bytes) (s : State) : State :=
  let b := (ctlOf msg).body
  let a := u8 b 0
  let ch := u8 b 1
  let st := u8 b 2
  if isHead s a then
    let s := dropAisleItems a (resetAisle a s)
    { s with free := put s.free (ch * 32 + st) {} {}, steps := s.steps.filter (fun t => t.aisle != a) }
  else if (chain s a).any (fun m => m.1 == s.fab.chip) then
    let rs := (s.rtb.filter (fun p => p.2.shadow && (aisleOf s p.2.stall) == some a && p.2.st != .paused)).map Prod.fst
    dropAisleItems a { (forEach rs freeShadow s) with steps := s.steps.filter (fun t => t.aisle != a) }
  else s
def execStallReset (msg : Bytes) (s : State) := run (.stallReset msg) s (stallResetMsg msg s)

end Sys2Proof.Machine
end

