-- ==== Sys2Proof/Machine/ResetOps.lean ====
section
/-! DEFINITION. Taking a reset and what it reaches (R12, R548 to R552, R561 to R565): the one place where a reset
source of any block ends. The release sequence and the rows that raise each source are in Reset.lean. -/
namespace Sys2Proof.Machine

/-- RST_CAUSE. -/
abbrev rCause : Nat := 0x00010000

/-- Change the reset unit. -/
def modRst (f : Rst → Rst) (s : State) : State := { s with rst := f s.rst }

/-- Return the fields whose letter answers to a reset to their reset values (R12); of stall windows only those
that `own` names when the reset is a stall's. -/
def clearRegs (reach : ResetReach) (own : Nat → Bool) (s : State) : State :=
  { s with regs := s.regs.filterMap (fun p =>
      match regAt p.1 with
      | none => some p
      | some r =>
        if own p.1 then
          let m := r.maskOf (fun f => f.rst.clearedBy reach)
          let v := (p.2 &&& ~~~m) ||| (regReset p.1 &&& m)
          if v = regReset p.1 then none else some (p.1, v)
        else some p) }

/-- The chip is in a release sequence, or a pin or the temperature holds a reset in force. -/
def inReset (s : State) : Bool := s.rst.phase != 0 || s.rst.waiting || s.rst.thermalWait

/-- A block reset is in progress (RST_BLOCK_STAT.BUSY). -/
def blockBusy (s : State) : Bool := s.rst.block.isSome || (s.rst.blockDom.map (fun d => !isOn s d)).getD false

/-- A farewell, or a warm reset that owes one, is in progress: no fetch, no step, no trigger (R553). -/
def leaving (s : State) : Bool := s.rst.warmTaken || s.rst.farewell.isSome || inReset s

/-- RST_GAP in FT (R558): values below 16 select 16. -/
def gapFt (s : State) : Nat := 8 * max 16 (rdf s 0x0001000C 7 0)
/-- RST_QTO in FT: values outside 1 to 1,000 select 20. -/
def qtoFt (s : State) : Nat := let q := rdf s 0x00010010 9 0; us (if 1 ≤ q ∧ q ≤ 1000 then q else 20)

/-- Domains of a block of the release order (R557). -/
def blockDoms (phase : Nat) : List Nat :=
  match phase with
  | 2 => [dNMC] | 3 => [dPNA, dPNB] | 4 => [dSEQ] | 5 => [dLNK] | 6 => [0, 1, 2, 3] | 7 => [dHST] | 8 => [dEGR]
  | 9 => [dCCR] | _ => []

/-- Reload of a domain in a release (R557). -/
def releaseReload (cold : Bool) (d : Nat) : Nat :=
  if d < 4 then 1600
  else match d with
    | 6 => 2048 | 9 => 1600 | 8 => 320000
    | 7 => if cold then 0 else 3200
    | 10 => if cold then 0 else 800
    | 11 => if cold then 0 else 16000
    | _ => 0

/-- Command the power-up of domains at an instant (R557, R558). -/
def powerUp (ds : List Nat) (at_ : Nat) (s : State) : State :=
  forEach ds (fun d => setDom d { st := .on, src := .off, begun := some at_, done := some (at_ + 3840) }) s

/-- The CHIP_LOST notice of R534: to the chip behind every ACTIVE link, and by the routing table to every chip it
reaches. -/
def announceReset (causes : Nat) (s : State) : State :=
  if !s.fab.valid then s
  else
    let pl := chipLostNotice s.fab.chip s.fab.chip 1 causes s.ft
    let reach := (List.range 256).filter (fun x => x != s.fab.chip && reachable s x && !bit (route s x) 30)
    let s := forEach reach (fun x => sendNotice x pl) s
    -- the chip one hop away by a port, else DST 0
    let far (p : Nat) : Nat := ((List.range 256).find? (fun x =>
      x != s.fab.chip && bits (route s x) 23 18 == 1 && bit (bits (route s x) 7 0) p)).getD 0
    forEach ((List.range 8).filter (fun p => (link s p).st == 6)) (fun p s =>
      txFlit p 2 0 (mkFlit { type := 5, vc := 2, dst := far p, src := s.fab.chip, ep := bit s.fab.cur 0 } pl) 0 s) s

/-- What every reset does to the security module's volatile side: sessions end (R594). -/
def endSessions (m : Secm) : Secm := { m with chans := m.chans.map (fun c => (c.1, { c.2 with role := 0, ident := 0, challenge := none, rsp := [] })) }

/-- The security module after a cold reset: what fuses and the key store hold is kept (R550, R614, R615). -/
def secmCold (m : Secm) : Secm :=
  { lc := m.lc, hukGone := m.hukGone, sign := m.sign, wrap := m.wrap, user := m.user, banks := m.banks, ctr := m.ctr,
    ctrUse := m.ctrUse, tamperCause := m.tamperCause, tamperCount := m.tamperCount, tamperLog := m.tamperLog,
    erasePending := m.erasePending || m.erasing.isSome, draws := m.draws }

/-- The non-volatile cells as they stand. -/
def nvCells (m : Secm) : NvCells := { lc := m.lc, ctr := m.ctr, ctrUse := m.ctrUse, banks := m.banks }
/-- POR cuts a write pulse off (R564): its cell has its old or its new value, which of them is not stated (a free
value); a pulse that had not begun has changed nothing. (DESIGN CHOICE, log 14) -/
def cutPulse (s : State) : State :=
  match s.secm.nvOld.filter (fun p => s.ft < p.1) with
  | [] => s
  | p :: rest =>
    let f := fresh s
    let c := if f.1 % 2 = 0 then p.2 else (rest.head?.map Prod.snd).getD (nvCells s.secm)
    { f.2 with secm := { f.2.secm with lc := c.lc, ctr := c.ctr, ctrUse := c.ctrUse, banks := c.banks, hukGone := f.2.secm.hukGone && c.lc == 0xF } }

/-- The state a cold reset leaves (R550, R551). (DEDUCED, log 13) -/
def coldApply (causes : Nat) (s : State) : State :=
  let por := bit causes 0
  let s := when_ por cutPulse s
  let r := clearRegs (if por then .por else .cold) (fun _ => true) s
  let z : State :=
    { regs := r.regs, serial := s.serial, stepping := s.stepping, partX := s.partX, gpio := s.gpio,
      clk := { refclk := s.clk.refclk }, secm := secmCold s.secm,
      spg := { jtag := s.spg.jtag, jtagDr := s.spg.jtagDr },
      freshN := s.freshN, out := s.out, pending := s.pending,
      rst := { phase := 0, cold := true, causes := BitVec.ofNat 13 causes, pinHeld := s.rst.pinHeld,
               rootPin := s.rst.rootPin, warmHeld := s.rst.warmHeld, perst := s.rst.perst, nvLog := s.rst.nvLog,
               coldTimes := if por then [] else s.rst.coldTimes, safeHold := s.rst.safeHold && !por,
               aon := if por then 0 else s.rst.aon } }
  wr rCause (causes % 8192) z

/-- A ring or channel that the reset frees takes its next generation (R191). -/
def freedGens (s : State) : State :=
  let s := forEach (s.chans.filter (fun c => c.2.st != 0)) (fun c => bumpGen 1 c.1) s
  forEach (s.rings.filter (fun g => g.2.st != 0)) (fun g => bumpGen 3 g.1) s

/-- The in-bank engine at a warm reset (R472): the running row operation completes (its rows hold their results), the
rest of its command and every queued one are discarded. -/
def pimWarm (s : State) : State :=
  if s.nmc.q.isEmpty then s
  else
    let s := match s.nmc.q.find? (fun r => r.running && !r.finished) with
      | none => s
      | some r =>
        let s := forEach (List.range 8) (fun i s => wr (0x001A0040 + 4 * i) (u32 r.desc.raw (4 * i)) s) s
        wr 0x001A002C (r.index + if r.since.isSome then 1 else 0) s
    let s := forEach s.nmc.busyAt (fun x s => addWrap (0x00190100 + 4 * x.1) (s.ft + 1 - x.2) s) s
    logC 0x1205 [] { s with nmc := { s.nmc with q := [], busyAt := [] } }

/-- The state a warm reset leaves (R550, R552, R556). The installed store, the lake, the log, the clock and the
links stay. -/
def warmApply (causes : Nat) (s : State) : State :=
  let s := freedGens (pimWarm s)
  let s := clearRegs .warm (fun _ => true) s
  let s := wr rCause (rd s rCause ||| (causes % 8192)) s
  let lost := bit causes 8
  let sp := s.spg
  { s with
    rst := { phase := 0, cold := false, causes := BitVec.ofNat 13 causes, sampled := true, pinHeld := s.rst.pinHeld,
             rootPin := s.rst.rootPin, warmHeld := s.rst.warmHeld, perst := s.rst.perst, nvUntil := s.rst.nvUntil, nvHeld := s.rst.nvHeld,
             coldTimes := s.rst.coldTimes, safeHold := s.rst.safeHold, aon := s.rst.aon, rejoin := s.fab.valid }
    doms := s.doms.filter (fun d => d.1 == dNMC)
    clk := if lost then { s.clk with ftValid := false } else s.clk
    fab := { s.fab with cur := 0, stagedNum := 0, armed := none, epochAt := 0, reports := [], armWait := none,
                        reads := [], farq := [], farqHead := 0, farHeld := [], farHist := [],
                        parts := [], altHold := []
                        links := s.fab.links.map (fun l => (l.1, { l.2 with rxHeld := [] })),
                        srcStreams := s.fab.srcStreams.map (fun x => (x.1, { x.2 with held := [], out := [] })) }
    spg := { sp with keys := [], buf := [], ports := sp.ports.map (fun p => (p.1, { p.2 with parse := [], q := [], busyUntil := 0, rxTail := 0, rxHead := 0, txTail := 0, txHead := 0 })),
                     leases := [], load := none, jobs := [], l1 := false, d3 := false }
    chans := [], tills := [], tillNow := [], rings := [], rtb := [], side := [], rtbLatch := [], pairLatch := [], pfx := [], pfxPages := [], listPages := [], listBlocks := [], free := []
    pageOwner := [], pond := [], poison := [], admq := [], admNext := 0, steps := [], aisles := [], batches := []
    batchNum := 0, fixed := {}
    wks := { cores := s.wks.cores.filterMap (fun c => if c.2.fenced then some (c.1, { fenced := true }) else none), map := s.wks.map }
    cc := {}, masks := [], adps := [], adpFetch := [], adpPages := [], pinPages := []
    nmc := { s.nmc with burst := [] }
    secm := endSessions s.secm
    img := {}
    heldAcc := [] }

/-- Begin the release sequence of the reset in force (R557, R558), unless a pin (R560) or the temperature (R570)
holds it. A cold release within 200,000 AON cycles of the one two before it latches SAFE_HOLD (R565). -/
def beginRelease (s : State) : State :=
  let r := { s.rst with waiting := false }
  let s := { s with rst := r }
  if r.pinHeld ∨ r.warmHeld then { s with rst := { r with waiting := true } }
  else
    let tmax : Int := if s.partX then 105 else 95
    let temp := sint 8 (rdf s rTherm 15 8)
    if bit r.causes.toNat 9 ∧ !r.cold ∧ tmax - 10 < temp then modRst (fun r => { r with thermalWait := true }) s
    else if r.cold then
      -- R105: FT starts at the release, and is valid on the root from there; R565: its time is kept, but for POR
      let times := if bit r.causes.toNat 0 then [] else (r.aon / 8 :: r.coldTimes).take 3
      let storm := match times with | [a, _, b] => decide (a - b ≤ 200000) | _ => false
      let s := { s with ft := 0, clk := { s.clk with ftValid := r.rootPin }, rst := { r with phase := 1, readyAt := 256, coldTimes := times, thermalWait := false, safeHold := r.safeHold || storm } }
      when_ storm (logC 0x0104) s
    else modRst (fun r => { r with phase := 1, readyAt := s.ft, thermalWait := false }) s

/-- Apply a reset (R549, R550): the wider kind, the causes of all. The PCI Express link goes to Detect (R556,
R576). -/
def applyReset (causes : Nat) (cold : Bool) (s : State) : State :=
  let s := if cold then coldApply causes s else warmApply causes s
  beginRelease (emit (.pcie 2) s)

/-- The causes that call for a cold reset (R548). -/
def coldCauses (b : Nat) : Bool := bit b 0 || bit b 1 || bit b 5 || bit b 10
/-- The causes with a farewell (R548). -/
def farewellCauses (b : Nat) : Bool := bit b 2 || bit b 4 || bit b 6 || bit b 7 || bit b 8 || bit b 9

/-- Commands that received no FINAL: the FINALs not yet posted. -/
def unposted (s : State) : Nat := (s.chans.map (fun c => (c.2.compq.filter (·.final)).length)).sum

/-- Take the reset of a set of sources now (R540, R549, R553, R561, R562). A farewell is begun by
WARM_RESET_TAKEN. -/
def takeNow (b : Nat) (s : State) : State :=
  let r := s.rst
  let s := when_ (!bit b 0) (haltRaise 1) s
  if inReset s then
    let causes := r.causes.toNat ||| b
    applyReset causes (r.cold || coldCauses b) (when_ (!bit b 0) (announceReset causes) s)
  else if r.warmTaken ∨ r.farewell.isSome then
    let causes := r.causes.toNat ||| b
    let s := when_ r.farewell.isSome (logC 0x0102 [unposted s]) s
    applyReset causes (coldCauses b) (when_ (!bit b 0) (announceReset causes) s)
  else if coldCauses b ∨ !farewellCauses b then
    applyReset b (coldCauses b) (when_ (!bit b 0) (announceReset b) s)
  else modRst (fun r => { r with warmTaken := true, causes := BitVec.ofNat 13 b }) s

/-- Take sources that a write pulse held (R563): RST_CAUSE shows NVHOLD, and 0x0103 follows the reset, or the release
when the reset clears the log. -/
def takeHeld (b : Nat) (s : State) : State :=
  let cold := coldCauses b || coldCauses s.rst.causes.toNat
  if cold then takeNow (b + 4096) (modRst (fun r => { r with nvLog := r.nvLog ||| BitVec.ofNat 13 b }) s)
  else logC 0x0103 [b] (takeNow (b + 4096) s)

/-- Reset sources are raised together (R548, R549), as their bits: all but POR wait for an NV pulse in progress (R563,
R564). A chip-wide reset replaces a block reset (R572). -/
def takeResets (b : Nat) (s : State) : State :=
  let s := modRst (fun r => { r with block := none, blockDom := none }) s
  if s.rst.nvUntil.isSome ∧ !bit b 0 then modRst (fun r => { r with nvHeld := r.nvHeld ||| BitVec.ofNat 13 b }) s
  else takeNow b s
/-- One source is raised. -/
abbrev takeReset (source : Nat) (s : State) : State := takeResets (2 ^ source) s

end Sys2Proof.Machine
end

