-- ==== Sys2Proof/Machine/Clock.lean ====
section
/-! DEFINITION. The Market clock and fabric time (R92 to R112): choosing and following an upstream, holdover,
alignment, slewing. -/
namespace Sys2Proof.Machine

/-- Change the clock unit. -/
def modClk (f : Clk → Clk) (s : State) : State := { s with clk := f s.clk }

/-- An epoch that R103 held back is armed once no HOLDOVER or SLEWING flag is left. -/
def retryArm (s : State) : State :=
  match s.fab.armWait with
  | some n => if isRoot s then armEpoch n s else s
  | none => s

/-- Change the clock unit and advertise when the rank or the flags changed (R94). -/
def clkChange (f : Clk → Clk) (s : State) : State :=
  let t := modClk f s
  if clkFlags t = clkFlags s ∧ t.clk.rank = s.clk.rank then t else retryArm (advertise t)

/-- The rank a chip advertises behind port `p`. -/
def rankBehind (s : State) (p : Nat) : Nat := min 31 (((link s p).nbr.map (fun (n : Nbr) => n.rank + 1)).getD 31)

/-- CLK_STATUS (R94, R95, R100, R103): the far end's rank and flags are recorded and the chip chooses again. -/
def clkStatusMsg (p : Nat) (msg : Bytes) (s : State) : State :=
  let b := (ctlOf msg).body
  let s := modLink p (fun l => { l with nbr := l.nbr.map (fun (n : Nbr) => { n with rank := u8 b 0, flags := BitVec.ofNat 8 (u8 b 1) }) }) s
  let s := rechoose s
  let follow := !isRoot s && s.clk.locked && (s.clk.source == 2 || s.clk.source == 3) && s.clk.port == p
  let s := when_ follow (clkChange (fun c => { c with rank := rankBehind s p })) s
  retryArm s
def execClkStatus (port : Nat) (msg : Bytes) (s : State) := run (.clkStatus port msg) s (clkStatusMsg port msg s)

/-- FT_REQ is answered with FT_SET (R50, R106), and then, by a chip whose own FT is aligned, with an FT_CHECK, which finds
the asker aligned (R108). No rule says what a chip whose own FT is not aligned does: it answers with the FT it has.
(DESIGN CHOICE, log 85) -/
def ftReqMsg (p : Nat) (s : State) : State :=
  let s := ctlLink p 0x05 (leBytes 8 s.ft ++ [BitVec.ofNat 8 (toTwos 8 s.clk.resid), BitVec.ofNat 8 s.straps.tick]) s
  when_ s.clk.ftValid (sendCheck p) s
def execFtReq (port : Nat) (s : State) := run (.ftReq port) s (ftReqMsg port s)

/-- FT_CHECK to every ACTIVE neighbour (R108). -/
def sendChecks (s : State) : State := forEach ((List.range 8).filter (fun p => (link s p).st == 6)) sendCheck s

/-- FT_SET (R106, R109, R110): `elapsed` fast cycles have passed since its first bit was stamped. -/
def ftSetMsg (p : Nat) (msg : Bytes) (elapsed : Nat) (s : State) : State :=
  let b := (ctlOf msg).body
  if isRoot s ∨ !s.clk.locked ∨ s.clk.port ≠ p then s
  else if u8 b 9 % 4 ≠ s.straps.tick then logC 0x0307 [] (modClk (fun c => { c with tickMismatch := true }) s)
  else
    let exact16 : Int := 16 * (u64 b 0 : Int) + sint 8 (u8 b 8) + ((link s p).lat16 : Int)
    let target := (exact16 + 8) / 16
    let resid := exact16 - 16 * target
    let now := target.toNat + elapsed
    if !s.clk.ftValid then
      sendChecks (logC 0x0304 [] { modClk (fun c => { c with ftValid := true, resid := resid, slew := 0, slewing := false }) s with ft := now })
    else
      let corr := (now : Int) - s.ft
      if 16 < corr.natAbs then takeReset 8 (logC 0x0305 [] s)
      else
        let s := clkChange (fun c => { c with resid := resid, slew := corr, slewing := 2 < corr.natAbs }) s
        sendChecks (logC 0x0304 [] s)
def execFtSet (port : Nat) (msg : Bytes) (elapsed : Nat) (s : State) :=
  run (.ftSet port msg elapsed) s (ftSetMsg port msg elapsed s)

/-- CLK_SKEW. -/
abbrev rSkew : Nat := 0x00030018

/-- FT_CHECK (R108): the skew is recorded, and above 2 FT it is an error unless an end slews (R110). The first one on a
link since it trained is answered with this chip's own, so that both ends have measured. (DESIGN CHOICE, log 85) -/
def ftCheckMsg (p : Nat) (msg : Bytes) (s : State) : State :=
  let b := (ctlOf msg).body
  if !s.clk.ftValid then s
  else
    let skew : Int := 16 * (s.ft : Int) + s.clk.resid - 16 * (u64 b 0 : Int) - sint 8 (u8 b 8) - ((link s p).lat16 : Int)
    let k := skew.natAbs
    let s := wr rSkew (max (rd s rSkew) (min k 255)) s
    let s := if (link s p).st = 6 ∧ !(link s p).checked then sendCheck p (modLink p (fun l => { l with checked := true }) s) else s
    let far := ((link s p).nbr.map (fun (n : Nbr) => n.flags.toNat / 8 % 2 == 1)).getD false
    if 32 < k ∧ !s.clk.slewing ∧ !far then logC 0x0305 [] (modClk (fun c => { c with skewErr := true }) s) else s
def execFtCheck (port : Nat) (msg : Bytes) (s : State) := run (.ftCheck port msg) s (ftCheckMsg port msg s)

/-- The fast clock has locked: to REFCLK at the root (R92, R105), else to the chosen upstream, whose FT is then
asked for (R96, R106). -/
def clockLocked (s : State) : State :=
  if isRoot s then
    if s.clk.refclk ∧ s.clk.source ≠ 4 ∧ !s.clk.locked then
      clkChange (fun c => { c with source := 1, locked := true, rank := 0, ftValid := true }) s
    else s
  else match s.clk.up with
    | none => s
    | some p =>
      if s.clk.source = 4 ∨ (link s p).st ≠ 6 ∨ (s.clk.locked ∧ s.clk.port = p) then s
      else
        let s := clkChange (fun c => { c with source := 2, locked := true, port := p, rank := rankBehind s p, uplat := (link s p).lat16 }) s
        ctlLink p 0x04 [] s
def execClockLocked (s : State) := run .clockLocked s (clockLocked s)

/-- The clock monitor sees the upstream clock depart (R98). -/
def execUpstreamClockDepart (s : State) :=
  run .upstreamClockDepart s (if !isRoot s ∧ (s.clk.source = 2 ∨ s.clk.source = 3) then enterHoldover s else s)

/-- A chip in holdover switches to its alternate, else to what R94 chooses, relocks and asks for FT (R99). -/
def holdoverSwitch (s : State) : State :=
  if isRoot s ∨ s.clk.source ≠ 4 then s
  else
    let alt := s.clk.alt.bind (fun p => (clkOk s p).map (fun _ => p))
    match alt.or (bestPort s (fun _ _ => true)) with
    | none => s
    | some p =>
      let s := clkChange (fun c => { c with
        source := if alt = some p then 3 else 2, locked := true, port := p, rank := rankBehind s p
        uplat := (link s p).lat16, up := some p, holdStart := none, holdHalted := false }) s
      let s := logC 0x0301 [] (rechoose s)
      ctlLink p 0x04 [] s
def execHoldoverSwitch (s : State) := run .holdoverSwitch s (holdoverSwitch s)

/-- The holdover has lasted `t` FT. -/
def heldFor (s : State) (t : Nat) : Bool :=
  s.clk.source == 4 && (s.clk.holdStart.map (fun h => decide (h + t ≤ s.ft))).getD false

/-- 50 ms of holdover: 0x0306 and the CLOCK_LOST reset, once in a holdover (R101, R102). -/
def execHoldoverTimeout (s : State) :=
  run .holdoverTimeout s
    (if heldFor s 80000000 ∧ !s.clk.holdLost then takeReset 8 (logC 0x0306 [] (modClk (fun c => { c with holdLost := true }) s)) else s)

/-- Holdover has lasted HALT_HOLD: condition 2 begins (R538). -/
def execHaltHoldExpire (s : State) :=
  run .haltHoldExpire s
    (if heldFor s (us (rdf s rHaltEn 23 8)) && !s.clk.holdHalted then haltRaise 2 (modClk (fun c => { c with holdHalted := true }) s) else s)

/-- The root loses REFCLK (R102). -/
def execRefclkLoss (s : State) :=
  run .refclkLoss s
    (let t := modClk (fun c => { c with refclk := false }) s
     if isRoot s then enterHoldover t else t)

/-- REFCLK returns: the root relocks without correcting FT (R102). -/
def refclkReturn (s : State) : State :=
  let t := modClk (fun c => { c with refclk := true }) s
  if isRoot s ∧ s.clk.source = 4 then
    logC 0x0301 [] (clkChange (fun c => { c with source := 1, locked := true, rank := 0, holdStart := none, holdHalted := false }) t)
  else t
def execRefclkReturn (s : State) := run .refclkReturn s (refclkReturn s)

/-- One fast-clock edge on which FT advances by 0 or 2 (R109, R110): one in every 1,024. -/
def slewStep (s : State) : State :=
  let d := s.clk.slew
  if d = 0 ∨ s.rst.aon < s.clk.slewNext then s
  else
    let d' := if 0 < d then d - 1 else d + 1
    clkChange (fun c => { c with slew := d', slewing := 2 < d'.natAbs, slewNext := s.rst.aon + 1024 })
      { s with ft := s.ft + (if 0 < d then 2 else 0), rst := { s.rst with aon := s.rst.aon + 1 } }
def execSlewStep (s : State) := run .slewStep s (slewStep s)

end Sys2Proof.Machine
end

