-- ==== Sys2Proof/Machine/Work.lean ====
section
/-! DEFINITION. Cores, work items and dispatch as operations (R325 to R347, R368, R369, R514 to R521): which core
may run what, how a work item leaves for a core, what a fence costs. -/
namespace Sys2Proof.Machine

/-- The chip runs as a Fixed-cycle chip (R148, R180). -/
def isFixed (s : State) : Bool := s.conf.chipMode == 2 || (s.conf.chipMode == 0 && s.straps.sched)

/-! ### Cores -/

/-- A physical core. -/
def core (s : State) (p : Nat) : Core := look s.wks.cores p {}
/-- Change a physical core. -/
def modCore (p : Nat) (f : Core → Core) (s : State) : State := modWks (fun w => { w with cores := upd w.cores p {} f }) s
/-- R327's map of an addressable core, plus one. -/
def mapDflt (a : Nat) : Nat := 17 * (a / 16) + a % 16 + 1
/-- The physical core an addressable core maps to. -/
def physOf (s : State) (a : Nat) : Option Nat := match look s.wks.map a (mapDflt a) with | 0 => none | p + 1 => some p
/-- The addressable core that maps to a physical core. -/
def addrOf (s : State) (p : Nat) : Option Nat := lowest 64 (fun a => physOf s a == some p)
/-- Map an addressable core, or unmap it. -/
def setMap (a : Nat) (p : Option Nat) (s : State) : State :=
  modWks (fun w => { w with map := put w.map a (match p with | some p => p + 1 | none => 0) (mapDflt a) }) s
/-- The unused spare of a cluster. -/
def spareOf (s : State) (c : Nat) : Option Nat :=
  ((List.range 17).map (fun i => 17 * c + i)).find? (fun p => !(core s p).fenced && (addrOf s p).isNone)

/-- A stall owns an addressable core. -/
def owns (s : State) (stall a : Nat) : Bool := bit (stallCfg s stall).cores.toNat a
/-- An addressable core is mapped to a core that is not fenced. -/
def usable (s : State) (a : Nat) : Bool := match physOf s a with | some p => !(core s p).fenced | none => false
/-- Addressable cores of a stall that are mapped, and all it owns (R520). -/
def coreCounts (s : State) (stall : Nat) : Nat × Nat :=
  (((List.range 64).filter (fun a => owns s stall a && usable s a)).length, ((List.range 64).filter (owns s stall)).length)

/-- PWR_DUTY.CORES. -/
def coresIn (s : State) : Nat := rdf s rDuty 8 4
/-- R130 leaves an addressable core in service: among the active cores of its cluster it is one of the lowest. -/
def inService (s : State) (a : Nat) : Bool :=
  decide (((List.range (a % 16)).filter (fun j => usable s (16 * (a / 16) + j))).length < coresIn s)
/-- The cluster is under repair (R523). -/
def repairing (s : State) (c : Nat) : Bool := (s.wks.repair.map (fun r => r.1 == c)).getD false

/-- The cores of a stall that run its output heads on the last member chip: a set disjoint from those of its layers (R20).
No section names it: a free set, and neither it nor the rest is empty where the stall owns two cores. (DESIGN CHOICE, log 87) -/
def headSet (s : State) (n : Nat) : W64 :=
  let c := (stallCfg s n).cores
  let h := c &&& Config.headCores n
  if h = 0 ∨ h = c then (match lowest 64 (fun a => bit c.toNat a) with | some a => BitVec.ofNat 64 (2 ^ a) | none => 0) else h

/-- R20 on the last member chip of an aisle: heads and layers keep to their own sets, while theirs has a core in use. -/
def apart (s : State) (i : Item) (a : Nat) : Bool :=
  let c := chain s i.aisle
  let last := !i.loose && decide (1 < c.length) && (c.getLast?.map (fun m => m.1 == s.fab.chip)).getD false
    && decide (1 < popc 64 (stallCfg s i.stall).cores.toNat)
  let mine (b : Nat) : Bool := bit (headSet s i.stall).toNat b == (i.stage == 1)
  !last || mine a || !(List.range 64).any (fun b => owns s i.stall b && usable s b && mine b)

/-- A core may run an item once its cluster is ON (R20, R335, R523). -/
def mayRun (s : State) (i : Item) (a : Nat) : Bool :=
  owns s i.stall a && usable s a && inService s a && !repairing s (a / 16) && (i.notCore.isNone || physOf s a != i.notCore)
    && apart s i a
/-- R335. -/
def eligible (s : State) (i : Item) (a : Nat) : Bool := mayRun s i a && isOn s (a / 16)
/-- An addressable core has no work item. -/
def coreFree (s : State) (a : Nat) : Bool := match physOf s a with | some p => (core s p).item.isNone | none => false
/-- The core holds a window (R336). -/
def holds (s : State) (a tag : Nat) : Bool :=
  tag != 0 && (match physOf s a with | some p => (core s p).windows.any (fun w => w.tag == tag) | none => false)

/-- The cluster whose list an item joins (R337): of the lowest eligible core in AFFINITY, else of its stall, with
ON left out when no cluster that holds one is ON. -/
def homeOf (s : State) (i : Item) : Option Nat :=
  let aff (a : Nat) := bit i.affinity.toNat a
  let pickC (ok : Nat → Bool) : Option Nat := ((lowest 64 (fun a => ok a && aff a)).or (lowest 64 ok)).map (· / 16)
  (pickC (eligible s i)).or (pickC (mayRun s i))

/-- The stall has a core for the item at all (R518). -/
def hasCore (s : State) (i : Item) : Bool :=
  (List.range 64).any (fun a => owns s i.stall a && usable s a && (i.notCore.isNone || physOf s a != i.notCore))

/-- Cluster order of R336's tier 4. -/
def clusterOrder (c : Nat) : List Nat := [c, (c + 1) % 4, (c + 3) % 4, (c + 2) % 4]

/-- The first idle eligible core by R336's tiers. -/
def tierCore (s : State) (i : Item) : Option Nat :=
  let tag := (kernel s i.kernel).tag
  let ok (a : Nat) := eligible s i a && coreFree s a
  let aff (a : Nat) := bit i.affinity.toNat a
  let t1 := lowest 64 (fun a => ok a && aff a && holds s a tag)
  let t2 := lowest 64 (fun a => ok a && holds s a tag)
  let t3 := lowest 64 (fun a => ok a && aff a)
  let t4 := (clusterOrder ((homeOf s i).getD 0)).findSome? (fun c => lowest 64 (fun a => a / 16 == c && ok a))
  t1.or (t2.or (t3.or t4))

/-- WKS counters at 0x0008: pool wait, dispatches, affinity hits, migrations. -/
abbrev rWks (i : Nat) : Nat := 0x000E0008 + 4 * i

/-- Dispatch an item to an addressable core (R336, R338, R339, R345). -/
def dispatch (k a : Nat) (s : State) : State :=
  match physOf s a with
  | none => s
  | some p =>
    let i := item s k
    let cross := (i.list.or (homeOf s i)).getD (a / 16) != a / 16
    let hit := holds s a (kernel s i.kernel).tag
    let s := when_ cross (bumpSat (rWks 3)) (when_ hit (bumpSat (rWks 2)) (bumpSat (rWks 1) s))
    let s := touch (a / 16) s
    let s := modItem k (fun i => { i with st := .running, list := none }) s
    modCore p (fun c => { c with item := some k, startAt := s.ft + (if cross then 8 else 4), started := none, filling := none, rowMask := i.rowMask }) s

/-- The requests of the live rows of an item, by its step on this chip. -/
def rowReqs (s : State) (i : Item) (mask : W64) : List Nat :=
  match s.steps.find? (fun t => t.aisle == i.aisle && t.num == i.step) with
  | some t => ((t.rows.zipIdx).filter (fun x => bit mask.toNat x.2)).map (fun x => x.1.req)
  | none => []

/-- The master of a request is here. -/
def isMaster (s : State) (r : Nat) : Bool := !(ent s r).shadow && (ent s r).st != .free

/-- The generation of a request ends by a core fault with no repeat (R518): it keeps its committed positions and
enters READY through DRAINING. -/
def coreFaultReq (r : Nat) (s : State) : State :=
  if !isMaster s r then maskHere r s
  else
    let s := maskReq r 3 s
    let s := when_ (((side s r).pend.map (fun p => !p.isClose)).getD false) (finishPend r 0x43) s
    if running (ent s r) then toDraining r 0x43 true false false s else s

/-- R518: the rows of an item that no core can run end; the item is freed. -/
def endItemRows (k : Nat) (s : State) : State :=
  let i := item s k
  let rs := if i.loose then [] else rowReqs s i i.rowMask
  forEach rs coreFaultReq (dropItem k s)

/-- A READY item whose inputs are here is dispatched, joins a list, or ends (R18, R336, R337, R347, R518). -/
def readyItem (k : Nat) (s : State) : State :=
  let i := item s k
  if i.st ≠ .ready ∨ i.list.isSome ∨ i.hold then s
  else if i.rowMask = 0 ∧ !i.loose then dropItem k s
  else if !hasCore s i then endItemRows k s
  else match tierCore s i with
    | some a => dispatch k a s
    | none =>
      let s := modItem k (fun x => { x with list := (homeOf s i).or ((lowest 64 (fun a => owns s i.stall a && usable s a)).map (· / 16)), order := s.wks.joins }) s
      modWks (fun w => { w with joins := w.joins + 1 }) s

/-- Queue order of ready lists (R337). -/
def before (a b : Item) : Bool := a.due < b.due || (a.due == b.due && a.order < b.order)

/-- The item an idle core takes from one cluster's lists (R338). -/
def fromLists (s : State) (a c : Nat) : Option Nat :=
  (List.range 8).findSome? (fun pr =>
    let l := s.wks.pool.filter (fun p => p.2.st == .ready && p.2.list == some c && p.2.prio == pr && eligible s p.2 a)
    (l.foldl (fun acc p => match acc with
      | none => some p
      | some q => if before p.2 q.2 then some p else some q) (none : Option (Nat × Item))).map Prod.fst)

/-- An idle core searches its cluster's lists, then the others (R338). -/
def coreIdle (p : Nat) (s : State) : State :=
  match addrOf s p with
  | none => s
  | some a =>
    if !(coreFree s a) then s
    else match (clusterOrder (a / 16)).findSome? (fromLists s a) with
      | some k => if (item s k).rowMask = 0 ∧ !(item s k).loose then dropItem k s else dispatch k a s
      | none => s

/-- A cluster has work for its idle timer (R340). -/
def clusterBusy (s : State) (c : Nat) : Bool :=
  s.wks.pool.any (fun p => p.2.st == .ready && (p.2.list == some c || (p.2.list.isNone && !p.2.hold && homeOf s p.2 == some c)))
    || s.wks.cores.any (fun x => x.1 / 17 == c && x.2.item.isSome)

/-! ### Pool (R333, R334) -/

/-- WKS_STALL_MAX: values above 4,096 select 4,096. -/
def stallMax (s : State) : Nat := min 4096 (rdf s 0x000E0004 12 0)
/-- Slots in use, and those of a stall. -/
def poolUsed (s : State) : Nat := (s.wks.pool.filter (fun p => p.2.st != .free)).length
/-- Slots a stall holds. -/
def stallUsed (s : State) (n : Nat) : Nat := (s.wks.pool.filter (fun p => p.2.st != .free && p.2.stall == n)).length
/-- `n` items of a stall fit (R333). -/
def poolFits (s : State) (stall n : Nat) : Bool :=
  decide (poolUsed s + n ≤ 4096)
    && (decide (stallUsed s stall + n ≤ stallMax s) || (decide (stallMax s < n) && stallUsed s stall == 0))
/-- The state an item is created in (R334). -/
def bornAs (s : State) (i : Item) : WState :=
  if i.timed then .timed else if i.wait && !flagOpen s i.waitFlag then .parked else .ready
/-- Place an item in the lowest free slot. -/
def placeItem (i : Item) (s : State) : Option Nat × State :=
  match lowest 4096 (fun k => (item s k).st == .free) with
  | some k => (some k, setItem k { i with st := bornAs s i, list := none } s)
  | none => (none, s)
/-- Place the items of a step, or hold them until they fit. -/
def placeItems (aisle step stall : Nat) (is : List Item) (s : State) : State :=
  if poolFits s stall is.length ∧ !s.wks.waiting.any (fun w => (w.2.2.1.headD {}).stall == stall)
  then forEach is (fun i s => (placeItem i s).2) s
  else modWks (fun w => { w with waiting := w.waiting ++ [(aisle, step, is, s.ft)] }) s

/-! ### A step along the aisle (R18 to R20, R24) -/

/-- A step of an aisle. -/
def stepNamed (s : State) (a n : Nat) : Option Step := s.steps.find? (fun t => t.aisle == a && t.num == n)
/-- Work items of a stage of a step are still to run here. -/
def stageLeft (s : State) (a n k : Nat) : Bool :=
  s.wks.pool.any (fun p => p.2.aisle == a && p.2.step == n && !p.2.loose && p.2.stage == k && p.2.st != .retained && p.2.st != .free)
    || s.wks.waiting.any (fun w => w.1 == a && w.2.1 == n && w.2.2.1.any (fun i => i.stage == k))
/-- What a stage of a step works on has come. -/
def unhold (a n k : Nat) (s : State) : State :=
  let go (i : Item) : Item := if i.stage = k then { i with hold := false } else i
  modWks (fun w => { w with
    pool := w.pool.map (fun p => if p.2.aisle == a && p.2.step == n && !p.2.loose then (p.1, go p.2) else p)
    waiting := w.waiting.map (fun x => if x.1 = a ∧ x.2.1 = n then (x.1, x.2.1, x.2.2.1.map go, x.2.2.2) else x) }) s

/-- The activations that a chip sends on: what its layers wrote; a chip without layers sends bytes that no rule gives. -/
def actBytes (s : State) (t : Step) : Bytes × State :=
  let mine := s.wks.pool.filter (fun p => p.2.aisle == t.aisle && p.2.step == t.num && !p.2.loose && p.2.stage == 0)
  if mine.isEmpty then let f := fresh s; (leBytes (f.1 % 4096 + 1) (f.1 / 4096), f.2)
  else ((mine.map (fun p => lookBytes s.pond (64 * p.2.out) (64 * p.2.outLen))).flatten, s)

/-- The activations of a step go to the next chip of the aisle, as a posted write under the handle of the step's first
row; where they lie in its pond is not stated. (DESIGN CHOICE, log 87) -/
def sendActs (t : Step) (s : State) : State :=
  let ms := chain s t.aisle
  let p := ms.findIdx (fun m => m.1 == s.fab.chip)
  match ms[p]?, ms[p + 1]?, t.rows.find? (fun w => w.rung != 2 && w.new != 0) with
  | some (_, n), some (dst, _), some w =>
    let h := if (ent s w.req).shadow then (ent s w.req).seed.toNat else handleOf w.gen 0 0 2 w.req
    let d := actBytes s t
    let f := fresh d.2
    touch dLNK (issuePW n dst 2 (hGen h) (hIdx h) (f.1 % 2 ^ 21) (if p = 0 then (t.rows.map (fun w => (ent s w.req).channel)).dedup else []) t.tainted d.1 f.2)
  | _, _, _ => s

/-- A step goes on here: once its layers are done its activations leave and its heads begin; then its work is done. -/
def advance (a n : Nat) (s : State) : State :=
  match stepNamed s a n with
  | none => s
  | some t =>
    if !t.fed ∨ t.doneAt.isSome ∨ stageLeft s a n 0 then s
    else
      let s := if t.sent then s else modStep a n (fun t => { t with sent := true }) (sendActs t (unhold a n 1 s))
      if stageLeft s a n 1 then s else modStep a n (fun t => { t with doneAt := some s.ft }) s

/-- The activations of a step are here. -/
def feed (a n : Nat) (s : State) : State :=
  advance a n (unhold a n 0 (modStep a n (fun t => { t with fed := true }) s))

/-- A posted write from the chip before this one on the aisle, under the handle of a shadow here, brings the activations
of the step that the shadow's row is in, or of its next. (DESIGN CHOICE, log 87) -/
def takeActs (flits : List Bytes) (s : State) : State :=
  match flits.head? with
  | none => s
  | some f =>
    let h := hdrOf f
    match (if h.kind = 2 then shadowNamed s h.src h.stall h.gen h.index else none) with
    | none => s
    | some r =>
      let a := (stallCfg s (ent s r).stall).aisle
      let ms := chain s a
      if ms[(ms.findIdx (fun m => m.1 == s.fab.chip)) - 1]? ≠ some (h.src, h.stall) then s
      else
        match (side s r).inStep with
        | some n => feed a n s
        | none => modSide r (fun x => { x with fed := true }) s

/-- A posted-write packet arrives; what it brings of a step's activations lets the step go on. -/
def pwStep (flits : List Bytes) (fault : Nat) (s : State) : State :=
  when_ (pwTaken flits fault s) (takeActs flits) (pwArrive flits fault s)
def execPw (flits : List Bytes) (fault : Nat) (s : State) := run (.pw flits fault) s (pwStep flits fault s)

/-- Free the RETAINED items of a step whose commit is ordered (R334, R344). -/
def releaseItems (aisle step : Nat) (s : State) : State :=
  forEach (s.wks.pool.filter (fun p => p.2.st == .retained && p.2.aisle == aisle && p.2.step == step && !p.2.loose))
    (fun p => freeItem p.1) s

/-! ### Fencing (R514 to R521) -/

/-- CORE_WDT. -/
abbrev rCoreWdt : Nat := 0x000D0010

/-- A fenced core's addressable number moves to the spare of its cluster, if there is one (R327); the last spare
is logged (R514). -/
def remap (p : Nat) (s : State) : State :=
  match addrOf s p with
  | none => s
  | some a => match spareOf s (p / 17) with
    | some q =>
      let s := setMap a (some q) s
      when_ (spareOf s (p / 17)).isNone (logC 0x0E03 []) s
    | none => setMap a none s

/-- A failed item runs again with REPEAT, unless its rows are all masked, it was a repeat, or no core is left
(R517, R518). On a Fixed-cycle chip no repeat is made and its rows commit nothing in this cycle (R521). -/
def repeatItem (k p : Nat) (s : State) : State :=
  let i := item s k
  if isFixed s ∧ i.cyc then
    let rs := rowReqs s i i.rowMask
    let s := { s with steps := s.steps.map (fun t => if t.aisle == i.aisle && t.num == i.step then { t with rows := t.rows.map (fun r => if rs.contains r.req then { r with live := false } else r) } else t) }
    advance i.aisle i.step (freeItem k s)
  else if i.rowMask = 0 ∧ !i.loose then dropItem k s
  else if i.rep then endItemRows k s
  else
    let s := modItem k (fun i => { i with st := .ready, rep := true, notCore := some p, list := none }) s
    readyItem k s

/-- Fence a core (R514, R516): 0x0E01 with the core, the cause, the step and the kernel. -/
def fenceCore (p cause : Nat) (s : State) : State :=
  let c := core s p
  if c.fenced then s
  else
    let i := (c.item.map (item s)).getD {}
    let s := logEv 0x0E01 (if c.item.isSome then i.stall else 0xFF) [p, cause, i.step, i.kernel] s
    let a := addrOf s p
    let s := setItemNone c s
    let s := remap p s
    let s := ccInt 4 (devEvent 3 s)
    let owner := a.bind (fun a => lowest 32 (fun n => owns s n a))
    let s := callback 6 ((owner.map (2 ^ ·)).getD 0) s
    match c.item with | some k => repeatItem k p s | none => s
where
  /-- the core gives up its item, its windows and its mask -/
  setItemNone (_ : Core) (s : State) : State := modCore p (fun _ => { fenced := true }) s

end Sys2Proof.Machine
end

