-- ==== Sys2Proof/Machine/Power.lean ====
section
/-! DEFINITION. Power domains in service (R113 to R133): idle timers, transitions, reloads, requests, thermal duty. -/
namespace Sys2Proof.Machine

/-- The lowest state in service of a domain, as its number (R113). -/
def lowestState (s : State) (d : Nat) : Nat :=
  let held (lo hi : Nat) := s.pageOwner.any (fun p => decide (lo ≤ p.1 ∧ p.1 < hi))
  match d with
  | 4 => if held 0 8192 then 2 else 3
  | 5 => if held 8192 16384 then 2 else 3
  | 6 => if s.rtb.any (fun p => p.2.st != .free) then 2 else 3
  | 7 => if s.fab.routeActive then 2 else 3
  | 8 => if s.conf.present || !s.nmc.lake.isEmpty || !s.nmc.dir.isEmpty then 2 else 3
  | 9 => if s.spg.l1 || s.spg.d3 || rdf s 0x000B0000 3 0 == 0 then 2 else 1
  | 10 => 2
  | 11 => if s.conf.firmware.isSome || s.conf.modules.any (fun m => m.2.st != 0) then 2 else 3
  | _ => 3

/-- A stall that holds a cluster is named in PWR_HOLD_CG (R125). -/
def holdCg (s : State) (d : Nat) : Bool :=
  decide (d < 4) && (List.range 32).any (fun n => bit (rd s rHoldCg) n && (stallCfg s n).enabled && (clustersOf (stallCfg s n)).contains d)

/-- The deepest state a domain may be taken to now (R113, R125). -/
def floorState (s : State) (d : Nat) : Nat := if holdCg s d then min 1 (lowestState s d) else lowestState s d

/-- A domain has work at this instant (R124, R340). -/
def domWork (s : State) (d : Nat) : Bool :=
  if d < 4 then clusterBusy s d
  else match d with
    | 4 | 5 => s.wks.cores.any (fun c => (c.2.item.map (fun k => (halvesOf s (item s k).stall).contains d)).getD false)
    | 6 => !s.admq.isEmpty || !s.steps.isEmpty || s.chans.any (fun c => !c.2.acc.isEmpty)
    | 7 => s.fab.links.any (fun l => l.2.txq.any (fun q => q.vc != 3) || !l.2.rxHeld.isEmpty) || !s.fab.parts.isEmpty
        || s.fab.srcStreams.any (fun z => !z.2.held.isEmpty || !z.2.out.isEmpty) || s.fab.dstStreams.any (fun z => z.2.unacked != 0)
    | 8 => !s.nmc.q.isEmpty || s.heldAcc.any (fun h => h.1 == dNMC) || !s.adpFetch.isEmpty || s.rtb.any (fun e => e.2.st == .pausing || e.2.st == .resuming) || s.wks.cores.any (fun c => c.2.filling.isSome)
    | 9 => s.chans.any (fun c => !c.2.compq.isEmpty)
    | 10 => !s.spg.jobs.isEmpty || s.spg.load.isSome || s.spg.ports.any (fun p => !p.2.q.isEmpty)
    | _ => (List.range 4).any (fun t => (thread s t).st == 0)

/-! ### State lost (R114, R116) -/

/-- Pond pages are freed. -/
def freePages (ps : List Nat) (s : State) : State := { s with pageOwner := s.pageOwner.filter (fun p => !ps.contains p.1) }

/-- The pages that hold masks. -/
def maskPages (s : State) : List Nat := s.masks.flatMap (fun m => m.2.page.toList ++ m.2.staged.toList ++ m.2.old.map Prod.fst)

/-- What LNK's packet engines and router have under way is lost; the write streams' counters stay (R113). -/
def linkLoss (s : State) : State :=
  modFab (fun b => { b with parts := [], reads := []
                            links := b.links.map (fun l => (l.1, { l.2 with txq := l.2.txq.filter (fun q => q.vc == 3) }))
                            srcStreams := b.srcStreams.map (fun z => (z.1, { z.2 with held := [], out := [] })) }) s

/-- What a domain loses in RET: the state it holds that the table of R113 does not keep. Registers stay: R12 names the
resets that alone return a field to its reset value. Masks and prefix nodes lie in pond. (DEDUCED, log 86) -/
def retLoss (d : Nat) (s : State) : State :=
  match d with
  | 0 | 1 | 2 | 3 =>
    modWks (fun w => { w with cores := w.cores.map (fun c =>
      if c.1 / 17 = d then (c.1, { fenced := c.2.fenced, windows := c.2.windows, rowMask := c.2.rowMask }) else c) }) s
  | 6 => { s with rtbLatch := [], pairLatch := [], admq := [] }
  | 7 => linkLoss s
  | 8 => modNmc (fun n => { n with q := [] }) s
  | 10 => modSpg (fun g => { g with jobs := [], load := none, ports := g.ports.map (fun p => (p.1, { p.2 with q := [] })) }) s
  | 11 => { s with cc := { s.cc with calls := [] } }
  | _ => s

/-- What a domain loses in OFF: all of its state. What its reload brings back (R116) stays: HST's configuration, EGR's
templates; a staged routing table comes back from its copy in the lake (`reloadDone`), and mailbox slots wait (R571).
(DEDUCED, log 86) -/
def offLoss (d : Nat) (s : State) : State :=
  let s := retLoss d s
  let regs (bs : List Nat) (s : State) : State := clearRegs .warm (fun o => bs.contains (o / 0x10000)) s
  match d with
  | 0 | 1 | 2 | 3 =>
    modWks (fun w => { w with cores := w.cores.filterMap (fun c =>
      if c.1 / 17 = d then (if c.2.fenced then some (c.1, { fenced := true }) else none) else some c) }) s
  | 4 => { s with pond := s.pond.filter (fun b => 67108864 ≤ b.1), poison := s.poison.filter (fun b => 1048576 ≤ b.1) }
  | 5 => { s with pond := s.pond.filter (fun b => b.1 < 67108864), poison := s.poison.filter (fun b => b.1 < 1048576) }
  | 6 =>
    let s := freePages (maskPages s ++ s.pfxPages.flatMap Prod.snd ++ s.listPages.flatMap Prod.snd) s
    let s := clearRegs .warm (fun o => 0x40 ≤ o / 0x10000 && 0x200 ≤ o % 0x10000 && o % 0x10000 < 0x400) (regs [0x14, 0x15, 0x16, 0x17] s)
    { s with rtb := [], side := [], free := [], aisles := [], batches := [], steps := [], fixed := {}, admNext := 0, masks := [], pfx := [], pfxPages := [], listPages := [], listBlocks := [] }
  | 7 => modFab (fun b => { b with active := [], stagedTab := [], srcStreams := [], dstStreams := [] }) s
  | 8 => modNmc (fun n => { n with lake := [], dir := [], dirSlots := [], dirGen := [], dirLayout := [], store := [], refresh := [], lastRefresh := [], refreshed := [], burst := [], busyAt := [] })
      (regs [0x19, 0x1A] s)
  | 10 => modSpg (fun g => { g with leases := [] }) (regs [0x0A] s)
  | 11 => { s with cc := { s.cc with threads := [], sram := [], run := 2 }, wks := { s.wks with waiters := [] } }
  | _ => s

/-! ### Transitions -/

/-- A request of R127 must be refused now. -/
def reqRefused (s : State) (d q : Nat) : Bool :=
  decide (12 ≤ d) || decide (floorState s d < q) || (decide (d < 4) && decide (0 < q) && clusterBusy s d)
    || (d == dHST && !s.straps.hosten && q == 0)

/-- A domain has arrived where its transition led and is at rest: what waits for it goes on (R83, R117, R127). A move that
passes through ON is checked again there, since it may no longer breach R113 or R125. -/
def settleDom (d : Nat) (s : State) : State :=
  let x := dom s d
  if x.done.isSome ∨ x.reload.isSome then s
  else if x.wakeAfter then
    let s := modDom d (fun x => { x with wakeAfter := false }) s
    if x.st = .on then s else startTrans d .on s
  else match x.via with
    | some q =>
      if x.st = .on then
        let s := modDom d (fun x => { x with via := none }) s
        if reqRefused s d q.num then setBit rPwrReq 7 s else startTrans d q s
      else s
    | none => match x.held with
      | some q =>
        let s := modDom d (fun x => { x with held := none }) s
        if reqRefused s d q.num then setBit rPwrReq 7 s else startMove d q s
      | none => if d = dLNK ∧ x.st = .on then drainAll s else s

/-- A transition is over (R114 to R117): state is lost on the way down; OFF to ON reloads first. -/
def transDone (d : Nat) (s : State) : State :=
  let x := dom s d
  match x.done with
  | none => s
  | some t =>
    if s.ft < t then s
    else
      let rl := if x.st = .on ∧ x.src = .off then (if s.rst.phase ≠ 0 then releaseReload s.rst.cold d else reloadFt d) else 0
      let s := modDom d (fun x => { x with done := none, begun := none, reload := if rl = 0 then none else some (t + rl) }) s
      let s := match x.st with | .ret => retLoss d s | .off => offLoss d s | _ => s
      settleDom d s
def execPwrTransitionComplete (dom : Nat) (s : State) := run (.pwrTransitionComplete dom) s (transDone dom s)

/-- Base firmware is loaded again (R116, R166): it runs from its ENTRY on thread 0, and modules restart. -/
def ccReload (s : State) : State :=
  match s.conf.firmware with
  | none => s
  | some f =>
    let s := { s with cc := { s.cc with run := 0, threads := [], calls := [] }, wks := { s.wks with waiters := [] } }
    let s := modThread 0 (fun t => { t with st := 0, pc := f.entry }) (wr 0x000C0008 f.format (wr 0x000C0004 f.version s))
    let ms := s.conf.modules.filter (fun m => m.2.st != 0 && m.2.st != 3)
    let s := forEach ms (fun m s => { s with conf := { s.conf with modules := upd s.conf.modules m.1 {} (fun x => { x with st := if x.st = 2 then 2 else 1 }) } }) s
    callback 0 (2 ^ 32 - 1) (logC 0x1301 [f.version] s)

/-- A reload is over (R113, R116, R515): a staged routing table is back; a cluster's cores that failed the MAC self-test are fenced before they take
work; SEQ's table is FREE; the control core runs its firmware. -/
def reloadDone (d : Nat) (failing : List Nat) (s : State) : State :=
  match (dom s d).reload with
  | none => s
  | some t =>
    if s.ft < t ∨ repairing s d then s
    else
      let s := modDom d (fun x => { x with reload := none }) s
      let s := if d < 4 then forEach (failing.filter (fun p => p / 17 == d && p < 68)) (fun p => fenceCore p 3) s
               else if d = dCCR then ccReload s
               else if d = dLNK ∧ !s.fab.routeActive then modFab (fun b => { b with stagedTab := b.tabCopy }) s else s
      settleDom d s
def execDomainReloadComplete (dom : Nat) (failing : List Nat) (s : State) :=
  run (.domainReloadComplete dom failing) s (reloadDone dom failing s)

/-- A wake from one of R120's sources reaches a domain. -/
def execDomainWake (dom src : Nat) (s : State) :=
  run (.domainWake dom src) s (if src < 6 then wakeAll src [dom] s else wakeDom dom s)

/-- PWR_REQ (R127): DOMAIN and TARGET are stored; with GO the request is refused, held or performed. -/
def pwrReq (v : Word) (s : State) : State :=
  let n := v.toNat
  let s := wrf rPwrReq 5 0 (n % 64) s
  let s := when_ (bit n 7) (clrBit rPwrReq 7) s
  if !bit n 6 then s
  else
    let d := bits n 3 0
    let q := bits n 5 4
    if reqRefused s d q then setBit rPwrReq 7 s
    else
      let x := dom s d
      if x.done.isSome ∨ x.reload.isSome ∨ x.via.isSome then modDom d (fun x => { x with held := some (PState.ofNum q) }) s
      else startMove d (PState.ofNum q) s
def execPwrReq (value : Word) (s : State) := run (.pwrReq value) s (pwrReq value s)

/-! ### Ticks and idle timers -/

/-- A NOTICE flit waits in a receive buffer of the chip (R360). -/
def noticeHeld (s : State) : Bool :=
  s.fab.links.any (fun l => l.2.rxHeld.any (fun f => (hdrOf f.2).type == 5))
    || s.heldAcc.any (fun h => match h.2 with | .rowMask _ => true | .wake _ => true | .farFault _ => true | .chipLost _ => true | _ => false)

/-- The chip is quiet (R360). -/
def quietNow (s : State) : Bool :=
  let parked := s.wks.pool.filter (fun p => p.2.st == .parked)
  let flags := s.wks.waiters.map Prod.snd ++ parked.map (fun p => p.2.waitFlag)
  (!s.wks.waiters.isEmpty || !parked.isEmpty)
    && (List.range 4).all (fun t => (thread s t).st == 1 || (thread s t).st == 2)
    && !s.wks.pool.any (fun p => (p.2.st == .ready || p.2.st == .running || p.2.st == .timed) && !p.2.cyc)
    && s.wks.dly.l2.isEmpty && s.wks.dly.l3.isEmpty
    && flags.all (fun f => armOf s f == 0)
    && !noticeHeld s

/-- Count one tick of a domain's idle timer (R124): a tick in which it had work at any instant does not count. -/
def idleTick (d : Nat) (s : State) : State :=
  let w := domWork s d
  modDom d (fun x => { x with idle := if x.worked || w then 0 else x.idle + 1, worked := w }) s

/-- A tick boundary (R111): idle timers (R124) and the quiet count (R360) advance, once per boundary. -/
def tickBoundary (s : State) : State :=
  if s.ft % tickLen s ≠ 0 ∨ s.wks.tickAt = some s.ft then s
  else
    let s := forEach (List.range 12) idleTick s
    modWks (fun w => { w with tickAt := some s.ft, quiet := if quietNow s then min 64 (w.quiet + 1) else 0 }) s
def execTickBoundary (s : State) := run .tickBoundary s (tickBoundary s)

/-- A domain has been idle for IDLE_TICKS ticks (R118, R124, R125): it moves to TARGET, no lower than FLOOR and its
lowest state in service. -/
def idleExpire (d : Nat) (s : State) : State :=
  let p := rd s (rPolicy d)
  let n := bits p 15 0
  let x := dom s d
  let q := min (min (bits p 17 16) (bits p 19 18)) (floorState s d)
  if n ≠ 0 ∧ n ≤ x.idle ∧ x.done.isNone ∧ x.reload.isNone ∧ x.via.isNone ∧ !domWork s d ∧ s.rst.phase = 0 ∧ x.st.num < q
  then modDom d (fun x => { x with byTimer := true }) (startMove d (PState.ofNum q) s) else s
def execIdleTimerExpire (dom : Nat) (s : State) := run (.idleTimerExpire dom) s (idleExpire dom s)

/-- 64 quiet boundaries (R361): every waiter is released with EVT_DEADLOCK. -/
def quietDeadlock (s : State) : State :=
  if s.wks.quiet < 64 then s
  else
    let ws := s.wks.waiters
    let parked := s.wks.pool.filter (fun p => p.2.st == .parked)
    let s := forEach ws (fun w => endWait w.1 1) s
    let s := forEach parked (fun p => unpark p.1 true) s
    let s := modWks (fun w => { w with waiters := [], quiet := 0 }) s
    bumpSat 0x000E1204 (logC 0x0D01 [maskOf (ws.map Prod.fst), parked.length] (setBit 0x000E1200 31 s))
def execQuietDeadlock (s : State) := run .quietDeadlock s (quietDeadlock s)

/-! ### Thermal duty (R129 to R133) -/

/-- T_max of the part. -/
def tmax (s : State) : Int := if s.partX then 105 else 95
/-- Threshold of a throttle level. -/
def threshold (s : State) (l : Nat) : Int := match l with | 1 => tmax s - 10 | 2 => tmax s - 5 | _ => tmax s
/-- The level a reading gives, with 3 °C of hysteresis on the way down (R129). -/
def nextLevel (s : State) (cur : Nat) (t : Int) : Nat :=
  let up := ((List.range 4).filter (fun l => l == 0 || decide (threshold s l ≤ t))).foldl max 0
  let stay := ((List.range (cur + 1)).filter (fun l => l == 0 || decide (threshold s l - 3 < t))).foldl max 0
  max up stay
/-- Steps between empty slots (R129). -/
def dutyRun (l : Nat) : Nat := match l with | 0 => 0 | 1 => 7 | 2 => 3 | _ => 1
/-- Cores in service per cluster (R129). -/
def dutyCores (l : Nat) : Nat := match l with | 0 | 1 => 16 | 2 => 12 | _ => 8

/-- A reading of the eight sensors (R129, R131, R133, R570). -/
def thermalSample (temps : List Int) (s : State) : State :=
  let t := temps.foldl max (temps.headD 0)
  let old := sint 8 (rdf s rTherm 15 8)
  let cur := rdf s rTherm 1 0
  let l := nextLevel s cur t
  let s := wrf rTherm 15 8 (toTwos 8 t) (wrf rTherm 1 0 l s)
  let s := if l = cur then s
    else
      let s := logC 0x0201 [] (wrf rDuty 8 4 (dutyCores l) (wrf rDuty 2 0 (dutyRun l) s))
      let s := callback 5 (2 ^ 32 - 1) (ccInt 3 (devEvent 5 s))
      when_ (l == 3) (haltRaise 3) s
  let s := if tmax s + 10 ≤ t ∧ old < tmax s + 10 then takeReset 9 (logC 0x0204 [] s) else s
  if s.rst.thermalWait then beginRelease s else s
def execThermalSample (temps : List Int) (s : State) := run (.thermalSample temps) s (thermalSample temps s)

end Sys2Proof.Machine
end

