-- ==== Sys2Proof/Machine/Timers.lean ====
section
/-! DEFINITION. Delay lists at the tick and by command (R348 to R356), with the actions of list 2 and 3 entries
that are not a request's (R126, R334, R349), and event flags from the host (R359). -/
namespace Sys2Proof.Machine

/-- The domains a due entry opens (R120 source 3). PREWARM opens its mask as its own action. -/
def dueWakes (s : State) (e : DlyEntry) : List Nat :=
  if e.kind ≤ 4 ∨ e.kind = 7 then [dSEQ]
  else if e.kind = 6 then dSEQ :: clustersOf (stallCfg s (item s (bits e.arg.toNat 11 0)).stall)
  else if e.kind = 8 then [dCCR] else []

/-- Process one list at a boundary (R351): up to 16 due entries fire, the other due ones carry with LATE. -/
def processList (n : Nat) (s : State) : State :=
  let l := dlyList s.wks.dly n
  let due := l.filter (fun e => e.due ≤ s.ft)
  let take := due.take 16
  let carried := (due.drop 16).map (fun e => { e with late := true })
  let rest := l.filter (fun e => !(decide (e.due ≤ s.ft)))
  let s := modDly (fun d => { setDlyList n (carried ++ rest) d with fired := d.fired ++ take }) s
  let s := wr (0x000F0010 + 4 * n) (sat32 (rd s (0x000F0010 + 4 * n) + carried.length)) s
  forEach take (fun e s => let ds := dueWakes s e; if ds.isEmpty then s else wakeAll 3 ds s) s

/-- What base firmware keeps for firmware-tracked requests falls due. -/
def processFw (s : State) : State :=
  let due := s.wks.dly.fw.filter (fun e => e.due ≤ s.ft)
  modDly (fun d => { d with fw := d.fw.filter (fun e => !(decide (e.due ≤ s.ft))), fired := d.fired ++ due }) s

/-- The delay lists at a tick boundary, in list order, once per boundary (R351, R352). -/
def delayListProcess (s : State) : State :=
  if s.ft % tickLen s ≠ 0 ∨ s.wks.dly.last = some s.ft then s
  else modDly (fun d => { d with last := some s.ft }) (processFw (forEach (List.range 4) processList s))
def execDelayListProcess (s : State) := run .delayListProcess s (delayListProcess s)

/-- Take the action of the oldest processed entry when it is of this kind. -/
def fire (kind : Nat) (act : DlyEntry → State → State) (s : State) : State :=
  match s.wks.dly.fired with
  | e :: rest => if e.kind = kind then act e (modDly (fun d => { d with fired := rest }) s) else s
  | [] => s

/-- PREWARM (R126): the masked domains open. -/
def execPrewarm (s : State) :=
  run .prewarm s (fire 5 (fun e => wakeAll 3 (setBits 12 (bits e.arg.toNat 11 0))) s)

/-- TIMED_WORK (R334): the work item leaves TIMED; a freed slot is STALE. -/
def timedWork (e : DlyEntry) (s : State) : State :=
  let k := bits e.arg.toNat 11 0
  let i := item s k
  if i.st = .timed then modItem k (fun i => { i with st := if i.wait && !flagOpen s i.waitFlag then .parked else .ready }) s
  else setBit 0x000E0000 13 s
def execTimedWork (s : State) := run .timedWork s (fire 6 timedWork s)

/-- FW_TIMER (R349): the flag is posted; a module that armed it is called (R399). -/
def fwTimer (e : DlyEntry) (s : State) : State :=
  let f := bits e.arg.toNat 9 0
  let s := postFlag f s
  let armed := s.conf.modules.filter (fun m => m.2.st == 1 && m.2.flags.contains f)
  forEach armed (fun m => callModule m.1 3) s
def execFwTimer (s : State) := run .fwTimer s (fire 8 fwTimer s)

/-! ### DLY_CMD (R356) -/

/-- DLY_RESULT. -/
abbrev rDlyResult : Nat := 0x000F0054
/-- Set DLY_RESULT.STATUS. -/
def dlyStatus (st : Nat) (s : State) : State := wrf rDlyResult 18 16 st s
/-- The kinds DLY_CMD may insert in a list (R348). -/
def kindAllowed (list kind : Nat) : Bool := if list = 2 then 5 ≤ kind && kind ≤ 7 else list == 3 && kind == 8

/-- DLY_CMD with OP 0 inserts DLY_ENTRY (R349, R350, R356). (DESIGN CHOICE, log 82) -/
def dlyInsert (v : Word) (s : State) : State :=
  let l := bits v.toNat 1 0
  if !bit v.toNat 31 then s
  else if l < 2 then dlyStatus 2 s
  else if 8192 ≤ (dlyList s.wks.dly l).length then dlyStatus 1 s
  else
    let w0 := rd s 0x000F0040
    let w1 := rd s 0x000F0044
    let kind := bits w1 23 16
    if !kindAllowed l kind then dlyStatus 2 s
    else
      let due := expandFt 48 (w0 + bits w1 15 0 * 2 ^ 32) s.ft
      let id := dlyId s.wks.dly l
      let e : DlyEntry := ⟨due, kind, false, BitVec.ofNat 64 (rd64 s 0x000F0048), id⟩
      wrf rDlyResult 12 0 id (dlyStatus 0 (modDly (fun d => setDlyList l (dlySorted e (dlyList d l)) d) s))
def execDlyInsert (value : Word) (s : State) := run (.dlyInsert value) s (dlyInsert value s)

/-- DLY_CMD with OP 1 removes ID (R354, R356). -/
def dlyRemove (v : Word) (s : State) : State :=
  let l := bits v.toNat 1 0
  let id := bits v.toNat 28 16
  if !bit v.toNat 31 then s
  else if l < 2 then dlyStatus 2 s
  else if (dlyList s.wks.dly l).any (fun e => e.id == id) then
    dlyStatus 0 (modDly (fun d => setDlyList l ((dlyList d l).filter (fun e => e.id != id)) d) s)
  else dlyStatus 3 s
def execDlyRemove (value : Word) (s : State) := run (.dlyRemove value) s (dlyRemove value s)

/-! ### EVT_POST (R357, R359) -/

/-- A PF write of EVT_POST posts a flag armed for it; another sets UNARMED. -/
def execEvtPost (flag : Nat) (s : State) :=
  run (.evtPost flag) s (if armOf s flag = 1 then postFlag flag s else setBit 0x000E1200 30 s)
/-- A PF write of EVT_POST with CLEAR. -/
def execEvtClear (flag : Nat) (s : State) :=
  run (.evtClear flag) s (if armOf s flag = 1 then clearFlag flag s else setBit 0x000E1200 30 s)

end Sys2Proof.Machine
end

