-- ==== Sys2Proof/Machine/Cores.lean ====
section
/-! DEFINITION. The commands of work items and cores (R333 to R347, R368, R369, R514 to R529): dispatch, kernels,
windows, fences, job faults, repair. -/
namespace Sys2Proof.Machine

/-- A work item becomes READY (R336, R337, R347). -/
def execWorkItemReady (slot : Nat) (s : State) := run (.workItemReady slot) s (readyItem slot s)

/-- A core becomes idle (R130, R338). -/
def execCoreIdle (core : Nat) (s : State) := run (.coreIdle core) s (coreIdle core s)

/-! ### Windows (R368, R369) -/

/-- Bytes of a window of a model. -/
def windowBytes (s : State) (m tag : Nat) : Nat := (((model s m).windows.find? (fun w => w.1 == tag)).map Prod.snd).getD 0

/-- A pinned copy's place of a window: the bytes of the windows before it. -/
def pinOffset (d : Model) (tag : Nat) : Nat := ((d.windows.takeWhile (fun w => w.1 != tag)).map Prod.snd).sum
/-- The weights of a window: a PINNED model's from the pond copy of a stall, another's from the installed store
(R366, R368, R369). -/
def windowData (s : State) (n m tag size : Nat) : Bytes :=
  let d := model s m
  if d.pinned then ((pageBytes s (look s.pinPages (n * 256 + m) [])).drop (pinOffset d tag)).take size
  else storeBytes s 5 m (look d.winOfs tag 0) size

/-- Drop least recently used windows that are not pinned until `need` bytes fit in 1 MiB. -/
def makeRoom : Nat → Nat → List Window → List Window
  | 0, _, ws => ws
  | n + 1, need, ws =>
    if (ws.map Window.bytes).sum + need ≤ 1048576 then ws
    else
      let free := ws.filter (fun w => !w.pinned)
      match free.foldl (fun (acc : Option Window) w => match acc with
          | none => some w
          | some a => if w.used < a.used then some w else some a) none with
      | none => ws
      | some w => makeRoom n need (ws.erase w)

/-- The kernel of a core's item starts: its window counts as used now. -/
def startKernel (p tag : Nat) (s : State) : State :=
  modCore p (fun c => { c with
    started := some s.ft, filling := none
    windows := c.windows.map (fun w => if w.tag = tag then { w with used := s.ft } else w) }) s

/-- The dispatch time is over: the kernel starts, or the window it lacks is filled first, at 512 bytes per FT: a
PINNED model from pond, another from the store, one fill after another for the whole chip (R339, R345, R368, R369). -/
def kernelStart (p : Nat) (s : State) : State :=
  let c := core s p
  match c.item with
  | none => s
  | some k =>
    if c.started.isSome ∨ c.filling.isSome ∨ s.ft < c.startAt ∨ !isOn s (p / 17) then s
    else
      let i := item s k
      let m := i.kernel / 256
      let tag := (kernel s i.kernel).tag
      if tag = 0 ∨ c.windows.any (fun w => w.tag == tag) then startKernel p tag s
      else
        let pin := (model s m).pinned
        let busy := if pin then s.ft else
          (s.wks.cores.filter (fun x => x.2.filling.isSome && (match x.2.item with | some j => !(model s ((item s j).kernel / 256)).pinned | none => false))).foldl (fun t x => max t x.2.startAt) s.ft
        let s := modCore p (fun c => { c with filling := some tag, startAt := busy + cdiv (windowBytes s m tag) 512 }) s
        if pin then s else bumpSat (win i.stall 0x410) s
def execKernelStart (core : Nat) (s : State) := run (.kernelStart core) s (kernelStart core s)

/-- A window fill completes and the kernel starts at once (R339, R369). -/
def windowFilled (p : Nat) (s : State) : State :=
  let c := core s p
  match c.item, c.filling with
  | some k, some tag =>
    if s.ft < c.startAt then s
    else
      let m := (item s k).kernel / 256
      let n := windowBytes s m tag
      startKernel p tag (modCore p (fun c => { c with
        windows := { tag := tag, bytes := n, pinned := (model s m).pinned, used := s.ft, data := windowData s (item s k).stall m tag n }
          :: makeRoom c.windows.length n c.windows }) s)
  | _, _ => s
def execWindowFillComplete (core : Nat) (s : State) := run (.windowFillComplete core) s (windowFilled core s)

/-! ### Completion and the watchdog (R341 to R347) -/

/-- The cluster of a repair has nothing running: it goes OFF and comes back (R522). -/
def repairCycle (s : State) : State :=
  match s.wks.repair with
  | some (c, 0) =>
    if s.wks.cores.any (fun x => x.1 / 17 == c && x.2.item.isSome) then s
    else
      let s := modWks (fun w => { w with repair := some (c, 1) }) s
      -- OFF and ON again, with the reload: the completion row ends it
      setDom c { st := .on, src := .off, begun := some s.ft, reload := some (s.ft + 5600) } (offLoss c s)
  | _ => s

/-- Units of an item's inputs that are marked as poisoned (R75). -/
def poisonedIn (s : State) (i : Item) : Bool := s.poison.any (fun p => decide (i.inp ≤ p.1 ∧ p.1 < i.inp + i.inLen) && p.2 != 0)
/-- A kernel that read poisoned units: what it wrote, and its step, derive from them (R75). -/
def taint (i : Item) (s : State) : State :=
  let s := { s with poison := (List.range i.outLen).foldl (fun m u => put m (i.out + u) 1 0) s.poison }
  if i.loose then s else modStep i.aisle i.step (fun t => { t with tainted := true }) s

/-! ### The side engine (R378) -/

/-- The adapter of a row of an item, with where its data is cached: none for a row without ADAPTER_EN. -/
def rowAdapter (s : State) (i : Item) (row : Nat) : Option (AdpCfg × Bytes) :=
  match (if i.loose then none else stepNamed s i.aisle i.step) with
  | none => none
  | some t => match t.rows[row]? with
    | some w =>
      if bit w.orders 5 then
        let id := t.adapters.getD w.aslot 0
        ((model s t.model).adapters.find? (fun a => a.id == id)).map (fun a => (a, pageBytes s (look s.adpPages (i.stall * 65536 + id) [])))
      else none
    | none => none

/-- Row `k` of a matrix of `n` columns that begins at byte `o`. -/
def matRow (d : Bytes) (o n k : Nat) : Bytes := (d.drop (o + n * k)).take n

/-- B·(A·x) in int8 with 32-bit accumulation, times SCALE in bf16 (R378). (DESIGN CHOICE, log 78) -/
def loraProduct (kern : Nat) (m : Nat) (a : AdpCfg) (d : Bytes) (target : Nat) (x : Bytes) (n : Nat) : List (BitVec 16) :=
  let r := 2 ^ a.rank
  let o := Config.adapterAt m a.id target kern
  let y := (List.range r).map (fun k => Config.narrow8 (dot8 (matRow d o.1 x.length k) x))
  (List.range n).map (fun j => bf16Mul (bf16Of (dot8 (matRow d o.2 r j) y).toInt 0) (BitVec.ofNat 16 a.scale))

/-- What the next operation of the kernel gets for a row: the base product, with the adapter's product added where the
row has one and the matrix is a target of it. -/
def adapted (s : State) (i : Item) (p : RowProduct) : List (BitVec 16) :=
  match rowAdapter s i p.row with
  | some (a, d) =>
    if bit a.targets p.target then
      (p.base.zip (loraProduct i.kernel (i.kernel / 256) a d p.target p.x p.base.length)).map (fun z => bf16Add z.1 z.2)
    else p.base
  | none => p.base

/-- OUT of a kernel: the bytes the command brings, or what the kernel's further operations make of its target products. -/
def kernelOut (s : State) (i : Item) (output : Bytes) (ps : List RowProduct) : Bytes :=
  if ps.isEmpty then output else Config.kernelRest i.kernel output (ps.map (adapted s i))

/-- A kernel completes (R343, R344, R347): OUT is written unless every row is masked, EVENT is posted, the item is
RETAINED, or freed when nothing can repeat it (R334), and its step goes on (R18). (DESIGN CHOICE, log 78) -/
def kernelComplete (p : Nat) (output : Bytes) (products : List RowProduct) (s : State) : State :=
  let c := core s p
  match c.item, c.started with
  | some k, some t =>
    let i := item s k
    if t + 2 * (kernel s i.kernel).bound < s.ft then s
    else
      let s := if i.rowMask = 0 ∧ !i.loose then s
        else when_ (poisonedIn s i) (taint i) { s with pond := putBytes s.pond (64 * i.out) ((kernelOut s i output products).take (64 * i.outLen)) }
      let s := modCore p (fun c => { c with item := none, started := none }) s
      let s := if i.cyc ∨ i.loose then freeItem k s else modItem k (fun i => { i with st := .retained }) s
      let s := repairCycle (when_ i.post (postFlag i.event) (touch (p / 17) s))
      if i.loose then s else advance i.aisle i.step s
  | _, _ => s
def execKernelComplete (core : Nat) (output : KernelOut) (s : State) :=
  run (.kernelComplete core output) s (kernelComplete core output.bytes output.products s)

/-- The watchdog (R342): at twice the BOUND the core is fenced. -/
def watchdogTrip (p : Nat) (s : State) : State :=
  let c := core s p
  match c.item, c.started with
  | some k, some t =>
    if s.ft < t + 2 * (kernel s (item s k).kernel).bound then s else repairCycle (fenceCore p 2 (bumpSat rCoreWdt s))
  | _, _ => s
def execWatchdogTrip (core : Nat) (s : State) := run (.watchdogTrip core) s (watchdogTrip core s)

/-- Uncorrectable core-store ECC fences the core (R513, R514). -/
def execCoreStoreEcc (core : Nat) (s : State) := run (.coreStoreEcc core) s (repairCycle (fenceCore core 1 s))

/-! ### Pool (R333, R334) -/

/-- Held work items are placed in order while they fit; the wait is counted. -/
def placeWaiting : Nat → List Nat → State → State
  | 0, _, s => s
  | n + 1, skip, s =>
    match s.wks.waiting.find? (fun w => !skip.contains (w.2.2.1.headD {}).stall) with
    | none => s
    | some w =>
      let st := (w.2.2.1.headD {}).stall
      if poolFits s st w.2.2.1.length then
        let s := modWks (fun x => { x with waiting := x.waiting.erase w }) s
        let s := wr (rWks 0) (sat32 (rd s (rWks 0) + (s.ft - w.2.2.2))) s
        placeWaiting n skip (forEach w.2.2.1 (fun i s => (placeItem i s).2) s)
      else placeWaiting n (st :: skip) s
def execPoolSlotFree (s : State) := run .poolSlotFree s (placeWaiting (s.wks.waiting.length + 32) [] s)

/-- A descriptor's fields (R332). REPEAT and DLK are the device's own. -/
def itemOf (b : Bytes) (now : Nat) : Item :=
  let f := u8 b 3
  { kernel := u16 b 0, stall := bits (u8 b 2) 4 0, prio := bits (u8 b 2) 7 5, timed := bit f 0, wait := bit f 1,
    post := bit f 2, cyc := bit f 3, step := u32 b 4, rowMask := BitVec.ofNat 64 (u64 b 8),
    inp := bits (u32 b 16) 20 0, inLen := bits (u32 b 20) 20 0, out := bits (u32 b 24) 20 0, outLen := bits (u32 b 28) 20 0,
    affinity := BitVec.ofNat 64 (u64 b 32), due := expandFt 40 (leNat (slice b 40 5)) now, event := bits (u16 b 46) 9 0,
    waitFlag := bits (u16 b 48) 9 0, arg := BitVec.ofNat 64 (u64 b 56), loose := true }

/-- WKS_SUBMIT as bytes. -/
def submitBytes (s : State) : Bytes := ((List.range 16).map (fun i => leBytes 4 (rd s (0x000E0100 + 4 * i)))).flatten

/-- WKS_SUBMIT_GO (R334): a work item is created outside any step, or bit 31 says that none was. -/
def wksSubmitGo (v : Word) (s : State) : State :=
  if !bit v.toNat 0 then s
  else
    let i := itemOf (submitBytes s) s.ft
    if poolFits s i.stall 1 then
      match placeItem i s with
      | (some k, s) => wr 0x000E0140 k s
      | (none, s) => wr 0x000E0140 (2 ^ 31) s
    else wr 0x000E0140 (2 ^ 31) s
def execWksSubmitGo (value : Word) (s : State) := run (.wksSubmitGo value) s (wksSubmitGo value s)

/-! ### Job faults (R525 to R529) -/

/-- Code of a job fault (R525). -/
def jobCode : JobKind → Nat | .illegal => 0x0E05 | .pageBound => 0x1102 | .pondEcc => 0x1101 | .adapter => 0x0A05

/-- The open command of a request completes without freeing it: a running generation drains, a command in
admission leaves it. -/
def endOpen (status : Nat) (r : Nat) (s : State) : State :=
  let s := maskReq r 3 s
  if running (ent s r) then toDraining r status true false false s
  else if (ent s r).st = .admitting ∨ (ent s r).st = .deferred then
    let s := finishOpen r status (dropTimers r s)
    let s := { s with admq := s.admq.filter (fun c => c.isBatch || c.req != r) }
    let b := (side s r).before
    if b = .free then closeNow r s else if b = .ready then toReady r s else modEnt r (fun e => { clearCmd e with st := b }) s
  else s

/-- A request is torn down by a job fault (R527). -/
def tearDown (r : Nat) (s : State) : State :=
  if isMaster s r then
    let st := (ent s r).stall
    logEv 0x0807 st [] (toClosing r 0x40 0x40 0x12 false (maskReq r 3 s))
  else maskHere r s

/-- Every command a Fixed-cycle chip's stop completes (R529). -/
def stopCycle (s : State) : State :=
  let s := logC 0x0A01 [] s
  let rs := (s.rtb.filter (fun p => !p.2.shadow && p.2.st != .free && ((side s p.1).inStep.isSome || (side s p.1).open_ != .none_))).map Prod.fst
  let s := forEach rs (endOpen 0x42) s
  let s := { s with steps := [], fixed := { s.fixed with stopped := some s.ft } }
  let s := forEach rs (fun r => modSide r (fun x => { x with inStep := none })) s
  let far := ((s.conf.aisles.filter (fun a => a.2.any (fun m => m.1 == s.fab.chip))).flatMap (fun a => a.2.map Prod.fst)).dedup
  forEach (far.filter (· != s.fab.chip)) (fun c s => sendNotice c (chipLostNotice s.fab.chip s.fab.chip 3 0 s.ft) s) s

/-- A job fault (R525, R526): logged, counted, attributed to rows or to every holder of the page, whose requests
are torn down; a Fixed-cycle chip stops. -/
def jobFault (kind : JobKind) (slot : Nat) (rows : List Nat) (page : Nat) (s : State) : State :=
  let i := item s slot
  let s := bumpSat 0x000D0020 (logEv (jobCode kind) i.stall [] s)
  let rs := match kind with
    | .pondEcc => (s.rtb.filter (fun p => p.2.st != .free && p.2.pages.any (fun g => g.1 == page))).map Prod.fst
    | _ => rowReqs s i (if rows.isEmpty then i.rowMask else BitVec.ofNat 64 (maskOf rows) &&& i.rowMask)
  let s := match kind, nodeOfPage s page with
    | .pondEcc, some n => modNode n (fun x => { x with valid := false }) s
    | _, _ => s
  if isFixed s then stopCycle s else forEach rs tearDown s
def execJobFault (kind : JobKind) (slot : Nat) (rows : List Nat) (page : Nat) (s : State) :=
  run (.jobFault kind slot rows page) s (jobFault kind slot rows page s)

/-! ### Repair (R522 to R524) -/

/-- CORE_REPAIR_STAT. -/
abbrev rRepairStat : Nat := 0x000D001C

/-- The active plan of a Fixed-cycle chip (R315, R321). -/
def activePlan (s : State) : List CycSlot :=
  match s.conf.cycle with
  | none => []
  | some c => if s.fixed.plan = 0 then c.slots else ((c.spares.getD (s.fixed.plan - 1) (0, [])).2)

/-- Move a cluster's ready lists to other clusters (R522). -/
def moveLists (c : Nat) (s : State) : State :=
  forEach (s.wks.pool.filter (fun p => p.2.st == .ready && p.2.list == some c)) (fun p s =>
    modItem p.1 (fun i => { i with list := (homeOf s i).or (some ((c + 1) % 4)) }) s) s

/-- CORE_REPAIR (R522 to R524): BUSY during a repair, MODE when a Fixed-cycle plan names the cluster; else the
cluster drains. -/
def coreRepair (v : Word) (s : State) : State :=
  let c := bits v.toNat 1 0
  if !bit v.toNat 31 then s
  else if s.wks.repair.isSome then wrf rRepairStat 1 0 1 s
  else if isFixed s ∧ (activePlan s).any (fun g => (List.range 17).any (fun i => bit g.cores.toNat (17 * c + i))) then wrf rRepairStat 1 0 2 s
  else
    let s := setBit rRepairStat 2 (wrf rRepairStat 1 0 0 s)
    let s := modWks (fun w => { w with repair := some (c, 0) }) s
    repairCycle (moveLists c (logC 0x0E04 [] s))
def execCoreRepair (value : Word) (s : State) := run (.coreRepair value) s (coreRepair value s)

/-- A core that passed its self-test is unfenced and is the spare of its cluster (R328, R522). -/
def unfence (p : Nat) (s : State) : State := logC 0x0E02 [p] (modCore p (fun c => { c with fenced := false }) s)

/-- A repair ends (R515, R522): cores that fail the self-test are fenced, fenced cores that pass are unfenced. A
repair that still drains begins its power cycle instead, once nothing runs. -/
def repairComplete (failing : List Nat) (s : State) : State :=
  match s.wks.repair with
  | none => s
  | some (_, 0) => repairCycle s
  | some (c, _) =>
    match (dom s c).reload with
    | none => s
    | some t =>
      if s.ft < t then s
      else
        let mine := (List.range 17).map (fun i => 17 * c + i)
        let good := mine.filter (fun p => (core s p).fenced && !failing.contains p)
        let s := modDom c (fun x => { x with reload := none, begun := none }) s
        let s := modWks (fun w => { w with repair := none }) s
        let s := forEach good unfence s
        let s := forEach (mine.filter (fun p => failing.contains p && !(core s p).fenced)) (fun p => fenceCore p 3) s
        let s := wrf rRepairStat 8 4 good.length (clrBit rRepairStat 2 s)
        settleDom c (logC 0x0E06 [good.length] s)
def execRepairComplete (failing : List Nat) (s : State) := run (.repairComplete failing) s (repairComplete failing s)

end Sys2Proof.Machine
end

