-- ==== Sys2Proof/Machine/Operands.lean ====
section
/-! DEFINITION. Operand forms of host commands: submission entries and their checks (R186, R192, R198 to R205, R222),
token lists (R201), handles of requests and rings (R189 to R192, R432). -/
namespace Sys2Proof.Machine

/-- Read a 64-byte submission entry (R198, R200). -/
def sqeOf (b : Bytes) : Sqe :=
  let f := u8 b 1
  { op := u8 b 0, supersede := bit f 0, hostSeed := bit f 1, noDeadline := bit f 2, cid := u16 b 2
    prio := bits (u8 b 4) 2 0, handle := BitVec.ofNat 64 (u64 b 8), deadline := leNat (slice b 16 5), model := u8 b 21
    adapter := u16 b 22, ctrl := u8 b 24, profile := u8 b 25, maxNew := u16 b 26, count := u16 b 28
    addr := BitVec.ofNat 64 (u64 b 32), ring := BitVec.ofNat 64 (u64 b 40), seed := BitVec.ofNat 64 (u64 b 48)
    budget := u32 b 56, ttl := u32 b 60, raw := b }

/-- SUBMIT. -/
abbrev opSubmit : Nat := 1
/-- APPEND. -/
abbrev opAppend : Nat := 2
/-- CANCEL. -/
abbrev opCancel : Nat := 3
/-- PAUSE. -/
abbrev opPause : Nat := 4
/-- RESUME. -/
abbrev opResume : Nat := 5
/-- CLOSE. -/
abbrev opClose : Nat := 6
/-- SET_DEADLINE. -/
abbrev opSetDeadline : Nat := 7
/-- BATCH. -/
abbrev opBatch : Nat := 8
/-- FENCE. -/
abbrev opFence : Nat := 9
/-- ADOPT. -/
abbrev opAdopt : Nat := 10

/-- The bytes from 16 that an opcode uses, as first byte and length (R200). -/
def usedBytes (op : Nat) : List (Nat × Nat) :=
  match op with
  | 1 => [(16, 14), (32, 28)]
  | 2 => [(16, 5), (24, 1), (26, 4), (32, 8)]
  | 4 => [(60, 4)]
  | 5 | 7 => [(16, 5)]
  | 8 => [(28, 2), (32, 8)]
  | 10 => [(16, 5), (40, 8)]
  | _ => []

/-- The command breaks R202. A SEED without HOST_SEED is an unused field; a batch holds 1 to 64 members (R200). -/
def fieldBad (e : Sqe) : Bool :=
  let b := e.raw
  let free (i : Nat) : Bool := !(usedBytes e.op).any (fun u => u.1 ≤ i && i < u.1 + u.2)
  bits (u8 b 1) 7 3 != 0 || bits (u8 b 4) 7 3 != 0 || !allZero (slice b 5 3)
    || (List.range 48).any (fun i => free (16 + i) && u8 b (16 + i) != 0)
    || ((e.op == 1 || e.op == 8 || e.op == 9) && e.handle != 0)
    || (e.noDeadline && e.deadline != 0)
    || (e.supersede && e.op != 2)
    || (e.op == 1 && (bits e.ctrl 7 6 != 0 || (!e.hostSeed && e.seed != 0)))
    || (e.op == 2 && bits e.ctrl 7 5 != 0)
    || (e.op == 8 && (e.count == 0 || decide (64 < e.count)))

/-- The stall mode accepts the opcode (R186, R199): mode 0 Graded, 1 Host-batch, 2 Fixed-cycle. -/
def opAllowed (mode op : Nat) : Bool :=
  if mode = 1 then op == 3 || op == 6 || op == 8 || op == 9
  else (1 ≤ op && op ≤ 7) || op == 9 || op == 10

/-- The FINALs that R210 allows a command. -/
def finalsOf (e : Sqe) : Nat :=
  match e.op with | 1 | 2 | 5 | 6 | 10 => 1 | 8 => e.count + 1 | _ => 0

/-- The command names a request by HANDLE. -/
def namesReq (op : Nat) : Bool := op == 2 || op == 3 || op == 4 || op == 5 || op == 6 || op == 7 || op == 10

/-- KIND and the reserved bits are a handle's (R192). -/
def handleForm (h : Nat) : Bool := 1 ≤ hKind h && hKind h ≤ 5 && bits h 39 24 == 0
/-- The handle names something of this chip and of a stall (R189, R222); its generation is then this chip's to judge. -/
def ourHandle (s : State) (stall h : Nat) : Bool := hChip h == s.fab.chip && hStall h == stall
/-- A handle's form and generation name a live object of a kind (R189, R192). -/
def handleOk (s : State) (kind h : Nat) : Bool :=
  hKind h == kind && bits h 39 24 == 0 && hGen h == genOf s kind (hIdx h)

/-- CSTAT of the HANDLE of a command on channel `c` (R192, R205, R208, R222, R268): 0 when it may go on. -/
def nameCheck (s : State) (c : Nat) (e : Sqe) : Nat :=
  let h := e.handle.toNat
  let x := ent s (hIdx h)
  if !handleForm h then 1
  else if !ourHandle s (chan s c).stall h then 5
  else if !handleOk s 2 h || x.st == .free || x.st == .fw || x.shadow || isHolder (hIdx h) then 1
  else if x.stall ≠ (chan s c).stall then 5
  else if e.op = opAdopt then (if x.orphan then 0 else 5)
  else if x.channel ≠ c ∨ x.orphan then 5 else 0

/-- CSTAT of a RING field (R192, R432): the ring index when it may be bound. -/
def ringCheck (s : State) (stall h : Nat) : Nat × Option Nat :=
  let i := hIdx h
  if !handleForm h then (1, none)
  else if !ourHandle s stall h then (5, none)
  else if !handleOk s 3 h || decide (8192 ≤ i) || (ring s i).st == 0 then (1, none)
  else if (ring s i).stall ≠ stall then (5, none)
  else if (ring s i).st ≠ 1 then (4, none) else (0, some i)

/-- CSTAT that a command has before its own checks (R186, R192, R199, R202, R205, R222). -/
def staticStat (s : State) (c : Nat) (e : Sqe) : Nat :=
  if !opAllowed (stallCfg s (chan s c).stall).mode e.op then 2
  else if fieldBad e then 3
  else if namesReq e.op then nameCheck s c e else 0

/-- The tokens of a list (R201), `none` when a word's upper half is not zero. -/
def tokensOf (ws : List Word) : Option (List Nat) :=
  if ws.all (fun w => decide (w.toNat < 65536)) then some (ws.map BitVec.toNat) else none

/-- The deadline FT of a command, resolved at acceptance (R10, R200). -/
def deadlineOf (s : State) (e : Sqe) : Option Nat := if e.noDeadline then none else some (expandFt 40 e.deadline s.ft)

/-- PRIO under the channel's PRIO_MAX (R203). -/
def prioOf (s : State) (c p : Nat) : Nat := max p (chan s c).prioMax

end Sys2Proof.Machine
end

