-- ==== Sys2Proof/Machine/Flags.lean ====
section
/-! DEFINITION. Status words and counters computed from what a command did: completion entries (R206 to R209),
queue-wait buckets (R224), the till's image (R223). -/
namespace Sys2Proof.Machine

/-- INFO of a completion (R206): OUTCOME, RUNG, DEFERRED, CSTAT. -/
def infoOf (q : Cqe) : Nat := q.outcome % 4 + q.rung % 4 * 4 + b2n q.deferred * 16 + q.cstat % 8 * 32

/-- The 32 bytes of a completion entry (R206, R214). -/
def cqeBytes (phase : Bool) (q : Cqe) : Bytes :=
  [BitVec.ofNat 8 ((if q.final then 2 else 1) + 128 * b2n phase), BitVec.ofNat 8 q.status] ++ leBytes 2 q.cid
  ++ leBytes 4 q.req ++ [BitVec.ofNat 8 (infoOf q), BitVec.ofNat 8 (min q.displaced 255)]
  ++ leBytes 2 (min q.specAcc 65535) ++ leBytes 4 q.predict ++ leBytes 6 q.ingress ++ leBytes 2 q.admits
  ++ leBytes 4 q.first ++ leBytes 4 q.last

/-- The histogram bucket of a queue wait (R224). -/
def waitBucket (w : Nat) : Nat :=
  if w < 16 then 0 else ((List.range 16).filter (fun b => 1 ≤ b && decide (2 ^ (b + 3) ≤ w))).foldl max 1

/-- Count a queue wait in a till (R223, R224). -/
def countWait (w : Nat) (t : Till) : Till :=
  { t with
    waitSum := min (t.waitSum + w) (2 ^ 64 - 1), waitMax := max t.waitMax (sat32 w)
    hist := upd t.hist (waitBucket w) 0 (fun n => min (n + 1) 65535) }

/-- The 128 bytes of a till (R223). -/
def tillBytes (t : Till) : Bytes :=
  leBytes 8 t.snapFt ++ leBytes 4 t.cmds ++ leBytes 4 t.triggers ++ leBytes 4 t.admits ++ leBytes 4 t.fallback
  ++ leBytes 4 t.defer_ ++ leBytes 4 t.displaced
  ++ ((List.range 8).map (fun i => leBytes 4 (look t.refused i 0))).flatten
  ++ leBytes 4 t.lateDropped ++ leBytes 4 t.lateFinished ++ leBytes 4 t.faults ++ leBytes 4 t.specRejected
  ++ leBytes 8 t.waitSum ++ leBytes 4 t.waitMax ++ leBytes 4 t.tokens
  ++ ((List.range 16).map (fun i => leBytes 2 (look t.hist i 0))).flatten

/-- An ACK that carries an admission outcome (R206, R209, R211). -/
def outcomeAck (s : State) (r outcome status rung : Nat) (predict : Nat) : Cqe :=
  let e := ent s r
  { final := false, status := status, cid := e.cid, req := if isHolder r then 0 else reqField s r, outcome := outcome
    rung := rung, deferred := outcome == 2, cstat := 0, displaced := 0, specAcc := 0, predict := predict % 2 ^ 32
    ingress := e.ingress % 2 ^ 48, admits := min e.admitOfs 65535, first := 0, last := 0 }

end Sys2Proof.Machine
end

