-- ==== Sys2Proof/Machine/ReqOps.lean ====
section
/-! DEFINITION. What several commands do to a request: taking the next command of a channel (R204, R210, R216, R217),
opening a request, closing it (R228), pausing it (R258 to R262), tearing a channel down (R195, R220). -/
namespace Sys2Proof.Machine

/-! ### Pages of a request on each chip (R242, R247, R248) -/

/-- Pages that `n` positions take on this chip. -/
def pagesHere (s : State) (m n : Nat) : Nat :=
  let d := model s m
  if d.stateless ∨ d.layerCount = 0 ∨ d.pageTokens = 0 then 0 else cdiv n d.pageTokens

/-- The member stalls of a stall's aisle on other chips. -/
def remotes (s : State) (stall : Nat) : List (Nat × Nat) :=
  match aisleOf s stall with
  | none => []
  | some a => (members s a).filter (fun m => m.1 != s.fab.chip)

/-- Pages that `n` positions take on a member chip. -/
def pagesThere (m chip n : Nat) : Nat := let p := Config.memberPageTokens chip m; if p = 0 then 0 else cdiv n p

/-- Free count key of a member stall. -/
abbrev freeKey (m : Nat × Nat) : Nat := m.1 * 32 + m.2
/-- Free pages that the head chip counts for a member stall (R242, R520). -/
def freePagesAt (s : State) (m : Nat × Nat) : Nat := (Config.memberGrant m.1 m.2).1 - (look s.free (freeKey m) {}).pages
/-- Free entries. -/
def freeEntriesAt (s : State) (m : Nat × Nat) : Nat :=
  let f := look s.free (freeKey m) {}
  if f.lost then 0 else (Config.memberGrant m.1 m.2).2.1 - f.entries
/-- Free pause-area slots. -/
def freeSlotsAt (s : State) (m : Nat × Nat) : Nat := (Config.memberGrant m.1 m.2).2.2 - (look s.free (freeKey m) {}).slots
/-- Change a member stall's counts. -/
def modFree (m : Nat × Nat) (f : Free → Free) (s : State) : State := { s with free := upd s.free (freeKey m) {} f }

/-- Entries of a stall in the table. -/
def liveEntries (s : State) (n : Nat) : Nat :=
  (s.rtb.filter (fun e => e.1 < 4096 && e.2.stall == n && e.2.st != .free)).length
/-- Firmware-tracked requests of a stall. -/
def liveRecords (s : State) (n : Nat) : Nat :=
  (s.rtb.filter (fun e => isFw e.1 && e.2.stall == n && e.2.st != .free)).length
/-- Live requests of a channel. -/
def liveOf (s : State) (c : Nat) : Nat :=
  (s.rtb.filter (fun e => e.2.channel == c && e.2.st != .free && e.2.st != .fw && !e.2.shadow && !isHolder e.1)).length

/-! ### Taking commands of a channel -/

/-- Post an ACK at acceptance and release the FINAL reservations of a command that will post none (R210, R216). -/
def ackNow (c : Nat) (e : Sqe) (cstat req finals : Nat) (s : State) : State :=
  post c (plainAck s e.cid cstat req) (unreserve c finals s)

/-- REQ of a completion for a command that names a request. -/
def namedReq (e : Sqe) : Nat := hGen e.handle.toNat * 2 ^ 24 + hIdx e.handle.toNat

/-- A command completes with a CSTAT other than OK and has no effect (R192, R202, R210). -/
def reject (c : Nat) (e : Sqe) (cstat : Nat) (s : State) : State := ackNow c e cstat (namedReq e) (finalsOf e) s

/-- The command at the head of a channel's fetched entries, when it may be accepted now (R204, R270). -/
def headCmd (s : State) (c : Nat) : Option Sqe :=
  if (chan s c).notBefore ≤ s.ft ∧ isOn s dSEQ ∧ !leaving s then (chan s c).acc.head? else none

/-- Complete the commands at the head that fail the checks every command meets. -/
def settleAcc (c : Nat) : Nat → State → State
  | 0, s => s
  | n + 1, s =>
    match headCmd s c with
    | none => s
    | some e =>
      let st := staticStat s c e
      if st = 0 then s
      else settleAcc c n (reject c e st (modChan c (fun x => { x with acc := x.acc.drop 1 }) s))

/-- Reserve a held entry's slots and let it go on once the free count suffices (R217). -/
def takeHeldEntry (c : Nat) (s : State) : State :=
  match (chan s c).held with
  | some (e, need) =>
    if need ≤ cqFree (chan s c) then
      let s := modChan c (fun x => { x with held := none, reserved := x.reserved + need, acc := x.acc ++ [e] }) s
      settleAcc c (chan s c).acc.length s
    else s
  | none => s

/-- Reservations that no completion will use are released, which may let a held entry go on (R217). -/
def giveBack (c n : Nat) (s : State) : State := takeHeldEntry c (unreserve c n s)

/-- Accept the channel's next command when its opcode is `op` (R204): a request that an earlier CANCEL or SUPERSEDE
of the channel still waits on holds it back. -/
def accept (c op : Nat) (act : Sqe → State → State) (s : State) : State :=
  let s := settleAcc c (chan s c).acc.length s
  match headCmd s c with
  | none => takeHeldEntry c s
  | some e =>
    if e.op ≠ op ∨ (namesReq op && (side s (hIdx e.handle.toNat)).cancelAt.isSome) then takeHeldEntry c s
    else
      let s := act e (modChan c (fun x => { x with acc := x.acc.drop 1 }) s)
      takeHeldEntry c (settleAcc c (chan s c).acc.length s)

/-! ### Pages that are spoken for (R242, R248, R369, R373) -/

/-- Pages that pinned copies of a stall hold. -/
def pinnedPages (s : State) (n : Nat) : Nat := ((s.pinPages.filter (fun p => p.1 / 256 == n)).map (fun p => p.2.length)).sum
/-- The adapter cache of a stall in pages: within the quota left after pinned copies. -/
def cacheCap (s : State) (n : Nat) : Nat := min (rdf s (win n 0x400) 13 0) ((stallCfg s n).pondPages - pinnedPages s n)
/-- Pages of adapters in a stall's cache that meet a test. -/
def cachePages (s : State) (n : Nat) (p : Nat → Bool) : Nat :=
  ((s.adpPages.filter (fun x => x.1 / 65536 == n && p (x.1 % 65536))).map (fun x => x.2.length)).sum
/-- Nodes of a stall that eviction could free, a leaf after its children: those with no reference below them. -/
def evictablePages (s : State) (stall : Nat) : Nat :=
  (s.pfx.filter (fun n => n.2.valid && n.2.stall == stall && n.2.refs == 0 && n.2.page != 0xFFFF)).length

/-- Positions a running request may still come to write. -/
def goalPos (s : State) (r : Nat) : Nat :=
  let e := ent s r
  e.committed + e.prompt.length + (e.maxNew - e.genLen) + min e.spec (model s e.model).specHeads
/-- The request's pages are still to grow: it runs on rung 0 or 1. -/
def growing (e : Entry) : Bool := !e.shadow && running e && e.rung != 2
/-- The other requests of a stall. -/
def othersOf (s : State) (n r : Nat) : List (Nat × Entry) := s.rtb.filter (fun p => p.2.stall == n && p.1 != r && p.2.st != .free)
/-- Pages a request comes to on this chip. -/
def goalHere (s : State) (p : Nat × Entry) : Nat :=
  if growing p.2 then max p.2.pages.length (pagesHere s p.2.model (goalPos s p.1)) else p.2.pages.length
/-- Pages a request comes to on the member stall `m` with index `i`, those of shared nodes too. -/
def goalThere (s : State) (m : Nat × Nat) (i : Nat) (p : Nat × Entry) : Nat :=
  let x := side s p.1
  let have_ := if x.away then 0 else x.pfxDepth + x.slots.getD i 0
  if growing p.2 then max have_ (pagesThere p.2.model m.1 (goalPos s p.1)) else have_

/-- Pages promised to the other running requests of a stall and not yet theirs. -/
def promisedHere (s : State) (n r : Nat) : Nat := ((othersOf s n r).map (fun p => goalHere s p - p.2.pages.length)).sum
/-- The same on the member stall with index `i`. -/
def promisedThere (s : State) (n r : Nat) (m : Nat × Nat) (i : Nat) : Nat :=
  ((othersOf s n r).map (fun p => goalThere s m i p
    - (if (side s p.1).away then 0 else (side s p.1).pfxDepth + (side s p.1).slots.getD i 0))).sum

/-- Pages that page lists take beyond those a stall gives them now, when the others have all they are promised and
`k` blocks more are wanted (R246, R647). -/
def listMore (s : State) (n r k : Nat) : Nat :=
  cdiv (((othersOf s n r).map (fun p => listSize (goalHere s p))).sum + k) 128 - (look s.listPages n []).length
/-- The same as the lists now stand, with `k` blocks for request `r`. -/
def listNow (s : State) (n r k : Nat) : Nat :=
  cdiv (((othersOf s n r).map (fun p => listSize p.2.pages.length)).sum + k) 128 - (look s.listPages n []).length
/-- Pages that page lists and nodes take on the member stall with index `i`; the head chip counts them with the
requests (R242, R252). -/
def listThere (s : State) (n r : Nat) (m : Nat × Nat) (i k : Nat) : Nat :=
  cdiv (((othersOf s n r).map (fun p => listSize (goalThere s m i p))).sum + k) 128 + (look s.pfxPages n []).length

/-- Free pages of this chip for new work: the cache keeps its own, eviction adds. -/
def freeHere (s : State) (n r : Nat) : Nat :=
  pagesFree s n + evictablePages s n - (cacheCap s n - cachePages s n (fun _ => true)) - promisedHere s n r

/-- `k` pages may go to something no request was promised: what the running requests still need stays free (R248).
(DESIGN CHOICE, log 50) -/
def spare (s : State) (n k : Nat) : Bool :=
  decide (k ≤ pagesFree s n) && decide (k + listMore s n (2 ^ 25) 0 ≤ freeHere s n (2 ^ 25))

/-! ### Opening a request -/

/-- A seed of the DRBG's pool (R423, R610). -/
def drawSeed (s : State) : W64 × State :=
  (BitVec.ofNat 64 (leNat ((List.range 8).map (Config.drbg (2 * s.secm.poolDraws + 1)))),
   { s with secm := { s.secm with pool := s.secm.pool - 1, poolDraws := s.secm.poolDraws + 1 } })

/-- The profile a request uses, counting one that is absent (R407). -/
def takeProfile (m p : Nat) (s : State) : Nat × State :=
  if (model s m).loaded ∧ !(profile s m p).loaded then (0, bumpSat 0x0016002C s) else (p, s)

/-- A SUBMIT's new entry in ADMITTING (R232, R234, R256): in the table, as a firmware-tracked request, or, with no
entry free, standing for the command alone. -/
def openSubmit (c : Nat) (e : Sqe) (tokens : List Nat) (ringIdx : Option Nat) (template : Nat) (trig : Bool)
    (deadline : Option Nat) (ingress : Nat) (s : State) : Nat × State :=
  let n := (chan s c).stall
  let fw := decide (16384 < (model s e.model).context) || (stallCfg s n).mode == 1
  let empty (k : Nat) : Bool := (ent s k).st == .free
  let r :=
    if fw then 4096 + (lowest (s.rtb.length + 1) (fun k => empty (4096 + k))).getD 0
    else if liveEntries s n < (stallCfg s n).entries then (lowest 4096 empty).getD (2 ^ 24)
    else 2 ^ 24 + (lowest (s.rtb.length + 1) (fun k => empty (2 ^ 24 + k))).getD 0
  let p := takeProfile e.model e.profile s
  let s := p.2
  let x : Entry :=
    { st := .admitting, stall := n, prio := prioOf s c e.prio, channel := c, model := e.model, adapter := e.adapter
      maxRung := bits e.ctrl 1 0, spec := bits e.ctrl 3 2, deadline := deadline, cid := e.cid
      maxLen := if fw then (model s e.model).context else min (model s e.model).context 16384
      maxNew := e.maxNew, budget := if e.budget = 0 then 2 ^ 32 - 1 else e.budget, late := bit e.ctrl 4
      ring := ringIdx, adapterEn := bit e.ctrl 5, prompt := tokens, till := c, profile := p.1, seed := e.seed
      ingress := ingress }
  let y : Side :=
    { open_ := .submit, trig := trig, before := .free, acked := trig, acceptAt := ingress, template := template
      idleSince := s.ft, seeded := e.hostSeed, askPrio := e.prio }
  let s := { s with rtb := put s.rtb r x {}, side := put s.side r y {} }
  let s := match ringIdx with | some i => modRing i (fun g => { g with st := 2, req := some r }) s | none => s
  let ms := remotes s n
  let s := if isHolder r then s else forEach ms (fun m => modFree m (fun f => { f with entries := f.entries + 1 })) s
  (r, s)

/-! ### Closing, pausing, tearing down -/

/-- A CLOSE takes effect on a request (R228, R234): a pending APPEND completes CLOSED; a READY or PAUSED request
ends; otherwise the CLOSE waits for the open work. -/
def takeClose (r : Nat) (posts : Bool) (cid : Nat) (s : State) : State :=
  let s := finishPend r 0x12 s
  let e := ent s r
  if e.st = .ready ∨ e.st = .paused then
    let s := modSide r (fun x => { x with open_ := if posts then .close else .none_ }) s
    let s := modEnt r (fun x => { x with cid := cid, ingress := s.ft }) s
    let s := modSide r (fun x => { freshCmd x with open_ := x.open_, acked := true }) s
    toClosing r 0x12 0x12 0x12 false s
  else modSide r (fun x => { x with pend := some { isClose := true, cid := cid, ingress := s.ft, posts := posts } }) s

/-- Slots of this chip that a stall's requests hold. -/
def slotsUsed (s : State) (n : Nat) : Nat :=
  ((s.nmc.dirSlots.filter (fun d => (ent s d.1).stall == n)).map (fun d => d.2.length)).sum
/-- The lowest free slots of the pause area. -/
def takeSlots (s : State) (n : Nat) : List Nat :=
  let used := (s.nmc.dirSlots.map Prod.snd).flatten
  ((List.range (used.length + n)).filter (fun k => !used.contains k)).take n

/-- The pause-area slots suffice on every chip (R262). -/
def slotsSuffice (s : State) (r : Nat) : Bool :=
  let e := ent s r
  decide (slotsUsed s e.stall + slotsFor e.pages.length ≤ (stallCfg s e.stall).pauseSlots)
    && ((remotes s e.stall).zipIdx).all (fun m => decide (lakeSlots (side s r) ((side s r).slots.getD m.2 0) ≤ freeSlotsAt s m.1))

/-- A PAUSE of a READY request whose slots suffice (R259, R262): slots are reserved, the TTL entry is inserted, and
the members are told. -/
def startPause (r ttl : Nat) (s : State) : State :=
  let e := ent s r
  let us_ := let t := if ttl = 0 then rd s (win e.stall 0x208) else ttl; min t 600000000
  let due := s.ft + us us_
  let ks := takeSlots s (slotsFor e.pages.length)
  let s := { s with nmc := { s.nmc with dirSlots := put s.nmc.dirSlots r ks [] } }
  let s := forEach ((remotes s e.stall).zipIdx) (fun m s =>
    modFree m.1 (fun f => { f with slots := f.slots + lakeSlots (side s r) ((side s r).slots.getD m.2 0) }) s) s
  let s := orderShadow r 4 (dlyIns 3 (reqHandle s r) due s)
  modEnt r (fun e => { e with st := .pausing, ttlDue := due }) (modSide r (fun x => { x with lake := true }) s)

/-- The lake offset of a pause-area slot (R260). -/
abbrev slotAddr (k : Nat) : Nat := 0x500000000 + 8192 * k

/-- Copy a range of bytes between two stores. -/
def copyRange (src : SMap Byte) (a n : Nat) (dst : SMap Byte) (b : Nat) : SMap Byte :=
  (src.filter (fun p => a ≤ p.1 && p.1 < a + n)).foldl (fun d p => ins d (p.1 - a + b) p.2) (delRange dst b n)

/-- The live requests of a channel whose conversations are not in the lake. -/
def chanReqs (s : State) (c : Nat) : List Nat :=
  ((s.rtb.filter (fun e => e.2.channel == c && !e.2.shadow && e.2.st != .free && e.2.st != .fw && e.2.st != .paused)).map Prod.fst)

/-- A request is torn down with no completion: its rows are masked, its records closed, its commands forgotten
(R220). -/
def dropReq (r : Nat) (s : State) : State :=
  let s := closeRecs r false false false (maskReq r 3 s)
  let s := modSide r (fun x => { x with open_ := .none_, pend := none, ending := none, pendEnding := none, cancelAt := none }) s
  toClosing r 0x40 0x40 0x40 false (modEnt r (fun e => if e.st = .draining then { e with st := .ready } else e) s)

/-- A channel enters ERROR (R220, R528). (DEDUCED, log 29) -/
def chanError (c code : Nat) (s : State) : State :=
  let n := (chan s c).stall
  let s := logEv code n [c] (setBit (win n 0x008) 1 s)
  let s := modChan c (fun x => { x with st := 3, compq := [], acc := [], held := none, fences := [], reserved := 0 }) s
  forEach (chanReqs s c) dropReq s

/-- CH_RESULT of a stall. -/
abbrev rChResult (n : Nat) : Nat := win n 0x024

/-- A destroyed channel is freed when its last reserved completion has been posted (R195, R269): its paused
requests have no channel from here on. -/
def freeChan (c : Nat) (s : State) : State :=
  let x := chan s c
  if x.st = 2 ∧ x.reserved = 0 ∧ x.compq.isEmpty ∧ x.acc.isEmpty ∧ x.held.isNone then
    let s := clrBit (rChResult x.stall) 8 (wrf (rChResult x.stall) 2 0 0 s)
    bumpGen 1 c { s with chans := put s.chans c {} {} }
  else s

/-- A paused request becomes ORPHAN; its ring binding ends (R269, R432). -/
def orphan (r : Nat) (s : State) : State :=
  let s := match (ent s r).ring with
    | some i => when_ ((ring s i).req == some r) (modRing i (fun g => { g with req := none, st := if g.st == 2 then 1 else g.st })) s
    | none => s
  modEnt r (fun e => { e with orphan := true, ring := none }) s

end Sys2Proof.Machine
end

