-- ==== Sys2Proof/Machine/Prefix.lean ====
section
/-! DEFINITION. The prefix tree (R249 to R255): walking, sharing, insertion, copy-on-write, eviction. -/
namespace Sys2Proof.Machine

/-- The tree a request uses, by its adapter. -/
def treeAdapter (e : Entry) : Nat := if e.adapterEn then e.adapter else 0xFFFF

/-- The model uses the tree for a stall: P at most 16 and equal along the aisle (R250). -/
def treeOk (s : State) (stall m : Nat) : Bool :=
  let p := (model s m).pageTokens
  !(model s m).stateless && decide (1 ≤ p) && decide (p ≤ 16)
    && (remotes s stall).all (fun x => Config.memberPageTokens x.1 m == p)

/-- The node under `parent` whose whole span begins the tokens: the longest span, then the lowest index. -/
def matchNode (s : State) (stall m a parent : Nat) (toks : List Nat) : Option (Nat × PfxNode) :=
  (s.pfx.filter (fun n => n.2.valid && n.2.stall == stall && n.2.model == m && n.2.adapter == a && n.2.parent == parent
      && n.2.span.isPrefixOf toks)).foldl (fun acc n => match acc with
    | none => some n
    | some b => if b.2.span.length < n.2.span.length then some n else some b) none

/-- The nodes a prompt matches, root first (R251). -/
def walk (s : State) (stall m a : Nat) : Nat → Nat → List Nat → List Nat
  | 0, _, _ => []
  | k + 1, parent, toks =>
    match matchNode s stall m a parent toks with
    | some (i, n) => if n.span.isEmpty then [] else i :: (if n.partial_ then [] else walk s stall m a k i (toks.drop n.span.length))
    | none => []

/-- The walk a SUBMIT makes at admission, empty when its stall or model makes none. -/
def walkOf (s : State) (r : Nat) : List Nat :=
  let e := ent s r
  if bit (rd s (win e.stall 0x210)) 0 && treeOk s e.stall e.model && (side s r).open_ == .submit
  then walk s e.stall e.model (treeAdapter e) e.prompt.length noNode e.prompt else []

/-- FT that a walk adds to ADMITTING (R251). -/
def walkFt (n : Nat) : Nat := cdiv (64 * n) 10

/-- Share the matched nodes' pages with a request (R251): only the unmatched tokens stay to be prefilled. -/
def shareWalk (r : Nat) (ns : List Nat) (s : State) : State :=
  let toks := ((ns.map (fun i => (node s i).span.length)).sum)
  let pages := (ns.map (fun i => (node s i).page)).filter (· != 0xFFFF)
  let s := forEach ns nodeRef s
  let e := ent s r
  let s := modSide r (fun x => { x with pfxNode := ns.getLast?, pfxDepth := ns.length, history := e.prompt }) s
  let s := setPages r (pages.map (fun p => (p, true))) (modEnt r (fun e => { e with prompt := e.prompt.drop toks, committed := toks }) s)
  bumpSat 0x00170008 (wr 0x0017000C (sat32 (rd s 0x0017000C + ns.length)) s)

/-- The 64-byte places that nodes take. -/
def nodePlaces (s : State) : List Nat := (s.pfx.filter (fun n => n.2.valid)).map (fun n => n.2.place)

/-- A place for one more node of a stall: the lowest of its node pages, or the first of a new one when no running
request needs that page. (DESIGN CHOICE, log 50) -/
def nodeRoom (stall : Nat) (s : State) : Option Nat × State :=
  let ps := look s.pfxPages stall []
  let used := nodePlaces s
  match (places ps).find? (fun b => !used.contains b) with
  | some b => (some b, s)
  | none =>
    if !spare s stall 1 then (none, s)
    else match allocPage stall s with
      | (some p, s) => (some (128 * p), { s with pfxPages := put s.pfxPages stall (ps ++ [p]) [] })
      | (none, s) => (none, s)

/-- Insert one page of a request as the next node of its path (R254). -/
def insertNode (r : Nat) (span : List Nat) (s : State) : State :=
  let e := ent s r
  let x := side s r
  let room := nodeRoom e.stall s
  let s := room.2
  let full (s : State) : State := logEv 0x1002 e.stall [] (setBit 0x00170000 18 s)
  match room.1, lowest (s.pfx.length + 1) (fun i => !(node s i).valid) with
    | some place, some i =>
      if noNode ≤ i then full s
      else
        let parent := x.pfxNode.getD noNode
        let page := (e.pages[x.pfxDepth]?).getD (0xFFFF, false)
        let sib := if parent = noNode then noNode else (node s parent).child
        let s := modNode i (fun _ => { valid := true, stall := e.stall, model := e.model, adapter := treeAdapter e, span := span
                                       parent := parent, sibling := sib, page := page.1, refs := 1, place := place }) s
        let s := if parent = noNode then s else modNode parent (fun n => { n with child := i }) s
        let s := setPages r (e.pages.set x.pfxDepth (page.1, true)) s
        modSide r (fun y => { y with pfxNode := some i, pfxDepth := y.pfxDepth + 1
                                     slots := y.slots.map (· - 1) }) s
    | _, _ => full s

/-- Insert every page that a SUBMIT's prefill has filled and that extends the walked path (R254). -/
def insertPages (r : Nat) : Nat → State → State
  | 0, s => s
  | k + 1, s =>
    let e := ent s r
    let x := side s r
    let p := (model s e.model).pageTokens
    let partialEnd := (x.pfxNode.map (fun i => (node s i).partial_)).getD false
    if bit (rd s (win e.stall 0x210)) 1 && x.open_ == .submit && treeOk s e.stall e.model && !partialEnd
        && decide ((x.pfxDepth + 1) * p ≤ min e.committed x.history.length)
        && decide (x.pfxDepth < e.pages.length || (model s e.model).layerCount = 0) then
      let n0 := x.pfxDepth
      let s := insertNode r ((x.history.drop (n0 * p)).take p) s
      if (side s r).pfxDepth = n0 then s else insertPages r k s
    else s

/-- Evict one leaf: its page returns to the quota on every chip (R255). -/
def evictNode (i : Nat) (s : State) : State :=
  let n := node s i
  let s := dlyDel 4 i s
  -- the chain of siblings closes over it
  let next := s.pfx.filter (fun (m : Nat × PfxNode) => m.2.valid && (m.2.child == i || m.2.sibling == i))
  let s := forEach next (fun m => modNode m.1 (fun x =>
    if x.child = i then { x with child := n.sibling } else { x with sibling := n.sibling })) s
  let s := { s with pfx := del s.pfx i, pond := putBytes s.pond (64 * n.place) (zeros 64) }
  let s := if n.page = 0xFFFF then s else freePage n.page s
  let s := forEach (remotes s n.stall) (fun m => modFree m (fun f => { f with pages := f.pages - 1 })) s
  let used := nodePlaces s
  let gone := (look s.pfxPages n.stall []).filter (fun p => !(places [p]).any used.contains)
  let s := forEach gone freePage { s with pfxPages := put s.pfxPages n.stall ((look s.pfxPages n.stall []).filter (fun p => !gone.contains p)) [] }
  bumpSat 0x00170010 s

/-- The leaf with REFS 0 that eviction takes next: earliest due first. `due` asks for those due only. -/
def nextLeaf (s : State) (stall : Option Nat) (dueOnly : Bool) : Option Nat :=
  let due (n : PfxNode) (i : Nat) : Option Nat :=
    n.evictable.or ((s.wks.dly.l1.find? (fun e => e.kind == 4 && e.arg == BitVec.ofNat 64 i)).map DlyEntry.due)
  let leaf (i : Nat) : Bool := !(s.pfx.any (fun m => m.2.valid && m.2.parent == i))
  let c := s.pfx.filterMap (fun n =>
    if n.2.valid && n.2.refs == 0 && leaf n.1 && (stall.isNone || stall == some n.2.stall) && (!dueOnly || n.2.evictable.isSome)
    then (due n.2 n.1).map (fun d => (d, n.1)) else none)
  (c.foldl (fun acc x => match acc with
    | none => some x
    | some b => if x.1 < b.1 then some x else some b) (none : Option (Nat × Nat))).map Prod.snd

/-- Evict the leaves whose hold is over, in due order. -/
def evictDue : Nat → State → State
  | 0, s => s
  | k + 1, s => match nextLeaf s none true with | some i => evictDue k (evictNode i s) | none => s

/-- Evict until a stall has `k` free pages, earliest due first (R255). -/
def evictFor (stall k : Nat) : Nat → State → State
  | 0, s => s
  | f + 1, s =>
    if k ≤ pagesFree s stall then s
    else match nextLeaf s (some stall) false with | some i => evictFor stall k f (evictNode i s) | none => s

/-- Make the pages private that positions from `lo` to before `hi` fall in (R253): copied, SHARED cleared, REFS less
one. -/
def copyOnWrite (r lo hi : Nat) (s : State) : State :=
  let e := ent s r
  let p := (model s e.model).pageTokens
  if p = 0 then s
  else forEach (e.pages.zipIdx.filter (fun x => x.1.2 && decide (lo < (x.2 + 1) * p) && decide (x.2 * p < hi))) (fun x s =>
    match allocPage e.stall s with
    | (some q, s) =>
      let s := { s with pond := copyRange s.pond (8192 * x.1.1) 8192 s.pond (8192 * q) }
      let s := match nodeOfPage s x.1.1 with | some i => nodeUnref i s | none => s
      setPages r ((ent s r).pages.set x.2 (q, false)) s
    | (none, s) => s) s

/-- Shared pages that positions from `lo` to before `hi` fall in. -/
def sharedIn (s : State) (r lo hi : Nat) : Nat :=
  let e := ent s r
  let p := (model s e.model).pageTokens
  if p = 0 then 0
  else (e.pages.zipIdx.filter (fun x => x.1.2 && decide (lo < (x.2 + 1) * p) && decide (x.2 * p < hi))).length

end Sys2Proof.Machine
end

