-- ==== Sys2Proof/Machine/Quiesce.lean ====
section
/-! DEFINITION. The farewell of a warm reset and of a stall reset (R553, R571), the stall reset itself (R550, R573 to
R575), what the lake directory gives back (R267), and the domain cycle of an EGR or CCR block reset (R571). -/
namespace Sys2Proof.Machine

/-! ### The farewell (R553) -/

/-- The FINAL of a command that a reset ends. -/
def lostFinal (cid req ingress : Nat) : Cqe :=
  { final := true, status := 0x44, cid := cid, req := req, outcome := 0, rung := 0, deferred := false, cstat := 0,
    displaced := 0, specAcc := 0, predict := 0, ingress := ingress % 2 ^ 48, admits := 0, first := 0, last := 0 }

/-- The open and pending commands of a request complete LOST_RESET; no record of it is written any more. A CANCEL not
yet in effect finds that the request completed first. -/
def loseCmds (r : Nat) (s : State) : State :=
  let e := ent s r
  let x := side s r
  let s := match x.cancelAt with | some (_, true) => post e.channel (plainAck s x.cancelCid 1 0) s | _ => s
  let s := when_ (x.open_ != .none_) (finishOpen r 0x44) s
  let s := dropTimers r (finishPend r 0x44 s)
  let s := modSide r (fun x => { x with
    cancelAt := none, inStep := none, heldRecs := [], owed := none, ending := none, pendEnding := none, batch := none, guesses := [] }) s
  if e.st = .paused then s else modEnt r (fun e => { e with st := .closing, ring := none }) s

/-- A command fetched and not yet accepted ends with its channel: LOST_RESET where it posts a FINAL; where it posts none,
NOT_FOUND for one that names a request. -/
def loseFetched (c : Nat) (e : Sqe) (s : State) : State :=
  let n := finalsOf e
  if n = 0 then post c (plainAck s e.cid (if namesReq e.op then 1 else 0) (namedReq e)) s
  else tillFinal c 0x44 <| post c (lostFinal e.cid (namedReq e) s.ft) (post c (plainAck s e.cid 0 (namedReq e)) (unreserve c (n - 1) s))

/-- A batch ends: its members' FINALs have gone before. -/
def loseBatch (b : Batch) (s : State) : State :=
  let s := when_ (!b.admitted) (post b.channel (plainAck s b.cid 0 0)) s
  { (tillFinal b.channel 0x44 (post b.channel (lostFinal b.cid 0 b.accept) s)) with batches := s.batches.filter (fun x => x.num != b.num) }

/-- The spring triggers of a set of stalls: one already handed over completes LOST_RESET, another is given up. -/
def loseTriggers (p : Nat → Bool) (s : State) : State :=
  let ts := s.spg.buf.filter (fun t => p (chan s t.channel).stall)
  let s := forEach ts (fun t s => if t.delivered then tillFinal t.channel 0x44 (post t.channel (lostFinal 0 0 t.sfd) s) else unreserve t.channel 1 s) s
  let gone (f : Parse) : Bool :=
    f.decided == some true && f.rule.any (fun r => p (chan s (look s.spg.rules r.1 {}).channel).stall)
  let ports := s.spg.ports.map (fun q => (q.1, { q.2 with parse := q.2.parse.filterMap (fun f =>
    if !gone f then some f else if f.verdict.isSome then none else some { f with decided := some false }) }))
  { s with spg := { s.spg with buf := s.spg.buf.filter (fun t => !ts.contains t), ports := ports } }

/-- A step runs in an aisle of one of these stalls. -/
def stepOfStalls (s : State) (p : Nat → Bool) (a : Nat) : Bool := (List.range 32).any (fun n => p n && aisleOf s n == some a)

/-- Every open and pending command of the channels of a set of stalls completes LOST_RESET, and their steps in flight
are discarded (R553). (DESIGN CHOICE, log 16) -/
def farewellOf (p : Nat → Bool) (s : State) : State :=
  let s := loseTriggers p s
  let rs := (s.rtb.filter (fun e => !e.2.shadow && e.2.st != .free && e.2.st != .fw && p e.2.stall)).map Prod.fst
  let bs := s.batches.filter (fun b => p b.stall)
  let s := { s with
    steps := s.steps.filter (fun t => !stepOfStalls s p t.aisle)
    admq := s.admq.filter (fun c => if c.isBatch then !(bs.any (fun b => b.num == c.req)) else !rs.contains c.req)
    cc := { s.cc with admq := s.cc.admq.filter (fun r => !rs.contains r) } }
  let s := forEach bs loseBatch (forEach rs loseCmds s)
  let cs := (s.chans.filter (fun c => (c.2.st == 1 || c.2.st == 2) && p c.2.stall)).map Prod.fst
  forEach cs (fun c s =>
    let x := chan s c
    let s := forEach x.acc (loseFetched c) (forEach x.fences (fun f s => post c { plainAck s f.cid 0 0 with ingress := f.accepted % 2 ^ 48 } s) s)
    modChan c (fun x => { x with acc := [], held := none, fences := [] }) s) s

/-- Every completion of those stalls' channels has been posted (R554). -/
def farewellDone (p : Nat → Bool) (s : State) : Bool :=
  s.chans.all (fun c => !p c.2.stall || (c.2.st != 1 && c.2.st != 2) || c.2.compq.isEmpty)

/-! ### What the lake directory gives back (R267, R573) -/

/-- The valid directory records of a set of stalls. -/
def pausedRecs (p : Nat → Bool) (s : State) : List Nat :=
  (s.nmc.dir.filter (fun d => decide (d.1 < 4096) && d.2.st == .paused && p d.2.stall)).map Prod.fst

/-- A record's entry is PAUSED and ORPHAN again, with its TTL and its place in the head chip's counts. (DEDUCED, log 18) -/
def restoreRec (newTtl : Bool) (r : Nat) (s : State) : State :=
  let d := look s.nmc.dir r {}
  let due := if newTtl then s.ft + us (rd s (win d.stall 0x208)) else d.ttlDue
  let e : Entry := { d with st := .paused, orphan := true, ring := none, pages := [], ttlDue := due }
  let ms := remotes s d.stall
  let slots := ms.map (fun m => pagesThere d.model m.1 d.committed)
  let x : Side := { lake := true, away := true, slots := slots, layout := some (look s.nmc.dirLayout r 0), idleSince := s.ft }
  let s := { s with rtb := put s.rtb r e {}, side := put s.side r x {} }
  if d.shadow then s
  else
    let s := if d.expired then s else dlyIns 3 (reqHandle s r) due s
    forEach (ms.zip slots) (fun m s => modFree m.1 (fun f => { f with entries := f.entries + 1, slots := f.slots + slotsFor m.2 }) s) s

/-- Restore the records of a set of stalls, and log how many they are. -/
def restoreRecs (p : Nat → Bool) (newTtl : Bool) (stall : Nat) (s : State) : State :=
  let rs := pausedRecs p s
  logEv 0x0804 stall [rs.length] (forEach rs (restoreRec newTtl) s)

/-- The request generations after a warm reset: as recorded for a restored index, one more than the copy for every
other (R267). -/
def restoreGens (kept : List Nat) (s : State) : State :=
  forEach (List.range 4096) (fun r s =>
    let g := look s.nmc.dirGen r 1
    let n := if kept.contains r then g else if g = 255 then 1 else g + 1
    { s with gens := put s.gens (genKey 2 r) n 1, nmc := { s.nmc with dirGen := put s.nmc.dirGen r n 1 } }) s

/-! ### The stall reset (R550, R571 to R575) -/

/-- A delay entry stands for something of a stall: a request, a prefix node or a work item of it. -/
def dlyOfStall (s : State) (n : Nat) (e : DlyEntry) : Bool :=
  match e.kind with
  | 1 | 2 | 3 => hStall e.arg.toNat == n
  | 4 => (node s e.arg.toNat).stall == n
  | 6 => (item s (bits e.arg.toNat 11 0)).stall == n
  | _ => false

/-- The work of a stall in the pool and the cores is discarded. -/
def dropStallItems (n : Nat) (s : State) : State :=
  let ks := (s.wks.pool.filter (fun p => p.2.st != .free && p.2.stall == n)).map Prod.fst
  modWks (fun w => { w with
    cores := w.cores.map (fun c => (c.1, if (c.2.item.map ks.contains).getD false then { c.2 with item := none, started := none, filling := none } else c.2))
    waiting := w.waiting.filter (fun x => !(x.2.2.1.any (fun (i : Item) => i.stall == n))) }) (forEach ks freeItem s)

/-- Free the channels and rings of a stall. -/
def freeQueues (n : Nat) (s : State) : State :=
  let cs := (s.chans.filter (fun c => c.2.stall == n && c.2.st != 0)).map Prod.fst
  let gs := (s.rings.filter (fun g => g.2.stall == n && g.2.st != 0)).map Prod.fst
  let s := forEach gs (fun g => bumpGen 3 g) (forEach cs (fun c => bumpGen 1 c) s)
  let cfg := stallCfg s n
  { s with
    chans := s.chans.filter (fun c => c.2.stall != n), rings := s.rings.filter (fun g => g.2.stall != n)
    tills := s.tills.filter (fun t => !(decide (cfg.chBase ≤ t.1 ∧ t.1 < cfg.chBase + cfg.chCount)))
    tillNow := s.tillNow.filter (fun t => !(decide (cfg.chBase ≤ t.1 ∧ t.1 < cfg.chBase + cfg.chCount)))
    spg := { s.spg with keys := s.spg.keys.filter (fun k => !cs.contains k.1) } }

/-- Free the table entries of a stall. A record that the lake directory holds keeps its generation and its slots. -/
def freeEntries (n : Nat) (s : State) : State :=
  let rs := (s.rtb.filter (fun e => e.2.stall == n && e.2.st != .free)).map Prod.fst
  let keep := pausedRecs (· == n) s
  let gone := rs.filter (fun r => !keep.contains r)
  let s := forEach (gone.filter (fun r => !isHolder r)) (fun r => bumpGen 2 r) s
  { s with
    rtb := s.rtb.filter (fun e => !rs.contains e.1), side := s.side.filter (fun e => !rs.contains e.1)
    listBlocks := s.listBlocks.filter (fun e => !rs.contains e.1)
    nmc := { s.nmc with dirSlots := s.nmc.dirSlots.filter (fun d => !gone.contains d.1), dirLayout := s.nmc.dirLayout.filter (fun d => !gone.contains d.1) }
    cc := { s.cc with recs := s.cc.recs.filter (fun x => !rs.contains x.1), admq := s.cc.admq.filter (fun r => !rs.contains r) }
    fixed := { s.fixed with bound := s.fixed.bound.filter (fun b => !rs.contains b.2.2) } }

/-- Pages, prefix nodes, masks and cached adapters of a stall are freed; the copies of PINNED models stay. (DEDUCED, log 17) -/
def freeStallPages (n : Nat) (s : State) : State :=
  let pins := ((s.pinPages.filter (fun p => p.1 / 256 == n)).map Prod.snd).flatten
  { s with
    pageOwner := s.pageOwner.filter (fun p => p.2 != n + 1 || pins.contains p.1)
    pfx := s.pfx.filter (fun p => p.2.stall != n), pfxPages := del s.pfxPages n, listPages := del s.listPages n
    masks := s.masks.filter (fun m => m.2.stall != n)
    adps := s.adps.filter (fun a => a.1 / 65536 != n), adpPages := s.adpPages.filter (fun a => a.1 / 65536 != n)
    adpFetch := s.adpFetch.filter (fun a => a.1 != n) }

/-- The STALL_RESET messages of a stall's aisle: to its members from the head, to the head from a member (R574,
R575). -/
def tellStallReset (n : Nat) (s : State) : State :=
  match aisleOf s n with
  | none => s
  | some a =>
    let body := [BitVec.ofNat 8 a, BitVec.ofNat 8 s.fab.chip, BitVec.ofNat 8 n] ++ zeros 5 ++ leBytes 8 s.ft
    let to_ := if isHead s a then ((members s a).map Prod.fst).dedup else ((chain s a).map Prod.fst).take 1
    if s.fab.routeActive then forEach (to_.filter (· != s.fab.chip)) (fun c => ctlUp 0x40 c body) s else s

/-- The reset of a stall that has quiesced, or is forced (R550, R573 to R575). -/
def stallApply (n : Nat) (s : State) : State :=
  let s := modRst (fun r => { r with block := none }) s
  let keep (e : DlyEntry) : Bool := !dlyOfStall s n e
  let s := modDly (fun d => { d with
    l0 := d.l0.filter keep, l1 := d.l1.filter keep, l2 := d.l2.filter keep, l3 := d.l3.filter keep, fw := d.fw.filter keep, fired := d.fired.filter keep }) s
  let s := freeStallPages n (freeEntries n (freeQueues n (dropStallItems n s)))
  let s := { s with
    steps := s.steps.filter (fun t => !stepOfStalls s (· == n) t.aisle), batches := s.batches.filter (fun b => b.stall != n)
    free := s.free.filter (fun f => !(remotes s n).any (fun m => freeKey m == f.1))
    aisles := match aisleOf s n with | some a => upd s.aisles a {} (fun x => { x with orders := [] }) | none => s.aisles }
  let s := clearRegs .stall (fun o => decide (win n 0 ≤ o ∧ o < win n 0x10000)) s
  tellStallReset n (restoreRecs (· == n) false n s)

/-- RST_BLOCK_STAT.STATUS. -/
def blockStat (n : Nat) (s : State) : State := wrf 0x00010018 1 0 n s

/-- Apply the stall reset in progress once its farewell is over. -/
def stallTry (s : State) : State :=
  match s.rst.block with
  | some (n, _) => if n < 32 ∧ farewellDone (· == n) s then stallApply n s else s
  | none => s

/-- Begin the reset of a stall: its farewell, then, once every completion is posted, the reset. -/
def stallBegin (n : Nat) (s : State) : State :=
  let s := modRst (fun r => { r with block := some (n, s.ft + qtoFt s) }) s
  stallTry (farewellOf (· == n) s)

/-! ### The domain cycle of EGR and CCR (R571) -/

/-- A block reset's domain goes OFF, and ON again as soon as it is OFF. -/
def cycleDom (d : Nat) (s : State) : State :=
  let s := modRst (fun r => { r with block := none, blockDom := some d }) s
  let x := dom s d
  let off : Dom := { st := .off, src := x.st, begun := some s.ft, done := some (s.ft + transFt x.st .off), wakeAfter := true }
  if x.st = .off ∧ x.done.isNone then startTrans d .on (setDom d { st := .off } s) else setDom d off s

/-- A thread of the control core stops for a CCR reset when its instruction, or its bulk instruction's unit, is over;
with the last one the domain is cycled. -/
def ccrStop (t : Nat) (s : State) : State :=
  match s.rst.block with
  | some (33, _) =>
    let s := modThread t (fun x => { x with st := if x.st = 3 then 3 else 2 }) s
    if (List.range 4).any (fun u => (thread s u).st == 0 && (thread s u).bulk.isSome) then s else cycleDom dCCR s
  | _ => s

end Sys2Proof.Machine
end

