-- ==== Sys2Proof/Machine/Channels.lean ====
section
/-! DEFINITION. Channels, doorbells, fetching, completions and tills (R193 to R225). -/
namespace Sys2Proof.Machine

/-! ### CH_CMD (R193 to R197) -/

/-- CH_RESULT.CODE. -/
def chCode (n code : Nat) (s : State) : State := wrf (rChResult n) 2 0 code s
/-- A channel command is in progress. -/
def chBusy (s : State) (n : Nat) : Bool := bit (rd s (rChResult n)) 8

/-- CH_CFG1 and CH_BUDGET as a channel takes them. -/
def chLimits (cfg1 budget : Nat) (x : Chan) : Chan :=
  let w := bits cfg1 7 4
  let m := bits cfg1 19 8
  { x with prioMax := bits cfg1 2 0, weight := if w = 0 then 1 else w, maxLive := if m = 0 then 4096 else m
           tokens := bits budget 19 0, period := bits budget 31 20 }

/-- Open a channel at the lowest free stall-local index. (DESIGN CHOICE, log 82) -/
def chCreate (n : Nat) (src : Src) (s : State) : State :=
  if chBusy s n then chCode n 4 s
  else
    let cfg := rd s (win n 0x040)
    let sq := rd64 s (win n 0x030)
    let cq := rd64 s (win n 0x038)
    let kOk (k : Nat) : Bool := 4 ≤ k && k ≤ 12
    let c := stallCfg s n
    if !kOk (bits cfg 3 0) || !kOk (bits cfg 7 4) || sq % 4096 != 0 || cq % 4096 != 0 then chCode n 2 s
    else match lowest c.chCount (fun i => (chan s (c.chBase + i)).st == 0) with
      | none => chCode n 1 s
      | some i =>
        let k := c.chBase + i
        let x : Chan :=
          { st := 1, stall := n, src := src, sqBase := BitVec.ofNat 64 sq, cqBase := BitVec.ofNat 64 cq
            sqK := bits cfg 3 0, cqK := bits cfg 7 4, vec := bits cfg 13 8, coalN := bits cfg 17 14, coalT := bits cfg 25 18
            phase := true, fenceFrom := s.ft }
        let x := chLimits (rd s (win n 0x044)) (rd s (win n 0x048)) x
        let s := modChan k (fun _ => { x with left := x.tokens }) s
        let s := { s with tills := put s.tills k { snapFt := s.ft } {}, tillNow := del s.tillNow k }
        wr64 (win n 0x028) (chHandle s k) (chCode n 0 s)
def execChCreate (stall : Nat) (src : Src) (s : State) := run (.chCreate stall src) s (chCreate stall src s)

/-- The open channel a stall-local index names. -/
def localChan (s : State) (n idx : Nat) : Option Nat :=
  let c := stallCfg s n
  let k := c.chBase + idx
  if idx < c.chCount ∧ (chan s k).st ≠ 0 ∧ (chan s k).stall = n then some k else none

/-- Stop fetching, close live requests, orphan paused ones, and free the channel after its last completion. -/
def chDestroy (n idx : Nat) (s : State) : State :=
  if chBusy s n then chCode n 4 s
  else match localChan s n idx with
    | none => chCode n 3 s
    | some c =>
      let s := setBit (rChResult n) 8 (modChan c (fun x => { x with st := 2 }) s)
      -- key bindings of the channel end (R490)
      let s := { s with spg := { s.spg with keys := s.spg.keys.filter (fun k => k.1 != c) } }
      let s := forEach (chanReqs s c) (fun r s => if (ent s r).st = .pausing ∨ (ent s r).st = .closing then s else takeClose r false 0 s) s
      let paused := (s.rtb.filter (fun e => e.2.channel == c && e.2.st == .paused && !e.2.shadow)).map Prod.fst
      freeChan c (forEach paused orphan s)
def execChDestroy (stall idx : Nat) (s : State) := run (.chDestroy stall idx) s (chDestroy stall idx s)

/-- New CH_CFG1 and CH_BUDGET values wait for the channel's next admission decision. -/
def chModify (n idx : Nat) (s : State) : State :=
  if chBusy s n then chCode n 4 s
  else match localChan s n idx with
    | none => chCode n 3 s
    | some c => chCode n 0 (modChan c (fun x => { x with modify := some (w32 (rd s (win n 0x044)), w32 (rd s (win n 0x048))) }) s)
def execChModify (stall idx : Nat) (s : State) := run (.chModify stall idx) s (chModify stall idx s)

/-! ### Doorbells (R213, R217) -/

/-- The domains a doorbell of a stall opens (R120 source 2). -/
def bellWake (n : Nat) (s : State) : State := wakeAll 2 (dSEQ :: clustersOf (stallCfg s n) ++ halvesOf s n) s

/-- A doorbell value at or beyond the depth (R213). -/
def badBell (n : Nat) (s : State) : State := logEv 0x0730 n [] (setBit (win n 0x008) 0 s)

/-- SQ_DB. -/
def sqDb (n : Nat) (v : Word) (s : State) : State :=
  match localChan s n (bits v.toNat 9 0) with
  | none => s
  | some c =>
    let x := chan s c
    let t := bits v.toNat 21 10
    if 2 ^ x.sqK ≤ t then badBell n s
    else if x.st ≠ 1 ∨ t = x.sqHead then s
    else bellWake n (modChan c (fun x => { x with sqTail := t }) s)
def execSqDb (stall : Nat) (value : Word) (s : State) := run (.sqDb stall value) s (sqDb stall value s)

/-- CQ_DB: entries up to the new head are returned. (DEDUCED, log 28) -/
def cqDb (n : Nat) (v : Word) (s : State) : State :=
  match localChan s n (bits v.toNat 9 0) with
  | none => s
  | some c =>
    let x := chan s c
    let h := bits v.toNat 21 10
    if 2 ^ x.cqK ≤ h then badBell n s
    else
      let k := (h + 2 ^ x.cqK - x.cqHead) % 2 ^ x.cqK
      let s := modChan c (fun x => { x with cqHead := h, posted := x.posted - k }) s
      takeHeldEntry c (bellWake n s)
def execCqDb (stall : Nat) (value : Word) (s : State) := run (.cqDb stall value) s (cqDb stall value s)

/-! ### Fetching and posting -/

/-- An SQ fetch or a CQ write fails on PCI Express (R220). A channel under DESTROY is freed at once. -/
def queueFail (c : Nat) (s : State) : State :=
  let st := (chan s c).st
  if st = 1 then chanError c 0x0731 s
  else if st = 2 then freeChan c (modChan c (fun x => { x with st := 2 }) (chanError c 0x0731 s))
  else s
def execQueueDmaFail (ch : Nat) (s : State) := run (.queueDmaFail ch) s (queueFail ch s)

/-- The stall is asked to quiesce for its block reset (R571). -/
def quiescing (s : State) (n : Nat) : Bool := (s.rst.block.map (fun b => b.1 == n)).getD false

/-- The next SQ entry may be fetched (R195, R217, R289, R553). -/
def mayFetch (s : State) (c : Nat) : Bool :=
  let x := chan s c
  x.st == 1 && x.sqHead != x.sqTail && x.held.isNone && decide (2 ≤ cqFree x) && isOn s dSEQ && isOn s dHST && !s.spg.l1
    && !leaving s && !quiescing s x.stall
    && decide (rdf s 0x00140004 12 8 ≤ 32 - s.admq.length)

/-- The state of an open channel is corrupt (R528): an index lies outside its queue, or more entries are posted than
the queue holds. (DESIGN CHOICE, log 80) -/
def chanCorrupt (s : State) (c : Nat) : Bool :=
  let x := chan s c
  x.st == 1 && (decide (2 ^ x.sqK ≤ x.sqHead) || decide (2 ^ x.sqK ≤ x.sqTail) || decide (2 ^ x.cqK ≤ x.cqHead)
    || decide (2 ^ x.cqK ≤ x.cqTail) || decide (2 ^ x.cqK < x.posted))

/-- The next SQ entry is fetched (R197, R210, R216, R217, R223): read at its host address by the channel's function, its
slots reserved, or it is held for want of them. -/
def fetchEntry (c : Nat) (b : Option Bytes) (s : State) : State :=
  if !mayFetch s c then s
  else match b with
    | none => queueFail c s
    | some b =>
      let e := sqeOf b
      let need := 1 + finalsOf e
      let x := chan s c
      let s := modTill c (fun t => { t with cmds := sat32 (t.cmds + 1) }) s
      let s := modChan c (fun x => { x with sqHead := (x.sqHead + 1) % 2 ^ x.sqK }) s
      let s := modChan c (fun x => { x with held := some (e, need) }) s
      takeHeldEntry c (emit (.hostRead x.src (x.sqBase + BitVec.ofNat 64 (64 * x.sqHead)) 64) s)

/-- COMMAND_FETCH: a channel found corrupt enters ERROR (R528); otherwise its next entry is fetched. The bytes are
`none` when the read brought none. -/
def commandFetch (c : Nat) (b : Option Bytes) (s : State) : State :=
  if chanCorrupt s c then chanError c 0x0808 s else fetchEntry c b s
def execCommandFetch (ch : Nat) (entry : Option Bytes) (s : State) := run (.commandFetch ch entry) s (commandFetch ch entry s)

/-- Signal a channel's vector (R220). -/
def chSignal (c : Nat) (s : State) : State :=
  let x := chan s c
  stallMsix x.src x.stall x.vec (modChan c (fun x => { x with unsig := 0, unsigAt := none }) s)

/-- COMPLETION_POST: one entry is written with its PHASE (R206, R214, R216), and signalled when COAL_N says so. -/
def completionPost (c : Nat) (s : State) : State :=
  let x := chan s c
  match x.compq with
  | [] => s
  | q :: rest =>
    if x.st = 0 ∨ x.st = 3 ∨ !isOn s dHST ∨ s.spg.l1 then s
    else
      let s := emit (.hostWrite x.src (x.cqBase + BitVec.ofNat 64 (32 * x.cqTail)) (cqeBytes x.phase q)) s
      let wrap := x.cqTail + 1 = 2 ^ x.cqK
      let s := modChan c (fun x =>
        { x with compq := rest, cqTail := if wrap then 0 else x.cqTail + 1, phase := if wrap then !x.phase else x.phase
                 posted := x.posted + 1, reserved := x.reserved - 1, unsig := x.unsig + 1, unsigAt := x.unsigAt.or (some s.ft) }) s
      let s := if x.coalN ≤ x.unsig + 1 then chSignal c s else s
      stallTry (freeChan c s)
def execCompletionPost (ch : Nat) (s : State) := run (.completionPost ch) s (completionPost ch s)

/-- COAL_T µs after the oldest unsignalled entry (R220). -/
def coalesceTimer (c : Nat) (s : State) : State :=
  let x := chan s c
  match x.unsigAt with
  | some t => if t + us x.coalT ≤ s.ft then chSignal c s else s
  | none => s
def execCoalesceTimer (ch : Nat) (s : State) := run (.coalesceTimer ch) s (coalesceTimer ch s)

/-- A CH_BUDGET period begins at an FT multiple of PERIOD (R292). -/
def budgetPeriod (c : Nat) (s : State) : State :=
  let x := chan s c
  if x.st ≠ 0 ∧ x.period ≠ 0 ∧ s.ft % us x.period = 0 then modChan c (fun x => { x with left := x.tokens }) s else s
def execBudgetPeriodStart (ch : Nat) (s : State) := run (.budgetPeriodStart ch) s (budgetPeriod ch s)

/-! ### Till snapshot (R225) -/

/-- TILL_SNAP: with GO the till is copied to the host and cleared at this FT; what this FT has counted already stays for
the new interval. (DESIGN CHOICE, log 82) -/
def tillSnap (n : Nat) (v : Word) (s : State) : State :=
  let i := bits v.toNat 9 0
  let s := wrf (win n 0x090) 9 0 i s
  if !bit v.toNat 31 ∨ (stallCfg s n).chCount ≤ i then s
  else
    let c := (stallCfg s n).chBase + i
    let src := (chan s c).src
    let a := rd64 s (win n 0x094) / 128 * 128
    let w := look s.tillNow c {}
    let old := if w.at_ = s.ft then w.before else till s c
    let new : Till := if w.at_ = s.ft then { w.since with snapFt := s.ft } else { snapFt := s.ft }
    let s := { s with tills := put s.tills c new {}, tillNow := put s.tillNow c { at_ := s.ft, before := { snapFt := s.ft }, since := { new with snapFt := 0 } } {} }
    emit (.hostWrite src (BitVec.ofNat 64 a) (tillBytes old)) s
def execTillSnap (stall : Nat) (value : Word) (s : State) := run (.tillSnap stall value) s (tillSnap stall value s)

end Sys2Proof.Machine
end

