-- ==== Sys2Proof/Machine/Predict.lean ====
section
/-! DEFINITION. Cost tables and predictions (R23, R25, R64, R187, R277 to R287, R300, R301, R318, R320, R520). -/
namespace Sys2Proof.Machine

/-! ### Figures of a cost table -/

/-- The bucket of a value: the lowest whose edge is at least it, else the last (R279). -/
def edgeIdx (edges : List Nat) (v : Nat) : Nat :=
  min (edges.findIdx (fun e => decide (v ≤ e))) (edges.length - 1)

/-- Live and full width of the bundle toward a chip (R64): 1 and 1 where no route gives one. -/
def widths (s : State) (dst : Nat) : Nat × Nat :=
  let e := route s dst
  let live := (routePorts s dst).length
  let inPr := (routePorts s dst).any (fun p => bit (bits e 7 0) p)
  let full := if inPr then popc 8 (bits e 7 0) else popc 8 (bits e 15 8)
  if live = 0 then (1, 1) else (live, full)

/-- Cores mapped and owned by a stall here, a cluster under repair left out (R520, R523). -/
def coresMapped (s : State) (n : Nat) : Nat × Nat :=
  (((List.range 64).filter (fun a => owns s n a && usable s a && !repairing s (a / 16))).length, (coreCounts s n).2)

/-- The factor of R282 and R520 for compute stages at a chain position, as numerator and denominator. (DESIGN CHOICE, log 81) -/
def coreScale (s : State) (aisle pos : Nat) : Nat × Nat :=
  let duty := max 1 (coresIn s)
  match (chain s aisle)[pos]? with
  | some (c, n) =>
    let k := if c = s.fab.chip then coresMapped s n else Config.farCores s.freshN c n
    if k.1 ≠ 0 then (16 * max k.1 k.2, duty * k.1) else (16, duty)
  | none => (16, duty)

/-- Live and full width, and hop latency, of the bundle of a chip toward another (R64). -/
def bundleFig (s : State) (src dst : Nat) : Nat × Nat × Nat :=
  if src = s.fab.chip then
    let w := widths s dst
    (w.1, w.2, (link s ((routePorts s dst).headD 0)).hoplat)
  else
    let b := Config.farBundle s.freshN src dst
    (max 1 b.1, max (max 1 b.1) b.2.1, b.2.2)

/-- One figure of a stage, scaled (R278, R282): `lat` asks for LAT, else OCC. -/
def figure (s : State) (aisle m rows ctx : Nat) (lat : Bool) (st : Stage) : Nat :=
  let k := cost s m
  let v := (if lat then st.lat else st.occ).getD (8 * edgeIdx k.rowEdges rows + edgeIdx k.ctxEdges ctx) 0
  if st.kind = 1 ∨ st.kind = 3 ∨ st.kind = 8 then
    let f := coreScale s aisle st.pos
    cdiv (v * f.1) f.2
  else if st.kind = 2 then
    let at_ (i : Nat) : Nat := (((chain s aisle)[i]?).map Prod.fst).getD 0
    let w := bundleFig s (at_ st.pos) (at_ st.arg)
    if lat then (if v ≤ w.2.2 then v else w.2.2 + cdiv ((v - w.2.2) * w.2.1) w.1) else cdiv (v * w.2.1) w.1
  else v

/-- The last chain position of an aisle. -/
def lastPos (s : State) (aisle : Nat) : Nat := (chain s aisle).length - 1

/-- The path of a row (R280). -/
def path (s : State) (aisle m rung d rows ctx : Nat) (egress : Bool) : Nat :=
  let k := cost s m
  let x := k.exitPos
  let on (st : Stage) : Bool :=
    if rung = 1 then
      (st.kind == 1 && decide (st.pos ≤ x)) || (st.kind == 2 && ((st.arg == st.pos + 1 && decide (st.arg ≤ x)) || (st.pos == x && st.arg == 0)))
        || ((st.kind == 8 || st.kind == 9) && st.arg == d) || (st.kind == 5 && egress)
    else
      st.kind == 1 || (st.kind == 2 && (st.arg == st.pos + 1 || (st.pos == lastPos s aisle && st.arg == 0)))
        || ((st.kind == 3 || st.kind == 4) && st.arg == d) || (st.kind == 5 && egress)
  ((k.stages.filter on).map (figure s aisle m rows ctx true)).sum

/-- The issue interval of a step (R281). -/
def issueIvl (s : State) (aisle m rows ctx : Nat) : Nat :=
  ((cost s m).stages.map (figure s aisle m rows ctx false)).foldl max 0

/-! ### Candidates and their order -/

/-- The rung-2 model of a request's model. -/
def rung2Of (s : State) (m : Nat) : Option Nat := (cost s m).rung2
/-- The model a row of a request runs on. -/
def stepModel (s : State) (r : Nat) : Nat :=
  if (ent s r).rung = 2 ∨ (side s r).r2 = 2 then (rung2Of s (ent s r).model).getD (ent s r).model else (ent s r).model
/-- Tokens that a row commits beside those of a promoted APPEND: the prompt's last ones, or the guesses, and the one that
the step samples. -/
def ownTokens (s : State) (r : Nat) : Nat :=
  let e := ent s r
  1 + (if e.st = .prefill then e.prompt.length else (side s r).guesses.length)

/-- A pending APPEND may join the step that ends the generation (R239). -/
def mayJoin (s : State) (r : Nat) : Option Pend :=
  let e := ent s r
  let x := side s r
  match x.pend with
  | some p =>
    if (e.st = .decode ∨ (e.st = .prefill ∧ e.maxNew = 1)) ∧ !p.isClose ∧ p.posts ∧ !p.tokens.isEmpty ∧ x.cancelAt.isNone
        ∧ x.open_ ≠ .none_ ∧ e.rung < 2 ∧ e.maxNew ≤ e.genLen + 1 ∧ 1 < e.budget ∧ e.committed + e.prompt.length + 1 < e.maxLen
        ∧ ownTokens s r < 32 then some p
    else none
  | none => none

/-- A request in admission, or put off by it, with tokens to prefill. -/
def promptWaits (s : State) (r : Nat) : Bool :=
  ((ent s r).st == .admitting || (ent s r).st == .deferred) && !((ent s r).prompt.isEmpty && (side s r).kept.isEmpty)
/-- A row carries prompt tokens (R301, R304): one served on rung 2 while RESUMING does, and one that takes an APPEND. -/
def phaseOf (s : State) (r : Nat) : Nat :=
  if (ent s r).st = .prefill ∨ (side s r).r2 ≠ 0 ∨ promptWaits s r ∨ (mayJoin s r).isSome then 0 else 1
/-- Priority, deadline and acceptance FT of the command that a row serves. -/
def rowCmd (s : State) (r : Nat) : Nat × Option Nat × Nat :=
  let e := ent s r
  match (if (side s r).r2 = 0 then none else (side s r).pend) with
  | some p => (p.prio, p.deadline, p.ingress)
  | none => (e.prio, e.deadline, (side s r).acceptAt)

/-- The adapter of a request is in the cache (R376). -/
def adapterReady (s : State) (r : Nat) : Bool :=
  let e := ent s r
  !e.adapterEn || (look s.adps (e.stall * 65536 + e.adapter) 0 != 0 && !s.adpFetch.any (fun f => f.1 == e.stall && f.2.1 == e.adapter))

/-- A candidate of an aisle (R27, R257, R266, R300, R322, R376). (DEDUCED, log 34) -/
def candidate (s : State) (aisle r : Nat) : Bool :=
  let e := ent s r
  let x := side s r
  !e.shadow && aisleOf s e.stall == some aisle && isHead s aisle && !isHolder r
    && (((e.st == .prefill || e.st == .decode) && x.ending.isNone) || x.r2 == 2) && x.inStep.isNone
    && (!isFw r || (look s.cc.recs r {}).proxy.isSome)
    && (x.batch.isNone || s.batches.any (fun b => some b.num == x.batch && b.running))
    && adapterReady s r
/-- The candidates of an aisle. -/
def candidates (s : State) (aisle : Nat) : List Nat := (s.rtb.map Prod.fst).filter (candidate s aisle)

/-- The composition key (R301). -/
def rowKey (s : State) (r : Nat) : List Nat :=
  let k := rowCmd s r
  let tail := [k.2.1.getD (2 ^ 64), k.2.2, r]
  if bit (rd s 0x00150000) 0 then phaseOf s r :: k.1 :: tail else k.1 :: phaseOf s r :: tail
/-- Key order. -/
def keyLt (s : State) (a b : Nat) : Bool := decide (rowKey s a < rowKey s b)
/-- Insert a row in key order. -/
def insKey (s : State) (r : Nat) : List Nat → List Nat
  | [] => [r]
  | x :: t => if keyLt s r x then r :: x :: t else x :: insKey s r t
/-- Candidates sorted by key. -/
def byKey (s : State) (l : List Nat) : List Nat := l.foldl (fun acc r => insKey s r acc) []

/-- STP_POLICY.ROWMAX: values outside 1 to 64 select 32. -/
def rowMax (s : State) : Nat := let n := rdf s 0x00150000 14 8; if 1 ≤ n ∧ n ≤ 64 then n else 32
/-- Composer state of an aisle. -/
def aisle (s : State) (a : Nat) : Aisle := look s.aisles a {}
/-- Change an aisle's composer state. -/
def modAisle (a : Nat) (f : Aisle → Aisle) (s : State) : State := { s with aisles := upd s.aisles a {} f }

/-- Ascending numbers without repeats. -/
def ascending (l : List Nat) : List Nat := (l.dedup).foldl (fun acc n => (acc.filter (· < n)) ++ [n] ++ (acc.filter (n < ·))) []

/-- The model whose turn it is among those with ready rows, and the turns it has left after it (R187). -/
def pickTurn (s : State) (ready : List Nat) (t left : Nat) : Option (Nat × Nat) :=
  if 0 < left ∧ ready.contains t then some (t, left - 1)
  else match (ready.filter (t < ·)).head?.or ready.head? with
    | some m => some (m, max 1 (model s m).slice - 1)
    | none => none

/-- Steps of other models before the `k+1`th of `m` (R285). -/
def othersFirst (s : State) (ready : List Nat) (m : Nat) : Nat → Nat → Nat → Nat → Nat
  | 0, _, _, _ => 0
  | f + 1, k, t, left =>
    match pickTurn s ready t left with
    | none => 0
    | some (x, l) => if x = m then (if k = 0 then 0 else othersFirst s ready m f (k - 1) x l) else 1 + othersFirst s ready m f k x l

/-- What a prediction is made for. -/
structure Job where
  r : Nat
  m : Nat
  rung : Nat
  /-- prompt tokens still to process -/
  prompt : Nat
  maxNew : Nat
  depth : Nat
  egress : Bool
  /-- positions committed before it -/
  base : Nat

/-- Other candidates of the job's model. -/
def rivals (s : State) (a : Nat) (j : Job) : List Nat := (candidates s a).filter (fun r => r != j.r && stepModel s r == j.m)

/-- The context assumed for the job's step: the positions that its own row writes, and for every other row the larger of
ADM_CTX and that row's context. (DESIGN CHOICE, log 81) -/
def jobCtx (s : State) (a : Nat) (j : Job) : Nat :=
  ((rivals s a j).map (fun r => max (rd s 0x00140008 % 65536) (ent s r).committed)).foldl max (j.base + min 32 (max 1 j.prompt) + j.depth)

/-- FT of the first issue slot whose composition begins at `t` or later (R25, R285). -/
def firstSlot (s : State) (a t : Nat) : Nat :=
  let x := aisle s a
  max (t + 24) ((x.lastIssue.map (· + x.ivl)).getD 0)

/-- The predicted first issue of a job whose outcome falls at `t` (R285). -/
def nextStart (s : State) (a : Nat) (j : Job) (t : Nat) : Nat :=
  let mine := rivals s a j
  let ahead := (mine.filter (fun r => keyLt s r j.r)).length
  let k := ahead / rowMax s
  let ready := ascending (j.m :: (candidates s a).map (stepModel s))
  let x := aisle s a
  let oth := othersFirst s ready j.m ((k + 1) * 16 * ready.length + 1) k x.turn x.turnsLeft
  let run := rdf s rDuty 2 0
  let empty := if run = 0 then 0 else (x.dutyRun + k + oth) / run
  let rows := min (rowMax s) (mine.length + 1 - k * rowMax s)
  firstSlot s a t + (k + oth + empty) * issueIvl s a j.m rows (jobCtx s a j)

/-- Rows assumed in the job's step. -/
def jobRows (s : State) (a : Nat) (j : Job) : Nat :=
  let mine := rivals s a j
  let k := (mine.filter (fun r => keyLt s r j.r)).length / rowMax s
  max 1 (min (rowMax s) (mine.length + 1 - k * rowMax s))

/-- Steps of a generation (R286). -/
def stepsOf (s : State) (j : Job) : Nat :=
  let a := min (cost s j.m).assumeAcc j.depth
  max 1 (cdiv j.prompt 32 + (if j.rung = 2 then 0 else cdiv (j.maxNew - 1) (1 + a)))

/-! ### What a prediction adds (R287) -/

/-- FT until a domain is usable. -/
def wakeLeft (s : State) (d : Nat) : Nat :=
  let x := dom s d
  if isOn s d then 0
  else match x.done, x.reload with
    | some t, _ => (t - s.ft) + (if x.st = .on then 0 else transFt x.st .on)
      + (if (if x.st = .on then x.src else x.st) = .off then reloadFt d else 0)
    | none, some t => t - s.ft
    | none, none => transFt x.st .on + (if x.st = .off then reloadFt d else 0)

/-- Domains of this chip that a stall's request needs. -/
def needDoms (s : State) (n : Nat) (egress : Bool) : List Nat :=
  dSEQ :: clustersOf (stallCfg s n) ++ halvesOf s n ++ (if (remotes s n).isEmpty then [] else [dLNK]) ++ (if egress then [dEGR] else [])

/-- A model is resident here (R366, R370). -/
def residentHere (s : State) (m n : Nat) : Bool :=
  let d := model s m
  d.pinned || d.windows.all (fun w => (List.range 64).any (fun a => owns s n a && holds s a w.1))

/-- The domains that a member of an aisle opens for it: clusters and pond halves its stall uses, SEQ and LNK (R22). -/
def memberMask (c n : Nat) : Nat := 192 + Config.memberUses c n % 64
/-- FT from the arrival of the wake notice until every domain of a member is usable (R23, R287). -/
def farWake (s : State) (c n : Nat) : Nat :=
  let lat (d : Nat) : Nat :=
    match Config.farState s.freshN c d % 4 with
    | 0 => 0
    | 1 => transFt .cg .on
    | 2 => transFt .ret .on
    | _ => transFt .off .on + reloadFt d
  ((wakeMask (memberMask c n)).map lat).foldl max 0

/-- The additions of R287 to a job of stall `n`: wakes here and on the members, swaps, the adapter, copies, ADM_MARGIN.
(DESIGN CHOICE, log 81) -/
def extras (s : State) (a n : Nat) (j : Job) (copies : Nat) : Nat :=
  let e := ent s j.r
  let wake := ((needDoms s n j.egress).map (wakeLeft s)).foldl max 0
  let far := ((remotes s n).map (fun m => farWake s m.1 m.2)).foldl max 0
  let ctx := jobCtx s a j
  let lat (st : Stage) := figure s a j.m 1 ctx true st
  let gone (st : Stage) : Bool := st.kind == 6 && (match (chain s a)[st.pos]? with
    | some (c, k) => if c = s.fab.chip then !residentHere s j.m k else !(model s j.m).pinned
    | none => false)
  let swap := (((cost s j.m).stages.filter gone).map lat).sum
  let rank := (((model s e.model).adapters.find? (fun x => x.id == e.adapter)).map AdpCfg.rank).getD 0
  let adp := if adapterReady s j.r then 0 else (((cost s j.m).stages.filter (fun st => st.kind == 7 && st.arg == rank)).map lat).foldl max 0
  wake + far + swap + adp + 80 * copies + rd s 0x00140000 % 65536

/-! ### Fixed-cycle slots (R318, R320) -/

/-- The slots of the plan in use. -/
def planSlots (s : State) : List CycSlot :=
  match s.conf.cycle with
  | none => []
  | some c => if s.fixed.plan = 0 then c.slots else ((c.spares[s.fixed.plan - 1]?).map Prod.snd).getD []
/-- The period in FT. -/
def periodFt (s : State) : Nat := match s.conf.cycle with | none => 1 | some c => max 1 (c.period * tickLen s)
/-- The phase in FT. -/
def phaseFt (s : State) : Nat := match s.conf.cycle with | none => 0 | some c => c.phase
/-- Offset of slot `i` in the cycle, in FT. -/
def slotOfs (s : State) (i : Nat) : Nat := (((planSlots s).take i).map CycSlot.len).sum * tickLen s
/-- The first start at or after `t` of a slot at offset `o`. -/
def occurrence (s : State) (o t : Nat) : Nat :=
  let b := phaseFt s + o
  if t ≤ b then b else b + cdiv (t - b) (periodFt s) * periodFt s
/-- The first start at or after `t` of any slot of a group. -/
def groupStart (s : State) (g t : Nat) : Nat :=
  (((planSlots s).zipIdx.filter (fun x => x.1.group == g && !x.1.idle)).map (fun x => occurrence s (slotOfs s x.2) t)).foldl
    (fun acc x => match acc with | none => some x | some a => some (min a x)) (none : Option Nat) |>.getD t

/-- Finish of the steps of a bound request, from its first slot. -/
def fixedSteps (s : State) (g p : Nat) : Nat → Nat → Nat
  | 0, st => st + p
  | n + 1, st => fixedSteps s g p n (groupStart s g (st + p + 24))

/-- The predicted finish of a job whose first step issues at `start` (R280, R283, R286, R287): each later step takes the
first slot from its predecessor's tokens plus 24 FT, an issue interval after it at the least. (DESIGN CHOICE, log 81) -/
def finishFrom (s : State) (a n : Nat) (j : Job) (copies start : Nat) : Nat :=
  let ctx := jobCtx s a j
  let p (eg : Bool) := path s a j.m (if j.rung = 2 then 0 else j.rung) j.depth (jobRows s a j) ctx eg
  let x := extras s a n j copies
  if j.egress then start + p true + x
  else match (side s j.r).cycRow with
    | some (g, _) => fixedSteps s g (p false) (stepsOf s j - 1) start + x
    | none => start + (stepsOf s j - 1) * max (p false + 24) (issueIvl s a j.m (jobRows s a j) ctx) + p false + x

end Sys2Proof.Machine
end

