-- ==== Sys2Proof/Machine/Admission.lean ====
section
/-! DEFINITION. The admission check (R288 to R297, R319, R320, R322, R323), its outcomes and what they do, adapter
fetches (R374 to R376), firmware-tracked admission (R257, R401, R402), DEFER_START (R296). -/
namespace Sys2Proof.Machine

/-! ### Adapters (R373 to R376) -/

/-- A model's adapter. -/
def adapterOf (s : State) (m a : Nat) : Option AdpCfg := (model s m).adapters.find? (fun x => x.id == a)
/-- A request of the stall holds an adapter (R375). -/
def adapterHeld (s : State) (n a : Nat) : Bool :=
  s.rtb.any (fun p => p.2.stall == n && p.2.adapterEn && p.2.adapter == a
    && (p.2.st == .admitting || p.2.st == .deferred || p.2.st == .prefill || p.2.st == .decode || p.2.st == .blocked))
/-- The adapter is cached or its fetch has begun. -/
def adapterIn (s : State) (n a : Nat) : Bool := look s.adps (n * 65536 + a) 0 != 0
/-- The cache can take an adapter. -/
def adapterFits (s : State) (m n a : Nat) : Bool :=
  adapterIn s n a || (match adapterOf s m a with
    | some d => decide (cachePages s n (adapterHeld s n) + cdiv d.bytes 8192 ≤ cacheCap s n)
    | none => false)

/-- An adapter leaves the cache. -/
def dropAdapter (k : Nat) (s : State) : State :=
  let s := forEach (look s.adpPages k []) freePage s
  { s with adps := del s.adps k, adpPages := del s.adpPages k }

/-- Evict adapters that are not held, least recently used first, until `need` pages fit. -/
def evictAdapters (n need : Nat) : Nat → State → State
  | 0, s => s
  | f + 1, s =>
    if cachePages s n (fun _ => true) + need ≤ cacheCap s n then s
    else
      let c := s.adps.filter (fun x => x.1 / 65536 == n && !adapterHeld s n (x.1 % 65536))
      match c.foldl (fun acc x => match acc with
          | none => some x
          | some b => if x.2 < b.2 then some x else some b) (none : Option (Nat × Nat)) with
      | some x => evictAdapters n need f (dropAdapter x.1 s)
      | none => s

/-- Begin the fetch of an adapter that is not cached (R369, R374, R376), at 512 bytes per FT after those before it. -/
def fetchAdapter (m n a : Nat) (s : State) : State :=
  if adapterIn s n a then { s with adps := put s.adps (n * 65536 + a) (s.ft + 1) 0 }
  else match adapterOf s m a with
    | none => s
    | some d =>
      let k := n * 65536 + a
      let s := evictAdapters n (cdiv d.bytes 8192) s.adps.length s
      let r := allocPages n (cdiv d.bytes 8192) s
      let t := r.2.adpFetch.foldl (fun t x => max t x.2.2) s.ft
      let s := { r.2 with adps := put r.2.adps k (s.ft + 1) 0, adpPages := put r.2.adpPages k r.1 []
                          adpFetch := r.2.adpFetch ++ [(n, a, t + cdiv d.bytes 512)] }
      bumpSat (win n 0x408) s

/-- ADAPTER_FETCH_COMPLETE: the adapter is in the cache, its bytes from the installed store (R371, R374). -/
def adapterFetched (n a : Nat) (s : State) : State :=
  let done := s.adpFetch.any (fun f => f.1 == n && f.2.1 == a && decide (f.2.2 ≤ s.ft))
  let s := match s.conf.models.find? (fun m => m.2.adapters.any (fun (x : AdpCfg) => x.id == a)) with
    | some m => when_ done (putPages (look s.adpPages (n * 65536 + a) [])
        ((m.2.adapters.find? (fun (x : AdpCfg) => x.id == a)).elim [] (fun (x : AdpCfg) => storeBytes s 5 m.1 x.ofs x.bytes))) s
    | none => s
  { s with adpFetch := s.adpFetch.filter (fun f => !(f.1 == n && f.2.1 == a && decide (f.2.2 ≤ s.ft))) }
def execAdapterFetchComplete (stall adapter : Nat) (s : State) :=
  run (.adapterFetchComplete stall adapter) s (adapterFetched stall adapter s)

/-! ### What a command asks -/

/-- What admission decides on. -/
structure Ask where
  r : Nat
  stall : Nat
  chan : Nat
  model : Nat
  /-- tokens to prefill on rung 0 or 1 -/
  prompt : Nat
  /-- the command's own tokens, for rung 2 -/
  own : Nat
  maxNew : Nat
  deadline : Option Nat
  maxRung : Nat
  spec : Nat
  egress : Bool
  resume : Bool
  accept : Nat
  /-- positions that need no prefill -/
  base : Nat
  /-- nodes matched by the walk -/
  walk : List Nat
  /-- only rung 2 is asked for (R266) -/
  only2 : Bool
  /-- a SUBMIT -/
  new : Bool

/-- The question a request's command puts: its open command, or the pending APPEND that would run on rung 2 or join
a step (R239, R266). -/
def askOf (s : State) (r : Nat) : Ask :=
  let e := ent s r
  let x := side s r
  match (if x.r2 = 1 ∨ running e then x.pend else none) with
  | some p =>
    { r := r, stall := e.stall, chan := e.channel, model := e.model, prompt := p.tokens.length, own := p.tokens.length
      maxNew := p.maxNew, deadline := p.deadline, maxRung := bits p.ctrl 1 0, spec := bits p.ctrl 3 2
      egress := p.template != 0xFFFF, resume := false, accept := p.ingress, base := e.committed, walk := []
      only2 := x.r2 == 1, new := false }
  | none =>
    let w := walkOf s r
    let k := ((w.map (fun i => (node s i).span.length)).sum)
    let res := x.open_ == .resume || x.open_ == .adopt
    { r := r, stall := e.stall, chan := e.channel, model := e.model
      prompt := if res then 0 else x.kept.length + e.prompt.length - k, own := e.prompt.length
      maxNew := if res then 0 else e.maxNew, deadline := e.deadline, maxRung := if res then 0 else e.maxRung, spec := e.spec
      egress := x.template != 0xFFFF, resume := res, accept := x.acceptAt, base := e.committed + k, walk := w
      only2 := false, new := x.open_ == .submit }

/-- Drain under R167. -/
def draining (s : State) (n : Nat) : Bool := bit (rd s 0x00060020) n || bit s.img.drains.toNat n

/-- The model is loaded in a stall here. -/
def loadedIn (s : State) (m n : Nat) : Bool := (model s m).loaded && (model s m).stalls.contains n

/-- R291's MODEL. -/
def modelMissing (s : State) (a : Ask) : Bool :=
  let e := ent s a.r
  draining s a.stall || !loadedIn s a.model a.stall
    || (e.adapterEn && (adapterOf s a.model e.adapter).isNone)
    || (match (side s a.r).layout with | some l => l != (model s a.model).kvLayout | none => false)

/-- A channel's ADM_PBLOCK bit (R291). -/
def policyBlocked (s : State) (n c : Nat) : Bool :=
  let i := c - (stallCfg s n).chBase
  bit (rd s (win n 0x300 + 4 * (i / 32))) (i % 32)

/-- The reasons that precede any prediction, in R290's order. The live count is of the channel's other requests, and
limits new requests only. -/
def earlyRefusal (s : State) (a : Ask) : Option Nat :=
  let c := chan s a.chan
  let e := ent s a.r
  if modelMissing s a then some 0x24
  else if a.resume && (e.expired || decide (e.ttlDue ≤ a.accept)) then some 0x25
  else if policyBlocked s a.stall a.chan then some 0x27
  else if (a.new && decide (c.maxLive ≤ liveOf s a.chan - (if isHolder a.r then 0 else 1)))
      || (c.tokens != 0 && decide (c.left < a.maxNew)) then some 0x22
  else if !s.clk.ftValid || s.clk.slewing then some 0x21
  else if isFw a.r && a.deadline.any (fun d => decide (d < a.accept + 32000)) then some 0x21
  else none

/-! ### Resources (R242, R248, R290) -/

/-- Speculative depth a prediction uses (R293, R294, R314). -/
def askDepth (s : State) (a : Ask) (rung : Nat) : Nat :=
  if rung = 2 then a.maxNew - 1 else min a.spec (model s a.model).specHeads

/-- Positions the asked work comes to. -/
def askPos (s : State) (a : Ask) : Nat := a.base + a.prompt + a.maxNew + askDepth s a 0
/-- Shared pages the work writes (R253). -/
def askCopies (s : State) (a : Ask) : Nat :=
  if a.new then ((a.walk.getLast?.map (fun i => b2n (node s i).partial_)).getD 0) else sharedIn s a.r a.base (askPos s a)

/-- Pages of this chip that the work comes to. -/
def wantHere (s : State) (a : Ask) : Nat := pagesHere s a.model (if a.resume then a.base else askPos s a)
/-- Those that it needs beyond the held or shared. -/
def needHere (s : State) (a : Ask) : Nat :=
  let held := if a.new then (if pagesHere s a.model 1 = 0 then 0 else a.walk.length) else (ent s a.r).pages.length
  wantHere s a - held + askCopies s a
/-- Pages of a member stall that the work comes to. -/
def wantThere (s : State) (a : Ask) (m : Nat × Nat) (i : Nat) : Nat :=
  if a.resume then (side s a.r).slots.getD i 0 else pagesThere a.model m.1 (askPos s a)
/-- Pages of a member stall. -/
def needThere (s : State) (a : Ask) (m : Nat × Nat) (i : Nat) : Nat :=
  if a.resume then (side s a.r).slots.getD i 0
  else pagesThere a.model m.1 (askPos s a) - (if a.new then a.walk.length else (side s a.r).pfxDepth)
    - (side s a.r).slots.getD i 0 + askCopies s a

/-- The pages of pieces of work suffice together on every chip, their page lists included, after `more` others are
freed here and on each member. -/
def pagesFit (s : State) (n r : Nat) (as : List Ask) (more : Nat) (moreAt : Nat → Nat) : Bool :=
  decide ((as.map (needHere s)).sum + listMore s n r ((as.map (fun a => listSize (wantHere s a))).sum) ≤ freeHere s n r + more)
    && ((remotes s n).zipIdx).all (fun m =>
      decide ((as.map (fun a => needThere s a m.1 m.2)).sum + promisedThere s n r m.1 m.2
        + listThere s n r m.1 m.2 ((as.map (fun a => listSize (wantThere s a m.1 m.2))).sum)
          ≤ freePagesAt s m.1 + evictablePages s n + moreAt m.2))

/-- The pages suffice for one piece of work, its adapter's too. -/
def pagesOk (s : State) (a : Ask) (more : Nat) (moreAt : Nat → Nat) : Bool :=
  pagesFit s a.stall a.r [a] more moreAt
    && (!(ent s a.r).adapterEn || adapterFits s a.model a.stall (ent s a.r).adapter)

/-- The core count of R520 is 0 somewhere in the aisle, or a member's counts are lost: no entry is free there. -/
def noCores (s : State) (n : Nat) : Bool :=
  (decide ((coreCounts s n).1 = 0) && decide ((coreCounts s n).2 ≠ 0))
    || (remotes s n).any (fun m => (look s.free (freeKey m) {}).lost)

/-- An entry or record is there for a new request (R242, R256, R520). -/
def entryOk (s : State) (a : Ask) : Bool :=
  !a.new || (!isHolder a.r && !noCores s a.stall
    && (!isFw a.r || decide (liveRecords s a.stall ≤ (stallCfg s a.stall).fwRecords))
    && (remotes s a.stall).all (fun m => decide ((look s.free (freeKey m) {}).entries ≤ (Config.memberGrant m.1 m.2).2.1)))

/-! ### Fixed-cycle rows (R319) -/

/-- Groups of a model with a rung, ascending. -/
def groupsOf (s : State) (m rung : Nat) : List Nat :=
  ascending (((planSlots s).filter (fun g => !g.idle && g.model == m && g.rung == rung)).map CycSlot.group)
/-- Rows of a group. -/
def groupRows (s : State) (g : Nat) : Nat := (((planSlots s).find? (fun x => x.group == g && !x.idle)).map CycSlot.rows).getD 0
/-- The slot record of a group. -/
def groupSlot (s : State) (g : Nat) : Option CycSlot := (planSlots s).find? (fun x => x.group == g && !x.idle)
/-- The lowest free row of the first group of a model at a rung. -/
def freeRow (s : State) (m rung : Nat) : Option (Nat × Nat) :=
  (groupsOf s m rung).findSome? (fun g =>
    (lowest (groupRows s g) (fun i => !s.fixed.bound.any (fun b => b.1 == g && b.2.1 == i))).map (fun i => (g, i)))
/-- The row a request runs in: bound, or the one its SUBMIT would take. -/
def cycRowOf (s : State) (a : Ask) (rung : Nat) : Option (Nat × Nat) :=
  if a.new then (if s.fixed.degraded then none else freeRow s a.model rung) else (side s a.r).cycRow
/-- The stall runs in Fixed-cycle mode. -/
def cyclic (s : State) (n : Nat) : Bool := (stallCfg s n).mode == 2

/-! ### Eligibility and prediction -/

/-- A rung may serve the work (R294, R319, R320). -/
def rungOk (s : State) (a : Ask) (rung : Nat) : Bool :=
  if a.resume then rung == 0
  else if cyclic s a.stall then
    (if a.new then rung ≤ 1 else (match (side s a.r).cycRow.bind (fun c => groupSlot s c.1) with
      | some g => g.rung == rung | none => false))
  else match rung with
    | 0 => !a.only2
    | 1 => !a.only2 && (cost s a.model).exitPos != 0
    | 2 => (match rung2Of s a.model with
      | some m => loadedIn s m a.stall && decide (a.own ≤ 32) && decide (a.maxNew ≤ 1 + (model s m).specHeads)
      | none => false)
    | _ => false

/-- R290's resources_free. -/
def resOk (s : State) (a : Ask) (rung : Nat) : Bool :=
  entryOk s a && (rung == 2 || pagesOk s a 0 (fun _ => 0)) && (!cyclic s a.stall || (cycRowOf s a rung).isSome)

/-- The prediction job of the work at a rung. -/
def askJob (s : State) (a : Ask) (rung : Nat) : Job :=
  { r := a.r, m := if rung = 2 then (rung2Of s a.model).getD a.model else a.model, rung := rung
    prompt := if rung = 2 then a.own else a.prompt, maxNew := a.maxNew, depth := askDepth s a rung, egress := a.egress
    base := a.base }

/-- The largest page count of a paused request on any one chip (R287). -/
def maxPages (s : State) (r : Nat) : Nat :=
  ((side s r).slots).foldl max (pagesHere s (ent s r).model (ent s r).committed)

/-- The state in which a prediction sees the row that the work would be bound to. -/
def withRow (s : State) (a : Ask) (rung : Nat) : State :=
  if cyclic s a.stall then modSide a.r (fun x => { x with cycRow := cycRowOf s a rung }) s else s

/-- The predicted finish of the work when its first step issues at `start`. -/
def askFinish (s : State) (a : Ask) (rung start : Nat) : Nat :=
  let s := withRow s a rung
  let al := (aisleOf s a.stall).getD 0
  if a.resume then
    start + (cost s a.model).pageFt * maxPages s a.r + ((needDoms s a.stall false).map (wakeLeft s)).foldl max 0
      + rd s 0x00140000 % 65536
  else finishFrom s al a.stall (askJob s a rung) (if rung = 2 then 0 else askCopies s a) start

/-- The predicted first issue of the work whose outcome falls now (R285, R320). -/
def askStart (s : State) (a : Ask) (rung : Nat) : Nat :=
  if a.resume then s.ft
  else if cyclic s a.stall then
    (match cycRowOf s a rung with | some (g, _) => groupStart s g (s.ft + 24) | none => s.ft + 24)
  else nextStart s ((aisleOf s a.stall).getD 0) (askJob s a rung) s.ft

/-- The predicted finish of a live request as it stands. -/
def liveFinish (s : State) (r : Nat) : Nat :=
  let e := ent s r
  let al := (aisleOf s e.stall).getD 0
  if running e then
    let j : Job :=
      { r := r, m := stepModel s r, rung := e.rung, prompt := e.prompt.length, maxNew := e.maxNew - e.genLen + b2n e.prompt.isEmpty
        depth := min e.spec (model s e.model).specHeads, egress := false, base := e.committed }
    finishFrom s al e.stall j 0 (nextStart s al j s.ft)
  else s.ft

/-- A live request is certain to be freed at its end: a CLOSE is pending, or its budget or length runs out. -/
def willFree (s : State) (r : Nat) : Bool :=
  let e := ent s r
  (e.st == .closing) || (running e && ((((side s r).pend.map Pend.isClose).getD false)
    || decide (e.budget ≤ e.maxNew - e.genLen) || decide (e.maxLen ≤ e.committed + e.prompt.length + (e.maxNew - e.genLen))))

/-- Live requests of a stall that will be freed, earliest predicted finish first. -/
def releases (s : State) (n r : Nat) : List (Nat × Nat) :=
  let c := (s.rtb.filter (fun p => p.2.stall == n && p.1 != r && !p.2.shadow && willFree s p.1)).map (fun p => (liveFinish s p.1, p.1))
  c.foldl (fun acc x => (acc.filter (fun y => y.1 ≤ x.1)) ++ [x] ++ (acc.filter (fun y => x.1 < y.1))) []

/-- The first prefix of releases after which the pages meet the need (R290's earliest_release). -/
def releaseAt (s : State) (a : Ask) : List (Nat × Nat) → Nat → (Nat → Nat) → Option Nat
  | [], _, _ => none
  | (t, q) :: rest, more, at_ =>
    let e := ent s q
    let more := more + pagesHere s e.model (goalPos s q)
    let at' (i : Nat) := at_ i + (side s q).slots.getD i 0
    if pagesOk s a more at' then some t else releaseAt s a rest more at'

/-- R290's earliest_release: none for a command that lacks an entry or a row. -/
def earliest (s : State) (a : Ask) (rung : Nat) : Option Nat :=
  if !entryOk s a ∨ cyclic s a.stall then none
  else if rung = 2 then some s.ft
  else releaseAt s a (releases s a.stall a.r) 0 (fun _ => 0)

/-- DEFERRED requests of a stall, other than this one. -/
def deferredIn (s : State) (n r : Nat) : Nat := (s.rtb.filter (fun p => p.2.stall == n && p.1 != r && p.2.st == .deferred)).length

/-- An outcome. -/
inductive Verdict
  /-- rung and predicted finish -/
  | admits (rung fin : Nat)
  /-- rung and predicted start -/
  | defer_ (rung start : Nat)
  | refuse (status : Nat)
  deriving DecidableEq, Repr

/-- A finish meets the deadline. -/
def meets (d : Option Nat) (fin : Nat) : Bool := match d with | none => true | some t => decide (fin ≤ t)

/-- R290 from the rungs on. -/
def byRungs (s : State) (a : Ask) : Verdict :=
  let rs := (List.range (if cyclic s a.stall && !a.new then 2 else if a.only2 then 3 else a.maxRung + 1)).filter (rungOk s a)
  let now := rs.filter (resOk s a)
  let fin (g : Nat) := askFinish s a g (askStart s a g)
  match now.find? (fun g => meets a.deadline (fin g)) with
  | some g => .admits g (fin g)
  | none =>
    let full := decide (rd s (win a.stall 0x380) % 8192 ≤ deferredIn s a.stall a.r)
    let later := if full then [] else rs.filterMap (fun g => (earliest s a g).map (fun t => (g, t)))
    match later.find? (fun x => meets a.deadline (askFinish s a x.1 x.2)) with
    | some (g, t) => .defer_ g t
    | none =>
      if !now.isEmpty || !later.isEmpty then .refuse 0x21
      else if full || !entryOk s a || cyclic s a.stall && !rs.any (fun g => (cycRowOf s a g).isSome) then .refuse 0x23
      else .refuse 0x20

/-- The outcome of R290. A rung-2 service of a RESUMING request is admitted only if MAX_RUNG allows it (R266). -/
def verdict (s : State) (a : Ask) : Verdict :=
  match earlyRefusal s a with
  | some st => .refuse st
  | none => if a.only2 ∧ a.maxRung < 2 then .refuse 0x20 else byRungs s a

/-! ### Outcomes -/

/-- ADM_ADMIT, ADM_FALLBACK, ADM_DEFER, ADM_REFUSE and the till (R223). -/
def countOutcome (c k : Nat) (s : State) : State :=
  let s := bumpSat (0x00140010 + 4 * k) s
  modTill c (fun t => match k with
    | 0 => { t with admits := sat32 (t.admits + 1) }
    | 1 => { t with fallback := sat32 (t.fallback + 1) }
    | 2 => { t with defer_ := sat32 (t.defer_ + 1) }
    | _ => t) s

/-- A pending MODIFY takes effect at the channel's next admission decision (R194). -/
def takeModify (c : Nat) (s : State) : State :=
  match (chan s c).modify with
  | some (a, b) => modChan c (fun x => { chLimits a.toNat b.toNat x with modify := none }) s
  | none => s

/-- An admission decision on a request's command is taken under the channel's limits as they now are: a waiting MODIFY,
and PRIO within PRIO_MAX (R194). -/
def underLimits (r : Nat) (s : State) : State :=
  let c := (ent s r).channel
  let s := takeModify c s
  let s := modSide r (fun x => { x with pend := x.pend.map (fun p => { p with prio := prioOf s c p.askPrio }) }) s
  if (side s r).open_ = .submit ∨ (side s r).open_ = .append then modEnt r (fun e => { e with prio := prioOf s c (side s r).askPrio }) s else s

/-- Charge MAX_NEW to the channel's period (R292). -/
def charge (c n : Nat) (s : State) : State := modChan c (fun x => { x with left := x.left - n }) s

/-- Insert the DEADLINE entry of a request's open command (R350). -/
def armDeadline (r : Nat) (s : State) : State :=
  match (ent s r).deadline with
  | some d => dlyIns 1 (reqHandle s r) d s
  | none => s

/-- The pages of a paused request are granted again on every chip (R265). -/
def grantBack (r : Nat) (s : State) : State :=
  let e := ent s r
  let n := (look s.nmc.dir r {}).pages.length
  let a := allocPages e.stall n (evictFor e.stall (n + listNow s e.stall r (listSize n)) s.pfx.length s)
  let s := setPages r (a.1.map (fun p => (p, false))) a.2
  let s := forEach ((remotes s e.stall).zipIdx) (fun m s =>
    modFree m.1 (fun f => { f with pages := f.pages + (side s r).slots.getD m.2 0 }) s) s
  orderShadow r 8 (modSide r (fun x => { x with away := false }) s)

/-- The request begins the work it was admitted for (R234); one still PAUSING begins it at PAUSED. -/
def beginWork (r rung : Nat) (s : State) : State :=
  let e := ent s r
  let x := side s r
  let a := askOf s r
  if e.st = .pausing then s
  else if a.resume then grantBack r (modEnt r (fun e => { e with st := .resuming }) s)
  else
    let s := if cyclic s e.stall ∧ x.cycRow.isNone then
        (match freeRow s e.model rung with
         | some (g, i) => modSide r (fun x => { x with cycRow := some (g, i) }) { s with fixed := { s.fixed with bound := s.fixed.bound ++ [(g, i, r)] } }
         | none => s)
      else s
    let s := modSide r (fun x => { x with layout := x.layout.or (some (model s e.model).kvLayout), rungMax := rung, own := e.prompt }) s
    let s := if e.adapterEn then fetchAdapter e.model e.stall e.adapter s else s
    let s := modEnt r (fun e => { e with st := .prefill, rung := rung, superseded := false, genLen := 0 }) s
    if rung = 2 then modSide r (fun x => { x with pfxNode := none, history := e.prompt }) s
    else
      let s := if a.new ∧ bit (rd s (win e.stall 0x210)) 0 ∧ treeOk s e.stall e.model then shareWalk r a.walk s
        else if a.new then modSide r (fun x => { x with history := e.prompt }) s
        else modEnt r (fun e => { e with prompt := x.kept ++ e.prompt }) (modSide r (fun x => { x with kept := [] }) s)
      let goal := pagesHere s e.model (goalPos s r)
      evictFor e.stall (goal - (ent s r).pages.length + promisedHere s e.stall r + listMore s e.stall r (listSize goal)) s.pfx.length s

/-- A trigger's SUBMIT that is admitted or deferred binds its key (R488); an earlier binding stands. -/
def bindKey (r : Nat) (s : State) : State :=
  let c := (ent s r).channel
  match (side s r).key with
  | some k =>
    if s.spg.keys.any (fun b => b.1 == c && b.2.1 == k) then s
    else { s with spg := { s.spg with keys := s.spg.keys ++ [(c, k, r, genOf s 2 r)] } }
  | none => s

/-- ADMIT or ADMIT_FALLBACK (R292, R293). -/
def admitReq (r rung fin : Nat) (s : State) : State :=
  let e := ent s r
  let x := side s r
  let k := if rung = 0 then 0 else 1
  let s := if x.open_ = .none_ then s else countOutcome e.till k s
  let s := modEnt r (fun e => { e with admitOfs := min (s.ft - e.ingress) 65535 }) s
  let s := modSide r (fun x => { x with outcome := k, rungMax := rung, admitAt := s.ft, acked := true }) s
  let s := if x.acked ∨ x.open_ = .none_ then s else post e.channel (outcomeAck s r k 0 rung fin) s
  beginWork r rung (armDeadline r (charge e.channel (askOf s r).maxNew (bindKey r s)))

/-- DEFER: a DEFER_START entry at the predicted start (R293, R296). -/
def deferReq (r rung start : Nat) (s : State) : State :=
  let e := ent s r
  let x := side s r
  let s := if x.open_ = .none_ then s else countOutcome e.till 2 s
  let s := modEnt r (fun e => { e with st := if e.st = .pausing then .pausing else .deferred, deferred := true, rung := rung, admitOfs := min (s.ft - e.ingress) 65535 }) s
  let s := modSide r (fun x => { x with outcome := 2, rungMax := rung, admitAt := s.ft, start := start, acked := true }) s
  let s := if x.acked ∨ x.open_ = .none_ then s else post e.channel (outcomeAck s r 2 0 rung start) s
  dlyIns 2 (reqHandle s r) start (armDeadline r (charge e.channel (askOf s r).maxNew (bindKey r s)))

/-- A pending APPEND of a conversation that stays in the lake completes BAD_STATE, as an APPEND to a PAUSED request does;
a trigger's completes CLOSED. (DESIGN CHOICE, log 31) -/
def dropAppend (r : Nat) (s : State) : State :=
  match (side s r).pend with
  | some p =>
    if p.isClose ∨ !p.posts then s
    else if p.trig then finishPend r 0x12 s
    else
      let c := (ent s r).channel
      let s := modSide r (fun x => { x with pend := none, r2 := 0 }) s
      post c { plainAck s p.cid 4 (reqField s r) with ingress := p.ingress % 2 ^ 48 } (giveBack c 1 s)
  | none => s

/-- The conversation is PAUSED once more: a pending CLOSE takes its turn, and without an open channel it is an orphan
(R195, R210, R228). -/
def backToPaused (r : Nat) (s : State) : State :=
  match (side s r).pend.filter Pend.isClose with
  | some p => takeClose r p.posts p.cid (modSide r (fun x => { x with pend := none }) s)
  | none =>
    let s := dropAppend r s
    if (chan s (ent s r).channel).st = 1 then s else orphan r s

/-- The request goes back to the state it held before ADMITTING (R234): FREE frees it, READY takes up what is
pending. -/
def backTo (r : Nat) (s : State) : State :=
  let e := ent s r
  let x := side s r
  let s := dropTimers r (modSide r (fun x => { x with open_ := .none_ }) s)
  match x.before with
  | .free => freeEntry r (finishPend r 0x12 s)
  | .paused =>
    if e.expired ∨ e.ttlDue ≤ x.acceptAt then freeEntry r (finishPend r 0x12 s)
    else backToPaused r (modEnt r (fun e => { clearCmd e with st := .paused }) (dlyIns 3 (reqHandle s r) e.ttlDue s))
  | .pausing =>
    dropAppend r (dlyIns 3 (reqHandle s r) e.ttlDue (modEnt r (fun e => { clearCmd e with st := .pausing }) s))
  | _ => toReady r s

/-- REFUSE (R291, R297): an ACK with the reason, or the one FINAL of a trigger or of a DEFERRED command. -/
def refuseReq (r status : Nat) (s : State) : State :=
  let e := ent s r
  let x := side s r
  let s := if x.open_ = .none_ then s else tillRefuse e.till status (bumpSat 0x0014001C s)
  let s := modSide r (fun x => { x with outcome := 3 }) s
  let s :=
    if x.open_ = .none_ then s
    else if x.trig ∨ x.acked then post e.channel (finalOf s r status) s
    else post e.channel (outcomeAck s r 3 status 0 0) (giveBack e.channel 1 s)
  backTo r s

/-- The pending APPEND of a RESUMING request: admitted on rung 2, or left pending (R266). -/
def decideR2 (r : Nat) (v : Verdict) (s : State) : State :=
  match v, (side s r).pend with
  | .admits _ fin, some p =>
    let e := ent s r
    let s := countOutcome e.till 1 s
    let q := outcomeAck s r 1 0 2 fin
    let s := if p.posts && !p.trig then
        post e.channel { q with cid := p.cid, ingress := p.ingress % 2 ^ 48, admits := min (s.ft - p.ingress) 65535 } s
      else s
    charge e.channel p.maxNew (modSide r (fun x => { x with r2 := 2, r2At := s.ft, pend := x.pend.map (fun q => { q with trig := true }) }) s)
  | _, _ => modSide r (fun x => { x with r2 := 0 }) s

/-! ### CANCEL at its acceptance FT (R270, R273) -/

/-- A CANCEL takes effect: its ACK is posted, and the request ends CANCELLED (a member of a running batch ends with
the whole batch). -/
def cancelNow (r : Nat) (s : State) : State :=
  let e := ent s r
  let s := modSide r (fun x => { x with cancelAt := none }) (post e.channel { plainAck s (side s r).cancelCid 0 (reqField s r) with ingress := (side s r).cancelIn % 2 ^ 48 } s)
  let one (r : Nat) (s : State) : State :=
    let e := ent s r
    if e.st = .free ∨ e.st = .closing then s
    else toClosing r 0x10 0x10 0x12 true (maskHere r s)
  match s.batches.find? (fun b => some b.num == (side s r).batch) with
  | some b => if b.running then forEach b.members one s else one r s
  | none => one r s

/-- A CANCEL that waits for the admission outcome is applied once its FT has come (R270). -/
def lateCancel (r : Nat) (s : State) : State :=
  match (side s r).cancelAt with
  | some (t, true) => if t ≤ s.ft ∧ (ent s r).st ≠ .admitting then cancelNow r s else s
  | _ => s

/-- Admission takes a seed for a SUBMIT that brings none (R423, R610). -/
def takeSeed (r : Nat) (s : State) : State :=
  if (side s r).seeded then s
  else
    let d := drawSeed s
    modSide r (fun x => { x with seeded := true }) (modEnt r (fun e => { e with seed := d.1 }) d.2)

/-- Decide a request's command. -/
def decide_ (r : Nat) (s : State) : State :=
  let s := takeSeed r (underLimits r s)
  let a := askOf s r
  let v := verdict s a
  if (side s r).r2 = 1 then decideR2 r v s
  else
    lateCancel r (match v with
      | .admits g fin => admitReq r g fin s
      | .defer_ g t => deferReq r g t s
      | .refuse st => refuseReq r st s)

/-! ### Batches (R322, R323) -/

/-- The batches of a stall that have been admitted. -/
def stallBatches (s : State) (n : Nat) : List Batch := s.batches.filter (fun b => b.stall == n && b.admitted)

/-- The verdict on a batch: each member's, against the earliest deadline (R323), with no batch before it. -/
def batchVerdict (s : State) (b : Batch) : Verdict :=
  let dl := b.members.filterMap (fun r => (ent s r).deadline)
  let d := dl.foldl (fun acc x => match acc with | none => some x | some y => some (min x y)) (none : Option Nat)
  let asks := b.members.map (fun r => { askOf s r with deadline := d })
  match asks.findSome? (earlyRefusal s) with
  | some st => .refuse st
  | none =>
    if liveRecords s b.stall > (stallCfg s b.stall).fwRecords ∨ asks.any (fun a => !entryOk s a) then .refuse 0x23
    else
      if !pagesFit s b.stall (2 ^ 25) asks 0 (fun _ => 0) then .refuse 0x20
      else
        let before := (stallBatches s b.stall).flatMap Batch.members
        let start := before.foldl (fun t r => max t (liveFinish s r)) s.ft
        let fins := asks.map (fun a => askFinish s a 0 (if before.isEmpty then askStart s a 0 else start))
        let fin := fins.foldl max 0
        if !meets d fin then .refuse 0x21
        else if !before.isEmpty && decide (rd s (win b.stall 0x380) % 8192 < (s.rtb.filter (fun p => p.2.stall == b.stall && p.2.st == .deferred)).length + b.members.length) then .refuse 0x23
        else if before.isEmpty then .admits 0 fin else .defer_ 0 start

/-- Decide a BATCH as a whole: one ACK for it, then its members' own ends. -/
def decideBatch (n : Nat) (s : State) : State :=
  match s.batches.find? (fun b => b.num == n) with
  | none => s
  | some b =>
    let s := forEach b.members (fun r s => takeSeed r (underLimits r s)) (takeModify b.channel s)
    let s := { s with batches := s.batches.map (fun x => if x.num == n then { x with prio := prioOf s b.channel b.askPrio } else x) }
    let ack (k st pred : Nat) : Cqe :=
      { final := false, status := st, cid := b.cid, req := 0, outcome := k, rung := 0, deferred := k == 2, cstat := 0
        displaced := 0, specAcc := 0, predict := pred % 2 ^ 32, ingress := b.accept % 2 ^ 48
        admits := min (s.ft - b.accept) 65535, first := 0, last := 0 }
    let take (k : Nat) (r : Nat) (s : State) : State :=
      let e := ent s r
      let s := modEnt r (fun e => { e with admitOfs := min (s.ft - e.ingress) 65535, deferred := k == 2 }) s
      let s := modSide r (fun x => { x with outcome := k, admitAt := s.ft, acked := true }) s
      let s := armDeadline r (charge e.channel e.maxNew s)
      if k = 2 then modEnt r (fun e => { e with st := .deferred }) s else beginWork r 0 s
    match batchVerdict s b with
    | .admits _ fin =>
      let s := { s with batches := s.batches.map (fun x => if x.num == n then { x with admitted := true, running := true } else x) }
      forEach b.members (take 0) (post b.channel (ack 0 0 fin) (countOutcome b.channel 0 s))
    | .defer_ _ t =>
      let s := { s with batches := s.batches.map (fun x => if x.num == n then { x with admitted := true, deferred := true } else x) }
      forEach b.members (take 2) (post b.channel (ack 2 0 t) (countOutcome b.channel 2 s))
    | .refuse st =>
      let s := tillRefuse b.channel st (bumpSat 0x0014001C s)
      let s := post b.channel (ack 3 st 0) (giveBack b.channel (b.members.length + 1) s)
      let s := { s with batches := s.batches.filter (fun x => x.num != n) }
      forEach b.members (fun r s => freeEntry r (modSide r (fun x => { x with batch := none }) s)) s

/-- BATCH_START (R322): when no batch of the stall runs, the next by priority and acceptance starts. -/
def batchStart (n : Nat) (s : State) : State :=
  let bs := stallBatches s n
  if bs.any Batch.running then s
  else
    let next := bs.foldl (fun acc b => match acc with
      | none => some b
      | some c => if b.prio < c.prio ∨ (b.prio = c.prio ∧ b.accept < c.accept) then some b else some c) (none : Option Batch)
    match next with
    | none => s
    | some b =>
      let s := { s with batches := s.batches.map (fun x => if x.num == b.num then { x with running := true } else x) }
      forEach b.members (fun r s => if (ent s r).st = .deferred then beginWork r 0 s else s) s
def execBatchStart (stall : Nat) (s : State) := run (.batchStart stall) s (batchStart stall s)

/-! ### ADMISSION_DECISION (R288) -/

/-- The FT at which the command at the head of the queue is decided: 16 FT after it reached the head, and after its
prefix walk (R251). -/
def outcomeAt (s : State) (c : AdmCmd) : Nat :=
  max c.at_ s.admNext + 16 + (if c.isBatch then 0 else walkFt (walkOf s c.req).length)

/-- The command at the head of the input queue is decided. -/
def admissionDecision (s : State) : State :=
  match s.admq with
  | [] => s
  | c :: rest =>
    if s.ft < outcomeAt s c ∨ !isOn s dSEQ then s
    else
      let s := { s with admq := rest, admNext := s.ft }
      if c.isBatch then decideBatch c.req s else decide_ c.req s
def execAdmissionDecision (s : State) := run .admissionDecision s (admissionDecision s)

/-! ### DEFER_START (R296) -/

/-- A deferred request's start has come: it begins if its resources are free, else it gets a new start, else it is
refused as the check now says. -/
def deferStart (d : DlyEntry) (s : State) : State :=
  let r := hIdx d.arg.toNat
  if hGen d.arg.toNat ≠ genOf s 2 r ∨ (ent s r).st ≠ .deferred ∨ (side s r).batch.isSome then s
  else
    let a := askOf s r
    let g := (ent s r).rung
    if resOk s a g then beginWork r g s
    else
      let s := underLimits r s
      let v := verdict s a
      match v with
      | .admits g _ => beginWork r g s
      | .defer_ g t => dlyIns 2 (reqHandle s r) (max t (s.ft + 1)) (modEnt r (fun e => { e with rung := g }) (modSide r (fun x => { x with start := t }) s))
      | .refuse st => refuseReq r st s
def execDeferStart (s : State) := run .deferStart s (if isOn s dSEQ then fire 2 deferStart s else s)

/-! ### Firmware-tracked admission (R257, R401, R402) -/

/-- A service call of a module on a stall is within its mask: 0 to 7 is a module's slot, another number base
firmware. -/
def serviceOk (s : State) (modl stall : Nat) : Bool :=
  if modl < 8 then
    let m : Module := look s.conf.modules modl {}
    m.st == 1 && bit m.stalls.toNat stall
  else true

/-- The posted outcome leaves base firmware's queue. -/
def fwTaken (r : Nat) (s : State) : State :=
  { s with cc := { s.cc with admq := s.cc.admq.filter (· != r), recs := upd s.cc.recs r {} (fun x => { x with since := none }) } }

/-- FW_ADMISSION_TIMEOUT: 2 µs after acceptance with no outcome posted. -/
def fwTimeout (r : Nat) (s : State) : State :=
  match (look s.cc.recs r {}).since with
  | some t => if t + 3200 ≤ s.ft ∧ (ent s r).st = .admitting ∧ s.img.reloading = false then lateCancel r (refuseReq r 0x21 (fwTaken r (takeSeed r s))) else s
  | none => s
def execFwAdmissionTimeout (rec : Nat) (s : State) := run (.fwAdmissionTimeout rec) s (fwTimeout rec s)

/-- ADM_POST: outcome 0 to 3, with the status of a refusal. The early reasons of R290 bind the firmware too; the
rung and the predicted values are those of the check. -/
def admPost (modl r outcome status : Nat) (s : State) : State :=
  if (ent s r).st ≠ .admitting ∨ !isFw r ∨ (look s.cc.recs r {}).since.isNone ∨ !serviceOk s modl (ent s r).stall then s
  else
    let s := takeSeed r (underLimits r (fwTaken r s))
    let a := askOf s r
    let start := askStart s a 0
    let t := match verdict s a with | .defer_ _ t => t | _ => start
    let v := match earlyRefusal s a with
      | some st => Verdict.refuse st
      | none => match outcome with
        | 0 => .admits 0 (askFinish s a 0 start)
        | 1 => .admits (match verdict s a with | .admits g _ => max g 1 | _ => 1) (askFinish s a 1 start)
        | 2 => .defer_ 0 t
        | _ => .refuse status
    lateCancel r (match v with
      | .admits g fin => admitReq r g fin s
      | .defer_ g t => deferReq r g t s
      | .refuse st => refuseReq r st s)
def execAdmPost (modl rec outcome status : Nat) (s : State) := run (.admPost modl rec outcome status) s (admPost modl rec outcome status s)

/-- PROXY_STAGE: a proxy entry in state FW takes the lowest free index, within the stall's ENTRIES (R257). -/
def proxyStage (modl r : Nat) (s : State) : State :=
  let e := ent s r
  if !isFw r ∨ !(running e) ∨ (look s.cc.recs r {}).proxy.isSome ∨ !serviceOk s modl e.stall ∨ (stallCfg s e.stall).entries ≤ liveEntries s e.stall then s
  else match lowest 4096 (fun k => (ent s k).st == .free) with
    | none => s
    | some p =>
      let x : Entry := { e with st := .fw, fwOwned := true, committed := e.committed % 65536, maxLen := e.maxLen % 65536, ring := none, pages := [], prompt := [] }
      { s with rtb := put s.rtb p x {}, cc := { s.cc with recs := upd s.cc.recs r {} (fun y => { y with proxy := some p }) } }
def execProxyStage (modl rec : Nat) (s : State) := run (.proxyStage modl rec) s (proxyStage modl rec s)

/-- PROXY_RELEASE: the proxy is freed after the step. -/
def proxyRelease (modl p : Nat) (s : State) : State :=
  match s.cc.recs.find? (fun x => x.2.proxy == some p) with
  | some (r, _) => if serviceOk s modl (ent s r).stall ∧ (side s r).inStep.isNone then dropProxy r s else s
  | none => s
def execProxyRelease (modl req : Nat) (s : State) := run (.proxyRelease modl req) s (proxyRelease modl req s)

end Sys2Proof.Machine
end

