-- ==== Sys2Proof/Machine/Requests.lean ====
section
/-! DEFINITION. The commands on requests (R199, R227 to R229, R258 to R276): SUBMIT, APPEND, CANCEL, PAUSE, RESUME,
CLOSE, SET_DEADLINE, BATCH, FENCE, ADOPT, what follows them later, and the request entries of the delay lists. -/
namespace Sys2Proof.Machine

/-! ### Token lists -/

/-- The tokens of a command's list (R201, R208): CSTAT 6 when the list could not be read, 3 when it is malformed. -/
def listOf (e : Sqe) (ws : Option (List Word)) : Nat × List Nat :=
  if e.count = 0 then (0, [])
  else match ws with
    | none => (6, [])
    | some l =>
      if l.length < e.count then (6, [])
      else match tokensOf (l.take e.count) with
        | none => (3, [])
        | some t => (0, t)

/-- The DMA read of a command's list (R197, R201). -/
def readList (c : Nat) (e : Sqe) (size : Nat) (s : State) : State :=
  when_ (e.count != 0) (emit (.hostRead (chan s c).src e.addr (size * e.count))) s

/-- A channel under DESTROY closes what its last commands open, as a CLOSE would (R195). -/
def closeIfLeaving (c r : Nat) (s : State) : State := if (chan s c).st = 2 then takeClose r false 0 s else s

/-! ### SUBMIT and BATCH -/

/-- A SUBMIT is taken (R234): its request goes to admission. -/
def submitAct (c : Nat) (ws : Option (List Word)) (e : Sqe) (s : State) : State :=
  let l := listOf e ws
  let g := ringCheck s (chan s c).stall e.ring.toNat
  let s := readList c e 4 s
  if l.1 ≠ 0 then reject c e l.1 s
  else if g.1 ≠ 0 then reject c e g.1 s
  else
    let r := openSubmit c e l.2 g.2 0xFFFF false (deadlineOf s e) s.ft s
    closeIfLeaving c r.1 (enqueue r.1 false r.2)
def execSubmit (ch : Nat) (tokens : Option (List Word)) (s : State) :=
  run (.submit ch tokens) s (accept ch opSubmit (submitAct ch tokens) s)

/-- CSTAT of a batch's list: DMA_ERR, BAD_FIELD for a member that is no SUBMIT or is malformed, or what its ring
gives; a ring may serve one member only. -/
def batchStat (s : State) (c : Nat) (e : Sqe) (ms : List (Bytes × List Word)) : Nat :=
  let es := (ms.take e.count).map (fun m => (sqeOf m.1, listOf (sqeOf m.1) (some m.2)))
  if ms.length < e.count then 6
  else match es.findSome? (fun m => if m.1.op ≠ opSubmit ∨ fieldBad m.1 then some 3 else if m.2.1 ≠ 0 then some m.2.1 else none) with
    | some st => st
    | none =>
      let gs := es.map (fun m => ringCheck s (chan s c).stall m.1.ring.toNat)
      match gs.findSome? (fun g => if g.1 ≠ 0 then some g.1 else none) with
      | some st => st
      | none => if (gs.filterMap Prod.snd).dedup.length < gs.length then 4 else 0

/-- Open a batch's members. -/
def openMembers (c num : Nat) : List (Bytes × List Word) → State → List Nat × State
  | [], s => ([], s)
  | (b, ws) :: t, s =>
    let e := sqeOf b
    let r := openSubmit c e (listOf e (some ws)).2 (ringCheck s (chan s c).stall e.ring.toNat).2 0xFFFF false (deadlineOf s e) s.ft s
    let s := modSide r.1 (fun x => { x with batch := some num, acked := true }) r.2
    let k := openMembers c num t s
    (r.1 :: k.1, k.2)

/-- A BATCH is taken (R322, R323): it goes to admission as a whole. -/
def batchAct (c : Nat) (ms : Option (List (Bytes × List Word))) (e : Sqe) (s : State) : State :=
  let s := readList c e 64 s
  match ms with
  | none => reject c e 6 s
  | some l =>
    let s := forEach (l.take e.count) (fun m => readList c (sqeOf m.1) 4) s
    let st := batchStat s c e l
    if st ≠ 0 then reject c e st s
    else
      let n := s.batchNum
      let r := openMembers c n (l.take e.count) { s with batchNum := n + 1 }
      let b : Batch := { num := n, stall := (chan s c).stall, channel := c, cid := e.cid, prio := prioOf s c e.prio, accept := s.ft, members := r.1, askPrio := e.prio }
      forEach r.1 (closeIfLeaving c)
        { r.2 with batches := r.2.batches ++ [b], admq := r.2.admq ++ [{ req := n, isBatch := true, at_ := s.ft }] }
def execBatch (ch : Nat) (members : Option (List (Bytes × List Word))) (s : State) :=
  run (.batch ch members) s (accept ch opBatch (batchAct ch members) s)

/-! ### APPEND (R227, R266, R274, R275, R531) -/

/-- RTB_LEAD of a stall (R270). -/
def leadOf (s : State) (n : Nat) : Nat := rdf s (win n 0x200) 11 0

/-- A poisoned request with no open command ends when a command names it for work (R531): an ACK, a FINAL FAULT_FAR,
code 0x0809. -/
def poisonEnd (c : Nat) (e : Sqe) (s : State) : State :=
  let r := hIdx e.handle.toNat
  let n := (ent s r).stall
  let s := post c (plainAck s e.cid 0 (reqField s r)) s
  logEv 0x0809 n [] (endWith r e.cid s.ft 0x41 false s)

/-- The pending command that an APPEND is. -/
def pendOf (c : Nat) (e : Sqe) (toks : List Nat) (s : State) : Pend :=
  { isClose := false, cid := e.cid, tokens := toks, maxNew := e.maxNew, deadline := deadlineOf s e, ingress := s.ft
    ctrl := e.ctrl, prio := prioOf s c e.prio, askPrio := e.prio }

/-- The effect of an APPEND on a request: promoted at once in READY, held as pending elsewhere. -/
def takePend (r : Nat) (p : Pend) (s : State) : State :=
  let st := (ent s r).st
  let s := modSide r (fun x => { x with pend := some p }) s
  if st = .ready then promote r s
  else if st = .resuming then enqueue r false (modSide r (fun x => { x with r2 := 1 }) s)
  else s

/-- The state takes no APPEND: paused with nothing open, or ending. -/
def noAppend (s : State) (r : Nat) : Bool :=
  let st := (ent s r).st
  st == .closing || ((st == .paused || st == .pausing) && (side s r).open_ == .none_)

/-- A SUPERSEDE is fixed at its acceptance FT (R270, R274). -/
def fixEffect (c r : Nat) (cancel : Bool) (s : State) : State :=
  let eff := s.ft + leadOf s (ent s r).stall
  let s := modSide r (fun x => { x with cancelAt := some (eff, cancel) }) s
  let s := modChan c (fun x => { x with notBefore := max x.notBefore eff }) s
  maskNotice r (if cancel then 1 else 2) eff s

/-- An APPEND is taken. -/
def appendAct (c : Nat) (ws : Option (List Word)) (e : Sqe) (s : State) : State :=
  let r := hIdx e.handle.toNat
  let x := ent s r
  let y := side s r
  let l := listOf e ws
  let s := readList c e 4 s
  if l.1 ≠ 0 then reject c e l.1 s
  else if x.poison ∧ y.open_ = .none_ ∧ y.pend.isNone ∧ x.st ≠ .closing then poisonEnd c e s
  else if y.pend.isSome ∨ noAppend s r then reject c e 4 s
  else if e.supersede ∧ (x.st = .pausing ∨ x.st = .paused ∨ x.st = .resuming) then reject c e 4 s
  else
    let p := pendOf c e l.2 s
    if e.supersede ∧ running x then fixEffect c r false (modSide r (fun z => { z with pend := some p }) s)
    else takePend r p s
def execAppend (ch : Nat) (tokens : Option (List Word)) (s : State) :=
  run (.append ch tokens) s (accept ch opAppend (appendAct ch tokens) s)

/-- SUPERSEDE at its acceptance FT (R274): the old generation ends SUPERSEDED; after its natural end the APPEND is a
plain one (R276). (DEDUCED, log 32) -/
def supersedeEffect (r : Nat) (s : State) : State :=
  match (side s r).cancelAt with
  | some (t, false) =>
    if s.ft < t ∨ !isOn s dSEQ then s
    else
      let s := modSide r (fun x => { x with cancelAt := none }) s
      if running (ent s r) then
        let s := modEnt r (fun e => { e with superseded := true }) (maskHere r s)
        toDraining r 0x11 true false false s
      else s
  | _ => s
def execSupersedeEffect (req : Nat) (s : State) := run (.supersedeEffect req) s (supersedeEffect req s)

/-! ### CANCEL, CLOSE, SET_DEADLINE -/

/-- A CANCEL is taken at t (R270, R271): in CLOSING it completes BAD_STATE (R276). -/
def cancelAct (c : Nat) (e : Sqe) (s : State) : State :=
  let r := hIdx e.handle.toNat
  if (ent s r).st = .closing then reject c e 4 s
  else fixEffect c r true (modSide r (fun x => { x with cancelCid := e.cid, cancelIn := s.ft }) s)
def execCancel (ch : Nat) (s : State) := run (.cancel ch) s (accept ch opCancel (cancelAct ch) s)

/-- CANCEL at its acceptance FT (R270, R273); in ADMITTING it waits for the outcome. -/
def cancelEffect (r : Nat) (s : State) : State :=
  match (side s r).cancelAt with
  | some (t, true) => if s.ft < t ∨ !isOn s dSEQ ∨ (ent s r).st = .admitting then s else cancelNow r s
  | _ => s
def execCancelEffect (req : Nat) (s : State) := run (.cancelEffect req) s (cancelEffect req s)

/-- A CLOSE is taken (R228): one is enough. -/
def closeAct (c : Nat) (e : Sqe) (s : State) : State :=
  let r := hIdx e.handle.toNat
  if (ent s r).st = .closing ∨ ((side s r).pend.map Pend.isClose).getD false then reject c e 4 s
  else takeClose r true e.cid (post c (plainAck s e.cid 0 (namedReq e)) s)
def execClose (ch : Nat) (s : State) := run (.close ch) s (accept ch opClose (closeAct ch) s)

/-- SET_DEADLINE: the open command's deadline, from the next composition on. -/
def setDeadlineAct (c : Nat) (e : Sqe) (s : State) : State :=
  let r := hIdx e.handle.toNat
  let st := (ent s r).st
  if (side s r).open_ = .none_ ∨ (side s r).open_ = .close ∨ st = .closing then reject c e 4 s
  else
    let s := ackNow c e 0 (namedReq e) 0 s
    let s := modEnt r (fun x => { x with deadline := deadlineOf s e }) (dlyDel 1 (reqHandle s r) s)
    if st = .deferred ∨ st = .resuming ∨ running (ent s r) then armDeadline r s else s
def execSetDeadline (ch : Nat) (s : State) := run (.setDeadline ch) s (accept ch opSetDeadline (setDeadlineAct ch) s)

/-! ### PAUSE, RESUME, ADOPT (R258 to R269, R536) -/

/-- A PAUSE is taken in READY only, when the slots suffice (R258, R262). -/
def pauseAct (c : Nat) (e : Sqe) (s : State) : State :=
  let r := hIdx e.handle.toNat
  if (ent s r).st ≠ .ready then reject c e 4 s
  else if !slotsSuffice s r then logEv 0x0806 (ent s r).stall [] (reject c e 4 s)
  else startPause r e.ttl (ackNow c e 0 (namedReq e) 0 s)
def execPause (ch : Nat) (s : State) := run (.pause ch) s (accept ch opPause (pauseAct ch) s)

/-- The idle timer of R258; a shadow's state follows its master's (R245). -/
def rtbIdle (r : Nat) (s : State) : State :=
  let e := ent s r
  let t := rd s (win e.stall 0x204)
  let x := side s r
  if e.st ≠ .ready ∨ e.shadow ∨ t = 0 ∨ s.ft < x.idleSince + us t ∨ x.pend.isSome ∨ !isOn s dSEQ then s
  else if slotsSuffice s r then startPause r 0 s
  else logEv 0x0806 e.stall [] (modSide r (fun x => { x with idleSince := s.ft }) s)
def execRtbIdleExpire (req : Nat) (s : State) := run (.rtbIdleExpire req) s (rtbIdle req s)

/-- A member chip of the request's aisle is lost, or rejoined with its record gone: whether a record survived is not
stated (a free value). -/
def memberLost (s : State) (r : Nat) : Bool := (remotes s (ent s r).stall).any (fun m => s.fab.lost.contains m.1)
/-- A member rejoined since. -/
def memberBack (s : State) (r : Nat) : Bool := (remotes s (ent s r).stall).any (fun m => s.fab.rejoined.contains m.1)

/-- A RESUME or an ADOPT that has been taken (R234, R263, R531, R536). -/
def resumeTaken (c : Nat) (e : Sqe) (kind : OpenCmd) (s : State) : State :=
  let r := hIdx e.handle.toNat
  let x := ent s r
  let ack (s : State) : State := post c (plainAck s e.cid 0 (reqField s r)) s
  if x.poison then poisonEnd c e s
  else if memberLost s r then tillFinal x.till 0x42 (post c (bareFinal s r e.cid 0x42 s.ft) (ack s))
  else
    let f := fresh s
    if memberBack s r ∧ f.1 % 2 = 0 then endWith r e.cid s.ft 0x42 false (ack f.2)
    else
      let s := if memberBack s r then f.2 else s
      let s := modSide r (fun y => { freshCmd y with open_ := kind, before := x.st, acceptAt := s.ft, trig := false, template := 0xFFFF }) s
      let s := modEnt r (fun y => { y with
        st := if y.st = .paused then .admitting else y.st
        cid := e.cid, deadline := deadlineOf s e, ingress := s.ft, deferred := false, displaced := 0, maxNew := 0, genLen := 0, prompt := [] }) s
      let s := if s.ft < x.ttlDue then dlyDel 3 (reqHandle s r) s else s
      closeIfLeaving c r (enqueue r true s)

/-- A RESUME is taken in PAUSED, or in PAUSING with nothing open. (DESIGN CHOICE, log 31) -/
def resumeAct (c : Nat) (e : Sqe) (s : State) : State :=
  let r := hIdx e.handle.toNat
  let st := (ent s r).st
  if (st = .paused ∨ st = .pausing) ∧ (side s r).open_ = .none_ ∧ (side s r).pend.isNone then resumeTaken c e .resume s
  else reject c e 4 s
def execResume (ch : Nat) (s : State) := run (.resume ch) s (accept ch opResume (resumeAct ch) s)

/-- ADOPT (R268): the orphan takes the channel, its till and the ring, then resumes. -/
def adoptAct (c : Nat) (e : Sqe) (s : State) : State :=
  let r := hIdx e.handle.toNat
  let g := ringCheck s (chan s c).stall e.ring.toNat
  if g.1 ≠ 0 then reject c e g.1 s
  else if memberLost s r then resumeTaken c e .adopt s
  else
    let s := modEnt r (fun x => { x with channel := c, till := c, ring := g.2, orphan := false }) s
    let s := match g.2 with | some i => modRing i (fun y => { y with st := 2, req := some r }) s | none => s
    resumeTaken c e .adopt s
def execAdopt (ch : Nat) (s : State) := run (.adopt ch) s (accept ch opAdopt (adoptAct ch) s)

/-- The lake copy of a request's page list and pages (R260, R261): the slot-list pages first, then the pages. -/
def lakeCopy (r : Nat) (s : State) : State :=
  let e := ent s r
  let ks := look s.nmc.dirSlots r []
  let nl := ks.length - e.pages.length
  let ps := ks.drop nl
  let lists := (List.range nl).map (fun i => (slotAddr (ks.getD i 0), ((ps.drop (2048 * i)).take 2048).flatMap (leBytes 4)))
  let lake := lists.foldl (fun m l => putBytes (delRange m l.1 8192) l.1 l.2) s.nmc.lake
  let lake := (ps.zip e.pages).foldl (fun m x => copyRange s.pond (8192 * x.2.1) 8192 m (slotAddr x.1)) lake
  let kv := (side s r).layout.getD (model s e.model).kvLayout
  { s with nmc := { s.nmc with lake := lake, dir := put s.nmc.dir r { e with st := .paused } {}, dirLayout := put s.nmc.dirLayout r kv 0 } }

/-- The pages come back from the lake (R265). -/
def pondCopy (r : Nat) (s : State) : State :=
  let e := ent s r
  let ks := look s.nmc.dirSlots r []
  let ps := ks.drop (ks.length - (look s.nmc.dir r {}).pages.length)
  { s with pond := (ps.zip e.pages).foldl (fun m x => copyRange s.nmc.lake (slotAddr x.1) 8192 m (8192 * x.2.1)) s.pond }

/-- PAUSE_COMPLETE (R234, R262): every page of every chip is in the lake and the records are written. -/
def pauseComplete (r : Nat) (s : State) : State :=
  let e := ent s r
  if e.st ≠ .pausing ∨ !isOn s dNMC then s
  else if e.shadow then modEnt r (fun e => { e with st := .paused }) (releasePages r (lakeCopy r s))
  else
    let s := releasePages r (lakeCopy r s)
    let s := forEach ((remotes s e.stall).zipIdx) (fun m s =>
      modFree m.1 (fun f => { f with pages := f.pages - (side s r).slots.getD m.2 0 }) s) s
    let s := modSide r (fun x => { x with
      away := true, idleSince := s.ft, slots := x.slots.map (· + x.pfxDepth), pfxNode := none, pfxDepth := 0 }) s
    let s := modEnt r (fun e => { e with st := .paused }) s
    let x := side s r
    if x.open_ = .resume ∨ x.open_ = .adopt then
      let s := modSide r (fun x => { x with before := .paused }) s
      if !x.acked then modEnt r (fun e => { e with st := .admitting }) s
      else if x.outcome = 2 then
        let s := modEnt r (fun e => { e with st := .deferred }) s
        if x.start ≤ s.ft then dlyIns 2 (reqHandle s r) (s.ft + 1) s else s
      else beginWork r 0 s
    else
      let s := if e.ttlDue ≤ s.ft then dlyIns 3 (reqHandle s r) e.ttlDue (dlyDel 3 (reqHandle s r) s) else s
      match x.pend with
      | some p => if p.isClose then takeClose r p.posts p.cid (modSide r (fun x => { x with pend := none }) s) else s
      | none => if (chan s e.channel).st = 1 then s else orphan r s
def execPauseComplete (req : Nat) (s : State) := run (.pauseComplete req) s (pauseComplete req s)

/-- A RESUMING request whose pending APPEND rung 2 serves enters READY and leaves it at once (R235, R266): the APPEND is
its open command, already admitted, and its step goes on as one of rung 2. -/
def promoteR2 (r : Nat) (s : State) : State :=
  match (side s r).pend with
  | none => toReady r (modSide r (fun x => { x with r2 := 0 }) s)
  | some p =>
    let x := side s r
    let gone := (stepOf s r).any (fun t => t.issued)
    let s := modSide r (fun x =>
      { freshCmd x with
        pend := none, open_ := .append, trig := p.trig, before := .ready, acked := true, template := p.template
        acceptAt := p.ingress, askPrio := p.askPrio, outcome := 1, rungMax := 2, admitAt := x.r2At, issued := gone, own := p.tokens
        masked := x.masked, cutoff := x.cutoff, r2Toks := x.r2Toks, tokensOut := x.r2Toks.length, firstAt := x.r2Out
        lastAt := x.r2Out, guesses := x.guesses }) s
    armDeadline r (modEnt r (fun e =>
      { clearCmd e with
        st := .prefill, ttlDue := 0, cid := p.cid, prompt := p.tokens, maxNew := p.maxNew, deadline := p.deadline
        ingress := p.ingress, maxRung := bits p.ctrl 1 0, spec := bits p.ctrl 3 2, late := bit p.ctrl 4, prio := p.prio
        rung := 2, admitOfs := min (x.r2At - p.ingress) 65535 }) s)

/-- RESUME_COMPLETE (R265): the pages are in pond on every chip, or the lake returned an uncorrectable error, which
ends the request with code 0x0805. How a member chip reports such an error is not stated: it logs the code. -/
def resumeComplete (r : Nat) (lakeError : Bool) (s : State) : State :=
  let e := ent s r
  if e.st ≠ .resuming ∨ !isOn s dNMC then s
  else if e.shadow then
    if lakeError then logEv 0x0805 e.stall [] s else modEnt r (fun e => { e with st := .ready }) (dropLake r (pondCopy r s))
  else if lakeError then logEv 0x0805 e.stall [] (toClosing r 0x40 0x40 0x12 false s)
  else
    let s := dlyDel 1 (reqHandle s r) (dropLake r (pondCopy r s))
    let s := finishOpen r 0x01 s
    if (side s r).r2 = 2 then promoteR2 r s
    else
      let s := { s with admq := s.admq.filter (fun c => c.isBatch || c.req != r), cc := { s.cc with admq := s.cc.admq.filter (· != r) } }
      toReady r (modSide r (fun x => { x with r2 := 0 }) s)
def execResumeComplete (req : Nat) (lakeError : Bool) (s : State) := run (.resumeComplete req lakeError) s (resumeComplete req lakeError s)

/-! ### Delay-list entries of requests and nodes -/

/-- The request that a delay entry names, when its generation is current. -/
def dueReq (s : State) (d : DlyEntry) : Option Nat :=
  let r := hIdx d.arg.toNat
  if hGen d.arg.toNat = genOf s 2 r ∧ (ent s r).st ≠ .free then some r else none

/-- DEADLINE (R437): a BLOCKED generation that is not exempt ends late, its held records discarded. -/
def deadlineDue (d : DlyEntry) (s : State) : State :=
  match dueReq s d with
  | none => s
  | some r =>
    let e := ent s r
    if e.st = .blocked ∧ !(side s r).exempt then toDraining r (if e.late then 0x31 else 0x30) true true true s else s
def execDeadline (s : State) := run .deadline s (if isOn s dSEQ then fire 1 deadlineDue s else s)

/-- TTL_PAUSE (R264): the conversation of a PAUSED request expires. -/
def ttlDue (d : DlyEntry) (s : State) : State :=
  match dueReq s d with
  | none => s
  | some r =>
    if (ent s r).st = .paused ∧ !(ent s r).expired then
      logEv 0x0801 (ent s r).stall [] (modEnt r (fun e => { e with expired := true }) (dropLake r s))
    else s
def execTtlPause (s : State) := run .ttlPause s (if isOn s dSEQ then fire 3 ttlDue s else s)

/-- TTL_NODE (R255): the node becomes evictable, and eviction runs. -/
def nodeDue (d : DlyEntry) (s : State) : State :=
  let i := bits d.arg.toNat 17 0
  if (node s i).valid ∧ (node s i).refs = 0 then
    evictDue s.pfx.length (modNode i (fun n => { n with evictable := some d.due }) s)
  else s
def execTtlNode (s : State) := run .ttlNode s (if isOn s dSEQ then fire 4 nodeDue s else s)

/-! ### FENCE (R76) -/

/-- A FENCE is taken: it covers every write that the stall has issued, on each stream up to the SEQ last issued. -/
def fenceAct (c : Nat) (e : Sqe) (s : State) : State :=
  modChan c (fun x => { x with fences := x.fences ++ [{ cid := e.cid, upto := s.fab.issues, accepted := s.ft }] }) s
def execFence (ch : Nat) (s : State) := run (.fence ch) s (accept ch opFence (fenceAct ch) s)

/-- The FENCE is reached: on every stream all earlier writes are acknowledged or have faulted. -/
def fenceReached (s : State) (n : Nat) (f : FenceRec) : Bool :=
  (s.fab.srcStreams.filter (fun z => z.1 / 256 == n)).all (fun z => z.2.out.all (fun w => w.faulted || decide (f.upto ≤ w.num)))

/-- The earliest issued of a list of faulted writes. -/
def firstIssued : List (Nat × Nat × W64 × Nat) → Option (Nat × Nat × W64 × Nat)
  | [] => none
  | w :: t => match firstIssued t with
    | some v => if v.1 < w.1 then some v else some w
    | none => some w

/-- FENCE_COMPLETE: the ACK of the oldest FENCE, with the first faulted write of the channel that it covers. -/
def fenceComplete (c : Nat) (s : State) : State :=
  let x := chan s c
  match x.fences with
  | [] => s
  | f :: rest =>
    if !fenceReached s x.stall f then s
    else
      let covers (w : Nat × Nat × W64 × Nat) : Bool := decide (w.1 < f.upto)
      let s := modChan c (fun x => { x with fences := rest, fenceFrom := f.accepted, faulted := x.faulted.filter (fun w => !covers w) }) s
      let q := plainAck s f.cid 0 0
      let q := match firstIssued (x.faulted.filter covers) with
        | some (_, seq, h, stall) =>
          { q with req := hGen h.toNat * 2 ^ 24 + hIdx h.toNat, predict := seq + s.fab.chip * 2 ^ 16 + (stall % 32 + 128) * 2 ^ 24 }
        | none => q
      post c { q with ingress := f.accepted % 2 ^ 48 } s
def execFenceComplete (ch : Nat) (s : State) := run (.fenceComplete ch) s (fenceComplete ch s)

end Sys2Proof.Machine
end

