-- ==== Sys2Proof/Machine/Sampler.lean ====
section
/-! DEFINITION. The sampler: profiles, masks, the arithmetic of R418 to R422, guesses and their verification (R424
to R428), SAMPLE_COMPLETE. -/
namespace Sys2Proof.Machine

/-! ### Binary32 (R419) -/

/-- A finite number: mantissa and exponent of two. -/
abbrev Dyadic := Int × Int

/-- A binary32 word as a number; none for an infinity or a NaN. -/
def f32Of (w : Nat) : Option Dyadic :=
  let e := bits w 30 23
  let f := bits w 22 0
  if e = 255 then none
  else
    let m : Int := if e = 0 then f else f + 2 ^ 23
    some (if bit w 31 then -m else m, (max e 1 : Int) - 150)

/-- A logit. Minus infinity has weight 0 (R418) and is left out; what plus infinity and a NaN do is a free value. (DESIGN CHOICE, log 36) -/
def logitOf (w : Nat) : Option Dyadic :=
  if bits w 30 23 = 255 ∧ w ≠ 0xFF800000 then Config.nonfiniteLogit w else f32Of w

/-- Both numbers over the smaller exponent. -/
def align2 (a b : Dyadic) : Int × Int × Int :=
  let e := min a.2 b.2
  (a.1 * 2 ^ (a.2 - e).toNat, b.1 * 2 ^ (b.2 - e).toNat, e)
/-- Order of numbers. -/
def dLt (a b : Dyadic) : Bool := let x := align2 a b; decide (x.1 < x.2.1)
/-- Equality of numbers. -/
def dEq (a b : Dyadic) : Bool := let x := align2 a b; decide (x.1 = x.2.1)

/-- Round a fraction to a whole number, ties to even. -/
def rneDiv (n d : Nat) : Nat :=
  let q := n / d
  let r := n % d
  if 2 * r < d then q else if d < 2 * r then q + 1 else if q % 2 = 0 then q else q + 1

/-- Round a fraction that is not negative to binary32, nearest with ties to even. -/
def roundF32 (n d : Nat) : Dyadic :=
  if n = 0 then (0, -149)
  else
    let e0 : Int := max (-149) ((Nat.log2 n : Int) - (Nat.log2 d : Int) - 24)
    let sc (e : Int) : Nat × Nat := if 0 ≤ e then (n, d * 2 ^ e.toNat) else (n * 2 ^ (-e).toNat, d)
    let q (e : Int) : Nat := let x := sc e; x.1 / x.2
    let e := if 2 ^ 24 ≤ q e0 then e0 + 1 else e0
    let x := sc e
    (rneDiv x.1 x.2, e)

/-- The rounded difference `a - b` of two numbers with `b ≤ a`. -/
def subF32 (a b : Dyadic) : Dyadic :=
  let x := align2 a b
  let m := (x.1 - x.2.1).toNat
  if 0 ≤ x.2.2 then roundF32 (m * 2 ^ x.2.2.toNat) 1 else roundF32 m (2 ^ (-x.2.2).toNat)

/-- The rounded quotient of a number that is not negative by a positive one. -/
def divF32 (a b : Dyadic) : Dyadic :=
  let x := align2 a b
  roundF32 x.1.toNat x.2.1.toNat

/-- The sum of the first `n` further terms of the exponential series at `y / 2^200`, from term `t` of index `k`. -/
def expTerms (y : Nat) : Nat → Nat → Nat → Nat
  | 0, _, _ => 0
  | n + 1, k, t => t + expTerms y n (k + 1) (t * y / ((k + 1) * 2 ^ 200))

/-- exp(-x) times 2^200 for 0 ≤ x < 32, to far more digits than binary32 rounding needs. -/
def expNeg (x : Dyadic) : Nat :=
  let e := x.2 + 194
  let y := if 0 ≤ e then x.1.toNat * 2 ^ e.toNat else x.1.toNat / 2 ^ (-e).toNat
  let sq (v : Nat) : Nat := v * v / 2 ^ 200
  let a := expTerms y 48 0 (2 ^ 200)
  2 ^ 400 / sq (sq (sq (sq (sq (sq a)))))

/-- The weight of a logit at distance `x` below the largest, in units of the temperature (R418 step 5): 2^24 times
the correctly rounded exponential, rounded. Below exp(-32) it is 0. -/
def weightOf (x : Dyadic) : Nat :=
  if x.1 = 0 then 2 ^ 24
  else if dLt (31, 0) x then 0
  else
    let v := roundF32 (expNeg x) (2 ^ 200)
    let e := v.2 + 24
    if 0 ≤ e then v.1.toNat * 2 ^ e.toNat else rneDiv v.1.toNat (2 ^ (-e).toNat)

/-! ### The generator (R421, R422) -/

/-- gen(SEED, ctr). -/
def genU (seed : W64) (ctr : Nat) : Nat :=
  let round (x : W64) (r : Nat) : W64 :=
    let x := x + seed.rotateLeft (13 * r)
    let x := (x ^^^ (x >>> 29)) * 0xE7D13A59C4826F1D#64
    let x := (x ^^^ (x >>> 32)) * 0x9B41F6E307A5D28F#64
    x ^^^ (x >>> 31)
  let x := seed ^^^ (BitVec.ofNat 64 ctr * 0x8F3A61C92B57E4D1#64)
  ([1, 2, 3, 4].foldl round x >>> 32).toNat

/-! ### Distributions (R418) -/

/-- A token with its logit. -/
abbrev Logit := Nat × Dyadic

/-- Insert by a test that says `a` goes before `b`. -/
def insBy {α : Type} (lt : α → α → Bool) (a : α) : List α → List α
  | [] => [a]
  | b :: t => if lt b a then b :: insBy lt a t else a :: b :: t
/-- Sort by a test. -/
def sortBy {α : Type} (lt : α → α → Bool) (l : List α) : List α := l.foldr (insBy lt) []

/-- Larger logits first, lower ids first among equals. -/
def logitLt (a b : Logit) : Bool := dLt b.2 a.2 || (dEq a.2 b.2 && decide (a.1 < b.1))
/-- The largest logit's token, the lowest id on a tie (R418 step 2). -/
def greedyOf (l : List Logit) : Option Nat :=
  (l.foldl (fun acc x => match acc with
    | none => some x
    | some b => if logitLt x b then some x else some b) (none : Option Logit)).map Prod.fst

/-- The temperature of a profile as a number: bf16. -/
def tempOf (p : Profile) : Dyadic := if p.sampled then (f32Of (p.temp * 65536)).getD (1, 0) else (1, 0)

/-- Weights of logits at a temperature, those of weight 0 dropped (steps 4 and 5). -/
def weights (t : Dyadic) (l : List Logit) : List (Nat × Nat) :=
  match (sortBy logitLt l).head? with
  | none => []
  | some m => (l.map (fun x => (x.1, weightOf (divF32 (subF32 m.2 x.2) t)))).filter (fun x => x.2 != 0)

/-- Sum of weights. -/
def total (l : List (Nat × Nat)) : Nat := (l.map Prod.snd).sum

/-- The shortest leading run that reaches the fraction (step 6). -/
def leadRun (p W : Nat) : Nat → List (Nat × Nat) → List (Nat × Nat)
  | _, [] => []
  | sum, x :: t => if p * W ≤ 65536 * (sum + x.2) then [x] else x :: leadRun p W (sum + x.2) t

/-- Ascending ids. -/
def byId (l : List (Nat × Nat)) : List (Nat × Nat) := sortBy (fun a b => decide (a.1 < b.1)) l

/-- The weights that a sampled profile draws from, in ascending id order (steps 3 to 6). -/
def distOf (p : Profile) (l : List Logit) : List (Nat × Nat) :=
  let kept := if p.topK = 0 then l else (sortBy logitLt l).take p.topK
  let w := weights (tempOf p) kept
  let w := if p.topP = 0 then w
    else leadRun p.topP (total w) 0 (sortBy (fun a b => decide (b.2 < a.2) || (a.2 == b.2 && decide (a.1 < b.1))) w)
  byId w

/-- The first token whose running weight sum exceeds `t`. -/
def pickAt (t : Nat) : Nat → List (Nat × Nat) → Nat
  | _, [] => 0
  | sum, x :: r => if t < sum + x.2 then x.1 else pickAt t (sum + x.2) r
/-- Draw (step 7). -/
def draw (u : Nat) (l : List (Nat × Nat)) : Nat := pickAt (u * total l / 2 ^ 32) 0 l

/-- The sum of `n` further terms of the series of 2·artanh at `z / 2^200` whose square is `q / 2^200`, from `z` at index `k`. -/
def lnTerms (q : Nat) : Nat → Nat → Nat → Nat
  | 0, _, _ => 0
  | n + 1, k, z => 2 * z / (2 * k + 1) + lnTerms q n (k + 1) (z * q / 2 ^ 200)

/-- The natural logarithm of `n / d` times 2^200, for 1 ≤ n / d ≤ 2. -/
def lnFix (n d : Nat) : Nat :=
  let z := (n - d) * 2 ^ 200 / (n + d)
  lnTerms (z * z / 2 ^ 200) 64 0 z

/-- `-ln p` for a probability `p`, rounded to binary32. -/
def negLn (p : Dyadic) : Dyadic :=
  let m := p.1.toNat
  let b := Nat.log2 m
  roundF32 ((-(p.2 + b)).toNat * lnFix 2 1 - lnFix m (2 ^ b)) (2 ^ 200)

/-- The fp16 word of `-v`, nearest with ties to even. -/
def negFp16 (v : Dyadic) : BitVec 16 :=
  let n := v.1.toNat
  let t : Int := v.2 + Nat.log2 n            -- exponent of the leading bit
  let e : Int := max t (-14)
  let s : Int := v.2 - (e - 10)              -- the mantissa counts units of 2^(e - 10)
  let q := if 0 ≤ s then n * 2 ^ s.toNat else rneDiv n (2 ^ (-s).toNat)
  if n = 0 then 0 else BitVec.ofNat 16 (32768 + (e + 14).toNat * 1024 + q)

/-- The fp16 natural logarithm of `w / W`, by way of binary32 (R420). (DEDUCED, log 37) -/
def logprob16 (w W : Nat) : BitVec 16 := if w = 0 then Config.logprobZero W else negFp16 (negLn (roundF32 w W))

/-- The log-probability of a token (R420): without top-k and top-p. -/
def logprobOf (p : Profile) (l : List Logit) (tok : Nat) : BitVec 16 :=
  let w := weights (tempOf p) l
  logprob16 (((w.find? (fun x => x.1 == tok)).map Prod.snd).getD 0) (total w)

/-! ### Masks (R411 to R416) -/

/-- A mask id. -/
def mask (s : State) (m : Nat) : Mask := look s.masks m {}
/-- Change a mask id. -/
def modMask (m : Nat) (f : Mask → Mask) (s : State) : State := upd s.masks m {} f |> fun x => { s with masks := x }

/-- The page in force for a step issued at `t` (R412). -/
def maskPage (s : State) (m t : Nat) : Option Nat :=
  let x := mask s m
  if decide (t < x.first) then none
  else ((x.old.find? (fun o => decide (t < o.2))).map Prod.fst).or x.page

/-- What a generation index is masked by: 0xFFFF for every token. -/
def maskId (p : Profile) (index : Nat) : Nat := if p.maskEn then p.masks.getD (min index 3) 0xFFFF else 0xFFFF
/-- The mask is usable for a row of a stall (R416). -/
def maskGood (s : State) (m stall t : Nat) : Bool := m == 0xFFFF || ((mask s m).stall == stall && (maskPage s m t).isSome)
/-- The tokens that a mask allows (R414, R416). -/
def allowed (s : State) (p : Profile) (index stall t vocab tok : Nat) : Bool :=
  let m := maskId p index
  decide (tok < vocab) &&
    (m == 0xFFFF || (maskGood s m stall t && (match maskPage s m t with
      | some g => (look s.pond (8192 * g + tok / 8) 0).getLsbD (tok % 8)
      | none => false)))

/-! ### Sampling a row -/

/-- What a row's sampling needs. -/
structure SampIn where
  seed : W64
  prof : Profile
  stall : Nat
  vocab : Nat
  eos : Nat
  /-- ISSUE of the step -/
  issue : Nat
  /-- generation index and conversation position of the first token to settle -/
  index : Nat
  pos : Nat
  maxNew : Nat
  depth : Nat
  prev : List Guess
  heads : List HeadOut

/-- What it gives. -/
structure SampOut where
  toks : List Tok := []
  guesses : List Guess := []
  empty : Bool := false
  rejected : Nat := 0
  /-- replacements taken greedily because the residual held no weight -/
  greedy : Nat := 0
  /-- generation indexes whose masks were used -/
  used : List Nat := []

/-- The logits of a head that the mask at an index allows; a logit that is not a number is left out. -/
def logitsOf (s : State) (i : SampIn) (head index : Nat) : List Logit :=
  match i.heads.find? (fun h => h.head == head) with
  | none => []
  | some h => h.logits.filterMap (fun x =>
      if allowed s i.prof index i.stall i.issue i.vocab x.1 then (logitOf x.2.toNat).map (fun d => (x.1, d)) else none)

/-- A token ends the generation (R427). -/
def isStop (i : SampIn) (t : Nat) : Bool := t == i.eos || (i.prof.stops.contains t && t != 0xFFFF)

/-- Choose a token from logits at a position, with a kind of draw. -/
def choose (i : SampIn) (l : List Logit) (pos kind : Nat) : Nat :=
  if i.prof.sampled then draw (genU i.seed (16 * pos + kind)) (distOf i.prof l) else (greedyOf l).getD 0

/-- The guesses of the speculative heads after the position of generation index `index` (R424): none at MAX_NEW or
beyond, and none from the first position that allows no token (R417). -/
def makeGuesses (s : State) (i : SampIn) (index pos : Nat) : Nat → Nat → List Guess
  | 0, _ => []
  | n + 1, j =>
    let l := logitsOf s i j (index + j)
    if i.maxNew ≤ index + j ∨ l.isEmpty then []
    else
      let t := choose i l (pos + j) 1
      let d := if i.prof.sampled then distOf i.prof l else []
      { token := t, weights := d, total := total d, logprob := logprobOf i.prof l t, rung := 0, depth := i.depth, ft := s.ft }
        :: makeGuesses s i index pos n (j + 1)

/-- A guess is accepted under P (R425). -/
def accepts (i : SampIn) (g : Guess) (l : List Logit) (pos : Nat) : Bool :=
  if i.prof.sampled then
    let P := distOf i.prof l
    let wP := ((P.find? (fun x => x.1 == g.token)).map Prod.snd).getD 0
    let wq := ((g.weights.find? (fun x => x.1 == g.token)).map Prod.snd).getD 0
    decide (genU i.seed (16 * pos + 2) * wq * total P < 2 ^ 32 * wP * g.total)
  else greedyOf l == some g.token

/-- The replacement of a rejected guess (R426): the token, and whether the residual was empty. -/
def replacement (i : SampIn) (g : Guess) (l : List Logit) (pos : Nat) : Nat × Bool :=
  if i.prof.sampled then
    let P := distOf i.prof l
    let wq (t : Nat) : Nat := ((g.weights.find? (fun x => x.1 == t)).map Prod.snd).getD 0
    let res := (P.map (fun x => (x.1, x.2 * g.total - wq x.1 * total P))).filter (fun x => x.2 != 0)
    if res.isEmpty then ((greedyOf l).getD 0, true) else (draw (genU i.seed (16 * pos + 3)) res, false)
  else ((greedyOf l).getD 0, false)

/-- The main head's token and the guesses after it, once every earlier guess stands. -/
def mainToken (s : State) (i : SampIn) (index pos : Nat) (out : SampOut) : SampOut :=
  if i.maxNew ≤ index then out
  else
    let l := logitsOf s i 0 index
    let out := { out with used := out.used ++ [index] }
    if l.isEmpty then { out with empty := true }
    else
      let t := choose i l pos 0
      let gs := makeGuesses s i index pos i.depth 1
      let tried := ((List.range (gs.length + 1)).map (index + 1 + ·)).filter (· < i.maxNew)
      let k : Tok := ⟨t, false, logprobOf i.prof l t⟩
      let out : SampOut := { out with toks := out.toks ++ [k], used := out.used ++ tried }
      if isStop i t then { out with rejected := out.rejected + gs.length } else { out with guesses := gs }

/-- Verify the guesses of the step before, in ascending position, then go on (R425 to R427). -/
def verify (s : State) (i : SampIn) : List Guess → Nat → Nat → SampOut → SampOut
  | [], k, _, out => mainToken s i (i.index + k) (i.pos + k) out
  | g :: rest, k, made, out =>
    let l := logitsOf s i (4 + k) (i.index + k)
    let out := { out with used := out.used ++ [i.index + k] }
    let pos := i.pos + k
    if accepts i g l pos then
      let out := { out with toks := out.toks ++ [⟨g.token, true, g.logprob⟩] }
      if isStop i g.token then { out with rejected := out.rejected + rest.length + made } else verify s i rest (k + 1) made out
    else
      let r := replacement i g l pos
      { out with toks := out.toks ++ (if l.isEmpty then [] else [⟨r.1, false, logprobOf i.prof l r.1⟩])
                 rejected := out.rejected + 1 + rest.length + made, greedy := out.greedy + b2n r.2 }

/-- Sample a row. -/
def sampleRow (s : State) (i : SampIn) : SampOut :=
  let k := i.prev.length
  let made := if i.prev.isEmpty ∨ i.maxNew ≤ i.index + k then 0 else (makeGuesses s i (i.index + k) (i.pos + k) i.depth 1).length
  verify s i i.prev 0 made {}

/-! ### SAMPLE_COMPLETE -/

/-- SMP counters at 0x20: empty, lane miss, block over, profile miss, accepted, rejected, bad masks. -/
abbrev rSmp (i : Nat) : Nat := 0x00160020 + 4 * i

/-- Position of this chip in an aisle. -/
def myPos (s : State) (a : Nat) : Nat := (chain s a).findIdx (fun m => m.1 == s.fab.chip)

/-- This chip samples a row of a rung (R408). -/
def samplesHere (s : State) (a : Nat) (t : Step) (rung : Nat) : Bool :=
  let p := myPos s a
  if rung = 2 ∨ (chain s a).length ≤ 1 then isHead s a
  else if rung = 1 then p == (cost s t.model).exitPos || (!isHead s a && decide (p < lastPos s a))
  else p == lastPos s a

/-- Sampling of a generation whose own entry is here: its profile, seed, index and position. -/
def ownIn (s : State) (t : Step) (w : Row) (o : RowOut) : SampIn :=
  let e := ent s w.req
  let x := side s w.req
  let m := model s t.model
  let r2 := x.r2 == 2
  let p := x.pend.getD { isClose := false }
  let p0 := x.guesses
  let mainIdx := if r2 then 0 else e.genLen
  { seed := e.seed, prof := profile s e.model e.profile, stall := e.stall, vocab := m.vocab, eos := m.eos, issue := t.issue
    index := mainIdx, pos := if w.rung = 2 then e.committed + (if e.st = .decode then 0 else w.prompt.length + x.kept.length) else w.committed + (if e.st = .prefill then w.prompt.length else 0)
    maxNew := if r2 then p.maxNew else e.maxNew, depth := w.spec, prev := if w.rung = 2 then [] else p0, heads := o.heads }

/-- Sampling on a member chip, which knows of the row what the command says. -/
def farIn (s : State) (t : Step) (w : Row) (o : RowOut) : SampIn :=
  let x := side s w.req
  let m := model s t.model
  let k := o.known
  { seed := k.seed, prof := profile s t.model k.profile, stall := (ent s w.req).stall, vocab := m.vocab, eos := m.eos
    issue := t.issue, index := k.index, pos := w.committed + (if k.index = 0 then w.new else 0)
    maxNew := k.maxNew, depth := w.spec, prev := x.guesses, heads := o.heads }

/-- Count what sampling a row used: bad masks with code 0x0F03, masks over MAX_BLOCKS, empties (R415 to R417, R428). -/
def countRow (i : SampIn) (o : SampOut) (s : State) : State :=
  let ids := ((o.used.map (maskId i.prof)).filter (· != 0xFFFF)).dedup
  let s := forEach (ids.filter (fun m => !maskGood s m i.stall i.issue)) (fun m s => bumpSat (rSmp 6) (logEv 0x0F03 i.stall [m, i.stall] s)) s
  let s := forEach (List.range (o.greedy + b2n (o.empty && i.index == 0))) (fun _ => bumpSat (rSmp 0)) s
  let acc := (o.toks.filter Tok.accepted).length
  wr (rSmp 5) (sat32 (rd s (rSmp 5) + o.rejected)) (wr (rSmp 4) (sat32 (rd s (rSmp 4) + acc)) s)

/-- A mask of the row has more surviving blocks than the profile's MAX_BLOCKS (R415). -/
def overBlocks (s : State) (i : SampIn) (o : SampOut) : Bool :=
  o.used.any (fun n => let m := maskId i.prof n; m != 0xFFFF && maskGood s m i.stall i.issue && decide (i.prof.maxBlocks < (mask s m).blocks))

/-- The sampling of a row that a promoted APPEND joined (R239): the old generation's last token is settled at head 4,
then the new generation begins when all its tokens are in. -/
def joinedOut (s : State) (t : Step) (w : Row) (o : RowOut) : SampOut × SampOut :=
  let i := ownIn s t w o
  let a : SampOut :=
    match i.prev with
    | g :: _ =>
      let l := logitsOf s i 4 i.index
      if accepts i g l i.pos then { toks := [⟨g.token, true, g.logprob⟩], used := [i.index], rejected := i.prev.length - 1 }
      else { toks := [⟨(replacement i g l i.pos).1, false, logprobOf i.prof l (replacement i g l i.pos).1⟩], used := [i.index]
             rejected := i.prev.length, greedy := b2n (replacement i g l i.pos).2 }
    | [] =>
      let l := logitsOf s i 4 i.index
      if l.isEmpty then { empty := true, used := [i.index] }
      else { toks := [⟨choose i l i.pos 0, false, logprobOf i.prof l (choose i l i.pos 0)⟩], used := [i.index] }
  let p := ((side s w.req).pend).getD { isClose := false }
  let b : SampOut :=
    if w.joined = p.tokens.length then
      mainToken s { i with index := 0, pos := i.pos + 1 + w.joined, maxNew := p.maxNew, prev := [] } 0 (i.pos + 1 + w.joined) {}
    else {}
  (a, b)

/-- A row sampled: what stands, its guesses, whether a mask was over MAX_BLOCKS, the counters. -/
def sampleOne (t : Step) (w : Row) (o : RowOut) (s : State) : Row × Bool × State :=
  if w.joined ≠ 0 then
    let i := ownIn s t w o
    let r := joinedOut s t w o
    let s' := countRow i r.2 (countRow i r.1 s)
    ({ w with out := some { req := w.req, empty := r.1.empty, ended := r.1.toks, toks := r.2.toks, guesses := r.2.guesses.map Guess.token, rejected := r.1.rejected + r.2.rejected }
              guesses := r.2.guesses }, overBlocks s i r.1 || overBlocks s i r.2, s')
  else
    let i := if (ent s w.req).shadow then farIn s t w o else ownIn s t w o
    let r := sampleRow s i
    ({ w with out := some { req := w.req, empty := r.empty, toks := r.toks, guesses := r.guesses.map Guess.token, rejected := r.rejected }
              guesses := r.guesses }, overBlocks s i r, countRow i r s)

/-- Sample the live rows of a step that this chip samples. -/
def sampleRows (a : Nat) (t : Step) (os : List RowOut) : List Row → State → List Row × Bool × State
  | [], s => ([], false, s)
  | w :: rest, s =>
    let key := if (ent s w.req).shadow then hIdx (ent s w.req).seed.toNat else w.req
    let r := match os.find? (fun o => o.req == key) with
      | some o => if w.live && w.samples && samplesHere s a t w.rung && w.out.isNone then sampleOne t w o s else (w, false, s)
      | none => (w, false, s)
    let k := sampleRows a t os rest r.2.2
    (r.1 :: k.1, r.2.1 || k.2.1, k.2.2)

/-- Pages whose COMMIT replaced them go back once every step issued before it has been sampled here (R412). -/
def reapMasks (s : State) : State :=
  forEach s.masks (fun m s =>
    let busy (ft : Nat) : Bool := s.steps.any (fun t => decide (t.issue < ft) && decide (t.phase < 2))
    let gone := m.2.old.filter (fun o => !busy o.2)
    let s := forEach gone (fun o => freePage o.1) s
    let keep := m.2.old.filter (fun o => busy o.2)
    if m.2.releasing && keep.isEmpty then { s with masks := del s.masks m.1 } else modMask m.1 (fun x => { x with old := keep }) s) s

/-- The 16-byte records of a row's tokens and of the guesses after them, which the order frame needs (R18, R28), as a
member sends them to the head chip, PHASE 0. How they are laid out on the fabric is not stated. (DESIGN CHOICE, log 38) -/
def sendTokens (w : Row) (s : State) : State :=
  match w.out with
  | none => s
  | some o =>
    let h := (ent s w.req).seed.toNat
    let head := hChip h
    let at_ (i tok : Nat) (acc : Bool) (lp : BitVec 16) : TokRec :=
      { token := w32 tok, position := w.committed + w.new + i, specAcc := acc, logprob := lp, rung := w.rung, depth := w.spec, ft := s.ft }
    let ts := o.toks.zipIdx.map (fun x => at_ x.2 x.1.token x.1.accepted x.1.logprob)
    let gs := w.guesses.zipIdx.map (fun x => at_ (o.toks.length + x.2) x.1.token false x.1.logprob)
    let f := fresh s
    issuePW (ent s w.req).stall head 2 (hGen h) (hIdx h) (f.1 % 2 ^ 21) [] false (((ts ++ gs).map (recBytes false)).flatten) (modSide w.req (fun x => { x with guesses := w.guesses }) f.2)

/-- No work item of a step is still to run here. -/
def itemsDone (s : State) (a n : Nat) : Bool :=
  !(s.wks.pool.any (fun p => p.2.aisle == a && p.2.step == n && !p.2.loose && p.2.st != .retained && p.2.st != .free))
    && !s.wks.waiting.any (fun w => w.1 == a && w.2.1 == n)

/-- FT that the sampler takes over a step (R410). -/
def samplerFt (s : State) (t : Step) : Nat :=
  32 + 32 * (t.rows.map Row.spec).foldl max 0 / 5 + 8 * cdiv ((model s t.model).vocab - 16384) 16384

/-- SAMPLE_COMPLETE: the sampler's output for the rows of a step that this chip samples, R410's time after its heads are
done (R408 to R428). A step whose data derives from poisoned units gives no token (R75). -/
def sampleComplete (a n : Nat) (os : List RowOut) (s : State) : State :=
  match s.steps.find? (fun t => t.aisle == a && t.num == n) with
  | none => s
  | some t =>
    if t.phase ≠ 1 ∨ !isOn s dSEQ ∨ !t.doneAt.any (fun d => decide (d + samplerFt s t ≤ s.ft)) then s
    else
      let r := if t.tainted then (t.rows.map (fun w => { w with live := w.live && !(w.samples && samplesHere s a t w.rung) }), false, s)
        else sampleRows a t os t.rows s
      let s := when_ r.2.1 (bumpSat (rSmp 2)) r.2.2
      let s := modStep a n (fun t => { t with rows := r.1, sampledAt := s.ft, phase := 2 }) s
      let s := if isHead s a then s else forEach r.1 sendTokens s
      reapMasks s
def execSampleComplete (aisle step : Nat) (rows : List RowOut) (s : State) :=
  run (.sampleComplete aisle step rows) s (sampleComplete aisle step rows s)

/-! ### Mask commands (R411, R412) -/

/-- STAGE: status and page. -/
def stageMask (m stall : Nat) (s : State) : Nat × Nat × State :=
  let x := mask s m
  if (x.page.isSome ∨ x.staged.isSome) ∧ x.stall ≠ stall then (3, 0, s)
  else if x.releasing ∨ x.staged.isSome then (4, 0, s)
  else if !spare s stall 1 then (1, 0, s)
  else match allocPage stall s with
    | (some p, s) => (0, p, modMask m (fun x => { x with stall := stall, staged := some p }) s)
    | (none, s) => (1, 0, s)

/-- Blocks of 256 tokens with an allowed one in a page. -/
def blocksOf (s : State) (p : Nat) : Nat :=
  ((List.range 256).filter (fun b => s.pond.any (fun x => decide (8192 * p + 32 * b ≤ x.1) && decide (x.1 < 8192 * p + 32 * b + 32)))).length

/-- COMMIT at this FT: status. -/
def commitMask (m stall : Nat) (s : State) : Nat × State :=
  let x := mask s m
  match x.staged with
  | none => (2, s)
  | some p =>
    if x.stall ≠ stall then (3, s)
    else
      let b := blocksOf s p
      (0, reapMasks (modMask m (fun x => { x with staged := none, page := some p, blocks := b
                                                  first := if x.page.isSome then x.first else s.ft
                                                  old := match x.page with | some q => x.old ++ [(q, s.ft)] | none => x.old }) s))

/-- The selected id and owner stall. -/
def maskSel (s : State) : Nat × Nat := (rdf s 0x00160004 9 0, rdf s 0x00160004 14 10)
/-- SMP_MASK_INFO.STATUS. -/
def maskStatus (st : Nat) (s : State) : State := wrf 0x0016000C 16 14 st s

/-- SMP_MASK_CMD with OP STAGE. (DESIGN CHOICE, log 43) -/
def maskStage (s : State) : State :=
  let r := stageMask (maskSel s).1 (maskSel s).2 s
  maskStatus r.1 (wrf 0x0016000C 13 0 r.2.1 r.2.2)
def execMaskStage (s : State) := run .maskStage s (maskStage s)

/-- SMP_MASK_CMD with OP COMMIT. -/
def maskCommit (s : State) : State := let r := commitMask (maskSel s).1 (maskSel s).2 s; maskStatus r.1 r.2
def execMaskCommit (s : State) := run .maskCommit s (maskCommit s)

/-- SMP_MASK_CMD with OP RELEASE: the id and its pages are freed once R412 allows. -/
def maskRelease (s : State) : State :=
  let m := (maskSel s).1
  let x := mask s m
  if (x.page.isSome ∨ x.staged.isSome) ∧ x.stall ≠ (maskSel s).2 then maskStatus 3 s
  else
    let s := match x.staged with | some p => freePage p s | none => s
    let s := modMask m (fun x => { x with staged := none, page := none, releasing := x.page.isSome || !x.old.isEmpty
                                          old := match x.page with | some q => x.old ++ [(q, s.ft)] | none => x.old }) s
    maskStatus 0 (reapMasks s)
def execMaskRelease (s : State) := run .maskRelease s (maskRelease s)

/-! ### Rings (R431 to R439) -/

/-- RING_RESULT.CODE. -/
def ringCode (n code : Nat) (s : State) : State := wrf (win n 0x104) 2 0 code s

/-- RING_CMD CREATE. (DESIGN CHOICE, log 82) -/
def ringCreate (n : Nat) (src : Src) (s : State) : State :=
  let cfg := rd s (win n 0x118)
  let k := bits cfg 3 0
  let pond := bit cfg 4
  let base := rd64 s (win n 0x110)
  let byVf := match src with | .vf _ => true | _ => false
  if k < 4 ∨ 12 < k ∨ bits cfg 12 11 = 3 ∨ (pond && byVf) ∨ (!pond && base % min (16 * 2 ^ k) 4096 != 0) then ringCode n 2 s
  else if (stallCfg s n).rings ≤ (s.rings.filter (fun g => g.2.stall == n && g.2.st != 0)).length then ringCode n 1 s
  else match lowest 8192 (fun i => (ring s i).st == 0) with
    | none => ringCode n 1 s
    | some i =>
      let pages := cdiv (16 * 2 ^ k) 8192
      match (if pond then (if spare s n pages then findRun s n pages else none).map (8192 * ·) else some base) with
      | none => ringCode n 5 s
      | some b =>
        let s := if pond then wr64 (win n 0x110) b (forEach (List.range pages) (fun j => takePage n (b / 8192 + j)) s) else s
        let s := modRing i (fun _ => { st := 1, stall := n, src := src, base := BitVec.ofNat 64 b, k := k, pond := pond
                                       vec := bits cfg 10 5, notify := bits cfg 12 11, phase := true }) s
        wr64 (win n 0x108) (ringHandle s i) (ringCode n 0 s)
def execRingCreate (stall : Nat) (src : Src) (s : State) := run (.ringCreate stall src) s (ringCreate stall src s)

/-- RING_CMD DESTROY. -/
def ringDestroy (n i : Nat) (s : State) : State :=
  let g := ring s i
  if g.st = 0 ∨ g.stall ≠ n then ringCode n 3 s
  else if g.req.isSome then ringCode n 4 s
  else
    let s := if g.pond then forEach (List.range (cdiv (16 * 2 ^ g.k) 8192)) (fun j => freePage (g.base.toNat / 8192 + j)) s else s
    ringCode n 0 (bumpGen 3 i { s with rings := del s.rings i })
def execRingDestroy (stall idx : Nat) (s : State) := run (.ringDestroy stall idx) s (ringDestroy stall idx s)

/-- Write held records while the reserve of 5 slots stays free (R435). -/
def writeHeld (r i : Nat) : Nat → State → State
  | 0, s => s
  | n + 1, s =>
    match (side s r).heldRecs with
    | [] => s
    | t :: rest =>
      if ringFree (ring s i) < 6 then s
      else writeHeld r i n (modSide r (fun x => { x with heldRecs := rest }) (recWrite r t s))

/-- RING_DB (R434, R435, R276): records are returned; held ones follow unless a DEADLINE came first. -/
def ringDb (n : Nat) (v : Word) (s : State) : State :=
  let i := bits v.toNat 12 0
  let h := bits v.toNat 24 13
  let g := ring s i
  if g.st = 0 ∨ g.stall ≠ n then s
  else
    let d := 2 ^ g.k
    let head := (g.tail + d - g.unread) % d
    let k := (h + d - head) % d
    if d ≤ h ∨ g.unread < k then logEv 0x0F05 n [] (setBit (win n 0x12C) 0 s)
    else
      let s := wakeAll 2 (dSEQ :: clustersOf (stallCfg s n) ++ halvesOf s n) (modRing i (fun g => { g with unread := g.unread - k }) s)
      match g.req with
      | none => s
      | some r =>
        let e := ent s r
        let first := e.st == .blocked && !(side s r).exempt && e.deadline.any (fun d => decide (d < s.ft))
        if first then s
        else
          let s := writeHeld r i 4 s
          if (ent s r).st = .blocked ∧ (side s r).heldRecs.isEmpty then modEnt r (fun e => { e with st := .decode }) s else s
def execRingDb (stall : Nat) (value : Word) (s : State) := run (.ringDb stall value) s (ringDb stall value s)

/-- A ring write fails on PCI Express (R438, R509). -/
def ringFail (i : Nat) (s : State) : State :=
  let g := ring s i
  if g.st ≠ 1 ∧ g.st ≠ 2 then s
  else
    let s := logEv 0x0F04 g.stall [i] (setBit (win g.stall 0x12C) 1 (modRing i (fun g => { g with st := 3 }) (dmaFail g.src s)))
    match g.req with
    | some r => toClosing r 0x40 0x40 0x12 false (maskReq r 3 s)
    | none => s
def execRingDmaFail (ring : Nat) (s : State) := run (.ringDmaFail ring) s (ringFail ring s)

end Sys2Proof.Machine
end

