-- ==== Sys2Proof/Machine/Egress.lean ====
section
/-! DEFINITION. Egress (R493 to R504): templates and the egress map, patching, sequence leases, the port queues, host
frames and PTP time. -/
namespace Sys2Proof.Machine

/-! ### Ports -/

/-- A register of port `p`'s block. -/
abbrev rPort (p o : Nat) : Nat := 0x000A0200 + 0x100 * p + o
/-- Count in one of a port's counters: 0 received, 1 FCSERR, 2 OVERSIZE, 3 RXDROP, 4 template frames, 5 host frames,
6 suppressions, 7 QFULL, 8 pause. -/
def portCount (p i : Nat) (s : State) : State := bumpSat (rPort p (0x10 + 4 * i)) s
/-- A port. -/
def port (s : State) (p : Nat) : Port := look s.spg.ports p {}
/-- Change a port. -/
def modPort (p : Nat) (f : Port → Port) (s : State) : State := modSpg (fun g => { g with ports := upd g.ports p {} f }) s
/-- The port runs at 10GBASE-R. -/
def slowPort (s : State) (p : Nat) : Bool := bit (rd s (rPort p 0)) 0
/-- The FEC in force (R476). -/
def fecOf (s : State) (p : Nat) : Nat :=
  let f := rdf s (rPort p 0) 2 1
  if f = 3 ∨ (f = 1 ∧ slowPort s p) then 0 else f
/-- ⌈b·n⌉ (R475): b is 0.512 or 1.28. -/
def byteFt (s : State) (p n : Nat) : Nat := cdiv (n * (if slowPort s p then 1280 else 512)) 1000
/-- Receive delay of FEC (R476). -/
def fecRx (s : State) (p : Nat) : Nat := match fecOf s p with | 1 => 96 | 2 => 64 | _ => 0
/-- Transmit delay of FEC (R476). -/
def fecTx (s : State) (p : Nat) : Nat := match fecOf s p with | 1 => 48 | 2 => 16 | _ => 0

/-- The link of an Ethernet port comes up or goes down (R576). -/
def execPortLinkChange (port : Nat) (up : Bool) (s : State) :=
  run (.portLinkChange port up) s (modPort port (fun q => { q with link := up }) s)

/-! ### PTP time (R478 to R480) -/

/-- PTP time of an FT, in whole nanoseconds. -/
def ptpOf (m : PtpMap) (ft : Nat) : Nat :=
  let base : Int := ((m.sec * 1000000000 + m.ns : Nat) : Int) * (2 ^ 43 : Nat)
  let d : Int := ((ft : Int) - m.ft) * 5 * ((2 ^ 40 : Nat) + m.adj)
  ((base + d) / (2 ^ 43 : Nat)).toNat

/-- The mapping staged in the PTP registers. -/
def ptpStaged (s : State) : PtpMap :=
  { ft := rd64 s 0x000A0100, sec := rd s 0x000A0108 + rdf s 0x000A010C 15 0 * 2 ^ 32, ns := rd s 0x000A0110
    adj := sint 32 (rd s 0x000A0114) }

/-- A staged mapping comes into force at its FT, or at once when that has passed. -/
def ptpActivate (s : State) : State :=
  match s.spg.ptpNext with
  | some m => if m.ft ≤ s.ft then modSpg (fun g => { g with ptp := m, ptpNext := none }) s else s
  | none => s
/-- The mapping in force at this FT. -/
def ptpNow (s : State) : PtpMap := (s.spg.ptpNext.filter (fun m => decide (m.ft ≤ s.ft))).getD s.spg.ptp
def execPtpMappingActivate (s : State) := run .ptpMappingActivate s (ptpActivate s)
/-- PTP_CMD with LOAD. -/
def execPtpCmdLoad (s : State) :=
  run .ptpCmdLoad s (ptpActivate (modSpg (fun g => { g with ptpNext := some (ptpStaged s) }) s))

/-! ### Checksums (R496) -/

/-- Put bytes in a frame from an offset, none beyond its end. -/
def overlay (f : Bytes) (k : Nat) (b : Bytes) : Bytes :=
  f.zipIdx.map (fun x => if k ≤ x.2 ∧ x.2 < k + b.length then b.getD (x.2 - k) 0 else x.1)
/-- The ones-complement of a sum of 16-bit words. -/
def csum (n : Nat) : Nat := 65535 - onesFold n
/-- A 16-bit field in network order. -/
def net16 (f : Bytes) (k : Nat) : Nat := beNat (slice f k 2)

/-- The bytes from the L4 header to the end of the IPv4 datagram, or of the frame when its length is 0 or beyond it. -/
def segEnd (t : Tmpl) (f : Bytes) : Nat :=
  let tl := net16 f (t.l3 + 2)
  if t.l3 = 0 ∨ tl = 0 ∨ f.length < t.l3 + tl then f.length else t.l3 + tl
/-- The L4 segment. -/
def segment (t : Tmpl) (f : Bytes) : Bytes := (f.take (segEnd t f)).drop t.l4
/-- TCP payload length: the segment less its header. -/
def tcpPayload (t : Tmpl) (f : Bytes) : Nat :=
  (segment t f).length - 4 * bits (u8 f (t.l4 + 12)) 7 4
/-- The sum of the pseudo header. -/
def pseudoSum (t : Tmpl) (f : Bytes) (proto : Nat) : Nat :=
  sum16 (slice f (t.l3 + 12) 8) + proto + (segment t f).length

/-- The IPv4 header checksum, when L3 is not 0. -/
def ipChecksum (t : Tmpl) (f : Bytes) : Bytes :=
  if t.l3 = 0 then f
  else
    let f := overlay f (t.l3 + 10) (zeros 2)
    overlay f (t.l3 + 10) (beBytes 2 (csum (sum16 (slice f t.l3 (4 * bits (u8 f t.l3) 3 0)))))

/-- The TCP checksum, or the UDP checksum with UDP_CSUM. With no IPv4 header there is no pseudo header, and the value
is not stated: a free value. -/
def l4Checksum (t : Tmpl) (f : Bytes) (free : Nat) : Bytes :=
  let ofs := t.l4 + (if t.kind = 2 then 16 else 6)
  if t.l4 = 0 ∨ !(t.kind == 2 || (t.kind == 1 && t.udpCsum)) then f
  else
    let f := overlay f ofs (zeros 2)
    let v := if t.l3 = 0 then free % 65536 else csum (pseudoSum t f (if t.kind = 2 then 6 else 17) + sum16 (segment t f))
    overlay f ofs (beBytes 2 (if t.kind = 1 ∧ v = 0 then 65535 else v))

/-! ### Templates, map, loads (R494, R495) -/

/-- A loaded template. -/
def tmpl (s : State) (n : Nat) : Tmpl := look s.spg.tmpls n {}

/-- Read the 336 bytes of a template. (DESIGN CHOICE, log 56) -/
def tmplOf (b : Bytes) : Tmpl :=
  let fl := u8 b 6
  let patch (i : Nat) : Patch := ⟨u8 b (16 + 8 * i), u8 b (17 + 8 * i), u16 b (18 + 8 * i), u16 b (20 + 8 * i)⟩
  { loaded := true, port := u8 b 2, l3 := u8 b 4, l4 := u8 b 5, kind := bits fl 1 0, ipidInc := bit fl 2
    requireAll := bit fl 3, udpCsum := bit fl 4, lease := u8 b 7, patches := (List.range (u8 b 3)).map patch
    frame := (b.drop 80).take (u16 b 0) }

/-- R495's checks of a template. -/
def tmplBad (b : Bytes) : Bool :=
  let t := tmplOf b
  let n := u16 b 0
  decide (n < 60) || decide (256 < n) || decide (1 < t.port) || decide (8 < u8 b 3)
    || !(decide (t.lease < 64) || t.lease == 0xFF)
    || t.patches.any (fun p => decide (3 < p.pos) || decide (p.width < 1) || decide (8 < p.width) || decide (n < p.ofs + p.width))
    || t.kind == 3 || (t.kind == 2 && t.lease == 0xFF)

/-- EGR_LD_STAT.STATUS. -/
def loadStat (n : Nat) (s : State) : State := wrf 0x000A0010 1 0 n s

/-- EGR_LD_CMD with GO: a load begins, unless one is under way. -/
def egrLoad (isMap : Bool) (s : State) : State :=
  if s.spg.load.isSome then s
  else
    let a := rd64 s 0x000A0000
    let n := if isMap then rdf s 0x000A0008 31 16 else 1
    let s := modSpg (fun g => { g with load := some ⟨isMap, rdf s 0x000A0008 15 0, n, BitVec.ofNat 64 a⟩ }) s
    emit (.hostRead .pf (BitVec.ofNat 64 a) (if isMap then 8 * n else 336)) (loadStat 3 (touch dEGR s))
def execEgrLdTemplate (s : State) := run .egrLdTemplate s (egrLoad false s)
def execEgrLdMap (s : State) := run .egrLdMap s (egrLoad true s)

/-- The load is checked and committed whole, or refused: 1 BAD, 2 DMA_ERR. -/
def loadCommit (data : Option Bytes) (s : State) : State :=
  match s.spg.load with
  | none => s
  | some l =>
    if !isOn s dEGR then s
    else
      let s := touch dEGR (modSpg (fun g => { g with load := none }) s)
      match data with
      | none => loadStat 2 s
      | some b =>
        if b.length < (if l.isMap then 8 * l.count else 336) then loadStat 2 s
        else if l.isMap then
          if l.count = 0 then loadStat 1 s
          else loadStat 0 (modSpg (fun g => { g with emap := (List.range l.count).foldl (fun m i =>
            put m ((l.index + i) % 65536) (BitVec.ofNat 64 (u64 b (8 * i))) 0) g.emap }) s)
        else if 1024 ≤ l.index ∨ tmplBad b then loadStat 1 s
        else loadStat 0 (modSpg (fun g => { g with tmpls := put g.tmpls l.index (tmplOf b) {} }) s)
def execEgrLoadCommit (data : Option Bytes) (s : State) := run (.egrLoadCommit data) s (loadCommit data s)

/-! ### Leases (R499, R500) -/

/-- A lease. -/
def lease (s : State) (n : Nat) : Lease := look s.spg.leases n {}
/-- Change a lease. -/
def modLease (n : Nat) (f : Lease → Lease) (s : State) : State := modSpg (fun g => { g with leases := upd g.leases n {} f }) s

/-- The word at +0xC of a lease: a grant with GO. -/
def leaseGrant (n : Nat) (v : Word) (s : State) : State :=
  let l := lease s n
  let len := bits v.toNat 23 0
  if !bit v.toNat 31 then s
  else if bit v.toNat 30 then modLease n (fun l => { l with next := l.start, left := len }) s
  else if l.start.toNat = (l.next.toNat + l.left) % 2 ^ 32 then modLease n (fun l => { l with left := l.left + len }) s
  else setBit 0x000A001C 0 s
def execLeaseGrant (lease : Nat) (value : Word) (s : State) := run (.leaseGrant lease value) s (leaseGrant lease value s)

/-- A TCP frame of payload `n` takes its sequence number, or there is none for it. -/
def takeSeq (l n : Nat) (s : State) : Option Nat × State :=
  let x := lease s l
  if x.left < n then (none, logC 0x0603 [] (bumpSat 0x000A0018 s))
  else
    let low := rd s 0x000A0020
    let s := modLease l (fun x => { x with next := w32 (x.next.toNat + n), left := x.left - n }) s
    (some x.next.toNat, when_ (decide (low ≤ x.left) && decide (x.left - n < low)) (devEvent 9) s)

/-! ### Patching (R28, R284, R496 to R498) -/

/-- The fate of a generation's order frame is settled: the deadline no longer binds it (R284). -/
def settleFrame (r gen acc : Nat) (s : State) : State :=
  let x := side s r
  if genOf s 2 r ≠ gen then s
  else if x.acceptAt = acc ∧ x.open_ ≠ .none_ then modSide r (fun x => { x with exempt := true, lateFin := false }) s
  else if x.pend.any (fun p => p.ingress == acc) then
    modSide r (fun x => { x with promoted := x.promoted.map (fun p => { p with exempt := true }) }) s
  else s

/-- A frame of the generation is being patched or waits in a port's queue. -/
def frameOut (s : State) (r acc : Nat) : Bool :=
  s.spg.jobs.any (fun j => j.req == r && j.gen == genOf s 2 r && j.acc == acc)
    || s.spg.ports.any (fun p => p.2.q.any (fun f => f.req == r && f.gen == genOf s 2 r && f.acc == acc))

/-- The map entries go to the frame for the positions that have tokens. -/
def mapPatches (s : State) (t : Tmpl) (toks : List (Nat × Nat)) : Bytes :=
  t.patches.foldl (fun f p => match toks.find? (fun k => k.1 == p.pos) with
    | some k => overlay f p.ofs ((leBytes 8 (look s.spg.emap ((p.base + k.2) % 65536) 0).toNat).take p.width)
    | none => f) t.frame

/-- The trigger step's tokens have reached the head chip: the order frame is to be ready 38 FT later. A template that
was never loaded gives no frame. -/
def startPatch (r template acc : Nat) (deadline : Option Nat) (late : Bool) (toks : List Nat) (s : State) : State :=
  let t := tmpl s template
  if template = 0xFFFF then s
  else if !t.loaded then settleFrame r (genOf s 2 r) acc s
  else
    let ks := (toks.zipIdx.take 4).map (fun k => (k.2, k.1))
    let j : PatchJob :=
      { template := template, tokens := ks, req := r, gen := genOf s 2 r, deadline := deadline, late := late
        at_ := s.ft + 38, tmpl := t, frame := mapPatches s t ks, acc := acc }
    wakeDom dEGR (modSpg (fun g => { g with jobs := g.jobs ++ [j] }) s)

/-- The identification of a frame: each one more than the last since the template's load. -/
def nextId (j : PatchJob) (s : State) : Nat × State :=
  let cur := tmpl s j.template
  if { cur with sent := 0 } = { j.tmpl with sent := 0 } then
    (cur.sent + 1, modSpg (fun g => { g with tmpls := put g.tmpls j.template { cur with sent := cur.sent + 1 } {} }) s)
  else (j.tmpl.sent + 1, s)

/-- Put a frame in its port's queue (R497, R501). -/
def enqueueFrame (j : PatchJob) (f : Bytes) (s : State) : State :=
  let p := j.tmpl.port
  if 16 ≤ (port s p).q.length then settleFrame j.req j.gen j.acc (logC 0x0602 [] (portCount p 7 s))
  else
    let ready := j.at_ + (if slowPort s p then 29 else 19) + fecTx s p
    modPort p (fun q => { q with q := q.q ++ [{ frame := f, req := j.req, gen := j.gen, deadline := j.deadline, late := j.late, ready := ready, acc := j.acc }] }) s

/-- A frame's remaining fields and checksums, in R496's order. -/
def finishFrame (j : PatchJob) (s : State) : State :=
  let t := j.tmpl
  let i := if t.ipidInc ∧ t.l3 ≠ 0 then nextId j s else (0, s)
  let f := overlay j.frame (t.l3 + 4) (if t.ipidInc ∧ t.l3 ≠ 0 then beBytes 2 ((net16 j.frame (t.l3 + 4) + i.1) % 65536) else [])
  let q := if t.kind = 2 ∧ t.l4 ≠ 0 then takeSeq t.lease (tcpPayload t f) i.2 else (some 0, i.2)
  match q.1 with
  | none => settleFrame j.req j.gen j.acc q.2
  | some n =>
    let f := overlay f (t.l4 + 4) (if t.kind = 2 ∧ t.l4 ≠ 0 then beBytes 4 n else [])
    let v := if t.l3 = 0 then fresh q.2 else (0, q.2)
    enqueueFrame j (l4Checksum t (ipChecksum t f) v.1) v.2

/-- EGRESS_PATCH: the first patch that is due completes. -/
def egressPatch (s : State) : State :=
  match s.spg.jobs.find? (fun j => decide (j.at_ ≤ s.ft)) with
  | none => s
  | some j =>
    if !isOn s dEGR then s
    else
      let s := touch dEGR (modSpg (fun g => { g with jobs := g.jobs.erase j }) s)
      if j.tmpl.requireAll ∧ j.tmpl.patches.any (fun p => !j.tokens.any (fun k => k.1 == p.pos)) then
        settleFrame j.req j.gen j.acc (bumpSat 0x000A0014 s)
      else finishFrame j s
def execEgressPatch (s : State) := run .egressPatch s (egressPatch s)

/-! ### Transmission (R501, R541, and the deadline check of chapter 1) -/

/-- FT that a frame of `n` bytes without FCS takes on the wire, with preamble and gap (R502). -/
def wireFt (s : State) (p n : Nat) : Nat := byteFt s p (n + 4 + 20)

/-- The order frame of a promoted APPEND (R239) is late. -/
def markPromo (r acc st : Nat) (s : State) : State :=
  if (side s r).pend.any (fun p => p.ingress == acc) then
    modSide r (fun x => { x with promoted := x.promoted.map (fun p => { p with lateSt := some st }) }) s
  else s

/-- The order frame would leave after the deadline under LATE_POLICY drop: the generation completes LATE_DROPPED. -/
def lateDrop (r gen acc : Nat) (s : State) : State :=
  let x := side s r
  if genOf s 2 r ≠ gen then s
  else if x.acceptAt ≠ acc ∨ x.open_ = .none_ then markPromo r acc 0x30 s
  else if running (ent s r) then toDraining r 0x30 true true false (maskReq r 4 s)
  else if (ent s r).st = .draining then modSide r (fun x => { x with ending := some 0x30 }) s
  else s

/-- The frame is a pause or priority flow-control frame: its EtherType is MAC control. -/
def pauseFrame (f : Bytes) : Bool := u8 f 12 == 0x88 && u8 f 13 == 0x08
/-- A frame's SFD leaves a port now and counts; a pause or flow-control frame never does (R1): what a descriptor or a template
asks is otherwise done. (DESIGN CHOICE, log 87) -/
def sendFrame (p cnt : Nat) (f : Bytes) (s : State) : State :=
  if pauseFrame f then s
  else portCount p cnt (emit (.frame p f s.ft) (modPort p (fun q => { q with busyUntil := s.ft + wireFt s p f.length }) s))

/-- EGRESS_TRANSMIT_START: the frame at the head of a port's queue reaches its transmit instant. -/
def transmitStart (p : Nat) (s : State) : State :=
  let q := port s p
  match q.q with
  | [] => s
  | f :: rest =>
    if s.ft < f.ready ∨ s.ft < q.busyUntil ∨ !q.link ∨ !isOn s dEGR then s
    else
      let s := touch dEGR (modPort p (fun q => { q with q := rest }) s)
      let settle := settleFrame f.req f.gen f.acc
      let past := f.deadline.any (fun d => decide (d < s.ft))
      if bit (rd s rHaltStat) 8 then settle (logC 0x0604 [] (portCount p 6 s))
      else if past && !f.late then settle (lateDrop f.req f.gen f.acc (portCount p 6 s))
      else
        let s := settle (sendFrame p 4 f.frame s)
        if !past ∨ genOf s 2 f.req ≠ f.gen then s
        else if (side s f.req).acceptAt = f.acc then modSide f.req (fun x => { x with lateFin := true }) s
        else markPromo f.req f.acc 0x31 s
def execEgressTransmitStart (port : Nat) (s : State) := run (.egressTransmitStart port) s (transmitStart port s)

/-! ### Host frames (R502 to R504) -/

/-- The doorbells of a port's host queues. -/
def execRxqDb (port : Nat) (value : Word) (s : State) :=
  run (.rxqDb port value) s (modPort port (fun q => { q with rxTail := bits value.toNat 11 0 }) s)
def execTxqDb (port : Nat) (value : Word) (s : State) :=
  run (.txqDb port value) s (modPort port (fun q => { q with txTail := bits value.toNat 11 0 }) s)

/-- Depth of a port's receive or transmit queue: exponents outside 4 to 12 select the nearer. -/
def rxDepth (s : State) (p : Nat) : Nat := 2 ^ (max 4 (min 12 (rdf s (rPort p 0x50) 3 0)))
/-- Depth of the transmit queue. -/
def txDepth (s : State) (p : Nat) : Nat := 2 ^ (max 4 (min 12 (rdf s (rPort p 0x50) 7 4)))

/-- The sum of bytes as they stand at an offset, paired as the checksum at `c` pairs them. -/
def sumAt (c k : Nat) (b : Bytes) : Nat :=
  (b.zipIdx.map (fun x => if (k + x.2) % 2 = c % 2 then x.1.toNat * 256 else x.1.toNat)).sum

/-- One-step stamping: PTP time at TS_OFS, and the UDP checksum at CSUM_OFS adjusted when it is not zero. -/
def oneStep (s : State) (f : Bytes) (ts cs : Nat) : Bytes :=
  let t := ptpOf (ptpNow s) s.ft
  let w := beBytes 6 (t / 1000000000) ++ beBytes 4 (t % 1000000000)
  let old := slice f ts 10
  let c := net16 f cs
  let g := overlay f ts w
  if c = 0 then g
  else
    let v := csum ((65535 - c) + (65535 * 10 - sumAt cs ts old % 65535) + sumAt cs ts w)
    overlay g cs (beBytes 2 (if v = 0 then 65535 else v))

/-- HOST_FRAME_TRANSMIT: the next frame of a port's transmit queue, its descriptor and bytes as host memory holds
them. The SFD FT of a frame that is too long to be sent is a free value. -/
def hostTransmit (p : Nat) (d f : Bytes) (s : State) : State :=
  let q := port s p
  if q.txHead = q.txTail ∨ !q.q.isEmpty ∨ s.ft < q.busyUntil ∨ !q.link ∨ !isOn s dEGR then s
  else
    let n := u16 d 8
    let long := decide (rdf s (rPort p 0) 15 4 < n)
    let a := rd64 s (rPort p 0x48) + 16 * q.txHead
    let f := fit n f
    let g := if bit (u8 d 10) 0 then oneStep s f (u16 d 11) (u16 d 13) else f
    let s := touch dEGR (modPort p (fun q => { q with txHead := (q.txHead + 1) % txDepth s p }) s)
    let x := if long then fresh s else (s.ft, sendFrame p 5 g s)
    let s := x.2
    let b := leBytes 8 x.1 ++ slice d 8 7 ++ [BitVec.ofNat 8 (1 + 2 * b2n long)]
    devEvent 8 (emit (.hostWrite .pf (BitVec.ofNat 64 a) b) s)
def execHostFrameTransmit (port : Nat) (desc frame : Bytes) (s : State) :=
  run (.hostFrameTransmit port desc frame) s (hostTransmit port desc frame s)

/-- A received frame goes to the host (R503): into the buffer that the next descriptor names, or it is dropped. -/
def hostReceive (p sfd rule : Nat) (f desc : Bytes) (s : State) : State :=
  let q := port s p
  if q.rxHead = q.rxTail ∨ heldOff s dHST then portCount p 3 s
  else
    let a := rd64 s (rPort p 0x40) + 16 * q.rxHead
    let b := f.take (f.length - 4)
    let w := leBytes 2 b.length ++ [1, BitVec.ofNat 8 rule] ++ zeros 4 ++ leBytes 8 sfd
    let s := modPort p (fun q => { q with rxHead := (q.rxHead + 1) % rxDepth s p }) s
    devEvent 7 (emit (.hostWrite .pf (BitVec.ofNat 64 a) w) (emit (.hostWrite .pf (BitVec.ofNat 64 (u64 desc 0)) b) s))

end Sys2Proof.Machine
end

