-- ==== Sys2Proof/Machine/Spring.lean ====
section
/-! DEFINITION. The spring (R22, R120, R122, R123, R475 to R478, R481 to R492): frames as they arrive, matching, the
parser program, the trigger decision, delivery, the key table. -/
namespace Sys2Proof.Machine

/-! ### Frames -/

/-- A spring rule. -/
def rule (s : State) (j : Nat) : Rule := look s.spg.rules j {}

/-- FRAME_SFD_RECEIVE (R478): the frame with its FCS, as the port will have received it, stamped now. -/
def execFrameSfdReceive (port : Nat) (frame : Bytes) (fcsOk : Bool) (s : State) :=
  run (.frameSfdReceive port frame fcsOk) s
    (modPort port (fun q => { q with parse := q.parse ++ [{ sfd := s.ft, frame := frame, fcsOk := fcsOk }] }) s)

/-- Bytes of a frame that arrive: one longer than 2,048 is cut off (R477). -/
def frameLen (f : Parse) : Nat := min 2048 f.frame.length
/-- FT at which byte `n` of a frame is available; beyond its end, with the last byte (R475, R476). -/
def byteAt (s : State) (p : Nat) (f : Parse) (n : Nat) : Nat := f.sfd + fecRx s p + byteFt s p (min n (frameLen f - 1) + 1)

/-- Change the frame of a port with an SFD stamp. -/
def modFrame (p sfd : Nat) (g : Parse → Parse) (s : State) : State :=
  modPort p (fun q => { q with parse := q.parse.map (fun f => if f.sfd == sfd then g f else f) }) s
/-- A frame is done with. -/
def dropFrame (p sfd : Nat) (s : State) : State := modPort p (fun q => { q with parse := q.parse.filter (fun f => f.sfd != sfd) }) s

/-- PWR_FALSEWAKE counts a frame that opened domains for nothing (R123). -/
def falseWake (f : Parse) (s : State) : State := when_ f.woke (bumpSat 0x00020014) s

/-- The rules that a frame matches, in INDEX order (R485): none while the port's spring is off. -/
def matching (s : State) (p : Nat) (f : Parse) : List Nat :=
  if bit (rd s 0x00090000) p then
    (s.spg.rules.filter (fun r => r.2.loaded && r.2.enabled && r.2.dmac == slice f.frame 0 6
      && r.2.etype == slice f.frame 12 2 && bit r.2.ports p)).map Prod.fst
  else []

/-- The stall a chip-wide channel belongs to. -/
def stallOfChan (s : State) (c : Nat) : Nat :=
  (lowest 32 (fun n => decide ((stallCfg s n).chBase ≤ c) && decide (c < (stallCfg s n).chBase + (stallCfg s n).chCount))).getD 0

/-- The domains of this chip that a matching rule opens (R120). -/
def wakeSet (s : State) (j : Nat) : List Nat :=
  let n := stallOfChan s (rule s j).channel
  clustersOf (stallCfg s n) ++ [dSEQ] ++ halvesOf s n ++ [dEGR] ++ (if (remotes s n).isEmpty then [] else [dLNK])

/-- Early wake of a matching rule (R22, R120): its domains here, and one WAKE notice to every member of the aisle. -/
def earlyWake (j : Nat) (s : State) : State :=
  let n := stallOfChan s (rule s j).channel
  let s := wakeAll 0 (wakeSet s j) s
  match aisleOf s n with
  | none => s
  | some a => forEach (remotes s n) (fun m s => sendNotice m.1 (wakeNotice a (memberMask m.1 m.2)) s) s

/-- SPRING_MATCH: byte 13 of the oldest frame not yet compared. -/
def springMatch (p : Nat) (s : State) : State :=
  match (port s p).parse.find? (fun f => !f.matched && decide (14 ≤ f.frame.length) && decide (byteAt s p f 13 ≤ s.ft)) with
  | none => s
  | some f =>
    let ms := matching s p f
    let wakers := ms.filter (fun j => (rule s j).wake)
    let s := modFrame p f.sfd (fun f => { f with matched := true, first := ms.head?, woke := wakers.any (fun j => (wakeSet s j).any (fun d => !isOn s d))
                                                 pc := (ms.head?.map (fun j => (rule s j).entry)).getD 0, readyAt := s.ft + 1 }) s
    forEach wakers earlyWake s
def execSpringMatch (port : Nat) (s : State) := run (.springMatch port) s (springMatch port s)

/-! ### The program (R484, R486) -/

/-- A trigger of a frame in the buffer is withdrawn: its place and its reserved slot are free again. -/
def withdraw (p sfd : Nat) (s : State) : State :=
  match s.spg.buf.find? (fun t => t.port == p && t.sfd == sfd && !t.delivered) with
  | some t => freeChan t.channel (giveBack t.channel 1 (modSpg (fun g => { g with buf := g.buf.erase t }) s))
  | none => s

/-- The frame's program ends: DROP gives no trigger. -/
def endProgram (p : Nat) (f : Parse) (ok : Bool) (s : State) : State :=
  let s := modFrame p f.sfd (fun f => { f with ended := some ok, loading := none }) s
  if ok then s
  else
    let s := withdraw p f.sfd (falseWake f s)
    if f.verdict.isSome then dropFrame p f.sfd s else modFrame p f.sfd (fun f => { f with woke := false }) s

/-- Emit a token; a ninth is discarded. -/
def emitTok (p : Nat) (f : Parse) (t : Nat) (s : State) : State :=
  let s := modFrame p f.sfd (fun f => { f with lastEmit := s.ft }) s
  if 8 ≤ f.tokens.length then setBit 0x00090008 1 s
  else modFrame p f.sfd (fun f => { f with tokens := f.tokens ++ [t] }) s

/-- One operation that is not LD. (DESIGN CHOICE, log 52) -/
def oneOp (p : Nat) (f : Parse) (op arg x imm : Nat) (s : State) : State :=
  let upd (g : Parse → Parse) := modFrame p f.sfd g s
  match op with
  | 2 => upd (fun f => { f with acc := f.acc &&& imm })
  | 3 => upd (fun f => { f with pc := if f.acc = imm then x else f.pc })
  | 4 => upd (fun f => { f with pc := if f.acc ≠ imm then x else f.pc })
  | 5 => upd (fun f => { f with key := f.acc })
  | 6 =>
    if (rule s arg).loaded && (rule s arg).enabled then upd (fun f => { f with rule := if f.decided.isNone then some (arg, s.ft) else f.rule })
    else endProgram p f false s
  | 7 =>
    let m := (look s.spg.map ((imm + f.acc) % 65536) 0).toNat
    if bit m 31 then emitTok p f (m % 65536) s else upd (fun f => { f with lastEmit := s.ft })
  | 8 => emitTok p f (imm % 65536) s
  | 9 => if f.rule.isSome then endProgram p f true s else endProgram p f false (setBit 0x00090008 0 s)
  | _ => endProgram p f false s

/-- The frame whose program can execute an operation now. -/
def parsing (s : State) (p : Nat) : Option Parse :=
  (port s p).parse.find? (fun f => f.first.isSome && f.ended.isNone && f.loading.isNone && decide (f.readyAt ≤ s.ft))

/-- SPRING_OPERATION: the next operation of the oldest program that is ready. An LD waits for its bytes. -/
def springOperation (p : Nat) (s : State) : State :=
  match parsing s p with
  | none => s
  | some f =>
    if 64 ≤ f.ops then endProgram p f false (setBit 0x00090008 0 s)
    else
      let o := (look s.spg.ops f.pc 0).toNat
      let x := bits o 31 16
      let f := { f with ops := f.ops + 1, pc := f.pc + 1, readyAt := s.ft + 1 }
      let s := modFrame p f.sfd (fun _ => f) s
      if bits o 7 0 = 1 then
        modFrame p f.sfd (fun f => { f with loading := some o, readyAt := max (s.ft + 1) (byteAt s p f (x + bits o 15 8 - 1) + 2) }) s
      else oneOp p f (bits o 7 0) (bits o 15 8) x (bits o 63 32) s
def execSpringOperation (port : Nat) (s : State) := run (.springOperation port) s (springOperation port s)

/-- SPRING_LD_COMPLETE: acc takes the bytes; those that the frame does not have, and a length outside 1 to 4, are
free values. -/
def ldComplete (p : Nat) (s : State) : State :=
  match (port s p).parse.find? (fun f => f.loading.isSome && f.ended.isNone && decide (f.readyAt ≤ s.ft)) with
  | none => s
  | some f =>
    let o := f.loading.getD 0
    let x := bits o 31 16
    let n := bits o 15 8
    let r := fresh s
    let whole := decide (1 ≤ n) && decide (n ≤ 4) && decide (x + n ≤ frameLen f)
    let v := if whole then beNat (slice f.frame x n) else r.1 % 2 ^ 32
    modFrame p f.sfd (fun f => { f with acc := v, loading := none, readyAt := s.ft + 1 }) (if whole then s else r.2)
def execSpringLdComplete (port : Nat) (s : State) := run (.springLdComplete port) s (ldComplete port s)

/-! ### The trigger decision (R488 to R491) -/

/-- The live request that a channel and key are bound to. -/
def boundReq (s : State) (c k : Nat) : Option (Nat × Nat) :=
  (s.spg.keys.find? (fun b => b.1 == c && b.2.1 == k)).map (fun b => b.2.2)

/-- Commands of a request that are open, pending, or on their way from the buffer. -/
def load_ (s : State) (r : Nat) : Nat :=
  b2n ((side s r).open_ != .none_ || running (ent s r)) + b2n (side s r).pend.isSome + (s.spg.buf.filter (fun t => (t.bound.map Prod.fst) == some r)).length

/-- The cause of R491 for which a trigger is refused: 0 BUFFER, 1 CHANNEL, 2 PENDING, 3 STATE, 4 NOKEY. -/
def refuseCause (s : State) (g : Rule) (key : Nat) : Option Nat :=
  let c := chan s g.channel
  if 8 ≤ s.spg.buf.length then some 0
  else if c.st ≠ 1 ∨ cqFree c = 0 ∨ leaving s ∨ quiescing s c.stall then some 1
  else match boundReq s g.channel key with
    | none => if g.submitOk then none else some 4
    | some (r, _) =>
      let st := (ent s r).st
      if (side s r).pend.isSome ∨ 2 ≤ load_ s r then some 2
      else if st = .pausing ∨ st = .paused ∨ st = .closing then some 3 else none

/-- TRIGGER_DECISION: 28 FT after the RULE operation the trigger takes a place or is refused. -/
def triggerDecision (p : Nat) (s : State) : State :=
  match (port s p).parse.find? (fun f => f.decided.isNone && f.ended != some false && f.rule.any (fun r => decide (r.2 + 28 ≤ s.ft))) with
  | none => s
  | some f =>
    let j := (f.rule.map Prod.fst).getD 0
    let g := rule s j
    let open_ := (chan s g.channel).st == 1
    let s := if open_ then modTill g.channel (fun t => { t with triggers := sat32 (t.triggers + 1) }) s else s
    match refuseCause s g f.key with
    | some c =>
      let s := bumpSat (0x00090010 + 4 * c) s
      let s := if open_ then tillRefuse g.channel 0x26 s else bumpSat (win (stallOfChan s g.channel) 0x00C) s
      if f.verdict.isSome then dropFrame p f.sfd s else modFrame p f.sfd (fun f => { f with decided := some false }) s
    | none =>
      let t : Trig :=
        { port := p, rule := j, channel := g.channel, key := f.key, tokens := [], sfd := f.sfd
          deadline := if g.budget = 0 then none else some (f.sfd + g.budget), bound := boundReq s g.channel f.key }
      let s := reserve g.channel 1 (modSpg (fun h => { h with buf := h.buf ++ [t] }) s)
      modFrame p f.sfd (fun f => { f with decided := some true, decidedAt := s.ft }) s
def execTriggerDecision (port : Nat) (s : State) := run (.triggerDecision port) s (triggerDecision port s)

/-! ### The verdict and delivery (R477, R487, R503) -/

/-- The verdict on the oldest frame whose end has come: counted, handed to the host, or discarded with its trigger.
`desc` is the next receive descriptor as host memory holds it. (DEDUCED, log 53) -/
def fcsVerdict (p : Nat) (desc : Bytes) (s : State) : State :=
  match (port s p).parse.find? (fun f => f.verdict.isNone && (f.matched || decide (f.frame.length < 14))
      && decide (f.sfd + fecRx s p + byteFt s p (frameLen f) + 4 ≤ s.ft)) with
  | none => s
  | some f =>
    let n := f.frame.length
    if 2048 < n ∨ n < 64 ∨ !f.fcsOk then
      dropFrame p f.sfd (withdraw p f.sfd (falseWake f (portCount p (if 2048 < n then 2 else 1) s)))
    else
      let s := portCount p 0 s
      let s := when_ (slice f.frame 12 2 == [0x88, 0x08]) (portCount p 8) s
      let toHost := match f.first with | none => bit (rd s (rPort p 0)) 3 | some j => (rule s j).hostCopy
      let s := if toHost then hostReceive p f.sfd (f.first.getD 0xFF) f.frame desc s else s
      if f.first.isNone || f.ended == some false || f.decided == some false then dropFrame p f.sfd s
      else modFrame p f.sfd (fun f => { f with verdict := some true }) s
def execFcsVerdict (port : Nat) (desc : Bytes) (s : State) := run (.fcsVerdict port desc) s (fcsVerdict port desc s)

/-- TRIGGER_DELIVER: the internal command is complete and may leave the buffer. (DEDUCED, log 54) -/
def triggerDeliver (p : Nat) (s : State) : State :=
  match (port s p).parse.find? (fun f => f.decided == some true && f.verdict == some true && f.ended == some true
      && decide (f.decidedAt + 25 ≤ s.ft) && decide (f.lastEmit + 4 ≤ s.ft)) with
  | none => s
  | some f =>
    let s := modSpg (fun g => { g with buf := g.buf.map (fun t =>
      if t.port == p && t.sfd == f.sfd then { t with delivered := true, tokens := f.tokens } else t) }) s
    dropFrame p f.sfd (bumpSat 0x0009000C s)
def execTriggerDeliver (port : Nat) (s : State) := run (.triggerDeliver port) s (triggerDeliver port s)

/-! ### Entering admission (R122, R488, R489, R492) -/

/-- The SUBMIT that a rule's trigger is. -/
def trigSqe (g : Rule) : Sqe :=
  { op := opSubmit, prio := g.prio, model := g.model, adapter := g.adapter, ctrl := g.ctrl, profile := g.profile, maxNew := g.maxNew }

/-- A trigger's command for a request that has been freed: it goes to admission without an entry. -/
def trigGone (t : Trig) (s : State) : State :=
  let g := rule s t.rule
  let r := 2 ^ 24 + (lowest (s.rtb.length + 1) (fun k => (ent s (2 ^ 24 + k)).st == .free)).getD 0
  let x : Entry :=
    { st := .admitting, stall := (chan s t.channel).stall, prio := prioOf s t.channel g.prio, channel := t.channel, model := g.model
      deadline := t.deadline, maxNew := g.maxNew, till := t.channel, ingress := t.sfd, prompt := t.tokens }
  let y : Side := { open_ := .submit, trig := true, acked := true, acceptAt := t.sfd, askPrio := g.prio }
  enqueue r false { s with rtb := put s.rtb r x {}, side := put s.side r y {} }

/-- A trigger's APPEND reaches its request (R274, R531). -/
def trigAppend (t : Trig) (r : Nat) (s : State) : State :=
  let g := rule s t.rule
  let x := ent s r
  let p : Pend :=
    { isClose := false, tokens := t.tokens, maxNew := g.maxNew, deadline := t.deadline, ingress := t.sfd, trig := true
      ctrl := g.ctrl % 32, template := g.template, prio := prioOf s t.channel g.prio, askPrio := g.prio }
  if x.poison ∧ (side s r).open_ = .none_ ∧ (side s r).pend.isNone then
    logEv 0x0809 x.stall [] (endWith r 0 t.sfd 0x41 true s)
  else if g.supersede ∧ running x then fixEffect t.channel r false (modSide r (fun z => { z with pend := some p }) s)
  else takePend r p s

/-- The trigger at the front of the buffer becomes a command. -/
def enterTrigger (t : Trig) (s : State) : State :=
  let g := rule s t.rule
  let c := chan s t.channel
  if c.st = 2 then
    freeChan t.channel (post t.channel { bareFinal s 0 0 0x12 t.sfd with req := 0 } s)
  else if c.st ≠ 1 then s
  else match t.bound with
    | some (r, gen) => if genOf s 2 r = gen ∧ (ent s r).st ≠ .free then trigAppend t r s else trigGone t s
    | none =>
      let r := openSubmit t.channel (trigSqe g) t.tokens none g.template true t.deadline t.sfd s
      enqueue r.1 false (modSide r.1 (fun x => { x with key := some t.key }) r.2)

/-- The trigger must still wait: its request has a pending command, or is on its way out. -/
def trigWaits (s : State) (t : Trig) : Bool :=
  match t.bound with
  | some (r, gen) => genOf s 2 r == gen && ((side s r).pend.isSome || (ent s r).st == .closing)
  | none => false

/-- TRIGGER_ENTER_ADMISSION: the front of the buffer, once delivered, SEQ ON and a place free. -/
def enterAdmission (s : State) : State :=
  match s.spg.buf with
  | [] => s
  | t :: rest =>
    if !t.delivered ∨ !isOn s dSEQ ∨ 32 ≤ s.admq.length ∨ leaving s ∨ trigWaits s t then s
    else enterTrigger t (modSpg (fun g => { g with buf := rest }) s)
def execTriggerEnterAdmission (s : State) := run .triggerEnterAdmission s (enterAdmission s)

/-! ### The key table from the host (R490), rule enables (R485) -/

/-- SPG_BIND_STAT. -/
def bindStat (n : Nat) (s : State) : State := wrf 0x00090054 2 0 n s
/-- The channel and key that the bind registers name. -/
def bindKeyOf (s : State) : Nat × Nat := (rdf s 0x00090044 11 0, rd s 0x00090040)

/-- SPG_BIND_CMD with OP 1: 1 BOUND, 2 NOT_FOUND, 3 DENIED. (DEDUCED, log 55) -/
def spgBind (s : State) : State :=
  let b := bindKeyOf s
  let h := rd64 s 0x00090048
  let r := hIdx h
  let x := ent s r
  if !handleOk s 2 h || hChip h != s.fab.chip || x.st == .free || x.st == .fw || x.shadow || isHolder r then bindStat 2 s
  else if x.channel ≠ b.1 ∨ (chan s b.1).st ≠ 1 ∨ x.orphan then bindStat 3 s
  else if (boundReq s b.1 b.2).isSome then bindStat 1 s
  else if 4096 ≤ s.spg.keys.length then bindStat 3 s
  else bindStat 0 (modSpg (fun g => { g with keys := g.keys ++ [(b.1, b.2, r, genOf s 2 r)] }) s)
def execSpgBind (s : State) := run .spgBind s (spgBind s)

/-- SPG_BIND_CMD with OP 2. -/
def spgUnbind (s : State) : State :=
  let b := bindKeyOf s
  if (boundReq s b.1 b.2).isSome then
    bindStat 0 (modSpg (fun g => { g with keys := g.keys.filter (fun k => !(k.1 == b.1 && k.2.1 == b.2)) }) s)
  else bindStat 2 s
def execSpgUnbind (s : State) := run .spgUnbind s (spgUnbind s)

/-- SPG_RULE_ENj: each bit clears or restores ENABLED of a loaded rule. -/
def ruleEnWrite (j : Nat) (v : Word) (s : State) : State :=
  modSpg (fun g => { g with rules := g.rules.map (fun r =>
    if r.1 / 32 = j then (r.1, { r.2 with enabled := r.2.loaded && bit v.toNat (r.1 % 32) }) else r) }) s
def execSpgRuleEnWrite (j : Nat) (value : Word) (s : State) := run (.spgRuleEnWrite j value) s (ruleEnWrite j value s)

end Sys2Proof.Machine
end

