-- ==== Sys2Proof/Machine/Compose.lean ====
section
/-! DEFINITION. Composing and issuing steps (R25, R27, R129, R187, R188, R224, R239, R248, R281, R300 to R314, R333,
R377, R409). -/
namespace Sys2Proof.Machine

/-- An STP counter: 0 depth cuts, 1 rung moves, 2 late drops, 3 late finishes. -/
abbrev rStp (i : Nat) : Nat := 0x00150014 + 4 * i
/-- A register of an aisle's STP block. -/
abbrev rAisle (a o : Nat) : Nat := 0x00150100 + 16 * a + o
/-- The stall of an aisle's head. -/
def headStall (s : State) (a : Nat) : Nat := ((chain s a).headD (0, 0)).2

/-! ### The deadline monitor (R309 to R313) -/

/-- The depth a row may use (R310). -/
def maxDepth (s : State) (r m : Nat) : Nat := min (ent s r).spec (model s m).specHeads

/-- The action leaves by egress and its tokens are still to come (R283). -/
def egressDue (s : State) (r : Nat) : Bool :=
  (side s r).template != 0xFFFF && !(side s r).exempt && (ent s r).genLen == 0

/-- What is left of a generation, at a rung and depth. -/
def rowJob (s : State) (r rung d : Nat) : Job :=
  let e := ent s r
  { r := r, m := if rung = 2 then (rung2Of s e.model).getD e.model else e.model, rung := rung
    prompt := if rung = 2 then (side s r).own.length else e.prompt.length
    maxNew := e.maxNew - e.genLen + b2n e.prompt.isEmpty, depth := d, egress := egressDue s r, base := e.committed }

/-- A rung that a running generation may move to (R294). Rung 2 runs over the command's own tokens, so it is open only
before the generation's first step. -/
def rungElig (s : State) (r rung : Nat) : Bool :=
  let e := ent s r
  let x := side s r
  match rung with
  | 0 => true
  | 1 => (cost s e.model).exitPos != 0
  | 2 => !x.issued && (match rung2Of s e.model with
    | some m => loadedIn s m e.stall && decide (x.own.length ≤ 32) && decide (e.maxNew ≤ 1 + (model s m).specHeads)
    | none => false)
  | _ => false

/-- The first rung and depth, from the current rung on, whose predicted finish from the slot meets the deadline: the
number of moves, rung, depth. -/
def timely (s : State) (a slot r deadline : Nat) : Option (Nat × Nat × Nat) :=
  let e := ent s r
  let rungs := ((List.range (max e.maxRung e.rung + 1)).filter (fun g => g == e.rung || (decide (e.rung < g) && rungElig s r g)))
  rungs.zipIdx.findSome? (fun g =>
    let m := (rowJob s r g.1 0).m
    ((List.range (maxDepth s r m + 1)).reverse.find? (fun d =>
      decide (finishFrom s a e.stall (rowJob s r g.1 d) 0 slot ≤ deadline))).map (fun d => (g.2, g.1, d)))

/-- The row moves to a rung (R311). To rung 2, the tokens before the command's own are kept aside. -/
def moveRung (r moves rung : Nat) (s : State) : State :=
  let e := ent s r
  let s := wr (rStp 1) (sat32 (rd s (rStp 1) + moves)) s
  let s := modTill e.till (fun t => { t with fallback := sat32 (t.fallback + moves) }) s
  let s := modSide r (fun x => { x with rungMax := max x.rungMax rung }) (modEnt r (fun e => { e with rung := rung }) s)
  if rung = 2 then
    let k := e.prompt.length - (side s r).own.length
    modSide r (fun x => { x with kept := x.kept ++ e.prompt.take k }) (modEnt r (fun e => { e with prompt := e.prompt.drop k }) s)
  else s

/-- R312: the generation ends late. -/
def dropLate (r : Nat) (s : State) : State := toDraining r 0x30 true true false (bumpSat (rStp 2) s)
/-- R313: the monitor stops acting on the generation. -/
def finishLate (r : Nat) (s : State) : State :=
  let d := if (side s r).issued then (ent s r).specCur else maxDepth s r (stepModel s r)
  modEnt r (fun e => { e with specCur := d }) (modSide r (fun x => { x with lateFin := true }) (bumpSat (rStp 3) s))

/-- The monitor leaves the generation alone (R284, R309, R313); once its tokens are with egress the deadline binds only
the frame, which egress checks. -/
def unmonitored (s : State) (r : Nat) : Bool :=
  let x := side s r
  (ent s r).deadline.isNone || x.exempt || x.lateFin || x.r2 == 2 || (x.template != 0xFFFF && (ent s r).genLen != 0)

/-- The monitor on an APPEND that rung 2 serves while its request is RESUMING: no rung is left to move to, so it stays
when its one step is timely, or ends late (R309, R312, R313). -/
def monitorR2 (a slot r : Nat) (s : State) : Option Nat × State :=
  match (side s r).pend with
  | none => (some 0, s)
  | some p =>
    let e := ent s r
    let j : Job :=
      { r := r, m := stepModel s r, rung := 2, prompt := p.tokens.length, maxNew := p.maxNew, depth := p.maxNew - 1
        egress := p.template != 0xFFFF, base := e.committed }
    if p.deadline.all (fun d => decide (finishFrom s a e.stall j 0 slot ≤ d)) then (some 0, s)
    else if bit p.ctrl 4 then (some 0, bumpSat (rStp 3) s)
    else (none, finishPend r 0x30 (bumpSat (rStp 2) s))

/-- The monitor on one candidate: the depth of its row, `none` when it leaves the step. -/
def monitorRow (a slot r : Nat) (s : State) : Option Nat × State :=
  let e := ent s r
  let m := stepModel s r
  if (side s r).r2 = 2 then monitorR2 a slot r s
  else if unmonitored s r then (some (if (side s r).lateFin then e.specCur else maxDepth s r m), s)
  else match timely s a slot r (e.deadline.getD 0) with
    | some (k, g, d) =>
      let s := if k = 0 then s else moveRung r k g s
      if g = 2 ∧ e.rung ≠ 2 then (none, s)
      else (some d, when_ (decide (d < maxDepth s r m)) (bumpSat (rStp 0)) s)
    | none =>
      if e.late then
        let s := finishLate r s
        (some (ent s r).specCur, s)
      else (none, dropLate r s)

/-- The monitor on every candidate of the model: rows that stay, with their depths. -/
def monitorAll (a slot : Nat) : List Nat → State → List (Nat × Nat) × State
  | [], s => ([], s)
  | r :: t, s =>
    let k := monitorRow a slot r s
    let z := monitorAll a slot t k.2
    (match k.1 with | some d => (r, d) :: z.1 | none => z.1, z.2)

/-! ### Choosing rows (R188, R302, R377, R409) -/

/-- Rows chosen so far: request, lane, adapter slot; lanes as place, profile and rows; adapters; rows left out. -/
structure Pick where
  rows : List (Nat × Nat × Nat) := []
  lanes : List (Nat × Nat × Nat) := []
  adapters : List Nat := []
  missed : List Nat := []

/-- The chain position at which a row is sampled (R408). -/
def placeOf (s : State) (a r : Nat) : Nat :=
  let e := ent s r
  if e.rung = 2 ∨ (side s r).r2 = 2 ∨ (chain s a).length ≤ 1 then 0
  else if e.rung = 1 then (cost s e.model).exitPos else lastPos s a

/-- A lane for a profile at a place: an open one with fewer than 4 rows, or a new one of 16. -/
def takeLane (place prof : Nat) (ls : List (Nat × Nat × Nat)) : Option (Nat × List (Nat × Nat × Nat)) :=
  let ours := ls.zipIdx.filter (fun l => l.1.1 == place)
  match ours.zipIdx.find? (fun l => l.1.1.2.1 == prof && decide (l.1.1.2.2 < 4)) with
  | some l => some (l.2, ls.set l.1.2 (place, prof, l.1.1.2.2 + 1))
  | none => if ours.length < 16 then some (ours.length, ls ++ [(place, prof, 1)]) else none

/-- An adapter slot, when the row needs one and there is one. -/
def takeSlot (on : Bool) (adp : Nat) (as : List Nat) : Option (Nat × List Nat) :=
  if !on then some (0, as)
  else match as.findIdx? (· == adp) with
    | some i => some (i, as)
    | none => if as.length < 16 then some (as.length, as ++ [adp]) else none

/-- Take a row, or leave it out for want of an adapter slot or a lane. -/
def pickRow (a r : Nat) (p : Pick) (s : State) : Pick × State :=
  let e := ent s r
  match takeSlot e.adapterEn e.adapter p.adapters with
  | none => ({ p with missed := p.missed ++ [r] }, bumpSat (win e.stall 0x40C) s)
  | some (i, as) =>
    match takeLane (placeOf s a r) e.profile p.lanes with
    | none => ({ p with missed := p.missed ++ [r] }, bumpSat (rSmp 1) s)
    | some (l, ls) => ({ p with rows := p.rows ++ [(r, l, i)], lanes := ls, adapters := as }, s)

/-- Priority and phase of a candidate: rows that share both are one group of R188. -/
def groupKey (s : State) (r : Nat) : Nat × Nat := ((rowCmd s r).1, phaseOf s r)

/-- The cap of R188 holds a row back: its channel has its share of the group while rows of other channels wait. -/
def capped (s : State) (ranked picked : List Nat) (r : Nat) : Bool :=
  let e := ent s r
  let group := ranked.filter (fun q => groupKey s q == groupKey s r)
  let w (c : Nat) : Nat := (chan s c).weight
  let total := ((group.map (fun q => (ent s q).channel)).dedup.map w).sum
  let mine := (picked.filter (fun q => group.contains q && (ent s q).channel == e.channel)).length
  decide (cdiv (64 * w e.channel) (max 1 total) ≤ mine)
    && group.any (fun q => (ent s q).channel != e.channel && !picked.contains q)

/-- One pass over the ranked candidates. -/
def pickPass (a rowmax : Nat) (cap : Bool) (ranked : List Nat) : List Nat → Pick → State → Pick × State
  | [], p, s => (p, s)
  | r :: t, p, s =>
    let taken := p.rows.map Prod.fst
    if rowmax ≤ p.rows.length ∨ taken.contains r ∨ p.missed.contains r ∨ (cap && capped s ranked taken r)
    then pickPass a rowmax cap ranked t p s
    else
      let k := pickRow a r p s
      pickPass a rowmax cap ranked t k.1 k.2

/-- The groups in turn: under the cap first, then what the cap left, before any later group (R188). -/
def pickGroups (a rowmax : Nat) (ranked : List Nat) : List (Nat × Nat) → Pick → State → Pick × State
  | [], p, s => (p, s)
  | g :: t, p, s =>
    let mine := ranked.filter (fun r => groupKey s r == g)
    let k := pickPass a rowmax true ranked mine p s
    let k := pickPass a rowmax false ranked mine k.1 k.2
    pickGroups a rowmax ranked t k.1 k.2

/-- A displacement (R303). -/
def displace (a r : Nat) (s : State) : State :=
  let s := modTill (ent s r).till (fun t => { t with displaced := sat32 (t.displaced + 1) }) s
  bumpSat (rAisle a 0xC) (modEnt r (fun e => { e with displaced := e.displaced + 1 }) s)

/-! ### Rows (R239, R248, R253, R304) -/

/-- Grant a row the pages of its positions on every chip (R248), shared ones it writes made private (R253). -/
def grantRow (r pos : Nat) (s : State) : State :=
  let e := ent s r
  let s := copyOnWrite r e.committed pos s
  let need := pagesHere s e.model pos - (ent s r).pages.length
  let more := listNow s e.stall r (listSize ((ent s r).pages.length + need))
  let g := allocPages e.stall need (evictFor e.stall (need + more) s.pfx.length s)
  let s := setPages r ((ent g.2 r).pages ++ g.1.map (fun p => (p, false))) g.2
  let ms := remotes s e.stall
  forEach ms.zipIdx (fun m s =>
    let x := side s r
    let k := pagesThere e.model m.1.1 pos - x.pfxDepth - x.slots.getD m.2 0
    let sl := (List.range ms.length).map (fun i => x.slots.getD i 0 + (if i = m.2 then k else 0))
    modFree m.1 (fun f => { f with pages := f.pages + k }) (modSide r (fun x => { x with slots := sl }) s)) s

/-- The promotion at composition: admission decides it, its ACK is posted, MAX_NEW is charged. -/
def joinPend (r : Nat) (p : Pend) (s : State) : State :=
  let e := ent s r
  let s := underLimits r s
  match verdict s (askOf s r) with
  | .admits g fin =>
    if g ≠ e.rung then s
    else
      let s := countOutcome e.till (if g = 0 then 0 else 1) s
      let q := outcomeAck s r (if g = 0 then 0 else 1) 0 g fin
      let s := if p.trig then s
        else post e.channel { q with cid := p.cid, ingress := p.ingress % 2 ^ 48, admits := min (s.ft - p.ingress) 65535 } s
      let k := min p.tokens.length (32 - ownTokens s r)
      charge e.channel p.maxNew (modSide r (fun x => { x with
        promoted := some { joined := k, at_ := s.ft }, pend := x.pend.map (fun q => { q with trig := true }) }) s)
  | _ => s

/-- The row of a request in a step, with its pages granted. -/
def buildRow (num d lane aslot r : Nat) (s : State) : Row × State :=
  let s := match mayJoin s r with | some p => joinPend r p s | none => s
  let e := ent s r
  let x := side s r
  let r2 := x.r2 == 2
  let rung := if r2 then 2 else e.rung
  let two := rung == 2
  let pend := x.pend.getD { isClose := false }
  let prompt := if r2 then pend.tokens else if two then x.own else if e.st = .prefill then e.prompt.take 32 else []
  let pre := two || e.st == .prefill
  let last := two || decide (e.prompt.length ≤ 32)
  let maxNew := if r2 then pend.maxNew else e.maxNew
  let depth := if two then maxNew - 1 else d
  let join := ((x.promoted.map Promo.joined).getD 0)
  let new := (if pre then max 1 prompt.length else 1 + x.guesses.length) + join + (if two then 0 else depth)
  let far := !two && !(remotes s e.stall).isEmpty
  let orders := b2n (far && !x.shadowed) + 16 * b2n (rung == 1) + 32 * b2n e.adapterEn
  let w : Row :=
    { req := r, gen := genOf s 2 r, committed := e.committed, prompt := prompt, new := new, spec := depth, rung := rung
      orders := orders, aslot := aslot, lane := lane, verify := if pre then 0 else x.guesses.length
      samples := !pre || (last && maxNew != 0), trig := x.template != 0xFFFF && e.genLen == 0, joined := join }
  let s := if two then s else grantRow r (e.committed + new) s
  let s := modSide r (fun x => { x with inStep := some num, masked := false, shadowed := x.shadowed || far, cutoff := none }) s
  (w, modEnt r (fun e => if r2 then e else { e with specCur := depth }) s)

/-- The rows of a step. -/
def buildRows (num : Nat) (depths : List (Nat × Nat)) : List (Nat × Nat × Nat) → State → List Row × State
  | [], s => ([], s)
  | (r, l, i) :: t, s =>
    let d := ((depths.find? (fun x => x.1 == r)).map Prod.snd).getD 0
    let k := buildRow num d l i r s
    let z := buildRows num depths t k.2
    (k.1 :: z.1, z.2)

/-! ### COMPOSE_STEP -/

/-- A poisoned request ends at its next step (R531). -/
def endPoisoned (a : Nat) (s : State) : State :=
  forEach ((candidates s a).filter (fun r => (ent s r).poison)) (fun r s =>
    logEv 0x0809 (ent s r).stall [] (toClosing r 0x41 0x41 0x12 false s)) s

/-- A running batch whose members are not all ready (R323): each step carries every unfinished member. -/
def batchWaits (s : State) (a : Nat) : Bool :=
  (s.batches.filter (fun b => b.running && aisleOf s b.stall == some a)).any (fun b =>
    b.members.any (fun r => ((ent s r).st == .prefill || (ent s r).st == .decode) && !candidate s a r))

/-- The model a step is composed for: with PF_RANK, one with prompt rows goes before one without (R302). -/
def jumpModel (s : State) (a t : Nat) (ready : List Nat) : Nat :=
  let fresh (m : Nat) : Bool := (candidates s a).any (fun r => stepModel s r == m && phaseOf s r == 0)
  let order := ready.filter (t < ·) ++ ready.filter (· < t)
  if bit (rd s 0x00150000) 0 && !fresh t then (order.find? fresh).getD t else t

/-- Compose the step of a model for a slot (R302). `t` and `left` are the turn that R187 gives. -/
def composeFor (a slot t left m : Nat) (s : State) : State :=
  let turnRows := (candidates s a).filter (fun r => stepModel s r == t && phaseOf s r == 1)
  let mon := monitorAll a slot (byKey s ((candidates s a).filter (fun r => stepModel s r == m))) s
  let s := mon.2
  let ranked := mon.1.map Prod.fst
  let rowmax := if (stallCfg s (headStall s a)).mode = 1 then 64 else rowMax s
  let p := pickGroups a rowmax ranked (ranked.map (groupKey s)).eraseDups {} s
  let taken := p.1.rows.map Prod.fst
  let s := p.2
  let out := ranked.filter (fun r => !taken.contains r && !p.1.missed.contains r && phaseOf s r == 1
    && taken.any (fun q => phaseOf s q == 0 && keyLt s q r))
  let s := forEach out (displace a) s
  let s := if m = t then s else forEach (turnRows.filter (fun r => (side s r).inStep.isNone)) (displace a) s
  if taken.isEmpty then s
  else
    let x := aisle s a
    let num := x.stepNum
    let b := buildRows num mon.1 p.1.rows s
    let ctx := (b.1.map (fun w => w.committed + w.new - (if w.rung = 2 then 0 else w.spec))).foldl max 1
    let occ := issueIvl b.2 a m b.1.length ctx
    let issue := match x.lastIssue with | some t => max slot (t + max x.ivl occ) | none => slot
    let st : Step := { num := num, aisle := a, model := m, issue := issue, rows := b.1, adapters := p.1.adapters, occ := occ }
    modAisle a (fun x => { x with
      stepNum := (num + 1) % 2 ^ 32, lastIssue := some issue, ivl := occ, dutyRun := x.dutyRun + 1
      turn := if m = t then t else x.turn, turnsLeft := if m = t then left else x.turnsLeft }) { b.2 with steps := b.2.steps ++ [st] }

/-- COMPOSE_STEP: 24 FT before an aisle's next issue slot; a slot that the duty pattern empties carries no step. -/
def composeStep (a : Nat) (s : State) : State :=
  if !isHead s a ∨ !isOn s dSEQ ∨ leaving s ∨ cyclic s (headStall s a) ∨ s.steps.any (fun t => t.aisle == a && !t.issued) then s
  else
    let s := endPoisoned a s
    let cs := candidates s a
    let x := aisle s a
    if cs.isEmpty ∨ s.ft + 24 < (x.lastIssue.map (· + x.ivl)).getD 0 ∨ batchWaits s a then s
    else
      let slot := firstSlot s a s.ft
      let run := rdf s rDuty 2 0
      if run ≠ 0 ∧ run ≤ x.dutyRun then modAisle a (fun x => { x with lastIssue := some slot, dutyRun := 0 }) s
      else
        let ready := ascending (cs.map (stepModel s))
        match pickTurn s ready x.turn x.turnsLeft with
        | none => s
        | some (t, left) => composeFor a slot t left (jumpModel s a t ready) s
def execComposeStep (aisle : Nat) (s : State) := run (.composeStep aisle) s (composeStep aisle s)

/-! ### STEP_ISSUE (R305, R306, R333) -/

/-- A row descriptor. -/
def rowBytes (s : State) (w : Row) : Bytes :=
  let x := side s w.req
  leBytes 4 (w.gen * 2 ^ 24 + w.req) ++ leBytes 2 (w.committed % 65536)
  ++ [BitVec.ofNat 8 (w.new % 64 + 64 * (w.spec % 4)), BitVec.ofNat 8 w.orders]
  ++ leBytes 4 (pfxWord x)
  ++ [BitVec.ofNat 8 (w.aslot % 16), BitVec.ofNat 8 (w.committed / 65536)] ++ zeros 2

/-- A descriptor that carries only orders to a shadow: REQ, ORDERS, COMMITTED, PFX. (DEDUCED, log 33) -/
def orderBytes (o : Nat × Nat × Nat × Nat) : Bytes :=
  leBytes 4 o.1 ++ leBytes 2 (o.2.2.1 % 65536) ++ [0, BitVec.ofNat 8 o.2.1] ++ leBytes 4 o.2.2.2
    ++ [0, BitVec.ofNat 8 (o.2.2.1 / 65536)] ++ zeros 2

/-- The step record. -/
def stepRecord (s : State) (t : Step) (os : List (Nat × Nat × Nat × Nat)) : Bytes :=
  let rows := (t.rows.filter (fun w => w.rung != 2)).map (rowBytes s) ++ os.map orderBytes
  let head := leBytes 4 t.num ++ leBytes 8 t.issue
    ++ [BitVec.ofNat 8 t.model, BitVec.ofNat 8 rows.length, BitVec.ofNat 8 t.aisle, BitVec.ofNat 8 (b2n t.cyc.isSome)]
    ++ leBytes 2 (t.cyc.getD 0) ++ zeros 2 ++ ((List.range 16).map (fun i => leBytes 2 (t.adapters.getD i 0))).flatten ++ zeros 12
  head ++ fit (64 * cdiv rows.length 4) rows.flatten

/-- The work items of a step on this chip: one for each kernel of its model that this chip's part of the step runs. On an
aisle of more than one chip the members run the layers (R18), and rung 2 runs on the head chip whole. The first item of
the first chip with layers begins with the embedding gather, which is no item of its own (R19). How the image splits a
step into work items, and where they read and write, is not stated: IN, OUT and AFFINITY are free values. -/
def stepItems (t : Step) (stall prio : Nat) (s : State) : List Item × State :=
  let mine := t.rows.filter (fun w => samplesHere s t.aisle t w.rung)
  let p := myPos s t.aisle
  let whole := decide ((chain s t.aisle).length ≤ 1) || (p == 0 && t.rows.any (fun w => w.rung == 2))
  let wanted (c : Nat) : Bool :=
    if c = 2 then mine.any (fun w => w.rung != 1) else if c = 3 then mine.any (fun w => w.rung == 1) else c == 1 && (whole || p != 0)
  let of_ := s.conf.kernels.filter (fun k => k.1 / 256 == t.model && k.2.loaded)
  let gathers := (whole || p == 1) && of_.any (fun k => k.2.cls == 4)
  let mask := BitVec.ofNat 64 (2 ^ t.rows.length - 1)
  (of_.filter (fun k => wanted k.2.cls)).foldl (fun acc k =>
    let f := fresh acc.2
    let stage := b2n (k.2.cls != 1)
    let i : Item :=
      { kernel := k.1, stall := stall, prio := prio, cyc := t.cyc.isSome, step := t.num, rowMask := mask
        inp := f.1 % 2 ^ 21, inLen := f.1 / 2 ^ 21 % 2 ^ 21, out := f.1 / 2 ^ 42 % 2 ^ 21, outLen := f.1 / 2 ^ 63 % 2 ^ 21
        affinity := BitVec.ofNat 64 (f.1 / 2 ^ 84), due := t.issue, aisle := t.aisle, stage := stage, hold := true
        gather := gathers && stage == 0 && !acc.1.any (fun x => x.stage == 0) }
    (acc.1 ++ [i], f.2)) (([] : List Item), s)

/-- The wait of a row's command ends with its first issue (R224); an APPEND that rung 2 serves has one step. -/
def countIssue (w : Row) (s : State) : State :=
  let x := side s w.req
  let s := if x.r2 = 2 then modTill (ent s w.req).till (countWait (s.ft - x.r2At - 24)) s
    else if x.issued ∨ x.open_ = .none_ then s
    else modSide w.req (fun x => { x with issued := true }) (modTill (ent s w.req).till (countWait (s.ft - x.admitAt - 24)) s)
  match x.promoted with
  | some p => if w.joined = 0 then s else modTill (ent s w.req).till (countWait (s.ft - p.at_ - 24)) s
  | none => s

/-- The step leaves for its cores and its member chips: the FT of this is its issue, from which R25 counts the next one. -/
def issueNow (t : Step) (s : State) : State :=
  let n := headStall s t.aisle
  let t := { t with issue := s.ft }
  let s := modAisle t.aisle (fun x => { x with lastIssue := some s.ft }) (modStep t.aisle t.num (fun _ => t) s)
  let prio := (t.rows.map (fun w => (ent s w.req).prio)).foldl min 7
  let k := stepItems t n prio s
  let s := forEach k.1 (fun i s => (placeItem i s).2) k.2
  let s := match t.blockedAt with | some b => wr (rWks 0) (sat32 (rd s (rWks 0) + (s.ft - b))) s | none => s
  let s := forEach t.rows countIssue s
  let s := addWrap (rAisle t.aisle 8) 1 (modStep t.aisle t.num (fun t => { t with issued := true, phase := 1 }) s)
  let s := touch dSEQ s
  let far := remotes s n
  let live := t.rows.filter (fun w => w.rung != 2)
  let s := match far, live with
    | (c, _) :: _, _ :: _ =>
      let os := (aisle s t.aisle).orders.take (64 - live.length)
      let rec_ := stepRecord s t os
      let s := modAisle t.aisle (fun x => { x with orders := x.orders.drop os.length }) s
      let s := forEach live (fun w => modSide w.req (fun x => { x with confirm := x.confirm ++ far.map (fun m => t.num * 256 + m.1) })) s
      let f := fresh s
      touch dLNK (issuePW n c 0 0 0 (f.1 % 2 ^ 21) (live.map (fun w => (ent s w.req).channel)).dedup false rec_ f.2)
    | _, _ => s
  feed t.aisle t.num s

/-- STEP_ISSUE: at its slot, once its work items fit in the pool and LNK can carry its record. -/
def stepIssue (a : Nat) (s : State) : State :=
  match s.steps.find? (fun t => t.aisle == a && !t.issued) with
  | none => s
  | some t =>
    let n := headStall s a
    if s.ft < t.issue ∨ !isOn s dSEQ ∨ leaving s then s
    else if !(remotes s n).isEmpty && !isOn s dLNK then wakeDom dLNK s
    else if poolFits s n (stepItems t n 0 s).1.length then issueNow t s
    else modStep a t.num (fun t => { t with blockedAt := t.blockedAt.or (some s.ft) }) s
def execStepIssue (aisle : Nat) (s : State) := run (.stepIssue aisle) s (stepIssue aisle s)

end Sys2Proof.Machine
end

