-- ==== Sys2Proof/Machine/Steps.lean ====
section
/-! DEFINITION. The life of a step after its issue: its tokens at the head chip (R28, R237, R266, R272, R295, R313,
R417, R427 to R430, R435), its commit (R234, R237 to R241, R254, R531), the FINAL of a generation (R239 to R241), the
step record on a member chip (R243 to R245, R252, R305 to R307). -/
namespace Sys2Proof.Machine

/-! ### Tokens at the head chip -/

/-- How a row's tokens are settled. -/
structure Settle where
  /-- end-of-sequence token and stop tokens -/
  eos : Nat
  stops : List Nat
  /-- position and generation index of the first -/
  pos : Nat
  index : Nat
  maxNew : Nat
  /-- generated tokens the request may still commit, and positions it may hold -/
  budget : Nat
  maxLen : Nat
  rung : Nat
  depth : Nat
  /-- FT of sampling -/
  ft : Nat
  late : Bool

/-- The status with which the `k`th token of a row ends its generation, if it does (R238, R240, R427): its status
under R238 stands before R240's. (DEDUCED, log 40) -/
def tokenEnd (c : Settle) (k tok : Nat) : Option Nat :=
  if tok = c.eos then some 0x00
  else if c.stops.contains tok ∧ tok ≠ 0xFFFF then some 0x02
  else if c.maxNew ≤ c.index + k + 1 ∨ c.budget ≤ k + 1 ∨ c.maxLen ≤ c.pos + k + 1 then some 0x01
  else none

/-- The tokens of a row that stand, and the status with which the last of them ends the generation. (DEDUCED, log 41) -/
def standing (c : Settle) : Nat → List Tok → List Tok × Option Nat
  | _, [] => ([], none)
  | k, t :: rest =>
    match tokenEnd c k t.token with
    | some st => ([t], some st)
    | none => let z := standing c (k + 1) rest; (t :: z.1, z.2)

/-- The records of tokens (R429); the last ends the generation when `fin` says so. -/
def recsOf (c : Settle) (fin : Bool) (ts : List Tok) : List TokRec :=
  ts.zipIdx.map (fun t =>
    { token := w32 t.1.token, position := c.pos + t.2, specAcc := t.1.accepted, fallback := c.rung != 0
      final := fin && t.2 + 1 == ts.length, late := c.late, logprob := t.1.logprob, rung := c.rung, depth := c.depth, ft := c.ft })

/-- A record finds fewer than 6 free slots in its ring, or follows one that did (R435). -/
def ringHolds (s : State) (r : Nat) : Bool :=
  match (ent s r).ring with
  | some i => !(side s r).heldRecs.isEmpty || decide (ringFree (ring s i) < 6)
  | none => false

/-- A record goes to the ring, or is held. A generation that has ended has the reserve (R436). -/
def deliver (r : Nat) (t : TokRec) (s : State) : State :=
  if running (ent s r) && ringHolds s r then modSide r (fun x => { x with heldRecs := x.heldRecs ++ [t] }) s
  else recWrite r t s

/-- What settles the tokens of a row of the open generation. -/
def openSettle (s : State) (t : Step) (w : Row) (ft : Nat) : Settle :=
  let e := ent s w.req
  let x := side s w.req
  { eos := (model s t.model).eos, stops := (profile s e.model e.profile).stops
    pos := w.committed + w.prompt.length + (if w.rung = 2 then x.kept.length else 0), index := e.genLen, maxNew := e.maxNew
    budget := e.budget, maxLen := e.maxLen, rung := w.rung, depth := w.spec, ft := ft
    late := !x.exempt && e.deadline.any (fun d => decide (d < ft)) }

/-- What settles the tokens of a pending APPEND in a row: its first comes at a position, and `used` of the budget
goes to the generation before it. -/
def pendSettle (s : State) (t : Step) (w : Row) (p : Pend) (pos used ft : Nat) : Settle :=
  { openSettle s t w ft with
    pos := pos, index := 0, maxNew := p.maxNew, budget := (ent s w.req).budget - used
    late := p.deadline.any (fun d => decide (d < ft)) }

/-- The tokens that egress builds an order frame from: those of the step with their guesses (R28). -/
def frameToks (toks : List Tok) (gs : List Guess) : List Nat := toks.map Tok.token ++ gs.map Guess.token

/-- Guesses as tokens: rung 2 commits them unverified (R295). -/
def guessToks (gs : List Guess) : List Tok := gs.map (fun g => ⟨g.token, false, g.logprob⟩)

/-- Guesses of a row sampled on a member chip, of which the head chip knows the tokens. -/
def farGuesses (o : RowTok) : List Guess :=
  o.guesses.map (fun t => { token := t, weights := [], total := 0, logprob := 0, rung := 0, depth := 0, ft := 0 })

/-- A generation's last token came after its deadline under LATE_POLICY finish (R313). -/
def finishSt (s : State) (r st : Nat) : Nat :=
  let x := side s r
  if x.lateFin && x.template == 0xFFFF && (ent s r).deadline.any (fun d => decide (d < s.ft)) then 0x31 else st

/-- Count rejected guesses in the till (R428). -/
def countRejected (r n : Nat) (s : State) : State :=
  modTill (ent s r).till (fun t => { t with specRejected := sat32 (t.specRejected + n) }) s

/-- The tokens of a row of the open generation arrive. -/
def arriveOpen (t : Step) (w : Row) (o : RowTok) (gs : List Guess) (ft : Nat) (s : State) : Row × State :=
  let r := w.req
  let c := openSettle s t w ft
  let all := if w.joined ≠ 0 then o.ended else if w.rung = 2 then o.toks ++ guessToks gs else o.toks
  let z := standing c 0 all
  let run := running (ent s r)
  let s := countRejected r (o.rejected + (all.length - z.1.length)) s
  let s := modSide r (fun x => { x with
    specAcc := x.specAcc + (z.1.filter Tok.accepted).length
    guesses := if w.rung = 2 ∨ w.joined ≠ 0 then [] else gs
    r2Toks := if w.rung = 2 then z.1.map Tok.token else x.r2Toks }) s
  let s := forEach (recsOf c (run && z.2.isSome) z.1) (deliver r) s
  let none_ := z.2.isNone && o.empty
  let s := when_ (none_ && run && (side s r).open_ != .none_)
    (deliver r { closingRec s r false false with position := c.pos + z.1.length }) s
  let st := z.2.or (if none_ then some 0x02 else none)
  let e := ent s r
  let x := side s r
  let ts := frameToks o.toks gs
  let s := if w.joined = 0 ∧ e.genLen = 0 ∧ !ts.isEmpty ∧ x.open_ ≠ .none_
    then startPatch r x.template x.acceptAt e.deadline e.late ts s else s
  ({ w with arrived := true, taken := z.1.length, endSt := st.map (finishSt s r) }, s)

/-- The first tokens of a promoted APPEND arrive in the row it joined (R239): its records follow the old
generation's, while the ring has room. -/
def arriveJoined (t : Step) (w : Row) (o : RowTok) (gs : List Guess) (ft : Nat) (s : State) : Row × State :=
  let r := w.req
  match (side s r).pend with
  | none => (w, s)
  | some p =>
    let c := pendSettle s t w p (w.committed + w.prompt.length + w.taken + w.joined) w.taken ft
    let z := standing c 0 o.toks
    let empty := z.2.isNone && o.empty && o.ended.length != 0 && z.1.isEmpty && w.joined == p.tokens.length && p.maxNew != 0
    let rs := recsOf c z.2.isSome z.1
    let s := countRejected r (o.toks.length - z.1.length) s
    let now (s : State) (n : Nat) : State × Nat :=
      rs.foldl (fun a t => if a.2 = n ∧ !ringHolds a.1 r then (ringGive r t a.1, n + 1) else a) (s, n)
    let k := now s 0
    let st := z.2.or (if empty then some 0x02 else none)
    let s := modSide r (fun x => { x with
      guesses := gs
      promoted := x.promoted.map (fun q => { q with ft := some s.ft, written := k.2, recs := rs.drop k.2, endSt := st }) }) k.1
    let ts := frameToks o.toks gs
    let s := if ts.isEmpty then s else startPatch r p.template p.ingress p.deadline (bit p.ctrl 4) ts s
    ({ w with takenNext := z.1.length }, s)

/-- The tokens of a pending APPEND that rung 2 serves while the request is RESUMING arrive (R266). -/
def arriveR2 (t : Step) (w : Row) (o : RowTok) (gs : List Guess) (ft : Nat) (s : State) : Row × State :=
  let r := w.req
  match (side s r).pend with
  | none => ({ w with arrived := true }, s)
  | some p =>
    let c := pendSettle s t w p (w.committed + (side s r).kept.length + w.prompt.length) 0 ft
    let all := o.toks ++ guessToks gs
    let z := standing c 0 all
    let s := countRejected r (o.rejected + (all.length - z.1.length)) s
    let s := forEach (recsOf c true z.1) (ringGive r) s
    let c0 := closingRec s r false false
    let s := when_ z.1.isEmpty (ringGive r { c0 with fallback := true, rung := 2, position := c.pos }) s
    let s := modSide r (fun x => { x with r2Toks := z.1.map Tok.token, r2Out := if z.1.isEmpty then none else some s.ft }) s
    let ts := frameToks o.toks gs
    let s := if ts.isEmpty then s else startPatch r p.template p.ingress p.deadline (bit p.ctrl 4) ts s
    ({ w with arrived := true, taken := z.1.length, endSt := some (z.2.getD 0x02) }, s)

/-- What arrives for a row: sampled here, or on a member chip. -/
def outOf (t : Step) (w : Row) (remote : List Arrived) : Option (RowTok × List Guess × Nat) :=
  match w.out with
  | some o => if t.phase = 2 then some (o, w.guesses, t.sampledAt) else none
  | none => remote.findSome? (fun a => (a.rows.find? (fun o => o.req == w.req)).map (fun o => (o, farGuesses o, a.ft)))

/-- A row's tokens reach the head chip. One sampled at or after the row's cut-off is dropped (R272, R530). -/
def arriveRow (t : Step) (remote : List Arrived) (w : Row) (s : State) : Row × State :=
  if w.arrived ∨ !w.samples ∨ (!w.live ∧ !(side s w.req).masked) ∨ w.gen ≠ genOf s 2 w.req then (w, s)
  else match outOf t w remote with
    | none => (w, s)
    | some (o, gs, ft) =>
      if (side s w.req).cutoff.any (fun c => decide (c ≤ ft)) then ({ w with arrived := true }, payRec w.req s)
      else if (side s w.req).r2 = 2 then arriveR2 t w o gs ft s
      else
        let k := arriveOpen t w o gs ft s
        let k := if w.joined = 0 ∨ k.1.taken = 0 then k else arriveJoined t k.1 o gs ft k.2
        (k.1, payRec w.req k.2)

/-- Every row in turn. -/
def arriveRows (t : Step) (remote : List Arrived) : List Row → State → List Row × State
  | [], s => ([], s)
  | w :: rest, s =>
    let k := arriveRow t remote w s
    let z := arriveRows t remote rest k.2
    (k.1 :: z.1, z.2)

/-- Nothing of a row is still to arrive. -/
def rowDone (w : Row) : Bool := !w.live || !w.samples || w.arrived

/-- A row that no token comes back for is over when the members have confirmed its step (R27). -/
def rowBack (s : State) (t : Step) (w : Row) : Bool :=
  w.samples || !w.live || !(side s w.req).confirm.any (fun c => c / 256 == t.num)

/-- TOKEN_ARRIVAL. -/
def tokenArrival (a n : Nat) (remote : List Arrived) (s : State) : State :=
  match s.steps.find? (fun t => t.aisle == a && t.num == n) with
  | none => s
  | some t =>
    if !isHead s a ∨ !t.issued ∨ t.phase = 3 ∨ !isOn s dSEQ then s
    else
      let k := arriveRows t remote t.rows s
      touch dSEQ (modStep a n (fun t => { t with rows := k.1, phase := if k.1.all rowDone then 3 else t.phase }) k.2)
def execTokenArrival (aisle step : Nat) (remote : List Arrived) (s : State) :=
  run (.tokenArrival aisle step remote) s (tokenArrival aisle step remote s)

/-! ### The end of a step -/

/-- The FINAL of an APPEND that rung 2 served while the request was RESUMING (R266); its tokens are kept. (DEDUCED, log 35) -/
def commitR2 (w : Row) (s : State) : State :=
  let r := w.req
  match (side s r).pend with
  | none => s
  | some p =>
    let e := ent s r
    let x := side s r
    let n := x.r2Toks.length
    let first := since 32 p.ingress x.r2Out
    let late := bit p.ctrl 4 && p.template == 0xFFFF && p.deadline.any (fun d => x.r2Out.any (fun t => decide (d < t)))
    let st := if late then 0x31 else w.endSt.getD 0x02
    let q := { bareFinal s r p.cid st p.ingress with outcome := 1, rung := 2, predict := n, first := first, last := first }
    let s := tillFinal e.till st (post e.channel q s)
    let s := modEnt r (fun e => { e with budget := e.budget - n }) s
    let s := modSide r (fun x => { x with
      kept := x.kept ++ p.tokens ++ x.r2Toks, r2 := 0, r2Toks := []
      pend := some { isClose := false, posts := false, ctrl := p.ctrl % 4, prio := e.prio } }) s
    if (ent s r).st = .ready then promote r s else s

/-- A running generation after its step's commit: it ends, is BLOCKED, or goes on. -/
def afterCommit (w : Row) (s : State) : State :=
  let r := w.req
  let e := ent s r
  let full := decide (e.budget = 0) || decide (e.maxLen ≤ e.committed)
  let free (s : State) : State := when_ full (modSide r (fun x => { x with freeing := true })) s
  if e.poison ∧ (w.endSt.isSome ∨ full) then logEv 0x0809 e.stall [] (toClosing r 0x41 0x41 0x12 false s)
  else match w.endSt with
    | some st => toDraining r st false false false (free s)
    | none =>
      if (e.maxNew = 0 ∧ e.prompt.isEmpty) ∨ full then toDraining r 0x01 true false false (free s)
      else
        let s := if e.st = .prefill ∧ e.prompt.isEmpty then modEnt r (fun e => { e with st := .decode }) s else s
        if (side s r).heldRecs.isEmpty then s else modEnt r (fun e => { e with st := .blocked }) s

/-- A row's effects are committed (R237): a masked row commits what was sampled before its cut-off. -/
def commitRow (w : Row) (s : State) : State :=
  let r := w.req
  if w.gen ≠ genOf s 2 r then s
  else
    let x := side s r
    let s := modSide r (fun x => { x with inStep := none, masked := false, cutoff := none, idleSince := s.ft }) s
    let s := when_ (isFw r) (callModules 2 (claims (ent s r).stall)) s
    if x.r2 = 2 then (if w.live then commitR2 w s else modSide r (fun x => { x with r2 := 0 }) s)
    else
      let stands := w.live || decide (w.taken ≠ 0)
      let join := if w.endSt.isSome && w.taken != 0 then w.joined + w.takenNext else 0
      let s := if !stands then modSide r (fun x => { x with promoted := none }) s
        else
          let s := modEnt r (fun e => { e with
            committed := if w.rung = 2 then e.committed else e.committed + w.prompt.length + w.taken + join
            prompt := if w.rung = 2 then e.prompt else e.prompt.drop w.prompt.length
            genLen := e.genLen + w.taken
            budget := e.budget - w.taken - (if join = 0 then 0 else w.takenNext) }) s
          let s := if join = 0 then modSide r (fun x => { x with promoted := x.promoted.map (fun p => { p with joined := 0, recs := [], endSt := none }) }) s else s
          if w.rung = 2 then s else insertPages r (ent s r).pages.length s
      let s := if running (ent s r) ∧ stands then afterCommit w s else s
      let s := payRec r s
      closeIfDone r s

/-- STEP_END on the head chip. -/
def endHead (t : Step) (s : State) : State :=
  let s := { s with steps := s.steps.filter (fun x => !(x.aisle == t.aisle && x.num == t.num)) }
  releaseItems t.aisle t.num (forEach t.rows commitRow s)

/-- STEP_END on a member chip: the shadows whose release was ordered go, and the head chip is told (R241, R243). -/
def endMember (t : Step) (s : State) : State :=
  let s := { s with steps := s.steps.filter (fun x => !(x.aisle == t.aisle && x.num == t.num)) }
  let s := forEach t.rows (fun w => modSide w.req (fun x => { x with inStep := none, masked := false, cutoff := none })) s
  let s := forEach (t.rows.filter (fun w => bit w.orders 1)) (fun w => freeEntry w.req) s
  let head := ((chain s t.aisle).headD (0, 0)).1
  emit (.confirm head t.aisle t.num) (releaseItems t.aisle t.num s)

/-- STEP_END: a step's work is done and its results are in. -/
def stepEnd (a n : Nat) (s : State) : State :=
  match s.steps.find? (fun t => t.aisle == a && t.num == n) with
  | none => s
  | some t =>
    if !t.issued ∨ !isOn s dSEQ ∨ !itemsDone s a n then s
    else if isHead s a then (if t.rows.all (fun w => rowDone w && rowBack s t w) then endHead t s else s)
    else endMember t s
def execStepEnd (aisle step : Nat) (s : State) := run (.stepEnd aisle step) s (stepEnd aisle step s)

/-- STEP_COMMIT_CONFIRM: a member chip confirms a step's commit (R241). -/
def stepCommitConfirm (a n chip : Nat) (s : State) : State :=
  forEach (aisleReqs s a) (fun r s =>
    if (side s r).confirm.contains (n * 256 + chip) then
      closeIfDone r (modSide r (fun x => { x with confirm := x.confirm.filter (· != n * 256 + chip) }) s)
    else s) s
def execStepCommitConfirm (aisle step chip : Nat) (s : State) :=
  run (.stepCommitConfirm aisle step chip) s (stepCommitConfirm aisle step chip s)

/-! ### GENERATION_FINAL -/

/-- An APPEND that joined the last step of the generation before it becomes the open command (R239). -/
def switchOpen (r : Nat) (p : Pend) (q : Promo) (s : State) : State :=
  let e := ent s r
  let gone := p.template != 0xFFFF && q.ft.isSome && (q.exempt || !frameOut s r p.ingress)
  let left := p.tokens.drop q.joined
  let s := modSide r (fun x =>
    { freshCmd x with
      pend := none, open_ := .append, trig := true, before := .ready, acked := true, template := p.template
      acceptAt := p.ingress, outcome := if e.rung = 0 then 0 else 1, rungMax := e.rung, admitAt := q.at_, issued := true
      own := p.tokens, guesses := if q.ft.isSome then x.guesses else [], exempt := gone
      lateFin := q.lateSt == some 0x31, tokensOut := q.written
      firstAt := if q.written = 0 then none else q.ft, lastAt := if q.written = 0 then none else q.ft }) s
  let s := modEnt r (fun e => { e with
    st := if left.isEmpty then .decode else .prefill, cid := p.cid, prompt := left, maxNew := p.maxNew, deadline := p.deadline
    ingress := p.ingress, maxRung := bits p.ctrl 1 0, spec := bits p.ctrl 3 2, late := bit p.ctrl 4, prio := p.prio
    genLen := q.written + q.recs.length, displaced := 0, deferred := false, superseded := false
    admitOfs := min (q.at_ - p.ingress) 65535 }) s
  let s := forEach q.recs (deliver r) (armDeadline r s)
  if q.lateSt = some 0x30 then toDraining r 0x30 true true false s
  else match q.endSt with
    | some st =>
      let s := when_ ((q.written + q.recs.length) == 0) (recWrite r (closingRec s r false false)) s
      toDraining r (finishSt s r st) false false false s
    | none =>
      if (p.maxNew = 0 ∧ left.isEmpty) ∨ (side s r).freeing then toDraining r 0x01 true false false s
      else if (side s r).heldRecs.isEmpty then s else modEnt r (fun e => { e with st := .blocked }) s

/-- The FINAL may be posted (R241); an order frame on its way may still make the generation late. (DEDUCED, log 42) -/
def finalDue (s : State) (r : Nat) : Bool :=
  let x := side s r
  (ent s r).st == .draining && x.ending.isSome && x.inStep.isNone && x.heldRecs.isEmpty && x.owed.isNone && x.confirm.isEmpty
    && isOn s dSEQ && !(x.template != 0xFFFF && frameOut s r x.acceptAt)

/-- The request leaves DRAINING after its FINAL. Rung 2 leaves its tokens to be prefilled (R295). -/
def leaveDraining (r st : Nat) (s : State) : State :=
  let e := ent s r
  let x := side s r
  match x.promoted, x.pend.filter (fun p => !p.isClose) with
  | some q, some p => switchOpen r p q s
  | _, _ =>
    if x.freeing then toClosing r st 0x12 0x12 false (modSide r (fun y => { y with ending := none }) (modEnt r (fun e => { e with st := .ready }) s))
    else
      let s := if e.rung ≠ 2 then s
        else modSide r (fun y => { y with
          kept := y.kept ++ e.prompt ++ y.r2Toks, r2Toks := []
          pend := y.pend.or (some { isClose := false, posts := false, ctrl := min e.maxRung 1, prio := e.prio }) }) s
      toReady r (modSide r (fun y => { y with ending := none, promoted := none }) s)

/-- GENERATION_FINAL. -/
def generationFinal (r : Nat) (s : State) : State :=
  if !finalDue s r then s
  else
    let x := side s r
    let st := x.ending.getD 0
    let st := if st ≤ 2 ∧ x.lateFin ∧ x.template ≠ 0xFFFF then 0x31 else st
    leaveDraining r st (if x.open_ = .none_ then s else finishOpen r st s)
def execGenerationFinal (req : Nat) (s : State) := run (.generationFinal req) s (generationFinal req s)

/-! ### STEP_RECORD_RECEIVE (R243 to R245, R252, R307) -/

/-- The shadow of a master's handle. -/
def shadowOf (s : State) (h : Nat) : Option Nat :=
  (s.rtb.find? (fun p => p.2.shadow && p.2.seed == BitVec.ofNat 64 h)).map Prod.fst

/-- The nodes from a root down to a node. -/
def pathTo (s : State) : Nat → Nat → List Nat
  | 0, _ => []
  | n + 1, i => if i = noNode ∨ !(node s i).valid then [] else pathTo s n (node s i).parent ++ [i]

/-- A shadow is created, with its own pages of the nodes that the head chip matched. -/
def createShadow (h stall m : Nat) (adp : Option Nat) (com nd depth : Nat) (s : State) : Option Nat × State :=
  match lowest 4096 (fun k => (ent s k).st == .free) with
  | none => (none, s)
  | some r =>
    let path := if depth = 0 then [] else pathTo s depth nd
    let pages := (path.map (fun i => (node s i).page)).filter (· != 0xFFFF)
    let s := forEach path nodeRef s
    let x : Entry :=
      { st := .ready, stall := stall, model := m, shadow := true, seed := BitVec.ofNat 64 h, committed := com
        adapter := adp.getD 0, adapterEn := adp.isSome }
    let y : Side := { pfxNode := path.getLast?, pfxDepth := path.length }
    (some r, setPages r (pages.map (fun p => (p, true))) { s with rtb := put s.rtb r x {}, side := put s.side r y {} })

/-- The head chip has inserted nodes for a request: this chip inserts its own pages at the same indices (R252, R254).
The record carries no tokens: TOKENS is P, the ids of the span are free values. (DESIGN CHOICE, log 65) -/
def followInsert (r : Nat) : Nat → State → State
  | 0, s => s
  | n + 1, s =>
    let x := side s r
    if x.pfxDepth < (ent s r).pages.length then
      let f := fresh s
      let span := (List.range (min 16 (model s (ent s r).model).pageTokens)).map (fun i => f.1 / 65536 ^ i % 65536)
      followInsert r n (insertNode r span f.2)
    else s

/-- Pages that a shadow's positions up to `n` need (R307). -/
def grantShadow (r lo n : Nat) (s : State) : State :=
  let e := ent s r
  let s := copyOnWrite r lo n s
  let a := allocPages e.stall (pagesHere s e.model n - (ent s r).pages.length) s
  setPages r ((ent a.2 r).pages ++ a.1.map (fun p => (p, false))) a.2

/-- PAUSE and RESUME orders (R245). -/
def shadowOrders (r orders : Nat) (s : State) : State :=
  let e := ent s r
  let s := if bit orders 2 ∧ e.st = .ready then
      let ks := takeSlots s (slotsFor e.pages.length)
      modEnt r (fun e => { e with st := .pausing }) { s with nmc := { s.nmc with dirSlots := put s.nmc.dirSlots r ks [] } }
    else s
  let s := if bit orders 3 ∧ (ent s r).st = .paused then
      let n := (look s.nmc.dir r {}).pages.length
      let a := allocPages e.stall n s
      setPages r (a.1.map (fun p => (p, false))) (modEnt r (fun e => { e with st := .resuming }) a.2)
    else s
  let s := if bit orders 6 ∧ (ent s r).st = .resuming then modEnt r (fun e => { e with st := .paused }) (releasePages r s) else s
  if bit orders 1 then modEnt r (fun e => { e with st := .closing }) s else s

/-- One row descriptor on this chip, a member at stall `n` of the aisle: its row, unless the handle names nothing. -/
def recordRow (head : Nat × Nat) (n num m : Nat) (adps : List Nat) (d : Bytes) (s : State) : Option Row × State :=
  let q := u32 d 0
  let gen := bits q 31 24
  let idx := bits q 23 0
  let com := u16 d 4 + 65536 * u8 d 13
  let new := u8 d 6 % 64
  let orders := u8 d 7
  let depth := bits (u32 d 8) 31 18
  let h := handleOf gen head.1 head.2 2 idx
  let aslot := u8 d 12 % 16
  let adp := if bit orders 5 then some (adps.getD aslot 0) else none
  let k := match shadowOf s h with
    | some r => (some r, s)
    | none => if bit orders 0 then createShadow h n m adp com (bits (u32 d 8) 17 0) depth s else (none, s)
  match k with
  | (none, s) => (none, logC 0x0406 [4, head.1, head.2, s.fab.chip] (sendFault 4 head.1 head.2 s.fab.chip 0 h 0 0 s))
  | (some r, s) =>
    let s := followInsert r (depth - (side s r).pfxDepth) s
    let s := modEnt r (fun e => { e with committed := com, rung := b2n (bit orders 4) }) s
    let s := match adp with | some a => fetchAdapter m n a s | none => s
    let s := if new = 0 then s else grantShadow r com (com + new) s
    let s := shadowOrders r orders s
    let s := modSide r (fun x => { x with inStep := some num, masked := false, cutoff := none }) s
    (some { req := r, gen := genOf s 2 r, committed := com, prompt := [], new := new, spec := u8 d 6 / 64, rung := b2n (bit orders 4)
            orders := orders, aslot := aslot, lane := 0, verify := 0, samples := new != 0 }, s)

/-- The row descriptors in turn. -/
def recordRows (head : Nat × Nat) (n num m : Nat) (adps : List Nat) (b : Bytes) : Nat → State → List Row × State
  | 0, s => ([], s)
  | k + 1, s =>
    let z := recordRows head n num m adps b k s
    let r := recordRow head n num m adps (slice b (64 + 16 * k) 16) z.2
    (match r.1 with | some w => z.1 ++ [w] | none => z.1, r.2)

/-- STEP_RECORD_RECEIVE: the record goes on unchanged to this chip's successor, its orders are taken, and the step's
work items are created; they wait for the predecessor's activations (R18). -/
def recordReceive (b : Bytes) (s : State) : State :=
  let a := u8 b 14
  let p := myPos s a
  match (chain s a)[p]?, (chain s a).head? with
  | some (_, n), some head =>
    if p = 0 then s
    else if !isOn s dSEQ then await dSEQ (.stepRecordReceive b) s
    else
      let num := u32 b 0
      let s := match (chain s a)[p + 1]? with
        | some (c, _) => let f := fresh s; touch dLNK (issuePW n c 0 0 0 (f.1 % 2 ^ 21) [] false b f.2)
        | none => s
      let adps := (List.range 16).map (fun i => u16 b (20 + 2 * i))
      let k := recordRows head n num (u8 b 12) adps b (u8 b 13) s
      let t : Step :=
        { num := num, aisle := a, model := u8 b 12, issue := u64 b 4, issued := true, phase := 1, rows := k.1, adapters := adps
          cyc := if bit (u8 b 15) 0 then some (u16 b 16) else none }
      let s := { k.2 with steps := k.2.steps ++ [t] }
      let is := stepItems t n 0 s
      let s := touch dSEQ (if t.rows.any (fun w => w.new != 0) then placeItems a num n is.1 is.2 else s)
      let here := !t.rows.any (fun w => w.new != 0) || t.rows.any (fun w => (side s w.req).fed)
      when_ here (feed a num) (forEach t.rows (fun w => modSide w.req (fun x => { x with fed := false })) s)
  | _, _ => s
def execStepRecordReceive (record : Bytes) (s : State) := run (.stepRecordReceive record) s (recordReceive record s)

end Sys2Proof.Machine
end

