-- ==== Sys2Proof/Machine/Cycle.lean ====
section
/-! DEFINITION. Fixed-cycle operation (R132, R314, R318, R320, R321, R521, R529): the cycle, its slots, its restart. -/
namespace Sys2Proof.Machine

/-- STP_CYCLES. -/
abbrev rCycles : Nat := 0x00150008

/-- The chip's cycle runs: a Fixed-cycle configuration is installed, the cycle is not stopped, SEQ is ON. -/
def cycleRuns (s : State) : Bool :=
  isFixed s && s.conf.cycle.isSome && s.fixed.stopped.isNone && isOn s dSEQ && !leaving s

/-- A cycle starts at this FT (R318). -/
def cycleBoundary (s : State) : Bool := decide (phaseFt s ≤ s.ft) && (s.ft - phaseFt s) % periodFt s == 0

/-- The fenced physical cores. -/
def fencedCores (s : State) : List Nat := (s.wks.cores.filter (fun c => c.2.fenced)).map Prod.fst

/-- A plan tolerates every fenced core: plan 0, the primary, tolerates none. -/
def tolerates (s : State) (plan : Nat) : Bool :=
  let set := if plan = 0 then 0 else match s.conf.cycle with
    | some c => ((c.spares[plan - 1]?).map (fun p => p.1.toNat)).getD 0
    | none => 0
  (fencedCores s).all (fun p => bit set p)

/-- The plan for the next cycle (R321): the plan in use while it tolerates the fenced cores, else the first spare
plan that does; DEGRADED when none does. -/
def choosePlan (s : State) : State :=
  if s.fixed.degraded ∨ tolerates s s.fixed.plan then s
  else
    let n := match s.conf.cycle with | some c => c.spares.length | none => 0
    match ((List.range n).map (· + 1)).find? (tolerates s) with
    | some p => logC 0x0A03 [p] { s with fixed := { s.fixed with plan := p } }
    | none => logC 0x0A04 [] { s with fixed := { s.fixed with degraded := true } }

/-- A cycle begins (R132, R318, R321). No rule says from which cycle the 7, 3 or 1 are counted when a level is entered: the
count since the last idled cycle runs on at every level. (DESIGN CHOICE, log 85) -/
def beginCycle (s : State) : State :=
  let s := addWrap rCycles 1 (choosePlan s)
  let run := rdf s rDuty 2 0
  let rest := decide (run ≠ 0 ∧ run ≤ s.fixed.dutyRun)
  { s with fixed := { s.fixed with at_ := s.ft, slot := 0, idled := rest, dutyRun := if rest then 0 else s.fixed.dutyRun + 1 } }

/-- CYCLE_START. -/
def cycleStart (s : State) : State :=
  if cycleRuns s ∧ cycleBoundary s ∧ (s.fixed.at_ ≠ s.ft ∨ rd s rCycles = 0) then beginCycle s else s
def execCycleStart (s : State) := run .cycleStart s (cycleStart s)

/-- The bound rows of a group that have work on an aisle (R318, R320): admitted, and their last step ended, at least
24 FT before the slot. -/
def slotRows (s : State) (a g : Nat) : List Nat :=
  let bound := (s.fixed.bound.filter (fun b => b.1 == g)).map (fun b => b.2.2)
  bound.filter (fun r => candidate s a r && decide ((side s r).admitAt + 24 ≤ s.ft)
    && (!(side s r).issued || decide ((side s r).idleSince + 24 ≤ s.ft)))

/-- The monitor on a bound row (R314): only R312 and R313 apply. Answers whether the row stays. -/
def monitorBound (a : Nat) (g : CycSlot) (r : Nat) (s : State) : Bool × State :=
  let e := ent s r
  if unmonitored s r then (true, s)
  else if finishFrom s a e.stall (rowJob s r g.rung g.depth) 0 s.ft ≤ e.deadline.getD 0 then (true, s)
  else if e.late then (true, finishLate r s)
  else (false, dropLate r s)

/-- The rows that stay. -/
def monitorSlot (a : Nat) (g : CycSlot) : List Nat → State → List Nat × State
  | [], s => ([], s)
  | r :: t, s =>
    let k := monitorBound a g r s
    let z := monitorSlot a g t k.2
    (if k.1 then r :: z.1 else z.1, z.2)

/-- One step of a slot on an aisle. -/
def slotStep (i : Nat) (g : CycSlot) (a : Nat) (s : State) : State :=
  if !isHead s a then s
  else
    let s := endPoisoned a s
    let mon := monitorSlot a g (slotRows s a g.group) s
    let p := pickPass a 64 false mon.1 mon.1 {} mon.2
    let s := p.2
    if p.1.rows.isEmpty then s
    else
      let num := (aisle s a).stepNum
      let b := buildRows num (mon.1.map (fun r => (r, g.depth))) p.1.rows s
      let ctx := (b.1.map (fun w => w.committed + w.new)).foldl max 1
      let occ := issueIvl b.2 a g.model b.1.length ctx
      let st : Step :=
        { num := num, aisle := a, model := g.model, issue := s.ft, rows := b.1, adapters := p.1.adapters, cyc := some i, occ := occ }
      stepIssue a (modAisle a (fun x => { x with stepNum := (num + 1) % 2 ^ 32, lastIssue := some s.ft, ivl := occ })
        { b.2 with steps := b.2.steps ++ [st] })

/-- SLOT_START: the next slot of the plan begins; an idle one, or one of an idled cycle, carries no step. (DESIGN CHOICE, log 45) -/
def slotStart (s : State) : State :=
  let i := s.fixed.slot
  match (planSlots s)[i]? with
  | none => s
  | some g =>
    if !cycleRuns s ∨ rd s rCycles = 0 ∨ s.ft < s.fixed.at_ + slotOfs s i then s
    else
      let t := { s with fixed := { s.fixed with slot := i + 1 } }
      if g.idle ∨ s.fixed.idled then t else forEach (s.conf.aisles.map Prod.fst) (slotStep i g) t
def execSlotStart (s : State) := run .slotStart s (slotStart s)

/-- CYCLE_RESTART: after a job fault the chip re-enters its plan at a slot boundary (R529). -/
def cycleRestart (s : State) : State :=
  if s.fixed.stopped.isNone ∨ !isFixed s ∨ !isOn s dSEQ ∨ s.ft < phaseFt s then s
  else
    let o := (s.ft - phaseFt s) % periodFt s
    match (List.range (planSlots s).length).find? (fun i => slotOfs s i == o) with
    | none => s
    | some i =>
      let s := logC 0x0A02 [] { s with fixed := { s.fixed with stopped := none, at_ := s.ft - o, slot := i } }
      if i = 0 then beginCycle s else s
def execCycleRestart (s : State) := run .cycleRestart s (cycleRestart s)

end Sys2Proof.Machine
end

