-- ==== Sys2Proof/Machine/ControlCore.lean ====
section
/-! DEFINITION. The control core (R380 to R404): its event instructions, bulk instructions, interrupts, mailbox and
policy modules. The instructions of its programs are otherwise outside the specification. -/
namespace Sys2Proof.Machine

/-- Change the control core. -/
def modCc (f : Cc → Cc) (s : State) : State := { s with cc := f s.cc }

/-- A thread executes instructions: CCR is ON, the core runs, the thread runs. -/
def threadRuns (s : State) (t : Nat) : Bool := isOn s dCCR && s.cc.run == 0 && (thread s t).st == 0

/-- A thread's bulk instruction also goes on while the control core reloads: the current instruction is finished (R166). -/
def bulkRuns (s : State) (t : Nat) : Bool :=
  isOn s dCCR && (s.cc.run == 0 || (s.cc.run == 1 && s.img.reloading)) && (thread s t).st == 0

/-! ### Events (R357, R358, R383) -/

/-- EPOST. -/
def epost (t f : Nat) (s : State) : State := if threadRuns s t then touch dCCR (postFlag f (retire t s)) else s
def execEpost (thread flag : Nat) (s : State) := run (.epost thread flag) s (epost thread flag s)
/-- ECLR. -/
def eclr (t f : Nat) (s : State) : State := if threadRuns s t then touch dCCR (clearFlag f (retire t s)) else s
def execEclr (thread flag : Nat) (s : State) := run (.eclr thread flag) s (eclr thread flag s)
/-- EWAIT. -/
def ewait (t f : Nat) (s : State) : State :=
  if !threadRuns s t then s
  else if flagOpen s f then endWait t 0 s
  else modWks (fun w => { w with waiters := w.waiters ++ [(t, f)] }) (modThread t (fun x => { x with st := 1 }) s)
def execEwait (thread flag : Nat) (s : State) := run (.ewait thread flag) s (ewait thread flag s)

/-! ### Bulk instructions (R382, R390 to R393) -/

/-- General register `i` of a thread; G0 reads as zero. -/
def greg (s : State) (t i : Nat) : Nat := if i = 0 then 0 else (look (thread s t).g i 0).toNat
/-- Write a general register; G0 discards it. -/
def setG (t i v : Nat) (s : State) : State :=
  if i = 0 then s else modThread t (fun x => { x with g := put x.g i (BitVec.ofNat 64 v) 0 }) s

/-- The start of the lake in the control core's map, and its size. -/
abbrev ccLake : Nat := 0x1000000000
/-- 32 GiB. -/
abbrev lakeSize : Nat := 0x800000000

/-- A range of `n` bytes lies in SRAM, within the thread's region, or in the lake. A thread whose region base firmware
has not set has all of SRAM. (DESIGN CHOICE, log 46) -/
def rangeOk (s : State) (t a n : Nat) : Bool :=
  let r := (thread s t).region
  (decide (a + n ≤ 0x40000) && (r.isEmpty || r.any (fun x => decide (x.1 ≤ a ∧ a + n ≤ x.1 + x.2))))
    || decide (ccLake ≤ a ∧ a + n ≤ ccLake + lakeSize)

/-- The operand fault of R391. BSCAN and BCRC take their result in G2: only its alignment is checked. -/
def bulkFault (s : State) (t op : Nat) : Bool :=
  let a := greg s t 1
  let b := greg s t 2
  let n := greg s t 3
  a % 64 != 0 || b % 64 != 0 || n % 64 != 0 || decide (1048576 < n) || !rangeOk s t a n
    || (op == 0 && (!rangeOk s t b n || decide (a < b + n ∧ b < a + n)))

/-- A thread faults: 1 protection, 2 bulk operand, 3 lake error (R389, R391, R393). -/
def threadFault (t k : Nat) (s : State) : State := modThread t (fun x => { x with st := 3, fault := k, bulk := none }) s

/-- A bulk instruction begins; with G3 = 0 it completes at once. -/
def bulkBegin (t op : Nat) (s : State) : State :=
  if !threadRuns s t ∨ (thread s t).bulk.isSome then s
  else if greg s t 3 = 0 then retire t (if op = 1 then setG t 2 0 s else s)
  else if bulkFault s t op then threadFault t 2 s
  else touch dCCR (modThread t (fun x => { x with bulk := some ⟨op⟩ }) s)
/-- BMOVE. -/
def execBmove (thread : Nat) (s : State) := run (.bmove thread) s (bulkBegin thread 0 s)
/-- BSCAN. -/
def execBscan (thread : Nat) (s : State) := run (.bscan thread) s (bulkBegin thread 1 s)
/-- BCRC. -/
def execBcrc (thread : Nat) (s : State) := run (.bcrc thread) s (bulkBegin thread 2 s)

/-- Read bytes of the control core's map. -/
def ccRead (s : State) (a n : Nat) : Bytes :=
  if a < 0x40000 then lookBytes s.cc.sram a n else lookBytes s.nmc.lake (a - ccLake) n
/-- Write bytes of the control core's map. -/
def ccWrite (a : Nat) (b : Bytes) (s : State) : State :=
  if a < 0x40000 then modCc (fun c => { c with sram := putBytes c.sram a b }) s
  else { s with nmc := { s.nmc with lake := putBytes s.nmc.lake (a - ccLake) b } }

/-- The instruction ends. -/
def bulkEnd (t : Nat) (s : State) : State := retire t (modThread t (fun x => { x with bulk := none }) s)

/-- One unit is over: G1, and G2 for BMOVE, advance. -/
def bulkAdvance (t op : Nat) (s : State) : State :=
  let n := greg s t 3 - 64
  let s := setG t 3 n (setG t 1 (greg s t 1 + 64) s)
  let s := if op = 0 then setG t 2 (greg s t 2 + 64) s else s
  if n ≠ 0 then s else bulkEnd t (if op = 1 then setG t 2 0 s else s)

/-- The first of a unit's eight words that BSCAN looks for. -/
def scanHit (s : State) (t : Nat) (unit : Bytes) : Option Nat :=
  lowest 8 (fun i => (BitVec.ofNat 64 (u64 unit (8 * i)) &&& BitVec.ofNat 64 (greg s t 5)) == BitVec.ofNat 64 (greg s t 4))

/-- BULK_UNIT_COMPLETE. -/
def bulkUnit (t : Nat) (lakeError : Bool) (s : State) : State :=
  match (thread s t).bulk with
  | none => s
  | some b =>
    let a := greg s t 1
    let lake := decide (ccLake ≤ a) || (b.op == 0 && decide (ccLake ≤ greg s t 2))
    let blocked := (decide (ccLake ≤ a) && !lakeNow s (a - ccLake) 64 6)
      || (b.op == 0 && decide (ccLake ≤ greg s t 2) && !lakeNow s (greg s t 2 - ccLake) 64 6)
    if !bulkRuns s t ∨ blocked then s
    else if lakeError ∧ lake then threadFault t 3 s
    else
      let unit := ccRead s a 64
      let s := touch dCCR s
      ccrStop t (match b.op with
      | 0 => bulkAdvance t 0 (ccWrite (greg s t 2) unit s)
      | 1 => match scanHit s t unit with
        | some i => bulkEnd t (setG t 2 (a + 8 * i) s)
        | none => bulkAdvance t 1 s
      | _ => bulkAdvance t 2 (setG t 4 (unit.foldl crc32cByte (w32 (greg s t 4))).toNat s))
def execBulkUnitComplete (thread : Nat) (lakeError : Bool) (s : State) :=
  run (.bulkUnitComplete thread lakeError) s (bulkUnit thread lakeError s)

/-! ### Interrupts (R387 to R389) -/

/-- CC_INT_PEND. -/
abbrev rIntPend : Nat := 0x000C0010
/-- Thread and priority of a source. -/
def routeOf (s : State) (b : Nat) : Nat × Nat :=
  let v := rd s 0x000C0014
  (bits v (4 * b + 1) (4 * b), bits v (4 * b + 3) (4 * b + 2))

/-- The pending interrupt that a thread takes: the highest priority, then the lowest bit. -/
def nextInt (s : State) (t : Nat) : Option (Nat × Nat) :=
  [0, 1, 2, 3].findSome? (fun p => (lowest 8 (fun b => bit (rd s rIntPend) b && routeOf s b == (t, p))).map (fun b => (b, p)))

/-- INTERRUPT_TAKE: the handler starts, so none of equal or higher priority still runs. Taking clears the pending
bit. An EWAIT returns 2. -/
def interruptTake (t : Nat) (s : State) : State :=
  let x := thread s t
  if !isOn s dCCR ∨ s.cc.run ≠ 0 ∨ (x.st ≠ 0 ∧ x.st ≠ 1) then s
  else match nextInt s t with
    | none => s
    | some (b, p) =>
      let s := if x.st = 1 then endWait t 2 s else s
      let s := modThread t (fun x => { x with handlers := p :: x.handlers.filter (p < ·) }) (clrBit rIntPend b s)
      touch dCCR (modWks (fun w => { w with waiters := w.waiters.filter (fun y => y.1 != t) }) s)
def execInterruptTake (thread : Nat) (s : State) := run (.interruptTake thread) s (interruptTake thread s)

/-! ### Mailbox (R384 to R386) -/

/-- A word of a slot: the command from 0, the response from 16. -/
abbrev rMbx (k i : Nat) : Nat := 0x000C0100 + 0x80 * k + 4 * i
/-- State of a slot: 0 FREE, 1 POSTED, 2 BUSY, 3 DONE. -/
def mbxState (s : State) (k : Nat) : Nat := look s.cc.mbx k 0
/-- Set it. -/
def setMbx (k st : Nat) (s : State) : State := modCc (fun c => { c with mbx := put c.mbx k st 0 }) s

/-- MBX_DB with FREE = 0. -/
def mbxPost (k : Nat) (s : State) : State :=
  if mbxState s k = 0 then ccInt 0 (setMbx k 1 s) else setBit 0x000C0304 8 s
def execMbxDbPost (slot : Nat) (s : State) := run (.mbxDbPost slot) s (mbxPost slot s)
/-- MBX_DB with FREE = 1. -/
def mbxFree (k : Nat) (s : State) : State := if mbxState s k = 3 then setMbx k 0 s else setBit 0x000C0304 8 s
def execMbxDbFree (slot : Nat) (s : State) := run (.mbxDbFree slot) s (mbxFree slot s)

/-- The command of a slot. -/
def mbxCmd (s : State) (k : Nat) : Bytes := ((List.range 16).map (fun i => leBytes 4 (rd s (rMbx k i)))).flatten

/-- The response: the status, the tag, the bytes from 8. Bytes 0 and 4 to 7 are not stated: free values. -/
def mbxAnswer (k status : Nat) (data : Bytes) (s : State) : State :=
  let cmd := mbxCmd s k
  let f := fresh s
  let b := [BitVec.ofNat 8 f.1, BitVec.ofNat 8 status] ++ slice cmd 2 2 ++ leBytes 4 (f.1 / 256) ++ fit 56 data
  let s := forEach (List.range 16) (fun i s => wr (rMbx k (16 + i)) (u32 b (4 * i)) s) f.2
  devEvent 1 (setMbx k 3 s)

/-- Base firmware takes the first POSTED slot (it is BUSY while it is answered) and answers its command; an unknown
opcode is BAD_OP. A slot that holds another command is left to that command. -/
def mbxServe (k op : Nat) (act : Bytes → State → State) (s : State) : State :=
  let cmd := mbxCmd s k
  if !isOn s dCCR ∨ s.cc.run ≠ 0 ∨ mbxState s k ≠ 1 ∨ (List.range k).any (fun j => mbxState s j == 1) then s
  else if u8 cmd 0 = 0 ∨ 5 < u8 cmd 0 then mbxAnswer k 1 [] s
  else if u8 cmd 0 ≠ op then s
  else act cmd (touch dCCR s)

/-- 56 bytes that are not stated. -/
def freshBytes (s : State) : Bytes × State := let f := fresh s; (leBytes 56 f.1, f.2)

/-- INFO: how the versions and states lie in the response is not stated. (DESIGN CHOICE, log 47) -/
def mbxInfo (k : Nat) (s : State) : State := mbxServe k 1 (fun _ s => let f := freshBytes s; mbxAnswer k 0 f.1 f.2) s
def execMbxInfo (slot : Nat) (s : State) := run (.mbxInfo slot) s (mbxInfo slot s)

/-- A policy module. -/
def modl (s : State) (k : Nat) : Module := look s.conf.modules k {}
/-- Change a module. -/
def modModl (k : Nat) (f : Module → Module) (s : State) : State :=
  { s with conf := { s.conf with modules := upd s.conf.modules k {} f } }

/-- MODULE_CTL: byte 8 names the module. How the command asks for enabling or disabling is not stated: a free value
decides. -/
def moduleCtl (k : Nat) (s : State) : State :=
  mbxServe k 2 (fun cmd s =>
    let m := u8 cmd 8
    let f := fresh s
    let s := f.2
    if 7 < m then mbxAnswer k 4 [] s
    else if (modl s m).st = 0 then mbxAnswer k 2 [] s
    else if (modl s m).st = 3 then mbxAnswer k 3 [] s
    else if f.1 % 2 = 1 then
      if (modl s m).st = 1 then mbxAnswer k 0 [] s else mbxAnswer k 0 [] (callModule m 0 (modModl m (fun x => { x with st := 1 }) s))
    else mbxAnswer k 0 [] (modModl m (fun x => { x with st := 2 }) (callModule m 7 s))) s
def execModuleCtl (slot : Nat) (s : State) := run (.moduleCtl slot) s (moduleCtl slot s)

/-- MODULE_MSG: which field names the module is not stated: a free value. A module without ON_MSG, or whose ON_MSG
gave no reply, answers MODULE_ERR. -/
def moduleMsg (k : Nat) (reply : Option Bytes) (s : State) : State :=
  mbxServe k 3 (fun _ s =>
    let f := fresh s
    let m := f.1 % 8
    if (modl s m).st ≠ 1 then mbxAnswer k 2 [] f.2
    else match reply with
      | some b => if (modl s m).entries.getD 4 0xFFFF = 0xFFFF then mbxAnswer k 3 [] f.2 else mbxAnswer k 0 b f.2
      | none => mbxAnswer k 3 [] f.2) s
def execModuleMsg (slot : Nat) (reply : Option Bytes) (s : State) := run (.moduleMsg slot reply) s (moduleMsg slot reply s)

/-- POWER_SET: PWR_POLICYn of each domain from the word at 8 + 4n. -/
def powerSet (k : Nat) (s : State) : State :=
  mbxServe k 4 (fun cmd s => mbxAnswer k 0 [] (forEach (List.range 12) (fun n => wr (rPolicy n) (u32 cmd (8 + 4 * n) % 2 ^ 20)) s)) s
def execPowerSet (slot : Nat) (s : State) := run (.powerSet slot) s (powerSet slot s)

/-- FW_RECORD: the record's layout belongs to the firmware: its bytes are free values. -/
def fwRecord (k : Nat) (s : State) : State :=
  mbxServe k 5 (fun cmd s =>
    let h := u64 cmd 8
    let r := hIdx h
    if handleOk s 2 h ∧ isFw r ∧ (ent s r).st ≠ .free then let f := freshBytes s; mbxAnswer k 0 f.1 f.2
    else mbxAnswer k 4 [] s) s
def execFwRecord (slot : Nat) (s : State) := run (.fwRecord slot) s (fwRecord slot s)

/-! ### Policy modules (R399 to R401) -/

/-- A thread is done with a callback: it halts, and the oldest call that waits takes it. -/
def threadDone (t : Nat) (s : State) : State :=
  let s := modThread t (fun x => { x with st := 2, modl := none, bulk := none, fault := 0 }) s
  match s.cc.calls with
  | c :: rest => modThread t (fun x => { x with st := 0, modl := some c }) (modCc (fun y => { y with calls := rest }) s)
  | [] => s

/-- CALLBACK_FAULT (R400): the callback is ended and the module disabled. -/
def callbackFault (t : Nat) (budget : Bool) (s : State) : State :=
  match (thread s t).modl with
  | none => s
  | some (k, _) =>
    let s := logC (if budget then 0x1302 else 0x1303) [k] (modModl k (fun x => { x with st := 2 }) s)
    threadDone t (modCc (fun c => { c with calls := c.calls.filter (fun x => x.1 != k) }) s)
def execCallbackFault (thread : Nat) (budget : Bool) (s : State) :=
  run (.callbackFault thread budget) s (callbackFault thread budget s)

/-- ADM_BLOCK: a channel's bit in its stall's ADM_PBLOCK. -/
def admBlock (m c : Nat) (set : Bool) (s : State) : State :=
  let n := (chan s c).stall
  let i := c - (stallCfg s n).chBase
  if (chan s c).st = 0 ∨ !serviceOk s m n then s
  else (if set then setBit else clrBit) (win n 0x300 + 4 * (i / 32)) (i % 32) s
def execAdmBlock (modl ch : Nat) (set : Bool) (s : State) := run (.admBlock modl ch set) s (admBlock modl ch set s)

/-- TIMER_SET: a FW_TIMER entry for a flag armed to the module (R349, R356). -/
def timerSet (m due f : Nat) (s : State) : State :=
  if (m < 8 ∧ (modl s m).st ≠ 1) ∨ 8192 ≤ s.wks.dly.l3.length then s
  else
    let s := if m < 8 then modModl m (fun x => { x with flags := x.flags.filter (· != f) ++ [f] }) s else s
    dlyIns 8 f (expandFt 48 due s.ft) s
def execTimerSet (modl due flag : Nat) (s : State) := run (.timerSet modl due flag) s (timerSet modl due flag s)

end Sys2Proof.Machine
end

