-- ==== Sys2Proof/Machine/NearMem.lean ====
section
/-! DEFINITION. The near-memory dies: in-bank commands, the coexistence modes, refresh, and ordinary accesses (R446 to
R473). -/
namespace Sys2Proof.Machine

/-- PIM_CTL. -/
abbrev rPimCtl : Nat := 0x001A0024
/-- PIM_STAT. -/
abbrev rPimStat : Nat := 0x001A0028
/-- PIM_PROGRESS. -/
abbrev rPimProgress : Nat := 0x001A002C

/-- Record the status of the last completion, refusal or abort in PIM_STAT. -/
def pimStatus (st : Nat) (s : State) : State := wrf rPimStat 19 16 st s

/-! ### Queueing (R456 to R459) -/

/-- The descriptor in PIM_DESC0 to 7. -/
def pimRaw (s : State) : Bytes := ((List.range 8).map (fun i => leBytes 4 (rd s (0x001A0000 + 4 * i)))).flatten

/-- The fields of R459. -/
def pimDesc (b : Bytes) : PimDesc :=
  { op := bits (u8 b 0) 3 0, scope := bits (u8 b 1) 1 0, resume := bit (u8 b 1) 2, chan := bits (u8 b 2) 3 0,
    bank := bits (u8 b 3) 4 0, a := u16 b 4, b := u16 b 6, c := u16 b 8, d := u16 b 10, count := u16 b 12,
    dbank := bits (u8 b 14) 4 0, maskId := bits (u16 b 16) 9 0, maskStall := bits (u8 b 18) 4 0,
    event := bits (u16 b 20) 9 0, post := bit (u16 b 20) 15, raw := b }

/-- Row operations of a command: 16 units a row for XFER, else one a row (R453). -/
def PimDesc.total (d : PimDesc) : Nat := if d.op = 8 then 16 * d.count else d.count

/-- A bit of the descriptor that no field holds is set. -/
def pimReserved (b : Bytes) : Bool :=
  u8 b 0 / 16 != 0 || u8 b 1 / 8 != 0 || u8 b 2 / 16 != 0 || u8 b 3 / 32 != 0 || u8 b 14 / 32 != 0 || u8 b 15 != 0
    || u16 b 16 / 1024 != 0 || u8 b 18 / 32 != 0 || u8 b 19 != 0 || bits (u16 b 20) 14 10 != 0 || !allZero (b.drop 22)

/-- The status of a refused descriptor, 0 when the engine takes it (R451 to R454, R459, R471). -/
def pimRefusal (s : State) (d : PimDesc) : Nat :=
  let modes := (List.range 16).map (handshake s)
  if pimReserved d.raw ∨ d.op = 0 ∨ 9 < d.op ∨ d.count = 0 ∨ 1024 < d.count ∨ (d.op = 9 ∧ d.count ≠ 1) then 1
  else if [d.a, d.b, d.c, d.d].any (fun r => 1024 ≤ r) ∨ (d.rows ++ [d.d]).any (fun r => 1024 < r + d.count) then 1
  else if d.resume ∧ d.total ≤ rd s rPimProgress then 1
  else if 2 < d.scope then 1
  else if (7 < d.op ∧ d.scope ≠ 0) ∨ (d.scope = 2 ∧ modes.contains true ∧ modes.contains false) then 3
  else if d.op ≠ 8 ∧ d.scope = 0 ∧ d.dbank ≠ 0 ∧ d.dbank ≠ d.bank then 2
  else 0

/-- PIM_CMD with GO (R456). (DEDUCED, log 67) -/
def pimGo (s : State) : State :=
  let d := pimDesc (pimRaw s)
  if 64 ≤ (s.nmc.q.filter (fun r => !r.running)).length then setBit rPimStat 8 s
  else
    let s := wakeDom dNMC s
    let x := pimRefusal s d
    if x ≠ 0 then logC 0x1204 [] (pimStatus x s)
    else
      let held := (s.heldAcc.filter (fun p => match atLake p with
        | some (off, n, _) => (List.range (n / 8192 + 2)).any (fun i => d.names (min (off + 8192 * i) (off + n - 1)))
        | none => false)).map Prod.snd
      let i := if d.resume then rd s rPimProgress else 0
      modNmc (fun m => { m with q := m.q ++ [{ id := m.nextId, desc := d, index := i, before := held }], nextId := m.nextId + 1 }) s
def execPimCmdGo (s : State) := run .pimCmdGo s (pimGo s)

/-- A command of the engine. -/
def pimRun (s : State) (id : Nat) : Option PimRun := s.nmc.q.find? (fun r => r.id == id)
/-- Change it. -/
def modRun (id : Nat) (f : PimRun → PimRun) (s : State) : State :=
  modNmc (fun m => { m with q := m.q.map (fun r => if r.id = id then f r else r) }) s
/-- It leaves the engine. -/
def dropRun (id : Nat) (s : State) : State := modNmc (fun m => { m with q := m.q.filter (fun r => r.id != id) }) s

/-- The time of one row operation (R450, R453). -/
def rowFt (op : Nat) : Nat :=
  match op with
  | 1 => 64 | 2 => 96 | 3 => 112 | 4 | 5 | 6 => 157 | 7 => 314 | _ => 256

/-! ### Coexistence (R464 to R468) -/

/-- An ordinary access or a refresh is pending for a HANDSHAKE channel of the die. -/
def diePending (s : State) (die : Nat) : Bool :=
  s.nmc.refresh.any (fun c => dieOf c == die)
    || s.heldAcc.any (fun p => ((atLake p).map (fun x =>
        dieOf (laneOf x.1).1 == die && handshake s (laneOf x.1).1 && rowsFree s x.1 x.2.1 (some p.2))).getD false)

/-- Its mode lets a row operation of a command start on a channel: HANDSHAKE, nothing pending on the die or its burst
served; SCHEDULED, a PIM slot in which it completes. -/
def rowMay (s : State) (op c : Nat) : Bool :=
  !refreshing s c
    && (if handshake s c then !diePending s (dieOf c) || s.nmc.burst.contains (dieOf c)
        else match slotNow s with
          | some (_, cls, left) => cls == 3 && decide (rowFt op ≤ left)
          | none => false)

/-- A row operation of the command may start now. -/
def runMay (s : State) (r : PimRun) : Bool := isOn s dNMC && r.desc.chans.all (rowMay s r.desc.op)

/-- Two commands name a bank in common. -/
def PimDesc.shares (x y : PimDesc) : Bool :=
  (List.range 16).any (fun c => (List.range 32).any (fun b => x.bankIn c b && y.bankIn c b))

/-- PIM_COMMAND_START (R457, R458). -/
def pimStart (id : Nat) (s : State) : State :=
  match pimRun s id with
  | none => s
  | some r =>
    let earlier := s.nmc.q.takeWhile (fun x => x.id != id)
    if r.running ∨ earlier.any (fun x => x.desc.shares r.desc) ∨ s.heldAcc.any (fun p => r.before.contains p.2) ∨ !runMay s r then s
    else touch dNMC (modRun id (fun r => { r with running := true }) s)
def execPimCommandStart (run_ : Nat) (s : State) := run (.pimCommandStart run_) s (pimStart run_ s)

/-! ### Row operations (R450, R453, R460) -/

/-- Replace the bytes of a range by those listed. -/
def setRange (m : SMap Byte) (base : Nat) (b : Bytes) : SMap Byte :=
  m.filter (fun p => p.1 < base)
    ++ (b.zipIdx.filter (fun x => x.1 != 0)).map (fun x => (base + x.2, x.1))
    ++ m.filter (fun p => base + b.length ≤ p.1)

/-- A byte of row D from those of A, B and C. -/
def rowByte (op : Nat) (a b c : Byte) : Byte :=
  match op with
  | 1 => 0 | 2 => a | 3 => ~~~ a | 4 => a &&& b | 5 => a ||| b | 6 => (a &&& b) ||| (a &&& c) ||| (b &&& c) | _ => a ^^^ b

/-- The banks of the command's scope. -/
def PimDesc.lanes (d : PimDesc) : List (Nat × Nat) :=
  d.chans.flatMap (fun c => (if d.scope = 0 then [d.bank] else List.range 32).map (fun b => (c, b)))

/-- Row operation `i` on every bank of the scope. -/
def rowApply (d : PimDesc) (i : Nat) (lake : SMap Byte) : SMap Byte :=
  d.lanes.foldl (fun m x =>
    let row (r : Nat) : Bytes := lookBytes m (rowAddr x.1 x.2 (r + i)) 8192
    let a := row d.a
    let b := if d.rows.length < 3 then a else row d.b
    let c := if d.op = 6 then row d.c else a
    setRange m (rowAddr x.1 x.2 (d.d + i)) ((a.zip (b.zip c)).map (fun z => rowByte d.op z.1 z.2.1 z.2.2))) lake

/-- Unit `i` of XFER: 512 bytes of a row, to row D of bank DBANK. -/
def unitApply (d : PimDesc) (i : Nat) (lake : SMap Byte) : SMap Byte :=
  let o := 512 * (i % 16)
  copyRange lake (rowAddr d.chan d.bank (d.a + i / 16) + o) 512 lake (rowAddr d.chan d.dbank (d.d + i / 16) + o)

/-- Channels of the command carry in-bank work from now (NMC_BUSY). -/
def busyBegin (d : PimDesc) (s : State) : State :=
  modNmc (fun m => { m with busyAt := d.chans.foldl (fun z c => if look z c 0 = 0 then put z c (s.ft + 1) 0 else z) m.busyAt }) s
/-- And no longer, where no other row operation runs. -/
def busyEnd (d : PimDesc) (s : State) : State :=
  forEach d.chans (fun c s =>
    let at_ := look s.nmc.busyAt c 0
    if at_ = 0 ∨ s.nmc.q.any (fun r => r.since.isSome && r.desc.chans.contains c) then s
    else modNmc (fun m => { m with busyAt := del m.busyAt c }) (addWrap (0x00190100 + 4 * c) (s.ft + 1 - at_) s)) s

/-- A row operation of a running command starts where its mode allows; its rows change. They are seen by no other
access until the command completes (R458). (DESIGN CHOICE, log 69) -/
def rowBegin (op id : Nat) (act : PimRun → State → State) (s : State) : State :=
  match pimRun s id with
  | none => s
  | some r =>
    if r.desc.op ≠ op ∨ !r.running ∨ r.since.isSome ∨ r.finished ∨ r.status ≠ 0 ∨ !runMay s r then s
    else act r (busyBegin r.desc (touch dNMC (modRun id (fun r => { r with since := some s.ft }) s)))

/-- The rows that a bitwise operation changes. -/
def rowEffect (r : PimRun) (s : State) : State := modNmc (fun m => { m with lake := rowApply r.desc r.index m.lake }) s

/-- ZERO. -/
def execPimZero (run_ : Nat) (s : State) := run (.pimZero run_) s (rowBegin 1 run_ rowEffect s)
/-- COPY. -/
def execPimCopy (run_ : Nat) (s : State) := run (.pimCopy run_) s (rowBegin 2 run_ rowEffect s)
/-- NOT. -/
def execPimNot (run_ : Nat) (s : State) := run (.pimNot run_) s (rowBegin 3 run_ rowEffect s)
/-- AND. -/
def execPimAnd (run_ : Nat) (s : State) := run (.pimAnd run_) s (rowBegin 4 run_ rowEffect s)
/-- OR. -/
def execPimOr (run_ : Nat) (s : State) := run (.pimOr run_) s (rowBegin 5 run_ rowEffect s)
/-- MAJ3. -/
def execPimMaj3 (run_ : Nat) (s : State) := run (.pimMaj3 run_) s (rowBegin 6 run_ rowEffect s)
/-- XOR. -/
def execPimXor (run_ : Nat) (s : State) := run (.pimXor run_) s (rowBegin 7 run_ rowEffect s)
/-- XFER: one unit. -/
def execPimXfer (run_ : Nat) (s : State) :=
  run (.pimXfer run_) s (rowBegin 8 run_ (fun r => modNmc (fun m => { m with lake := unitApply r.desc r.index m.lake })) s)

/-- MASKOUT: STAGE under R411; a status other than OK ends the command with nothing copied (R460). (DEDUCED, log 68) -/
def maskoutBegin (r : PimRun) (s : State) : State :=
  let x := stageMask r.desc.maskId r.desc.maskStall s
  if x.1 = 0 then x.2.2
  else busyEnd r.desc (modRun r.id (fun r => { r with since := none, status := x.1 + 4, finished := true }) x.2.2)
def execPimMaskout (run_ : Nat) (s : State) := run (.pimMaskout run_) s (rowBegin 9 run_ maskoutBegin s)

/-- The copy of MASKOUT is over: the page holds row A, and COMMIT is accepted now (R460). -/
def maskoutEnd (r : PimRun) (s : State) : State :=
  match (mask s r.desc.maskId).staged with
  | some p =>
    let s := { s with pond := copyRange s.nmc.lake (rowAddr r.desc.chan r.desc.bank r.desc.a) 8192 s.pond (8192 * p) }
    let x := commitMask r.desc.maskId r.desc.maskStall s
    modRun r.id (fun r => { r with status := if x.1 = 0 then 0 else x.1 + 4 }) x.2
  | none => modRun r.id (fun r => { r with status := 6 }) s

/-- Store a stopped descriptor and the next index (R470). -/
def pimStop (r : PimRun) (next : Nat) (s : State) : State :=
  let s := forEach (List.range 8) (fun i s => wr (0x001A0040 + 4 * i) (u32 r.desc.raw (4 * i)) s) s
  dropRun r.id (pimStatus 4 (wr rPimProgress next s))

/-- ROW_OPERATION_COMPLETE (R453, R468 to R470): after an abort the command stops here; when the die has something
pending, the next index stands in PIM_PROGRESS. -/
def rowComplete (id : Nat) (s : State) : State :=
  match pimRun s id with
  | none => s
  | some r =>
    match r.since with
    | none => s
    | some t =>
      if s.ft < t + rowFt r.desc.op then s
      else
        let n := r.index + 1
        let dies := [0, 1].filter (r.desc.onDie s)
        let s := busyEnd r.desc (modRun id (fun r => { r with since := none, index := n, finished := n == r.desc.total }) s)
        let s := modNmc (fun m => { m with burst := m.burst.filter (fun x => !dies.contains x) }) s
        if r.status = 4 then pimStop r n s
        else
          let s := when_ (n != r.desc.total && dies.any (diePending s)) (wr rPimProgress n) s
          if r.desc.op = 9 then maskoutEnd r s else s
def execRowOperationComplete (run_ : Nat) (s : State) := run (.rowOperationComplete run_) s (rowComplete run_ s)

/-- PIM_COMMAND_COMPLETE (R461). -/
def pimComplete (id : Nat) (s : State) : State :=
  match pimRun s id with
  | none => s
  | some r =>
    if !r.finished then s
    else
      let s := pimStatus r.status (addWrap 0x001A0030 1 (dropRun id s))
      let s := when_ r.desc.post (postFlag r.desc.event) s
      when_ (bit (rd s rPimCtl) 0) (devEvent 2) s
def execPimCommandComplete (run_ : Nat) (s : State) := run (.pimCommandComplete run_) s (pimComplete run_ s)

/-- PIM_CMD with ABORT (R470): queued commands are discarded, a running one stops after its row operation. -/
def pimAbort (s : State) : State :=
  let s := modNmc (fun m => { m with q := m.q.filter (·.running) }) s
  forEach (s.nmc.q.filter (fun r => !r.finished)) (fun r s =>
    if r.since.isSome then modRun r.id (fun r => { r with status := 4 }) s else pimStop r r.index s) s
def execPimCmdAbort (s : State) := run .pimCmdAbort s (pimAbort s)

/-! ### Refresh and frames (R447, R464, R466) -/

/-- A die reads above 85 °C. -/
def hot (s : State) (die : Nat) : Bool := decide (85 < (if die = 0 then s.nmc.temp0 else s.nmc.temp1))

/-- A channel is refreshed. -/
def refreshNow (c : Nat) (s : State) : State :=
  modNmc (fun m => { m with lastRefresh := put m.lastRefresh c (s.ft + 1) 0, refresh := m.refresh.filter (· != c), refreshed := c :: m.refreshed }) s

/-- REFRESH_DUE: on a HANDSHAKE channel, and where there is no plan, at the end of the interval, pending while in-bank
commands are under way; on a SCHEDULED channel in the first REFRESH slot of each frame. NMC below ON refreshes itself. -/
def refreshDue (c : Nat) (s : State) : State :=
  if !isOn s dNMC then s
  else match (if handshake s c then none else slotNow s) with
    | some (i, cls, left) =>
      if cls = 0 ∧ 176 ≤ left ∧ !s.nmc.refreshed.contains c ∧ (s.conf.nmc.slots.take i).all (fun x => x.2 != 0) then refreshNow c s else s
    | none =>
      let pending := s.nmc.refresh.contains c
      let due := decide (look s.nmc.lastRefresh c 0 + (if hot s (dieOf c) then 3125 else 6250) ≤ s.ft + 1)
      if !pending ∧ !due then s
      else if handshake s c ∧ dieWorks s (dieOf c) then
        if pending then s else modNmc (fun m => { m with refresh := m.refresh ++ [c] }) s
      else refreshNow c s
def execRefreshDue (chan : Nat) (s : State) := run (.refreshDue chan) s (refreshDue chan s)

/-- BANK_FRAME_START: at each whole multiple of FRAME a new frame owes every SCHEDULED channel its refresh. -/
def frameStart (s : State) : State :=
  if s.conf.nmc.frame = 0 ∨ s.ft % s.conf.nmc.frame ≠ 0 then s else modNmc (fun m => { m with refreshed := [] }) s
def execBankFrameStart (s : State) := run .bankFrameStart s (frameStart s)

/-- DIE_TEMP_CROSS: the interval of HANDSHAKE channels changes from the next refresh. -/
def dieTemp (die : Nat) (temp : Int) (s : State) : State :=
  let was := hot s die
  let s := modNmc (fun m => if die = 0 then { m with temp0 := temp } else { m with temp1 := temp }) s
  when_ (hot s die != was) (logC 0x1206) s
def execDieTempCross (die : Nat) (temp : Int) (s : State) := run (.dieTempCross die temp) s (dieTemp die temp s)

/-! ### Ordinary accesses (R446, R448, R449) -/

/-- LAKE_ACCESS: served now, or waiting behind what R446, R458, R464 and R468 put before it; NMC is woken. -/
def lakeAccess (cls off : Nat) (write : Option Bytes) (ecc : Nat) (s : State) : State :=
  let n := (write.map List.length).getD 64
  if lakeNow s off n cls ∧ !lakeBehind s off cls then lakeServe off write ecc s
  else await dNMC (.lakeAccess cls off write ecc) (wakeDom dNMC s)
def execLakeAccess (cls off : Nat) (write : Option Bytes) (ecc : Nat) (s : State) :=
  run (.lakeAccess cls off write ecc) s (lakeAccess cls off write ecc s)

/-! ### What BAR4 shows (R260, R261, R443, R630) -/

/-- STATE's number (R233). -/
def RState.num : RState → Nat
  | .free => 0 | .admitting => 1 | .deferred => 2 | .ready => 3 | .prefill => 4 | .decode => 5 | .blocked => 6
  | .pausing => 7 | .paused => 8 | .resuming => 9 | .draining => 10 | .closing => 11 | .fw => 12

/-- The 64 bytes of a request entry (R230, R231). PAGE_HEAD and the PENDING flag are given; where the device placed the
prompt is its own choice. -/
def entryBytes (e : Entry) (r pageHead : Nat) (pending : Bool) : Bytes :=
  if e.st = .free then zeros 64
  else
    let flags := b2n e.poison + b2n e.superseded * 2 + b2n e.deferred * 4 + b2n e.fwOwned * 8 + b2n e.shadow * 16
      + b2n e.expired * 32 + b2n pending * 64 + b2n e.orphan * 128
    leBytes 8 (e.st.num + at_ 4 (e.stall % 32) + at_ 9 (e.prio % 8) + at_ 12 (e.channel % 4096) + at_ 24 flags
      + at_ 32 (e.model % 256) + at_ 40 (e.adapter % 65536) + at_ 56 (e.rung % 4) + at_ 58 (e.maxRung % 4)
      + at_ 60 (e.spec % 4) + at_ 62 (e.specCur % 4))
    ++ leBytes 8 ((e.deadline.getD 0) % 2 ^ 40 + at_ 40 (e.cid % 65536) + at_ 56 (min 255 e.displaced))
    ++ leBytes 8 (e.committed % 65536 + at_ 16 (e.maxLen % 65536) + at_ 32 (e.genLen % 65536) + at_ 48 (e.maxNew % 65536))
    ++ leBytes 8 (e.budget % 2 ^ 32 + at_ 32 (e.pages.length % 32768) + at_ 47 (b2n e.late) + at_ 48 ((e.ring.getD 0) % 8192)
      + at_ 61 (b2n e.adapterEn))
    ++ leBytes 8 (pageHead % 2 ^ 21 + at_ 21 ((if e.prompt.isEmpty then 0 else Config.placement r 1) % 2 ^ 21)
      + at_ 42 (e.prompt.length % 65536))
    ++ leBytes 8 (e.ttlDue % 2 ^ 44 + at_ 44 (e.till % 4096) + at_ 56 (e.profile % 256))
    ++ leBytes 8 e.seed.toNat
    ++ leBytes 8 (e.ingress % 2 ^ 40 + at_ 40 (min 65535 e.admitOfs))

/-- Lake directory record `i`. -/
def dirBytes (s : State) (i : Nat) : Bytes :=
  entryBytes (look s.nmc.dir i {}) i ((look s.nmc.dirSlots i []).headD 0) false

/-- A byte of the lake. -/
def lakeByte (s : State) (x : Nat) : Byte :=
  if x < 0x4FFF00000 ∨ 0x500000000 ≤ x then look s.nmc.lake x 0
  else
    let y := x - 0x4FFF00000
    if y < 0x40000 then (dirBytes s (y / 64)).getD (y % 64) 0
    else if 0x80000 ≤ y ∧ y < 0x81000 then BitVec.ofNat 8 (look s.nmc.dirGen (y - 0x80000) 1)
    else 0

/-- Access of BAR4 to an offset (R443, R630): 0 read and write, 1 read only, 2 staging bank, 3 installed store, 4
beyond the lake. -/
def bar4Region (x : Nat) : Nat :=
  if x < 0x400000000 then 0 else if x < 0x480000000 then 1 else if x < 0x4FFF00000 then 0
  else if x < 0x600000000 then 1 else if x < 0x700000000 then 2 else if x < 0x800000000 then 3 else 4

/-- The staging bank takes no write (R151). -/
def stagingShut (s : State) : Bool := decide (1 ≤ s.img.st ∧ s.img.st ≤ 5)

/-- A BAR4 write, byte by byte in ascending order. -/
def bar4WriteNow (off : Nat) (d : Bytes) (s : State) : State :=
  let rs := (List.range d.length).map (fun i => bar4Region (off + i))
  let s := when_ (rs.contains 4) (setBit 0x0019000C 1) s
  let s := when_ (rs.contains 2 && stagingShut s) (setBit 0x00060004 7) s
  let open_ (r : Nat) : Bool := r == 0 || (r == 2 && !stagingShut s)
  modNmc (fun m => { m with lake := ((d.zip rs).zipIdx).foldl (fun l x => if open_ x.1.2 then put l (off + x.2) x.1.1 0 else l) m.lake }) s

/-- A BAR4 read: its completion carries EP for an uncorrectable unit (R631). `ecc` lists the lake offsets of such
units. -/
def bar4ReadNow (off n : Nat) (ecc : List Nat) (s : State) : State :=
  let bad := ecc.filter (fun u => decide (u / 64 ≤ (off + n - 1) / 64 ∧ off / 64 ≤ u / 64 ∧ 2 ^ 32 ≤ u))
  let data := (List.range n).map (fun i => if bar4Region (off + i) ≤ 1 then lakeByte s (off + i) else 0xFF)
  emit (.complete .pf data (!bad.isEmpty)) (forEach bad (fun u => lakeEcc u 1) s)

/-- Serve an access that waits. -/
def serveHeld (c : Instr) (s : State) : State :=
  match c with
  | .lakeAccess _ off w ecc => lakeServe off w ecc s
  | .bar4Write off d => touch dNMC (bar4WriteNow off d s)
  | .bar4Read off n ecc => touch dNMC (bar4ReadNow off n ecc s)
  | _ => s

/-- A host access reaches the lake: at once, or when NMC, its controller and its turn allow (R446, R448, R449). (DEDUCED, log 70) -/
def bar4Access (c : Instr) (off n : Nat) (s : State) : State :=
  if s.spg.l1 then await dL0 c s else
  let s := { s with spg := { s.spg with lastTlp := s.ft } }
  if 2 ^ 35 ≤ off ∨ (lakeNow s off n 5 ∧ !lakeBehind s off 5) then serveHeld c s else await dNMC c (wakeDom dNMC s)

/-- BAR4_WRITE. -/
def execBar4Write (off : Nat) (data : Bytes) (s : State) := run (.bar4Write off data) s (bar4Access (.bar4Write off data) off data.length s)
/-- BAR4_READ. -/
def execBar4Read (off len : Nat) (ecc : List Nat) (s : State) := run (.bar4Read off len ecc) s (bar4Access (.bar4Read off len ecc) off len s)

/-! ### Preemption (R468) -/

/-- The waiting accesses of a die's HANDSHAKE channels, best class first, then arrival order. -/
def dieWaiting (s : State) (die : Nat) : List (Nat × Instr) :=
  let on (p : Nat × Instr) (k : Nat) : Bool := match atLake p with
    | some (off, n, cls) => cls == k && dieOf (laneOf off).1 == die && handshake s (laneOf off).1 && rowsFree s off n (some p.2)
    | none => false
  (List.range 8).flatMap (fun k => s.heldAcc.filter (on · k))

/-- HANDSHAKE_PREEMPT: PIM_RDY has risen with something pending; up to HS_BURST of it is served, refresh first, before
row operations resume. -/
def preempt (die : Nat) (s : State) : State :=
  if !isOn s dNMC ∨ !diePending s die ∨ rowBusy s die ∨ !dieWorks s die ∨ s.nmc.burst.contains die then s
  else
    let rs := (s.nmc.refresh.filter (fun c => dieOf c == die)).take s.conf.nmc.burst
    let ws := (dieWaiting s die).take (s.conf.nmc.burst - rs.length)
    let s := forEach rs refreshNow s
    let s := forEach ws (fun p s => serveHeld p.2 { s with heldAcc := s.heldAcc.erase p }) s
    modNmc (fun m => { m with burst := m.burst ++ [die] }) s
def execHandshakePreempt (die : Nat) (s : State) := run (.handshakePreempt die) s (preempt die s)

end Sys2Proof.Machine
end

