-- ==== Sys2Proof/Machine/Sections.lean ====
section
/-! DEFINITION. The contents of image sections: their layouts and the configuration an image leaves (R128, R141,
R180, R181, R277, R278, R315, R316, R329, R363, R364, R371, R397, R404, R405, R462, R481, R482). -/
namespace Sys2Proof.Machine

/-- Section plaintexts with their table entries. -/
abbrev Secs := List (SecEnt × Bytes)

/-- The sections of a type. -/
def Secs.ofType (l : Secs) (t : Nat) : Secs := l.filter (fun x => x.1.type == t)
/-- `n` records of `k` bytes from offset `o`. -/
def recs (b : Bytes) (o k n : Nat) : List Bytes := (List.range n).map (fun i => slice b (o + k * i) k)

/-! ### STRUCTURE (R180, R181, R462) -/

/-- Stall record. -/
def stallOf (b : Bytes) : StallCfg :=
  { enabled := bit (u8 b 0) 0, mode := bits (u8 b 0) 2 1, aisle := u8 b 1, position := u8 b 2,
    cores := BitVec.ofNat 64 (u64 b 4), pondPages := u16 b 12, entries := u16 b 14, chBase := u16 b 16, chCount := u16 b 18,
    rings := u16 b 20, pinPages := u16 b 22, fwRecords := u16 b 24, pauseSlots := u32 b 26 }

/-- The aisle records: id and chain, head first; each is padded to a multiple of 4 bytes. -/
def aislesOf (b : Bytes) : Nat → Nat → List (Nat × List (Nat × Nat))
  | 0, _ => []
  | n + 1, o =>
    let k := u8 b (o + 1)
    (u8 b o, (List.range k).map (fun i => (u8 b (o + 4 + 2 * i), u8 b (o + 5 + 2 * i)))) :: aislesOf b n (o + 4 + cdiv (2 * k) 4 * 4)

/-- The near-memory part. -/
def nmcOf (b : Bytes) (o : Nat) : NmcPlan :=
  { hsMask := BitVec.ofNat 16 (u16 b o), frame := u16 b (o + 2), burst := u8 b (o + 5)
    slots := (recs b (o + 16) 4 (u8 b (o + 4))).map (fun r => (u16 r 0, u8 r 2)) }

/-- The chip's part of a STRUCTURE section, or the part of one stall: its record and the record of its aisle (R146). (DEDUCED, log 62) -/
def withStructure (only : Option Nat) (b : Bytes) (c : Conf) : Conf :=
  let as := aislesOf b (u16 b 2) (16 + 48 * 32)
  match only with
  | none =>
    { c with
      chipMode := u8 b 0
      stalls := (List.range 32).foldl (fun m k => put m k (stallOf (slice b (16 + 48 * k) 48)) {}) []
      aisles := as.foldl (fun m a => put m a.1 a.2 []) []
      nmc := nmcOf b (u32 b 4) }
  | some k =>
    let r := stallOf (slice b (16 + 48 * k) 48)
    { c with
      stalls := put c.stalls k r {}
      aisles := (as.filter (fun a => a.1 == r.aisle)).foldl (fun m a => put m a.1 a.2 []) c.aisles }

/-! ### MODEL, KERNELS, COST, SAMPLER, CYCLE -/

/-- Adapter descriptor (R371). -/
def adapterOfBytes (b : Bytes) : AdpCfg :=
  { id := u16 b 0, rank := u8 b 3, targets := u8 b 4, scale := u16 b 6, bytes := u32 b 12, ofs := u32 b 8 }

/-- Model descriptor with its windows and adapters. -/
def modelOf (b : Bytes) : Model :=
  { loaded := true, pinned := bit (u8 b 1) 0, stateless := bit (u8 b 1) 1, layers := u8 b 2, layerFirst := u8 b 3,
    layerCount := u8 b 4, specHeads := u8 b 5, slice := u8 b 6, maxRank := u8 b 7, width := u16 b 8, attHeads := u8 b 10,
    pageTokens := u8 b 11, context := u32 b 12, vocab := u16 b 16 + 1, eos := u16 b 18, kvLayout := u32 b 20,
    weightBytes := u32 b 24, windows := (recs b (u32 b 32) 16 (u16 b 28)).map (fun r => (u32 r 0, u32 r 4)),
    winOfs := (recs b (u32 b 32) 16 (u16 b 28)).foldl (fun m r => put m (u32 r 0) (u32 r 8) 0) [],
    adapters := (recs b (u32 b 36) 32 (u16 b 30)).map adapterOfBytes }

/-- Stalls in which a model is loaded after the commit: a FULL image's, or TARGET_STALL beside those it had. -/
def stallsFor (h : ImgHdr) (c : Conf) (m : Nat) : List Nat :=
  if h.kind = 1 then setBits 32 (Config.modelStalls m).toNat |>.filter (fun k => (look c.stalls k {}).enabled)
  else let l := (look c.models m {}).stalls; if l.contains h.stall then l else l ++ [h.stall]

/-- Kernel records (R329). -/
def kernelsOf (b : Bytes) : List (Nat × Kernel) :=
  (recs b 16 32 (u16 b 2)).map (fun r =>
    (u8 r 0, { loaded := true, cls := u8 r 1, bound := u16 r 2, tag := u32 r 12, store := u32 r 16 }))

/-- COST section (R277, R278); context edges in tokens. -/
def costOf (b : Bytes) : Cost :=
  { loaded := true, rowEdges := (List.range (u8 b 1)).map (fun i => u8 b (4 + i)),
    ctxEdges := (List.range (u8 b 2)).map (fun i => u16 b (12 + 2 * i) * 2 ^ u8 b 34), assumeAcc := u8 b 3, pageFt := u16 b 30,
    exitPos := u8 b 32, rung2 := if u8 b 33 = 0xFF then none else some (u8 b 33),
    stages := (recs b 64 264 (u16 b 28)).map (fun r =>
      { kind := u8 r 0, pos := u8 r 1, arg := u8 r 2, lat := (List.range 64).map (fun i => u16 r (8 + 2 * i)),
        occ := (List.range 64).map (fun i => u16 r (136 + 2 * i)) }) }

/-- Sampler profiles (R405). -/
def profilesOf (b : Bytes) : List (Nat × Profile) :=
  (recs b 16 64 (u16 b 2)).map (fun r =>
    (u8 r 0, { loaded := true, sampled := bit (u8 r 1) 0, maskEn := bit (u8 r 1) 1, temp := u16 r 2, topK := u16 r 4,
               topP := u16 r 6, masks := (List.range 4).map (fun i => u16 r (8 + 2 * i)),
               stops := (List.range 4).map (fun i => u16 r (16 + 2 * i)), maxBlocks := u16 r 24 }))

/-- A cycle slot record (R316). -/
def cycSlotOf (r : Bytes) : CycSlot :=
  { len := u16 r 0, model := u8 r 2, rung := bits (u8 r 3) 1 0, depth := bits (u8 r 3) 3 2, idle := bit (u8 r 3) 4,
    group := u8 r 4, rows := u8 r 5, cores := BitVec.ofNat 68 (leNat (slice r 8 9)) }

/-- CYCLE section (R315, R316). -/
def cycleOf (b : Bytes) : Cycle :=
  let n := u16 b 0
  { period := u32 b 4, phase := u32 b 8, slots := (recs b 16 24 n).map cycSlotOf,
    spares := (List.range (u8 b 2)).map (fun i =>
      let o := 16 + 24 * n + i * (16 + 24 * n)
      (BitVec.ofNat 68 (leNat (slice b o 9)), (recs b (o + 16) 24 n).map cycSlotOf)) }

/-! ### POWER, POLICY, FIRMWARE, SPRING, ROUTES, BUDGET -/

/-- Domain records (R128). -/
def powRecsOf (b : Bytes) : List PowRec :=
  (recs b 16 8 (u16 b 0)).map (fun r => { dom := u8 r 0, idle := u16 r 2, target := u8 r 4, floor := u8 r 5 })

/-- The registers a POWER section loads (R128): PWR_HOLD_CG and the PWR_POLICYn it names. -/
def powerOf (b : Bytes) : List (Nat × Nat) :=
  (0x0002000C, u32 b 4) :: (powRecsOf b).map (fun p => (0x00020100 + 4 * p.dom, p.idle + at_ 16 p.target + at_ 18 p.floor))

/-- Module header (R397). A module runs when its signature verifies under its customer slot, 1 to 7 (R398, R604). -/
def moduleOf (sign : SMap Bytes) (b : Bytes) : Module :=
  let n := 64 + u32 b 8 + u32 b 12
  let key := look sign (u8 b 2) []
  let ok := decide (1 ≤ u8 b 2 ∧ u8 b 2 ≤ 7) && !key.isEmpty && Config.ecdsaVerify key (Config.sha384 (b.take n)) (slice b n 96)
  { st := if ok then 1 else 3, stalls := w32 (u32 b 4), key := u8 b 2, code := u32 b 8, data := u32 b 12,
    entries := (List.range 8).map (fun i => u16 b (16 + 2 * i)), budgets := (List.range 8).map (fun i => u16 b (32 + 2 * i)),
    claim := u8 b 48 == 1 }

/-- Firmware header (R404). -/
def firmwareOf (b : Bytes) : FwHdr :=
  { version := u32 b 0, format := u32 b 4, code := u32 b 8, data := u32 b 12, entry := u32 b 16, lake := u32 b 20 }

/-- Spring rules: index and rule (R482). -/
def ruleOf (r : Bytes) : Nat × Rule :=
  let f := u8 r 9
  (u8 r 26, { loaded := true, dmac := slice r 0 6, etype := slice r 6 2, ports := bits (u8 r 8) 1 0, enabled0 := bit f 0,
              enabled := bit f 0, wake := bit f 1, submitOk := bit f 2, supersede := bit f 3, hostCopy := bit f 4, entry := u16 r 10,
              channel := u16 r 12, model := u8 r 14, prio := bits (u8 r 15) 2 0, budget := u16 r 16, profile := u8 r 18,
              ctrl := u8 r 19, maxNew := u16 r 20, template := u16 r 22, adapter := u16 r 24 })
/-- The rules of a SPRING section (R481). -/
def rulesOf (b : Bytes) : List (Nat × Rule) :=
  (recs b (16 + 8 * u16 b 0 + 4 * u32 b 6) 32 (u16 b 2)).map ruleOf
/-- Its operations. -/
def opsOf (b : Bytes) : List W64 := (recs b 16 8 (u16 b 0)).map (fun r => BitVec.ofNat 64 (leNat r))
/-- Its map entries, by index, wrapping at 65,536. -/
def mapOf (b : Bytes) : List (Nat × Word) :=
  ((recs b (16 + 8 * u16 b 0) 4 (u32 b 6)).zipIdx).map (fun x => ((u16 b 4 + x.2) % 65536, w32 (leNat x.1)))

/-- Link budget records from an offset (R141). -/
def budgetsAt (b : Bytes) (o : Nat) : List LinkBudget :=
  (recs b (o + 4) 8 (u32 b o)).map (fun r =>
    { chip := u8 r 0, port := bits (u8 r 1) 2 0, coded := bit (u8 r 1) 7, lat := u16 r 2, width := u8 r 4 })
/-- The routing table of a ROUTES section. -/
def tableOf (b : Bytes) : SMap Word := (List.range 256).foldl (fun m i => put m i (w32 (u32 b (4 * i))) 0) []
/-- The link budget records of an image. -/
def budgetsOf (l : Secs) : List LinkBudget :=
  (l.ofType 2).flatMap (fun x => budgetsAt x.2 1024) ++ (l.ofType 12).flatMap (fun x => budgetsAt x.2 0)

/-! ### The configuration an image leaves (R146) -/

/-- Replace the entries of a map whose keys a test picks. -/
def replaceKeys {α : Type} [DecidableEq α] (m : SMap α) (old : Nat → Bool) (l : List (Nat × α)) (d : α) : SMap α :=
  l.foldl (fun m x => put m x.1 x.2 d) (m.filter (fun p => !old p.1))

/-- The configuration in force after the image commits. -/
def nextConf (h : ImgHdr) (l : Secs) (sign : SMap Bytes) (c : Conf) : Conf :=
  let c : Conf := if h.kind = 1 then { present := true } else { c with present := true }
  let c := match l.ofType 1 with
    | x :: _ => withStructure (if h.kind = 1 then none else some h.stall) x.2 c
    | [] => c
  let c := (l.ofType 5).foldl (fun (c : Conf) x =>
    { c with models := put c.models x.1.inst { modelOf x.2 with stalls := stallsFor h c x.1.inst } {} }) c
  let c := (l.ofType 6).foldl (fun (c : Conf) x =>
    let ks := (kernelsOf x.2).map (fun k => (x.1.inst * 256 + k.1, k.2))
    { c with kernels := replaceKeys c.kernels (fun k => k / 256 == x.1.inst) ks {} }) c
  let c := (l.ofType 7).foldl (fun (c : Conf) x => { c with costs := put c.costs x.1.inst (costOf x.2) {} }) c
  let c := (l.ofType 8).foldl (fun (c : Conf) x =>
    let ps := (profilesOf x.2).map (fun k => (x.1.inst * 256 + k.1, k.2))
    { c with profiles := replaceKeys c.profiles (fun k => k / 256 == x.1.inst) ps {} }) c
  let c := match l.ofType 4 with | x :: _ => { c with cycle := some (cycleOf x.2) } | [] => c
  let c := (l.ofType 10).foldl (fun (c : Conf) x => { c with modules := put c.modules x.1.inst (moduleOf sign x.2) {} }) c
  let c := match l.ofType 9 with | x :: _ => { c with power := powerOf x.2 } | [] => c
  match l.ofType 11 with | x :: _ => { c with firmware := some (firmwareOf x.2) } | [] => c

/-! ### Content checks (second part of check 8, R153) -/

/-- A list has no repeats. -/
def distinct (l : List Nat) : Bool := l.dedup.length == l.length
/-- A list strictly rises. -/
def rising : List Nat → Bool
  | a :: b :: t => decide (a < b) && rising (b :: t)
  | _ => true

/-- POWER (R128). -/
def powerBad (b : Bytes) : Bool :=
  let rs := powRecsOf b
  decide (12 < u16 b 0) || !distinct (rs.map PowRec.dom) || rs.any (fun r =>
    decide (11 < r.dom ∨ 3 < r.target ∨ 3 < r.floor ∨ r.floor < r.target))

/-- Near-memory part (R463). -/
def nmcBad (b : Bytes) : Bool :=
  let o := u32 b 4
  let p := nmcOf b o
  decide (p.frame < 320 ∨ 3125 < p.frame ∨ u8 b (o + 4) = 0 ∨ 64 < u8 b (o + 4) ∨ p.burst = 0 ∨ 64 < p.burst)
    || !allZero (slice b (o + 6) 10) || (recs b (o + 16) 4 (u8 b (o + 4))).any (fun r => u8 r 3 != 0)
    || p.slots.any (fun x => decide (x.1 < 16 ∨ 5 < x.2)) || (p.slots.map Prod.fst).sum != p.frame
    || !p.slots.any (fun x => x.2 == 0 && decide (176 ≤ x.1))

/-- The head stall of this chip that has a model loaded. (DESIGN CHOICE, log 58) -/
def headStallIn (c : Conf) (m : Nat) : Option Nat :=
  (look c.models m {}).stalls.find? (fun k => let r := look c.stalls k {}; r.enabled && r.position == 0 && r.aisle != 0xFF)

/-- COST (R279). -/
def costBad (c : Conf) (m : Nat) (b : Bytes) : Bool :=
  let k := costOf b
  let md := look c.models m {}
  let fw := decide (16384 < md.context) || md.stalls.any (fun n => (look c.stalls n {}).mode == 1)
  let need := if fw then md.context else min md.context 16384
  let stage (st : Stage) : Bool :=
    decide (st.kind = 0 ∨ 9 < st.kind) || ([3, 4, 8, 9].contains st.kind && decide (3 < st.arg))
      || (st.kind == 7 && decide (st.arg < 2 ∨ 6 < st.arg))
  decide (u8 b 1 = 0 ∨ 8 < u8 b 1 ∨ u8 b 2 = 0 ∨ 8 < u8 b 2 ∨ 5 < u8 b 34) || k.rowEdges.getLastD 0 != 64
    || decide (k.ctxEdges.getLastD 0 < need) || !rising k.rowEdges || !rising k.ctxEdges || k.stages.any stage
    || (match headStallIn c m with
        | none => false
        | some n =>
          let len := (look c.aisles (look c.stalls n {}).aisle []).length
          decide (len ≤ k.exitPos ∧ k.exitPos ≠ 0) || k.stages.any (fun st => decide (len ≤ st.pos) || (st.kind == 2 && decide (len ≤ st.arg))))

/-- CYCLE (R15, R315, R317). -/
def cycleBad (tick : Nat) (b : Bytes) : Bool :=
  let c := cycleOf b
  let key (g : CycSlot) := (g.model, g.rung, g.depth, g.idle, g.rows)
  let noCores (g : CycSlot) : CycSlot := { g with cores := 0 }
  decide (c.slots.isEmpty ∨ 256 < c.slots.length ∨ 8 < c.spares.length) || decide (131072 < c.period * tick) || c.slots.any (fun g => c.slots.any (fun x => x.group == g.group && key x != key g))
    || c.spares.any (fun p => p.2.map noCores != c.slots.map noCores)

/-- KERNELS (R330). -/
def kernelsBad (c : Conf) (m : Nat) (b : Bytes) : Bool :=
  let ks := kernelsOf b
  !distinct (ks.map Prod.fst) || ks.any (fun k =>
    decide (k.2.bound = 0 ∨ 2048 < k.2.bound ∨ 1048576 < k.2.store)
      || (k.2.tag != 0 && !(look c.models m {}).windows.any (fun w => w.1 == k.2.tag)))

/-- MODEL (R363 to R365, R371, R372). -/
def modelBad (c : Conf) (m : Nat) (b : Bytes) : Bool :=
  let d := modelOf b
  let others := (c.models.filter (fun x => x.1 != m)).flatMap (fun x => x.2.adapters.map AdpCfg.id)
  decide (u8 b 0 ≠ m ∨ 4 ≤ u8 b 1 ∨ d.layers = 0 ∨ 3 < d.specHeads ∨ d.slice = 0 ∨ 15 < d.slice ∨ d.maxRank = 1 ∨ 6 < d.maxRank)
    || (if d.stateless then d.pageTokens != 0 else decide (d.pageTokens = 0 ∨ 64 < d.pageTokens))
    || decide (d.context = 0 ∨ 1048576 < d.context) || !allZero (slice b 40 24) || d.windows.any (fun w => decide (1048576 < w.2))
    || (recs b (u32 b 36) 32 (u16 b 30)).any (fun r => u8 r 2 != m)
    || d.adapters.any (fun a => decide (a.rank < 2 ∨ 6 < a.rank ∨ d.maxRank < a.rank) || others.contains a.id)
    || !distinct (d.adapters.map AdpCfg.id)

/-- A model stays where it may not: in a stall that is not ENABLED, or with a context beyond 16,384 tokens where no
firmware-tracked records are allowed (R365). -/
def modelPlaceBad (c : Conf) : Bool :=
  c.models.any (fun x => x.2.stalls.any (fun n => let r := look c.stalls n {}; !r.enabled || (decide (16384 < x.2.context) && r.fwRecords == 0)))

/-- SAMPLER (R406). -/
def samplerBad (b : Bytes) : Bool :=
  let ps := profilesOf b
  !(ps.map Prod.fst).contains 0 || !distinct (ps.map Prod.fst) || ps.any (fun p =>
    (p.2.sampled && decide (0x7F80 ≤ p.2.temp ∨ p.2.temp = 0)) || decide (256 < p.2.topK ∨ p.2.maxBlocks = 0 ∨ 256 < p.2.maxBlocks)
      || p.2.masks.any (fun k => decide (1024 ≤ k ∧ k ≠ 0xFFFF)))

/-- The stall that owns a channel. -/
def chanStall (c : Conf) (ch : Nat) : Option Nat :=
  (List.range 32).find? (fun k => let r := look c.stalls k {}; r.enabled && decide (r.chBase ≤ ch ∧ ch < r.chBase + r.chCount))

/-- SPRING (R483). -/
def springBad (h : ImgHdr) (c : Conf) (b : Bytes) : Bool :=
  let rs := rulesOf b
  !distinct (rs.map Prod.fst) || rs.any (fun r =>
    decide (512 ≤ r.2.entry) || decide (1024 ≤ r.2.template ∧ r.2.template ≠ 0xFFFF)
      || (match chanStall c r.2.channel with
          | none => true
          | some n => let k := look c.stalls n {}; k.position != 0 || k.mode == 1 || (h.kind == 2 && n != h.stall)))

/-- FIRMWARE (R404). -/
def firmwareBad (b : Bytes) : Bool :=
  let f := firmwareOf b
  decide (0x40000 < f.code + f.data ∨ f.code ≤ f.entry ∨ 0x80000000 < f.lake)

/-- Two modules claim admission for one stall (R398). -/
def claimsBad (c : Conf) : Bool :=
  let ms := c.modules.filter (fun m => m.2.claim && m.2.st != 0)
  ms.any (fun x => ms.any (fun y => x.1 != y.1 && (x.2.stalls &&& y.2.stalls) != 0))

/-- A model loaded in a head stall has no COST section (R646). -/
def costMissing (c : Conf) : Bool :=
  c.models.any (fun x => (headStallIn c x.1).isSome && !(look c.costs x.1 {}).loaded)

/-- The contents of an image break a rule that names code 0x1604; `c` is the configuration after the commit. -/
def contentBad (tick : Nat) (h : ImgHdr) (l : Secs) (c : Conf) : Bool :=
  l.any (fun x => match x.1.type with
    | 1 => h.kind == 1 && nmcBad x.2
    | 3 => springBad h c x.2 | 4 => cycleBad tick x.2 | 5 => modelBad c x.1.inst x.2
    | 6 => kernelsBad c x.1.inst x.2 | 7 => costBad c x.1.inst x.2 | 8 => samplerBad x.2 | 9 => powerBad x.2
    | 11 => firmwareBad x.2 | _ => false)
  || modelPlaceBad c || claimsBad c || costMissing c

/-- Check 13: resources of R13 and the aisles of R14, the sums of R182, R365, R367 and R398. -/
def resourceBad (c : Conf) : Bool :=
  let rs := (List.range 32).map (fun k => look c.stalls k {})
  let sum (f : StallCfg → Nat) : Nat := (rs.map f).sum
  let overlap := (rs.zipIdx).any (fun x => (rs.zipIdx).any (fun y => decide (x.2 < y.2)
    && ((x.1.cores &&& y.1.cores) != 0
      || decide (x.1.chBase < y.1.chBase + y.1.chCount ∧ y.1.chBase < x.1.chBase + x.1.chCount ∧ x.1.chCount ≠ 0 ∧ y.1.chCount ≠ 0))))
  let pinned (n : Nat) : Nat :=
    ((c.models.filter (fun m => m.2.pinned && m.2.stalls.contains n)).map (fun m => cdiv ((m.2.windows.map Prod.snd).sum) 8192)).sum
  let core (p : Nat) : Nat :=
    ((c.models.filter (fun m => m.2.pinned)).map (fun m => ((m.2.windows.filter (fun w => (Config.kernelPlan m.1 w.1).contains p)).map Prod.snd).sum)).sum
      + ((c.kernels.filter (fun k => !(look c.models (k.1 / 256) {}).pinned && (Config.kernelPlan (k.1 / 256) k.2.tag).contains p)).map (fun k => k.2.store)).foldl max 0
  overlap || decide (16384 < sum StallCfg.pondPages ∨ 4096 < sum StallCfg.entries ∨ 8192 < sum StallCfg.rings ∨ 524288 < sum StallCfg.pauseSlots)
    || rs.any (fun r => decide (r.pondPages < r.pinPages ∨ 1024 < r.chCount ∨ (r.chCount ≠ 0 ∧ (4096 < r.chBase + r.chCount ∨ r.position ≠ 0 ∨ r.aisle = 0xFF))))
    || (List.range 32).any (fun n => decide ((look c.stalls n {}).pinPages < pinned n))
    || decide (64 < c.models.length) || c.aisles.any (fun a => decide (64 ≤ a.1)) || rs.any (fun r => decide (64 ≤ r.aisle ∧ r.aisle ≠ 0xFF)) || (List.range 68).any (fun p => decide (1048576 < core p))
    || decide (0x40000 < ((c.firmware.map (fun f => f.code + f.data)).getD 0) + ((c.modules.filter (fun m => m.2.st != 0)).map (fun m => m.2.code + m.2.data)).sum)

/-- A chip mode is Fixed-cycle (R148). -/
def fixedMode (sched : Bool) (mode : Nat) : Bool := mode == 2 || (mode == 0 && sched)

/-- Check 14: R147 by the active configuration, R148 and R185 by the next. -/
def modeBad (sched : Bool) (h : ImgHdr) (old c : Conf) (hasStructure : Bool) : Bool :=
  let rs := ((List.range 32).map (fun k => look c.stalls k {})).filter StallCfg.enabled
  let fixed := fixedMode sched c.chipMode
  ((h.kind == 2 || h.kind == 3) && old.present && fixedMode sched old.chipMode)
    || (hasStructure && (rs.any (fun r => r.mode == 3 || (r.mode == 2) != fixed) || (fixed && c.nmc.hsMask != 0)
      || rs.any (fun r => r.aisle != 0xFF && rs.any (fun x => x.aisle == r.aisle && x.mode != r.mode))))

end Sys2Proof.Machine
end

