-- ==== Sys2Proof/Machine/Container.lean ====
section
/-! DEFINITION. The image container: frames, header, section table, and checks 1 to 18 of R153 (R135 to R148, R150,
R153, R154, R174 to R177, R588, R602 to R604). A check's verdict is a code with its arguments. -/
namespace Sys2Proof.Machine

/-- A failed check: code and arguments. -/
abbrev Bad := Nat × List Nat

/-- The first of a list of checks that fails. -/
def firstBad (l : List (Bool × Bad)) : Option Bad := (l.find? Prod.fst).map Prod.snd

/-- Header of frame 0 (R137). -/
def hdrOfFrame (f : Bytes) : ImgHdr :=
  let fl := u8 f 7
  { kind := u8 f 6, encrypted := bit fl 0, member := bit fl 1, advance := bit fl 2, sections := u16 f 8, chip := u8 f 10,
    stall := u8 f 11, frames := u32 f 12, version := u32 f 16, topo := w32 (u32 f 20), bundle := BitVec.ofNat 64 (u64 f 24),
    members := u16 f 32, iv := slice f 36 12, digest := slice f 48 48, signKey := u8 f 96, wrapKey := u8 f 97 }

/-- Section table of frame 0 (R138). -/
def tableOfFrame (f : Bytes) : List SecEnt :=
  (recs f 128 32 (u16 f 8)).map (fun r =>
    { type := u8 r 0, encrypted := bit (u8 r 1) 0, first := u32 r 4, count := u32 r 8, length := u32 r 12, inst := u32 r 16,
      schema := u32 r 20, crc := w32 (u32 r 24), reserved := decide (2 ≤ u8 r 1) || u16 r 2 != 0 || u32 r 28 != 0 })

/-- MAGIC. -/
def isMagic (f : Bytes) : Bool := f.take 4 == [0x45, 0x4D, 0x56, 0x53]

/-- The section types a kind may carry (R146). -/
def kindTypes (kind : Nat) : List Nat :=
  match kind with
  | 1 => [1, 2, 3, 4, 5, 6, 7, 8, 9, 10, 11, 12, 15]
  | 2 => [1, 3, 5, 6, 7, 8, 12, 15]
  | 3 => [5, 6, 7, 8, 12, 15]
  | 4 => [2, 15]
  | 5 => [11, 10, 9, 15]
  | _ => []

/-- The sections cover frames `at_` to FRAMES - 2 in order, and the signature closes (R139). -/
def covers (frames : Nat) : Nat → List SecEnt → Bool
  | _, [] => false
  | at_, [e] => e.type == 15 && !e.encrypted && e.first == frames - 1 && e.count == 1 && at_ + 1 == frames
  | at_, e :: t => e.type != 15 && e.first == at_ && decide (1 ≤ e.count) && covers frames (at_ + e.count) t

/-- First part of check 8: R138, R139, R140, R142, R146. (DEDUCED, log 61) -/
def tableBad (h : ImgHdr) (es : List SecEnt) : Bool :=
  let per (e : SecEnt) : Nat := if e.encrypted then 4072 else 4088
  let models := es.filter (fun e => 5 ≤ e.type && e.type ≤ 8)
  es.any (fun e => e.reserved || decide (e.count * per e < e.length) || !(kindTypes h.kind).contains e.type
      || (if 5 ≤ e.type ∧ e.type ≤ 8 then decide (255 < e.inst) else if e.type = 10 then decide (7 < e.inst) else e.inst != 0))
    || !covers h.frames 1 es
    || (h.kind == 1 && !es.any (fun e => e.type == 1))
    || decide (1 < (es.filter (fun e => e.type == 12)).length)
    || (h.kind == 3 && models.any (fun e => e.inst != (models.headD e).inst))

/-- The public key of a signing slot, when it is occupied. -/
def signKey (s : State) (k : Nat) : Option Bytes :=
  if k = 0 then some (Config.fusedKey 0)
  else let v := look s.secm.sign k []; if k ≤ 7 ∧ !v.isEmpty then some v else none

/-- Check 6: the key slots are accepted in the lifecycle state (R588, R603). -/
def slotsBad (s : State) (h : ImgHdr) : Bool :=
  let lc := s.secm.lc
  let sign := match lc with
    | 0x1 => h.signKey == 0
    | 0x3 => decide (h.signKey ≤ 7)
    | 0x7 => (h.signKey == 0 && h.kind == 5) || decide (1 ≤ h.signKey ∧ h.signKey ≤ 7)
    | _ => false
  !sign || (signKey s h.signKey).isNone
    || (h.encrypted && !(decide (lc = 0x3 ∨ lc = 0x7) && !(look s.secm.wrap h.wrapKey []).isEmpty && !s.secm.debugOpen))

/-- Checks 1 to 4, on frame 0. -/
def headerBad (f : Bytes) : Option Bad :=
  let h := hdrOfFrame f
  firstBad [
    (!isMagic f, (0x1601, [])),
    (crc32c (f.take 124) != w32 (u32 f 124), (0x1602, [])),
    (u16 f 4 != 1, (0x1614, [])),
    (decide (h.kind = 0 ∨ 5 < h.kind ∨ h.frames < 2 ∨ 1048576 < h.frames ∨ h.sections < 2 ∨ 64 < h.sections), (0x1613, []))]

/-- Checks 5 to 8 (first part), on frame 0. -/
def targetBad (s : State) (f : Bytes) : Option Bad :=
  let h := hdrOfFrame f
  let stalls := h.kind == 2 || h.kind == 3
  firstBad [
    (h.chip != s.fab.chip || (if stalls then decide (31 < h.stall) else h.stall != 0xFF)
      || (s.img.firstReport.isSome && h.member && h.bundle != s.img.bundleId)
      || s.img.bundleNow.any (fun b => b != h.bundle), (0x160A, [])),
    (slotsBad s h, (0x160F, [])),
    (decide (h.version < look s.secm.ctr (h.kind - 1) 0), (0x1608, [])),
    (tableBad h (tableOfFrame f), (0x1604, []))]

/-- Check 9 on frame `i`: index and CRC (R135). -/
def frameBad (i : Nat) (f : Bytes) : Option Bad :=
  if u32 f 4088 = i ∧ crc32c (f.take 4092) = w32 (u32 f 4092) then none else some (0x1603, [i])

/-- The section that owns a frame. -/
def sectionAt (es : List SecEnt) (i : Nat) : Option SecEnt := es.find? (fun e => decide (e.first ≤ i ∧ i < e.first + e.count))

/-- Check 10: the signature frame (R143, R604). -/
def signatureBad (s : State) (h : ImgHdr) (frames : List Bytes) : Bool :=
  let f := frames.getLastD []
  let digest := Config.sha384 frames.dropLast.flatten
  !(u16 f 0 == 1 && u8 f 2 == h.signKey && u8 f 3 == 0 && slice f 4 48 == digest && allZero (slice f 148 3940)
    && (match signKey s h.signKey with | some k => Config.ecdsaVerify k digest (slice f 52 96) | none => false))

/-- A frame's plaintext (R136, R144). -/
def openFrame (key : Option Bytes) (h : ImgHdr) (e : SecEnt) (i : Nat) (f : Bytes) : Option Bytes :=
  if e.encrypted then
    let word := BitVec.ofNat 32 (u32 h.iv 8) ^^^ w32 i
    let iv := h.iv.take 8 ++ leBytes 4 word.toNat
    let aad := leBytes 4 i ++ [BitVec.ofNat 8 e.type, BitVec.ofNat 8 h.kind, BitVec.ofNat 8 h.chip, BitVec.ofNat 8 h.stall]
    key.bind (fun k => Config.gcmOpen k iv aad (f.take 4072) (slice f 4072 16))
  else some (f.take 4088)

/-- A section's plaintext, none where a tag fails (check 11). -/
def openSection (key : Option Bytes) (h : ImgHdr) (frames : List Bytes) (e : SecEnt) : Option Bytes :=
  ((List.range e.count).mapM (fun i => openFrame key h e (e.first + i) (frames.getD (e.first + i) []))).map (fun l => l.flatten.take e.length)

/-- The image key (R602). -/
def imageKey (s : State) (h : ImgHdr) (f0 : Bytes) : Option Bytes :=
  if h.encrypted ∧ s.secm.imgKey then Config.kwUnwrap (look s.secm.wrap h.wrapKey []) (slice f0 4032 40) else none

/-- Checks 10 to 12, once every frame is there: the failure, or the plaintexts. -/
def bodyCheck (s : State) (frames : List Bytes) : Bad ⊕ List Bytes :=
  let h := s.img.hdr
  let es := s.img.secs.dropLast
  if signatureBad s h frames then .inl (0x1605, [])
  else
    let key := imageKey s h (frames.headD [])
    if h.encrypted ∧ key.isNone then .inl (0x160B, [])
    else match es.mapM (openSection key h frames) with
      | none => .inl (0x160B, [])
      | some ps =>
        if (es.zip ps).any (fun x => crc32c x.2 != x.1.crc) ∨ Config.sha384 ps.flatten ≠ h.digest then .inl (0x160C, [])
        else .inr ps

/-! ### Checks 8 (second part) and 13 to 19 -/

/-- The sections of the image held. -/
def heldSecs (s : State) : Secs := s.img.secs.dropLast.zip s.img.plains
/-- The configuration it would leave. -/
def stagedConf (s : State) : Conf := nextConf s.img.hdr (heldSecs s) s.secm.sign s.conf

/-- The ports of the bundle that a port belongs to: those that share a PRIMARY or an ALTERNATE bundle with it (R58). -/
def bundleOf (tab : SMap Word) (p : Nat) : List Nat :=
  let ms := (tab.flatMap (fun e => [bits e.2.toNat 7 0, bits e.2.toNat 15 8])).filter (fun m => bit m p)
  (List.range 8).filter (fun q => q == p || ms.any (fun m => bit m q))

/-- Check 17: link budget records (R174, R175). A bundle's hop latency is that of its slowest member (R60). -/
def budgetBad (s : State) (l : Secs) : Option Bad :=
  let tab := match l.ofType 2 with | x :: _ => tableOf x.2 | [] => s.fab.active
  let cyc := !(l.ofType 4).isEmpty
  ((budgetsOf l).filter (fun b => b.chip == s.fab.chip)).findSome? (fun b =>
    let ps := (bundleOf tab b.port).filter (live s)
    let lat := (ps.map (fun p => (link s p).hoplat)).foldl max 0
    if (link s b.port).st ≠ 6 ∨ b.lat < lat then some (0x1606, [b.port, b.lat, lat])
    else if cyc ∧ ps.length < b.width then some (0x1606, [b.port, b.width, ps.length])
    else none)

/-- The second part of check 8, and checks 13 to 18. -/
def stagedBad (s : State) : Option Bad :=
  let h := s.img.hdr
  let l := heldSecs s
  let c := stagedConf s
  let topo := w32 (rd s 0x0008000C)
  let fwLive := s.rtb.any (fun e => isFw e.1 && e.2.st != .free)
  let fmt := (l.ofType 11).any (fun x => (firmwareOf x.2).format != rd s 0x000C0008)
  match firstBad [
    (contentBad (tickLen s) h l c, (0x1604, [])),
    (resourceBad c, (0x160D, [])),
    (modeBad s.straps.sched h s.conf c (!(l.ofType 1).isEmpty), (0x1610, [])),
    ((h.topo != 0 && h.topo != topo) || (h.topo == 0 && (h.kind == 4 || (h.kind == 1 && decide (1 < s.fab.market)))), (0x1609, [])),
    (h.kind != 5 && (!s.clk.ftValid || s.clk.skewErr || s.clk.slewing), (0x1607, []))] with
  | some b => some b
  | none => (budgetBad s l).or (if h.kind == 5 && fmt && fwLive then some (0x1617, []) else none)

/-- Stalls the loader drains itself (R146). -/
def ownDrains (s : State) : List Nat :=
  let h := s.img.hdr
  match h.kind with
  | 1 => List.range 32
  | 2 => [h.stall]
  | 3 => if (heldSecs s).any (fun x => decide (5 ≤ x.1.type ∧ x.1.type ≤ 8) && loadedIn s x.1.inst h.stall) then [h.stall] else []
  | _ => []

/-- Stalls that the change touches (R172): those of higher numbers when the pond range grows or shrinks (R647), those of an
aisle, of a model, and of the rules that the image's own replace. A FULL image drains every stall itself. -/
def touched (s : State) : List Nat :=
  let h := s.img.hdr
  let l := heldSecs s
  let c := stagedConf s
  let on (n : Nat) : Bool := (stallCfg s n).enabled
  let new := look c.stalls h.stall {}
  let old := stallCfg s h.stall
  let share := if (l.ofType 1).isEmpty ∨ new.pondPages = old.pondPages then [] else (List.range 32).filter (fun n => decide (h.stall < n))
  let aisle := if (l.ofType 1).isEmpty then [] else
    let same := new.aisle == old.aisle && look c.aisles new.aisle [] == look s.conf.aisles old.aisle []
    if same then [] else (List.range 32).filter (fun n =>
      let a := (stallCfg s n).aisle
      a != 0xFF && (a == new.aisle || a == old.aisle))
  let ruleStall (k : Nat) : List Nat :=
    let r := look s.spg.rules k {}
    if r.loaded then (chanStall s.conf r.channel).toList else []
  let byRule := (l.ofType 3).flatMap (fun x => (rulesOf x.2).flatMap (fun r => ruleStall r.1))
  let byModel := l.flatMap (fun x => if 5 ≤ x.1.type ∧ x.1.type ≤ 8 then (model s x.1.inst).stalls else [])
  if h.kind = 2 ∨ h.kind = 3 then (share ++ (aisle ++ byModel ++ byRule).filter on).dedup else []

/-- Check 19: every touched stall outside the loader's own drain has its IMG_DRAINED bit set. -/
def drainBad (s : State) : Bool :=
  (touched s).any (fun n => !(ownDrains s).contains n && !bit (rd s 0x00060028) n)

end Sys2Proof.Machine
end

