-- ==== Sys2Proof/Machine/Secm.lean ====
section
/-! DEFINITION. The security module: its commands, lifecycle, keys, counters, zeroisation, tamper response and
self-tests (R586 to R618). Its algorithms are opaque; where no rule lays out a command's arguments they follow one
another from byte 0. -/
namespace Sys2Proof.Machine

/-- Change the security module. -/
def modSecm (f : Secm → Secm) (s : State) : State := { s with secm := f s.secm }
/-- A channel's session. -/
def sess (s : State) (c : Nat) : Session := look s.secm.chans c {}
/-- Change it. -/
def modSess (c : Nat) (f : Session → Session) (s : State) : State :=
  modSecm (fun m => { m with chans := put m.chans c (f (look m.chans c {})) {} }) s

/-- SECM_RESULT.STATUS of a command that is over (R597); the service window's interrupts the control core (R387). -/
def secmEnd (c status : Nat) (s : State) : State :=
  when_ (c == 1) (ccInt 7) (modSess c (fun x => { x with status := status, busy := false }) s)
/-- A response. -/
def secmAnswer (c : Nat) (rsp : Bytes) (s : State) : State := secmEnd c 0 (modSess c (fun x => { x with rsp := rsp }) s)
/-- SECM_ARG: channel 0's words, channel 1's window. -/
def secmArg (s : State) (c : Nat) : Bytes :=
  if c = 0 then ((List.range 64).map (fun i => leBytes 4 (rd s (0x00040100 + 4 * i)))).flatten else fit 256 (sess s 1).arg

/-! ### NV pulses and counters (R563, R605, R606) -/

/-- A fuse or counter pulse begins: resets other than POR are held until it ends. (DEDUCED, log 74) -/
def nvPulse (old s : State) : State :=
  let t := max (s.rst.nvUntil.getD 0) s.ft + 19200
  modSecm (fun m => { m with nvOld := m.nvOld.filter (fun p => s.ft < p.1) ++ [(t, nvCells old.secm)] })
    (modRst (fun r => { r with nvUntil := some t }) s)

/-- Raise the counter of a kind, 1 to 5: the status, and the state. -/
def raiseCtr (kind v : Nat) (s : State) : Nat × State :=
  let k := kind - 1
  if v ≤ look s.secm.ctr k 0 then (5, s)
  else if 4096 ≤ look s.secm.ctrUse k 0 then (8, logC 0x1406 [kind] s)
  else
    let t := modSecm (fun m => { m with ctr := put m.ctr k v 0, ctrUse := put m.ctrUse k (look m.ctrUse k 0 + 1) 0 }) s
    (0, logC 0x1407 [kind, v] (nvPulse s t))

/-! ### The DRBG (R609, R610) -/

/-- `n` bytes of DRBG output. -/
def drbgBytes (n : Nat) (s : State) : Bytes × State :=
  ((List.range n).map (Config.drbg (2 * s.secm.draws)), modSecm (fun m => { m with draws := m.draws + 1, requests := m.requests + 1 }) s)
/-- Reseed from the entropy source. -/
def reseed (s : State) : State := modSecm (fun m => { m with requests := 0, reseedAt := s.ft }) s

/-- DRBG_RESEED: after 1,048,576 requests, or 1 s. -/
def execDrbgReseed (s : State) :=
  run .drbgReseed s (if s.secm.drbg ∧ (1048576 ≤ s.secm.requests ∨ s.secm.reseedAt + us 1000000 ≤ s.ft) then reseed s else s)
/-- SEED_POOL_REFILL: each seed is one generate request. -/
def execSeedPoolRefill (count : Nat) (s : State) :=
  run (.seedPoolRefill count) s (if s.secm.drbg then
    let n := min count (4096 - s.secm.pool)
    modSecm (fun m => { m with pool := m.pool + n, requests := m.requests + n }) s
  else s)

/-! ### Zeroisation and tamper (R611 to R614) -/

/-- The volatile keys and every session go; the DRBG is instantiated again. -/
def clearKeys (s : State) : State :=
  modSecm (fun m => { endSessions m with ksk := false, dak := false, dtk := false, imgKey := false, requests := 0, reseedAt := s.ft }) s

/-- Zeroise: 1 command, 2 tamper, 3 debug unlock, 4 retirement. An erase in progress continues. -/
def zeroise (cause : Nat) (s : State) : State :=
  let s := logC 0x1409 [cause] (clearKeys s)
  if s.secm.erasing.isSome then s else modSecm (fun m => { m with erasing := some s.ft, st := 3 }) s

/-- A tamper event is recorded in the key store (R614). -/
def tamperMark (cause : Nat) (s : State) : State :=
  modSecm (fun m => { m with tamperCause := cause, tamperCount := min 65535 (m.tamperCount + 1), tamperLog := true }) s

/-- Cause 6 (R613): the volatile keys go and the TAMPER reset is raised. -/
def selfTamper (s : State) : State := takeReset 10 (tamperMark 6 (clearKeys s))

/-- TAMPER_DETECT, causes 1 to 5: the reset waits for the erase. EXTERNAL counts only with SECM_CFG.EXT_EN. (DESIGN CHOICE, log 15) -/
def tamperDetect (cause : Nat) (s : State) : State :=
  if cause = 0 ∨ 6 < cause ∨ (cause = 5 ∧ !bit (rd s 0x00040048) 0) then s
  else if cause = 6 then selfTamper s
  else
    -- a pulse in progress also holds this reset (R563), which then waits for the erase
    let s := when_ s.rst.nvUntil.isSome (modRst (fun r => { r with nvHeld := r.nvHeld ||| 0x400#13 })) s
    modSecm (fun m => { m with tamperWait := some cause }) (zeroise 2 (tamperMark cause s))
def execTamperDetect (cause : Nat) (s : State) := run (.tamperDetect cause) s (tamperDetect cause s)

/-- SELFTEST_FAIL (R618): cause 6, or ERROR where power-on tests fail again after a TAMPER reset for that cause. -/
def selftestFail (test : Nat) (conditional : Bool) (s : State) : State :=
  let s := if conditional then logC 0x1403 [] s else logC 0x1402 [test] s
  if !conditional ∧ s.secm.st = 0 ∧ bit s.rst.causes.toNat 10 ∧ s.secm.tamperCause = 6 then modSecm (fun m => { m with st := 2 }) s
  else selfTamper s
def execSelftestFail (test : Nat) (conditional : Bool) (s : State) := run (.selftestFail test conditional) s (selftestFail test conditional s)

/-! ### Commands (R592 to R608, R615, R616) -/

/-- A command is taken on a channel: ignored with BUSY while one runs, ERROR in ERROR, kept while the key store is
being erased; without its role, NO_ROLE. (DEDUCED, log 73) -/
def secmCmd (c : Nat) (i : Instr) (role : Session → Bool) (act : State → State) (s : State) : State :=
  let x := sess s c
  if x.busy then modSess c (fun x => { x with status := 9 }) s
  else if s.secm.st = 2 then secmEnd c 10 s
  else if s.secm.st = 0 then secmEnd c 9 s
  else if s.secm.st = 3 then modSess c (fun x => { x with busy := true, queued := some i }) s
  else
    let s := modSess c (fun x => { x with last := s.ft }) s
    if role x then act s else secmEnd c 2 s

/-- Any session. -/
def anyRole (x : Session) : Bool := x.role != 0
/-- A Crypto Officer's. -/
def coRole (x : Session) : Bool := x.role == 2
/-- No role needed. -/
def noRole (_ : Session) : Bool := true

/-- STATUS: how its response is laid out is not stated: its bytes are free values. -/
def secmStatus (c : Nat) : State → State :=
  secmCmd c (.secmStatus c) noRole (fun s =>
    let f := fresh s
    secmAnswer c (leBytes 768 f.1) (modSecm (fun m => { m with dak := true, dtk := true }) f.2))

/-- SELFTEST: the power-on tests; `failing` is the test that fails. -/
def selftest (c : Nat) (failing : Option Nat) : State → State :=
  secmCmd c (.selftest c failing) noRole (fun s =>
    match failing with
    | none => secmEnd c 0 (logC 0x1401 [] s)
    | some t => selftestFail t false s)

/-- AUTH_CHALLENGE: 48 bytes, good for one AUTH_RESPONSE on the channel within 1 s. -/
def authChallenge (c : Nat) : State → State :=
  secmCmd c (.authChallenge c) noRole (fun s =>
    let r := drbgBytes 48 s
    secmAnswer c r.1 (modSess c (fun x => { x with challenge := some (r.1, s.ft) }) r.2))

/-- The fused hash of a Crypto Officer, in the set whose valid word is written. -/
def coHash (s : State) (k : Nat) : Option Bytes := (s.secm.banks.find? Prod.snd).bind (fun b => b.1[k]?)

/-- A response is right: an officer's key, in bytes 1 to 96, has the fused hash and its signature, in bytes 97 to 192,
verifies; a user's code is in bytes 1 to 48. (DESIGN CHOICE, log 72) -/
def authOk (s : State) (c ident : Nat) (arg chal : Bytes) : Bool :=
  if ident < 4 then
    let key := slice arg 1 96
    coHash s ident == some (Config.sha384 key) && Config.ecdsaVerify key (Config.sha384 chal) (slice arg 97 96)
  else
    let key := look s.secm.user (ident - 16) []
    !key.isEmpty && slice arg 1 48 == Config.hmac key (chal ++ [BitVec.ofNat 8 c, BitVec.ofNat 8 ident])

/-- AUTH_RESPONSE (R593 to R595). -/
def authResponse (c : Nat) : State → State :=
  secmCmd c (.authResponse c) noRole (fun s =>
    let arg := secmArg s c
    let id := u8 arg 0
    let chal := (sess s c).challenge.filter (fun x => decide (s.ft ≤ x.2 + us 1000000))
    let s := modSess c (fun x => { x with challenge := none }) s
    if !(decide (id < 4) || decide (16 ≤ id ∧ id < 24)) then secmEnd c 5 s
    else if s.secm.locked.contains id then secmEnd c 4 (logC 0x1405 [] s)
    else if (chal.map (fun x => authOk s c id arg x.1)).getD false then
      let s := modSecm (fun m => { m with fails := put m.fails id 0 0 }) s
      secmEnd c 0 (modSess c (fun x => { x with role := if id < 4 then 2 else 1, ident := id, rsp := [] }) s)
    else
      let n := look s.secm.fails id 0 + 1
      let s := modSecm (fun m => { m with fails := put m.fails id n 0, locked := if n = 16 then m.locked ++ [id] else m.locked }) s
      secmEnd c 3 (logC 0x1404 [id, n] (bumpSat 0x00040050 s)))

/-- A session ends. -/
def endSession (c : Nat) (s : State) : State := modSess c (fun x => { x with role := 0, ident := 0, rsp := [] }) s

/-- LOGOUT. -/
def logout (c : Nat) : State → State := secmCmd c (.logout c) anyRole (fun s => secmEnd c 0 (endSession c s))

/-- SESSION_TIMEOUT: 60 s without a command. -/
def sessionTimeout (c : Nat) (s : State) : State :=
  if (sess s c).role ≠ 0 ∧ (sess s c).last + us 60000000 ≤ s.ft then endSession c s else s

/-- A mask of the occupied keys below `n` of a slot bank. -/
def occupied (m : SMap Bytes) (n : Nat) : Nat := maskOf ((List.range n).filter (fun k => !(look m k []).isEmpty))
/-- SECM_SLOTS: signing slots with slot 0, wrap slots, user slots, valid officers. -/
def slotWord (s : State) : Nat :=
  (occupied s.secm.sign 8 ||| 1) + at_ 8 (occupied s.secm.wrap 8) + at_ 16 (occupied s.secm.user 8)
    + at_ 24 (maskOf ((List.range 4).filter (fun k => (coHash s k).isSome)))

/-- SECM_STAT.APPROVED (R587). -/
def approved (s : State) : Bool := decide (s.secm.lc = 3 ∨ s.secm.lc = 7) && s.secm.tested && !s.secm.debugOpen

/-- Bytes 0 to 511 of the attestation report (R607). -/
def reportBytes (s : State) (nonce : Bytes) : Bytes :=
  let m := s.secm
  let flags := b2n (approved s) + 2 * b2n m.debugOpen + 4 * b2n s.rst.safeHold + 8 * b2n (m.tamperCount != 0)
  [0x54, 0x42, 0x58, 0x41] ++ leBytes 2 1 ++ [BitVec.ofNat 8 m.lc, BitVec.ofNat 8 flags] ++ leBytes 8 s.serial.toNat
    ++ leBytes 4 (crc32c (leBytes 8 s.serial.toNat)).toNat
    ++ [if s.fab.valid then BitVec.ofNat 8 s.fab.chip else 0xFF, BitVec.ofNat 8 s.stepping, BitVec.ofNat 8 (b2n s.partX), 0]
    ++ leBytes 8 s.ft ++ fit 48 nonce ++ ((List.range 5).map (fun k => leBytes 4 (look m.ctr k 0))).flatten
    ++ leBytes 4 Config.secmVersion ++ fit 96 (Config.derive 2 [])
    ++ ((List.range 5).map (fun k => fit 48 (look m.digests (k + 1) []))).flatten
    ++ leBytes 3 (slotWord s % 2 ^ 24)
    ++ [BitVec.ofNat 8 (slotWord s / 2 ^ 24 + at_ 4 (maskOf ((List.range 4).filter m.locked.contains)))] ++ zeros 68

/-- ATTEST: the report over a 48-byte nonce, signed by the DAK; STATE in BLANK and RETIRED. -/
def attest (c : Nat) : State → State :=
  secmCmd c (.attest c) anyRole (fun s =>
    if s.secm.lc = 0x1 ∨ s.secm.lc = 0xF then secmEnd c 6 s
    else
      let b := reportBytes s ((secmArg s c).take 48)
      let sig := fit 96 (Config.ecdsaSign 0 (Config.sha384 b) s.secm.draws)
      secmAnswer c (b ++ sig) (modSecm (fun m => { m with dak := true, dtk := true, draws := m.draws + 1, requests := m.requests + 1 }) s))

/-- RANDOM: 1 to 512 bytes, the count in bytes 0 and 1. -/
def random (c : Nat) : State → State :=
  secmCmd c (.random c) anyRole (fun s =>
    let n := u16 (secmArg s c) 0
    if n = 0 ∨ 512 < n then secmEnd c 5 s
    else let r := drbgBytes n (reseed s); secmAnswer c r.1 r.2)

/-- Store a key. -/
def setSlot (type k : Nat) (v : Bytes) (s : State) : State :=
  modSecm (fun m => match type with
    | 0 => { m with sign := put m.sign k v [] }
    | 1 => { m with wrap := put m.wrap k v [] }
    | _ => { m with user := put m.user k v [] }) s
/-- What a slot holds. -/
def slotOfType (s : State) (type k : Nat) : Bytes :=
  match type with | 0 => look s.secm.sign k [] | 1 => look s.secm.wrap k [] | _ => look s.secm.user k []

/-- PROVISION_SLOT (R600, R601): type, index, then the public key, or an ephemeral key and the wrapped key. (DEDUCED, log 75) -/
def provisionSlot (c : Nat) : State → State :=
  secmCmd c (.provisionSlot c) coRole (fun s =>
    let a := secmArg s c
    let type := u8 a 0
    let k := u8 a 1
    if s.secm.lc ≠ 0x3 ∧ s.secm.lc ≠ 0x7 then secmEnd c 6 s
    else if 2 < type ∨ 7 < k ∨ (type = 0 ∧ k = 0) then secmEnd c 5 s
    else if s.secm.lc = 0x7 ∧ !(slotOfType s type k).isEmpty then secmEnd c 7 s
    else
      let kek := Config.derive 3 (slice a 2 96 ++ [BitVec.ofNat 8 type, BitVec.ofNat 8 k])
      match (if type = 0 then some (slice a 2 96) else Config.kwUnwrap kek (slice a 98 (if type = 1 then 40 else 56))) with
      | none => secmEnd c 5 s
      | some v => secmEnd c 0 (logC 0x140B [] (setSlot type k v (modSecm (fun m => { m with ksk := true, dtk := m.dtk || type != 0 }) s))))

/-- CLEAR_SLOT. -/
def clearSlot (c : Nat) : State → State :=
  secmCmd c (.clearSlot c) coRole (fun s =>
    let a := secmArg s c
    if 2 < u8 a 0 ∨ 7 < u8 a 1 ∨ (u8 a 0 = 0 ∧ u8 a 1 = 0) then secmEnd c 5 s
    else secmEnd c 0 (logC 0x140B [] (setSlot (u8 a 0) (u8 a 1) [] s)))

/-- LC_PROVISION (R589, R590): the count of officers in byte 0, their hashes from byte 1. -/
def lcProvision (c : Nat) : State → State :=
  secmCmd c (.lcProvision c) noRole (fun s =>
    let a := secmArg s c
    let n := u8 a 0
    if s.secm.lc ≠ 0x1 then secmEnd c 6 s
    else if n = 0 ∨ 4 < n then secmEnd c 5 s
    else if 2 ≤ s.secm.banks.length then secmEnd c 8 (logC 0x1411 [] s)
    else
      let hs := (List.range n).map (fun i => slice a (1 + 48 * i) 48)
      secmEnd c 0 (logC 0x1408 [3] (nvPulse s (modSecm (fun m => { m with banks := m.banks ++ [(hs, true)], lc := 0x3 }) s))))

/-- A command that zeroises first goes on when the erase is complete. -/
def zeroiseFor (c what cause : Nat) (s : State) : State :=
  modSess c (fun x => { x with busy := true }) (modSecm (fun m => { m with after := some (what, c) }) (zeroise cause s))

/-- LC_ADVANCE (R589, R591): the new state in byte 0. -/
def lcAdvance (c : Nat) : State → State :=
  secmCmd c (.lcAdvance c) coRole (fun s =>
    let to_ := u8 (secmArg s c) 0
    let lc := s.secm.lc
    if lc = 0x3 ∧ to_ = 0x7 then secmEnd c 0 (logC 0x1408 [7] (nvPulse s (modSecm (fun m => { m with lc := 0x7 }) s)))
    else if (lc = 0x3 ∨ lc = 0x7) ∧ to_ = 0xF then zeroiseFor c 2 4 s
    else secmEnd c 6 s)

/-- CTR_RAISE (R605, R606): the kind, 1 to 5, in byte 0, the value in bytes 4 to 7. -/
def ctrRaise (c : Nat) : State → State :=
  secmCmd c (.ctrRaise c) coRole (fun s =>
    let a := secmArg s c
    if u8 a 0 = 0 ∨ 5 < u8 a 0 then secmEnd c 5 s
    else let r := raiseCtr (u8 a 0) (u32 a 4) s; secmEnd c r.1 r.2)

/-- The debug TAP opens (R615). -/
def openDebug (s : State) : State := logC 0x140A [] (modSecm (fun m => { m with debugOpen := true }) s)

/-- DEBUG_UNLOCK: in DEPLOYED the SECM zeroises first. -/
def debugUnlock (c : Nat) : State → State :=
  secmCmd c (.debugUnlock c) coRole (fun s => if s.secm.lc = 0x7 then zeroiseFor c 3 3 s else secmEnd c 0 (openDebug s))

/-- ZEROISE. -/
def zeroiseCmd (c : Nat) : State → State := secmCmd c (.zeroise c) noRole (fun s => zeroiseFor c 1 1 s)

/-- Run a command that was kept during the erase. -/
def runKept (c : Nat) (s : State) : State :=
  match (sess s c).queued with
  | none => s
  | some i =>
    let s := modSess c (fun x => { x with queued := none, busy := false }) s
    match i with
    | .secmStatus c => secmStatus c s
    | .selftest c f => selftest c f s
    | .authChallenge c => authChallenge c s
    | .authResponse c => authResponse c s
    | .logout c => logout c s
    | .attest c => attest c s
    | .random c => random c s
    | .provisionSlot c => provisionSlot c s
    | .clearSlot c => clearSlot c s
    | .lcProvision c => lcProvision c s
    | .lcAdvance c => lcAdvance c s
    | .ctrRaise c => ctrRaise c s
    | .debugUnlock c => debugUnlock c s
    | .zeroise c => zeroiseCmd c s
    | _ => s

/-- ZEROISE_ERASE_COMPLETE (R591, R611, R613, R615): wrap and user slots are empty; what waited goes on. A write pulse
in progress comes before the erase. -/
def eraseComplete (s : State) : State :=
  if s.secm.erasing.isNone ∨ s.rst.nvUntil.isSome then s
  else
    let after := s.secm.after
    let s := modSecm (fun m => { m with wrap := [], user := [], erasing := none, erasePending := false, after := none, st := 1 }) s
    let s := match after with
      | some (2, c) => secmEnd c 0 (logC 0x1408 [0xF] (nvPulse s (modSecm (fun m => { m with lc := 0xF, hukGone := true }) s)))
      | some (3, c) => secmEnd c 0 (openDebug s)
      | some (_, c) => secmEnd c 0 s
      | none => s
    match s.secm.tamperWait with
    | some _ =>
      let s := modSecm (fun m => { m with tamperWait := none }) s
      if bit s.rst.nvHeld.toNat 10 ∧ s.rst.nvUntil.isNone then takeHeld s.rst.nvHeld.toNat (modRst (fun r => { r with nvHeld := 0 }) s)
      else takeReset 10 s
    | none => runKept 1 (runKept 0 s)
def execZeroiseEraseComplete (s : State) := run .zeroiseEraseComplete s (eraseComplete s)

def execSecmStatus (chan : Nat) (s : State) := run (.secmStatus chan) s (secmStatus chan s)
def execSelftest (chan : Nat) (failing : Option Nat) (s : State) := run (.selftest chan failing) s (selftest chan failing s)
def execAuthChallenge (chan : Nat) (s : State) := run (.authChallenge chan) s (authChallenge chan s)
def execAuthResponse (chan : Nat) (s : State) := run (.authResponse chan) s (authResponse chan s)
def execLogout (chan : Nat) (s : State) := run (.logout chan) s (logout chan s)
def execSessionTimeout (chan : Nat) (s : State) := run (.sessionTimeout chan) s (sessionTimeout chan s)
def execAttest (chan : Nat) (s : State) := run (.attest chan) s (attest chan s)
def execRandom (chan : Nat) (s : State) := run (.random chan) s (random chan s)
def execProvisionSlot (chan : Nat) (s : State) := run (.provisionSlot chan) s (provisionSlot chan s)
def execClearSlot (chan : Nat) (s : State) := run (.clearSlot chan) s (clearSlot chan s)
def execLcProvision (chan : Nat) (s : State) := run (.lcProvision chan) s (lcProvision chan s)
def execLcAdvance (chan : Nat) (s : State) := run (.lcAdvance chan) s (lcAdvance chan s)
def execCtrRaise (chan : Nat) (s : State) := run (.ctrRaise chan) s (ctrRaise chan s)
def execDebugUnlock (chan : Nat) (s : State) := run (.debugUnlock chan) s (debugUnlock chan s)
def execZeroise (chan : Nat) (s : State) := run (.zeroise chan) s (zeroiseCmd chan s)

end Sys2Proof.Machine
end

