-- ==== Sys2Proof/Machine/Image.lean ====
section
/-! DEFINITION. The image loader: sources, bundles, drains, installation and commit (R149 to R173, R178, R270, R366). -/
namespace Sys2Proof.Machine

/-- IMG_CTL. -/
abbrev rImgCtl : Nat := 0x00060000
/-- IMG_STAT, whose stored bit is STAGE_WR. -/
abbrev rImgStat : Nat := 0x00060004
/-- IMG_DRAIN. -/
abbrev rDrain : Nat := 0x00060020
/-- IMG_DRAINED. -/
abbrev rDrained : Nat := 0x00060028

/-- Change the loader. -/
def modImg (f : Img → Img) (s : State) : State := { s with img := f s.img }
/-- The loader changes state (R156): a device event (R508) and an interrupt of the control core (R387). -/
def setLoader (st : Nat) (s : State) : State := ccInt 5 <| devEvent 4 (modImg (fun i => { i with st := st }) s)
/-- The loader is free for another image (R165). -/
def loaderIdle (s : State) : Bool := s.img.st == 0 || s.img.st == 6 || s.img.st == 7 || s.img.st == 8
/-- Bytes of the lake. -/
def lakeBytes (s : State) (a n : Nat) : Bytes := lookBytes s.nmc.lake a n

/-! ### Drains (R164, R167 to R170) -/

/-- IMG_DRAIN_DL in FT: values outside 1 to 10,000 select 100. -/
def drainFt (s : State) : Nat := let d := rdf s 0x00060024 13 0; us (if 1 ≤ d ∧ d ≤ 10000 then d else 100)

/-- A drain begins: the host's of stall `k`, or the loader's of stall `k - 32`. Each DEFERRED request of the stall
completes REFUSED_MODEL (R167), and a DRAIN entry stands for the deadline (R169). -/
def beginDrain (k : Nat) (s : State) : State :=
  let n := k % 32
  let due := s.ft + drainFt s
  let s := dlyIns 7 n due (modImg (fun i => { i with drainAt := ins i.drainAt k (due + 1) }) s)
  let rs := (s.rtb.filter (fun p => p.2.stall == n && p.2.st == .deferred && !p.2.shadow)).map Prod.fst
  forEach rs (fun r s => refuseReq r 0x24 (dropTimers r s)) s

/-- A drain of a stall ends; with no other in force, the stall is no longer drained. -/
def endDrain (k : Nat) (s : State) : State :=
  let s := modImg (fun i => { i with drainAt := del i.drainAt k }) s
  when_ (!draining s (k % 32)) (clrBit rDrained (k % 32)) s

/-- The loader lifts every drain that it began (R163, R164). -/
def liftDrains (s : State) : State :=
  let ns := setBits 32 s.img.drains.toNat
  forEach ns (fun n => endDrain (32 + n)) (modImg (fun i => { i with drains := 0 }) s)

/-- No entry, firmware-tracked request or work item of a stall is left (R170). -/
def stallEmpty (s : State) (n : Nat) : Bool :=
  s.rtb.all (fun p => p.2.stall != n || p.2.st == .free || p.2.st == .paused)
    && s.wks.pool.all (fun p => p.2.stall != n || (p.2.st != .ready && p.2.st != .running))

/-- A request that the drain deadline meets completes LATE_DROPPED and is freed (R169): its generation ends with a
closing record flagged LATE (R430). A RESUMING one abandons its page return and stays PAUSED. -/
def dropForced (r : Nat) (s : State) : State :=
  let e := ent s r
  let x := side s r
  if e.st = .resuming then
    let s := orderShadow r 64 (finishPend r 0x30 (finishOpen r 0x30 s))
    let s := forEach ((remotes s e.stall).zipIdx) (fun m s =>
      modFree m.1 (fun f => { f with pages := f.pages - (side s r).slots.getD m.2 0 }) s) (releasePages r s)
    let s := modEnt r (fun e => { clearCmd e with st := .paused }) (modSide r (fun x => { x with away := true }) (dropTimers r s))
    let s := dlyIns 3 (reqHandle s r) e.ttlDue s
    if (chan s e.channel).st = 1 then s else orphan r s
  else if (e.st = .admitting ∨ e.st = .deferred) ∧ x.before = .paused then
    dlyIns 3 (reqHandle s r) e.ttlDue (endReq 0x30 false r s)
  else
    let s := maskReq r 3 s
    let s := if running (ent s r) then toDraining r 0x30 true true false s
      else if e.st = .draining then modSide r (fun x => { x with ending := some 0x30 }) s else s
    toClosing r 0x30 0x30 0x30 false s

/-- DRAIN: at the deadline of a drain still in force, what is left of the stall ends (R169). -/
def drainDue (e : DlyEntry) (s : State) : State :=
  let n := e.arg.toNat % 32
  let past (k : Nat) : Bool := let t := look s.img.drainAt k 0; t != 0 && decide (t ≤ s.ft + 1)
  if past n ∨ past (32 + n) then
    let rs := (s.rtb.filter (fun p => p.2.stall == n && !p.2.shadow && p.2.st != .free && p.2.st != .paused && p.2.st != .fw)).map Prod.fst
    logEv 0x161A n [rs.length] (forEach rs dropForced s)
  else s
def execDrain (s : State) := run .drain s (if isOn s dSEQ then fire 7 drainDue s else s)

/-- A write of IMG_DRAIN begins or ends the host's drains of the stalls whose bits change. -/
def imgDrainWrite (v : Word) (s : State) : State :=
  let old := rd s rDrain
  let s := wr rDrain v.toNat s
  let s := forEach ((List.range 32).filter (fun n => bit old n && !bit v.toNat n)) endDrain s
  forEach ((List.range 32).filter (fun n => !bit old n && bit v.toNat n)) beginDrain s
def execImgDrainWrite (value : Word) (s : State) := run (.imgDrainWrite value) s (imgDrainWrite value s)

/-! ### Failing and aborting (R153, R155, R163, R165) -/

/-- The loader enters FAILED: the image is discarded, the loader's drains end. -/
def enterFailed (b : Bad) (s : State) : State :=
  let s := wr 0x00060010 (b.2.getD 1 0) (wr 0x0006000C (b.2.getD 0 0) (wr 0x00060008 b.1 (logC b.1 b.2 s)))
  let s := liftDrains (modSecm (fun m => { m with imgKey := false }) s)
  setLoader 7 (modImg (fun i => { i with frames := [], plains := [], armed := none, fwd := none }) s)

/-- IMG_ABORT of a bundle reaches this chip (R163). -/
def abortOwn (bundle : W64) (s : State) : State :=
  let i := s.img
  if i.hdr.member ∧ i.hdr.bundle = bundle ∧ 1 ≤ i.st ∧ i.st ≤ 5 then enterFailed (0x161B, []) s else s
def execImgAbort (msg : Bytes) (s : State) :=
  run (.imgAbort msg) s (abortOwn (BitVec.ofNat 64 (u64 (ctlOf msg).body 0)) s)

/-- A message of the root to every other chip. -/
def toAllChips (sub : Nat) (only : Nat → Bool) (body : Bytes) (s : State) : State :=
  forEach (s.fab.chips.filter (fun c => c.serial != s.serial && only c.id)) (fun c => ctlToChip sub c body) s

/-- The root aborts a bundle on every chip. -/
def abortBundle (bundle : W64) (s : State) : State :=
  let s := modImg (fun i => { i with firstReport := none, reports := [] }) s
  abortOwn bundle (toAllChips 0x33 (fun _ => true) (leBytes 8 bundle.toNat) s)

/-- The first multiple of 65,536 FT at least 64 µs ahead (R161). -/
def bundleInstant (t : Nat) : Nat := cdiv (t + 102400) 65536 * 65536

/-- Every member has reported: the root arms the bundle (R161). (DEDUCED, log 59) -/
def armBundle (bundle : W64) (s : State) : State :=
  let t := bundleInstant s.ft
  let ms := s.img.reports
  let s := toAllChips 0x32 ms.contains (leBytes 8 bundle.toNat ++ leBytes 8 t) s
  modImg (fun i => { i with firstReport := none, reports := [], armed := if ms.contains s.fab.chip then some t else i.armed }) s

/-- The root counts a report. MEMBERS is that of a header of the bundle that it has read. -/
def takeReport (bundle : W64) (chip : Nat) (failed : Bool) (s : State) : State :=
  let i := s.img
  let s :=
    if i.firstReport.isSome ∧ i.bundleId = bundle then s
    else
      let known := if i.hdr.member ∧ i.hdr.bundle = bundle ∧ i.hdr.members ≠ 0 then i.hdr.members else if i.bundleId = bundle then i.members else 0
      let d := if known = 0 then fresh s else (known, s)
      modImg (fun i => { i with bundleId := bundle, members := d.1, reports := [], firstReport := some s.ft }) d.2
  if failed then abortBundle bundle s
  else
    let s := modImg (fun i => { i with reports := (i.reports ++ [chip]).dedup }) s
    if s.img.reports.length = s.img.members then armBundle bundle s else s
def imgReport (msg : Bytes) (s : State) : State :=
  let b := (ctlOf msg).body
  if isRoot s then takeReport (BitVec.ofNat 64 (u64 b 0)) (u8 b 8) (u8 b 9 == 1) s else s
def execImgReport (msg : Bytes) (s : State) := run (.imgReport msg) s (imgReport msg s)

/-- A member reports INSTALLED or FAILED to the root (R161, R163). -/
def memberReport (failed : Bool) (code : Nat) (s : State) : State :=
  let h := s.img.hdr
  if !h.member then s
  else if isRoot s then takeReport h.bundle s.fab.chip failed s
  else ctlUp 0x31 0 (leBytes 8 h.bundle.toNat ++ [BitVec.ofNat 8 s.fab.chip, BitVec.ofNat 8 (b2n failed)] ++ leBytes 2 code) s

/-- A check fails (R153): FAILED, a member's report, and the IMAGE_FAIL reset for a boot image from flash (R155). -/
def imgFail (b : Bad) (s : State) : State :=
  let boot := s.img.boot && b.1 != 0x1611
  let s := memberReport true b.1 (enterFailed b s)
  if boot then takeReset 11 s else s

/-- IMG_CTL.ABORT (R165): no check has failed, so a boot image takes no reset by it. -/
def imgCtlAbort (s : State) : State :=
  if 1 ≤ s.img.st ∧ s.img.st ≤ 3 then memberReport true 0x1612 (enterFailed (0x1612, []) s) else s
def execImgCtlAbort (s : State) := run .imgCtlAbort s (imgCtlAbort s)

/-- IMG_BUNDLE_TO has passed since the first report (R163). -/
def bundleTimeout (s : State) : State :=
  let m := rdf s 0x0006002C 9 0
  match s.img.firstReport with
  | some t => if isRoot s ∧ t + us (1000 * (if 1 ≤ m ∧ m ≤ 1000 then m else 10)) ≤ s.ft then abortBundle s.img.bundleId s else s
  | none => s
def execBundleTimeout (s : State) := run .bundleTimeout s (bundleTimeout s)

/-! ### Fetching (R149 to R153) -/

/-- A load begins from a source. -/
def beginFetch (source : Nat) (boot : Bool) (s : State) : State :=
  let i := s.img
  setLoader 1 (wr 0x00060014 0 { s with img :=
    { source := source, boot := boot, drainAt := i.drainAt, bundleId := i.bundleId, members := i.members, reports := i.reports,
      firstReport := i.firstReport, reloading := i.reloading } })

/-- IMG_CTL.START (R165, R566); the write stores SRC and AUTO. -/
def imgStart (v : Word) (s : State) : State :=
  let s := wrf rImgCtl 5 3 (bits v.toNat 5 3) s
  if s.rst.safeHold then s
  else if !loaderIdle s then logC 0x1618 [] s
  else beginFetch (bits v.toNat 4 3) false s
def execImgStart (value : Word) (s : State) := run (.imgStart value) s (imgStart value s)

/-- The frame that the loader reads next: none while it is not there. Flash gives the frame that the command brings, the
staging bank its own; an error is `some none`. -/
def nextFrame (s : State) (frame : Option Bytes) : Option (Option Bytes) :=
  let i := s.img
  let bank (k : Nat) : Option Bytes := frame.map (fun _ => lakeBytes s (0x600000000 + 4096 * k) 4096)
  match i.source with
  | 0 => some frame
  | 1 => if isOn s dNMC then some (bank i.pos) else none
  | 2 => if isOn s dNMC ∧ i.frames.length < i.pos then some (bank i.frames.length) else none
  | _ => some none

/-- Decrypted plaintext goes to the staging bank, each frame's in place of its ciphertext (R153). (DESIGN CHOICE, log 88) -/
def stagePlain (ps : List Bytes) (s : State) : State :=
  let base := s.img.pos - s.img.frames.length
  let put_ (m : SMap Byte) (x : SecEnt × Bytes) : SMap Byte :=
    if x.1.encrypted then (List.range x.1.count).foldl (fun m i =>
      setRange m (0x600000000 + 4096 * (base + x.1.first + i)) ((x.2.drop (4072 * i)).take 4072)) m
    else m
  modNmc (fun n => { n with lake := (s.img.secs.dropLast.zip ps).foldl put_ n.lake }) s

/-- A frame of the image for this chip: checks 1 to 9 as it comes, 10 to 12 after the last (R153). -/
def ownFrame (f : Bytes) (s : State) : State :=
  let k := s.img.frames.length
  let src := if s.img.source = 2 then 0 else 1
  let s := modImg (fun i => { i with frames := i.frames ++ [f], pos := i.pos + src }) s
  let s := if k = 0 then modImg (fun i => { i with hdr := hdrOfFrame f, secs := tableOfFrame f }) s else s
  match (if k = 0 then targetBad s f else none).or (frameBad k f) with
  | some b => imgFail b s
  | none =>
    let s := when_ (k == 0 && s.img.hdr.member) (modImg (fun i => { i with bundleNow := some i.hdr.bundle })) s
    let s := when_ (k == 0 && s.img.hdr.encrypted) (modSecm (fun m => { m with imgKey := true })) (wr 0x00060014 (k + 1) s)
    if (sectionAt s.img.secs k).any SecEnt.encrypted ∧ !s.secm.imgKey then imgFail (0x160B, []) s
    else if k + 1 = s.img.hdr.frames then
      match bodyCheck s s.img.frames with
      | .inl b => imgFail b s
      | .inr ps => stagePlain ps (modImg (fun i => { i with plains := ps }) s)
    else s

/-- A frame of another chip's member goes along the discovery path (R152). -/
def forwardFrame (chip k n : Nat) (f : Bytes) (s : State) : State :=
  match chipRec s chip with
  | none => imgFail (0x1611, []) s
  | some c =>
    let body := leBytes 8 s.img.bundleId.toNat ++ [BitVec.ofNat 8 chip] ++ zeros 3 ++ leBytes 4 k ++ zeros 16 ++ f
    ctlToChip 0x30 c body (modImg (fun i => { i with pos := i.pos + 1, fwd := if k + 1 < n then some (chip, k + 1, n) else none }) s)

/-- Every frame of this chip's image has passed checks 9 to 12. -/
def framesDone (s : State) : Bool := !s.img.frames.isEmpty && s.img.frames.length == s.img.hdr.frames
/-- This loader reads a bundle from its own source as the root (R152). -/
def readsBundle (s : State) : Bool := isRoot s && s.img.source != 2

/-- The first frame of an image: this chip's, another member's, or past the end of the bundle. -/
def firstFrame (f : Bytes) (s : State) : State :=
  let h := hdrOfFrame f
  if s.img.pos ≠ 0 ∧ !isMagic f ∧ readsBundle s then
    let s := modImg (fun i => { i with ended := true }) s
    if s.img.frames.isEmpty then setLoader 0 s else s
  else match headerBad f with
    | some b => imgFail b s
    | none =>
      if !s.fab.valid then s
      else if h.member ∧ readsBundle s ∧ s.img.bundleNow.any (fun b => b != h.bundle) then imgFail (0x160A, []) s
      else if h.member ∧ readsBundle s ∧ (h.chip ≠ s.fab.chip ∨ framesDone s) then
        let s := modImg (fun i => { i with bundleNow := some h.bundle }) s
        let new := s.img.firstReport.isNone
        let s := when_ new (modImg (fun i => { i with bundleId := h.bundle, members := h.members })) s
        forwardFrame h.chip 0 h.frames f s
      else ownFrame f s

/-- IMAGE_FRAME_FETCHED (R153): one frame of the source, while the image or the bundle has more. -/
def frameFetched (frame : Option Bytes) (s : State) : State :=
  let i := s.img
  if i.st ≠ 1 ∨ i.ended ∨ (framesDone s ∧ !(readsBundle s ∧ i.hdr.member)) then s
  else match nextFrame s frame with
    | none => if isOn s dNMC then s else wakeDom dNMC s
    | some none => imgFail (0x1611, []) s
    | some (some f) =>
      let f := fit 4096 f
      match i.fwd with
      | some (c, k, n) => forwardFrame c k n f s
      | none => if i.frames.isEmpty ∨ framesDone s then firstFrame f s else ownFrame f s
def execImageFrameFetched (frame : Option Bytes) (s : State) := run (.imageFrameFetched frame) s (frameFetched frame s)

/-- A frame 0 from the root may begin a load: not in HOLD, unless the loader waits there for the root (R149, R155). -/
def takesFromRoot (s : State) : Bool := loaderIdle s && (s.img.st != 8 || s.img.fromRoot)

/-- IMG_DATA: a frame of this chip's member comes into the staging bank (R52, R152). Frame 0 begins the load, or is the first
of one that IMG_CTL.START has asked for; a frame out of order is lost forwarding. -/
def imgDataNow (msg : Bytes) (s : State) : State :=
  let b := (ctlOf msg).body
  let bundle := BitVec.ofNat 64 (u64 b 0)
  let k := u32 b 12
  let store (s : State) : State :=
    let lake := setRange s.nmc.lake (0x600000000 + 4096 * k) (slice b 32 4096)
    modImg (fun i => { i with pos := k + 1 }) { s with nmc := { s.nmc with lake := lake } }
  let first (s : State) : State := store (modImg (fun i => { i with hdr := { member := true, bundle := bundle }, bundleNow := some bundle }) s)
  let waits := s.img.st == 1 && s.img.source == 2
  if u8 b 8 ≠ s.fab.chip ∨ s.rst.safeHold then s
  else if k = 0 ∧ takesFromRoot s then first (beginFetch 2 false s)
  else if k = 0 ∧ waits ∧ s.img.pos = 0 then first s
  else if waits ∧ s.img.bundleNow = some bundle then
    if k = s.img.pos ∧ k < 1048576 then store s else imgFail (0x1611, []) s
  else s
/-- The staging bank is in the lake: the frame waits for NMC. -/
def imgData (msg : Bytes) (s : State) : State :=
  if isOn s dNMC then imgDataNow msg s else wakeDom dNMC (await dNMC (.imgData msg) s)
def execImgData (msg : Bytes) (s : State) := run (.imgData msg) s (imgData msg s)

/-! ### Commit (R157 to R160, R164, R178) -/

/-- Spring state after the commit: a FULL image's own; of a STALL image's section, its rules, every other rule of the
stall disabled (R483). -/
def commitSpring (s : State) : State :=
  let h := s.img.hdr
  let l := (heldSecs s).ofType 3
  if h.kind = 1 then
    let b := (l.map Prod.snd).headD []
    let ops := ((opsOf b).zipIdx).foldl (fun m x => put m x.2 x.1 0) []
    let map := (mapOf b).foldl (fun m x => put m x.1 x.2 0) []
    let rules := (rulesOf b).foldl (fun m x => put m x.1 x.2 {}) []
    { s with spg := { s.spg with ops := ops, map := map, rules := rules } }
  else match l with
    | x :: _ =>
      let off := s.spg.rules.map (fun r => if r.2.loaded && chanStall s.conf r.2.channel == some h.stall
        then (r.1, { r.2 with enabled := false, enabled0 := false }) else r)
      { s with spg := { s.spg with rules := (rulesOf x.2).foldl (fun m y => put m y.1 y.2 {}) off } }
    | [] => s

/-- RTB_LEAD of the head stall of an aisle: the largest notice latency to a chip of it, plus 8 FT (R270). -/
def aisleLead (s : State) (a : Nat) : Nat :=
  min 4095 <| 8 + (((chain s a).filter (fun m => m.1 != s.fab.chip)).map (fun m => routeLat s m.1)).foldl max 0

/-- Set RTB_LEAD of the head stalls among some stalls. (DEDUCED, log 64) -/
def setLeads (p : Nat → Bool) (s : State) : State :=
  let as := (s.conf.aisles.filter (fun a => isHead s a.1)).map (fun a => (a.1, (a.2.headD (0, 0)).2))
  forEach (as.filter (fun a => p a.2)) (fun a s =>
    let v := aisleLead s a.1
    wr (win a.2 0x200) v { s with conf := { s.conf with leads := put s.conf.leads a.2 v 0 } }) s

/-- Load the power policy of the configuration (R128). -/
def setPower (s : State) : State := forEach s.conf.power (fun p => wr p.1 p.2) s

/-- Pages of a model's pinned copy. -/
def pinSize (m : Model) : Nat := cdiv ((m.windows.map Prod.snd).sum) 8192

/-- A PINNED model's windows go into the cores of its plan, and a copy into pond pages of each stall (R366). -/
def pinModel (m : Nat) (s : State) : State :=
  let d := model s m
  if !d.loaded ∨ !d.pinned then s
  else
    let all := d.windows.flatMap (fun w => fit w.2 (storeBytes s 5 m (look d.winOfs w.1 0) w.2))
    let s := forEach d.stalls (fun n s =>
      let a := allocPages n (pinSize d) s
      putPages a.1 all { a.2 with pinPages := put a.2.pinPages (n * 256 + m) a.1 [] }) s
    forEach d.windows (fun w s => forEach (Config.kernelPlan m w.1) (fun p s =>
      if 68 ≤ p ∨ (dom s (p / 17)).st = .off then s
      else
        let data := fit w.2 (storeBytes s 5 m (look d.winOfs w.1 0) w.2)
        let here : Window := { tag := w.1, bytes := w.2, pinned := true, used := s.ft, data := data }
        modCore p (fun c =>
          { c with windows := here :: makeRoom c.windows.length w.2 (c.windows.filter (fun x => x.tag != w.1)) }) s) s) s

/-- A model leaves, or is replaced: its pinned copies, its windows and its cached adapters go. -/
def unpinModel (m : Nat) (s : State) : State :=
  let d := model s m
  let ks := d.stalls.map (fun n => n * 256 + m)
  let s := forEach ks (fun k s => { (forEach (look s.pinPages k []) freePage s) with pinPages := del s.pinPages k }) s
  let s := forEach d.stalls (fun n s => forEach d.adapters (fun a => dropAdapter (n * 65536 + a.id)) s) s
  let tags := d.windows.map Prod.fst
  modWks (fun w => { w with cores := w.cores.map (fun c => (c.1, { c.2 with windows := c.2.windows.filter (fun x => !tags.contains x.tag) })) }) s

/-- The chip rebuilds from its installed store what a warm reset took (R158): registers that the loader loads, spring
rules as loaded, pinned models, policy modules as loaded (R550). -/
def rebuild (s : State) : State :=
  let s := setPower (setLeads (fun _ => true) s)
  let s := { s with spg := { s.spg with rules := s.spg.rules.map (fun (r : Nat × Rule) => (r.1, { r.2 with enabled := r.2.enabled0 })) } }
  let ms := s.conf.modules.map (fun (m : Nat × Module) => (m.1, if m.2.st = 2 then { m.2 with st := 1 } else m.2))
  forEach (s.conf.models.map Prod.fst) pinModel { s with conf := { s.conf with modules := ms } }

/-- The staged routing table waits for its epoch (R85, R160). -/
def commitRoutes (s : State) : State :=
  match (heldSecs s).ofType 2 with
  | [] => s
  | x :: _ =>
    let n := (s.fab.cur + 1) % 65536
    let s := modFab (fun f => { f with stagedTab := tableOf x.2, tabCopy := tableOf x.2, stagedNum := n }) s
    if isRoot s then armIfStaged n s
    else ctlUp 0x20 0 (leBytes 2 n ++ [BitVec.ofNat 8 s.fab.chip, 0] ++ leBytes 4 (crc32c (x.2.take 1024)).toNat) s

/-- Modules that the image replaces are stopped (R399). -/
def stopModules (new : SMap Module) (s : State) : State :=
  let gone := s.conf.modules.filter (fun m => m.2.st == 1 && look new m.1 {} != m.2)
  forEach gone (fun m => callModule m.1 7) s

/-- New modules that fail their check are logged (R398). -/
def logModules (old : SMap Module) (s : State) : State :=
  let bad := s.conf.modules.filter (fun m => m.2.st == 3 && look old m.1 {} != m.2)
  forEach bad (fun m => logC 0x1304 [m.1]) s

/-- New modules start (R399): at ON_INIT, unless the control core is to reload, which starts every module. -/
def startModules (old : SMap Module) (s : State) : State :=
  if s.img.reloading then s
  else forEach (s.conf.modules.filter (fun m => m.2.st == 1 && look old m.1 {} != m.2)) (fun m => callModule m.1 0) s

/-- The directory switch (R157, R159): an adapter or model that the image removes is freed (R191), the image is active, DONE (R156), and what the loader began ends (R164). -/
def commitImage (code : Nat) (s : State) : State :=
  let h := s.img.hdr
  let old := s.conf
  let new := stagedConf s
  let touchedModels := if h.kind = 1 then old.models.map Prod.fst else ((heldSecs s).ofType 5).map (fun x => x.1.inst)
  let s := forEach touchedModels unpinModel (stopModules new.modules s)
  let gone (f : Conf → List Nat) : List Nat := (f old).filter (fun x => !(f new).contains x)
  let s := forEach (gone (fun c => c.models.map Prod.fst)) (bumpGen 5) s
  let s := forEach (gone (fun c => c.models.flatMap (fun m => m.2.adapters.map AdpCfg.id))) (bumpGen 4) s
  let s := commitSpring { s with conf := new, nmc := { s.nmc with store := s.img.store } }
  let s := forEach ((if h.kind = 1 then new.models.map Prod.fst else touchedModels).dedup) pinModel s
  let s := if ((heldSecs s).ofType 9).isEmpty then s else setPower s
  let s := if ((heldSecs s).ofType 1).isEmpty then s else setLeads (fun n => h.kind == 1 || n == h.stall) s
  let s := startModules old.modules (logModules old.modules s)
  let s := if h.kind = 1 then { s with fixed := {} } else s
  let s := wr (0x00060040 + 4 * (h.kind - 1)) h.version s
  let s := forEach (List.range 12) (fun i => wr (0x00060080 + 4 * i) (u32 h.digest (4 * i))) s
  let s := modSecm (fun m => { m with digests := put m.digests h.kind h.digest [], imgKey := false }) s
  let s := commitRoutes s
  let s := setLoader 6 (liftDrains s)
  let s := if h.advance ∧ look s.secm.ctr (h.kind - 1) 0 < h.version then (raiseCtr h.kind h.version s).2 else s
  modImg (fun i => { i with frames := [], plains := [], armed := none })
    (if code = 0x1616 then logC 0x1616 [h.kind, h.version] s else logC code [] s)

/-! ### Installation (R146, R156, R159 to R162, R166) -/

/-- The loader's drains are over: the checks run again, with check 19, and installation begins (R153). For a FIRMWARE image
the control core finishes the instruction that each thread is in, a bulk instruction too, and reloads (R166). -/
def tryInstall (s : State) : State :=
  let i := s.img
  if i.st ≠ 3 ∨ !((setBits 32 i.drains.toNat).all (bit (rd s rDrained))) then s
  else match (stagedBad s).or (if drainBad s then some (0x160E, []) else none) with
    | some b => imgFail b s
    | none =>
      let s := setLoader 4 s
      if i.hdr.kind = 5 ∨ !((heldSecs s).ofType 11).isEmpty then
        let stop (t : Thread) : Thread := if t.bulk.isSome then t else { t with st := 2, modl := none }
        let cc : Cc := { s.cc with run := 1, threads := s.cc.threads.map (fun t => (t.1, stop t.2)), calls := [] }
        wakeDom dCCR (modImg (fun i => { i with reloading := true }) { s with cc := cc })
      else s

/-- The image proceeds from STAGED: the loader drains the stalls that R146 gives it; one that is not ENABLED is drained at
once (R170). -/
def proceed (s : State) : State :=
  let ds := ownDrains s
  let s := setLoader 3 (modImg (fun i => { i with drains := w32 (maskOf ds) }) s)
  let s := forEach ds (fun n => beginDrain (32 + n)) s
  let s := forEach (ds.filter (fun n => !(stallCfg s n).enabled && stallEmpty s n && !bit (rd s rDrained) n))
    (fun n s => logEv 0x1619 n [n] (setBit rDrained n s)) s
  tryInstall s

/-- IMAGE_STAGED: every frame is there, and checks 8 (second part) and 13 to 18 pass or fail. -/
def imageStaged (s : State) : State :=
  let i := s.img
  if i.st ≠ 1 ∨ !framesDone s ∨ (readsBundle s ∧ i.hdr.member ∧ !i.ended) then s
  else match stagedBad s with
    | some b => imgFail b s
    | none =>
      let s := setLoader 2 (modSecm (fun m => { m with imgKey := false }) s)
      if i.boot ∨ bit (rd s rImgCtl) 5 then proceed s else s
def execImageStaged (s : State) := run .imageStaged s (imageStaged s)

/-- IMG_CTL.ACTIVATE. -/
def execImgActivate (s : State) := run .imgActivate s (if s.img.st = 2 then proceed s else s)

/-- STALL_DRAINED (R170). -/
def stallDrained (n : Nat) (s : State) : State :=
  if draining s n ∧ !bit (rd s rDrained) n ∧ stallEmpty s n ∧ isOn s dSEQ then
    tryInstall (logEv 0x1619 n [n] (setBit rDrained n s))
  else s
def execStallDrained (stall : Nat) (s : State) := run (.stallDrained stall) s (stallDrained stall s)

/-- A section of the image replaces one of the directory in force: of its model or module, or of its stall. -/
def replaces (h : ImgHdr) (e : SecEnt) (x : StoreSec) : Bool :=
  h.kind == 1 || (x.type == e.type && x.inst == e.inst && (x.stall == h.stall || (5 ≤ e.type && e.type ≤ 8) || h.kind == 4 || h.kind == 5))

/-- The image's sections go into free space of the installed store, under a second directory (R157). (DESIGN CHOICE, log 88) -/
def writeStore (s : State) : State :=
  let h := s.img.hdr
  let dir := s.nmc.store.filter (fun x => !(h.kind == 1) && !s.img.secs.dropLast.any (fun e => replaces h e x))
  let s := modImg (fun i => { i with store := dir }) s
  forEach (heldSecs s) (fun x s =>
    let f := fresh s
    match storeAt (f.2.nmc.store ++ f.2.img.store) f.1 x.2.length with
    | none => f.2
    | some a =>
      let s := modNmc (fun n => { n with lake := setRange n.lake a x.2 }) f.2
      modImg (fun i => { i with store := i.store ++ [⟨x.1.type, x.1.inst, h.stall, a, x.2.length⟩] }) s) s

/-- INSTALL_COMPLETE (R157, R159, R161): the sections are in the store; a single image commits; a member is ARMED and
reports. -/
def installComplete (s : State) : State :=
  if s.img.st ≠ 4 then s
  else
  let s := writeStore s
  if s.img.hdr.member then memberReport false 0 (setLoader 5 s)
  else commitImage 0x1616 s
def execInstallComplete (s : State) := run .installComplete s (installComplete s)

/-- IMG_ARM (R161, R162). -/
def imgArm (msg : Bytes) (s : State) : State :=
  let b := (ctlOf msg).body
  if s.img.st = 5 ∧ s.img.hdr.bundle = BitVec.ofNat 64 (u64 b 0) then
    if u64 b 8 < s.ft then commitImage 0x1615 s else modImg (fun i => { i with armed := some (u64 b 8) }) s
  else s
def execImgArm (msg : Bytes) (s : State) := run (.imgArm msg) s (imgArm msg s)

/-- BUNDLE_COMMIT: the armed instant has come. -/
def bundleCommit (s : State) : State :=
  match s.img.armed with
  | some t => if s.img.st = 5 ∧ t ≤ s.ft then commitImage 0x1616 s else s
  | none => s
def execBundleCommit (s : State) := run .bundleCommit s (bundleCommit s)

/-- FIRMWARE_RELOADED (R166): once the image's installation is over, the control core runs the firmware of the directory
in force, which takes the commands that the mailbox held, and the firmware-tracked commands that admission has put off. (DEDUCED, log 48) -/
def firmwareReloaded (s : State) : State :=
  if s.img.reloading ∧ s.img.st ≠ 4 ∧ s.img.st ≠ 5 ∧ isOn s dCCR ∧ !s.cc.threads.any (fun t => t.2.bulk.isSome) then
    let s := modImg (fun i => { i with reloading := false }) s
    let s := { s with cc := { s.cc with recs := s.cc.recs.map (fun (r : Nat × FwRec) => (r.1, { r.2 with since := r.2.since.map (fun _ => s.ft) })) } }
    if s.conf.firmware.isNone then { s with cc := { s.cc with run := 2 } } else ccReload s
  else s
def execFirmwareReloaded (s : State) := run .firmwareReloaded s (firmwareReloaded s)

/-! ### Where the first image comes from (R149, R155) -/

/-- The loader starts when a reset is over: flash or waiting after a cold one, IDLE or HOLD after a warm one (R550). The
strap sets IMG_CTL.SRC (R578). `fail` says that the causes of the reset include IMAGE_FAIL. (DEDUCED, log 21) -/
def loaderStart (cold fail : Bool) (s : State) : State :=
  let s := wrf rImgCtl 4 3 (min s.straps.boot 2 - if s.straps.boot = 3 then 1 else 0) s
  if s.rst.safeHold ∨ fail then setLoader 8 s
  else if !cold then s
  else match s.straps.boot with
    | 0 => beginFetch 0 true s
    | k => setLoader 8 (modImg (fun i => { i with fromRoot := k == 2 }) s)

end Sys2Proof.Machine
end

