-- ==== Sys2Proof/Machine/Registers.lean ====
section
/-! DEFINITION. What each register reads as (the register index of chapter 16), and what a register write does (R7, R11,
R12, R620 to R626). A word that `State.regs` holds reads as stored; the others are computed here. -/
namespace Sys2Proof.Machine

/-- Word `i` of a little-endian byte string. -/
def wordAt (b : Bytes) (i : Nat) : Nat := u32 b (4 * i)

/-- GLB and RST (chapter 14). -/
def viewReset (s : State) (o : Nat) : Nat :=
  match o with
  | 0x00004 => s.stepping % 256 + at_ 8 (b2n s.partX)
  | 0x00008 => s.serial.toNat % 2 ^ 32
  | 0x0000C => s.serial.toNat / 2 ^ 32
  | 0x00010 => (crc32c (leBytes 8 s.serial.toNat)).toNat
  | 0x00014 =>
    let t := s.straps
    b2n t.root + at_ 1 (b2n t.linkmode) + at_ 2 (t.boot % 4) + at_ 4 (b2n t.sched) + at_ 5 (t.tick % 4) + at_ 7 (b2n t.hosten)
      + at_ 8 (t.smb % 4) + at_ 16 (t.cid % 256)
  | 0x00028 => (List.range 8).foldl (fun n g => n + at_ g (b2n (bit (if bit (rd s 0x20) g then rd s 0x24 else s.gpio.toNat) g))) 0
  | 0x10008 => b2n s.rst.safeHold + at_ 1 (s.rst.phase % 16) + at_ 5 (b2n s.rst.nvUntil.isSome) + at_ 6 (b2n s.rst.farewell.isSome)
  | 0x10018 => rd s o + at_ 2 (b2n (blockBusy s))
  | _ => rd s o

/-- PWR and CLK (chapter 03). PWR_STATE shows the target of a transition, and of a move through ON the final one (R119,
R127). PWR_TRANS shows a transition of R115; no rule says whether a reload counts, and here it does not.
(DESIGN CHOICE, log 85) -/
def viewPower (s : State) (o : Nat) : Nat :=
  match o with
  | 0x20000 => ((List.range 12).map (fun d => at_ (2 * d) ((dom s d).via.getD (dom s d).st).num)).sum
  | 0x20004 => ((List.range 12).map (fun d => at_ d (b2n (dom s d).done.isSome))).sum
  | 0x20020 => rd s o % 2 ^ 16 + at_ 16 (if s.partX then 105 else 95)
  | 0x30004 =>
    let c := s.clk
    c.source % 8 + at_ 3 (b2n c.locked) + at_ 4 (b2n c.ftValid) + at_ 5 (b2n c.skewErr) + at_ 6 (b2n c.tickMismatch)
      + at_ 7 (c.rank % 32) + at_ 12 (c.port % 8) + at_ 15 (b2n c.slewing)
  | 0x30008 => s.ft % 2 ^ 32
  | 0x3000C => s.clk.hiLatch.toNat
  | 0x30010 => s.straps.tick % 4 + at_ 8 (tickLen s)
  | 0x30014 => toTwos 4 s.clk.resid
  | 0x3001C =>
    let t := if s.clk.source = 4 then min 65535 ((s.ft - s.clk.holdStart.getD s.ft) / 1600) else 0
    t + at_ 16 (min 65535 s.clk.holdEntries)
  | 0x30020 => s.clk.uplat % 65536
  | _ => rd s o

/-- SECM of a channel (chapter 15). -/
def viewSecm (s : State) (c o : Nat) : Nat :=
  let m := s.secm
  let x := sess s c
  let r := o % 0x10000
  if r = 0 then m.st % 8 + at_ 4 (b2n (approved s)) + at_ 5 (b2n m.debugOpen) + at_ 8 (m.lc % 16) + at_ 12 (x.role % 4)
  else if r = 8 then x.status % 256 + at_ 31 (b2n x.busy)
  else if r = 0xC then slotWord s
  else if 0x10 ≤ r ∧ r < 0x24 then look m.ctr ((r - 0x10) / 4) 0
  else if 0x30 ≤ r ∧ r < 0x44 then look m.ctrUse ((r - 0x30) / 4) 0
  else if r = 0x44 then m.tamperCause % 256 + at_ 8 (min 65535 m.tamperCount)
  else if 0x100 ≤ r ∧ r < 0x200 then wordAt (secmArg s c) ((r - 0x100) / 4)
  else if 0x200 ≤ r ∧ r < 0x500 then wordAt x.rsp ((r - 0x200) / 4)
  else rd s o

/-- The 32 bytes of a log entry (R542). -/
def logBytes (e : LogEntry) : Bytes :=
  leBytes 8 e.ft ++ leBytes 2 e.code ++ [BitVec.ofNat 8 e.sev, BitVec.ofNat 8 e.stall] ++ leBytes 4 e.seq
    ++ ((List.range 4).map (fun i => leBytes 4 (e.args.getD i 0))).flatten

/-- LOG, IMG and MGT (chapters 04, 12, 13). -/
def viewLog (s : State) (o : Nat) : Nat :=
  let l := s.log
  if o = 0x50004 then b2n l.frozen + at_ 1 l.unread
  else if o = 0x50008 then l.head
  else if o = 0x5000C then l.tail
  else if o = 0x50010 then l.dropped
  else if o = 0x50014 then l.seq
  else if 0x50040 ≤ o ∧ o < 0x50060 then
    wordAt (logBytes (look l.ring (rdf s 0x50020 10 0) ⟨0, 0, 0, 0, 0, []⟩)) ((o - 0x50040) / 4)
  else if o = 0x60004 then
    let h := s.img.hdr
    s.img.st % 16 + at_ 4 (h.kind % 8) + (if bit (rd s o) 7 then 128 else 0) + at_ 8 (if h.kind = 0 then 0 else h.stall % 256)
  else if o = 0x70000 then 0x38 + s.straps.smb % 4
  else rd s o

/-- FAB (chapter 02). -/
def viewFab (s : State) (o : Nat) : Nat :=
  let f := s.fab
  let r := o - 0x80000
  if r = 0 then f.chip % 256 + at_ 8 (b2n s.straps.root) + at_ 9 (b2n f.valid)
  else if r = 8 then b2n f.discBusy + at_ 1 (b2n f.discDone) + (if bit (rd s o) 2 then 4 else 0)
    + at_ 3 ((if isRoot s then f.chips.length else f.market) % 512)
  else if r = 0x10 then f.cur % 65536 + at_ 16 (f.stagedNum % 65536)
  else if r = 0x18 then f.epochAt % 2 ^ 32
  else if r = 0x1C then f.epochAt / 2 ^ 32 % 2 ^ 32
  else if r = 0x20 then f.farqHead
  else if r = 0x24 then (f.farqHead + f.farq.length) % 256 + at_ 8 (b2n (256 ≤ f.farq.length))
  else if 0x100 ≤ r ∧ r < 0x300 then
    let l := link s ((r - 0x100) / 0x40)
    match r % 0x40 with
    | 4 => l.st % 16 + (if bit (rd s o) 4 then 16 else 0) + at_ 5 (b2n l.mismatch) + at_ 6 (min 3 l.attempts) + at_ 8 (b2n (l.benched && l.st == 6))
    | 8 => min 1023 l.hoplat
    | _ => rd s o
  else if 0x1000 ≤ r ∧ r < 0x1400 then (look f.active ((r - 0x1000) / 4) 0).toNat
  else if 0x1400 ≤ r ∧ r < 0x1800 then (look f.stagedTab ((r - 0x1400) / 4) 0).toNat
  else rd s o

/-- SPG and EGR (chapter 12). -/
def viewPorts (s : State) (o : Nat) : Nat :=
  if o = 0x90004 then s.spg.buf.length
  else if 0x90100 ≤ o ∧ o < 0x90120 then
    let j := (o - 0x90100) / 4
    ((List.range 32).map (fun b => at_ b (b2n (rule s (32 * j + b)).enabled))).sum
  else if o = 0xA0200 ∨ o = 0xA0300 then rd s o - at_ 1 (rdf s o 2 1) + at_ 1 (fecOf s ((o - 0xA0200) / 0x100))
  else if o = 0xA0204 ∨ o = 0xA0304 then b2n (look s.spg.ports ((o - 0xA0204) / 0x100) {}).link
  else if 0xA1000 ≤ o ∧ o < 0xA1400 then
    let l := lease s ((o - 0xA1000) / 16)
    match o % 16 with | 0 => l.next.toNat | 4 => l.left % 2 ^ 32 | _ => 0
  else rd s o

/-- CC and CORE (chapters 08, 09, 13). -/
def viewCores (s : State) (o : Nat) : Nat :=
  let fence (lo n : Nat) : Nat := ((List.range n).map (fun i => at_ i (b2n (core s (lo + i)).fenced))).sum
  if o = 0xC0000 then s.cc.run % 4 + ((List.range 4).map (fun t => at_ (4 + t) (b2n ((thread s t).st == 1)))).sum
  else if 0xC0020 ≤ o ∧ o < 0xC0030 then
    let t := thread s ((o - 0xC0020) / 4)
    t.st % 4 + (if bit (rd s o) 4 then 16 else 0) + at_ 5 ((t.modl.map (fun m => m.1 % 8)).getD 7) + at_ 8 (b2n t.modl.isSome)
  else if o = 0xC0030 then ((List.range 8).map (fun k => at_ (2 * k) ((modl s k).st % 4))).sum
  else if o = 0xC0304 then ((List.range 4).map (fun k => at_ (2 * k) (mbxState s k % 4))).sum + (if bit (rd s o) 8 then 256 else 0)
  else if o = 0xD0000 then fence 0 32
  else if o = 0xD0004 then fence 32 32
  else if o = 0xD0008 then fence 64 4
  else if o = 0xD0014 then
    ((List.range 64).filter (fun a => (physOf s a).isSome)).length + ((List.range 4).map (fun c => at_ (8 + c) (b2n (spareOf s c).isSome))).sum
  else if 0xD0100 ≤ o ∧ o < 0xD0200 then
    let a := (o - 0xD0100) / 4
    let own := ((List.range 32).find? (fun n => owns s n a)).getD 0
    (match physOf s a with
      | some p => p + at_ 7 1 + at_ 9 (b2n (core s p).item.isSome)
      | none => 0) + at_ 8 (b2n (inService s a)) + at_ 10 own
  else rd s o

/-- WKS/EVT and DLY (chapter 08). -/
def viewWork (s : State) (o : Nat) : Nat :=
  let parked := (s.wks.pool.filter (fun p => p.2.st == .parked)).length
  if o = 0xE0000 then poolUsed s + (if bit (rd s o) 13 then 8192 else 0)
  else if 0xE0020 ≤ o ∧ o < 0xE0030 then
    (s.wks.pool.filter (fun p => p.2.st == .ready && p.2.list == some ((o - 0xE0020) / 4))).length
  else if o = 0xE1200 then
    ((s.wks.waiters.map Prod.fst).dedup.map (fun t => at_ t 1)).sum + at_ 4 (min 4095 parked) + at_ 16 (min 64 s.wks.quiet)
      + rd s o / 2 ^ 30 * 2 ^ 30
  else if 0xF0000 ≤ o ∧ o < 0xF0010 then (dlyList s.wks.dly ((o - 0xF0000) / 4)).length
  else rd s o

/-- ADM, STP, SMP and PFX (chapters 06, 07, 10). A lane is in use while a step in flight samples with it. (DESIGN CHOICE, log 44) -/
def viewSeq (s : State) (o : Nat) : Nat :=
  let mask_ := mask s (rdf s 0x160004 9 0)
  if o = 0x140004 then min 63 s.admq.length + rd s o / 256 * 256
  else if o = 0x150004 then b2n (isFixed s) + at_ 1 (b2n s.fixed.degraded) + at_ 2 (s.fixed.plan % 16)
  else if o = 0x15000C then s.fixed.at_ % 2 ^ 32
  else if o = 0x150010 then s.fixed.at_ / 2 ^ 32 % 2 ^ 32
  else if 0x150100 ≤ o ∧ o < 0x150500 then
    let a := (o - 0x150100) / 16
    match o % 16 with
    | 0 => min 65535 (aisle s a).ivl
    | 4 => firstSlot s a s.ft % 2 ^ 32
    | _ => rd s o
  else if o = 0x160000 then
    let rows := ((s.steps.filter (fun t => t.issued && decide (t.phase < 2))).flatMap Step.rows).filter Row.samples
    ((rows.map (fun w => w.lane % 16)).dedup.map (fun l => at_ l 1)).sum
  else if o = 0x16000C then rd s o % 2 ^ 17 + at_ 17 (b2n mask_.page.isSome) + at_ 18 (if mask_.page.isSome then mask_.blocks else 0)
  else if o = 0x160010 then mask_.page.getD 0
  else if o = 0x170000 then (s.pfx.filter (fun n => n.2.valid)).length % 2 ^ 18 + (if bit (rd s o) 18 then 2 ^ 18 else 0)
  else rd s o

/-- NMC and PIM (chapter 11). PIM_RDY is low while a row operation holds a channel of the die. -/
def viewNear (s : State) (o : Nat) : Nat :=
  if o = 0x190000 then s.conf.nmc.hsMask.toNat + at_ 16 s.conf.nmc.frame
  else if o = 0x190004 then
    let rdy (d : Nat) : Bool := !rowBusy s d
    b2n (rdy 0) + at_ 1 (b2n (rdy 1)) + at_ 2 (b2n (hot s 0)) + at_ 3 (b2n (hot s 1)) + at_ 8 (toTwos 8 s.nmc.temp0)
      + at_ 16 (toTwos 8 s.nmc.temp1)
  else if 0x190100 ≤ o ∧ o < 0x190140 then
    let run := look s.nmc.busyAt ((o - 0x190100) / 4) 0
    (rd s o + (if run = 0 then 0 else s.ft + 1 - run)) % 2 ^ 32
  else if o = 0x1A0028 then
    (s.nmc.q.filter (fun r => !r.running)).length + at_ 7 (b2n (s.nmc.q.any PimRun.running)) + (if bit (rd s o) 8 then 256 else 0)
      + at_ 16 (rdf s o 19 16)
  else rd s o

/-- A stall's window (chapters 05, 06, 09, 10). That of a stall not ENABLED decodes STALL_ID alone (R626). (DESIGN CHOICE, log 30) -/
def viewStall (s : State) (n r : Nat) : Nat :=
  let c := stallCfg s n
  let ents (p : Entry → Bool) : Nat := (s.rtb.filter (fun e => e.1 < 4096 && e.2.stall == n && p e.2)).length
  if r = 0 then n + at_ 5 (s.fab.chip % 256) + at_ 13 (c.mode % 4) + at_ 15 (c.aisle % 128) + at_ 22 (b2n (c.enabled && c.position == 0))
  else if !c.enabled then 0
  else if r = 4 then min 8191 (liveEntries s n) + at_ 13 (pagesHeld s n / 2)
  else if r = 0x128 then
    let g := ring s (rdf s (win n 0x124) 12 0)
    if g.stall = n ∧ g.st ≠ 0 then
      g.st + at_ 2 (g.tail % 4096) + at_ 14 (ringFree g) + at_ 27 (min 7 ((g.req.map (fun q => (side s q).heldRecs.length)).getD 0))
    else 0
  else if r = 0x20C then ents (fun e => e.st == .paused) + at_ 13 (ents (fun e => e.orphan && e.st != .free))
  else if r = 0x404 then cachePages s n (fun _ => true) + at_ 14 (cachePages s n (adapterHeld s n))
  else if 0x1000 ≤ r ∧ r < 0x2000 then
    let i := (r - 0x1000) / 4
    let x := chan s (c.chBase + i)
    if i < c.chCount ∧ x.st ≠ 0 then x.st + at_ 2 (x.sqHead % 4096) + at_ 14 (cqFree x) else 0
  else rd s (win n r)

/-- Word of a request entry (R230, R231): a firmware-tracked request has none. -/
def viewEntry (s : State) (o : Nat) : Nat :=
  let r := (o - 0x100000) / 64
  let e := ent s r
  wordAt (entryBytes e r ((look s.listBlocks r []).headD 0) (side s r).pend.isSome) (o % 64 / 4)

/-- Bits of a register that a read shows: all but its WO fields (R8, R11). -/
def readMask (o : Nat) : Nat := match regAt o with | some r => (r.maskOf (fun f => f.acc != .wo)).toNat | none => 0

/-- What the word at a BAR0 offset reads as to a source, latches apart. -/
def view (s : State) (src : Src) (o : Nat) : Nat :=
  let b := o / 0x10000
  if 0x10 ≤ b ∧ b < 0x14 then viewEntry s o
  else if 0x20 ≤ b ∧ b < 0x28 then wordAt (tillBytes (till s ((o - 0x200000) / 128))) (o % 128 / 4)
  else
    let v :=
      if b ≤ 1 then viewReset s o
      else if b ≤ 3 then viewPower s o
      else if b = 4 then viewSecm s (if src = .cc then 1 else 0) o
      else if b ≤ 7 then viewLog s o
      else if b = 8 then viewFab s o
      else if b ≤ 0xA then viewPorts s o
      else if b = 0xC ∨ b = 0xD then viewCores s o
      else if b = 0xE ∨ b = 0xF then viewWork s o
      else if 0x14 ≤ b ∧ b ≤ 0x17 then viewSeq s o
      else if b = 0x19 ∨ b = 0x1A then viewNear s o
      else if 0x40 ≤ b ∧ b < 0x60 then viewStall s (b - 0x40) (o % 0x10000)
      else rd s o
    Nat.land v (readMask o)

/-! ### Latches (R226, R624, chapter 06) -/

/-- The low words whose read latches the high word: the RO pairs of the index, and the 8-byte till fields. -/
def latching (o : Nat) : Bool :=
  o == 0x80018 || o == 0x15000C || o == 0x190010 || (0x20 ≤ o / 0x10000 && o / 0x10000 < 0x28 && (o % 128 == 0 || o % 128 == 80))

/-- Read a register: its value, and what the read changes. (DEDUCED, log 8) -/
def readReg (src : Src) (o : Nat) (s : State) : Nat × State :=
  let v := view s src o
  if o = 0x30008 then (v, { s with clk := { s.clk with hiLatch := w32 (s.ft / 2 ^ 32) } })
  else if latching o then (v, { s with pairLatch := ins s.pairLatch (o + 4) (w32 (view s src (o + 4))) })
  else if 0x10 ≤ o / 0x10000 ∧ o / 0x10000 < 0x14 then
    if o % 64 = 0 then
      (v, { s with rtbLatch := (List.range 15).map (fun i => (o + 4 * (i + 1), w32 (view s src (o + 4 * (i + 1))))) })
    else match s.rtbLatch.find? (fun p => p.1 == o) with
      | some p => (p.2.toNat, s)
      | none => (v, s)
  else match s.pairLatch.find? (fun p => p.1 == o) with
    | some p => (p.2.toNat, { s with pairLatch := del s.pairLatch o })
    | none => (v, s)

/-! ### Writes -/

/-- The bits of a register that the device has set in this fast cycle. -/
def setNowMask (s : State) (o : Nat) : Word :=
  if s.setNow.1 = s.ft then w32 (maskOf ((s.setNow.2.filter (fun b => b.1 == o)).map Prod.snd)) else 0

/-- The bits of a register that a write sets: RW, and RWL while the lifecycle state is BLANK or PROVISIONED. -/
def rwMask (s : State) (r : RegSpec) : Word :=
  r.maskOf (fun f => f.acc == .rw || (f.acc == .rwl && (s.secm.lc == 1 || s.secm.lc == 3)))

/-- A write by the access codes of R11: RW bits take the value, W1C bits written one clear unless the device has set them
in the same fast cycle, and RWL bits take it while the lifecycle state is BLANK or PROVISIONED. -/
def plainWrite (o : Nat) (v : Word) (s : State) : State :=
  match regAt o with
  | none => s
  | some r =>
    let rw := rwMask s r
    let w1c := r.maskOf (fun f => f.acc == .w1c)
    wr o (((w32 (rd s o) &&& ~~~rw) ||| (v &&& rw)) &&& ~~~(v &&& w1c &&& ~~~setNowMask s o)).toNat s

/-- Does a source's write reach a register? The control core writes no IMG register, RST_BLOCK or RST_FAB (R151, R569,
R571); a VF writes no ADM_PBLOCK; nobody writes the window of a stall that is not ENABLED (R626). -/
def mayWrite (s : State) (src : Src) (o : Nat) : Bool :=
  let b := o / 0x10000
  let cc := src == .cc
  let vf := match src with | .vf _ => true | _ => false
  !(cc && (b == 6 || o == 0x10014 || o == 0x10020))
    && !(vf && 0x300 ≤ o % 0x10000 && o % 0x10000 < 0x380)
    && !(0x40 ≤ b && b < 0x60 && !(stallCfg s (b - 0x40)).enabled)

/-- The BAR0 offset in the PF's map (R221, R626). -/
def pfOffset (src : Src) (o : Nat) : Nat := match src with | .vf n => win n o | _ => o

end Sys2Proof.Machine
end

