-- ==== Sys2Proof/Machine/Faults.lean ====
section
/-! DEFINITION. What the host writes to HALT_OUT's registers and to the trouble log (R538, R539, R544, R545). -/
namespace Sys2Proof.Machine

/-- A chip of one of this chip's aisles is lost. -/
def aisleLost (s : State) : Bool :=
  s.conf.aisles.any (fun a => a.2.any (fun m => m.1 == s.fab.chip) && a.2.any (fun m => s.fab.lost.contains m.1))

/-- The conditions of R538 that are in force, as their bits. -/
def haltInForce (s : State) : Nat :=
  at_ 2 (b2n (heldFor s (us (rdf s rHaltEn 23 8)))) + at_ 3 (b2n (rdf s rTherm 1 0 == 3)) + at_ 4 (b2n (aisleLost s))
    + at_ 5 (b2n s.fixed.degraded) + at_ 7 (b2n s.log.frozen)

/-- Assert HALT_OUT for a set of conditions at once, with one 0x1702. -/
def haltAssert (m : Nat) (s : State) : State :=
  let r := log1 0x1702 0xFF [m] (emit (.halt true) (wr rHaltStat (rd s rHaltStat ||| (m ||| 256)) s))
  freezeCheck 0x1702 r.2 r.1

/-- HALT_EN: bits 0, 1 and 6 stay 1; a condition in force whose bit the write sets arises now. (DESIGN CHOICE, log 12) -/
def haltEnWrite (v : Word) (s : State) : State :=
  let old := rd s rHaltEn
  let t := wr rHaltEn (v.toNat % 2 ^ 24 ||| 0x43) s
  let m := (rd t rHaltEn % 256 - (rd t rHaltEn &&& old) % 256) &&& haltInForce t
  if m = 0 then t else haltAssert m t
def execHaltEnWrite (value : Word) (s : State) := run (.haltEnWrite value) s (haltEnWrite value s)

/-- HALT_CTL.CLEAR: honoured in DONE with no enabled condition in force, else REFUSED. -/
def haltCtlClear (s : State) : State :=
  if haltInForce s &&& rd s rHaltEn % 256 ≠ 0 ∨ s.img.st ≠ 6 then setBit rHaltCtl 2 s
  else emit (.halt false) (wrf rHaltStat 8 0 0 s)
def execHaltCtlClear (s : State) := run .haltCtlClear s (haltCtlClear s)

/-- HALT_CTL.FORCE: condition 6. -/
def execHaltCtlForce (s : State) := run .haltCtlForce s (haltRaise 6 s)

/-- LOG_HEAD: entries up to the new head are consumed; a write that would consume more than are unread is ignored. -/
def logHeadWrite (v : Word) (s : State) : State :=
  let h := v.toNat % 2048
  let k := (h + 2048 - s.log.head) % 2048
  if s.log.unread < k then s else { s with log := { s.log with head := h, unread := s.log.unread - k } }
def execLogHeadWrite (value : Word) (s : State) := run (.logHeadWrite value) s (logHeadWrite value s)

/-- LOG_CTL.UNFREEZE. -/
def logUnfreeze (s : State) : State :=
  if s.log.frozen then logC 0x1502 [] { s with log := { s.log with frozen := false } } else s
def execLogUnfreeze (s : State) := run .logUnfreeze s (logUnfreeze s)

end Sys2Proof.Machine
end

