-- ==== Sys2Proof/Machine/Reset.lean ====
section
/-! DEFINITION. Reset sources, pins, straps, the release sequence and block resets (R548, R553 to R582). What a reset
reaches is in ResetOps.lean, the farewell and the stall reset in Quiesce.lean. -/
namespace Sys2Proof.Machine

/-! ### Sources (R548, R560, R566, R568, R569) -/

/-- Power comes on, or VDD_AON falls: POR. -/
def execPor (s : State) := run .por s (takeReset 0 s)
/-- COLD_RST_N has been low for 20 AON cycles; it holds the reset until it rises. -/
def execPinCold (s : State) := run .pinCold s (takeReset 1 (modRst (fun r => { r with pinHeld := true }) s))
/-- WARM_RST_N likewise. -/
def execPinWarm (s : State) := run .pinWarm s (takeReset 2 (modRst (fun r => { r with warmHeld := true }) s))
/-- RST_CTL.SW_COLD. -/
def execSwCold (s : State) := run .swCold s (takeReset 5 s)
/-- RST_CTL.SW_WARM. -/
def execSwWarm (s : State) := run .swWarm s (takeReset 6 s)

/-- A reset pin rises: a release that waited for it begins. -/
def pinRise (warm : Bool) (s : State) : State :=
  let s := modRst (fun r => if warm then { r with warmHeld := false } else { r with pinHeld := false }) s
  if s.rst.waiting then beginRelease s else s
def execResetPinRise (warm : Bool) (s : State) := run (.resetPinRise warm) s (pinRise warm s)

/-- PERST# asserts: a reset where STRAP_HOSTEN is 1. -/
def perstAssert (s : State) : State :=
  let s := modRst (fun r => { r with perst := true }) s
  if s.straps.hosten then takeReset 3 s else s
def execPciePerst (s : State) := run .pciePerst s (perstAssert s)

/-- PERST# rises: a release sequence that waits for it powers HST (R558). -/
def perstDeassert (s : State) : State :=
  let s := modRst (fun r => { r with perst := false }) s
  let x := dom s dHST
  if s.rst.phase = 7 ∧ x.st = .off ∧ x.done.isNone then powerUp [dHST] (max s.ft s.rst.readyAt) s else s
def execPerstDeassert (s : State) := run .perstDeassert s (perstDeassert s)

/-- RST_WDT. -/
abbrev rWdt : Nat := 0x0001001C
/-- A write of RST_WDT stores PERIOD and starts the count again; a PERIOD of 0 stops it. (DESIGN CHOICE, log 22) -/
def wdtKick (v : Word) (s : State) : State :=
  let p := bits v.toNat 15 0
  modRst (fun r => { r with wdtAt := if p = 0 then none else some s.ft }) (wrf rWdt 15 0 p s)
def execWdtKick (value : Word) (s : State) := run (.wdtKick value) s (wdtKick value s)
/-- The count reaches PERIOD. (DEDUCED, log 77) -/
def wdtExpire (s : State) : State :=
  match s.rst.wdtAt with
  | some t => if t + us (rdf s rWdt 15 0) ≤ s.ft then takeReset 4 (modRst (fun r => { r with wdtAt := none }) s) else s
  | none => s
def execWdtExpire (s : State) := run .wdtExpire s (wdtExpire s)

/-- RST_FAB: the root sends RESET along the discovery path, or takes it itself; another chip sets ERR. (DEDUCED, log 23) -/
def rstFab (v : Word) (s : State) : State :=
  let n := v.toNat
  let s := wrf 0x00010020 7 0 (n % 256) s
  let s := when_ (bit n 30) (clrBit 0x00010020 30) s
  if !bit n 31 then s
  else if !isRoot s then setBit 0x00010020 30 s
  else match chipRec s (n % 256) with
    | some c =>
      if c.serial = s.serial then takeReset 7 s
      else ctlToChip 0x41 c ([BitVec.ofNat 8 n] ++ zeros 7 ++ leBytes 8 c.serial.toNat) s
    | none => s
def execRstFabGo (value : Word) (s : State) := run (.rstFabGo value) s (rstFab value s)
/-- The RESET message at its target. -/
def resetMsg (msg : Bytes) (s : State) : State :=
  let b := (ctlOf msg).body
  if u8 b 0 = s.fab.chip ∧ u64 b 8 = s.serial.toNat then takeReset 7 s else s
def execReset (msg : Bytes) (s : State) := run (.reset msg) s (resetMsg msg s)

/-- RST_CTL.SAFE_CLR, from the PF alone: SAFE_HOLD ends and the loader goes on. -/
def safeClr (src : Src) (s : State) : State :=
  if src ≠ .pf ∨ !s.rst.safeHold then s
  else
    let s := modRst (fun r => { r with safeHold := false }) s
    if inReset s then s else loaderStart true (bit (rd s rCause) 11) s
def execSafeClr (src : Src) (s : State) := run (.safeClr src) s (safeClr src s)

/-! ### The farewell and held resets (R553, R554, R563) -/

/-- A warm reset with a farewell is taken: CHIP_LOST first, then every command completes LOST_RESET. -/
def warmTake (s : State) : State :=
  if !s.rst.warmTaken then s
  else
    let s := farewellOf (fun _ => true) (announceReset s.rst.causes.toNat s)
    modRst (fun r => { r with warmTaken := false, farewell := some (s.ft + qtoFt s) }) s
def execWarmResetTaken (s : State) := run .warmResetTaken s (warmTake s)

/-- The farewell ends with its last completion, or at RST_QTO. -/
def farewellEnd (s : State) : State :=
  match s.rst.farewell with
  | none => s
  | some t =>
    if farewellDone (fun _ => true) s then applyReset s.rst.causes.toNat false s
    else if t ≤ s.ft then applyReset s.rst.causes.toNat false (logC 0x0102 [unposted s] s)
    else s
def execFarewellEnd (s : State) := run .farewellEnd s (farewellEnd s)

/-- A write pulse ends: the resets it held are taken as one. That of a tamper event waits further for the erase. -/
def nvPulseEnd (s : State) : State :=
  match s.rst.nvUntil with
  | none => s
  | some t =>
    if s.ft < t then s
    else
      let w : BitVec 13 := if s.secm.tamperWait.isSome then s.rst.nvHeld &&& 0x400#13 else 0
      let b := (s.rst.nvHeld &&& ~~~w).toNat
      let s := modRst (fun r => { r with nvUntil := none, nvHeld := w }) s
      if b = 0 then s else takeHeld b s
def execNvPulseEnd (s : State) := run .nvPulseEnd s (nvPulseEnd s)

/-! ### The release sequence (R557 to R559, R577, R578) -/

/-- The straps are sampled 16 AON cycles after a cold release, and set their defaults. The root runs from REFCLK. -/
def strapSample (t : Straps) (s : State) : State :=
  if s.rst.phase ≠ 1 ∨ !s.rst.cold ∨ s.rst.sampled ∨ s.ft < 128 then s
  else
    let s := modRst (fun r => { r with sampled := true, rootPin := t.root }) { s with straps := t }
    let s := forEach (List.range 8) (fun p => wrf (rLink p 0) 1 1 (b2n t.linkmode)) s
    let s := wrf rImgCtl 4 3 (min t.boot 2 - if t.boot = 3 then 1 else 0) s
    if !t.root then s
    else
      let s := clkChange (fun c => { c with source := 1, locked := true, rank := 0, ftValid := true }) s
      if s.clk.refclk then s else enterHoldover s
def execStrapSample (straps : Straps) (s : State) := run (.strapSample straps) s (strapSample straps s)

/-- The SECM passes its tests of a cold release; what an interrupted erase or retirement left is done first (R591, R612,
R616). -/
def secmPass (s : State) : State :=
  let m := s.secm
  let m := if m.erasePending then { m with wrap := [], user := [], erasePending := false } else m
  let m := if m.lc = 0xF then { m with hukGone := true } else m
  logC 0x1401 [] { s with secm := { m with st := 1, tested := true, drbg := true, ksk := !m.hukGone, requests := 0, reseedAt := s.ft } }

/-- The block after `p` in this release: a warm one leaves NMC out, and HST stays OFF without STRAP_HOSTEN. -/
def nextPhase (s : State) (p : Nat) : Nat :=
  if p = 1 ∧ !s.rst.cold then 3 else if p = 6 ∧ !s.straps.hosten then 8 else p + 1

/-- The block in progress is ready: the next is powered RST_GAP later. HST also waits for PERST#. (DEDUCED, log 20) -/
def blockReady (s : State) : State :=
  let p := s.rst.phase
  if p = 0 ∨ 9 ≤ p ∨ s.ft < s.rst.readyAt ∨ !s.rst.sampled ∨ s.secm.st = 2 ∨ !(blockDoms p).all (isOn s) then s
  else
    let s := if p = 1 ∧ s.rst.cold then secmPass s else s
    let q := nextPhase s p
    let t := s.ft + gapFt s
    let s := modRst (fun r => { r with phase := q, readyAt := t }) s
    if q = 7 ∧ s.rst.perst then s else powerUp (blockDoms q) t s
def execBlockReady (s : State) := run .blockReady s (blockReady s)

/-- The chip is released: the log tells of the reset, a warm one gives the lake's conversations and the configuration
back (R158, R267, R552), and the loader starts. -/
def releaseComplete (s : State) : State :=
  let r := s.rst
  if r.phase ≠ 9 ∨ s.ft < r.readyAt ∨ !isOn s dCCR then s
  else
    let b := r.causes.toNat
    let s := modRst (fun r => { r with phase := 0, causes := 0, cold := false, nvLog := 0 }) s
    let s := logC 0x0101 [b] s
    let s := when_ (r.nvLog != 0) (logC 0x0103 [r.nvLog.toNat]) s
    let s := when_ s.secm.tamperLog (fun s => modSecm (fun m => { m with tamperLog := false }) (logC 0x1410 [s.secm.tamperCause] s)) s
    if r.cold then loaderStart true (bit b 11) s
    else
      let s := restoreRecs (fun _ => true) (bit b 8) 0xFF (restoreGens (pausedRecs (fun _ => true) s) s)
      loaderStart false (bit b 11) (rebuild s)
def execReleaseComplete (s : State) := run .releaseComplete s (releaseComplete s)

/-! ### Block resets (R510, R571, R572) -/

/-- RST_BLOCK with a stall target. -/
def rstBlockStall (n : Nat) (s : State) : State := if blockBusy s then blockStat 1 s else stallBegin n (blockStat 0 s)
def execRstBlockStall (stall : Nat) (s : State) := run (.rstBlockStall stall) s (rstBlockStall stall s)

/-- A Function Level Reset of VF n + 1 takes the stall reset of stall n, after a block reset in progress. -/
def vfFlr (n : Nat) (s : State) : State :=
  match s.rst.block with
  | some (_, t) => await (dAt (max t (s.ft + 1))) (.vfFlr n) s
  | none => if blockBusy s then await (s.rst.blockDom.getD dAON) (.vfFlr n) s else stallBegin n s
def execVfFlr (vf : Nat) (s : State) := run (.vfFlr vf) s (vfFlr vf s)
/-- A Function Level Reset of the PF is SW_WARM. -/
def execPfFlr (s : State) := run .pfFlr s (takeReset 6 s)

/-- The last instant at which a frame is on a wire. -/
def wireEnd (s : State) : Nat := (s.spg.ports.map (fun p => p.2.busyUntil)).foldl max 0

/-- Patching stops, and template frames are discarded and counted as deadline suppressions. -/
def dropFrames (s : State) : State :=
  let s := forEach s.spg.jobs (fun j s => settleFrame j.req j.gen j.acc (portCount j.tmpl.port 6 s)) s
  let s := forEach s.spg.ports (fun p s => forEach p.2.q (fun f s => settleFrame f.req f.gen f.acc (portCount p.1 6 s)) s) s
  modSpg (fun g => { g with jobs := [], ports := g.ports.map (fun p => (p.1, { p.2 with q := [] })) }) s

/-- The wires are idle, or waited for long enough: EGR is cycled, and leases take LEFT 0. -/
def egrCycle (s : State) : State :=
  let s := { s with heldAcc := s.heldAcc.filter (fun p => p.2 != .rstBlockEgr) }
  cycleDom dEGR (modSpg (fun g => { g with load := none, leases := g.leases.map (fun l => (l.1, { l.2 with left := 0 })) }) s)

/-- RST_BLOCK with target EGR. While a frame is on a wire the command waits for its end. (DEDUCED, log 19) -/
def rstBlockEgr (s : State) : State :=
  match s.rst.block with
  | some (32, _) => if wireEnd s ≤ s.ft then egrCycle s else blockStat 1 s
  | _ =>
    if blockBusy s then blockStat 1 s
    else
      let s := dropFrames (blockStat 0 (modRst (fun r => { r with block := some (32, s.ft + qtoFt s) }) s))
      if wireEnd s ≤ s.ft then egrCycle s else await (dAt (wireEnd s)) .rstBlockEgr s
def execRstBlockEgr (s : State) := run .rstBlockEgr s (rstBlockEgr s)

/-- RST_BLOCK with target CCR: threads stop where they are; one in a bulk instruction ends its unit first. -/
def rstBlockCcr (s : State) : State :=
  if blockBusy s then blockStat 1 s
  else
    let s := blockStat 0 (modRst (fun r => { r with block := some (33, s.ft + qtoFt s) }) s)
    let inUnit (t : Nat) : Bool := (thread s t).st == 0 && (thread s t).bulk.isSome
    let s := forEach ((List.range 4).filter (fun t => !inUnit t && (thread s t).st != 3)) (fun t => modThread t (fun x => { x with st := 2 })) s
    let s := modWks (fun w => { w with waiters := [] }) s
    if (List.range 4).any inUnit then s else cycleDom dCCR s
def execRstBlockCcr (s : State) := run .rstBlockCcr s (rstBlockCcr s)

/-- The target has not quiesced within RST_QTO: its reset is forced. -/
def quiesceTimeout (s : State) : State :=
  match s.rst.block with
  | none => s
  | some (n, t) =>
    if s.ft < t then s
    else
      let s := setBit 0x00010018 3 (logC 0x0102 [n] s)
      if n < 32 then stallApply n s else if n = 32 then egrCycle s else cycleDom dCCR s
def execQuiesceTimeout (s : State) := run .quiesceTimeout s (quiesceTimeout s)

end Sys2Proof.Machine
end

