-- ==== Sys2Proof/Machine/HostLink.lean ====
section
/-! DEFINITION. The PCI Express link, the SMBus target and the boundary-scan port (R505, R509, R511, R512, R648). -/
namespace Sys2Proof.Machine

/-- HLK_LINK. -/
abbrev rHlkLink : Nat := 0x000B0000

/-- The link trains to another width or rate. -/
def linkChange (width rate : Nat) (s : State) : State :=
  if width % 16 = rdf s rHlkLink 3 0 ∧ rate % 8 = rdf s rHlkLink 6 4 then s
  else logC 0x0701 [] (wrf rHlkLink 6 4 rate (wrf rHlkLink 3 0 width s))
def execPcieLinkChange (width rate : Nat) (s : State) := run (.pcieLinkChange width rate) s (linkChange width rate s)

/-- With no TLP for 64 µs the device enters L1, which the command says the host has enabled. (DEDUCED, log 24) -/
def l1Entry (s : State) : State :=
  if s.spg.l1 ∨ s.ft < s.spg.lastTlp + 102400 then s else emit (.pcie 1) (modSpg (fun g => { g with l1 := true }) s)
def execAspmL1Entry (s : State) := run .aspmL1Entry s (l1Entry s)
/-- The host places the PF in D3hot: L1 under PCI-PM. -/
def execPfD3hot (s : State) := run .pfD3hot s (emit (.pcie 1) (modSpg (fun g => { g with d3 := true, l1 := true }) s))
/-- An end has a TLP to send. -/
def l1Leave (s : State) : State :=
  if s.spg.l1 then emit (.pcie 0) (modSpg (fun g => { g with l1 := false, d3 := false, lastTlp := s.ft }) s) else s
def execL1Exit (s : State) := run .l1Exit s (l1Leave s)

/-- A device DMA read fails (R509): what it costs a queue is QUEUE_DMA_FAIL's. -/
def execDmaError (src : Src) (s : State) := run (.dmaError src) s (dmaFail src s)

/-! ### SMBus (R511) -/

/-- A command is served, or discarded for a PEC error; both are counted. -/
def smbServe (pecOk : Bool) (act : State → State) (s : State) : State :=
  if pecOk then act (bumpSat 0x00070004 s) else bumpSat 0x00070008 s

/-- Answer with block data. -/
def smbAnswer (pecOk : Bool) (data : State → Bytes) (s : State) : State :=
  smbServe pecOk (fun s => emit (.smb (data s)) s) s

/-- SERIAL. -/
def serialData (s : State) : Bytes := leBytes 8 s.serial.toNat ++ leBytes 4 (crc32c (leBytes 8 s.serial.toNat)).toNat
def execSmbSerial (pecOk : Bool) (s : State) := run (.smbSerial pecOk) s (smbAnswer pecOk serialData s)
/-- TEMP: the highest junction reading, then the dies'. (DESIGN CHOICE, log 27) -/
def tempData (s : State) : Bytes :=
  [BitVec.ofNat 8 (rdf s rTherm 15 8), BitVec.ofNat 8 (toTwos 8 s.nmc.temp0), BitVec.ofNat 8 (toTwos 8 s.nmc.temp1)]
def execSmbTemp (pecOk : Bool) (s : State) := run (.smbTemp pecOk) s (smbAnswer pecOk tempData s)
/-- RESET_CAUSE. -/
def causeData (s : State) : Bytes := leBytes 4 (rd s rCause)
def execSmbResetCause (pecOk : Bool) (s : State) := run (.smbResetCause pecOk) s (smbAnswer pecOk causeData s)

/-- The newest entry of severity 2 or more in the log. -/
def newestSerious (s : State) : Option LogEntry :=
  (s.log.ring.filter (fun e => decide (2 ≤ e.2.sev))).foldl (fun b e =>
    match b with
    | some x => if x.seq < e.2.seq then some e.2 else b
    | none => some e.2) none
/-- LOG_SUMMARY. -/
def summaryData (s : State) : Bytes :=
  leBytes 4 ((s.log.seq + (2 ^ 32 - 1)) % 2 ^ 32) ++ leBytes 4 s.log.dropped
    ++ (match newestSerious s with | some e => leBytes 2 e.code ++ [BitVec.ofNat 8 e.sev] | none => zeros 3)
def execSmbLogSummary (pecOk : Bool) (s : State) := run (.smbLogSummary pecOk) s (smbAnswer pecOk summaryData s)
/-- POWER. -/
def powerData (s : State) : Bytes := leBytes 4 (viewPower s 0x20000) ++ leBytes 4 (viewPower s rTherm) ++ leBytes 4 (rd s rDuty)
def execSmbPower (pecOk : Bool) (s : State) := run (.smbPower pecOk) s (smbAnswer pecOk powerData s)
/-- FT, with FT_VALID in bit 63. -/
def ftData (s : State) : Bytes := leBytes 8 (s.ft % 2 ^ 63 + b2n s.clk.ftValid * 2 ^ 63)
def execSmbFt (pecOk : Bool) (s : State) := run (.smbFt pecOk) s (smbAnswer pecOk ftData s)
/-- WAKE: wake source 4 for the masked domains. -/
def execSmbWake (mask : Nat) (pecOk : Bool) (s : State) :=
  run (.smbWake mask pecOk) s (smbServe pecOk (fun s => wakeAll 4 (setBits 12 mask) (logC 0x1701 [] s)) s)

/-! ### Boundary scan (R512) -/

/-- An instruction of the TAP takes force. (DEDUCED, log 26) -/
def tapInstr (i : Nat) (s : State) : State := modSpg (fun g => { g with jtag := i }) s
def execBypass (s : State) := run .bypass s (tapInstr 0 s)
/-- IDCODE: the device's code is read. -/
def tapIdcode (s : State) : State := emit (.tap 0x17A103C7) (modSpg (fun g => { g with jtagDr := 0x17A103C7 }) (tapInstr 1 s))
def execIdcode (s : State) := run .idcode s (tapIdcode s)
def execSamplePreload (s : State) := run .samplePreload s (tapInstr 2 s)
def execExtest (s : State) := run .extest s (tapInstr 3 s)
def execClamp (s : State) := run .clamp s (tapInstr 4 s)
def execHighz (s : State) := run .highz s (tapInstr 5 s)

end Sys2Proof.Machine
end

