-- ==== Sys2Proof/Machine/Access.lean ====
section
/-! DEFINITION. Accesses of the host and of the control core to registers and pond (R7, R11, R12, R620 to R629): where
they wait, what each register's write does, what is answered. -/
namespace Sys2Proof.Machine

/-! ### Writes with an effect of their own -/

/-- RST_CTL. (DEDUCED, log 11) -/
def rstCtl (src : Src) (n : Nat) (s : State) : State :=
  let s := when_ (bit n 2) (safeClr src) s
  let b := at_ 5 (b2n (bit n 0)) + at_ 6 (b2n (bit n 1))
  if b = 0 then s else takeResets b s

/-- RST_BLOCK (R571): without GO nothing happens. -/
def rstBlock (n : Nat) (s : State) : State :=
  let t := n % 64
  if !bit n 31 then s
  else if t < 32 then rstBlockStall t s
  else if t = 32 then rstBlockEgr s
  else if t = 33 then rstBlockCcr s
  else if blockBusy s then blockStat 1 s
  else blockStat 2 s

/-- LOG_CTL. -/
def logCtl (v : Word) (s : State) : State := when_ (bit v.toNat 8) logUnfreeze (plainWrite rLogCtl v s)

/-- HALT_CTL: a FORCE in the same write as a CLEAR wins. -/
def haltCtl (v : Word) (s : State) : State :=
  when_ (bit v.toNat 1) (haltRaise 6) (when_ (bit v.toNat 0) haltCtlClear (plainWrite rHaltCtl v s))

/-- IMG_CTL. -/
def imgCtl (v : Word) (s : State) : State :=
  let n := v.toNat
  let s := if bit n 0 then imgStart v s else wrf rImgCtl 5 3 (bits n 5 3) s
  let s := if (bit n 1 ∨ bit n 5) ∧ s.img.st = 2 then proceed s else s
  when_ (bit n 2) imgCtlAbort s

/-- FAB_DISC_CTL. -/
def discCtl (v : Word) (s : State) : State := when_ (bit v.toNat 0) fabDiscStart (plainWrite 0x00080004 v s)

/-- FAB_LINKn_CTL. -/
def linkCtl (p : Nat) (v : Word) (s : State) : State :=
  let s := linkEnWrite p v s
  if bit v.toNat 2 ∧ (link s p).st = 6 then leaveService p s else s

/-- SECM_CMD of a channel (R596, R597). -/
def secmOp (c n : Nat) (s : State) : State :=
  if !bit n 31 then s
  else match n % 256 with
    | 0x01 => secmStatus c s
    | 0x02 => selftest c none s
    | 0x03 => authChallenge c s
    | 0x04 => authResponse c s
    | 0x05 => logout c s
    | 0x06 => attest c s
    | 0x07 => random c s
    | 0x08 => provisionSlot c s
    | 0x09 => clearSlot c s
    | 0x0A => lcProvision c s
    | 0x0B => lcAdvance c s
    | 0x0C => ctrRaise c s
    | 0x0D => debugUnlock c s
    | 0x0E => zeroiseCmd c s
    | _ => if (sess s c).busy then modSess c (fun x => { x with status := 9 }) s else secmEnd c 1 s

/-- SECM: channel 1 is the control core's, with its own SECM_ARG (R592). -/
def secmWrite (src : Src) (r : Nat) (v : Word) (s : State) : State :=
  let c := if src = .cc then 1 else 0
  if r = 4 then secmOp c v.toNat s
  else if c = 1 ∧ 0x100 ≤ r ∧ r < 0x200 then
    modSess 1 (fun x => { x with arg := (fit 256 x.arg).take (r - 0x100) ++ leBytes 4 v.toNat ++ (fit 256 x.arg).drop (r - 0xFC) }) s
  else plainWrite (0x00040000 + r) v s

/-- EGR's command registers. -/
def egrWrite (r : Nat) (v : Word) (s : State) : State :=
  let n := v.toNat
  if r = 0x0C then (if !bit n 31 then s else match n % 4 with | 1 => egrLoad false s | 2 => egrLoad true s | _ => s)
  else if r = 0x118 then when_ (bit n 0) (fun s => ptpActivate (modSpg (fun g => { g with ptpNext := some (ptpStaged s) }) s)) s
  else if r = 0x254 ∨ r = 0x354 then modPort ((r - 0x254) / 0x100) (fun q => { q with rxTail := bits n 11 0 }) s
  else if r = 0x258 ∨ r = 0x358 then modPort ((r - 0x258) / 0x100) (fun q => { q with txTail := bits n 11 0 }) s
  else if 0x1000 ≤ r ∧ r < 0x1400 ∧ r % 16 = 8 then modLease ((r - 0x1000) / 16) (fun l => { l with start := v }) s
  else if 0x1000 ≤ r ∧ r < 0x1400 ∧ r % 16 = 12 then leaseGrant ((r - 0x1000) / 16) v s
  else plainWrite (0x000A0000 + r) v s

/-- The function that owns what a stall command creates: the control core acts for the PF. (DEDUCED, log 10) -/
def ownerOf : Src → Src
  | .cc => .pf
  | c => c

/-- A stall window's command registers (chapters 05, 06, 10). RTB_LEAD stays at or above what the loader set (R270). -/
def stallWrite (src : Src) (k r : Nat) (v : Word) (s : State) : State :=
  let n := v.toNat
  if r = 0x20 then (match n % 4 with
    | 1 => chCreate k (ownerOf src) s | 2 => chDestroy k (bits n 13 4) s | 3 => chModify k (bits n 13 4) s
    | _ => if chBusy s k then chCode k 4 s else s)
  else if r = 0x80 then sqDb k v s
  else if r = 0x84 then cqDb k v s
  else if r = 0x90 then tillSnap k v s
  else if r = 0x100 then (match n % 4 with | 1 => ringCreate k (ownerOf src) s | 2 => ringDestroy k (bits n 14 2) s | _ => s)
  else if r = 0x120 then ringDb k v s
  else if r = 0x200 then plainWrite (win k 0x200) (w32 (max (n % 4096) (look s.conf.leads k 0))) s
  else plainWrite (win k r) v s

/-- Write a register, at its offset in the PF's BAR0. -/
def writeReg (src : Src) (o : Nat) (v : Word) (s : State) : State :=
  let n := v.toNat
  let r := o % 0x10000
  match o / 0x10000 with
  | 0x01 => (match r with
    | 0x04 => rstCtl src n s | 0x14 => rstBlock n s | 0x1C => wdtKick v s | 0x20 => rstFab v s | _ => plainWrite o v s)
  | 0x02 => if r = 8 then pwrReq v s else plainWrite o v s
  | 0x03 => if r = 0 then rechoose (plainWrite o v s) else plainWrite o v s
  | 0x04 => secmWrite src r v s
  | 0x05 => if r = 0 then logCtl v s else if r = 8 then logHeadWrite v s else plainWrite o v s
  | 0x06 => if r = 0 then imgCtl v s else if r = 0x20 then imgDrainWrite v s else plainWrite o v s
  | 0x07 => if r = 0x14 then haltEnWrite v s else if r = 0x18 then haltCtl v s else plainWrite o v s
  | 0x08 =>
    if r = 4 then discCtl v s
    else if r = 0x20 then farqHeadWrite v s
    else if 0x100 ≤ r ∧ r < 0x300 ∧ r % 0x40 = 0 then linkCtl ((r - 0x100) / 0x40) v s
    else plainWrite o v s
  | 0x09 =>
    if r = 0x50 then (if !bit n 31 then s else match n % 4 with | 1 => spgBind s | 2 => spgUnbind s | _ => s)
    else if 0x100 ≤ r ∧ r < 0x120 then ruleEnWrite ((r - 0x100) / 4) v s
    else plainWrite o v s
  | 0x0A => egrWrite r v s
  | 0x0C => if r = 0x300 then (if bit n 2 then mbxFree (n % 4) s else mbxPost (n % 4) s) else plainWrite o v s
  | 0x0D => if r = 0x18 then coreRepair v s else plainWrite o v s
  | 0x0E =>
    if r = 0x140 then (if bit n 0 then wksSubmitGo v s else s)
    else if r = 0x1080 then
      (if armOf s (n % 1024) ≠ 1 then setBit 0x000E1200 30 s else if bit n 31 then clearFlag (n % 1024) s else postFlag (n % 1024) s)
    else plainWrite o v s
  | 0x0F => if r = 0x50 then (if bit n 4 then dlyRemove v s else dlyInsert v s) else plainWrite o v s
  | 0x16 =>
    if r = 8 then (if !bit n 31 then s else match n % 4 with | 1 => maskStage s | 2 => maskCommit s | 3 => maskRelease s | _ => s)
    else plainWrite o v s
  | 0x1A => if r = 0x20 then when_ (bit n 1) pimAbort (when_ (bit n 0) pimGo s) else plainWrite o v s
  | b => if 0x40 ≤ b ∧ b < 0x60 then stallWrite src (b - 0x40) r v s else plainWrite o v s

/-! ### Where an access goes (R620 to R626, R648) -/

/-- What the control core has left in a register that it has written in this fast cycle. -/
def ccWrote (s : State) (o : Nat) : Option Word :=
  if s.ccNow.1 = s.ft then (s.ccNow.2.find? (fun x => x.1 == o)).map Prod.snd else none
/-- A write has its effect. Of the PF's and the control core's writes of one register in one fast cycle the control core's
comes second (R625): its fields stand. -/
def writeNow (src : Src) (o : Nat) (v : Word) (s : State) : State :=
  let t := writeReg src o v s
  match src, regAt o, ccWrote s o with
  | .cc, _, _ => { t with ccNow := (s.ft, (o, w32 (rd t o)) :: (if s.ccNow.1 = s.ft then s.ccNow.2 else [])) }
  | .pf, some r, some x => wr o ((w32 (rd t o) &&& ~~~(rwMask s r)) ||| (x &&& rwMask s r)).toNat t
  | _, _, _ => t

/-- The access takes place: a read is answered, a write has its effect. -/
def perform (src : Src) (o : Nat) (w : Option Word) (s : State) : State :=
  match w with
  | some v => if mayWrite s src o then writeNow src o v s else s
  | none => let r := readReg src o s; emit (.complete src (leBytes 4 r.1) false) r.2

/-- A register access `c`: it waits for the PCI Express link and for a sleeping domain, which it wakes; one that is OFF
reads zero and takes no write. (DESIGN CHOICE, log 9) -/
def access (c : Instr) (src : Src) (off : Nat) (w : Option Word) (s : State) : State :=
  let o := pfOffset src off
  if src ≠ .cc ∧ s.spg.l1 then await dL0 c s
  else
    let s := if src = .cc then s else modSpg (fun g => { g with lastTlp := s.ft }) s
    match domOf o with
    | none => perform src o w s
    | some d =>
      let x := dom s d
      if isOn s d then perform src o w (touch d s)
      else if x.st = .off ∧ x.done.isNone then
        (if w.isSome then s else emit (.complete src (zeros 4) false) s)
      else await d c (wakeDom d s)

def execRegisterAccessWake (src : Src) (off : Nat) (write : Option Word) (s : State) :=
  run (.registerAccessWake src off write) s (access (.registerAccessWake src off write) src off write s)
def execRegisterAccessOff (src : Src) (off : Nat) (write : Option Word) (s : State) :=
  run (.registerAccessOff src off write) s (access (.registerAccessOff src off write) src off write s)
def execRegisterWrite (src : Src) (off : Nat) (value : Word) (s : State) :=
  run (.registerWrite src off value) s (access (.registerWrite src off value) src off (some value) s)

/-- A BAR0 offset that lies in a decoded range (R620). -/
def decodedOff (src : Src) (o : Nat) : Bool :=
  let b := o / 0x10000
  match src with
  | .vf _ => decide (o < 0x10000)
  | _ => decide (b ≤ 0x1A) || (decide (0x20 ≤ b) && decide (b < 0x28)) || (decide (0x40 ≤ b) && decide (b < 0x60))

/-- An access to an undecoded offset, or of another size than an aligned 32 bits, is an Unsupported Request. -/
def undecoded (src : Src) (off size : Nat) (s : State) : State :=
  if size = 4 ∧ off % 4 = 0 ∧ decodedOff src off then s
  else if src ≠ .cc ∧ s.spg.l1 then await dL0 (.undecodedAccess src off size) s
  else emit (.ur src) s
def execUndecodedAccess (src : Src) (off size : Nat) (s : State) := run (.undecodedAccess src off size) s (undecoded src off size s)

/-! ### BAR2 (R627 to R629) -/

/-- The pond half of a byte. -/
def halfOf (a : Nat) : Nat := if a < 67108864 then dPNA else dPNB

/-- A half that a BAR2 access must wait for: one that sleeps without being OFF. -/
def sleepingHalf (s : State) (a n : Nat) : Option Nat :=
  [halfOf a, halfOf (a + n - 1)].find? (fun d => !isOn s d && !((dom s d).st == .off && (dom s d).done.isNone))

/-- A page is staged for a mask and not committed. -/
def stagedPage (s : State) (p : Nat) : Bool := s.masks.any (fun m => m.2.staged == some p)

/-- BAR2_WRITE: the bytes that fall in staged pages are written, unit by unit; the others are discarded. -/
def bar2Write (off : Nat) (data : Bytes) (s : State) : State :=
  if s.spg.l1 then await dL0 (.bar2Write off data) s
  else
    let s := modSpg (fun g => { g with lastTlp := s.ft }) s
    match sleepingHalf s off data.length with
    | some d => await d (.bar2Write off data) (wakeDom d s)
    | none =>
      let bs := (data.zipIdx).filter (fun b => stagedPage s ((off + b.2) / 8192) && isOn s (halfOf (off + b.2)))
      { s with pond := bs.foldl (fun m b => put m (off + b.2) b.1 0) s.pond }
def execBar2Write (off : Nat) (data : Bytes) (s : State) := run (.bar2Write off data) s (bar2Write off data s)

/-- The 64-byte units that a range touches. -/
def unitsOf (a n : Nat) : List Nat := (List.range ((a + n - 1) / 64 + 1 - a / 64)).map (a / 64 + ·)

/-- BAR2_READ: pond bytes, zeros where the half is OFF; EP for a poisoned unit or an uncorrectable one, for which
0x1101 is logged. `ecc` lists the pond offsets of the uncorrectable units. -/
def bar2Read (off len : Nat) (ecc : List Nat) (s : State) : State :=
  if s.spg.l1 then await dL0 (.bar2Read off len ecc) s
  else
    let s := modSpg (fun g => { g with lastTlp := s.ft }) s
    match sleepingHalf s off len with
    | some d => await d (.bar2Read off len ecc) (wakeDom d s)
    | none =>
      let us_ := (unitsOf off len).filter (fun u => isOn s (halfOf (64 * u)))
      let bad := us_.filter (fun u => (ecc.map (· / 64)).contains u)
      let ep := us_.any (fun u => bad.contains u || look s.poison u 0 != 0)
      let data := (List.range len).map (fun i => if isOn s (halfOf (off + i)) then look s.pond (off + i) 0 else 0)
      let s := forEach bad (fun _ => logC 0x1101 []) s
      emit (.complete .pf data ep) s
def execBar2Read (off len : Nat) (ecc : List Nat) (s : State) := run (.bar2Read off len ecc) s (bar2Read off len ecc s)

end Sys2Proof.Machine
end

