-- ==== Sys2Proof/Machine/Dispatch.lean ====
section
/-! DEFINITION. One arm per command: which meaning runs it. -/
namespace Sys2Proof.Machine

/-- What one command does to everything but the queue. -/
def exec (i : Instr) (s : State) : Host.Outcome State Fault Refusal :=
  match i with
  | .frameSfdReceive port frame fcsOk => Sys2Proof.Machine.execFrameSfdReceive port frame fcsOk s
  | .springMatch port => Sys2Proof.Machine.execSpringMatch port s
  | .springOperation port => Sys2Proof.Machine.execSpringOperation port s
  | .springLdComplete port => Sys2Proof.Machine.execSpringLdComplete port s
  | .triggerDecision port => Sys2Proof.Machine.execTriggerDecision port s
  | .fcsVerdict port desc => Sys2Proof.Machine.execFcsVerdict port desc s
  | .triggerDeliver port => Sys2Proof.Machine.execTriggerDeliver port s
  | .rxqDb port value => Sys2Proof.Machine.execRxqDb port value s
  | .txqDb port value => Sys2Proof.Machine.execTxqDb port value s
  | .hostFrameTransmit port desc frame => Sys2Proof.Machine.execHostFrameTransmit port desc frame s
  | .tokenArrival aisle step remote => Sys2Proof.Machine.execTokenArrival aisle step remote s
  | .egressTransmitStart port => Sys2Proof.Machine.execEgressTransmitStart port s
  | .egrLoadCommit data => Sys2Proof.Machine.execEgrLoadCommit data s
  | .leaseGrant lease value => Sys2Proof.Machine.execLeaseGrant lease value s
  | .spgRuleEnWrite j value => Sys2Proof.Machine.execSpgRuleEnWrite j value s
  | .linkEnWrite port value => Sys2Proof.Machine.execLinkEnWrite port value s
  | .linkRetrainWrite port value => Sys2Proof.Machine.execLinkRetrainWrite port value s
  | .linkFarEndDetect port => Sys2Proof.Machine.execLinkFarEndDetect port s
  | .linkSymbolLock port => Sys2Proof.Machine.execLinkSymbolLock port s
  | .linkDeskewDone port => Sys2Proof.Machine.execLinkDeskewDone port s
  | .measureComplete port => Sys2Proof.Machine.execMeasureComplete port s
  | .linkTrainingTimeout port => Sys2Proof.Machine.execLinkTrainingTimeout port s
  | .echo port msg count => Sys2Proof.Machine.execEcho port msg count s
  | .hello port msg => Sys2Proof.Machine.execHello port msg s
  | .laneLockLoss port => Sys2Proof.Machine.execLaneLockLoss port s
  | .keepaliveTimeout port => Sys2Proof.Machine.execKeepaliveTimeout port s
  | .abandonedFlit port vc set => Sys2Proof.Machine.execAbandonedFlit port vc set s
  | .flitCrcError port => Sys2Proof.Machine.execFlitCrcError port s
  | .replayRequest port from_ => Sys2Proof.Machine.execReplayRequest port from_ s
  | .linkAck port count => Sys2Proof.Machine.execLinkAck port count s
  | .creditReturn port vc set count => Sys2Proof.Machine.execCreditReturn port vc set count s
  | .flitReceive port set flit => Sys2Proof.Machine.execFlitReceive port set flit s
  | .pw flits fault => Sys2Proof.Machine.execPw flits fault s
  | .rd flits => Sys2Proof.Machine.execRd flits s
  | .rdr flits => Sys2Proof.Machine.execRdr flits s
  | .pwackSend src stall => Sys2Proof.Machine.execPwackSend src stall s
  | .pwack flit => Sys2Proof.Machine.execPwack flit s
  | .farFault payload => Sys2Proof.Machine.execFarFault payload s
  | .wake payload => Sys2Proof.Machine.execWake payload s
  | .rowMask payload => Sys2Proof.Machine.execRowMask payload s
  | .chipLost payload => Sys2Proof.Machine.execChipLost payload s
  | .fabFarqHeadWrite value => Sys2Proof.Machine.execFabFarqHeadWrite value s
  | .discover port msg => Sys2Proof.Machine.execDiscover port msg s
  | .report msg => Sys2Proof.Machine.execReport msg s
  | .assign port msg => Sys2Proof.Machine.execAssign port msg s
  | .staged msg => Sys2Proof.Machine.execStaged msg s
  | .epochArm msg => Sys2Proof.Machine.execEpochArm msg s
  | .routeHoldRelease stall dst => Sys2Proof.Machine.execRouteHoldRelease stall dst s
  | .rejoin msg => Sys2Proof.Machine.execRejoin msg s
  | .unassignedChipSeen port serial => Sys2Proof.Machine.execUnassignedChipSeen port serial s
  | .imgData msg => Sys2Proof.Machine.execImgData msg s
  | .imgReport msg => Sys2Proof.Machine.execImgReport msg s
  | .imgArm msg => Sys2Proof.Machine.execImgArm msg s
  | .imgAbort msg => Sys2Proof.Machine.execImgAbort msg s
  | .stallReset msg => Sys2Proof.Machine.execStallReset msg s
  | .reset msg => Sys2Proof.Machine.execReset msg s
  | .clkStatus port msg => Sys2Proof.Machine.execClkStatus port msg s
  | .ftReq port => Sys2Proof.Machine.execFtReq port s
  | .ftSet port msg elapsed => Sys2Proof.Machine.execFtSet port msg elapsed s
  | .ftCheck port msg => Sys2Proof.Machine.execFtCheck port msg s
  | .idleTimerExpire dom => Sys2Proof.Machine.execIdleTimerExpire dom s
  | .pwrTransitionComplete dom => Sys2Proof.Machine.execPwrTransitionComplete dom s
  | .domainReloadComplete dom failing => Sys2Proof.Machine.execDomainReloadComplete dom failing s
  | .domainWake dom src => Sys2Proof.Machine.execDomainWake dom src s
  | .pwrReq value => Sys2Proof.Machine.execPwrReq value s
  | .thermalSample temps => Sys2Proof.Machine.execThermalSample temps s
  | .registerAccessWake src off write => Sys2Proof.Machine.execRegisterAccessWake src off write s
  | .registerAccessOff src off write => Sys2Proof.Machine.execRegisterAccessOff src off write s
  | .undecodedAccess src off size => Sys2Proof.Machine.execUndecodedAccess src off size s
  | .registerWrite src off value => Sys2Proof.Machine.execRegisterWrite src off value s
  | .bar2Write off data => Sys2Proof.Machine.execBar2Write off data s
  | .bar2Read off len ecc => Sys2Proof.Machine.execBar2Read off len ecc s
  | .bar4Write off data => Sys2Proof.Machine.execBar4Write off data s
  | .bar4Read off len ecc => Sys2Proof.Machine.execBar4Read off len ecc s
  | .imgStart value => Sys2Proof.Machine.execImgStart value s
  | .imageFrameFetched frame => Sys2Proof.Machine.execImageFrameFetched frame s
  | .imgDrainWrite value => Sys2Proof.Machine.execImgDrainWrite value s
  | .stallDrained stall => Sys2Proof.Machine.execStallDrained stall s
  | .chCreate stall src => Sys2Proof.Machine.execChCreate stall src s
  | .chDestroy stall idx => Sys2Proof.Machine.execChDestroy stall idx s
  | .chModify stall idx => Sys2Proof.Machine.execChModify stall idx s
  | .sqDb stall value => Sys2Proof.Machine.execSqDb stall value s
  | .cqDb stall value => Sys2Proof.Machine.execCqDb stall value s
  | .commandFetch ch entry => Sys2Proof.Machine.execCommandFetch ch entry s
  | .queueDmaFail ch => Sys2Proof.Machine.execQueueDmaFail ch s
  | .completionPost ch => Sys2Proof.Machine.execCompletionPost ch s
  | .coalesceTimer ch => Sys2Proof.Machine.execCoalesceTimer ch s
  | .budgetPeriodStart ch => Sys2Proof.Machine.execBudgetPeriodStart ch s
  | .tillSnap stall value => Sys2Proof.Machine.execTillSnap stall value s
  | .submit ch tokens => Sys2Proof.Machine.execSubmit ch tokens s
  | .append ch tokens => Sys2Proof.Machine.execAppend ch tokens s
  | .cancel ch => Sys2Proof.Machine.execCancel ch s
  | .cancelEffect req => Sys2Proof.Machine.execCancelEffect req s
  | .supersedeEffect req => Sys2Proof.Machine.execSupersedeEffect req s
  | .pause ch => Sys2Proof.Machine.execPause ch s
  | .resume ch => Sys2Proof.Machine.execResume ch s
  | .close ch => Sys2Proof.Machine.execClose ch s
  | .setDeadline ch => Sys2Proof.Machine.execSetDeadline ch s
  | .batch ch members => Sys2Proof.Machine.execBatch ch members s
  | .fence ch => Sys2Proof.Machine.execFence ch s
  | .fenceComplete ch => Sys2Proof.Machine.execFenceComplete ch s
  | .adopt ch => Sys2Proof.Machine.execAdopt ch s
  | .fwAdmissionTimeout rec => Sys2Proof.Machine.execFwAdmissionTimeout rec s
  | .admPost modl rec outcome status => Sys2Proof.Machine.execAdmPost modl rec outcome status s
  | .composeStep aisle => Sys2Proof.Machine.execComposeStep aisle s
  | .stepIssue aisle => Sys2Proof.Machine.execStepIssue aisle s
  | .stepRecordReceive record => Sys2Proof.Machine.execStepRecordReceive record s
  | .stepCommitConfirm aisle step chip => Sys2Proof.Machine.execStepCommitConfirm aisle step chip s
  | .stepEnd aisle step => Sys2Proof.Machine.execStepEnd aisle step s
  | .generationFinal req => Sys2Proof.Machine.execGenerationFinal req s
  | .rtbIdleExpire req => Sys2Proof.Machine.execRtbIdleExpire req s
  | .pauseComplete req => Sys2Proof.Machine.execPauseComplete req s
  | .resumeComplete req lakeError => Sys2Proof.Machine.execResumeComplete req lakeError s
  | .proxyStage modl rec => Sys2Proof.Machine.execProxyStage modl rec s
  | .proxyRelease modl req => Sys2Proof.Machine.execProxyRelease modl req s
  | .batchStart stall => Sys2Proof.Machine.execBatchStart stall s
  | .workItemReady slot => Sys2Proof.Machine.execWorkItemReady slot s
  | .coreIdle core => Sys2Proof.Machine.execCoreIdle core s
  | .kernelStart core => Sys2Proof.Machine.execKernelStart core s
  | .kernelComplete core output => Sys2Proof.Machine.execKernelComplete core output s
  | .watchdogTrip core => Sys2Proof.Machine.execWatchdogTrip core s
  | .coreStoreEcc core => Sys2Proof.Machine.execCoreStoreEcc core s
  | .windowFillComplete core => Sys2Proof.Machine.execWindowFillComplete core s
  | .adapterFetchComplete stall adapter => Sys2Proof.Machine.execAdapterFetchComplete stall adapter s
  | .wksSubmitGo value => Sys2Proof.Machine.execWksSubmitGo value s
  | .jobFault kind slot rows page => Sys2Proof.Machine.execJobFault kind slot rows page s
  | .dlyInsert value => Sys2Proof.Machine.execDlyInsert value s
  | .dlyRemove value => Sys2Proof.Machine.execDlyRemove value s
  | .evtPost flag => Sys2Proof.Machine.execEvtPost flag s
  | .evtClear flag => Sys2Proof.Machine.execEvtClear flag s
  | .epost thread flag => Sys2Proof.Machine.execEpost thread flag s
  | .eclr thread flag => Sys2Proof.Machine.execEclr thread flag s
  | .ewait thread flag => Sys2Proof.Machine.execEwait thread flag s
  | .bmove thread => Sys2Proof.Machine.execBmove thread s
  | .bscan thread => Sys2Proof.Machine.execBscan thread s
  | .bcrc thread => Sys2Proof.Machine.execBcrc thread s
  | .bulkUnitComplete thread lakeError => Sys2Proof.Machine.execBulkUnitComplete thread lakeError s
  | .interruptTake thread => Sys2Proof.Machine.execInterruptTake thread s
  | .mbxDbPost slot => Sys2Proof.Machine.execMbxDbPost slot s
  | .mbxDbFree slot => Sys2Proof.Machine.execMbxDbFree slot s
  | .mbxInfo slot => Sys2Proof.Machine.execMbxInfo slot s
  | .moduleCtl slot => Sys2Proof.Machine.execModuleCtl slot s
  | .moduleMsg slot reply => Sys2Proof.Machine.execModuleMsg slot reply s
  | .powerSet slot => Sys2Proof.Machine.execPowerSet slot s
  | .fwRecord slot => Sys2Proof.Machine.execFwRecord slot s
  | .callbackFault thread budget => Sys2Proof.Machine.execCallbackFault thread budget s
  | .admBlock modl ch set => Sys2Proof.Machine.execAdmBlock modl ch set s
  | .timerSet modl due flag => Sys2Proof.Machine.execTimerSet modl due flag s
  | .sampleComplete aisle step rows => Sys2Proof.Machine.execSampleComplete aisle step rows s
  | .ringDb stall value => Sys2Proof.Machine.execRingDb stall value s
  | .ringDmaFail ring => Sys2Proof.Machine.execRingDmaFail ring s
  | .ringCreate stall src => Sys2Proof.Machine.execRingCreate stall src s
  | .ringDestroy stall idx => Sys2Proof.Machine.execRingDestroy stall idx s
  | .pimZero run => Sys2Proof.Machine.execPimZero run s
  | .pimCopy run => Sys2Proof.Machine.execPimCopy run s
  | .pimNot run => Sys2Proof.Machine.execPimNot run s
  | .pimAnd run => Sys2Proof.Machine.execPimAnd run s
  | .pimOr run => Sys2Proof.Machine.execPimOr run s
  | .pimMaj3 run => Sys2Proof.Machine.execPimMaj3 run s
  | .pimXor run => Sys2Proof.Machine.execPimXor run s
  | .pimXfer run => Sys2Proof.Machine.execPimXfer run s
  | .pimMaskout run => Sys2Proof.Machine.execPimMaskout run s
  | .pimCommandStart run => Sys2Proof.Machine.execPimCommandStart run s
  | .rowOperationComplete run => Sys2Proof.Machine.execRowOperationComplete run s
  | .pimCommandComplete run => Sys2Proof.Machine.execPimCommandComplete run s
  | .handshakePreempt die => Sys2Proof.Machine.execHandshakePreempt die s
  | .refreshDue chan => Sys2Proof.Machine.execRefreshDue chan s
  | .dieTempCross die temp => Sys2Proof.Machine.execDieTempCross die temp s
  | .lakeAccess cls off write ecc => Sys2Proof.Machine.execLakeAccess cls off write ecc s
  | .pcieLinkChange width rate => Sys2Proof.Machine.execPcieLinkChange width rate s
  | .vfFlr vf => Sys2Proof.Machine.execVfFlr vf s
  | .dmaError src => Sys2Proof.Machine.execDmaError src s
  | .smbSerial pecOk => Sys2Proof.Machine.execSmbSerial pecOk s
  | .smbTemp pecOk => Sys2Proof.Machine.execSmbTemp pecOk s
  | .smbResetCause pecOk => Sys2Proof.Machine.execSmbResetCause pecOk s
  | .smbLogSummary pecOk => Sys2Proof.Machine.execSmbLogSummary pecOk s
  | .smbPower pecOk => Sys2Proof.Machine.execSmbPower pecOk s
  | .smbFt pecOk => Sys2Proof.Machine.execSmbFt pecOk s
  | .smbWake mask pecOk => Sys2Proof.Machine.execSmbWake mask pecOk s
  | .coreRepair value => Sys2Proof.Machine.execCoreRepair value s
  | .repairComplete failing => Sys2Proof.Machine.execRepairComplete failing s
  | .haltEnWrite value => Sys2Proof.Machine.execHaltEnWrite value s
  | .logHeadWrite value => Sys2Proof.Machine.execLogHeadWrite value s
  | .safeClr src => Sys2Proof.Machine.execSafeClr src s
  | .wdtKick value => Sys2Proof.Machine.execWdtKick value s
  | .rstFabGo value => Sys2Proof.Machine.execRstFabGo value s
  | .strapSample straps => Sys2Proof.Machine.execStrapSample straps s
  | .rstBlockStall stall => Sys2Proof.Machine.execRstBlockStall stall s
  | .secmStatus chan => Sys2Proof.Machine.execSecmStatus chan s
  | .selftest chan failing => Sys2Proof.Machine.execSelftest chan failing s
  | .authChallenge chan => Sys2Proof.Machine.execAuthChallenge chan s
  | .authResponse chan => Sys2Proof.Machine.execAuthResponse chan s
  | .logout chan => Sys2Proof.Machine.execLogout chan s
  | .sessionTimeout chan => Sys2Proof.Machine.execSessionTimeout chan s
  | .attest chan => Sys2Proof.Machine.execAttest chan s
  | .random chan => Sys2Proof.Machine.execRandom chan s
  | .provisionSlot chan => Sys2Proof.Machine.execProvisionSlot chan s
  | .clearSlot chan => Sys2Proof.Machine.execClearSlot chan s
  | .lcProvision chan => Sys2Proof.Machine.execLcProvision chan s
  | .lcAdvance chan => Sys2Proof.Machine.execLcAdvance chan s
  | .ctrRaise chan => Sys2Proof.Machine.execCtrRaise chan s
  | .debugUnlock chan => Sys2Proof.Machine.execDebugUnlock chan s
  | .zeroise chan => Sys2Proof.Machine.execZeroise chan s
  | .tamperDetect cause => Sys2Proof.Machine.execTamperDetect cause s
  | .selftestFail test conditional => Sys2Proof.Machine.execSelftestFail test conditional s
  | .seedPoolRefill count => Sys2Proof.Machine.execSeedPoolRefill count s
  | .resetPinRise warm => Sys2Proof.Machine.execResetPinRise warm s
  | .portLinkChange port up => Sys2Proof.Machine.execPortLinkChange port up s
  | .triggerEnterAdmission => Sys2Proof.Machine.execTriggerEnterAdmission s
  | .ptpCmdLoad => Sys2Proof.Machine.execPtpCmdLoad s
  | .ptpMappingActivate => Sys2Proof.Machine.execPtpMappingActivate s
  | .egressPatch => Sys2Proof.Machine.execEgressPatch s
  | .egrLdTemplate => Sys2Proof.Machine.execEgrLdTemplate s
  | .egrLdMap => Sys2Proof.Machine.execEgrLdMap s
  | .spgBind => Sys2Proof.Machine.execSpgBind s
  | .spgUnbind => Sys2Proof.Machine.execSpgUnbind s
  | .fabDiscStart => Sys2Proof.Machine.execFabDiscStart s
  | .discoveryBegin => Sys2Proof.Machine.execDiscoveryBegin s
  | .discoveryComplete => Sys2Proof.Machine.execDiscoveryComplete s
  | .epochCommit => Sys2Proof.Machine.execEpochCommit s
  | .rejoinSend => Sys2Proof.Machine.execRejoinSend s
  | .clockLocked => Sys2Proof.Machine.execClockLocked s
  | .upstreamClockDepart => Sys2Proof.Machine.execUpstreamClockDepart s
  | .holdoverSwitch => Sys2Proof.Machine.execHoldoverSwitch s
  | .holdoverTimeout => Sys2Proof.Machine.execHoldoverTimeout s
  | .haltHoldExpire => Sys2Proof.Machine.execHaltHoldExpire s
  | .refclkLoss => Sys2Proof.Machine.execRefclkLoss s
  | .refclkReturn => Sys2Proof.Machine.execRefclkReturn s
  | .slewStep => Sys2Proof.Machine.execSlewStep s
  | .tickBoundary => Sys2Proof.Machine.execTickBoundary s
  | .delayListProcess => Sys2Proof.Machine.execDelayListProcess s
  | .deadline => Sys2Proof.Machine.execDeadline s
  | .deferStart => Sys2Proof.Machine.execDeferStart s
  | .ttlPause => Sys2Proof.Machine.execTtlPause s
  | .ttlNode => Sys2Proof.Machine.execTtlNode s
  | .prewarm => Sys2Proof.Machine.execPrewarm s
  | .timedWork => Sys2Proof.Machine.execTimedWork s
  | .drain => Sys2Proof.Machine.execDrain s
  | .fwTimer => Sys2Proof.Machine.execFwTimer s
  | .quietDeadlock => Sys2Proof.Machine.execQuietDeadlock s
  | .imgActivate => Sys2Proof.Machine.execImgActivate s
  | .imgCtlAbort => Sys2Proof.Machine.execImgCtlAbort s
  | .imageStaged => Sys2Proof.Machine.execImageStaged s
  | .installComplete => Sys2Proof.Machine.execInstallComplete s
  | .bundleCommit => Sys2Proof.Machine.execBundleCommit s
  | .bundleTimeout => Sys2Proof.Machine.execBundleTimeout s
  | .admissionDecision => Sys2Proof.Machine.execAdmissionDecision s
  | .cycleStart => Sys2Proof.Machine.execCycleStart s
  | .slotStart => Sys2Proof.Machine.execSlotStart s
  | .cycleRestart => Sys2Proof.Machine.execCycleRestart s
  | .poolSlotFree => Sys2Proof.Machine.execPoolSlotFree s
  | .maskStage => Sys2Proof.Machine.execMaskStage s
  | .maskCommit => Sys2Proof.Machine.execMaskCommit s
  | .maskRelease => Sys2Proof.Machine.execMaskRelease s
  | .pimCmdGo => Sys2Proof.Machine.execPimCmdGo s
  | .pimCmdAbort => Sys2Proof.Machine.execPimCmdAbort s
  | .bankFrameStart => Sys2Proof.Machine.execBankFrameStart s
  | .aspmL1Entry => Sys2Proof.Machine.execAspmL1Entry s
  | .l1Exit => Sys2Proof.Machine.execL1Exit s
  | .pfFlr => Sys2Proof.Machine.execPfFlr s
  | .bypass => Sys2Proof.Machine.execBypass s
  | .idcode => Sys2Proof.Machine.execIdcode s
  | .samplePreload => Sys2Proof.Machine.execSamplePreload s
  | .extest => Sys2Proof.Machine.execExtest s
  | .clamp => Sys2Proof.Machine.execClamp s
  | .highz => Sys2Proof.Machine.execHighz s
  | .haltCtlClear => Sys2Proof.Machine.execHaltCtlClear s
  | .haltCtlForce => Sys2Proof.Machine.execHaltCtlForce s
  | .logUnfreeze => Sys2Proof.Machine.execLogUnfreeze s
  | .por => Sys2Proof.Machine.execPor s
  | .pinCold => Sys2Proof.Machine.execPinCold s
  | .pinWarm => Sys2Proof.Machine.execPinWarm s
  | .pciePerst => Sys2Proof.Machine.execPciePerst s
  | .wdtExpire => Sys2Proof.Machine.execWdtExpire s
  | .swCold => Sys2Proof.Machine.execSwCold s
  | .swWarm => Sys2Proof.Machine.execSwWarm s
  | .warmResetTaken => Sys2Proof.Machine.execWarmResetTaken s
  | .farewellEnd => Sys2Proof.Machine.execFarewellEnd s
  | .nvPulseEnd => Sys2Proof.Machine.execNvPulseEnd s
  | .blockReady => Sys2Proof.Machine.execBlockReady s
  | .releaseComplete => Sys2Proof.Machine.execReleaseComplete s
  | .rstBlockEgr => Sys2Proof.Machine.execRstBlockEgr s
  | .rstBlockCcr => Sys2Proof.Machine.execRstBlockCcr s
  | .quiesceTimeout => Sys2Proof.Machine.execQuiesceTimeout s
  | .zeroiseEraseComplete => Sys2Proof.Machine.execZeroiseEraseComplete s
  | .drbgReseed => Sys2Proof.Machine.execDrbgReseed s
  | .perstDeassert => Sys2Proof.Machine.execPerstDeassert s
  | .firmwareReloaded => Sys2Proof.Machine.execFirmwareReloaded s
  | .pfD3hot => Sys2Proof.Machine.execPfD3hot s

end Sys2Proof.Machine
end

