-- ==== Sys2Proof/Machine/Idle.lean ====
section
/-! DEFINITION. What an empty command queue lets happen. -/
namespace Sys2Proof.Machine

/-- What an empty queue lets happen: every waiting access and packet that can go ahead does, in order of arrival; when there
is none, one fast cycle passes (R104), on which the reset unit's count of fast cycles also advances and the links do what
they do in it. (DESIGN CHOICE, log 1) -/
def idle (s : State) : State :=
  if s.heldAcc.any (heldReady s) then
    { s with pending := (s.heldAcc.filter (heldReady s)).map Prod.snd, heldAcc := s.heldAcc.filter (fun p => !heldReady s p) }
  else linkCycle { s with ft := s.ft + 1, rst := { s.rst with aon := s.rst.aon + 1 } }

end Sys2Proof.Machine
end

