-- ==== Sys2Proof/Safety.lean ====
section
/-! DEFINITION. The terms of claims: what a safe run is, the invariants every step keeps, and the few words the
statements share. -/
namespace Sys2Proof.Safety
open Sys2Proof.Machine

/-! ### Stops and completion -/

/-- The queue holds only commands that can reach the chip. -/
def QueueOk (s : State) : Prop := s.pending.all Instr.wf = true

/-- The next step answers a state. -/
def Goes (s : State) : Prop := ∃ t, step s = .next t

/-- The command answers a next state, and `P` holds of it. -/
def Gives (c : Instr) (s : State) (P : State → Prop) : Prop := ∃ t, exec c s = .next t ∧ P t

/-- The command answers the next state `t`, with the queue of waiting commands as it was. -/
def Leaves (c : Instr) (s t : State) : Prop := exec c s = .next { t with pending := s.pending }

/-! ### Commands of a channel -/

/-- The next command of channel `c` is `e`, with opcode `op`: it passes the checks every command meets and nothing
holds it back (R192, R204, R270). -/
def Takes (s : State) (c op : Nat) (e : Sqe) : Prop :=
  headCmd s c = some e ∧ staticStat s c e = 0 ∧ e.op = op
    ∧ (namesReq op && (side s (hIdx e.handle.toNat)).cancelAt.isSome) = false

/-- Nothing of opcode `op` can be taken from channel `c` now: no command is at the front, or the one there passes the checks
every command meets and is another, or is held back. -/
def Waits (s : State) (c op : Nat) : Prop :=
  headCmd s c = none ∨ ∃ e, headCmd s c = some e ∧ staticStat s c e = 0
    ∧ (e.op ≠ op ∨ (namesReq op && (side s (hIdx e.handle.toNat)).cancelAt.isSome) = true)

/-- The state once the command has left the channel's accepted entries. -/
def takenOff (c : Nat) (s : State) : State := modChan c (fun x => { x with acc := x.acc.drop 1 }) s

/-- What follows a command's effect: the entries now at the front that fail those checks complete, and the entry the
channel holds back follows once its completions have room (R217). -/
def nextUp (c : Nat) (s : State) : State := takeHeldEntry c (settleAcc c (chan s c).acc.length s)

/-! ### Commands of the security module -/

/-- The module takes a command on channel `c` now: READY, with no command in progress there (R592, R597). -/
def Listens (s : State) (c : Nat) : Prop := (sess s c).busy = false ∧ s.secm.st = 1

/-- The state once it has taken one: the session's last command is of this FT (R595). -/
def heard (c : Nat) (s : State) : State := modSess c (fun x => { x with last := s.ft }) s

/-! ### Invariants -/

/-- Registers and the three byte memories (pond, lake, control-core SRAM) are in canonical form: addresses strictly
rising, no entry equal to what an unlisted address reads as. -/
def MemOk (s : State) : Prop :=
  smapWf regReset s.regs = true ∧ Memory.wf s.pond = true ∧ Memory.wf s.nmc.lake = true ∧ Memory.wf s.cc.sram = true

/-- The trouble log's ring (R542, R544): 2,048 slots, the unread entries run from HEAD to TAIL. -/
def LogOk (s : State) : Prop :=
  s.log.unread ≤ 2048 ∧ s.log.head < 2048 ∧ s.log.tail = (s.log.head + s.log.unread) % 2048
    ∧ ∀ p ∈ s.log.ring, p.1 < 2048

/-- A lifecycle state word of the table of R588. -/
def lcLegal (n : Nat) : Prop := n = 1 ∨ n = 3 ∨ n = 7 ∨ n = 15

/-- The lifecycle word, and the one a write pulse in progress would return to (R564), are legal. -/
def LcOk (s : State) : Prop := lcLegal s.secm.lc ∧ ∀ p ∈ s.secm.nvOld, lcLegal p.2.lc

/-- The fused identity is the same (GLB_SERIAL, GLB_REV: reset letter "—"). -/
def SameFuses (s t : State) : Prop := t.serial = s.serial ∧ t.stepping = s.stepping ∧ t.partX = s.partX

/-- Nothing that left the chip is withdrawn: what `s` has sent is a prefix of what `t` has sent. -/
def Sends (s t : State) : Prop := s.out <+: t.out

end Sys2Proof.Safety
end

