-- ==== Sys2Proof/Certificates/Slice0/Obligations.lean ====
section
/-! DEFINITION. The statements for the provers, by family of commands; then those about the block as a whole.
`Leaves c s t` says that the command `c` answers the next state `t` from `s`, the queue of waiting commands apart. -/
open Sys2Proof Sys2Proof.Machine Sys2Proof.Safety

/-! ### The block as a whole -/

/-- One step takes the command at the front of the queue and runs it with the rest of the queue; with no command
waiting it does what `idle` says (the model's choice: log entry 1). -/
def Obligations.StepRunsTheFrontCommand : Prop :=
  (∀ c s, step { s with pending := c :: s.pending } = exec c s) ∧ ∀ s, s.pending = [] → step s = .next (idle s)

/-- Every command whose operands are within range completes, from every state, and leaves the queue of waiting
commands as it is; one outside them answers the fault operandRange, which is the only stop (the model's choice: log
entry 2). -/
def Obligations.CommandsInRangeComplete : Prop :=
  (∀ c s, c.wf = true → ∃ t, exec c s = .next t ∧ t.pending = s.pending) ∧
  (∀ c s, c.wf = false → exec c s = .fault .operandRange)

/-- The chip right after reset: the invariants hold, the queue is empty, and the fields with a value in the spec have
it: RST_CAUSE shows POR, every switched domain is OFF, every link is in DETECT, HALT_OUT is asserted, the loader is
IDLE, the log, the tables and the memories are empty. -/
def Obligations.ResetHoldsTheInvariants : Prop :=
  MemOk .reset ∧ LogOk .reset ∧ LcOk .reset ∧ QueueOk .reset ∧ State.reset.pending = [] ∧
    (∀ d, d < 11 → (dom .reset d).st = .off) ∧ (∀ p, p < 8 → (link .reset p).st = 1) ∧
    rd .reset rCause = 1 ∧ bit (rd .reset rHaltStat) 8 = true ∧ State.reset.img.st = 0 ∧ State.reset.ft = 0 ∧
    State.reset.log = {} ∧ State.reset.rtb = [] ∧ State.reset.chans = [] ∧ State.reset.rings = [] ∧ State.reset.pond = [] ∧
    State.reset.fab.valid = false ∧ State.reset.rst.safeHold = false

/-- Registers, pond, lake and SRAM keep their canonical form at every step. -/
def Obligations.MemoriesStayCanonical : Prop := ∀ s t, step s = .next t → MemOk s → MemOk t

/-- The trouble log keeps its form at every step (R542, R544): at most 2,048 unread entries, which run from LOG_HEAD
to LOG_TAIL. -/
def Obligations.TroubleLogKeepsItsForm : Prop := ∀ s t, step s = .next t → LogOk s → LogOk t

/-- The lifecycle word stays one of the four of R588 at every step, whatever a power loss cuts off (R564). No step
changes the fused identity, and none withdraws what the chip has sent. -/
def Obligations.LifecycleAndIdentityStand : Prop :=
  (∀ s t, step s = .next t → LcOk s → LcOk t) ∧
  (∀ s t, step s = .next t → SameFuses s t ∧ Sends s t ∧ s.freshN ≤ t.freshN)

/-- R10: a field of the low n bits of FT denotes the instant with those low bits that lies within 2^(n−1) of now, the
earlier of two equally distant ones; where that instant would lie before FT 0, the field's own value. -/
def Obligations.TruncatedTimesDenoteTheNearestInstant : Prop :=
  ∀ n f now, 1 ≤ n → f < 2 ^ n →
    expandFt n f now % 2 ^ n = f ∧
    (∀ c, c % 2 ^ n = f → c + 2 ^ (n - 1) ≥ now → c < now + 2 ^ (n - 1) → expandFt n f now = c) ∧
    ((∀ c, c % 2 ^ n = f → c + 2 ^ (n - 1) < now ∨ now + 2 ^ (n - 1) ≤ c) → expandFt n f now = f ∧ now < 2 ^ (n - 1))

/-- R621 and R626: the PND block reads as zero and ignores writes; VF n + 1's BAR0 offsets are those of stall n's
window; the window of a stall that is not ENABLED decodes STALL_ID alone, reads as zero elsewhere and ignores writes. -/
def Obligations.EmptyWindowsReadZero : Prop :=
  (∀ s src o v, o / 0x10000 = 0x18 → view s src o = 0 ∧ writeReg src o v s = s) ∧
  (∀ n o, pfOffset (.vf n) o = win n o) ∧
  (∀ s src n o v, n < 32 → 1 ≤ o → o < 0x10000 → (stallCfg s n).enabled = false →
    view s src (win n o) = 0 ∧ perform src (win n o) (some v) s = s ∧ perform src (win n 0) (some v) s = s) ∧
  (∀ s src n, n < 32 → view s src (win n 0) % 32 = n) ∧ (∀ n o, decodedOff (.vf n) o = decide (o < 0x10000))


/-! ### Ethernet ports -/

/-- A frame whose start arrives is stamped and parsed after those already arriving (R478); at byte 13 it is compared
with the rules (R485): the lowest matching rule's program is to run from the next fast cycle, and every matching rule
with WAKE opens its domains (R22). The parser program (R484, R486): an operation takes one fast cycle; LD waits for
its bytes and loads them in network order; AND masks the accumulator; JEQ and JNE jump; KEY takes the accumulator;
EMIT appends a token; RULE names a rule that is ENABLED, and ends the program as DROP on any other; END after a RULE
ends the program; DROP ends it with no trigger; the 65th operation ends it as DROP with SPG_ERR bit 0. The instants
are those of R478 and R484; log entry 52 fixes the corners not stated here. A row whose condition does not hold
changes nothing: log entry 77. -/
def Obligations.FramesAreParsed : Prop :=
  ((∀ s p frame ok, p < 2 → Leaves (.frameSfdReceive p frame ok) s
    (modPort p (fun q => { q with parse := q.parse ++ [{ sfd := s.ft, frame := frame, fcsOk := ok }] }) s)) ∧
  (∀ s p f, p < 2 → (port s p).parse = [f] → f.matched = false → 14 ≤ f.frame.length → byteAt s p f 13 ≤ s.ft →
    Leaves (.springMatch p) s
      (forEach ((matching s p f).filter (fun j => (rule s j).wake)) earlyWake
        (modFrame p f.sfd (fun g =>
          { g with matched := true
                   first := (matching s p f).head?
                   woke := (matching s p f).any (fun j => (rule s j).wake && (wakeSet s j).any (fun d => !isOn s d))
                   pc := ((matching s p f).head?.map (fun j => (rule s j).entry)).getD 0
                   readyAt := s.ft + 1 }) s))) ∧
  (∀ s p, p < 2 → (port s p).parse = [] → Leaves (.springMatch p) s s)) ∧
  ((∀ s p f x u, p < 2 → parsing s p = some f → f.ops < 64 → (look s.spg.ops f.pc 0).toNat = x →
    u = modFrame p f.sfd (fun _ => { f with ops := f.ops + 1, pc := f.pc + 1, readyAt := s.ft + 1 }) s →
    (bits x 7 0 = 1 → Leaves (.springOperation p) s (modFrame p f.sfd (fun g =>
      { g with loading := some x
               readyAt := max (s.ft + 1) (byteAt u p g (bits x 31 16 + bits x 15 8 - 1) + 2) }) u)) ∧
    (bits x 7 0 = 2 → Leaves (.springOperation p) s (modFrame p f.sfd (fun g => { g with acc := g.acc &&& bits x 63 32 }) u)) ∧
    (bits x 7 0 = 3 → Leaves (.springOperation p) s
      (modFrame p f.sfd (fun g => { g with pc := if g.acc = bits x 63 32 then bits x 31 16 else g.pc }) u)) ∧
    (bits x 7 0 = 4 → Leaves (.springOperation p) s
      (modFrame p f.sfd (fun g => { g with pc := if g.acc ≠ bits x 63 32 then bits x 31 16 else g.pc }) u)) ∧
    (bits x 7 0 = 5 → Leaves (.springOperation p) s (modFrame p f.sfd (fun g => { g with key := g.acc }) u)) ∧
    (bits x 7 0 = 8 → f.tokens.length < 8 → Leaves (.springOperation p) s
      (modFrame p f.sfd (fun g => { g with tokens := g.tokens ++ [bits x 63 32 % 65536] })
        (modFrame p f.sfd (fun g => { g with lastEmit := s.ft }) u))) ∧
    (bits x 7 0 = 6 → ((rule u (bits x 15 8)).loaded && (rule u (bits x 15 8)).enabled) = true → Leaves (.springOperation p) s
      (modFrame p f.sfd (fun g => { g with rule := if g.decided.isNone then some (bits x 15 8, s.ft) else g.rule }) u)) ∧
    (bits x 7 0 = 6 → ((rule u (bits x 15 8)).loaded && (rule u (bits x 15 8)).enabled) = false →
      Leaves (.springOperation p) s (endProgram p { f with ops := f.ops + 1, pc := f.pc + 1, readyAt := s.ft + 1 } false u)) ∧
    (bits x 7 0 = 10 →
      Leaves (.springOperation p) s (endProgram p { f with ops := f.ops + 1, pc := f.pc + 1, readyAt := s.ft + 1 } false u)) ∧
    (bits x 7 0 = 9 → f.rule.isSome = true →
      Leaves (.springOperation p) s (modFrame p f.sfd (fun g => { g with ended := some true, loading := none }) u))) ∧
  (∀ s p f, p < 2 → parsing s p = some f → 64 ≤ f.ops →
    Leaves (.springOperation p) s (endProgram p f false (setBit 0x00090008 0 s))) ∧
  (∀ s p f o, p < 2 → (port s p).parse = [f] → f.loading = some o → f.ended = none → f.readyAt ≤ s.ft →
    1 ≤ bits o 15 8 → bits o 15 8 ≤ 4 → bits o 31 16 + bits o 15 8 ≤ frameLen f →
    Leaves (.springLdComplete p) s (modFrame p f.sfd (fun g =>
      { g with acc := beNat (slice f.frame (bits o 31 16) (bits o 15 8)), loading := none, readyAt := s.ft + 1 }) s)))

/-- The trigger decision (R488 to R491): 28 FT after the RULE operation the trigger takes a place in the buffer, with
a slot of its channel's completion queue reserved, or it is refused and counted under its cause and in its till. The
causes of R491: a full buffer, a channel that is not open or has no free completion slot, a request with a command
open and one pending, one that is leaving, an unbound key without SUBMIT_OK. What counts toward a request's load is
log entry 53. -/
def Obligations.TriggersAreDecided : Prop :=
  ((∀ s p f j a g c u, p < 2 → (port s p).parse = [f] → f.decided = none → f.ended ≠ some false → f.rule = some (j, a) →
    a + 28 ≤ s.ft → g = rule s j → c = g.channel → (chan s c).st = 1 →
    u = modTill c (fun t => { t with triggers := sat32 (t.triggers + 1) }) s →
    (refuseCause u g f.key = none → Leaves (.triggerDecision p) s
      (modFrame p f.sfd (fun x => { x with decided := some true, decidedAt := s.ft })
        (reserve c 1 (modSpg (fun h => { h with buf := h.buf ++
          [{ port := p, rule := j, channel := c, key := f.key, tokens := [], sfd := f.sfd
             deadline := if g.budget = 0 then none else some (f.sfd + g.budget), bound := boundReq u c f.key }] }) u)))) ∧
    (∀ k, refuseCause u g f.key = some k → f.verdict = none → Leaves (.triggerDecision p) s
      (modFrame p f.sfd (fun x => { x with decided := some false }) (tillRefuse c 0x26 (bumpSat (0x00090010 + 4 * k) u)))))) ∧
  ((∀ s g k, 8 ≤ s.spg.buf.length → refuseCause s g k = some 0) ∧
  (∀ s g k, s.spg.buf.length < 8 → (chan s g.channel).st ≠ 1 ∨ cqFree (chan s g.channel) = 0 → refuseCause s g k = some 1) ∧
  (∀ s g k r n, s.spg.buf.length < 8 → (chan s g.channel).st = 1 → cqFree (chan s g.channel) ≠ 0 → leaving s = false →
    quiescing s (chan s g.channel).stall = false → boundReq s g.channel k = some (r, n) →
    ((side s r).pend.isSome = true ∨ 2 ≤ load_ s r → refuseCause s g k = some 2) ∧
    ((side s r).pend = none → load_ s r < 2 → (ent s r).st = .pausing ∨ (ent s r).st = .paused ∨ (ent s r).st = .closing → refuseCause s g k = some 3) ∧
    ((side s r).pend = none → load_ s r < 2 → (ent s r).st = .decode → refuseCause s g k = none)) ∧
  (∀ s g k, s.spg.buf.length < 8 → (chan s g.channel).st = 1 → cqFree (chan s g.channel) ≠ 0 → leaving s = false →
    quiescing s (chan s g.channel).stall = false → boundReq s g.channel k = none →
    refuseCause s g k = if g.submitOk then none else some 4))

/-- A frame's end (R477, R487): a frame that is too long, too short or fails its FCS is counted and dropped with its
trigger, and as a false wake if its early wake opened a domain; a good one is counted, goes to the host where no rule
matched it and the port copies such frames, and its accepted trigger awaits delivery. The internal command leaves the
parser 25 FT after the decision and 4 FT after the last token, and enters admission in buffer order. The key table
(R490) and rule enables (R485): BIND binds the channel and key to a live request of that channel; a bound pair answers
1, a handle of no live request 2, a request of another channel 3; UNBIND removes the binding, and answers 2 when there
is none; SPG_RULE_EN's bits enable loaded rules only. The instants of the counters and the answer of a full key table
are the model's choices: log entries 53 and 55. -/
def Obligations.VerdictsAndKeyTable : Prop :=
  ((∀ s p f d, p < 2 → d.length = 16 → (port s p).parse = [f] → f.verdict = none → f.matched = true →
    f.sfd + fecRx s p + byteFt s p (frameLen f) + 4 ≤ s.ft →
    (f.frame.length < 64 ∨ (f.frame.length ≤ 2048 ∧ f.fcsOk = false) →
      Leaves (.fcsVerdict p d) s (dropFrame p f.sfd (withdraw p f.sfd (falseWake f (portCount p 1 s))))) ∧
    (2048 < f.frame.length → Leaves (.fcsVerdict p d) s (dropFrame p f.sfd (withdraw p f.sfd (falseWake f (portCount p 2 s))))) ∧
    (64 ≤ f.frame.length → f.frame.length ≤ 2048 → f.fcsOk = true → slice f.frame 12 2 ≠ [0x88, 0x08] →
      (∃ j, f.first = some j ∧ (rule (portCount p 0 s) j).hostCopy = false) → f.ended ≠ some false → f.decided ≠ some false →
      Leaves (.fcsVerdict p d) s (modFrame p f.sfd (fun x => { x with verdict := some true }) (portCount p 0 s))) ∧
    (64 ≤ f.frame.length → f.frame.length ≤ 2048 → f.fcsOk = true → slice f.frame 12 2 ≠ [0x88, 0x08] → f.first = none →
      bit (rd (portCount p 0 s) (rPort p 0)) 3 = true → Leaves (.fcsVerdict p d) s
        (dropFrame p f.sfd (hostReceive p f.sfd 0xFF f.frame d (portCount p 0 s))))) ∧
  (∀ s p f, p < 2 → (port s p).parse = [f] → f.decided = some true → f.verdict = some true → f.ended = some true →
    f.decidedAt + 25 ≤ s.ft → f.lastEmit + 4 ≤ s.ft →
    Leaves (.triggerDeliver p) s (dropFrame p f.sfd (bumpSat 0x0009000C (modSpg (fun g => { g with buf := g.buf.map (fun t =>
      if t.port == p && t.sfd == f.sfd then { t with delivered := true, tokens := f.tokens } else t) }) s)))) ∧
  (∀ s t rest, s.spg.buf = t :: rest → t.delivered = true → isOn s dSEQ = true → s.admq.length < 32 → leaving s = false →
    trigWaits s t = false → Leaves .triggerEnterAdmission s (enterTrigger t (modSpg (fun g => { g with buf := rest }) s))) ∧
  (∀ s t rest, s.spg.buf = t :: rest → t.delivered = false → Leaves .triggerEnterAdmission s s)) ∧
  ((∀ s c k h r, (c, k) = bindKeyOf s → h = rd64 s 0x00090048 → r = hIdx h →
    (handleOk s 2 h = false → Leaves .spgBind s (bindStat 2 s)) ∧
    (handleOk s 2 h = true → hChip h = s.fab.chip → (ent s r).st = .decode → (ent s r).shadow = false → isHolder r = false →
      ((ent s r).channel ≠ c → Leaves .spgBind s (bindStat 3 s)) ∧
      ((ent s r).channel = c → (chan s c).st = 1 → (ent s r).orphan = false →
        ((boundReq s c k).isSome = true → Leaves .spgBind s (bindStat 1 s)) ∧
        (boundReq s c k = none → s.spg.keys.length < 4096 →
          Leaves .spgBind s (bindStat 0 (modSpg (fun g => { g with keys := g.keys ++ [(c, k, r, genOf s 2 r)] }) s)))))) ∧
  (∀ s c k, (c, k) = bindKeyOf s →
    ((boundReq s c k).isSome = true → Leaves .spgUnbind s
      (bindStat 0 (modSpg (fun g => { g with keys := g.keys.filter (fun x => !(x.1 == c && x.2.1 == k)) }) s))) ∧
    (boundReq s c k = none → Leaves .spgUnbind s (bindStat 2 s))) ∧
  (∀ s j v, j < 8 → Leaves (.spgRuleEnWrite j v) s { s with spg := { s.spg with rules := s.spg.rules.map (fun r =>
    if r.1 / 32 = j then (r.1, { r.2 with enabled := r.2.loaded && bit v.toNat (r.1 % 32) }) else r) } }))

/-- PTP_CMD.LOAD stages a mapping, which comes into force at its FT, at once when that has passed (R479); the
doorbells of the host queues set their tails (R502, R503); a port's link is what its PHY reports. A grant of a lease
(R499): with RESET it begins at START; without, START must follow what is left, and then LEFT grows; otherwise the
grant is refused with EGR_ERR bit 0. A write without GO changes nothing. A row whose condition does not hold changes
nothing: log entry 77. -/
def Obligations.PtpQueuesAndLeases : Prop :=
  ((∀ s m, m = ptpStaged s →
    (m.ft ≤ s.ft → Leaves .ptpCmdLoad s { s with spg := { s.spg with ptp := m, ptpNext := none } }) ∧
    (s.ft < m.ft → Leaves .ptpCmdLoad s { s with spg := { s.spg with ptpNext := some m } })) ∧
  (∀ s m, s.spg.ptpNext = some m →
    (m.ft ≤ s.ft → Leaves .ptpMappingActivate s { s with spg := { s.spg with ptp := m, ptpNext := none } }) ∧
    (s.ft < m.ft → Leaves .ptpMappingActivate s s)) ∧
  (∀ s p v, p < 2 → Leaves (.rxqDb p v) s (modPort p (fun q => { q with rxTail := v.toNat % 4096 }) s)) ∧
  (∀ s p v, p < 2 → Leaves (.txqDb p v) s (modPort p (fun q => { q with txTail := v.toNat % 4096 }) s)) ∧
  (∀ s p up, p < 2 → Leaves (.portLinkChange p up) s (modPort p (fun q => { q with link := up }) s))) ∧
  (∀ s n v l, n < 64 → l = lease s n →
    (bit v.toNat 31 = false → Leaves (.leaseGrant n v) s s) ∧
    (bit v.toNat 31 = true → bit v.toNat 30 = true →
      Leaves (.leaseGrant n v) s (modLease n (fun x => { x with next := x.start, left := v.toNat % 2 ^ 24 }) s)) ∧
    (bit v.toNat 31 = true → bit v.toNat 30 = false → l.start.toNat = (l.next.toNat + l.left) % 2 ^ 32 →
      Leaves (.leaseGrant n v) s (modLease n (fun x => { x with left := x.left + v.toNat % 2 ^ 24 }) s)) ∧
    (bit v.toNat 31 = true → bit v.toNat 30 = false → l.start.toNat ≠ (l.next.toNat + l.left) % 2 ^ 32 →
      Leaves (.leaseGrant n v) s (setBit 0x000A001C 0 s)))

/-- Loads of templates and map entries (R495): GO begins one load and reads 336 bytes, or 8 for each entry; a load is
committed whole, or not at all: EGR_LD_STAT then says BAD or DMA_ERR and template and map are as they were. A row
whose condition does not hold changes nothing: log entry 77. -/
def Obligations.EgressLoadsCommitWhole : Prop :=
  (∀ s a, s.spg.load = none → a = BitVec.ofNat 64 (rd64 s 0x000A0000) →
    Leaves .egrLdTemplate s (emit (.hostRead .pf a 336) (loadStat 3 (touch dEGR
      (modSpg (fun g => { g with load := some ⟨false, rdf s 0x000A0008 15 0, 1, a⟩ }) s)))) ∧
    Leaves .egrLdMap s (emit (.hostRead .pf a (8 * rdf s 0x000A0008 31 16)) (loadStat 3 (touch dEGR
      (modSpg (fun g => { g with load := some ⟨true, rdf s 0x000A0008 15 0, rdf s 0x000A0008 31 16, a⟩ }) s))))) ∧
  (∀ s, s.spg.load.isSome = true → Leaves .egrLdTemplate s s ∧ Leaves .egrLdMap s s) ∧
  (∀ s l u, s.spg.load = some l → isOn s dEGR = true → u = touch dEGR (modSpg (fun g => { g with load := none }) s) →
    Leaves (.egrLoadCommit none) s (loadStat 2 u) ∧
    (∀ b, l.isMap = false → b.length = 336 → l.index < 1024 → tmplBad b = false → Leaves (.egrLoadCommit (some b)) s
      (loadStat 0 (modSpg (fun g => { g with tmpls := put g.tmpls l.index (tmplOf b) {} }) u))) ∧
    (∀ b, l.isMap = false → b.length = 336 → 1024 ≤ l.index ∨ tmplBad b = true → Leaves (.egrLoadCommit (some b)) s (loadStat 1 u)) ∧
    (∀ b, l.isMap = true → b.length = 8 * l.count → l.count ≠ 0 → Leaves (.egrLoadCommit (some b)) s
      (loadStat 0 (modSpg (fun g => { g with emap := (List.range l.count).foldl (fun m i =>
        put m ((l.index + i) % 65536) (BitVec.ofNat 64 (u64 b (8 * i))) 0) g.emap }) u))))

/-- A frame of a template leaves its port's queue at its instant (R501): counted and sent when its generation is in
time; suppressed, counted and logged as 0x0604 while HALT_OUT is asserted (R541). A frame whose patch is due and that
has all its tokens is finished (R496); without one that REQUIRE_ALL asks for, it is suppressed. A host frame leaves
when no order frame waits and the wire is free (R502): its bytes, stamped in passing where the descriptor asks for it,
its descriptor written back with the SFD's FT, and the completion event; one longer than the port allows is not sent:
its completion says TOO_LONG, with a time the spec leaves open. What the length of a host frame counts is the model's
choice: log entry 56. -/
def Obligations.FramesLeave : Prop :=
  ((∀ s p f rest u, p < 2 → (port s p).q = f :: rest → f.ready ≤ s.ft → (port s p).busyUntil ≤ s.ft → (port s p).link = true →
    isOn s dEGR = true → u = touch dEGR (modPort p (fun q => { q with q := rest }) s) →
    (bit (rd s rHaltStat) 8 = true →
      Leaves (.egressTransmitStart p) s (settleFrame f.req f.gen f.acc (logC 0x0604 [] (portCount p 6 u)))) ∧
    (bit (rd s rHaltStat) 8 = false → f.deadline = none →
      Leaves (.egressTransmitStart p) s (settleFrame f.req f.gen f.acc (sendFrame p 4 f.frame u))) ∧
    (∀ d, bit (rd s rHaltStat) 8 = false → f.deadline = some d → s.ft ≤ d →
      Leaves (.egressTransmitStart p) s (settleFrame f.req f.gen f.acc (sendFrame p 4 f.frame u))) ∧
    (∀ d, bit (rd s rHaltStat) 8 = false → f.deadline = some d → d < s.ft → f.late = false →
      Leaves (.egressTransmitStart p) s (settleFrame f.req f.gen f.acc (lateDrop f.req f.gen f.acc (portCount p 6 u))))) ∧
  (∀ s j u, s.spg.jobs = [j] → j.at_ ≤ s.ft → isOn s dEGR = true → u = touch dEGR (modSpg (fun g => { g with jobs := g.jobs.erase j }) s) →
    (j.tmpl.requireAll = false → Leaves .egressPatch s (finishFrame j u)) ∧
    (∀ p, j.tmpl.requireAll = true → p ∈ j.tmpl.patches → (∀ k ∈ j.tokens, k.1 ≠ p.pos) →
      Leaves .egressPatch s (settleFrame j.req j.gen j.acc (bumpSat 0x000A0014 u))))) ∧
  (∀ s p d f g n u, p < 2 → d.length = 16 → (port s p).txHead ≠ (port s p).txTail → (port s p).q = [] → (port s p).busyUntil ≤ s.ft →
    (port s p).link = true → isOn s dEGR = true → n = u16 d 8 →
    g = (if bit (u8 d 10) 0 then oneStep s (fit n f) (u16 d 11) (u16 d 13) else fit n f) →
    u = touch dEGR (modPort p (fun q => { q with txHead := (q.txHead + 1) % txDepth s p }) s) →
    (n ≤ rdf s (rPort p 0) 15 4 → Leaves (.hostFrameTransmit p d f) s
      (devEvent 8 (emit (.hostWrite .pf (BitVec.ofNat 64 (rd64 s (rPort p 0x48) + 16 * (port s p).txHead))
        (leBytes 8 s.ft ++ slice d 8 7 ++ [1])) (sendFrame p 5 g u)))) ∧
    (rdf s (rPort p 0) 15 4 < n → Leaves (.hostFrameTransmit p d f) s
      (devEvent 8 (emit (.hostWrite .pf (BitVec.ofNat 64 (rd64 s (rPort p 0x48) + 16 * (port s p).txHead))
        (leBytes 8 (fresh u).1 ++ slice d 8 7 ++ [3])) (fresh u).2))))


/-! ### Links and fabric -/

/-- A link's training (R34, R39, R40): EN begins it at DETECT and clears it to OFF, an ACTIVE link leaving service
first; a far end moves DETECT to LOCK, in the mode configured then; symbol lock moves LOCK to DESKEW; deskew moves it
to MEASURE and the first echo leaves; an attempt over its limit begins again, and the third fails the link. RETRAIN
takes an ACTIVE link out of service, and a link in RETRAIN returns to DETECT in the next fast cycle. Echoes and HELLO
(R41, R50): an echo is answered 16 FT after it came, with the stamp it carries; a returned echo records its round trip
and the next leaves, until 64 are back; then, when every one lies within 1 FT of the mean, the latency is recorded and
HELLO is sent; otherwise they begin again. A HELLO records what the far end advertises: in ACTIVE the upstream is
chosen again (R94); in HELLO the two ends agree and the link is ACTIVE, or their modes differ and the link stays in
HELLO with MODE_MISMATCH and 0x0403 (R35). When ATTEMPTS is cleared, a lock lost in LOCK or DESKEW and the cycle of
RETRAIN are the model's choices: log entry 83. A row whose condition does not hold changes nothing: log entry 77. -/
def Obligations.LinksTrain : Prop :=
  ((∀ s p v, p < 8 → bit v.toNat 0 = true → (link s p).st = 0 → Leaves (.linkEnWrite p v) s
    (startTraining p (modLink p (fun l => { l with attempts := 0 }) (wr (rLink p 0) (v.toNat % 4) s)))) ∧
  (∀ s p v, p < 8 → bit v.toNat 0 = true → (link s p).st ≠ 0 → Leaves (.linkEnWrite p v) s (wr (rLink p 0) (v.toNat % 4) s)) ∧
  (∀ s p v u, p < 8 → bit v.toNat 0 = false → u = wr (rLink p 0) (v.toNat % 4) s → Leaves (.linkEnWrite p v) s
    (modLink p (fun l => { l with st := 0, nbr := none, attempts := 0 }) (if (link s p).st = 6 then leaveService p u else u))) ∧
  (∀ s p, p < 8 → (link s p).st = 1 → Leaves (.linkFarEndDetect p) s
    (modLink p (fun l => { l with st := 2, coded := bit (rd s (rLink p 0)) 1 }) s)) ∧
  (∀ s p, p < 8 → (link s p).st = 2 → Leaves (.linkSymbolLock p) s (modLink p (fun l => { l with st := 3 }) s)) ∧
  (∀ s p, p < 8 → (link s p).st = 3 → Leaves (.linkDeskewDone p) s
    (sendEcho p 0 (modLink p (fun l => { l with st := 4, echoes := [] }) s))) ∧
  (∀ s p, p < 8 → 1 ≤ (link s p).st → (link s p).st ≤ 4 → (link s p).trainAt + trainLimit s p ≤ s.ft →
    ((link s p).attempts < 2 → Leaves (.linkTrainingTimeout p) s
      (startTraining p (modLink p (fun l => { l with attempts := (link s p).attempts + 1 }) s))) ∧
    (2 ≤ (link s p).attempts → Leaves (.linkTrainingTimeout p) s
      (modLink p (fun l => { l with st := 8, attempts := 3 }) s))) ∧
  (∀ s p, p < 8 → (link s p).st = 5 → (link s p).mismatch = true → Leaves (.linkTrainingTimeout p) s s) ∧
  (∀ s p v, p < 8 → bit v.toNat 2 = true → (link s p).st = 6 → Leaves (.linkRetrainWrite p v) s (leaveService p s)) ∧
  (∀ s p, (link s p).st = 7 → retrainStep p s = startTraining p s)) ∧
  ((∀ s p msg count b, p < 8 → b = (ctlOf msg).body → msg.length = 64 → bit (u8 b 8) 0 = false → Leaves (.echo p msg count) s
    (forEach (ctlFlits (if s.fab.valid then farId s p else 0) (if s.fab.valid then s.fab.chip else 0)
      (ctlBytes { sub := 0x01, body := slice b 0 8 ++ [1, BitVec.ofNat 8 (u8 b 9)] ++ zeros 22, noids := !s.fab.valid }))
      (fun f => txFlit p 3 0 f (s.ft + 16)) s)) ∧
  (∀ s p msg count b l, p < 8 → b = (ctlOf msg).body → l = link s p → msg.length = 64 → bit (u8 b 8) 0 = true → l.st = 4 → l.echoes.length < 63 →
    u8 b 9 = l.echoes.length → Leaves (.echo p msg count) s
      (sendEcho p (l.echoes.length + 1) (modLink p (fun l => { l with echoes := l.echoes ++ [count - u64 b 0] }) s))) ∧
  (∀ s p msg count b l, p < 8 → b = (ctlOf msg).body → l = link s p → msg.length = 64 → bit (u8 b 8) 0 = true → l.st = 4 → l.echoes.length = 63 →
    u8 b 9 = 63 → Leaves (.echo p msg count) s (modLink p (fun l => { l with echoes := l.echoes ++ [count - u64 b 0] }) s)) ∧
  (∀ s p l, p < 8 → l = link s p → l.st = 4 → l.echoes.length = 64 → stable l.echoes = false →
    Leaves (.measureComplete p) s (sendEcho p 0 (modLink p (fun l => { l with echoes := [] }) s))) ∧
  (∀ s p l m u, p < 8 → l = link s p → l.st = 4 → l.echoes.length = 64 → stable l.echoes = true → m = (l.echoes.sum + 4) / 8 - 128 →
    u = modLink p (fun x => { x with st := 5, lat16 := m, hoplat :=
      if m ≤ 16 * (if l.coded then 118 else 29) then (if l.coded then 118 else 29) else cdiv m 16 }) s →
    Leaves (.measureComplete p) s (agree p (ctlLink p 0x02 (helloBody u p) u))) ∧
  (∀ s p msg b u, p < 8 → msg.length = 64 → b = (ctlOf msg).body →
    u = setLink p { link s p with nbr := some ⟨BitVec.ofNat 64 (u64 b 0), u8 b 8, bit (u8 b 9) 0,
      BitVec.ofNat 8 (u8 b 10), u8 b 11, u8 b 12 % 4⟩ } s →
    ((link s p).st = 6 → Leaves (.hello p msg) s (rechoose u)) ∧
    ((link s p).st = 4 ∨ (link s p).st = 5 → Leaves (.hello p msg) s (agree p u))) ∧
  (∀ s p n, (link s p).nbr = some n → (link s p).st = 5 →
    (n.coded ≠ (link s p).coded → (link s p).mismatch = false →
      agree p s = logC 0x0403 [] (modLink p (fun l => { l with mismatch := true }) s)) ∧
    (n.coded = (link s p).coded → n.serial ≠ s.serial → s.clk.ftValid = false →
      agree p s = rechoose (logC 0x0402 [] (modLink p (fun l => { l with st := 6, mismatch := false, attempts := 0, checked := false }) s)))))

/-- Losing lane lock or the keep-alive declares the link down (R42): 0x0401, the port's error bit, the fabric's
vector, and an ACTIVE link leaves service for DOWN, one in training fails its attempt. A packet that was incomplete
when its link went down is discarded; where flits of it had gone on, one closing flit with EOP and ABT follows them
(R90). Link integrity and credits (R37, R38, R54): a bad flit is counted, and asks for a replay unless one is awaited;
a replay frees what arrived and sends the rest again in order; the fifth failure of one flit takes the link down; an
acknowledgement frees flits and ends the count of failures; a credit returned lets held flits go. How long a receiver
discards is log entry 84; rank and LOCKED in holdover are log entry 85. -/
def Obligations.LinksReplayAndAreLost : Prop :=
  ((∀ s p u, p < 8 → u = devEvent 0 (setBit (rLink p 4) 4 (logC 0x0401 [] s)) →
    ((link s p).st = 6 → Leaves (.laneLockLoss p) s (leaveService p u) ∧ Leaves (.keepaliveTimeout p) s (leaveService p u)) ∧
    ((link s p).st = 4 ∨ (link s p).st = 5 →
      Leaves (.laneLockLoss p) s (failAttempt p (portOut p u)) ∧ Leaves (.keepaliveTimeout p) s (failAttempt p (portOut p u)))) ∧
  (∀ s p vc set x, p < 8 → vc < 4 → set < 2 → s.fab.parts = [x] → x.dead = 1 → x.vc = vc → x.set = set → x.port = p →
    (x.fwd = none → Leaves (.abandonedFlit p vc set) s (modFab (fun b => { b with parts := [{ x with dead := 2 }] }) s)) ∧
    (∀ q, x.fwd = some q → q < 8 → x.eopIn = true → Leaves (.abandonedFlit p vc set) s
      (sendPacket vc x.hdr.dst set [mkFlit { x.hdr with eop := true, abt := true, len := 0 } []] 0
        (modFab (fun b => { b with parts := [] }) s))))) ∧
  ((∀ s p u, p < 8 → (link s p).st = 6 → u = bumpSat (rLink p 0x10) s →
    (discards u p = false → Leaves (.flitCrcError p) s
      (emit (.linkSym p 0 0 0 0) (modLink p (fun l => { l with discarding := true, discardTill := s.ft + replayCost l.coded }) u))) ∧
    (discards u p = true → Leaves (.flitCrcError p) s u)) ∧
  (∀ s p n l, p < 8 → l = link s p → l.st = 6 → 1 ≤ n → Leaves (.replayRequest p n) s
    (forEach (l.replay.drop n) (fun q s => addWrap (rLink p 0x18) 1 (emit (.flit p (onLink l.coded q.flit)) s))
      (bumpSat (rLink p 0x0C) (setLink p { l with replay := l.replay.drop n, fails := 1 } s)))) ∧
  (∀ s p l, p < 8 → l = link s p → l.st = 6 → l.fails < 4 → Leaves (.replayRequest p 0) s
    (forEach l.replay (fun q s => addWrap (rLink p 0x18) 1 (emit (.flit p (onLink l.coded q.flit)) s))
      (bumpSat (rLink p 0x0C) (setLink p { l with fails := l.fails + 1 } s)))) ∧
  (∀ s p l, p < 8 → l = link s p → l.st = 6 → 4 ≤ l.fails → Leaves (.replayRequest p 0) s
    (linkDown p (setLink p { l with fails := l.fails + 1 } s))) ∧
  (∀ s p n u, p < 8 → 1 ≤ n → u = modLink p (fun l => { l with replay := l.replay.drop n, fails := 0 }) s →
    Leaves (.linkAck p n) s (pump p (link u p).txq.length u)) ∧
  (∀ s p vc set n u, p < 8 → vc < 4 → set < 2 → u = modLink p (fun l => { l with used := upd l.used (2 * vc + set) 0 (· - n) }) s →
    Leaves (.creditReturn p vc set n) s (pump p (link u p).txq.length u)))

/-- A whole flit on an ACTIVE link (R37, R45, R83) is counted and acknowledged, then goes on, or waits when it has to,
as one does that the AON logic does not take while LNK is not ON; a packet for LNK wakes it (R120). One with a bad
CRC, in direct mode, asks for a replay (R36), and every flit until the replay is discarded. A posted write of one
flit, in its stream's order (R70, R72, R77): the stream's next SEQ moves past it; without a cause it is applied to the
pond unit its header names, with its poison; with a cause it is not applied: the source gets a far fault and 0x0406 is
logged; one abandoned on the way is counted as lost (R90). A read request answers the unit it names (R70); a response
completes its read (R89). Activations for a request's step let the member go on (R18). When a packet is whole is log
entry 84; a read of lake data and the end of a poison mark are log entry 83. -/
def Obligations.FlitsAndPackets : Prop :=
  (∀ s p set f u, p < 8 → set < 2 → f.length = 80 → (link s p).st = 6 →
    u = when_ (!aonFlit (hdrOf f) f) (wakeAll 5 [dLNK])
      (emit (.linkSym p 1 0 0 1) (addWrap (rLink p 0x1C) 1 (modLink p (fun l => { l with discarding := false }) s))) →
    ((link s p).coded = true ∨ u16 f 14 = (crc16 (f.take 14 ++ f.drop 16)).toNat →
      (discards s p = false → (link u p).rxHeld = [] → mustWait u p set f = false → Leaves (.flitReceive p set f) s (consume p set f u)) ∧
      (discards s p = false → mustWait u p set f = true → Leaves (.flitReceive p set f) s
        (modLink p (fun l => { l with rxHeld := l.rxHeld ++ [(set, f)] }) u)) ∧
      (discards s p = true → Leaves (.flitReceive p set f) s s)) ∧
    ((link s p).coded = false → u16 f 14 ≠ (crc16 (f.take 14 ++ f.drop 16)).toNat → Leaves (.flitReceive p set f) s (flitCrcError p s))) ∧
  ((∀ s f h d (e : Nat → Nat → DstStream) (u : Nat → Nat → State), h = hdrOf f → f.length = 80 →
    d = look s.fab.dstStreams (dstKey h.src h.stall) {} → h.seq = d.next →
    e = (fun (n m : Nat) => { next := (h.seq + 1) % 65536, faults := if n = 0 then d.faults else (d.faults + 1) % 65536,
                              lost := (d.lost + m) % 65536, unacked := d.unacked + 1, oldest := d.oldest.or (some s.ft) }) →
    u = (fun (n m : Nat) => modFab (fun b => { b with dstStreams := put b.dstStreams (dstKey h.src h.stall) (e n m) {} }) s) →
    (h.abt = false → pwCause s h 0 1 = 0 → Leaves (.pw [f] 0) s (takeActs [f]
      { u 0 0 with pond := putBytes (u 0 0).pond (64 * h.ofs) ((payload f).take (h.len + 1)),
                   poison := put (u 0 0).poison h.ofs (if h.poison then 1 else 0) 0 })) ∧
    (∀ x k a, h.abt = false → pwCause s h x 1 = k → k ≠ 0 → a = faultArg (u k 0) h k → Leaves (.pw [f] x) s
      (logC 0x0406 [h.seq, h.src, h.stall] (sendFault k h.src h.stall h.dst h.seq
        (handleOf h.gen (handleChip (u k 0) h) h.stall h.kind h.index) h.ofs a.1 a.2))) ∧
    (∀ x, h.abt = true → Leaves (.pw [f] x) s (u 0 1))) ∧
  (∀ s f h, h = hdrOf f → f.length = 80 →
    (h.abt = false → Leaves (.rd [f]) s (sendPacket 1 h.src 0 [mkFlit
      { h with type := 3, vc := 1, dst := h.src, src := s.fab.chip, eop := true, poison := look s.poison h.ofs 0 != 0, ep := bit s.fab.cur 0, rsv := false }
      (lookBytes s.pond (64 * h.ofs) (h.len + 1))] 0 s)) ∧
    (h.abt = true → Leaves (.rd [f]) s s ∧ Leaves (.rdr [f]) s s)) ∧
  (∀ s f h x, h = hdrOf f → f.length = 80 → h.abt = false → s.fab.reads = [x] → x.dst = h.src →
    x.handle = BitVec.ofNat 64 (handleOf h.gen s.fab.chip h.stall h.kind h.index) →
    Leaves (.rdr [f]) s (modFab (fun b => { b with reads := [] }) s)))

/-- Acknowledgements (R72 to R74): due after 16 covered writes, or 64 FT after the oldest; a PWACK sends the last SEQ
covered with the fault and loss counts and restarts both; at its source, one ahead whose counts match acknowledges the
stream's writes, and one whose counts do not match waits. The writes held for a change of route go on once the last
flit of the old route has had its time (R87). Far faults (R80 to R82): a notice already among the last 256 is
discarded; a new one is accepted while FAB_FARQ has room, a read it names failing (R89), and held when it is full; a
write of FAB_FARQ_HEAD removes the entries up to it and lets held faults in, or is ignored when it would remove more
than there are. What a slot shows after it is consumed is the model's choice: log entry 57. PWACK's LEN and the
request a notice names are log entry 83. A row whose condition does not hold changes nothing: log entry 77. -/
def Obligations.PwackAndFarFaults : Prop :=
  ((∀ s c n d, c < 256 → n < 32 → d = look s.fab.dstStreams (dstKey c n) {} →
    (16 ≤ d.unacked → Leaves (.pwackSend c n) s
      (sendPacket 1 c 0 [mkFlit { type := 4, vc := 1, dst := c, src := s.fab.chip, stall := n, len := 5, ep := bit s.fab.cur 0 }
        (leBytes 2 ((d.next + 65535) % 65536) ++ leBytes 2 d.faults ++ leBytes 2 d.lost ++ zeros 58)] 0
        (modFab (fun b => { b with dstStreams := put b.dstStreams (dstKey c n) { d with unacked := 0, oldest := none } {} }) s))) ∧
    (∀ t, d.unacked < 16 → d.oldest = some t → s.ft < t + 64 → Leaves (.pwackSend c n) s s)) ∧
  (∀ s f h z a, h = hdrOf f → f.length = 80 → z = look s.fab.srcStreams (srcKey h.stall h.src) {} →
    a = ((u16 (payload f) 0 + 1) + 65536 - z.acked) % 65536 →
    (∀ w, 0 < a → a ≤ 32768 → w = { z with waiting := some (u16 (payload f) 0, u16 (payload f) 2, u16 (payload f) 4) } →
      Leaves (.pwack f) s (tryAck h.stall h.src
        (modFab (fun b => { b with srcStreams := put b.srcStreams (srcKey h.stall h.src) w {} }) s))) ∧
    (a = 0 → z.waiting = none → Leaves (.pwack f) s s)) ∧
  (∀ s n c z d, n < 32 → c < 256 → z = look s.fab.srcStreams (srcKey n c) {} → z.holdFor = some d →
    (streamQueued s n c = false → z.lastTx + d ≤ s.ft → Leaves (.routeHoldRelease n c) s (releaseHeld n c
      (modFab (fun b => { b with srcStreams := put b.srcStreams (srcKey n c) { z with holdFor := none } {} }) s))) ∧
    (streamQueued s n c = true ∨ s.ft < z.lastTx + d → Leaves (.routeHoldRelease n c) s s))) ∧
  ((∀ s pl (u : State → State), pl.length = 64 → u = (fun x => drainAll (tryAck (u8 pl 4 % 32) (u8 pl 5) x)) →
    (s.fab.farHist.contains (slice pl 1 23) = true → Leaves (.farFault pl) s (u s)) ∧
    (s.fab.farHist.contains (slice pl 1 23) = false → s.fab.farq.length < 256 → namesRead s pl = false →
      Leaves (.farFault pl) s (u (acceptFault pl s))) ∧
    (s.fab.farHist.contains (slice pl 1 23) = false → s.fab.farq.length < 256 → namesRead s pl = true →
      Leaves (.farFault pl) s (u (acceptFault pl (failRead (u8 pl 5) (BitVec.ofNat 64 (u64 pl 8)) s)))) ∧
    (s.fab.farHist.contains (slice pl 1 23) = false → 256 ≤ s.fab.farq.length →
      Leaves (.farFault pl) s (u (modFab (fun b => { b with farHeld := b.farHeld ++ [pl] }) s)))) ∧
  (∀ s v n, n = (v.toNat % 256 + 256 - s.fab.farqHead) % 256 →
    (n ≤ s.fab.farq.length → Leaves (.fabFarqHeadWrite v) s (drainAll (applyHeld s.fab.farHeld.length
      (modFab (fun b => { b with farqHead := v.toNat % 256, farq := b.farq.drop n }) s)))) ∧
    (s.fab.farq.length < n → Leaves (.fabFarqHeadWrite v) s s)))

/-- The other notices (R120, R271, R532, R535): WAKE opens the domains of its mask; a ROW_MASK before its effect FT
waits for it, then masks the request's row in its step, with 0x0802 when it came late; a CHIP_LOST about a chip
already lost, or this one, is ignored, a CYCLE_STOP ends the member's requests, any other declares the chip lost.
Route epochs (R85, R86): at the root a STAGED report is recorded and EPOCH_ARM follows the last; EPOCH_ARM arms the
staged table, which becomes active at its FT with 0x0408, or at once with 0x0409 when the FT has passed. The number of
an epoch is log entry 60. The hop latency of a route is log entry 83. A row whose condition does not hold changes
nothing: log entry 77. -/
def Obligations.NoticesAndEpochs : Prop :=
  ((∀ s pl, pl.length = 64 → Leaves (.wake pl) s (wakeAll 1 (wakeMask (u8 pl 2)) s)) ∧
  (∀ s pl, pl.length = 64 →
    (s.ft < u64 pl 16 → Leaves (.rowMask pl) s (await (dAt (u64 pl 16)) (.rowMask pl) s)) ∧
    (∀ u t x a h, a = u8 pl 1 → h = u64 pl 8 → u = (if u64 pl 16 < s.ft then logC 0x0802 [] s else s) → u64 pl 16 ≤ s.ft → s.steps = [t] →
      t.aisle = a → t.rows = [x] → x.req = hIdx h → x.gen = hGen h → Leaves (.rowMask pl) s (maskStep a t.num 0
        (modStep a t.num (fun t => { t with rows := t.rows.map (fun x =>
          if x.req == hIdx h && x.gen == hGen h then { x with live := false } else x) }) u)))) ∧
  (∀ s pl, pl.length = 64 →
    (u8 pl 1 = s.fab.chip ∨ s.fab.lost.contains (u8 pl 1) = true → Leaves (.chipLost pl) s s) ∧
    (u8 pl 1 ≠ s.fab.chip → s.fab.lost.contains (u8 pl 1) = false → u8 pl 3 ≠ 3 →
      Leaves (.chipLost pl) s (declareLost (u8 pl 1) (u8 pl 3) (u8 pl 2) s)) ∧
    (u8 pl 1 ≠ s.fab.chip → s.fab.lost.contains (u8 pl 1) = false → u8 pl 3 = 3 →
      Leaves (.chipLost pl) s (loseMember (u8 pl 1) 3 (postArmed 3 s))))) ∧
  ((∀ s m b, b = (ctlOf m).body →
    (isRoot s = true → Leaves (.staged m) s (armIfStaged (u16 b 0)
      (modFab (fun f => { f with reports := (f.reports ++ [u16 b 0 * 256 + u8 b 2]).dedup }) s))) ∧
    (isRoot s = false → Leaves (.staged m) s s)) ∧
  (∀ s m b u, b = (ctlOf m).body →
    u = modFab (fun f => { f with armed := some (u16 b 0, u64 b 8), epochAt := u64 b 8 }) (if s.fab.stagedNum = u16 b 0 then s
      else modFab (fun f => { f with stagedNum := u16 b 0, stagedTab := f.active }) s) →
    (s.ft ≤ u64 b 8 → Leaves (.epochArm m) s u) ∧
    (u64 b 8 < s.ft → Leaves (.epochArm m) s (commitEpoch (u16 b 0) 0x0409 u))) ∧
  (∀ s n t, s.fab.armed = some (n, t) → s.fab.stagedNum = n →
    (t ≤ s.ft → Leaves .epochCommit s (commitEpoch n 0x0408 s)) ∧ (s.ft < t → Leaves .epochCommit s s)))


/-! ### Discovery and clock -/

/-- Discovery at the root (R51, R65 to R68, R580): a START before a route image is active asks for one; once every
link has settled the root sends DISCOVER on every ACTIVE link with its own record first; the first REPORT of each
serial number is recorded; completion gives ids by serial number, the topology fingerprint and an ASSIGN for every
other chip; strap ids that cannot serve end it with DUP and 0x0407. A chip under discovery (R51, R65, R68, R584): it
answers every DISCOVER along its path reversed and forwards only the first of a number; an ASSIGN with its serial
number gives its id, another is ignored; the root sends its id to a recorded chip that has none. Strap ids are log
entry 83, a 257th chip is log entry 87. A row whose condition does not hold changes nothing: log entry 77. -/
def Obligations.DiscoveryAssignsIds : Prop :=
  ((∀ s, isRoot s = true →
    (s.fab.routeActive = false → Leaves .fabDiscStart s (modFab (fun b => { b with discWant := true, discBusy := true, discDone := false }) s)) ∧
    (s.fab.routeActive = true → Leaves .fabDiscStart s s)) ∧
  (∀ s u, isRoot s = true → s.fab.discWant = true → (∀ p, p < 8 → settled s p = true) →
    u = modFab (fun b => { b with discWant := false, discBusy := true, discNum := s.fab.discNum + 1, discAt := s.ft, chips := [{ serial := s.serial, path := [], pathLen := 0, strapCid := s.straps.cid, links := linkRecs s }] }) s →
    Leaves .discoveryBegin s (forEach ((List.range 8).filter (fun p => (link u p).st == 6)) (fun p t =>
      ctlOn p (farId t p) { sub := 0x10, mode := 1, pathLen := 1, hop := 0, path := withOut 0 0 p, body := leBytes 8 t.serial.toNat ++ leBytes 2 (s.fab.discNum + 1) } t) u)) ∧
  (∀ s m c ser ls, c = ctlOf m → ser = BitVec.ofNat 64 (u64 c.body 0) → isRoot s = true → s.fab.discBusy = true → u16 c.body 10 = s.fab.discNum % 65536 →
    ls = (List.range (min (u8 c.body 9) 8)).map (fun i => (u8 c.body (32 + 16 * i), BitVec.ofNat 64 (u64 c.body (32 + 16 * i + 1)),
      u8 c.body (32 + 16 * i + 9), u8 c.body (32 + 16 * i + 10), u16 c.body (32 + 16 * i + 12))) →
    (s.fab.chips.any (fun x => x.serial == ser) = false → s.fab.chips.length < 256 → Leaves (.report m) s (modFab (fun f => { f with
      chips := f.chips ++ [{ serial := ser, path := leBytes 24 c.path, pathLen := c.pathLen, strapCid := u8 c.body 8, links := ls }] }) s)) ∧
    (s.fab.chips.any (fun x => x.serial == ser) = true → Leaves (.report m) s s)) ∧
  (∀ s cs n (byStrap : Bool), isRoot s = true → s.fab.discBusy = true → s.fab.discWant = false → discClosed s = true ∨ s.fab.discAt + 1600000 ≤ s.ft →
    byStrap = bit (rd s 0x00080004) 1 →
    (byStrap = false ∨ badStraps s.serial s.fab.chips = none → cs = withIds byStrap s.serial s.fab.chips → n = cs.length → Leaves .discoveryComplete s
      (forEach (cs.filter (fun c => c.serial != s.serial)) (fun c t =>
          ctlToChip 0x12 c (leBytes 8 c.serial.toNat ++ [BitVec.ofNat 8 c.id] ++ leBytes 2 n ++ zeros 5 ++ leBytes 8 t.serial.toNat) t)
        (wr 0x0008000C (topoFp cs).toNat (modFab (fun f => { f with
          chips := cs, market := n, discBusy := false, discDone := true, valid := true
          chip := ((cs.find? (fun c => c.serial == s.serial)).map ChipRec.id).getD 0 }) s)))) ∧
    (∀ a b, byStrap = true → badStraps s.serial s.fab.chips = some (a, b) → Leaves .discoveryComplete s
      (logC 0x0407 [a.toNat % 2 ^ 32, a.toNat / 2 ^ 32, b.toNat % 2 ^ 32, b.toNat / 2 ^ 32]
        (setBit 0x00080008 2 (modFab (fun f => { f with discBusy := false }) s)))))) ∧
  ((∀ s p m c num path body (u : State → State), p < 8 → c = ctlOf m → c.pathLen ≠ 0 → num = u16 c.body 8 → path = withIn c.path (c.pathLen - 1) p →
    body = leBytes 8 s.serial.toNat ++ [BitVec.ofNat 8 s.straps.cid, BitVec.ofNat 8 (linkRecs s).length] ++ leBytes 2 num ++ zeros 20 ++
      ((linkRecs s).map (fun l => [BitVec.ofNat 8 l.1] ++ leBytes 8 l.2.1.toNat ++
        [BitVec.ofNat 8 l.2.2.1, BitVec.ofNat 8 l.2.2.2.1, 0] ++ leBytes 2 l.2.2.2.2 ++ zeros 2)).flatten →
    u = ctlOn p 0 { sub := 0x11, mode := 1, reverse := true, pathLen := c.pathLen, hop := c.pathLen - 1, path := path, body := body } →
    (isRoot s = true ∨ s.fab.discSeen = some num → Leaves (.discover p m) s (u s)) ∧
    (∀ v, isRoot s = false → s.fab.discSeen ≠ some num → c.pathLen < 32 →
      v = u (modFab (fun b => { b with discSeen := some num, upPort := some p }) s) → Leaves (.discover p m) s
      (forEach ((List.range 8).filter (fun q => q != p && (link v q).st == 6)) (fun q t =>
        ctlOn q (farId t q) { c with mode := 1, pathLen := c.pathLen + 1, hop := c.pathLen, path := withOut path c.pathLen q } t) v))) ∧
  (∀ s p m b, p < 8 → b = (ctlOf m).body →
    (u64 b 0 = s.serial.toNat → Leaves (.assign p m) s
      (modFab (fun f => { f with chip := u8 b 8, valid := true, market := u16 b 9, upPort := f.upPort.or (some p) }) s)) ∧
    (u64 b 0 ≠ s.serial.toNat → Leaves (.assign p m) s s)) ∧
  (∀ s p c, p < 8 → isRoot s = true → s.fab.discDone = true → s.fab.chips = [c] → c.serial ≠ s.serial →
    Leaves (.unassignedChipSeen p c.serial) s
      (ctlToChip 0x12 c (leBytes 8 c.serial.toNat ++ [BitVec.ofNat 8 c.id] ++ leBytes 2 s.fab.market ++ zeros 5 ++ leBytes 8 s.serial.toNat) s)))

/-- Rejoining and STALL_RESET (R537, R574, R575, R582, R583): a chip that has rebuilt its configuration sends REJOIN
to the root, and to the heads of its aisles where routes are active; a REJOIN takes the chip off the lost list, a head
whose member came back with an image empties its counts, and the root arms the next epoch; a STALL_RESET at an aisle's
head ends the aisle's requests and restores its counts for the member, at another member frees the aisle's shadows,
and means nothing to a chip outside the aisle. A row whose condition does not hold changes nothing: log entry 77. -/
def Obligations.RejoinAndStallReset : Prop :=
  (∀ s body hs u v, s.rst.rejoin = true → s.clk.ftValid = true → s.fab.valid = true → s.conf.present = true → s.rst.phase = 0 →
    body = leBytes 8 s.serial.toNat ++ [BitVec.ofNat 8 s.fab.chip] ++ zeros 7 ++ imgDigest s →
    hs = (((s.conf.aisles.filter (fun a => a.2.any (fun m => m.1 == s.fab.chip))).filterMap (fun a => a.2.head?.map Prod.fst)).dedup).filter
      (fun h => h != s.fab.chip && h != 0) →
    u = { s with rst := { s.rst with rejoin := false } } → v = (if isRoot s then u else ctlUp 0x22 0 body u) →
    (v.fab.routeActive = false → Leaves .rejoinSend s v) ∧
    (v.fab.routeActive = true → Leaves .rejoinSend s (forEach hs (fun h => ctlUp 0x22 h body) v))) ∧
  (∀ s, s.rst.rejoin = false → Leaves .rejoinSend s s) ∧
  (∀ s m c id u v, c = ctlOf m → id = u8 c.body 8 → u = modFab (fun f => { f with lost := f.lost.filter (· != id) }) s →
    v = (if allZero (slice c.body 16 48) then u else
      forEach (u.conf.aisles.filter (fun a => isHead u a.1 && a.2.any (fun m => m.1 == id))) (fun a s =>
        forEach (a.2.filter (fun m => m.1 == id)) (fun m s => { s with free := put s.free (m.1 * 32 + m.2) {} {} }) s) u) →
    (isRoot v = true → c.mode ≠ 2 → Leaves (.rejoin m) s
      (modFab (fun f => { f with rejoined := (f.rejoined ++ [id]).dedup }) (armEpoch (v.fab.cur + 1) v))) ∧
    (isRoot v = false → Leaves (.rejoin m) s v)) ∧
  (∀ s m b a u, b = (ctlOf m).body → a = u8 b 0 → u = dropAisleItems a (resetAisle a s) →
    (isHead s a = true → Leaves (.stallReset m) s
      { u with free := put u.free (u8 b 1 * 32 + u8 b 2) {} {}, steps := u.steps.filter (fun t => t.aisle != a) }) ∧
    (isHead s a = false → (∃ x ∈ chain s a, x.1 = s.fab.chip) → Leaves (.stallReset m) s (dropAisleItems a
      { (forEach ((s.rtb.filter (fun (p : Nat × Entry) => p.2.shadow && (aisleOf s p.2.stall) == some a && p.2.st != .paused)).map Prod.fst) freeShadow s) with
        steps := s.steps.filter (fun t => t.aisle != a) })) ∧
    (isHead s a = false → (∀ x ∈ chain s a, x.1 ≠ s.fab.chip) → Leaves (.stallReset m) s s))

/-- Following a clock (R96, R98, R99, R102, R105): a lock takes the chosen port as the source, advertises what changed
and asks for FT; the root's lock makes its FT valid at once; a departing upstream, or REFCLK lost at the root, means
holdover; in holdover a chip switches to the alternate, and REFCLK's return ends the root's. Holdover has limits
(R101, R102, R538): after HALT_HOLD it raises condition 2, once; after 50 ms it logs 0x0306 and the chip takes the
CLOCK_LOST reset. Before that neither happens. Fabric time (R106, R108 to R110): FT_REQ is answered with the time; the
first FT_SET from the upstream sets FT to the nearest FT; a later one more than 16 FT away resets the chip and a
smaller one slews it; on a slewing edge, one in 1,024 at most, FT advances by 0 or 2; FT_CHECK records the skew, and
more than 2 FT with neither end slewing is an error. A different tick setting is refused. Holdover's rank and the
answers to FT_REQ and a first FT_CHECK are the model's choices: log entry 85. A row whose condition does not hold
changes nothing: log entry 77. -/
def Obligations.ClockAndFabricTime : Prop :=
  ((∀ s, isRoot s = true → s.clk.refclk = true → s.clk.source ≠ 4 → s.clk.locked = false →
    Leaves .clockLocked s (clkChange (fun c => { c with source := 1, locked := true, rank := 0, ftValid := true }) s)) ∧
  (∀ s p, isRoot s = false → s.clk.up = some p → s.clk.source ≠ 4 → (link s p).st = 6 → s.clk.locked = false →
    Leaves .clockLocked s (ctlLink p 0x04 []
      (clkChange (fun c => { c with source := 2, locked := true, port := p, rank := rankBehind s p, uplat := (link s p).lat16 }) s))) ∧
  (∀ s, isRoot s = false → s.clk.source = 2 → Leaves .upstreamClockDepart s (enterHoldover s)) ∧
  (∀ s, isRoot s = true → Leaves .refclkLoss s (enterHoldover (modClk (fun c => { c with refclk := false }) s))) ∧
  (∀ s p, isRoot s = false → s.clk.source = 4 → s.clk.alt = some p → (clkOk s p).isSome = true →
    Leaves .holdoverSwitch s (ctlLink p 0x04 [] (logC 0x0301 [] (rechoose (clkChange (fun c => { c with
      source := 3, locked := true, port := p, rank := rankBehind s p, uplat := (link s p).lat16, up := some p, holdStart := none, holdHalted := false }) s))))) ∧
  (∀ s, isRoot s = true → s.clk.source = 4 → Leaves .refclkReturn s
    (logC 0x0301 [] (clkChange (fun c => { c with source := 1, locked := true, rank := 0, holdStart := none, holdHalted := false })
      (modClk (fun c => { c with refclk := true }) s)))) ∧
  (∀ s p m b u, p < 8 → b = (ctlOf m).body →
    u = rechoose (modLink p (fun l => { l with nbr := l.nbr.map (fun (n : Nbr) => { n with rank := u8 b 0, flags := BitVec.ofNat 8 (u8 b 1) }) }) s) →
    Leaves (.clkStatus p m) s (retryArm (if !isRoot u && u.clk.locked && (u.clk.source == 2 || u.clk.source == 3) && u.clk.port == p
      then clkChange (fun c => { c with rank := rankBehind u p }) u else u)))) ∧
  (∀ s h, s.clk.source = 4 → s.clk.holdStart = some h →
    (h + 80000000 ≤ s.ft → s.clk.holdLost = false →
      Leaves .holdoverTimeout s (takeReset 8 (logC 0x0306 [] (modClk (fun c => { c with holdLost := true }) s)))) ∧
    (s.ft < h + 80000000 → Leaves .holdoverTimeout s s) ∧
    (h + us (rdf s rHaltEn 23 8) ≤ s.ft → s.clk.holdHalted = false →
      Leaves .haltHoldExpire s (haltRaise 2 (modClk (fun c => { c with holdHalted := true }) s))) ∧
    (s.clk.holdHalted = true → Leaves .haltHoldExpire s s)) ∧
  ((∀ s p u, p < 8 → u = ctlLink p 0x05 (leBytes 8 s.ft ++ [BitVec.ofNat 8 (toTwos 8 s.clk.resid), BitVec.ofNat 8 s.straps.tick]) s →
    Leaves (.ftReq p) s (if u.clk.ftValid then sendCheck p u else u)) ∧
  (∀ s p m e b (x16 tgt corr : Int), p < 8 → b = (ctlOf m).body → isRoot s = false → s.clk.locked = true → s.clk.port = p →
    x16 = 16 * (u64 b 0 : Int) + sint 8 (u8 b 8) + ((link s p).lat16 : Int) → tgt = (x16 + 8) / 16 →
    corr = ((tgt.toNat + e : Nat) : Int) - s.ft →
    (u8 b 9 % 4 ≠ s.straps.tick → Leaves (.ftSet p m e) s (logC 0x0307 [] (modClk (fun c => { c with tickMismatch := true }) s))) ∧
    (u8 b 9 % 4 = s.straps.tick → s.clk.ftValid = false → Leaves (.ftSet p m e) s (sendChecks (logC 0x0304 []
      { modClk (fun c => { c with ftValid := true, resid := x16 - 16 * tgt, slew := 0, slewing := false }) s with ft := tgt.toNat + e }))) ∧
    (u8 b 9 % 4 = s.straps.tick → s.clk.ftValid = true → 16 < corr.natAbs → Leaves (.ftSet p m e) s (takeReset 8 (logC 0x0305 [] s))) ∧
    (u8 b 9 % 4 = s.straps.tick → s.clk.ftValid = true → corr.natAbs ≤ 16 → Leaves (.ftSet p m e) s (sendChecks (logC 0x0304 []
      (clkChange (fun c => { c with resid := x16 - 16 * tgt, slew := corr, slewing := 2 < corr.natAbs }) s))))) ∧
  (∀ s p m b k u, p < 8 → b = (ctlOf m).body → s.clk.ftValid = true →
    k = (16 * (s.ft : Int) + s.clk.resid - 16 * (u64 b 0 : Int) - sint 8 (u8 b 8) - ((link s p).lat16 : Int)).natAbs →
    u = wr rSkew (max (rd s rSkew) (min k 255)) s → (link u p).st ≠ 6 ∨ (link u p).checked = true →
    (k ≤ 32 → Leaves (.ftCheck p m) s u) ∧
    (32 < k → u.clk.slewing = false → (link u p).nbr = none → Leaves (.ftCheck p m) s
      (logC 0x0305 [] (modClk (fun c => { c with skewErr := true }) u)))) ∧
  (∀ s d,
    (s.clk.slew = 0 ∨ s.rst.aon < s.clk.slewNext → Leaves .slewStep s s) ∧
    (0 < s.clk.slew → s.clk.slewNext ≤ s.rst.aon → d = s.clk.slew - 1 → Leaves .slewStep s
      (clkChange (fun c => { c with slew := d, slewing := 2 < d.natAbs, slewNext := s.rst.aon + 1024 })
        { s with ft := s.ft + 2, rst := { s.rst with aon := s.rst.aon + 1 } })) ∧
    (s.clk.slew < 0 → s.clk.slewNext ≤ s.rst.aon → d = s.clk.slew + 1 → Leaves .slewStep s
      (clkChange (fun c => { c with slew := d, slewing := 2 < d.natAbs, slewNext := s.rst.aon + 1024 })
        { s with rst := { s.rst with aon := s.rst.aon + 1 } }))))


/-! ### Power and timers -/

/-- PWR_REQ (R113, R125, R127): a write of ERR clears it; without GO the target is only stored; a target below the
lowest state in service, or of no domain, sets ERR; one that meets a transition is held; another is performed.
Transitions (R114 to R118, R120): none ends before its time; at its end OFF or RET lose their state; OFF to ON reloads
for the time of R116 before the domain is usable; a cluster's reload fences the cores that fail it; a wake from a
recorded source opens the domain, and one of the device's own opens a domain that is not ON. What a domain loses in
RET and OFF is log entry 86; BUSY during a reload is log entry 85. A row whose condition does not hold changes
nothing: log entry 77. -/
def Obligations.DomainsChangeState : Prop :=
  (∀ s v d q u, d = bits v.toNat 3 0 → q = bits v.toNat 5 4 →
    u = (if bit v.toNat 7 then clrBit rPwrReq 7 (wrf rPwrReq 5 0 (v.toNat % 64) s) else wrf rPwrReq 5 0 (v.toNat % 64) s) →
    (bit v.toNat 6 = false → Leaves (.pwrReq v) s u) ∧
    (bit v.toNat 6 = true → 12 ≤ d → Leaves (.pwrReq v) s (setBit rPwrReq 7 u)) ∧
    (bit v.toNat 6 = true → floorState u d < q → Leaves (.pwrReq v) s (setBit rPwrReq 7 u)) ∧
    (bit v.toNat 6 = true → reqRefused u d q = false → (dom u d).done.isSome = true ∨ (dom u d).reload.isSome = true →
      Leaves (.pwrReq v) s (modDom d (fun x => { x with held := some (PState.ofNum q) }) u)) ∧
    (bit v.toNat 6 = true → reqRefused u d q = false → (dom u d).done = none → (dom u d).reload = none → (dom u d).via = none →
      Leaves (.pwrReq v) s (startMove d (PState.ofNum q) u))) ∧
  ((∀ s d t, d < 12 → (dom s d).done = some t → s.ft < t → Leaves (.pwrTransitionComplete d) s s) ∧
  (∀ s d t r u, d < 12 → (dom s d).done = some t → t ≤ s.ft →
    r = (if (dom s d).st = .on ∧ (dom s d).src = .off then (if s.rst.phase ≠ 0 then releaseReload s.rst.cold d else reloadFt d) else 0) →
    u = modDom d (fun x => { x with done := none, begun := none, reload := if r = 0 then none else some (t + r) }) s →
    ((dom s d).st = .on ∨ (dom s d).st = .cg → Leaves (.pwrTransitionComplete d) s (settleDom d u)) ∧
    ((dom s d).st = .off → Leaves (.pwrTransitionComplete d) s (settleDom d (offLoss d u))) ∧
    ((dom s d).st = .ret → Leaves (.pwrTransitionComplete d) s (settleDom d (retLoss d u)))) ∧
  (∀ s d t l, d < 4 → l.all (fun p => decide (p < 68)) = true → (dom s d).reload = some t → t ≤ s.ft → repairing s d = false →
    Leaves (.domainReloadComplete d l) s (settleDom d (forEach (l.filter (fun p => p / 17 == d && p < 68)) (fun p => fenceCore p 3)
      (modDom d (fun x => { x with reload := none }) s)))) ∧
  (∀ s t, (dom s dCCR).reload = some t → t ≤ s.ft → repairing s dCCR = false →
    Leaves (.domainReloadComplete dCCR []) s (settleDom dCCR (ccReload (modDom dCCR (fun x => { x with reload := none }) s)))) ∧
  (∀ s d t, d < 12 → (dom s d).reload = some t → s.ft < t → Leaves (.domainReloadComplete d []) s s) ∧
  (∀ s d src, d < 12 → src < 6 → Leaves (.domainWake d src) s (wakeAll src [d] s)) ∧
  (∀ s d, (dom s d).done = none → (dom s d).via = none → (dom s d).held = none → heldOff s d = false → (dom s d).st ≠ .on →
    wakeDom d s = startTrans d .on (modDom d (fun x => { x with idle := 0, worked := true }) s)))

/-- Idle timers and the quiet count (R111, R118, R124, R125, R360, R361): each tick boundary counts once; a domain
idle for IDLE_TICKS ticks without work moves to TARGET, no lower than FLOOR and its lowest state in service; an
IDLE_TICKS of 0 never moves it; 64 quiet boundaries release every waiter with the deadlock bit, 0x0D01 and the count.
Thermal duty (R129 to R131): a reading that leaves the level alone records the hottest sensor; one that changes it
also sets the duty, logs 0x0201, signals the host and interrupts the control core; level 3 raises HALT condition 3; 10
°C above TMAX, once, the chip takes its thermal reset with 0x0204. A row whose condition does not hold changes
nothing: log entry 77. -/
def Obligations.IdleTimersAndThermalDuty : Prop :=
  ((∀ s u, s.ft % tickLen s = 0 → s.wks.tickAt ≠ some s.ft → u = forEach (List.range 12) idleTick s →
    Leaves .tickBoundary s (modWks (fun w => { w with tickAt := some u.ft, quiet := if quietNow u then min 64 (w.quiet + 1) else 0 }) u)) ∧
  (∀ s, s.ft % tickLen s ≠ 0 ∨ s.wks.tickAt = some s.ft → Leaves .tickBoundary s s) ∧
  (∀ s d p q, d < 12 → p = rd s (rPolicy d) → q = min (min (bits p 17 16) (bits p 19 18)) (floorState s d) →
    (bits p 15 0 ≠ 0 → bits p 15 0 ≤ (dom s d).idle → (dom s d).done = none → (dom s d).reload = none → (dom s d).via = none →
      domWork s d = false → s.rst.phase = 0 → (dom s d).st.num < q →
      Leaves (.idleTimerExpire d) s (modDom d (fun x => { x with byTimer := true }) (startMove d (PState.ofNum q) s))) ∧
    (bits p 15 0 = 0 ∨ domWork s d = true → Leaves (.idleTimerExpire d) s s)) ∧
  (∀ s, s.wks.quiet < 64 → Leaves .quietDeadlock s s) ∧
  (∀ s ws ps u, 64 ≤ s.wks.quiet → ws = s.wks.waiters → ps = s.wks.pool.filter (fun p => p.2.st == .parked) →
    u = modWks (fun w => { w with waiters := [], quiet := 0 }) (forEach ps (fun p => unpark p.1 true) (forEach ws (fun w => endWait w.1 1) s)) →
    Leaves .quietDeadlock s (bumpSat 0x000E1204 (logC 0x0D01 [maskOf (ws.map Prod.fst), ps.length] (setBit 0x000E1200 31 u))))) ∧
  (∀ s t m l u x, t.length = 8 → m = t.foldl max (t.headD 0) → l = nextLevel s (rdf s rTherm 1 0) m →
    u = wrf rTherm 15 8 (toTwos 8 m) (wrf rTherm 1 0 l s) →
    x = callback 5 (2 ^ 32 - 1) (ccInt 3 (devEvent 5 (logC 0x0201 [] (wrf rDuty 8 4 (dutyCores l) (wrf rDuty 2 0 (dutyRun l) u))))) →
    (l = rdf s rTherm 1 0 → m < tmax u + 10 → u.rst.thermalWait = false → Leaves (.thermalSample t) s u) ∧
    (l ≠ rdf s rTherm 1 0 → l ≠ 3 → m < tmax x + 10 → x.rst.thermalWait = false → Leaves (.thermalSample t) s x) ∧
    (∀ y, l ≠ rdf s rTherm 1 0 → l = 3 → y = haltRaise 3 x → m < tmax y + 10 → y.rst.thermalWait = false →
      Leaves (.thermalSample t) s y) ∧
    (∀ z, l = rdf s rTherm 1 0 → tmax u + 10 ≤ m → sint 8 (rdf s rTherm 15 8) < tmax u + 10 →
      z = takeReset 9 (logC 0x0204 [] u) → z.rst.thermalWait = false → Leaves (.thermalSample t) s z))

/-- A tick processes the four lists once (R351, R352), and the action of the oldest processed entry is taken by the
command of its kind alone: PREWARM opens its domains (R126), TIMED_WORK readies its item, or parks it where its flag
is not posted, or finds the slot stale (R334), FW_TIMER posts its flag and calls the modules armed for it (R349).
DLY_CMD and EVT_POST (R348, R350, R354, R356, R359): lists 0 and 1 and kinds that a list does not take are refused
with status 2; a full list with 1; an entry is inserted in order and its id answered; REMOVE takes the entry of an id,
or answers 3; a PF write of EVT_POST acts on a flag armed for it and otherwise sets UNARMED. A firmware-tracked
request's timer is log entry 87. A row whose condition does not hold changes nothing: log entry 77. -/
def Obligations.DelayListsAndFlags : Prop :=
  ((∀ s, s.ft % tickLen s = 0 → s.wks.dly.last ≠ some s.ft →
    Leaves .delayListProcess s (modDly (fun d => { d with last := some s.ft }) (processFw (forEach (List.range 4) processList s)))) ∧
  (∀ s, s.ft % tickLen s ≠ 0 ∨ s.wks.dly.last = some s.ft → Leaves .delayListProcess s s) ∧
  (∀ s e r u, s.wks.dly.fired = e :: r → u = modDly (fun d => { d with fired := r }) s →
    (e.kind = 5 → Leaves .prewarm s (wakeAll 3 (setBits 12 (bits e.arg.toNat 11 0)) u)) ∧
    (e.kind ≠ 5 → Leaves .prewarm s s) ∧
    (∀ k, e.kind = 6 → k = bits e.arg.toNat 11 0 →
      ((item u k).st = .timed → Leaves .timedWork s
        (modItem k (fun i => { i with st := if i.wait && !flagOpen u i.waitFlag then .parked else .ready }) u)) ∧
      ((item u k).st ≠ .timed → Leaves .timedWork s (setBit 0x000E0000 13 u))) ∧
    (∀ f, e.kind = 8 → f = bits e.arg.toNat 9 0 → Leaves .fwTimer s
      (forEach ((postFlag f u).conf.modules.filter (fun m => m.2.st == 1 && m.2.flags.contains f)) (fun m => callModule m.1 3) (postFlag f u))))) ∧
  ((∀ s v l, l = bits v.toNat 1 0 → bit v.toNat 31 = true →
    (l < 2 → Leaves (.dlyInsert v) s (dlyStatus 2 s) ∧ Leaves (.dlyRemove v) s (dlyStatus 2 s)) ∧
    (2 ≤ l → 8192 ≤ (dlyList s.wks.dly l).length → Leaves (.dlyInsert v) s (dlyStatus 1 s)) ∧
    (∀ w1 e, 2 ≤ l → (dlyList s.wks.dly l).length < 8192 → w1 = rd s 0x000F0044 →
      e = ⟨expandFt 48 (rd s 0x000F0040 + bits w1 15 0 * 2 ^ 32) s.ft, bits w1 23 16, false, BitVec.ofNat 64 (rd64 s 0x000F0048), dlyId s.wks.dly l⟩ →
      (kindAllowed l e.kind = true → Leaves (.dlyInsert v) s
        (wrf rDlyResult 12 0 e.id (dlyStatus 0 (modDly (fun d => setDlyList l (dlySorted e (dlyList d l)) d) s)))) ∧
      (kindAllowed l e.kind = false → Leaves (.dlyInsert v) s (dlyStatus 2 s))) ∧
    (∀ id, 2 ≤ l → id = bits v.toNat 28 16 →
      (∀ e ∈ dlyList s.wks.dly l, e.id = id → Leaves (.dlyRemove v) s
        (dlyStatus 0 (modDly (fun d => setDlyList l ((dlyList d l).filter (fun e => e.id != id)) d) s))) ∧
      ((∀ e ∈ dlyList s.wks.dly l, e.id ≠ id) → Leaves (.dlyRemove v) s (dlyStatus 3 s)))) ∧
  (∀ s f, f < 1024 →
    (armOf s f = 1 → Leaves (.evtPost f) s (postFlag f s) ∧ Leaves (.evtClear f) s (clearFlag f s)) ∧
    (armOf s f ≠ 1 → Leaves (.evtPost f) s (setBit 0x000E1200 30 s) ∧ Leaves (.evtClear f) s (setBit 0x000E1200 30 s))))


/-! ### Cores and the control core -/

/-- Dispatch (R333, R334, R336 to R338, R347, R518): a READY item takes the first idle eligible core of the tiers, or
joins a list; with every row masked it is dropped; with no core left its rows end. An idle core takes the first item
of its cluster's lists, then the others'. WKS_SUBMIT_GO creates an item in the lowest free slot, or answers bit 31. A
kernel runs (R339, R343 to R345, R368, R369, R378): it starts once its dispatch time is over and its window is held; a
window it lacks is filled first, and it starts when the fill completes; it completes within twice its BOUND by writing
its output with its adapter's share, posting its event and going to RETAINED, and its step goes on. The head set and
the way of activations are the model's choices: log entry 87. A row whose condition does not hold changes nothing: log
entry 77. -/
def Obligations.WorkItemsRun : Prop :=
  ((∀ s k i, k < 4096 → i = item s k → i.st = .ready → i.list = none → i.hold = false →
    (∀ a, i.rowMask ≠ 0 ∨ i.loose = true → hasCore s i = true → tierCore s i = some a → Leaves (.workItemReady k) s (dispatch k a s)) ∧
    (i.rowMask ≠ 0 ∨ i.loose = true → hasCore s i = true → tierCore s i = none → Leaves (.workItemReady k) s
      (modWks (fun w => { w with joins := w.joins + 1 }) (modItem k (fun x => { x with
        list := (homeOf s i).or ((lowest 64 (fun a => owns s i.stall a && usable s a)).map (· / 16)), order := s.wks.joins }) s))) ∧
    (i.rowMask = 0 → i.loose = false → Leaves (.workItemReady k) s (dropItem k s)) ∧
    (i.rowMask ≠ 0 ∨ i.loose = true → hasCore s i = false → Leaves (.workItemReady k) s (endItemRows k s))) ∧
  (∀ s k, k < 4096 → (item s k).st ≠ .ready → Leaves (.workItemReady k) s s) ∧
  (∀ s p a, p < 68 → addrOf s p = some a →
    (∀ k, coreFree s a = true → (clusterOrder (a / 16)).findSome? (fromLists s a) = some k →
      ((item s k).rowMask ≠ 0 ∨ (item s k).loose = true → Leaves (.coreIdle p) s (dispatch k a s)) ∧
      ((item s k).rowMask = 0 → (item s k).loose = false → Leaves (.coreIdle p) s (dropItem k s))) ∧
    (coreFree s a = false → Leaves (.coreIdle p) s s)) ∧
  (∀ s v i, i = itemOf (submitBytes s) s.ft →
    (bit v.toNat 0 = false → Leaves (.wksSubmitGo v) s s) ∧
    (bit v.toNat 0 = true → poolFits s i.stall 1 = false → Leaves (.wksSubmitGo v) s (wr 0x000E0140 (2 ^ 31) s)) ∧
    (∀ k, bit v.toNat 0 = true → poolFits s i.stall 1 = true → lowest 4096 (fun k => (item s k).st == .free) = some k →
      Leaves (.wksSubmitGo v) s (wr 0x000E0140 k (setItem k { i with st := bornAs s i, list := none } s)))) ∧
  (∀ s, s.wks.waiting = [] → Leaves .poolSlotFree s s) ∧
  (∀ s w i, s.wks.waiting = [w] → poolFits s (w.2.2.1.headD {}).stall w.2.2.1.length = true → w.2.2.1 = [i] →
    Leaves .poolSlotFree s (placeItem i (wr (rWks 0) (sat32 (rd s (rWks 0) + (s.ft - w.2.2.2))) (modWks (fun x => { x with waiting := x.waiting.erase w }) s))).2)) ∧
  ((∀ s p k g m, p < 68 → (core s p).item = some k → (core s p).started = none → (core s p).filling = none → (core s p).startAt ≤ s.ft →
    isOn s (p / 17) = true → g = (kernel s (item s k).kernel).tag → m = (item s k).kernel / 256 →
    (g = 0 ∨ (core s p).windows.any (fun w => w.tag == g) = true → Leaves (.kernelStart p) s (startKernel p g s)) ∧
    (g ≠ 0 → (core s p).windows.any (fun w => w.tag == g) = false → (model s m).pinned = true →
      Leaves (.kernelStart p) s (modCore p (fun c => { c with filling := some g, startAt := s.ft + cdiv (windowBytes s m g) 512 }) s)) ∧
    (g ≠ 0 → (core s p).windows.any (fun w => w.tag == g) = false → (model s m).pinned = false →
      (∀ x ∈ s.wks.cores, x.2.filling = none) → Leaves (.kernelStart p) s (bumpSat (win (item s k).stall 0x410)
        (modCore p (fun c => { c with filling := some g, startAt := s.ft + cdiv (windowBytes s m g) 512 }) s)))) ∧
  (∀ s p, p < 68 → (core s p).item = none → Leaves (.kernelStart p) s s ∧ (∀ o l, Leaves (.kernelComplete p ⟨o, l⟩) s s) ∧
    Leaves (.windowFillComplete p) s s ∧ Leaves (.watchdogTrip p) s s) ∧
  (∀ s p k g m n, p < 68 → (core s p).item = some k → (core s p).filling = some g → (core s p).startAt ≤ s.ft → m = (item s k).kernel / 256 →
    n = windowBytes s m g → Leaves (.windowFillComplete p) s (startKernel p g
      (modCore p (fun c =>
        { c with windows := ⟨g, n, (model s m).pinned, s.ft, windowData s (item s k).stall m g n⟩ :: makeRoom c.windows.length n c.windows }) s))) ∧
  (∀ s p o l k t i u v, p < 68 → (core s p).item = some k → (core s p).started = some t → i = item s k →
    s.ft ≤ t + 2 * (kernel s i.kernel).bound → i.rowMask ≠ 0 →
    u = { s with pond := putBytes s.pond (64 * i.out) ((kernelOut s i o l).take (64 * i.outLen)) } →
    v = modCore p (fun c => { c with item := none, started := none }) (if poisonedIn s i then taint i u else u) →
    (i.cyc = false → i.loose = false → Leaves (.kernelComplete p ⟨o, l⟩) s (advance i.aisle i.step
      (repairCycle (when_ i.post (postFlag i.event) (touch (p / 17) (modItem k (fun i => { i with st := .retained }) v)))))) ∧
    (i.cyc = true → i.loose = false → Leaves (.kernelComplete p ⟨o, l⟩) s (advance i.aisle i.step
      (repairCycle (when_ i.post (postFlag i.event) (touch (p / 17) (freeItem k v)))))) ∧
    (i.loose = true → Leaves (.kernelComplete p ⟨o, l⟩) s
      (repairCycle (when_ i.post (postFlag i.event) (touch (p / 17) (freeItem k v)))))))

/-- Fencing (R342, R513, R514, R516): at twice the BOUND the watchdog counts and fences the core with cause 2, never
before; uncorrectable ECC in the core's store fences it with cause 1; a fenced core stays fenced, silently. Job faults
and repair (R522 to R528): a fault is logged under its code and counted, and the requests of its rows, or the holders
of the page, are torn down, a prefix node of the page with them; on a Fixed-cycle chip the cycle stops. A repair is
refused while one is under way, or of a core a Fixed-cycle plan uses; otherwise the cluster's lists move away, 0x0E04
is logged and BUSY is set; at its end the fenced cores that pass are back, those that fail are fenced, and 0x0E06 is
logged. What a kernel computes is log entry 78. A row whose condition does not hold changes nothing: log entry 77. -/
def Obligations.CoresFaultAndAreRepaired : Prop :=
  ((∀ s p k t, p < 68 → (core s p).item = some k → (core s p).started = some t →
    (t + 2 * (kernel s (item s k).kernel).bound ≤ s.ft → Leaves (.watchdogTrip p) s (repairCycle (fenceCore p 2 (bumpSat rCoreWdt s)))) ∧
    (s.ft < t + 2 * (kernel s (item s k).kernel).bound → Leaves (.watchdogTrip p) s s)) ∧
  (∀ s p, p < 68 → (core s p).fenced = false → Leaves (.coreStoreEcc p) s (repairCycle (fenceCore p 1 s))) ∧
  (∀ s p, p < 68 → (core s p).fenced = true → s.wks.repair = none → Leaves (.coreStoreEcc p) s s)) ∧
  ((∀ s k sl rows pg u, sl < 4096 → (∀ r ∈ rows, r < 64) → pg < 16384 →
    u = bumpSat 0x000D0020 (logEv (jobCode k) (item s sl).stall [] s) →
    (∀ rs, k ≠ .pondEcc → rs = rowReqs u (item s sl) (if rows.isEmpty then (item s sl).rowMask else BitVec.ofNat 64 (maskOf rows) &&& (item s sl).rowMask) →
      (isFixed u = false → Leaves (.jobFault k sl rows pg) s (forEach rs tearDown u)) ∧
      (isFixed u = true → Leaves (.jobFault k sl rows pg) s (stopCycle u))) ∧
    (∀ rs v, k = .pondEcc → rs = (u.rtb.filter (fun p => p.2.st != .free && p.2.pages.any (fun g => g.1 == pg))).map Prod.fst →
      v = (match nodeOfPage u pg with | some n => modNode n (fun x => { x with valid := false }) u | none => u) →
      isFixed v = false → Leaves (.jobFault k sl rows pg) s (forEach rs tearDown v))) ∧
  (∀ s v c (busy : Bool), c = bits v.toNat 1 0 →
    busy = (isFixed s && (activePlan s).any (fun g => (List.range 17).any (fun i => bit g.cores.toNat (17 * c + i)))) →
    (bit v.toNat 31 = false → Leaves (.coreRepair v) s s) ∧
    (bit v.toNat 31 = true → s.wks.repair.isSome = true → Leaves (.coreRepair v) s (wrf rRepairStat 1 0 1 s)) ∧
    (bit v.toNat 31 = true → s.wks.repair = none → busy = true → Leaves (.coreRepair v) s (wrf rRepairStat 1 0 2 s)) ∧
    (bit v.toNat 31 = true → s.wks.repair = none → busy = false → Leaves (.coreRepair v) s
      (repairCycle (moveLists c (logC 0x0E04 [] (modWks (fun w => { w with repair := some (c, 0) })
        (setBit rRepairStat 2 (wrf rRepairStat 1 0 0 s)))))))) ∧
  (∀ s l c t u v mine good, s.wks.repair = some (c, 1) → (dom s c).reload = some t → t ≤ s.ft → mine = (List.range 17).map (fun i => 17 * c + i) →
    good = mine.filter (fun p => (core s p).fenced && !l.contains p) →
    u = forEach good unfence (modWks (fun w => { w with repair := none }) (modDom c (fun x => { x with reload := none, begun := none }) s)) →
    v = forEach (mine.filter (fun p => l.contains p && !(core u p).fenced)) (fun p => fenceCore p 3) u →
    Leaves (.repairComplete l) s (settleDom c (logC 0x0E06 [good.length] (wrf rRepairStat 8 4 good.length (clrBit rRepairStat 2 v))))) ∧
  (∀ s l, s.wks.repair = none → Leaves (.repairComplete l) s s))

/-- The event and bulk instructions (R357, R358, R382, R390, R391, R393): EPOST and ECLR change the flag; EWAIT goes
on at an open flag and otherwise stops the thread among the waiters; a bulk instruction of no bytes is over at once,
one with a bad operand faults its thread, another runs unit by unit. A unit of BMOVE moves 64 bytes, of BSCAN ends at
the first word that matches, of BCRC goes into the CRC-32C; a lake error faults the thread. A stopped thread executes
nothing. G3 0 and a region of 0 are the model's choices: log entry 46. A row whose condition does not hold changes
nothing: log entry 77. -/
def Obligations.ControlCoreInstructions : Prop :=
  (∀ s t f, t < 4 → f < 1024 → threadRuns s t = true →
    Leaves (.epost t f) s (touch dCCR (postFlag f (retire t s))) ∧ Leaves (.eclr t f) s (touch dCCR (clearFlag f (retire t s))) ∧
    (flagOpen s f = true → Leaves (.ewait t f) s (endWait t 0 s)) ∧
    (flagOpen s f = false → Leaves (.ewait t f) s
      (modWks (fun w => { w with waiters := w.waiters ++ [(t, f)] }) (modThread t (fun x => { x with st := 1 }) s)))) ∧
  (∀ s t f, t < 4 → f < 1024 → threadRuns s t = false → Leaves (.epost t f) s s ∧ Leaves (.eclr t f) s s ∧ Leaves (.ewait t f) s s ∧
    Leaves (.bmove t) s s ∧ Leaves (.bscan t) s s ∧ Leaves (.bcrc t) s s) ∧
  (∀ s t, t < 4 → threadRuns s t = true → (thread s t).bulk = none →
    (greg s t 3 = 0 → Leaves (.bmove t) s (retire t s) ∧ Leaves (.bscan t) s (retire t (setG t 2 0 s)) ∧ Leaves (.bcrc t) s (retire t s)) ∧
    (greg s t 3 ≠ 0 → bulkFault s t 0 = true → Leaves (.bmove t) s (threadFault t 2 s)) ∧
    (greg s t 3 ≠ 0 → bulkFault s t 0 = false → Leaves (.bmove t) s (touch dCCR (modThread t (fun x => { x with bulk := some ⟨0⟩ }) s))) ∧
    (greg s t 3 ≠ 0 → bulkFault s t 1 = false → Leaves (.bscan t) s (touch dCCR (modThread t (fun x => { x with bulk := some ⟨1⟩ }) s))) ∧
    (greg s t 3 ≠ 0 → bulkFault s t 2 = false → Leaves (.bcrc t) s (touch dCCR (modThread t (fun x => { x with bulk := some ⟨2⟩ }) s)))) ∧
  (∀ s t e, t < 4 → (thread s t).bulk = some ⟨0⟩ → bulkRuns s t = true → greg s t 1 < ccLake → greg s t 2 < ccLake →
    Leaves (.bulkUnitComplete t e) s (ccrStop t (bulkAdvance t 0 (ccWrite (greg (touch dCCR s) t 2) (ccRead s (greg s t 1) 64) (touch dCCR s))))) ∧
  (∀ s t e x, t < 4 → (thread s t).bulk = some ⟨1⟩ → bulkRuns s t = true → greg s t 1 < ccLake → x = ccRead s (greg s t 1) 64 →
    (∀ i, scanHit (touch dCCR s) t x = some i → Leaves (.bulkUnitComplete t e) s
      (ccrStop t (bulkEnd t (setG t 2 (greg s t 1 + 8 * i) (touch dCCR s))))) ∧
    (scanHit (touch dCCR s) t x = none → Leaves (.bulkUnitComplete t e) s (ccrStop t (bulkAdvance t 1 (touch dCCR s))))) ∧
  (∀ s t e x, t < 4 → (thread s t).bulk = some ⟨2⟩ → bulkRuns s t = true → greg s t 1 < ccLake → x = ccRead s (greg s t 1) 64 →
    Leaves (.bulkUnitComplete t e) s (ccrStop t (bulkAdvance t 2
      (setG t 4 (x.foldl crc32cByte (w32 (greg (touch dCCR s) t 4))).toNat (touch dCCR s))))) ∧
  (∀ s t op, t < 4 → (thread s t).bulk = some ⟨op⟩ → op ≤ 2 → bulkRuns s t = true → ccLake ≤ greg s t 1 →
    lakeNow s (greg s t 1 - ccLake) 64 6 = true → (op = 0 → greg s t 2 < ccLake) → Leaves (.bulkUnitComplete t true) s (threadFault t 3 s)) ∧
  (∀ s t e, t < 4 → (thread s t).bulk = none → Leaves (.bulkUnitComplete t e) s s)

/-- Interrupts and module callbacks (R349, R387 to R389, R399, R400): a running thread takes the pending interrupt of
highest priority, whose pending bit clears; a callback that faults disables its module, with 0x1302 or 0x1303;
TIMER_SET arms the flag and inserts the timer, unless its list is full; ADM_BLOCK sets or clears the channel's bit.
The mailbox (R384 to R386): posting takes a FREE slot to POSTED and interrupts, freeing takes DONE to FREE, either in
another state sets the error; the first POSTED slot is answered with the status of its command and the DONE event; one
behind another POSTED slot waits. What the answers of INFO and FW_RECORD hold beyond the status, and which module
MODULE_CTL and MODULE_MSG mean, are free values (the model's own, log entries). Response bytes no rule lays out and
POWER_SET's word places are the model's choices: log entry 47. A row whose condition does not hold changes nothing:
log entry 77. -/
def Obligations.InterruptsAndMailbox : Prop :=
  ((∀ s t b p, t < 4 → isOn s dCCR = true → s.cc.run = 0 → (thread s t).st = 0 → nextInt s t = some (b, p) → Leaves (.interruptTake t) s
    (touch dCCR (modWks (fun w => { w with waiters := w.waiters.filter (fun y => y.1 != t) })
      (modThread t (fun x => { x with handlers := p :: x.handlers.filter (p < ·) }) (clrBit rIntPend b s))))) ∧
  (∀ s t, t < 4 → nextInt s t = none → Leaves (.interruptTake t) s s) ∧
  (∀ s t w k i, t < 4 → (thread s t).modl = some (k, i) → Leaves (.callbackFault t w) s
    (threadDone t (modCc (fun c => { c with calls := c.calls.filter (fun x => x.1 != k) })
      (logC (if w then 0x1302 else 0x1303) [k] (modModl k (fun x => { x with st := 2 }) s))))) ∧
  (∀ s t w, t < 4 → (thread s t).modl = none → Leaves (.callbackFault t w) s s) ∧
  (∀ s m d f, m < 8 → (modl s m).st = 1 → s.wks.dly.l3.length < 8192 → Leaves (.timerSet m d f) s
    (dlyIns 8 f (expandFt 48 d s.ft) (modModl m (fun x => { x with flags := x.flags.filter (· != f) ++ [f] }) s))) ∧
  (∀ s d f, s.wks.dly.l3.length < 8192 → Leaves (.timerSet 8 d f) s (dlyIns 8 f (expandFt 48 d s.ft) s)) ∧
  (∀ s m d f, 8192 ≤ s.wks.dly.l3.length → Leaves (.timerSet m d f) s s) ∧
  (∀ s m c n i, c < 4096 → n = (chan s c).stall → i = c - (stallCfg s n).chBase → (chan s c).st ≠ 0 → serviceOk s m n = true →
    Leaves (.admBlock m c true) s (setBit (win n 0x300 + 4 * (i / 32)) (i % 32) s) ∧
    Leaves (.admBlock m c false) s (clrBit (win n 0x300 + 4 * (i / 32)) (i % 32) s)) ∧
  (∀ s m c b, c < 4096 → (chan s c).st = 0 → Leaves (.admBlock m c b) s s)) ∧
  ((∀ s k, k < 4 →
    (mbxState s k = 0 → Leaves (.mbxDbPost k) s (ccInt 0 (setMbx k 1 s)) ∧ Leaves (.mbxDbFree k) s (setBit 0x000C0304 8 s)) ∧
    (mbxState s k = 3 → Leaves (.mbxDbFree k) s (setMbx k 0 s) ∧ Leaves (.mbxDbPost k) s (setBit 0x000C0304 8 s))) ∧
  (∀ s k c u f, k < 4 → isOn s dCCR = true → s.cc.run = 0 → mbxState s k = 1 → (∀ j, j < k → mbxState s j ≠ 1) → c = mbxCmd s k → u = touch dCCR s →
    f = fresh u →
    (u8 c 0 = 0 ∨ 5 < u8 c 0 → Leaves (.mbxInfo k) s (mbxAnswer k 1 [] s)) ∧
    (u8 c 0 = 1 → Leaves (.mbxInfo k) s (mbxAnswer k 0 (leBytes 56 f.1) f.2)) ∧
    (u8 c 0 = 2 → 7 < u8 c 8 → Leaves (.moduleCtl k) s (mbxAnswer k 4 [] f.2)) ∧
    (∀ m, u8 c 0 = 2 → m = u8 c 8 → m ≤ 7 →
      ((modl f.2 m).st = 0 → Leaves (.moduleCtl k) s (mbxAnswer k 2 [] f.2)) ∧
      ((modl f.2 m).st = 3 → Leaves (.moduleCtl k) s (mbxAnswer k 3 [] f.2)) ∧
      ((modl f.2 m).st = 1 → Leaves (.moduleCtl k) s (mbxAnswer k 0 []
        (if f.1 % 2 = 1 then f.2 else modModl m (fun x => { x with st := 2 }) (callModule m 7 f.2)))) ∧
      ((modl f.2 m).st = 2 → Leaves (.moduleCtl k) s (mbxAnswer k 0 []
        (if f.1 % 2 = 1 then callModule m 0 (modModl m (fun x => { x with st := 1 }) f.2)
         else modModl m (fun x => { x with st := 2 }) (callModule m 7 f.2))))) ∧
    (∀ b m, u8 c 0 = 3 → m = f.1 % 8 → (modl f.2 m).st = 1 → (modl f.2 m).entries.getD 4 0xFFFF ≠ 0xFFFF →
      Leaves (.moduleMsg k (some b)) s (mbxAnswer k 0 b f.2) ∧ Leaves (.moduleMsg k none) s (mbxAnswer k 3 [] f.2)) ∧
    (∀ b m, u8 c 0 = 3 → m = f.1 % 8 → (modl f.2 m).st ≠ 1 → Leaves (.moduleMsg k b) s (mbxAnswer k 2 [] f.2)) ∧
    (u8 c 0 = 4 → Leaves (.powerSet k) s (mbxAnswer k 0 [] (forEach (List.range 12) (fun n => wr (rPolicy n) (u32 c (8 + 4 * n) % 2 ^ 20)) u))) ∧
    (u8 c 0 = 5 → handleOk u 2 (u64 c 8) = true → isFw (hIdx (u64 c 8)) = true → (ent u (hIdx (u64 c 8))).st ≠ .free →
      Leaves (.fwRecord k) s (mbxAnswer k 0 (leBytes 56 f.1) f.2)) ∧
    (u8 c 0 = 5 → handleOk u 2 (u64 c 8) = false → Leaves (.fwRecord k) s (mbxAnswer k 4 [] u))))


/-! ### Channels and requests -/

/-- CH_CMD (R193 to R197): a command on a stall whose last one is in progress is BUSY; a configuration out of range is
refused with 2; with no free index with 1; another opens the lowest free index with its till cleared; DESTROY and
MODIFY of a channel that is not open answer 3; MODIFY's values wait for the next admission decision; DESTROY ends the
channel's key bindings, closes its live requests, orphans its paused conversations and frees the channel once nothing
of it is left. Doorbells and tills (R213, R217, R223, R225): a value at or beyond the depth is logged as 0x0730 with
the stall's bit and changes nothing else; SQ_DB sets the tail and wakes the stall's domains (a channel that is not
ACTIVE, or a value equal to the head, changes nothing); CQ_DB returns entries and lets a held command in; a snapshot
writes the till to the host and clears it at that FT (what the same FT counted before it is log entry 82). A CQ
doorbell that returns too much is log entry 28; limits and ERROR are log entry 29. A till's events of the same FT are
log entry 82. A row whose condition does not hold changes nothing: log entry 77. -/
def Obligations.ChannelsAndDoorbells : Prop :=
  ((∀ s n src i, n < 32 → srcOk src = true → ownWindow src n = true → chBusy s n = true →
    Leaves (.chCreate n src) s (chCode n 4 s) ∧ Leaves (.chDestroy n i) s (chCode n 4 s) ∧ Leaves (.chModify n i) s (chCode n 4 s)) ∧
  (∀ s n src cfg, n < 32 → srcOk src = true → ownWindow src n = true → chBusy s n = false → cfg = rd s (win n 0x040) →
    (bits cfg 3 0 < 4 ∨ 12 < bits cfg 3 0 ∨ bits cfg 7 4 < 4 ∨ 12 < bits cfg 7 4 ∨ rd64 s (win n 0x030) % 4096 ≠ 0 ∨ rd64 s (win n 0x038) % 4096 ≠ 0 →
      Leaves (.chCreate n src) s (chCode n 2 s)) ∧
    (4 ≤ bits cfg 3 0 → bits cfg 3 0 ≤ 12 → 4 ≤ bits cfg 7 4 → bits cfg 7 4 ≤ 12 → rd64 s (win n 0x030) % 4096 = 0 → rd64 s (win n 0x038) % 4096 = 0 →
      ((∀ j, j < (stallCfg s n).chCount → (chan s ((stallCfg s n).chBase + j)).st ≠ 0) → Leaves (.chCreate n src) s (chCode n 1 s)) ∧
      (∀ i k u w, i < (stallCfg s n).chCount → k = (stallCfg s n).chBase + i → (chan s k).st = 0 →
        (∀ j, j < i → (chan s ((stallCfg s n).chBase + j)).st ≠ 0) →
        u = chLimits (rd s (win n 0x044)) (rd s (win n 0x048)) { st := 1, stall := n, src := src, sqBase := BitVec.ofNat 64 (rd64 s (win n 0x030)), cqBase := BitVec.ofNat 64 (rd64 s (win n 0x038)), sqK := bits cfg 3 0, cqK := bits cfg 7 4, vec := bits cfg 13 8, coalN := bits cfg 17 14, coalT := bits cfg 25 18, phase := true, fenceFrom := s.ft } →
        w = { modChan k (fun _ => { u with left := u.tokens }) s with tills := put s.tills k { snapFt := s.ft } {}, tillNow := del s.tillNow k } →
        Leaves (.chCreate n src) s (wr64 (win n 0x028) (chHandle w k) (chCode n 0 w))))) ∧
  (∀ s n i, n < 32 → chBusy s n = false → localChan s n i = none → Leaves (.chDestroy n i) s (chCode n 3 s) ∧ Leaves (.chModify n i) s (chCode n 3 s)) ∧
  (∀ s n i c, n < 32 → chBusy s n = false → localChan s n i = some c →
    Leaves (.chModify n i) s (chCode n 0 (modChan c (fun x => { x with modify := some (w32 (rd s (win n 0x044)), w32 (rd s (win n 0x048))) }) s)) ∧
    (∀ u v w, u = setBit (rChResult n) 8 (modChan c (fun x => { x with st := 2 }) s) →
      v = { u with spg := { u.spg with keys := u.spg.keys.filter (fun k => k.1 != c) } } →
      w = forEach (chanReqs v c) (fun r s => if (ent s r).st = .pausing ∨ (ent s r).st = .closing then s else takeClose r false 0 s) v →
      Leaves (.chDestroy n i) s (freeChan c (forEach ((w.rtb.filter (fun e => e.2.channel == c && e.2.st == .paused && !e.2.shadow)).map Prod.fst) orphan w))))) ∧
  ((∀ s n v c x, n < 32 → localChan s n (bits v.toNat 9 0) = some c → x = chan s c →
    (2 ^ x.sqK ≤ bits v.toNat 21 10 → Leaves (.sqDb n v) s (badBell n s)) ∧
    (bits v.toNat 21 10 < 2 ^ x.sqK → x.st = 1 → bits v.toNat 21 10 ≠ x.sqHead →
      Leaves (.sqDb n v) s (bellWake n (modChan c (fun x => { x with sqTail := bits v.toNat 21 10 }) s))) ∧
    (bits v.toNat 21 10 < 2 ^ x.sqK → x.st ≠ 1 ∨ bits v.toNat 21 10 = x.sqHead → Leaves (.sqDb n v) s s) ∧
    (2 ^ x.cqK ≤ bits v.toNat 21 10 → Leaves (.cqDb n v) s (badBell n s)) ∧
    (bits v.toNat 21 10 < 2 ^ x.cqK → Leaves (.cqDb n v) s (takeHeldEntry c (bellWake n (modChan c (fun y =>
      { y with cqHead := bits v.toNat 21 10, posted := y.posted - (bits v.toNat 21 10 + 2 ^ x.cqK - x.cqHead) % 2 ^ x.cqK }) s))))) ∧
  (∀ s n v, n < 32 → localChan s n (bits v.toNat 9 0) = none → Leaves (.sqDb n v) s s ∧ Leaves (.cqDb n v) s s) ∧
  (∀ s n v i c u a, n < 32 → i = bits v.toNat 9 0 → c = (stallCfg s n).chBase + i → u = wrf (win n 0x090) 9 0 i s →
    a = BitVec.ofNat 64 (rd64 u (win n 0x094) / 128 * 128) →
    (bit v.toNat 31 = false ∨ (stallCfg s n).chCount ≤ i → Leaves (.tillSnap n v) s u) ∧
    (bit v.toNat 31 = true → i < (stallCfg s n).chCount → (look s.tillNow c {}).at_ ≠ s.ft → Leaves (.tillSnap n v) s
      (emit (.hostWrite (chan s c).src a (tillBytes (till s c)))
        { u with tills := put s.tills c { snapFt := s.ft } {}, tillNow := put s.tillNow c { at_ := s.ft, before := { snapFt := s.ft }, since := {} } {} })) ∧
    (∀ w, bit v.toNat 31 = true → i < (stallCfg s n).chCount → w = look s.tillNow c {} → w.at_ = s.ft → Leaves (.tillSnap n v) s
      (emit (.hostWrite (chan s c).src a (tillBytes w.before))
        { u with tills := put s.tills c { w.since with snapFt := s.ft } {}, tillNow := put s.tillNow c { at_ := s.ft, before := { snapFt := s.ft }, since := { w.since with snapFt := 0 } } {} }))))

/-- Fetching and posting (R197, R206, R210, R214, R216, R217, R220, R292, R528): a channel found corrupt (log entry
80) enters ERROR; a fetched entry is read at its host address, counts in the till, moves the head and is accepted with
its slots reserved; a failed transfer puts the channel in ERROR, or frees one that is ending; a completion is written
to its slot with the phase and signalled by COAL_N; the coalescing timer signals what waits; a budget period restores
the tokens. A row whose condition does not hold changes nothing: log entry 77. -/
def Obligations.CommandsAreFetchedAndPosted : Prop :=
  (∀ s c b, c < 4096 → sizeOk 64 b = true →
    (chanCorrupt s c = true → Leaves (.commandFetch c b) s (chanError c 0x0808 s)) ∧
    (chanCorrupt s c = false → mayFetch s c = false → Leaves (.commandFetch c b) s s)) ∧
  (∀ s c b e x, c < 4096 → b.length = 64 → chanCorrupt s c = false → mayFetch s c = true → e = sqeOf b → x = chan s c →
    Leaves (.commandFetch c (some b)) s (takeHeldEntry c (emit (.hostRead x.src (x.sqBase + BitVec.ofNat 64 (64 * x.sqHead)) 64)
      (modChan c (fun x => { x with held := some (e, 1 + finalsOf e) })
      (modChan c (fun x => { x with sqHead := (x.sqHead + 1) % 2 ^ x.sqK }) (modTill c (fun t => { t with cmds := sat32 (t.cmds + 1) }) s)))))) ∧
  (∀ s c, c < 4096 → chanCorrupt s c = false → mayFetch s c = true → Leaves (.commandFetch c none) s (queueFail c s)) ∧
  (∀ s c, c < 4096 → ((chan s c).st = 1 → Leaves (.queueDmaFail c) s (chanError c 0x0731 s)) ∧
    ((chan s c).st = 2 → Leaves (.queueDmaFail c) s (freeChan c (modChan c (fun x => { x with st := 2 }) (chanError c 0x0731 s)))) ∧
    ((chan s c).st = 0 ∨ (chan s c).st = 3 → Leaves (.queueDmaFail c) s s)) ∧
  (∀ s c x q r w u, c < 4096 → x = chan s c → x.compq = q :: r → x.st ≠ 0 → x.st ≠ 3 → isOn s dHST = true → s.spg.l1 = false →
    w = (x.cqTail + 1 == 2 ^ x.cqK) →
    u = modChan c (fun y => { y with compq := r, cqTail := if w then 0 else y.cqTail + 1, phase := if w then !y.phase else y.phase, posted := y.posted + 1, reserved := y.reserved - 1, unsig := y.unsig + 1, unsigAt := y.unsigAt.or (some s.ft) })
      (emit (.hostWrite x.src (x.cqBase + BitVec.ofNat 64 (32 * x.cqTail)) (cqeBytes x.phase q)) s) →
    (x.unsig + 1 < x.coalN → Leaves (.completionPost c) s (stallTry (freeChan c u))) ∧
    (x.coalN ≤ x.unsig + 1 → Leaves (.completionPost c) s (stallTry (freeChan c (chSignal c u))))) ∧
  (∀ s c, c < 4096 → (chan s c).compq = [] ∨ (chan s c).st = 0 ∨ (chan s c).st = 3 ∨ isOn s dHST = false ∨ s.spg.l1 = true →
    Leaves (.completionPost c) s s) ∧
  (∀ s c, c < 4096 → ((chan s c).unsigAt = none → Leaves (.coalesceTimer c) s s) ∧
    (∀ t, (chan s c).unsigAt = some t → (t + us (chan s c).coalT ≤ s.ft → Leaves (.coalesceTimer c) s (chSignal c s)) ∧
    (s.ft < t + us (chan s c).coalT → Leaves (.coalesceTimer c) s s))) ∧
  (∀ s c, c < 4096 → ((chan s c).st ≠ 0 → (chan s c).period ≠ 0 → s.ft % us (chan s c).period = 0 →
      Leaves (.budgetPeriodStart c) s (modChan c (fun x => { x with left := x.tokens }) s)) ∧
    ((chan s c).st = 0 ∨ (chan s c).period = 0 ∨ s.ft % us (chan s c).period ≠ 0 → Leaves (.budgetPeriodStart c) s s))

/-- Commands of a channel are taken in order (R192, R204, R210, R270): with none at the front, or one of another
opcode or held back there, a command waits (and a held entry that now fits is let in, R217); one at the front that
fails the checks every command meets completes with its CSTAT first. SUBMIT, BATCH and FENCE (R76, R201, R234, R322):
the list is read at its host address; a list that cannot be read, an entry or a ring that is refused, gives its CSTAT
and nothing else; a SUBMIT opens a request in ADMITTING and queues it; a BATCH opens its members and queues as one; a
FENCE records how far the stall's write streams have gone and completes when those writes are acknowledged or have
faulted, reporting the first that did. APPEND and SUPERSEDE (R227, R270, R274, R276, R531): a list that cannot be read
gives its CSTAT; a poisoned idle request ends; a second APPEND, or one to a closing request, is BAD_STATE, as is one
that would supersede a conversation that is or moves to or from the lake; one to a READY request is promoted at once,
one to a RESUMING request also asks admission for rung 2, to another it is held as pending; SUPERSEDE of a running
generation is fixed at its FT, when the old generation ends SUPERSEDED. When a promoted APPEND is acknowledged is log
entry 32. A row whose condition does not hold changes nothing: log entry 77. -/
def Obligations.SubmitAppendAndBatch : Prop :=
  ((∀ s c ws ms, c < 4096 → (Waits s c opSubmit → Leaves (.submit c ws) s (takeHeldEntry c s)) ∧ (Waits s c opAppend → Leaves (.append c ws) s (takeHeldEntry c s)) ∧
    (Waits s c opBatch → Leaves (.batch c ms) s (takeHeldEntry c s)) ∧ (Waits s c opFence → Leaves (.fence c) s (takeHeldEntry c s)) ∧
    (Waits s c opCancel → Leaves (.cancel c) s (takeHeldEntry c s)) ∧ (Waits s c opClose → Leaves (.close c) s (takeHeldEntry c s)) ∧
    (Waits s c opSetDeadline → Leaves (.setDeadline c) s (takeHeldEntry c s)) ∧ (Waits s c opPause → Leaves (.pause c) s (takeHeldEntry c s)) ∧
    (Waits s c opResume → Leaves (.resume c) s (takeHeldEntry c s)) ∧ (Waits s c opAdopt → Leaves (.adopt c) s (takeHeldEntry c s))) ∧
  (∀ s c e k u t ws ms, (chan s c).st ≠ 0 → headCmd s c = some e → k = staticStat s c e → k ≠ 0 → u = reject c e k (takenOff c s) →
    (Leaves (.submit c ws) u t → Leaves (.submit c ws) s t) ∧ (Leaves (.append c ws) u t → Leaves (.append c ws) s t) ∧
    (Leaves (.batch c ms) u t → Leaves (.batch c ms) s t) ∧ (Leaves (.fence c) u t → Leaves (.fence c) s t) ∧
    (Leaves (.cancel c) u t → Leaves (.cancel c) s t) ∧ (Leaves (.close c) u t → Leaves (.close c) s t) ∧
    (Leaves (.setDeadline c) u t → Leaves (.setDeadline c) s t) ∧ (Leaves (.pause c) u t → Leaves (.pause c) s t) ∧
    (Leaves (.resume c) u t → Leaves (.resume c) s t) ∧ (Leaves (.adopt c) u t → Leaves (.adopt c) s t)) ∧
  (∀ s c e u v ws l g, c < 4096 → Takes s c opSubmit e → u = takenOff c s → v = readList c e 4 u → l = listOf e ws →
    g = ringCheck u (chan u c).stall e.ring.toNat →
    (l.1 ≠ 0 → Leaves (.submit c ws) s (nextUp c (reject c e l.1 v))) ∧
    (l.1 = 0 → g.1 ≠ 0 → Leaves (.submit c ws) s (nextUp c (reject c e g.1 v))) ∧
    (∀ r, l.1 = 0 → g.1 = 0 → r = openSubmit c e l.2 g.2 0xFFFF false (deadlineOf v e) v.ft v →
      Leaves (.submit c ws) s (nextUp c (closeIfLeaving c r.1 (enqueue r.1 false r.2))))) ∧
  (∀ s c e u v, c < 4096 → Takes s c opBatch e → u = takenOff c s → v = readList c e 64 u →
    Leaves (.batch c none) s (nextUp c (reject c e 6 v)) ∧
    (∀ l w, w = forEach (l.take e.count) (fun m => readList c (sqeOf m.1) 4) v →
      (batchStat w c e l ≠ 0 → Leaves (.batch c (some l)) s (nextUp c (reject c e (batchStat w c e l) w))) ∧
      (∀ n r, batchStat w c e l = 0 → n = w.batchNum → r = openMembers c n (l.take e.count) { w with batchNum := n + 1 } →
        Leaves (.batch c (some l)) s (nextUp c (forEach r.1 (closeIfLeaving c) { r.2 with
          batches := r.2.batches ++ [{ num := n, stall := (chan w c).stall, channel := c, cid := e.cid, prio := prioOf w c e.prio, accept := w.ft, members := r.1, askPrio := e.prio }],
          admq := r.2.admq ++ [{ req := n, isBatch := true, at_ := w.ft }] }))))) ∧
  (∀ s c e u, c < 4096 → Takes s c opFence e → u = takenOff c s →
    Leaves (.fence c) s (nextUp c (modChan c (fun x => { x with fences := x.fences ++ [{ cid := e.cid, upto := u.fab.issues, accepted := u.ft }] }) u))) ∧
  (∀ s c, c < 4096 → (chan s c).fences = [] → Leaves (.fenceComplete c) s s) ∧
  (∀ s c f rest x u q, c < 4096 → x = chan s c → x.fences = f :: rest →
    u = modChan c (fun x => { x with fences := rest, fenceFrom := f.accepted, faulted := x.faulted.filter (fun w => !decide (w.1 < f.upto)) }) s →
    q = { plainAck u f.cid 0 0 with ingress := f.accepted % 2 ^ 48 } →
    (fenceReached s x.stall f = false → Leaves (.fenceComplete c) s s) ∧
    (fenceReached s x.stall f = true → (∀ w ∈ x.faulted, f.upto ≤ w.1) → Leaves (.fenceComplete c) s (post c q u)) ∧
    (∀ n seq h stall, fenceReached s x.stall f = true → firstIssued (x.faulted.filter (fun w => decide (w.1 < f.upto))) = some (n, seq, h, stall) →
      Leaves (.fenceComplete c) s (post c { q with req := hGen h.toNat * 2 ^ 24 + hIdx h.toNat, predict := seq + u.fab.chip * 2 ^ 16 + (stall % 32 + 128) * 2 ^ 24 } u)))) ∧
  ((∀ s c e u v r ws l x y, c < 4096 → Takes s c opAppend e → u = takenOff c s → v = readList c e 4 u → r = hIdx e.handle.toNat →
    l = listOf e ws → x = ent u r → y = side u r →
    (l.1 ≠ 0 → Leaves (.append c ws) s (nextUp c (reject c e l.1 v))) ∧
    (l.1 = 0 → x.poison = true ∧ y.open_ = .none_ ∧ y.pend = none ∧ x.st ≠ .closing → Leaves (.append c ws) s (nextUp c (poisonEnd c e v))) ∧
    (l.1 = 0 → ¬ (x.poison = true ∧ y.open_ = .none_ ∧ y.pend = none ∧ x.st ≠ .closing) →
      (y.pend ≠ none ∨ noAppend v r = true → Leaves (.append c ws) s (nextUp c (reject c e 4 v))) ∧
      (y.pend = none → noAppend v r = false →
        (e.supersede = true → x.st = .pausing ∨ x.st = .paused ∨ x.st = .resuming → Leaves (.append c ws) s (nextUp c (reject c e 4 v))) ∧
        (∀ w, w = modSide r (fun z => { z with pend := some (pendOf c e l.2 v) }) v →
          (e.supersede = true → running x = true → Leaves (.append c ws) s (nextUp c (fixEffect c r false w))) ∧
          (x.st = .ready → Leaves (.append c ws) s (nextUp c (promote r w))) ∧
          (e.supersede = false → x.st = .resuming → Leaves (.append c ws) s (nextUp c (enqueue r false (modSide r (fun x => { x with r2 := 1 }) w)))) ∧
          (e.supersede = false ∨ (running x = false ∧ x.st ≠ .pausing ∧ x.st ≠ .paused) → x.st ≠ .ready → x.st ≠ .resuming →
            Leaves (.append c ws) s (nextUp c w)))))) ∧
  (∀ s r t u, r < 2 ^ 24 → (side s r).cancelAt = some (t, false) → u = modSide r (fun x => { x with cancelAt := none }) s →
    (s.ft < t ∨ isOn s dSEQ = false → Leaves (.supersedeEffect r) s s) ∧
    (t ≤ s.ft → isOn s dSEQ = true → running (ent s r) = true → Leaves (.supersedeEffect r) s
      (toDraining r 0x11 true false false (modEnt r (fun e => { e with superseded := true }) (maskHere r u)))) ∧
    (t ≤ s.ft → isOn s dSEQ = true → running (ent s r) = false → Leaves (.supersedeEffect r) s u)) ∧
  (∀ s r, r < 2 ^ 24 → (side s r).cancelAt = none → Leaves (.supersedeEffect r) s s))

/-- CANCEL, CLOSE and SET_DEADLINE (R207, R228, R270, R273, R276): each is BAD_STATE on a closing request; CANCEL is
fixed at its FT and takes effect then, once admission has decided; CLOSE answers and closes; SET_DEADLINE moves the
deadline of the open command, and arms it where the command is deferred, resuming or running. A row whose condition
does not hold changes nothing: log entry 77. -/
def Obligations.CancelCloseAndDeadlines : Prop :=
  (∀ s c e u r, c < 4096 → u = takenOff c s → r = hIdx e.handle.toNat →
    (Takes s c opCancel e → (ent u r).st = .closing → Leaves (.cancel c) s (nextUp c (reject c e 4 u))) ∧
    (Takes s c opCancel e → (ent u r).st ≠ .closing → Leaves (.cancel c) s
      (nextUp c (fixEffect c r true (modSide r (fun x => { x with cancelCid := e.cid, cancelIn := u.ft }) u)))) ∧
    (Takes s c opClose e → (ent u r).st = .closing ∨ ((side u r).pend.map Pend.isClose).getD false = true → Leaves (.close c) s (nextUp c (reject c e 4 u))) ∧
    (Takes s c opClose e → (ent u r).st ≠ .closing → ((side u r).pend.map Pend.isClose).getD false = false → Leaves (.close c) s
      (nextUp c (takeClose r true e.cid (post c (plainAck u e.cid 0 (namedReq e)) u)))) ∧
    (Takes s c opSetDeadline e → (side u r).open_ = .none_ ∨ (side u r).open_ = .close ∨ (ent u r).st = .closing → Leaves (.setDeadline c) s (nextUp c (reject c e 4 u))) ∧
    (∀ w z, Takes s c opSetDeadline e → (side u r).open_ ≠ .none_ → (side u r).open_ ≠ .close → (ent u r).st ≠ .closing → w = ackNow c e 0 (namedReq e) 0 u →
      z = modEnt r (fun x => { x with deadline := deadlineOf w e }) (dlyDel 1 (reqHandle w r) w) →
      ((ent u r).st = .deferred ∨ (ent u r).st = .resuming ∨ running (ent z r) = true → Leaves (.setDeadline c) s (nextUp c (armDeadline r z))) ∧
      ((ent u r).st ≠ .deferred → (ent u r).st ≠ .resuming → running (ent z r) = false → Leaves (.setDeadline c) s (nextUp c z)))) ∧
  (∀ s r t, r < 2 ^ 24 → (side s r).cancelAt = some (t, true) →
    (s.ft < t ∨ isOn s dSEQ = false ∨ (ent s r).st = .admitting → Leaves (.cancelEffect r) s s) ∧
    (t ≤ s.ft → isOn s dSEQ = true → (ent s r).st ≠ .admitting → Leaves (.cancelEffect r) s (cancelNow r s))) ∧
  (∀ s r, r < 2 ^ 24 → (side s r).cancelAt = none → Leaves (.cancelEffect r) s s)

/-- PAUSE, RESUME and ADOPT (R258, R262 to R265, R268): PAUSE and the idle timer start a pause of a READY request
whose slots suffice, and otherwise log 0x0806; in the lake at last it is PAUSED, and an ADOPT or RESUME that came
meanwhile goes on to admission; a resume of a PAUSED request with nothing open is taken, another is BAD_STATE; ADOPT
first takes the ring; back in pond the request is READY; a page that cannot be read ends the request. Delay-list
entries of requests and tree nodes (R255, R264, R296, R437): the deadline of a BLOCKED generation ends it late or on
time; the TTL of a PAUSED one drops its lake copy with 0x0801; a node without references becomes evictable; a deferred
request whose resources are free begins, and another is decided again under the limits as they stand. One whose
request is gone does nothing; with SEQ not ON, or nothing of its kind at the front, it waits. RESUME in PAUSING is the
model's reading: log entry 31. Places of blocks and nodes are log entry 50. A row whose condition does not hold
changes nothing: log entry 77. -/
def Obligations.PauseResumeAndTimers : Prop :=
  ((∀ s c e u r g, c < 4096 → u = takenOff c s → r = hIdx e.handle.toNat → g = ringCheck u (chan u c).stall e.ring.toNat →
    (Takes s c opPause e → (ent u r).st ≠ .ready → Leaves (.pause c) s (nextUp c (reject c e 4 u))) ∧
    (Takes s c opPause e → (ent u r).st = .ready → slotsSuffice u r = false →
      Leaves (.pause c) s (nextUp c (logEv 0x0806 (ent u r).stall [] (reject c e 4 u)))) ∧
    (Takes s c opPause e → (ent u r).st = .ready → slotsSuffice u r = true →
      Leaves (.pause c) s (nextUp c (startPause r e.ttl (ackNow c e 0 (namedReq e) 0 u)))) ∧
    (Takes s c opResume e → (ent u r).st = .paused ∨ (ent u r).st = .pausing → (side u r).open_ = .none_ → (side u r).pend = none →
      Leaves (.resume c) s (nextUp c (resumeTaken c e .resume u))) ∧
    (Takes s c opResume e → ((ent u r).st ≠ .paused ∧ (ent u r).st ≠ .pausing) ∨ (side u r).open_ ≠ .none_ ∨ (side u r).pend ≠ none →
      Leaves (.resume c) s (nextUp c (reject c e 4 u))) ∧
    (Takes s c opAdopt e → g.1 ≠ 0 → Leaves (.adopt c) s (nextUp c (reject c e g.1 u))) ∧
    (Takes s c opAdopt e → g.1 = 0 → memberLost u r = true → Leaves (.adopt c) s (nextUp c (resumeTaken c e .adopt u))) ∧
    (∀ w, Takes s c opAdopt e → g.1 = 0 → memberLost u r = false → w = modEnt r (fun x => { x with channel := c, till := c, ring := g.2, orphan := false }) u →
      (g.2 = none → Leaves (.adopt c) s (nextUp c (resumeTaken c e .adopt w))) ∧
      (∀ i, g.2 = some i → Leaves (.adopt c) s (nextUp c (resumeTaken c e .adopt (modRing i (fun y => { y with st := 2, req := some r }) w)))))) ∧
  (∀ s r t, r < 2 ^ 24 → t = rd s (win (ent s r).stall 0x204) →
    ((ent s r).st = .ready → (ent s r).shadow = false → t ≠ 0 → (side s r).pend = none → isOn s dSEQ = true → (side s r).idleSince + us t ≤ s.ft →
      (slotsSuffice s r = true → Leaves (.rtbIdleExpire r) s (startPause r 0 s)) ∧
      (slotsSuffice s r = false → Leaves (.rtbIdleExpire r) s (logEv 0x0806 (ent s r).stall [] (modSide r (fun x => { x with idleSince := s.ft }) s)))) ∧
    ((ent s r).st ≠ .ready ∨ (ent s r).shadow = true ∨ t = 0 ∨ s.ft < (side s r).idleSince + us t ∨ (side s r).pend ≠ none ∨ isOn s dSEQ = false →
      Leaves (.rtbIdleExpire r) s s)) ∧
  (∀ s r, r < 2 ^ 24 → isOn s dNMC = true → (ent s r).shadow = true →
    ((ent s r).st = .pausing → Leaves (.pauseComplete r) s (modEnt r (fun e => { e with st := .paused }) (releasePages r (lakeCopy r s)))) ∧
    ((ent s r).st = .resuming → Leaves (.resumeComplete r false) s (modEnt r (fun e => { e with st := .ready }) (dropLake r (pondCopy r s))) ∧
      Leaves (.resumeComplete r true) s (logEv 0x0805 (ent s r).stall [] s))) ∧
  (∀ s r n u w v, r < 2 ^ 24 → isOn s dNMC = true → (ent s r).shadow = false → (ent s r).st = .pausing → n = (ent s r).stall →
    u = releasePages r (lakeCopy r s) →
    w = forEach ((remotes u n).zipIdx) (fun m z => modFree m.1 (fun f => { f with pages := f.pages - (side z r).slots.getD m.2 0 }) z) u →
    v = modEnt r (fun e => { e with st := .paused }) (modSide r (fun x => { x with away := true, idleSince := w.ft, slots := x.slots.map (· + x.pfxDepth), pfxNode := none, pfxDepth := 0 }) w) →
    (∀ x, x = side v r → x.open_ = .resume ∨ x.open_ = .adopt → x.acked = false →
      Leaves (.pauseComplete r) s (modEnt r (fun e => { e with st := .admitting }) (modSide r (fun x => { x with before := .paused }) v))) ∧
    (∀ x w, x = side v r → x.open_ ≠ .resume → x.open_ ≠ .adopt →
      w = (if (ent s r).ttlDue ≤ v.ft then dlyIns 3 (reqHandle v r) (ent s r).ttlDue (dlyDel 3 (reqHandle v r) v) else v) →
      (x.pend = none → (chan w (ent s r).channel).st = 1 → Leaves (.pauseComplete r) s w) ∧
      (x.pend = none → (chan w (ent s r).channel).st ≠ 1 → Leaves (.pauseComplete r) s (orphan r w)) ∧
      (∀ p, x.pend = some p → p.isClose = true → Leaves (.pauseComplete r) s (takeClose r p.posts p.cid (modSide r (fun x => { x with pend := none }) w))))) ∧
  (∀ s r, r < 2 ^ 24 → isOn s dNMC = true → (ent s r).shadow = false → (ent s r).st = .resuming →
    Leaves (.resumeComplete r true) s (logEv 0x0805 (ent s r).stall [] (toClosing r 0x40 0x40 0x12 false s)) ∧
    (∀ u, u = finishOpen r 0x01 (dlyDel 1 (reqHandle s r) (dropLake r (pondCopy r s))) →
      ((side u r).r2 = 2 → Leaves (.resumeComplete r false) s (promoteR2 r u)) ∧
      ((side u r).r2 ≠ 2 → Leaves (.resumeComplete r false) s (toReady r (modSide r (fun x => { x with r2 := 0 })
        { u with admq := u.admq.filter (fun c => c.isBatch || c.req != r), cc := { u.cc with admq := u.cc.admq.filter (· != r) } }))))) ∧
  (∀ s r b, r < 2 ^ 24 → ((ent s r).st ≠ .pausing ∨ isOn s dNMC = false → Leaves (.pauseComplete r) s s) ∧
    ((ent s r).st ≠ .resuming ∨ isOn s dNMC = false → Leaves (.resumeComplete r b) s s))) ∧
  ((∀ s, isOn s dSEQ = false ∨ s.wks.dly.fired = [] → Leaves .deadline s s ∧ Leaves .ttlPause s s ∧ Leaves .ttlNode s s ∧ Leaves .deferStart s s) ∧
  (∀ s d rest u r, isOn s dSEQ = true → s.wks.dly.fired = d :: rest → u = modDly (fun d => { d with fired := rest }) s → r = hIdx d.arg.toNat →
    (d.kind ≠ 1 → Leaves .deadline s s) ∧ (d.kind ≠ 2 → Leaves .deferStart s s) ∧ (d.kind ≠ 3 → Leaves .ttlPause s s) ∧ (d.kind ≠ 4 → Leaves .ttlNode s s) ∧
    (d.kind = 1 → hGen d.arg.toNat ≠ genOf u 2 r ∨ (ent u r).st ≠ .blocked ∨ (side u r).exempt = true → Leaves .deadline s u) ∧
    (d.kind = 1 → hGen d.arg.toNat = genOf u 2 r → (ent u r).st = .blocked → (side u r).exempt = false →
      Leaves .deadline s (toDraining r (if (ent u r).late then 0x31 else 0x30) true true true u)) ∧
    (d.kind = 3 → hGen d.arg.toNat = genOf u 2 r → (ent u r).st = .paused → (ent u r).expired = false →
      Leaves .ttlPause s (logEv 0x0801 (ent u r).stall [] (modEnt r (fun e => { e with expired := true }) (dropLake r u)))) ∧
    (d.kind = 3 → hGen d.arg.toNat ≠ genOf u 2 r ∨ (ent u r).st ≠ .paused ∨ (ent u r).expired = true → Leaves .ttlPause s u) ∧
    (∀ i, d.kind = 4 → i = bits d.arg.toNat 17 0 →
      ((node u i).valid = true → (node u i).refs = 0 → Leaves .ttlNode s (evictDue u.pfx.length (modNode i (fun n => { n with evictable := some d.due }) u))) ∧
      ((node u i).valid = false ∨ (node u i).refs ≠ 0 → Leaves .ttlNode s u)) ∧
    (d.kind = 2 → hGen d.arg.toNat ≠ genOf u 2 r ∨ (ent u r).st ≠ .deferred ∨ (side u r).batch ≠ none → Leaves .deferStart s u) ∧
    (d.kind = 2 → hGen d.arg.toNat = genOf u 2 r → (ent u r).st = .deferred → (side u r).batch = none →
      (resOk u (askOf u r) (ent u r).rung = true → Leaves .deferStart s (beginWork r (ent u r).rung u)) ∧
      (∀ v, resOk u (askOf u r) (ent u r).rung = false → v = underLimits r u →
        (∀ g x, verdict v (askOf u r) = .admits g x → Leaves .deferStart s (beginWork r g v)) ∧
        (∀ k, verdict v (askOf u r) = .refuse k → Leaves .deferStart s (refuseReq r k v)) ∧
        (∀ g t, verdict v (askOf u r) = .defer_ g t → Leaves .deferStart s
          (dlyIns 2 (reqHandle v r) (max t (v.ft + 1)) (modEnt r (fun e => { e with rung := g }) (modSide r (fun x => { x with start := t }) v))))))))


/-! ### Admission and steps -/

/-- Admission (R270, R288, R290 to R297, R322): the command at the head of the queue is decided 16 FT after it got
there (and after its prefix walk), not before; by the check, under the limits as they then stand, it is admitted on a
rung, deferred to a predicted start, or refused with a reason; one that waits on a RESUMING request is decided for
rung 2; a batch is decided whole and the next of a stall starts when none runs; an adapter's fetch ends when its time
is up. Firmware-tracked requests (R257, R401, R402): an outcome posted for one in admission decides it, after the
early reasons of R290; with none for 2 microseconds it is refused with DEADLINE, unless the firmware is being
reloaded; a proxy entry in state FW takes the lowest free index while the stall has entries, and is released after its
step. A call outside the module's mask does nothing. A row whose condition does not hold changes nothing: log entry
77. -/
def Obligations.RequestsAreAdmitted : Prop :=
  ((∀ s a rest u w, s.admq = a :: rest → u = { s with admq := rest, admNext := s.ft } →
    (s.ft < outcomeAt s a ∨ isOn s dSEQ = false → Leaves .admissionDecision s s) ∧
    (outcomeAt s a ≤ s.ft → isOn s dSEQ = true → a.isBatch = true → Leaves .admissionDecision s (decideBatch a.req u)) ∧
    (outcomeAt s a ≤ s.ft → isOn s dSEQ = true → a.isBatch = false → w = takeSeed a.req (underLimits a.req u) →
      ((side w a.req).r2 ≠ 1 →
        (∀ g fin, verdict w (askOf w a.req) = .admits g fin → Leaves .admissionDecision s (lateCancel a.req (admitReq a.req g fin w))) ∧
        (∀ g t, verdict w (askOf w a.req) = .defer_ g t → Leaves .admissionDecision s (lateCancel a.req (deferReq a.req g t w))) ∧
        (∀ st, verdict w (askOf w a.req) = .refuse st → Leaves .admissionDecision s (lateCancel a.req (refuseReq a.req st w)))) ∧
      ((side w a.req).r2 = 1 → Leaves .admissionDecision s (decideR2 a.req (verdict w (askOf w a.req)) w)))) ∧
  (∀ s, s.admq = [] → Leaves .admissionDecision s s) ∧
  (∀ s n, n < 32 → ((∃ b ∈ s.batches, b.stall = n ∧ b.admitted = true ∧ b.running = true) ∨ (∀ b ∈ s.batches, b.stall = n → b.admitted = false) →
    Leaves (.batchStart n) s s)) ∧
  (∀ s n b, n < 32 → stallBatches s n = [b] → b.running = false →
    Leaves (.batchStart n) s (forEach b.members (fun r s => if (ent s r).st = .deferred then beginWork r 0 s else s)
      { s with batches := s.batches.map (fun x => if x.num == b.num then { x with running := true } else x) })) ∧
  (∀ s n a u d, n < 32 → a < 65536 → d = s.adpFetch.any (fun f => f.1 == n && f.2.1 == a && decide (f.2.2 ≤ s.ft)) →
    u = { s with adpFetch := s.adpFetch.filter (fun f => !(f.1 == n && f.2.1 == a && decide (f.2.2 ≤ s.ft))) } →
    (d = false → Leaves (.adapterFetchComplete n a) s u) ∧
    (∀ m, d = true → s.conf.models.find? (fun m => m.2.adapters.any (fun (x : AdpCfg) => x.id == a)) = some m →
      Leaves (.adapterFetchComplete n a) s { u with pond := (putPages (look s.adpPages (n * 65536 + a) [])
        ((m.2.adapters.find? (fun (x : AdpCfg) => x.id == a)).elim [] (fun (x : AdpCfg) => storeBytes s 5 m.1 x.ofs x.bytes)) s).pond }))) ∧
  ((∀ s m r o x, serviceOk s m (ent s r).stall = false → Leaves (.admPost m r o x) s s ∧ Leaves (.proxyStage m r) s s) ∧
  (∀ s m r o x, (ent s r).st ≠ .admitting ∨ isFw r = false ∨ (look s.cc.recs r {}).since = none → Leaves (.admPost m r o x) s s) ∧
  (∀ s m r x u a, (ent s r).st = .admitting → isFw r = true → (look s.cc.recs r {}).since.isSome = true → serviceOk s m (ent s r).stall = true →
    u = takeSeed r (underLimits r (fwTaken r s)) → a = askOf u r →
    (∀ e o, earlyRefusal u a = some e → Leaves (.admPost m r o x) s (lateCancel r (refuseReq r e u))) ∧
    (earlyRefusal u a = none →
      Leaves (.admPost m r 0 x) s (lateCancel r (admitReq r 0 (askFinish u a 0 (askStart u a 0)) u)) ∧
      (∀ g, g = (match verdict u a with | .admits g _ => max g 1 | _ => 1) →
        Leaves (.admPost m r 1 x) s (lateCancel r (admitReq r g (askFinish u a 1 (askStart u a 0)) u))) ∧
      (∀ t, t = (match verdict u a with | .defer_ _ t => t | _ => askStart u a 0) → Leaves (.admPost m r 2 x) s (lateCancel r (deferReq r 0 t u))) ∧
      (∀ o, 2 < o → Leaves (.admPost m r o x) s (lateCancel r (refuseReq r x u))))) ∧
  (∀ s r, ((look s.cc.recs r {}).since = none → Leaves (.fwAdmissionTimeout r) s s) ∧
    (∀ t, (look s.cc.recs r {}).since = some t →
      (s.ft < t + 3200 ∨ (ent s r).st ≠ .admitting ∨ s.img.reloading = true → Leaves (.fwAdmissionTimeout r) s s) ∧
      (t + 3200 ≤ s.ft → (ent s r).st = .admitting → s.img.reloading = false →
        Leaves (.fwAdmissionTimeout r) s (lateCancel r (refuseReq r 0x21 (fwTaken r (takeSeed r s))))))) ∧
  (∀ s r m e, e = ent s r →
    (isFw r = true → running e = true → (look s.cc.recs r {}).proxy = none → serviceOk s m e.stall = true → liveEntries s e.stall < (stallCfg s e.stall).entries →
      (∀ p, p < 4096 → (ent s p).st = .free → (∀ j, j < p → (ent s j).st ≠ .free) → Leaves (.proxyStage m r) s { s with
        rtb := put s.rtb p { e with st := .fw, fwOwned := true, committed := e.committed % 65536, maxLen := e.maxLen % 65536, ring := none, pages := [], prompt := [] } {},
        cc := { s.cc with recs := upd s.cc.recs r {} (fun y => { y with proxy := some p }) } })) ∧
    (isFw r = false ∨ running e = false ∨ (look s.cc.recs r {}).proxy ≠ none ∨ (stallCfg s e.stall).entries ≤ liveEntries s e.stall → Leaves (.proxyStage m r) s s)) ∧
  (∀ s m p, p < 4096 → ((∀ q ∈ s.cc.recs, q.2.proxy ≠ some p) → Leaves (.proxyRelease m p) s s) ∧
    (∀ r x, s.cc.recs.find? (fun q => q.2.proxy == some p) = some (r, x) →
      (serviceOk s m (ent s r).stall = true → (side s r).inStep = none → Leaves (.proxyRelease m p) s (dropProxy r s)) ∧
      (serviceOk s m (ent s r).stall = false ∨ (side s r).inStep ≠ none → Leaves (.proxyRelease m p) s s))))

/-- Composing and issuing a step (R129, R302, R305, R306, R333): on an aisle's head with candidates, 24 FT before the
slot, a step is composed for the model whose turn it is, but a slot the duty pattern empties carries none; the step
leaves at its slot once its work items fit, waking LNK first where the aisle has members, and until then it waits. The
position counts are log entry 34. A row whose condition does not hold changes nothing: log entry 77. -/
def Obligations.StepsAreComposedAndIssued : Prop :=
  (∀ s a, a < 64 → isHead s a = false ∨ isOn s dSEQ = false ∨ leaving s = true ∨ cyclic s (headStall s a) = true ∨
    (∃ t ∈ s.steps, t.aisle = a ∧ t.issued = false) → Leaves (.composeStep a) s s) ∧
  (∀ s a u x, a < 64 → isHead s a = true → isOn s dSEQ = true → leaving s = false → cyclic s (headStall s a) = false →
    (∀ t ∈ s.steps, t.aisle = a → t.issued = true) → u = endPoisoned a s → x = aisle u a →
    (candidates u a = [] ∨ u.ft + 24 < (x.lastIssue.map (· + x.ivl)).getD 0 ∨ batchWaits u a = true → Leaves (.composeStep a) s u) ∧
    (candidates u a ≠ [] → (x.lastIssue.map (· + x.ivl)).getD 0 ≤ u.ft + 24 → batchWaits u a = false →
      (rdf u rDuty 2 0 ≠ 0 → rdf u rDuty 2 0 ≤ x.dutyRun →
        Leaves (.composeStep a) s (modAisle a (fun y => { y with lastIssue := some (firstSlot u a u.ft), dutyRun := 0 }) u)) ∧
      (∀ rd, rdf u rDuty 2 0 = 0 ∨ x.dutyRun < rdf u rDuty 2 0 → rd = ascending ((candidates u a).map (stepModel u)) →
        (∀ t l, pickTurn u rd x.turn x.turnsLeft = some (t, l) → Leaves (.composeStep a) s (composeFor a (firstSlot u a u.ft) t l (jumpModel u a t rd) u)) ∧
        (pickTurn u rd x.turn x.turnsLeft = none → Leaves (.composeStep a) s u)))) ∧
  (∀ s a, a < 64 → (∀ t ∈ s.steps, t.aisle = a → t.issued = true) → Leaves (.stepIssue a) s s) ∧
  (∀ s a t n, a < 64 → s.steps.find? (fun t => t.aisle == a && !t.issued) = some t → n = headStall s a →
    (s.ft < t.issue ∨ isOn s dSEQ = false ∨ leaving s = true → Leaves (.stepIssue a) s s) ∧
    (t.issue ≤ s.ft → isOn s dSEQ = true → leaving s = false →
      (remotes s n ≠ [] → isOn s dLNK = false → Leaves (.stepIssue a) s (wakeDom dLNK s)) ∧
      (remotes s n = [] ∨ isOn s dLNK = true →
        (poolFits s n (stepItems t n 0 s).1.length = true → Leaves (.stepIssue a) s (issueNow t s)) ∧
        (poolFits s n (stepItems t n 0 s).1.length = false →
          Leaves (.stepIssue a) s (modStep a t.num (fun t => { t with blockedAt := t.blockedAt.or (some s.ft) }) s)))))

/-- A step at its end (R75, R234, R237, R241, R243, R408, R410, R427, R435): at the sampler's time after its heads are
done sampling marks its rows at this FT, and none of a step whose data derives from poisoned units; arriving tokens
settle their rows in turn (of a single row: one sampled at or after its cut-off is dropped; of another the tokens that
stand are counted, recorded and framed); once every row is done, and confirmed where no token comes back, the head
commits them and frees the step's items, and a member confirms to the head; a confirmation is taken off the requests
that wait for it; the FINAL is posted when nothing is owed. A step record on a member chip (R18, R243, R245, R306,
R307): with SEQ not ON it waits; otherwise it goes on unchanged to the successor, its rows and orders are taken, the
step is recorded as issued and its work items are placed; they start when the predecessor's activations are in, at
once where they came before the record or no row has new positions; the head of the aisle, or a chip outside it,
ignores it. What holds a FINAL back is log entry 42; the record's conventions are log entry 38. Activations and
tainted steps are log entry 87. A row whose condition does not hold changes nothing: log entry 77. -/
def Obligations.StepsEndAndAreRecorded : Prop :=
  ((∀ s a n rows rem, a < 64 → (∀ t ∈ s.steps, t.aisle = a → t.num ≠ n) →
    Leaves (.sampleComplete a n rows) s s ∧ Leaves (.tokenArrival a n rem) s s ∧ Leaves (.stepEnd a n) s s) ∧
  (∀ s a n t rows, a < 64 → s.steps.find? (fun t => t.aisle == a && t.num == n) = some t →
    (t.phase ≠ 1 ∨ isOn s dSEQ = false ∨ t.doneAt = none → Leaves (.sampleComplete a n rows) s s) ∧
    (∀ d, t.doneAt = some d → s.ft < d + samplerFt s t → Leaves (.sampleComplete a n rows) s s) ∧
    (∀ d, t.phase = 1 → isOn s dSEQ = true → t.doneAt = some d → d + samplerFt s t ≤ s.ft →
      (∀ ws u, t.tainted = true → ws = t.rows.map (fun w => { w with live := w.live && !(w.samples && samplesHere s a t w.rung) }) →
        u = modStep a n (fun t => { t with rows := ws, sampledAt := s.ft, phase := 2 }) s →
        (isHead u a = true → Leaves (.sampleComplete a n rows) s (reapMasks u)) ∧
        (isHead u a = false → Leaves (.sampleComplete a n rows) s (reapMasks (forEach ws sendTokens u)))) ∧
      (∀ r v u, t.tainted = false → r = sampleRows a t rows t.rows s → v = (if r.2.1 then bumpSat (rSmp 2) r.2.2 else r.2.2) →
        u = modStep a n (fun t => { t with rows := r.1, sampledAt := v.ft, phase := 2 }) v →
        (isHead u a = true → Leaves (.sampleComplete a n rows) s (reapMasks u)) ∧
        (isHead u a = false → Leaves (.sampleComplete a n rows) s (reapMasks (forEach r.1 sendTokens u)))))) ∧
  (∀ s a n t rem, a < 64 → s.steps.find? (fun t => t.aisle == a && t.num == n) = some t →
    (isHead s a = false ∨ t.issued = false ∨ t.phase = 3 ∨ isOn s dSEQ = false → Leaves (.tokenArrival a n rem) s s) ∧
    (isHead s a = true → t.issued = true → t.phase ≠ 3 → isOn s dSEQ = true →
      (∀ k, k = arriveRows t rem t.rows s → Leaves (.tokenArrival a n rem) s
        (touch dSEQ (modStep a n (fun t => { t with rows := k.1, phase := if k.1.all rowDone then 3 else t.phase }) k.2))) ∧
      (∀ w, t.rows = [w] → w.arrived = true ∨ w.samples = false ∨ w.gen ≠ genOf s 2 w.req ∨ outOf t w rem = none → Leaves (.tokenArrival a n rem) s
        (touch dSEQ (modStep a n (fun t => { t with rows := [w], phase := if rowDone w then 3 else t.phase }) s))) ∧
      (∀ w o gs ft, t.rows = [w] → w.arrived = false → w.samples = true → w.live = true → w.gen = genOf s 2 w.req → outOf t w rem = some (o, gs, ft) →
        (∀ c, (side s w.req).cutoff = some c → c ≤ ft → Leaves (.tokenArrival a n rem) s
          (touch dSEQ (modStep a n (fun t => { t with rows := [{ w with arrived := true }], phase := 3 }) (payRec w.req s)))) ∧
        (∀ c z r0 u v x st ts f, (side s w.req).cutoff = none → (side s w.req).r2 ≠ 2 → w.joined = 0 → w.rung ≠ 2 → r0 = w.req →
          c = openSettle s t w ft → z = standing c 0 o.toks → z.2 ≠ none →
          u = modSide r0 (fun x => { x with specAcc := x.specAcc + (z.1.filter Tok.accepted).length, guesses := gs }) (countRejected r0 (o.rejected + (o.toks.length - z.1.length)) s) →
          v = forEach (recsOf c (running (ent s r0)) z.1) (deliver r0) u → x = side v r0 → ts = frameToks o.toks gs →
          (ts = [] ∨ (ent v r0).genLen ≠ 0 ∨ x.open_ = .none_ → f = v) →
          (ts ≠ [] → (ent v r0).genLen = 0 → x.open_ ≠ .none_ → f = startPatch r0 x.template x.acceptAt (ent v r0).deadline (ent v r0).late ts v) →
          st = z.2.map (finishSt f r0) →
          Leaves (.tokenArrival a n rem) s (touch dSEQ (modStep a n (fun t => { t with rows := [{ w with arrived := true, taken := z.1.length, endSt := st }], phase := 3 }) (payRec r0 f))))))) ∧
  (∀ s a n t u, a < 64 → s.steps.find? (fun t => t.aisle == a && t.num == n) = some t →
    u = { s with steps := s.steps.filter (fun x => !(x.aisle == t.aisle && x.num == t.num)) } →
    (t.issued = false ∨ isOn s dSEQ = false ∨ itemsDone s a n = false → Leaves (.stepEnd a n) s s) ∧
    (t.issued = true → isOn s dSEQ = true → itemsDone s a n = true →
      (isHead s a = true → (∀ w ∈ t.rows, rowDone w = true ∧ rowBack s t w = true) →
        Leaves (.stepEnd a n) s (releaseItems t.aisle t.num (forEach t.rows commitRow u))) ∧
      (isHead s a = true → (∃ w ∈ t.rows, rowDone w = false ∨ rowBack s t w = false) → Leaves (.stepEnd a n) s s) ∧
      (∀ v w, isHead s a = false → v = forEach t.rows (fun w => modSide w.req (fun x => { x with inStep := none, masked := false, cutoff := none })) u →
        w = forEach (t.rows.filter (fun w => bit w.orders 1)) (fun w => freeEntry w.req) v →
        Leaves (.stepEnd a n) s (emit (.confirm ((chain w t.aisle).headD (0, 0)).1 t.aisle t.num) (releaseItems t.aisle t.num w))))) ∧
  (∀ s a n c, a < 64 → c < 256 → (aisleReqs s a = [] → Leaves (.stepCommitConfirm a n c) s s) ∧
    Leaves (.stepCommitConfirm a n c) s (forEach (aisleReqs s a) (fun r s => if (side s r).confirm.contains (n * 256 + c) then
      closeIfDone r (modSide r (fun x => { x with confirm := x.confirm.filter (· != n * 256 + c) }) s) else s) s)) ∧
  (∀ s r, r < 2 ^ 24 →
    (finalDue s r = false → Leaves (.generationFinal r) s s) ∧
    (∀ st k x, finalDue s r = true → x = side s r → x.ending = some st → k = (if st ≤ 2 ∧ x.lateFin = true ∧ x.template ≠ 0xFFFF then 0x31 else st) →
      (x.open_ ≠ .none_ → Leaves (.generationFinal r) s (leaveDraining r k (finishOpen r k s))) ∧
      (x.open_ = .none_ → Leaves (.generationFinal r) s (leaveDraining r k s))))) ∧
  ((∀ s b a, b ≠ [] → a = u8 b 14 → (chain s a)[myPos s a]? = none ∨ myPos s a = 0 → Leaves (.stepRecordReceive b) s s) ∧
  (∀ s b a p c n head, b ≠ [] → a = u8 b 14 → p = myPos s a → p ≠ 0 → (chain s a)[p]? = some (c, n) → (chain s a).head? = some head →
    (isOn s dSEQ = false → Leaves (.stepRecordReceive b) s (await dSEQ (.stepRecordReceive b) s)) ∧
    (∀ f u as k t v is w here, isOn s dSEQ = true → f = fresh s →
      ((chain s a)[p + 1]? = none → u = s) →
      (∀ d m, (chain s a)[p + 1]? = some (d, m) → u = touch dLNK (issuePW n d 0 0 0 (f.1 % 2 ^ 21) [] false b f.2)) →
      as = (List.range 16).map (fun i => u16 b (20 + 2 * i)) → k = recordRows head n (u32 b 0) (u8 b 12) as b (u8 b 13) u →
      t = { num := u32 b 0, aisle := a, model := u8 b 12, issue := u64 b 4, issued := true, phase := 1, rows := k.1, adapters := as,
            cyc := if bit (u8 b 15) 0 then some (u16 b 16) else none } →
      v = { k.2 with steps := k.2.steps ++ [t] } → is = stepItems t n 0 v →
      w = touch dSEQ (if t.rows.any (fun w => w.new != 0) then placeItems a (u32 b 0) n is.1 is.2 else v) →
      here = (!t.rows.any (fun w => w.new != 0) || t.rows.any (fun z => (side w z.req).fed)) →
      (here = false → Leaves (.stepRecordReceive b) s (forEach t.rows (fun w => modSide w.req (fun x => { x with fed := false })) w)) ∧
      (here = true → Leaves (.stepRecordReceive b) s (feed a (u32 b 0) (forEach t.rows (fun w => modSide w.req (fun x => { x with fed := false })) w))))))

/-- The cycle (R132, R314, R318, R321, R529): it begins at its boundary, once; its slots begin in order at their
offsets, an idle one carrying no step; after a job fault it is entered again at a slot boundary with 0x0A02. A slot's
step is composed and issued at the slot's start by the model's choice: log entry 45. The count of idled cycles is log
entry 85. A row whose condition does not hold changes nothing: log entry 77. -/
def Obligations.FixedCycle : Prop :=
  (∀ s, (cycleRuns s = true → cycleBoundary s = true → s.fixed.at_ ≠ s.ft ∨ rd s rCycles = 0 → Leaves .cycleStart s (beginCycle s)) ∧
    (cycleRuns s = false ∨ cycleBoundary s = false ∨ (s.fixed.at_ = s.ft ∧ rd s rCycles ≠ 0) → Leaves .cycleStart s s)) ∧
  (∀ s g t, (planSlots s)[s.fixed.slot]? = some g → t = { s with fixed := { s.fixed with slot := s.fixed.slot + 1 } } →
    (cycleRuns s = false ∨ rd s rCycles = 0 ∨ s.ft < s.fixed.at_ + slotOfs s s.fixed.slot → Leaves .slotStart s s) ∧
    (cycleRuns s = true → rd s rCycles ≠ 0 → s.fixed.at_ + slotOfs s s.fixed.slot ≤ s.ft →
      (g.idle = true ∨ s.fixed.idled = true → Leaves .slotStart s t) ∧
      (g.idle = false → s.fixed.idled = false → Leaves .slotStart s (forEach (s.conf.aisles.map Prod.fst) (slotStep s.fixed.slot g) t)))) ∧
  (∀ s, (planSlots s)[s.fixed.slot]? = none → Leaves .slotStart s s) ∧
  (∀ s, s.fixed.stopped = none ∨ isFixed s = false ∨ isOn s dSEQ = false ∨ s.ft < phaseFt s → Leaves .cycleRestart s s) ∧
  (∀ s o u, s.fixed.stopped.isSome = true → isFixed s = true → isOn s dSEQ = true → phaseFt s ≤ s.ft → o = (s.ft - phaseFt s) % periodFt s →
    ((∀ i, i < (planSlots s).length → slotOfs s i ≠ o) → Leaves .cycleRestart s s) ∧
    (∀ i, (List.range (planSlots s).length).find? (fun i => slotOfs s i == o) = some i →
      u = logC 0x0A02 [] { s with fixed := { s.fixed with stopped := none, at_ := s.ft - o, slot := i } } →
      (i ≠ 0 → Leaves .cycleRestart s u) ∧ (i = 0 → Leaves .cycleRestart s (beginCycle u))))


/-! ### Masks and rings -/

/-- SMP_MASK_CMD (R411, R412): STAGE gives the selected id a page of its stall, or answers why not: 3 for another
stall's id, 4 while it is staged or being released, 1 with no page to spare; COMMIT puts the staged page in force, 2
without one, and the page it replaces waits to be freed; RELEASE takes the pages back. RING_CMD (R431, R432, R506):
CREATE refuses a configuration out of range, or one a VF may not ask for, with 2, a stall with no rings left with 1
and one with no run of pages with 5, and opens the lowest free ring in host memory or in pond pages of the stall;
DESTROY refuses a ring that is not the stall's with 3 and a bound one with 4, frees the pages of a pond ring, and ends
the handle. RING_DB and a failed ring write (R276, R434, R435, R438): a head beyond what was written is logged as
0x0F05; another returns its records, wakes the stall and lets the bound request's held records follow, which unblocks
it once none is left, unless its deadline came first; a failed write takes the ring to ERROR with 0x0F04 and ends the
request bound to it. BUSY for an id that is staged is the model's choice: log entry 43. A row whose condition does not
hold changes nothing: log entry 77. -/
def Obligations.MasksAndRings : Prop :=
  (∀ s m n x, maskSel s = (m, n) → x = mask s m →
    (x.page.isSome = true ∨ x.staged.isSome = true → x.stall ≠ n → Leaves .maskStage s (maskStatus 3 (wrf 0x0016000C 13 0 0 s)) ∧ Leaves .maskRelease s (maskStatus 3 s)) ∧
    (x.stall = n ∨ (x.page = none ∧ x.staged = none) →
      (x.releasing = true ∨ x.staged.isSome = true → Leaves .maskStage s (maskStatus 4 (wrf 0x0016000C 13 0 0 s))) ∧
      (x.releasing = false → x.staged = none → spare s n 1 = false → Leaves .maskStage s (maskStatus 1 (wrf 0x0016000C 13 0 0 s))) ∧
      (∀ p u, x.releasing = false → x.staged = none → spare s n 1 = true → allocPage n s = (some p, u) →
        Leaves .maskStage s (maskStatus 0 (wrf 0x0016000C 13 0 p (modMask m (fun y => { y with stall := n, staged := some p }) u)))) ∧
      (∀ u, x.releasing = false → x.staged = none → spare s n 1 = true → allocPage n s = (none, u) →
        Leaves .maskStage s (maskStatus 1 (wrf 0x0016000C 13 0 0 u))) ∧
      (∀ u, (x.staged = none → u = s) → (∀ p, x.staged = some p → u = freePage p s) →
        Leaves .maskRelease s (maskStatus 0 (reapMasks (modMask m (fun y => { y with
          staged := none, page := none, releasing := y.page.isSome || !y.old.isEmpty, old := match y.page with | some q => y.old ++ [(q, u.ft)] | none => y.old }) u))))) ∧
    (x.staged = none → Leaves .maskCommit s (maskStatus 2 s)) ∧
    (∀ p, x.staged = some p →
      (x.stall ≠ n → Leaves .maskCommit s (maskStatus 3 s)) ∧
      (x.stall = n → Leaves .maskCommit s (maskStatus 0 (reapMasks (modMask m (fun y => { y with
        staged := none, page := some p, blocks := blocksOf s p, first := if y.page.isSome then y.first else s.ft,
        old := match y.page with | some q => y.old ++ [(q, s.ft)] | none => y.old }) s)))))) ∧
  ((∀ s n src c k b v, n < 32 → srcOk src = true → ownWindow src n = true → c = rd s (win n 0x118) → k = bits c 3 0 → b = rd64 s (win n 0x110) →
    (v = true ↔ ∃ m, src = .vf m) →
    (k < 4 ∨ 12 < k ∨ bits c 12 11 = 3 ∨ (bit c 4 = true ∧ v = true) ∨ (bit c 4 = false ∧ b % min (16 * 2 ^ k) 4096 ≠ 0) →
      Leaves (.ringCreate n src) s (ringCode n 2 s)) ∧
    (4 ≤ k → k ≤ 12 → bits c 12 11 ≠ 3 → (bit c 4 = true → v = false) → (bit c 4 = false → b % min (16 * 2 ^ k) 4096 = 0) →
      ((stallCfg s n).rings ≤ (s.rings.filter (fun g => g.2.stall == n && g.2.st != 0)).length ∨ (∀ j, j < 8192 → (ring s j).st ≠ 0) →
        Leaves (.ringCreate n src) s (ringCode n 1 s)) ∧
      (∀ i pages, (s.rings.filter (fun g => g.2.stall == n && g.2.st != 0)).length < (stallCfg s n).rings → i < 8192 → (ring s i).st = 0 →
        (∀ j, j < i → (ring s j).st ≠ 0) → pages = cdiv (16 * 2 ^ k) 8192 →
        (∀ u, bit c 4 = false →
          u = modRing i (fun _ => { st := 1, stall := n, src := src, base := BitVec.ofNat 64 b, k := k, pond := false, vec := bits c 10 5, notify := bits c 12 11, phase := true }) s →
          Leaves (.ringCreate n src) s (wr64 (win n 0x108) (ringHandle u i) (ringCode n 0 u))) ∧
        (bit c 4 = true → spare s n pages = false ∨ findRun s n pages = none → Leaves (.ringCreate n src) s (ringCode n 5 s)) ∧
        (∀ p u, bit c 4 = true → spare s n pages = true → findRun s n pages = some p →
          u = modRing i (fun _ => { st := 1, stall := n, src := src, base := BitVec.ofNat 64 (8192 * p), k := k, pond := true, vec := bits c 10 5, notify := bits c 12 11, phase := true })
            (wr64 (win n 0x110) (8192 * p) (forEach (List.range pages) (fun j => takePage n (p + j)) s)) →
          Leaves (.ringCreate n src) s (wr64 (win n 0x108) (ringHandle u i) (ringCode n 0 u)))))) ∧
  (∀ s n i g, n < 32 → g = ring s i →
    (g.st = 0 ∨ g.stall ≠ n → Leaves (.ringDestroy n i) s (ringCode n 3 s)) ∧
    (g.st ≠ 0 → g.stall = n → g.req.isSome = true → Leaves (.ringDestroy n i) s (ringCode n 4 s)) ∧
    (g.st ≠ 0 → g.stall = n → g.req = none → g.pond = false → Leaves (.ringDestroy n i) s (ringCode n 0 (bumpGen 3 i { s with rings := del s.rings i }))) ∧
    (∀ u, g.st ≠ 0 → g.stall = n → g.req = none → g.pond = true →
      u = forEach (List.range (cdiv (16 * 2 ^ g.k) 8192)) (fun j => freePage (g.base.toNat / 8192 + j)) s →
      Leaves (.ringDestroy n i) s (ringCode n 0 (bumpGen 3 i { u with rings := del u.rings i }))))) ∧
  ((∀ s n v i g k, n < 32 → i = bits v.toNat 12 0 → g = ring s i →
    k = (bits v.toNat 24 13 + 2 ^ g.k - (g.tail + 2 ^ g.k - g.unread) % 2 ^ g.k) % 2 ^ g.k →
    (g.st = 0 ∨ g.stall ≠ n → Leaves (.ringDb n v) s s) ∧
    (g.st ≠ 0 → g.stall = n → 2 ^ g.k ≤ bits v.toNat 24 13 ∨ g.unread < k → Leaves (.ringDb n v) s (logEv 0x0F05 n [] (setBit (win n 0x12C) 0 s))) ∧
    (∀ u, g.st ≠ 0 → g.stall = n → bits v.toNat 24 13 < 2 ^ g.k → k ≤ g.unread →
      u = wakeAll 2 (dSEQ :: clustersOf (stallCfg s n) ++ halvesOf s n) (modRing i (fun g => { g with unread := g.unread - k }) s) →
      (g.req = none → Leaves (.ringDb n v) s u) ∧
      (∀ r e late w, g.req = some r → e = ent u r → late = (e.st == .blocked && !(side u r).exempt && e.deadline.any (fun d => decide (d < u.ft))) → w = writeHeld r i 4 u →
        (late = true → Leaves (.ringDb n v) s u) ∧
        (late = false → (ent w r).st = .blocked → (side w r).heldRecs = [] → Leaves (.ringDb n v) s (modEnt r (fun e => { e with st := .decode }) w)) ∧
        (late = false → (ent w r).st ≠ .blocked ∨ (side w r).heldRecs ≠ [] → Leaves (.ringDb n v) s w)))) ∧
  (∀ s i g u, i < 8192 → g = ring s i →
    u = logEv 0x0F04 g.stall [i] (setBit (win g.stall 0x12C) 1 (modRing i (fun g => { g with st := 3 }) (dmaFail g.src s))) →
    (g.st = 1 ∨ g.st = 2 → g.req = none → Leaves (.ringDmaFail i) s u) ∧
    (∀ r, g.st = 1 ∨ g.st = 2 → g.req = some r → Leaves (.ringDmaFail i) s (toClosing r 0x40 0x40 0x12 false (maskReq r 3 u))) ∧
    (g.st ≠ 1 → g.st ≠ 2 → Leaves (.ringDmaFail i) s s)))


/-! ### Near memory -/

/-- In-bank commands come and go (R451 to R454, R456 to R458, R461, R470, R471): with 64 waiting a command is refused
FULL; the die is woken, a bad descriptor is refused with its status and 0x1204, and another is queued behind the
accesses already held that touch its rows, from the saved index where it resumes; it starts when nothing before it
shares a bank and its mode allows; a finished one gives its status, counts, posts its flag and raises the event the
host asked for; ABORT discards the waiting ones, stops what runs after its row operation and keeps the rest's
descriptors. Row operations (R411, R450, R453, R458, R460, R468 to R470): each of the nine begins where its mode
allows and changes the rows of its range, MASKOUT staging the mask first and ending with its status where that is
refused; on a command that does not run, or is of another operation, it does nothing; it is over after its time, not
before, the next one then following, the index standing in PIM_PROGRESS where the die has something pending; an
aborted command stops there; MASKOUT's page is then committed. The order of the checks and the instant at which rows
change are the model's choices: log entries 67 to 69. A row whose condition does not hold changes nothing: log entry
77. -/
def Obligations.InBankCommandsRun : Prop :=
  ((∀ s d w x, d = pimDesc (pimRaw s) → w = wakeDom dNMC s → x = pimRefusal w d →
    (64 ≤ (s.nmc.q.filter (fun r => !r.running)).length → Leaves .pimCmdGo s (setBit rPimStat 8 s)) ∧
    ((s.nmc.q.filter (fun r => !r.running)).length < 64 →
      (x ≠ 0 → Leaves .pimCmdGo s (logC 0x1204 [] (pimStatus x w))) ∧
      (∀ held, x = 0 → held = (w.heldAcc.filter (fun p => match atLake p with
          | some (off, n, _) => (List.range (n / 8192 + 2)).any (fun i => d.names (min (off + 8192 * i) (off + n - 1)))
          | none => false)).map Prod.snd →
        Leaves .pimCmdGo s (modNmc (fun m => { m with
          q := m.q ++ [{ id := m.nextId, desc := d, index := if d.resume then rd w rPimProgress else 0, before := held }], nextId := m.nextId + 1 }) w)))) ∧
  (∀ s id r, pimRun s id = some r →
    (r.running = false → (∀ y ∈ s.nmc.q.takeWhile (fun y => y.id != id), y.desc.shares r.desc = false) → (∀ p ∈ s.heldAcc, r.before.contains p.2 = false) →
      runMay s r = true → Leaves (.pimCommandStart id) s (touch dNMC (modRun id (fun r => { r with running := true }) s))) ∧
    (r.running = true ∨ (∃ y ∈ s.nmc.q.takeWhile (fun y => y.id != id), y.desc.shares r.desc = true) ∨ (∃ p ∈ s.heldAcc, r.before.contains p.2 = true) ∨
      runMay s r = false → Leaves (.pimCommandStart id) s s)) ∧
  (∀ s id r u, pimRun s id = some r →
    (r.finished = false → Leaves (.pimCommandComplete id) s s) ∧
    (r.finished = true →
      u = (if r.desc.post then postFlag r.desc.event (pimStatus r.status (addWrap 0x001A0030 1 (dropRun id s))) else pimStatus r.status (addWrap 0x001A0030 1 (dropRun id s))) →
      (bit (rd u rPimCtl) 0 = false → Leaves (.pimCommandComplete id) s u) ∧
      (bit (rd u rPimCtl) 0 = true → Leaves (.pimCommandComplete id) s (devEvent 2 u)))) ∧
  (∀ s id, pimRun s id = none → Leaves (.pimCommandStart id) s s ∧ Leaves (.pimCommandComplete id) s s) ∧
  (∀ s u, u = modNmc (fun m => { m with q := m.q.filter (·.running) }) s →
    Leaves .pimCmdAbort s (forEach (u.nmc.q.filter (fun r => !r.finished)) (fun r s =>
      if r.since.isSome then modRun r.id (fun r => { r with status := 4 }) s else pimStop r r.index s) u) ∧
    ((∀ r ∈ u.nmc.q, r.finished = true) → Leaves .pimCmdAbort s u))) ∧
  ((∀ s id r u, pimRun s id = some r → r.running = true → r.since = none → r.finished = false → r.status = 0 → runMay s r = true →
    u = busyBegin r.desc (touch dNMC (modRun id (fun r => { r with since := some s.ft }) s)) →
    (r.desc.op = 1 → Leaves (.pimZero id) s (rowEffect r u)) ∧ (r.desc.op = 2 → Leaves (.pimCopy id) s (rowEffect r u)) ∧
    (r.desc.op = 3 → Leaves (.pimNot id) s (rowEffect r u)) ∧ (r.desc.op = 4 → Leaves (.pimAnd id) s (rowEffect r u)) ∧
    (r.desc.op = 5 → Leaves (.pimOr id) s (rowEffect r u)) ∧ (r.desc.op = 6 → Leaves (.pimMaj3 id) s (rowEffect r u)) ∧
    (r.desc.op = 7 → Leaves (.pimXor id) s (rowEffect r u)) ∧
    (r.desc.op = 8 → Leaves (.pimXfer id) s (modNmc (fun m => { m with lake := unitApply r.desc r.index m.lake }) u)) ∧
    (∀ x, r.desc.op = 9 → x = stageMask r.desc.maskId r.desc.maskStall u →
      (x.1 = 0 → Leaves (.pimMaskout id) s x.2.2) ∧
      (x.1 ≠ 0 → Leaves (.pimMaskout id) s (busyEnd r.desc (modRun r.id (fun r => { r with since := none, status := x.1 + 4, finished := true }) x.2.2))))) ∧
  (∀ s id r, pimRun s id = some r →
    (r.running = false ∨ r.since.isSome = true ∨ r.finished = true ∨ r.status ≠ 0 ∨ runMay s r = false →
      Leaves (.pimZero id) s s ∧ Leaves (.pimCopy id) s s ∧ Leaves (.pimNot id) s s ∧ Leaves (.pimAnd id) s s ∧ Leaves (.pimOr id) s s ∧
      Leaves (.pimMaj3 id) s s ∧ Leaves (.pimXor id) s s ∧ Leaves (.pimXfer id) s s ∧ Leaves (.pimMaskout id) s s) ∧
    (r.desc.op ≠ 1 → Leaves (.pimZero id) s s) ∧ (r.desc.op ≠ 2 → Leaves (.pimCopy id) s s) ∧ (r.desc.op ≠ 3 → Leaves (.pimNot id) s s) ∧
    (r.desc.op ≠ 4 → Leaves (.pimAnd id) s s) ∧ (r.desc.op ≠ 5 → Leaves (.pimOr id) s s) ∧ (r.desc.op ≠ 6 → Leaves (.pimMaj3 id) s s) ∧
    (r.desc.op ≠ 7 → Leaves (.pimXor id) s s) ∧ (r.desc.op ≠ 8 → Leaves (.pimXfer id) s s) ∧ (r.desc.op ≠ 9 → Leaves (.pimMaskout id) s s) ∧
    (r.since = none → Leaves (.rowOperationComplete id) s s)) ∧
  (∀ s id r t n ds u v, pimRun s id = some r → r.since = some t → n = r.index + 1 → ds = [0, 1].filter (r.desc.onDie s) →
    u = modNmc (fun m => { m with burst := m.burst.filter (fun x => !ds.contains x) })
      (busyEnd r.desc (modRun id (fun r => { r with since := none, index := n, finished := n == r.desc.total }) s)) →
    v = (if n ≠ r.desc.total ∧ ds.any (diePending u) = true then wr rPimProgress n u else u) →
    (s.ft < t + rowFt r.desc.op → Leaves (.rowOperationComplete id) s s) ∧
    (t + rowFt r.desc.op ≤ s.ft → r.status = 4 → Leaves (.rowOperationComplete id) s (pimStop r n u)) ∧
    (t + rowFt r.desc.op ≤ s.ft → r.status ≠ 4 → r.desc.op ≠ 9 → Leaves (.rowOperationComplete id) s v) ∧
    (t + rowFt r.desc.op ≤ s.ft → r.status ≠ 4 → r.desc.op = 9 → Leaves (.rowOperationComplete id) s (maskoutEnd r v))))

/-- What a bitwise row operation writes (R450): byte by byte, ZERO, COPY, NOT, AND, OR, MAJ3 and XOR of rows A, B and
C. -/
def Obligations.RowBytesAreBitwise : Prop :=
  ∀ a b c : Byte, rowByte 1 a b c = 0 ∧ rowByte 2 a b c = a ∧ rowByte 3 a b c = ~~~ a ∧ rowByte 4 a b c = a &&& b ∧
    rowByte 5 a b c = a ||| b ∧ rowByte 6 a b c = (a &&& b) ||| (a &&& c) ||| (b &&& c) ∧ rowByte 7 a b c = a ^^^ b ∧
    ∀ i, i < 8 → (rowByte 6 a b c).getLsbD i = decide (2 ≤ b2n (a.getLsbD i) + b2n (b.getLsbD i) + b2n (c.getLsbD i))

/-- Refresh, frames and temperature (R447, R464, R466, R468): with NMC below ON no refresh is due; on a SCHEDULED
channel one is done in the first REFRESH slot of each frame; elsewhere one is due at the end of its interval, shorter
when the die is hot, and pending while in-bank commands run there; a new frame owes its refreshes again; a crossing of
85 degrees is logged; a pending die is served a burst when PIM_RDY rises. Refresh without a plan is log entry 69. A
row whose condition does not hold changes nothing: log entry 77. -/
def Obligations.RefreshAndPreemption : Prop :=
  (∀ s c, c < 16 → isOn s dNMC = false → Leaves (.refreshDue c) s s) ∧
  (∀ s c i l k, c < 16 → isOn s dNMC = true → handshake s c = false → slotNow s = some (i, k, l) →
    (k = 0 → 176 ≤ l → s.nmc.refreshed.contains c = false → (∀ x ∈ s.conf.nmc.slots.take i, x.2 ≠ 0) → Leaves (.refreshDue c) s (refreshNow c s)) ∧
    (k ≠ 0 ∨ l < 176 ∨ s.nmc.refreshed.contains c = true ∨ (∃ x ∈ s.conf.nmc.slots.take i, x.2 = 0) → Leaves (.refreshDue c) s s)) ∧
  (∀ s c due, c < 16 → isOn s dNMC = true → handshake s c = true ∨ slotNow s = none →
    due = decide (look s.nmc.lastRefresh c 0 + (if hot s (dieOf c) then 3125 else 6250) ≤ s.ft + 1) →
    (s.nmc.refresh.contains c = false → due = false → Leaves (.refreshDue c) s s) ∧
    (s.nmc.refresh.contains c = true ∨ due = true →
      (handshake s c = true → dieWorks s (dieOf c) = true → s.nmc.refresh.contains c = true → Leaves (.refreshDue c) s s) ∧
      (handshake s c = true → dieWorks s (dieOf c) = true → s.nmc.refresh.contains c = false →
        Leaves (.refreshDue c) s (modNmc (fun m => { m with refresh := m.refresh ++ [c] }) s)) ∧
      (handshake s c = false ∨ dieWorks s (dieOf c) = false → Leaves (.refreshDue c) s (refreshNow c s)))) ∧
  (∀ s, (s.conf.nmc.frame ≠ 0 → s.ft % s.conf.nmc.frame = 0 → Leaves .bankFrameStart s (modNmc (fun m => { m with refreshed := [] }) s)) ∧
    (s.conf.nmc.frame = 0 ∨ s.ft % s.conf.nmc.frame ≠ 0 → Leaves .bankFrameStart s s)) ∧
  (∀ s d t u, d < 2 → u = modNmc (fun m => if d = 0 then { m with temp0 := t } else { m with temp1 := t }) s →
    (hot s d = decide (85 < t) → Leaves (.dieTempCross d t) s u) ∧ (hot s d ≠ decide (85 < t) → Leaves (.dieTempCross d t) s (logC 0x1206 [] u))) ∧
  (∀ s d, d < 2 →
    (isOn s dNMC = false ∨ diePending s d = false ∨ rowBusy s d = true ∨ dieWorks s d = false ∨ s.nmc.burst.contains d = true → Leaves (.handshakePreempt d) s s) ∧
    (∀ rs ws, isOn s dNMC = true → diePending s d = true → rowBusy s d = false → dieWorks s d = true → s.nmc.burst.contains d = false →
      rs = (s.nmc.refresh.filter (fun c => dieOf c == d)).take s.conf.nmc.burst → ws = (dieWaiting s d).take (s.conf.nmc.burst - rs.length) →
      Leaves (.handshakePreempt d) s (modNmc (fun m => { m with burst := m.burst ++ [d] })
        (forEach ws (fun p s => serveHeld p.2 { s with heldAcc := s.heldAcc.erase p }) (forEach rs refreshNow s)))))

/-- Ordinary accesses (R443 to R446, R448, R627, R630): one that its controller and turn allow is served, and stores
exactly its bytes, a read none; another waits and wakes NMC. A BAR4 access beyond the lake is answered without the
memory; one in L1 waits. The ECC operand is the model's choice: log entry 71. -/
def Obligations.LakeAccesses : Prop :=
  (∀ s k o w e n, k < 8 → o < 2 ^ 35 → (∀ b, w = some b → o + b.length ≤ 2 ^ 35) → n = (w.map List.length).getD 64 →
    (lakeNow s o n k = true → lakeBehind s o k = false → Leaves (.lakeAccess k o w e) s (lakeServe o w e s)) ∧
    (lakeNow s o n k = false ∨ lakeBehind s o k = true → Leaves (.lakeAccess k o w e) s (await dNMC (.lakeAccess k o w e) (wakeDom dNMC s)))) ∧
  (∀ s k o b e, k < 8 → o < 2 ^ 35 → o + b.length ≤ 2 ^ 35 → lakeNow s o b.length k = true → lakeBehind s o k = false →
    Gives (.lakeAccess k o (some b) e) s (fun t => t.nmc.lake = putBytes s.nmc.lake o b ∧ t.pond = s.pond ∧
      ∀ a, a < o ∨ o + b.length ≤ a → look t.nmc.lake a 0 = look s.nmc.lake a 0)) ∧
  (∀ s k o e, k < 8 → o < 2 ^ 35 → lakeNow s o 64 k = true → lakeBehind s o k = false →
    Gives (.lakeAccess k o none e) s (fun t => t.nmc.lake = s.nmc.lake ∧ t.pond = s.pond)) ∧
  (∀ s o d n x u, o + d.length ≤ 2 ^ 36 → o + n ≤ 2 ^ 36 → u = { s with spg := { s.spg with lastTlp := s.ft } } →
    (s.spg.l1 = true → Leaves (.bar4Write o d) s (await dL0 (.bar4Write o d) s) ∧ Leaves (.bar4Read o n x) s (await dL0 (.bar4Read o n x) s)) ∧
    (s.spg.l1 = false → 2 ^ 35 ≤ o → Leaves (.bar4Write o d) s (touch dNMC (bar4WriteNow o d u)) ∧ Leaves (.bar4Read o n x) s (touch dNMC (bar4ReadNow o n x u))) ∧
    (s.spg.l1 = false → o < 2 ^ 35 →
      (lakeNow u o d.length 5 = true → lakeBehind u o 5 = false → Leaves (.bar4Write o d) s (touch dNMC (bar4WriteNow o d u))) ∧
      (lakeNow u o d.length 5 = false ∨ lakeBehind u o 5 = true → Leaves (.bar4Write o d) s (await dNMC (.bar4Write o d) (wakeDom dNMC u))) ∧
      (lakeNow u o n 5 = true → lakeBehind u o 5 = false → Leaves (.bar4Read o n x) s (touch dNMC (bar4ReadNow o n x u))) ∧
      (lakeNow u o n 5 = false ∨ lakeBehind u o 5 = true → Leaves (.bar4Read o n x) s (await dNMC (.bar4Read o n x) (wakeDom dNMC u)))))


/-! ### Images -/

/-- Fetching and staging an image (R151 to R153, R156, R165): a START is ignored with 0x1618 while an image is under
way and in safe hold; otherwise the loader fetches. A frame is read only while the loader fetches and the image or the
bundle has more; one that cannot be read fails with 0x1611, one that the staging bank does not hold yet is waited for,
NMC being woken; a frame of another member goes on, and one of this chip's image is checked. Once all frames are there
the last checks pass and the image is STAGED, or it fails; ABORT before installation fails it with 0x1612; a member's
frames from the root come into the staging bank in order, once NMC is ON. Where plaintext stands is log entry 88. A
row whose condition does not hold changes nothing: log entry 77. -/
def Obligations.ImagesAreStaged : Prop :=
  (∀ s v u, u = wrf rImgCtl 5 3 (bits v.toNat 5 3) s →
    (s.rst.safeHold = true → Leaves (.imgStart v) s u) ∧
    (s.rst.safeHold = false → loaderIdle s = false → Leaves (.imgStart v) s (logC 0x1618 [] u)) ∧
    (s.rst.safeHold = false → loaderIdle s = true → Leaves (.imgStart v) s (beginFetch (bits v.toNat 4 3) false u))) ∧
  (∀ s x, sizeOk 4096 x = true →
    (s.img.st ≠ 1 ∨ s.img.ended = true ∨ (framesDone s = true ∧ (readsBundle s && s.img.hdr.member) = false) → Leaves (.imageFrameFetched x) s s) ∧
    (s.img.st = 1 → s.img.ended = false → framesDone s = false ∨ (readsBundle s && s.img.hdr.member) = true →
      (nextFrame s x = none → isOn s dNMC = true → Leaves (.imageFrameFetched x) s s) ∧
      (nextFrame s x = none → isOn s dNMC = false → Leaves (.imageFrameFetched x) s (wakeDom dNMC s)) ∧
      (nextFrame s x = some none → Leaves (.imageFrameFetched x) s (imgFail (0x1611, []) s)) ∧
      (∀ f, nextFrame s x = some (some f) →
        (∀ c k n, s.img.fwd = some (c, k, n) → Leaves (.imageFrameFetched x) s (forwardFrame c k n (fit 4096 f) s)) ∧
        (s.img.fwd = none → (s.img.frames.isEmpty || framesDone s) = true → Leaves (.imageFrameFetched x) s (firstFrame (fit 4096 f) s)) ∧
        (s.img.fwd = none → (s.img.frames.isEmpty || framesDone s) = false → Leaves (.imageFrameFetched x) s (ownFrame (fit 4096 f) s))))) ∧
  (∀ s, s.img.st ≠ 1 ∨ framesDone s = false ∨ ((readsBundle s && s.img.hdr.member) = true ∧ s.img.ended = false) → Leaves .imageStaged s s) ∧
  (∀ s u, s.img.st = 1 → framesDone s = true → (readsBundle s && s.img.hdr.member) = false ∨ s.img.ended = true →
    u = setLoader 2 (modSecm (fun m => { m with imgKey := false }) s) →
    (∀ b, stagedBad s = some b → Leaves .imageStaged s (imgFail b s)) ∧
    (stagedBad s = none → (s.img.boot || bit (rd u rImgCtl) 5) = true → Leaves .imageStaged s (proceed u)) ∧
    (stagedBad s = none → (s.img.boot || bit (rd u rImgCtl) 5) = false → Leaves .imageStaged s u)) ∧
  (∀ s, (1 ≤ s.img.st → s.img.st ≤ 3 → Leaves .imgCtlAbort s (memberReport true 0x1612 (enterFailed (0x1612, []) s))) ∧
    (s.img.st = 0 ∨ 4 ≤ s.img.st → Leaves .imgCtlAbort s s)) ∧
  (∀ s m, isOn s dNMC = false → Leaves (.imgData m) s (wakeDom dNMC (await dNMC (.imgData m) s))) ∧
  (∀ s m, isOn s dNMC = true → (u8 (ctlOf m).body 8 ≠ s.fab.chip ∨ s.rst.safeHold = true) → Leaves (.imgData m) s s) ∧
  (∀ s m b k at_ (first kept : State → State), isOn s dNMC = true → b = (ctlOf m).body → u8 b 8 = s.fab.chip → s.rst.safeHold = false →
    k = u32 b 12 → at_ = BitVec.ofNat 64 (u64 b 0) →
    (∀ t, kept t = modImg (fun i => { i with pos := k + 1 }) { t with nmc := { t.nmc with lake := setRange t.nmc.lake (0x600000000 + 4096 * k) (slice b 32 4096) } }) →
    (∀ t, first t = kept (modImg (fun i => { i with hdr := { member := true, bundle := at_ }, bundleNow := some at_ }) t)) →
    (k = 0 → takesFromRoot s = true → Leaves (.imgData m) s (first (beginFetch 2 false s))) ∧
    (k = 0 → takesFromRoot s = false → s.img.st = 1 → s.img.source = 2 → s.img.pos = 0 → Leaves (.imgData m) s (first s)) ∧
    (k ≠ 0 ∨ s.img.pos ≠ 0 → s.img.st = 1 → s.img.source = 2 → s.img.bundleNow = some at_ →
      (k = s.img.pos → k < 1048576 → Leaves (.imgData m) s (kept s)) ∧
      (k ≠ s.img.pos ∨ 1048576 ≤ k → Leaves (.imgData m) s (imgFail (0x1611, []) s))) ∧
    (k ≠ 0 ∨ takesFromRoot s = false → s.img.st ≠ 1 ∨ s.img.source ≠ 2 ∨ ((k ≠ 0 ∨ s.img.pos ≠ 0) ∧ s.img.bundleNow ≠ some at_) → Leaves (.imgData m) s s))

/-- Drains, installation and commit (R156, R157, R159, R166, R169, R170): ACTIVATE takes a staged image on; a write of
IMG_DRAIN begins and ends the drains whose bits change; a stall with nothing left is drained, with 0x1619, by the
sequencer; what the deadline of a drain still in force meets is dropped, with 0x161A; an installed image of its own,
its sections in the store, commits with 0x1616, and a bundle's is ARMED and reports; once the installation is over and
no thread is inside a bulk instruction, reloaded firmware runs, and a control core without firmware stops. Bundles
(R161 to R163): at the root a report is counted, and another chip ignores it; an armed member commits at its instant,
or at once with 0x1615 when that has passed, and a chip that holds no member of that bundle ignores the arming; an
abort of its bundle before the commit fails a member with 0x161B; the root aborts a bundle whose time is up, 10 ms
when the register holds a value outside 1 to 1,000. Who is told of a bundle and when firmware is reloaded are log
entries 48 and 59. The places in the store are log entry 88. A row whose condition does not hold changes nothing: log
entry 77. -/
def Obligations.ImagesAreInstalledAndCommit : Prop :=
  ((∀ s, (s.img.st = 2 → Leaves .imgActivate s (proceed s)) ∧ (s.img.st ≠ 2 → Leaves .imgActivate s s)) ∧
  (∀ s v, Leaves (.imgDrainWrite v) s (forEach ((List.range 32).filter (fun n => !bit (rd s rDrain) n && bit v.toNat n)) beginDrain
    (forEach ((List.range 32).filter (fun n => bit (rd s rDrain) n && !bit v.toNat n)) endDrain (wr rDrain v.toNat s)))) ∧
  (∀ s n, n < 32 → (draining s n = true → bit (rd s rDrained) n = false → stallEmpty s n = true → isOn s dSEQ = true →
      Leaves (.stallDrained n) s (tryInstall (logEv 0x1619 n [n] (setBit rDrained n s)))) ∧
    (draining s n = false ∨ bit (rd s rDrained) n = true ∨ stallEmpty s n = false ∨ isOn s dSEQ = false → Leaves (.stallDrained n) s s)) ∧
  (∀ s, isOn s dSEQ = false ∨ s.wks.dly.fired = [] → Leaves .drain s s) ∧
  (∀ s e rest u n (past : Nat → Prop), isOn s dSEQ = true → s.wks.dly.fired = e :: rest → e.kind = 7 → n = e.arg.toNat % 32 →
    u = modDly (fun d => { d with fired := rest }) s → (∀ k, past k ↔ look s.img.drainAt k 0 ≠ 0 ∧ look s.img.drainAt k 0 ≤ s.ft + 1) →
    (¬ past n → ¬ past (32 + n) → Leaves .drain s u) ∧
    (∀ rs, past n ∨ past (32 + n) →
      rs = (s.rtb.filter (fun p => p.2.stall == n && !p.2.shadow && p.2.st != .free && p.2.st != .paused && p.2.st != .fw)).map Prod.fst →
      Leaves .drain s (logEv 0x161A n [rs.length] (forEach rs dropForced u)))) ∧
  (∀ s, (s.img.st ≠ 4 → Leaves .installComplete s s) ∧
    (s.img.st = 4 → (writeStore s).img.hdr.member = false → Leaves .installComplete s (commitImage 0x1616 (writeStore s))) ∧
    (s.img.st = 4 → (writeStore s).img.hdr.member = true → Leaves .installComplete s (memberReport false 0 (setLoader 5 (writeStore s))))) ∧
  (∀ s, (s.img.reloading = false ∨ s.img.st = 4 ∨ s.img.st = 5 ∨ isOn s dCCR = false ∨ s.cc.threads.any (fun t => t.2.bulk.isSome) = true →
      Leaves .firmwareReloaded s s) ∧
    (∀ u, s.img.reloading = true → s.img.st ≠ 4 → s.img.st ≠ 5 → isOn s dCCR = true → s.cc.threads.any (fun t => t.2.bulk.isSome) = false →
      u = { modImg (fun i => { i with reloading := false }) s with
        cc := { s.cc with recs := s.cc.recs.map (fun (r : Nat × FwRec) => (r.1, { r.2 with since := r.2.since.map (fun _ => s.ft) })) } } →
      (s.conf.firmware.isSome = true → Leaves .firmwareReloaded s (ccReload u)) ∧
      (s.conf.firmware.isSome = false → Leaves .firmwareReloaded s { u with cc := { u.cc with run := 2 } })))) ∧
  ((∀ s m b, b = (ctlOf m).body → (isRoot s = true → Leaves (.imgReport m) s (takeReport (BitVec.ofNat 64 (u64 b 0)) (u8 b 8) (u8 b 9 == 1) s)) ∧
    (isRoot s = false → Leaves (.imgReport m) s s)) ∧
  (∀ s m b, b = (ctlOf m).body →
    (s.img.st = 5 → s.img.hdr.bundle = BitVec.ofNat 64 (u64 b 0) → u64 b 8 < s.ft → Leaves (.imgArm m) s (commitImage 0x1615 s)) ∧
    (s.img.st = 5 → s.img.hdr.bundle = BitVec.ofNat 64 (u64 b 0) → s.ft ≤ u64 b 8 →
      Leaves (.imgArm m) s (modImg (fun i => { i with armed := some (u64 b 8) }) s)) ∧
    (s.img.st ≠ 5 ∨ s.img.hdr.bundle ≠ BitVec.ofNat 64 (u64 b 0) → Leaves (.imgArm m) s s)) ∧
  (∀ s, (∀ t, s.img.armed = some t → s.img.st = 5 → t ≤ s.ft → Leaves .bundleCommit s (commitImage 0x1616 s)) ∧
    (s.img.armed = none ∨ s.img.st ≠ 5 ∨ (∃ t, s.img.armed = some t ∧ s.ft < t) → Leaves .bundleCommit s s)) ∧
  (∀ s m b, b = BitVec.ofNat 64 (u64 (ctlOf m).body 0) →
    (s.img.hdr.member = true → s.img.hdr.bundle = b → 1 ≤ s.img.st → s.img.st ≤ 5 → Leaves (.imgAbort m) s (enterFailed (0x161B, []) s)) ∧
    (s.img.hdr.member = false ∨ s.img.hdr.bundle ≠ b ∨ s.img.st = 0 ∨ 5 < s.img.st → Leaves (.imgAbort m) s s)) ∧
  (∀ s d, (d = if 1 ≤ rdf s 0x0006002C 9 0 ∧ rdf s 0x0006002C 9 0 ≤ 1000 then rdf s 0x0006002C 9 0 else 10) →
    (∀ t, s.img.firstReport = some t → isRoot s = true → t + us (1000 * d) ≤ s.ft → Leaves .bundleTimeout s (abortBundle s.img.bundleId s)) ∧
    (s.img.firstReport = none ∨ isRoot s = false ∨ (∃ t, s.img.firstReport = some t ∧ s.ft < t + us (1000 * d)) → Leaves .bundleTimeout s s)))


/-! ### The security module -/

/-- What every command of the module meets (R592, R593, R597): on a busy channel it is ignored with status BUSY; in
ERROR it completes 10; before the module is released it completes 9 (the model's choice, log 73), as it is kept while
the key store is erased; without its role it completes NO_ROLE: LOGOUT, ATTEST and RANDOM need any session, and
PROVISION_SLOT, CLEAR_SLOT, LC_ADVANCE, CTR_RAISE and DEBUG_UNLOCK an officer's, which a user's is not. Sessions,
reports and random bytes (R593 to R596, R607, R609, R610, R617): a challenge is good for one response within one
second; an officer or a user whose answer verifies is in, any other answer is counted, and the sixteenth in a row
locks the identity; LOGOUT and the time-out end the session; SELFTEST that fails resets; ATTEST answers the signed
report, except in BLANK and RETIRED; RANDOM answers 1 to 512 bytes; the DRBG is reseeded after 1,048,576 requests or
one second. The layout of arguments and the statuses in SELFTEST and ERROR are the model's choices: log entries 72 and
73. A row whose condition does not hold changes nothing: log entry 77. -/
def Obligations.SecmSessionsAndAnswers : Prop :=
  (∀ s c (i : Instr), c < 2 → (i = .secmStatus c ∨ (∃ f, i = .selftest c f) ∨ i = .authChallenge c ∨ i = .authResponse c ∨ i = .logout c ∨
      i = .attest c ∨ i = .random c ∨ i = .provisionSlot c ∨ i = .clearSlot c ∨ i = .lcProvision c ∨ i = .lcAdvance c ∨ i = .ctrRaise c ∨
      i = .debugUnlock c ∨ i = .zeroise c) →
    ((sess s c).busy = true → Leaves i s (modSess c (fun x => { x with status := 9 }) s)) ∧
    ((sess s c).busy = false → s.secm.st = 2 → Leaves i s (secmEnd c 10 s)) ∧
    ((sess s c).busy = false → s.secm.st = 0 → Leaves i s (secmEnd c 9 s)) ∧
    ((sess s c).busy = false → s.secm.st = 3 → Leaves i s (modSess c (fun x => { x with busy := true, queued := some i }) s)) ∧
    (Listens s c → (sess s c).role = 0 → i = .logout c ∨ i = .attest c ∨ i = .random c → Leaves i s (secmEnd c 2 (heard c s))) ∧
    (Listens s c → (sess s c).role ≠ 2 → i = .provisionSlot c ∨ i = .clearSlot c ∨ i = .lcAdvance c ∨ i = .ctrRaise c ∨ i = .debugUnlock c →
      Leaves i s (secmEnd c 2 (heard c s)))) ∧
  ((∀ s c, c < 2 → Listens s c →
    Leaves (.authChallenge c) s (secmAnswer c (drbgBytes 48 (heard c s)).1
      (modSess c (fun x => { x with challenge := some ((drbgBytes 48 (heard c s)).1, s.ft) }) (drbgBytes 48 (heard c s)).2)) ∧
    Leaves (.selftest c none) s (secmEnd c 0 (logC 0x1401 [] (heard c s))) ∧
    (∀ t, t < 256 → Leaves (.selftest c (some t)) s (selfTamper (logC 0x1402 [t] (heard c s)))) ∧
    Leaves (.secmStatus c) s (secmAnswer c (leBytes 768 (fresh (heard c s)).1) (modSecm (fun m => { m with dak := true, dtk := true }) (fresh (heard c s)).2))) ∧
  (∀ s c arg id u (ok : Bool), c < 2 → Listens s c → arg = secmArg (heard c s) c → id = u8 arg 0 → u = modSess c (fun x => { x with challenge := none }) (heard c s) →
    (ok = true ↔ ∃ b t, (sess (heard c s) c).challenge = some (b, t) ∧ s.ft ≤ t + us 1000000 ∧ authOk u c id arg b = true) →
    (4 ≤ id ∧ id < 16 ∨ 24 ≤ id → Leaves (.authResponse c) s (secmEnd c 5 u)) ∧
    (id < 4 ∨ (16 ≤ id ∧ id < 24) → s.secm.locked.contains id = true → Leaves (.authResponse c) s (secmEnd c 4 (logC 0x1405 [] u))) ∧
    (∀ n, id < 4 ∨ (16 ≤ id ∧ id < 24) → s.secm.locked.contains id = false → n = look s.secm.fails id 0 + 1 → Leaves (.authResponse c) s
      (if ok then secmEnd c 0 (modSess c (fun x => { x with role := if id < 4 then 2 else 1, ident := id, rsp := [] })
          (modSecm (fun m => { m with fails := put m.fails id 0 0 }) u))
        else secmEnd c 3 (logC 0x1404 [id, n] (bumpSat 0x00040050 (modSecm (fun m => { m with
          fails := put m.fails id n 0, locked := if n = 16 then m.locked ++ [id] else m.locked }) u)))))) ∧
  (∀ s c, c < 2 → Listens s c → (sess s c).role ≠ 0 → Leaves (.logout c) s (secmEnd c 0 (endSession c (heard c s)))) ∧
  (∀ s c, c < 2 → ((sess s c).role ≠ 0 → (sess s c).last + us 60000000 ≤ s.ft → Leaves (.sessionTimeout c) s (endSession c s)) ∧
    ((sess s c).role = 0 ∨ s.ft < (sess s c).last + us 60000000 → Leaves (.sessionTimeout c) s s)) ∧
  (∀ s c b, c < 2 → Listens s c → (sess s c).role ≠ 0 → b = reportBytes (heard c s) ((secmArg (heard c s) c).take 48) →
    (s.secm.lc = 1 ∨ s.secm.lc = 15 → Leaves (.attest c) s (secmEnd c 6 (heard c s))) ∧
    (s.secm.lc ≠ 1 → s.secm.lc ≠ 15 → Leaves (.attest c) s (secmAnswer c (b ++ fit 96 (Config.ecdsaSign 0 (Config.sha384 b) s.secm.draws))
      (modSecm (fun m => { m with dak := true, dtk := true, draws := m.draws + 1, requests := m.requests + 1 }) (heard c s))))) ∧
  (∀ s c n, c < 2 → Listens s c → (sess s c).role ≠ 0 → n = u16 (secmArg (heard c s) c) 0 →
    (n = 0 ∨ 512 < n → Leaves (.random c) s (secmEnd c 5 (heard c s))) ∧
    (1 ≤ n → n ≤ 512 → Leaves (.random c) s (secmAnswer c (drbgBytes n (reseed (heard c s))).1 (drbgBytes n (reseed (heard c s))).2))) ∧
  (∀ s, (s.secm.drbg = true → 1048576 ≤ s.secm.requests ∨ s.secm.reseedAt + us 1000000 ≤ s.ft → Leaves .drbgReseed s (reseed s)) ∧
    (s.secm.drbg = false ∨ (s.secm.requests < 1048576 ∧ s.ft < s.secm.reseedAt + us 1000000) → Leaves .drbgReseed s s) ∧
    (∀ k n, s.secm.drbg = true → n = min k (4096 - s.secm.pool) →
      Leaves (.seedPoolRefill k) s (modSecm (fun m => { m with pool := m.pool + n, requests := m.requests + n }) s)) ∧
    (∀ k, s.secm.drbg = false → Leaves (.seedPoolRefill k) s s)))

/-- Keys, lifecycle and counters (R589 to R591, R600, R601, R605, R606, R615): in a state that forbids it a command
completes STATE; slot 0 of the signing keys is never written; a slot occupied in DEPLOYED completes SLOT_USED and a
key that does not unwrap BAD_ARG; PROVISIONED follows BLANK with its officers, while a bank of fuses is left, DEPLOYED
follows PROVISIONED, and RETIRED comes after zeroisation; a counter is only raised, at most 4,096 times; unlocking
debug in DEPLOYED zeroises first. The layout of arguments is the model's choice: log entry 72; a pulse lasts what log
entry 74 says. -/
def Obligations.SecmKeysAndLifecycle : Prop :=
  ∀ s c a u, c < 2 → Listens s c → u = heard c s → a = secmArg u c →
    (s.secm.lc ≠ 1 → Leaves (.lcProvision c) s (secmEnd c 6 u)) ∧
    (s.secm.lc = 1 → u8 a 0 = 0 ∨ 4 < u8 a 0 → Leaves (.lcProvision c) s (secmEnd c 5 u)) ∧
    (s.secm.lc = 1 → 1 ≤ u8 a 0 → u8 a 0 ≤ 4 → 2 ≤ s.secm.banks.length → Leaves (.lcProvision c) s (secmEnd c 8 (logC 0x1411 [] u))) ∧
    (s.secm.lc = 1 → 1 ≤ u8 a 0 → u8 a 0 ≤ 4 → s.secm.banks.length < 2 → Leaves (.lcProvision c) s (secmEnd c 0 (logC 0x1408 [3] (nvPulse u
      (modSecm (fun m => { m with banks := m.banks ++ [((List.range (u8 a 0)).map (fun i => slice a (1 + 48 * i) 48), true)], lc := 3 }) u))))) ∧
    (Leaves (.zeroise c) s (zeroiseFor c 1 1 u)) ∧
    ((sess s c).role = 2 →
      (s.secm.lc ≠ 3 → s.secm.lc ≠ 7 → Leaves (.provisionSlot c) s (secmEnd c 6 u) ∧ Leaves (.lcAdvance c) s (secmEnd c 6 u)) ∧
      (s.secm.lc = 3 ∨ s.secm.lc = 7 → 2 < u8 a 0 ∨ 7 < u8 a 1 ∨ (u8 a 0 = 0 ∧ u8 a 1 = 0) → Leaves (.provisionSlot c) s (secmEnd c 5 u)) ∧
      (s.secm.lc = 7 → u8 a 0 ≤ 2 → u8 a 1 ≤ 7 → u8 a 0 ≠ 0 ∨ u8 a 1 ≠ 0 → (slotOfType s (u8 a 0) (u8 a 1)).isEmpty = false →
        Leaves (.provisionSlot c) s (secmEnd c 7 u)) ∧
      (∀ key, s.secm.lc = 3 ∨ (s.secm.lc = 7 ∧ (slotOfType s (u8 a 0) (u8 a 1)).isEmpty = true) → u8 a 0 ≤ 2 → u8 a 1 ≤ 7 → u8 a 0 ≠ 0 ∨ u8 a 1 ≠ 0 →
        (key = if u8 a 0 = 0 then some (slice a 2 96) else Config.kwUnwrap
          (Config.derive 3 (slice a 2 96 ++ [BitVec.ofNat 8 (u8 a 0), BitVec.ofNat 8 (u8 a 1)])) (slice a 98 (if u8 a 0 = 1 then 40 else 56))) →
        Leaves (.provisionSlot c) s (key.elim (secmEnd c 5 u) (fun v =>
          secmEnd c 0 (logC 0x140B [] (setSlot (u8 a 0) (u8 a 1) v (modSecm (fun m => { m with ksk := true, dtk := m.dtk || u8 a 0 != 0 }) u)))))) ∧
      (2 < u8 a 0 ∨ 7 < u8 a 1 ∨ (u8 a 0 = 0 ∧ u8 a 1 = 0) → Leaves (.clearSlot c) s (secmEnd c 5 u)) ∧
      (u8 a 0 ≤ 2 → u8 a 1 ≤ 7 → u8 a 0 ≠ 0 ∨ u8 a 1 ≠ 0 → Leaves (.clearSlot c) s (secmEnd c 0 (logC 0x140B [] (setSlot (u8 a 0) (u8 a 1) [] u)))) ∧
      (s.secm.lc = 3 → u8 a 0 = 7 → Leaves (.lcAdvance c) s (secmEnd c 0 (logC 0x1408 [7] (nvPulse u (modSecm (fun m => { m with lc := 7 }) u))))) ∧
      (s.secm.lc = 3 ∨ s.secm.lc = 7 → u8 a 0 = 15 → Leaves (.lcAdvance c) s (zeroiseFor c 2 4 u)) ∧
      (s.secm.lc = 3 → u8 a 0 ≠ 7 → u8 a 0 ≠ 15 → Leaves (.lcAdvance c) s (secmEnd c 6 u)) ∧
      (s.secm.lc = 7 → u8 a 0 ≠ 15 → Leaves (.lcAdvance c) s (secmEnd c 6 u)) ∧
      (u8 a 0 = 0 ∨ 5 < u8 a 0 → Leaves (.ctrRaise c) s (secmEnd c 5 u)) ∧
      (∀ k, 1 ≤ u8 a 0 → u8 a 0 ≤ 5 → k = u8 a 0 - 1 →
        (u32 a 4 ≤ look s.secm.ctr k 0 → Leaves (.ctrRaise c) s (secmEnd c 5 u)) ∧
        (look s.secm.ctr k 0 < u32 a 4 → 4096 ≤ look s.secm.ctrUse k 0 → Leaves (.ctrRaise c) s (secmEnd c 8 (logC 0x1406 [u8 a 0] u))) ∧
        (look s.secm.ctr k 0 < u32 a 4 → look s.secm.ctrUse k 0 < 4096 → Leaves (.ctrRaise c) s (secmEnd c 0 (logC 0x1407 [u8 a 0, u32 a 4] (nvPulse u
          (modSecm (fun m => { m with ctr := put m.ctr k (u32 a 4) 0, ctrUse := put m.ctrUse k (look m.ctrUse k 0 + 1) 0 }) u)))))) ∧
      (s.secm.lc = 7 → Leaves (.debugUnlock c) s (zeroiseFor c 3 3 u)) ∧
      (s.secm.lc ≠ 7 → Leaves (.debugUnlock c) s (secmEnd c 0 (openDebug u))))

/-- Tamper, self-tests and the erase (R563, R591, R611 to R615, R618): a tamper cause is recorded, zeroises and then
resets; an external one counts only when enabled; a failed test takes cause 6 and resets, but a power-on test that
fails again after that very reset leaves the module in ERROR; when the erase is over the wrap and user keys are empty,
the command that asked for it completes (RETIRED, debug open, or the zeroisation), the reset that a tamper event waits
for is taken, and otherwise the kept commands run. A row whose condition does not hold changes nothing: log entry 77. -/
def Obligations.TamperAndErase : Prop :=
  (∀ s k, k < 8 →
    (k = 0 ∨ k = 7 ∨ (k = 5 ∧ bit (rd s 0x00040048) 0 = false) → Leaves (.tamperDetect k) s s) ∧
    (k = 6 → Leaves (.tamperDetect k) s (selfTamper s)) ∧
    (∀ u, 1 ≤ k → k ≤ 4 ∨ (k = 5 ∧ bit (rd s 0x00040048) 0 = true) →
      (u = if s.rst.nvUntil.isSome then modRst (fun r => { r with nvHeld := r.nvHeld ||| 0x400#13 }) s else s) →
      Leaves (.tamperDetect k) s (modSecm (fun m => { m with tamperWait := some k }) (zeroise 2 (tamperMark k u))))) ∧
  (∀ s t, t < 256 → Leaves (.selftestFail t true) s (selfTamper (logC 0x1403 [] s)) ∧
    (∀ u, u = logC 0x1402 [t] s →
      (u.secm.st = 0 → bit u.rst.causes.toNat 10 = true → u.secm.tamperCause = 6 → Leaves (.selftestFail t false) s (modSecm (fun m => { m with st := 2 }) u)) ∧
      (u.secm.st ≠ 0 ∨ bit u.rst.causes.toNat 10 = false ∨ u.secm.tamperCause ≠ 6 → Leaves (.selftestFail t false) s (selfTamper u)))) ∧
  (∀ s, s.secm.erasing = none ∨ s.rst.nvUntil.isSome = true → Leaves .zeroiseEraseComplete s s) ∧
  (∀ s u v, s.secm.erasing.isSome = true → s.rst.nvUntil = none →
    u = modSecm (fun m => { m with wrap := [], user := [], erasing := none, erasePending := false, after := none, st := 1 }) s →
    (s.secm.after = none ∧ v = u ∨
      (∃ c, s.secm.after = some (2, c) ∧ v = secmEnd c 0 (logC 0x1408 [15] (nvPulse u (modSecm (fun m => { m with lc := 15, hukGone := true }) u)))) ∨
      (∃ c, s.secm.after = some (3, c) ∧ v = secmEnd c 0 (openDebug u)) ∨
      (∃ w c, s.secm.after = some (w, c) ∧ w ≠ 2 ∧ w ≠ 3 ∧ v = secmEnd c 0 u)) →
    (v.secm.tamperWait = none → Leaves .zeroiseEraseComplete s (runKept 1 (runKept 0 v))) ∧
    (∀ k w, v.secm.tamperWait = some k → w = modSecm (fun m => { m with tamperWait := none }) v →
      (bit w.rst.nvHeld.toNat 10 = true → w.rst.nvUntil = none →
        Leaves .zeroiseEraseComplete s (takeHeld w.rst.nvHeld.toNat (modRst (fun r => { r with nvHeld := 0 }) w))) ∧
      (bit w.rst.nvHeld.toNat 10 = false ∨ w.rst.nvUntil.isSome = true → Leaves .zeroiseEraseComplete s (takeReset 10 w))))


/-! ### HALT_OUT and the trouble log -/

/-- HALT_OUT and the trouble log (R538, R539, R544, R545): HALT_EN keeps bits 0, 1 and 6, and a condition in force
whose bit the write sets asserts HALT_OUT with 0x1702; CLEAR is honoured only with the loader in DONE and no enabled
condition in force, and is otherwise REFUSED; FORCE raises condition 6; LOG_HEAD consumes entries, or is ignored when
there are fewer; UNFREEZE ends a freeze with 0x1502. A row whose condition does not hold changes nothing: log entry
77. -/
def Obligations.HaltAndTroubleLog : Prop :=
  (∀ s v t m, t = wr rHaltEn (v.toNat % 2 ^ 24 ||| 0x43) s → m = ((rd t rHaltEn % 256 - (rd t rHaltEn &&& rd s rHaltEn) % 256) &&& haltInForce t) →
    (m = 0 → Leaves (.haltEnWrite v) s t) ∧
    (m ≠ 0 → Leaves (.haltEnWrite v) s (freezeCheck 0x1702 (log1 0x1702 0xFF [m] (emit (.halt true) (wr rHaltStat (rd t rHaltStat ||| (m ||| 256)) t))).2
      (log1 0x1702 0xFF [m] (emit (.halt true) (wr rHaltStat (rd t rHaltStat ||| (m ||| 256)) t))).1))) ∧
  (∀ s, (haltInForce s &&& rd s rHaltEn % 256 = 0 → s.img.st = 6 → Leaves .haltCtlClear s (emit (.halt false) (wrf rHaltStat 8 0 0 s))) ∧
    (s.img.st ≠ 6 ∨ haltInForce s &&& rd s rHaltEn % 256 ≠ 0 → Leaves .haltCtlClear s (setBit rHaltCtl 2 s)) ∧
    Leaves .haltCtlForce s (haltRaise 6 s)) ∧
  (∀ s v k, k = (v.toNat % 2048 + 2048 - s.log.head) % 2048 →
    (k ≤ s.log.unread → Leaves (.logHeadWrite v) s { s with log := { s.log with head := v.toNat % 2048, unread := s.log.unread - k } }) ∧
    (s.log.unread < k → Leaves (.logHeadWrite v) s s)) ∧
  (∀ s, (s.log.frozen = true → Leaves .logUnfreeze s (logC 0x1502 [] { s with log := { s.log with frozen := false } })) ∧
    (s.log.frozen = false → Leaves .logUnfreeze s s))


/-! ### Registers, the pond window and the host link -/

/-- Where a register access goes (R622, R623, R625, R648): it waits while the PCI Express link is in L1; it takes
place in a domain that is ON; a sleeping domain is woken and the access waits for it; an OFF domain answers zero and
discards a write. The control core's accesses do not cross the link. Accesses outside the decoded ranges, or of
another size than an aligned word, are Unsupported Requests (R7, R620). An OFF domain in transition makes an access
wait by the model's choice: log entry 9. A row whose condition does not hold changes nothing: log entry 77. -/
def Obligations.RegisterAccessesWaitOrTakePlace : Prop :=
  (∀ s src off w o (i : Instr), offOk src off = true → off % 4 = 0 → o = pfOffset src off →
    (i = .registerAccessWake src off w ∨ i = .registerAccessOff src off w ∨ ∃ v, w = some v ∧ i = .registerWrite src off v) →
    (src ≠ .cc → s.spg.l1 = true → Leaves i s (await dL0 i s)) ∧
    (∀ u, u = (if src = .cc then s else modSpg (fun g => { g with lastTlp := s.ft }) s) → src = .cc ∨ s.spg.l1 = false →
      (domOf o = none → Leaves i s (perform src o w u)) ∧
      (∀ d, domOf o = some d →
        (isOn s d = true → Leaves i s (perform src o w (touch d u))) ∧
        (isOn s d = false → (dom s d).st = .off → (dom s d).done = none → w.isSome = true → Leaves i s u) ∧
        (isOn s d = false → (dom s d).st = .off → (dom s d).done = none → w = none → Leaves i s (emit (.complete src (zeros 4) false) u)) ∧
        (isOn s d = false → (dom s d).st ≠ .off ∨ (dom s d).done.isSome = true → Leaves i s (await d i (wakeDom d u)))))) ∧
  (∀ s src off n, offOk src off = true →
    (decodedOff src off = false ∨ n ≠ 4 ∨ off % 4 ≠ 0 →
      (src = .cc ∨ s.spg.l1 = false → Leaves (.undecodedAccess src off n) s (emit (.ur src) s)) ∧
      (src ≠ .cc → s.spg.l1 = true → Leaves (.undecodedAccess src off n) s (await dL0 (.undecodedAccess src off n) s))) ∧
    (decodedOff src off = true → n = 4 → off % 4 = 0 → Leaves (.undecodedAccess src off n) s s))

/-- What a register's write and read do (R8, R11): of a register with no effect of its own, RW bits take the value
written, a one clears a W1C bit unless the device has set it in the same fast cycle, RWL bits take it in BLANK and
PROVISIONED alone, and every other bit keeps its value; every other register keeps its word; an offset without a
register keeps everything; no bit outside a field that is readable is shown, save in the windows of the request table
and of the tills, whose bytes are fields. -/
def Obligations.RegisterBitsFollowTheirCodes : Prop :=
  (∀ s o v r b, smapWf regReset s.regs = true → regAt o = some r → b < 32 →
    (rd (plainWrite o v s) o).testBit b =
      if (r.maskOf (fun f => f.acc == .w1c)).toNat.testBit b ∧ v.toNat.testBit b ∧ ¬ (setNowMask s o).toNat.testBit b then false
      else if (r.maskOf (fun f => f.acc == .rw || (f.acc == .rwl && (s.secm.lc == 1 || s.secm.lc == 3)))).toNat.testBit b then v.toNat.testBit b
      else (rd s o).testBit b) ∧
  (∀ s o v, regAt o = none → plainWrite o v s = s) ∧
  (∀ s o v p, p ≠ o → rd (plainWrite o v s) p = rd s p) ∧
  (∀ s src o b, ¬(0x10 ≤ o / 0x10000 ∧ o / 0x10000 < 0x14) → ¬(0x20 ≤ o / 0x10000 ∧ o / 0x10000 < 0x28) →
    (readMask o).testBit b = false → (view s src o).testBit b = false)

/-- BAR2 (R627 to R629, R648): an access waits in L1 and for a sleeping half; a write then reaches the bytes of staged
pages in an awake half and no other byte of pond, and no register; a read answers the bytes, zeros from a half that is
OFF. -/
def Obligations.PondWindowReadsAndWrites : Prop :=
  (∀ s a d, 1 ≤ d.length → d.length ≤ 256 → a + d.length ≤ 2 ^ 27 → s.spg.l1 = true → Leaves (.bar2Write a d) s (await dL0 (.bar2Write a d) s)) ∧
  (∀ s a d h, 1 ≤ d.length → d.length ≤ 256 → a + d.length ≤ 2 ^ 27 → s.spg.l1 = false → sleepingHalf s a d.length = some h →
    Leaves (.bar2Write a d) s (await h (.bar2Write a d) (wakeDom h (modSpg (fun g => { g with lastTlp := s.ft }) s)))) ∧
  (∀ s a d, 1 ≤ d.length → d.length ≤ 256 → a + d.length ≤ 2 ^ 27 → s.spg.l1 = false → sleepingHalf s a d.length = none → Memory.wf s.pond = true →
    ∃ m, Leaves (.bar2Write a d) s { modSpg (fun g => { g with lastTlp := s.ft }) s with pond := m } ∧
      ∀ x, look m x 0 = if a ≤ x ∧ x < a + d.length ∧ stagedPage s (x / 8192) = true ∧ isOn s (halfOf x) = true
        then d.getD (x - a) 0 else look s.pond x 0) ∧
  (∀ s a n e, 1 ≤ n → n ≤ 256 → a + n ≤ 2 ^ 27 → s.spg.l1 = true → Leaves (.bar2Read a n e) s (await dL0 (.bar2Read a n e) s)) ∧
  (∀ s a n e h, 1 ≤ n → n ≤ 256 → a + n ≤ 2 ^ 27 → s.spg.l1 = false → sleepingHalf s a n = some h →
    Leaves (.bar2Read a n e) s (await h (.bar2Read a n e) (wakeDom h (modSpg (fun g => { g with lastTlp := s.ft }) s)))) ∧
  (∀ s a n e units bad, 1 ≤ n → n ≤ 256 → a + n ≤ 2 ^ 27 → s.spg.l1 = false → sleepingHalf s a n = none →
    units = (unitsOf a n).filter (fun u => isOn s (halfOf (64 * u))) → bad = units.filter (fun u => (e.map (· / 64)).contains u) →
    Leaves (.bar2Read a n e) s (emit (.complete .pf ((List.range n).map (fun i => if isOn s (halfOf (a + i)) then look s.pond (a + i) 0 else 0))
      (units.any (fun u => bad.contains u || look s.poison u 0 != 0))) (forEach bad (fun _ => logC 0x1101 []) (modSpg (fun g => { g with lastTlp := s.ft }) s))))

/-- The PCI Express link (R505, R509, R648): a change of width or rate logs 0x0701; L1 is entered after 64 µs without
a TLP, or in D3hot, and left when there is one to send; a failed DMA read is reported through AER and logs 0x0702.
That L1 is enabled and that D3hot ends with the exit are log entry 24. A row whose condition does not hold changes
nothing: log entry 77. -/
def Obligations.PcieLinkChangesAndSleeps : Prop :=
  (∀ s w r, (w % 16 = rdf s rHlkLink 3 0 → r % 8 = rdf s rHlkLink 6 4 → Leaves (.pcieLinkChange w r) s s) ∧
    (w % 16 ≠ rdf s rHlkLink 3 0 ∨ r % 8 ≠ rdf s rHlkLink 6 4 →
      Leaves (.pcieLinkChange w r) s (logC 0x0701 [] (wrf rHlkLink 6 4 r (wrf rHlkLink 3 0 w s))))) ∧
  (∀ s, (s.spg.l1 = false → s.spg.lastTlp + 102400 ≤ s.ft → Leaves .aspmL1Entry s (emit (.pcie 1) (modSpg (fun g => { g with l1 := true }) s))) ∧
    (s.spg.l1 = true ∨ s.ft < s.spg.lastTlp + 102400 → Leaves .aspmL1Entry s s) ∧
    Leaves .pfD3hot s (emit (.pcie 1) (modSpg (fun g => { g with d3 := true, l1 := true }) s)) ∧
    (s.spg.l1 = true → Leaves .l1Exit s (emit (.pcie 0) (modSpg (fun g => { g with l1 := false, d3 := false, lastTlp := s.ft }) s))) ∧
    (s.spg.l1 = false → Leaves .l1Exit s s)) ∧
  (∀ s src, srcOk src = true → Leaves (.dmaError src) s (logC 0x0702 [] (bumpSat 0x000B0004 (emit (.aer src) s))))

/-- The SMBus target (R511): each command is counted and answered, or discarded and counted for a PEC error; WAKE logs
0x1701 and wakes the masked domains. The boundary-scan port (R512): each instruction takes force, and IDCODE reads
0x17A103C7. The layout of SMBus data is the model's choice: log entry 27. -/
def Obligations.SmbusAndBoundaryScan : Prop :=
  (∀ s, (∀ (i : Bool → Instr) d, (i = .smbSerial ∧ d = serialData) ∨ (i = .smbTemp ∧ d = tempData) ∨ (i = .smbResetCause ∧ d = causeData) ∨
        (i = .smbLogSummary ∧ d = summaryData) ∨ (i = .smbPower ∧ d = powerData) ∨ (i = .smbFt ∧ d = ftData) →
      Leaves (i true) s (emit (.smb (d (bumpSat 0x00070004 s))) (bumpSat 0x00070004 s)) ∧ Leaves (i false) s (bumpSat 0x00070008 s)) ∧
    (∀ m, Leaves (.smbWake m true) s (wakeAll 4 (setBits 12 m) (logC 0x1701 [] (bumpSat 0x00070004 s))) ∧
      Leaves (.smbWake m false) s (bumpSat 0x00070008 s)) ∧
    serialData s = leBytes 8 s.serial.toNat ++ leBytes 4 (crc32c (leBytes 8 s.serial.toNat)).toNat ∧
    causeData s = leBytes 4 (rd s rCause) ∧
    powerData s = leBytes 4 (viewPower s 0x20000) ++ leBytes 4 (viewPower s rTherm) ++ leBytes 4 (rd s rDuty) ∧
    ftData s = leBytes 8 (s.ft % 2 ^ 63 + if s.clk.ftValid = true then 2 ^ 63 else 0)) ∧
  (∀ s, Leaves .bypass s (modSpg (fun g => { g with jtag := 0 }) s) ∧
    Leaves .idcode s (emit (.tap 0x17A103C7) (modSpg (fun g => { g with jtag := 1, jtagDr := 0x17A103C7 }) s)) ∧
    Leaves .samplePreload s (modSpg (fun g => { g with jtag := 2 }) s) ∧ Leaves .extest s (modSpg (fun g => { g with jtag := 3 }) s) ∧
    Leaves .clamp s (modSpg (fun g => { g with jtag := 4 }) s) ∧ Leaves .highz s (modSpg (fun g => { g with jtag := 5 }) s))


/-! ### Resets -/

/-- Reset sources (R548, R560, R566, R568, R569, R510): each source is taken as its own cause; a pin holds its reset
until it rises; PERST# counts only with STRAP_HOSTEN; the watchdog fires at its period; RST_FAB sends RESET to a chip
that discovery found, or the root takes it itself, and on another chip than the root it sets ERR; SAFE_CLR of the PF
ends SAFE_HOLD; a RESET message for this chip and serial number is taken, and another is not. What restarts the
watchdog is the model's choice: log entry 22; SAFE_CLR's HOLD is log entry 21. A row whose condition does not hold
changes nothing: log entry 77. -/
def Obligations.ResetSourcesAreTaken : Prop :=
  (∀ s, Leaves .por s (takeReset 0 s) ∧ Leaves .swCold s (takeReset 5 s) ∧ Leaves .swWarm s (takeReset 6 s) ∧ Leaves .pfFlr s (takeReset 6 s) ∧
    Leaves .pinCold s (takeReset 1 (modRst (fun r => { r with pinHeld := true }) s)) ∧
    Leaves .pinWarm s (takeReset 2 (modRst (fun r => { r with warmHeld := true }) s)) ∧
    (s.straps.hosten = true → Leaves .pciePerst s (takeReset 3 (modRst (fun r => { r with perst := true }) s))) ∧
    (s.straps.hosten = false → Leaves .pciePerst s (modRst (fun r => { r with perst := true }) s))) ∧
  (∀ s u, (u = modRst (fun r => { r with pinHeld := false }) s → Leaves (.resetPinRise false) s (if s.rst.waiting then beginRelease u else u)) ∧
    (u = modRst (fun r => { r with warmHeld := false }) s → Leaves (.resetPinRise true) s (if s.rst.waiting then beginRelease u else u)) ∧
    (u = modRst (fun r => { r with perst := false }) s → Leaves .perstDeassert s
      (if s.rst.phase = 7 ∧ (dom s dHST).st = .off ∧ (dom s dHST).done.isNone then powerUp [dHST] (max s.ft s.rst.readyAt) u else u))) ∧
  (∀ s v p, p = bits v.toNat 15 0 → Leaves (.wdtKick v) s (modRst (fun r => { r with wdtAt := if p = 0 then none else some s.ft }) (wrf rWdt 15 0 p s))) ∧
  (∀ s, (s.rst.wdtAt = none → Leaves .wdtExpire s s) ∧ (∀ t, s.rst.wdtAt = some t →
    (t + us (rdf s rWdt 15 0) ≤ s.ft → Leaves .wdtExpire s (takeReset 4 (modRst (fun r => { r with wdtAt := none }) s))) ∧
    (s.ft < t + us (rdf s rWdt 15 0) → Leaves .wdtExpire s s))) ∧
  (∀ s v n u, n = v.toNat % 256 → (u = if bit v.toNat 30 then clrBit 0x00010020 30 (wrf 0x00010020 7 0 n s) else wrf 0x00010020 7 0 n s) →
    (bit v.toNat 31 = false → Leaves (.rstFabGo v) s u) ∧
    (bit v.toNat 31 = true → isRoot u = false → Leaves (.rstFabGo v) s (setBit 0x00010020 30 u)) ∧
    (bit v.toNat 31 = true → isRoot u = true → chipRec u n = none → Leaves (.rstFabGo v) s u) ∧
    (∀ c, bit v.toNat 31 = true → isRoot u = true → chipRec u n = some c →
      (c.serial = u.serial → Leaves (.rstFabGo v) s (takeReset 7 u)) ∧
      (c.serial ≠ u.serial → Leaves (.rstFabGo v) s (ctlToChip 0x41 c ([BitVec.ofNat 8 v.toNat] ++ zeros 7 ++ leBytes 8 c.serial.toNat) u)))) ∧
  (∀ s m b, b = (ctlOf m).body → (u8 b 0 = s.fab.chip → u64 b 8 = s.serial.toNat → Leaves (.reset m) s (takeReset 7 s)) ∧
    (u8 b 0 ≠ s.fab.chip ∨ u64 b 8 ≠ s.serial.toNat → Leaves (.reset m) s s)) ∧
  (∀ s c, srcOk c = true → (c ≠ .pf ∨ s.rst.safeHold = false → Leaves (.safeClr c) s s) ∧
    (∀ u, s.rst.safeHold = true → u = modRst (fun r => { r with safeHold := false }) s →
      Leaves (.safeClr .pf) s (if inReset s then u else loaderStart true (bit (rd s rCause) 11) u)))

/-- What taking a reset does (R538, R548, R549, R553, R561 to R563): during a write pulse every source but POR is
held. Otherwise a source with a farewell begins one, unless the chip is already leaving; another is applied at once,
cold if it is POR, PIN_COLD, SW_COLD or TAMPER. During a release the causes join and the wider kind is applied; during
a farewell, or before one that is owed, the farewell ends at once with 0x0102 and the causes join. POR alone asserts
no HALT_OUT and sends no CHIP_LOST first. The farewell and held resets (R553, R554, R563): the farewell begins with
CHIP_LOST; it ends with its last completion, or at RST_QTO with 0x0102; sources held by a write pulse are taken when
it ends, that of a tamper event once the erase is over too. The order of waits is log entry 15. A row whose condition
does not hold changes nothing: log entry 77. -/
def Obligations.ResetsJoinWaitAndEnd : Prop :=
  (∀ s n u (tell : Nat → State → State), n < 12 → (n = 0 → u = modRst (fun r => { r with block := none, blockDom := none }) s) →
    (n ≠ 0 → u = haltRaise 1 (modRst (fun r => { r with block := none, blockDom := none }) s)) →
    (∀ b t, tell b t = if n = 0 then t else announceReset b t) →
    (n ≠ 0 → s.rst.nvUntil.isSome = true →
      takeReset n s = modRst (fun r => { r with block := none, blockDom := none, nvHeld := r.nvHeld ||| BitVec.ofNat 13 (2 ^ n) }) s) ∧
    (n = 0 ∨ s.rst.nvUntil = none →
      (∀ b c, inReset s = true → b = s.rst.causes.toNat ||| 2 ^ n → (c = true ↔ s.rst.cold = true ∨ n = 0 ∨ n = 1 ∨ n = 5 ∨ n = 10) →
        takeReset n s = applyReset b c (tell b u)) ∧
      (∀ b c, inReset s = false → s.rst.warmTaken = true ∨ s.rst.farewell.isSome = true → b = s.rst.causes.toNat ||| 2 ^ n →
        (c = true ↔ n = 0 ∨ n = 1 ∨ n = 5 ∨ n = 10) →
        takeReset n s = applyReset b c (tell b (if s.rst.farewell.isSome then logC 0x0102 [unposted u] u else u))) ∧
      (inReset s = false → s.rst.warmTaken = false → s.rst.farewell = none →
        (n = 2 ∨ n = 4 ∨ n = 6 ∨ n = 7 ∨ n = 8 ∨ n = 9 →
          takeReset n s = modRst (fun r => { r with warmTaken := true, causes := BitVec.ofNat 13 (2 ^ n) }) u) ∧
        (n = 0 ∨ n = 1 ∨ n = 5 ∨ n = 10 → takeReset n s = applyReset (2 ^ n) true (tell (2 ^ n) u)) ∧
        (n = 3 ∨ n = 11 → takeReset n s = applyReset (2 ^ n) false (tell (2 ^ n) u))))) ∧
  ((∀ s, (s.rst.warmTaken = false → Leaves .warmResetTaken s s) ∧
    (∀ u, s.rst.warmTaken = true → u = farewellOf (fun _ => true) (announceReset s.rst.causes.toNat s) →
      Leaves .warmResetTaken s (modRst (fun r => { r with warmTaken := false, farewell := some (u.ft + qtoFt u) }) u))) ∧
  (∀ s, (s.rst.farewell = none → Leaves .farewellEnd s s) ∧ (∀ t, s.rst.farewell = some t →
    (farewellDone (fun _ => true) s = true → Leaves .farewellEnd s (applyReset s.rst.causes.toNat false s)) ∧
    (farewellDone (fun _ => true) s = false → t ≤ s.ft → Leaves .farewellEnd s (applyReset s.rst.causes.toNat false (logC 0x0102 [unposted s] s))) ∧
    (farewellDone (fun _ => true) s = false → s.ft < t → Leaves .farewellEnd s s))) ∧
  (∀ s, (s.rst.nvUntil = none → Leaves .nvPulseEnd s s) ∧ (∀ t w b u, s.rst.nvUntil = some t →
    (w = if s.secm.tamperWait.isSome then s.rst.nvHeld &&& 0x400#13 else 0#13) → b = (s.rst.nvHeld &&& ~~~w).toNat →
    u = modRst (fun r => { r with nvUntil := none, nvHeld := w }) s →
    (s.ft < t → Leaves .nvPulseEnd s s) ∧
    (t ≤ s.ft → b = 0 → Leaves .nvPulseEnd s u) ∧
    (t ≤ s.ft → b ≠ 0 → Leaves .nvPulseEnd s (takeHeld b u)))))

/-- R549: sources of both kinds that are pending together give one cold reset, and RST_CAUSE shows the bit of every
one of them. -/
def Obligations.SourcesTogetherAreOneColdReset : Prop :=
  ∀ s b n, b < 4096 → coldCauses b = true → n < 12 → bit b n = true → coldCauses (2 ^ n) = false →
    s.rst.nvUntil = none → inReset s = false → s.rst.warmTaken = false → s.rst.farewell = none →
    rd (takeResets b s) rCause = b ∧ (takeResets b s).rst.cold = true ∧ (takeResets b s).rst.causes.toNat = b

/-- What a power-on reset leaves (R12, R550, R551, R560, R564, R567), at any moment: RST_CAUSE shows POR, and the
causes of a release or a farewell that it ends; requests, channels, rings, prefix nodes, pond, lake and log are empty;
what fuses and the key store hold is kept, a cell whose pulse it cuts off with its old value or its new one, and so
are the fused identity and what was sent before; the host link leaves, which pins under boundary scan do not show. The
release begins, unless a reset pin holds it. What a warm reset leaves (R550, R552, R556, R567): requests, channels,
rings, prefix nodes and pond are empty and leases are gone; the trouble log (with 0x1205 added when the in-bank engine
was at work), the lake, the straps, FAB_ID and FT are kept, fences and the core map too, and RST_CAUSE gains its
causes; CLOCK_LOST takes FT_VALID away and leaves the rest of the clock. -/
def Obligations.WhatResetsReach : Prop :=
  (∀ s b held, (held = (s.rst.pinHeld || s.rst.warmHeld)) →
    (leaving s = false → b = 1) → (leaving s = true → b = s.rst.causes.toNat ||| 1) →
    Gives .por s (fun t => rd t rCause = b ∧ t.rst.phase = (if held then 0 else 1) ∧ t.rst.waiting = held ∧ t.rst.cold = true ∧
      t.rst.safeHold = false ∧ t.ft = 0 ∧
      t.rtb = [] ∧ t.chans = [] ∧ t.rings = [] ∧ t.pfx = [] ∧ t.pond = [] ∧ t.nmc.lake = [] ∧ t.nmc.dir = [] ∧ t.log = {} ∧
      t.wks.pool = [] ∧ t.secm.sign = s.secm.sign ∧ t.secm.wrap = s.secm.wrap ∧ t.secm.user = s.secm.user ∧
      (∃ c, (c = nvCells s.secm ∨ (∃ p ∈ s.secm.nvOld, s.ft < p.1 ∧ c = p.2)) ∧
        t.secm.lc = c.lc ∧ t.secm.ctr = c.ctr ∧ t.secm.ctrUse = c.ctrUse ∧ t.secm.banks = c.banks) ∧
      t.serial = s.serial ∧ t.stepping = s.stepping ∧ t.partX = s.partX ∧ t.pending = s.pending ∧
      (s.rst.farewell = none → t.out = if s.spg.jtag < 3 then s.out ++ [.pcie 2] else s.out))) ∧
  (∀ s b t, b < 8192 → t = warmApply b s →
    (t.rtb = [] ∧ t.chans = [] ∧ t.rings = [] ∧ t.tills = [] ∧ t.pfx = [] ∧ t.pond = [] ∧ t.spg.keys = [] ∧ t.spg.leases = [] ∧ t.steps = [] ∧ t.wks.pool = []) ∧
    (t.nmc.lake = s.nmc.lake ∧ t.nmc.dir = s.nmc.dir ∧ t.straps = s.straps ∧ t.fab.chip = s.fab.chip ∧ t.fab.valid = s.fab.valid ∧ t.ft = s.ft ∧
      t.spg.rules = s.spg.rules ∧ t.spg.ops = s.spg.ops ∧ t.conf = s.conf ∧ t.wks.map = s.wks.map ∧ t.secm.lc = s.secm.lc ∧ t.secm.ctr = s.secm.ctr) ∧
    (t.log = (pimWarm s).log ∧ (s.nmc.q = [] → t.log = s.log)) ∧
    (smapWf regReset s.regs = true → s.nmc.q = [] → rd t rCause = rd s rCause ||| b) ∧
    (∀ n, (core s n).fenced = true → (core t n).fenced = true) ∧ (bit b 8 = true → t.clk = { s.clk with ftValid := false }) ∧ (bit b 8 = false → t.clk = s.clk))

/-- The release sequence (R557 to R559, R565, R577, R578): the straps are sampled once, 128 FT after a cold release;
each block is powered RST_GAP after the one before is ready, in the order of the table, a warm one without NMC and one
without a host without HST; the last logs 0x0101, with 0x0103 for held sources and 0x1410 after a tamper event, and
starts the loader, after a warm one once the lake's conversations and the configuration are back. HST's wait for
PERST# and the loader's HOLD are log entries 20 and 21. -/
def Obligations.BlocksAreReleasedInOrder : Prop :=
  (∀ s t u v, t.boot < 4 → t.tick < 4 → t.smb < 4 → t.cid < 256 →
    u = wrf rImgCtl 4 3 (min t.boot 2 - if t.boot = 3 then 1 else 0) (forEach (List.range 8) (fun p => wrf (rLink p 0) 1 1 (b2n t.linkmode))
      (modRst (fun r => { r with sampled := true, rootPin := t.root }) { s with straps := t })) →
    v = clkChange (fun c => { c with source := 1, locked := true, rank := 0, ftValid := true }) u →
    (s.rst.phase ≠ 1 ∨ s.rst.cold = false ∨ s.rst.sampled = true ∨ s.ft < 128 → Leaves (.strapSample t) s s) ∧
    (s.rst.phase = 1 → s.rst.cold = true → s.rst.sampled = false → 128 ≤ s.ft →
      (t.root = false → Leaves (.strapSample t) s u) ∧
      (t.root = true → v.clk.refclk = true → Leaves (.strapSample t) s v) ∧
      (t.root = true → v.clk.refclk = false → Leaves (.strapSample t) s (enterHoldover v)))) ∧
  (∀ s p, p = s.rst.phase →
    (p = 0 ∨ 9 ≤ p ∨ s.ft < s.rst.readyAt ∨ s.rst.sampled = false ∨ s.secm.st = 2 ∨ (blockDoms p).all (isOn s) = false → Leaves .blockReady s s) ∧
    (∀ u q, u = (if p = 1 ∧ s.rst.cold = true then secmPass s else s) → q = nextPhase u p →
      1 ≤ p → p < 9 → s.rst.readyAt ≤ s.ft → s.rst.sampled = true → s.secm.st ≠ 2 → (blockDoms p).all (isOn s) = true →
      Leaves .blockReady s (if q = 7 ∧ u.rst.perst = true then modRst (fun r => { r with phase := q, readyAt := u.ft + gapFt u }) u
        else powerUp (blockDoms q) (u.ft + gapFt u) (modRst (fun r => { r with phase := q, readyAt := u.ft + gapFt u }) u)))) ∧
  (∀ s, nextPhase s 1 = (if s.rst.cold then 2 else 3) ∧ nextPhase s 6 = (if s.straps.hosten then 7 else 8) ∧
    ∀ p, p ≠ 1 → p ≠ 6 → nextPhase s p = p + 1) ∧
  (∀ s, (s.rst.phase ≠ 9 ∨ s.ft < s.rst.readyAt ∨ isOn s dCCR = false → Leaves .releaseComplete s s) ∧
    (∀ u v w b, s.rst.phase = 9 → s.rst.readyAt ≤ s.ft → isOn s dCCR = true → b = s.rst.causes.toNat →
      u = logC 0x0101 [b] (modRst (fun r => { r with phase := 0, causes := 0, cold := false, nvLog := 0 }) s) →
      (s.rst.nvLog = 0 → v = u) → (s.rst.nvLog ≠ 0 → v = logC 0x0103 [s.rst.nvLog.toNat] u) →
      (v.secm.tamperLog = false → w = v) →
      (v.secm.tamperLog = true → w = modSecm (fun m => { m with tamperLog := false }) (logC 0x1410 [v.secm.tamperCause] v)) →
      Leaves .releaseComplete s (if s.rst.cold = true then loaderStart true (bit b 11) w
        else loaderStart false (bit b 11) (rebuild (restoreRecs (fun _ => true) (bit b 8) 0xFF (restoreGens (pausedRecs (fun _ => true) w) w))))))

/-- Block resets (R510, R571 to R573): while one is in progress another answers BUSY and a VF's FLR waits; a stall's
begins with its farewell; EGR's drops its frames and waits for the wires; CCR's stops its threads, one in a bulk
instruction at the end of its unit; at RST_QTO the reset is forced, with 0x0102 and FORCED. What an EGR reset counts
is log entry 19; a VF's wait is log entry 17. A row whose condition does not hold changes nothing: log entry 77. -/
def Obligations.BlockResetsQuiesceFirst : Prop :=
  (∀ s n, n < 32 → (blockBusy s = true → Leaves (.rstBlockStall n) s (blockStat 1 s)) ∧
    (blockBusy s = false → Leaves (.rstBlockStall n) s (stallBegin n (blockStat 0 s)) ∧ Leaves (.vfFlr n) s (stallBegin n s)) ∧
    (∀ k t, s.rst.block = some (k, t) → Leaves (.vfFlr n) s (await (dAt (max t (s.ft + 1))) (.vfFlr n) s)) ∧
    (s.rst.block = none → blockBusy s = true → Leaves (.vfFlr n) s (await (s.rst.blockDom.getD dAON) (.vfFlr n) s))) ∧
  (∀ s, (blockBusy s = true → Leaves .rstBlockCcr s (blockStat 1 s)) ∧
    (blockBusy s = true → (∀ t, s.rst.block ≠ some (32, t)) → Leaves .rstBlockEgr s (blockStat 1 s)) ∧
    (∀ t, s.rst.block = some (32, t) → Leaves .rstBlockEgr s (if wireEnd s ≤ s.ft then egrCycle s else blockStat 1 s)) ∧
    (∀ u, blockBusy s = false → u = dropFrames (blockStat 0 (modRst (fun r => { r with block := some (32, s.ft + qtoFt s) }) s)) →
      Leaves .rstBlockEgr s (if wireEnd u ≤ u.ft then egrCycle u else await (dAt (wireEnd u)) .rstBlockEgr u))) ∧
  (∀ s u v (inUnit : Nat → Bool), blockBusy s = false → u = blockStat 0 (modRst (fun r => { r with block := some (33, s.ft + qtoFt s) }) s) →
    (∀ t, inUnit t = ((thread u t).st == 0 && (thread u t).bulk.isSome)) →
    v = modWks (fun w => { w with waiters := [] })
      (forEach ((List.range 4).filter (fun t => !inUnit t && (thread u t).st != 3)) (fun t => modThread t (fun x => { x with st := 2 })) u) →
    ((List.range 4).any inUnit = true → Leaves .rstBlockCcr s v) ∧
    ((List.range 4).any inUnit = false → Leaves .rstBlockCcr s (cycleDom dCCR v))) ∧
  (∀ s n t u, s.rst.block = some (n, t) → u = setBit 0x00010018 3 (logC 0x0102 [n] s) →
    (s.ft < t → Leaves .quiesceTimeout s s) ∧
    (t ≤ s.ft → Leaves .quiesceTimeout s (if n < 32 then stallApply n u else if n = 32 then egrCycle u else cycleDom dCCR u))) ∧
  (∀ s, s.rst.block = none → Leaves .quiesceTimeout s s)
end

