-- ==== Sys2Proof/Laws/SMap.lean ====
section
/-! SUPPORT. Sparse storage: what a read gives after an insertion, a removal and a write of bytes, and that
each of them keeps the canonical form. -/
namespace Sys2Proof.Laws
open Sys2Proof.Machine

variable {α : Type}

/-! ### Reads -/

@[simp] theorem look_nil (k : Nat) (d : α) : look [] k d = d := rfl

theorem look_cons (j : Nat) (v : α) (t : SMap α) (k : Nat) (d : α) :
    look ((j, v) :: t) k d = if j = k then v else look t k d := rfl

/-- A key below the first one is not listed. -/
theorem look_of_rising {lo k : Nat} {m : SMap α} (h : risingFrom lo m = true) (hk : k < lo) (d : α) :
    look m k d = d := by
  induction m generalizing lo with
  | nil => rfl
  | cons p t ih =>
    obtain ⟨j, v⟩ := p
    simp only [risingFrom, Bool.and_eq_true, decide_eq_true_eq] at h
    rw [look_cons, if_neg (by omega)]
    exact ih h.2 (by omega)

/-- The inserted key reads as the inserted value. -/
@[simp] theorem look_ins_self (m : SMap α) (k : Nat) (v d : α) : look (ins m k v) k d = v := by
  induction m with
  | nil => simp [ins, look]
  | cons p t ih =>
    obtain ⟨j, w⟩ := p
    simp only [ins]
    split
    · simp [look]
    · split
      · simp [look]
      · rename_i h1 h2
        simp [look, h2, ih]

/-- Any other key reads as before. -/
theorem look_ins_ne {m : SMap α} {k j : Nat} (h : j ≠ k) (v d : α) : look (ins m k v) j d = look m j d := by
  induction m with
  | nil => simp [ins, look, Ne.symm h]
  | cons p t ih =>
    obtain ⟨i, w⟩ := p
    simp only [ins]
    split
    · simp [look, Ne.symm h]
    · split
      · rename_i h1 h2
        subst h2
        simp [look, Ne.symm h]
      · simp [look, ih]

/-- Removing a key changes no other. -/
theorem look_del_ne {m : SMap α} {k j : Nat} (h : j ≠ k) (d : α) : look (del m k) j d = look m j d := by
  induction m with
  | nil => rfl
  | cons p t ih =>
    obtain ⟨i, w⟩ := p
    simp only [del]
    split
    · rename_i h1
      subst h1
      simp [look, Ne.symm h]
    · simp [look, ih]

/-- A removed key is no longer listed. -/
theorem look_del_self {m : SMap α} {lo : Nat} (hm : risingFrom lo m = true) (k : Nat) (d : α) :
    look (del m k) k d = d := by
  induction m generalizing lo with
  | nil => rfl
  | cons p t ih =>
    obtain ⟨i, w⟩ := p
    simp only [risingFrom, Bool.and_eq_true, decide_eq_true_eq] at hm
    simp only [del]
    split
    · rename_i h1
      exact look_of_rising hm.2 (by omega) d
    · rename_i h1
      rw [look_cons, if_neg h1]
      exact ih hm.2

/-- A write to one key leaves every other as it was. -/
theorem look_put_ne [DecidableEq α] {m : SMap α} {k j : Nat} (h : j ≠ k) (v d e : α) :
    look (put m k v d) j e = look m j e := by
  unfold put
  split
  · exact look_del_ne h e
  · exact look_ins_ne h v e

/-- A read after a write to the same key gives the value written. -/
theorem look_put_self [DecidableEq α] {m : SMap α} {lo : Nat} (hm : risingFrom lo m = true) (k : Nat) (v d : α) :
    look (put m k v d) k d = v := by
  unfold put
  split
  · rename_i h
    rw [look_del_self hm, h]
  · simp

/-! ### The canonical form -/

theorem rising_mono {m : SMap α} {a b : Nat} (h : risingFrom b m = true) (hab : a ≤ b) : risingFrom a m = true := by
  cases m with
  | nil => rfl
  | cons p t =>
    simp only [risingFrom, Bool.and_eq_true, decide_eq_true_eq] at h ⊢
    exact ⟨by omega, h.2⟩

theorem rising_del {m : SMap α} {lo : Nat} (h : risingFrom lo m = true) (k : Nat) : risingFrom lo (del m k) = true := by
  induction m generalizing lo with
  | nil => rfl
  | cons p t ih =>
    obtain ⟨i, w⟩ := p
    simp only [risingFrom, Bool.and_eq_true, decide_eq_true_eq] at h
    simp only [del]
    split
    · exact rising_mono h.2 (by omega)
    · simp only [risingFrom, Bool.and_eq_true, decide_eq_true_eq]
      exact ⟨h.1, ih h.2⟩

theorem rising_ins {m : SMap α} {lo k : Nat} (h : risingFrom lo m = true) (hk : lo ≤ k) (v : α) :
    risingFrom lo (ins m k v) = true := by
  induction m generalizing lo with
  | nil => simp [ins, risingFrom, hk]
  | cons p t ih =>
    obtain ⟨i, w⟩ := p
    simp only [risingFrom, Bool.and_eq_true, decide_eq_true_eq] at h
    simp only [ins]
    split
    · simp only [risingFrom, Bool.and_eq_true, decide_eq_true_eq]
      exact ⟨hk, by omega, h.2⟩
    · split
      · rename_i h1 h2
        subst h2
        simp only [risingFrom, Bool.and_eq_true, decide_eq_true_eq]
        exact ⟨hk, h.2⟩
      · simp only [risingFrom, Bool.and_eq_true, decide_eq_true_eq]
        exact ⟨h.1, ih h.2 (by omega)⟩

theorem rising_filter {m : SMap α} {lo : Nat} (h : risingFrom lo m = true) (p : Nat × α → Bool) :
    risingFrom lo (m.filter p) = true := by
  induction m generalizing lo with
  | nil => rfl
  | cons q t ih =>
    obtain ⟨i, w⟩ := q
    simp only [risingFrom, Bool.and_eq_true, decide_eq_true_eq] at h
    rw [List.filter_cons]
    split
    · simp only [risingFrom, Bool.and_eq_true, decide_eq_true_eq]
      exact ⟨h.1, ih h.2⟩
    · exact ih (rising_mono h.2 (by omega))

/-- A change of values that may drop entries keeps the order. -/
theorem rising_filterMap {β : Type} {m : SMap α} {lo : Nat} (h : risingFrom lo m = true) (f : Nat × α → Option (Nat × β))
    (hf : ∀ p q, f p = some q → q.1 = p.1) : risingFrom lo (m.filterMap f) = true := by
  induction m generalizing lo with
  | nil => rfl
  | cons q t ih =>
    obtain ⟨i, w⟩ := q
    simp only [risingFrom, Bool.and_eq_true, decide_eq_true_eq] at h
    rw [List.filterMap_cons]
    split
    · exact ih (rising_mono h.2 (by omega))
    · rename_i r hr
      have := hf _ _ hr
      obtain ⟨j, v⟩ := r
      simp only at this
      subst this
      simp only [risingFrom, Bool.and_eq_true, decide_eq_true_eq]
      exact ⟨h.1, ih h.2⟩

/-- Every listed key is at least the bound. -/
theorem le_of_rising {m : SMap α} {lo : Nat} (h : risingFrom lo m = true) {p : Nat × α} (hp : p ∈ m) : lo ≤ p.1 := by
  induction m generalizing lo with
  | nil => simp at hp
  | cons q t ih =>
    obtain ⟨i, w⟩ := q
    simp only [risingFrom, Bool.and_eq_true, decide_eq_true_eq] at h
    rcases List.mem_cons.1 hp with rfl | hp
    · exact h.1
    · have := ih h.2 hp
      omega

/-- Two rising pieces, the second above the first, rise together. -/
theorem rising_append {m n : SMap α} {lo mid : Nat} (hm : risingFrom lo m = true) (hlo : lo ≤ mid)
    (hb : ∀ p ∈ m, p.1 < mid) (hn : risingFrom mid n = true) : risingFrom lo (m ++ n) = true := by
  induction m generalizing lo with
  | nil => exact rising_mono hn hlo
  | cons q t ih =>
    obtain ⟨i, w⟩ := q
    simp only [risingFrom, Bool.and_eq_true, decide_eq_true_eq] at hm
    simp only [List.cons_append, risingFrom, Bool.and_eq_true, decide_eq_true_eq]
    refine ⟨hm.1, ih hm.2 ?_ (fun p hp => hb p (List.mem_cons_of_mem _ hp))⟩
    have := hb (i, w) (List.mem_cons_self ..)
    simp only at this
    omega

theorem mem_del {m : SMap α} {k : Nat} {p : Nat × α} (h : p ∈ del m k) : p ∈ m := by
  induction m with
  | nil => simp [del] at h
  | cons q t ih =>
    obtain ⟨i, w⟩ := q
    simp only [del] at h
    split at h
    · exact List.mem_cons_of_mem _ h
    · rcases List.mem_cons.1 h with rfl | h
      · exact List.mem_cons_self ..
      · exact List.mem_cons_of_mem _ (ih h)

theorem mem_ins {m : SMap α} {k : Nat} {v : α} {p : Nat × α} (h : p ∈ ins m k v) : p = (k, v) ∨ p ∈ m := by
  induction m with
  | nil => exact .inl (by simpa [ins] using h)
  | cons q t ih =>
    obtain ⟨i, w⟩ := q
    simp only [ins] at h
    split at h
    · simpa using h
    · split at h
      · rcases List.mem_cons.1 h with rfl | h
        · exact .inl rfl
        · exact .inr (List.mem_cons_of_mem _ h)
      · rcases List.mem_cons.1 h with rfl | h
        · exact .inr (List.mem_cons_self ..)
        · rcases ih h with h | h
          · exact .inl h
          · exact .inr (List.mem_cons_of_mem _ h)

section Wf
variable [DecidableEq α] {d : Nat → α}

theorem smapWf_iff {m : SMap α} : smapWf d m = true ↔ risingFrom 0 m = true ∧ ∀ p ∈ m, p.2 ≠ d p.1 := by
  simp [smapWf]

theorem smapWf_nil : smapWf d ([] : SMap α) = true := by simp [smapWf, risingFrom]

theorem smapWf_del {m : SMap α} (h : smapWf d m = true) (k : Nat) : smapWf d (del m k) = true := by
  rw [smapWf_iff] at h ⊢
  exact ⟨rising_del h.1 k, fun p hp => h.2 p (mem_del hp)⟩

theorem smapWf_ins {m : SMap α} (h : smapWf d m = true) {k : Nat} {v : α} (hv : v ≠ d k) : smapWf d (ins m k v) = true := by
  rw [smapWf_iff] at h ⊢
  refine ⟨rising_ins h.1 (Nat.zero_le _) v, fun p hp => ?_⟩
  rcases mem_ins hp with rfl | hp
  · exact hv
  · exact h.2 p hp

theorem smapWf_put {m : SMap α} (h : smapWf d m = true) (k : Nat) (v : α) : smapWf d (put m k v (d k)) = true := by
  unfold put
  split
  · exact smapWf_del h k
  · rename_i hv
    exact smapWf_ins h hv

theorem smapWf_filter {m : SMap α} (h : smapWf d m = true) (p : Nat × α → Bool) : smapWf d (m.filter p) = true := by
  rw [smapWf_iff] at h ⊢
  exact ⟨rising_filter h.1 p, fun q hq => h.2 q (List.mem_of_mem_filter hq)⟩

end Wf

/-! ### Byte memories -/

theorem memory_nil : Memory.wf [] = true := rfl

theorem memory_put {m : SMap Byte} (h : Memory.wf m = true) (k : Nat) (v : Byte) : Memory.wf (put m k v 0) = true :=
  smapWf_put (d := fun _ => 0) h k v

theorem memory_filter {m : SMap Byte} (h : Memory.wf m = true) (p : Nat × Byte → Bool) : Memory.wf (m.filter p) = true :=
  smapWf_filter h p

theorem memory_delRange {m : SMap Byte} (h : Memory.wf m = true) (k n : Nat) : Memory.wf (delRange m k n) = true :=
  smapWf_filter h _

theorem memory_putBytes {m : SMap Byte} (h : Memory.wf m = true) (k : Nat) (b : Bytes) : Memory.wf (putBytes m k b) = true := by
  induction b generalizing m k with
  | nil => exact h
  | cons x t ih => exact ih (memory_put h k x) (k + 1)

/-- Bytes outside the written ones read as before. -/
theorem look_putBytes_of_not_mem {m : SMap Byte} {k a : Nat} {b : Bytes} (h : a < k ∨ k + b.length ≤ a) :
    look (putBytes m k b) a 0 = look m a 0 := by
  induction b generalizing m k with
  | nil => rfl
  | cons x t ih =>
    simp only [List.length_cons] at h
    simp only [putBytes]
    rw [ih (by omega), look_put_ne (by omega)]

/-- Each written byte reads as written. -/
theorem look_putBytes_of_mem {m : SMap Byte} (hm : Memory.wf m = true) {k : Nat} {b : Bytes} {i : Nat} (h : i < b.length) :
    look (putBytes m k b) (k + i) 0 = b[i] := by
  induction b generalizing m k i with
  | nil => simp at h
  | cons x t ih =>
    simp only [putBytes]
    cases i with
    | zero =>
      rw [Nat.add_zero, look_putBytes_of_not_mem (by omega)]
      exact look_put_self (smapWf_iff.1 hm).1 k x 0
    | succ i =>
      have := ih (memory_put hm k x) (k := k + 1) (i := i) (by simpa using h)
      rw [show k + (i + 1) = k + 1 + i by omega]
      simpa using this

end Sys2Proof.Laws
end

