-- ==== Sys2Proof/Laws/Keep.lean ====
section
/-! SUPPORT. What every operation of the model keeps, as one relation between the state before and the state after,
with the lemmas of the operations that touch what it speaks of. The files Laws/Keep*.lean carry it through every
operation and every meaning, one lemma each. -/
namespace Sys2Proof.Laws
open Sys2Proof.Machine Sys2Proof.Safety

/-- From `s` to `t` the invariants of Safety.lean are kept, nothing sent is withdrawn and the fused identity stays. -/
structure Keeps (s t : State) : Prop where
  mem : MemOk s → MemOk t
  log : LogOk s → LogOk t
  lc : LcOk s → LcOk t
  out : Sends s t
  fuses : SameFuses s t
  free : s.freshN ≤ t.freshN

theorem Keeps.refl (s : State) : Keeps s s :=
  ⟨id, id, id, List.prefix_refl _, ⟨rfl, rfl, rfl⟩, Nat.le_refl _⟩

variable {s₀ s t u : State}

theorem Keeps.trans (h : Keeps s t) (k : Keeps t u) : Keeps s u :=
  ⟨fun a => k.mem (h.mem a), fun a => k.log (h.log a), fun a => k.lc (h.lc a), h.out.trans k.out,
   ⟨k.fuses.1.trans h.fuses.1, k.fuses.2.1.trans h.fuses.2.1, k.fuses.2.2.trans h.fuses.2.2⟩, h.free.trans k.free⟩

/-- A state that agrees on everything the relation speaks of. -/
theorem Keeps.same (h : Keeps s₀ s) (e1 : t.regs = s.regs) (e2 : t.pond = s.pond) (e3 : t.nmc.lake = s.nmc.lake)
    (e4 : t.cc.sram = s.cc.sram) (e5 : t.log = s.log) (e6 : t.secm.lc = s.secm.lc) (e7 : t.secm.nvOld = s.secm.nvOld)
    (e8 : t.out = s.out) (e9 : SameFuses s t) (e10 : t.freshN = s.freshN) : Keeps s₀ t := by
  refine h.trans ⟨?_, ?_, ?_, ?_, e9, by omega⟩
  · simp only [MemOk, e1, e2, e3, e4]; exact id
  · simp only [LogOk, e5]; exact id
  · simp only [LcOk, e6, e7]; exact id
  · simp only [Sends, e8]; exact List.prefix_refl _

/-- A record update that leaves registers, log, fuses and what was sent alone, and the memories in canonical form. -/
theorem keep_set (h : Keeps s₀ u) {ft setNow ccNow straps gpio rst doms clk fab spg conf chans tills tillNow rings rtb side gens
    rtbLatch pairLatch pfx pfxPages listPages listBlocks free pageOwner pond poison admq admNext steps aisles batches batchNum fixed wks cc masks adps
    adpFetch adpPages pinPages nmc secm img heldAcc pending}
    (h0 : Memory.wf u.pond = true → Memory.wf u.nmc.lake = true → Memory.wf pond = true)
    (h1 : Memory.wf u.pond = true → Memory.wf u.nmc.lake = true → Memory.wf nmc.lake = true)
    (h2 : Memory.wf u.cc.sram = true → Memory.wf cc.sram = true) (h3 : secm.lc = u.secm.lc) (h4 : secm.nvOld = u.secm.nvOld) :
    Keeps s₀ (State.mk ft u.regs setNow ccNow u.serial u.stepping u.partX straps gpio rst doms clk fab spg conf chans tills
      tillNow rings rtb side gens rtbLatch pairLatch pfx pfxPages listPages listBlocks free pageOwner pond poison admq admNext steps aisles batches batchNum
      fixed wks cc masks adps adpFetch adpPages pinPages nmc secm img u.log heldAcc u.freshN u.out pending) := by
  refine h.trans ⟨fun m => ⟨m.1, h0 m.2.1 m.2.2.1, h1 m.2.1 m.2.2.1, h2 m.2.2.2⟩, id, ?_, List.prefix_refl _, ⟨rfl, rfl, rfl⟩, Nat.le_refl _⟩
  simp only [LcOk, h3, h4]; exact id

theorem keep_ite {c : Prop} [Decidable c] {a b : State} (ha : Keeps s₀ a) (hb : Keeps s₀ b) :
    Keeps s₀ (if c then a else b) := by
  split <;> assumption

theorem keep_ite1 {β : Type} {c : Prop} [Decidable c] {a b : State × β} (ha : Keeps s₀ a.1) (hb : Keeps s₀ b.1) :
    Keeps s₀ (if c then a else b).1 := by
  split <;> assumption

theorem keep_ite2 {β : Type} {c : Prop} [Decidable c] {a b : β × State} (ha : Keeps s₀ a.2) (hb : Keeps s₀ b.2) :
    Keeps s₀ (if c then a else b).2 := by
  split <;> assumption

theorem keep_ite3 {β γ : Type} {c : Prop} [Decidable c] {a b : β × γ × State} (ha : Keeps s₀ a.2.2) (hb : Keeps s₀ b.2.2) :
    Keeps s₀ (if c then a else b).2.2 := by
  split <;> assumption

theorem keep_cond {c : Bool} {a b : State} (ha : Keeps s₀ a) (hb : Keeps s₀ b) : Keeps s₀ (bif c then a else b) := by
  cases c <;> assumption

theorem keep_when_ {p : Bool} {f : State → State} (h : Keeps s₀ s) (hf : ∀ s, Keeps s₀ s → Keeps s₀ (f s)) :
    Keeps s₀ (when_ p f s) := by
  unfold when_
  split
  · exact hf s h
  · exact h

theorem keep_foldl {α : Type} {l : List α} {f : State → α → State} (h : Keeps s₀ s)
    (hf : ∀ s a, Keeps s₀ s → Keeps s₀ (f s a)) : Keeps s₀ (l.foldl f s) := by
  induction l generalizing s with
  | nil => exact h
  | cons a t ih => exact ih (hf s a h)

theorem keep_foldl1 {α β : Type} {l : List α} {f : State × β → α → State × β} {x : State × β} (h : Keeps s₀ x.1)
    (hf : ∀ x a, Keeps s₀ x.1 → Keeps s₀ (f x a).1) : Keeps s₀ (l.foldl f x).1 := by
  induction l generalizing x with
  | nil => exact h
  | cons a t ih => exact ih (hf x a h)

theorem keep_foldl2 {α β : Type} {l : List α} {f : β × State → α → β × State} {x : β × State} (h : Keeps s₀ x.2)
    (hf : ∀ x a, Keeps s₀ x.2 → Keeps s₀ (f x a).2) : Keeps s₀ (l.foldl f x).2 := by
  induction l generalizing x with
  | nil => exact h
  | cons a t ih => exact ih (hf x a h)

theorem keep_foldl3 {α β γ : Type} {l : List α} {f : β × γ × State → α → β × γ × State} {x : β × γ × State}
    (h : Keeps s₀ x.2.2) (hf : ∀ x a, Keeps s₀ x.2.2 → Keeps s₀ (f x a).2.2) : Keeps s₀ (l.foldl f x).2.2 := by
  induction l generalizing x with
  | nil => exact h
  | cons a t ih => exact ih (hf x a h)

theorem keep_forEach {α : Type} {l : List α} {f : α → State → State} (h : Keeps s₀ s)
    (hf : ∀ a s, Keeps s₀ s → Keeps s₀ (f a s)) : Keeps s₀ (forEach l f s) :=
  keep_foldl h (fun s a hs => hf a s hs)

theorem keep_eq1 {β : Type} {x : State × β} {b : β} (e : x = (t, b)) (h : Keeps s₀ x.1) : Keeps s₀ t := by
  subst e; exact h
theorem keep_eq2 {β : Type} {x : β × State} {b : β} (e : x = (b, t)) (h : Keeps s₀ x.2) : Keeps s₀ t := by
  subst e; exact h

/-- A meaning keeps what its effect keeps. -/
theorem keep_run {c : Instr} (e : run c s t = .next u) (h : Keeps s₀ t) : Keeps s₀ u := by
  unfold run at e
  split at e
  · cases e
    exact h.same rfl rfl rfl rfl rfl rfl rfl rfl ⟨rfl, rfl, rfl⟩ rfl
  · cases e

/-! ### The operations that touch registers, the log or what leaves the chip -/

theorem keep_fresh (h : Keeps s₀ s) : Keeps s₀ (fresh s).2 :=
  h.trans ⟨id, id, id, List.prefix_refl _, ⟨rfl, rfl, rfl⟩, Nat.le_succ _⟩

theorem keep_wr {a b : Nat} (h : Keeps s₀ s) : Keeps s₀ (wr a b s) :=
  h.trans ⟨fun m => ⟨smapWf_put m.1 _ _, m.2⟩, id, id, List.prefix_refl _, ⟨rfl, rfl, rfl⟩, Nat.le_refl _⟩

theorem keep_emit {e : Emit} (h : Keeps s₀ s) : Keeps s₀ (emit e s) := by
  refine h.trans ⟨id, id, id, ?_, ⟨rfl, rfl, rfl⟩, Nat.le_refl _⟩
  simp only [Sends, emit]
  split
  · exact List.prefix_append ..
  · exact List.prefix_refl _

theorem ring_put {m : SMap LogEntry} (h : ∀ p ∈ m, p.1 < 2048) {k : Nat} (hk : k < 2048) (e d : LogEntry) :
    ∀ p ∈ put m k e d, p.1 < 2048 := by
  intro p hp
  unfold put at hp
  split at hp
  · exact h p (mem_del hp)
  · rcases mem_ins hp with rfl | hp
    · exact hk
    · exact h p hp

/-- Writing an entry keeps the ring as it must be (R544, R545). -/
theorem logOk_write {l : Log} (e : LogEntry) (h : l.unread ≤ 2048 ∧ l.head < 2048
    ∧ l.tail = (l.head + l.unread) % 2048 ∧ ∀ p ∈ l.ring, p.1 < 2048) :
    (l.write e).1.unread ≤ 2048 ∧ (l.write e).1.head < 2048
    ∧ (l.write e).1.tail = ((l.write e).1.head + (l.write e).1.unread) % 2048 ∧ ∀ p ∈ (l.write e).1.ring, p.1 < 2048 := by
  obtain ⟨h1, h2, h3, h4⟩ := h
  have ht : l.tail < 2048 := by omega
  unfold Log.write
  split
  · exact ⟨by simp only; omega, h2, by simp only; omega, ring_put h4 ht _ _⟩
  · split
    · exact ⟨h1, h2, h3, h4⟩
    · exact ⟨h1, by simp only; omega, by simp only; omega, ring_put h4 ht _ _⟩

theorem keep_setBit {a b : Nat} (h : Keeps s₀ s) : Keeps s₀ (setBit a b s) :=
  (keep_wr (a := a) h).same rfl rfl rfl rfl rfl rfl rfl rfl ⟨rfl, rfl, rfl⟩ rfl
theorem keep_devEvent {e : Nat} (h : Keeps s₀ s) : Keeps s₀ (devEvent e s) := keep_emit h

theorem keep_log1 {a b : Nat} {c : List Nat} (h : Keeps s₀ s) : Keeps s₀ (log1 a b c s).1 := by
  refine keep_when_ (h.trans ⟨id, fun m => ?_, id, List.prefix_refl _, ⟨rfl, rfl, rfl⟩, Nat.le_refl _⟩)
    (fun s hs => keep_devEvent hs)
  exact logOk_write _ m

theorem keep_frozen (h : Keeps s₀ s) (b : Bool) : Keeps s₀ { s with log := { s.log with frozen := b } } :=
  h.trans ⟨id, id, id, List.prefix_refl _, ⟨rfl, rfl, rfl⟩, Nat.le_refl _⟩

theorem keep_haltSet {c : Nat} (h : Keeps s₀ s) : Keeps s₀ (haltSet c s) :=
  keep_log1 (keep_emit (keep_setBit (keep_setBit h)))

theorem keep_freezeCheck {a : Nat} {b : Bool} (h : Keeps s₀ s) : Keeps s₀ (freezeCheck a b s) := by
  unfold freezeCheck
  split
  · exact keep_when_ (keep_log1 (keep_frozen h true)) (fun _ hs => keep_haltSet hs)
  · exact h

end Sys2Proof.Laws
end

