-- ==== Sys2Proof/Laws/Memory.lean ====
section
/-! SUPPORT. The memory operations of near memory and of page moves keep the canonical form. -/
namespace Sys2Proof.Laws
open Sys2Proof.Machine

theorem memory_ins {m : SMap Byte} (h : Memory.wf m = true) {k : Nat} {v : Byte} (hv : v ≠ 0) :
    Memory.wf (ins m k v) = true :=
  smapWf_ins (d := fun _ => 0) h hv

theorem memory_foldl {α : Type} {l : List α} {f : SMap Byte → α → SMap Byte} {m : SMap Byte}
    (hf : ∀ m a, Memory.wf m = true → Memory.wf (f m a) = true) (h : Memory.wf m = true) :
    Memory.wf (l.foldl f m) = true := by
  induction l generalizing m with
  | nil => exact h
  | cons a t ih => exact ih (hf m a h)

theorem memory_ne_zero {m : SMap Byte} (h : Memory.wf m = true) {p : Nat × Byte} (hp : p ∈ m) : p.2 ≠ 0 :=
  (smapWf_iff.1 h).2 p hp

/-- Copying a range of one memory into another. -/
theorem memory_copyRange {src dst : SMap Byte} (hs : Memory.wf src = true) (hd : Memory.wf dst = true) (a n b : Nat) :
    Memory.wf (copyRange src a n dst b) = true := by
  unfold copyRange
  have hq : ∀ p ∈ src.filter (fun p => decide (a ≤ p.1) && decide (p.1 < a + n)), p.2 ≠ 0 := fun p hp =>
    memory_ne_zero hs (List.mem_of_mem_filter hp)
  generalize src.filter (fun p => decide (a ≤ p.1) && decide (p.1 < a + n)) = l at hq
  have hd := memory_delRange hd b n
  generalize delRange dst b n = m at hd
  induction l generalizing m with
  | nil => exact hd
  | cons p t ih =>
    exact ih (fun q hq' => hq q (List.mem_cons_of_mem _ hq')) _ (memory_ins hd (hq p (List.mem_cons_self ..)))

theorem rising_zipIdx (b : Bytes) (base i : Nat) :
    risingFrom (base + i) (((b.zipIdx i).filter (fun x => x.1 != 0)).map (fun x => (base + x.2, x.1))) = true
      ∧ ∀ p ∈ ((b.zipIdx i).filter (fun x => x.1 != 0)).map (fun x => (base + x.2, x.1)),
          p.2 ≠ 0 ∧ p.1 < base + i + b.length := by
  induction b generalizing i with
  | nil => simp [risingFrom]
  | cons x t ih =>
    obtain ⟨h1, h2⟩ := ih (i + 1)
    rw [List.zipIdx_cons, List.filter_cons]
    simp only [List.length_cons]
    split
    · rename_i hx
      simp only [List.map_cons, risingFrom, Bool.and_eq_true, decide_eq_true_eq]
      refine ⟨⟨Nat.le_refl _, h1⟩, fun p hp => ?_⟩
      rcases List.mem_cons.1 hp with rfl | hp
      · exact ⟨by simpa using hx, by simp only; omega⟩
      · have := h2 p hp
        exact ⟨this.1, by omega⟩
    · refine ⟨rising_mono h1 (by omega), fun p hp => ?_⟩
      have := h2 p hp
      exact ⟨this.1, by omega⟩

/-- Replacing a whole range. -/
theorem memory_setRange {m : SMap Byte} (h : Memory.wf m = true) (base : Nat) (b : Bytes) :
    Memory.wf (setRange m base b) = true := by
  have hm := smapWf_iff.1 h
  obtain ⟨h1, h2⟩ := rising_zipIdx b base 0
  refine smapWf_iff.2 ⟨?_, ?_⟩
  · unfold setRange
    refine rising_append (mid := base + b.length) ?_ (Nat.zero_le _) ?_ ?_
    · exact rising_append (mid := base) (rising_filter hm.1 _) (Nat.zero_le _)
        (fun p hp => by simpa using (List.mem_filter.1 hp).2) (by simpa using h1)
    · intro p hp
      rcases List.mem_append.1 hp with hp | hp
      · have := (List.mem_filter.1 hp).2
        simp only [decide_eq_true_eq] at this
        omega
      · have := (h2 p hp).2
        omega
    · have hr : ∀ (l : SMap Byte) (lo mid : Nat), risingFrom lo l = true →
          risingFrom mid (l.filter (fun p => decide (mid ≤ p.1))) = true := by
        intro l
        induction l with
        | nil => intros; rfl
        | cons q t ih =>
          intro lo mid hl
          obtain ⟨i, w⟩ := q
          simp only [risingFrom, Bool.and_eq_true, decide_eq_true_eq] at hl
          rw [List.filter_cons]
          split
          · rename_i hi
            simp only [decide_eq_true_eq] at hi
            simp only [risingFrom, Bool.and_eq_true, decide_eq_true_eq]
            exact ⟨hi, rising_filter hl.2 _⟩
          · exact ih _ _ hl.2
      exact hr m 0 _ hm.1
  · intro p hp
    unfold setRange at hp
    rcases List.mem_append.1 hp with hp | hp
    · rcases List.mem_append.1 hp with hp | hp
      · exact hm.2 p (List.mem_of_mem_filter hp)
      · exact (h2 p hp).1
    · exact hm.2 p (List.mem_of_mem_filter hp)

/-- A row operation on every bank of the scope (R450 to R453). -/
theorem memory_rowApply (d : PimDesc) (i : Nat) {m : SMap Byte} (h : Memory.wf m = true) :
    Memory.wf (rowApply d i m) = true :=
  memory_foldl (fun m _ hm => memory_setRange hm _ _) h

/-- A unit of XFER (R455). -/
theorem memory_unitApply (d : PimDesc) (i : Nat) {m : SMap Byte} (h : Memory.wf m = true) :
    Memory.wf (unitApply d i m) = true :=
  memory_copyRange h h _ _ _

end Sys2Proof.Laws
end

