-- ==== Sys2Proof/Laws/KeepBase.lean ====
section
/-! SUPPORT. What `Keeps` of Laws/Keep.lean says, operation by operation and command by command: the operations every family shares. Each lemma
says that an operation applied to a state that keeps the invariants of `s₀` keeps them. -/
namespace Sys2Proof.Laws
open Sys2Proof.Machine Sys2Proof.Safety
set_option Elab.async false
set_option linter.unusedTactic false
set_option linter.unreachableTactic false
set_option linter.unusedVariables false
variable {s₀ : State}

/-! ### Ops -/

theorem keep_wrf {a0 a1 a2 a3 a4} (h : Keeps s₀ a4) : Keeps s₀ (wrf a0 a1 a2 a3 a4) := by
  delta wrf
  repeat' first
    | with_reducible assumption | intro _
    | (with_reducible first | apply keep_wr)

theorem keep_clrBit {a0 a1 a2} (h : Keeps s₀ a2) : Keeps s₀ (clrBit a0 a1 a2) := by
  delta clrBit
  repeat' first
    | with_reducible assumption | intro _
    | (with_reducible first | apply keep_wrf)

theorem keep_bumpSat {a0 a1} (h : Keeps s₀ a1) : Keeps s₀ (bumpSat a0 a1) := by
  delta bumpSat
  repeat' first
    | with_reducible assumption | intro _
    | (with_reducible first | apply keep_wr)

theorem keep_addWrap {a0 a1 a2} (h : Keeps s₀ a2) : Keeps s₀ (addWrap a0 a1 a2) := by
  delta addWrap
  repeat' first
    | with_reducible assumption | intro _
    | (with_reducible first | apply keep_wr)

theorem keep_wr64 {a0 a1 a2} (h : Keeps s₀ a2) : Keeps s₀ (wr64 a0 a1 a2) := by
  delta wr64
  repeat' first
    | with_reducible assumption | intro _
    | (with_reducible first | apply keep_wr)

theorem keep_ccInt {a0 a1} (h : Keeps s₀ a1) : Keeps s₀ (ccInt a0 a1) := by
  delta ccInt
  repeat' first
    | with_reducible assumption | intro _
    | (with_reducible first | apply keep_setBit)

theorem keep_haltRaise {a0 a1} (h : Keeps s₀ a1) : Keeps s₀ (haltRaise a0 a1) := by
  delta haltRaise
  extract_lets x0 x1
  have h0 : Keeps s₀ x0 := by
    try subst x0
    repeat' first
      | with_reducible assumption | intro _
      | (with_reducible first | apply keep_emit | apply keep_setBit | apply keep_log1 | apply keep_freezeCheck | apply keep_ite | apply keep_ite1 | apply keep_ite2 | apply keep_ite3)
      | split
  have h1 : Keeps s₀ x1.1 := by
    try subst x1
    repeat' first
      | with_reducible assumption | intro _
      | (with_reducible first | apply keep_emit | apply keep_setBit | apply keep_log1 | apply keep_freezeCheck | apply keep_ite | apply keep_ite1 | apply keep_ite2 | apply keep_ite3)
      | split
  try clear_value x1; try clear_value x0
  repeat' first
    | with_reducible assumption | intro _
    | (with_reducible first | apply keep_emit | apply keep_setBit | apply keep_log1 | apply keep_freezeCheck | apply keep_ite | apply keep_ite1 | apply keep_ite2 | apply keep_ite3)
    | split

theorem keep_logEv {a0 a1 a2 a3} (h : Keeps s₀ a3) : Keeps s₀ (logEv a0 a1 a2 a3) := by
  delta logEv
  extract_lets x0 x1
  have h0 : Keeps s₀ x0.1 := by
    try subst x0
    repeat' first
      | with_reducible assumption | intro _
      | (with_reducible first | apply keep_log1 | apply keep_when_ | apply keep_haltRaise | apply keep_freezeCheck)
  have h1 : Keeps s₀ x1 := by
    try subst x1
    repeat' first
      | with_reducible assumption | intro _
      | (with_reducible first | apply keep_log1 | apply keep_when_ | apply keep_haltRaise | apply keep_freezeCheck)
  try clear_value x1; try clear_value x0
  repeat' first
    | with_reducible assumption | intro _
    | (with_reducible first | apply keep_log1 | apply keep_when_ | apply keep_haltRaise | apply keep_freezeCheck)

theorem keep_logC {a0 a1 a2} (h : Keeps s₀ a2) : Keeps s₀ (logC a0 a1 a2) := by
  delta logC
  repeat' first
    | with_reducible assumption | intro _
    | (with_reducible first | apply keep_logEv)

theorem keep_dmaFail {a0 a1} (h : Keeps s₀ a1) : Keeps s₀ (dmaFail a0 a1) := by
  delta dmaFail
  repeat' first
    | with_reducible assumption | intro _
    | (with_reducible first | apply keep_logC | apply keep_bumpSat | apply keep_emit)

theorem keep_setDom {a0 a1 a2} (h : Keeps s₀ a2) : Keeps s₀ (setDom a0 a1 a2) := by
  delta setDom
  repeat' first
    | with_reducible assumption | intro _
    | with_reducible refine keep_set ?_ ?_ ?_ ?_ ?_ ?_
    | rfl
    | (with_reducible first | apply memory_put | apply memory_putBytes | apply memory_filter | apply memory_delRange )
    | assumption

theorem keep_modSpg {a0 a1} (h : Keeps s₀ a1) : Keeps s₀ (modSpg a0 a1) := by
  delta modSpg
  repeat' first
    | with_reducible assumption | intro _
    | with_reducible refine keep_set ?_ ?_ ?_ ?_ ?_ ?_
    | rfl
    | assumption

theorem keep_modDom {a0 a1 a2} (h : Keeps s₀ a2) : Keeps s₀ (modDom a0 a1 a2) := by
  delta modDom
  repeat' first
    | with_reducible assumption | intro _
    | (with_reducible first | apply keep_setDom)

theorem keep_startTrans {a0 a1 a2} (h : Keeps s₀ a2) : Keeps s₀ (startTrans a0 a1 a2) := by
  delta startTrans
  extract_lets x0
  try clear_value x0
  repeat' first
    | with_reducible assumption | intro _
    | (with_reducible first | apply keep_setDom)

theorem keep_startMove {a0 a1 a2} (h : Keeps s₀ a2) : Keeps s₀ (startMove a0 a1 a2) := by
  delta startMove
  extract_lets x0
  try clear_value x0
  repeat' first
    | with_reducible assumption | intro _
    | (with_reducible first | apply keep_modDom | apply keep_startTrans | apply keep_ite)
    | extract_lets | split
    | refine keep_eq2 (by with_reducible assumption) ?_ | refine keep_eq1 (by with_reducible assumption) ?_

theorem keep_undoExpiry {a0 a1} (h : Keeps s₀ a1) : Keeps s₀ (undoExpiry a0 a1) := by
  delta undoExpiry
  extract_lets x0
  try clear_value x0
  repeat' first
    | with_reducible assumption | intro _
    | (with_reducible first | apply keep_setDom | apply keep_ite)
    | split

theorem keep_wakeDom {a0 a1} (h : Keeps s₀ a1) : Keeps s₀ (wakeDom a0 a1) := by
  delta wakeDom
  extract_lets x0 x1 x2 x3 x4
  have h0 : Keeps s₀ x0 := by
    try subst x0
    repeat' first
      | with_reducible assumption | intro _
      | (with_reducible first | apply keep_undoExpiry | apply keep_modDom | apply keep_when_ | apply keep_setBit | apply keep_startTrans | apply keep_logC | apply keep_ite)
      | extract_lets | split
      | refine keep_eq2 (by with_reducible assumption) ?_ | refine keep_eq1 (by with_reducible assumption) ?_
  have h2 : Keeps s₀ x2 := by
    try subst x2
    repeat' first
      | with_reducible assumption | intro _
      | (with_reducible first | apply keep_undoExpiry | apply keep_modDom | apply keep_when_ | apply keep_setBit | apply keep_startTrans | apply keep_logC | apply keep_ite)
      | extract_lets | split
      | refine keep_eq2 (by with_reducible assumption) ?_ | refine keep_eq1 (by with_reducible assumption) ?_
  have h4 : Keeps s₀ x4 := by
    try subst x4
    repeat' first
      | with_reducible assumption | intro _
      | (with_reducible first | apply keep_undoExpiry | apply keep_modDom | apply keep_when_ | apply keep_setBit | apply keep_startTrans | apply keep_logC | apply keep_ite)
      | extract_lets | split
      | refine keep_eq2 (by with_reducible assumption) ?_ | refine keep_eq1 (by with_reducible assumption) ?_
  try clear_value x4; try clear_value x3; try clear_value x2; try clear_value x1; try clear_value x0
  repeat' first
    | with_reducible assumption | intro _
    | (with_reducible first | apply keep_undoExpiry | apply keep_modDom | apply keep_when_ | apply keep_setBit | apply keep_startTrans | apply keep_logC | apply keep_ite)
    | extract_lets | split
    | refine keep_eq2 (by with_reducible assumption) ?_ | refine keep_eq1 (by with_reducible assumption) ?_

theorem keep_wakeAll {a0 a1 a2} (h : Keeps s₀ a2) : Keeps s₀ (wakeAll a0 a1 a2) := by
  delta wakeAll
  extract_lets x0
  try clear_value x0
  repeat' first
    | with_reducible assumption | intro _
    | (with_reducible first | apply keep_forEach | apply keep_wakeDom | apply keep_when_ | apply keep_setBit)

theorem keep_touch {a0 a1} (h : Keeps s₀ a1) : Keeps s₀ (touch a0 a1) := by
  delta touch
  repeat' first
    | with_reducible assumption | intro _
    | (with_reducible first | apply keep_modDom)

theorem keep_await {a0 a1 a2} (h : Keeps s₀ a2) : Keeps s₀ (await a0 a1 a2) := by
  delta await
  repeat' first
    | with_reducible assumption | intro _
    | with_reducible refine keep_set ?_ ?_ ?_ ?_ ?_ ?_
    | rfl
    | assumption

/-! ### Lake -/

theorem keep_modNmc {f : Nmc → Nmc} {s : State} (h : Keeps s₀ s) (hf : ∀ m, Memory.wf m.lake = true → Memory.wf (f m).lake = true) :
    Keeps s₀ (modNmc f s) :=
  h.trans ⟨fun m => ⟨m.1, m.2.1, hf _ m.2.2.1, m.2.2.2⟩, id, id, List.prefix_refl _, ⟨rfl, rfl, rfl⟩, Nat.le_refl _⟩

theorem keep_putPages {a0 a1 a2} (h : Keeps s₀ a2) : Keeps s₀ (putPages a0 a1 a2) := by
  delta putPages
  repeat' first
    | with_reducible assumption | intro _
    | (with_reducible first | apply keep_foldl | apply keep_foldl1 | apply keep_foldl2 | apply keep_foldl3)
    | with_reducible refine keep_set ?_ ?_ ?_ ?_ ?_ ?_
    | rfl
    | (with_reducible first | apply memory_put | apply memory_putBytes | apply memory_filter | apply memory_delRange | apply memory_copyRange | apply memory_foldl | apply memory_setRange | apply memory_rowApply | apply memory_unitApply)
    | assumption

theorem keep_lakeEcc {a0 a1 a2} (h : Keeps s₀ a2) : Keeps s₀ (lakeEcc a0 a1 a2) := by
  delta lakeEcc
  extract_lets x0 x1
  have h0 : Keeps s₀ x0 := by
    try subst x0
    repeat' first
      | with_reducible assumption | intro _
      | (with_reducible first | apply keep_wr | apply keep_wr64 | apply keep_logC | apply keep_setBit | apply keep_ite)
      | split
  have h1 : Keeps s₀ x1 := by
    try subst x1
    repeat' first
      | with_reducible assumption | intro _
      | (with_reducible first | apply keep_wr | apply keep_wr64 | apply keep_logC | apply keep_setBit | apply keep_ite)
      | split
  try clear_value x1; try clear_value x0
  repeat' first
    | with_reducible assumption | intro _
    | (with_reducible first | apply keep_wr | apply keep_wr64 | apply keep_logC | apply keep_setBit | apply keep_ite)
    | split

theorem keep_lakeServe {a0 a1 a2 a3} (h : Keeps s₀ a3) : Keeps s₀ (lakeServe a0 a1 a2 a3) := by
  delta lakeServe
  extract_lets x0
  have h0 : Keeps s₀ x0 := by
    try subst x0
    repeat' first
      | with_reducible assumption | intro _
      | (with_reducible first | apply keep_touch | apply keep_lakeEcc | apply keep_modNmc)
      | extract_lets | split
      | refine keep_eq2 (by with_reducible assumption) ?_ | refine keep_eq1 (by with_reducible assumption) ?_
      | with_reducible refine keep_set ?_ ?_ ?_ ?_ ?_ ?_
      | rfl
      | (with_reducible first | apply memory_put | apply memory_putBytes | apply memory_filter | apply memory_delRange | apply memory_copyRange | apply memory_foldl | apply memory_setRange | apply memory_rowApply | apply memory_unitApply)
      | assumption
  try clear_value x0
  repeat' first
    | with_reducible assumption | intro _
    | (with_reducible first | apply keep_touch | apply keep_lakeEcc | apply keep_modNmc)
    | extract_lets | split
    | refine keep_eq2 (by with_reducible assumption) ?_ | refine keep_eq1 (by with_reducible assumption) ?_
    | with_reducible refine keep_set ?_ ?_ ?_ ?_ ?_ ?_
    | rfl
    | (with_reducible first | apply memory_put | apply memory_putBytes | apply memory_filter | apply memory_delRange | apply memory_copyRange | apply memory_foldl | apply memory_setRange | apply memory_rowApply | apply memory_unitApply)
    | assumption

/-! ### Net -/

theorem keep_modFab {a0 a1} (h : Keeps s₀ a1) : Keeps s₀ (modFab a0 a1) := by
  delta modFab
  repeat' first
    | with_reducible assumption | intro _
    | with_reducible refine keep_set ?_ ?_ ?_ ?_ ?_ ?_
    | rfl
    | assumption

theorem keep_setLink {a0 a1 a2} (h : Keeps s₀ a2) : Keeps s₀ (setLink a0 a1 a2) := by
  delta setLink
  repeat' first
    | with_reducible assumption | intro _
    | (with_reducible first | apply keep_modFab)

theorem keep_modLink {a0 a1 a2} (h : Keeps s₀ a2) : Keeps s₀ (modLink a0 a1 a2) := by
  delta modLink
  repeat' first
    | with_reducible assumption | intro _
    | (with_reducible first | apply keep_setLink)

theorem keep_noteSent {a0 a1} (h : Keeps s₀ a1) : Keeps s₀ (noteSent a0 a1) := by
  delta noteSent
  extract_lets x0
  try clear_value x0
  repeat' first
    | with_reducible assumption | intro _
    | (with_reducible first | apply keep_modFab | apply keep_ite)
    | split

theorem keep_sendOne {a0 a1 a2} (h : Keeps s₀ a2) : Keeps s₀ (sendOne a0 a1 a2) := by
  delta sendOne
  extract_lets x0 x1 x2 x3
  have h1 : Keeps s₀ x1 := by
    try subst x1
    repeat' first
      | with_reducible assumption | intro _
      | (with_reducible first | apply keep_when_ | apply keep_touch | apply keep_noteSent | apply keep_addWrap | apply keep_emit | apply keep_setLink | apply keep_ite)
      | split
  try clear_value x3; try clear_value x2; try clear_value x1; try clear_value x0
  repeat' first
    | with_reducible assumption | intro _
    | (with_reducible first | apply keep_when_ | apply keep_touch | apply keep_noteSent | apply keep_addWrap | apply keep_emit | apply keep_setLink | apply keep_ite)
    | split

theorem keep_pump {p n a} (h : Keeps s₀ a) : Keeps s₀ (pump p n a) := by
  induction n generalizing  a with
  | zero => exact h
  | succ n ih =>
    unfold pump
    repeat' first
      | with_reducible assumption
      | intro _
      | (with_reducible first | apply ih | apply keep_sendOne)
      | (with_reducible first | apply keep_ite | apply keep_ite2)
      | extract_lets | split
      | refine keep_eq2 (by with_reducible assumption) ?_

theorem keep_txFlit {a0 a1 a2 a3 a4 a5} (h : Keeps s₀ a5) : Keeps s₀ (txFlit a0 a1 a2 a3 a4 a5) := by
  delta txFlit
  extract_lets x0
  have h0 : Keeps s₀ x0 := by
    try subst x0
    repeat' first
      | with_reducible assumption | intro _
      | (with_reducible first | apply keep_modLink | apply keep_pump)
  try clear_value x0
  repeat' first
    | with_reducible assumption | intro _
    | (with_reducible first | apply keep_modLink | apply keep_pump)

theorem keep_inject {a0 a1 a2 a3 a4 a5} (h : Keeps s₀ a5) : Keeps s₀ (inject a0 a1 a2 a3 a4 a5) := by
  delta inject
  extract_lets x0 x1 x2 x3
  try clear_value x3; try clear_value x1; try clear_value x0
  repeat' first
    | with_reducible assumption | intro _
    | (with_reducible first | apply keep_txFlit | apply keep_forEach | apply keep_ite | apply keep_ite1 | apply keep_ite2 | apply keep_ite3)
    | split

theorem keep_addFlit {a0 a1 a2 a3 a4} (h : Keeps s₀ a4) : Keeps s₀ (addFlit a0 a1 a2 a3 a4) := by
  delta addFlit
  extract_lets x0
  try clear_value x0
  repeat' first
    | with_reducible assumption | intro _
    | (with_reducible first | apply keep_modFab | apply keep_ite | apply keep_ite1 | apply keep_ite2 | apply keep_ite3)
    | extract_lets | split
    | refine keep_eq2 (by with_reducible assumption) ?_ | refine keep_eq1 (by with_reducible assumption) ?_

theorem keep_cutParts {a0 a1} (h : Keeps s₀ a1) : Keeps s₀ (cutParts a0 a1) := by
  delta cutParts
  extract_lets x0 x1
  repeat' first
    | with_reducible assumption | intro _
    | (with_reducible first | apply keep_modFab | apply keep_ite | apply keep_ite1 | apply keep_ite2 | apply keep_ite3)
    | split

theorem keep_deliverNotice {a0 a1} (h : Keeps s₀ a1) : Keeps s₀ (deliverNotice a0 a1) := by
  delta deliverNotice
  repeat' first
    | with_reducible assumption | intro _
    | (with_reducible first | apply keep_await)
    | extract_lets | split
    | refine keep_eq2 (by with_reducible assumption) ?_ | refine keep_eq1 (by with_reducible assumption) ?_

theorem keep_sendNotice {a0 a1 a2} (h : Keeps s₀ a2) : Keeps s₀ (sendNotice a0 a1 a2) := by
  delta sendNotice
  extract_lets x0
  try clear_value x0
  repeat' first
    | with_reducible assumption | intro _
    | (with_reducible first | apply keep_deliverNotice | apply keep_inject | apply keep_logC | apply keep_setBit | apply keep_ite)
    | split

theorem keep_sendFault {a0 a1 a2 a3 a4 a5 a6 a7 a8} (h : Keeps s₀ a8) : Keeps s₀ (sendFault a0 a1 a2 a3 a4 a5 a6 a7 a8) := by
  delta sendFault
  repeat' first
    | with_reducible assumption | intro _
    | (with_reducible first | apply keep_sendNotice)

theorem keep_unreachable {a0 a1} (h : Keeps s₀ a1) : Keeps s₀ (unreachable a0 a1) := by
  delta unreachable
  extract_lets x0
  have h0 : Keeps s₀ x0 := by
    try subst x0
    repeat' first
      | with_reducible assumption | intro _
      | (with_reducible first | apply keep_logC | apply keep_setBit | apply keep_sendFault | apply keep_ite)
      | extract_lets | split
      | refine keep_eq2 (by with_reducible assumption) ?_ | refine keep_eq1 (by with_reducible assumption) ?_
  try clear_value x0
  repeat' first
    | with_reducible assumption | intro _
    | (with_reducible first | apply keep_logC | apply keep_setBit | apply keep_sendFault | apply keep_ite)
    | extract_lets | split
    | refine keep_eq2 (by with_reducible assumption) ?_ | refine keep_eq1 (by with_reducible assumption) ?_

theorem keep_sendPacket {a0 a1 a2 a3 a4 a5} (h : Keeps s₀ a5) : Keeps s₀ (sendPacket a0 a1 a2 a3 a4 a5) := by
  delta sendPacket
  repeat' first
    | with_reducible assumption | intro _
    | (with_reducible first | apply keep_inject | apply keep_unreachable | apply keep_ite)
    | split

theorem keep_ctlOn {a0 a1 a2 a3} (h : Keeps s₀ a3) : Keeps s₀ (ctlOn a0 a1 a2 a3) := by
  delta ctlOn
  extract_lets x0 x1 x2
  try clear_value x2; try clear_value x1; try clear_value x0
  repeat' first
    | with_reducible assumption | intro _
    | (with_reducible first | apply keep_forEach | apply keep_txFlit | apply keep_ite)
    | split

theorem keep_ctlLink {a0 a1 a2 a3} (h : Keeps s₀ a3) : Keeps s₀ (ctlLink a0 a1 a2 a3) := by
  delta ctlLink
  repeat' first
    | with_reducible assumption | intro _
    | (with_reducible first | apply keep_ctlOn)

theorem keep_ctlPath {a0 a1 a2 a3 a4 a5} (h : Keeps s₀ a5) : Keeps s₀ (ctlPath a0 a1 a2 a3 a4 a5) := by
  delta ctlPath
  repeat' first
    | with_reducible assumption | intro _
    | (with_reducible first | apply keep_ctlOn)

theorem keep_ctlUp {a0 a1 a2 a3} (h : Keeps s₀ a3) : Keeps s₀ (ctlUp a0 a1 a2 a3) := by
  delta ctlUp
  repeat' first
    | with_reducible assumption | intro _
    | (with_reducible first | apply keep_ctlOn | apply keep_logC | apply keep_setBit | apply keep_ite)
    | extract_lets | split
    | refine keep_eq2 (by with_reducible assumption) ?_ | refine keep_eq1 (by with_reducible assumption) ?_

theorem keep_ctlToChip {a0 a1 a2 a3} (h : Keeps s₀ a3) : Keeps s₀ (ctlToChip a0 a1 a2 a3) := by
  delta ctlToChip
  repeat' first
    | with_reducible assumption | intro _
    | (with_reducible first | apply keep_ctlPath)

theorem keep_advertise {a0} (h : Keeps s₀ a0) : Keeps s₀ (advertise a0) := by
  delta advertise
  repeat' first
    | with_reducible assumption | intro _
    | (with_reducible first | apply keep_forEach | apply keep_ctlLink)

theorem keep_toMembers {a0 a1 a2} (h : Keeps s₀ a2) : Keeps s₀ (toMembers a0 a1 a2) := by
  delta toMembers
  repeat' first
    | with_reducible assumption | intro _
    | (with_reducible first | apply keep_forEach | apply keep_sendNotice)

/-! ### Table -/

/-- Storing into the pond. -/
theorem keep_pond {f : SMap Byte → SMap Byte} {s : State} (h : Keeps s₀ s)
    (hf : Memory.wf s.pond = true → Memory.wf (f s.pond) = true) : Keeps s₀ { s with pond := f s.pond } :=
  h.trans ⟨fun m => ⟨m.1, hf m.2.1, m.2.2⟩, id, id, List.prefix_refl _, ⟨rfl, rfl, rfl⟩, Nat.le_refl _⟩

theorem keep_blocks {b : SMap (List Nat)} {s : State} (h : Keeps s₀ s) : Keeps s₀ { s with listBlocks := b } :=
  h.same rfl rfl rfl rfl rfl rfl rfl rfl ⟨rfl, rfl, rfl⟩ rfl

theorem keep_pfx {b : SMap PfxNode} {s : State} (h : Keeps s₀ s) : Keeps s₀ { s with pfx := b } :=
  h.same rfl rfl rfl rfl rfl rfl rfl rfl ⟨rfl, rfl, rfl⟩ rfl

theorem keep_modWks {a0 a1} (h : Keeps s₀ a1) : Keeps s₀ (modWks a0 a1) := by
  delta modWks
  repeat' first
    | with_reducible assumption | intro _
    | with_reducible refine keep_set ?_ ?_ ?_ ?_ ?_ ?_
    | rfl
    | assumption

theorem keep_modDly {a0 a1} (h : Keeps s₀ a1) : Keeps s₀ (modDly a0 a1) := by
  delta modDly
  repeat' first
    | with_reducible assumption | intro _
    | (with_reducible first | apply keep_modWks)

theorem keep_dlyIns {a0 a1 a2 a3} (h : Keeps s₀ a3) : Keeps s₀ (dlyIns a0 a1 a2 a3) := by
  delta dlyIns
  extract_lets x0
  try clear_value x0
  repeat' first
    | with_reducible assumption | intro _
    | (with_reducible first | apply keep_modDly | apply keep_ite)
    | split

theorem keep_dlyDel {a0 a1 a2} (h : Keeps s₀ a2) : Keeps s₀ (dlyDel a0 a1 a2) := by
  delta dlyDel
  extract_lets x0
  try clear_value x0
  repeat' first
    | with_reducible assumption | intro _
    | (with_reducible first | apply keep_modDly)

theorem keep_setItem {a0 a1 a2} (h : Keeps s₀ a2) : Keeps s₀ (setItem a0 a1 a2) := by
  delta setItem
  repeat' first
    | with_reducible assumption | intro _
    | (with_reducible first | apply keep_modWks)

theorem keep_modItem {a0 a1 a2} (h : Keeps s₀ a2) : Keeps s₀ (modItem a0 a1 a2) := by
  delta modItem
  repeat' first
    | with_reducible assumption | intro _
    | (with_reducible first | apply keep_setItem)

theorem keep_freeItem {a0 a1} (h : Keeps s₀ a1) : Keeps s₀ (freeItem a0 a1) := by
  delta freeItem
  repeat' first
    | with_reducible assumption | intro _
    | (with_reducible first | apply keep_setItem)

theorem keep_modThread {a0 a1 a2} (h : Keeps s₀ a2) : Keeps s₀ (modThread a0 a1 a2) := by
  delta modThread
  extract_lets x0
  repeat' first
    | with_reducible assumption | intro _
    | with_reducible refine keep_set ?_ ?_ ?_ ?_ ?_ ?_
    | rfl
    | (with_reducible first | apply memory_put | apply memory_putBytes | apply memory_filter | apply memory_delRange | apply memory_copyRange | apply memory_foldl | apply memory_setRange | apply memory_rowApply | apply memory_unitApply)
    | assumption

theorem keep_unpark {a0 a1 a2} (h : Keeps s₀ a2) : Keeps s₀ (unpark a0 a1 a2) := by
  delta unpark
  repeat' first
    | with_reducible assumption | intro _
    | (with_reducible first | apply keep_modItem)

theorem keep_retire {a0 a1} (h : Keeps s₀ a1) : Keeps s₀ (retire a0 a1) := by
  delta retire
  repeat' first
    | with_reducible assumption | intro _
    | (with_reducible first | apply keep_addWrap)

theorem keep_endWait {a0 a1 a2} (h : Keeps s₀ a2) : Keeps s₀ (endWait a0 a1 a2) := by
  delta endWait
  repeat' first
    | with_reducible assumption | intro _
    | (with_reducible first | apply keep_retire | apply keep_modThread)

theorem keep_postFlag {a0 a1} (h : Keeps s₀ a1) : Keeps s₀ (postFlag a0 a1) := by
  delta postFlag
  extract_lets x0 x1 x2 x3 x4 x5
  have h1 : Keeps s₀ x1 := by
    try subst x1
    repeat' first
      | with_reducible assumption | intro _
      | (with_reducible first | apply keep_setBit | apply keep_forEach | apply keep_endWait | apply keep_modWks | apply keep_unpark | apply keep_ite | apply keep_ite1 | apply keep_ite2 | apply keep_ite3)
      | split
  have h3 : Keeps s₀ x3 := by
    try subst x3
    repeat' first
      | with_reducible assumption | intro _
      | (with_reducible first | apply keep_setBit | apply keep_forEach | apply keep_endWait | apply keep_modWks | apply keep_unpark | apply keep_ite | apply keep_ite1 | apply keep_ite2 | apply keep_ite3)
      | split
  have h4 : Keeps s₀ x4 := by
    try subst x4
    repeat' first
      | with_reducible assumption | intro _
      | (with_reducible first | apply keep_setBit | apply keep_forEach | apply keep_endWait | apply keep_modWks | apply keep_unpark | apply keep_ite | apply keep_ite1 | apply keep_ite2 | apply keep_ite3)
      | split
  try clear_value x5; try clear_value x4; try clear_value x3; try clear_value x2; try clear_value x1; try clear_value x0
  repeat' first
    | with_reducible assumption | intro _
    | (with_reducible first | apply keep_setBit | apply keep_forEach | apply keep_endWait | apply keep_modWks | apply keep_unpark | apply keep_ite | apply keep_ite1 | apply keep_ite2 | apply keep_ite3)
    | split

theorem keep_clearFlag {a0 a1} (h : Keeps s₀ a1) : Keeps s₀ (clearFlag a0 a1) := by
  delta clearFlag
  extract_lets x0
  try clear_value x0
  repeat' first
    | with_reducible assumption | intro _
    | (with_reducible first | apply keep_modWks | apply keep_clrBit)

theorem keep_postArmed {a0 a1} (h : Keeps s₀ a1) : Keeps s₀ (postArmed a0 a1) := by
  delta postArmed
  repeat' first
    | with_reducible assumption | intro _
    | (with_reducible first | apply keep_forEach | apply keep_postFlag)

theorem keep_dropItem {a0 a1} (h : Keeps s₀ a1) : Keeps s₀ (dropItem a0 a1) := by
  delta dropItem
  extract_lets x0
  try clear_value x0
  repeat' first
    | with_reducible assumption | intro _
    | (with_reducible first | apply keep_when_ | apply keep_postFlag | apply keep_freeItem)

theorem keep_maskStep {a0 a1 a2 a3} (h : Keeps s₀ a3) : Keeps s₀ (maskStep a0 a1 a2 a3) := by
  delta maskStep
  extract_lets x0 x1 x2 x3 x4 x5 x6
  have h3 : Keeps s₀ x3 := by
    try subst x3
    repeat' first
      | with_reducible assumption | intro _
      | (with_reducible first | apply keep_forEach | apply keep_modItem | apply keep_modWks | apply keep_dropItem | apply keep_ite | apply keep_ite1 | apply keep_ite2 | apply keep_ite3)
      | split
  have h4 : Keeps s₀ x4 := by
    try subst x4
    repeat' first
      | with_reducible assumption | intro _
      | (with_reducible first | apply keep_forEach | apply keep_modItem | apply keep_modWks | apply keep_dropItem | apply keep_ite | apply keep_ite1 | apply keep_ite2 | apply keep_ite3)
      | split
  have h6 : Keeps s₀ x6 := by
    try subst x6
    repeat' first
      | with_reducible assumption | intro _
      | (with_reducible first | apply keep_forEach | apply keep_modItem | apply keep_modWks | apply keep_dropItem | apply keep_ite | apply keep_ite1 | apply keep_ite2 | apply keep_ite3)
      | split
  try clear_value x6; try clear_value x5; try clear_value x4; try clear_value x3; try clear_value x2
  repeat' first
    | with_reducible assumption | intro _
    | (with_reducible first | apply keep_forEach | apply keep_modItem | apply keep_modWks | apply keep_dropItem | apply keep_ite | apply keep_ite1 | apply keep_ite2 | apply keep_ite3)
    | split

theorem keep_bumpGen {a0 a1 a2} (h : Keeps s₀ a2) : Keeps s₀ (bumpGen a0 a1 a2) := by
  delta bumpGen
  extract_lets x0 x1 x2
  try clear_value x1; try clear_value x0
  repeat' first
    | with_reducible assumption | intro _
    | (with_reducible first | apply keep_ite)
    | split
    | with_reducible refine keep_set ?_ ?_ ?_ ?_ ?_ ?_
    | rfl
    | (with_reducible first | apply memory_put | apply memory_putBytes | apply memory_filter | apply memory_delRange | apply memory_copyRange | apply memory_foldl | apply memory_setRange | apply memory_rowApply | apply memory_unitApply)
    | assumption

theorem keep_modEnt {a0 a1 a2} (h : Keeps s₀ a2) : Keeps s₀ (modEnt a0 a1 a2) := by
  delta modEnt
  repeat' first
    | with_reducible assumption | intro _
    | with_reducible refine keep_set ?_ ?_ ?_ ?_ ?_ ?_
    | rfl
    | (with_reducible first | apply memory_put | apply memory_putBytes | apply memory_filter | apply memory_delRange | apply memory_copyRange | apply memory_foldl | apply memory_setRange | apply memory_rowApply | apply memory_unitApply)
    | assumption

theorem keep_modSide {a0 a1 a2} (h : Keeps s₀ a2) : Keeps s₀ (modSide a0 a1 a2) := by
  delta modSide
  repeat' first
    | with_reducible assumption | intro _
    | with_reducible refine keep_set ?_ ?_ ?_ ?_ ?_ ?_
    | rfl
    | (with_reducible first | apply memory_put | apply memory_putBytes | apply memory_filter | apply memory_delRange | apply memory_copyRange | apply memory_foldl | apply memory_setRange | apply memory_rowApply | apply memory_unitApply)
    | assumption

theorem keep_modChan {a0 a1 a2} (h : Keeps s₀ a2) : Keeps s₀ (modChan a0 a1 a2) := by
  delta modChan
  repeat' first
    | with_reducible assumption | intro _
    | with_reducible refine keep_set ?_ ?_ ?_ ?_ ?_ ?_
    | rfl
    | (with_reducible first | apply memory_put | apply memory_putBytes | apply memory_filter | apply memory_delRange | apply memory_copyRange | apply memory_foldl | apply memory_setRange | apply memory_rowApply | apply memory_unitApply)
    | assumption

theorem keep_modTill {a0 a1 a2} (h : Keeps s₀ a2) : Keeps s₀ (modTill a0 a1 a2) := by
  delta modTill
  extract_lets x0 x1
  try clear_value x1; try clear_value x0
  repeat' first
    | with_reducible assumption | intro _
    | (with_reducible first | apply keep_ite)
    | split
    | with_reducible refine keep_set ?_ ?_ ?_ ?_ ?_ ?_
    | rfl
    | (with_reducible first | apply memory_put | apply memory_putBytes | apply memory_filter | apply memory_delRange | apply memory_copyRange | apply memory_foldl | apply memory_setRange | apply memory_rowApply | apply memory_unitApply)
    | assumption

theorem keep_modRing {a0 a1 a2} (h : Keeps s₀ a2) : Keeps s₀ (modRing a0 a1 a2) := by
  delta modRing
  repeat' first
    | with_reducible assumption | intro _
    | with_reducible refine keep_set ?_ ?_ ?_ ?_ ?_ ?_
    | rfl
    | (with_reducible first | apply memory_put | apply memory_putBytes | apply memory_filter | apply memory_delRange | apply memory_copyRange | apply memory_foldl | apply memory_setRange | apply memory_rowApply | apply memory_unitApply)
    | assumption

theorem keep_takePage {a0 a1 a2} (h : Keeps s₀ a2) : Keeps s₀ (takePage a0 a1 a2) := by
  delta takePage
  repeat' first
    | with_reducible assumption | intro _
    | with_reducible refine keep_set ?_ ?_ ?_ ?_ ?_ ?_
    | rfl
    | (with_reducible first | apply memory_put | apply memory_putBytes | apply memory_filter | apply memory_delRange | apply memory_copyRange | apply memory_foldl | apply memory_setRange | apply memory_rowApply | apply memory_unitApply)
    | assumption

theorem keep_allocPage {a0 a1} (h : Keeps s₀ a1) : Keeps s₀ (allocPage a0 a1).2 := by
  delta allocPage
  repeat' first
    | with_reducible assumption | intro _
    | (with_reducible first | apply keep_takePage)
    | extract_lets | split
    | refine keep_eq2 (by with_reducible assumption) ?_ | refine keep_eq1 (by with_reducible assumption) ?_

theorem keep_allocPages {n a0 a1} (h : Keeps s₀ a1) : Keeps s₀ (allocPages n a0 a1).2 := by
  induction a0 generalizing a1 with
  | zero => exact h
  | succ k ih =>
    have hp : Keeps s₀ (allocPage n a1).2 := keep_allocPage h
    unfold allocPages
    split
    · rename_i e
      rw [e] at hp
      exact ih hp
    · rename_i e
      rw [e] at hp
      exact hp

theorem keep_freePage {a0 a1} (h : Keeps s₀ a1) : Keeps s₀ (freePage a0 a1) := by
  delta freePage
  repeat' first
    | with_reducible assumption | intro _
    | with_reducible refine keep_set ?_ ?_ ?_ ?_ ?_ ?_
    | rfl
    | (with_reducible first | apply memory_put | apply memory_putBytes | apply memory_filter | apply memory_delRange | apply memory_copyRange | apply memory_foldl | apply memory_setRange | apply memory_rowApply | apply memory_unitApply)
    | assumption

theorem keep_allocBlock {a0 a1} (h : Keeps s₀ a1) : Keeps s₀ (allocBlock a0 a1).2 := by
  delta allocBlock
  extract_lets x0
  try clear_value x0
  repeat' first
    | with_reducible assumption | intro _
    | (with_reducible first | apply keep_allocPage)
    | extract_lets | split
    | refine keep_eq2 (by with_reducible assumption) ?_ | refine keep_eq1 (by with_reducible assumption) ?_
    | with_reducible refine keep_set ?_ ?_ ?_ ?_ ?_ ?_
    | rfl
    | (with_reducible first | apply memory_put | apply memory_putBytes | apply memory_filter | apply memory_delRange | apply memory_copyRange | apply memory_foldl | apply memory_setRange | apply memory_rowApply | apply memory_unitApply)
    | assumption

theorem keep_growList {a0 a1 n a3} (h : Keeps s₀ a3) : Keeps s₀ (growList a0 a1 n a3) := by
  induction n generalizing a3 with
  | zero => exact h
  | succ k ih =>
    have hp : Keeps s₀ (allocBlock a1 a3).2 := keep_allocBlock h
    unfold growList
    split
    · rename_i e
      rw [e] at hp
      exact ih (hp.same rfl rfl rfl rfl rfl rfl rfl rfl ⟨rfl, rfl, rfl⟩ rfl)
    · rename_i e
      rw [e] at hp
      exact hp

theorem keep_trimList {a0 a1} (h : Keeps s₀ a1) : Keeps s₀ (trimList a0 a1) := by
  delta trimList
  extract_lets x0 x1
  try clear_value x1; try clear_value x0
  repeat' first
    | with_reducible assumption | intro _
    | (with_reducible first | apply keep_forEach | apply keep_freePage)
    | with_reducible refine keep_set ?_ ?_ ?_ ?_ ?_ ?_
    | rfl
    | (with_reducible first | apply memory_put | apply memory_putBytes | apply memory_filter | apply memory_delRange | apply memory_copyRange | apply memory_foldl | apply memory_setRange | apply memory_rowApply | apply memory_unitApply)
    | assumption

theorem keep_setPages {a0 a1 a2} (h : Keeps s₀ a2) : Keeps s₀ (setPages a0 a1 a2) := by
  unfold setPages
  refine keep_pond (f := fun m => List.foldl _ m _) (keep_ite (keep_trimList (keep_blocks (keep_modEnt h)))
    (keep_growList (keep_modEnt h))) (memory_foldl fun m a hm => memory_putBytes hm _ _)

theorem keep_modNode {a0 a1 a2} (h : Keeps s₀ a2) : Keeps s₀ (modNode a0 a1 a2) := by
  refine h.trans ⟨fun m => ⟨m.1, ?_, m.2.2⟩, id, id, List.prefix_refl _, ⟨rfl, rfl, rfl⟩, Nat.le_refl _⟩
  dsimp only [modNode]
  split
  · exact memory_putBytes m.2.1 _ _
  · exact m.2.1

theorem keep_nodeUnref {a0 a1} (h : Keeps s₀ a1) : Keeps s₀ (nodeUnref a0 a1) := by
  delta nodeUnref
  extract_lets x0 x1 x2
  have h1 : Keeps s₀ x1 := by
    try subst x1
    repeat' first
      | with_reducible assumption | intro _
      | (with_reducible first | apply keep_modNode | apply keep_dlyIns | apply keep_bumpSat | apply keep_ite)
      | split
  try clear_value x2; try clear_value x1; try clear_value x0
  repeat' first
    | with_reducible assumption | intro _
    | (with_reducible first | apply keep_modNode | apply keep_dlyIns | apply keep_bumpSat | apply keep_ite)
    | split

theorem keep_nodeRef {a0 a1} (h : Keeps s₀ a1) : Keeps s₀ (nodeRef a0 a1) := by
  delta nodeRef
  extract_lets x0
  have h0 : Keeps s₀ x0 := by
    try subst x0
    repeat' first
      | with_reducible assumption | intro _
      | (with_reducible first | apply keep_when_ | apply keep_dlyDel | apply keep_modNode)
  try clear_value x0
  repeat' first
    | with_reducible assumption | intro _
    | (with_reducible first | apply keep_when_ | apply keep_dlyDel | apply keep_modNode)

theorem keep_releasePages {a0 a1} (h : Keeps s₀ a1) : Keeps s₀ (releasePages a0 a1) := by
  delta releasePages
  extract_lets x0 x1
  have h1 : Keeps s₀ x1 := by
    try subst x1
    repeat' first
      | with_reducible assumption | intro _
      | (with_reducible first | apply keep_forEach | apply keep_nodeUnref | apply keep_freePage | apply keep_setPages | apply keep_ite | apply keep_ite1 | apply keep_ite2 | apply keep_ite3)
      | extract_lets | split
      | refine keep_eq2 (by with_reducible assumption) ?_ | refine keep_eq1 (by with_reducible assumption) ?_
  try clear_value x1; try clear_value x0
  repeat' first
    | with_reducible assumption | intro _
    | (with_reducible first | apply keep_forEach | apply keep_nodeUnref | apply keep_freePage | apply keep_setPages | apply keep_ite | apply keep_ite1 | apply keep_ite2 | apply keep_ite3)
    | extract_lets | split
    | refine keep_eq2 (by with_reducible assumption) ?_ | refine keep_eq1 (by with_reducible assumption) ?_

theorem keep_reserve {a0 a1 a2} (h : Keeps s₀ a2) : Keeps s₀ (reserve a0 a1 a2) := by
  delta reserve
  repeat' first
    | with_reducible assumption | intro _
    | (with_reducible first | apply keep_modChan)

theorem keep_unreserve {a0 a1 a2} (h : Keeps s₀ a2) : Keeps s₀ (unreserve a0 a1 a2) := by
  delta unreserve
  repeat' first
    | with_reducible assumption | intro _
    | (with_reducible first | apply keep_modChan)

theorem keep_post {a0 a1 a2} (h : Keeps s₀ a2) : Keeps s₀ (post a0 a1 a2) := by
  delta post
  repeat' first
    | with_reducible assumption | intro _
    | (with_reducible first | apply keep_unreserve | apply keep_modChan | apply keep_ite)
    | split

theorem keep_tillRefuse {a0 a1 a2} (h : Keeps s₀ a2) : Keeps s₀ (tillRefuse a0 a1 a2) := by
  delta tillRefuse
  repeat' first
    | with_reducible assumption | intro _
    | (with_reducible first | apply keep_modTill)

theorem keep_tillFinal {a0 a1 a2} (h : Keeps s₀ a2) : Keeps s₀ (tillFinal a0 a1 a2) := by
  delta tillFinal
  repeat' first
    | with_reducible assumption | intro _
    | (with_reducible first | apply keep_modTill | apply keep_ite)
    | split

theorem keep_stallMsix {a0 a1 a2 a3} (h : Keeps s₀ a3) : Keeps s₀ (stallMsix a0 a1 a2 a3) := by
  delta stallMsix
  repeat' first
    | with_reducible assumption | intro _
    | (with_reducible first | apply keep_emit)
    | extract_lets | split
    | refine keep_eq2 (by with_reducible assumption) ?_ | refine keep_eq1 (by with_reducible assumption) ?_

theorem keep_ringWrite {a0 a1 a2} (h : Keeps s₀ a2) : Keeps s₀ (ringWrite a0 a1 a2) := by
  delta ringWrite
  extract_lets x0 x1 x2 x3 x4 x5
  have h3 : Keeps s₀ x3 := by
    try subst x3
    repeat' first
      | with_reducible assumption | intro _
      | (with_reducible first | apply keep_emit | apply keep_modRing | apply keep_when_ | apply keep_stallMsix | apply keep_ite)
      | split
      | with_reducible refine keep_set ?_ ?_ ?_ ?_ ?_ ?_
      | rfl
      | (with_reducible first | apply memory_put | apply memory_putBytes | apply memory_filter | apply memory_delRange | apply memory_copyRange | apply memory_foldl | apply memory_setRange | apply memory_rowApply | apply memory_unitApply)
      | assumption
  have h5 : Keeps s₀ x5 := by
    try subst x5
    repeat' first
      | with_reducible assumption | intro _
      | (with_reducible first | apply keep_emit | apply keep_modRing | apply keep_when_ | apply keep_stallMsix | apply keep_ite)
      | split
      | with_reducible refine keep_set ?_ ?_ ?_ ?_ ?_ ?_
      | rfl
      | (with_reducible first | apply memory_put | apply memory_putBytes | apply memory_filter | apply memory_delRange | apply memory_copyRange | apply memory_foldl | apply memory_setRange | apply memory_rowApply | apply memory_unitApply)
      | assumption
  try clear_value x5; try clear_value x3; try clear_value x2; try clear_value x1; try clear_value x0
  repeat' first
    | with_reducible assumption | intro _
    | (with_reducible first | apply keep_emit | apply keep_modRing | apply keep_when_ | apply keep_stallMsix | apply keep_ite)
    | split
    | with_reducible refine keep_set ?_ ?_ ?_ ?_ ?_ ?_
    | rfl
    | (with_reducible first | apply memory_put | apply memory_putBytes | apply memory_filter | apply memory_delRange | apply memory_copyRange | apply memory_foldl | apply memory_setRange | apply memory_rowApply | apply memory_unitApply)
    | assumption

theorem keep_ringGive {a0 a1 a2} (h : Keeps s₀ a2) : Keeps s₀ (ringGive a0 a1 a2) := by
  delta ringGive
  repeat' first
    | with_reducible assumption | intro _
    | (with_reducible first | apply keep_ringWrite | apply keep_when_ | apply keep_modTill)
    | extract_lets | split
    | refine keep_eq2 (by with_reducible assumption) ?_ | refine keep_eq1 (by with_reducible assumption) ?_

theorem keep_recWrite {a0 a1 a2} (h : Keeps s₀ a2) : Keeps s₀ (recWrite a0 a1 a2) := by
  delta recWrite
  extract_lets x0
  have h0 : Keeps s₀ x0 := by
    try subst x0
    repeat' first
      | with_reducible assumption | intro _
      | (with_reducible first | apply keep_ringGive | apply keep_modSide | apply keep_ite)
      | split
  try clear_value x0
  repeat' first
    | with_reducible assumption | intro _
    | (with_reducible first | apply keep_ringGive | apply keep_modSide | apply keep_ite)
    | split

theorem keep_flushHeld {a0 a1} (h : Keeps s₀ a1) : Keeps s₀ (flushHeld a0 a1) := by
  delta flushHeld
  extract_lets x0
  try clear_value x0
  repeat' first
    | with_reducible assumption | intro _
    | (with_reducible first | apply keep_modSide | apply keep_forEach | apply keep_recWrite)

theorem keep_closeRecs {a0 a1 a2 a3 a4} (h : Keeps s₀ a4) : Keeps s₀ (closeRecs a0 a1 a2 a3 a4) := by
  delta closeRecs
  extract_lets x0 x1
  have h0 : Keeps s₀ x0 := by
    try subst x0
    repeat' first
      | with_reducible assumption | intro _
      | (with_reducible first | apply keep_modSide | apply keep_flushHeld | apply keep_recWrite | apply keep_ite)
      | split
  try clear_value x1; try clear_value x0
  repeat' first
    | with_reducible assumption | intro _
    | (with_reducible first | apply keep_modSide | apply keep_flushHeld | apply keep_recWrite | apply keep_ite)
    | split

theorem keep_payRec {a0 a1} (h : Keeps s₀ a1) : Keeps s₀ (payRec a0 a1) := by
  delta payRec
  repeat' first
    | with_reducible assumption | intro _
    | (with_reducible first | apply keep_recWrite | apply keep_modSide)
    | extract_lets | split
    | refine keep_eq2 (by with_reducible assumption) ?_ | refine keep_eq1 (by with_reducible assumption) ?_

theorem keep_modStep {a0 a1 a2 a3} (h : Keeps s₀ a3) : Keeps s₀ (modStep a0 a1 a2 a3) := by
  delta modStep
  repeat' first
    | with_reducible assumption | intro _
    | (with_reducible first | apply keep_ite)
    | split
    | with_reducible refine keep_set ?_ ?_ ?_ ?_ ?_ ?_
    | rfl
    | assumption

theorem keep_maskHere {a0 a1} (h : Keeps s₀ a1) : Keeps s₀ (maskHere a0 a1) := by
  delta maskHere
  repeat' first
    | with_reducible assumption | intro _
    | (with_reducible first | apply keep_modStep | apply keep_maskStep | apply keep_modSide | apply keep_ite)
    | extract_lets | split
    | refine keep_eq2 (by with_reducible assumption) ?_ | refine keep_eq1 (by with_reducible assumption) ?_

theorem keep_maskNotice {a0 a1 a2 a3} (h : Keeps s₀ a3) : Keeps s₀ (maskNotice a0 a1 a2 a3) := by
  delta maskNotice
  repeat' first
    | with_reducible assumption | intro _
    | (with_reducible first | apply keep_toMembers)
    | extract_lets | split
    | refine keep_eq2 (by with_reducible assumption) ?_ | refine keep_eq1 (by with_reducible assumption) ?_

theorem keep_maskReq {a0 a1 a2} (h : Keeps s₀ a2) : Keeps s₀ (maskReq a0 a1 a2) := by
  delta maskReq
  repeat' first
    | with_reducible assumption | intro _
    | (with_reducible first | apply keep_maskHere | apply keep_maskNotice | apply keep_ite)
    | split

theorem keep_dropTimers {a0 a1} (h : Keeps s₀ a1) : Keeps s₀ (dropTimers a0 a1) := by
  delta dropTimers
  repeat' first
    | with_reducible assumption | intro _
    | (with_reducible first | apply keep_dlyDel)

theorem keep_batchLeave {a0 a1} (h : Keeps s₀ a1) : Keeps s₀ (batchLeave a0 a1) := by
  delta batchLeave
  repeat' first
    | with_reducible assumption | intro _
    | (with_reducible first | apply keep_post | apply keep_ite)
    | extract_lets | split
    | refine keep_eq2 (by with_reducible assumption) ?_ | refine keep_eq1 (by with_reducible assumption) ?_
    | with_reducible refine keep_set ?_ ?_ ?_ ?_ ?_ ?_
    | rfl
    | (with_reducible first | apply memory_put | apply memory_putBytes | apply memory_filter | apply memory_delRange | apply memory_copyRange | apply memory_foldl | apply memory_setRange | apply memory_rowApply | apply memory_unitApply)
    | assumption

theorem keep_memberGive {a0 a1 a2} (h : Keeps s₀ a2) : Keeps s₀ (memberGive a0 a1 a2) := by
  delta memberGive
  extract_lets x0 x1
  try clear_value x1; try clear_value x0
  repeat' first
    | with_reducible assumption | intro _
    | (with_reducible first | apply keep_forEach | apply keep_ite | apply keep_ite1 | apply keep_ite2 | apply keep_ite3)
    | extract_lets | split
    | refine keep_eq2 (by with_reducible assumption) ?_ | refine keep_eq1 (by with_reducible assumption) ?_
    | with_reducible refine keep_set ?_ ?_ ?_ ?_ ?_ ?_
    | rfl
    | (with_reducible first | apply memory_put | apply memory_putBytes | apply memory_filter | apply memory_delRange | apply memory_copyRange | apply memory_foldl | apply memory_setRange | apply memory_rowApply | apply memory_unitApply)
    | assumption

theorem keep_dropLake {a0 a1} (h : Keeps s₀ a1) : Keeps s₀ (dropLake a0 a1) := by
  delta dropLake
  extract_lets x0 x1 x2 x3 x4 x5
  have h4 : Keeps s₀ x4 := by
    try subst x4
    repeat' first
      | with_reducible assumption | intro _
      | (with_reducible first | apply keep_modSide | apply keep_forEach | apply keep_ite | apply keep_ite1 | apply keep_ite2 | apply keep_ite3)
      | extract_lets | split
      | refine keep_eq2 (by with_reducible assumption) ?_ | refine keep_eq1 (by with_reducible assumption) ?_
      | with_reducible refine keep_set ?_ ?_ ?_ ?_ ?_ ?_
      | rfl
      | (with_reducible first | apply memory_put | apply memory_putBytes | apply memory_filter | apply memory_delRange | apply memory_copyRange | apply memory_foldl | apply memory_setRange | apply memory_rowApply | apply memory_unitApply)
      | assumption
  try clear_value x5; try clear_value x4; try clear_value x2; try clear_value x1; try clear_value x0
  repeat' first
    | with_reducible assumption | intro _
    | (with_reducible first | apply keep_modSide | apply keep_forEach | apply keep_ite | apply keep_ite1 | apply keep_ite2 | apply keep_ite3)
    | extract_lets | split
    | refine keep_eq2 (by with_reducible assumption) ?_ | refine keep_eq1 (by with_reducible assumption) ?_
    | with_reducible refine keep_set ?_ ?_ ?_ ?_ ?_ ?_
    | rfl
    | (with_reducible first | apply memory_put | apply memory_putBytes | apply memory_filter | apply memory_delRange | apply memory_copyRange | apply memory_foldl | apply memory_setRange | apply memory_rowApply | apply memory_unitApply)
    | assumption

theorem keep_dropProxy {a0 a1} (h : Keeps s₀ a1) : Keeps s₀ (dropProxy a0 a1) := by
  delta dropProxy
  extract_lets x0
  repeat' first
    | with_reducible assumption | intro _
    | (with_reducible first | apply keep_bumpGen)
    | extract_lets | split
    | refine keep_eq2 (by with_reducible assumption) ?_ | refine keep_eq1 (by with_reducible assumption) ?_
    | with_reducible refine keep_set ?_ ?_ ?_ ?_ ?_ ?_
    | rfl
    | (with_reducible first | apply memory_put | apply memory_putBytes | apply memory_filter | apply memory_delRange | apply memory_copyRange | apply memory_foldl | apply memory_setRange | apply memory_rowApply | apply memory_unitApply)
    | assumption

theorem keep_orderShadow {a0 a1 a2} (h : Keeps s₀ a2) : Keeps s₀ (orderShadow a0 a1 a2) := by
  delta orderShadow
  repeat' first
    | with_reducible assumption | intro _
    | (with_reducible first | apply keep_ite | apply keep_ite1 | apply keep_ite2 | apply keep_ite3)
    | extract_lets | split
    | refine keep_eq2 (by with_reducible assumption) ?_ | refine keep_eq1 (by with_reducible assumption) ?_
    | with_reducible refine keep_set ?_ ?_ ?_ ?_ ?_ ?_
    | rfl
    | assumption

theorem keep_freeEntry {a0 a1} (h : Keeps s₀ a1) : Keeps s₀ (freeEntry a0 a1) := by
  delta freeEntry
  extract_lets x0 x1 x2 x3 x4 x5 x6 x7 x8 x9 x10 x11 x12 x13 x14
  have h3 : Keeps s₀ x3 := by
    try subst x3
    repeat' first
      | with_reducible assumption | intro _
      | (with_reducible first | apply keep_post | apply keep_dropLake | apply keep_releasePages | apply keep_memberGive | apply keep_orderShadow | apply keep_dropProxy | apply keep_dlyDel | apply keep_dropTimers | apply keep_when_ | apply keep_modRing | apply keep_batchLeave | apply keep_bumpGen | apply keep_ite | apply keep_ite1 | apply keep_ite2 | apply keep_ite3)
      | extract_lets | split
      | refine keep_eq2 (by with_reducible assumption) ?_ | refine keep_eq1 (by with_reducible assumption) ?_
      | with_reducible refine keep_set ?_ ?_ ?_ ?_ ?_ ?_
      | rfl
      | (with_reducible first | apply memory_put | apply memory_putBytes | apply memory_filter | apply memory_delRange | apply memory_copyRange | apply memory_foldl | apply memory_setRange | apply memory_rowApply | apply memory_unitApply)
      | assumption
  have h4 : Keeps s₀ x4 := by
    try subst x4
    repeat' first
      | with_reducible assumption | intro _
      | (with_reducible first | apply keep_post | apply keep_dropLake | apply keep_releasePages | apply keep_memberGive | apply keep_orderShadow | apply keep_dropProxy | apply keep_dlyDel | apply keep_dropTimers | apply keep_when_ | apply keep_modRing | apply keep_batchLeave | apply keep_bumpGen | apply keep_ite | apply keep_ite1 | apply keep_ite2 | apply keep_ite3)
      | extract_lets | split
      | refine keep_eq2 (by with_reducible assumption) ?_ | refine keep_eq1 (by with_reducible assumption) ?_
      | with_reducible refine keep_set ?_ ?_ ?_ ?_ ?_ ?_
      | rfl
      | (with_reducible first | apply memory_put | apply memory_putBytes | apply memory_filter | apply memory_delRange | apply memory_copyRange | apply memory_foldl | apply memory_setRange | apply memory_rowApply | apply memory_unitApply)
      | assumption
  have h5 : Keeps s₀ x5 := by
    try subst x5
    repeat' first
      | with_reducible assumption | intro _
      | (with_reducible first | apply keep_post | apply keep_dropLake | apply keep_releasePages | apply keep_memberGive | apply keep_orderShadow | apply keep_dropProxy | apply keep_dlyDel | apply keep_dropTimers | apply keep_when_ | apply keep_modRing | apply keep_batchLeave | apply keep_bumpGen | apply keep_ite | apply keep_ite1 | apply keep_ite2 | apply keep_ite3)
      | extract_lets | split
      | refine keep_eq2 (by with_reducible assumption) ?_ | refine keep_eq1 (by with_reducible assumption) ?_
      | with_reducible refine keep_set ?_ ?_ ?_ ?_ ?_ ?_
      | rfl
      | (with_reducible first | apply memory_put | apply memory_putBytes | apply memory_filter | apply memory_delRange | apply memory_copyRange | apply memory_foldl | apply memory_setRange | apply memory_rowApply | apply memory_unitApply)
      | assumption
  have h7 : Keeps s₀ x7 := by
    try subst x7
    repeat' first
      | with_reducible assumption | intro _
      | (with_reducible first | apply keep_post | apply keep_dropLake | apply keep_releasePages | apply keep_memberGive | apply keep_orderShadow | apply keep_dropProxy | apply keep_dlyDel | apply keep_dropTimers | apply keep_when_ | apply keep_modRing | apply keep_batchLeave | apply keep_bumpGen | apply keep_ite | apply keep_ite1 | apply keep_ite2 | apply keep_ite3)
      | extract_lets | split
      | refine keep_eq2 (by with_reducible assumption) ?_ | refine keep_eq1 (by with_reducible assumption) ?_
      | with_reducible refine keep_set ?_ ?_ ?_ ?_ ?_ ?_
      | rfl
      | (with_reducible first | apply memory_put | apply memory_putBytes | apply memory_filter | apply memory_delRange | apply memory_copyRange | apply memory_foldl | apply memory_setRange | apply memory_rowApply | apply memory_unitApply)
      | assumption
  have h8 : Keeps s₀ x8 := by
    try subst x8
    repeat' first
      | with_reducible assumption | intro _
      | (with_reducible first | apply keep_post | apply keep_dropLake | apply keep_releasePages | apply keep_memberGive | apply keep_orderShadow | apply keep_dropProxy | apply keep_dlyDel | apply keep_dropTimers | apply keep_when_ | apply keep_modRing | apply keep_batchLeave | apply keep_bumpGen | apply keep_ite | apply keep_ite1 | apply keep_ite2 | apply keep_ite3)
      | extract_lets | split
      | refine keep_eq2 (by with_reducible assumption) ?_ | refine keep_eq1 (by with_reducible assumption) ?_
      | with_reducible refine keep_set ?_ ?_ ?_ ?_ ?_ ?_
      | rfl
      | (with_reducible first | apply memory_put | apply memory_putBytes | apply memory_filter | apply memory_delRange | apply memory_copyRange | apply memory_foldl | apply memory_setRange | apply memory_rowApply | apply memory_unitApply)
      | assumption
  have h9 : Keeps s₀ x9 := by
    try subst x9
    repeat' first
      | with_reducible assumption | intro _
      | (with_reducible first | apply keep_post | apply keep_dropLake | apply keep_releasePages | apply keep_memberGive | apply keep_orderShadow | apply keep_dropProxy | apply keep_dlyDel | apply keep_dropTimers | apply keep_when_ | apply keep_modRing | apply keep_batchLeave | apply keep_bumpGen | apply keep_ite | apply keep_ite1 | apply keep_ite2 | apply keep_ite3)
      | extract_lets | split
      | refine keep_eq2 (by with_reducible assumption) ?_ | refine keep_eq1 (by with_reducible assumption) ?_
      | with_reducible refine keep_set ?_ ?_ ?_ ?_ ?_ ?_
      | rfl
      | (with_reducible first | apply memory_put | apply memory_putBytes | apply memory_filter | apply memory_delRange | apply memory_copyRange | apply memory_foldl | apply memory_setRange | apply memory_rowApply | apply memory_unitApply)
      | assumption
  have h12 : Keeps s₀ x12 := by
    try subst x12
    repeat' first
      | with_reducible assumption | intro _
      | (with_reducible first | apply keep_post | apply keep_dropLake | apply keep_releasePages | apply keep_memberGive | apply keep_orderShadow | apply keep_dropProxy | apply keep_dlyDel | apply keep_dropTimers | apply keep_when_ | apply keep_modRing | apply keep_batchLeave | apply keep_bumpGen | apply keep_ite | apply keep_ite1 | apply keep_ite2 | apply keep_ite3)
      | extract_lets | split
      | refine keep_eq2 (by with_reducible assumption) ?_ | refine keep_eq1 (by with_reducible assumption) ?_
      | with_reducible refine keep_set ?_ ?_ ?_ ?_ ?_ ?_
      | rfl
      | (with_reducible first | apply memory_put | apply memory_putBytes | apply memory_filter | apply memory_delRange | apply memory_copyRange | apply memory_foldl | apply memory_setRange | apply memory_rowApply | apply memory_unitApply)
      | assumption
  have h13 : Keeps s₀ x13 := by
    try subst x13
    repeat' first
      | with_reducible assumption | intro _
      | (with_reducible first | apply keep_post | apply keep_dropLake | apply keep_releasePages | apply keep_memberGive | apply keep_orderShadow | apply keep_dropProxy | apply keep_dlyDel | apply keep_dropTimers | apply keep_when_ | apply keep_modRing | apply keep_batchLeave | apply keep_bumpGen | apply keep_ite | apply keep_ite1 | apply keep_ite2 | apply keep_ite3)
      | extract_lets | split
      | refine keep_eq2 (by with_reducible assumption) ?_ | refine keep_eq1 (by with_reducible assumption) ?_
      | with_reducible refine keep_set ?_ ?_ ?_ ?_ ?_ ?_
      | rfl
      | (with_reducible first | apply memory_put | apply memory_putBytes | apply memory_filter | apply memory_delRange | apply memory_copyRange | apply memory_foldl | apply memory_setRange | apply memory_rowApply | apply memory_unitApply)
      | assumption
  have h14 : Keeps s₀ x14 := by
    try subst x14
    repeat' first
      | with_reducible assumption | intro _
      | (with_reducible first | apply keep_post | apply keep_dropLake | apply keep_releasePages | apply keep_memberGive | apply keep_orderShadow | apply keep_dropProxy | apply keep_dlyDel | apply keep_dropTimers | apply keep_when_ | apply keep_modRing | apply keep_batchLeave | apply keep_bumpGen | apply keep_ite | apply keep_ite1 | apply keep_ite2 | apply keep_ite3)
      | extract_lets | split
      | refine keep_eq2 (by with_reducible assumption) ?_ | refine keep_eq1 (by with_reducible assumption) ?_
      | with_reducible refine keep_set ?_ ?_ ?_ ?_ ?_ ?_
      | rfl
      | (with_reducible first | apply memory_put | apply memory_putBytes | apply memory_filter | apply memory_delRange | apply memory_copyRange | apply memory_foldl | apply memory_setRange | apply memory_rowApply | apply memory_unitApply)
      | assumption
  try clear_value x14; try clear_value x13; try clear_value x12; try clear_value x11; try clear_value x10; try clear_value x9; try clear_value x8; try clear_value x7; try clear_value x5; try clear_value x4; try clear_value x3; try clear_value x2; try clear_value x1; try clear_value x0
  repeat' first
    | with_reducible assumption | intro _
    | (with_reducible first | apply keep_post | apply keep_dropLake | apply keep_releasePages | apply keep_memberGive | apply keep_orderShadow | apply keep_dropProxy | apply keep_dlyDel | apply keep_dropTimers | apply keep_when_ | apply keep_modRing | apply keep_batchLeave | apply keep_bumpGen | apply keep_ite | apply keep_ite1 | apply keep_ite2 | apply keep_ite3)
    | extract_lets | split
    | refine keep_eq2 (by with_reducible assumption) ?_ | refine keep_eq1 (by with_reducible assumption) ?_
    | with_reducible refine keep_set ?_ ?_ ?_ ?_ ?_ ?_
    | rfl
    | (with_reducible first | apply memory_put | apply memory_putBytes | apply memory_filter | apply memory_delRange | apply memory_copyRange | apply memory_foldl | apply memory_setRange | apply memory_rowApply | apply memory_unitApply)
    | assumption

theorem keep_finishOpen {a0 a1 a2} (h : Keeps s₀ a2) : Keeps s₀ (finishOpen a0 a1 a2) := by
  delta finishOpen
  extract_lets x0 x1 x2 x3 x4
  have h3 : Keeps s₀ x3 := by
    try subst x3
    repeat' first
      | with_reducible assumption | intro _
      | (with_reducible first | apply keep_when_ | apply keep_post | apply keep_tillFinal | apply keep_modSide)
  have h4 : Keeps s₀ x4 := by
    try subst x4
    repeat' first
      | with_reducible assumption | intro _
      | (with_reducible first | apply keep_when_ | apply keep_post | apply keep_tillFinal | apply keep_modSide)
  try clear_value x4; try clear_value x3; try clear_value x2; try clear_value x1; try clear_value x0
  repeat' first
    | with_reducible assumption | intro _
    | (with_reducible first | apply keep_when_ | apply keep_post | apply keep_tillFinal | apply keep_modSide)

theorem keep_finishPend {a0 a1 a2} (h : Keeps s₀ a2) : Keeps s₀ (finishPend a0 a1 a2) := by
  delta finishPend
  extract_lets x0
  try clear_value x0
  repeat' first
    | with_reducible assumption | intro _
    | (with_reducible first | apply keep_when_ | apply keep_post | apply keep_tillFinal | apply keep_maskHere | apply keep_modSide | apply keep_ite | apply keep_ite1 | apply keep_ite2 | apply keep_ite3)
    | extract_lets | split
    | refine keep_eq2 (by with_reducible assumption) ?_ | refine keep_eq1 (by with_reducible assumption) ?_

theorem keep_closeNow {a0 a1} (h : Keeps s₀ a1) : Keeps s₀ (closeNow a0 a1) := by
  delta closeNow
  extract_lets x0 x1 x2
  have h1 : Keeps s₀ x1 := by
    try subst x1
    repeat' first
      | with_reducible assumption | intro _
      | (with_reducible first | apply keep_finishOpen | apply keep_finishPend | apply keep_freeEntry)
      | extract_lets | split
      | refine keep_eq2 (by with_reducible assumption) ?_ | refine keep_eq1 (by with_reducible assumption) ?_
  have h2 : Keeps s₀ x2 := by
    try subst x2
    repeat' first
      | with_reducible assumption | intro _
      | (with_reducible first | apply keep_finishOpen | apply keep_finishPend | apply keep_freeEntry)
      | extract_lets | split
      | refine keep_eq2 (by with_reducible assumption) ?_ | refine keep_eq1 (by with_reducible assumption) ?_
  try clear_value x2; try clear_value x1; try clear_value x0
  repeat' first
    | with_reducible assumption | intro _
    | (with_reducible first | apply keep_finishOpen | apply keep_finishPend | apply keep_freeEntry)
    | extract_lets | split
    | refine keep_eq2 (by with_reducible assumption) ?_ | refine keep_eq1 (by with_reducible assumption) ?_

theorem keep_closeIfDone {a0 a1} (h : Keeps s₀ a1) : Keeps s₀ (closeIfDone a0 a1) := by
  delta closeIfDone
  repeat' first
    | with_reducible assumption | intro _
    | (with_reducible first | apply keep_closeNow | apply keep_ite)
    | split

theorem keep_toClosing {a0 a1 a2 a3 a4 a5} (h : Keeps s₀ a5) : Keeps s₀ (toClosing a0 a1 a2 a3 a4 a5) := by
  delta toClosing
  extract_lets x0 x1 x2 x3 x4 x5 x6 x7 x8
  have h4 : Keeps s₀ x4 := by
    try subst x4
    repeat' first
      | with_reducible assumption | intro _
      | (with_reducible first | apply keep_closeRecs | apply keep_flushHeld | apply keep_dropTimers | apply keep_modSide | apply keep_modEnt | apply keep_closeNow | apply keep_ite)
      | split
      | with_reducible refine keep_set ?_ ?_ ?_ ?_ ?_ ?_
      | rfl
      | (with_reducible first | apply memory_put | apply memory_putBytes | apply memory_filter | apply memory_delRange | apply memory_copyRange | apply memory_foldl | apply memory_setRange | apply memory_rowApply | apply memory_unitApply)
      | assumption
  have h5 : Keeps s₀ x5 := by
    try subst x5
    repeat' first
      | with_reducible assumption | intro _
      | (with_reducible first | apply keep_closeRecs | apply keep_flushHeld | apply keep_dropTimers | apply keep_modSide | apply keep_modEnt | apply keep_closeNow | apply keep_ite)
      | split
      | with_reducible refine keep_set ?_ ?_ ?_ ?_ ?_ ?_
      | rfl
      | (with_reducible first | apply memory_put | apply memory_putBytes | apply memory_filter | apply memory_delRange | apply memory_copyRange | apply memory_foldl | apply memory_setRange | apply memory_rowApply | apply memory_unitApply)
      | assumption
  have h6 : Keeps s₀ x6 := by
    try subst x6
    repeat' first
      | with_reducible assumption | intro _
      | (with_reducible first | apply keep_closeRecs | apply keep_flushHeld | apply keep_dropTimers | apply keep_modSide | apply keep_modEnt | apply keep_closeNow | apply keep_ite)
      | split
      | with_reducible refine keep_set ?_ ?_ ?_ ?_ ?_ ?_
      | rfl
      | (with_reducible first | apply memory_put | apply memory_putBytes | apply memory_filter | apply memory_delRange | apply memory_copyRange | apply memory_foldl | apply memory_setRange | apply memory_rowApply | apply memory_unitApply)
      | assumption
  have h7 : Keeps s₀ x7 := by
    try subst x7
    repeat' first
      | with_reducible assumption | intro _
      | (with_reducible first | apply keep_closeRecs | apply keep_flushHeld | apply keep_dropTimers | apply keep_modSide | apply keep_modEnt | apply keep_closeNow | apply keep_ite)
      | split
      | with_reducible refine keep_set ?_ ?_ ?_ ?_ ?_ ?_
      | rfl
      | (with_reducible first | apply memory_put | apply memory_putBytes | apply memory_filter | apply memory_delRange | apply memory_copyRange | apply memory_foldl | apply memory_setRange | apply memory_rowApply | apply memory_unitApply)
      | assumption
  have h8 : Keeps s₀ x8 := by
    try subst x8
    repeat' first
      | with_reducible assumption | intro _
      | (with_reducible first | apply keep_closeRecs | apply keep_flushHeld | apply keep_dropTimers | apply keep_modSide | apply keep_modEnt | apply keep_closeNow | apply keep_ite)
      | split
      | with_reducible refine keep_set ?_ ?_ ?_ ?_ ?_ ?_
      | rfl
      | (with_reducible first | apply memory_put | apply memory_putBytes | apply memory_filter | apply memory_delRange | apply memory_copyRange | apply memory_foldl | apply memory_setRange | apply memory_rowApply | apply memory_unitApply)
      | assumption
  try clear_value x8; try clear_value x7; try clear_value x6; try clear_value x5; try clear_value x4; try clear_value x3; try clear_value x2; try clear_value x1; try clear_value x0
  repeat' first
    | with_reducible assumption | intro _
    | (with_reducible first | apply keep_closeRecs | apply keep_flushHeld | apply keep_dropTimers | apply keep_modSide | apply keep_modEnt | apply keep_closeNow | apply keep_ite)
    | split
    | with_reducible refine keep_set ?_ ?_ ?_ ?_ ?_ ?_
    | rfl
    | (with_reducible first | apply memory_put | apply memory_putBytes | apply memory_filter | apply memory_delRange | apply memory_copyRange | apply memory_foldl | apply memory_setRange | apply memory_rowApply | apply memory_unitApply)
    | assumption

theorem keep_toDraining {a0 a1 a2 a3 a4 a5} (h : Keeps s₀ a5) : Keeps s₀ (toDraining a0 a1 a2 a3 a4 a5) := by
  delta toDraining
  extract_lets x0 x1
  have h0 : Keeps s₀ x0 := by
    try subst x0
    repeat' first
      | with_reducible assumption | intro _
      | (with_reducible first | apply keep_closeRecs | apply keep_dropTimers | apply keep_modEnt | apply keep_modSide | apply keep_ite)
      | split
  have h1 : Keeps s₀ x1 := by
    try subst x1
    repeat' first
      | with_reducible assumption | intro _
      | (with_reducible first | apply keep_closeRecs | apply keep_dropTimers | apply keep_modEnt | apply keep_modSide | apply keep_ite)
      | split
  try clear_value x1; try clear_value x0
  repeat' first
    | with_reducible assumption | intro _
    | (with_reducible first | apply keep_closeRecs | apply keep_dropTimers | apply keep_modEnt | apply keep_modSide | apply keep_ite)
    | split

theorem keep_callModules {a0 a1 a2} (h : Keeps s₀ a2) : Keeps s₀ (callModules a0 a1 a2) := by
  delta callModules
  extract_lets x0
  try clear_value x0
  repeat' first
    | with_reducible assumption | intro _
    | (with_reducible first | apply keep_forEach | apply keep_modThread)
    | extract_lets | split
    | refine keep_eq2 (by with_reducible assumption) ?_ | refine keep_eq1 (by with_reducible assumption) ?_
    | with_reducible refine keep_set ?_ ?_ ?_ ?_ ?_ ?_
    | rfl
    | (with_reducible first | apply memory_put | apply memory_putBytes | apply memory_filter | apply memory_delRange | apply memory_copyRange | apply memory_foldl | apply memory_setRange | apply memory_rowApply | apply memory_unitApply)
    | assumption

theorem keep_callback {a0 a1 a2} (h : Keeps s₀ a2) : Keeps s₀ (callback a0 a1 a2) := by
  delta callback
  repeat' first
    | with_reducible assumption | intro _
    | (with_reducible first | apply keep_callModules)

theorem keep_callModule {a0 a1 a2} (h : Keeps s₀ a2) : Keeps s₀ (callModule a0 a1 a2) := by
  delta callModule
  repeat' first
    | with_reducible assumption | intro _
    | (with_reducible first | apply keep_callModules)

theorem keep_enqueue {a0 a1 a2} (h : Keeps s₀ a2) : Keeps s₀ (enqueue a0 a1 a2) := by
  delta enqueue
  extract_lets x0 x1
  have h1 : Keeps s₀ x1 := by
    try subst x1
    repeat' first
      | with_reducible assumption | intro _
      | (with_reducible first | apply keep_callModules | apply keep_ccInt | apply keep_ite)
      | split
      | with_reducible refine keep_set ?_ ?_ ?_ ?_ ?_ ?_
      | rfl
      | assumption
  try clear_value x1
  repeat' first
    | with_reducible assumption | intro _
    | (with_reducible first | apply keep_callModules | apply keep_ccInt | apply keep_ite)
    | split
    | with_reducible refine keep_set ?_ ?_ ?_ ?_ ?_ ?_
    | rfl
    | assumption

theorem keep_promote {a0 a1} (h : Keeps s₀ a1) : Keeps s₀ (promote a0 a1) := by
  delta promote
  repeat' first
    | with_reducible assumption | intro _
    | (with_reducible first | apply keep_modSide | apply keep_modEnt | apply keep_toClosing | apply keep_enqueue | apply keep_ite)
    | extract_lets | split
    | refine keep_eq2 (by with_reducible assumption) ?_ | refine keep_eq1 (by with_reducible assumption) ?_

theorem keep_toReady {a0 a1} (h : Keeps s₀ a1) : Keeps s₀ (toReady a0 a1) := by
  delta toReady
  repeat' first
    | with_reducible assumption | intro _
    | (with_reducible first | apply keep_promote | apply keep_modEnt)

theorem keep_endWith {a0 a1 a2 a3 a4 a5} (h : Keeps s₀ a5) : Keeps s₀ (endWith a0 a1 a2 a3 a4 a5) := by
  delta endWith
  extract_lets x0 x1
  have h0 : Keeps s₀ x0 := by
    try subst x0
    repeat' first
      | with_reducible assumption | intro _
      | (with_reducible first | apply keep_modSide | apply keep_modEnt | apply keep_toClosing | apply keep_ite)
      | split
  have h1 : Keeps s₀ x1 := by
    try subst x1
    repeat' first
      | with_reducible assumption | intro _
      | (with_reducible first | apply keep_modSide | apply keep_modEnt | apply keep_toClosing | apply keep_ite)
      | split
  try clear_value x1; try clear_value x0
  repeat' first
    | with_reducible assumption | intro _
    | (with_reducible first | apply keep_modSide | apply keep_modEnt | apply keep_toClosing | apply keep_ite)
    | split

/-! ### Loss -/

theorem keep_endReq {a0 a1 a2 a3} (h : Keeps s₀ a3) : Keeps s₀ (endReq a0 a1 a2 a3) := by
  delta endReq
  extract_lets x0 x1 x2 x3 x4
  have h0 : Keeps s₀ x0 := by
    try subst x0
    repeat' first
      | with_reducible assumption | intro _
      | (with_reducible first | apply keep_maskReq | apply keep_toClosing | apply keep_finishPend | apply keep_toDraining | apply keep_finishOpen | apply keep_dropTimers | apply keep_modEnt | apply keep_ite)
      | split
      | with_reducible refine keep_set ?_ ?_ ?_ ?_ ?_ ?_
      | rfl
      | (with_reducible first | apply memory_put | apply memory_putBytes | apply memory_filter | apply memory_delRange | apply memory_copyRange | apply memory_foldl | apply memory_setRange | apply memory_rowApply | apply memory_unitApply)
      | assumption
  have h1 : Keeps s₀ x1 := by
    try subst x1
    repeat' first
      | with_reducible assumption | intro _
      | (with_reducible first | apply keep_maskReq | apply keep_toClosing | apply keep_finishPend | apply keep_toDraining | apply keep_finishOpen | apply keep_dropTimers | apply keep_modEnt | apply keep_ite)
      | split
      | with_reducible refine keep_set ?_ ?_ ?_ ?_ ?_ ?_
      | rfl
      | (with_reducible first | apply memory_put | apply memory_putBytes | apply memory_filter | apply memory_delRange | apply memory_copyRange | apply memory_foldl | apply memory_setRange | apply memory_rowApply | apply memory_unitApply)
      | assumption
  have h2 : Keeps s₀ x2 := by
    try subst x2
    repeat' first
      | with_reducible assumption | intro _
      | (with_reducible first | apply keep_maskReq | apply keep_toClosing | apply keep_finishPend | apply keep_toDraining | apply keep_finishOpen | apply keep_dropTimers | apply keep_modEnt | apply keep_ite)
      | split
      | with_reducible refine keep_set ?_ ?_ ?_ ?_ ?_ ?_
      | rfl
      | (with_reducible first | apply memory_put | apply memory_putBytes | apply memory_filter | apply memory_delRange | apply memory_copyRange | apply memory_foldl | apply memory_setRange | apply memory_rowApply | apply memory_unitApply)
      | assumption
  have h3 : Keeps s₀ x3 := by
    try subst x3
    repeat' first
      | with_reducible assumption | intro _
      | (with_reducible first | apply keep_maskReq | apply keep_toClosing | apply keep_finishPend | apply keep_toDraining | apply keep_finishOpen | apply keep_dropTimers | apply keep_modEnt | apply keep_ite)
      | split
      | with_reducible refine keep_set ?_ ?_ ?_ ?_ ?_ ?_
      | rfl
      | (with_reducible first | apply memory_put | apply memory_putBytes | apply memory_filter | apply memory_delRange | apply memory_copyRange | apply memory_foldl | apply memory_setRange | apply memory_rowApply | apply memory_unitApply)
      | assumption
  try clear_value x4; try clear_value x3; try clear_value x2; try clear_value x1; try clear_value x0
  repeat' first
    | with_reducible assumption | intro _
    | (with_reducible first | apply keep_maskReq | apply keep_toClosing | apply keep_finishPend | apply keep_toDraining | apply keep_finishOpen | apply keep_dropTimers | apply keep_modEnt | apply keep_ite)
    | split
    | with_reducible refine keep_set ?_ ?_ ?_ ?_ ?_ ?_
    | rfl
    | (with_reducible first | apply memory_put | apply memory_putBytes | apply memory_filter | apply memory_delRange | apply memory_copyRange | apply memory_foldl | apply memory_setRange | apply memory_rowApply | apply memory_unitApply)
    | assumption

theorem keep_loseMember {a0 a1 a2} (h : Keeps s₀ a2) : Keeps s₀ (loseMember a0 a1 a2) := by
  delta loseMember
  extract_lets x0
  try clear_value x0
  repeat' first
    | with_reducible assumption | intro _
    | (with_reducible first | apply keep_forEach | apply keep_endReq | apply keep_closeIfDone | apply keep_modSide | apply keep_ite | apply keep_ite1 | apply keep_ite2 | apply keep_ite3)
    | split
    | with_reducible refine keep_set ?_ ?_ ?_ ?_ ?_ ?_
    | rfl
    | (with_reducible first | apply memory_put | apply memory_putBytes | apply memory_filter | apply memory_delRange | apply memory_copyRange | apply memory_foldl | apply memory_setRange | apply memory_rowApply | apply memory_unitApply)
    | assumption

theorem keep_declareLost {a0 a1 a2 a3} (h : Keeps s₀ a3) : Keeps s₀ (declareLost a0 a1 a2 a3) := by
  delta declareLost
  extract_lets x0 x1 x2 x3 x4 x5
  have h1 : Keeps s₀ x1 := by
    try subst x1
    repeat' first
      | with_reducible assumption | intro _
      | (with_reducible first | apply keep_logC | apply keep_ccInt | apply keep_postArmed | apply keep_callback | apply keep_when_ | apply keep_haltRaise | apply keep_modFab | apply keep_loseMember)
  have h2 : Keeps s₀ x2 := by
    try subst x2
    repeat' first
      | with_reducible assumption | intro _
      | (with_reducible first | apply keep_logC | apply keep_ccInt | apply keep_postArmed | apply keep_callback | apply keep_when_ | apply keep_haltRaise | apply keep_modFab | apply keep_loseMember)
  have h3 : Keeps s₀ x3 := by
    try subst x3
    repeat' first
      | with_reducible assumption | intro _
      | (with_reducible first | apply keep_logC | apply keep_ccInt | apply keep_postArmed | apply keep_callback | apply keep_when_ | apply keep_haltRaise | apply keep_modFab | apply keep_loseMember)
  have h4 : Keeps s₀ x4 := by
    try subst x4
    repeat' first
      | with_reducible assumption | intro _
      | (with_reducible first | apply keep_logC | apply keep_ccInt | apply keep_postArmed | apply keep_callback | apply keep_when_ | apply keep_haltRaise | apply keep_modFab | apply keep_loseMember)
  have h5 : Keeps s₀ x5 := by
    try subst x5
    repeat' first
      | with_reducible assumption | intro _
      | (with_reducible first | apply keep_logC | apply keep_ccInt | apply keep_postArmed | apply keep_callback | apply keep_when_ | apply keep_haltRaise | apply keep_modFab | apply keep_loseMember)
  try clear_value x5; try clear_value x4; try clear_value x3; try clear_value x2; try clear_value x1; try clear_value x0
  repeat' first
    | with_reducible assumption | intro _
    | (with_reducible first | apply keep_logC | apply keep_ccInt | apply keep_postArmed | apply keep_callback | apply keep_when_ | apply keep_haltRaise | apply keep_modFab | apply keep_loseMember)

theorem keep_declareUnreachable {a0} (h : Keeps s₀ a0) : Keeps s₀ (declareUnreachable a0) := by
  delta declareUnreachable
  extract_lets x0
  try clear_value x0
  repeat' first
    | with_reducible assumption | intro _
    | (with_reducible first | apply keep_forEach | apply keep_declareLost | apply keep_sendNotice)

theorem keep_streamFault {a0 a1} (h : Keeps s₀ a1) : Keeps s₀ (streamFault a0 a1) := by
  delta streamFault
  extract_lets x0 x1 x2 x3 x4 x5 x6 x7 x8 x9 x10
  have h10 : Keeps s₀ x10 := by
    try subst x10
    repeat' first
      | with_reducible assumption | intro _
      | (with_reducible first | apply keep_modFab | apply keep_forEach | apply keep_modChan | apply keep_ite | apply keep_ite1 | apply keep_ite2 | apply keep_ite3)
      | extract_lets | split
      | refine keep_eq2 (by with_reducible assumption) ?_ | refine keep_eq1 (by with_reducible assumption) ?_
  try clear_value x10; try clear_value x9; try clear_value x8; try clear_value x6; try clear_value x5; try clear_value x4; try clear_value x3; try clear_value x2; try clear_value x1; try clear_value x0
  repeat' first
    | with_reducible assumption | intro _
    | (with_reducible first | apply keep_modFab | apply keep_forEach | apply keep_modChan | apply keep_ite | apply keep_ite1 | apply keep_ite2 | apply keep_ite3)
    | extract_lets | split
    | refine keep_eq2 (by with_reducible assumption) ?_ | refine keep_eq1 (by with_reducible assumption) ?_

theorem keep_acceptFault {a0 a1} (h : Keeps s₀ a1) : Keeps s₀ (acceptFault a0 a1) := by
  delta acceptFault
  extract_lets x0 x1 x2 x3 x4 x5 x6 x7
  have h0 : Keeps s₀ x0 := by
    try subst x0
    repeat' first
      | with_reducible assumption | intro _
      | (with_reducible first | apply keep_modEnt | apply keep_modSide | apply keep_maskReq | apply keep_modTill | apply keep_streamFault | apply keep_forEach | apply keep_wr | apply keep_modFab | apply keep_logC | apply keep_postArmed | apply keep_callback | apply keep_when_ | apply keep_ccInt | apply keep_devEvent | apply keep_ite)
      | extract_lets | split
      | refine keep_eq2 (by with_reducible assumption) ?_ | refine keep_eq1 (by with_reducible assumption) ?_
  have h1 : Keeps s₀ x1 := by
    try subst x1
    repeat' first
      | with_reducible assumption | intro _
      | (with_reducible first | apply keep_modEnt | apply keep_modSide | apply keep_maskReq | apply keep_modTill | apply keep_streamFault | apply keep_forEach | apply keep_wr | apply keep_modFab | apply keep_logC | apply keep_postArmed | apply keep_callback | apply keep_when_ | apply keep_ccInt | apply keep_devEvent | apply keep_ite)
      | extract_lets | split
      | refine keep_eq2 (by with_reducible assumption) ?_ | refine keep_eq1 (by with_reducible assumption) ?_
  have h3 : Keeps s₀ x3 := by
    try subst x3
    repeat' first
      | with_reducible assumption | intro _
      | (with_reducible first | apply keep_modEnt | apply keep_modSide | apply keep_maskReq | apply keep_modTill | apply keep_streamFault | apply keep_forEach | apply keep_wr | apply keep_modFab | apply keep_logC | apply keep_postArmed | apply keep_callback | apply keep_when_ | apply keep_ccInt | apply keep_devEvent | apply keep_ite)
      | extract_lets | split
      | refine keep_eq2 (by with_reducible assumption) ?_ | refine keep_eq1 (by with_reducible assumption) ?_
  have h4 : Keeps s₀ x4 := by
    try subst x4
    repeat' first
      | with_reducible assumption | intro _
      | (with_reducible first | apply keep_modEnt | apply keep_modSide | apply keep_maskReq | apply keep_modTill | apply keep_streamFault | apply keep_forEach | apply keep_wr | apply keep_modFab | apply keep_logC | apply keep_postArmed | apply keep_callback | apply keep_when_ | apply keep_ccInt | apply keep_devEvent | apply keep_ite)
      | extract_lets | split
      | refine keep_eq2 (by with_reducible assumption) ?_ | refine keep_eq1 (by with_reducible assumption) ?_
  have h5 : Keeps s₀ x5 := by
    try subst x5
    repeat' first
      | with_reducible assumption | intro _
      | (with_reducible first | apply keep_modEnt | apply keep_modSide | apply keep_maskReq | apply keep_modTill | apply keep_streamFault | apply keep_forEach | apply keep_wr | apply keep_modFab | apply keep_logC | apply keep_postArmed | apply keep_callback | apply keep_when_ | apply keep_ccInt | apply keep_devEvent | apply keep_ite)
      | extract_lets | split
      | refine keep_eq2 (by with_reducible assumption) ?_ | refine keep_eq1 (by with_reducible assumption) ?_
  have h6 : Keeps s₀ x6 := by
    try subst x6
    repeat' first
      | with_reducible assumption | intro _
      | (with_reducible first | apply keep_modEnt | apply keep_modSide | apply keep_maskReq | apply keep_modTill | apply keep_streamFault | apply keep_forEach | apply keep_wr | apply keep_modFab | apply keep_logC | apply keep_postArmed | apply keep_callback | apply keep_when_ | apply keep_ccInt | apply keep_devEvent | apply keep_ite)
      | extract_lets | split
      | refine keep_eq2 (by with_reducible assumption) ?_ | refine keep_eq1 (by with_reducible assumption) ?_
  have h7 : Keeps s₀ x7 := by
    try subst x7
    repeat' first
      | with_reducible assumption | intro _
      | (with_reducible first | apply keep_modEnt | apply keep_modSide | apply keep_maskReq | apply keep_modTill | apply keep_streamFault | apply keep_forEach | apply keep_wr | apply keep_modFab | apply keep_logC | apply keep_postArmed | apply keep_callback | apply keep_when_ | apply keep_ccInt | apply keep_devEvent | apply keep_ite)
      | extract_lets | split
      | refine keep_eq2 (by with_reducible assumption) ?_ | refine keep_eq1 (by with_reducible assumption) ?_
  try clear_value x7; try clear_value x6; try clear_value x5; try clear_value x4; try clear_value x3; try clear_value x2; try clear_value x1; try clear_value x0
  repeat' first
    | with_reducible assumption | intro _
    | (with_reducible first | apply keep_modEnt | apply keep_modSide | apply keep_maskReq | apply keep_modTill | apply keep_streamFault | apply keep_forEach | apply keep_wr | apply keep_modFab | apply keep_logC | apply keep_postArmed | apply keep_callback | apply keep_when_ | apply keep_ccInt | apply keep_devEvent | apply keep_ite)
    | extract_lets | split
    | refine keep_eq2 (by with_reducible assumption) ?_ | refine keep_eq1 (by with_reducible assumption) ?_

theorem keep_failRead {a0 a1 a2} (h : Keeps s₀ a2) : Keeps s₀ (failRead a0 a1 a2) := by
  delta failRead
  extract_lets x0
  try clear_value x0
  repeat' first
    | with_reducible assumption | intro _
    | (with_reducible first | apply keep_modFab | apply keep_ite)
    | split

theorem keep_takeFault {a0 a1} (h : Keeps s₀ a1) : Keeps s₀ (takeFault a0 a1) := by
  delta takeFault
  repeat' first
    | with_reducible assumption | intro _
    | (with_reducible first | apply keep_modFab | apply keep_acceptFault | apply keep_when_ | apply keep_failRead | apply keep_ite)
    | split

theorem keep_lostPacket {a0 a1 a2} (h : Keeps s₀ a2) : Keeps s₀ (lostPacket a0 a1 a2) := by
  delta lostPacket
  extract_lets x0 x1
  try clear_value x0
  repeat' first
    | with_reducible assumption | intro _
    | (with_reducible first | apply keep_sendFault | apply keep_sendPacket)
    | extract_lets | split
    | refine keep_eq2 (by with_reducible assumption) ?_ | refine keep_eq1 (by with_reducible assumption) ?_

theorem keep_holdAlternate {a0 a1 a2} (h : Keeps s₀ a2) : Keeps s₀ (holdAlternate a0 a1 a2) := by
  delta holdAlternate
  extract_lets x0 x1
  try clear_value x1; try clear_value x0
  repeat' first
    | with_reducible assumption | intro _
    | (with_reducible first | apply keep_modFab | apply keep_ite)
    | extract_lets | split
    | refine keep_eq2 (by with_reducible assumption) ?_ | refine keep_eq1 (by with_reducible assumption) ?_

theorem keep_moveQueued {a0 a1} (h : Keeps s₀ a1) : Keeps s₀ (moveQueued a0 a1) := by
  delta moveQueued
  repeat' first
    | with_reducible assumption | intro _
    | (with_reducible first | apply keep_forEach | apply keep_unreachable | apply keep_txFlit | apply keep_ite | apply keep_ite1 | apply keep_ite2 | apply keep_ite3)
    | extract_lets | split
    | refine keep_eq2 (by with_reducible assumption) ?_ | refine keep_eq1 (by with_reducible assumption) ?_

theorem keep_portOut {a0 a1} (h : Keeps s₀ a1) : Keeps s₀ (portOut a0 a1) := by
  delta portOut
  extract_lets x0 x1 x2 x3 x4 x5 x6 x7 x8
  have h4 : Keeps s₀ x4 := by
    try subst x4
    repeat' first
      | with_reducible assumption | intro _
      | (with_reducible first | apply keep_cutParts | apply keep_setLink | apply keep_forEach | apply keep_holdAlternate | apply keep_moveQueued | apply keep_lostPacket | apply keep_declareUnreachable | apply keep_ite | apply keep_ite1 | apply keep_ite2 | apply keep_ite3)
      | split
  have h5 : Keeps s₀ x5 := by
    try subst x5
    repeat' first
      | with_reducible assumption | intro _
      | (with_reducible first | apply keep_cutParts | apply keep_setLink | apply keep_forEach | apply keep_holdAlternate | apply keep_moveQueued | apply keep_lostPacket | apply keep_declareUnreachable | apply keep_ite | apply keep_ite1 | apply keep_ite2 | apply keep_ite3)
      | split
  have h6 : Keeps s₀ x6 := by
    try subst x6
    repeat' first
      | with_reducible assumption | intro _
      | (with_reducible first | apply keep_cutParts | apply keep_setLink | apply keep_forEach | apply keep_holdAlternate | apply keep_moveQueued | apply keep_lostPacket | apply keep_declareUnreachable | apply keep_ite | apply keep_ite1 | apply keep_ite2 | apply keep_ite3)
      | split
  have h7 : Keeps s₀ x7 := by
    try subst x7
    repeat' first
      | with_reducible assumption | intro _
      | (with_reducible first | apply keep_cutParts | apply keep_setLink | apply keep_forEach | apply keep_holdAlternate | apply keep_moveQueued | apply keep_lostPacket | apply keep_declareUnreachable | apply keep_ite | apply keep_ite1 | apply keep_ite2 | apply keep_ite3)
      | split
  have h8 : Keeps s₀ x8 := by
    try subst x8
    repeat' first
      | with_reducible assumption | intro _
      | (with_reducible first | apply keep_cutParts | apply keep_setLink | apply keep_forEach | apply keep_holdAlternate | apply keep_moveQueued | apply keep_lostPacket | apply keep_declareUnreachable | apply keep_ite | apply keep_ite1 | apply keep_ite2 | apply keep_ite3)
      | split
  try clear_value x8; try clear_value x7; try clear_value x6; try clear_value x5; try clear_value x4; try clear_value x3; try clear_value x2; try clear_value x1; try clear_value x0
  repeat' first
    | with_reducible assumption | intro _
    | (with_reducible first | apply keep_cutParts | apply keep_setLink | apply keep_forEach | apply keep_holdAlternate | apply keep_moveQueued | apply keep_lostPacket | apply keep_declareUnreachable | apply keep_ite | apply keep_ite1 | apply keep_ite2 | apply keep_ite3)
    | split

end Sys2Proof.Laws
end

