-- ==== Sys2Proof/Laws/KeepFabric.lean ====
section
/-! SUPPORT. What `Keeps` of Laws/Keep.lean says, operation by operation and command by command: links, fabric, clock, power, work items and cores. Each lemma
says that an operation applied to a state that keeps the invariants of `s₀` keeps them. -/
namespace Sys2Proof.Laws
open Sys2Proof.Machine Sys2Proof.Safety
set_option Elab.async false
set_option linter.unusedTactic false
set_option linter.unreachableTactic false
set_option linter.unusedVariables false
variable {s₀ : State}

/-! ### Links -/

theorem keep_rechoose {a0} (h : Keeps s₀ a0) : Keeps s₀ (rechoose a0) := by
  delta rechoose
  extract_lets x0 x1
  try clear_value x1; try clear_value x0
  repeat' first
    | with_reducible assumption | intro _
    | (with_reducible first | apply keep_ite | apply keep_ite1 | apply keep_ite2 | apply keep_ite3)
    | split
    | with_reducible refine keep_set ?_ ?_ ?_ ?_ ?_ ?_
    | rfl
    | assumption

theorem keep_enterHoldover {a0} (h : Keeps s₀ a0) : Keeps s₀ (enterHoldover a0) := by
  delta enterHoldover
  extract_lets x0 x1
  have h1 : Keeps s₀ x1 := by
    try subst x1
    repeat' first
      | with_reducible assumption | intro _
      | (with_reducible first | apply keep_advertise | apply keep_logC | apply keep_ite)
      | split
      | with_reducible refine keep_set ?_ ?_ ?_ ?_ ?_ ?_
      | rfl
      | assumption
  try clear_value x1; try clear_value x0
  repeat' first
    | with_reducible assumption | intro _
    | (with_reducible first | apply keep_advertise | apply keep_logC | apply keep_ite)
    | split
    | with_reducible refine keep_set ?_ ?_ ?_ ?_ ?_ ?_
    | rfl
    | assumption

theorem keep_startTraining {a0 a1} (h : Keeps s₀ a1) : Keeps s₀ (startTraining a0 a1) := by
  delta startTraining
  repeat' first
    | with_reducible assumption | intro _
    | (with_reducible first | apply keep_modLink)

theorem keep_failAttempt {a0 a1} (h : Keeps s₀ a1) : Keeps s₀ (failAttempt a0 a1) := by
  delta failAttempt
  extract_lets x0
  try clear_value x0
  repeat' first
    | with_reducible assumption | intro _
    | (with_reducible first | apply keep_modLink | apply keep_startTraining | apply keep_ite)
    | split

theorem keep_sendCheck {a0 a1} (h : Keeps s₀ a1) : Keeps s₀ (sendCheck a0 a1) := by
  delta sendCheck
  repeat' first
    | with_reducible assumption | intro _
    | (with_reducible first | apply keep_ctlLink)

theorem keep_agree {a0 a1} (h : Keeps s₀ a1) : Keeps s₀ (agree a0 a1) := by
  delta agree
  extract_lets x0 x1
  have h1 : Keeps s₀ x1 := by
    try subst x1
    repeat' first
      | with_reducible assumption | intro _
      | (with_reducible first | apply keep_logC | apply keep_modLink | apply keep_rechoose | apply keep_when_ | apply keep_sendCheck | apply keep_ite)
      | extract_lets | split
      | refine keep_eq2 (by with_reducible assumption) ?_ | refine keep_eq1 (by with_reducible assumption) ?_
  try clear_value x1; try clear_value x0
  repeat' first
    | with_reducible assumption | intro _
    | (with_reducible first | apply keep_logC | apply keep_modLink | apply keep_rechoose | apply keep_when_ | apply keep_sendCheck | apply keep_ite)
    | extract_lets | split
    | refine keep_eq2 (by with_reducible assumption) ?_ | refine keep_eq1 (by with_reducible assumption) ?_

theorem keep_sendEcho {a0 a1 a2} (h : Keeps s₀ a2) : Keeps s₀ (sendEcho a0 a1 a2) := by
  delta sendEcho
  repeat' first
    | with_reducible assumption | intro _
    | (with_reducible first | apply keep_ctlLink)

theorem keep_leaveService {a0 a1} (h : Keeps s₀ a1) : Keeps s₀ (leaveService a0 a1) := by
  delta leaveService
  extract_lets x0 x1 x2 x3
  have h1 : Keeps s₀ x1 := by
    try subst x1
    repeat' first
      | with_reducible assumption | intro _
      | (with_reducible first | apply keep_modLink | apply keep_portOut | apply keep_when_ | apply keep_enterHoldover | apply keep_rechoose)
  have h2 : Keeps s₀ x2 := by
    try subst x2
    repeat' first
      | with_reducible assumption | intro _
      | (with_reducible first | apply keep_modLink | apply keep_portOut | apply keep_when_ | apply keep_enterHoldover | apply keep_rechoose)
  have h3 : Keeps s₀ x3 := by
    try subst x3
    repeat' first
      | with_reducible assumption | intro _
      | (with_reducible first | apply keep_modLink | apply keep_portOut | apply keep_when_ | apply keep_enterHoldover | apply keep_rechoose)
  try clear_value x3; try clear_value x2; try clear_value x1; try clear_value x0
  repeat' first
    | with_reducible assumption | intro _
    | (with_reducible first | apply keep_modLink | apply keep_portOut | apply keep_when_ | apply keep_enterHoldover | apply keep_rechoose)

theorem keep_linkDown {a0 a1} (h : Keeps s₀ a1) : Keeps s₀ (linkDown a0 a1) := by
  delta linkDown
  extract_lets x0 x1
  have h1 : Keeps s₀ x1 := by
    try subst x1
    repeat' first
      | with_reducible assumption | intro _
      | (with_reducible first | apply keep_devEvent | apply keep_setBit | apply keep_logC | apply keep_leaveService | apply keep_failAttempt | apply keep_portOut | apply keep_ite)
      | split
  try clear_value x1; try clear_value x0
  repeat' first
    | with_reducible assumption | intro _
    | (with_reducible first | apply keep_devEvent | apply keep_setBit | apply keep_logC | apply keep_leaveService | apply keep_failAttempt | apply keep_portOut | apply keep_ite)
    | split

theorem keep_linkEnWrite {a0 a1 a2} (h : Keeps s₀ a2) : Keeps s₀ (linkEnWrite a0 a1 a2) := by
  delta linkEnWrite
  extract_lets x0 x1 x2
  have h1 : Keeps s₀ x1 := by
    try subst x1
    repeat' first
      | with_reducible assumption | intro _
      | (with_reducible first | apply keep_wr | apply keep_when_ | apply keep_leaveService | apply keep_modLink | apply keep_startTraining | apply keep_ite)
      | split
  have h2 : Keeps s₀ x2 := by
    try subst x2
    repeat' first
      | with_reducible assumption | intro _
      | (with_reducible first | apply keep_wr | apply keep_when_ | apply keep_leaveService | apply keep_modLink | apply keep_startTraining | apply keep_ite)
      | split
  try clear_value x2; try clear_value x1; try clear_value x0
  repeat' first
    | with_reducible assumption | intro _
    | (with_reducible first | apply keep_wr | apply keep_when_ | apply keep_leaveService | apply keep_modLink | apply keep_startTraining | apply keep_ite)
    | split

theorem keep_execLinkEnWrite {a0 a1 a2} {t} (h : Keeps s₀ a2) (e : execLinkEnWrite a0 a1 a2 = .next t) : Keeps s₀ t := by
  delta execLinkEnWrite at e
  refine keep_run e ?_
  clear e
  repeat' first
    | with_reducible assumption | intro _
    | (with_reducible first | apply keep_linkEnWrite)

theorem keep_execLinkRetrainWrite {a0 a1 a2} {t} (h : Keeps s₀ a2) (e : execLinkRetrainWrite a0 a1 a2 = .next t) : Keeps s₀ t := by
  delta execLinkRetrainWrite at e
  refine keep_run e ?_
  clear e
  repeat' first
    | with_reducible assumption | intro _
    | (with_reducible first | apply keep_leaveService | apply keep_ite)
    | split

theorem keep_retrainStep {a0 a1} (h : Keeps s₀ a1) : Keeps s₀ (retrainStep a0 a1) := by
  delta retrainStep
  repeat' first
    | with_reducible assumption | intro _
    | (with_reducible first | apply keep_startTraining | apply keep_ite)
    | split

theorem keep_execLinkFarEndDetect {a0 a1} {t} (h : Keeps s₀ a1) (e : execLinkFarEndDetect a0 a1 = .next t) : Keeps s₀ t := by
  delta execLinkFarEndDetect at e
  refine keep_run e ?_
  clear e
  repeat' first
    | with_reducible assumption | intro _
    | (with_reducible first | apply keep_modLink | apply keep_ite)
    | split

theorem keep_execLinkSymbolLock {a0 a1} {t} (h : Keeps s₀ a1) (e : execLinkSymbolLock a0 a1 = .next t) : Keeps s₀ t := by
  delta execLinkSymbolLock at e
  refine keep_run e ?_
  clear e
  repeat' first
    | with_reducible assumption | intro _
    | (with_reducible first | apply keep_modLink | apply keep_ite)
    | split

theorem keep_execLinkDeskewDone {a0 a1} {t} (h : Keeps s₀ a1) (e : execLinkDeskewDone a0 a1 = .next t) : Keeps s₀ t := by
  delta execLinkDeskewDone at e
  refine keep_run e ?_
  clear e
  repeat' first
    | with_reducible assumption | intro _
    | (with_reducible first | apply keep_sendEcho | apply keep_modLink | apply keep_ite)
    | split

theorem keep_measureComplete {a0 a1} (h : Keeps s₀ a1) : Keeps s₀ (measureComplete a0 a1) := by
  delta measureComplete
  extract_lets x0 x1 x2 x3 x4
  have h4 : Keeps s₀ x4 := by
    try subst x4
    repeat' first
      | with_reducible assumption | intro _
      | (with_reducible first | apply keep_sendEcho | apply keep_modLink | apply keep_agree | apply keep_ctlLink | apply keep_ite)
      | split
  try clear_value x4; try clear_value x3; try clear_value x2; try clear_value x1; try clear_value x0
  repeat' first
    | with_reducible assumption | intro _
    | (with_reducible first | apply keep_sendEcho | apply keep_modLink | apply keep_agree | apply keep_ctlLink | apply keep_ite)
    | split

theorem keep_execMeasureComplete {a0 a1} {t} (h : Keeps s₀ a1) (e : execMeasureComplete a0 a1 = .next t) : Keeps s₀ t := by
  delta execMeasureComplete at e
  refine keep_run e ?_
  clear e
  repeat' first
    | with_reducible assumption | intro _
    | (with_reducible first | apply keep_measureComplete)

theorem keep_execLinkTrainingTimeout {a0 a1} {t} (h : Keeps s₀ a1) (e : execLinkTrainingTimeout a0 a1 = .next t) : Keeps s₀ t := by
  delta execLinkTrainingTimeout at e
  refine keep_run e ?_
  clear e
  repeat' first
    | with_reducible assumption | intro _
    | (with_reducible first | apply keep_failAttempt | apply keep_ite)
    | split

theorem keep_echoMsg {a0 a1 a2 a3} (h : Keeps s₀ a3) : Keeps s₀ (echoMsg a0 a1 a2 a3) := by
  delta echoMsg
  extract_lets x0 x1 x2 x3
  have h2 : Keeps s₀ x2 := by
    try subst x2
    repeat' first
      | with_reducible assumption | intro _
      | (with_reducible first | apply keep_modLink | apply keep_sendEcho | apply keep_forEach | apply keep_txFlit | apply keep_ite)
      | split
  try clear_value x3; try clear_value x2; try clear_value x1; try clear_value x0
  repeat' first
    | with_reducible assumption | intro _
    | (with_reducible first | apply keep_modLink | apply keep_sendEcho | apply keep_forEach | apply keep_txFlit | apply keep_ite)
    | split

theorem keep_execEcho {a0 a1 a2 a3} {t} (h : Keeps s₀ a3) (e : execEcho a0 a1 a2 a3 = .next t) : Keeps s₀ t := by
  delta execEcho at e
  refine keep_run e ?_
  clear e
  repeat' first
    | with_reducible assumption | intro _
    | (with_reducible first | apply keep_echoMsg)

theorem keep_helloMsg {a0 a1 a2} (h : Keeps s₀ a2) : Keeps s₀ (helloMsg a0 a1 a2) := by
  delta helloMsg
  extract_lets x0 x1 x2 x3
  have h3 : Keeps s₀ x3 := by
    try subst x3
    repeat' first
      | with_reducible assumption | intro _
      | (with_reducible first | apply keep_setLink | apply keep_rechoose | apply keep_agree | apply keep_ite)
      | split
  try clear_value x3; try clear_value x2; try clear_value x1; try clear_value x0
  repeat' first
    | with_reducible assumption | intro _
    | (with_reducible first | apply keep_setLink | apply keep_rechoose | apply keep_agree | apply keep_ite)
    | split

theorem keep_execHello {a0 a1 a2} {t} (h : Keeps s₀ a2) (e : execHello a0 a1 a2 = .next t) : Keeps s₀ t := by
  delta execHello at e
  refine keep_run e ?_
  clear e
  repeat' first
    | with_reducible assumption | intro _
    | (with_reducible first | apply keep_helloMsg)

theorem keep_execLaneLockLoss {a0 a1} {t} (h : Keeps s₀ a1) (e : execLaneLockLoss a0 a1 = .next t) : Keeps s₀ t := by
  delta execLaneLockLoss at e
  refine keep_run e ?_
  clear e
  repeat' first
    | with_reducible assumption | intro _
    | (with_reducible first | apply keep_linkDown | apply keep_ite)
    | split

theorem keep_execKeepaliveTimeout {a0 a1} {t} (h : Keeps s₀ a1) (e : execKeepaliveTimeout a0 a1 = .next t) : Keeps s₀ t := by
  delta execKeepaliveTimeout at e
  refine keep_run e ?_
  clear e
  repeat' first
    | with_reducible assumption | intro _
    | (with_reducible first | apply keep_linkDown | apply keep_ite)
    | split

theorem keep_abandonedFlit {a0 a1 a2 a3} (h : Keeps s₀ a3) : Keeps s₀ (abandonedFlit a0 a1 a2 a3) := by
  delta abandonedFlit
  repeat' first
    | with_reducible assumption | intro _
    | (with_reducible first | apply keep_modFab | apply keep_sendPacket | apply keep_ite | apply keep_ite1 | apply keep_ite2 | apply keep_ite3)
    | extract_lets | split
    | refine keep_eq2 (by with_reducible assumption) ?_ | refine keep_eq1 (by with_reducible assumption) ?_

theorem keep_execAbandonedFlit {a0 a1 a2 a3} {t} (h : Keeps s₀ a3) (e : execAbandonedFlit a0 a1 a2 a3 = .next t) : Keeps s₀ t := by
  delta execAbandonedFlit at e
  refine keep_run e ?_
  clear e
  repeat' first
    | with_reducible assumption | intro _
    | (with_reducible first | apply keep_abandonedFlit)

theorem keep_flitCrcError {a0 a1} (h : Keeps s₀ a1) : Keeps s₀ (flitCrcError a0 a1) := by
  delta flitCrcError
  extract_lets x0
  have h0 : Keeps s₀ x0 := by
    try subst x0
    repeat' first
      | with_reducible assumption | intro _
      | (with_reducible first | apply keep_bumpSat | apply keep_emit | apply keep_modLink | apply keep_ite)
      | split
  try clear_value x0
  repeat' first
    | with_reducible assumption | intro _
    | (with_reducible first | apply keep_bumpSat | apply keep_emit | apply keep_modLink | apply keep_ite)
    | split

theorem keep_execFlitCrcError {a0 a1} {t} (h : Keeps s₀ a1) (e : execFlitCrcError a0 a1 = .next t) : Keeps s₀ t := by
  delta execFlitCrcError at e
  refine keep_run e ?_
  clear e
  repeat' first
    | with_reducible assumption | intro _
    | (with_reducible first | apply keep_flitCrcError)

theorem keep_replayRequest {a0 a1 a2} (h : Keeps s₀ a2) : Keeps s₀ (replayRequest a0 a1 a2) := by
  delta replayRequest
  extract_lets x0 x1 x2 x3 x4
  have h3 : Keeps s₀ x3 := by
    try subst x3
    repeat' first
      | with_reducible assumption | intro _
      | (with_reducible first | apply keep_setLink | apply keep_linkDown | apply keep_bumpSat | apply keep_forEach | apply keep_addWrap | apply keep_emit | apply keep_ite)
      | split
  have h4 : Keeps s₀ x4 := by
    try subst x4
    repeat' first
      | with_reducible assumption | intro _
      | (with_reducible first | apply keep_setLink | apply keep_linkDown | apply keep_bumpSat | apply keep_forEach | apply keep_addWrap | apply keep_emit | apply keep_ite)
      | split
  try clear_value x4; try clear_value x3; try clear_value x2; try clear_value x1; try clear_value x0
  repeat' first
    | with_reducible assumption | intro _
    | (with_reducible first | apply keep_setLink | apply keep_linkDown | apply keep_bumpSat | apply keep_forEach | apply keep_addWrap | apply keep_emit | apply keep_ite)
    | split

theorem keep_execReplayRequest {a0 a1 a2} {t} (h : Keeps s₀ a2) (e : execReplayRequest a0 a1 a2 = .next t) : Keeps s₀ t := by
  delta execReplayRequest at e
  refine keep_run e ?_
  clear e
  repeat' first
    | with_reducible assumption | intro _
    | (with_reducible first | apply keep_replayRequest)

theorem keep_execLinkAck {a0 a1 a2} {t} (h : Keeps s₀ a2) (e : execLinkAck a0 a1 a2 = .next t) : Keeps s₀ t := by
  delta execLinkAck at e
  refine keep_run e ?_
  clear e
  repeat' first
    | with_reducible assumption | intro _
    | (with_reducible first | apply keep_modLink | apply keep_pump | apply keep_ite)
    | split

theorem keep_execCreditReturn {a0 a1 a2 a3 a4} {t} (h : Keeps s₀ a4) (e : execCreditReturn a0 a1 a2 a3 a4 = .next t) : Keeps s₀ t := by
  delta execCreditReturn at e
  refine keep_run e ?_
  clear e
  repeat' first
    | with_reducible assumption | intro _
    | (with_reducible first | apply keep_modLink | apply keep_pump)

/-! ### Fabric -/

theorem keep_ctlTake {a0 a1 a2} (h : Keeps s₀ a2) : Keeps s₀ (ctlTake a0 a1 a2) := by
  delta ctlTake
  repeat' first
    | with_reducible assumption | intro _
    | (with_reducible first | apply keep_await)
    | extract_lets | split
    | refine keep_eq2 (by with_reducible assumption) ?_ | refine keep_eq1 (by with_reducible assumption) ?_

theorem keep_ctlFwd {a0 a1 a2 a3 a4} (h : Keeps s₀ a4) : Keeps s₀ (ctlFwd a0 a1 a2 a3 a4) := by
  delta ctlFwd
  repeat' first
    | with_reducible assumption | intro _
    | (with_reducible first | apply keep_forEach | apply keep_txFlit)

theorem keep_ctlArrive {a0 a1 a2 a3} (h : Keeps s₀ a3) : Keeps s₀ (ctlArrive a0 a1 a2 a3) := by
  delta ctlArrive
  extract_lets x0
  try clear_value x0
  repeat' first
    | with_reducible assumption | intro _
    | (with_reducible first | apply keep_logC | apply keep_setBit | apply keep_ctlTake | apply keep_modLink | apply keep_ctlFwd | apply keep_ite)
    | extract_lets | split
    | refine keep_eq2 (by with_reducible assumption) ?_ | refine keep_eq1 (by with_reducible assumption) ?_

theorem keep_packetTake {a0 a1} (h : Keeps s₀ a1) : Keeps s₀ (packetTake a0 a1) := by
  delta packetTake
  extract_lets x0
  try clear_value x0
  repeat' first
    | with_reducible assumption | intro _
    | (with_reducible first | apply keep_await | apply keep_ctlArrive)
    | extract_lets | split
    | refine keep_eq2 (by with_reducible assumption) ?_ | refine keep_eq1 (by with_reducible assumption) ?_

theorem keep_settleParts {n a} (h : Keeps s₀ a) : Keeps s₀ (settleParts n a) := by
  induction n generalizing a with
  | zero => exact h
  | succ n ih =>
    unfold settleParts
    split
    · exact h
    · exact ih (keep_ite (keep_packetTake (keep_modFab h)) (keep_modFab h))

theorem keep_settleAll {a0} (h : Keeps s₀ a0) : Keeps s₀ (settleAll a0) := by
  delta settleAll
  repeat' first
    | with_reducible assumption | intro _
    | (with_reducible first | apply keep_settleParts)

theorem keep_localFlit {a0 a1 a2 a3 a4} (h : Keeps s₀ a4) : Keeps s₀ (localFlit a0 a1 a2 a3 a4) := by
  delta localFlit
  repeat' first
    | with_reducible assumption | intro _
    | (with_reducible first | apply keep_await | apply keep_deliverNotice | apply keep_settleAll | apply keep_addFlit)
    | extract_lets | split
    | refine keep_eq2 (by with_reducible assumption) ?_ | refine keep_eq1 (by with_reducible assumption) ?_

theorem keep_passFlit {a0 a1 a2 a3 a4} (h : Keeps s₀ a4) : Keeps s₀ (passFlit a0 a1 a2 a3 a4) := by
  delta passFlit
  extract_lets x0 x1 x2
  have h2 : Keeps s₀ x2 := by
    try subst x2
    repeat' first
      | with_reducible assumption | intro _
      | (with_reducible first | apply keep_settleAll | apply keep_addFlit | apply keep_txFlit | apply keep_unreachable | apply keep_ite)
      | split
  try clear_value x2; try clear_value x1; try clear_value x0
  repeat' first
    | with_reducible assumption | intro _
    | (with_reducible first | apply keep_settleAll | apply keep_addFlit | apply keep_txFlit | apply keep_unreachable | apply keep_ite)
    | split

theorem keep_consume {a0 a1 a2 a3} (h : Keeps s₀ a3) : Keeps s₀ (consume a0 a1 a2 a3) := by
  delta consume
  extract_lets x0 x1 x2 x3
  have h1 : Keeps s₀ x1 := by
    try subst x1
    repeat' first
      | with_reducible assumption | intro _
      | (with_reducible first | apply keep_when_ | apply keep_touch | apply keep_emit | apply keep_setBit | apply keep_logC | apply keep_localFlit | apply keep_passFlit | apply keep_ite)
      | split
  have h2 : Keeps s₀ x2 := by
    try subst x2
    repeat' first
      | with_reducible assumption | intro _
      | (with_reducible first | apply keep_when_ | apply keep_touch | apply keep_emit | apply keep_setBit | apply keep_logC | apply keep_localFlit | apply keep_passFlit | apply keep_ite)
      | split
  have h3 : Keeps s₀ x3 := by
    try subst x3
    repeat' first
      | with_reducible assumption | intro _
      | (with_reducible first | apply keep_when_ | apply keep_touch | apply keep_emit | apply keep_setBit | apply keep_logC | apply keep_localFlit | apply keep_passFlit | apply keep_ite)
      | split
  try clear_value x3; try clear_value x2; try clear_value x1; try clear_value x0
  repeat' first
    | with_reducible assumption | intro _
    | (with_reducible first | apply keep_when_ | apply keep_touch | apply keep_emit | apply keep_setBit | apply keep_logC | apply keep_localFlit | apply keep_passFlit | apply keep_ite)
    | split

theorem keep_drainList {p l b a} (h : Keeps s₀ a) : Keeps s₀ (drainList p l b a) := by
  induction l generalizing b a with
  | nil => exact h
  | cons x t ih =>
    unfold drainList
    repeat' first
      | with_reducible assumption
      | intro _
      | (with_reducible first | apply ih | apply keep_modLink | apply keep_consume)
      | (with_reducible first | apply keep_ite | apply keep_ite2)
      | extract_lets | split
      | refine keep_eq2 (by with_reducible assumption) ?_

theorem keep_drainRx {a0 a1} (h : Keeps s₀ a1) : Keeps s₀ (drainRx a0 a1) := by
  delta drainRx
  extract_lets x0
  try clear_value x0
  repeat' first
    | with_reducible assumption | intro _
    | (with_reducible first | apply keep_drainList | apply keep_modLink)

theorem keep_drainAll {a0} (h : Keeps s₀ a0) : Keeps s₀ (drainAll a0) := by
  delta drainAll
  repeat' first
    | with_reducible assumption | intro _
    | (with_reducible first | apply keep_forEach | apply keep_drainRx)

theorem keep_flitReceive {a0 a1 a2 a3} (h : Keeps s₀ a3) : Keeps s₀ (flitReceive a0 a1 a2 a3) := by
  delta flitReceive
  extract_lets x0 x1 x2 x3 x4
  have h2 : Keeps s₀ x2 := by
    try subst x2
    repeat' first
      | with_reducible assumption | intro _
      | (with_reducible first | apply keep_flitCrcError | apply keep_modLink | apply keep_emit | apply keep_addWrap | apply keep_when_ | apply keep_wakeAll | apply keep_consume | apply keep_ite | apply keep_ite1 | apply keep_ite2 | apply keep_ite3)
      | split
  have h3 : Keeps s₀ x3 := by
    try subst x3
    repeat' first
      | with_reducible assumption | intro _
      | (with_reducible first | apply keep_flitCrcError | apply keep_modLink | apply keep_emit | apply keep_addWrap | apply keep_when_ | apply keep_wakeAll | apply keep_consume | apply keep_ite | apply keep_ite1 | apply keep_ite2 | apply keep_ite3)
      | split
  have h4 : Keeps s₀ x4 := by
    try subst x4
    repeat' first
      | with_reducible assumption | intro _
      | (with_reducible first | apply keep_flitCrcError | apply keep_modLink | apply keep_emit | apply keep_addWrap | apply keep_when_ | apply keep_wakeAll | apply keep_consume | apply keep_ite | apply keep_ite1 | apply keep_ite2 | apply keep_ite3)
      | split
  try clear_value x4; try clear_value x3; try clear_value x2; try clear_value x1; try clear_value x0
  repeat' first
    | with_reducible assumption | intro _
    | (with_reducible first | apply keep_flitCrcError | apply keep_modLink | apply keep_emit | apply keep_addWrap | apply keep_when_ | apply keep_wakeAll | apply keep_consume | apply keep_ite | apply keep_ite1 | apply keep_ite2 | apply keep_ite3)
    | split

theorem keep_execFlitReceive {a0 a1 a2 a3} {t} (h : Keeps s₀ a3) (e : execFlitReceive a0 a1 a2 a3 = .next t) : Keeps s₀ t := by
  delta execFlitReceive at e
  refine keep_run e ?_
  clear e
  repeat' first
    | with_reducible assumption | intro _
    | (with_reducible first | apply keep_flitReceive)

theorem keep_injectPW {a0 a1 a2} (h : Keeps s₀ a2) : Keeps s₀ (injectPW a0 a1 a2) := by
  delta injectPW
  repeat' first
    | with_reducible assumption | intro _
    | (with_reducible first | apply keep_sendPacket)

theorem keep_issuePW {a0 a1 a2 a3 a4 a5 a6 a7 a8 a9} (h : Keeps s₀ a9) : Keeps s₀ (issuePW a0 a1 a2 a3 a4 a5 a6 a7 a8 a9) := by
  delta issuePW
  extract_lets x0 x1 x2 x3 x4 x5 x6 x7
  have h7 : Keeps s₀ x7 := by
    try subst x7
    repeat' first
      | with_reducible assumption | intro _
      | (with_reducible first | apply keep_modFab | apply keep_injectPW | apply keep_ite | apply keep_ite1 | apply keep_ite2 | apply keep_ite3)
      | split
  try clear_value x7; try clear_value x6; try clear_value x5; try clear_value x4; try clear_value x3; try clear_value x2; try clear_value x1; try clear_value x0
  repeat' first
    | with_reducible assumption | intro _
    | (with_reducible first | apply keep_modFab | apply keep_injectPW | apply keep_ite | apply keep_ite1 | apply keep_ite2 | apply keep_ite3)
    | split

theorem keep_releaseHeld {a0 a1 a2} (h : Keeps s₀ a2) : Keeps s₀ (releaseHeld a0 a1 a2) := by
  delta releaseHeld
  extract_lets x0 x1 x2 x3
  have h3 : Keeps s₀ x3 := by
    try subst x3
    repeat' first
      | with_reducible assumption | intro _
      | (with_reducible first | apply keep_modFab | apply keep_forEach | apply keep_injectPW | apply keep_ite)
      | split
  try clear_value x3; try clear_value x2; try clear_value x1; try clear_value x0
  repeat' first
    | with_reducible assumption | intro _
    | (with_reducible first | apply keep_modFab | apply keep_forEach | apply keep_injectPW | apply keep_ite)
    | split

theorem keep_faultArg {a0 a1 a2} (h : Keeps s₀ a0) : Keeps s₀ (faultArg a0 a1 a2).2 := by
  delta faultArg
  extract_lets x0
  have h0 : Keeps s₀ x0.2 := by
    try subst x0
    repeat' first
      | with_reducible assumption | intro _
      | (with_reducible first | apply keep_fresh | apply keep_ite | apply keep_ite1 | apply keep_ite2 | apply keep_ite3)
      | split
  try clear_value x0
  repeat' first
    | with_reducible assumption | intro _
    | (with_reducible first | apply keep_fresh | apply keep_ite | apply keep_ite1 | apply keep_ite2 | apply keep_ite3)
    | split

theorem keep_pwArrive {a0 a1 a2} (h : Keeps s₀ a2) : Keeps s₀ (pwArrive a0 a1 a2) := by
  delta pwArrive
  extract_lets x0
  try clear_value x0
  repeat' first
    | with_reducible assumption | intro _
    | (with_reducible first | apply keep_modFab | apply keep_faultArg | apply keep_logC | apply keep_sendFault | apply keep_forEach | apply keep_ite | apply keep_ite1 | apply keep_ite2 | apply keep_ite3)
    | extract_lets | split
    | refine keep_eq2 (by with_reducible assumption) ?_ | refine keep_eq1 (by with_reducible assumption) ?_
    | with_reducible refine keep_set ?_ ?_ ?_ ?_ ?_ ?_
    | rfl
    | (with_reducible first | apply memory_put | apply memory_putBytes | apply memory_filter | apply memory_delRange | apply memory_copyRange | apply memory_foldl | apply memory_setRange | apply memory_rowApply | apply memory_unitApply)
    | assumption

theorem keep_rdArrive {a0 a1} (h : Keeps s₀ a1) : Keeps s₀ (rdArrive a0 a1) := by
  delta rdArrive
  repeat' first
    | with_reducible assumption | intro _
    | (with_reducible first | apply keep_sendPacket | apply keep_ite)
    | extract_lets | split
    | refine keep_eq2 (by with_reducible assumption) ?_ | refine keep_eq1 (by with_reducible assumption) ?_

theorem keep_execRd {a0 a1} {t} (h : Keeps s₀ a1) (e : execRd a0 a1 = .next t) : Keeps s₀ t := by
  delta execRd at e
  refine keep_run e ?_
  clear e
  repeat' first
    | with_reducible assumption | intro _
    | (with_reducible first | apply keep_rdArrive)

theorem keep_rdrArrive {a0 a1} (h : Keeps s₀ a1) : Keeps s₀ (rdrArrive a0 a1) := by
  delta rdrArrive
  repeat' first
    | with_reducible assumption | intro _
    | (with_reducible first | apply keep_modFab | apply keep_ite)
    | extract_lets | split
    | refine keep_eq2 (by with_reducible assumption) ?_ | refine keep_eq1 (by with_reducible assumption) ?_

theorem keep_execRdr {a0 a1} {t} (h : Keeps s₀ a1) (e : execRdr a0 a1 = .next t) : Keeps s₀ t := by
  delta execRdr at e
  refine keep_run e ?_
  clear e
  repeat' first
    | with_reducible assumption | intro _
    | (with_reducible first | apply keep_rdrArrive)

theorem keep_pwackSend {a0 a1 a2} (h : Keeps s₀ a2) : Keeps s₀ (pwackSend a0 a1 a2) := by
  delta pwackSend
  extract_lets x0 x1 x2 x3 x4 x5
  have h5 : Keeps s₀ x5 := by
    try subst x5
    repeat' first
      | with_reducible assumption | intro _
      | (with_reducible first | apply keep_modFab | apply keep_sendPacket | apply keep_ite)
      | split
  try clear_value x5; try clear_value x4; try clear_value x3; try clear_value x1; try clear_value x0
  repeat' first
    | with_reducible assumption | intro _
    | (with_reducible first | apply keep_modFab | apply keep_sendPacket | apply keep_ite)
    | split

theorem keep_execPwackSend {a0 a1 a2} {t} (h : Keeps s₀ a2) (e : execPwackSend a0 a1 a2 = .next t) : Keeps s₀ t := by
  delta execPwackSend at e
  refine keep_run e ?_
  clear e
  repeat' first
    | with_reducible assumption | intro _
    | (with_reducible first | apply keep_pwackSend)

theorem keep_tryAck {a0 a1 a2} (h : Keeps s₀ a2) : Keeps s₀ (tryAck a0 a1 a2) := by
  delta tryAck
  extract_lets x0 x1
  try clear_value x1; try clear_value x0
  repeat' first
    | with_reducible assumption | intro _
    | (with_reducible first | apply keep_releaseHeld | apply keep_modFab | apply keep_ite)
    | extract_lets | split
    | refine keep_eq2 (by with_reducible assumption) ?_ | refine keep_eq1 (by with_reducible assumption) ?_

theorem keep_pwackArrive {a0 a1} (h : Keeps s₀ a1) : Keeps s₀ (pwackArrive a0 a1) := by
  delta pwackArrive
  extract_lets x0 x1 x2 x3 x4 x5
  have h5 : Keeps s₀ x5 := by
    try subst x5
    repeat' first
      | with_reducible assumption | intro _
      | (with_reducible first | apply keep_modFab | apply keep_tryAck | apply keep_ite | apply keep_ite1 | apply keep_ite2 | apply keep_ite3)
      | split
  try clear_value x5; try clear_value x4; try clear_value x3; try clear_value x2; try clear_value x1; try clear_value x0
  repeat' first
    | with_reducible assumption | intro _
    | (with_reducible first | apply keep_modFab | apply keep_tryAck | apply keep_ite | apply keep_ite1 | apply keep_ite2 | apply keep_ite3)
    | split

theorem keep_execPwack {a0 a1} {t} (h : Keeps s₀ a1) (e : execPwack a0 a1 = .next t) : Keeps s₀ t := by
  delta execPwack at e
  refine keep_run e ?_
  clear e
  repeat' first
    | with_reducible assumption | intro _
    | (with_reducible first | apply keep_pwackArrive)

theorem keep_faultTake {a0 a1} (h : Keeps s₀ a1) : Keeps s₀ (faultTake a0 a1) := by
  delta faultTake
  repeat' first
    | with_reducible assumption | intro _
    | (with_reducible first | apply keep_tryAck | apply keep_takeFault)

theorem keep_execFarFault {a0 a1} {t} (h : Keeps s₀ a1) (e : execFarFault a0 a1 = .next t) : Keeps s₀ t := by
  delta execFarFault at e
  refine keep_run e ?_
  clear e
  repeat' first
    | with_reducible assumption | intro _
    | (with_reducible first | apply keep_drainAll | apply keep_faultTake)

theorem keep_execWake {a0 a1} {t} (h : Keeps s₀ a1) (e : execWake a0 a1 = .next t) : Keeps s₀ t := by
  delta execWake at e
  refine keep_run e ?_
  clear e
  repeat' first
    | with_reducible assumption | intro _
    | (with_reducible first | apply keep_wakeAll)

theorem keep_rowMaskMsg {a0 a1} (h : Keeps s₀ a1) : Keeps s₀ (rowMaskMsg a0 a1) := by
  delta rowMaskMsg
  extract_lets x0 x1 x2 x3 x4
  have h3 : Keeps s₀ x3 := by
    try subst x3
    repeat' first
      | with_reducible assumption | intro _
      | (with_reducible first | apply keep_await | apply keep_when_ | apply keep_logC | apply keep_forEach | apply keep_modStep | apply keep_maskStep | apply keep_ite)
      | split
  try clear_value x4; try clear_value x3; try clear_value x2; try clear_value x1; try clear_value x0
  repeat' first
    | with_reducible assumption | intro _
    | (with_reducible first | apply keep_await | apply keep_when_ | apply keep_logC | apply keep_forEach | apply keep_modStep | apply keep_maskStep | apply keep_ite)
    | split

theorem keep_execRowMask {a0 a1} {t} (h : Keeps s₀ a1) (e : execRowMask a0 a1 = .next t) : Keeps s₀ t := by
  delta execRowMask at e
  refine keep_run e ?_
  clear e
  repeat' first
    | with_reducible assumption | intro _
    | (with_reducible first | apply keep_rowMaskMsg)

theorem keep_chipLostMsg {a0 a1} (h : Keeps s₀ a1) : Keeps s₀ (chipLostMsg a0 a1) := by
  delta chipLostMsg
  extract_lets x0 x1
  try clear_value x1; try clear_value x0
  repeat' first
    | with_reducible assumption | intro _
    | (with_reducible first | apply keep_loseMember | apply keep_postArmed | apply keep_declareLost | apply keep_ite)
    | split

theorem keep_execChipLost {a0 a1} {t} (h : Keeps s₀ a1) (e : execChipLost a0 a1 = .next t) : Keeps s₀ t := by
  delta execChipLost at e
  refine keep_run e ?_
  clear e
  repeat' first
    | with_reducible assumption | intro _
    | (with_reducible first | apply keep_chipLostMsg)

theorem keep_applyHeld {n a} (h : Keeps s₀ a) : Keeps s₀ (applyHeld n a) := by
  induction n generalizing  a with
  | zero => exact h
  | succ n ih =>
    unfold applyHeld
    repeat' first
      | with_reducible assumption
      | intro _
      | (with_reducible first | apply ih | apply keep_faultTake | apply keep_modFab)
      | (with_reducible first | apply keep_ite | apply keep_ite2)
      | extract_lets | split
      | refine keep_eq2 (by with_reducible assumption) ?_

theorem keep_farqHeadWrite {a0 a1} (h : Keeps s₀ a1) : Keeps s₀ (farqHeadWrite a0 a1) := by
  delta farqHeadWrite
  extract_lets x0 x1 x2
  have h2 : Keeps s₀ x2 := by
    try subst x2
    repeat' first
      | with_reducible assumption | intro _
      | (with_reducible first | apply keep_modFab | apply keep_drainAll | apply keep_applyHeld | apply keep_ite)
      | split
  try clear_value x2; try clear_value x1; try clear_value x0
  repeat' first
    | with_reducible assumption | intro _
    | (with_reducible first | apply keep_modFab | apply keep_drainAll | apply keep_applyHeld | apply keep_ite)
    | split

theorem keep_execFabFarqHeadWrite {a0 a1} {t} (h : Keeps s₀ a1) (e : execFabFarqHeadWrite a0 a1 = .next t) : Keeps s₀ t := by
  delta execFabFarqHeadWrite at e
  refine keep_run e ?_
  clear e
  repeat' first
    | with_reducible assumption | intro _
    | (with_reducible first | apply keep_farqHeadWrite)

theorem keep_armEpoch {a0 a1} (h : Keeps s₀ a1) : Keeps s₀ (armEpoch a0 a1) := by
  delta armEpoch
  extract_lets x0 x1 x2
  have h2 : Keeps s₀ x2 := by
    try subst x2
    repeat' first
      | with_reducible assumption | intro _
      | (with_reducible first | apply keep_modFab | apply keep_forEach | apply keep_ctlToChip | apply keep_ite | apply keep_ite1 | apply keep_ite2 | apply keep_ite3)
      | split
  try clear_value x2; try clear_value x1; try clear_value x0
  repeat' first
    | with_reducible assumption | intro _
    | (with_reducible first | apply keep_modFab | apply keep_forEach | apply keep_ctlToChip | apply keep_ite | apply keep_ite1 | apply keep_ite2 | apply keep_ite3)
    | split

theorem keep_commitEpoch {a0 a1 a2} (h : Keeps s₀ a2) : Keeps s₀ (commitEpoch a0 a1 a2) := by
  delta commitEpoch
  extract_lets x0 x1 x2 x3
  have h1 : Keeps s₀ x1 := by
    try subst x1
    repeat' first
      | with_reducible assumption | intro _
      | (with_reducible first | apply keep_modFab | apply keep_forEach | apply keep_modLink | apply keep_logC | apply keep_ite | apply keep_ite1 | apply keep_ite2 | apply keep_ite3)
      | split
  have h2 : Keeps s₀ x2 := by
    try subst x2
    repeat' first
      | with_reducible assumption | intro _
      | (with_reducible first | apply keep_modFab | apply keep_forEach | apply keep_modLink | apply keep_logC | apply keep_ite | apply keep_ite1 | apply keep_ite2 | apply keep_ite3)
      | split
  have h3 : Keeps s₀ x3 := by
    try subst x3
    repeat' first
      | with_reducible assumption | intro _
      | (with_reducible first | apply keep_modFab | apply keep_forEach | apply keep_modLink | apply keep_logC | apply keep_ite | apply keep_ite1 | apply keep_ite2 | apply keep_ite3)
      | split
  try clear_value x3; try clear_value x2; try clear_value x1; try clear_value x0
  repeat' first
    | with_reducible assumption | intro _
    | (with_reducible first | apply keep_modFab | apply keep_forEach | apply keep_modLink | apply keep_logC | apply keep_ite | apply keep_ite1 | apply keep_ite2 | apply keep_ite3)
    | split

theorem keep_armIfStaged {a0 a1} (h : Keeps s₀ a1) : Keeps s₀ (armIfStaged a0 a1) := by
  delta armIfStaged
  extract_lets x0
  try clear_value x0
  repeat' first
    | with_reducible assumption | intro _
    | (with_reducible first | apply keep_armEpoch | apply keep_ite)
    | split

theorem keep_stagedMsg {a0 a1} (h : Keeps s₀ a1) : Keeps s₀ (stagedMsg a0 a1) := by
  delta stagedMsg
  extract_lets x0 x1
  try clear_value x1; try clear_value x0
  repeat' first
    | with_reducible assumption | intro _
    | (with_reducible first | apply keep_armIfStaged | apply keep_modFab | apply keep_ite)
    | split

theorem keep_execStaged {a0 a1} {t} (h : Keeps s₀ a1) (e : execStaged a0 a1 = .next t) : Keeps s₀ t := by
  delta execStaged at e
  refine keep_run e ?_
  clear e
  repeat' first
    | with_reducible assumption | intro _
    | (with_reducible first | apply keep_stagedMsg)

theorem keep_epochArmMsg {a0 a1} (h : Keeps s₀ a1) : Keeps s₀ (epochArmMsg a0 a1) := by
  delta epochArmMsg
  extract_lets x0 x1 x2 x3 x4
  have h3 : Keeps s₀ x3 := by
    try subst x3
    repeat' first
      | with_reducible assumption | intro _
      | (with_reducible first | apply keep_modFab | apply keep_commitEpoch | apply keep_ite | apply keep_ite1 | apply keep_ite2 | apply keep_ite3)
      | split
  have h4 : Keeps s₀ x4 := by
    try subst x4
    repeat' first
      | with_reducible assumption | intro _
      | (with_reducible first | apply keep_modFab | apply keep_commitEpoch | apply keep_ite | apply keep_ite1 | apply keep_ite2 | apply keep_ite3)
      | split
  try clear_value x4; try clear_value x3; try clear_value x2; try clear_value x1; try clear_value x0
  repeat' first
    | with_reducible assumption | intro _
    | (with_reducible first | apply keep_modFab | apply keep_commitEpoch | apply keep_ite | apply keep_ite1 | apply keep_ite2 | apply keep_ite3)
    | split

theorem keep_execEpochArm {a0 a1} {t} (h : Keeps s₀ a1) (e : execEpochArm a0 a1 = .next t) : Keeps s₀ t := by
  delta execEpochArm at e
  refine keep_run e ?_
  clear e
  repeat' first
    | with_reducible assumption | intro _
    | (with_reducible first | apply keep_epochArmMsg)

theorem keep_epochCommit {a0} (h : Keeps s₀ a0) : Keeps s₀ (epochCommit a0) := by
  delta epochCommit
  repeat' first
    | with_reducible assumption | intro _
    | (with_reducible first | apply keep_commitEpoch | apply keep_ite)
    | extract_lets | split
    | refine keep_eq2 (by with_reducible assumption) ?_ | refine keep_eq1 (by with_reducible assumption) ?_

theorem keep_execEpochCommit {a0} {t} (h : Keeps s₀ a0) (e : execEpochCommit a0 = .next t) : Keeps s₀ t := by
  delta execEpochCommit at e
  refine keep_run e ?_
  clear e
  repeat' first
    | with_reducible assumption | intro _
    | (with_reducible first | apply keep_epochCommit)

theorem keep_routeHoldRelease {a0 a1 a2} (h : Keeps s₀ a2) : Keeps s₀ (routeHoldRelease a0 a1 a2) := by
  delta routeHoldRelease
  extract_lets x0 x1
  try clear_value x1; try clear_value x0
  repeat' first
    | with_reducible assumption | intro _
    | (with_reducible first | apply keep_releaseHeld | apply keep_modFab | apply keep_ite)
    | extract_lets | split
    | refine keep_eq2 (by with_reducible assumption) ?_ | refine keep_eq1 (by with_reducible assumption) ?_

theorem keep_execRouteHoldRelease {a0 a1 a2} {t} (h : Keeps s₀ a2) (e : execRouteHoldRelease a0 a1 a2 = .next t) : Keeps s₀ t := by
  delta execRouteHoldRelease at e
  refine keep_run e ?_
  clear e
  repeat' first
    | with_reducible assumption | intro _
    | (with_reducible first | apply keep_routeHoldRelease)

theorem keep_linkCycle {a0} (h : Keeps s₀ a0) : Keeps s₀ (linkCycle a0) := by
  delta linkCycle
  extract_lets x0
  have h0 : Keeps s₀ x0 := by
    try subst x0
    repeat' first
      | with_reducible assumption | intro _
      | (with_reducible first | apply keep_forEach | apply keep_retrainStep | apply keep_pump | apply keep_settleAll | apply keep_drainAll)
  try clear_value x0
  repeat' first
    | with_reducible assumption | intro _
    | (with_reducible first | apply keep_forEach | apply keep_retrainStep | apply keep_pump | apply keep_settleAll | apply keep_drainAll)

/-! ### Discovery -/

theorem keep_fabDiscStart {a0} (h : Keeps s₀ a0) : Keeps s₀ (fabDiscStart a0) := by
  delta fabDiscStart
  repeat' first
    | with_reducible assumption | intro _
    | (with_reducible first | apply keep_modFab | apply keep_ite)
    | split

theorem keep_execFabDiscStart {a0} {t} (h : Keeps s₀ a0) (e : execFabDiscStart a0 = .next t) : Keeps s₀ t := by
  delta execFabDiscStart at e
  refine keep_run e ?_
  clear e
  repeat' first
    | with_reducible assumption | intro _
    | (with_reducible first | apply keep_fabDiscStart)

theorem keep_discoveryBegin {a0} (h : Keeps s₀ a0) : Keeps s₀ (discoveryBegin a0) := by
  delta discoveryBegin
  extract_lets x0 x1 x2 x3
  have h3 : Keeps s₀ x3 := by
    try subst x3
    repeat' first
      | with_reducible assumption | intro _
      | (with_reducible first | apply keep_modFab | apply keep_forEach | apply keep_ctlOn | apply keep_ite)
      | split
  try clear_value x3; try clear_value x2; try clear_value x1; try clear_value x0
  repeat' first
    | with_reducible assumption | intro _
    | (with_reducible first | apply keep_modFab | apply keep_forEach | apply keep_ctlOn | apply keep_ite)
    | split

theorem keep_execDiscoveryBegin {a0} {t} (h : Keeps s₀ a0) (e : execDiscoveryBegin a0 = .next t) : Keeps s₀ t := by
  delta execDiscoveryBegin at e
  refine keep_run e ?_
  clear e
  repeat' first
    | with_reducible assumption | intro _
    | (with_reducible first | apply keep_discoveryBegin)

theorem keep_discoverMsg {a0 a1 a2} (h : Keeps s₀ a2) : Keeps s₀ (discoverMsg a0 a1 a2) := by
  delta discoverMsg
  extract_lets x0 x1 x2 x3 x4 x5 x6 x7
  have h6 : Keeps s₀ x6 := by
    try subst x6
    repeat' first
      | with_reducible assumption | intro _
      | (with_reducible first | apply keep_when_ | apply keep_modFab | apply keep_ctlOn | apply keep_forEach | apply keep_ite | apply keep_ite1 | apply keep_ite2 | apply keep_ite3)
      | split
  have h7 : Keeps s₀ x7 := by
    try subst x7
    repeat' first
      | with_reducible assumption | intro _
      | (with_reducible first | apply keep_when_ | apply keep_modFab | apply keep_ctlOn | apply keep_forEach | apply keep_ite | apply keep_ite1 | apply keep_ite2 | apply keep_ite3)
      | split
  try clear_value x7; try clear_value x6; try clear_value x5; try clear_value x4; try clear_value x3; try clear_value x2; try clear_value x1; try clear_value x0
  repeat' first
    | with_reducible assumption | intro _
    | (with_reducible first | apply keep_when_ | apply keep_modFab | apply keep_ctlOn | apply keep_forEach | apply keep_ite | apply keep_ite1 | apply keep_ite2 | apply keep_ite3)
    | split

theorem keep_execDiscover {a0 a1 a2} {t} (h : Keeps s₀ a2) (e : execDiscover a0 a1 a2 = .next t) : Keeps s₀ t := by
  delta execDiscover at e
  refine keep_run e ?_
  clear e
  repeat' first
    | with_reducible assumption | intro _
    | (with_reducible first | apply keep_discoverMsg)

theorem keep_reportMsg {a0 a1} (h : Keeps s₀ a1) : Keeps s₀ (reportMsg a0 a1) := by
  delta reportMsg
  extract_lets x0 x1 x2 x3 x4
  try clear_value x4; try clear_value x3; try clear_value x2; try clear_value x1; try clear_value x0
  repeat' first
    | with_reducible assumption | intro _
    | (with_reducible first | apply keep_modFab | apply keep_ite | apply keep_ite1 | apply keep_ite2 | apply keep_ite3)
    | split

theorem keep_execReport {a0 a1} {t} (h : Keeps s₀ a1) (e : execReport a0 a1 = .next t) : Keeps s₀ t := by
  delta execReport at e
  refine keep_run e ?_
  clear e
  repeat' first
    | with_reducible assumption | intro _
    | (with_reducible first | apply keep_reportMsg)

theorem keep_discoveryComplete {a0} (h : Keeps s₀ a0) : Keeps s₀ (discoveryComplete a0) := by
  delta discoveryComplete
  extract_lets x0 x1 x2 x3 x4 x5
  have h4 : Keeps s₀ x4 := by
    try subst x4
    repeat' first
      | with_reducible assumption | intro _
      | (with_reducible first | apply keep_logC | apply keep_setBit | apply keep_modFab | apply keep_wr | apply keep_forEach | apply keep_ctlToChip | apply keep_ite)
      | extract_lets | split
      | refine keep_eq2 (by with_reducible assumption) ?_ | refine keep_eq1 (by with_reducible assumption) ?_
  have h5 : Keeps s₀ x5 := by
    try subst x5
    repeat' first
      | with_reducible assumption | intro _
      | (with_reducible first | apply keep_logC | apply keep_setBit | apply keep_modFab | apply keep_wr | apply keep_forEach | apply keep_ctlToChip | apply keep_ite)
      | extract_lets | split
      | refine keep_eq2 (by with_reducible assumption) ?_ | refine keep_eq1 (by with_reducible assumption) ?_
  try clear_value x5; try clear_value x4; try clear_value x3; try clear_value x2; try clear_value x1; try clear_value x0
  repeat' first
    | with_reducible assumption | intro _
    | (with_reducible first | apply keep_logC | apply keep_setBit | apply keep_modFab | apply keep_wr | apply keep_forEach | apply keep_ctlToChip | apply keep_ite)
    | extract_lets | split
    | refine keep_eq2 (by with_reducible assumption) ?_ | refine keep_eq1 (by with_reducible assumption) ?_

theorem keep_execDiscoveryComplete {a0} {t} (h : Keeps s₀ a0) (e : execDiscoveryComplete a0 = .next t) : Keeps s₀ t := by
  delta execDiscoveryComplete at e
  refine keep_run e ?_
  clear e
  repeat' first
    | with_reducible assumption | intro _
    | (with_reducible first | apply keep_discoveryComplete)

theorem keep_assignMsg {a0 a1 a2} (h : Keeps s₀ a2) : Keeps s₀ (assignMsg a0 a1 a2) := by
  delta assignMsg
  extract_lets x0
  try clear_value x0
  repeat' first
    | with_reducible assumption | intro _
    | (with_reducible first | apply keep_modFab | apply keep_ite)
    | split

theorem keep_execAssign {a0 a1 a2} {t} (h : Keeps s₀ a2) (e : execAssign a0 a1 a2 = .next t) : Keeps s₀ t := by
  delta execAssign at e
  refine keep_run e ?_
  clear e
  repeat' first
    | with_reducible assumption | intro _
    | (with_reducible first | apply keep_assignMsg)

theorem keep_rejoinMsg {a0 a1} (h : Keeps s₀ a1) : Keeps s₀ (rejoinMsg a0 a1) := by
  delta rejoinMsg
  extract_lets x0 x1 x2 x3 x4 x5 x6
  have h3 : Keeps s₀ x3 := by
    try subst x3
    repeat' first
      | with_reducible assumption | intro _
      | (with_reducible first | apply keep_modFab | apply keep_forEach | apply keep_ctlToChip | apply keep_armEpoch | apply keep_ite | apply keep_ite1 | apply keep_ite2 | apply keep_ite3)
      | split
      | with_reducible refine keep_set ?_ ?_ ?_ ?_ ?_ ?_
      | rfl
      | (with_reducible first | apply memory_put | apply memory_putBytes | apply memory_filter | apply memory_delRange | apply memory_copyRange | apply memory_foldl | apply memory_setRange | apply memory_rowApply | apply memory_unitApply)
      | assumption
  have h5 : Keeps s₀ x5 := by
    try subst x5
    repeat' first
      | with_reducible assumption | intro _
      | (with_reducible first | apply keep_modFab | apply keep_forEach | apply keep_ctlToChip | apply keep_armEpoch | apply keep_ite | apply keep_ite1 | apply keep_ite2 | apply keep_ite3)
      | split
      | with_reducible refine keep_set ?_ ?_ ?_ ?_ ?_ ?_
      | rfl
      | (with_reducible first | apply memory_put | apply memory_putBytes | apply memory_filter | apply memory_delRange | apply memory_copyRange | apply memory_foldl | apply memory_setRange | apply memory_rowApply | apply memory_unitApply)
      | assumption
  have h6 : Keeps s₀ x6 := by
    try subst x6
    repeat' first
      | with_reducible assumption | intro _
      | (with_reducible first | apply keep_modFab | apply keep_forEach | apply keep_ctlToChip | apply keep_armEpoch | apply keep_ite | apply keep_ite1 | apply keep_ite2 | apply keep_ite3)
      | split
      | with_reducible refine keep_set ?_ ?_ ?_ ?_ ?_ ?_
      | rfl
      | (with_reducible first | apply memory_put | apply memory_putBytes | apply memory_filter | apply memory_delRange | apply memory_copyRange | apply memory_foldl | apply memory_setRange | apply memory_rowApply | apply memory_unitApply)
      | assumption
  try clear_value x6; try clear_value x5; try clear_value x4; try clear_value x3; try clear_value x2; try clear_value x1; try clear_value x0
  repeat' first
    | with_reducible assumption | intro _
    | (with_reducible first | apply keep_modFab | apply keep_forEach | apply keep_ctlToChip | apply keep_armEpoch | apply keep_ite | apply keep_ite1 | apply keep_ite2 | apply keep_ite3)
    | split
    | with_reducible refine keep_set ?_ ?_ ?_ ?_ ?_ ?_
    | rfl
    | (with_reducible first | apply memory_put | apply memory_putBytes | apply memory_filter | apply memory_delRange | apply memory_copyRange | apply memory_foldl | apply memory_setRange | apply memory_rowApply | apply memory_unitApply)
    | assumption

theorem keep_execRejoin {a0 a1} {t} (h : Keeps s₀ a1) (e : execRejoin a0 a1 = .next t) : Keeps s₀ t := by
  delta execRejoin at e
  refine keep_run e ?_
  clear e
  repeat' first
    | with_reducible assumption | intro _
    | (with_reducible first | apply keep_rejoinMsg)

theorem keep_rejoinSend {a0} (h : Keeps s₀ a0) : Keeps s₀ (rejoinSend a0) := by
  delta rejoinSend
  extract_lets x0 x1 x2 x3 x4 x5
  have h4 : Keeps s₀ x4 := by
    try subst x4
    repeat' first
      | with_reducible assumption | intro _
      | (with_reducible first | apply keep_ctlUp | apply keep_forEach | apply keep_ite | apply keep_ite1 | apply keep_ite2 | apply keep_ite3)
      | split
      | with_reducible refine keep_set ?_ ?_ ?_ ?_ ?_ ?_
      | rfl
      | (with_reducible first | apply memory_put | apply memory_putBytes | apply memory_filter | apply memory_delRange | apply memory_copyRange | apply memory_foldl | apply memory_setRange | apply memory_rowApply | apply memory_unitApply)
      | assumption
  have h5 : Keeps s₀ x5 := by
    try subst x5
    repeat' first
      | with_reducible assumption | intro _
      | (with_reducible first | apply keep_ctlUp | apply keep_forEach | apply keep_ite | apply keep_ite1 | apply keep_ite2 | apply keep_ite3)
      | split
      | with_reducible refine keep_set ?_ ?_ ?_ ?_ ?_ ?_
      | rfl
      | (with_reducible first | apply memory_put | apply memory_putBytes | apply memory_filter | apply memory_delRange | apply memory_copyRange | apply memory_foldl | apply memory_setRange | apply memory_rowApply | apply memory_unitApply)
      | assumption
  try clear_value x5; try clear_value x4; try clear_value x3; try clear_value x2; try clear_value x1; try clear_value x0
  repeat' first
    | with_reducible assumption | intro _
    | (with_reducible first | apply keep_ctlUp | apply keep_forEach | apply keep_ite | apply keep_ite1 | apply keep_ite2 | apply keep_ite3)
    | split
    | with_reducible refine keep_set ?_ ?_ ?_ ?_ ?_ ?_
    | rfl
    | (with_reducible first | apply memory_put | apply memory_putBytes | apply memory_filter | apply memory_delRange | apply memory_copyRange | apply memory_foldl | apply memory_setRange | apply memory_rowApply | apply memory_unitApply)
    | assumption

theorem keep_execRejoinSend {a0} {t} (h : Keeps s₀ a0) (e : execRejoinSend a0 = .next t) : Keeps s₀ t := by
  delta execRejoinSend at e
  refine keep_run e ?_
  clear e
  repeat' first
    | with_reducible assumption | intro _
    | (with_reducible first | apply keep_rejoinSend)

theorem keep_execUnassignedChipSeen {a0 a1 a2} {t} (h : Keeps s₀ a2) (e : execUnassignedChipSeen a0 a1 a2 = .next t) : Keeps s₀ t := by
  delta execUnassignedChipSeen at e
  refine keep_run e ?_
  clear e
  repeat' first
    | with_reducible assumption | intro _
    | (with_reducible first | apply keep_ctlToChip | apply keep_ite)
    | extract_lets | split
    | refine keep_eq2 (by with_reducible assumption) ?_ | refine keep_eq1 (by with_reducible assumption) ?_

theorem keep_dropAisleItems {a0 a1} (h : Keeps s₀ a1) : Keeps s₀ (dropAisleItems a0 a1) := by
  delta dropAisleItems
  extract_lets x0 x1
  have h1 : Keeps s₀ x1 := by
    try subst x1
    repeat' first
      | with_reducible assumption | intro _
      | (with_reducible first | apply keep_forEach | apply keep_freeItem | apply keep_modWks | apply keep_ite | apply keep_ite1 | apply keep_ite2 | apply keep_ite3)
      | split
  try clear_value x1; try clear_value x0
  repeat' first
    | with_reducible assumption | intro _
    | (with_reducible first | apply keep_forEach | apply keep_freeItem | apply keep_modWks | apply keep_ite | apply keep_ite1 | apply keep_ite2 | apply keep_ite3)
    | split

theorem keep_freeShadow {a0 a1} (h : Keeps s₀ a1) : Keeps s₀ (freeShadow a0 a1) := by
  delta freeShadow
  extract_lets x0
  have h0 : Keeps s₀ x0 := by
    try subst x0
    repeat' first
      | with_reducible assumption | intro _
      | (with_reducible first | apply keep_releasePages | apply keep_bumpGen)
      | with_reducible refine keep_set ?_ ?_ ?_ ?_ ?_ ?_
      | rfl
      | (with_reducible first | apply memory_put | apply memory_putBytes | apply memory_filter | apply memory_delRange | apply memory_copyRange | apply memory_foldl | apply memory_setRange | apply memory_rowApply | apply memory_unitApply)
      | assumption
  try clear_value x0
  repeat' first
    | with_reducible assumption | intro _
    | (with_reducible first | apply keep_releasePages | apply keep_bumpGen)
    | with_reducible refine keep_set ?_ ?_ ?_ ?_ ?_ ?_
    | rfl
    | (with_reducible first | apply memory_put | apply memory_putBytes | apply memory_filter | apply memory_delRange | apply memory_copyRange | apply memory_foldl | apply memory_setRange | apply memory_rowApply | apply memory_unitApply)
    | assumption

theorem keep_resetAisle {a0 a1} (h : Keeps s₀ a1) : Keeps s₀ (resetAisle a0 a1) := by
  delta resetAisle
  repeat' first
    | with_reducible assumption | intro _
    | (with_reducible first | apply keep_forEach | apply keep_endReq)

theorem keep_stallResetMsg {a0 a1} (h : Keeps s₀ a1) : Keeps s₀ (stallResetMsg a0 a1) := by
  delta stallResetMsg
  extract_lets x0 x1 x2 x3 x4 x5 x6
  have h4 : Keeps s₀ x4 := by
    try subst x4
    repeat' first
      | with_reducible assumption | intro _
      | (with_reducible first | apply keep_dropAisleItems | apply keep_resetAisle | apply keep_forEach | apply keep_freeShadow | apply keep_ite | apply keep_ite1 | apply keep_ite2 | apply keep_ite3)
      | split
      | with_reducible refine keep_set ?_ ?_ ?_ ?_ ?_ ?_
      | rfl
      | (with_reducible first | apply memory_put | apply memory_putBytes | apply memory_filter | apply memory_delRange | apply memory_copyRange | apply memory_foldl | apply memory_setRange | apply memory_rowApply | apply memory_unitApply)
      | assumption
  have h6 : Keeps s₀ x6 := by
    try subst x6
    repeat' first
      | with_reducible assumption | intro _
      | (with_reducible first | apply keep_dropAisleItems | apply keep_resetAisle | apply keep_forEach | apply keep_freeShadow | apply keep_ite | apply keep_ite1 | apply keep_ite2 | apply keep_ite3)
      | split
      | with_reducible refine keep_set ?_ ?_ ?_ ?_ ?_ ?_
      | rfl
      | (with_reducible first | apply memory_put | apply memory_putBytes | apply memory_filter | apply memory_delRange | apply memory_copyRange | apply memory_foldl | apply memory_setRange | apply memory_rowApply | apply memory_unitApply)
      | assumption
  try clear_value x6; try clear_value x5; try clear_value x4; try clear_value x3; try clear_value x2; try clear_value x1; try clear_value x0
  repeat' first
    | with_reducible assumption | intro _
    | (with_reducible first | apply keep_dropAisleItems | apply keep_resetAisle | apply keep_forEach | apply keep_freeShadow | apply keep_ite | apply keep_ite1 | apply keep_ite2 | apply keep_ite3)
    | split
    | with_reducible refine keep_set ?_ ?_ ?_ ?_ ?_ ?_
    | rfl
    | (with_reducible first | apply memory_put | apply memory_putBytes | apply memory_filter | apply memory_delRange | apply memory_copyRange | apply memory_foldl | apply memory_setRange | apply memory_rowApply | apply memory_unitApply)
    | assumption

theorem keep_execStallReset {a0 a1} {t} (h : Keeps s₀ a1) (e : execStallReset a0 a1 = .next t) : Keeps s₀ t := by
  delta execStallReset at e
  refine keep_run e ?_
  clear e
  repeat' first
    | with_reducible assumption | intro _
    | (with_reducible first | apply keep_stallResetMsg)

/-! ### ResetOps -/

theorem keep_modRst {a0 a1} (h : Keeps s₀ a1) : Keeps s₀ (modRst a0 a1) := by
  delta modRst
  repeat' first
    | with_reducible assumption | intro _
    | with_reducible refine keep_set ?_ ?_ ?_ ?_ ?_ ?_
    | rfl
    | assumption

/-- A reset's clearing of register fields keeps the registers in canonical form. -/
theorem keep_clearRegs {a b s} (h : Keeps s₀ s) : Keeps s₀ (clearRegs a b s) := by
  refine h.trans ⟨fun m => ⟨?_, m.2⟩, id, id, List.prefix_refl _, ⟨rfl, rfl, rfl⟩, Nat.le_refl _⟩
  have hm := smapWf_iff.1 m.1
  refine smapWf_iff.2 ⟨rising_filterMap hm.1 _ ?_, ?_⟩
  · intro p q hq
    split at hq
    · cases hq; rfl
    · split at hq
      · simp only at hq
        split at hq
        · cases hq
        · cases hq; rfl
      · cases hq; rfl
  · intro p hp
    obtain ⟨q, hq, he⟩ := List.mem_filterMap.1 hp
    split at he
    · cases he; exact hm.2 _ hq
    · split at he
      · simp only at he
        split at he
        · cases he
        · cases he; assumption
      · cases he; exact hm.2 _ hq

theorem keep_powerUp {a0 a1 a2} (h : Keeps s₀ a2) : Keeps s₀ (powerUp a0 a1 a2) := by
  delta powerUp
  repeat' first
    | with_reducible assumption | intro _
    | (with_reducible first | apply keep_forEach | apply keep_setDom)

theorem keep_announceReset {a0 a1} (h : Keeps s₀ a1) : Keeps s₀ (announceReset a0 a1) := by
  delta announceReset
  extract_lets x0 x1 x2 x3
  have h2 : Keeps s₀ x2 := by
    try subst x2
    repeat' first
      | with_reducible assumption | intro _
      | (with_reducible first | apply keep_forEach | apply keep_sendNotice | apply keep_txFlit | apply keep_ite)
      | split
  try clear_value x2; try clear_value x1; try clear_value x0
  repeat' first
    | with_reducible assumption | intro _
    | (with_reducible first | apply keep_forEach | apply keep_sendNotice | apply keep_txFlit | apply keep_ite)
    | split

/-- A pulse cut off returns to lifecycle words that are legal. -/
theorem keep_cutPulse {s} (h : Keeps s₀ s) : Keeps s₀ (cutPulse s) := by
  unfold cutPulse
  split
  · exact h
  · rename_i p rest he
    have hmem : ∀ q ∈ p :: rest, q ∈ s.secm.nvOld := fun q hq => List.mem_of_mem_filter (he ▸ hq)
    refine (keep_fresh h).trans ⟨id, id, fun m => ⟨?_, m.2⟩, List.prefix_refl _, ⟨rfl, rfl, rfl⟩, Nat.le_refl _⟩
    simp only
    split
    · exact m.2 p (hmem p (List.mem_cons_self ..))
    · cases rest with
      | nil => exact m.1
      | cons q t => exact m.2 q (hmem q (by simp))

/-- A cold reset empties the log and the memories. -/
theorem keep_coldApply {a s} (h : Keeps s₀ s) : Keeps s₀ (coldApply a s) := by
  unfold coldApply
  refine keep_wr ?_
  have h1 : Keeps s₀ (when_ (bit a 0) cutPulse s) := keep_when_ h (fun _ hs => keep_cutPulse hs)
  generalize when_ (bit a 0) cutPulse s = s1 at h1
  have h2 : Keeps s1 (clearRegs (if bit a 0 = true then .por else .cold) (fun _ => true) s1) := keep_clearRegs (Keeps.refl _)
  generalize clearRegs (if bit a 0 = true then .por else .cold) (fun _ => true) s1 = r at h2
  refine h1.trans ⟨fun m => ⟨(h2.mem m).1, memory_nil, memory_nil, memory_nil⟩, fun _ => ?_, fun m => ⟨m.1, ?_⟩, List.prefix_refl _, ⟨rfl, rfl, rfl⟩, Nat.le_refl _⟩
  · exact ⟨Nat.zero_le _, (by omega : 0 < 2048), rfl, fun p hp => by cases hp⟩
  · intro p hp
    cases hp

theorem keep_freedGens {a0} (h : Keeps s₀ a0) : Keeps s₀ (freedGens a0) := by
  delta freedGens
  extract_lets x0
  have h0 : Keeps s₀ x0 := by
    try subst x0
    repeat' first
      | with_reducible assumption | intro _
      | (with_reducible first | apply keep_forEach | apply keep_bumpGen)
  try clear_value x0
  repeat' first
    | with_reducible assumption | intro _
    | (with_reducible first | apply keep_forEach | apply keep_bumpGen)

theorem keep_pimWarm {a0} (h : Keeps s₀ a0) : Keeps s₀ (pimWarm a0) := by
  delta pimWarm
  extract_lets x0 x1 x2
  have h0 : Keeps s₀ x0 := by
    try subst x0
    repeat' first
      | with_reducible assumption | intro _
      | (with_reducible first | apply keep_forEach | apply keep_wr | apply keep_addWrap | apply keep_logC | apply keep_ite | apply keep_ite1 | apply keep_ite2 | apply keep_ite3)
      | extract_lets | split
      | refine keep_eq2 (by with_reducible assumption) ?_ | refine keep_eq1 (by with_reducible assumption) ?_
      | with_reducible refine keep_set ?_ ?_ ?_ ?_ ?_ ?_
      | rfl
      | assumption
  have h1 : Keeps s₀ x1 := by
    try subst x1
    repeat' first
      | with_reducible assumption | intro _
      | (with_reducible first | apply keep_forEach | apply keep_wr | apply keep_addWrap | apply keep_logC | apply keep_ite | apply keep_ite1 | apply keep_ite2 | apply keep_ite3)
      | extract_lets | split
      | refine keep_eq2 (by with_reducible assumption) ?_ | refine keep_eq1 (by with_reducible assumption) ?_
      | with_reducible refine keep_set ?_ ?_ ?_ ?_ ?_ ?_
      | rfl
      | assumption
  try clear_value x1; try clear_value x0
  repeat' first
    | with_reducible assumption | intro _
    | (with_reducible first | apply keep_forEach | apply keep_wr | apply keep_addWrap | apply keep_logC | apply keep_ite | apply keep_ite1 | apply keep_ite2 | apply keep_ite3)
    | extract_lets | split
    | refine keep_eq2 (by with_reducible assumption) ?_ | refine keep_eq1 (by with_reducible assumption) ?_
    | with_reducible refine keep_set ?_ ?_ ?_ ?_ ?_ ?_
    | rfl
    | assumption

/-- A warm reset clears pond and SRAM; lake and log stay. -/
theorem keep_warmApply {a s} (h : Keeps s₀ s) : Keeps s₀ (warmApply a s) := by
  have h1 : Keeps s₀ (wr rCause (rd (clearRegs .warm (fun _ => true) (freedGens (pimWarm s))) rCause ||| (a % 8192))
      (clearRegs .warm (fun _ => true) (freedGens (pimWarm s)))) :=
    keep_wr (keep_clearRegs (keep_freedGens (keep_pimWarm h)))
  refine h1.trans ⟨fun m => ⟨m.1, memory_nil, m.2.2.1, memory_nil⟩, id, id, List.prefix_refl _, ⟨rfl, rfl, rfl⟩, Nat.le_refl _⟩

theorem keep_beginRelease {a0} (h : Keeps s₀ a0) : Keeps s₀ (beginRelease a0) := by
  delta beginRelease
  extract_lets x0 x1 x2 x3 x4 x5 x6 x7 x8
  have h2 : Keeps s₀ x2 := by
    try subst x2
    repeat' first
      | with_reducible assumption | intro _
      | (with_reducible first | apply keep_modRst | apply keep_when_ | apply keep_logC | apply keep_ite)
      | extract_lets | split
      | refine keep_eq2 (by with_reducible assumption) ?_ | refine keep_eq1 (by with_reducible assumption) ?_
      | with_reducible refine keep_set ?_ ?_ ?_ ?_ ?_ ?_
      | rfl
      | assumption
  have h8 : Keeps s₀ x8 := by
    try subst x8
    repeat' first
      | with_reducible assumption | intro _
      | (with_reducible first | apply keep_modRst | apply keep_when_ | apply keep_logC | apply keep_ite)
      | extract_lets | split
      | refine keep_eq2 (by with_reducible assumption) ?_ | refine keep_eq1 (by with_reducible assumption) ?_
      | with_reducible refine keep_set ?_ ?_ ?_ ?_ ?_ ?_
      | rfl
      | assumption
  try clear_value x8; try clear_value x7; try clear_value x6; try clear_value x5; try clear_value x4; try clear_value x3; try clear_value x2; try clear_value x1; try clear_value x0
  repeat' first
    | with_reducible assumption | intro _
    | (with_reducible first | apply keep_modRst | apply keep_when_ | apply keep_logC | apply keep_ite)
    | extract_lets | split
    | refine keep_eq2 (by with_reducible assumption) ?_ | refine keep_eq1 (by with_reducible assumption) ?_
    | with_reducible refine keep_set ?_ ?_ ?_ ?_ ?_ ?_
    | rfl
    | assumption

theorem keep_applyReset {a0 a1 a2} (h : Keeps s₀ a2) : Keeps s₀ (applyReset a0 a1 a2) := by
  delta applyReset
  extract_lets x0
  have h0 : Keeps s₀ x0 := by
    try subst x0
    repeat' first
      | with_reducible assumption | intro _
      | (with_reducible first | apply keep_coldApply | apply keep_warmApply | apply keep_beginRelease | apply keep_emit | apply keep_ite)
      | split
  try clear_value x0
  repeat' first
    | with_reducible assumption | intro _
    | (with_reducible first | apply keep_coldApply | apply keep_warmApply | apply keep_beginRelease | apply keep_emit | apply keep_ite)
    | split

theorem keep_takeNow {a0 a1} (h : Keeps s₀ a1) : Keeps s₀ (takeNow a0 a1) := by
  delta takeNow
  extract_lets x0 x1 x2 x3
  have h1 : Keeps s₀ x1 := by
    try subst x1
    repeat' first
      | with_reducible assumption | intro _
      | (with_reducible first | apply keep_when_ | apply keep_haltRaise | apply keep_applyReset | apply keep_announceReset | apply keep_logC | apply keep_modRst | apply keep_ite)
      | split
  have h3 : Keeps s₀ x3 := by
    try subst x3
    repeat' first
      | with_reducible assumption | intro _
      | (with_reducible first | apply keep_when_ | apply keep_haltRaise | apply keep_applyReset | apply keep_announceReset | apply keep_logC | apply keep_modRst | apply keep_ite)
      | split
  try clear_value x3; try clear_value x2; try clear_value x1; try clear_value x0
  repeat' first
    | with_reducible assumption | intro _
    | (with_reducible first | apply keep_when_ | apply keep_haltRaise | apply keep_applyReset | apply keep_announceReset | apply keep_logC | apply keep_modRst | apply keep_ite)
    | split

theorem keep_takeHeld {a0 a1} (h : Keeps s₀ a1) : Keeps s₀ (takeHeld a0 a1) := by
  delta takeHeld
  extract_lets x0
  try clear_value x0
  repeat' first
    | with_reducible assumption | intro _
    | (with_reducible first | apply keep_takeNow | apply keep_modRst | apply keep_logC | apply keep_ite)
    | split

theorem keep_takeResets {a0 a1} (h : Keeps s₀ a1) : Keeps s₀ (takeResets a0 a1) := by
  delta takeResets
  extract_lets x0
  have h0 : Keeps s₀ x0 := by
    try subst x0
    repeat' first
      | with_reducible assumption | intro _
      | (with_reducible first | apply keep_modRst | apply keep_takeNow | apply keep_ite)
      | split
  try clear_value x0
  repeat' first
    | with_reducible assumption | intro _
    | (with_reducible first | apply keep_modRst | apply keep_takeNow | apply keep_ite)
    | split

theorem keep_takeReset {a0 a1} (h : Keeps s₀ a1) : Keeps s₀ (takeReset a0 a1) := by
  delta takeReset
  repeat' first
    | with_reducible assumption | intro _
    | (with_reducible first | apply keep_takeResets)

/-! ### Clock -/

theorem keep_modClk {a0 a1} (h : Keeps s₀ a1) : Keeps s₀ (modClk a0 a1) := by
  delta modClk
  repeat' first
    | with_reducible assumption | intro _
    | with_reducible refine keep_set ?_ ?_ ?_ ?_ ?_ ?_
    | rfl
    | assumption

theorem keep_retryArm {a0} (h : Keeps s₀ a0) : Keeps s₀ (retryArm a0) := by
  delta retryArm
  repeat' first
    | with_reducible assumption | intro _
    | (with_reducible first | apply keep_armEpoch | apply keep_ite)
    | extract_lets | split
    | refine keep_eq2 (by with_reducible assumption) ?_ | refine keep_eq1 (by with_reducible assumption) ?_

theorem keep_clkChange {a0 a1} (h : Keeps s₀ a1) : Keeps s₀ (clkChange a0 a1) := by
  delta clkChange
  extract_lets x0
  have h0 : Keeps s₀ x0 := by
    try subst x0
    repeat' first
      | with_reducible assumption | intro _
      | (with_reducible first | apply keep_modClk | apply keep_retryArm | apply keep_advertise | apply keep_ite)
      | split
  try clear_value x0
  repeat' first
    | with_reducible assumption | intro _
    | (with_reducible first | apply keep_modClk | apply keep_retryArm | apply keep_advertise | apply keep_ite)
    | split

theorem keep_clkStatusMsg {a0 a1 a2} (h : Keeps s₀ a2) : Keeps s₀ (clkStatusMsg a0 a1 a2) := by
  delta clkStatusMsg
  extract_lets x0 x1 x2 x3 x4
  have h1 : Keeps s₀ x1 := by
    try subst x1
    repeat' first
      | with_reducible assumption | intro _
      | (with_reducible first | apply keep_modLink | apply keep_rechoose | apply keep_when_ | apply keep_clkChange | apply keep_retryArm)
  have h2 : Keeps s₀ x2 := by
    try subst x2
    repeat' first
      | with_reducible assumption | intro _
      | (with_reducible first | apply keep_modLink | apply keep_rechoose | apply keep_when_ | apply keep_clkChange | apply keep_retryArm)
  have h4 : Keeps s₀ x4 := by
    try subst x4
    repeat' first
      | with_reducible assumption | intro _
      | (with_reducible first | apply keep_modLink | apply keep_rechoose | apply keep_when_ | apply keep_clkChange | apply keep_retryArm)
  try clear_value x4; try clear_value x3; try clear_value x2; try clear_value x1; try clear_value x0
  repeat' first
    | with_reducible assumption | intro _
    | (with_reducible first | apply keep_modLink | apply keep_rechoose | apply keep_when_ | apply keep_clkChange | apply keep_retryArm)

theorem keep_execClkStatus {a0 a1 a2} {t} (h : Keeps s₀ a2) (e : execClkStatus a0 a1 a2 = .next t) : Keeps s₀ t := by
  delta execClkStatus at e
  refine keep_run e ?_
  clear e
  repeat' first
    | with_reducible assumption | intro _
    | (with_reducible first | apply keep_clkStatusMsg)

theorem keep_ftReqMsg {a0 a1} (h : Keeps s₀ a1) : Keeps s₀ (ftReqMsg a0 a1) := by
  delta ftReqMsg
  extract_lets x0
  have h0 : Keeps s₀ x0 := by
    try subst x0
    repeat' first
      | with_reducible assumption | intro _
      | (with_reducible first | apply keep_ctlLink | apply keep_when_ | apply keep_sendCheck)
  try clear_value x0
  repeat' first
    | with_reducible assumption | intro _
    | (with_reducible first | apply keep_ctlLink | apply keep_when_ | apply keep_sendCheck)

theorem keep_execFtReq {a0 a1} {t} (h : Keeps s₀ a1) (e : execFtReq a0 a1 = .next t) : Keeps s₀ t := by
  delta execFtReq at e
  refine keep_run e ?_
  clear e
  repeat' first
    | with_reducible assumption | intro _
    | (with_reducible first | apply keep_ftReqMsg)

theorem keep_sendChecks {a0} (h : Keeps s₀ a0) : Keeps s₀ (sendChecks a0) := by
  delta sendChecks
  repeat' first
    | with_reducible assumption | intro _
    | (with_reducible first | apply keep_forEach | apply keep_sendCheck)

theorem keep_ftSetMsg {a0 a1 a2 a3} (h : Keeps s₀ a3) : Keeps s₀ (ftSetMsg a0 a1 a2 a3) := by
  delta ftSetMsg
  extract_lets x0 x1 x2 x3 x4 x5 x6 x7
  have h5 : Keeps s₀ x5 := by
    try subst x5
    repeat' first
      | with_reducible assumption | intro _
      | (with_reducible first | apply keep_logC | apply keep_modClk | apply keep_sendChecks | apply keep_takeReset | apply keep_clkChange | apply keep_ite)
      | split
      | with_reducible refine keep_set ?_ ?_ ?_ ?_ ?_ ?_
      | rfl
      | assumption
  have h7 : Keeps s₀ x7 := by
    try subst x7
    repeat' first
      | with_reducible assumption | intro _
      | (with_reducible first | apply keep_logC | apply keep_modClk | apply keep_sendChecks | apply keep_takeReset | apply keep_clkChange | apply keep_ite)
      | split
      | with_reducible refine keep_set ?_ ?_ ?_ ?_ ?_ ?_
      | rfl
      | assumption
  try clear_value x7; try clear_value x6; try clear_value x5; try clear_value x4; try clear_value x3; try clear_value x2; try clear_value x1; try clear_value x0
  repeat' first
    | with_reducible assumption | intro _
    | (with_reducible first | apply keep_logC | apply keep_modClk | apply keep_sendChecks | apply keep_takeReset | apply keep_clkChange | apply keep_ite)
    | split
    | with_reducible refine keep_set ?_ ?_ ?_ ?_ ?_ ?_
    | rfl
    | assumption

theorem keep_execFtSet {a0 a1 a2 a3} {t} (h : Keeps s₀ a3) (e : execFtSet a0 a1 a2 a3 = .next t) : Keeps s₀ t := by
  delta execFtSet at e
  refine keep_run e ?_
  clear e
  repeat' first
    | with_reducible assumption | intro _
    | (with_reducible first | apply keep_ftSetMsg)

theorem keep_ftCheckMsg {a0 a1 a2} (h : Keeps s₀ a2) : Keeps s₀ (ftCheckMsg a0 a1 a2) := by
  delta ftCheckMsg
  extract_lets x0 x1 x2 x3 x4 x5
  have h3 : Keeps s₀ x3 := by
    try subst x3
    repeat' first
      | with_reducible assumption | intro _
      | (with_reducible first | apply keep_wr | apply keep_sendCheck | apply keep_modLink | apply keep_logC | apply keep_modClk | apply keep_ite)
      | split
  have h4 : Keeps s₀ x4 := by
    try subst x4
    repeat' first
      | with_reducible assumption | intro _
      | (with_reducible first | apply keep_wr | apply keep_sendCheck | apply keep_modLink | apply keep_logC | apply keep_modClk | apply keep_ite)
      | split
  try clear_value x5; try clear_value x4; try clear_value x3; try clear_value x2; try clear_value x1; try clear_value x0
  repeat' first
    | with_reducible assumption | intro _
    | (with_reducible first | apply keep_wr | apply keep_sendCheck | apply keep_modLink | apply keep_logC | apply keep_modClk | apply keep_ite)
    | split

theorem keep_execFtCheck {a0 a1 a2} {t} (h : Keeps s₀ a2) (e : execFtCheck a0 a1 a2 = .next t) : Keeps s₀ t := by
  delta execFtCheck at e
  refine keep_run e ?_
  clear e
  repeat' first
    | with_reducible assumption | intro _
    | (with_reducible first | apply keep_ftCheckMsg)

theorem keep_clockLocked {a0} (h : Keeps s₀ a0) : Keeps s₀ (clockLocked a0) := by
  delta clockLocked
  repeat' first
    | with_reducible assumption | intro _
    | (with_reducible first | apply keep_clkChange | apply keep_ctlLink | apply keep_ite)
    | extract_lets | split
    | refine keep_eq2 (by with_reducible assumption) ?_ | refine keep_eq1 (by with_reducible assumption) ?_

theorem keep_execClockLocked {a0} {t} (h : Keeps s₀ a0) (e : execClockLocked a0 = .next t) : Keeps s₀ t := by
  delta execClockLocked at e
  refine keep_run e ?_
  clear e
  repeat' first
    | with_reducible assumption | intro _
    | (with_reducible first | apply keep_clockLocked)

theorem keep_execUpstreamClockDepart {a0} {t} (h : Keeps s₀ a0) (e : execUpstreamClockDepart a0 = .next t) : Keeps s₀ t := by
  delta execUpstreamClockDepart at e
  refine keep_run e ?_
  clear e
  repeat' first
    | with_reducible assumption | intro _
    | (with_reducible first | apply keep_enterHoldover | apply keep_ite)
    | split

theorem keep_holdoverSwitch {a0} (h : Keeps s₀ a0) : Keeps s₀ (holdoverSwitch a0) := by
  delta holdoverSwitch
  extract_lets x0
  try clear_value x0
  repeat' first
    | with_reducible assumption | intro _
    | (with_reducible first | apply keep_clkChange | apply keep_logC | apply keep_rechoose | apply keep_ctlLink | apply keep_ite)
    | extract_lets | split
    | refine keep_eq2 (by with_reducible assumption) ?_ | refine keep_eq1 (by with_reducible assumption) ?_

theorem keep_execHoldoverSwitch {a0} {t} (h : Keeps s₀ a0) (e : execHoldoverSwitch a0 = .next t) : Keeps s₀ t := by
  delta execHoldoverSwitch at e
  refine keep_run e ?_
  clear e
  repeat' first
    | with_reducible assumption | intro _
    | (with_reducible first | apply keep_holdoverSwitch)

theorem keep_execHoldoverTimeout {a0} {t} (h : Keeps s₀ a0) (e : execHoldoverTimeout a0 = .next t) : Keeps s₀ t := by
  delta execHoldoverTimeout at e
  refine keep_run e ?_
  clear e
  repeat' first
    | with_reducible assumption | intro _
    | (with_reducible first | apply keep_takeReset | apply keep_logC | apply keep_modClk | apply keep_ite)
    | split

theorem keep_execHaltHoldExpire {a0} {t} (h : Keeps s₀ a0) (e : execHaltHoldExpire a0 = .next t) : Keeps s₀ t := by
  delta execHaltHoldExpire at e
  refine keep_run e ?_
  clear e
  repeat' first
    | with_reducible assumption | intro _
    | (with_reducible first | apply keep_haltRaise | apply keep_modClk | apply keep_ite)
    | split

theorem keep_execRefclkLoss {a0} {t} (h : Keeps s₀ a0) (e : execRefclkLoss a0 = .next t) : Keeps s₀ t := by
  delta execRefclkLoss at e
  refine keep_run e ?_
  clear e
  repeat' first
    | with_reducible assumption | intro _
    | (with_reducible first | apply keep_modClk | apply keep_enterHoldover | apply keep_ite)
    | split

theorem keep_refclkReturn {a0} (h : Keeps s₀ a0) : Keeps s₀ (refclkReturn a0) := by
  delta refclkReturn
  extract_lets x0
  have h0 : Keeps s₀ x0 := by
    try subst x0
    repeat' first
      | with_reducible assumption | intro _
      | (with_reducible first | apply keep_modClk | apply keep_logC | apply keep_clkChange | apply keep_ite)
      | split
  try clear_value x0
  repeat' first
    | with_reducible assumption | intro _
    | (with_reducible first | apply keep_modClk | apply keep_logC | apply keep_clkChange | apply keep_ite)
    | split

theorem keep_execRefclkReturn {a0} {t} (h : Keeps s₀ a0) (e : execRefclkReturn a0 = .next t) : Keeps s₀ t := by
  delta execRefclkReturn at e
  refine keep_run e ?_
  clear e
  repeat' first
    | with_reducible assumption | intro _
    | (with_reducible first | apply keep_refclkReturn)

theorem keep_slewStep {a0} (h : Keeps s₀ a0) : Keeps s₀ (slewStep a0) := by
  delta slewStep
  extract_lets x0 x1 x2
  try clear_value x2; try clear_value x1; try clear_value x0
  repeat' first
    | with_reducible assumption | intro _
    | (with_reducible first | apply keep_clkChange | apply keep_ite)
    | split
    | with_reducible refine keep_set ?_ ?_ ?_ ?_ ?_ ?_
    | rfl
    | assumption

theorem keep_execSlewStep {a0} {t} (h : Keeps s₀ a0) (e : execSlewStep a0 = .next t) : Keeps s₀ t := by
  delta execSlewStep at e
  refine keep_run e ?_
  clear e
  repeat' first
    | with_reducible assumption | intro _
    | (with_reducible first | apply keep_slewStep)

/-! ### Work -/

theorem keep_modCore {a0 a1 a2} (h : Keeps s₀ a2) : Keeps s₀ (modCore a0 a1 a2) := by
  delta modCore
  repeat' first
    | with_reducible assumption | intro _
    | (with_reducible first | apply keep_modWks)

theorem keep_setMap {a0 a1 a2} (h : Keeps s₀ a2) : Keeps s₀ (setMap a0 a1 a2) := by
  delta setMap
  repeat' first
    | with_reducible assumption | intro _
    | (with_reducible first | apply keep_modWks)
    | extract_lets | split
    | refine keep_eq2 (by with_reducible assumption) ?_ | refine keep_eq1 (by with_reducible assumption) ?_

theorem keep_dispatch {a0 a1 a2} (h : Keeps s₀ a2) : Keeps s₀ (dispatch a0 a1 a2) := by
  delta dispatch
  extract_lets x0 x1 x2 x3 x4 x5
  have h3 : Keeps s₀ x3 := by
    try subst x3
    repeat' first
      | with_reducible assumption | intro _
      | (with_reducible first | apply keep_when_ | apply keep_bumpSat | apply keep_touch | apply keep_modItem | apply keep_modCore | apply keep_ite)
      | extract_lets | split
      | refine keep_eq2 (by with_reducible assumption) ?_ | refine keep_eq1 (by with_reducible assumption) ?_
  have h4 : Keeps s₀ x4 := by
    try subst x4
    repeat' first
      | with_reducible assumption | intro _
      | (with_reducible first | apply keep_when_ | apply keep_bumpSat | apply keep_touch | apply keep_modItem | apply keep_modCore | apply keep_ite)
      | extract_lets | split
      | refine keep_eq2 (by with_reducible assumption) ?_ | refine keep_eq1 (by with_reducible assumption) ?_
  have h5 : Keeps s₀ x5 := by
    try subst x5
    repeat' first
      | with_reducible assumption | intro _
      | (with_reducible first | apply keep_when_ | apply keep_bumpSat | apply keep_touch | apply keep_modItem | apply keep_modCore | apply keep_ite)
      | extract_lets | split
      | refine keep_eq2 (by with_reducible assumption) ?_ | refine keep_eq1 (by with_reducible assumption) ?_
  try clear_value x5; try clear_value x4; try clear_value x3; try clear_value x2; try clear_value x1; try clear_value x0
  repeat' first
    | with_reducible assumption | intro _
    | (with_reducible first | apply keep_when_ | apply keep_bumpSat | apply keep_touch | apply keep_modItem | apply keep_modCore | apply keep_ite)
    | extract_lets | split
    | refine keep_eq2 (by with_reducible assumption) ?_ | refine keep_eq1 (by with_reducible assumption) ?_

theorem keep_coreFaultReq {a0 a1} (h : Keeps s₀ a1) : Keeps s₀ (coreFaultReq a0 a1) := by
  delta coreFaultReq
  extract_lets x0 x1
  have h0 : Keeps s₀ x0 := by
    try subst x0
    repeat' first
      | with_reducible assumption | intro _
      | (with_reducible first | apply keep_maskHere | apply keep_maskReq | apply keep_when_ | apply keep_finishPend | apply keep_toDraining | apply keep_ite)
      | split
  have h1 : Keeps s₀ x1 := by
    try subst x1
    repeat' first
      | with_reducible assumption | intro _
      | (with_reducible first | apply keep_maskHere | apply keep_maskReq | apply keep_when_ | apply keep_finishPend | apply keep_toDraining | apply keep_ite)
      | split
  try clear_value x1; try clear_value x0
  repeat' first
    | with_reducible assumption | intro _
    | (with_reducible first | apply keep_maskHere | apply keep_maskReq | apply keep_when_ | apply keep_finishPend | apply keep_toDraining | apply keep_ite)
    | split

theorem keep_endItemRows {a0 a1} (h : Keeps s₀ a1) : Keeps s₀ (endItemRows a0 a1) := by
  delta endItemRows
  extract_lets x0 x1
  try clear_value x1; try clear_value x0
  repeat' first
    | with_reducible assumption | intro _
    | (with_reducible first | apply keep_forEach | apply keep_coreFaultReq | apply keep_dropItem | apply keep_ite)
    | split

theorem keep_readyItem {a0 a1} (h : Keeps s₀ a1) : Keeps s₀ (readyItem a0 a1) := by
  delta readyItem
  extract_lets x0 x1
  have h1 : Keeps s₀ x1 := by
    try subst x1
    repeat' first
      | with_reducible assumption | intro _
      | (with_reducible first | apply keep_dropItem | apply keep_endItemRows | apply keep_dispatch | apply keep_modItem | apply keep_modWks | apply keep_ite)
      | extract_lets | split
      | refine keep_eq2 (by with_reducible assumption) ?_ | refine keep_eq1 (by with_reducible assumption) ?_
  try clear_value x1; try clear_value x0
  repeat' first
    | with_reducible assumption | intro _
    | (with_reducible first | apply keep_dropItem | apply keep_endItemRows | apply keep_dispatch | apply keep_modItem | apply keep_modWks | apply keep_ite)
    | extract_lets | split
    | refine keep_eq2 (by with_reducible assumption) ?_ | refine keep_eq1 (by with_reducible assumption) ?_

theorem keep_coreIdle {a0 a1} (h : Keeps s₀ a1) : Keeps s₀ (coreIdle a0 a1) := by
  delta coreIdle
  repeat' first
    | with_reducible assumption | intro _
    | (with_reducible first | apply keep_dropItem | apply keep_dispatch | apply keep_ite)
    | extract_lets | split
    | refine keep_eq2 (by with_reducible assumption) ?_ | refine keep_eq1 (by with_reducible assumption) ?_

theorem keep_placeItem {a0 a1} (h : Keeps s₀ a1) : Keeps s₀ (placeItem a0 a1).2 := by
  delta placeItem
  repeat' first
    | with_reducible assumption | intro _
    | (with_reducible first | apply keep_setItem)
    | extract_lets | split
    | refine keep_eq2 (by with_reducible assumption) ?_ | refine keep_eq1 (by with_reducible assumption) ?_

theorem keep_placeItems {a0 a1 a2 a3 a4} (h : Keeps s₀ a4) : Keeps s₀ (placeItems a0 a1 a2 a3 a4) := by
  delta placeItems
  repeat' first
    | with_reducible assumption | intro _
    | (with_reducible first | apply keep_forEach | apply keep_placeItem | apply keep_modWks | apply keep_ite | apply keep_ite1 | apply keep_ite2 | apply keep_ite3)
    | split

theorem keep_unhold {a0 a1 a2 a3} (h : Keeps s₀ a3) : Keeps s₀ (unhold a0 a1 a2 a3) := by
  delta unhold
  extract_lets x0
  repeat' first
    | with_reducible assumption | intro _
    | (with_reducible first | apply keep_modWks | apply keep_ite | apply keep_ite1 | apply keep_ite2 | apply keep_ite3)
    | split

theorem keep_actBytes {a0 a1} (h : Keeps s₀ a0) : Keeps s₀ (actBytes a0 a1).2 := by
  delta actBytes
  extract_lets x0 x1
  have h1 : Keeps s₀ x1.2 := by
    try subst x1
    repeat' first
      | with_reducible assumption | intro _
      | (with_reducible first | apply keep_fresh | apply keep_ite | apply keep_ite1 | apply keep_ite2 | apply keep_ite3)
      | split
  try clear_value x1; try clear_value x0
  repeat' first
    | with_reducible assumption | intro _
    | (with_reducible first | apply keep_fresh | apply keep_ite | apply keep_ite1 | apply keep_ite2 | apply keep_ite3)
    | split

theorem keep_sendActs {a0 a1} (h : Keeps s₀ a1) : Keeps s₀ (sendActs a0 a1) := by
  delta sendActs
  extract_lets x0 x1 x2 x3
  have h2 : Keeps s₀ x2.2 := by
    try subst x2
    repeat' first
      | with_reducible assumption | intro _
      | (with_reducible first | apply keep_actBytes | apply keep_fresh | apply keep_touch | apply keep_issuePW | apply keep_ite | apply keep_ite1 | apply keep_ite2 | apply keep_ite3)
      | extract_lets | split
      | refine keep_eq2 (by with_reducible assumption) ?_ | refine keep_eq1 (by with_reducible assumption) ?_
  have h3 : Keeps s₀ x3.2 := by
    try subst x3
    repeat' first
      | with_reducible assumption | intro _
      | (with_reducible first | apply keep_actBytes | apply keep_fresh | apply keep_touch | apply keep_issuePW | apply keep_ite | apply keep_ite1 | apply keep_ite2 | apply keep_ite3)
      | extract_lets | split
      | refine keep_eq2 (by with_reducible assumption) ?_ | refine keep_eq1 (by with_reducible assumption) ?_
  try clear_value x3; try clear_value x2; try clear_value x1; try clear_value x0
  repeat' first
    | with_reducible assumption | intro _
    | (with_reducible first | apply keep_actBytes | apply keep_fresh | apply keep_touch | apply keep_issuePW | apply keep_ite | apply keep_ite1 | apply keep_ite2 | apply keep_ite3)
    | extract_lets | split
    | refine keep_eq2 (by with_reducible assumption) ?_ | refine keep_eq1 (by with_reducible assumption) ?_

theorem keep_advance {a0 a1 a2} (h : Keeps s₀ a2) : Keeps s₀ (advance a0 a1 a2) := by
  delta advance
  repeat' first
    | with_reducible assumption | intro _
    | (with_reducible first | apply keep_modStep | apply keep_sendActs | apply keep_unhold | apply keep_ite)
    | extract_lets | split
    | refine keep_eq2 (by with_reducible assumption) ?_ | refine keep_eq1 (by with_reducible assumption) ?_

theorem keep_feed {a0 a1 a2} (h : Keeps s₀ a2) : Keeps s₀ (feed a0 a1 a2) := by
  delta feed
  repeat' first
    | with_reducible assumption | intro _
    | (with_reducible first | apply keep_advance | apply keep_unhold | apply keep_modStep)

theorem keep_takeActs {a0 a1} (h : Keeps s₀ a1) : Keeps s₀ (takeActs a0 a1) := by
  delta takeActs
  repeat' first
    | with_reducible assumption | intro _
    | (with_reducible first | apply keep_feed | apply keep_modSide | apply keep_ite | apply keep_ite1 | apply keep_ite2 | apply keep_ite3)
    | extract_lets | split
    | refine keep_eq2 (by with_reducible assumption) ?_ | refine keep_eq1 (by with_reducible assumption) ?_

theorem keep_pwStep {a0 a1 a2} (h : Keeps s₀ a2) : Keeps s₀ (pwStep a0 a1 a2) := by
  delta pwStep
  repeat' first
    | with_reducible assumption | intro _
    | (with_reducible first | apply keep_when_ | apply keep_takeActs | apply keep_pwArrive)

theorem keep_execPw {a0 a1 a2} {t} (h : Keeps s₀ a2) (e : execPw a0 a1 a2 = .next t) : Keeps s₀ t := by
  delta execPw at e
  refine keep_run e ?_
  clear e
  repeat' first
    | with_reducible assumption | intro _
    | (with_reducible first | apply keep_pwStep)

theorem keep_releaseItems {a0 a1 a2} (h : Keeps s₀ a2) : Keeps s₀ (releaseItems a0 a1 a2) := by
  delta releaseItems
  repeat' first
    | with_reducible assumption | intro _
    | (with_reducible first | apply keep_forEach | apply keep_freeItem)

theorem keep_remap {a0 a1} (h : Keeps s₀ a1) : Keeps s₀ (remap a0 a1) := by
  delta remap
  repeat' first
    | with_reducible assumption | intro _
    | (with_reducible first | apply keep_setMap | apply keep_when_ | apply keep_logC)
    | extract_lets | split
    | refine keep_eq2 (by with_reducible assumption) ?_ | refine keep_eq1 (by with_reducible assumption) ?_

theorem keep_repeatItem {a0 a1 a2} (h : Keeps s₀ a2) : Keeps s₀ (repeatItem a0 a1 a2) := by
  delta repeatItem
  extract_lets x0 x1 x2 x3
  have h2 : Keeps s₀ x2 := by
    try subst x2
    repeat' first
      | with_reducible assumption | intro _
      | (with_reducible first | apply keep_advance | apply keep_freeItem | apply keep_dropItem | apply keep_endItemRows | apply keep_modItem | apply keep_readyItem | apply keep_ite)
      | split
      | with_reducible refine keep_set ?_ ?_ ?_ ?_ ?_ ?_
      | rfl
      | assumption
  have h3 : Keeps s₀ x3 := by
    try subst x3
    repeat' first
      | with_reducible assumption | intro _
      | (with_reducible first | apply keep_advance | apply keep_freeItem | apply keep_dropItem | apply keep_endItemRows | apply keep_modItem | apply keep_readyItem | apply keep_ite)
      | split
      | with_reducible refine keep_set ?_ ?_ ?_ ?_ ?_ ?_
      | rfl
      | assumption
  try clear_value x3; try clear_value x2; try clear_value x1; try clear_value x0
  repeat' first
    | with_reducible assumption | intro _
    | (with_reducible first | apply keep_advance | apply keep_freeItem | apply keep_dropItem | apply keep_endItemRows | apply keep_modItem | apply keep_readyItem | apply keep_ite)
    | split
    | with_reducible refine keep_set ?_ ?_ ?_ ?_ ?_ ?_
    | rfl
    | assumption

theorem keep_fenceCore_setItemNone {a0 a1 a2} (h : Keeps s₀ a2) : Keeps s₀ (fenceCore.setItemNone a0 a1 a2) := by
  delta fenceCore.setItemNone
  repeat' first
    | with_reducible assumption | intro _
    | (with_reducible first | apply keep_modCore)

theorem keep_fenceCore {a0 a1 a2} (h : Keeps s₀ a2) : Keeps s₀ (fenceCore a0 a1 a2) := by
  delta fenceCore
  extract_lets x0 x1 x2 x3 x4 x5 x6 x7 x8
  have h2 : Keeps s₀ x2 := by
    try subst x2
    repeat' first
      | with_reducible assumption | intro _
      | (with_reducible first | apply keep_logEv | apply keep_fenceCore_setItemNone | apply keep_remap | apply keep_ccInt | apply keep_devEvent | apply keep_callback | apply keep_repeatItem | apply keep_ite)
      | extract_lets | split
      | refine keep_eq2 (by with_reducible assumption) ?_ | refine keep_eq1 (by with_reducible assumption) ?_
  have h4 : Keeps s₀ x4 := by
    try subst x4
    repeat' first
      | with_reducible assumption | intro _
      | (with_reducible first | apply keep_logEv | apply keep_fenceCore_setItemNone | apply keep_remap | apply keep_ccInt | apply keep_devEvent | apply keep_callback | apply keep_repeatItem | apply keep_ite)
      | extract_lets | split
      | refine keep_eq2 (by with_reducible assumption) ?_ | refine keep_eq1 (by with_reducible assumption) ?_
  have h5 : Keeps s₀ x5 := by
    try subst x5
    repeat' first
      | with_reducible assumption | intro _
      | (with_reducible first | apply keep_logEv | apply keep_fenceCore_setItemNone | apply keep_remap | apply keep_ccInt | apply keep_devEvent | apply keep_callback | apply keep_repeatItem | apply keep_ite)
      | extract_lets | split
      | refine keep_eq2 (by with_reducible assumption) ?_ | refine keep_eq1 (by with_reducible assumption) ?_
  have h6 : Keeps s₀ x6 := by
    try subst x6
    repeat' first
      | with_reducible assumption | intro _
      | (with_reducible first | apply keep_logEv | apply keep_fenceCore_setItemNone | apply keep_remap | apply keep_ccInt | apply keep_devEvent | apply keep_callback | apply keep_repeatItem | apply keep_ite)
      | extract_lets | split
      | refine keep_eq2 (by with_reducible assumption) ?_ | refine keep_eq1 (by with_reducible assumption) ?_
  have h8 : Keeps s₀ x8 := by
    try subst x8
    repeat' first
      | with_reducible assumption | intro _
      | (with_reducible first | apply keep_logEv | apply keep_fenceCore_setItemNone | apply keep_remap | apply keep_ccInt | apply keep_devEvent | apply keep_callback | apply keep_repeatItem | apply keep_ite)
      | extract_lets | split
      | refine keep_eq2 (by with_reducible assumption) ?_ | refine keep_eq1 (by with_reducible assumption) ?_
  try clear_value x8; try clear_value x7; try clear_value x6; try clear_value x5; try clear_value x4; try clear_value x3; try clear_value x2; try clear_value x1; try clear_value x0
  repeat' first
    | with_reducible assumption | intro _
    | (with_reducible first | apply keep_logEv | apply keep_fenceCore_setItemNone | apply keep_remap | apply keep_ccInt | apply keep_devEvent | apply keep_callback | apply keep_repeatItem | apply keep_ite)
    | extract_lets | split
    | refine keep_eq2 (by with_reducible assumption) ?_ | refine keep_eq1 (by with_reducible assumption) ?_

/-! ### Power -/

theorem keep_freePages {a0 a1} (h : Keeps s₀ a1) : Keeps s₀ (freePages a0 a1) := by
  delta freePages
  repeat' first
    | with_reducible assumption | intro _
    | with_reducible refine keep_set ?_ ?_ ?_ ?_ ?_ ?_
    | rfl
    | (with_reducible first | apply memory_put | apply memory_putBytes | apply memory_filter | apply memory_delRange | apply memory_copyRange | apply memory_foldl | apply memory_setRange | apply memory_rowApply | apply memory_unitApply)
    | assumption

theorem keep_linkLoss {a0} (h : Keeps s₀ a0) : Keeps s₀ (linkLoss a0) := by
  delta linkLoss
  repeat' first
    | with_reducible assumption | intro _
    | (with_reducible first | apply keep_modFab)

theorem keep_retLoss {a0 a1} (h : Keeps s₀ a1) : Keeps s₀ (retLoss a0 a1) := by
  delta retLoss
  extract_lets x0
  repeat' first
    | with_reducible assumption | intro _
    | (with_reducible first | apply keep_modWks | apply keep_linkLoss | apply keep_modNmc | apply keep_modSpg | apply keep_ite | apply keep_ite1 | apply keep_ite2 | apply keep_ite3)
    | extract_lets | split
    | refine keep_eq2 (by with_reducible assumption) ?_ | refine keep_eq1 (by with_reducible assumption) ?_
    | with_reducible refine keep_set ?_ ?_ ?_ ?_ ?_ ?_
    | rfl
    | assumption

theorem keep_offLoss {a0 a1} (h : Keeps s₀ a1) : Keeps s₀ (offLoss a0 a1) := by
  delta offLoss
  extract_lets x0 x1 x2 x3 x4 x5
  have h0 : Keeps s₀ x0 := by
    try subst x0
    repeat' first
      | with_reducible assumption | intro _
      | (with_reducible first | apply keep_retLoss | apply keep_clearRegs | apply keep_modWks | apply keep_freePages | apply keep_modFab | apply keep_modNmc | apply keep_modSpg | apply keep_ite | apply keep_ite1 | apply keep_ite2 | apply keep_ite3)
      | extract_lets | split
      | refine keep_eq2 (by with_reducible assumption) ?_ | refine keep_eq1 (by with_reducible assumption) ?_
      | with_reducible refine keep_set ?_ ?_ ?_ ?_ ?_ ?_
      | rfl
      | (with_reducible first | apply memory_put | apply memory_putBytes | apply memory_filter | apply memory_delRange | apply memory_copyRange | apply memory_foldl | apply memory_setRange | apply memory_rowApply | apply memory_unitApply)
      | assumption
  have h2 : Keeps s₀ x2 := by
    try subst x2
    repeat' first
      | with_reducible assumption | intro _
      | (with_reducible first | apply keep_retLoss | apply keep_clearRegs | apply keep_modWks | apply keep_freePages | apply keep_modFab | apply keep_modNmc | apply keep_modSpg | apply keep_ite | apply keep_ite1 | apply keep_ite2 | apply keep_ite3)
      | extract_lets | split
      | refine keep_eq2 (by with_reducible assumption) ?_ | refine keep_eq1 (by with_reducible assumption) ?_
      | with_reducible refine keep_set ?_ ?_ ?_ ?_ ?_ ?_
      | rfl
      | (with_reducible first | apply memory_put | apply memory_putBytes | apply memory_filter | apply memory_delRange | apply memory_copyRange | apply memory_foldl | apply memory_setRange | apply memory_rowApply | apply memory_unitApply)
      | assumption
  have h3 : Keeps s₀ x3 := by
    try subst x3
    repeat' first
      | with_reducible assumption | intro _
      | (with_reducible first | apply keep_retLoss | apply keep_clearRegs | apply keep_modWks | apply keep_freePages | apply keep_modFab | apply keep_modNmc | apply keep_modSpg | apply keep_ite | apply keep_ite1 | apply keep_ite2 | apply keep_ite3)
      | extract_lets | split
      | refine keep_eq2 (by with_reducible assumption) ?_ | refine keep_eq1 (by with_reducible assumption) ?_
      | with_reducible refine keep_set ?_ ?_ ?_ ?_ ?_ ?_
      | rfl
      | (with_reducible first | apply memory_put | apply memory_putBytes | apply memory_filter | apply memory_delRange | apply memory_copyRange | apply memory_foldl | apply memory_setRange | apply memory_rowApply | apply memory_unitApply)
      | assumption
  try clear_value x4; try clear_value x3; try clear_value x2; try clear_value x0
  repeat' first
    | with_reducible assumption | intro _
    | (with_reducible first | apply keep_retLoss | apply keep_clearRegs | apply keep_modWks | apply keep_freePages | apply keep_modFab | apply keep_modNmc | apply keep_modSpg | apply keep_ite | apply keep_ite1 | apply keep_ite2 | apply keep_ite3)
    | extract_lets | split
    | refine keep_eq2 (by with_reducible assumption) ?_ | refine keep_eq1 (by with_reducible assumption) ?_
    | with_reducible refine keep_set ?_ ?_ ?_ ?_ ?_ ?_
    | rfl
    | (with_reducible first | apply memory_put | apply memory_putBytes | apply memory_filter | apply memory_delRange | apply memory_copyRange | apply memory_foldl | apply memory_setRange | apply memory_rowApply | apply memory_unitApply)
    | assumption

theorem keep_settleDom {a0 a1} (h : Keeps s₀ a1) : Keeps s₀ (settleDom a0 a1) := by
  delta settleDom
  extract_lets x0 x1 x2 x3
  have h1 : Keeps s₀ x1 := by
    try subst x1
    repeat' first
      | with_reducible assumption | intro _
      | (with_reducible first | apply keep_modDom | apply keep_startTrans | apply keep_setBit | apply keep_startMove | apply keep_drainAll | apply keep_ite)
      | extract_lets | split
      | refine keep_eq2 (by with_reducible assumption) ?_ | refine keep_eq1 (by with_reducible assumption) ?_
  have h2 : Keeps s₀ x2 := by
    try subst x2
    repeat' first
      | with_reducible assumption | intro _
      | (with_reducible first | apply keep_modDom | apply keep_startTrans | apply keep_setBit | apply keep_startMove | apply keep_drainAll | apply keep_ite)
      | extract_lets | split
      | refine keep_eq2 (by with_reducible assumption) ?_ | refine keep_eq1 (by with_reducible assumption) ?_
  have h3 : Keeps s₀ x3 := by
    try subst x3
    repeat' first
      | with_reducible assumption | intro _
      | (with_reducible first | apply keep_modDom | apply keep_startTrans | apply keep_setBit | apply keep_startMove | apply keep_drainAll | apply keep_ite)
      | extract_lets | split
      | refine keep_eq2 (by with_reducible assumption) ?_ | refine keep_eq1 (by with_reducible assumption) ?_
  try clear_value x3; try clear_value x2; try clear_value x1; try clear_value x0
  repeat' first
    | with_reducible assumption | intro _
    | (with_reducible first | apply keep_modDom | apply keep_startTrans | apply keep_setBit | apply keep_startMove | apply keep_drainAll | apply keep_ite)
    | extract_lets | split
    | refine keep_eq2 (by with_reducible assumption) ?_ | refine keep_eq1 (by with_reducible assumption) ?_

theorem keep_transDone {a0 a1} (h : Keeps s₀ a1) : Keeps s₀ (transDone a0 a1) := by
  delta transDone
  extract_lets x0 x1
  try clear_value x1; try clear_value x0
  repeat' first
    | with_reducible assumption | intro _
    | (with_reducible first | apply keep_modDom | apply keep_retLoss | apply keep_offLoss | apply keep_settleDom | apply keep_ite)
    | extract_lets | split
    | refine keep_eq2 (by with_reducible assumption) ?_ | refine keep_eq1 (by with_reducible assumption) ?_

theorem keep_execPwrTransitionComplete {a0 a1} {t} (h : Keeps s₀ a1) (e : execPwrTransitionComplete a0 a1 = .next t) : Keeps s₀ t := by
  delta execPwrTransitionComplete at e
  refine keep_run e ?_
  clear e
  repeat' first
    | with_reducible assumption | intro _
    | (with_reducible first | apply keep_transDone)

theorem keep_ccReload {a0} (h : Keeps s₀ a0) : Keeps s₀ (ccReload a0) := by
  delta ccReload
  extract_lets x0 x1 x2
  have h2 : Keeps s₀ x2 := by
    try subst x2
    repeat' first
      | with_reducible assumption | intro _
      | (with_reducible first | apply keep_modThread | apply keep_wr | apply keep_forEach | apply keep_callback | apply keep_logC | apply keep_ite | apply keep_ite1 | apply keep_ite2 | apply keep_ite3)
      | extract_lets | split
      | refine keep_eq2 (by with_reducible assumption) ?_ | refine keep_eq1 (by with_reducible assumption) ?_
      | with_reducible refine keep_set ?_ ?_ ?_ ?_ ?_ ?_
      | rfl
      | (with_reducible first | apply memory_put | apply memory_putBytes | apply memory_filter | apply memory_delRange | apply memory_copyRange | apply memory_foldl | apply memory_setRange | apply memory_rowApply | apply memory_unitApply)
      | assumption
  try clear_value x2; try clear_value x0
  repeat' first
    | with_reducible assumption | intro _
    | (with_reducible first | apply keep_modThread | apply keep_wr | apply keep_forEach | apply keep_callback | apply keep_logC | apply keep_ite | apply keep_ite1 | apply keep_ite2 | apply keep_ite3)
    | extract_lets | split
    | refine keep_eq2 (by with_reducible assumption) ?_ | refine keep_eq1 (by with_reducible assumption) ?_
    | with_reducible refine keep_set ?_ ?_ ?_ ?_ ?_ ?_
    | rfl
    | (with_reducible first | apply memory_put | apply memory_putBytes | apply memory_filter | apply memory_delRange | apply memory_copyRange | apply memory_foldl | apply memory_setRange | apply memory_rowApply | apply memory_unitApply)
    | assumption

theorem keep_reloadDone {a0 a1 a2} (h : Keeps s₀ a2) : Keeps s₀ (reloadDone a0 a1 a2) := by
  delta reloadDone
  extract_lets x0 x1
  have h0 : Keeps s₀ x0 := by
    try subst x0
    repeat' first
      | with_reducible assumption | intro _
      | (with_reducible first | apply keep_modDom | apply keep_forEach | apply keep_fenceCore | apply keep_ccReload | apply keep_modFab | apply keep_settleDom | apply keep_ite)
      | extract_lets | split
      | refine keep_eq2 (by with_reducible assumption) ?_ | refine keep_eq1 (by with_reducible assumption) ?_
  have h1 : Keeps s₀ x1 := by
    try subst x1
    repeat' first
      | with_reducible assumption | intro _
      | (with_reducible first | apply keep_modDom | apply keep_forEach | apply keep_fenceCore | apply keep_ccReload | apply keep_modFab | apply keep_settleDom | apply keep_ite)
      | extract_lets | split
      | refine keep_eq2 (by with_reducible assumption) ?_ | refine keep_eq1 (by with_reducible assumption) ?_
  try clear_value x1; try clear_value x0
  repeat' first
    | with_reducible assumption | intro _
    | (with_reducible first | apply keep_modDom | apply keep_forEach | apply keep_fenceCore | apply keep_ccReload | apply keep_modFab | apply keep_settleDom | apply keep_ite)
    | extract_lets | split
    | refine keep_eq2 (by with_reducible assumption) ?_ | refine keep_eq1 (by with_reducible assumption) ?_

theorem keep_execDomainReloadComplete {a0 a1 a2} {t} (h : Keeps s₀ a2) (e : execDomainReloadComplete a0 a1 a2 = .next t) : Keeps s₀ t := by
  delta execDomainReloadComplete at e
  refine keep_run e ?_
  clear e
  repeat' first
    | with_reducible assumption | intro _
    | (with_reducible first | apply keep_reloadDone)

theorem keep_execDomainWake {a0 a1 a2} {t} (h : Keeps s₀ a2) (e : execDomainWake a0 a1 a2 = .next t) : Keeps s₀ t := by
  delta execDomainWake at e
  refine keep_run e ?_
  clear e
  repeat' first
    | with_reducible assumption | intro _
    | (with_reducible first | apply keep_wakeAll | apply keep_wakeDom | apply keep_ite)
    | split

theorem keep_pwrReq {a0 a1} (h : Keeps s₀ a1) : Keeps s₀ (pwrReq a0 a1) := by
  delta pwrReq
  extract_lets x0 x1 x2 x3 x4 x5
  have h1 : Keeps s₀ x1 := by
    try subst x1
    repeat' first
      | with_reducible assumption | intro _
      | (with_reducible first | apply keep_wrf | apply keep_when_ | apply keep_clrBit | apply keep_setBit | apply keep_modDom | apply keep_startMove | apply keep_ite)
      | split
  have h2 : Keeps s₀ x2 := by
    try subst x2
    repeat' first
      | with_reducible assumption | intro _
      | (with_reducible first | apply keep_wrf | apply keep_when_ | apply keep_clrBit | apply keep_setBit | apply keep_modDom | apply keep_startMove | apply keep_ite)
      | split
  try clear_value x5; try clear_value x4; try clear_value x3; try clear_value x2; try clear_value x1; try clear_value x0
  repeat' first
    | with_reducible assumption | intro _
    | (with_reducible first | apply keep_wrf | apply keep_when_ | apply keep_clrBit | apply keep_setBit | apply keep_modDom | apply keep_startMove | apply keep_ite)
    | split

theorem keep_execPwrReq {a0 a1} {t} (h : Keeps s₀ a1) (e : execPwrReq a0 a1 = .next t) : Keeps s₀ t := by
  delta execPwrReq at e
  refine keep_run e ?_
  clear e
  repeat' first
    | with_reducible assumption | intro _
    | (with_reducible first | apply keep_pwrReq)

theorem keep_idleTick {a0 a1} (h : Keeps s₀ a1) : Keeps s₀ (idleTick a0 a1) := by
  delta idleTick
  extract_lets x0
  try clear_value x0
  repeat' first
    | with_reducible assumption | intro _
    | (with_reducible first | apply keep_modDom | apply keep_ite)
    | split

theorem keep_tickBoundary {a0} (h : Keeps s₀ a0) : Keeps s₀ (tickBoundary a0) := by
  delta tickBoundary
  extract_lets x0
  have h0 : Keeps s₀ x0 := by
    try subst x0
    repeat' first
      | with_reducible assumption | intro _
      | (with_reducible first | apply keep_forEach | apply keep_idleTick | apply keep_modWks | apply keep_ite)
      | split
  try clear_value x0
  repeat' first
    | with_reducible assumption | intro _
    | (with_reducible first | apply keep_forEach | apply keep_idleTick | apply keep_modWks | apply keep_ite)
    | split

theorem keep_execTickBoundary {a0} {t} (h : Keeps s₀ a0) (e : execTickBoundary a0 = .next t) : Keeps s₀ t := by
  delta execTickBoundary at e
  refine keep_run e ?_
  clear e
  repeat' first
    | with_reducible assumption | intro _
    | (with_reducible first | apply keep_tickBoundary)

theorem keep_idleExpire {a0 a1} (h : Keeps s₀ a1) : Keeps s₀ (idleExpire a0 a1) := by
  delta idleExpire
  extract_lets x0 x1 x2 x3
  try clear_value x3; try clear_value x2; try clear_value x1; try clear_value x0
  repeat' first
    | with_reducible assumption | intro _
    | (with_reducible first | apply keep_modDom | apply keep_startMove | apply keep_ite)
    | split

theorem keep_execIdleTimerExpire {a0 a1} {t} (h : Keeps s₀ a1) (e : execIdleTimerExpire a0 a1 = .next t) : Keeps s₀ t := by
  delta execIdleTimerExpire at e
  refine keep_run e ?_
  clear e
  repeat' first
    | with_reducible assumption | intro _
    | (with_reducible first | apply keep_idleExpire)

theorem keep_quietDeadlock {a0} (h : Keeps s₀ a0) : Keeps s₀ (quietDeadlock a0) := by
  delta quietDeadlock
  extract_lets x0 x1 x2 x3 x4
  have h2 : Keeps s₀ x2 := by
    try subst x2
    repeat' first
      | with_reducible assumption | intro _
      | (with_reducible first | apply keep_forEach | apply keep_endWait | apply keep_unpark | apply keep_modWks | apply keep_bumpSat | apply keep_logC | apply keep_setBit | apply keep_ite | apply keep_ite1 | apply keep_ite2 | apply keep_ite3)
      | split
  have h3 : Keeps s₀ x3 := by
    try subst x3
    repeat' first
      | with_reducible assumption | intro _
      | (with_reducible first | apply keep_forEach | apply keep_endWait | apply keep_unpark | apply keep_modWks | apply keep_bumpSat | apply keep_logC | apply keep_setBit | apply keep_ite | apply keep_ite1 | apply keep_ite2 | apply keep_ite3)
      | split
  have h4 : Keeps s₀ x4 := by
    try subst x4
    repeat' first
      | with_reducible assumption | intro _
      | (with_reducible first | apply keep_forEach | apply keep_endWait | apply keep_unpark | apply keep_modWks | apply keep_bumpSat | apply keep_logC | apply keep_setBit | apply keep_ite | apply keep_ite1 | apply keep_ite2 | apply keep_ite3)
      | split
  try clear_value x4; try clear_value x3; try clear_value x2; try clear_value x1; try clear_value x0
  repeat' first
    | with_reducible assumption | intro _
    | (with_reducible first | apply keep_forEach | apply keep_endWait | apply keep_unpark | apply keep_modWks | apply keep_bumpSat | apply keep_logC | apply keep_setBit | apply keep_ite | apply keep_ite1 | apply keep_ite2 | apply keep_ite3)
    | split

theorem keep_execQuietDeadlock {a0} {t} (h : Keeps s₀ a0) (e : execQuietDeadlock a0 = .next t) : Keeps s₀ t := by
  delta execQuietDeadlock at e
  refine keep_run e ?_
  clear e
  repeat' first
    | with_reducible assumption | intro _
    | (with_reducible first | apply keep_quietDeadlock)

theorem keep_thermalSample {a0 a1} (h : Keeps s₀ a1) : Keeps s₀ (thermalSample a0 a1) := by
  delta thermalSample
  extract_lets x0 x1 x2 x3 x4 x5 x6 x7 x8
  have h4 : Keeps s₀ x4 := by
    try subst x4
    repeat' first
      | with_reducible assumption | intro _
      | (with_reducible first | apply keep_wrf | apply keep_logC | apply keep_callback | apply keep_ccInt | apply keep_devEvent | apply keep_when_ | apply keep_haltRaise | apply keep_takeReset | apply keep_beginRelease | apply keep_ite | apply keep_foldl)
      | split
  have h5 : Keeps s₀ x5 := by
    try subst x5
    repeat' first
      | with_reducible assumption | intro _
      | (with_reducible first | apply keep_wrf | apply keep_logC | apply keep_callback | apply keep_ccInt | apply keep_devEvent | apply keep_when_ | apply keep_haltRaise | apply keep_takeReset | apply keep_beginRelease | apply keep_ite | apply keep_foldl)
      | split
  have h6 : Keeps s₀ x6 := by
    try subst x6
    repeat' first
      | with_reducible assumption | intro _
      | (with_reducible first | apply keep_wrf | apply keep_logC | apply keep_callback | apply keep_ccInt | apply keep_devEvent | apply keep_when_ | apply keep_haltRaise | apply keep_takeReset | apply keep_beginRelease | apply keep_ite | apply keep_foldl)
      | split
  have h7 : Keeps s₀ x7 := by
    try subst x7
    repeat' first
      | with_reducible assumption | intro _
      | (with_reducible first | apply keep_wrf | apply keep_logC | apply keep_callback | apply keep_ccInt | apply keep_devEvent | apply keep_when_ | apply keep_haltRaise | apply keep_takeReset | apply keep_beginRelease | apply keep_ite | apply keep_foldl)
      | split
  have h8 : Keeps s₀ x8 := by
    try subst x8
    repeat' first
      | with_reducible assumption | intro _
      | (with_reducible first | apply keep_wrf | apply keep_logC | apply keep_callback | apply keep_ccInt | apply keep_devEvent | apply keep_when_ | apply keep_haltRaise | apply keep_takeReset | apply keep_beginRelease | apply keep_ite | apply keep_foldl)
      | split
  try clear_value x8; try clear_value x7; try clear_value x6; try clear_value x5; try clear_value x4; try clear_value x3; try clear_value x2; try clear_value x1; try clear_value x0
  repeat' first
    | with_reducible assumption | intro _
    | (with_reducible first | apply keep_wrf | apply keep_logC | apply keep_callback | apply keep_ccInt | apply keep_devEvent | apply keep_when_ | apply keep_haltRaise | apply keep_takeReset | apply keep_beginRelease | apply keep_ite | apply keep_foldl)
    | split

theorem keep_execThermalSample {a0 a1} {t} (h : Keeps s₀ a1) (e : execThermalSample a0 a1 = .next t) : Keeps s₀ t := by
  delta execThermalSample at e
  refine keep_run e ?_
  clear e
  repeat' first
    | with_reducible assumption | intro _
    | (with_reducible first | apply keep_thermalSample)

/-! ### Timers -/

theorem keep_processList {a0 a1} (h : Keeps s₀ a1) : Keeps s₀ (processList a0 a1) := by
  delta processList
  extract_lets x0 x1 x2 x3 x4 x5 x6
  have h5 : Keeps s₀ x5 := by
    try subst x5
    repeat' first
      | with_reducible assumption | intro _
      | (with_reducible first | apply keep_modDly | apply keep_wr | apply keep_forEach | apply keep_wakeAll | apply keep_ite)
      | split
  have h6 : Keeps s₀ x6 := by
    try subst x6
    repeat' first
      | with_reducible assumption | intro _
      | (with_reducible first | apply keep_modDly | apply keep_wr | apply keep_forEach | apply keep_wakeAll | apply keep_ite)
      | split
  try clear_value x6; try clear_value x5; try clear_value x4; try clear_value x3; try clear_value x2; try clear_value x1; try clear_value x0
  repeat' first
    | with_reducible assumption | intro _
    | (with_reducible first | apply keep_modDly | apply keep_wr | apply keep_forEach | apply keep_wakeAll | apply keep_ite)
    | split

theorem keep_processFw {a0} (h : Keeps s₀ a0) : Keeps s₀ (processFw a0) := by
  delta processFw
  extract_lets x0
  try clear_value x0
  repeat' first
    | with_reducible assumption | intro _
    | (with_reducible first | apply keep_modDly)

theorem keep_delayListProcess {a0} (h : Keeps s₀ a0) : Keeps s₀ (delayListProcess a0) := by
  delta delayListProcess
  repeat' first
    | with_reducible assumption | intro _
    | (with_reducible first | apply keep_modDly | apply keep_processFw | apply keep_forEach | apply keep_processList | apply keep_ite)
    | split

theorem keep_execDelayListProcess {a0} {t} (h : Keeps s₀ a0) (e : execDelayListProcess a0 = .next t) : Keeps s₀ t := by
  delta execDelayListProcess at e
  refine keep_run e ?_
  clear e
  repeat' first
    | with_reducible assumption | intro _
    | (with_reducible first | apply keep_delayListProcess)

theorem keep_fire {a0 a1 a2} (ha1 : ∀ y0 y1, Keeps s₀ y1 → Keeps s₀ (a1 y0 y1)) (h : Keeps s₀ a2) : Keeps s₀ (fire a0 a1 a2) := by
  delta fire
  repeat' first
    | with_reducible assumption | intro _
    | (with_reducible first | apply ha1 | apply keep_modDly | apply keep_ite)
    | extract_lets | split
    | refine keep_eq2 (by with_reducible assumption) ?_ | refine keep_eq1 (by with_reducible assumption) ?_

theorem keep_execPrewarm {a0} {t} (h : Keeps s₀ a0) (e : execPrewarm a0 = .next t) : Keeps s₀ t := by
  delta execPrewarm at e
  refine keep_run e ?_
  clear e
  repeat' first
    | with_reducible assumption | intro _
    | (with_reducible first | apply keep_fire | apply keep_wakeAll)

theorem keep_timedWork {a0 a1} (h : Keeps s₀ a1) : Keeps s₀ (timedWork a0 a1) := by
  delta timedWork
  extract_lets x0 x1
  try clear_value x1; try clear_value x0
  repeat' first
    | with_reducible assumption | intro _
    | (with_reducible first | apply keep_modItem | apply keep_setBit | apply keep_ite)
    | split

theorem keep_execTimedWork {a0} {t} (h : Keeps s₀ a0) (e : execTimedWork a0 = .next t) : Keeps s₀ t := by
  delta execTimedWork at e
  refine keep_run e ?_
  clear e
  repeat' first
    | with_reducible assumption | intro _
    | (with_reducible first | apply keep_fire | apply keep_timedWork)

theorem keep_fwTimer {a0 a1} (h : Keeps s₀ a1) : Keeps s₀ (fwTimer a0 a1) := by
  delta fwTimer
  extract_lets x0 x1 x2
  have h1 : Keeps s₀ x1 := by
    try subst x1
    repeat' first
      | with_reducible assumption | intro _
      | (with_reducible first | apply keep_postFlag | apply keep_forEach | apply keep_callModule)
  try clear_value x2; try clear_value x1; try clear_value x0
  repeat' first
    | with_reducible assumption | intro _
    | (with_reducible first | apply keep_postFlag | apply keep_forEach | apply keep_callModule)

theorem keep_execFwTimer {a0} {t} (h : Keeps s₀ a0) (e : execFwTimer a0 = .next t) : Keeps s₀ t := by
  delta execFwTimer at e
  refine keep_run e ?_
  clear e
  repeat' first
    | with_reducible assumption | intro _
    | (with_reducible first | apply keep_fire | apply keep_fwTimer)

theorem keep_dlyStatus {a0 a1} (h : Keeps s₀ a1) : Keeps s₀ (dlyStatus a0 a1) := by
  delta dlyStatus
  repeat' first
    | with_reducible assumption | intro _
    | (with_reducible first | apply keep_wrf)

theorem keep_dlyInsert {a0 a1} (h : Keeps s₀ a1) : Keeps s₀ (dlyInsert a0 a1) := by
  delta dlyInsert
  extract_lets x0 x1 x2 x3 x4 x5 x6
  try clear_value x6; try clear_value x5; try clear_value x4; try clear_value x3; try clear_value x2; try clear_value x1; try clear_value x0
  repeat' first
    | with_reducible assumption | intro _
    | (with_reducible first | apply keep_dlyStatus | apply keep_wrf | apply keep_modDly | apply keep_ite)
    | split

theorem keep_execDlyInsert {a0 a1} {t} (h : Keeps s₀ a1) (e : execDlyInsert a0 a1 = .next t) : Keeps s₀ t := by
  delta execDlyInsert at e
  refine keep_run e ?_
  clear e
  repeat' first
    | with_reducible assumption | intro _
    | (with_reducible first | apply keep_dlyInsert)

theorem keep_dlyRemove {a0 a1} (h : Keeps s₀ a1) : Keeps s₀ (dlyRemove a0 a1) := by
  delta dlyRemove
  extract_lets x0 x1
  try clear_value x1; try clear_value x0
  repeat' first
    | with_reducible assumption | intro _
    | (with_reducible first | apply keep_dlyStatus | apply keep_modDly | apply keep_ite)
    | split

theorem keep_execDlyRemove {a0 a1} {t} (h : Keeps s₀ a1) (e : execDlyRemove a0 a1 = .next t) : Keeps s₀ t := by
  delta execDlyRemove at e
  refine keep_run e ?_
  clear e
  repeat' first
    | with_reducible assumption | intro _
    | (with_reducible first | apply keep_dlyRemove)

theorem keep_execEvtPost {a0 a1} {t} (h : Keeps s₀ a1) (e : execEvtPost a0 a1 = .next t) : Keeps s₀ t := by
  delta execEvtPost at e
  refine keep_run e ?_
  clear e
  repeat' first
    | with_reducible assumption | intro _
    | (with_reducible first | apply keep_postFlag | apply keep_setBit | apply keep_ite)
    | split

theorem keep_execEvtClear {a0 a1} {t} (h : Keeps s₀ a1) (e : execEvtClear a0 a1 = .next t) : Keeps s₀ t := by
  delta execEvtClear at e
  refine keep_run e ?_
  clear e
  repeat' first
    | with_reducible assumption | intro _
    | (with_reducible first | apply keep_clearFlag | apply keep_setBit | apply keep_ite)
    | split

/-! ### Cores -/

theorem keep_execWorkItemReady {a0 a1} {t} (h : Keeps s₀ a1) (e : execWorkItemReady a0 a1 = .next t) : Keeps s₀ t := by
  delta execWorkItemReady at e
  refine keep_run e ?_
  clear e
  repeat' first
    | with_reducible assumption | intro _
    | (with_reducible first | apply keep_readyItem)

theorem keep_execCoreIdle {a0 a1} {t} (h : Keeps s₀ a1) (e : execCoreIdle a0 a1 = .next t) : Keeps s₀ t := by
  delta execCoreIdle at e
  refine keep_run e ?_
  clear e
  repeat' first
    | with_reducible assumption | intro _
    | (with_reducible first | apply keep_coreIdle)

theorem keep_startKernel {a0 a1 a2} (h : Keeps s₀ a2) : Keeps s₀ (startKernel a0 a1 a2) := by
  delta startKernel
  repeat' first
    | with_reducible assumption | intro _
    | (with_reducible first | apply keep_modCore | apply keep_ite)
    | split

theorem keep_kernelStart {a0 a1} (h : Keeps s₀ a1) : Keeps s₀ (kernelStart a0 a1) := by
  delta kernelStart
  extract_lets x0
  try clear_value x0
  repeat' first
    | with_reducible assumption | intro _
    | (with_reducible first | apply keep_startKernel | apply keep_modCore | apply keep_bumpSat | apply keep_ite | apply keep_ite1 | apply keep_ite2 | apply keep_ite3 | apply keep_foldl | apply keep_foldl1 | apply keep_foldl2 | apply keep_foldl3)
    | extract_lets | split
    | refine keep_eq2 (by with_reducible assumption) ?_ | refine keep_eq1 (by with_reducible assumption) ?_

theorem keep_execKernelStart {a0 a1} {t} (h : Keeps s₀ a1) (e : execKernelStart a0 a1 = .next t) : Keeps s₀ t := by
  delta execKernelStart at e
  refine keep_run e ?_
  clear e
  repeat' first
    | with_reducible assumption | intro _
    | (with_reducible first | apply keep_kernelStart)

theorem keep_windowFilled {a0 a1} (h : Keeps s₀ a1) : Keeps s₀ (windowFilled a0 a1) := by
  delta windowFilled
  extract_lets x0
  try clear_value x0
  repeat' first
    | with_reducible assumption | intro _
    | (with_reducible first | apply keep_startKernel | apply keep_modCore | apply keep_ite)
    | extract_lets | split
    | refine keep_eq2 (by with_reducible assumption) ?_ | refine keep_eq1 (by with_reducible assumption) ?_

theorem keep_execWindowFillComplete {a0 a1} {t} (h : Keeps s₀ a1) (e : execWindowFillComplete a0 a1 = .next t) : Keeps s₀ t := by
  delta execWindowFillComplete at e
  refine keep_run e ?_
  clear e
  repeat' first
    | with_reducible assumption | intro _
    | (with_reducible first | apply keep_windowFilled)

theorem keep_repairCycle {a0} (h : Keeps s₀ a0) : Keeps s₀ (repairCycle a0) := by
  delta repairCycle
  repeat' first
    | with_reducible assumption | intro _
    | (with_reducible first | apply keep_modWks | apply keep_setDom | apply keep_offLoss | apply keep_ite | apply keep_ite1 | apply keep_ite2 | apply keep_ite3)
    | extract_lets | split
    | refine keep_eq2 (by with_reducible assumption) ?_ | refine keep_eq1 (by with_reducible assumption) ?_

theorem keep_taint {a0 a1} (h : Keeps s₀ a1) : Keeps s₀ (taint a0 a1) := by
  delta taint
  extract_lets x0
  have h0 : Keeps s₀ x0 := by
    try subst x0
    repeat' first
      | with_reducible assumption | intro _
      | (with_reducible first | apply keep_modStep | apply keep_ite | apply keep_foldl)
      | split
      | with_reducible refine keep_set ?_ ?_ ?_ ?_ ?_ ?_
      | rfl
      | (with_reducible first | apply memory_put | apply memory_putBytes | apply memory_filter | apply memory_delRange | apply memory_copyRange | apply memory_foldl | apply memory_setRange | apply memory_rowApply | apply memory_unitApply)
      | assumption
  try clear_value x0
  repeat' first
    | with_reducible assumption | intro _
    | (with_reducible first | apply keep_modStep | apply keep_ite | apply keep_foldl)
    | split
    | with_reducible refine keep_set ?_ ?_ ?_ ?_ ?_ ?_
    | rfl
    | (with_reducible first | apply memory_put | apply memory_putBytes | apply memory_filter | apply memory_delRange | apply memory_copyRange | apply memory_foldl | apply memory_setRange | apply memory_rowApply | apply memory_unitApply)
    | assumption

theorem keep_kernelComplete {a0 a1 a2 a3} (h : Keeps s₀ a3) : Keeps s₀ (kernelComplete a0 a1 a2 a3) := by
  delta kernelComplete
  extract_lets x0
  try clear_value x0
  repeat' first
    | with_reducible assumption | intro _
    | (with_reducible first | apply keep_when_ | apply keep_taint | apply keep_modCore | apply keep_freeItem | apply keep_modItem | apply keep_repairCycle | apply keep_postFlag | apply keep_touch | apply keep_advance | apply keep_ite)
    | extract_lets | split
    | refine keep_eq2 (by with_reducible assumption) ?_ | refine keep_eq1 (by with_reducible assumption) ?_
    | with_reducible refine keep_set ?_ ?_ ?_ ?_ ?_ ?_
    | rfl
    | (with_reducible first | apply memory_put | apply memory_putBytes | apply memory_filter | apply memory_delRange | apply memory_copyRange | apply memory_foldl | apply memory_setRange | apply memory_rowApply | apply memory_unitApply)
    | assumption

theorem keep_execKernelComplete {a0 a1 a2} {t} (h : Keeps s₀ a2) (e : execKernelComplete a0 a1 a2 = .next t) : Keeps s₀ t := by
  delta execKernelComplete at e
  refine keep_run e ?_
  clear e
  repeat' first
    | with_reducible assumption | intro _
    | (with_reducible first | apply keep_kernelComplete)

theorem keep_watchdogTrip {a0 a1} (h : Keeps s₀ a1) : Keeps s₀ (watchdogTrip a0 a1) := by
  delta watchdogTrip
  extract_lets x0
  try clear_value x0
  repeat' first
    | with_reducible assumption | intro _
    | (with_reducible first | apply keep_repairCycle | apply keep_fenceCore | apply keep_bumpSat | apply keep_ite)
    | extract_lets | split
    | refine keep_eq2 (by with_reducible assumption) ?_ | refine keep_eq1 (by with_reducible assumption) ?_

theorem keep_execWatchdogTrip {a0 a1} {t} (h : Keeps s₀ a1) (e : execWatchdogTrip a0 a1 = .next t) : Keeps s₀ t := by
  delta execWatchdogTrip at e
  refine keep_run e ?_
  clear e
  repeat' first
    | with_reducible assumption | intro _
    | (with_reducible first | apply keep_watchdogTrip)

theorem keep_execCoreStoreEcc {a0 a1} {t} (h : Keeps s₀ a1) (e : execCoreStoreEcc a0 a1 = .next t) : Keeps s₀ t := by
  delta execCoreStoreEcc at e
  refine keep_run e ?_
  clear e
  repeat' first
    | with_reducible assumption | intro _
    | (with_reducible first | apply keep_repairCycle | apply keep_fenceCore)

theorem keep_placeWaiting {n b a} (h : Keeps s₀ a) : Keeps s₀ (placeWaiting n b a) := by
  induction n generalizing  b a with
  | zero => exact h
  | succ n ih =>
    unfold placeWaiting
    repeat' first
      | with_reducible assumption
      | intro _
      | (with_reducible first | apply ih | apply keep_forEach | apply keep_placeItem | apply keep_wr | apply keep_modWks)
      | (with_reducible first | apply keep_ite | apply keep_ite2)
      | extract_lets | split
      | refine keep_eq2 (by with_reducible assumption) ?_

theorem keep_execPoolSlotFree {a0} {t} (h : Keeps s₀ a0) (e : execPoolSlotFree a0 = .next t) : Keeps s₀ t := by
  delta execPoolSlotFree at e
  refine keep_run e ?_
  clear e
  repeat' first
    | with_reducible assumption | intro _
    | (with_reducible first | apply keep_placeWaiting)

theorem keep_wksSubmitGo {a0 a1} (h : Keeps s₀ a1) : Keeps s₀ (wksSubmitGo a0 a1) := by
  delta wksSubmitGo
  extract_lets x0
  try clear_value x0
  repeat' first
    | with_reducible assumption | intro _
    | (with_reducible first | apply keep_placeItem | apply keep_wr | apply keep_ite)
    | extract_lets | split
    | refine keep_eq2 (by with_reducible assumption) ?_ | refine keep_eq1 (by with_reducible assumption) ?_

theorem keep_execWksSubmitGo {a0 a1} {t} (h : Keeps s₀ a1) (e : execWksSubmitGo a0 a1 = .next t) : Keeps s₀ t := by
  delta execWksSubmitGo at e
  refine keep_run e ?_
  clear e
  repeat' first
    | with_reducible assumption | intro _
    | (with_reducible first | apply keep_wksSubmitGo)

theorem keep_endOpen {a0 a1 a2} (h : Keeps s₀ a2) : Keeps s₀ (endOpen a0 a1 a2) := by
  delta endOpen
  extract_lets x0 x1 x2 x3
  have h0 : Keeps s₀ x0 := by
    try subst x0
    repeat' first
      | with_reducible assumption | intro _
      | (with_reducible first | apply keep_maskReq | apply keep_toDraining | apply keep_finishOpen | apply keep_dropTimers | apply keep_closeNow | apply keep_toReady | apply keep_modEnt | apply keep_ite)
      | split
      | with_reducible refine keep_set ?_ ?_ ?_ ?_ ?_ ?_
      | rfl
      | (with_reducible first | apply memory_put | apply memory_putBytes | apply memory_filter | apply memory_delRange | apply memory_copyRange | apply memory_foldl | apply memory_setRange | apply memory_rowApply | apply memory_unitApply)
      | assumption
  have h1 : Keeps s₀ x1 := by
    try subst x1
    repeat' first
      | with_reducible assumption | intro _
      | (with_reducible first | apply keep_maskReq | apply keep_toDraining | apply keep_finishOpen | apply keep_dropTimers | apply keep_closeNow | apply keep_toReady | apply keep_modEnt | apply keep_ite)
      | split
      | with_reducible refine keep_set ?_ ?_ ?_ ?_ ?_ ?_
      | rfl
      | (with_reducible first | apply memory_put | apply memory_putBytes | apply memory_filter | apply memory_delRange | apply memory_copyRange | apply memory_foldl | apply memory_setRange | apply memory_rowApply | apply memory_unitApply)
      | assumption
  have h2 : Keeps s₀ x2 := by
    try subst x2
    repeat' first
      | with_reducible assumption | intro _
      | (with_reducible first | apply keep_maskReq | apply keep_toDraining | apply keep_finishOpen | apply keep_dropTimers | apply keep_closeNow | apply keep_toReady | apply keep_modEnt | apply keep_ite)
      | split
      | with_reducible refine keep_set ?_ ?_ ?_ ?_ ?_ ?_
      | rfl
      | (with_reducible first | apply memory_put | apply memory_putBytes | apply memory_filter | apply memory_delRange | apply memory_copyRange | apply memory_foldl | apply memory_setRange | apply memory_rowApply | apply memory_unitApply)
      | assumption
  try clear_value x3; try clear_value x2; try clear_value x1; try clear_value x0
  repeat' first
    | with_reducible assumption | intro _
    | (with_reducible first | apply keep_maskReq | apply keep_toDraining | apply keep_finishOpen | apply keep_dropTimers | apply keep_closeNow | apply keep_toReady | apply keep_modEnt | apply keep_ite)
    | split
    | with_reducible refine keep_set ?_ ?_ ?_ ?_ ?_ ?_
    | rfl
    | (with_reducible first | apply memory_put | apply memory_putBytes | apply memory_filter | apply memory_delRange | apply memory_copyRange | apply memory_foldl | apply memory_setRange | apply memory_rowApply | apply memory_unitApply)
    | assumption

theorem keep_tearDown {a0 a1} (h : Keeps s₀ a1) : Keeps s₀ (tearDown a0 a1) := by
  delta tearDown
  extract_lets x0
  try clear_value x0
  repeat' first
    | with_reducible assumption | intro _
    | (with_reducible first | apply keep_logEv | apply keep_toClosing | apply keep_maskReq | apply keep_maskHere | apply keep_ite)
    | split

theorem keep_stopCycle {a0} (h : Keeps s₀ a0) : Keeps s₀ (stopCycle a0) := by
  delta stopCycle
  extract_lets x0 x1 x2 x3 x4 x5 x6
  have h0 : Keeps s₀ x0 := by
    try subst x0
    repeat' first
      | with_reducible assumption | intro _
      | (with_reducible first | apply keep_logC | apply keep_forEach | apply keep_endOpen | apply keep_modSide | apply keep_sendNotice)
      | with_reducible refine keep_set ?_ ?_ ?_ ?_ ?_ ?_
      | rfl
      | (with_reducible first | apply memory_put | apply memory_putBytes | apply memory_filter | apply memory_delRange | apply memory_copyRange | apply memory_foldl | apply memory_setRange | apply memory_rowApply | apply memory_unitApply)
      | assumption
  have h2 : Keeps s₀ x2 := by
    try subst x2
    repeat' first
      | with_reducible assumption | intro _
      | (with_reducible first | apply keep_logC | apply keep_forEach | apply keep_endOpen | apply keep_modSide | apply keep_sendNotice)
      | with_reducible refine keep_set ?_ ?_ ?_ ?_ ?_ ?_
      | rfl
      | (with_reducible first | apply memory_put | apply memory_putBytes | apply memory_filter | apply memory_delRange | apply memory_copyRange | apply memory_foldl | apply memory_setRange | apply memory_rowApply | apply memory_unitApply)
      | assumption
  have h4 : Keeps s₀ x4 := by
    try subst x4
    repeat' first
      | with_reducible assumption | intro _
      | (with_reducible first | apply keep_logC | apply keep_forEach | apply keep_endOpen | apply keep_modSide | apply keep_sendNotice)
      | with_reducible refine keep_set ?_ ?_ ?_ ?_ ?_ ?_
      | rfl
      | (with_reducible first | apply memory_put | apply memory_putBytes | apply memory_filter | apply memory_delRange | apply memory_copyRange | apply memory_foldl | apply memory_setRange | apply memory_rowApply | apply memory_unitApply)
      | assumption
  have h5 : Keeps s₀ x5 := by
    try subst x5
    repeat' first
      | with_reducible assumption | intro _
      | (with_reducible first | apply keep_logC | apply keep_forEach | apply keep_endOpen | apply keep_modSide | apply keep_sendNotice)
      | with_reducible refine keep_set ?_ ?_ ?_ ?_ ?_ ?_
      | rfl
      | (with_reducible first | apply memory_put | apply memory_putBytes | apply memory_filter | apply memory_delRange | apply memory_copyRange | apply memory_foldl | apply memory_setRange | apply memory_rowApply | apply memory_unitApply)
      | assumption
  try clear_value x6; try clear_value x5; try clear_value x4; try clear_value x3; try clear_value x2; try clear_value x1; try clear_value x0
  repeat' first
    | with_reducible assumption | intro _
    | (with_reducible first | apply keep_logC | apply keep_forEach | apply keep_endOpen | apply keep_modSide | apply keep_sendNotice)
    | with_reducible refine keep_set ?_ ?_ ?_ ?_ ?_ ?_
    | rfl
    | (with_reducible first | apply memory_put | apply memory_putBytes | apply memory_filter | apply memory_delRange | apply memory_copyRange | apply memory_foldl | apply memory_setRange | apply memory_rowApply | apply memory_unitApply)
    | assumption

theorem keep_jobFault {a0 a1 a2 a3 a4} (h : Keeps s₀ a4) : Keeps s₀ (jobFault a0 a1 a2 a3 a4) := by
  delta jobFault
  extract_lets x0 x1 x2 x3
  have h1 : Keeps s₀ x1 := by
    try subst x1
    repeat' first
      | with_reducible assumption | intro _
      | (with_reducible first | apply keep_bumpSat | apply keep_logEv | apply keep_modNode | apply keep_stopCycle | apply keep_forEach | apply keep_tearDown | apply keep_ite | apply keep_ite1 | apply keep_ite2 | apply keep_ite3)
      | extract_lets | split
      | refine keep_eq2 (by with_reducible assumption) ?_ | refine keep_eq1 (by with_reducible assumption) ?_
  have h3 : Keeps s₀ x3 := by
    try subst x3
    repeat' first
      | with_reducible assumption | intro _
      | (with_reducible first | apply keep_bumpSat | apply keep_logEv | apply keep_modNode | apply keep_stopCycle | apply keep_forEach | apply keep_tearDown | apply keep_ite | apply keep_ite1 | apply keep_ite2 | apply keep_ite3)
      | extract_lets | split
      | refine keep_eq2 (by with_reducible assumption) ?_ | refine keep_eq1 (by with_reducible assumption) ?_
  try clear_value x3; try clear_value x2; try clear_value x1; try clear_value x0
  repeat' first
    | with_reducible assumption | intro _
    | (with_reducible first | apply keep_bumpSat | apply keep_logEv | apply keep_modNode | apply keep_stopCycle | apply keep_forEach | apply keep_tearDown | apply keep_ite | apply keep_ite1 | apply keep_ite2 | apply keep_ite3)
    | extract_lets | split
    | refine keep_eq2 (by with_reducible assumption) ?_ | refine keep_eq1 (by with_reducible assumption) ?_

theorem keep_execJobFault {a0 a1 a2 a3 a4} {t} (h : Keeps s₀ a4) (e : execJobFault a0 a1 a2 a3 a4 = .next t) : Keeps s₀ t := by
  delta execJobFault at e
  refine keep_run e ?_
  clear e
  repeat' first
    | with_reducible assumption | intro _
    | (with_reducible first | apply keep_jobFault)

theorem keep_moveLists {a0 a1} (h : Keeps s₀ a1) : Keeps s₀ (moveLists a0 a1) := by
  delta moveLists
  repeat' first
    | with_reducible assumption | intro _
    | (with_reducible first | apply keep_forEach | apply keep_modItem)

theorem keep_coreRepair {a0 a1} (h : Keeps s₀ a1) : Keeps s₀ (coreRepair a0 a1) := by
  delta coreRepair
  extract_lets x0 x1 x2
  have h1 : Keeps s₀ x1 := by
    try subst x1
    repeat' first
      | with_reducible assumption | intro _
      | (with_reducible first | apply keep_wrf | apply keep_setBit | apply keep_modWks | apply keep_repairCycle | apply keep_moveLists | apply keep_logC | apply keep_ite | apply keep_ite1 | apply keep_ite2 | apply keep_ite3)
      | split
  have h2 : Keeps s₀ x2 := by
    try subst x2
    repeat' first
      | with_reducible assumption | intro _
      | (with_reducible first | apply keep_wrf | apply keep_setBit | apply keep_modWks | apply keep_repairCycle | apply keep_moveLists | apply keep_logC | apply keep_ite | apply keep_ite1 | apply keep_ite2 | apply keep_ite3)
      | split
  try clear_value x2; try clear_value x1; try clear_value x0
  repeat' first
    | with_reducible assumption | intro _
    | (with_reducible first | apply keep_wrf | apply keep_setBit | apply keep_modWks | apply keep_repairCycle | apply keep_moveLists | apply keep_logC | apply keep_ite | apply keep_ite1 | apply keep_ite2 | apply keep_ite3)
    | split

theorem keep_execCoreRepair {a0 a1} {t} (h : Keeps s₀ a1) (e : execCoreRepair a0 a1 = .next t) : Keeps s₀ t := by
  delta execCoreRepair at e
  refine keep_run e ?_
  clear e
  repeat' first
    | with_reducible assumption | intro _
    | (with_reducible first | apply keep_coreRepair)

theorem keep_unfence {a0 a1} (h : Keeps s₀ a1) : Keeps s₀ (unfence a0 a1) := by
  delta unfence
  repeat' first
    | with_reducible assumption | intro _
    | (with_reducible first | apply keep_logC | apply keep_modCore)

theorem keep_repairComplete {a0 a1} (h : Keeps s₀ a1) : Keeps s₀ (repairComplete a0 a1) := by
  delta repairComplete
  repeat' first
    | with_reducible assumption | intro _
    | (with_reducible first | apply keep_repairCycle | apply keep_modDom | apply keep_modWks | apply keep_forEach | apply keep_unfence | apply keep_fenceCore | apply keep_wrf | apply keep_clrBit | apply keep_settleDom | apply keep_logC | apply keep_ite)
    | extract_lets | split
    | refine keep_eq2 (by with_reducible assumption) ?_ | refine keep_eq1 (by with_reducible assumption) ?_

theorem keep_execRepairComplete {a0 a1} {t} (h : Keeps s₀ a1) (e : execRepairComplete a0 a1 = .next t) : Keeps s₀ t := by
  delta execRepairComplete at e
  refine keep_run e ?_
  clear e
  repeat' first
    | with_reducible assumption | intro _
    | (with_reducible first | apply keep_repairComplete)

end Sys2Proof.Laws
end

