-- ==== Sys2Proof/Laws/KeepRequests.lean ====
section
/-! SUPPORT. What `Keeps` of Laws/Keep.lean says, operation by operation and command by command: channels, requests, the prefix tree and admission. Each lemma
says that an operation applied to a state that keeps the invariants of `s₀` keeps them. -/
namespace Sys2Proof.Laws
open Sys2Proof.Machine Sys2Proof.Safety
set_option Elab.async false
set_option linter.unusedTactic false
set_option linter.unreachableTactic false
set_option linter.unusedVariables false
variable {s₀ : State}

/-! ### ReqOps -/

theorem keep_modFree {a0 a1 a2} (h : Keeps s₀ a2) : Keeps s₀ (modFree a0 a1 a2) := by
  delta modFree
  repeat' first
    | with_reducible assumption | intro _
    | with_reducible refine keep_set ?_ ?_ ?_ ?_ ?_ ?_
    | rfl
    | assumption

theorem keep_ackNow {a0 a1 a2 a3 a4 a5} (h : Keeps s₀ a5) : Keeps s₀ (ackNow a0 a1 a2 a3 a4 a5) := by
  delta ackNow
  repeat' first
    | with_reducible assumption | intro _
    | (with_reducible first | apply keep_post | apply keep_unreserve)

theorem keep_reject {a0 a1 a2 a3} (h : Keeps s₀ a3) : Keeps s₀ (reject a0 a1 a2 a3) := by
  delta reject
  repeat' first
    | with_reducible assumption | intro _
    | (with_reducible first | apply keep_ackNow)

theorem keep_settleAcc {c n a} (h : Keeps s₀ a) : Keeps s₀ (settleAcc c n a) := by
  induction n generalizing  a with
  | zero => exact h
  | succ n ih =>
    unfold settleAcc
    repeat' first
      | with_reducible assumption
      | intro _
      | (with_reducible first | apply ih | apply keep_reject | apply keep_modChan)
      | (with_reducible first | apply keep_ite | apply keep_ite2)
      | extract_lets | split
      | refine keep_eq2 (by with_reducible assumption) ?_

theorem keep_takeHeldEntry {a0 a1} (h : Keeps s₀ a1) : Keeps s₀ (takeHeldEntry a0 a1) := by
  delta takeHeldEntry
  repeat' first
    | with_reducible assumption | intro _
    | (with_reducible first | apply keep_modChan | apply keep_settleAcc | apply keep_ite)
    | extract_lets | split
    | refine keep_eq2 (by with_reducible assumption) ?_ | refine keep_eq1 (by with_reducible assumption) ?_

theorem keep_giveBack {a0 a1 a2} (h : Keeps s₀ a2) : Keeps s₀ (giveBack a0 a1 a2) := by
  delta giveBack
  repeat' first
    | with_reducible assumption | intro _
    | (with_reducible first | apply keep_takeHeldEntry | apply keep_unreserve)

theorem keep_accept {a0 a1 a2 a3} (ha2 : ∀ y0 y1, Keeps s₀ y1 → Keeps s₀ (a2 y0 y1)) (h : Keeps s₀ a3) : Keeps s₀ (accept a0 a1 a2 a3) := by
  delta accept
  extract_lets x0
  have h0 : Keeps s₀ x0 := by
    try subst x0
    repeat' first
      | with_reducible assumption | intro _
      | (with_reducible first | apply ha2 | apply keep_settleAcc | apply keep_modChan | apply keep_takeHeldEntry | apply keep_ite)
      | extract_lets | split
      | refine keep_eq2 (by with_reducible assumption) ?_ | refine keep_eq1 (by with_reducible assumption) ?_
  try clear_value x0
  repeat' first
    | with_reducible assumption | intro _
    | (with_reducible first | apply ha2 | apply keep_settleAcc | apply keep_modChan | apply keep_takeHeldEntry | apply keep_ite)
    | extract_lets | split
    | refine keep_eq2 (by with_reducible assumption) ?_ | refine keep_eq1 (by with_reducible assumption) ?_

theorem keep_drawSeed {a0} (h : Keeps s₀ a0) : Keeps s₀ (drawSeed a0).2 := by
  delta drawSeed
  extract_lets x0
  repeat' first
    | with_reducible assumption | intro _
    | with_reducible refine keep_set ?_ ?_ ?_ ?_ ?_ ?_
    | rfl
    | assumption

theorem keep_takeProfile {a0 a1 a2} (h : Keeps s₀ a2) : Keeps s₀ (takeProfile a0 a1 a2).2 := by
  delta takeProfile
  repeat' first
    | with_reducible assumption | intro _
    | (with_reducible first | apply keep_bumpSat | apply keep_ite | apply keep_ite1 | apply keep_ite2 | apply keep_ite3)
    | split

theorem keep_openSubmit {a0 a1 a2 a3 a4 a5 a6 a7 a8} (h : Keeps s₀ a8) : Keeps s₀ (openSubmit a0 a1 a2 a3 a4 a5 a6 a7 a8).2 := by
  delta openSubmit
  extract_lets x0 x1 x2 x3 x4 x5 x6 x7 x8 x9 x10 x11
  have h4 : Keeps s₀ x4.2 := by
    try subst x4
    repeat' first
      | with_reducible assumption | intro _
      | (with_reducible first | apply keep_takeProfile | apply keep_modRing | apply keep_forEach | apply keep_modFree | apply keep_ite | apply keep_ite1 | apply keep_ite2 | apply keep_ite3)
      | extract_lets | split
      | refine keep_eq2 (by with_reducible assumption) ?_ | refine keep_eq1 (by with_reducible assumption) ?_
      | with_reducible refine keep_set ?_ ?_ ?_ ?_ ?_ ?_
      | rfl
      | (with_reducible first | apply memory_put | apply memory_putBytes | apply memory_filter | apply memory_delRange | apply memory_copyRange | apply memory_foldl | apply memory_setRange | apply memory_rowApply | apply memory_unitApply)
      | assumption
  have h5 : Keeps s₀ x5 := by
    try subst x5
    repeat' first
      | with_reducible assumption | intro _
      | (with_reducible first | apply keep_takeProfile | apply keep_modRing | apply keep_forEach | apply keep_modFree | apply keep_ite | apply keep_ite1 | apply keep_ite2 | apply keep_ite3)
      | extract_lets | split
      | refine keep_eq2 (by with_reducible assumption) ?_ | refine keep_eq1 (by with_reducible assumption) ?_
      | with_reducible refine keep_set ?_ ?_ ?_ ?_ ?_ ?_
      | rfl
      | (with_reducible first | apply memory_put | apply memory_putBytes | apply memory_filter | apply memory_delRange | apply memory_copyRange | apply memory_foldl | apply memory_setRange | apply memory_rowApply | apply memory_unitApply)
      | assumption
  have h8 : Keeps s₀ x8 := by
    try subst x8
    repeat' first
      | with_reducible assumption | intro _
      | (with_reducible first | apply keep_takeProfile | apply keep_modRing | apply keep_forEach | apply keep_modFree | apply keep_ite | apply keep_ite1 | apply keep_ite2 | apply keep_ite3)
      | extract_lets | split
      | refine keep_eq2 (by with_reducible assumption) ?_ | refine keep_eq1 (by with_reducible assumption) ?_
      | with_reducible refine keep_set ?_ ?_ ?_ ?_ ?_ ?_
      | rfl
      | (with_reducible first | apply memory_put | apply memory_putBytes | apply memory_filter | apply memory_delRange | apply memory_copyRange | apply memory_foldl | apply memory_setRange | apply memory_rowApply | apply memory_unitApply)
      | assumption
  have h9 : Keeps s₀ x9 := by
    try subst x9
    repeat' first
      | with_reducible assumption | intro _
      | (with_reducible first | apply keep_takeProfile | apply keep_modRing | apply keep_forEach | apply keep_modFree | apply keep_ite | apply keep_ite1 | apply keep_ite2 | apply keep_ite3)
      | extract_lets | split
      | refine keep_eq2 (by with_reducible assumption) ?_ | refine keep_eq1 (by with_reducible assumption) ?_
      | with_reducible refine keep_set ?_ ?_ ?_ ?_ ?_ ?_
      | rfl
      | (with_reducible first | apply memory_put | apply memory_putBytes | apply memory_filter | apply memory_delRange | apply memory_copyRange | apply memory_foldl | apply memory_setRange | apply memory_rowApply | apply memory_unitApply)
      | assumption
  have h11 : Keeps s₀ x11 := by
    try subst x11
    repeat' first
      | with_reducible assumption | intro _
      | (with_reducible first | apply keep_takeProfile | apply keep_modRing | apply keep_forEach | apply keep_modFree | apply keep_ite | apply keep_ite1 | apply keep_ite2 | apply keep_ite3)
      | extract_lets | split
      | refine keep_eq2 (by with_reducible assumption) ?_ | refine keep_eq1 (by with_reducible assumption) ?_
      | with_reducible refine keep_set ?_ ?_ ?_ ?_ ?_ ?_
      | rfl
      | (with_reducible first | apply memory_put | apply memory_putBytes | apply memory_filter | apply memory_delRange | apply memory_copyRange | apply memory_foldl | apply memory_setRange | apply memory_rowApply | apply memory_unitApply)
      | assumption
  try clear_value x11; try clear_value x10; try clear_value x9; try clear_value x8; try clear_value x7; try clear_value x6; try clear_value x5; try clear_value x4; try clear_value x3; try clear_value x1; try clear_value x0
  repeat' first
    | with_reducible assumption | intro _
    | (with_reducible first | apply keep_takeProfile | apply keep_modRing | apply keep_forEach | apply keep_modFree | apply keep_ite | apply keep_ite1 | apply keep_ite2 | apply keep_ite3)
    | extract_lets | split
    | refine keep_eq2 (by with_reducible assumption) ?_ | refine keep_eq1 (by with_reducible assumption) ?_
    | with_reducible refine keep_set ?_ ?_ ?_ ?_ ?_ ?_
    | rfl
    | (with_reducible first | apply memory_put | apply memory_putBytes | apply memory_filter | apply memory_delRange | apply memory_copyRange | apply memory_foldl | apply memory_setRange | apply memory_rowApply | apply memory_unitApply)
    | assumption

theorem keep_takeClose {a0 a1 a2 a3} (h : Keeps s₀ a3) : Keeps s₀ (takeClose a0 a1 a2 a3) := by
  delta takeClose
  extract_lets x0 x1 x2 x3 x4
  have h0 : Keeps s₀ x0 := by
    try subst x0
    repeat' first
      | with_reducible assumption | intro _
      | (with_reducible first | apply keep_finishPend | apply keep_modSide | apply keep_modEnt | apply keep_toClosing | apply keep_ite)
      | split
  have h2 : Keeps s₀ x2 := by
    try subst x2
    repeat' first
      | with_reducible assumption | intro _
      | (with_reducible first | apply keep_finishPend | apply keep_modSide | apply keep_modEnt | apply keep_toClosing | apply keep_ite)
      | split
  have h3 : Keeps s₀ x3 := by
    try subst x3
    repeat' first
      | with_reducible assumption | intro _
      | (with_reducible first | apply keep_finishPend | apply keep_modSide | apply keep_modEnt | apply keep_toClosing | apply keep_ite)
      | split
  have h4 : Keeps s₀ x4 := by
    try subst x4
    repeat' first
      | with_reducible assumption | intro _
      | (with_reducible first | apply keep_finishPend | apply keep_modSide | apply keep_modEnt | apply keep_toClosing | apply keep_ite)
      | split
  try clear_value x4; try clear_value x3; try clear_value x2; try clear_value x1; try clear_value x0
  repeat' first
    | with_reducible assumption | intro _
    | (with_reducible first | apply keep_finishPend | apply keep_modSide | apply keep_modEnt | apply keep_toClosing | apply keep_ite)
    | split

theorem keep_startPause {a0 a1 a2} (h : Keeps s₀ a2) : Keeps s₀ (startPause a0 a1 a2) := by
  delta startPause
  extract_lets x0 x1 x2 x3 x4 x5 x6 x7 x8
  have h6 : Keeps s₀ x6 := by
    try subst x6
    repeat' first
      | with_reducible assumption | intro _
      | (with_reducible first | apply keep_forEach | apply keep_modFree | apply keep_orderShadow | apply keep_dlyIns | apply keep_modEnt | apply keep_modSide | apply keep_ite | apply keep_ite1 | apply keep_ite2 | apply keep_ite3)
      | split
      | with_reducible refine keep_set ?_ ?_ ?_ ?_ ?_ ?_
      | rfl
      | (with_reducible first | apply memory_put | apply memory_putBytes | apply memory_filter | apply memory_delRange | apply memory_copyRange | apply memory_foldl | apply memory_setRange | apply memory_rowApply | apply memory_unitApply)
      | assumption
  have h7 : Keeps s₀ x7 := by
    try subst x7
    repeat' first
      | with_reducible assumption | intro _
      | (with_reducible first | apply keep_forEach | apply keep_modFree | apply keep_orderShadow | apply keep_dlyIns | apply keep_modEnt | apply keep_modSide | apply keep_ite | apply keep_ite1 | apply keep_ite2 | apply keep_ite3)
      | split
      | with_reducible refine keep_set ?_ ?_ ?_ ?_ ?_ ?_
      | rfl
      | (with_reducible first | apply memory_put | apply memory_putBytes | apply memory_filter | apply memory_delRange | apply memory_copyRange | apply memory_foldl | apply memory_setRange | apply memory_rowApply | apply memory_unitApply)
      | assumption
  have h8 : Keeps s₀ x8 := by
    try subst x8
    repeat' first
      | with_reducible assumption | intro _
      | (with_reducible first | apply keep_forEach | apply keep_modFree | apply keep_orderShadow | apply keep_dlyIns | apply keep_modEnt | apply keep_modSide | apply keep_ite | apply keep_ite1 | apply keep_ite2 | apply keep_ite3)
      | split
      | with_reducible refine keep_set ?_ ?_ ?_ ?_ ?_ ?_
      | rfl
      | (with_reducible first | apply memory_put | apply memory_putBytes | apply memory_filter | apply memory_delRange | apply memory_copyRange | apply memory_foldl | apply memory_setRange | apply memory_rowApply | apply memory_unitApply)
      | assumption
  try clear_value x8; try clear_value x7; try clear_value x6; try clear_value x4; try clear_value x3; try clear_value x2; try clear_value x1; try clear_value x0
  repeat' first
    | with_reducible assumption | intro _
    | (with_reducible first | apply keep_forEach | apply keep_modFree | apply keep_orderShadow | apply keep_dlyIns | apply keep_modEnt | apply keep_modSide | apply keep_ite | apply keep_ite1 | apply keep_ite2 | apply keep_ite3)
    | split
    | with_reducible refine keep_set ?_ ?_ ?_ ?_ ?_ ?_
    | rfl
    | (with_reducible first | apply memory_put | apply memory_putBytes | apply memory_filter | apply memory_delRange | apply memory_copyRange | apply memory_foldl | apply memory_setRange | apply memory_rowApply | apply memory_unitApply)
    | assumption

theorem keep_dropReq {a0 a1} (h : Keeps s₀ a1) : Keeps s₀ (dropReq a0 a1) := by
  delta dropReq
  extract_lets x0 x1
  have h0 : Keeps s₀ x0 := by
    try subst x0
    repeat' first
      | with_reducible assumption | intro _
      | (with_reducible first | apply keep_closeRecs | apply keep_maskReq | apply keep_modSide | apply keep_toClosing | apply keep_modEnt | apply keep_ite)
      | split
  have h1 : Keeps s₀ x1 := by
    try subst x1
    repeat' first
      | with_reducible assumption | intro _
      | (with_reducible first | apply keep_closeRecs | apply keep_maskReq | apply keep_modSide | apply keep_toClosing | apply keep_modEnt | apply keep_ite)
      | split
  try clear_value x1; try clear_value x0
  repeat' first
    | with_reducible assumption | intro _
    | (with_reducible first | apply keep_closeRecs | apply keep_maskReq | apply keep_modSide | apply keep_toClosing | apply keep_modEnt | apply keep_ite)
    | split

theorem keep_chanError {a0 a1 a2} (h : Keeps s₀ a2) : Keeps s₀ (chanError a0 a1 a2) := by
  delta chanError
  extract_lets x0 x1 x2
  have h1 : Keeps s₀ x1 := by
    try subst x1
    repeat' first
      | with_reducible assumption | intro _
      | (with_reducible first | apply keep_logEv | apply keep_setBit | apply keep_modChan | apply keep_forEach | apply keep_dropReq)
  have h2 : Keeps s₀ x2 := by
    try subst x2
    repeat' first
      | with_reducible assumption | intro _
      | (with_reducible first | apply keep_logEv | apply keep_setBit | apply keep_modChan | apply keep_forEach | apply keep_dropReq)
  try clear_value x2; try clear_value x1; try clear_value x0
  repeat' first
    | with_reducible assumption | intro _
    | (with_reducible first | apply keep_logEv | apply keep_setBit | apply keep_modChan | apply keep_forEach | apply keep_dropReq)

theorem keep_freeChan {a0 a1} (h : Keeps s₀ a1) : Keeps s₀ (freeChan a0 a1) := by
  delta freeChan
  extract_lets x0 x1
  have h1 : Keeps s₀ x1 := by
    try subst x1
    repeat' first
      | with_reducible assumption | intro _
      | (with_reducible first | apply keep_clrBit | apply keep_wrf | apply keep_bumpGen | apply keep_ite)
      | split
      | with_reducible refine keep_set ?_ ?_ ?_ ?_ ?_ ?_
      | rfl
      | (with_reducible first | apply memory_put | apply memory_putBytes | apply memory_filter | apply memory_delRange | apply memory_copyRange | apply memory_foldl | apply memory_setRange | apply memory_rowApply | apply memory_unitApply)
      | assumption
  try clear_value x1; try clear_value x0
  repeat' first
    | with_reducible assumption | intro _
    | (with_reducible first | apply keep_clrBit | apply keep_wrf | apply keep_bumpGen | apply keep_ite)
    | split
    | with_reducible refine keep_set ?_ ?_ ?_ ?_ ?_ ?_
    | rfl
    | (with_reducible first | apply memory_put | apply memory_putBytes | apply memory_filter | apply memory_delRange | apply memory_copyRange | apply memory_foldl | apply memory_setRange | apply memory_rowApply | apply memory_unitApply)
    | assumption

theorem keep_orphan {a0 a1} (h : Keeps s₀ a1) : Keeps s₀ (orphan a0 a1) := by
  delta orphan
  extract_lets x0
  have h0 : Keeps s₀ x0 := by
    try subst x0
    repeat' first
      | with_reducible assumption | intro _
      | (with_reducible first | apply keep_when_ | apply keep_modRing | apply keep_modEnt | apply keep_ite)
      | extract_lets | split
      | refine keep_eq2 (by with_reducible assumption) ?_ | refine keep_eq1 (by with_reducible assumption) ?_
  try clear_value x0
  repeat' first
    | with_reducible assumption | intro _
    | (with_reducible first | apply keep_when_ | apply keep_modRing | apply keep_modEnt | apply keep_ite)
    | extract_lets | split
    | refine keep_eq2 (by with_reducible assumption) ?_ | refine keep_eq1 (by with_reducible assumption) ?_

/-! ### Prefix -/

theorem keep_shareWalk {a0 a1 a2} (h : Keeps s₀ a2) : Keeps s₀ (shareWalk a0 a1 a2) := by
  delta shareWalk
  extract_lets x0 x1 x2 x3 x4 x5
  have h2 : Keeps s₀ x2 := by
    try subst x2
    repeat' first
      | with_reducible assumption | intro _
      | (with_reducible first | apply keep_forEach | apply keep_nodeRef | apply keep_modSide | apply keep_setPages | apply keep_modEnt | apply keep_bumpSat | apply keep_wr)
  have h4 : Keeps s₀ x4 := by
    try subst x4
    repeat' first
      | with_reducible assumption | intro _
      | (with_reducible first | apply keep_forEach | apply keep_nodeRef | apply keep_modSide | apply keep_setPages | apply keep_modEnt | apply keep_bumpSat | apply keep_wr)
  have h5 : Keeps s₀ x5 := by
    try subst x5
    repeat' first
      | with_reducible assumption | intro _
      | (with_reducible first | apply keep_forEach | apply keep_nodeRef | apply keep_modSide | apply keep_setPages | apply keep_modEnt | apply keep_bumpSat | apply keep_wr)
  try clear_value x5; try clear_value x4; try clear_value x3; try clear_value x2; try clear_value x1; try clear_value x0
  repeat' first
    | with_reducible assumption | intro _
    | (with_reducible first | apply keep_forEach | apply keep_nodeRef | apply keep_modSide | apply keep_setPages | apply keep_modEnt | apply keep_bumpSat | apply keep_wr)

theorem keep_nodeRoom {a0 a1} (h : Keeps s₀ a1) : Keeps s₀ (nodeRoom a0 a1).2 := by
  delta nodeRoom
  extract_lets x0 x1
  try clear_value x1; try clear_value x0
  repeat' first
    | with_reducible assumption | intro _
    | (with_reducible first | apply keep_allocPage | apply keep_ite | apply keep_ite1 | apply keep_ite2 | apply keep_ite3)
    | extract_lets | split
    | refine keep_eq2 (by with_reducible assumption) ?_ | refine keep_eq1 (by with_reducible assumption) ?_
    | with_reducible refine keep_set ?_ ?_ ?_ ?_ ?_ ?_
    | rfl
    | (with_reducible first | apply memory_put | apply memory_putBytes | apply memory_filter | apply memory_delRange | apply memory_copyRange | apply memory_foldl | apply memory_setRange | apply memory_rowApply | apply memory_unitApply)
    | assumption

theorem keep_insertNode {a0 a1 a2} (h : Keeps s₀ a2) : Keeps s₀ (insertNode a0 a1 a2) := by
  delta insertNode
  extract_lets x0 x1 x2 x3 x4 x5 x6 x7
  have h2 : Keeps s₀ x2.2 := by
    try subst x2
    repeat' first
      | with_reducible assumption | intro _
      | (with_reducible first | apply keep_nodeRoom | apply keep_logEv | apply keep_setBit | apply keep_modNode | apply keep_setPages | apply keep_modSide | apply keep_ite | apply keep_ite1 | apply keep_ite2 | apply keep_ite3)
      | extract_lets | split
      | refine keep_eq2 (by with_reducible assumption) ?_ | refine keep_eq1 (by with_reducible assumption) ?_
  have h3 : Keeps s₀ x3 := by
    try subst x3
    repeat' first
      | with_reducible assumption | intro _
      | (with_reducible first | apply keep_nodeRoom | apply keep_logEv | apply keep_setBit | apply keep_modNode | apply keep_setPages | apply keep_modSide | apply keep_ite | apply keep_ite1 | apply keep_ite2 | apply keep_ite3)
      | extract_lets | split
      | refine keep_eq2 (by with_reducible assumption) ?_ | refine keep_eq1 (by with_reducible assumption) ?_
  try clear_value x7; try clear_value x6; try clear_value x5; try clear_value x3; try clear_value x2; try clear_value x1; try clear_value x0
  repeat' first
    | with_reducible assumption | intro _
    | (with_reducible first | apply keep_nodeRoom | apply keep_logEv | apply keep_setBit | apply keep_modNode | apply keep_setPages | apply keep_modSide | apply keep_ite | apply keep_ite1 | apply keep_ite2 | apply keep_ite3)
    | extract_lets | split
    | refine keep_eq2 (by with_reducible assumption) ?_ | refine keep_eq1 (by with_reducible assumption) ?_

theorem keep_insertPages {r n a} (h : Keeps s₀ a) : Keeps s₀ (insertPages r n a) := by
  induction n generalizing  a with
  | zero => exact h
  | succ n ih =>
    unfold insertPages
    repeat' first
      | with_reducible assumption
      | intro _
      | (with_reducible first | apply ih | apply keep_insertNode)
      | (with_reducible first | apply keep_ite | apply keep_ite2)
      | extract_lets | split
      | refine keep_eq2 (by with_reducible assumption) ?_

theorem keep_pfxPages {b : SMap (List Nat)} {s : State} (h : Keeps s₀ s) : Keeps s₀ { s with pfxPages := b } :=
  h.same rfl rfl rfl rfl rfl rfl rfl rfl ⟨rfl, rfl, rfl⟩ rfl

theorem keep_evictNode {i s} (h : Keeps s₀ s) : Keeps s₀ (evictNode i s) := by
  unfold evictNode
  extract_lets n s1 next s2 s3 s4 s5 used gone s6
  have h2 : Keeps s₀ s2 := keep_forEach (keep_dlyDel h) fun _ _ hs => keep_modNode hs
  have h3 : Keeps s₀ s3 := by
    subst s3
    refine keep_set h2 ?_ ?_ ?_ ?_ ?_
    · intro a b; exact memory_putBytes a _ _
    · intro a b; exact b
    · exact id
    · rfl
    · rfl
  have h4 : Keeps s₀ s4 := keep_ite h3 (keep_freePage h3)
  have h5 : Keeps s₀ s5 := keep_forEach h4 fun _ _ hs => keep_modFree hs
  exact keep_bumpSat (keep_forEach (keep_pfxPages h5) fun _ _ hs => keep_freePage hs)

theorem keep_evictDue {n a} (h : Keeps s₀ a) : Keeps s₀ (evictDue n a) := by
  induction n generalizing  a with
  | zero => exact h
  | succ n ih =>
    unfold evictDue
    repeat' first
      | with_reducible assumption
      | intro _
      | (with_reducible first | apply ih | apply keep_evictNode)
      | (with_reducible first | apply keep_ite | apply keep_ite2)
      | extract_lets | split
      | refine keep_eq2 (by with_reducible assumption) ?_

theorem keep_evictFor {b c n a} (h : Keeps s₀ a) : Keeps s₀ (evictFor b c n a) := by
  induction n generalizing  a with
  | zero => exact h
  | succ n ih =>
    unfold evictFor
    repeat' first
      | with_reducible assumption
      | intro _
      | (with_reducible first | apply ih | apply keep_evictNode)
      | (with_reducible first | apply keep_ite | apply keep_ite2)
      | extract_lets | split
      | refine keep_eq2 (by with_reducible assumption) ?_

theorem keep_copyOnWrite {a0 a1 a2 a3} (h : Keeps s₀ a3) : Keeps s₀ (copyOnWrite a0 a1 a2 a3) := by
  delta copyOnWrite
  extract_lets x0 x1
  try clear_value x1; try clear_value x0
  repeat' first
    | with_reducible assumption | intro _
    | (with_reducible first | apply keep_forEach | apply keep_allocPage | apply keep_nodeUnref | apply keep_setPages | apply keep_ite | apply keep_ite1 | apply keep_ite2 | apply keep_ite3)
    | extract_lets | split
    | refine keep_eq2 (by with_reducible assumption) ?_ | refine keep_eq1 (by with_reducible assumption) ?_
    | with_reducible refine keep_set ?_ ?_ ?_ ?_ ?_ ?_
    | rfl
    | (with_reducible first | apply memory_put | apply memory_putBytes | apply memory_filter | apply memory_delRange | apply memory_copyRange | apply memory_foldl | apply memory_setRange | apply memory_rowApply | apply memory_unitApply)
    | assumption

/-! ### Quiesce -/

theorem keep_loseCmds {a0 a1} (h : Keeps s₀ a1) : Keeps s₀ (loseCmds a0 a1) := by
  delta loseCmds
  extract_lets x0 x1 x2 x3 x4 x5
  have h2 : Keeps s₀ x2 := by
    try subst x2
    repeat' first
      | with_reducible assumption | intro _
      | (with_reducible first | apply keep_post | apply keep_when_ | apply keep_finishOpen | apply keep_dropTimers | apply keep_finishPend | apply keep_modSide | apply keep_modEnt | apply keep_ite)
      | extract_lets | split
      | refine keep_eq2 (by with_reducible assumption) ?_ | refine keep_eq1 (by with_reducible assumption) ?_
  have h3 : Keeps s₀ x3 := by
    try subst x3
    repeat' first
      | with_reducible assumption | intro _
      | (with_reducible first | apply keep_post | apply keep_when_ | apply keep_finishOpen | apply keep_dropTimers | apply keep_finishPend | apply keep_modSide | apply keep_modEnt | apply keep_ite)
      | extract_lets | split
      | refine keep_eq2 (by with_reducible assumption) ?_ | refine keep_eq1 (by with_reducible assumption) ?_
  have h4 : Keeps s₀ x4 := by
    try subst x4
    repeat' first
      | with_reducible assumption | intro _
      | (with_reducible first | apply keep_post | apply keep_when_ | apply keep_finishOpen | apply keep_dropTimers | apply keep_finishPend | apply keep_modSide | apply keep_modEnt | apply keep_ite)
      | extract_lets | split
      | refine keep_eq2 (by with_reducible assumption) ?_ | refine keep_eq1 (by with_reducible assumption) ?_
  have h5 : Keeps s₀ x5 := by
    try subst x5
    repeat' first
      | with_reducible assumption | intro _
      | (with_reducible first | apply keep_post | apply keep_when_ | apply keep_finishOpen | apply keep_dropTimers | apply keep_finishPend | apply keep_modSide | apply keep_modEnt | apply keep_ite)
      | extract_lets | split
      | refine keep_eq2 (by with_reducible assumption) ?_ | refine keep_eq1 (by with_reducible assumption) ?_
  try clear_value x5; try clear_value x4; try clear_value x3; try clear_value x2; try clear_value x1; try clear_value x0
  repeat' first
    | with_reducible assumption | intro _
    | (with_reducible first | apply keep_post | apply keep_when_ | apply keep_finishOpen | apply keep_dropTimers | apply keep_finishPend | apply keep_modSide | apply keep_modEnt | apply keep_ite)
    | extract_lets | split
    | refine keep_eq2 (by with_reducible assumption) ?_ | refine keep_eq1 (by with_reducible assumption) ?_

theorem keep_loseFetched {a0 a1 a2} (h : Keeps s₀ a2) : Keeps s₀ (loseFetched a0 a1 a2) := by
  delta loseFetched
  extract_lets x0
  try clear_value x0
  repeat' first
    | with_reducible assumption | intro _
    | (with_reducible first | apply keep_post | apply keep_tillFinal | apply keep_unreserve | apply keep_ite)
    | split

theorem keep_loseBatch {a0 a1} (h : Keeps s₀ a1) : Keeps s₀ (loseBatch a0 a1) := by
  delta loseBatch
  extract_lets x0 x1
  have h0 : Keeps s₀ x0 := by
    try subst x0
    repeat' first
      | with_reducible assumption | intro _
      | (with_reducible first | apply keep_when_ | apply keep_post | apply keep_tillFinal)
      | with_reducible refine keep_set ?_ ?_ ?_ ?_ ?_ ?_
      | rfl
      | (with_reducible first | apply memory_put | apply memory_putBytes | apply memory_filter | apply memory_delRange | apply memory_copyRange | apply memory_foldl | apply memory_setRange | apply memory_rowApply | apply memory_unitApply)
      | assumption
  have h1 : Keeps s₀ x1 := by
    try subst x1
    repeat' first
      | with_reducible assumption | intro _
      | (with_reducible first | apply keep_when_ | apply keep_post | apply keep_tillFinal)
      | with_reducible refine keep_set ?_ ?_ ?_ ?_ ?_ ?_
      | rfl
      | (with_reducible first | apply memory_put | apply memory_putBytes | apply memory_filter | apply memory_delRange | apply memory_copyRange | apply memory_foldl | apply memory_setRange | apply memory_rowApply | apply memory_unitApply)
      | assumption
  try clear_value x1; try clear_value x0
  repeat' first
    | with_reducible assumption | intro _
    | (with_reducible first | apply keep_when_ | apply keep_post | apply keep_tillFinal)
    | with_reducible refine keep_set ?_ ?_ ?_ ?_ ?_ ?_
    | rfl
    | (with_reducible first | apply memory_put | apply memory_putBytes | apply memory_filter | apply memory_delRange | apply memory_copyRange | apply memory_foldl | apply memory_setRange | apply memory_rowApply | apply memory_unitApply)
    | assumption

theorem keep_loseTriggers {a0 a1} (h : Keeps s₀ a1) : Keeps s₀ (loseTriggers a0 a1) := by
  delta loseTriggers
  extract_lets x0 x1 x2 x3 x4
  have h1 : Keeps s₀ x1 := by
    try subst x1
    repeat' first
      | with_reducible assumption | intro _
      | (with_reducible first | apply keep_forEach | apply keep_tillFinal | apply keep_post | apply keep_unreserve | apply keep_ite | apply keep_ite1 | apply keep_ite2 | apply keep_ite3)
      | split
      | with_reducible refine keep_set ?_ ?_ ?_ ?_ ?_ ?_
      | rfl
      | (with_reducible first | apply memory_put | apply memory_putBytes | apply memory_filter | apply memory_delRange | apply memory_copyRange | apply memory_foldl | apply memory_setRange | apply memory_rowApply | apply memory_unitApply)
      | assumption
  try clear_value x4; try clear_value x3; try clear_value x1; try clear_value x0
  repeat' first
    | with_reducible assumption | intro _
    | (with_reducible first | apply keep_forEach | apply keep_tillFinal | apply keep_post | apply keep_unreserve | apply keep_ite | apply keep_ite1 | apply keep_ite2 | apply keep_ite3)
    | split
    | with_reducible refine keep_set ?_ ?_ ?_ ?_ ?_ ?_
    | rfl
    | (with_reducible first | apply memory_put | apply memory_putBytes | apply memory_filter | apply memory_delRange | apply memory_copyRange | apply memory_foldl | apply memory_setRange | apply memory_rowApply | apply memory_unitApply)
    | assumption

theorem keep_farewellOf {a0 a1} (h : Keeps s₀ a1) : Keeps s₀ (farewellOf a0 a1) := by
  delta farewellOf
  extract_lets x0 x1 x2 x3 x4 x5 x6
  have h0 : Keeps s₀ x0 := by
    try subst x0
    repeat' first
      | with_reducible assumption | intro _
      | (with_reducible first | apply keep_loseTriggers | apply keep_forEach | apply keep_loseBatch | apply keep_loseCmds | apply keep_loseFetched | apply keep_post | apply keep_modChan | apply keep_ite | apply keep_ite1 | apply keep_ite2 | apply keep_ite3)
      | split
      | with_reducible refine keep_set ?_ ?_ ?_ ?_ ?_ ?_
      | rfl
      | (with_reducible first | apply memory_put | apply memory_putBytes | apply memory_filter | apply memory_delRange | apply memory_copyRange | apply memory_foldl | apply memory_setRange | apply memory_rowApply | apply memory_unitApply)
      | assumption
  have h4 : Keeps s₀ x4 := by
    try subst x4
    repeat' first
      | with_reducible assumption | intro _
      | (with_reducible first | apply keep_loseTriggers | apply keep_forEach | apply keep_loseBatch | apply keep_loseCmds | apply keep_loseFetched | apply keep_post | apply keep_modChan | apply keep_ite | apply keep_ite1 | apply keep_ite2 | apply keep_ite3)
      | split
      | with_reducible refine keep_set ?_ ?_ ?_ ?_ ?_ ?_
      | rfl
      | (with_reducible first | apply memory_put | apply memory_putBytes | apply memory_filter | apply memory_delRange | apply memory_copyRange | apply memory_foldl | apply memory_setRange | apply memory_rowApply | apply memory_unitApply)
      | assumption
  have h5 : Keeps s₀ x5 := by
    try subst x5
    repeat' first
      | with_reducible assumption | intro _
      | (with_reducible first | apply keep_loseTriggers | apply keep_forEach | apply keep_loseBatch | apply keep_loseCmds | apply keep_loseFetched | apply keep_post | apply keep_modChan | apply keep_ite | apply keep_ite1 | apply keep_ite2 | apply keep_ite3)
      | split
      | with_reducible refine keep_set ?_ ?_ ?_ ?_ ?_ ?_
      | rfl
      | (with_reducible first | apply memory_put | apply memory_putBytes | apply memory_filter | apply memory_delRange | apply memory_copyRange | apply memory_foldl | apply memory_setRange | apply memory_rowApply | apply memory_unitApply)
      | assumption
  try clear_value x6; try clear_value x5; try clear_value x4; try clear_value x2; try clear_value x1; try clear_value x0
  repeat' first
    | with_reducible assumption | intro _
    | (with_reducible first | apply keep_loseTriggers | apply keep_forEach | apply keep_loseBatch | apply keep_loseCmds | apply keep_loseFetched | apply keep_post | apply keep_modChan | apply keep_ite | apply keep_ite1 | apply keep_ite2 | apply keep_ite3)
    | split
    | with_reducible refine keep_set ?_ ?_ ?_ ?_ ?_ ?_
    | rfl
    | (with_reducible first | apply memory_put | apply memory_putBytes | apply memory_filter | apply memory_delRange | apply memory_copyRange | apply memory_foldl | apply memory_setRange | apply memory_rowApply | apply memory_unitApply)
    | assumption

theorem keep_restoreRec {a0 a1 a2} (h : Keeps s₀ a2) : Keeps s₀ (restoreRec a0 a1 a2) := by
  delta restoreRec
  extract_lets x0 x1 x2 x3 x4 x5 x6 x7
  have h6 : Keeps s₀ x6 := by
    try subst x6
    repeat' first
      | with_reducible assumption | intro _
      | (with_reducible first | apply keep_dlyIns | apply keep_forEach | apply keep_modFree | apply keep_ite | apply keep_ite1 | apply keep_ite2 | apply keep_ite3)
      | split
      | with_reducible refine keep_set ?_ ?_ ?_ ?_ ?_ ?_
      | rfl
      | (with_reducible first | apply memory_put | apply memory_putBytes | apply memory_filter | apply memory_delRange | apply memory_copyRange | apply memory_foldl | apply memory_setRange | apply memory_rowApply | apply memory_unitApply)
      | assumption
  have h7 : Keeps s₀ x7 := by
    try subst x7
    repeat' first
      | with_reducible assumption | intro _
      | (with_reducible first | apply keep_dlyIns | apply keep_forEach | apply keep_modFree | apply keep_ite | apply keep_ite1 | apply keep_ite2 | apply keep_ite3)
      | split
      | with_reducible refine keep_set ?_ ?_ ?_ ?_ ?_ ?_
      | rfl
      | (with_reducible first | apply memory_put | apply memory_putBytes | apply memory_filter | apply memory_delRange | apply memory_copyRange | apply memory_foldl | apply memory_setRange | apply memory_rowApply | apply memory_unitApply)
      | assumption
  try clear_value x7; try clear_value x6; try clear_value x5; try clear_value x4; try clear_value x3; try clear_value x2; try clear_value x1; try clear_value x0
  repeat' first
    | with_reducible assumption | intro _
    | (with_reducible first | apply keep_dlyIns | apply keep_forEach | apply keep_modFree | apply keep_ite | apply keep_ite1 | apply keep_ite2 | apply keep_ite3)
    | split
    | with_reducible refine keep_set ?_ ?_ ?_ ?_ ?_ ?_
    | rfl
    | (with_reducible first | apply memory_put | apply memory_putBytes | apply memory_filter | apply memory_delRange | apply memory_copyRange | apply memory_foldl | apply memory_setRange | apply memory_rowApply | apply memory_unitApply)
    | assumption

theorem keep_restoreRecs {a0 a1 a2 a3} (h : Keeps s₀ a3) : Keeps s₀ (restoreRecs a0 a1 a2 a3) := by
  delta restoreRecs
  extract_lets x0
  try clear_value x0
  repeat' first
    | with_reducible assumption | intro _
    | (with_reducible first | apply keep_logEv | apply keep_forEach | apply keep_restoreRec)

theorem keep_restoreGens {a0 a1} (h : Keeps s₀ a1) : Keeps s₀ (restoreGens a0 a1) := by
  delta restoreGens
  repeat' first
    | with_reducible assumption | intro _
    | (with_reducible first | apply keep_forEach | apply keep_ite)
    | split
    | with_reducible refine keep_set ?_ ?_ ?_ ?_ ?_ ?_
    | rfl
    | (with_reducible first | apply memory_put | apply memory_putBytes | apply memory_filter | apply memory_delRange | apply memory_copyRange | apply memory_foldl | apply memory_setRange | apply memory_rowApply | apply memory_unitApply)
    | assumption

theorem keep_dropStallItems {a0 a1} (h : Keeps s₀ a1) : Keeps s₀ (dropStallItems a0 a1) := by
  delta dropStallItems
  extract_lets x0
  try clear_value x0
  repeat' first
    | with_reducible assumption | intro _
    | (with_reducible first | apply keep_modWks | apply keep_forEach | apply keep_freeItem | apply keep_ite | apply keep_ite1 | apply keep_ite2 | apply keep_ite3)
    | split

theorem keep_freeQueues {a0 a1} (h : Keeps s₀ a1) : Keeps s₀ (freeQueues a0 a1) := by
  delta freeQueues
  extract_lets x0 x1 x2 x3 x4
  have h2 : Keeps s₀ x2 := by
    try subst x2
    repeat' first
      | with_reducible assumption | intro _
      | (with_reducible first | apply keep_forEach | apply keep_bumpGen)
      | with_reducible refine keep_set ?_ ?_ ?_ ?_ ?_ ?_
      | rfl
      | (with_reducible first | apply memory_put | apply memory_putBytes | apply memory_filter | apply memory_delRange | apply memory_copyRange | apply memory_foldl | apply memory_setRange | apply memory_rowApply | apply memory_unitApply)
      | assumption
  try clear_value x4; try clear_value x3; try clear_value x2; try clear_value x1; try clear_value x0
  repeat' first
    | with_reducible assumption | intro _
    | (with_reducible first | apply keep_forEach | apply keep_bumpGen)
    | with_reducible refine keep_set ?_ ?_ ?_ ?_ ?_ ?_
    | rfl
    | (with_reducible first | apply memory_put | apply memory_putBytes | apply memory_filter | apply memory_delRange | apply memory_copyRange | apply memory_foldl | apply memory_setRange | apply memory_rowApply | apply memory_unitApply)
    | assumption

theorem keep_freeEntries {a0 a1} (h : Keeps s₀ a1) : Keeps s₀ (freeEntries a0 a1) := by
  delta freeEntries
  extract_lets x0 x1 x2 x3 x4 x5 x6
  have h3 : Keeps s₀ x3 := by
    try subst x3
    repeat' first
      | with_reducible assumption | intro _
      | (with_reducible first | apply keep_forEach | apply keep_bumpGen)
      | with_reducible refine keep_set ?_ ?_ ?_ ?_ ?_ ?_
      | rfl
      | (with_reducible first | apply memory_put | apply memory_putBytes | apply memory_filter | apply memory_delRange | apply memory_copyRange | apply memory_foldl | apply memory_setRange | apply memory_rowApply | apply memory_unitApply)
      | assumption
  try clear_value x4; try clear_value x3; try clear_value x2; try clear_value x1; try clear_value x0
  repeat' first
    | with_reducible assumption | intro _
    | (with_reducible first | apply keep_forEach | apply keep_bumpGen)
    | with_reducible refine keep_set ?_ ?_ ?_ ?_ ?_ ?_
    | rfl
    | (with_reducible first | apply memory_put | apply memory_putBytes | apply memory_filter | apply memory_delRange | apply memory_copyRange | apply memory_foldl | apply memory_setRange | apply memory_rowApply | apply memory_unitApply)
    | assumption

theorem keep_freeStallPages {a0 a1} (h : Keeps s₀ a1) : Keeps s₀ (freeStallPages a0 a1) := by
  delta freeStallPages
  extract_lets x0
  try clear_value x0
  repeat' first
    | with_reducible assumption | intro _
    | with_reducible refine keep_set ?_ ?_ ?_ ?_ ?_ ?_
    | rfl
    | (with_reducible first | apply memory_put | apply memory_putBytes | apply memory_filter | apply memory_delRange | apply memory_copyRange | apply memory_foldl | apply memory_setRange | apply memory_rowApply | apply memory_unitApply)
    | assumption

theorem keep_tellStallReset {a0 a1} (h : Keeps s₀ a1) : Keeps s₀ (tellStallReset a0 a1) := by
  delta tellStallReset
  repeat' first
    | with_reducible assumption | intro _
    | (with_reducible first | apply keep_forEach | apply keep_ctlUp | apply keep_ite | apply keep_ite1 | apply keep_ite2 | apply keep_ite3)
    | extract_lets | split
    | refine keep_eq2 (by with_reducible assumption) ?_ | refine keep_eq1 (by with_reducible assumption) ?_

theorem keep_stallApply {a0 a1} (h : Keeps s₀ a1) : Keeps s₀ (stallApply a0 a1) := by
  delta stallApply
  extract_lets x0 x1 x2 x3 x4 x5
  have h0 : Keeps s₀ x0 := by
    try subst x0
    repeat' first
      | with_reducible assumption | intro _
      | (with_reducible first | apply keep_modRst | apply keep_modDly | apply keep_freeStallPages | apply keep_freeEntries | apply keep_freeQueues | apply keep_dropStallItems | apply keep_clearRegs | apply keep_tellStallReset | apply keep_restoreRecs)
      | extract_lets | split
      | refine keep_eq2 (by with_reducible assumption) ?_ | refine keep_eq1 (by with_reducible assumption) ?_
      | with_reducible refine keep_set ?_ ?_ ?_ ?_ ?_ ?_
      | rfl
      | (with_reducible first | apply memory_put | apply memory_putBytes | apply memory_filter | apply memory_delRange | apply memory_copyRange | apply memory_foldl | apply memory_setRange | apply memory_rowApply | apply memory_unitApply)
      | assumption
  have h2 : Keeps s₀ x2 := by
    try subst x2
    repeat' first
      | with_reducible assumption | intro _
      | (with_reducible first | apply keep_modRst | apply keep_modDly | apply keep_freeStallPages | apply keep_freeEntries | apply keep_freeQueues | apply keep_dropStallItems | apply keep_clearRegs | apply keep_tellStallReset | apply keep_restoreRecs)
      | extract_lets | split
      | refine keep_eq2 (by with_reducible assumption) ?_ | refine keep_eq1 (by with_reducible assumption) ?_
      | with_reducible refine keep_set ?_ ?_ ?_ ?_ ?_ ?_
      | rfl
      | (with_reducible first | apply memory_put | apply memory_putBytes | apply memory_filter | apply memory_delRange | apply memory_copyRange | apply memory_foldl | apply memory_setRange | apply memory_rowApply | apply memory_unitApply)
      | assumption
  have h3 : Keeps s₀ x3 := by
    try subst x3
    repeat' first
      | with_reducible assumption | intro _
      | (with_reducible first | apply keep_modRst | apply keep_modDly | apply keep_freeStallPages | apply keep_freeEntries | apply keep_freeQueues | apply keep_dropStallItems | apply keep_clearRegs | apply keep_tellStallReset | apply keep_restoreRecs)
      | extract_lets | split
      | refine keep_eq2 (by with_reducible assumption) ?_ | refine keep_eq1 (by with_reducible assumption) ?_
      | with_reducible refine keep_set ?_ ?_ ?_ ?_ ?_ ?_
      | rfl
      | (with_reducible first | apply memory_put | apply memory_putBytes | apply memory_filter | apply memory_delRange | apply memory_copyRange | apply memory_foldl | apply memory_setRange | apply memory_rowApply | apply memory_unitApply)
      | assumption
  have h4 : Keeps s₀ x4 := by
    try subst x4
    repeat' first
      | with_reducible assumption | intro _
      | (with_reducible first | apply keep_modRst | apply keep_modDly | apply keep_freeStallPages | apply keep_freeEntries | apply keep_freeQueues | apply keep_dropStallItems | apply keep_clearRegs | apply keep_tellStallReset | apply keep_restoreRecs)
      | extract_lets | split
      | refine keep_eq2 (by with_reducible assumption) ?_ | refine keep_eq1 (by with_reducible assumption) ?_
      | with_reducible refine keep_set ?_ ?_ ?_ ?_ ?_ ?_
      | rfl
      | (with_reducible first | apply memory_put | apply memory_putBytes | apply memory_filter | apply memory_delRange | apply memory_copyRange | apply memory_foldl | apply memory_setRange | apply memory_rowApply | apply memory_unitApply)
      | assumption
  have h5 : Keeps s₀ x5 := by
    try subst x5
    repeat' first
      | with_reducible assumption | intro _
      | (with_reducible first | apply keep_modRst | apply keep_modDly | apply keep_freeStallPages | apply keep_freeEntries | apply keep_freeQueues | apply keep_dropStallItems | apply keep_clearRegs | apply keep_tellStallReset | apply keep_restoreRecs)
      | extract_lets | split
      | refine keep_eq2 (by with_reducible assumption) ?_ | refine keep_eq1 (by with_reducible assumption) ?_
      | with_reducible refine keep_set ?_ ?_ ?_ ?_ ?_ ?_
      | rfl
      | (with_reducible first | apply memory_put | apply memory_putBytes | apply memory_filter | apply memory_delRange | apply memory_copyRange | apply memory_foldl | apply memory_setRange | apply memory_rowApply | apply memory_unitApply)
      | assumption
  try clear_value x5; try clear_value x4; try clear_value x3; try clear_value x2; try clear_value x0
  repeat' first
    | with_reducible assumption | intro _
    | (with_reducible first | apply keep_modRst | apply keep_modDly | apply keep_freeStallPages | apply keep_freeEntries | apply keep_freeQueues | apply keep_dropStallItems | apply keep_clearRegs | apply keep_tellStallReset | apply keep_restoreRecs)
    | extract_lets | split
    | refine keep_eq2 (by with_reducible assumption) ?_ | refine keep_eq1 (by with_reducible assumption) ?_
    | with_reducible refine keep_set ?_ ?_ ?_ ?_ ?_ ?_
    | rfl
    | (with_reducible first | apply memory_put | apply memory_putBytes | apply memory_filter | apply memory_delRange | apply memory_copyRange | apply memory_foldl | apply memory_setRange | apply memory_rowApply | apply memory_unitApply)
    | assumption

theorem keep_blockStat {a0 a1} (h : Keeps s₀ a1) : Keeps s₀ (blockStat a0 a1) := by
  delta blockStat
  repeat' first
    | with_reducible assumption | intro _
    | (with_reducible first | apply keep_wrf)

theorem keep_stallTry {a0} (h : Keeps s₀ a0) : Keeps s₀ (stallTry a0) := by
  delta stallTry
  repeat' first
    | with_reducible assumption | intro _
    | (with_reducible first | apply keep_stallApply | apply keep_ite)
    | extract_lets | split
    | refine keep_eq2 (by with_reducible assumption) ?_ | refine keep_eq1 (by with_reducible assumption) ?_

theorem keep_stallBegin {a0 a1} (h : Keeps s₀ a1) : Keeps s₀ (stallBegin a0 a1) := by
  delta stallBegin
  extract_lets x0
  have h0 : Keeps s₀ x0 := by
    try subst x0
    repeat' first
      | with_reducible assumption | intro _
      | (with_reducible first | apply keep_modRst | apply keep_stallTry | apply keep_farewellOf)
  try clear_value x0
  repeat' first
    | with_reducible assumption | intro _
    | (with_reducible first | apply keep_modRst | apply keep_stallTry | apply keep_farewellOf)

theorem keep_cycleDom {a0 a1} (h : Keeps s₀ a1) : Keeps s₀ (cycleDom a0 a1) := by
  delta cycleDom
  extract_lets x0 x1 x2
  have h0 : Keeps s₀ x0 := by
    try subst x0
    repeat' first
      | with_reducible assumption | intro _
      | (with_reducible first | apply keep_modRst | apply keep_startTrans | apply keep_setDom | apply keep_ite)
      | split
  try clear_value x2; try clear_value x1; try clear_value x0
  repeat' first
    | with_reducible assumption | intro _
    | (with_reducible first | apply keep_modRst | apply keep_startTrans | apply keep_setDom | apply keep_ite)
    | split

theorem keep_ccrStop {a0 a1} (h : Keeps s₀ a1) : Keeps s₀ (ccrStop a0 a1) := by
  delta ccrStop
  extract_lets x0
  have h0 : Keeps s₀ x0 := by
    try subst x0
    repeat' first
      | with_reducible assumption | intro _
      | (with_reducible first | apply keep_modThread | apply keep_cycleDom | apply keep_ite)
      | extract_lets | split
      | refine keep_eq2 (by with_reducible assumption) ?_ | refine keep_eq1 (by with_reducible assumption) ?_
  try clear_value x0
  repeat' first
    | with_reducible assumption | intro _
    | (with_reducible first | apply keep_modThread | apply keep_cycleDom | apply keep_ite)
    | extract_lets | split
    | refine keep_eq2 (by with_reducible assumption) ?_ | refine keep_eq1 (by with_reducible assumption) ?_

/-! ### Channels -/

theorem keep_chCode {a0 a1 a2} (h : Keeps s₀ a2) : Keeps s₀ (chCode a0 a1 a2) := by
  delta chCode
  repeat' first
    | with_reducible assumption | intro _
    | (with_reducible first | apply keep_wrf)

theorem keep_chCreate {a0 a1 a2} (h : Keeps s₀ a2) : Keeps s₀ (chCreate a0 a1 a2) := by
  delta chCreate
  extract_lets x0 x1 x2 x3 x4 x5 x6
  try clear_value x6; try clear_value x5; try clear_value x4; try clear_value x2; try clear_value x1; try clear_value x0
  repeat' first
    | with_reducible assumption | intro _
    | (with_reducible first | apply keep_chCode | apply keep_modChan | apply keep_wr64 | apply keep_ite)
    | extract_lets | split
    | refine keep_eq2 (by with_reducible assumption) ?_ | refine keep_eq1 (by with_reducible assumption) ?_
    | with_reducible refine keep_set ?_ ?_ ?_ ?_ ?_ ?_
    | rfl
    | (with_reducible first | apply memory_put | apply memory_putBytes | apply memory_filter | apply memory_delRange | apply memory_copyRange | apply memory_foldl | apply memory_setRange | apply memory_rowApply | apply memory_unitApply)
    | assumption

theorem keep_execChCreate {a0 a1 a2} {t} (h : Keeps s₀ a2) (e : execChCreate a0 a1 a2 = .next t) : Keeps s₀ t := by
  delta execChCreate at e
  refine keep_run e ?_
  clear e
  repeat' first
    | with_reducible assumption | intro _
    | (with_reducible first | apply keep_chCreate)

theorem keep_chDestroy {a0 a1 a2} (h : Keeps s₀ a2) : Keeps s₀ (chDestroy a0 a1 a2) := by
  delta chDestroy
  repeat' first
    | with_reducible assumption | intro _
    | (with_reducible first | apply keep_chCode | apply keep_setBit | apply keep_modChan | apply keep_forEach | apply keep_takeClose | apply keep_freeChan | apply keep_orphan | apply keep_ite | apply keep_ite1 | apply keep_ite2 | apply keep_ite3)
    | extract_lets | split
    | refine keep_eq2 (by with_reducible assumption) ?_ | refine keep_eq1 (by with_reducible assumption) ?_
    | with_reducible refine keep_set ?_ ?_ ?_ ?_ ?_ ?_
    | rfl
    | (with_reducible first | apply memory_put | apply memory_putBytes | apply memory_filter | apply memory_delRange | apply memory_copyRange | apply memory_foldl | apply memory_setRange | apply memory_rowApply | apply memory_unitApply)
    | assumption

theorem keep_execChDestroy {a0 a1 a2} {t} (h : Keeps s₀ a2) (e : execChDestroy a0 a1 a2 = .next t) : Keeps s₀ t := by
  delta execChDestroy at e
  refine keep_run e ?_
  clear e
  repeat' first
    | with_reducible assumption | intro _
    | (with_reducible first | apply keep_chDestroy)

theorem keep_chModify {a0 a1 a2} (h : Keeps s₀ a2) : Keeps s₀ (chModify a0 a1 a2) := by
  delta chModify
  repeat' first
    | with_reducible assumption | intro _
    | (with_reducible first | apply keep_chCode | apply keep_modChan | apply keep_ite | apply keep_ite1 | apply keep_ite2 | apply keep_ite3)
    | extract_lets | split
    | refine keep_eq2 (by with_reducible assumption) ?_ | refine keep_eq1 (by with_reducible assumption) ?_

theorem keep_execChModify {a0 a1 a2} {t} (h : Keeps s₀ a2) (e : execChModify a0 a1 a2 = .next t) : Keeps s₀ t := by
  delta execChModify at e
  refine keep_run e ?_
  clear e
  repeat' first
    | with_reducible assumption | intro _
    | (with_reducible first | apply keep_chModify)

theorem keep_bellWake {a0 a1} (h : Keeps s₀ a1) : Keeps s₀ (bellWake a0 a1) := by
  delta bellWake
  repeat' first
    | with_reducible assumption | intro _
    | (with_reducible first | apply keep_wakeAll)

theorem keep_badBell {a0 a1} (h : Keeps s₀ a1) : Keeps s₀ (badBell a0 a1) := by
  delta badBell
  repeat' first
    | with_reducible assumption | intro _
    | (with_reducible first | apply keep_logEv | apply keep_setBit)

theorem keep_sqDb {a0 a1 a2} (h : Keeps s₀ a2) : Keeps s₀ (sqDb a0 a1 a2) := by
  delta sqDb
  extract_lets x0
  try clear_value x0
  repeat' first
    | with_reducible assumption | intro _
    | (with_reducible first | apply keep_badBell | apply keep_bellWake | apply keep_modChan | apply keep_ite)
    | extract_lets | split
    | refine keep_eq2 (by with_reducible assumption) ?_ | refine keep_eq1 (by with_reducible assumption) ?_

theorem keep_execSqDb {a0 a1 a2} {t} (h : Keeps s₀ a2) (e : execSqDb a0 a1 a2 = .next t) : Keeps s₀ t := by
  delta execSqDb at e
  refine keep_run e ?_
  clear e
  repeat' first
    | with_reducible assumption | intro _
    | (with_reducible first | apply keep_sqDb)

theorem keep_cqDb {a0 a1 a2} (h : Keeps s₀ a2) : Keeps s₀ (cqDb a0 a1 a2) := by
  delta cqDb
  extract_lets x0
  try clear_value x0
  repeat' first
    | with_reducible assumption | intro _
    | (with_reducible first | apply keep_badBell | apply keep_modChan | apply keep_takeHeldEntry | apply keep_bellWake | apply keep_ite)
    | extract_lets | split
    | refine keep_eq2 (by with_reducible assumption) ?_ | refine keep_eq1 (by with_reducible assumption) ?_

theorem keep_execCqDb {a0 a1 a2} {t} (h : Keeps s₀ a2) (e : execCqDb a0 a1 a2 = .next t) : Keeps s₀ t := by
  delta execCqDb at e
  refine keep_run e ?_
  clear e
  repeat' first
    | with_reducible assumption | intro _
    | (with_reducible first | apply keep_cqDb)

theorem keep_queueFail {a0 a1} (h : Keeps s₀ a1) : Keeps s₀ (queueFail a0 a1) := by
  delta queueFail
  extract_lets x0
  try clear_value x0
  repeat' first
    | with_reducible assumption | intro _
    | (with_reducible first | apply keep_chanError | apply keep_freeChan | apply keep_modChan | apply keep_ite)
    | split

theorem keep_execQueueDmaFail {a0 a1} {t} (h : Keeps s₀ a1) (e : execQueueDmaFail a0 a1 = .next t) : Keeps s₀ t := by
  delta execQueueDmaFail at e
  refine keep_run e ?_
  clear e
  repeat' first
    | with_reducible assumption | intro _
    | (with_reducible first | apply keep_queueFail)

theorem keep_fetchEntry {a0 a1 a2} (h : Keeps s₀ a2) : Keeps s₀ (fetchEntry a0 a1 a2) := by
  delta fetchEntry
  extract_lets x0 x1 x2
  have h1 : Keeps s₀ x1 := by
    try subst x1
    repeat' first
      | with_reducible assumption | intro _
      | (with_reducible first | apply keep_queueFail | apply keep_modTill | apply keep_modChan | apply keep_takeHeldEntry | apply keep_emit | apply keep_ite | apply keep_ite1 | apply keep_ite2 | apply keep_ite3)
      | extract_lets | split
      | refine keep_eq2 (by with_reducible assumption) ?_ | refine keep_eq1 (by with_reducible assumption) ?_
  have h2 : Keeps s₀ x2 := by
    try subst x2
    repeat' first
      | with_reducible assumption | intro _
      | (with_reducible first | apply keep_queueFail | apply keep_modTill | apply keep_modChan | apply keep_takeHeldEntry | apply keep_emit | apply keep_ite | apply keep_ite1 | apply keep_ite2 | apply keep_ite3)
      | extract_lets | split
      | refine keep_eq2 (by with_reducible assumption) ?_ | refine keep_eq1 (by with_reducible assumption) ?_
  try clear_value x2; try clear_value x1; try clear_value x0
  repeat' first
    | with_reducible assumption | intro _
    | (with_reducible first | apply keep_queueFail | apply keep_modTill | apply keep_modChan | apply keep_takeHeldEntry | apply keep_emit | apply keep_ite | apply keep_ite1 | apply keep_ite2 | apply keep_ite3)
    | extract_lets | split
    | refine keep_eq2 (by with_reducible assumption) ?_ | refine keep_eq1 (by with_reducible assumption) ?_

theorem keep_commandFetch {a0 a1 a2} (h : Keeps s₀ a2) : Keeps s₀ (commandFetch a0 a1 a2) := by
  delta commandFetch
  repeat' first
    | with_reducible assumption | intro _
    | (with_reducible first | apply keep_chanError | apply keep_fetchEntry | apply keep_ite)
    | split

theorem keep_execCommandFetch {a0 a1 a2} {t} (h : Keeps s₀ a2) (e : execCommandFetch a0 a1 a2 = .next t) : Keeps s₀ t := by
  delta execCommandFetch at e
  refine keep_run e ?_
  clear e
  repeat' first
    | with_reducible assumption | intro _
    | (with_reducible first | apply keep_commandFetch)

theorem keep_chSignal {a0 a1} (h : Keeps s₀ a1) : Keeps s₀ (chSignal a0 a1) := by
  delta chSignal
  extract_lets x0
  try clear_value x0
  repeat' first
    | with_reducible assumption | intro _
    | (with_reducible first | apply keep_stallMsix | apply keep_modChan)

theorem keep_completionPost {a0 a1} (h : Keeps s₀ a1) : Keeps s₀ (completionPost a0 a1) := by
  delta completionPost
  extract_lets x0 x1
  try clear_value x0
  repeat' first
    | with_reducible assumption | intro _
    | (with_reducible first | apply keep_emit | apply keep_modChan | apply keep_chSignal | apply keep_stallTry | apply keep_freeChan | apply keep_ite)
    | extract_lets | split
    | refine keep_eq2 (by with_reducible assumption) ?_ | refine keep_eq1 (by with_reducible assumption) ?_

theorem keep_execCompletionPost {a0 a1} {t} (h : Keeps s₀ a1) (e : execCompletionPost a0 a1 = .next t) : Keeps s₀ t := by
  delta execCompletionPost at e
  refine keep_run e ?_
  clear e
  repeat' first
    | with_reducible assumption | intro _
    | (with_reducible first | apply keep_completionPost)

theorem keep_coalesceTimer {a0 a1} (h : Keeps s₀ a1) : Keeps s₀ (coalesceTimer a0 a1) := by
  delta coalesceTimer
  extract_lets x0
  try clear_value x0
  repeat' first
    | with_reducible assumption | intro _
    | (with_reducible first | apply keep_chSignal | apply keep_ite)
    | extract_lets | split
    | refine keep_eq2 (by with_reducible assumption) ?_ | refine keep_eq1 (by with_reducible assumption) ?_

theorem keep_execCoalesceTimer {a0 a1} {t} (h : Keeps s₀ a1) (e : execCoalesceTimer a0 a1 = .next t) : Keeps s₀ t := by
  delta execCoalesceTimer at e
  refine keep_run e ?_
  clear e
  repeat' first
    | with_reducible assumption | intro _
    | (with_reducible first | apply keep_coalesceTimer)

theorem keep_budgetPeriod {a0 a1} (h : Keeps s₀ a1) : Keeps s₀ (budgetPeriod a0 a1) := by
  delta budgetPeriod
  extract_lets x0
  try clear_value x0
  repeat' first
    | with_reducible assumption | intro _
    | (with_reducible first | apply keep_modChan | apply keep_ite)
    | split

theorem keep_execBudgetPeriodStart {a0 a1} {t} (h : Keeps s₀ a1) (e : execBudgetPeriodStart a0 a1 = .next t) : Keeps s₀ t := by
  delta execBudgetPeriodStart at e
  refine keep_run e ?_
  clear e
  repeat' first
    | with_reducible assumption | intro _
    | (with_reducible first | apply keep_budgetPeriod)

theorem keep_tillSnap {a0 a1 a2} (h : Keeps s₀ a2) : Keeps s₀ (tillSnap a0 a1 a2) := by
  delta tillSnap
  extract_lets x0 x1 x2 x3 x4 x5 x6 x7 x8 x9
  have h1 : Keeps s₀ x1 := by
    try subst x1
    repeat' first
      | with_reducible assumption | intro _
      | (with_reducible first | apply keep_wrf | apply keep_emit | apply keep_ite)
      | split
      | with_reducible refine keep_set ?_ ?_ ?_ ?_ ?_ ?_
      | rfl
      | (with_reducible first | apply memory_put | apply memory_putBytes | apply memory_filter | apply memory_delRange | apply memory_copyRange | apply memory_foldl | apply memory_setRange | apply memory_rowApply | apply memory_unitApply)
      | assumption
  have h9 : Keeps s₀ x9 := by
    try subst x9
    repeat' first
      | with_reducible assumption | intro _
      | (with_reducible first | apply keep_wrf | apply keep_emit | apply keep_ite)
      | split
      | with_reducible refine keep_set ?_ ?_ ?_ ?_ ?_ ?_
      | rfl
      | (with_reducible first | apply memory_put | apply memory_putBytes | apply memory_filter | apply memory_delRange | apply memory_copyRange | apply memory_foldl | apply memory_setRange | apply memory_rowApply | apply memory_unitApply)
      | assumption
  try clear_value x9; try clear_value x8; try clear_value x7; try clear_value x6; try clear_value x5; try clear_value x4; try clear_value x3; try clear_value x2; try clear_value x1; try clear_value x0
  repeat' first
    | with_reducible assumption | intro _
    | (with_reducible first | apply keep_wrf | apply keep_emit | apply keep_ite)
    | split
    | with_reducible refine keep_set ?_ ?_ ?_ ?_ ?_ ?_
    | rfl
    | (with_reducible first | apply memory_put | apply memory_putBytes | apply memory_filter | apply memory_delRange | apply memory_copyRange | apply memory_foldl | apply memory_setRange | apply memory_rowApply | apply memory_unitApply)
    | assumption

theorem keep_execTillSnap {a0 a1 a2} {t} (h : Keeps s₀ a2) (e : execTillSnap a0 a1 a2 = .next t) : Keeps s₀ t := by
  delta execTillSnap at e
  refine keep_run e ?_
  clear e
  repeat' first
    | with_reducible assumption | intro _
    | (with_reducible first | apply keep_tillSnap)

/-! ### Predict -/

theorem keep_modAisle {a0 a1 a2} (h : Keeps s₀ a2) : Keeps s₀ (modAisle a0 a1 a2) := by
  delta modAisle
  repeat' first
    | with_reducible assumption | intro _
    | with_reducible refine keep_set ?_ ?_ ?_ ?_ ?_ ?_
    | rfl
    | assumption

/-! ### Admission -/

theorem keep_dropAdapter {a0 a1} (h : Keeps s₀ a1) : Keeps s₀ (dropAdapter a0 a1) := by
  delta dropAdapter
  extract_lets x0
  have h0 : Keeps s₀ x0 := by
    try subst x0
    repeat' first
      | with_reducible assumption | intro _
      | (with_reducible first | apply keep_forEach | apply keep_freePage)
      | with_reducible refine keep_set ?_ ?_ ?_ ?_ ?_ ?_
      | rfl
      | (with_reducible first | apply memory_put | apply memory_putBytes | apply memory_filter | apply memory_delRange | apply memory_copyRange | apply memory_foldl | apply memory_setRange | apply memory_rowApply | apply memory_unitApply)
      | assumption
  try clear_value x0
  repeat' first
    | with_reducible assumption | intro _
    | (with_reducible first | apply keep_forEach | apply keep_freePage)
    | with_reducible refine keep_set ?_ ?_ ?_ ?_ ?_ ?_
    | rfl
    | (with_reducible first | apply memory_put | apply memory_putBytes | apply memory_filter | apply memory_delRange | apply memory_copyRange | apply memory_foldl | apply memory_setRange | apply memory_rowApply | apply memory_unitApply)
    | assumption

theorem keep_evictAdapters {b c n a} (h : Keeps s₀ a) : Keeps s₀ (evictAdapters b c n a) := by
  induction n generalizing  a with
  | zero => exact h
  | succ n ih =>
    unfold evictAdapters
    repeat' first
      | with_reducible assumption
      | intro _
      | (with_reducible first | apply ih | apply keep_dropAdapter)
      | (with_reducible first | apply keep_ite | apply keep_ite2)
      | extract_lets | split
      | refine keep_eq2 (by with_reducible assumption) ?_

theorem keep_fetchAdapter {a0 a1 a2 a3} (h : Keeps s₀ a3) : Keeps s₀ (fetchAdapter a0 a1 a2 a3) := by
  delta fetchAdapter
  extract_lets x0
  try clear_value x0
  repeat' first
    | with_reducible assumption | intro _
    | (with_reducible first | apply keep_evictAdapters | apply keep_allocPages | apply keep_bumpSat | apply keep_ite | apply keep_ite1 | apply keep_ite2 | apply keep_ite3 | apply keep_foldl | apply keep_foldl1 | apply keep_foldl2 | apply keep_foldl3)
    | extract_lets | split
    | refine keep_eq2 (by with_reducible assumption) ?_ | refine keep_eq1 (by with_reducible assumption) ?_
    | with_reducible refine keep_set ?_ ?_ ?_ ?_ ?_ ?_
    | rfl
    | (with_reducible first | apply memory_put | apply memory_putBytes | apply memory_filter | apply memory_delRange | apply memory_copyRange | apply memory_foldl | apply memory_setRange | apply memory_rowApply | apply memory_unitApply)
    | assumption

theorem keep_adapterFetched {a0 a1 a2} (h : Keeps s₀ a2) : Keeps s₀ (adapterFetched a0 a1 a2) := by
  delta adapterFetched
  extract_lets x0 x1
  have h1 : Keeps s₀ x1 := by
    try subst x1
    repeat' first
      | with_reducible assumption | intro _
      | (with_reducible first | apply keep_when_ | apply keep_putPages)
      | extract_lets | split
      | refine keep_eq2 (by with_reducible assumption) ?_ | refine keep_eq1 (by with_reducible assumption) ?_
      | with_reducible refine keep_set ?_ ?_ ?_ ?_ ?_ ?_
      | rfl
      | (with_reducible first | apply memory_put | apply memory_putBytes | apply memory_filter | apply memory_delRange | apply memory_copyRange | apply memory_foldl | apply memory_setRange | apply memory_rowApply | apply memory_unitApply)
      | assumption
  try clear_value x1; try clear_value x0
  repeat' first
    | with_reducible assumption | intro _
    | (with_reducible first | apply keep_when_ | apply keep_putPages)
    | extract_lets | split
    | refine keep_eq2 (by with_reducible assumption) ?_ | refine keep_eq1 (by with_reducible assumption) ?_
    | with_reducible refine keep_set ?_ ?_ ?_ ?_ ?_ ?_
    | rfl
    | (with_reducible first | apply memory_put | apply memory_putBytes | apply memory_filter | apply memory_delRange | apply memory_copyRange | apply memory_foldl | apply memory_setRange | apply memory_rowApply | apply memory_unitApply)
    | assumption

theorem keep_execAdapterFetchComplete {a0 a1 a2} {t} (h : Keeps s₀ a2) (e : execAdapterFetchComplete a0 a1 a2 = .next t) : Keeps s₀ t := by
  delta execAdapterFetchComplete at e
  refine keep_run e ?_
  clear e
  repeat' first
    | with_reducible assumption | intro _
    | (with_reducible first | apply keep_adapterFetched)

theorem keep_withRow {a0 a1 a2} (h : Keeps s₀ a0) : Keeps s₀ (withRow a0 a1 a2) := by
  delta withRow
  repeat' first
    | with_reducible assumption | intro _
    | (with_reducible first | apply keep_modSide | apply keep_ite)
    | split

theorem keep_countOutcome {a0 a1 a2} (h : Keeps s₀ a2) : Keeps s₀ (countOutcome a0 a1 a2) := by
  delta countOutcome
  extract_lets x0
  have h0 : Keeps s₀ x0 := by
    try subst x0
    repeat' first
      | with_reducible assumption | intro _
      | (with_reducible first | apply keep_bumpSat | apply keep_modTill)
      | extract_lets | split
      | refine keep_eq2 (by with_reducible assumption) ?_ | refine keep_eq1 (by with_reducible assumption) ?_
  try clear_value x0
  repeat' first
    | with_reducible assumption | intro _
    | (with_reducible first | apply keep_bumpSat | apply keep_modTill)
    | extract_lets | split
    | refine keep_eq2 (by with_reducible assumption) ?_ | refine keep_eq1 (by with_reducible assumption) ?_

theorem keep_takeModify {a0 a1} (h : Keeps s₀ a1) : Keeps s₀ (takeModify a0 a1) := by
  delta takeModify
  repeat' first
    | with_reducible assumption | intro _
    | (with_reducible first | apply keep_modChan)
    | extract_lets | split
    | refine keep_eq2 (by with_reducible assumption) ?_ | refine keep_eq1 (by with_reducible assumption) ?_

theorem keep_underLimits {a0 a1} (h : Keeps s₀ a1) : Keeps s₀ (underLimits a0 a1) := by
  delta underLimits
  extract_lets x0 x1 x2
  have h1 : Keeps s₀ x1 := by
    try subst x1
    repeat' first
      | with_reducible assumption | intro _
      | (with_reducible first | apply keep_takeModify | apply keep_modSide | apply keep_modEnt | apply keep_ite)
      | split
  have h2 : Keeps s₀ x2 := by
    try subst x2
    repeat' first
      | with_reducible assumption | intro _
      | (with_reducible first | apply keep_takeModify | apply keep_modSide | apply keep_modEnt | apply keep_ite)
      | split
  try clear_value x2; try clear_value x1; try clear_value x0
  repeat' first
    | with_reducible assumption | intro _
    | (with_reducible first | apply keep_takeModify | apply keep_modSide | apply keep_modEnt | apply keep_ite)
    | split

theorem keep_charge {a0 a1 a2} (h : Keeps s₀ a2) : Keeps s₀ (charge a0 a1 a2) := by
  delta charge
  repeat' first
    | with_reducible assumption | intro _
    | (with_reducible first | apply keep_modChan)

theorem keep_armDeadline {a0 a1} (h : Keeps s₀ a1) : Keeps s₀ (armDeadline a0 a1) := by
  delta armDeadline
  repeat' first
    | with_reducible assumption | intro _
    | (with_reducible first | apply keep_dlyIns)
    | extract_lets | split
    | refine keep_eq2 (by with_reducible assumption) ?_ | refine keep_eq1 (by with_reducible assumption) ?_

theorem keep_grantBack {a0 a1} (h : Keeps s₀ a1) : Keeps s₀ (grantBack a0 a1) := by
  delta grantBack
  extract_lets x0 x1 x2 x3 x4
  have h2 : Keeps s₀ x2.2 := by
    try subst x2
    repeat' first
      | with_reducible assumption | intro _
      | (with_reducible first | apply keep_allocPages | apply keep_evictFor | apply keep_setPages | apply keep_forEach | apply keep_modFree | apply keep_orderShadow | apply keep_modSide)
  have h3 : Keeps s₀ x3 := by
    try subst x3
    repeat' first
      | with_reducible assumption | intro _
      | (with_reducible first | apply keep_allocPages | apply keep_evictFor | apply keep_setPages | apply keep_forEach | apply keep_modFree | apply keep_orderShadow | apply keep_modSide)
  have h4 : Keeps s₀ x4 := by
    try subst x4
    repeat' first
      | with_reducible assumption | intro _
      | (with_reducible first | apply keep_allocPages | apply keep_evictFor | apply keep_setPages | apply keep_forEach | apply keep_modFree | apply keep_orderShadow | apply keep_modSide)
  try clear_value x4; try clear_value x3; try clear_value x2; try clear_value x1; try clear_value x0
  repeat' first
    | with_reducible assumption | intro _
    | (with_reducible first | apply keep_allocPages | apply keep_evictFor | apply keep_setPages | apply keep_forEach | apply keep_modFree | apply keep_orderShadow | apply keep_modSide)

theorem keep_beginWork {a0 a1 a2} (h : Keeps s₀ a2) : Keeps s₀ (beginWork a0 a1 a2) := by
  delta beginWork
  extract_lets x0 x1 x2 x3 x4 x5 x6 x7 x8 x9
  have h4 : Keeps s₀ x4 := by
    try subst x4
    repeat' first
      | with_reducible assumption | intro _
      | (with_reducible first | apply keep_grantBack | apply keep_modEnt | apply keep_modSide | apply keep_fetchAdapter | apply keep_shareWalk | apply keep_evictFor | apply keep_ite | apply keep_ite1 | apply keep_ite2 | apply keep_ite3)
      | extract_lets | split
      | refine keep_eq2 (by with_reducible assumption) ?_ | refine keep_eq1 (by with_reducible assumption) ?_
      | with_reducible refine keep_set ?_ ?_ ?_ ?_ ?_ ?_
      | rfl
      | assumption
  have h5 : Keeps s₀ x5 := by
    try subst x5
    repeat' first
      | with_reducible assumption | intro _
      | (with_reducible first | apply keep_grantBack | apply keep_modEnt | apply keep_modSide | apply keep_fetchAdapter | apply keep_shareWalk | apply keep_evictFor | apply keep_ite | apply keep_ite1 | apply keep_ite2 | apply keep_ite3)
      | extract_lets | split
      | refine keep_eq2 (by with_reducible assumption) ?_ | refine keep_eq1 (by with_reducible assumption) ?_
      | with_reducible refine keep_set ?_ ?_ ?_ ?_ ?_ ?_
      | rfl
      | assumption
  have h6 : Keeps s₀ x6 := by
    try subst x6
    repeat' first
      | with_reducible assumption | intro _
      | (with_reducible first | apply keep_grantBack | apply keep_modEnt | apply keep_modSide | apply keep_fetchAdapter | apply keep_shareWalk | apply keep_evictFor | apply keep_ite | apply keep_ite1 | apply keep_ite2 | apply keep_ite3)
      | extract_lets | split
      | refine keep_eq2 (by with_reducible assumption) ?_ | refine keep_eq1 (by with_reducible assumption) ?_
      | with_reducible refine keep_set ?_ ?_ ?_ ?_ ?_ ?_
      | rfl
      | assumption
  have h7 : Keeps s₀ x7 := by
    try subst x7
    repeat' first
      | with_reducible assumption | intro _
      | (with_reducible first | apply keep_grantBack | apply keep_modEnt | apply keep_modSide | apply keep_fetchAdapter | apply keep_shareWalk | apply keep_evictFor | apply keep_ite | apply keep_ite1 | apply keep_ite2 | apply keep_ite3)
      | extract_lets | split
      | refine keep_eq2 (by with_reducible assumption) ?_ | refine keep_eq1 (by with_reducible assumption) ?_
      | with_reducible refine keep_set ?_ ?_ ?_ ?_ ?_ ?_
      | rfl
      | assumption
  have h8 : Keeps s₀ x8 := by
    try subst x8
    repeat' first
      | with_reducible assumption | intro _
      | (with_reducible first | apply keep_grantBack | apply keep_modEnt | apply keep_modSide | apply keep_fetchAdapter | apply keep_shareWalk | apply keep_evictFor | apply keep_ite | apply keep_ite1 | apply keep_ite2 | apply keep_ite3)
      | extract_lets | split
      | refine keep_eq2 (by with_reducible assumption) ?_ | refine keep_eq1 (by with_reducible assumption) ?_
      | with_reducible refine keep_set ?_ ?_ ?_ ?_ ?_ ?_
      | rfl
      | assumption
  try clear_value x9; try clear_value x8; try clear_value x7; try clear_value x6; try clear_value x5; try clear_value x4; try clear_value x3; try clear_value x2; try clear_value x1; try clear_value x0
  repeat' first
    | with_reducible assumption | intro _
    | (with_reducible first | apply keep_grantBack | apply keep_modEnt | apply keep_modSide | apply keep_fetchAdapter | apply keep_shareWalk | apply keep_evictFor | apply keep_ite | apply keep_ite1 | apply keep_ite2 | apply keep_ite3)
    | extract_lets | split
    | refine keep_eq2 (by with_reducible assumption) ?_ | refine keep_eq1 (by with_reducible assumption) ?_
    | with_reducible refine keep_set ?_ ?_ ?_ ?_ ?_ ?_
    | rfl
    | assumption

theorem keep_bindKey {a0 a1} (h : Keeps s₀ a1) : Keeps s₀ (bindKey a0 a1) := by
  delta bindKey
  extract_lets x0 x1
  try clear_value x1; try clear_value x0
  repeat' first
    | with_reducible assumption | intro _
    | (with_reducible first | apply keep_ite | apply keep_ite1 | apply keep_ite2 | apply keep_ite3)
    | extract_lets | split
    | refine keep_eq2 (by with_reducible assumption) ?_ | refine keep_eq1 (by with_reducible assumption) ?_
    | with_reducible refine keep_set ?_ ?_ ?_ ?_ ?_ ?_
    | rfl
    | assumption

theorem keep_admitReq {a0 a1 a2 a3} (h : Keeps s₀ a3) : Keeps s₀ (admitReq a0 a1 a2 a3) := by
  delta admitReq
  extract_lets x0 x1 x2 x3 x4 x5 x6
  have h3 : Keeps s₀ x3 := by
    try subst x3
    repeat' first
      | with_reducible assumption | intro _
      | (with_reducible first | apply keep_countOutcome | apply keep_modEnt | apply keep_modSide | apply keep_post | apply keep_beginWork | apply keep_armDeadline | apply keep_charge | apply keep_bindKey | apply keep_ite)
      | split
  have h4 : Keeps s₀ x4 := by
    try subst x4
    repeat' first
      | with_reducible assumption | intro _
      | (with_reducible first | apply keep_countOutcome | apply keep_modEnt | apply keep_modSide | apply keep_post | apply keep_beginWork | apply keep_armDeadline | apply keep_charge | apply keep_bindKey | apply keep_ite)
      | split
  have h5 : Keeps s₀ x5 := by
    try subst x5
    repeat' first
      | with_reducible assumption | intro _
      | (with_reducible first | apply keep_countOutcome | apply keep_modEnt | apply keep_modSide | apply keep_post | apply keep_beginWork | apply keep_armDeadline | apply keep_charge | apply keep_bindKey | apply keep_ite)
      | split
  have h6 : Keeps s₀ x6 := by
    try subst x6
    repeat' first
      | with_reducible assumption | intro _
      | (with_reducible first | apply keep_countOutcome | apply keep_modEnt | apply keep_modSide | apply keep_post | apply keep_beginWork | apply keep_armDeadline | apply keep_charge | apply keep_bindKey | apply keep_ite)
      | split
  try clear_value x6; try clear_value x5; try clear_value x4; try clear_value x3; try clear_value x2; try clear_value x1; try clear_value x0
  repeat' first
    | with_reducible assumption | intro _
    | (with_reducible first | apply keep_countOutcome | apply keep_modEnt | apply keep_modSide | apply keep_post | apply keep_beginWork | apply keep_armDeadline | apply keep_charge | apply keep_bindKey | apply keep_ite)
    | split

theorem keep_deferReq {a0 a1 a2 a3} (h : Keeps s₀ a3) : Keeps s₀ (deferReq a0 a1 a2 a3) := by
  delta deferReq
  extract_lets x0 x1 x2 x3 x4 x5
  have h2 : Keeps s₀ x2 := by
    try subst x2
    repeat' first
      | with_reducible assumption | intro _
      | (with_reducible first | apply keep_countOutcome | apply keep_modEnt | apply keep_modSide | apply keep_post | apply keep_dlyIns | apply keep_armDeadline | apply keep_charge | apply keep_bindKey | apply keep_ite)
      | split
  have h3 : Keeps s₀ x3 := by
    try subst x3
    repeat' first
      | with_reducible assumption | intro _
      | (with_reducible first | apply keep_countOutcome | apply keep_modEnt | apply keep_modSide | apply keep_post | apply keep_dlyIns | apply keep_armDeadline | apply keep_charge | apply keep_bindKey | apply keep_ite)
      | split
  have h4 : Keeps s₀ x4 := by
    try subst x4
    repeat' first
      | with_reducible assumption | intro _
      | (with_reducible first | apply keep_countOutcome | apply keep_modEnt | apply keep_modSide | apply keep_post | apply keep_dlyIns | apply keep_armDeadline | apply keep_charge | apply keep_bindKey | apply keep_ite)
      | split
  have h5 : Keeps s₀ x5 := by
    try subst x5
    repeat' first
      | with_reducible assumption | intro _
      | (with_reducible first | apply keep_countOutcome | apply keep_modEnt | apply keep_modSide | apply keep_post | apply keep_dlyIns | apply keep_armDeadline | apply keep_charge | apply keep_bindKey | apply keep_ite)
      | split
  try clear_value x5; try clear_value x4; try clear_value x3; try clear_value x2; try clear_value x1; try clear_value x0
  repeat' first
    | with_reducible assumption | intro _
    | (with_reducible first | apply keep_countOutcome | apply keep_modEnt | apply keep_modSide | apply keep_post | apply keep_dlyIns | apply keep_armDeadline | apply keep_charge | apply keep_bindKey | apply keep_ite)
    | split

theorem keep_dropAppend {a0 a1} (h : Keeps s₀ a1) : Keeps s₀ (dropAppend a0 a1) := by
  delta dropAppend
  extract_lets x0 x1
  have h1 : Keeps s₀ x1 := by
    try subst x1
    repeat' first
      | with_reducible assumption | intro _
      | (with_reducible first | apply keep_finishPend | apply keep_modSide | apply keep_post | apply keep_giveBack | apply keep_ite)
      | extract_lets | split
      | refine keep_eq2 (by with_reducible assumption) ?_ | refine keep_eq1 (by with_reducible assumption) ?_
  try clear_value x1; try clear_value x0
  repeat' first
    | with_reducible assumption | intro _
    | (with_reducible first | apply keep_finishPend | apply keep_modSide | apply keep_post | apply keep_giveBack | apply keep_ite)
    | extract_lets | split
    | refine keep_eq2 (by with_reducible assumption) ?_ | refine keep_eq1 (by with_reducible assumption) ?_

theorem keep_backToPaused {a0 a1} (h : Keeps s₀ a1) : Keeps s₀ (backToPaused a0 a1) := by
  delta backToPaused
  extract_lets x0
  have h0 : Keeps s₀ x0 := by
    try subst x0
    repeat' first
      | with_reducible assumption | intro _
      | (with_reducible first | apply keep_takeClose | apply keep_modSide | apply keep_dropAppend | apply keep_orphan | apply keep_ite)
      | extract_lets | split
      | refine keep_eq2 (by with_reducible assumption) ?_ | refine keep_eq1 (by with_reducible assumption) ?_
  try clear_value x0
  repeat' first
    | with_reducible assumption | intro _
    | (with_reducible first | apply keep_takeClose | apply keep_modSide | apply keep_dropAppend | apply keep_orphan | apply keep_ite)
    | extract_lets | split
    | refine keep_eq2 (by with_reducible assumption) ?_ | refine keep_eq1 (by with_reducible assumption) ?_

theorem keep_backTo {a0 a1} (h : Keeps s₀ a1) : Keeps s₀ (backTo a0 a1) := by
  delta backTo
  extract_lets x0 x1 x2
  have h2 : Keeps s₀ x2 := by
    try subst x2
    repeat' first
      | with_reducible assumption | intro _
      | (with_reducible first | apply keep_dropTimers | apply keep_modSide | apply keep_freeEntry | apply keep_finishPend | apply keep_backToPaused | apply keep_modEnt | apply keep_dlyIns | apply keep_dropAppend | apply keep_toReady | apply keep_ite)
      | extract_lets | split
      | refine keep_eq2 (by with_reducible assumption) ?_ | refine keep_eq1 (by with_reducible assumption) ?_
  try clear_value x2; try clear_value x1; try clear_value x0
  repeat' first
    | with_reducible assumption | intro _
    | (with_reducible first | apply keep_dropTimers | apply keep_modSide | apply keep_freeEntry | apply keep_finishPend | apply keep_backToPaused | apply keep_modEnt | apply keep_dlyIns | apply keep_dropAppend | apply keep_toReady | apply keep_ite)
    | extract_lets | split
    | refine keep_eq2 (by with_reducible assumption) ?_ | refine keep_eq1 (by with_reducible assumption) ?_

theorem keep_refuseReq {a0 a1 a2} (h : Keeps s₀ a2) : Keeps s₀ (refuseReq a0 a1 a2) := by
  delta refuseReq
  extract_lets x0 x1 x2 x3 x4
  have h2 : Keeps s₀ x2 := by
    try subst x2
    repeat' first
      | with_reducible assumption | intro _
      | (with_reducible first | apply keep_tillRefuse | apply keep_bumpSat | apply keep_modSide | apply keep_post | apply keep_giveBack | apply keep_backTo | apply keep_ite)
      | split
  have h3 : Keeps s₀ x3 := by
    try subst x3
    repeat' first
      | with_reducible assumption | intro _
      | (with_reducible first | apply keep_tillRefuse | apply keep_bumpSat | apply keep_modSide | apply keep_post | apply keep_giveBack | apply keep_backTo | apply keep_ite)
      | split
  have h4 : Keeps s₀ x4 := by
    try subst x4
    repeat' first
      | with_reducible assumption | intro _
      | (with_reducible first | apply keep_tillRefuse | apply keep_bumpSat | apply keep_modSide | apply keep_post | apply keep_giveBack | apply keep_backTo | apply keep_ite)
      | split
  try clear_value x4; try clear_value x3; try clear_value x2; try clear_value x1; try clear_value x0
  repeat' first
    | with_reducible assumption | intro _
    | (with_reducible first | apply keep_tillRefuse | apply keep_bumpSat | apply keep_modSide | apply keep_post | apply keep_giveBack | apply keep_backTo | apply keep_ite)
    | split

theorem keep_decideR2 {a0 a1 a2} (h : Keeps s₀ a2) : Keeps s₀ (decideR2 a0 a1 a2) := by
  delta decideR2
  extract_lets x0 x1
  have h1 : Keeps s₀ x1 := by
    try subst x1
    repeat' first
      | with_reducible assumption | intro _
      | (with_reducible first | apply keep_countOutcome | apply keep_post | apply keep_charge | apply keep_modSide | apply keep_ite)
      | extract_lets | split
      | refine keep_eq2 (by with_reducible assumption) ?_ | refine keep_eq1 (by with_reducible assumption) ?_
  try clear_value x1; try clear_value x0
  repeat' first
    | with_reducible assumption | intro _
    | (with_reducible first | apply keep_countOutcome | apply keep_post | apply keep_charge | apply keep_modSide | apply keep_ite)
    | extract_lets | split
    | refine keep_eq2 (by with_reducible assumption) ?_ | refine keep_eq1 (by with_reducible assumption) ?_

theorem keep_cancelNow {a0 a1} (h : Keeps s₀ a1) : Keeps s₀ (cancelNow a0 a1) := by
  delta cancelNow
  extract_lets x0 x1 x2 x3
  have h2 : Keeps s₀ x2 := by
    try subst x2
    repeat' first
      | with_reducible assumption | intro _
      | (with_reducible first | apply keep_modSide | apply keep_post | apply keep_toClosing | apply keep_maskHere | apply keep_forEach | apply keep_ite)
      | extract_lets | split
      | refine keep_eq2 (by with_reducible assumption) ?_ | refine keep_eq1 (by with_reducible assumption) ?_
  try clear_value x2; try clear_value x1; try clear_value x0
  repeat' first
    | with_reducible assumption | intro _
    | (with_reducible first | apply keep_modSide | apply keep_post | apply keep_toClosing | apply keep_maskHere | apply keep_forEach | apply keep_ite)
    | extract_lets | split
    | refine keep_eq2 (by with_reducible assumption) ?_ | refine keep_eq1 (by with_reducible assumption) ?_

theorem keep_lateCancel {a0 a1} (h : Keeps s₀ a1) : Keeps s₀ (lateCancel a0 a1) := by
  delta lateCancel
  repeat' first
    | with_reducible assumption | intro _
    | (with_reducible first | apply keep_cancelNow | apply keep_ite)
    | extract_lets | split
    | refine keep_eq2 (by with_reducible assumption) ?_ | refine keep_eq1 (by with_reducible assumption) ?_

theorem keep_takeSeed {a0 a1} (h : Keeps s₀ a1) : Keeps s₀ (takeSeed a0 a1) := by
  delta takeSeed
  extract_lets x0
  have h0 : Keeps s₀ x0.2 := by
    try subst x0
    repeat' first
      | with_reducible assumption | intro _
      | (with_reducible first | apply keep_drawSeed | apply keep_modSide | apply keep_modEnt | apply keep_ite | apply keep_ite1 | apply keep_ite2 | apply keep_ite3)
      | split
  try clear_value x0
  repeat' first
    | with_reducible assumption | intro _
    | (with_reducible first | apply keep_drawSeed | apply keep_modSide | apply keep_modEnt | apply keep_ite | apply keep_ite1 | apply keep_ite2 | apply keep_ite3)
    | split

theorem keep_decide_ {a0 a1} (h : Keeps s₀ a1) : Keeps s₀ (decide_ a0 a1) := by
  delta decide_
  extract_lets x0 x1 x2
  have h0 : Keeps s₀ x0 := by
    try subst x0
    repeat' first
      | with_reducible assumption | intro _
      | (with_reducible first | apply keep_takeSeed | apply keep_underLimits | apply keep_decideR2 | apply keep_lateCancel | apply keep_admitReq | apply keep_deferReq | apply keep_refuseReq | apply keep_ite)
      | extract_lets | split
      | refine keep_eq2 (by with_reducible assumption) ?_ | refine keep_eq1 (by with_reducible assumption) ?_
  try clear_value x2; try clear_value x1; try clear_value x0
  repeat' first
    | with_reducible assumption | intro _
    | (with_reducible first | apply keep_takeSeed | apply keep_underLimits | apply keep_decideR2 | apply keep_lateCancel | apply keep_admitReq | apply keep_deferReq | apply keep_refuseReq | apply keep_ite)
    | extract_lets | split
    | refine keep_eq2 (by with_reducible assumption) ?_ | refine keep_eq1 (by with_reducible assumption) ?_

theorem keep_decideBatch {a0 a1} (h : Keeps s₀ a1) : Keeps s₀ (decideBatch a0 a1) := by
  delta decideBatch
  extract_lets x0
  repeat' first
    | with_reducible assumption | intro _
    | (with_reducible first | apply keep_forEach | apply keep_takeSeed | apply keep_underLimits | apply keep_takeModify | apply keep_modEnt | apply keep_modSide | apply keep_armDeadline | apply keep_charge | apply keep_beginWork | apply keep_post | apply keep_countOutcome | apply keep_tillRefuse | apply keep_bumpSat | apply keep_giveBack | apply keep_freeEntry | apply keep_ite)
    | extract_lets | split
    | refine keep_eq2 (by with_reducible assumption) ?_ | refine keep_eq1 (by with_reducible assumption) ?_
    | with_reducible refine keep_set ?_ ?_ ?_ ?_ ?_ ?_
    | rfl
    | (with_reducible first | apply memory_put | apply memory_putBytes | apply memory_filter | apply memory_delRange | apply memory_copyRange | apply memory_foldl | apply memory_setRange | apply memory_rowApply | apply memory_unitApply)
    | assumption

theorem keep_batchStart {a0 a1} (h : Keeps s₀ a1) : Keeps s₀ (batchStart a0 a1) := by
  delta batchStart
  extract_lets x0 x1
  try clear_value x1; try clear_value x0
  repeat' first
    | with_reducible assumption | intro _
    | (with_reducible first | apply keep_forEach | apply keep_beginWork | apply keep_ite | apply keep_foldl)
    | extract_lets | split
    | refine keep_eq2 (by with_reducible assumption) ?_ | refine keep_eq1 (by with_reducible assumption) ?_
    | with_reducible refine keep_set ?_ ?_ ?_ ?_ ?_ ?_
    | rfl
    | assumption

theorem keep_execBatchStart {a0 a1} {t} (h : Keeps s₀ a1) (e : execBatchStart a0 a1 = .next t) : Keeps s₀ t := by
  delta execBatchStart at e
  refine keep_run e ?_
  clear e
  repeat' first
    | with_reducible assumption | intro _
    | (with_reducible first | apply keep_batchStart)

theorem keep_admissionDecision {a0} (h : Keeps s₀ a0) : Keeps s₀ (admissionDecision a0) := by
  delta admissionDecision
  repeat' first
    | with_reducible assumption | intro _
    | (with_reducible first | apply keep_decideBatch | apply keep_decide_ | apply keep_ite)
    | extract_lets | split
    | refine keep_eq2 (by with_reducible assumption) ?_ | refine keep_eq1 (by with_reducible assumption) ?_
    | with_reducible refine keep_set ?_ ?_ ?_ ?_ ?_ ?_
    | rfl
    | assumption

theorem keep_execAdmissionDecision {a0} {t} (h : Keeps s₀ a0) (e : execAdmissionDecision a0 = .next t) : Keeps s₀ t := by
  delta execAdmissionDecision at e
  refine keep_run e ?_
  clear e
  repeat' first
    | with_reducible assumption | intro _
    | (with_reducible first | apply keep_admissionDecision)

theorem keep_deferStart {a0 a1} (h : Keeps s₀ a1) : Keeps s₀ (deferStart a0 a1) := by
  delta deferStart
  extract_lets x0 x1 x2 x3 x4
  have h3 : Keeps s₀ x3 := by
    try subst x3
    repeat' first
      | with_reducible assumption | intro _
      | (with_reducible first | apply keep_beginWork | apply keep_underLimits | apply keep_dlyIns | apply keep_modEnt | apply keep_modSide | apply keep_refuseReq | apply keep_ite)
      | extract_lets | split
      | refine keep_eq2 (by with_reducible assumption) ?_ | refine keep_eq1 (by with_reducible assumption) ?_
  try clear_value x4; try clear_value x3; try clear_value x2; try clear_value x1; try clear_value x0
  repeat' first
    | with_reducible assumption | intro _
    | (with_reducible first | apply keep_beginWork | apply keep_underLimits | apply keep_dlyIns | apply keep_modEnt | apply keep_modSide | apply keep_refuseReq | apply keep_ite)
    | extract_lets | split
    | refine keep_eq2 (by with_reducible assumption) ?_ | refine keep_eq1 (by with_reducible assumption) ?_

theorem keep_execDeferStart {a0} {t} (h : Keeps s₀ a0) (e : execDeferStart a0 = .next t) : Keeps s₀ t := by
  delta execDeferStart at e
  refine keep_run e ?_
  clear e
  repeat' first
    | with_reducible assumption | intro _
    | (with_reducible first | apply keep_fire | apply keep_deferStart | apply keep_ite)
    | split

theorem keep_fwTaken {a0 a1} (h : Keeps s₀ a1) : Keeps s₀ (fwTaken a0 a1) := by
  delta fwTaken
  extract_lets x0
  repeat' first
    | with_reducible assumption | intro _
    | with_reducible refine keep_set ?_ ?_ ?_ ?_ ?_ ?_
    | rfl
    | (with_reducible first | apply memory_put | apply memory_putBytes | apply memory_filter | apply memory_delRange | apply memory_copyRange | apply memory_foldl | apply memory_setRange | apply memory_rowApply | apply memory_unitApply)
    | assumption

theorem keep_fwTimeout {a0 a1} (h : Keeps s₀ a1) : Keeps s₀ (fwTimeout a0 a1) := by
  delta fwTimeout
  repeat' first
    | with_reducible assumption | intro _
    | (with_reducible first | apply keep_lateCancel | apply keep_refuseReq | apply keep_fwTaken | apply keep_takeSeed | apply keep_ite)
    | extract_lets | split
    | refine keep_eq2 (by with_reducible assumption) ?_ | refine keep_eq1 (by with_reducible assumption) ?_

theorem keep_execFwAdmissionTimeout {a0 a1} {t} (h : Keeps s₀ a1) (e : execFwAdmissionTimeout a0 a1 = .next t) : Keeps s₀ t := by
  delta execFwAdmissionTimeout at e
  refine keep_run e ?_
  clear e
  repeat' first
    | with_reducible assumption | intro _
    | (with_reducible first | apply keep_fwTimeout)

theorem keep_admPost {a0 a1 a2 a3 a4} (h : Keeps s₀ a4) : Keeps s₀ (admPost a0 a1 a2 a3 a4) := by
  delta admPost
  extract_lets x0 x1 x2 x3 x4
  have h0 : Keeps s₀ x0 := by
    try subst x0
    repeat' first
      | with_reducible assumption | intro _
      | (with_reducible first | apply keep_takeSeed | apply keep_underLimits | apply keep_fwTaken | apply keep_lateCancel | apply keep_admitReq | apply keep_deferReq | apply keep_refuseReq | apply keep_ite)
      | extract_lets | split
      | refine keep_eq2 (by with_reducible assumption) ?_ | refine keep_eq1 (by with_reducible assumption) ?_
  try clear_value x4; try clear_value x3; try clear_value x2; try clear_value x1; try clear_value x0
  repeat' first
    | with_reducible assumption | intro _
    | (with_reducible first | apply keep_takeSeed | apply keep_underLimits | apply keep_fwTaken | apply keep_lateCancel | apply keep_admitReq | apply keep_deferReq | apply keep_refuseReq | apply keep_ite)
    | extract_lets | split
    | refine keep_eq2 (by with_reducible assumption) ?_ | refine keep_eq1 (by with_reducible assumption) ?_

theorem keep_execAdmPost {a0 a1 a2 a3 a4} {t} (h : Keeps s₀ a4) (e : execAdmPost a0 a1 a2 a3 a4 = .next t) : Keeps s₀ t := by
  delta execAdmPost at e
  refine keep_run e ?_
  clear e
  repeat' first
    | with_reducible assumption | intro _
    | (with_reducible first | apply keep_admPost)

theorem keep_proxyStage {a0 a1 a2} (h : Keeps s₀ a2) : Keeps s₀ (proxyStage a0 a1 a2) := by
  delta proxyStage
  extract_lets x0 x1 x2
  try clear_value x1; try clear_value x0
  repeat' first
    | with_reducible assumption | intro _
    | (with_reducible first | apply keep_ite)
    | extract_lets | split
    | refine keep_eq2 (by with_reducible assumption) ?_ | refine keep_eq1 (by with_reducible assumption) ?_
    | with_reducible refine keep_set ?_ ?_ ?_ ?_ ?_ ?_
    | rfl
    | (with_reducible first | apply memory_put | apply memory_putBytes | apply memory_filter | apply memory_delRange | apply memory_copyRange | apply memory_foldl | apply memory_setRange | apply memory_rowApply | apply memory_unitApply)
    | assumption

theorem keep_execProxyStage {a0 a1 a2} {t} (h : Keeps s₀ a2) (e : execProxyStage a0 a1 a2 = .next t) : Keeps s₀ t := by
  delta execProxyStage at e
  refine keep_run e ?_
  clear e
  repeat' first
    | with_reducible assumption | intro _
    | (with_reducible first | apply keep_proxyStage)

theorem keep_proxyRelease {a0 a1 a2} (h : Keeps s₀ a2) : Keeps s₀ (proxyRelease a0 a1 a2) := by
  delta proxyRelease
  repeat' first
    | with_reducible assumption | intro _
    | (with_reducible first | apply keep_dropProxy | apply keep_ite | apply keep_ite1 | apply keep_ite2 | apply keep_ite3)
    | extract_lets | split
    | refine keep_eq2 (by with_reducible assumption) ?_ | refine keep_eq1 (by with_reducible assumption) ?_

theorem keep_execProxyRelease {a0 a1 a2} {t} (h : Keeps s₀ a2) (e : execProxyRelease a0 a1 a2 = .next t) : Keeps s₀ t := by
  delta execProxyRelease at e
  refine keep_run e ?_
  clear e
  repeat' first
    | with_reducible assumption | intro _
    | (with_reducible first | apply keep_proxyRelease)

/-! ### Requests -/

theorem keep_readList {a0 a1 a2 a3} (h : Keeps s₀ a3) : Keeps s₀ (readList a0 a1 a2 a3) := by
  delta readList
  repeat' first
    | with_reducible assumption | intro _
    | (with_reducible first | apply keep_when_ | apply keep_emit)

theorem keep_closeIfLeaving {a0 a1 a2} (h : Keeps s₀ a2) : Keeps s₀ (closeIfLeaving a0 a1 a2) := by
  delta closeIfLeaving
  repeat' first
    | with_reducible assumption | intro _
    | (with_reducible first | apply keep_takeClose | apply keep_ite)
    | split

theorem keep_submitAct {a0 a1 a2 a3} (h : Keeps s₀ a3) : Keeps s₀ (submitAct a0 a1 a2 a3) := by
  delta submitAct
  extract_lets x0 x1 x2 x3
  have h2 : Keeps s₀ x2 := by
    try subst x2
    repeat' first
      | with_reducible assumption | intro _
      | (with_reducible first | apply keep_readList | apply keep_reject | apply keep_openSubmit | apply keep_closeIfLeaving | apply keep_enqueue | apply keep_ite | apply keep_ite1 | apply keep_ite2 | apply keep_ite3)
      | split
  have h3 : Keeps s₀ x3.2 := by
    try subst x3
    repeat' first
      | with_reducible assumption | intro _
      | (with_reducible first | apply keep_readList | apply keep_reject | apply keep_openSubmit | apply keep_closeIfLeaving | apply keep_enqueue | apply keep_ite | apply keep_ite1 | apply keep_ite2 | apply keep_ite3)
      | split
  try clear_value x3; try clear_value x2; try clear_value x1; try clear_value x0
  repeat' first
    | with_reducible assumption | intro _
    | (with_reducible first | apply keep_readList | apply keep_reject | apply keep_openSubmit | apply keep_closeIfLeaving | apply keep_enqueue | apply keep_ite | apply keep_ite1 | apply keep_ite2 | apply keep_ite3)
    | split

theorem keep_execSubmit {a0 a1 a2} {t} (h : Keeps s₀ a2) (e : execSubmit a0 a1 a2 = .next t) : Keeps s₀ t := by
  delta execSubmit at e
  refine keep_run e ?_
  clear e
  repeat' first
    | with_reducible assumption | intro _
    | (with_reducible first | apply keep_accept | apply keep_submitAct)

theorem keep_openMembers {b c l a} (h : Keeps s₀ a) : Keeps s₀ (openMembers b c l a).2 := by
  induction l generalizing a with
  | nil => exact h
  | cons x t ih =>
    unfold openMembers
    repeat' first
      | with_reducible assumption
      | intro _
      | (with_reducible first | apply ih | apply keep_modSide | apply keep_openSubmit)
      | (with_reducible first | apply keep_ite | apply keep_ite2)
      | extract_lets | split
      | refine keep_eq2 (by with_reducible assumption) ?_

theorem keep_batchAct {a0 a1 a2 a3} (h : Keeps s₀ a3) : Keeps s₀ (batchAct a0 a1 a2 a3) := by
  delta batchAct
  extract_lets x0
  have h0 : Keeps s₀ x0 := by
    try subst x0
    repeat' first
      | with_reducible assumption | intro _
      | (with_reducible first | apply keep_readList | apply keep_reject | apply keep_forEach | apply keep_openMembers | apply keep_closeIfLeaving | apply keep_ite | apply keep_ite1 | apply keep_ite2 | apply keep_ite3)
      | extract_lets | split
      | refine keep_eq2 (by with_reducible assumption) ?_ | refine keep_eq1 (by with_reducible assumption) ?_
      | with_reducible refine keep_set ?_ ?_ ?_ ?_ ?_ ?_
      | rfl
      | assumption
  try clear_value x0
  repeat' first
    | with_reducible assumption | intro _
    | (with_reducible first | apply keep_readList | apply keep_reject | apply keep_forEach | apply keep_openMembers | apply keep_closeIfLeaving | apply keep_ite | apply keep_ite1 | apply keep_ite2 | apply keep_ite3)
    | extract_lets | split
    | refine keep_eq2 (by with_reducible assumption) ?_ | refine keep_eq1 (by with_reducible assumption) ?_
    | with_reducible refine keep_set ?_ ?_ ?_ ?_ ?_ ?_
    | rfl
    | assumption

theorem keep_execBatch {a0 a1 a2} {t} (h : Keeps s₀ a2) (e : execBatch a0 a1 a2 = .next t) : Keeps s₀ t := by
  delta execBatch at e
  refine keep_run e ?_
  clear e
  repeat' first
    | with_reducible assumption | intro _
    | (with_reducible first | apply keep_accept | apply keep_batchAct)

theorem keep_poisonEnd {a0 a1 a2} (h : Keeps s₀ a2) : Keeps s₀ (poisonEnd a0 a1 a2) := by
  delta poisonEnd
  extract_lets x0 x1 x2
  have h2 : Keeps s₀ x2 := by
    try subst x2
    repeat' first
      | with_reducible assumption | intro _
      | (with_reducible first | apply keep_post | apply keep_logEv | apply keep_endWith)
  try clear_value x2; try clear_value x1; try clear_value x0
  repeat' first
    | with_reducible assumption | intro _
    | (with_reducible first | apply keep_post | apply keep_logEv | apply keep_endWith)

theorem keep_takePend {a0 a1 a2} (h : Keeps s₀ a2) : Keeps s₀ (takePend a0 a1 a2) := by
  delta takePend
  extract_lets x0 x1
  have h1 : Keeps s₀ x1 := by
    try subst x1
    repeat' first
      | with_reducible assumption | intro _
      | (with_reducible first | apply keep_modSide | apply keep_promote | apply keep_enqueue | apply keep_ite)
      | split
  try clear_value x1; try clear_value x0
  repeat' first
    | with_reducible assumption | intro _
    | (with_reducible first | apply keep_modSide | apply keep_promote | apply keep_enqueue | apply keep_ite)
    | split

theorem keep_fixEffect {a0 a1 a2 a3} (h : Keeps s₀ a3) : Keeps s₀ (fixEffect a0 a1 a2 a3) := by
  delta fixEffect
  extract_lets x0 x1 x2
  have h1 : Keeps s₀ x1 := by
    try subst x1
    repeat' first
      | with_reducible assumption | intro _
      | (with_reducible first | apply keep_modSide | apply keep_modChan | apply keep_maskNotice | apply keep_ite | apply keep_ite1 | apply keep_ite2 | apply keep_ite3)
      | split
  have h2 : Keeps s₀ x2 := by
    try subst x2
    repeat' first
      | with_reducible assumption | intro _
      | (with_reducible first | apply keep_modSide | apply keep_modChan | apply keep_maskNotice | apply keep_ite | apply keep_ite1 | apply keep_ite2 | apply keep_ite3)
      | split
  try clear_value x2; try clear_value x1; try clear_value x0
  repeat' first
    | with_reducible assumption | intro _
    | (with_reducible first | apply keep_modSide | apply keep_modChan | apply keep_maskNotice | apply keep_ite | apply keep_ite1 | apply keep_ite2 | apply keep_ite3)
    | split

theorem keep_appendAct {a0 a1 a2 a3} (h : Keeps s₀ a3) : Keeps s₀ (appendAct a0 a1 a2 a3) := by
  delta appendAct
  extract_lets x0 x1 x2 x3 x4 x5
  have h4 : Keeps s₀ x4 := by
    try subst x4
    repeat' first
      | with_reducible assumption | intro _
      | (with_reducible first | apply keep_readList | apply keep_reject | apply keep_poisonEnd | apply keep_fixEffect | apply keep_modSide | apply keep_takePend | apply keep_ite | apply keep_ite1 | apply keep_ite2 | apply keep_ite3)
      | split
  try clear_value x5; try clear_value x4; try clear_value x3; try clear_value x2; try clear_value x1; try clear_value x0
  repeat' first
    | with_reducible assumption | intro _
    | (with_reducible first | apply keep_readList | apply keep_reject | apply keep_poisonEnd | apply keep_fixEffect | apply keep_modSide | apply keep_takePend | apply keep_ite | apply keep_ite1 | apply keep_ite2 | apply keep_ite3)
    | split

theorem keep_execAppend {a0 a1 a2} {t} (h : Keeps s₀ a2) (e : execAppend a0 a1 a2 = .next t) : Keeps s₀ t := by
  delta execAppend at e
  refine keep_run e ?_
  clear e
  repeat' first
    | with_reducible assumption | intro _
    | (with_reducible first | apply keep_accept | apply keep_appendAct)

theorem keep_supersedeEffect {a0 a1} (h : Keeps s₀ a1) : Keeps s₀ (supersedeEffect a0 a1) := by
  delta supersedeEffect
  extract_lets x0 x1
  have h0 : Keeps s₀ x0 := by
    try subst x0
    repeat' first
      | with_reducible assumption | intro _
      | (with_reducible first | apply keep_modSide | apply keep_modEnt | apply keep_maskHere | apply keep_toDraining | apply keep_ite)
      | extract_lets | split
      | refine keep_eq2 (by with_reducible assumption) ?_ | refine keep_eq1 (by with_reducible assumption) ?_
  have h1 : Keeps s₀ x1 := by
    try subst x1
    repeat' first
      | with_reducible assumption | intro _
      | (with_reducible first | apply keep_modSide | apply keep_modEnt | apply keep_maskHere | apply keep_toDraining | apply keep_ite)
      | extract_lets | split
      | refine keep_eq2 (by with_reducible assumption) ?_ | refine keep_eq1 (by with_reducible assumption) ?_
  try clear_value x1; try clear_value x0
  repeat' first
    | with_reducible assumption | intro _
    | (with_reducible first | apply keep_modSide | apply keep_modEnt | apply keep_maskHere | apply keep_toDraining | apply keep_ite)
    | extract_lets | split
    | refine keep_eq2 (by with_reducible assumption) ?_ | refine keep_eq1 (by with_reducible assumption) ?_

theorem keep_execSupersedeEffect {a0 a1} {t} (h : Keeps s₀ a1) (e : execSupersedeEffect a0 a1 = .next t) : Keeps s₀ t := by
  delta execSupersedeEffect at e
  refine keep_run e ?_
  clear e
  repeat' first
    | with_reducible assumption | intro _
    | (with_reducible first | apply keep_supersedeEffect)

theorem keep_cancelAct {a0 a1 a2} (h : Keeps s₀ a2) : Keeps s₀ (cancelAct a0 a1 a2) := by
  delta cancelAct
  extract_lets x0
  try clear_value x0
  repeat' first
    | with_reducible assumption | intro _
    | (with_reducible first | apply keep_reject | apply keep_fixEffect | apply keep_modSide | apply keep_ite)
    | split

theorem keep_execCancel {a0 a1} {t} (h : Keeps s₀ a1) (e : execCancel a0 a1 = .next t) : Keeps s₀ t := by
  delta execCancel at e
  refine keep_run e ?_
  clear e
  repeat' first
    | with_reducible assumption | intro _
    | (with_reducible first | apply keep_accept | apply keep_cancelAct)

theorem keep_cancelEffect {a0 a1} (h : Keeps s₀ a1) : Keeps s₀ (cancelEffect a0 a1) := by
  delta cancelEffect
  repeat' first
    | with_reducible assumption | intro _
    | (with_reducible first | apply keep_cancelNow | apply keep_ite)
    | extract_lets | split
    | refine keep_eq2 (by with_reducible assumption) ?_ | refine keep_eq1 (by with_reducible assumption) ?_

theorem keep_execCancelEffect {a0 a1} {t} (h : Keeps s₀ a1) (e : execCancelEffect a0 a1 = .next t) : Keeps s₀ t := by
  delta execCancelEffect at e
  refine keep_run e ?_
  clear e
  repeat' first
    | with_reducible assumption | intro _
    | (with_reducible first | apply keep_cancelEffect)

theorem keep_closeAct {a0 a1 a2} (h : Keeps s₀ a2) : Keeps s₀ (closeAct a0 a1 a2) := by
  delta closeAct
  extract_lets x0
  try clear_value x0
  repeat' first
    | with_reducible assumption | intro _
    | (with_reducible first | apply keep_reject | apply keep_takeClose | apply keep_post | apply keep_ite)
    | split

theorem keep_execClose {a0 a1} {t} (h : Keeps s₀ a1) (e : execClose a0 a1 = .next t) : Keeps s₀ t := by
  delta execClose at e
  refine keep_run e ?_
  clear e
  repeat' first
    | with_reducible assumption | intro _
    | (with_reducible first | apply keep_accept | apply keep_closeAct)

theorem keep_setDeadlineAct {a0 a1 a2} (h : Keeps s₀ a2) : Keeps s₀ (setDeadlineAct a0 a1 a2) := by
  delta setDeadlineAct
  extract_lets x0 x1 x2 x3
  have h2 : Keeps s₀ x2 := by
    try subst x2
    repeat' first
      | with_reducible assumption | intro _
      | (with_reducible first | apply keep_reject | apply keep_ackNow | apply keep_modEnt | apply keep_dlyDel | apply keep_armDeadline | apply keep_ite)
      | split
  have h3 : Keeps s₀ x3 := by
    try subst x3
    repeat' first
      | with_reducible assumption | intro _
      | (with_reducible first | apply keep_reject | apply keep_ackNow | apply keep_modEnt | apply keep_dlyDel | apply keep_armDeadline | apply keep_ite)
      | split
  try clear_value x3; try clear_value x2; try clear_value x1; try clear_value x0
  repeat' first
    | with_reducible assumption | intro _
    | (with_reducible first | apply keep_reject | apply keep_ackNow | apply keep_modEnt | apply keep_dlyDel | apply keep_armDeadline | apply keep_ite)
    | split

theorem keep_execSetDeadline {a0 a1} {t} (h : Keeps s₀ a1) (e : execSetDeadline a0 a1 = .next t) : Keeps s₀ t := by
  delta execSetDeadline at e
  refine keep_run e ?_
  clear e
  repeat' first
    | with_reducible assumption | intro _
    | (with_reducible first | apply keep_accept | apply keep_setDeadlineAct)

theorem keep_pauseAct {a0 a1 a2} (h : Keeps s₀ a2) : Keeps s₀ (pauseAct a0 a1 a2) := by
  delta pauseAct
  extract_lets x0
  try clear_value x0
  repeat' first
    | with_reducible assumption | intro _
    | (with_reducible first | apply keep_reject | apply keep_logEv | apply keep_startPause | apply keep_ackNow | apply keep_ite)
    | split

theorem keep_execPause {a0 a1} {t} (h : Keeps s₀ a1) (e : execPause a0 a1 = .next t) : Keeps s₀ t := by
  delta execPause at e
  refine keep_run e ?_
  clear e
  repeat' first
    | with_reducible assumption | intro _
    | (with_reducible first | apply keep_accept | apply keep_pauseAct)

theorem keep_rtbIdle {a0 a1} (h : Keeps s₀ a1) : Keeps s₀ (rtbIdle a0 a1) := by
  delta rtbIdle
  extract_lets x0 x1 x2
  try clear_value x2; try clear_value x1; try clear_value x0
  repeat' first
    | with_reducible assumption | intro _
    | (with_reducible first | apply keep_startPause | apply keep_logEv | apply keep_modSide | apply keep_ite)
    | split

theorem keep_execRtbIdleExpire {a0 a1} {t} (h : Keeps s₀ a1) (e : execRtbIdleExpire a0 a1 = .next t) : Keeps s₀ t := by
  delta execRtbIdleExpire at e
  refine keep_run e ?_
  clear e
  repeat' first
    | with_reducible assumption | intro _
    | (with_reducible first | apply keep_rtbIdle)

theorem keep_resumeTaken {a0 a1 a2 a3} (h : Keeps s₀ a3) : Keeps s₀ (resumeTaken a0 a1 a2 a3) := by
  delta resumeTaken
  extract_lets x0 x1 x2 x3 x4 x5 x6 x7
  have h3 : Keeps s₀ x3.2 := by
    try subst x3
    repeat' first
      | with_reducible assumption | intro _
      | (with_reducible first | apply keep_post | apply keep_poisonEnd | apply keep_tillFinal | apply keep_fresh | apply keep_endWith | apply keep_modSide | apply keep_modEnt | apply keep_dlyDel | apply keep_closeIfLeaving | apply keep_enqueue | apply keep_ite | apply keep_ite1 | apply keep_ite2 | apply keep_ite3)
      | split
  have h4 : Keeps s₀ x4 := by
    try subst x4
    repeat' first
      | with_reducible assumption | intro _
      | (with_reducible first | apply keep_post | apply keep_poisonEnd | apply keep_tillFinal | apply keep_fresh | apply keep_endWith | apply keep_modSide | apply keep_modEnt | apply keep_dlyDel | apply keep_closeIfLeaving | apply keep_enqueue | apply keep_ite | apply keep_ite1 | apply keep_ite2 | apply keep_ite3)
      | split
  have h5 : Keeps s₀ x5 := by
    try subst x5
    repeat' first
      | with_reducible assumption | intro _
      | (with_reducible first | apply keep_post | apply keep_poisonEnd | apply keep_tillFinal | apply keep_fresh | apply keep_endWith | apply keep_modSide | apply keep_modEnt | apply keep_dlyDel | apply keep_closeIfLeaving | apply keep_enqueue | apply keep_ite | apply keep_ite1 | apply keep_ite2 | apply keep_ite3)
      | split
  have h6 : Keeps s₀ x6 := by
    try subst x6
    repeat' first
      | with_reducible assumption | intro _
      | (with_reducible first | apply keep_post | apply keep_poisonEnd | apply keep_tillFinal | apply keep_fresh | apply keep_endWith | apply keep_modSide | apply keep_modEnt | apply keep_dlyDel | apply keep_closeIfLeaving | apply keep_enqueue | apply keep_ite | apply keep_ite1 | apply keep_ite2 | apply keep_ite3)
      | split
  have h7 : Keeps s₀ x7 := by
    try subst x7
    repeat' first
      | with_reducible assumption | intro _
      | (with_reducible first | apply keep_post | apply keep_poisonEnd | apply keep_tillFinal | apply keep_fresh | apply keep_endWith | apply keep_modSide | apply keep_modEnt | apply keep_dlyDel | apply keep_closeIfLeaving | apply keep_enqueue | apply keep_ite | apply keep_ite1 | apply keep_ite2 | apply keep_ite3)
      | split
  try clear_value x7; try clear_value x6; try clear_value x5; try clear_value x4; try clear_value x3; try clear_value x1; try clear_value x0
  repeat' first
    | with_reducible assumption | intro _
    | (with_reducible first | apply keep_post | apply keep_poisonEnd | apply keep_tillFinal | apply keep_fresh | apply keep_endWith | apply keep_modSide | apply keep_modEnt | apply keep_dlyDel | apply keep_closeIfLeaving | apply keep_enqueue | apply keep_ite | apply keep_ite1 | apply keep_ite2 | apply keep_ite3)
    | split

theorem keep_resumeAct {a0 a1 a2} (h : Keeps s₀ a2) : Keeps s₀ (resumeAct a0 a1 a2) := by
  delta resumeAct
  extract_lets x0 x1
  try clear_value x1; try clear_value x0
  repeat' first
    | with_reducible assumption | intro _
    | (with_reducible first | apply keep_resumeTaken | apply keep_reject | apply keep_ite)
    | split

theorem keep_execResume {a0 a1} {t} (h : Keeps s₀ a1) (e : execResume a0 a1 = .next t) : Keeps s₀ t := by
  delta execResume at e
  refine keep_run e ?_
  clear e
  repeat' first
    | with_reducible assumption | intro _
    | (with_reducible first | apply keep_accept | apply keep_resumeAct)

theorem keep_adoptAct {a0 a1 a2} (h : Keeps s₀ a2) : Keeps s₀ (adoptAct a0 a1 a2) := by
  delta adoptAct
  extract_lets x0 x1 x2 x3
  have h2 : Keeps s₀ x2 := by
    try subst x2
    repeat' first
      | with_reducible assumption | intro _
      | (with_reducible first | apply keep_reject | apply keep_resumeTaken | apply keep_modEnt | apply keep_modRing | apply keep_ite | apply keep_ite1 | apply keep_ite2 | apply keep_ite3)
      | extract_lets | split
      | refine keep_eq2 (by with_reducible assumption) ?_ | refine keep_eq1 (by with_reducible assumption) ?_
  have h3 : Keeps s₀ x3 := by
    try subst x3
    repeat' first
      | with_reducible assumption | intro _
      | (with_reducible first | apply keep_reject | apply keep_resumeTaken | apply keep_modEnt | apply keep_modRing | apply keep_ite | apply keep_ite1 | apply keep_ite2 | apply keep_ite3)
      | extract_lets | split
      | refine keep_eq2 (by with_reducible assumption) ?_ | refine keep_eq1 (by with_reducible assumption) ?_
  try clear_value x3; try clear_value x2; try clear_value x1; try clear_value x0
  repeat' first
    | with_reducible assumption | intro _
    | (with_reducible first | apply keep_reject | apply keep_resumeTaken | apply keep_modEnt | apply keep_modRing | apply keep_ite | apply keep_ite1 | apply keep_ite2 | apply keep_ite3)
    | extract_lets | split
    | refine keep_eq2 (by with_reducible assumption) ?_ | refine keep_eq1 (by with_reducible assumption) ?_

theorem keep_execAdopt {a0 a1} {t} (h : Keeps s₀ a1) (e : execAdopt a0 a1 = .next t) : Keeps s₀ t := by
  delta execAdopt at e
  refine keep_run e ?_
  clear e
  repeat' first
    | with_reducible assumption | intro _
    | (with_reducible first | apply keep_accept | apply keep_adoptAct)

theorem keep_lakeCopy {a0 a1} (h : Keeps s₀ a1) : Keeps s₀ (lakeCopy a0 a1) := by
  delta lakeCopy
  extract_lets x0 x1 x2 x3 x4 x5 x6 x7 x8
  try clear_value x7; try clear_value x4; try clear_value x3; try clear_value x2; try clear_value x1; try clear_value x0
  repeat' first
    | with_reducible assumption | intro _
    | (with_reducible first | apply keep_foldl | apply keep_foldl1 | apply keep_foldl2 | apply keep_foldl3)
    | with_reducible refine keep_set ?_ ?_ ?_ ?_ ?_ ?_
    | rfl
    | (with_reducible first | apply memory_put | apply memory_putBytes | apply memory_filter | apply memory_delRange | apply memory_copyRange | apply memory_foldl | apply memory_setRange | apply memory_rowApply | apply memory_unitApply)
    | assumption

theorem keep_pondCopy {a0 a1} (h : Keeps s₀ a1) : Keeps s₀ (pondCopy a0 a1) := by
  delta pondCopy
  extract_lets x0 x1 x2
  try clear_value x2; try clear_value x1; try clear_value x0
  repeat' first
    | with_reducible assumption | intro _
    | (with_reducible first | apply keep_foldl | apply keep_foldl1 | apply keep_foldl2 | apply keep_foldl3)
    | with_reducible refine keep_set ?_ ?_ ?_ ?_ ?_ ?_
    | rfl
    | (with_reducible first | apply memory_put | apply memory_putBytes | apply memory_filter | apply memory_delRange | apply memory_copyRange | apply memory_foldl | apply memory_setRange | apply memory_rowApply | apply memory_unitApply)
    | assumption

theorem keep_pauseComplete {a0 a1} (h : Keeps s₀ a1) : Keeps s₀ (pauseComplete a0 a1) := by
  delta pauseComplete
  extract_lets x0 x1 x2 x3 x4 x5 x6 x7 x8
  have h1 : Keeps s₀ x1 := by
    try subst x1
    repeat' first
      | with_reducible assumption | intro _
      | (with_reducible first | apply keep_modEnt | apply keep_releasePages | apply keep_lakeCopy | apply keep_forEach | apply keep_modFree | apply keep_modSide | apply keep_dlyIns | apply keep_beginWork | apply keep_dlyDel | apply keep_takeClose | apply keep_orphan | apply keep_ite | apply keep_ite1 | apply keep_ite2 | apply keep_ite3)
      | extract_lets | split
      | refine keep_eq2 (by with_reducible assumption) ?_ | refine keep_eq1 (by with_reducible assumption) ?_
  have h2 : Keeps s₀ x2 := by
    try subst x2
    repeat' first
      | with_reducible assumption | intro _
      | (with_reducible first | apply keep_modEnt | apply keep_releasePages | apply keep_lakeCopy | apply keep_forEach | apply keep_modFree | apply keep_modSide | apply keep_dlyIns | apply keep_beginWork | apply keep_dlyDel | apply keep_takeClose | apply keep_orphan | apply keep_ite | apply keep_ite1 | apply keep_ite2 | apply keep_ite3)
      | extract_lets | split
      | refine keep_eq2 (by with_reducible assumption) ?_ | refine keep_eq1 (by with_reducible assumption) ?_
  have h3 : Keeps s₀ x3 := by
    try subst x3
    repeat' first
      | with_reducible assumption | intro _
      | (with_reducible first | apply keep_modEnt | apply keep_releasePages | apply keep_lakeCopy | apply keep_forEach | apply keep_modFree | apply keep_modSide | apply keep_dlyIns | apply keep_beginWork | apply keep_dlyDel | apply keep_takeClose | apply keep_orphan | apply keep_ite | apply keep_ite1 | apply keep_ite2 | apply keep_ite3)
      | extract_lets | split
      | refine keep_eq2 (by with_reducible assumption) ?_ | refine keep_eq1 (by with_reducible assumption) ?_
  have h4 : Keeps s₀ x4 := by
    try subst x4
    repeat' first
      | with_reducible assumption | intro _
      | (with_reducible first | apply keep_modEnt | apply keep_releasePages | apply keep_lakeCopy | apply keep_forEach | apply keep_modFree | apply keep_modSide | apply keep_dlyIns | apply keep_beginWork | apply keep_dlyDel | apply keep_takeClose | apply keep_orphan | apply keep_ite | apply keep_ite1 | apply keep_ite2 | apply keep_ite3)
      | extract_lets | split
      | refine keep_eq2 (by with_reducible assumption) ?_ | refine keep_eq1 (by with_reducible assumption) ?_
  have h6 : Keeps s₀ x6 := by
    try subst x6
    repeat' first
      | with_reducible assumption | intro _
      | (with_reducible first | apply keep_modEnt | apply keep_releasePages | apply keep_lakeCopy | apply keep_forEach | apply keep_modFree | apply keep_modSide | apply keep_dlyIns | apply keep_beginWork | apply keep_dlyDel | apply keep_takeClose | apply keep_orphan | apply keep_ite | apply keep_ite1 | apply keep_ite2 | apply keep_ite3)
      | extract_lets | split
      | refine keep_eq2 (by with_reducible assumption) ?_ | refine keep_eq1 (by with_reducible assumption) ?_
  have h7 : Keeps s₀ x7 := by
    try subst x7
    repeat' first
      | with_reducible assumption | intro _
      | (with_reducible first | apply keep_modEnt | apply keep_releasePages | apply keep_lakeCopy | apply keep_forEach | apply keep_modFree | apply keep_modSide | apply keep_dlyIns | apply keep_beginWork | apply keep_dlyDel | apply keep_takeClose | apply keep_orphan | apply keep_ite | apply keep_ite1 | apply keep_ite2 | apply keep_ite3)
      | extract_lets | split
      | refine keep_eq2 (by with_reducible assumption) ?_ | refine keep_eq1 (by with_reducible assumption) ?_
  have h8 : Keeps s₀ x8 := by
    try subst x8
    repeat' first
      | with_reducible assumption | intro _
      | (with_reducible first | apply keep_modEnt | apply keep_releasePages | apply keep_lakeCopy | apply keep_forEach | apply keep_modFree | apply keep_modSide | apply keep_dlyIns | apply keep_beginWork | apply keep_dlyDel | apply keep_takeClose | apply keep_orphan | apply keep_ite | apply keep_ite1 | apply keep_ite2 | apply keep_ite3)
      | extract_lets | split
      | refine keep_eq2 (by with_reducible assumption) ?_ | refine keep_eq1 (by with_reducible assumption) ?_
  try clear_value x8; try clear_value x7; try clear_value x6; try clear_value x5; try clear_value x4; try clear_value x3; try clear_value x2; try clear_value x1; try clear_value x0
  repeat' first
    | with_reducible assumption | intro _
    | (with_reducible first | apply keep_modEnt | apply keep_releasePages | apply keep_lakeCopy | apply keep_forEach | apply keep_modFree | apply keep_modSide | apply keep_dlyIns | apply keep_beginWork | apply keep_dlyDel | apply keep_takeClose | apply keep_orphan | apply keep_ite | apply keep_ite1 | apply keep_ite2 | apply keep_ite3)
    | extract_lets | split
    | refine keep_eq2 (by with_reducible assumption) ?_ | refine keep_eq1 (by with_reducible assumption) ?_

theorem keep_execPauseComplete {a0 a1} {t} (h : Keeps s₀ a1) (e : execPauseComplete a0 a1 = .next t) : Keeps s₀ t := by
  delta execPauseComplete at e
  refine keep_run e ?_
  clear e
  repeat' first
    | with_reducible assumption | intro _
    | (with_reducible first | apply keep_pauseComplete)

theorem keep_promoteR2 {a0 a1} (h : Keeps s₀ a1) : Keeps s₀ (promoteR2 a0 a1) := by
  delta promoteR2
  extract_lets x0 x1
  try clear_value x1; try clear_value x0
  repeat' first
    | with_reducible assumption | intro _
    | (with_reducible first | apply keep_toReady | apply keep_modSide | apply keep_armDeadline | apply keep_modEnt)
    | extract_lets | split
    | refine keep_eq2 (by with_reducible assumption) ?_ | refine keep_eq1 (by with_reducible assumption) ?_

theorem keep_resumeComplete {a0 a1 a2} (h : Keeps s₀ a2) : Keeps s₀ (resumeComplete a0 a1 a2) := by
  delta resumeComplete
  extract_lets x0 x1 x2 x3 x4
  have h1 : Keeps s₀ x1 := by
    try subst x1
    repeat' first
      | with_reducible assumption | intro _
      | (with_reducible first | apply keep_logEv | apply keep_modEnt | apply keep_dropLake | apply keep_pondCopy | apply keep_toClosing | apply keep_dlyDel | apply keep_finishOpen | apply keep_promoteR2 | apply keep_toReady | apply keep_modSide | apply keep_ite)
      | split
      | with_reducible refine keep_set ?_ ?_ ?_ ?_ ?_ ?_
      | rfl
      | (with_reducible first | apply memory_put | apply memory_putBytes | apply memory_filter | apply memory_delRange | apply memory_copyRange | apply memory_foldl | apply memory_setRange | apply memory_rowApply | apply memory_unitApply)
      | assumption
  have h2 : Keeps s₀ x2 := by
    try subst x2
    repeat' first
      | with_reducible assumption | intro _
      | (with_reducible first | apply keep_logEv | apply keep_modEnt | apply keep_dropLake | apply keep_pondCopy | apply keep_toClosing | apply keep_dlyDel | apply keep_finishOpen | apply keep_promoteR2 | apply keep_toReady | apply keep_modSide | apply keep_ite)
      | split
      | with_reducible refine keep_set ?_ ?_ ?_ ?_ ?_ ?_
      | rfl
      | (with_reducible first | apply memory_put | apply memory_putBytes | apply memory_filter | apply memory_delRange | apply memory_copyRange | apply memory_foldl | apply memory_setRange | apply memory_rowApply | apply memory_unitApply)
      | assumption
  have h4 : Keeps s₀ x4 := by
    try subst x4
    repeat' first
      | with_reducible assumption | intro _
      | (with_reducible first | apply keep_logEv | apply keep_modEnt | apply keep_dropLake | apply keep_pondCopy | apply keep_toClosing | apply keep_dlyDel | apply keep_finishOpen | apply keep_promoteR2 | apply keep_toReady | apply keep_modSide | apply keep_ite)
      | split
      | with_reducible refine keep_set ?_ ?_ ?_ ?_ ?_ ?_
      | rfl
      | (with_reducible first | apply memory_put | apply memory_putBytes | apply memory_filter | apply memory_delRange | apply memory_copyRange | apply memory_foldl | apply memory_setRange | apply memory_rowApply | apply memory_unitApply)
      | assumption
  try clear_value x4; try clear_value x2; try clear_value x1; try clear_value x0
  repeat' first
    | with_reducible assumption | intro _
    | (with_reducible first | apply keep_logEv | apply keep_modEnt | apply keep_dropLake | apply keep_pondCopy | apply keep_toClosing | apply keep_dlyDel | apply keep_finishOpen | apply keep_promoteR2 | apply keep_toReady | apply keep_modSide | apply keep_ite)
    | split
    | with_reducible refine keep_set ?_ ?_ ?_ ?_ ?_ ?_
    | rfl
    | (with_reducible first | apply memory_put | apply memory_putBytes | apply memory_filter | apply memory_delRange | apply memory_copyRange | apply memory_foldl | apply memory_setRange | apply memory_rowApply | apply memory_unitApply)
    | assumption

theorem keep_execResumeComplete {a0 a1 a2} {t} (h : Keeps s₀ a2) (e : execResumeComplete a0 a1 a2 = .next t) : Keeps s₀ t := by
  delta execResumeComplete at e
  refine keep_run e ?_
  clear e
  repeat' first
    | with_reducible assumption | intro _
    | (with_reducible first | apply keep_resumeComplete)

theorem keep_deadlineDue {a0 a1} (h : Keeps s₀ a1) : Keeps s₀ (deadlineDue a0 a1) := by
  delta deadlineDue
  repeat' first
    | with_reducible assumption | intro _
    | (with_reducible first | apply keep_toDraining | apply keep_ite)
    | extract_lets | split
    | refine keep_eq2 (by with_reducible assumption) ?_ | refine keep_eq1 (by with_reducible assumption) ?_

theorem keep_execDeadline {a0} {t} (h : Keeps s₀ a0) (e : execDeadline a0 = .next t) : Keeps s₀ t := by
  delta execDeadline at e
  refine keep_run e ?_
  clear e
  repeat' first
    | with_reducible assumption | intro _
    | (with_reducible first | apply keep_fire | apply keep_deadlineDue | apply keep_ite)
    | split

theorem keep_ttlDue {a0 a1} (h : Keeps s₀ a1) : Keeps s₀ (ttlDue a0 a1) := by
  delta ttlDue
  repeat' first
    | with_reducible assumption | intro _
    | (with_reducible first | apply keep_logEv | apply keep_modEnt | apply keep_dropLake | apply keep_ite)
    | extract_lets | split
    | refine keep_eq2 (by with_reducible assumption) ?_ | refine keep_eq1 (by with_reducible assumption) ?_

theorem keep_execTtlPause {a0} {t} (h : Keeps s₀ a0) (e : execTtlPause a0 = .next t) : Keeps s₀ t := by
  delta execTtlPause at e
  refine keep_run e ?_
  clear e
  repeat' first
    | with_reducible assumption | intro _
    | (with_reducible first | apply keep_fire | apply keep_ttlDue | apply keep_ite)
    | split

theorem keep_nodeDue {a0 a1} (h : Keeps s₀ a1) : Keeps s₀ (nodeDue a0 a1) := by
  delta nodeDue
  extract_lets x0
  try clear_value x0
  repeat' first
    | with_reducible assumption | intro _
    | (with_reducible first | apply keep_evictDue | apply keep_modNode | apply keep_ite)
    | split

theorem keep_execTtlNode {a0} {t} (h : Keeps s₀ a0) (e : execTtlNode a0 = .next t) : Keeps s₀ t := by
  delta execTtlNode at e
  refine keep_run e ?_
  clear e
  repeat' first
    | with_reducible assumption | intro _
    | (with_reducible first | apply keep_fire | apply keep_nodeDue | apply keep_ite)
    | split

theorem keep_fenceAct {a0 a1 a2} (h : Keeps s₀ a2) : Keeps s₀ (fenceAct a0 a1 a2) := by
  delta fenceAct
  repeat' first
    | with_reducible assumption | intro _
    | (with_reducible first | apply keep_modChan)

theorem keep_execFence {a0 a1} {t} (h : Keeps s₀ a1) (e : execFence a0 a1 = .next t) : Keeps s₀ t := by
  delta execFence at e
  refine keep_run e ?_
  clear e
  repeat' first
    | with_reducible assumption | intro _
    | (with_reducible first | apply keep_accept | apply keep_fenceAct)

theorem keep_fenceComplete {a0 a1} (h : Keeps s₀ a1) : Keeps s₀ (fenceComplete a0 a1) := by
  delta fenceComplete
  extract_lets x0
  try clear_value x0
  repeat' first
    | with_reducible assumption | intro _
    | (with_reducible first | apply keep_modChan | apply keep_post | apply keep_ite | apply keep_ite1 | apply keep_ite2 | apply keep_ite3)
    | extract_lets | split
    | refine keep_eq2 (by with_reducible assumption) ?_ | refine keep_eq1 (by with_reducible assumption) ?_

theorem keep_execFenceComplete {a0 a1} {t} (h : Keeps s₀ a1) (e : execFenceComplete a0 a1 = .next t) : Keeps s₀ t := by
  delta execFenceComplete at e
  refine keep_run e ?_
  clear e
  repeat' first
    | with_reducible assumption | intro _
    | (with_reducible first | apply keep_fenceComplete)

end Sys2Proof.Laws
end

