-- ==== Sys2Proof/Laws/KeepSteps.lean ====
section
/-! SUPPORT. What `Keeps` of Laws/Keep.lean says, operation by operation and command by command: sampling, the ports and the life of a step. Each lemma
says that an operation applied to a state that keeps the invariants of `s₀` keeps them. -/
namespace Sys2Proof.Laws
open Sys2Proof.Machine Sys2Proof.Safety
set_option Elab.async false
set_option linter.unusedTactic false
set_option linter.unreachableTactic false
set_option linter.unusedVariables false
variable {s₀ : State}

/-! ### Sampler -/

theorem keep_modMask {a0 a1 a2} (h : Keeps s₀ a2) : Keeps s₀ (modMask a0 a1 a2) := by
  delta modMask
  repeat' first
    | with_reducible assumption | intro _
    | with_reducible refine keep_set ?_ ?_ ?_ ?_ ?_ ?_
    | rfl
    | assumption

theorem keep_countRow {a0 a1 a2} (h : Keeps s₀ a2) : Keeps s₀ (countRow a0 a1 a2) := by
  delta countRow
  extract_lets x0 x1 x2 x3
  have h1 : Keeps s₀ x1 := by
    try subst x1
    repeat' first
      | with_reducible assumption | intro _
      | (with_reducible first | apply keep_forEach | apply keep_bumpSat | apply keep_logEv | apply keep_wr)
  have h2 : Keeps s₀ x2 := by
    try subst x2
    repeat' first
      | with_reducible assumption | intro _
      | (with_reducible first | apply keep_forEach | apply keep_bumpSat | apply keep_logEv | apply keep_wr)
  try clear_value x3; try clear_value x2; try clear_value x1; try clear_value x0
  repeat' first
    | with_reducible assumption | intro _
    | (with_reducible first | apply keep_forEach | apply keep_bumpSat | apply keep_logEv | apply keep_wr)

theorem keep_sampleOne {a0 a1 a2 a3} (h : Keeps s₀ a3) : Keeps s₀ (sampleOne a0 a1 a2 a3).2.2 := by
  delta sampleOne
  extract_lets x0 x1 x2 x3 x4
  have h2 : Keeps s₀ x2 := by
    try subst x2
    repeat' first
      | with_reducible assumption | intro _
      | (with_reducible first | apply keep_countRow | apply keep_ite | apply keep_ite1 | apply keep_ite2 | apply keep_ite3)
      | split
  try clear_value x4; try clear_value x3; try clear_value x2; try clear_value x1; try clear_value x0
  repeat' first
    | with_reducible assumption | intro _
    | (with_reducible first | apply keep_countRow | apply keep_ite | apply keep_ite1 | apply keep_ite2 | apply keep_ite3)
    | split

theorem keep_sampleRows {b c d l a} (h : Keeps s₀ a) : Keeps s₀ (sampleRows b c d l a).2.2 := by
  induction l generalizing a with
  | nil => exact h
  | cons x t ih =>
    unfold sampleRows
    repeat' first
      | with_reducible assumption
      | intro _
      | (with_reducible first | apply ih | apply keep_sampleOne)
      | (with_reducible first | apply keep_ite | apply keep_ite2)
      | extract_lets | split
      | refine keep_eq2 (by with_reducible assumption) ?_

theorem keep_reapMasks {a0} (h : Keeps s₀ a0) : Keeps s₀ (reapMasks a0) := by
  delta reapMasks
  repeat' first
    | with_reducible assumption | intro _
    | (with_reducible first | apply keep_forEach | apply keep_freePage | apply keep_modMask | apply keep_ite | apply keep_ite1 | apply keep_ite2 | apply keep_ite3)
    | split
    | with_reducible refine keep_set ?_ ?_ ?_ ?_ ?_ ?_
    | rfl
    | (with_reducible first | apply memory_put | apply memory_putBytes | apply memory_filter | apply memory_delRange | apply memory_copyRange | apply memory_foldl | apply memory_setRange | apply memory_rowApply | apply memory_unitApply)
    | assumption

theorem keep_sendTokens {a0 a1} (h : Keeps s₀ a1) : Keeps s₀ (sendTokens a0 a1) := by
  delta sendTokens
  extract_lets x0 x1 x2 x3
  have h3 : Keeps s₀ x3.2 := by
    try subst x3
    repeat' first
      | with_reducible assumption | intro _
      | (with_reducible first | apply keep_fresh | apply keep_issuePW | apply keep_modSide)
      | extract_lets | split
      | refine keep_eq2 (by with_reducible assumption) ?_ | refine keep_eq1 (by with_reducible assumption) ?_
  try clear_value x3; try clear_value x1; try clear_value x0
  repeat' first
    | with_reducible assumption | intro _
    | (with_reducible first | apply keep_fresh | apply keep_issuePW | apply keep_modSide)
    | extract_lets | split
    | refine keep_eq2 (by with_reducible assumption) ?_ | refine keep_eq1 (by with_reducible assumption) ?_

theorem keep_sampleComplete {a0 a1 a2 a3} (h : Keeps s₀ a3) : Keeps s₀ (sampleComplete a0 a1 a2 a3) := by
  delta sampleComplete
  repeat' first
    | with_reducible assumption | intro _
    | (with_reducible first | apply keep_sampleRows | apply keep_when_ | apply keep_bumpSat | apply keep_modStep | apply keep_forEach | apply keep_sendTokens | apply keep_reapMasks | apply keep_ite | apply keep_ite1 | apply keep_ite2 | apply keep_ite3)
    | extract_lets | split
    | refine keep_eq2 (by with_reducible assumption) ?_ | refine keep_eq1 (by with_reducible assumption) ?_

theorem keep_execSampleComplete {a0 a1 a2 a3} {t} (h : Keeps s₀ a3) (e : execSampleComplete a0 a1 a2 a3 = .next t) : Keeps s₀ t := by
  delta execSampleComplete at e
  refine keep_run e ?_
  clear e
  repeat' first
    | with_reducible assumption | intro _
    | (with_reducible first | apply keep_sampleComplete)

theorem keep_stageMask {a0 a1 a2} (h : Keeps s₀ a2) : Keeps s₀ (stageMask a0 a1 a2).2.2 := by
  delta stageMask
  extract_lets x0
  try clear_value x0
  repeat' first
    | with_reducible assumption | intro _
    | (with_reducible first | apply keep_allocPage | apply keep_modMask | apply keep_ite | apply keep_ite1 | apply keep_ite2 | apply keep_ite3)
    | extract_lets | split
    | refine keep_eq2 (by with_reducible assumption) ?_ | refine keep_eq1 (by with_reducible assumption) ?_

theorem keep_commitMask {a0 a1 a2} (h : Keeps s₀ a2) : Keeps s₀ (commitMask a0 a1 a2).2 := by
  delta commitMask
  extract_lets x0
  try clear_value x0
  repeat' first
    | with_reducible assumption | intro _
    | (with_reducible first | apply keep_reapMasks | apply keep_modMask | apply keep_ite | apply keep_ite1 | apply keep_ite2 | apply keep_ite3)
    | extract_lets | split
    | refine keep_eq2 (by with_reducible assumption) ?_ | refine keep_eq1 (by with_reducible assumption) ?_

theorem keep_maskStatus {a0 a1} (h : Keeps s₀ a1) : Keeps s₀ (maskStatus a0 a1) := by
  delta maskStatus
  repeat' first
    | with_reducible assumption | intro _
    | (with_reducible first | apply keep_wrf)

theorem keep_maskStage {a0} (h : Keeps s₀ a0) : Keeps s₀ (maskStage a0) := by
  delta maskStage
  extract_lets x0
  have h0 : Keeps s₀ x0.2.2 := by
    try subst x0
    repeat' first
      | with_reducible assumption | intro _
      | (with_reducible first | apply keep_stageMask | apply keep_maskStatus | apply keep_wrf)
  try clear_value x0
  repeat' first
    | with_reducible assumption | intro _
    | (with_reducible first | apply keep_stageMask | apply keep_maskStatus | apply keep_wrf)

theorem keep_execMaskStage {a0} {t} (h : Keeps s₀ a0) (e : execMaskStage a0 = .next t) : Keeps s₀ t := by
  delta execMaskStage at e
  refine keep_run e ?_
  clear e
  repeat' first
    | with_reducible assumption | intro _
    | (with_reducible first | apply keep_maskStage)

theorem keep_maskCommit {a0} (h : Keeps s₀ a0) : Keeps s₀ (maskCommit a0) := by
  delta maskCommit
  extract_lets x0
  have h0 : Keeps s₀ x0.2 := by
    try subst x0
    repeat' first
      | with_reducible assumption | intro _
      | (with_reducible first | apply keep_commitMask | apply keep_maskStatus)
  try clear_value x0
  repeat' first
    | with_reducible assumption | intro _
    | (with_reducible first | apply keep_commitMask | apply keep_maskStatus)

theorem keep_execMaskCommit {a0} {t} (h : Keeps s₀ a0) (e : execMaskCommit a0 = .next t) : Keeps s₀ t := by
  delta execMaskCommit at e
  refine keep_run e ?_
  clear e
  repeat' first
    | with_reducible assumption | intro _
    | (with_reducible first | apply keep_maskCommit)

theorem keep_maskRelease {a0} (h : Keeps s₀ a0) : Keeps s₀ (maskRelease a0) := by
  delta maskRelease
  extract_lets x0 x1 x2 x3
  have h2 : Keeps s₀ x2 := by
    try subst x2
    repeat' first
      | with_reducible assumption | intro _
      | (with_reducible first | apply keep_maskStatus | apply keep_freePage | apply keep_modMask | apply keep_reapMasks | apply keep_ite | apply keep_ite1 | apply keep_ite2 | apply keep_ite3)
      | extract_lets | split
      | refine keep_eq2 (by with_reducible assumption) ?_ | refine keep_eq1 (by with_reducible assumption) ?_
  have h3 : Keeps s₀ x3 := by
    try subst x3
    repeat' first
      | with_reducible assumption | intro _
      | (with_reducible first | apply keep_maskStatus | apply keep_freePage | apply keep_modMask | apply keep_reapMasks | apply keep_ite | apply keep_ite1 | apply keep_ite2 | apply keep_ite3)
      | extract_lets | split
      | refine keep_eq2 (by with_reducible assumption) ?_ | refine keep_eq1 (by with_reducible assumption) ?_
  try clear_value x3; try clear_value x2; try clear_value x1; try clear_value x0
  repeat' first
    | with_reducible assumption | intro _
    | (with_reducible first | apply keep_maskStatus | apply keep_freePage | apply keep_modMask | apply keep_reapMasks | apply keep_ite | apply keep_ite1 | apply keep_ite2 | apply keep_ite3)
    | extract_lets | split
    | refine keep_eq2 (by with_reducible assumption) ?_ | refine keep_eq1 (by with_reducible assumption) ?_

theorem keep_execMaskRelease {a0} {t} (h : Keeps s₀ a0) (e : execMaskRelease a0 = .next t) : Keeps s₀ t := by
  delta execMaskRelease at e
  refine keep_run e ?_
  clear e
  repeat' first
    | with_reducible assumption | intro _
    | (with_reducible first | apply keep_maskRelease)

theorem keep_ringCode {a0 a1 a2} (h : Keeps s₀ a2) : Keeps s₀ (ringCode a0 a1 a2) := by
  delta ringCode
  repeat' first
    | with_reducible assumption | intro _
    | (with_reducible first | apply keep_wrf)

theorem keep_ringCreate {a0 a1 a2} (h : Keeps s₀ a2) : Keeps s₀ (ringCreate a0 a1 a2) := by
  delta ringCreate
  extract_lets x0 x1 x2 x3 x4 x5
  try clear_value x5; try clear_value x4; try clear_value x3; try clear_value x2; try clear_value x1; try clear_value x0
  repeat' first
    | with_reducible assumption | intro _
    | (with_reducible first | apply keep_ringCode | apply keep_wr64 | apply keep_forEach | apply keep_takePage | apply keep_modRing | apply keep_ite | apply keep_ite1 | apply keep_ite2 | apply keep_ite3)
    | extract_lets | split
    | refine keep_eq2 (by with_reducible assumption) ?_ | refine keep_eq1 (by with_reducible assumption) ?_

theorem keep_execRingCreate {a0 a1 a2} {t} (h : Keeps s₀ a2) (e : execRingCreate a0 a1 a2 = .next t) : Keeps s₀ t := by
  delta execRingCreate at e
  refine keep_run e ?_
  clear e
  repeat' first
    | with_reducible assumption | intro _
    | (with_reducible first | apply keep_ringCreate)

theorem keep_ringDestroy {a0 a1 a2} (h : Keeps s₀ a2) : Keeps s₀ (ringDestroy a0 a1 a2) := by
  delta ringDestroy
  extract_lets x0 x1
  have h1 : Keeps s₀ x1 := by
    try subst x1
    repeat' first
      | with_reducible assumption | intro _
      | (with_reducible first | apply keep_ringCode | apply keep_forEach | apply keep_freePage | apply keep_bumpGen | apply keep_ite)
      | split
      | with_reducible refine keep_set ?_ ?_ ?_ ?_ ?_ ?_
      | rfl
      | (with_reducible first | apply memory_put | apply memory_putBytes | apply memory_filter | apply memory_delRange | apply memory_copyRange | apply memory_foldl | apply memory_setRange | apply memory_rowApply | apply memory_unitApply)
      | assumption
  try clear_value x1; try clear_value x0
  repeat' first
    | with_reducible assumption | intro _
    | (with_reducible first | apply keep_ringCode | apply keep_forEach | apply keep_freePage | apply keep_bumpGen | apply keep_ite)
    | split
    | with_reducible refine keep_set ?_ ?_ ?_ ?_ ?_ ?_
    | rfl
    | (with_reducible first | apply memory_put | apply memory_putBytes | apply memory_filter | apply memory_delRange | apply memory_copyRange | apply memory_foldl | apply memory_setRange | apply memory_rowApply | apply memory_unitApply)
    | assumption

theorem keep_execRingDestroy {a0 a1 a2} {t} (h : Keeps s₀ a2) (e : execRingDestroy a0 a1 a2 = .next t) : Keeps s₀ t := by
  delta execRingDestroy at e
  refine keep_run e ?_
  clear e
  repeat' first
    | with_reducible assumption | intro _
    | (with_reducible first | apply keep_ringDestroy)

theorem keep_writeHeld {b c n a} (h : Keeps s₀ a) : Keeps s₀ (writeHeld b c n a) := by
  induction n generalizing  a with
  | zero => exact h
  | succ n ih =>
    unfold writeHeld
    repeat' first
      | with_reducible assumption
      | intro _
      | (with_reducible first | apply ih | apply keep_modSide | apply keep_recWrite)
      | (with_reducible first | apply keep_ite | apply keep_ite2)
      | extract_lets | split
      | refine keep_eq2 (by with_reducible assumption) ?_

theorem keep_ringDb {a0 a1 a2} (h : Keeps s₀ a2) : Keeps s₀ (ringDb a0 a1 a2) := by
  delta ringDb
  extract_lets x0 x1 x2 x3 x4 x5 x6
  have h6 : Keeps s₀ x6 := by
    try subst x6
    repeat' first
      | with_reducible assumption | intro _
      | (with_reducible first | apply keep_logEv | apply keep_setBit | apply keep_wakeAll | apply keep_modRing | apply keep_writeHeld | apply keep_modEnt | apply keep_ite)
      | extract_lets | split
      | refine keep_eq2 (by with_reducible assumption) ?_ | refine keep_eq1 (by with_reducible assumption) ?_
  try clear_value x6; try clear_value x5; try clear_value x4; try clear_value x3; try clear_value x2; try clear_value x1; try clear_value x0
  repeat' first
    | with_reducible assumption | intro _
    | (with_reducible first | apply keep_logEv | apply keep_setBit | apply keep_wakeAll | apply keep_modRing | apply keep_writeHeld | apply keep_modEnt | apply keep_ite)
    | extract_lets | split
    | refine keep_eq2 (by with_reducible assumption) ?_ | refine keep_eq1 (by with_reducible assumption) ?_

theorem keep_execRingDb {a0 a1 a2} {t} (h : Keeps s₀ a2) (e : execRingDb a0 a1 a2 = .next t) : Keeps s₀ t := by
  delta execRingDb at e
  refine keep_run e ?_
  clear e
  repeat' first
    | with_reducible assumption | intro _
    | (with_reducible first | apply keep_ringDb)

theorem keep_ringFail {a0 a1} (h : Keeps s₀ a1) : Keeps s₀ (ringFail a0 a1) := by
  delta ringFail
  extract_lets x0 x1
  have h1 : Keeps s₀ x1 := by
    try subst x1
    repeat' first
      | with_reducible assumption | intro _
      | (with_reducible first | apply keep_logEv | apply keep_setBit | apply keep_modRing | apply keep_dmaFail | apply keep_toClosing | apply keep_maskReq | apply keep_ite)
      | extract_lets | split
      | refine keep_eq2 (by with_reducible assumption) ?_ | refine keep_eq1 (by with_reducible assumption) ?_
  try clear_value x1; try clear_value x0
  repeat' first
    | with_reducible assumption | intro _
    | (with_reducible first | apply keep_logEv | apply keep_setBit | apply keep_modRing | apply keep_dmaFail | apply keep_toClosing | apply keep_maskReq | apply keep_ite)
    | extract_lets | split
    | refine keep_eq2 (by with_reducible assumption) ?_ | refine keep_eq1 (by with_reducible assumption) ?_

theorem keep_execRingDmaFail {a0 a1} {t} (h : Keeps s₀ a1) (e : execRingDmaFail a0 a1 = .next t) : Keeps s₀ t := by
  delta execRingDmaFail at e
  refine keep_run e ?_
  clear e
  repeat' first
    | with_reducible assumption | intro _
    | (with_reducible first | apply keep_ringFail)

/-! ### Egress -/

theorem keep_portCount {a0 a1 a2} (h : Keeps s₀ a2) : Keeps s₀ (portCount a0 a1 a2) := by
  delta portCount
  repeat' first
    | with_reducible assumption | intro _
    | (with_reducible first | apply keep_bumpSat)

theorem keep_modPort {a0 a1 a2} (h : Keeps s₀ a2) : Keeps s₀ (modPort a0 a1 a2) := by
  delta modPort
  repeat' first
    | with_reducible assumption | intro _
    | (with_reducible first | apply keep_modSpg)

theorem keep_execPortLinkChange {a0 a1 a2} {t} (h : Keeps s₀ a2) (e : execPortLinkChange a0 a1 a2 = .next t) : Keeps s₀ t := by
  delta execPortLinkChange at e
  refine keep_run e ?_
  clear e
  repeat' first
    | with_reducible assumption | intro _
    | (with_reducible first | apply keep_modPort)

theorem keep_ptpActivate {a0} (h : Keeps s₀ a0) : Keeps s₀ (ptpActivate a0) := by
  delta ptpActivate
  repeat' first
    | with_reducible assumption | intro _
    | (with_reducible first | apply keep_modSpg | apply keep_ite)
    | extract_lets | split
    | refine keep_eq2 (by with_reducible assumption) ?_ | refine keep_eq1 (by with_reducible assumption) ?_

theorem keep_execPtpMappingActivate {a0} {t} (h : Keeps s₀ a0) (e : execPtpMappingActivate a0 = .next t) : Keeps s₀ t := by
  delta execPtpMappingActivate at e
  refine keep_run e ?_
  clear e
  repeat' first
    | with_reducible assumption | intro _
    | (with_reducible first | apply keep_ptpActivate)

theorem keep_execPtpCmdLoad {a0} {t} (h : Keeps s₀ a0) (e : execPtpCmdLoad a0 = .next t) : Keeps s₀ t := by
  delta execPtpCmdLoad at e
  refine keep_run e ?_
  clear e
  repeat' first
    | with_reducible assumption | intro _
    | (with_reducible first | apply keep_ptpActivate | apply keep_modSpg)

theorem keep_loadStat {a0 a1} (h : Keeps s₀ a1) : Keeps s₀ (loadStat a0 a1) := by
  delta loadStat
  repeat' first
    | with_reducible assumption | intro _
    | (with_reducible first | apply keep_wrf)

theorem keep_egrLoad {a0 a1} (h : Keeps s₀ a1) : Keeps s₀ (egrLoad a0 a1) := by
  delta egrLoad
  extract_lets x0 x1 x2
  have h2 : Keeps s₀ x2 := by
    try subst x2
    repeat' first
      | with_reducible assumption | intro _
      | (with_reducible first | apply keep_modSpg | apply keep_emit | apply keep_loadStat | apply keep_touch | apply keep_ite)
      | split
  try clear_value x2; try clear_value x1; try clear_value x0
  repeat' first
    | with_reducible assumption | intro _
    | (with_reducible first | apply keep_modSpg | apply keep_emit | apply keep_loadStat | apply keep_touch | apply keep_ite)
    | split

theorem keep_execEgrLdTemplate {a0} {t} (h : Keeps s₀ a0) (e : execEgrLdTemplate a0 = .next t) : Keeps s₀ t := by
  delta execEgrLdTemplate at e
  refine keep_run e ?_
  clear e
  repeat' first
    | with_reducible assumption | intro _
    | (with_reducible first | apply keep_egrLoad)

theorem keep_execEgrLdMap {a0} {t} (h : Keeps s₀ a0) (e : execEgrLdMap a0 = .next t) : Keeps s₀ t := by
  delta execEgrLdMap at e
  refine keep_run e ?_
  clear e
  repeat' first
    | with_reducible assumption | intro _
    | (with_reducible first | apply keep_egrLoad)

theorem keep_loadCommit {a0 a1} (h : Keeps s₀ a1) : Keeps s₀ (loadCommit a0 a1) := by
  delta loadCommit
  extract_lets x0
  have h0 : Keeps s₀ x0 := by
    try subst x0
    repeat' first
      | with_reducible assumption | intro _
      | (with_reducible first | apply keep_touch | apply keep_modSpg | apply keep_loadStat | apply keep_ite | apply keep_foldl)
      | extract_lets | split
      | refine keep_eq2 (by with_reducible assumption) ?_ | refine keep_eq1 (by with_reducible assumption) ?_
  try clear_value x0
  repeat' first
    | with_reducible assumption | intro _
    | (with_reducible first | apply keep_touch | apply keep_modSpg | apply keep_loadStat | apply keep_ite | apply keep_foldl)
    | extract_lets | split
    | refine keep_eq2 (by with_reducible assumption) ?_ | refine keep_eq1 (by with_reducible assumption) ?_

theorem keep_execEgrLoadCommit {a0 a1} {t} (h : Keeps s₀ a1) (e : execEgrLoadCommit a0 a1 = .next t) : Keeps s₀ t := by
  delta execEgrLoadCommit at e
  refine keep_run e ?_
  clear e
  repeat' first
    | with_reducible assumption | intro _
    | (with_reducible first | apply keep_loadCommit)

theorem keep_modLease {a0 a1 a2} (h : Keeps s₀ a2) : Keeps s₀ (modLease a0 a1 a2) := by
  delta modLease
  repeat' first
    | with_reducible assumption | intro _
    | (with_reducible first | apply keep_modSpg)

theorem keep_leaseGrant {a0 a1 a2} (h : Keeps s₀ a2) : Keeps s₀ (leaseGrant a0 a1 a2) := by
  delta leaseGrant
  extract_lets x0 x1
  try clear_value x1; try clear_value x0
  repeat' first
    | with_reducible assumption | intro _
    | (with_reducible first | apply keep_modLease | apply keep_setBit | apply keep_ite)
    | split

theorem keep_execLeaseGrant {a0 a1 a2} {t} (h : Keeps s₀ a2) (e : execLeaseGrant a0 a1 a2 = .next t) : Keeps s₀ t := by
  delta execLeaseGrant at e
  refine keep_run e ?_
  clear e
  repeat' first
    | with_reducible assumption | intro _
    | (with_reducible first | apply keep_leaseGrant)

theorem keep_takeSeq {a0 a1 a2} (h : Keeps s₀ a2) : Keeps s₀ (takeSeq a0 a1 a2).2 := by
  delta takeSeq
  extract_lets x0 x1 x2
  have h2 : Keeps s₀ x2 := by
    try subst x2
    repeat' first
      | with_reducible assumption | intro _
      | (with_reducible first | apply keep_logC | apply keep_bumpSat | apply keep_modLease | apply keep_when_ | apply keep_devEvent | apply keep_ite | apply keep_ite1 | apply keep_ite2 | apply keep_ite3)
      | split
  try clear_value x2; try clear_value x1; try clear_value x0
  repeat' first
    | with_reducible assumption | intro _
    | (with_reducible first | apply keep_logC | apply keep_bumpSat | apply keep_modLease | apply keep_when_ | apply keep_devEvent | apply keep_ite | apply keep_ite1 | apply keep_ite2 | apply keep_ite3)
    | split

theorem keep_settleFrame {a0 a1 a2 a3} (h : Keeps s₀ a3) : Keeps s₀ (settleFrame a0 a1 a2 a3) := by
  delta settleFrame
  extract_lets x0
  try clear_value x0
  repeat' first
    | with_reducible assumption | intro _
    | (with_reducible first | apply keep_modSide | apply keep_ite)
    | split

theorem keep_startPatch {a0 a1 a2 a3 a4 a5 a6} (h : Keeps s₀ a6) : Keeps s₀ (startPatch a0 a1 a2 a3 a4 a5 a6) := by
  delta startPatch
  extract_lets x0 x1 x2
  try clear_value x2; try clear_value x1; try clear_value x0
  repeat' first
    | with_reducible assumption | intro _
    | (with_reducible first | apply keep_settleFrame | apply keep_wakeDom | apply keep_modSpg | apply keep_ite | apply keep_ite1 | apply keep_ite2 | apply keep_ite3)
    | split

theorem keep_nextId {a0 a1} (h : Keeps s₀ a1) : Keeps s₀ (nextId a0 a1).2 := by
  delta nextId
  extract_lets x0 x1
  try clear_value x1; try clear_value x0
  repeat' first
    | with_reducible assumption | intro _
    | (with_reducible first | apply keep_modSpg | apply keep_ite | apply keep_ite1 | apply keep_ite2 | apply keep_ite3)
    | split

theorem keep_enqueueFrame {a0 a1 a2} (h : Keeps s₀ a2) : Keeps s₀ (enqueueFrame a0 a1 a2) := by
  delta enqueueFrame
  extract_lets x0 x1
  try clear_value x1; try clear_value x0
  repeat' first
    | with_reducible assumption | intro _
    | (with_reducible first | apply keep_settleFrame | apply keep_logC | apply keep_portCount | apply keep_modPort | apply keep_ite)
    | split

theorem keep_finishFrame {a0 a1} (h : Keeps s₀ a1) : Keeps s₀ (finishFrame a0 a1) := by
  delta finishFrame
  extract_lets x0 x1 x2 x3 x4
  have h1 : Keeps s₀ x1.2 := by
    try subst x1
    repeat' first
      | with_reducible assumption | intro _
      | (with_reducible first | apply keep_nextId | apply keep_takeSeq | apply keep_settleFrame | apply keep_fresh | apply keep_enqueueFrame | apply keep_ite | apply keep_ite1 | apply keep_ite2 | apply keep_ite3)
      | extract_lets | split
      | refine keep_eq2 (by with_reducible assumption) ?_ | refine keep_eq1 (by with_reducible assumption) ?_
  have h3 : Keeps s₀ x3.2 := by
    try subst x3
    repeat' first
      | with_reducible assumption | intro _
      | (with_reducible first | apply keep_nextId | apply keep_takeSeq | apply keep_settleFrame | apply keep_fresh | apply keep_enqueueFrame | apply keep_ite | apply keep_ite1 | apply keep_ite2 | apply keep_ite3)
      | extract_lets | split
      | refine keep_eq2 (by with_reducible assumption) ?_ | refine keep_eq1 (by with_reducible assumption) ?_
  have h4 : Keeps s₀ x4.2 := by
    try subst x4
    repeat' first
      | with_reducible assumption | intro _
      | (with_reducible first | apply keep_nextId | apply keep_takeSeq | apply keep_settleFrame | apply keep_fresh | apply keep_enqueueFrame | apply keep_ite | apply keep_ite1 | apply keep_ite2 | apply keep_ite3)
      | extract_lets | split
      | refine keep_eq2 (by with_reducible assumption) ?_ | refine keep_eq1 (by with_reducible assumption) ?_
  try clear_value x4; try clear_value x3; try clear_value x2; try clear_value x1; try clear_value x0
  repeat' first
    | with_reducible assumption | intro _
    | (with_reducible first | apply keep_nextId | apply keep_takeSeq | apply keep_settleFrame | apply keep_fresh | apply keep_enqueueFrame | apply keep_ite | apply keep_ite1 | apply keep_ite2 | apply keep_ite3)
    | extract_lets | split
    | refine keep_eq2 (by with_reducible assumption) ?_ | refine keep_eq1 (by with_reducible assumption) ?_

theorem keep_egressPatch {a0} (h : Keeps s₀ a0) : Keeps s₀ (egressPatch a0) := by
  delta egressPatch
  repeat' first
    | with_reducible assumption | intro _
    | (with_reducible first | apply keep_touch | apply keep_modSpg | apply keep_settleFrame | apply keep_bumpSat | apply keep_finishFrame | apply keep_ite | apply keep_ite1 | apply keep_ite2 | apply keep_ite3)
    | extract_lets | split
    | refine keep_eq2 (by with_reducible assumption) ?_ | refine keep_eq1 (by with_reducible assumption) ?_

theorem keep_execEgressPatch {a0} {t} (h : Keeps s₀ a0) (e : execEgressPatch a0 = .next t) : Keeps s₀ t := by
  delta execEgressPatch at e
  refine keep_run e ?_
  clear e
  repeat' first
    | with_reducible assumption | intro _
    | (with_reducible first | apply keep_egressPatch)

theorem keep_markPromo {a0 a1 a2 a3} (h : Keeps s₀ a3) : Keeps s₀ (markPromo a0 a1 a2 a3) := by
  delta markPromo
  repeat' first
    | with_reducible assumption | intro _
    | (with_reducible first | apply keep_modSide | apply keep_ite)
    | split

theorem keep_lateDrop {a0 a1 a2 a3} (h : Keeps s₀ a3) : Keeps s₀ (lateDrop a0 a1 a2 a3) := by
  delta lateDrop
  extract_lets x0
  try clear_value x0
  repeat' first
    | with_reducible assumption | intro _
    | (with_reducible first | apply keep_markPromo | apply keep_toDraining | apply keep_maskReq | apply keep_modSide | apply keep_ite)
    | split

theorem keep_sendFrame {a0 a1 a2 a3} (h : Keeps s₀ a3) : Keeps s₀ (sendFrame a0 a1 a2 a3) := by
  delta sendFrame
  repeat' first
    | with_reducible assumption | intro _
    | (with_reducible first | apply keep_portCount | apply keep_emit | apply keep_modPort | apply keep_ite)
    | split

theorem keep_transmitStart {a0 a1} (h : Keeps s₀ a1) : Keeps s₀ (transmitStart a0 a1) := by
  delta transmitStart
  extract_lets x0
  try clear_value x0
  repeat' first
    | with_reducible assumption | intro _
    | (with_reducible first | apply keep_touch | apply keep_modPort | apply keep_settleFrame | apply keep_logC | apply keep_portCount | apply keep_lateDrop | apply keep_sendFrame | apply keep_modSide | apply keep_markPromo | apply keep_ite)
    | extract_lets | split
    | refine keep_eq2 (by with_reducible assumption) ?_ | refine keep_eq1 (by with_reducible assumption) ?_

theorem keep_execEgressTransmitStart {a0 a1} {t} (h : Keeps s₀ a1) (e : execEgressTransmitStart a0 a1 = .next t) : Keeps s₀ t := by
  delta execEgressTransmitStart at e
  refine keep_run e ?_
  clear e
  repeat' first
    | with_reducible assumption | intro _
    | (with_reducible first | apply keep_transmitStart)

theorem keep_execRxqDb {a0 a1 a2} {t} (h : Keeps s₀ a2) (e : execRxqDb a0 a1 a2 = .next t) : Keeps s₀ t := by
  delta execRxqDb at e
  refine keep_run e ?_
  clear e
  repeat' first
    | with_reducible assumption | intro _
    | (with_reducible first | apply keep_modPort)

theorem keep_execTxqDb {a0 a1 a2} {t} (h : Keeps s₀ a2) (e : execTxqDb a0 a1 a2 = .next t) : Keeps s₀ t := by
  delta execTxqDb at e
  refine keep_run e ?_
  clear e
  repeat' first
    | with_reducible assumption | intro _
    | (with_reducible first | apply keep_modPort)

theorem keep_hostTransmit {a0 a1 a2 a3} (h : Keeps s₀ a3) : Keeps s₀ (hostTransmit a0 a1 a2 a3) := by
  delta hostTransmit
  extract_lets x0 x1 x2 x3 x4 x5 x6 x7 x8 x9
  have h6 : Keeps s₀ x6 := by
    try subst x6
    repeat' first
      | with_reducible assumption | intro _
      | (with_reducible first | apply keep_touch | apply keep_modPort | apply keep_fresh | apply keep_sendFrame | apply keep_devEvent | apply keep_emit | apply keep_ite | apply keep_ite1 | apply keep_ite2 | apply keep_ite3)
      | split
  have h7 : Keeps s₀ x7.2 := by
    try subst x7
    repeat' first
      | with_reducible assumption | intro _
      | (with_reducible first | apply keep_touch | apply keep_modPort | apply keep_fresh | apply keep_sendFrame | apply keep_devEvent | apply keep_emit | apply keep_ite | apply keep_ite1 | apply keep_ite2 | apply keep_ite3)
      | split
  have h8 : Keeps s₀ x8 := by
    try subst x8
    repeat' first
      | with_reducible assumption | intro _
      | (with_reducible first | apply keep_touch | apply keep_modPort | apply keep_fresh | apply keep_sendFrame | apply keep_devEvent | apply keep_emit | apply keep_ite | apply keep_ite1 | apply keep_ite2 | apply keep_ite3)
      | split
  try clear_value x9; try clear_value x8; try clear_value x7; try clear_value x6; try clear_value x5; try clear_value x4; try clear_value x3; try clear_value x2; try clear_value x1; try clear_value x0
  repeat' first
    | with_reducible assumption | intro _
    | (with_reducible first | apply keep_touch | apply keep_modPort | apply keep_fresh | apply keep_sendFrame | apply keep_devEvent | apply keep_emit | apply keep_ite | apply keep_ite1 | apply keep_ite2 | apply keep_ite3)
    | split

theorem keep_execHostFrameTransmit {a0 a1 a2 a3} {t} (h : Keeps s₀ a3) (e : execHostFrameTransmit a0 a1 a2 a3 = .next t) : Keeps s₀ t := by
  delta execHostFrameTransmit at e
  refine keep_run e ?_
  clear e
  repeat' first
    | with_reducible assumption | intro _
    | (with_reducible first | apply keep_hostTransmit)

theorem keep_hostReceive {a0 a1 a2 a3 a4 a5} (h : Keeps s₀ a5) : Keeps s₀ (hostReceive a0 a1 a2 a3 a4 a5) := by
  delta hostReceive
  extract_lets x0 x1 x2 x3 x4
  have h4 : Keeps s₀ x4 := by
    try subst x4
    repeat' first
      | with_reducible assumption | intro _
      | (with_reducible first | apply keep_portCount | apply keep_modPort | apply keep_devEvent | apply keep_emit | apply keep_ite)
      | split
  try clear_value x4; try clear_value x3; try clear_value x2; try clear_value x1; try clear_value x0
  repeat' first
    | with_reducible assumption | intro _
    | (with_reducible first | apply keep_portCount | apply keep_modPort | apply keep_devEvent | apply keep_emit | apply keep_ite)
    | split

/-! ### Spring -/

theorem keep_execFrameSfdReceive {a0 a1 a2 a3} {t} (h : Keeps s₀ a3) (e : execFrameSfdReceive a0 a1 a2 a3 = .next t) : Keeps s₀ t := by
  delta execFrameSfdReceive at e
  refine keep_run e ?_
  clear e
  repeat' first
    | with_reducible assumption | intro _
    | (with_reducible first | apply keep_modPort)

theorem keep_modFrame {a0 a1 a2 a3} (h : Keeps s₀ a3) : Keeps s₀ (modFrame a0 a1 a2 a3) := by
  delta modFrame
  repeat' first
    | with_reducible assumption | intro _
    | (with_reducible first | apply keep_modPort | apply keep_ite)
    | split

theorem keep_dropFrame {a0 a1 a2} (h : Keeps s₀ a2) : Keeps s₀ (dropFrame a0 a1 a2) := by
  delta dropFrame
  repeat' first
    | with_reducible assumption | intro _
    | (with_reducible first | apply keep_modPort)

theorem keep_falseWake {a0 a1} (h : Keeps s₀ a1) : Keeps s₀ (falseWake a0 a1) := by
  delta falseWake
  repeat' first
    | with_reducible assumption | intro _
    | (with_reducible first | apply keep_when_ | apply keep_bumpSat)

theorem keep_earlyWake {a0 a1} (h : Keeps s₀ a1) : Keeps s₀ (earlyWake a0 a1) := by
  delta earlyWake
  extract_lets x0 x1
  have h1 : Keeps s₀ x1 := by
    try subst x1
    repeat' first
      | with_reducible assumption | intro _
      | (with_reducible first | apply keep_wakeAll | apply keep_forEach | apply keep_sendNotice)
      | extract_lets | split
      | refine keep_eq2 (by with_reducible assumption) ?_ | refine keep_eq1 (by with_reducible assumption) ?_
  try clear_value x1; try clear_value x0
  repeat' first
    | with_reducible assumption | intro _
    | (with_reducible first | apply keep_wakeAll | apply keep_forEach | apply keep_sendNotice)
    | extract_lets | split
    | refine keep_eq2 (by with_reducible assumption) ?_ | refine keep_eq1 (by with_reducible assumption) ?_

theorem keep_springMatch {a0 a1} (h : Keeps s₀ a1) : Keeps s₀ (springMatch a0 a1) := by
  delta springMatch
  repeat' first
    | with_reducible assumption | intro _
    | (with_reducible first | apply keep_modFrame | apply keep_forEach | apply keep_earlyWake)
    | extract_lets | split
    | refine keep_eq2 (by with_reducible assumption) ?_ | refine keep_eq1 (by with_reducible assumption) ?_

theorem keep_execSpringMatch {a0 a1} {t} (h : Keeps s₀ a1) (e : execSpringMatch a0 a1 = .next t) : Keeps s₀ t := by
  delta execSpringMatch at e
  refine keep_run e ?_
  clear e
  repeat' first
    | with_reducible assumption | intro _
    | (with_reducible first | apply keep_springMatch)

theorem keep_withdraw {a0 a1 a2} (h : Keeps s₀ a2) : Keeps s₀ (withdraw a0 a1 a2) := by
  delta withdraw
  repeat' first
    | with_reducible assumption | intro _
    | (with_reducible first | apply keep_freeChan | apply keep_giveBack | apply keep_modSpg)
    | extract_lets | split
    | refine keep_eq2 (by with_reducible assumption) ?_ | refine keep_eq1 (by with_reducible assumption) ?_

theorem keep_endProgram {a0 a1 a2 a3} (h : Keeps s₀ a3) : Keeps s₀ (endProgram a0 a1 a2 a3) := by
  delta endProgram
  extract_lets x0 x1
  have h0 : Keeps s₀ x0 := by
    try subst x0
    repeat' first
      | with_reducible assumption | intro _
      | (with_reducible first | apply keep_modFrame | apply keep_withdraw | apply keep_falseWake | apply keep_dropFrame | apply keep_ite)
      | split
  have h1 : Keeps s₀ x1 := by
    try subst x1
    repeat' first
      | with_reducible assumption | intro _
      | (with_reducible first | apply keep_modFrame | apply keep_withdraw | apply keep_falseWake | apply keep_dropFrame | apply keep_ite)
      | split
  try clear_value x1; try clear_value x0
  repeat' first
    | with_reducible assumption | intro _
    | (with_reducible first | apply keep_modFrame | apply keep_withdraw | apply keep_falseWake | apply keep_dropFrame | apply keep_ite)
    | split

theorem keep_emitTok {a0 a1 a2 a3} (h : Keeps s₀ a3) : Keeps s₀ (emitTok a0 a1 a2 a3) := by
  delta emitTok
  extract_lets x0
  have h0 : Keeps s₀ x0 := by
    try subst x0
    repeat' first
      | with_reducible assumption | intro _
      | (with_reducible first | apply keep_modFrame | apply keep_setBit | apply keep_ite)
      | split
  try clear_value x0
  repeat' first
    | with_reducible assumption | intro _
    | (with_reducible first | apply keep_modFrame | apply keep_setBit | apply keep_ite)
    | split

theorem keep_oneOp {a0 a1 a2 a3 a4 a5 a6} (h : Keeps s₀ a6) : Keeps s₀ (oneOp a0 a1 a2 a3 a4 a5 a6) := by
  delta oneOp
  extract_lets x0 x1
  try clear_value x1
  repeat' first
    | with_reducible assumption | intro _
    | (with_reducible first | apply keep_modFrame | apply keep_endProgram | apply keep_emitTok | apply keep_setBit | apply keep_ite | apply keep_ite1 | apply keep_ite2 | apply keep_ite3)
    | extract_lets | split
    | refine keep_eq2 (by with_reducible assumption) ?_ | refine keep_eq1 (by with_reducible assumption) ?_

theorem keep_springOperation {a0 a1} (h : Keeps s₀ a1) : Keeps s₀ (springOperation a0 a1) := by
  delta springOperation
  repeat' first
    | with_reducible assumption | intro _
    | (with_reducible first | apply keep_endProgram | apply keep_setBit | apply keep_modFrame | apply keep_oneOp | apply keep_ite)
    | extract_lets | split
    | refine keep_eq2 (by with_reducible assumption) ?_ | refine keep_eq1 (by with_reducible assumption) ?_

theorem keep_execSpringOperation {a0 a1} {t} (h : Keeps s₀ a1) (e : execSpringOperation a0 a1 = .next t) : Keeps s₀ t := by
  delta execSpringOperation at e
  refine keep_run e ?_
  clear e
  repeat' first
    | with_reducible assumption | intro _
    | (with_reducible first | apply keep_springOperation)

theorem keep_ldComplete {a0 a1} (h : Keeps s₀ a1) : Keeps s₀ (ldComplete a0 a1) := by
  delta ldComplete
  extract_lets x0
  have h0 : Keeps s₀ x0.2 := by
    try subst x0
    repeat' first
      | with_reducible assumption | intro _
      | (with_reducible first | apply keep_fresh | apply keep_modFrame | apply keep_ite | apply keep_ite1 | apply keep_ite2 | apply keep_ite3)
      | extract_lets | split
      | refine keep_eq2 (by with_reducible assumption) ?_ | refine keep_eq1 (by with_reducible assumption) ?_
  try clear_value x0
  repeat' first
    | with_reducible assumption | intro _
    | (with_reducible first | apply keep_fresh | apply keep_modFrame | apply keep_ite | apply keep_ite1 | apply keep_ite2 | apply keep_ite3)
    | extract_lets | split
    | refine keep_eq2 (by with_reducible assumption) ?_ | refine keep_eq1 (by with_reducible assumption) ?_

theorem keep_execSpringLdComplete {a0 a1} {t} (h : Keeps s₀ a1) (e : execSpringLdComplete a0 a1 = .next t) : Keeps s₀ t := by
  delta execSpringLdComplete at e
  refine keep_run e ?_
  clear e
  repeat' first
    | with_reducible assumption | intro _
    | (with_reducible first | apply keep_ldComplete)

theorem keep_triggerDecision {a0 a1} (h : Keeps s₀ a1) : Keeps s₀ (triggerDecision a0 a1) := by
  delta triggerDecision
  repeat' first
    | with_reducible assumption | intro _
    | (with_reducible first | apply keep_modTill | apply keep_bumpSat | apply keep_tillRefuse | apply keep_dropFrame | apply keep_modFrame | apply keep_reserve | apply keep_modSpg | apply keep_ite | apply keep_ite1 | apply keep_ite2 | apply keep_ite3)
    | extract_lets | split
    | refine keep_eq2 (by with_reducible assumption) ?_ | refine keep_eq1 (by with_reducible assumption) ?_

theorem keep_execTriggerDecision {a0 a1} {t} (h : Keeps s₀ a1) (e : execTriggerDecision a0 a1 = .next t) : Keeps s₀ t := by
  delta execTriggerDecision at e
  refine keep_run e ?_
  clear e
  repeat' first
    | with_reducible assumption | intro _
    | (with_reducible first | apply keep_triggerDecision)

theorem keep_fcsVerdict {a0 a1 a2} (h : Keeps s₀ a2) : Keeps s₀ (fcsVerdict a0 a1 a2) := by
  delta fcsVerdict
  extract_lets x0
  have h0 : Keeps s₀ x0 := by
    try subst x0
    repeat' first
      | with_reducible assumption | intro _
      | (with_reducible first | apply keep_dropFrame | apply keep_withdraw | apply keep_falseWake | apply keep_portCount | apply keep_when_ | apply keep_hostReceive | apply keep_modFrame | apply keep_ite)
      | extract_lets | split
      | refine keep_eq2 (by with_reducible assumption) ?_ | refine keep_eq1 (by with_reducible assumption) ?_
  try clear_value x0
  repeat' first
    | with_reducible assumption | intro _
    | (with_reducible first | apply keep_dropFrame | apply keep_withdraw | apply keep_falseWake | apply keep_portCount | apply keep_when_ | apply keep_hostReceive | apply keep_modFrame | apply keep_ite)
    | extract_lets | split
    | refine keep_eq2 (by with_reducible assumption) ?_ | refine keep_eq1 (by with_reducible assumption) ?_

theorem keep_execFcsVerdict {a0 a1 a2} {t} (h : Keeps s₀ a2) (e : execFcsVerdict a0 a1 a2 = .next t) : Keeps s₀ t := by
  delta execFcsVerdict at e
  refine keep_run e ?_
  clear e
  repeat' first
    | with_reducible assumption | intro _
    | (with_reducible first | apply keep_fcsVerdict)

theorem keep_triggerDeliver {a0 a1} (h : Keeps s₀ a1) : Keeps s₀ (triggerDeliver a0 a1) := by
  delta triggerDeliver
  repeat' first
    | with_reducible assumption | intro _
    | (with_reducible first | apply keep_modSpg | apply keep_dropFrame | apply keep_bumpSat | apply keep_ite)
    | extract_lets | split
    | refine keep_eq2 (by with_reducible assumption) ?_ | refine keep_eq1 (by with_reducible assumption) ?_

theorem keep_execTriggerDeliver {a0 a1} {t} (h : Keeps s₀ a1) (e : execTriggerDeliver a0 a1 = .next t) : Keeps s₀ t := by
  delta execTriggerDeliver at e
  refine keep_run e ?_
  clear e
  repeat' first
    | with_reducible assumption | intro _
    | (with_reducible first | apply keep_triggerDeliver)

theorem keep_trigGone {a0 a1} (h : Keeps s₀ a1) : Keeps s₀ (trigGone a0 a1) := by
  delta trigGone
  extract_lets x0 x1 x2 x3
  try clear_value x3; try clear_value x2; try clear_value x1; try clear_value x0
  repeat' first
    | with_reducible assumption | intro _
    | (with_reducible first | apply keep_enqueue)
    | with_reducible refine keep_set ?_ ?_ ?_ ?_ ?_ ?_
    | rfl
    | (with_reducible first | apply memory_put | apply memory_putBytes | apply memory_filter | apply memory_delRange | apply memory_copyRange | apply memory_foldl | apply memory_setRange | apply memory_rowApply | apply memory_unitApply)
    | assumption

theorem keep_trigAppend {a0 a1 a2} (h : Keeps s₀ a2) : Keeps s₀ (trigAppend a0 a1 a2) := by
  delta trigAppend
  extract_lets x0 x1 x2
  try clear_value x2; try clear_value x1; try clear_value x0
  repeat' first
    | with_reducible assumption | intro _
    | (with_reducible first | apply keep_logEv | apply keep_endWith | apply keep_fixEffect | apply keep_modSide | apply keep_takePend | apply keep_ite)
    | split

theorem keep_enterTrigger {a0 a1} (h : Keeps s₀ a1) : Keeps s₀ (enterTrigger a0 a1) := by
  delta enterTrigger
  extract_lets x0 x1 x2 x3
  have h3 : Keeps s₀ x3.2 := by
    try subst x3
    repeat' first
      | with_reducible assumption | intro _
      | (with_reducible first | apply keep_freeChan | apply keep_post | apply keep_trigAppend | apply keep_trigGone | apply keep_openSubmit | apply keep_enqueue | apply keep_modSide | apply keep_ite | apply keep_ite1 | apply keep_ite2 | apply keep_ite3)
      | extract_lets | split
      | refine keep_eq2 (by with_reducible assumption) ?_ | refine keep_eq1 (by with_reducible assumption) ?_
  try clear_value x3; try clear_value x2; try clear_value x1; try clear_value x0
  repeat' first
    | with_reducible assumption | intro _
    | (with_reducible first | apply keep_freeChan | apply keep_post | apply keep_trigAppend | apply keep_trigGone | apply keep_openSubmit | apply keep_enqueue | apply keep_modSide | apply keep_ite | apply keep_ite1 | apply keep_ite2 | apply keep_ite3)
    | extract_lets | split
    | refine keep_eq2 (by with_reducible assumption) ?_ | refine keep_eq1 (by with_reducible assumption) ?_

theorem keep_enterAdmission {a0} (h : Keeps s₀ a0) : Keeps s₀ (enterAdmission a0) := by
  delta enterAdmission
  repeat' first
    | with_reducible assumption | intro _
    | (with_reducible first | apply keep_enterTrigger | apply keep_modSpg | apply keep_ite)
    | extract_lets | split
    | refine keep_eq2 (by with_reducible assumption) ?_ | refine keep_eq1 (by with_reducible assumption) ?_

theorem keep_execTriggerEnterAdmission {a0} {t} (h : Keeps s₀ a0) (e : execTriggerEnterAdmission a0 = .next t) : Keeps s₀ t := by
  delta execTriggerEnterAdmission at e
  refine keep_run e ?_
  clear e
  repeat' first
    | with_reducible assumption | intro _
    | (with_reducible first | apply keep_enterAdmission)

theorem keep_bindStat {a0 a1} (h : Keeps s₀ a1) : Keeps s₀ (bindStat a0 a1) := by
  delta bindStat
  repeat' first
    | with_reducible assumption | intro _
    | (with_reducible first | apply keep_wrf)

theorem keep_spgBind {a0} (h : Keeps s₀ a0) : Keeps s₀ (spgBind a0) := by
  delta spgBind
  extract_lets x0 x1 x2 x3
  try clear_value x3; try clear_value x2; try clear_value x1; try clear_value x0
  repeat' first
    | with_reducible assumption | intro _
    | (with_reducible first | apply keep_bindStat | apply keep_modSpg | apply keep_ite | apply keep_ite1 | apply keep_ite2 | apply keep_ite3)
    | split

theorem keep_execSpgBind {a0} {t} (h : Keeps s₀ a0) (e : execSpgBind a0 = .next t) : Keeps s₀ t := by
  delta execSpgBind at e
  refine keep_run e ?_
  clear e
  repeat' first
    | with_reducible assumption | intro _
    | (with_reducible first | apply keep_spgBind)

theorem keep_spgUnbind {a0} (h : Keeps s₀ a0) : Keeps s₀ (spgUnbind a0) := by
  delta spgUnbind
  extract_lets x0
  try clear_value x0
  repeat' first
    | with_reducible assumption | intro _
    | (with_reducible first | apply keep_bindStat | apply keep_modSpg | apply keep_ite | apply keep_ite1 | apply keep_ite2 | apply keep_ite3)
    | split

theorem keep_execSpgUnbind {a0} {t} (h : Keeps s₀ a0) (e : execSpgUnbind a0 = .next t) : Keeps s₀ t := by
  delta execSpgUnbind at e
  refine keep_run e ?_
  clear e
  repeat' first
    | with_reducible assumption | intro _
    | (with_reducible first | apply keep_spgUnbind)

theorem keep_ruleEnWrite {a0 a1 a2} (h : Keeps s₀ a2) : Keeps s₀ (ruleEnWrite a0 a1 a2) := by
  delta ruleEnWrite
  repeat' first
    | with_reducible assumption | intro _
    | (with_reducible first | apply keep_modSpg | apply keep_ite | apply keep_ite1 | apply keep_ite2 | apply keep_ite3)
    | split

theorem keep_execSpgRuleEnWrite {a0 a1 a2} {t} (h : Keeps s₀ a2) (e : execSpgRuleEnWrite a0 a1 a2 = .next t) : Keeps s₀ t := by
  delta execSpgRuleEnWrite at e
  refine keep_run e ?_
  clear e
  repeat' first
    | with_reducible assumption | intro _
    | (with_reducible first | apply keep_ruleEnWrite)

/-! ### Compose -/

theorem keep_moveRung {a0 a1 a2 a3} (h : Keeps s₀ a3) : Keeps s₀ (moveRung a0 a1 a2 a3) := by
  delta moveRung
  extract_lets x0 x1 x2 x3 x4
  have h1 : Keeps s₀ x1 := by
    try subst x1
    repeat' first
      | with_reducible assumption | intro _
      | (with_reducible first | apply keep_wr | apply keep_modTill | apply keep_modSide | apply keep_modEnt | apply keep_ite)
      | split
  have h2 : Keeps s₀ x2 := by
    try subst x2
    repeat' first
      | with_reducible assumption | intro _
      | (with_reducible first | apply keep_wr | apply keep_modTill | apply keep_modSide | apply keep_modEnt | apply keep_ite)
      | split
  have h3 : Keeps s₀ x3 := by
    try subst x3
    repeat' first
      | with_reducible assumption | intro _
      | (with_reducible first | apply keep_wr | apply keep_modTill | apply keep_modSide | apply keep_modEnt | apply keep_ite)
      | split
  try clear_value x4; try clear_value x3; try clear_value x2; try clear_value x1; try clear_value x0
  repeat' first
    | with_reducible assumption | intro _
    | (with_reducible first | apply keep_wr | apply keep_modTill | apply keep_modSide | apply keep_modEnt | apply keep_ite)
    | split

theorem keep_dropLate {a0 a1} (h : Keeps s₀ a1) : Keeps s₀ (dropLate a0 a1) := by
  delta dropLate
  repeat' first
    | with_reducible assumption | intro _
    | (with_reducible first | apply keep_toDraining | apply keep_bumpSat)

theorem keep_finishLate {a0 a1} (h : Keeps s₀ a1) : Keeps s₀ (finishLate a0 a1) := by
  delta finishLate
  extract_lets x0
  try clear_value x0
  repeat' first
    | with_reducible assumption | intro _
    | (with_reducible first | apply keep_modEnt | apply keep_modSide | apply keep_bumpSat | apply keep_ite)
    | split

theorem keep_monitorR2 {a0 a1 a2 a3} (h : Keeps s₀ a3) : Keeps s₀ (monitorR2 a0 a1 a2 a3).2 := by
  delta monitorR2
  extract_lets x0
  try clear_value x0
  repeat' first
    | with_reducible assumption | intro _
    | (with_reducible first | apply keep_bumpSat | apply keep_finishPend | apply keep_ite | apply keep_ite1 | apply keep_ite2 | apply keep_ite3)
    | extract_lets | split
    | refine keep_eq2 (by with_reducible assumption) ?_ | refine keep_eq1 (by with_reducible assumption) ?_

theorem keep_monitorRow {a0 a1 a2 a3} (h : Keeps s₀ a3) : Keeps s₀ (monitorRow a0 a1 a2 a3).2 := by
  delta monitorRow
  extract_lets x0 x1 x2
  have h2 : Keeps s₀ x2 := by
    try subst x2
    repeat' first
      | with_reducible assumption | intro _
      | (with_reducible first | apply keep_monitorR2 | apply keep_moveRung | apply keep_when_ | apply keep_bumpSat | apply keep_finishLate | apply keep_dropLate | apply keep_ite | apply keep_ite1 | apply keep_ite2 | apply keep_ite3)
      | extract_lets | split
      | refine keep_eq2 (by with_reducible assumption) ?_ | refine keep_eq1 (by with_reducible assumption) ?_
  try clear_value x2; try clear_value x1; try clear_value x0
  repeat' first
    | with_reducible assumption | intro _
    | (with_reducible first | apply keep_monitorR2 | apply keep_moveRung | apply keep_when_ | apply keep_bumpSat | apply keep_finishLate | apply keep_dropLate | apply keep_ite | apply keep_ite1 | apply keep_ite2 | apply keep_ite3)
    | extract_lets | split
    | refine keep_eq2 (by with_reducible assumption) ?_ | refine keep_eq1 (by with_reducible assumption) ?_

theorem keep_monitorAll {b c l a} (h : Keeps s₀ a) : Keeps s₀ (monitorAll b c l a).2 := by
  induction l generalizing a with
  | nil => exact h
  | cons x t ih =>
    unfold monitorAll
    repeat' first
      | with_reducible assumption
      | intro _
      | (with_reducible first | apply ih | apply keep_monitorRow)
      | (with_reducible first | apply keep_ite | apply keep_ite2)
      | extract_lets | split
      | refine keep_eq2 (by with_reducible assumption) ?_

theorem keep_pickRow {a0 a1 a2 a3} (h : Keeps s₀ a3) : Keeps s₀ (pickRow a0 a1 a2 a3).2 := by
  delta pickRow
  extract_lets x0
  try clear_value x0
  repeat' first
    | with_reducible assumption | intro _
    | (with_reducible first | apply keep_bumpSat)
    | extract_lets | split
    | refine keep_eq2 (by with_reducible assumption) ?_ | refine keep_eq1 (by with_reducible assumption) ?_

theorem keep_pickPass {b c d e l g a} (h : Keeps s₀ a) : Keeps s₀ (pickPass b c d e l g a).2 := by
  induction l generalizing g a with
  | nil => exact h
  | cons x t ih =>
    unfold pickPass
    repeat' first
      | with_reducible assumption
      | intro _
      | (with_reducible first | apply ih | apply keep_pickRow)
      | (with_reducible first | apply keep_ite | apply keep_ite2)
      | extract_lets | split
      | refine keep_eq2 (by with_reducible assumption) ?_

theorem keep_pickGroups {b c d l g a} (h : Keeps s₀ a) : Keeps s₀ (pickGroups b c d l g a).2 := by
  induction l generalizing g a with
  | nil => exact h
  | cons x t ih => exact ih (keep_pickPass (keep_pickPass h))

theorem keep_displace {a0 a1 a2} (h : Keeps s₀ a2) : Keeps s₀ (displace a0 a1 a2) := by
  delta displace
  extract_lets x0
  have h0 : Keeps s₀ x0 := by
    try subst x0
    repeat' first
      | with_reducible assumption | intro _
      | (with_reducible first | apply keep_modTill | apply keep_bumpSat | apply keep_modEnt)
  try clear_value x0
  repeat' first
    | with_reducible assumption | intro _
    | (with_reducible first | apply keep_modTill | apply keep_bumpSat | apply keep_modEnt)

theorem keep_grantRow {a0 a1 a2} (h : Keeps s₀ a2) : Keeps s₀ (grantRow a0 a1 a2) := by
  delta grantRow
  extract_lets x0 x1 x2 x3 x4 x5 x6
  have h1 : Keeps s₀ x1 := by
    try subst x1
    repeat' first
      | with_reducible assumption | intro _
      | (with_reducible first | apply keep_copyOnWrite | apply keep_allocPages | apply keep_evictFor | apply keep_setPages | apply keep_forEach | apply keep_modFree | apply keep_modSide | apply keep_ite | apply keep_ite1 | apply keep_ite2 | apply keep_ite3)
      | split
  have h4 : Keeps s₀ x4.2 := by
    try subst x4
    repeat' first
      | with_reducible assumption | intro _
      | (with_reducible first | apply keep_copyOnWrite | apply keep_allocPages | apply keep_evictFor | apply keep_setPages | apply keep_forEach | apply keep_modFree | apply keep_modSide | apply keep_ite | apply keep_ite1 | apply keep_ite2 | apply keep_ite3)
      | split
  have h5 : Keeps s₀ x5 := by
    try subst x5
    repeat' first
      | with_reducible assumption | intro _
      | (with_reducible first | apply keep_copyOnWrite | apply keep_allocPages | apply keep_evictFor | apply keep_setPages | apply keep_forEach | apply keep_modFree | apply keep_modSide | apply keep_ite | apply keep_ite1 | apply keep_ite2 | apply keep_ite3)
      | split
  try clear_value x6; try clear_value x5; try clear_value x4; try clear_value x3; try clear_value x2; try clear_value x1; try clear_value x0
  repeat' first
    | with_reducible assumption | intro _
    | (with_reducible first | apply keep_copyOnWrite | apply keep_allocPages | apply keep_evictFor | apply keep_setPages | apply keep_forEach | apply keep_modFree | apply keep_modSide | apply keep_ite | apply keep_ite1 | apply keep_ite2 | apply keep_ite3)
    | split

theorem keep_joinPend {a0 a1 a2} (h : Keeps s₀ a2) : Keeps s₀ (joinPend a0 a1 a2) := by
  delta joinPend
  extract_lets x0 x1
  have h1 : Keeps s₀ x1 := by
    try subst x1
    repeat' first
      | with_reducible assumption | intro _
      | (with_reducible first | apply keep_underLimits | apply keep_countOutcome | apply keep_post | apply keep_charge | apply keep_modSide | apply keep_ite)
      | extract_lets | split
      | refine keep_eq2 (by with_reducible assumption) ?_ | refine keep_eq1 (by with_reducible assumption) ?_
  try clear_value x1; try clear_value x0
  repeat' first
    | with_reducible assumption | intro _
    | (with_reducible first | apply keep_underLimits | apply keep_countOutcome | apply keep_post | apply keep_charge | apply keep_modSide | apply keep_ite)
    | extract_lets | split
    | refine keep_eq2 (by with_reducible assumption) ?_ | refine keep_eq1 (by with_reducible assumption) ?_

theorem keep_buildRow {a0 a1 a2 a3 a4 a5} (h : Keeps s₀ a5) : Keeps s₀ (buildRow a0 a1 a2 a3 a4 a5).2 := by
  delta buildRow
  extract_lets x0 x1 x2 x3 x4 x5 x6 x7 x8 x9 x10 x11 x12 x13 x14 x15 x16 x17 x18
  have h0 : Keeps s₀ x0 := by
    try subst x0
    repeat' first
      | with_reducible assumption | intro _
      | (with_reducible first | apply keep_joinPend | apply keep_grantRow | apply keep_modSide | apply keep_modEnt | apply keep_ite | apply keep_ite1 | apply keep_ite2 | apply keep_ite3)
      | extract_lets | split
      | refine keep_eq2 (by with_reducible assumption) ?_ | refine keep_eq1 (by with_reducible assumption) ?_
  have h17 : Keeps s₀ x17 := by
    try subst x17
    repeat' first
      | with_reducible assumption | intro _
      | (with_reducible first | apply keep_joinPend | apply keep_grantRow | apply keep_modSide | apply keep_modEnt | apply keep_ite | apply keep_ite1 | apply keep_ite2 | apply keep_ite3)
      | extract_lets | split
      | refine keep_eq2 (by with_reducible assumption) ?_ | refine keep_eq1 (by with_reducible assumption) ?_
  have h18 : Keeps s₀ x18 := by
    try subst x18
    repeat' first
      | with_reducible assumption | intro _
      | (with_reducible first | apply keep_joinPend | apply keep_grantRow | apply keep_modSide | apply keep_modEnt | apply keep_ite | apply keep_ite1 | apply keep_ite2 | apply keep_ite3)
      | extract_lets | split
      | refine keep_eq2 (by with_reducible assumption) ?_ | refine keep_eq1 (by with_reducible assumption) ?_
  try clear_value x18; try clear_value x17; try clear_value x16; try clear_value x15; try clear_value x14; try clear_value x13; try clear_value x12; try clear_value x11; try clear_value x10; try clear_value x9; try clear_value x8; try clear_value x7; try clear_value x6; try clear_value x5; try clear_value x4; try clear_value x3; try clear_value x2; try clear_value x1; try clear_value x0
  repeat' first
    | with_reducible assumption | intro _
    | (with_reducible first | apply keep_joinPend | apply keep_grantRow | apply keep_modSide | apply keep_modEnt | apply keep_ite | apply keep_ite1 | apply keep_ite2 | apply keep_ite3)
    | extract_lets | split
    | refine keep_eq2 (by with_reducible assumption) ?_ | refine keep_eq1 (by with_reducible assumption) ?_

theorem keep_buildRows {b c l a} (h : Keeps s₀ a) : Keeps s₀ (buildRows b c l a).2 := by
  induction l generalizing a with
  | nil => exact h
  | cons x t ih =>
    unfold buildRows
    repeat' first
      | with_reducible assumption
      | intro _
      | (with_reducible first | apply ih | apply keep_buildRow)
      | (with_reducible first | apply keep_ite | apply keep_ite2)
      | extract_lets | split
      | refine keep_eq2 (by with_reducible assumption) ?_

theorem keep_endPoisoned {a0 a1} (h : Keeps s₀ a1) : Keeps s₀ (endPoisoned a0 a1) := by
  delta endPoisoned
  repeat' first
    | with_reducible assumption | intro _
    | (with_reducible first | apply keep_forEach | apply keep_logEv | apply keep_toClosing)

theorem keep_composeFor {a0 a1 a2 a3 a4 a5} (h : Keeps s₀ a5) : Keeps s₀ (composeFor a0 a1 a2 a3 a4 a5) := by
  delta composeFor
  extract_lets x0 x1 x2 x3 x4 x5 x6 x7 x8 x9 x10 x11 x12 x13 x14 x15 x16 x17 x18
  have h1 : Keeps s₀ x1.2 := by
    try subst x1
    repeat' first
      | with_reducible assumption | intro _
      | (with_reducible first | apply keep_monitorAll | apply keep_pickGroups | apply keep_forEach | apply keep_displace | apply keep_buildRows | apply keep_modAisle | apply keep_ite | apply keep_ite1 | apply keep_ite2 | apply keep_ite3 | apply keep_foldl | apply keep_foldl1 | apply keep_foldl2 | apply keep_foldl3)
      | extract_lets | split
      | refine keep_eq2 (by with_reducible assumption) ?_ | refine keep_eq1 (by with_reducible assumption) ?_
      | with_reducible refine keep_set ?_ ?_ ?_ ?_ ?_ ?_
      | rfl
      | (with_reducible first | apply memory_put | apply memory_putBytes | apply memory_filter | apply memory_delRange | apply memory_copyRange | apply memory_foldl | apply memory_setRange | apply memory_rowApply | apply memory_unitApply)
      | assumption
  have h2 : Keeps s₀ x2 := by
    try subst x2
    repeat' first
      | with_reducible assumption | intro _
      | (with_reducible first | apply keep_monitorAll | apply keep_pickGroups | apply keep_forEach | apply keep_displace | apply keep_buildRows | apply keep_modAisle | apply keep_ite | apply keep_ite1 | apply keep_ite2 | apply keep_ite3 | apply keep_foldl | apply keep_foldl1 | apply keep_foldl2 | apply keep_foldl3)
      | extract_lets | split
      | refine keep_eq2 (by with_reducible assumption) ?_ | refine keep_eq1 (by with_reducible assumption) ?_
      | with_reducible refine keep_set ?_ ?_ ?_ ?_ ?_ ?_
      | rfl
      | (with_reducible first | apply memory_put | apply memory_putBytes | apply memory_filter | apply memory_delRange | apply memory_copyRange | apply memory_foldl | apply memory_setRange | apply memory_rowApply | apply memory_unitApply)
      | assumption
  have h5 : Keeps s₀ x5.2 := by
    try subst x5
    repeat' first
      | with_reducible assumption | intro _
      | (with_reducible first | apply keep_monitorAll | apply keep_pickGroups | apply keep_forEach | apply keep_displace | apply keep_buildRows | apply keep_modAisle | apply keep_ite | apply keep_ite1 | apply keep_ite2 | apply keep_ite3 | apply keep_foldl | apply keep_foldl1 | apply keep_foldl2 | apply keep_foldl3)
      | extract_lets | split
      | refine keep_eq2 (by with_reducible assumption) ?_ | refine keep_eq1 (by with_reducible assumption) ?_
      | with_reducible refine keep_set ?_ ?_ ?_ ?_ ?_ ?_
      | rfl
      | (with_reducible first | apply memory_put | apply memory_putBytes | apply memory_filter | apply memory_delRange | apply memory_copyRange | apply memory_foldl | apply memory_setRange | apply memory_rowApply | apply memory_unitApply)
      | assumption
  have h7 : Keeps s₀ x7 := by
    try subst x7
    repeat' first
      | with_reducible assumption | intro _
      | (with_reducible first | apply keep_monitorAll | apply keep_pickGroups | apply keep_forEach | apply keep_displace | apply keep_buildRows | apply keep_modAisle | apply keep_ite | apply keep_ite1 | apply keep_ite2 | apply keep_ite3 | apply keep_foldl | apply keep_foldl1 | apply keep_foldl2 | apply keep_foldl3)
      | extract_lets | split
      | refine keep_eq2 (by with_reducible assumption) ?_ | refine keep_eq1 (by with_reducible assumption) ?_
      | with_reducible refine keep_set ?_ ?_ ?_ ?_ ?_ ?_
      | rfl
      | (with_reducible first | apply memory_put | apply memory_putBytes | apply memory_filter | apply memory_delRange | apply memory_copyRange | apply memory_foldl | apply memory_setRange | apply memory_rowApply | apply memory_unitApply)
      | assumption
  have h9 : Keeps s₀ x9 := by
    try subst x9
    repeat' first
      | with_reducible assumption | intro _
      | (with_reducible first | apply keep_monitorAll | apply keep_pickGroups | apply keep_forEach | apply keep_displace | apply keep_buildRows | apply keep_modAisle | apply keep_ite | apply keep_ite1 | apply keep_ite2 | apply keep_ite3 | apply keep_foldl | apply keep_foldl1 | apply keep_foldl2 | apply keep_foldl3)
      | extract_lets | split
      | refine keep_eq2 (by with_reducible assumption) ?_ | refine keep_eq1 (by with_reducible assumption) ?_
      | with_reducible refine keep_set ?_ ?_ ?_ ?_ ?_ ?_
      | rfl
      | (with_reducible first | apply memory_put | apply memory_putBytes | apply memory_filter | apply memory_delRange | apply memory_copyRange | apply memory_foldl | apply memory_setRange | apply memory_rowApply | apply memory_unitApply)
      | assumption
  have h10 : Keeps s₀ x10 := by
    try subst x10
    repeat' first
      | with_reducible assumption | intro _
      | (with_reducible first | apply keep_monitorAll | apply keep_pickGroups | apply keep_forEach | apply keep_displace | apply keep_buildRows | apply keep_modAisle | apply keep_ite | apply keep_ite1 | apply keep_ite2 | apply keep_ite3 | apply keep_foldl | apply keep_foldl1 | apply keep_foldl2 | apply keep_foldl3)
      | extract_lets | split
      | refine keep_eq2 (by with_reducible assumption) ?_ | refine keep_eq1 (by with_reducible assumption) ?_
      | with_reducible refine keep_set ?_ ?_ ?_ ?_ ?_ ?_
      | rfl
      | (with_reducible first | apply memory_put | apply memory_putBytes | apply memory_filter | apply memory_delRange | apply memory_copyRange | apply memory_foldl | apply memory_setRange | apply memory_rowApply | apply memory_unitApply)
      | assumption
  have h13 : Keeps s₀ x13.2 := by
    try subst x13
    repeat' first
      | with_reducible assumption | intro _
      | (with_reducible first | apply keep_monitorAll | apply keep_pickGroups | apply keep_forEach | apply keep_displace | apply keep_buildRows | apply keep_modAisle | apply keep_ite | apply keep_ite1 | apply keep_ite2 | apply keep_ite3 | apply keep_foldl | apply keep_foldl1 | apply keep_foldl2 | apply keep_foldl3)
      | extract_lets | split
      | refine keep_eq2 (by with_reducible assumption) ?_ | refine keep_eq1 (by with_reducible assumption) ?_
      | with_reducible refine keep_set ?_ ?_ ?_ ?_ ?_ ?_
      | rfl
      | (with_reducible first | apply memory_put | apply memory_putBytes | apply memory_filter | apply memory_delRange | apply memory_copyRange | apply memory_foldl | apply memory_setRange | apply memory_rowApply | apply memory_unitApply)
      | assumption
  have h18 : Keeps s₀ x18 := by
    try subst x18
    repeat' first
      | with_reducible assumption | intro _
      | (with_reducible first | apply keep_monitorAll | apply keep_pickGroups | apply keep_forEach | apply keep_displace | apply keep_buildRows | apply keep_modAisle | apply keep_ite | apply keep_ite1 | apply keep_ite2 | apply keep_ite3 | apply keep_foldl | apply keep_foldl1 | apply keep_foldl2 | apply keep_foldl3)
      | extract_lets | split
      | refine keep_eq2 (by with_reducible assumption) ?_ | refine keep_eq1 (by with_reducible assumption) ?_
      | with_reducible refine keep_set ?_ ?_ ?_ ?_ ?_ ?_
      | rfl
      | (with_reducible first | apply memory_put | apply memory_putBytes | apply memory_filter | apply memory_delRange | apply memory_copyRange | apply memory_foldl | apply memory_setRange | apply memory_rowApply | apply memory_unitApply)
      | assumption
  try clear_value x18; try clear_value x17; try clear_value x16; try clear_value x15; try clear_value x14; try clear_value x13; try clear_value x12; try clear_value x11; try clear_value x10; try clear_value x9; try clear_value x8; try clear_value x7; try clear_value x6; try clear_value x5; try clear_value x4; try clear_value x3; try clear_value x2; try clear_value x1; try clear_value x0
  repeat' first
    | with_reducible assumption | intro _
    | (with_reducible first | apply keep_monitorAll | apply keep_pickGroups | apply keep_forEach | apply keep_displace | apply keep_buildRows | apply keep_modAisle | apply keep_ite | apply keep_ite1 | apply keep_ite2 | apply keep_ite3 | apply keep_foldl | apply keep_foldl1 | apply keep_foldl2 | apply keep_foldl3)
    | extract_lets | split
    | refine keep_eq2 (by with_reducible assumption) ?_ | refine keep_eq1 (by with_reducible assumption) ?_
    | with_reducible refine keep_set ?_ ?_ ?_ ?_ ?_ ?_
    | rfl
    | (with_reducible first | apply memory_put | apply memory_putBytes | apply memory_filter | apply memory_delRange | apply memory_copyRange | apply memory_foldl | apply memory_setRange | apply memory_rowApply | apply memory_unitApply)
    | assumption

theorem keep_composeStep {a0 a1} (h : Keeps s₀ a1) : Keeps s₀ (composeStep a0 a1) := by
  delta composeStep
  extract_lets x0 x1 x2 x3 x4 x5
  have h0 : Keeps s₀ x0 := by
    try subst x0
    repeat' first
      | with_reducible assumption | intro _
      | (with_reducible first | apply keep_endPoisoned | apply keep_modAisle | apply keep_composeFor | apply keep_ite)
      | extract_lets | split
      | refine keep_eq2 (by with_reducible assumption) ?_ | refine keep_eq1 (by with_reducible assumption) ?_
  try clear_value x5; try clear_value x4; try clear_value x3; try clear_value x2; try clear_value x1; try clear_value x0
  repeat' first
    | with_reducible assumption | intro _
    | (with_reducible first | apply keep_endPoisoned | apply keep_modAisle | apply keep_composeFor | apply keep_ite)
    | extract_lets | split
    | refine keep_eq2 (by with_reducible assumption) ?_ | refine keep_eq1 (by with_reducible assumption) ?_

theorem keep_execComposeStep {a0 a1} {t} (h : Keeps s₀ a1) (e : execComposeStep a0 a1 = .next t) : Keeps s₀ t := by
  delta execComposeStep at e
  refine keep_run e ?_
  clear e
  repeat' first
    | with_reducible assumption | intro _
    | (with_reducible first | apply keep_composeStep)

theorem keep_stepItems {a0 a1 a2 a3} (h : Keeps s₀ a3) : Keeps s₀ (stepItems a0 a1 a2 a3).2 := by
  delta stepItems
  extract_lets x0 x1 x2 x3 x4 x5 x6
  try clear_value x6; try clear_value x5; try clear_value x4; try clear_value x2; try clear_value x1; try clear_value x0
  repeat' first
    | with_reducible assumption | intro _
    | (with_reducible first | apply keep_fresh | apply keep_ite | apply keep_ite1 | apply keep_ite2 | apply keep_ite3 | apply keep_foldl | apply keep_foldl1 | apply keep_foldl2 | apply keep_foldl3)
    | split

theorem keep_countIssue {a0 a1} (h : Keeps s₀ a1) : Keeps s₀ (countIssue a0 a1) := by
  delta countIssue
  extract_lets x0 x1
  have h1 : Keeps s₀ x1 := by
    try subst x1
    repeat' first
      | with_reducible assumption | intro _
      | (with_reducible first | apply keep_modTill | apply keep_modSide | apply keep_ite)
      | extract_lets | split
      | refine keep_eq2 (by with_reducible assumption) ?_ | refine keep_eq1 (by with_reducible assumption) ?_
  try clear_value x1; try clear_value x0
  repeat' first
    | with_reducible assumption | intro _
    | (with_reducible first | apply keep_modTill | apply keep_modSide | apply keep_ite)
    | extract_lets | split
    | refine keep_eq2 (by with_reducible assumption) ?_ | refine keep_eq1 (by with_reducible assumption) ?_

theorem keep_issueNow {a0 a1} (h : Keeps s₀ a1) : Keeps s₀ (issueNow a0 a1) := by
  delta issueNow
  extract_lets x0 x1 x2 x3 x4 x5 x6 x7 x8 x9 x10 x11 x12 x13 x14 x15 x16 x17
  have h2 : Keeps s₀ x2 := by
    try subst x2
    repeat' first
      | with_reducible assumption | intro _
      | (with_reducible first | apply keep_modAisle | apply keep_modStep | apply keep_stepItems | apply keep_forEach | apply keep_placeItem | apply keep_wr | apply keep_countIssue | apply keep_addWrap | apply keep_touch | apply keep_modSide | apply keep_fresh | apply keep_issuePW | apply keep_feed | apply keep_foldl | apply keep_foldl1 | apply keep_foldl2 | apply keep_foldl3)
      | extract_lets | split
      | refine keep_eq2 (by with_reducible assumption) ?_ | refine keep_eq1 (by with_reducible assumption) ?_
  have h4 : Keeps s₀ x4.2 := by
    try subst x4
    repeat' first
      | with_reducible assumption | intro _
      | (with_reducible first | apply keep_modAisle | apply keep_modStep | apply keep_stepItems | apply keep_forEach | apply keep_placeItem | apply keep_wr | apply keep_countIssue | apply keep_addWrap | apply keep_touch | apply keep_modSide | apply keep_fresh | apply keep_issuePW | apply keep_feed | apply keep_foldl | apply keep_foldl1 | apply keep_foldl2 | apply keep_foldl3)
      | extract_lets | split
      | refine keep_eq2 (by with_reducible assumption) ?_ | refine keep_eq1 (by with_reducible assumption) ?_
  have h5 : Keeps s₀ x5 := by
    try subst x5
    repeat' first
      | with_reducible assumption | intro _
      | (with_reducible first | apply keep_modAisle | apply keep_modStep | apply keep_stepItems | apply keep_forEach | apply keep_placeItem | apply keep_wr | apply keep_countIssue | apply keep_addWrap | apply keep_touch | apply keep_modSide | apply keep_fresh | apply keep_issuePW | apply keep_feed | apply keep_foldl | apply keep_foldl1 | apply keep_foldl2 | apply keep_foldl3)
      | extract_lets | split
      | refine keep_eq2 (by with_reducible assumption) ?_ | refine keep_eq1 (by with_reducible assumption) ?_
  have h6 : Keeps s₀ x6 := by
    try subst x6
    repeat' first
      | with_reducible assumption | intro _
      | (with_reducible first | apply keep_modAisle | apply keep_modStep | apply keep_stepItems | apply keep_forEach | apply keep_placeItem | apply keep_wr | apply keep_countIssue | apply keep_addWrap | apply keep_touch | apply keep_modSide | apply keep_fresh | apply keep_issuePW | apply keep_feed | apply keep_foldl | apply keep_foldl1 | apply keep_foldl2 | apply keep_foldl3)
      | extract_lets | split
      | refine keep_eq2 (by with_reducible assumption) ?_ | refine keep_eq1 (by with_reducible assumption) ?_
  have h7 : Keeps s₀ x7 := by
    try subst x7
    repeat' first
      | with_reducible assumption | intro _
      | (with_reducible first | apply keep_modAisle | apply keep_modStep | apply keep_stepItems | apply keep_forEach | apply keep_placeItem | apply keep_wr | apply keep_countIssue | apply keep_addWrap | apply keep_touch | apply keep_modSide | apply keep_fresh | apply keep_issuePW | apply keep_feed | apply keep_foldl | apply keep_foldl1 | apply keep_foldl2 | apply keep_foldl3)
      | extract_lets | split
      | refine keep_eq2 (by with_reducible assumption) ?_ | refine keep_eq1 (by with_reducible assumption) ?_
  have h8 : Keeps s₀ x8 := by
    try subst x8
    repeat' first
      | with_reducible assumption | intro _
      | (with_reducible first | apply keep_modAisle | apply keep_modStep | apply keep_stepItems | apply keep_forEach | apply keep_placeItem | apply keep_wr | apply keep_countIssue | apply keep_addWrap | apply keep_touch | apply keep_modSide | apply keep_fresh | apply keep_issuePW | apply keep_feed | apply keep_foldl | apply keep_foldl1 | apply keep_foldl2 | apply keep_foldl3)
      | extract_lets | split
      | refine keep_eq2 (by with_reducible assumption) ?_ | refine keep_eq1 (by with_reducible assumption) ?_
  have h9 : Keeps s₀ x9 := by
    try subst x9
    repeat' first
      | with_reducible assumption | intro _
      | (with_reducible first | apply keep_modAisle | apply keep_modStep | apply keep_stepItems | apply keep_forEach | apply keep_placeItem | apply keep_wr | apply keep_countIssue | apply keep_addWrap | apply keep_touch | apply keep_modSide | apply keep_fresh | apply keep_issuePW | apply keep_feed | apply keep_foldl | apply keep_foldl1 | apply keep_foldl2 | apply keep_foldl3)
      | extract_lets | split
      | refine keep_eq2 (by with_reducible assumption) ?_ | refine keep_eq1 (by with_reducible assumption) ?_
  have h14 : Keeps s₀ x14 := by
    try subst x14
    repeat' first
      | with_reducible assumption | intro _
      | (with_reducible first | apply keep_modAisle | apply keep_modStep | apply keep_stepItems | apply keep_forEach | apply keep_placeItem | apply keep_wr | apply keep_countIssue | apply keep_addWrap | apply keep_touch | apply keep_modSide | apply keep_fresh | apply keep_issuePW | apply keep_feed | apply keep_foldl | apply keep_foldl1 | apply keep_foldl2 | apply keep_foldl3)
      | extract_lets | split
      | refine keep_eq2 (by with_reducible assumption) ?_ | refine keep_eq1 (by with_reducible assumption) ?_
  have h15 : Keeps s₀ x15 := by
    try subst x15
    repeat' first
      | with_reducible assumption | intro _
      | (with_reducible first | apply keep_modAisle | apply keep_modStep | apply keep_stepItems | apply keep_forEach | apply keep_placeItem | apply keep_wr | apply keep_countIssue | apply keep_addWrap | apply keep_touch | apply keep_modSide | apply keep_fresh | apply keep_issuePW | apply keep_feed | apply keep_foldl | apply keep_foldl1 | apply keep_foldl2 | apply keep_foldl3)
      | extract_lets | split
      | refine keep_eq2 (by with_reducible assumption) ?_ | refine keep_eq1 (by with_reducible assumption) ?_
  have h16 : Keeps s₀ x16.2 := by
    try subst x16
    repeat' first
      | with_reducible assumption | intro _
      | (with_reducible first | apply keep_modAisle | apply keep_modStep | apply keep_stepItems | apply keep_forEach | apply keep_placeItem | apply keep_wr | apply keep_countIssue | apply keep_addWrap | apply keep_touch | apply keep_modSide | apply keep_fresh | apply keep_issuePW | apply keep_feed | apply keep_foldl | apply keep_foldl1 | apply keep_foldl2 | apply keep_foldl3)
      | extract_lets | split
      | refine keep_eq2 (by with_reducible assumption) ?_ | refine keep_eq1 (by with_reducible assumption) ?_
  have h17 : Keeps s₀ x17 := by
    try subst x17
    clear_value x16 x15 x14 x13 x12 x11 x10
    repeat' first
      | with_reducible assumption | intro _
      | (with_reducible first | apply keep_modAisle | apply keep_modStep | apply keep_stepItems | apply keep_forEach | apply keep_placeItem | apply keep_wr | apply keep_countIssue | apply keep_addWrap | apply keep_touch | apply keep_modSide | apply keep_fresh | apply keep_issuePW | apply keep_feed | apply keep_foldl | apply keep_foldl1 | apply keep_foldl2 | apply keep_foldl3)
      | extract_lets | split
      | refine keep_eq2 (by with_reducible assumption) ?_ | refine keep_eq1 (by with_reducible assumption) ?_
  try clear_value x17; try clear_value x16; try clear_value x15; try clear_value x14; try clear_value x13; try clear_value x12; try clear_value x11; try clear_value x10; try clear_value x9; try clear_value x8; try clear_value x7; try clear_value x6; try clear_value x5; try clear_value x4; try clear_value x3; try clear_value x2; try clear_value x1; try clear_value x0
  repeat' first
    | with_reducible assumption | intro _
    | (with_reducible first | apply keep_modAisle | apply keep_modStep | apply keep_stepItems | apply keep_forEach | apply keep_placeItem | apply keep_wr | apply keep_countIssue | apply keep_addWrap | apply keep_touch | apply keep_modSide | apply keep_fresh | apply keep_issuePW | apply keep_feed | apply keep_foldl | apply keep_foldl1 | apply keep_foldl2 | apply keep_foldl3)
    | extract_lets | split
    | refine keep_eq2 (by with_reducible assumption) ?_ | refine keep_eq1 (by with_reducible assumption) ?_

theorem keep_stepIssue {a0 a1} (h : Keeps s₀ a1) : Keeps s₀ (stepIssue a0 a1) := by
  delta stepIssue
  extract_lets x0
  try clear_value x0
  repeat' first
    | with_reducible assumption | intro _
    | (with_reducible first | apply keep_wakeDom | apply keep_stepItems | apply keep_issueNow | apply keep_modStep | apply keep_ite | apply keep_ite1 | apply keep_ite2 | apply keep_ite3)
    | extract_lets | split
    | refine keep_eq2 (by with_reducible assumption) ?_ | refine keep_eq1 (by with_reducible assumption) ?_

theorem keep_execStepIssue {a0 a1} {t} (h : Keeps s₀ a1) (e : execStepIssue a0 a1 = .next t) : Keeps s₀ t := by
  delta execStepIssue at e
  refine keep_run e ?_
  clear e
  repeat' first
    | with_reducible assumption | intro _
    | (with_reducible first | apply keep_stepIssue)

/-! ### Steps -/

theorem keep_deliver {a0 a1 a2} (h : Keeps s₀ a2) : Keeps s₀ (deliver a0 a1 a2) := by
  delta deliver
  repeat' first
    | with_reducible assumption | intro _
    | (with_reducible first | apply keep_modSide | apply keep_recWrite | apply keep_ite)
    | split

theorem keep_countRejected {a0 a1 a2} (h : Keeps s₀ a2) : Keeps s₀ (countRejected a0 a1 a2) := by
  delta countRejected
  repeat' first
    | with_reducible assumption | intro _
    | (with_reducible first | apply keep_modTill)

theorem keep_arriveOpen {a0 a1 a2 a3 a4 a5} (h : Keeps s₀ a5) : Keeps s₀ (arriveOpen a0 a1 a2 a3 a4 a5).2 := by
  delta arriveOpen
  extract_lets x0 x1 x2 x3 x4 x5 x6 x7 x8 x9 x10 x11 x12 x13 x14 x15
  have h5 : Keeps s₀ x5 := by
    try subst x5
    repeat' first
      | with_reducible assumption | intro _
      | (with_reducible first | apply keep_countRejected | apply keep_modSide | apply keep_forEach | apply keep_deliver | apply keep_when_ | apply keep_startPatch | apply keep_ite | apply keep_ite1 | apply keep_ite2 | apply keep_ite3)
      | split
  have h6 : Keeps s₀ x6 := by
    try subst x6
    repeat' first
      | with_reducible assumption | intro _
      | (with_reducible first | apply keep_countRejected | apply keep_modSide | apply keep_forEach | apply keep_deliver | apply keep_when_ | apply keep_startPatch | apply keep_ite | apply keep_ite1 | apply keep_ite2 | apply keep_ite3)
      | split
  have h7 : Keeps s₀ x7 := by
    try subst x7
    repeat' first
      | with_reducible assumption | intro _
      | (with_reducible first | apply keep_countRejected | apply keep_modSide | apply keep_forEach | apply keep_deliver | apply keep_when_ | apply keep_startPatch | apply keep_ite | apply keep_ite1 | apply keep_ite2 | apply keep_ite3)
      | split
  have h10 : Keeps s₀ x10 := by
    try subst x10
    repeat' first
      | with_reducible assumption | intro _
      | (with_reducible first | apply keep_countRejected | apply keep_modSide | apply keep_forEach | apply keep_deliver | apply keep_when_ | apply keep_startPatch | apply keep_ite | apply keep_ite1 | apply keep_ite2 | apply keep_ite3)
      | split
  have h15 : Keeps s₀ x15 := by
    try subst x15
    repeat' first
      | with_reducible assumption | intro _
      | (with_reducible first | apply keep_countRejected | apply keep_modSide | apply keep_forEach | apply keep_deliver | apply keep_when_ | apply keep_startPatch | apply keep_ite | apply keep_ite1 | apply keep_ite2 | apply keep_ite3)
      | split
  try clear_value x15; try clear_value x14; try clear_value x13; try clear_value x12; try clear_value x11; try clear_value x10; try clear_value x9; try clear_value x8; try clear_value x7; try clear_value x6; try clear_value x5; try clear_value x4; try clear_value x3; try clear_value x2; try clear_value x1; try clear_value x0
  repeat' first
    | with_reducible assumption | intro _
    | (with_reducible first | apply keep_countRejected | apply keep_modSide | apply keep_forEach | apply keep_deliver | apply keep_when_ | apply keep_startPatch | apply keep_ite | apply keep_ite1 | apply keep_ite2 | apply keep_ite3)
    | split

theorem keep_arriveJoined {a0 a1 a2 a3 a4 a5} (h : Keeps s₀ a5) : Keeps s₀ (arriveJoined a0 a1 a2 a3 a4 a5).2 := by
  delta arriveJoined
  extract_lets x0 x1
  try clear_value x1; try clear_value x0
  repeat' first
    | with_reducible assumption | intro _
    | (with_reducible first | apply keep_countRejected | apply keep_ringGive | apply keep_modSide | apply keep_startPatch | apply keep_ite | apply keep_ite1 | apply keep_ite2 | apply keep_ite3 | apply keep_foldl | apply keep_foldl1 | apply keep_foldl2 | apply keep_foldl3)
    | extract_lets | split
    | refine keep_eq2 (by with_reducible assumption) ?_ | refine keep_eq1 (by with_reducible assumption) ?_

theorem keep_arriveR2 {a0 a1 a2 a3 a4 a5} (h : Keeps s₀ a5) : Keeps s₀ (arriveR2 a0 a1 a2 a3 a4 a5).2 := by
  delta arriveR2
  extract_lets x0 x1 x2
  try clear_value x2; try clear_value x1; try clear_value x0
  repeat' first
    | with_reducible assumption | intro _
    | (with_reducible first | apply keep_countRejected | apply keep_forEach | apply keep_ringGive | apply keep_when_ | apply keep_modSide | apply keep_startPatch | apply keep_ite | apply keep_ite1 | apply keep_ite2 | apply keep_ite3)
    | extract_lets | split
    | refine keep_eq2 (by with_reducible assumption) ?_ | refine keep_eq1 (by with_reducible assumption) ?_

theorem keep_arriveRow {a0 a1 a2 a3} (h : Keeps s₀ a3) : Keeps s₀ (arriveRow a0 a1 a2 a3).2 := by
  delta arriveRow
  repeat' first
    | with_reducible assumption | intro _
    | (with_reducible first | apply keep_payRec | apply keep_arriveR2 | apply keep_arriveOpen | apply keep_arriveJoined | apply keep_ite | apply keep_ite1 | apply keep_ite2 | apply keep_ite3)
    | extract_lets | split
    | refine keep_eq2 (by with_reducible assumption) ?_ | refine keep_eq1 (by with_reducible assumption) ?_

theorem keep_arriveRows {b c l a} (h : Keeps s₀ a) : Keeps s₀ (arriveRows b c l a).2 := by
  induction l generalizing a with
  | nil => exact h
  | cons x t ih =>
    unfold arriveRows
    repeat' first
      | with_reducible assumption
      | intro _
      | (with_reducible first | apply ih | apply keep_arriveRow)
      | (with_reducible first | apply keep_ite | apply keep_ite2)
      | extract_lets | split
      | refine keep_eq2 (by with_reducible assumption) ?_

theorem keep_tokenArrival {a0 a1 a2 a3} (h : Keeps s₀ a3) : Keeps s₀ (tokenArrival a0 a1 a2 a3) := by
  delta tokenArrival
  repeat' first
    | with_reducible assumption | intro _
    | (with_reducible first | apply keep_arriveRows | apply keep_touch | apply keep_modStep | apply keep_ite | apply keep_ite1 | apply keep_ite2 | apply keep_ite3)
    | extract_lets | split
    | refine keep_eq2 (by with_reducible assumption) ?_ | refine keep_eq1 (by with_reducible assumption) ?_

theorem keep_execTokenArrival {a0 a1 a2 a3} {t} (h : Keeps s₀ a3) (e : execTokenArrival a0 a1 a2 a3 = .next t) : Keeps s₀ t := by
  delta execTokenArrival at e
  refine keep_run e ?_
  clear e
  repeat' first
    | with_reducible assumption | intro _
    | (with_reducible first | apply keep_tokenArrival)

theorem keep_commitR2 {a0 a1} (h : Keeps s₀ a1) : Keeps s₀ (commitR2 a0 a1) := by
  delta commitR2
  extract_lets x0 x1 x2 x3
  try clear_value x3; try clear_value x2; try clear_value x1; try clear_value x0
  repeat' first
    | with_reducible assumption | intro _
    | (with_reducible first | apply keep_tillFinal | apply keep_post | apply keep_modEnt | apply keep_modSide | apply keep_promote | apply keep_ite)
    | extract_lets | split
    | refine keep_eq2 (by with_reducible assumption) ?_ | refine keep_eq1 (by with_reducible assumption) ?_

theorem keep_afterCommit {a0 a1} (h : Keeps s₀ a1) : Keeps s₀ (afterCommit a0 a1) := by
  delta afterCommit
  extract_lets x0 x1 x2 x3 x4
  have h4 : Keeps s₀ x4 := by
    try subst x4
    repeat' first
      | with_reducible assumption | intro _
      | (with_reducible first | apply keep_when_ | apply keep_modSide | apply keep_logEv | apply keep_toClosing | apply keep_toDraining | apply keep_modEnt | apply keep_ite)
      | extract_lets | split
      | refine keep_eq2 (by with_reducible assumption) ?_ | refine keep_eq1 (by with_reducible assumption) ?_
  try clear_value x4; try clear_value x2; try clear_value x1; try clear_value x0
  repeat' first
    | with_reducible assumption | intro _
    | (with_reducible first | apply keep_when_ | apply keep_modSide | apply keep_logEv | apply keep_toClosing | apply keep_toDraining | apply keep_modEnt | apply keep_ite)
    | extract_lets | split
    | refine keep_eq2 (by with_reducible assumption) ?_ | refine keep_eq1 (by with_reducible assumption) ?_

theorem keep_commitRow {a0 a1} (h : Keeps s₀ a1) : Keeps s₀ (commitRow a0 a1) := by
  delta commitRow
  extract_lets x0 x1 x2 x3 x4 x5 x6 x7 x8 x9 x10
  have h2 : Keeps s₀ x2 := by
    try subst x2
    repeat' first
      | with_reducible assumption | intro _
      | (with_reducible first | apply keep_modSide | apply keep_when_ | apply keep_callModules | apply keep_commitR2 | apply keep_modEnt | apply keep_insertPages | apply keep_afterCommit | apply keep_payRec | apply keep_closeIfDone | apply keep_ite)
      | split
  have h3 : Keeps s₀ x3 := by
    try subst x3
    repeat' first
      | with_reducible assumption | intro _
      | (with_reducible first | apply keep_modSide | apply keep_when_ | apply keep_callModules | apply keep_commitR2 | apply keep_modEnt | apply keep_insertPages | apply keep_afterCommit | apply keep_payRec | apply keep_closeIfDone | apply keep_ite)
      | split
  have h6 : Keeps s₀ x6 := by
    try subst x6
    repeat' first
      | with_reducible assumption | intro _
      | (with_reducible first | apply keep_modSide | apply keep_when_ | apply keep_callModules | apply keep_commitR2 | apply keep_modEnt | apply keep_insertPages | apply keep_afterCommit | apply keep_payRec | apply keep_closeIfDone | apply keep_ite)
      | split
  have h7 : Keeps s₀ x7 := by
    try subst x7
    repeat' first
      | with_reducible assumption | intro _
      | (with_reducible first | apply keep_modSide | apply keep_when_ | apply keep_callModules | apply keep_commitR2 | apply keep_modEnt | apply keep_insertPages | apply keep_afterCommit | apply keep_payRec | apply keep_closeIfDone | apply keep_ite)
      | split
  have h8 : Keeps s₀ x8 := by
    try subst x8
    repeat' first
      | with_reducible assumption | intro _
      | (with_reducible first | apply keep_modSide | apply keep_when_ | apply keep_callModules | apply keep_commitR2 | apply keep_modEnt | apply keep_insertPages | apply keep_afterCommit | apply keep_payRec | apply keep_closeIfDone | apply keep_ite)
      | split
  have h9 : Keeps s₀ x9 := by
    try subst x9
    repeat' first
      | with_reducible assumption | intro _
      | (with_reducible first | apply keep_modSide | apply keep_when_ | apply keep_callModules | apply keep_commitR2 | apply keep_modEnt | apply keep_insertPages | apply keep_afterCommit | apply keep_payRec | apply keep_closeIfDone | apply keep_ite)
      | split
  have h10 : Keeps s₀ x10 := by
    try subst x10
    repeat' first
      | with_reducible assumption | intro _
      | (with_reducible first | apply keep_modSide | apply keep_when_ | apply keep_callModules | apply keep_commitR2 | apply keep_modEnt | apply keep_insertPages | apply keep_afterCommit | apply keep_payRec | apply keep_closeIfDone | apply keep_ite)
      | split
  try clear_value x10; try clear_value x9; try clear_value x8; try clear_value x7; try clear_value x6; try clear_value x5; try clear_value x4; try clear_value x3; try clear_value x2; try clear_value x1; try clear_value x0
  repeat' first
    | with_reducible assumption | intro _
    | (with_reducible first | apply keep_modSide | apply keep_when_ | apply keep_callModules | apply keep_commitR2 | apply keep_modEnt | apply keep_insertPages | apply keep_afterCommit | apply keep_payRec | apply keep_closeIfDone | apply keep_ite)
    | split

theorem keep_endHead {a0 a1} (h : Keeps s₀ a1) : Keeps s₀ (endHead a0 a1) := by
  delta endHead
  extract_lets x0
  have h0 : Keeps s₀ x0 := by
    try subst x0
    repeat' first
      | with_reducible assumption | intro _
      | (with_reducible first | apply keep_releaseItems | apply keep_forEach | apply keep_commitRow)
      | with_reducible refine keep_set ?_ ?_ ?_ ?_ ?_ ?_
      | rfl
      | (with_reducible first | apply memory_put | apply memory_putBytes | apply memory_filter | apply memory_delRange | apply memory_copyRange | apply memory_foldl | apply memory_setRange | apply memory_rowApply | apply memory_unitApply)
      | assumption
  try clear_value x0
  repeat' first
    | with_reducible assumption | intro _
    | (with_reducible first | apply keep_releaseItems | apply keep_forEach | apply keep_commitRow)
    | with_reducible refine keep_set ?_ ?_ ?_ ?_ ?_ ?_
    | rfl
    | (with_reducible first | apply memory_put | apply memory_putBytes | apply memory_filter | apply memory_delRange | apply memory_copyRange | apply memory_foldl | apply memory_setRange | apply memory_rowApply | apply memory_unitApply)
    | assumption

theorem keep_endMember {a0 a1} (h : Keeps s₀ a1) : Keeps s₀ (endMember a0 a1) := by
  delta endMember
  extract_lets x0 x1 x2 x3
  have h0 : Keeps s₀ x0 := by
    try subst x0
    repeat' first
      | with_reducible assumption | intro _
      | (with_reducible first | apply keep_forEach | apply keep_modSide | apply keep_freeEntry | apply keep_emit | apply keep_releaseItems)
      | with_reducible refine keep_set ?_ ?_ ?_ ?_ ?_ ?_
      | rfl
      | (with_reducible first | apply memory_put | apply memory_putBytes | apply memory_filter | apply memory_delRange | apply memory_copyRange | apply memory_foldl | apply memory_setRange | apply memory_rowApply | apply memory_unitApply)
      | assumption
  have h1 : Keeps s₀ x1 := by
    try subst x1
    repeat' first
      | with_reducible assumption | intro _
      | (with_reducible first | apply keep_forEach | apply keep_modSide | apply keep_freeEntry | apply keep_emit | apply keep_releaseItems)
      | with_reducible refine keep_set ?_ ?_ ?_ ?_ ?_ ?_
      | rfl
      | (with_reducible first | apply memory_put | apply memory_putBytes | apply memory_filter | apply memory_delRange | apply memory_copyRange | apply memory_foldl | apply memory_setRange | apply memory_rowApply | apply memory_unitApply)
      | assumption
  have h2 : Keeps s₀ x2 := by
    try subst x2
    repeat' first
      | with_reducible assumption | intro _
      | (with_reducible first | apply keep_forEach | apply keep_modSide | apply keep_freeEntry | apply keep_emit | apply keep_releaseItems)
      | with_reducible refine keep_set ?_ ?_ ?_ ?_ ?_ ?_
      | rfl
      | (with_reducible first | apply memory_put | apply memory_putBytes | apply memory_filter | apply memory_delRange | apply memory_copyRange | apply memory_foldl | apply memory_setRange | apply memory_rowApply | apply memory_unitApply)
      | assumption
  try clear_value x3; try clear_value x2; try clear_value x1; try clear_value x0
  repeat' first
    | with_reducible assumption | intro _
    | (with_reducible first | apply keep_forEach | apply keep_modSide | apply keep_freeEntry | apply keep_emit | apply keep_releaseItems)
    | with_reducible refine keep_set ?_ ?_ ?_ ?_ ?_ ?_
    | rfl
    | (with_reducible first | apply memory_put | apply memory_putBytes | apply memory_filter | apply memory_delRange | apply memory_copyRange | apply memory_foldl | apply memory_setRange | apply memory_rowApply | apply memory_unitApply)
    | assumption

theorem keep_stepEnd {a0 a1 a2} (h : Keeps s₀ a2) : Keeps s₀ (stepEnd a0 a1 a2) := by
  delta stepEnd
  repeat' first
    | with_reducible assumption | intro _
    | (with_reducible first | apply keep_endHead | apply keep_endMember | apply keep_ite)
    | extract_lets | split
    | refine keep_eq2 (by with_reducible assumption) ?_ | refine keep_eq1 (by with_reducible assumption) ?_

theorem keep_execStepEnd {a0 a1 a2} {t} (h : Keeps s₀ a2) (e : execStepEnd a0 a1 a2 = .next t) : Keeps s₀ t := by
  delta execStepEnd at e
  refine keep_run e ?_
  clear e
  repeat' first
    | with_reducible assumption | intro _
    | (with_reducible first | apply keep_stepEnd)

theorem keep_stepCommitConfirm {a0 a1 a2 a3} (h : Keeps s₀ a3) : Keeps s₀ (stepCommitConfirm a0 a1 a2 a3) := by
  delta stepCommitConfirm
  repeat' first
    | with_reducible assumption | intro _
    | (with_reducible first | apply keep_forEach | apply keep_closeIfDone | apply keep_modSide | apply keep_ite)
    | split

theorem keep_execStepCommitConfirm {a0 a1 a2 a3} {t} (h : Keeps s₀ a3) (e : execStepCommitConfirm a0 a1 a2 a3 = .next t) : Keeps s₀ t := by
  delta execStepCommitConfirm at e
  refine keep_run e ?_
  clear e
  repeat' first
    | with_reducible assumption | intro _
    | (with_reducible first | apply keep_stepCommitConfirm)

theorem keep_switchOpen {a0 a1 a2 a3} (h : Keeps s₀ a3) : Keeps s₀ (switchOpen a0 a1 a2 a3) := by
  delta switchOpen
  extract_lets x0 x1 x2 x3 x4 x5 x6
  have h3 : Keeps s₀ x3 := by
    try subst x3
    repeat' first
      | with_reducible assumption | intro _
      | (with_reducible first | apply keep_modSide | apply keep_modEnt | apply keep_forEach | apply keep_deliver | apply keep_armDeadline | apply keep_toDraining | apply keep_when_ | apply keep_recWrite | apply keep_ite)
      | extract_lets | split
      | refine keep_eq2 (by with_reducible assumption) ?_ | refine keep_eq1 (by with_reducible assumption) ?_
  have h4 : Keeps s₀ x4 := by
    try subst x4
    repeat' first
      | with_reducible assumption | intro _
      | (with_reducible first | apply keep_modSide | apply keep_modEnt | apply keep_forEach | apply keep_deliver | apply keep_armDeadline | apply keep_toDraining | apply keep_when_ | apply keep_recWrite | apply keep_ite)
      | extract_lets | split
      | refine keep_eq2 (by with_reducible assumption) ?_ | refine keep_eq1 (by with_reducible assumption) ?_
  have h5 : Keeps s₀ x5 := by
    try subst x5
    repeat' first
      | with_reducible assumption | intro _
      | (with_reducible first | apply keep_modSide | apply keep_modEnt | apply keep_forEach | apply keep_deliver | apply keep_armDeadline | apply keep_toDraining | apply keep_when_ | apply keep_recWrite | apply keep_ite)
      | extract_lets | split
      | refine keep_eq2 (by with_reducible assumption) ?_ | refine keep_eq1 (by with_reducible assumption) ?_
  have h6 : Keeps s₀ x6 := by
    try subst x6
    repeat' first
      | with_reducible assumption | intro _
      | (with_reducible first | apply keep_modSide | apply keep_modEnt | apply keep_forEach | apply keep_deliver | apply keep_armDeadline | apply keep_toDraining | apply keep_when_ | apply keep_recWrite | apply keep_ite)
      | extract_lets | split
      | refine keep_eq2 (by with_reducible assumption) ?_ | refine keep_eq1 (by with_reducible assumption) ?_
  try clear_value x6; try clear_value x5; try clear_value x4; try clear_value x3; try clear_value x2; try clear_value x1; try clear_value x0
  repeat' first
    | with_reducible assumption | intro _
    | (with_reducible first | apply keep_modSide | apply keep_modEnt | apply keep_forEach | apply keep_deliver | apply keep_armDeadline | apply keep_toDraining | apply keep_when_ | apply keep_recWrite | apply keep_ite)
    | extract_lets | split
    | refine keep_eq2 (by with_reducible assumption) ?_ | refine keep_eq1 (by with_reducible assumption) ?_

theorem keep_leaveDraining {a0 a1 a2} (h : Keeps s₀ a2) : Keeps s₀ (leaveDraining a0 a1 a2) := by
  delta leaveDraining
  extract_lets x0 x1 x2
  have h2 : Keeps s₀ x2 := by
    try subst x2
    repeat' first
      | with_reducible assumption | intro _
      | (with_reducible first | apply keep_switchOpen | apply keep_toClosing | apply keep_modSide | apply keep_modEnt | apply keep_toReady | apply keep_ite)
      | extract_lets | split
      | refine keep_eq2 (by with_reducible assumption) ?_ | refine keep_eq1 (by with_reducible assumption) ?_
  try clear_value x2; try clear_value x1; try clear_value x0
  repeat' first
    | with_reducible assumption | intro _
    | (with_reducible first | apply keep_switchOpen | apply keep_toClosing | apply keep_modSide | apply keep_modEnt | apply keep_toReady | apply keep_ite)
    | extract_lets | split
    | refine keep_eq2 (by with_reducible assumption) ?_ | refine keep_eq1 (by with_reducible assumption) ?_

theorem keep_generationFinal {a0 a1} (h : Keeps s₀ a1) : Keeps s₀ (generationFinal a0 a1) := by
  delta generationFinal
  extract_lets x0 x1 x2
  try clear_value x2; try clear_value x1; try clear_value x0
  repeat' first
    | with_reducible assumption | intro _
    | (with_reducible first | apply keep_leaveDraining | apply keep_finishOpen | apply keep_ite)
    | split

theorem keep_execGenerationFinal {a0 a1} {t} (h : Keeps s₀ a1) (e : execGenerationFinal a0 a1 = .next t) : Keeps s₀ t := by
  delta execGenerationFinal at e
  refine keep_run e ?_
  clear e
  repeat' first
    | with_reducible assumption | intro _
    | (with_reducible first | apply keep_generationFinal)

theorem keep_createShadow {a0 a1 a2 a3 a4 a5 a6 a7} (h : Keeps s₀ a7) : Keeps s₀ (createShadow a0 a1 a2 a3 a4 a5 a6 a7).2 := by
  delta createShadow
  extract_lets x0 x1 x2 x3 x4
  have h2 : Keeps s₀ x2 := by
    try subst x2
    repeat' first
      | with_reducible assumption | intro _
      | (with_reducible first | apply keep_forEach | apply keep_nodeRef | apply keep_setPages | apply keep_ite | apply keep_ite1 | apply keep_ite2 | apply keep_ite3)
      | extract_lets | split
      | refine keep_eq2 (by with_reducible assumption) ?_ | refine keep_eq1 (by with_reducible assumption) ?_
      | with_reducible refine keep_set ?_ ?_ ?_ ?_ ?_ ?_
      | rfl
      | (with_reducible first | apply memory_put | apply memory_putBytes | apply memory_filter | apply memory_delRange | apply memory_copyRange | apply memory_foldl | apply memory_setRange | apply memory_rowApply | apply memory_unitApply)
      | assumption
  try clear_value x4; try clear_value x3; try clear_value x2; try clear_value x1; try clear_value x0
  repeat' first
    | with_reducible assumption | intro _
    | (with_reducible first | apply keep_forEach | apply keep_nodeRef | apply keep_setPages | apply keep_ite | apply keep_ite1 | apply keep_ite2 | apply keep_ite3)
    | extract_lets | split
    | refine keep_eq2 (by with_reducible assumption) ?_ | refine keep_eq1 (by with_reducible assumption) ?_
    | with_reducible refine keep_set ?_ ?_ ?_ ?_ ?_ ?_
    | rfl
    | (with_reducible first | apply memory_put | apply memory_putBytes | apply memory_filter | apply memory_delRange | apply memory_copyRange | apply memory_foldl | apply memory_setRange | apply memory_rowApply | apply memory_unitApply)
    | assumption

theorem keep_followInsert {b n a} (h : Keeps s₀ a) : Keeps s₀ (followInsert b n a) := by
  induction n generalizing  a with
  | zero => exact h
  | succ n ih =>
    unfold followInsert
    repeat' first
      | with_reducible assumption
      | intro _
      | (with_reducible first | apply ih | apply keep_fresh | apply keep_insertNode)
      | (with_reducible first | apply keep_ite | apply keep_ite2)
      | extract_lets | split
      | refine keep_eq2 (by with_reducible assumption) ?_

theorem keep_grantShadow {a0 a1 a2 a3} (h : Keeps s₀ a3) : Keeps s₀ (grantShadow a0 a1 a2 a3) := by
  delta grantShadow
  extract_lets x0 x1 x2
  have h1 : Keeps s₀ x1 := by
    try subst x1
    repeat' first
      | with_reducible assumption | intro _
      | (with_reducible first | apply keep_copyOnWrite | apply keep_allocPages | apply keep_setPages)
  have h2 : Keeps s₀ x2.2 := by
    try subst x2
    repeat' first
      | with_reducible assumption | intro _
      | (with_reducible first | apply keep_copyOnWrite | apply keep_allocPages | apply keep_setPages)
  try clear_value x2; try clear_value x1; try clear_value x0
  repeat' first
    | with_reducible assumption | intro _
    | (with_reducible first | apply keep_copyOnWrite | apply keep_allocPages | apply keep_setPages)

theorem keep_shadowOrders {a0 a1 a2} (h : Keeps s₀ a2) : Keeps s₀ (shadowOrders a0 a1 a2) := by
  delta shadowOrders
  extract_lets x0 x1 x2 x3 x4 x5 x6 x7
  have h3 : Keeps s₀ x3 := by
    try subst x3
    repeat' first
      | with_reducible assumption | intro _
      | (with_reducible first | apply keep_modEnt | apply keep_allocPages | apply keep_setPages | apply keep_releasePages | apply keep_ite | apply keep_ite1 | apply keep_ite2 | apply keep_ite3)
      | split
      | with_reducible refine keep_set ?_ ?_ ?_ ?_ ?_ ?_
      | rfl
      | (with_reducible first | apply memory_put | apply memory_putBytes | apply memory_filter | apply memory_delRange | apply memory_copyRange | apply memory_foldl | apply memory_setRange | apply memory_rowApply | apply memory_unitApply)
      | assumption
  have h5 : Keeps s₀ x5.2 := by
    try subst x5
    repeat' first
      | with_reducible assumption | intro _
      | (with_reducible first | apply keep_modEnt | apply keep_allocPages | apply keep_setPages | apply keep_releasePages | apply keep_ite | apply keep_ite1 | apply keep_ite2 | apply keep_ite3)
      | split
      | with_reducible refine keep_set ?_ ?_ ?_ ?_ ?_ ?_
      | rfl
      | (with_reducible first | apply memory_put | apply memory_putBytes | apply memory_filter | apply memory_delRange | apply memory_copyRange | apply memory_foldl | apply memory_setRange | apply memory_rowApply | apply memory_unitApply)
      | assumption
  have h6 : Keeps s₀ x6 := by
    try subst x6
    repeat' first
      | with_reducible assumption | intro _
      | (with_reducible first | apply keep_modEnt | apply keep_allocPages | apply keep_setPages | apply keep_releasePages | apply keep_ite | apply keep_ite1 | apply keep_ite2 | apply keep_ite3)
      | split
      | with_reducible refine keep_set ?_ ?_ ?_ ?_ ?_ ?_
      | rfl
      | (with_reducible first | apply memory_put | apply memory_putBytes | apply memory_filter | apply memory_delRange | apply memory_copyRange | apply memory_foldl | apply memory_setRange | apply memory_rowApply | apply memory_unitApply)
      | assumption
  have h7 : Keeps s₀ x7 := by
    try subst x7
    repeat' first
      | with_reducible assumption | intro _
      | (with_reducible first | apply keep_modEnt | apply keep_allocPages | apply keep_setPages | apply keep_releasePages | apply keep_ite | apply keep_ite1 | apply keep_ite2 | apply keep_ite3)
      | split
      | with_reducible refine keep_set ?_ ?_ ?_ ?_ ?_ ?_
      | rfl
      | (with_reducible first | apply memory_put | apply memory_putBytes | apply memory_filter | apply memory_delRange | apply memory_copyRange | apply memory_foldl | apply memory_setRange | apply memory_rowApply | apply memory_unitApply)
      | assumption
  try clear_value x7; try clear_value x6; try clear_value x5; try clear_value x4; try clear_value x3; try clear_value x1; try clear_value x0
  repeat' first
    | with_reducible assumption | intro _
    | (with_reducible first | apply keep_modEnt | apply keep_allocPages | apply keep_setPages | apply keep_releasePages | apply keep_ite | apply keep_ite1 | apply keep_ite2 | apply keep_ite3)
    | split
    | with_reducible refine keep_set ?_ ?_ ?_ ?_ ?_ ?_
    | rfl
    | (with_reducible first | apply memory_put | apply memory_putBytes | apply memory_filter | apply memory_delRange | apply memory_copyRange | apply memory_foldl | apply memory_setRange | apply memory_rowApply | apply memory_unitApply)
    | assumption

theorem keep_recordRow {a0 a1 a2 a3 a4 a5 a6} (h : Keeps s₀ a6) : Keeps s₀ (recordRow a0 a1 a2 a3 a4 a5 a6).2 := by
  delta recordRow
  extract_lets x0 x1 x2 x3 x4 x5 x6 x7 x8 x9 x10
  have h10 : Keeps s₀ x10.2 := by
    try subst x10
    repeat' first
      | with_reducible assumption | intro _
      | (with_reducible first | apply keep_createShadow | apply keep_logC | apply keep_sendFault | apply keep_followInsert | apply keep_modEnt | apply keep_fetchAdapter | apply keep_grantShadow | apply keep_shadowOrders | apply keep_modSide | apply keep_ite | apply keep_ite1 | apply keep_ite2 | apply keep_ite3)
      | extract_lets | split
      | refine keep_eq2 (by with_reducible assumption) ?_ | refine keep_eq1 (by with_reducible assumption) ?_
  try clear_value x10; try clear_value x9; try clear_value x8; try clear_value x7; try clear_value x6; try clear_value x5; try clear_value x4; try clear_value x3; try clear_value x2; try clear_value x1; try clear_value x0
  repeat' first
    | with_reducible assumption | intro _
    | (with_reducible first | apply keep_createShadow | apply keep_logC | apply keep_sendFault | apply keep_followInsert | apply keep_modEnt | apply keep_fetchAdapter | apply keep_grantShadow | apply keep_shadowOrders | apply keep_modSide | apply keep_ite | apply keep_ite1 | apply keep_ite2 | apply keep_ite3)
    | extract_lets | split
    | refine keep_eq2 (by with_reducible assumption) ?_ | refine keep_eq1 (by with_reducible assumption) ?_

theorem keep_recordRows {b c d e f g n a} (h : Keeps s₀ a) : Keeps s₀ (recordRows b c d e f g n a).2 := by
  induction n generalizing  a with
  | zero => exact h
  | succ n ih =>
    unfold recordRows
    repeat' first
      | with_reducible assumption
      | intro _
      | (with_reducible first | apply ih | apply keep_recordRow)
      | (with_reducible first | apply keep_ite | apply keep_ite2)
      | extract_lets | split
      | refine keep_eq2 (by with_reducible assumption) ?_

theorem keep_recordReceive {a0 a1} (h : Keeps s₀ a1) : Keeps s₀ (recordReceive a0 a1) := by
  delta recordReceive
  extract_lets x0 x1 x2 x3 x4
  have h3 : Keeps s₀ x3.2 := by
    try subst x3
    repeat' first
      | with_reducible assumption | intro _
      | (with_reducible first | apply keep_await | apply keep_fresh | apply keep_touch | apply keep_issuePW | apply keep_recordRows | apply keep_stepItems | apply keep_placeItems | apply keep_when_ | apply keep_feed | apply keep_forEach | apply keep_modSide | apply keep_ite | apply keep_ite1 | apply keep_ite2 | apply keep_ite3)
      | extract_lets | split
      | refine keep_eq2 (by with_reducible assumption) ?_ | refine keep_eq1 (by with_reducible assumption) ?_
      | with_reducible refine keep_set ?_ ?_ ?_ ?_ ?_ ?_
      | rfl
      | assumption
  try clear_value x4; try clear_value x3; try clear_value x2; try clear_value x1; try clear_value x0
  repeat' first
    | with_reducible assumption | intro _
    | (with_reducible first | apply keep_await | apply keep_fresh | apply keep_touch | apply keep_issuePW | apply keep_recordRows | apply keep_stepItems | apply keep_placeItems | apply keep_when_ | apply keep_feed | apply keep_forEach | apply keep_modSide | apply keep_ite | apply keep_ite1 | apply keep_ite2 | apply keep_ite3)
    | extract_lets | split
    | refine keep_eq2 (by with_reducible assumption) ?_ | refine keep_eq1 (by with_reducible assumption) ?_
    | with_reducible refine keep_set ?_ ?_ ?_ ?_ ?_ ?_
    | rfl
    | assumption

theorem keep_execStepRecordReceive {a0 a1} {t} (h : Keeps s₀ a1) (e : execStepRecordReceive a0 a1 = .next t) : Keeps s₀ t := by
  delta execStepRecordReceive at e
  refine keep_run e ?_
  clear e
  repeat' first
    | with_reducible assumption | intro _
    | (with_reducible first | apply keep_recordReceive)

/-! ### Cycle -/

theorem keep_choosePlan {a0} (h : Keeps s₀ a0) : Keeps s₀ (choosePlan a0) := by
  delta choosePlan
  extract_lets x0 x1
  try clear_value x1; try clear_value x0
  repeat' first
    | with_reducible assumption | intro _
    | (with_reducible first | apply keep_logC | apply keep_ite)
    | extract_lets | split
    | refine keep_eq2 (by with_reducible assumption) ?_ | refine keep_eq1 (by with_reducible assumption) ?_
    | with_reducible refine keep_set ?_ ?_ ?_ ?_ ?_ ?_
    | rfl
    | assumption

theorem keep_beginCycle {a0} (h : Keeps s₀ a0) : Keeps s₀ (beginCycle a0) := by
  delta beginCycle
  extract_lets x0 x1 x2 x3
  have h0 : Keeps s₀ x0 := by
    try subst x0
    repeat' first
      | with_reducible assumption | intro _
      | (with_reducible first | apply keep_addWrap | apply keep_choosePlan | apply keep_ite)
      | split
      | with_reducible refine keep_set ?_ ?_ ?_ ?_ ?_ ?_
      | rfl
      | assumption
  try clear_value x3; try clear_value x2; try clear_value x1; try clear_value x0
  repeat' first
    | with_reducible assumption | intro _
    | (with_reducible first | apply keep_addWrap | apply keep_choosePlan | apply keep_ite)
    | split
    | with_reducible refine keep_set ?_ ?_ ?_ ?_ ?_ ?_
    | rfl
    | assumption

theorem keep_cycleStart {a0} (h : Keeps s₀ a0) : Keeps s₀ (cycleStart a0) := by
  delta cycleStart
  repeat' first
    | with_reducible assumption | intro _
    | (with_reducible first | apply keep_beginCycle | apply keep_ite)
    | split

theorem keep_execCycleStart {a0} {t} (h : Keeps s₀ a0) (e : execCycleStart a0 = .next t) : Keeps s₀ t := by
  delta execCycleStart at e
  refine keep_run e ?_
  clear e
  repeat' first
    | with_reducible assumption | intro _
    | (with_reducible first | apply keep_cycleStart)

theorem keep_monitorBound {a0 a1 a2 a3} (h : Keeps s₀ a3) : Keeps s₀ (monitorBound a0 a1 a2 a3).2 := by
  delta monitorBound
  extract_lets x0
  try clear_value x0
  repeat' first
    | with_reducible assumption | intro _
    | (with_reducible first | apply keep_finishLate | apply keep_dropLate | apply keep_ite | apply keep_ite1 | apply keep_ite2 | apply keep_ite3)
    | split

theorem keep_monitorSlot {b c l a} (h : Keeps s₀ a) : Keeps s₀ (monitorSlot b c l a).2 := by
  induction l generalizing a with
  | nil => exact h
  | cons x t ih =>
    unfold monitorSlot
    repeat' first
      | with_reducible assumption
      | intro _
      | (with_reducible first | apply ih | apply keep_monitorBound)
      | (with_reducible first | apply keep_ite | apply keep_ite2)
      | extract_lets | split
      | refine keep_eq2 (by with_reducible assumption) ?_

theorem keep_slotStep {a0 a1 a2 a3} (h : Keeps s₀ a3) : Keeps s₀ (slotStep a0 a1 a2 a3) := by
  delta slotStep
  extract_lets x0 x1 x2 x3 x4 x5 x6 x7 x8 x9
  have h0 : Keeps s₀ x0 := by
    try subst x0
    repeat' first
      | with_reducible assumption | intro _
      | (with_reducible first | apply keep_endPoisoned | apply keep_monitorSlot | apply keep_pickPass | apply keep_buildRows | apply keep_stepIssue | apply keep_modAisle | apply keep_ite | apply keep_ite1 | apply keep_ite2 | apply keep_ite3 | apply keep_foldl | apply keep_foldl1 | apply keep_foldl2 | apply keep_foldl3)
      | split
      | with_reducible refine keep_set ?_ ?_ ?_ ?_ ?_ ?_
      | rfl
      | assumption
  have h1 : Keeps s₀ x1.2 := by
    try subst x1
    repeat' first
      | with_reducible assumption | intro _
      | (with_reducible first | apply keep_endPoisoned | apply keep_monitorSlot | apply keep_pickPass | apply keep_buildRows | apply keep_stepIssue | apply keep_modAisle | apply keep_ite | apply keep_ite1 | apply keep_ite2 | apply keep_ite3 | apply keep_foldl | apply keep_foldl1 | apply keep_foldl2 | apply keep_foldl3)
      | split
      | with_reducible refine keep_set ?_ ?_ ?_ ?_ ?_ ?_
      | rfl
      | assumption
  have h2 : Keeps s₀ x2.2 := by
    try subst x2
    repeat' first
      | with_reducible assumption | intro _
      | (with_reducible first | apply keep_endPoisoned | apply keep_monitorSlot | apply keep_pickPass | apply keep_buildRows | apply keep_stepIssue | apply keep_modAisle | apply keep_ite | apply keep_ite1 | apply keep_ite2 | apply keep_ite3 | apply keep_foldl | apply keep_foldl1 | apply keep_foldl2 | apply keep_foldl3)
      | split
      | with_reducible refine keep_set ?_ ?_ ?_ ?_ ?_ ?_
      | rfl
      | assumption
  have h3 : Keeps s₀ x3 := by
    try subst x3
    repeat' first
      | with_reducible assumption | intro _
      | (with_reducible first | apply keep_endPoisoned | apply keep_monitorSlot | apply keep_pickPass | apply keep_buildRows | apply keep_stepIssue | apply keep_modAisle | apply keep_ite | apply keep_ite1 | apply keep_ite2 | apply keep_ite3 | apply keep_foldl | apply keep_foldl1 | apply keep_foldl2 | apply keep_foldl3)
      | split
      | with_reducible refine keep_set ?_ ?_ ?_ ?_ ?_ ?_
      | rfl
      | assumption
  have h5 : Keeps s₀ x5.2 := by
    try subst x5
    repeat' first
      | with_reducible assumption | intro _
      | (with_reducible first | apply keep_endPoisoned | apply keep_monitorSlot | apply keep_pickPass | apply keep_buildRows | apply keep_stepIssue | apply keep_modAisle | apply keep_ite | apply keep_ite1 | apply keep_ite2 | apply keep_ite3 | apply keep_foldl | apply keep_foldl1 | apply keep_foldl2 | apply keep_foldl3)
      | split
      | with_reducible refine keep_set ?_ ?_ ?_ ?_ ?_ ?_
      | rfl
      | assumption
  have h9 : Keeps s₀ x9 := by
    try subst x9
    repeat' first
      | with_reducible assumption | intro _
      | (with_reducible first | apply keep_endPoisoned | apply keep_monitorSlot | apply keep_pickPass | apply keep_buildRows | apply keep_stepIssue | apply keep_modAisle | apply keep_ite | apply keep_ite1 | apply keep_ite2 | apply keep_ite3 | apply keep_foldl | apply keep_foldl1 | apply keep_foldl2 | apply keep_foldl3)
      | split
      | with_reducible refine keep_set ?_ ?_ ?_ ?_ ?_ ?_
      | rfl
      | assumption
  try clear_value x9; try clear_value x8; try clear_value x7; try clear_value x6; try clear_value x5; try clear_value x4; try clear_value x3; try clear_value x2; try clear_value x1; try clear_value x0
  repeat' first
    | with_reducible assumption | intro _
    | (with_reducible first | apply keep_endPoisoned | apply keep_monitorSlot | apply keep_pickPass | apply keep_buildRows | apply keep_stepIssue | apply keep_modAisle | apply keep_ite | apply keep_ite1 | apply keep_ite2 | apply keep_ite3 | apply keep_foldl | apply keep_foldl1 | apply keep_foldl2 | apply keep_foldl3)
    | split
    | with_reducible refine keep_set ?_ ?_ ?_ ?_ ?_ ?_
    | rfl
    | assumption

theorem keep_slotStart {a0} (h : Keeps s₀ a0) : Keeps s₀ (slotStart a0) := by
  delta slotStart
  extract_lets x0 x1 x2
  have h2 : Keeps s₀ x2 := by
    try subst x2
    repeat' first
      | with_reducible assumption | intro _
      | (with_reducible first | apply keep_forEach | apply keep_slotStep | apply keep_ite | apply keep_ite1 | apply keep_ite2 | apply keep_ite3)
      | extract_lets | split
      | refine keep_eq2 (by with_reducible assumption) ?_ | refine keep_eq1 (by with_reducible assumption) ?_
      | with_reducible refine keep_set ?_ ?_ ?_ ?_ ?_ ?_
      | rfl
      | assumption
  try clear_value x2; try clear_value x1; try clear_value x0
  repeat' first
    | with_reducible assumption | intro _
    | (with_reducible first | apply keep_forEach | apply keep_slotStep | apply keep_ite | apply keep_ite1 | apply keep_ite2 | apply keep_ite3)
    | extract_lets | split
    | refine keep_eq2 (by with_reducible assumption) ?_ | refine keep_eq1 (by with_reducible assumption) ?_
    | with_reducible refine keep_set ?_ ?_ ?_ ?_ ?_ ?_
    | rfl
    | assumption

theorem keep_execSlotStart {a0} {t} (h : Keeps s₀ a0) (e : execSlotStart a0 = .next t) : Keeps s₀ t := by
  delta execSlotStart at e
  refine keep_run e ?_
  clear e
  repeat' first
    | with_reducible assumption | intro _
    | (with_reducible first | apply keep_slotStart)

theorem keep_cycleRestart {a0} (h : Keeps s₀ a0) : Keeps s₀ (cycleRestart a0) := by
  delta cycleRestart
  extract_lets x0 x1
  try clear_value x1; try clear_value x0
  repeat' first
    | with_reducible assumption | intro _
    | (with_reducible first | apply keep_logC | apply keep_beginCycle | apply keep_ite)
    | extract_lets | split
    | refine keep_eq2 (by with_reducible assumption) ?_ | refine keep_eq1 (by with_reducible assumption) ?_
    | with_reducible refine keep_set ?_ ?_ ?_ ?_ ?_ ?_
    | rfl
    | assumption

theorem keep_execCycleRestart {a0} {t} (h : Keeps s₀ a0) (e : execCycleRestart a0 = .next t) : Keeps s₀ t := by
  delta execCycleRestart at e
  refine keep_run e ?_
  clear e
  repeat' first
    | with_reducible assumption | intro _
    | (with_reducible first | apply keep_cycleRestart)

end Sys2Proof.Laws
end

