-- ==== Sys2Proof/Laws/KeepBlocks.lean ====
section
/-! SUPPORT. What `Keeps` of Laws/Keep.lean says, operation by operation and command by command: the control core, the near-memory dies, images and the security module. Each lemma
says that an operation applied to a state that keeps the invariants of `s₀` keeps them. -/
namespace Sys2Proof.Laws
open Sys2Proof.Machine Sys2Proof.Safety
set_option Elab.async false
set_option linter.unusedTactic false
set_option linter.unreachableTactic false
set_option linter.unusedVariables false
variable {s₀ : State}

/-! ### ControlCore -/

theorem keep_modCc {f : Cc → Cc} {s : State} (h : Keeps s₀ s) (hf : ∀ m, Memory.wf m.sram = true → Memory.wf (f m).sram = true) :
    Keeps s₀ (modCc f s) :=
  h.trans ⟨fun m => ⟨m.1, m.2.1, m.2.2.1, hf _ m.2.2.2⟩, id, id, List.prefix_refl _, ⟨rfl, rfl, rfl⟩, Nat.le_refl _⟩

theorem keep_epost {a0 a1 a2} (h : Keeps s₀ a2) : Keeps s₀ (epost a0 a1 a2) := by
  delta epost
  repeat' first
    | with_reducible assumption | intro _
    | (with_reducible first | apply keep_touch | apply keep_postFlag | apply keep_retire | apply keep_ite)
    | split

theorem keep_execEpost {a0 a1 a2} {t} (h : Keeps s₀ a2) (e : execEpost a0 a1 a2 = .next t) : Keeps s₀ t := by
  delta execEpost at e
  refine keep_run e ?_
  clear e
  repeat' first
    | with_reducible assumption | intro _
    | (with_reducible first | apply keep_epost)

theorem keep_eclr {a0 a1 a2} (h : Keeps s₀ a2) : Keeps s₀ (eclr a0 a1 a2) := by
  delta eclr
  repeat' first
    | with_reducible assumption | intro _
    | (with_reducible first | apply keep_touch | apply keep_clearFlag | apply keep_retire | apply keep_ite)
    | split

theorem keep_execEclr {a0 a1 a2} {t} (h : Keeps s₀ a2) (e : execEclr a0 a1 a2 = .next t) : Keeps s₀ t := by
  delta execEclr at e
  refine keep_run e ?_
  clear e
  repeat' first
    | with_reducible assumption | intro _
    | (with_reducible first | apply keep_eclr)

theorem keep_ewait {a0 a1 a2} (h : Keeps s₀ a2) : Keeps s₀ (ewait a0 a1 a2) := by
  delta ewait
  repeat' first
    | with_reducible assumption | intro _
    | (with_reducible first | apply keep_endWait | apply keep_modWks | apply keep_modThread | apply keep_ite | apply keep_ite1 | apply keep_ite2 | apply keep_ite3)
    | split

theorem keep_execEwait {a0 a1 a2} {t} (h : Keeps s₀ a2) (e : execEwait a0 a1 a2 = .next t) : Keeps s₀ t := by
  delta execEwait at e
  refine keep_run e ?_
  clear e
  repeat' first
    | with_reducible assumption | intro _
    | (with_reducible first | apply keep_ewait)

theorem keep_setG {a0 a1 a2 a3} (h : Keeps s₀ a3) : Keeps s₀ (setG a0 a1 a2 a3) := by
  delta setG
  repeat' first
    | with_reducible assumption | intro _
    | (with_reducible first | apply keep_modThread | apply keep_ite)
    | split

theorem keep_threadFault {a0 a1 a2} (h : Keeps s₀ a2) : Keeps s₀ (threadFault a0 a1 a2) := by
  delta threadFault
  repeat' first
    | with_reducible assumption | intro _
    | (with_reducible first | apply keep_modThread)

theorem keep_bulkBegin {a0 a1 a2} (h : Keeps s₀ a2) : Keeps s₀ (bulkBegin a0 a1 a2) := by
  delta bulkBegin
  repeat' first
    | with_reducible assumption | intro _
    | (with_reducible first | apply keep_retire | apply keep_setG | apply keep_threadFault | apply keep_touch | apply keep_modThread | apply keep_ite)
    | split

theorem keep_execBmove {a0 a1} {t} (h : Keeps s₀ a1) (e : execBmove a0 a1 = .next t) : Keeps s₀ t := by
  delta execBmove at e
  refine keep_run e ?_
  clear e
  repeat' first
    | with_reducible assumption | intro _
    | (with_reducible first | apply keep_bulkBegin)

theorem keep_execBscan {a0 a1} {t} (h : Keeps s₀ a1) (e : execBscan a0 a1 = .next t) : Keeps s₀ t := by
  delta execBscan at e
  refine keep_run e ?_
  clear e
  repeat' first
    | with_reducible assumption | intro _
    | (with_reducible first | apply keep_bulkBegin)

theorem keep_execBcrc {a0 a1} {t} (h : Keeps s₀ a1) (e : execBcrc a0 a1 = .next t) : Keeps s₀ t := by
  delta execBcrc at e
  refine keep_run e ?_
  clear e
  repeat' first
    | with_reducible assumption | intro _
    | (with_reducible first | apply keep_bulkBegin)

theorem keep_ccWrite {a0 a1 a2} (h : Keeps s₀ a2) : Keeps s₀ (ccWrite a0 a1 a2) := by
  delta ccWrite
  extract_lets x0
  repeat' first
    | with_reducible assumption | intro _
    | (with_reducible first | apply keep_modCc | apply keep_ite)
    | split
    | with_reducible refine keep_set ?_ ?_ ?_ ?_ ?_ ?_
    | rfl
    | (with_reducible first | apply memory_put | apply memory_putBytes | apply memory_filter | apply memory_delRange | apply memory_copyRange | apply memory_foldl | apply memory_setRange | apply memory_rowApply | apply memory_unitApply)
    | assumption

theorem keep_bulkEnd {a0 a1} (h : Keeps s₀ a1) : Keeps s₀ (bulkEnd a0 a1) := by
  delta bulkEnd
  repeat' first
    | with_reducible assumption | intro _
    | (with_reducible first | apply keep_retire | apply keep_modThread)

theorem keep_bulkAdvance {a0 a1 a2} (h : Keeps s₀ a2) : Keeps s₀ (bulkAdvance a0 a1 a2) := by
  delta bulkAdvance
  extract_lets x0 x1 x2
  have h1 : Keeps s₀ x1 := by
    try subst x1
    repeat' first
      | with_reducible assumption | intro _
      | (with_reducible first | apply keep_setG | apply keep_bulkEnd | apply keep_ite)
      | split
  have h2 : Keeps s₀ x2 := by
    try subst x2
    repeat' first
      | with_reducible assumption | intro _
      | (with_reducible first | apply keep_setG | apply keep_bulkEnd | apply keep_ite)
      | split
  try clear_value x2; try clear_value x1; try clear_value x0
  repeat' first
    | with_reducible assumption | intro _
    | (with_reducible first | apply keep_setG | apply keep_bulkEnd | apply keep_ite)
    | split

theorem keep_bulkUnit {a0 a1 a2} (h : Keeps s₀ a2) : Keeps s₀ (bulkUnit a0 a1 a2) := by
  delta bulkUnit
  extract_lets x0 x1 x2
  have h2 : Keeps s₀ x2 := by
    try subst x2
    repeat' first
      | with_reducible assumption | intro _
      | (with_reducible first | apply keep_threadFault | apply keep_touch | apply keep_ccrStop | apply keep_bulkAdvance | apply keep_ccWrite | apply keep_bulkEnd | apply keep_setG | apply keep_ite | apply keep_foldl)
      | extract_lets | split
      | refine keep_eq2 (by with_reducible assumption) ?_ | refine keep_eq1 (by with_reducible assumption) ?_
  try clear_value x2; try clear_value x1; try clear_value x0
  repeat' first
    | with_reducible assumption | intro _
    | (with_reducible first | apply keep_threadFault | apply keep_touch | apply keep_ccrStop | apply keep_bulkAdvance | apply keep_ccWrite | apply keep_bulkEnd | apply keep_setG | apply keep_ite | apply keep_foldl)
    | extract_lets | split
    | refine keep_eq2 (by with_reducible assumption) ?_ | refine keep_eq1 (by with_reducible assumption) ?_

theorem keep_execBulkUnitComplete {a0 a1 a2} {t} (h : Keeps s₀ a2) (e : execBulkUnitComplete a0 a1 a2 = .next t) : Keeps s₀ t := by
  delta execBulkUnitComplete at e
  refine keep_run e ?_
  clear e
  repeat' first
    | with_reducible assumption | intro _
    | (with_reducible first | apply keep_bulkUnit)

theorem keep_interruptTake {a0 a1} (h : Keeps s₀ a1) : Keeps s₀ (interruptTake a0 a1) := by
  delta interruptTake
  extract_lets x0 x1
  have h1 : Keeps s₀ x1 := by
    try subst x1
    repeat' first
      | with_reducible assumption | intro _
      | (with_reducible first | apply keep_endWait | apply keep_modThread | apply keep_clrBit | apply keep_touch | apply keep_modWks | apply keep_ite | apply keep_ite1 | apply keep_ite2 | apply keep_ite3)
      | extract_lets | split
      | refine keep_eq2 (by with_reducible assumption) ?_ | refine keep_eq1 (by with_reducible assumption) ?_
  try clear_value x1; try clear_value x0
  repeat' first
    | with_reducible assumption | intro _
    | (with_reducible first | apply keep_endWait | apply keep_modThread | apply keep_clrBit | apply keep_touch | apply keep_modWks | apply keep_ite | apply keep_ite1 | apply keep_ite2 | apply keep_ite3)
    | extract_lets | split
    | refine keep_eq2 (by with_reducible assumption) ?_ | refine keep_eq1 (by with_reducible assumption) ?_

theorem keep_execInterruptTake {a0 a1} {t} (h : Keeps s₀ a1) (e : execInterruptTake a0 a1 = .next t) : Keeps s₀ t := by
  delta execInterruptTake at e
  refine keep_run e ?_
  clear e
  repeat' first
    | with_reducible assumption | intro _
    | (with_reducible first | apply keep_interruptTake)

theorem keep_setMbx {a0 a1 a2} (h : Keeps s₀ a2) : Keeps s₀ (setMbx a0 a1 a2) := by
  delta setMbx
  repeat' first
    | with_reducible assumption | intro _
    | (with_reducible first | apply keep_modCc)
    | with_reducible refine keep_set ?_ ?_ ?_ ?_ ?_ ?_
    | rfl
    | (with_reducible first | apply memory_put | apply memory_putBytes | apply memory_filter | apply memory_delRange | apply memory_copyRange | apply memory_foldl | apply memory_setRange | apply memory_rowApply | apply memory_unitApply)
    | assumption

theorem keep_mbxPost {a0 a1} (h : Keeps s₀ a1) : Keeps s₀ (mbxPost a0 a1) := by
  delta mbxPost
  repeat' first
    | with_reducible assumption | intro _
    | (with_reducible first | apply keep_ccInt | apply keep_setMbx | apply keep_setBit | apply keep_ite)
    | split

theorem keep_execMbxDbPost {a0 a1} {t} (h : Keeps s₀ a1) (e : execMbxDbPost a0 a1 = .next t) : Keeps s₀ t := by
  delta execMbxDbPost at e
  refine keep_run e ?_
  clear e
  repeat' first
    | with_reducible assumption | intro _
    | (with_reducible first | apply keep_mbxPost)

theorem keep_mbxFree {a0 a1} (h : Keeps s₀ a1) : Keeps s₀ (mbxFree a0 a1) := by
  delta mbxFree
  repeat' first
    | with_reducible assumption | intro _
    | (with_reducible first | apply keep_setMbx | apply keep_setBit | apply keep_ite)
    | split

theorem keep_execMbxDbFree {a0 a1} {t} (h : Keeps s₀ a1) (e : execMbxDbFree a0 a1 = .next t) : Keeps s₀ t := by
  delta execMbxDbFree at e
  refine keep_run e ?_
  clear e
  repeat' first
    | with_reducible assumption | intro _
    | (with_reducible first | apply keep_mbxFree)

theorem keep_mbxAnswer {a0 a1 a2 a3} (h : Keeps s₀ a3) : Keeps s₀ (mbxAnswer a0 a1 a2 a3) := by
  delta mbxAnswer
  extract_lets x0 x1 x2 x3
  have h1 : Keeps s₀ x1.2 := by
    try subst x1
    repeat' first
      | with_reducible assumption | intro _
      | (with_reducible first | apply keep_fresh | apply keep_forEach | apply keep_wr | apply keep_devEvent | apply keep_setMbx)
  have h3 : Keeps s₀ x3 := by
    try subst x3
    repeat' first
      | with_reducible assumption | intro _
      | (with_reducible first | apply keep_fresh | apply keep_forEach | apply keep_wr | apply keep_devEvent | apply keep_setMbx)
  try clear_value x3; try clear_value x2; try clear_value x1; try clear_value x0
  repeat' first
    | with_reducible assumption | intro _
    | (with_reducible first | apply keep_fresh | apply keep_forEach | apply keep_wr | apply keep_devEvent | apply keep_setMbx)

theorem keep_mbxServe {a0 a1 a2 a3} (ha2 : ∀ y0 y1, Keeps s₀ y1 → Keeps s₀ (a2 y0 y1)) (h : Keeps s₀ a3) : Keeps s₀ (mbxServe a0 a1 a2 a3) := by
  delta mbxServe
  extract_lets x0
  try clear_value x0
  repeat' first
    | with_reducible assumption | intro _
    | (with_reducible first | apply ha2 | apply keep_mbxAnswer | apply keep_touch | apply keep_ite)
    | split

theorem keep_freshBytes {a0} (h : Keeps s₀ a0) : Keeps s₀ (freshBytes a0).2 := by
  delta freshBytes
  extract_lets x0
  have h0 : Keeps s₀ x0.2 := by
    try subst x0
    repeat' first
      | with_reducible assumption | intro _
      | (with_reducible first | apply keep_fresh)
  try clear_value x0
  repeat' first
    | with_reducible assumption | intro _
    | (with_reducible first | apply keep_fresh)

theorem keep_mbxInfo {a0 a1} (h : Keeps s₀ a1) : Keeps s₀ (mbxInfo a0 a1) := by
  delta mbxInfo
  repeat' first
    | with_reducible assumption | intro _
    | (with_reducible first | apply keep_mbxServe | apply keep_freshBytes | apply keep_mbxAnswer)

theorem keep_execMbxInfo {a0 a1} {t} (h : Keeps s₀ a1) (e : execMbxInfo a0 a1 = .next t) : Keeps s₀ t := by
  delta execMbxInfo at e
  refine keep_run e ?_
  clear e
  repeat' first
    | with_reducible assumption | intro _
    | (with_reducible first | apply keep_mbxInfo)

theorem keep_modModl {a0 a1 a2} (h : Keeps s₀ a2) : Keeps s₀ (modModl a0 a1 a2) := by
  delta modModl
  extract_lets x0
  try clear_value x0
  repeat' first
    | with_reducible assumption | intro _
    | with_reducible refine keep_set ?_ ?_ ?_ ?_ ?_ ?_
    | rfl
    | assumption

theorem keep_moduleCtl {a0 a1} (h : Keeps s₀ a1) : Keeps s₀ (moduleCtl a0 a1) := by
  delta moduleCtl
  repeat' first
    | with_reducible assumption | intro _
    | (with_reducible first | apply keep_mbxServe | apply keep_fresh | apply keep_mbxAnswer | apply keep_callModule | apply keep_modModl | apply keep_ite | apply keep_ite1 | apply keep_ite2 | apply keep_ite3)
    | split

theorem keep_execModuleCtl {a0 a1} {t} (h : Keeps s₀ a1) (e : execModuleCtl a0 a1 = .next t) : Keeps s₀ t := by
  delta execModuleCtl at e
  refine keep_run e ?_
  clear e
  repeat' first
    | with_reducible assumption | intro _
    | (with_reducible first | apply keep_moduleCtl)

theorem keep_moduleMsg {a0 a1 a2} (h : Keeps s₀ a2) : Keeps s₀ (moduleMsg a0 a1 a2) := by
  delta moduleMsg
  repeat' first
    | with_reducible assumption | intro _
    | (with_reducible first | apply keep_mbxServe | apply keep_fresh | apply keep_mbxAnswer | apply keep_ite | apply keep_ite1 | apply keep_ite2 | apply keep_ite3)
    | extract_lets | split
    | refine keep_eq2 (by with_reducible assumption) ?_ | refine keep_eq1 (by with_reducible assumption) ?_

theorem keep_execModuleMsg {a0 a1 a2} {t} (h : Keeps s₀ a2) (e : execModuleMsg a0 a1 a2 = .next t) : Keeps s₀ t := by
  delta execModuleMsg at e
  refine keep_run e ?_
  clear e
  repeat' first
    | with_reducible assumption | intro _
    | (with_reducible first | apply keep_moduleMsg)

theorem keep_powerSet {a0 a1} (h : Keeps s₀ a1) : Keeps s₀ (powerSet a0 a1) := by
  delta powerSet
  repeat' first
    | with_reducible assumption | intro _
    | (with_reducible first | apply keep_mbxServe | apply keep_mbxAnswer | apply keep_forEach | apply keep_wr)

theorem keep_execPowerSet {a0 a1} {t} (h : Keeps s₀ a1) (e : execPowerSet a0 a1 = .next t) : Keeps s₀ t := by
  delta execPowerSet at e
  refine keep_run e ?_
  clear e
  repeat' first
    | with_reducible assumption | intro _
    | (with_reducible first | apply keep_powerSet)

theorem keep_fwRecord {a0 a1} (h : Keeps s₀ a1) : Keeps s₀ (fwRecord a0 a1) := by
  delta fwRecord
  repeat' first
    | with_reducible assumption | intro _
    | (with_reducible first | apply keep_mbxServe | apply keep_freshBytes | apply keep_mbxAnswer | apply keep_ite | apply keep_ite1 | apply keep_ite2 | apply keep_ite3)
    | split

theorem keep_execFwRecord {a0 a1} {t} (h : Keeps s₀ a1) (e : execFwRecord a0 a1 = .next t) : Keeps s₀ t := by
  delta execFwRecord at e
  refine keep_run e ?_
  clear e
  repeat' first
    | with_reducible assumption | intro _
    | (with_reducible first | apply keep_fwRecord)

theorem keep_threadDone {a0 a1} (h : Keeps s₀ a1) : Keeps s₀ (threadDone a0 a1) := by
  delta threadDone
  extract_lets x0
  have h0 : Keeps s₀ x0 := by
    try subst x0
    repeat' first
      | with_reducible assumption | intro _
      | (with_reducible first | apply keep_modThread | apply keep_modCc)
      | extract_lets | split
      | refine keep_eq2 (by with_reducible assumption) ?_ | refine keep_eq1 (by with_reducible assumption) ?_
      | with_reducible refine keep_set ?_ ?_ ?_ ?_ ?_ ?_
      | rfl
      | assumption
  try clear_value x0
  repeat' first
    | with_reducible assumption | intro _
    | (with_reducible first | apply keep_modThread | apply keep_modCc)
    | extract_lets | split
    | refine keep_eq2 (by with_reducible assumption) ?_ | refine keep_eq1 (by with_reducible assumption) ?_
    | with_reducible refine keep_set ?_ ?_ ?_ ?_ ?_ ?_
    | rfl
    | assumption

theorem keep_callbackFault {a0 a1 a2} (h : Keeps s₀ a2) : Keeps s₀ (callbackFault a0 a1 a2) := by
  delta callbackFault
  repeat' first
    | with_reducible assumption | intro _
    | (with_reducible first | apply keep_logC | apply keep_modModl | apply keep_threadDone | apply keep_modCc | apply keep_ite | apply keep_ite1 | apply keep_ite2 | apply keep_ite3)
    | extract_lets | split
    | refine keep_eq2 (by with_reducible assumption) ?_ | refine keep_eq1 (by with_reducible assumption) ?_
    | with_reducible refine keep_set ?_ ?_ ?_ ?_ ?_ ?_
    | rfl
    | (with_reducible first | apply memory_put | apply memory_putBytes | apply memory_filter | apply memory_delRange | apply memory_copyRange | apply memory_foldl | apply memory_setRange | apply memory_rowApply | apply memory_unitApply)
    | assumption

theorem keep_execCallbackFault {a0 a1 a2} {t} (h : Keeps s₀ a2) (e : execCallbackFault a0 a1 a2 = .next t) : Keeps s₀ t := by
  delta execCallbackFault at e
  refine keep_run e ?_
  clear e
  repeat' first
    | with_reducible assumption | intro _
    | (with_reducible first | apply keep_callbackFault)

theorem keep_admBlock {a0 a1 a2 a3} (h : Keeps s₀ a3) : Keeps s₀ (admBlock a0 a1 a2 a3) := by
  delta admBlock
  extract_lets x0 x1
  try clear_value x1; try clear_value x0
  repeat' first
    | with_reducible assumption | intro _
    | (with_reducible first | apply keep_setBit | apply keep_clrBit | apply keep_ite)
    | split

theorem keep_execAdmBlock {a0 a1 a2 a3} {t} (h : Keeps s₀ a3) (e : execAdmBlock a0 a1 a2 a3 = .next t) : Keeps s₀ t := by
  delta execAdmBlock at e
  refine keep_run e ?_
  clear e
  repeat' first
    | with_reducible assumption | intro _
    | (with_reducible first | apply keep_admBlock)

theorem keep_timerSet {a0 a1 a2 a3} (h : Keeps s₀ a3) : Keeps s₀ (timerSet a0 a1 a2 a3) := by
  delta timerSet
  extract_lets x0
  have h0 : Keeps s₀ x0 := by
    try subst x0
    repeat' first
      | with_reducible assumption | intro _
      | (with_reducible first | apply keep_modModl | apply keep_dlyIns | apply keep_ite)
      | split
  try clear_value x0
  repeat' first
    | with_reducible assumption | intro _
    | (with_reducible first | apply keep_modModl | apply keep_dlyIns | apply keep_ite)
    | split

theorem keep_execTimerSet {a0 a1 a2 a3} {t} (h : Keeps s₀ a3) (e : execTimerSet a0 a1 a2 a3 = .next t) : Keeps s₀ t := by
  delta execTimerSet at e
  refine keep_run e ?_
  clear e
  repeat' first
    | with_reducible assumption | intro _
    | (with_reducible first | apply keep_timerSet)

/-! ### NearMem -/

theorem keep_pimStatus {a0 a1} (h : Keeps s₀ a1) : Keeps s₀ (pimStatus a0 a1) := by
  delta pimStatus
  repeat' first
    | with_reducible assumption | intro _
    | (with_reducible first | apply keep_wrf)

theorem keep_pimGo {a0} (h : Keeps s₀ a0) : Keeps s₀ (pimGo a0) := by
  delta pimGo
  extract_lets x0 x1 x2 x3 x4
  have h1 : Keeps s₀ x1 := by
    try subst x1
    repeat' first
      | with_reducible assumption | intro _
      | (with_reducible first | apply keep_setBit | apply keep_wakeDom | apply keep_logC | apply keep_pimStatus | apply keep_modNmc | apply keep_ite | apply keep_ite1 | apply keep_ite2 | apply keep_ite3)
      | extract_lets | split
      | refine keep_eq2 (by with_reducible assumption) ?_ | refine keep_eq1 (by with_reducible assumption) ?_
      | with_reducible refine keep_set ?_ ?_ ?_ ?_ ?_ ?_
      | rfl
      | (with_reducible first | apply memory_put | apply memory_putBytes | apply memory_filter | apply memory_delRange | apply memory_copyRange | apply memory_foldl | apply memory_setRange | apply memory_rowApply | apply memory_unitApply)
      | assumption
  try clear_value x4; try clear_value x3; try clear_value x2; try clear_value x1; try clear_value x0
  repeat' first
    | with_reducible assumption | intro _
    | (with_reducible first | apply keep_setBit | apply keep_wakeDom | apply keep_logC | apply keep_pimStatus | apply keep_modNmc | apply keep_ite | apply keep_ite1 | apply keep_ite2 | apply keep_ite3)
    | extract_lets | split
    | refine keep_eq2 (by with_reducible assumption) ?_ | refine keep_eq1 (by with_reducible assumption) ?_
    | with_reducible refine keep_set ?_ ?_ ?_ ?_ ?_ ?_
    | rfl
    | (with_reducible first | apply memory_put | apply memory_putBytes | apply memory_filter | apply memory_delRange | apply memory_copyRange | apply memory_foldl | apply memory_setRange | apply memory_rowApply | apply memory_unitApply)
    | assumption

theorem keep_execPimCmdGo {a0} {t} (h : Keeps s₀ a0) (e : execPimCmdGo a0 = .next t) : Keeps s₀ t := by
  delta execPimCmdGo at e
  refine keep_run e ?_
  clear e
  repeat' first
    | with_reducible assumption | intro _
    | (with_reducible first | apply keep_pimGo)

theorem keep_modRun {a0 a1 a2} (h : Keeps s₀ a2) : Keeps s₀ (modRun a0 a1 a2) := by
  delta modRun
  repeat' first
    | with_reducible assumption | intro _
    | (with_reducible first | apply keep_modNmc | apply keep_ite)
    | split
    | with_reducible refine keep_set ?_ ?_ ?_ ?_ ?_ ?_
    | rfl
    | assumption

theorem keep_dropRun {a0 a1} (h : Keeps s₀ a1) : Keeps s₀ (dropRun a0 a1) := by
  delta dropRun
  repeat' first
    | with_reducible assumption | intro _
    | (with_reducible first | apply keep_modNmc)
    | with_reducible refine keep_set ?_ ?_ ?_ ?_ ?_ ?_
    | rfl
    | (with_reducible first | apply memory_put | apply memory_putBytes | apply memory_filter | apply memory_delRange | apply memory_copyRange | apply memory_foldl | apply memory_setRange | apply memory_rowApply | apply memory_unitApply)
    | assumption

theorem keep_pimStart {a0 a1} (h : Keeps s₀ a1) : Keeps s₀ (pimStart a0 a1) := by
  delta pimStart
  extract_lets x0
  try clear_value x0
  repeat' first
    | with_reducible assumption | intro _
    | (with_reducible first | apply keep_touch | apply keep_modRun | apply keep_ite | apply keep_ite1 | apply keep_ite2 | apply keep_ite3)
    | extract_lets | split
    | refine keep_eq2 (by with_reducible assumption) ?_ | refine keep_eq1 (by with_reducible assumption) ?_

theorem keep_execPimCommandStart {a0 a1} {t} (h : Keeps s₀ a1) (e : execPimCommandStart a0 a1 = .next t) : Keeps s₀ t := by
  delta execPimCommandStart at e
  refine keep_run e ?_
  clear e
  repeat' first
    | with_reducible assumption | intro _
    | (with_reducible first | apply keep_pimStart)

theorem keep_busyBegin {a0 a1} (h : Keeps s₀ a1) : Keeps s₀ (busyBegin a0 a1) := by
  delta busyBegin
  repeat' first
    | with_reducible assumption | intro _
    | (with_reducible first | apply keep_modNmc | apply keep_ite | apply keep_foldl)
    | split
    | with_reducible refine keep_set ?_ ?_ ?_ ?_ ?_ ?_
    | rfl
    | (with_reducible first | apply memory_put | apply memory_putBytes | apply memory_filter | apply memory_delRange | apply memory_copyRange | apply memory_foldl | apply memory_setRange | apply memory_rowApply | apply memory_unitApply)
    | assumption

theorem keep_busyEnd {a0 a1} (h : Keeps s₀ a1) : Keeps s₀ (busyEnd a0 a1) := by
  delta busyEnd
  repeat' first
    | with_reducible assumption | intro _
    | (with_reducible first | apply keep_forEach | apply keep_modNmc | apply keep_addWrap | apply keep_ite)
    | split
    | with_reducible refine keep_set ?_ ?_ ?_ ?_ ?_ ?_
    | rfl
    | (with_reducible first | apply memory_put | apply memory_putBytes | apply memory_filter | apply memory_delRange | apply memory_copyRange | apply memory_foldl | apply memory_setRange | apply memory_rowApply | apply memory_unitApply)
    | assumption

theorem keep_rowBegin {a0 a1 a2 a3} (ha2 : ∀ y0 y1, Keeps s₀ y1 → Keeps s₀ (a2 y0 y1)) (h : Keeps s₀ a3) : Keeps s₀ (rowBegin a0 a1 a2 a3) := by
  delta rowBegin
  repeat' first
    | with_reducible assumption | intro _
    | (with_reducible first | apply ha2 | apply keep_busyBegin | apply keep_touch | apply keep_modRun | apply keep_ite)
    | extract_lets | split
    | refine keep_eq2 (by with_reducible assumption) ?_ | refine keep_eq1 (by with_reducible assumption) ?_

theorem keep_rowEffect {a0 a1} (h : Keeps s₀ a1) : Keeps s₀ (rowEffect a0 a1) := by
  delta rowEffect
  repeat' first
    | with_reducible assumption | intro _
    | (with_reducible first | apply keep_modNmc)
    | with_reducible refine keep_set ?_ ?_ ?_ ?_ ?_ ?_
    | rfl
    | (with_reducible first | apply memory_put | apply memory_putBytes | apply memory_filter | apply memory_delRange | apply memory_copyRange | apply memory_foldl | apply memory_setRange | apply memory_rowApply | apply memory_unitApply)
    | assumption

theorem keep_execPimZero {a0 a1} {t} (h : Keeps s₀ a1) (e : execPimZero a0 a1 = .next t) : Keeps s₀ t := by
  delta execPimZero at e
  refine keep_run e ?_
  clear e
  repeat' first
    | with_reducible assumption | intro _
    | (with_reducible first | apply keep_rowBegin | apply keep_rowEffect)

theorem keep_execPimCopy {a0 a1} {t} (h : Keeps s₀ a1) (e : execPimCopy a0 a1 = .next t) : Keeps s₀ t := by
  delta execPimCopy at e
  refine keep_run e ?_
  clear e
  repeat' first
    | with_reducible assumption | intro _
    | (with_reducible first | apply keep_rowBegin | apply keep_rowEffect)

theorem keep_execPimNot {a0 a1} {t} (h : Keeps s₀ a1) (e : execPimNot a0 a1 = .next t) : Keeps s₀ t := by
  delta execPimNot at e
  refine keep_run e ?_
  clear e
  repeat' first
    | with_reducible assumption | intro _
    | (with_reducible first | apply keep_rowBegin | apply keep_rowEffect)

theorem keep_execPimAnd {a0 a1} {t} (h : Keeps s₀ a1) (e : execPimAnd a0 a1 = .next t) : Keeps s₀ t := by
  delta execPimAnd at e
  refine keep_run e ?_
  clear e
  repeat' first
    | with_reducible assumption | intro _
    | (with_reducible first | apply keep_rowBegin | apply keep_rowEffect)

theorem keep_execPimOr {a0 a1} {t} (h : Keeps s₀ a1) (e : execPimOr a0 a1 = .next t) : Keeps s₀ t := by
  delta execPimOr at e
  refine keep_run e ?_
  clear e
  repeat' first
    | with_reducible assumption | intro _
    | (with_reducible first | apply keep_rowBegin | apply keep_rowEffect)

theorem keep_execPimMaj3 {a0 a1} {t} (h : Keeps s₀ a1) (e : execPimMaj3 a0 a1 = .next t) : Keeps s₀ t := by
  delta execPimMaj3 at e
  refine keep_run e ?_
  clear e
  repeat' first
    | with_reducible assumption | intro _
    | (with_reducible first | apply keep_rowBegin | apply keep_rowEffect)

theorem keep_execPimXor {a0 a1} {t} (h : Keeps s₀ a1) (e : execPimXor a0 a1 = .next t) : Keeps s₀ t := by
  delta execPimXor at e
  refine keep_run e ?_
  clear e
  repeat' first
    | with_reducible assumption | intro _
    | (with_reducible first | apply keep_rowBegin | apply keep_rowEffect)

theorem keep_execPimXfer {a0 a1} {t} (h : Keeps s₀ a1) (e : execPimXfer a0 a1 = .next t) : Keeps s₀ t := by
  delta execPimXfer at e
  refine keep_run e ?_
  clear e
  repeat' first
    | with_reducible assumption | intro _
    | (with_reducible first | apply keep_rowBegin | apply keep_modNmc)
    | with_reducible refine keep_set ?_ ?_ ?_ ?_ ?_ ?_
    | rfl
    | (with_reducible first | apply memory_put | apply memory_putBytes | apply memory_filter | apply memory_delRange | apply memory_copyRange | apply memory_foldl | apply memory_setRange | apply memory_rowApply | apply memory_unitApply)
    | assumption

theorem keep_maskoutBegin {a0 a1} (h : Keeps s₀ a1) : Keeps s₀ (maskoutBegin a0 a1) := by
  delta maskoutBegin
  extract_lets x0
  have h0 : Keeps s₀ x0.2.2 := by
    try subst x0
    repeat' first
      | with_reducible assumption | intro _
      | (with_reducible first | apply keep_stageMask | apply keep_busyEnd | apply keep_modRun | apply keep_ite | apply keep_ite1 | apply keep_ite2 | apply keep_ite3)
      | split
  try clear_value x0
  repeat' first
    | with_reducible assumption | intro _
    | (with_reducible first | apply keep_stageMask | apply keep_busyEnd | apply keep_modRun | apply keep_ite | apply keep_ite1 | apply keep_ite2 | apply keep_ite3)
    | split

theorem keep_execPimMaskout {a0 a1} {t} (h : Keeps s₀ a1) (e : execPimMaskout a0 a1 = .next t) : Keeps s₀ t := by
  delta execPimMaskout at e
  refine keep_run e ?_
  clear e
  repeat' first
    | with_reducible assumption | intro _
    | (with_reducible first | apply keep_rowBegin | apply keep_maskoutBegin)

theorem keep_maskoutEnd {a0 a1} (h : Keeps s₀ a1) : Keeps s₀ (maskoutEnd a0 a1) := by
  delta maskoutEnd
  repeat' first
    | with_reducible assumption | intro _
    | (with_reducible first | apply keep_commitMask | apply keep_modRun | apply keep_ite | apply keep_ite1 | apply keep_ite2 | apply keep_ite3)
    | extract_lets | split
    | refine keep_eq2 (by with_reducible assumption) ?_ | refine keep_eq1 (by with_reducible assumption) ?_
    | with_reducible refine keep_set ?_ ?_ ?_ ?_ ?_ ?_
    | rfl
    | (with_reducible first | apply memory_put | apply memory_putBytes | apply memory_filter | apply memory_delRange | apply memory_copyRange | apply memory_foldl | apply memory_setRange | apply memory_rowApply | apply memory_unitApply)
    | assumption

theorem keep_pimStop {a0 a1 a2} (h : Keeps s₀ a2) : Keeps s₀ (pimStop a0 a1 a2) := by
  delta pimStop
  extract_lets x0
  have h0 : Keeps s₀ x0 := by
    try subst x0
    repeat' first
      | with_reducible assumption | intro _
      | (with_reducible first | apply keep_forEach | apply keep_wr | apply keep_dropRun | apply keep_pimStatus)
  try clear_value x0
  repeat' first
    | with_reducible assumption | intro _
    | (with_reducible first | apply keep_forEach | apply keep_wr | apply keep_dropRun | apply keep_pimStatus)

theorem keep_rowComplete {a0 a1} (h : Keeps s₀ a1) : Keeps s₀ (rowComplete a0 a1) := by
  delta rowComplete
  repeat' first
    | with_reducible assumption | intro _
    | (with_reducible first | apply keep_busyEnd | apply keep_modRun | apply keep_modNmc | apply keep_pimStop | apply keep_when_ | apply keep_wr | apply keep_maskoutEnd | apply keep_ite)
    | extract_lets | split
    | refine keep_eq2 (by with_reducible assumption) ?_ | refine keep_eq1 (by with_reducible assumption) ?_
    | with_reducible refine keep_set ?_ ?_ ?_ ?_ ?_ ?_
    | rfl
    | (with_reducible first | apply memory_put | apply memory_putBytes | apply memory_filter | apply memory_delRange | apply memory_copyRange | apply memory_foldl | apply memory_setRange | apply memory_rowApply | apply memory_unitApply)
    | assumption

theorem keep_execRowOperationComplete {a0 a1} {t} (h : Keeps s₀ a1) (e : execRowOperationComplete a0 a1 = .next t) : Keeps s₀ t := by
  delta execRowOperationComplete at e
  refine keep_run e ?_
  clear e
  repeat' first
    | with_reducible assumption | intro _
    | (with_reducible first | apply keep_rowComplete)

theorem keep_pimComplete {a0 a1} (h : Keeps s₀ a1) : Keeps s₀ (pimComplete a0 a1) := by
  delta pimComplete
  repeat' first
    | with_reducible assumption | intro _
    | (with_reducible first | apply keep_pimStatus | apply keep_addWrap | apply keep_dropRun | apply keep_when_ | apply keep_postFlag | apply keep_devEvent | apply keep_ite)
    | extract_lets | split
    | refine keep_eq2 (by with_reducible assumption) ?_ | refine keep_eq1 (by with_reducible assumption) ?_

theorem keep_execPimCommandComplete {a0 a1} {t} (h : Keeps s₀ a1) (e : execPimCommandComplete a0 a1 = .next t) : Keeps s₀ t := by
  delta execPimCommandComplete at e
  refine keep_run e ?_
  clear e
  repeat' first
    | with_reducible assumption | intro _
    | (with_reducible first | apply keep_pimComplete)

theorem keep_pimAbort {a0} (h : Keeps s₀ a0) : Keeps s₀ (pimAbort a0) := by
  delta pimAbort
  extract_lets x0
  have h0 : Keeps s₀ x0 := by
    try subst x0
    repeat' first
      | with_reducible assumption | intro _
      | (with_reducible first | apply keep_modNmc | apply keep_forEach | apply keep_modRun | apply keep_pimStop | apply keep_ite)
      | split
      | with_reducible refine keep_set ?_ ?_ ?_ ?_ ?_ ?_
      | rfl
      | (with_reducible first | apply memory_put | apply memory_putBytes | apply memory_filter | apply memory_delRange | apply memory_copyRange | apply memory_foldl | apply memory_setRange | apply memory_rowApply | apply memory_unitApply)
      | assumption
  try clear_value x0
  repeat' first
    | with_reducible assumption | intro _
    | (with_reducible first | apply keep_modNmc | apply keep_forEach | apply keep_modRun | apply keep_pimStop | apply keep_ite)
    | split
    | with_reducible refine keep_set ?_ ?_ ?_ ?_ ?_ ?_
    | rfl
    | (with_reducible first | apply memory_put | apply memory_putBytes | apply memory_filter | apply memory_delRange | apply memory_copyRange | apply memory_foldl | apply memory_setRange | apply memory_rowApply | apply memory_unitApply)
    | assumption

theorem keep_execPimCmdAbort {a0} {t} (h : Keeps s₀ a0) (e : execPimCmdAbort a0 = .next t) : Keeps s₀ t := by
  delta execPimCmdAbort at e
  refine keep_run e ?_
  clear e
  repeat' first
    | with_reducible assumption | intro _
    | (with_reducible first | apply keep_pimAbort)

theorem keep_refreshNow {a0 a1} (h : Keeps s₀ a1) : Keeps s₀ (refreshNow a0 a1) := by
  delta refreshNow
  repeat' first
    | with_reducible assumption | intro _
    | (with_reducible first | apply keep_modNmc)
    | with_reducible refine keep_set ?_ ?_ ?_ ?_ ?_ ?_
    | rfl
    | (with_reducible first | apply memory_put | apply memory_putBytes | apply memory_filter | apply memory_delRange | apply memory_copyRange | apply memory_foldl | apply memory_setRange | apply memory_rowApply | apply memory_unitApply)
    | assumption

theorem keep_refreshDue {a0 a1} (h : Keeps s₀ a1) : Keeps s₀ (refreshDue a0 a1) := by
  delta refreshDue
  extract_lets x0 x1
  try clear_value x1; try clear_value x0
  repeat' first
    | with_reducible assumption | intro _
    | (with_reducible first | apply keep_refreshNow | apply keep_modNmc | apply keep_ite | apply keep_ite1 | apply keep_ite2 | apply keep_ite3)
    | extract_lets | split
    | refine keep_eq2 (by with_reducible assumption) ?_ | refine keep_eq1 (by with_reducible assumption) ?_
    | with_reducible refine keep_set ?_ ?_ ?_ ?_ ?_ ?_
    | rfl
    | assumption

theorem keep_execRefreshDue {a0 a1} {t} (h : Keeps s₀ a1) (e : execRefreshDue a0 a1 = .next t) : Keeps s₀ t := by
  delta execRefreshDue at e
  refine keep_run e ?_
  clear e
  repeat' first
    | with_reducible assumption | intro _
    | (with_reducible first | apply keep_refreshDue)

theorem keep_frameStart {a0} (h : Keeps s₀ a0) : Keeps s₀ (frameStart a0) := by
  delta frameStart
  repeat' first
    | with_reducible assumption | intro _
    | (with_reducible first | apply keep_modNmc | apply keep_ite)
    | split
    | with_reducible refine keep_set ?_ ?_ ?_ ?_ ?_ ?_
    | rfl
    | assumption

theorem keep_execBankFrameStart {a0} {t} (h : Keeps s₀ a0) (e : execBankFrameStart a0 = .next t) : Keeps s₀ t := by
  delta execBankFrameStart at e
  refine keep_run e ?_
  clear e
  repeat' first
    | with_reducible assumption | intro _
    | (with_reducible first | apply keep_frameStart)

theorem keep_dieTemp {a0 a1 a2} (h : Keeps s₀ a2) : Keeps s₀ (dieTemp a0 a1 a2) := by
  delta dieTemp
  extract_lets x0 x1
  have h1 : Keeps s₀ x1 := by
    try subst x1
    repeat' first
      | with_reducible assumption | intro _
      | (with_reducible first | apply keep_modNmc | apply keep_when_ | apply keep_logC | apply keep_ite)
      | split
      | with_reducible refine keep_set ?_ ?_ ?_ ?_ ?_ ?_
      | rfl
      | assumption
  try clear_value x1; try clear_value x0
  repeat' first
    | with_reducible assumption | intro _
    | (with_reducible first | apply keep_modNmc | apply keep_when_ | apply keep_logC | apply keep_ite)
    | split
    | with_reducible refine keep_set ?_ ?_ ?_ ?_ ?_ ?_
    | rfl
    | assumption

theorem keep_execDieTempCross {a0 a1 a2} {t} (h : Keeps s₀ a2) (e : execDieTempCross a0 a1 a2 = .next t) : Keeps s₀ t := by
  delta execDieTempCross at e
  refine keep_run e ?_
  clear e
  repeat' first
    | with_reducible assumption | intro _
    | (with_reducible first | apply keep_dieTemp)

theorem keep_lakeAccess {a0 a1 a2 a3 a4} (h : Keeps s₀ a4) : Keeps s₀ (lakeAccess a0 a1 a2 a3 a4) := by
  delta lakeAccess
  extract_lets x0
  try clear_value x0
  repeat' first
    | with_reducible assumption | intro _
    | (with_reducible first | apply keep_lakeServe | apply keep_await | apply keep_wakeDom | apply keep_ite)
    | split

theorem keep_execLakeAccess {a0 a1 a2 a3 a4} {t} (h : Keeps s₀ a4) (e : execLakeAccess a0 a1 a2 a3 a4 = .next t) : Keeps s₀ t := by
  delta execLakeAccess at e
  refine keep_run e ?_
  clear e
  repeat' first
    | with_reducible assumption | intro _
    | (with_reducible first | apply keep_lakeAccess)

theorem keep_bar4WriteNow {a0 a1 a2} (h : Keeps s₀ a2) : Keeps s₀ (bar4WriteNow a0 a1 a2) := by
  delta bar4WriteNow
  extract_lets x0 x1 x2 x3
  have h1 : Keeps s₀ x1 := by
    try subst x1
    repeat' first
      | with_reducible assumption | intro _
      | (with_reducible first | apply keep_when_ | apply keep_setBit | apply keep_modNmc | apply keep_ite | apply keep_ite1 | apply keep_ite2 | apply keep_ite3 | apply keep_foldl | apply keep_foldl1 | apply keep_foldl2 | apply keep_foldl3)
      | split
      | with_reducible refine keep_set ?_ ?_ ?_ ?_ ?_ ?_
      | rfl
      | (with_reducible first | apply memory_put | apply memory_putBytes | apply memory_filter | apply memory_delRange | apply memory_copyRange | apply memory_foldl | apply memory_setRange | apply memory_rowApply | apply memory_unitApply)
      | assumption
  have h2 : Keeps s₀ x2 := by
    try subst x2
    repeat' first
      | with_reducible assumption | intro _
      | (with_reducible first | apply keep_when_ | apply keep_setBit | apply keep_modNmc | apply keep_ite | apply keep_ite1 | apply keep_ite2 | apply keep_ite3 | apply keep_foldl | apply keep_foldl1 | apply keep_foldl2 | apply keep_foldl3)
      | split
      | with_reducible refine keep_set ?_ ?_ ?_ ?_ ?_ ?_
      | rfl
      | (with_reducible first | apply memory_put | apply memory_putBytes | apply memory_filter | apply memory_delRange | apply memory_copyRange | apply memory_foldl | apply memory_setRange | apply memory_rowApply | apply memory_unitApply)
      | assumption
  try clear_value x2; try clear_value x1; try clear_value x0
  repeat' first
    | with_reducible assumption | intro _
    | (with_reducible first | apply keep_when_ | apply keep_setBit | apply keep_modNmc | apply keep_ite | apply keep_ite1 | apply keep_ite2 | apply keep_ite3 | apply keep_foldl | apply keep_foldl1 | apply keep_foldl2 | apply keep_foldl3)
    | split
    | with_reducible refine keep_set ?_ ?_ ?_ ?_ ?_ ?_
    | rfl
    | (with_reducible first | apply memory_put | apply memory_putBytes | apply memory_filter | apply memory_delRange | apply memory_copyRange | apply memory_foldl | apply memory_setRange | apply memory_rowApply | apply memory_unitApply)
    | assumption

theorem keep_bar4ReadNow {a0 a1 a2 a3} (h : Keeps s₀ a3) : Keeps s₀ (bar4ReadNow a0 a1 a2 a3) := by
  delta bar4ReadNow
  extract_lets x0 x1
  try clear_value x1; try clear_value x0
  repeat' first
    | with_reducible assumption | intro _
    | (with_reducible first | apply keep_emit | apply keep_forEach | apply keep_lakeEcc | apply keep_ite)
    | split

theorem keep_serveHeld {a0 a1} (h : Keeps s₀ a1) : Keeps s₀ (serveHeld a0 a1) := by
  delta serveHeld
  repeat' first
    | with_reducible assumption | intro _
    | (with_reducible first | apply keep_lakeServe | apply keep_touch | apply keep_bar4WriteNow | apply keep_bar4ReadNow)
    | extract_lets | split
    | refine keep_eq2 (by with_reducible assumption) ?_ | refine keep_eq1 (by with_reducible assumption) ?_

theorem keep_bar4Access {a0 a1 a2 a3} (h : Keeps s₀ a3) : Keeps s₀ (bar4Access a0 a1 a2 a3) := by
  delta bar4Access
  extract_lets x0 x1
  have h1 : Keeps s₀ x1 := by
    try subst x1
    repeat' first
      | with_reducible assumption | intro _
      | (with_reducible first | apply keep_await | apply keep_serveHeld | apply keep_wakeDom | apply keep_ite)
      | split
      | with_reducible refine keep_set ?_ ?_ ?_ ?_ ?_ ?_
      | rfl
      | assumption
  try clear_value x1; try clear_value x0
  repeat' first
    | with_reducible assumption | intro _
    | (with_reducible first | apply keep_await | apply keep_serveHeld | apply keep_wakeDom | apply keep_ite)
    | split
    | with_reducible refine keep_set ?_ ?_ ?_ ?_ ?_ ?_
    | rfl
    | assumption

theorem keep_execBar4Write {a0 a1 a2} {t} (h : Keeps s₀ a2) (e : execBar4Write a0 a1 a2 = .next t) : Keeps s₀ t := by
  delta execBar4Write at e
  refine keep_run e ?_
  clear e
  repeat' first
    | with_reducible assumption | intro _
    | (with_reducible first | apply keep_bar4Access)

theorem keep_execBar4Read {a0 a1 a2 a3} {t} (h : Keeps s₀ a3) (e : execBar4Read a0 a1 a2 a3 = .next t) : Keeps s₀ t := by
  delta execBar4Read at e
  refine keep_run e ?_
  clear e
  repeat' first
    | with_reducible assumption | intro _
    | (with_reducible first | apply keep_bar4Access)

theorem keep_preempt {a0 a1} (h : Keeps s₀ a1) : Keeps s₀ (preempt a0 a1) := by
  delta preempt
  extract_lets x0 x1 x2 x3
  have h2 : Keeps s₀ x2 := by
    try subst x2
    repeat' first
      | with_reducible assumption | intro _
      | (with_reducible first | apply keep_forEach | apply keep_refreshNow | apply keep_serveHeld | apply keep_modNmc | apply keep_ite | apply keep_ite1 | apply keep_ite2 | apply keep_ite3)
      | split
      | with_reducible refine keep_set ?_ ?_ ?_ ?_ ?_ ?_
      | rfl
      | (with_reducible first | apply memory_put | apply memory_putBytes | apply memory_filter | apply memory_delRange | apply memory_copyRange | apply memory_foldl | apply memory_setRange | apply memory_rowApply | apply memory_unitApply)
      | assumption
  have h3 : Keeps s₀ x3 := by
    try subst x3
    repeat' first
      | with_reducible assumption | intro _
      | (with_reducible first | apply keep_forEach | apply keep_refreshNow | apply keep_serveHeld | apply keep_modNmc | apply keep_ite | apply keep_ite1 | apply keep_ite2 | apply keep_ite3)
      | split
      | with_reducible refine keep_set ?_ ?_ ?_ ?_ ?_ ?_
      | rfl
      | (with_reducible first | apply memory_put | apply memory_putBytes | apply memory_filter | apply memory_delRange | apply memory_copyRange | apply memory_foldl | apply memory_setRange | apply memory_rowApply | apply memory_unitApply)
      | assumption
  try clear_value x3; try clear_value x2; try clear_value x1; try clear_value x0
  repeat' first
    | with_reducible assumption | intro _
    | (with_reducible first | apply keep_forEach | apply keep_refreshNow | apply keep_serveHeld | apply keep_modNmc | apply keep_ite | apply keep_ite1 | apply keep_ite2 | apply keep_ite3)
    | split
    | with_reducible refine keep_set ?_ ?_ ?_ ?_ ?_ ?_
    | rfl
    | (with_reducible first | apply memory_put | apply memory_putBytes | apply memory_filter | apply memory_delRange | apply memory_copyRange | apply memory_foldl | apply memory_setRange | apply memory_rowApply | apply memory_unitApply)
    | assumption

theorem keep_execHandshakePreempt {a0 a1} {t} (h : Keeps s₀ a1) (e : execHandshakePreempt a0 a1 = .next t) : Keeps s₀ t := by
  delta execHandshakePreempt at e
  refine keep_run e ?_
  clear e
  repeat' first
    | with_reducible assumption | intro _
    | (with_reducible first | apply keep_preempt)

/-! ### Secm -/

/-- The legal lifecycle words of the module (`LcOk`). -/
def SecmLc (m : Secm) : Prop := lcLegal m.lc ∧ ∀ p ∈ m.nvOld, lcLegal p.2.lc

theorem keep_modSecm {f : Secm → Secm} {s : State} (h : Keeps s₀ s) (hf : ∀ m, SecmLc m → SecmLc (f m)) :
    Keeps s₀ (modSecm f s) :=
  h.trans ⟨id, id, fun m => hf _ m, List.prefix_refl _, ⟨rfl, rfl, rfl⟩, Nat.le_refl _⟩

theorem keep_modSess {a0 a1 a2} (h : Keeps s₀ a2) : Keeps s₀ (modSess a0 a1 a2) := by
  delta modSess
  repeat' first
    | with_reducible assumption | intro _
    | (with_reducible first | apply keep_modSecm)
    | with_reducible refine keep_set ?_ ?_ ?_ ?_ ?_ ?_
    | rfl
    | (with_reducible first | apply memory_put | apply memory_putBytes | apply memory_filter | apply memory_delRange | apply memory_copyRange | apply memory_foldl | apply memory_setRange | apply memory_rowApply | apply memory_unitApply)
    | assumption
    | (rename_i hm; exact ⟨by simp [lcLegal], hm.2⟩)

theorem keep_secmEnd {a0 a1 a2} (h : Keeps s₀ a2) : Keeps s₀ (secmEnd a0 a1 a2) := by
  delta secmEnd
  repeat' first
    | with_reducible assumption | intro _
    | (with_reducible first | apply keep_when_ | apply keep_ccInt | apply keep_modSess)

theorem keep_secmAnswer {a0 a1 a2} (h : Keeps s₀ a2) : Keeps s₀ (secmAnswer a0 a1 a2) := by
  delta secmAnswer
  repeat' first
    | with_reducible assumption | intro _
    | (with_reducible first | apply keep_secmEnd | apply keep_modSess)

/-- A write pulse remembers the lifecycle word before it. -/
theorem keep_nvPulse {a0 a1} (ho : Keeps s₀ a0) (h : Keeps s₀ a1) : Keeps s₀ (nvPulse a0 a1) := by
  refine ⟨fun m => (h.mem m), fun m => h.log m, fun m => ⟨(h.lc m).1, ?_⟩, h.out, h.fuses, h.free⟩
  intro p hp
  rcases List.mem_append.1 hp with hp | hp
  · exact (h.lc m).2 p (List.mem_of_mem_filter hp)
  · rw [List.mem_singleton.1 hp]
    exact (ho.lc m).1

theorem keep_raiseCtr {a0 a1 a2} (h : Keeps s₀ a2) : Keeps s₀ (raiseCtr a0 a1 a2).2 := by
  delta raiseCtr
  extract_lets x0 x1
  have h1 : Keeps s₀ x1 := by
    try subst x1
    repeat' first
      | with_reducible assumption | intro _
      | (with_reducible first | apply keep_logC | apply keep_modSecm | apply keep_nvPulse | apply keep_ite | apply keep_ite1 | apply keep_ite2 | apply keep_ite3)
      | split
      | with_reducible refine keep_set ?_ ?_ ?_ ?_ ?_ ?_
      | rfl
      | (with_reducible first | apply memory_put | apply memory_putBytes | apply memory_filter | apply memory_delRange | apply memory_copyRange | apply memory_foldl | apply memory_setRange | apply memory_rowApply | apply memory_unitApply)
      | assumption
      | (rename_i hm; exact ⟨by simp [lcLegal], hm.2⟩)
  try clear_value x1; try clear_value x0
  repeat' first
    | with_reducible assumption | intro _
    | (with_reducible first | apply keep_logC | apply keep_modSecm | apply keep_nvPulse | apply keep_ite | apply keep_ite1 | apply keep_ite2 | apply keep_ite3)
    | split
    | with_reducible refine keep_set ?_ ?_ ?_ ?_ ?_ ?_
    | rfl
    | (with_reducible first | apply memory_put | apply memory_putBytes | apply memory_filter | apply memory_delRange | apply memory_copyRange | apply memory_foldl | apply memory_setRange | apply memory_rowApply | apply memory_unitApply)
    | assumption
    | (rename_i hm; exact ⟨by simp [lcLegal], hm.2⟩)

theorem keep_drbgBytes {a0 a1} (h : Keeps s₀ a1) : Keeps s₀ (drbgBytes a0 a1).2 := by
  delta drbgBytes
  repeat' first
    | with_reducible assumption | intro _
    | (with_reducible first | apply keep_modSecm)
    | with_reducible refine keep_set ?_ ?_ ?_ ?_ ?_ ?_
    | rfl
    | assumption
    | (rename_i hm; exact ⟨by simp [lcLegal], hm.2⟩)

theorem keep_reseed {a0} (h : Keeps s₀ a0) : Keeps s₀ (reseed a0) := by
  delta reseed
  repeat' first
    | with_reducible assumption | intro _
    | (with_reducible first | apply keep_modSecm)
    | with_reducible refine keep_set ?_ ?_ ?_ ?_ ?_ ?_
    | rfl
    | assumption
    | (rename_i hm; exact ⟨by simp [lcLegal], hm.2⟩)

theorem keep_execDrbgReseed {a0} {t} (h : Keeps s₀ a0) (e : execDrbgReseed a0 = .next t) : Keeps s₀ t := by
  delta execDrbgReseed at e
  refine keep_run e ?_
  clear e
  repeat' first
    | with_reducible assumption | intro _
    | (with_reducible first | apply keep_reseed | apply keep_ite)
    | split

theorem keep_execSeedPoolRefill {a0 a1} {t} (h : Keeps s₀ a1) (e : execSeedPoolRefill a0 a1 = .next t) : Keeps s₀ t := by
  delta execSeedPoolRefill at e
  refine keep_run e ?_
  clear e
  repeat' first
    | with_reducible assumption | intro _
    | (with_reducible first | apply keep_modSecm | apply keep_ite)
    | split
    | with_reducible refine keep_set ?_ ?_ ?_ ?_ ?_ ?_
    | rfl
    | assumption
    | (rename_i hm; exact ⟨by simp [lcLegal], hm.2⟩)

theorem keep_clearKeys {a0} (h : Keeps s₀ a0) : Keeps s₀ (clearKeys a0) := by
  delta clearKeys
  repeat' first
    | with_reducible assumption | intro _
    | (with_reducible first | apply keep_modSecm)
    | with_reducible refine keep_set ?_ ?_ ?_ ?_ ?_ ?_
    | rfl
    | assumption
    | (rename_i hm; exact ⟨by simp [lcLegal], hm.2⟩)

theorem keep_zeroise {a0 a1} (h : Keeps s₀ a1) : Keeps s₀ (zeroise a0 a1) := by
  delta zeroise
  extract_lets x0
  have h0 : Keeps s₀ x0 := by
    try subst x0
    repeat' first
      | with_reducible assumption | intro _
      | (with_reducible first | apply keep_logC | apply keep_clearKeys | apply keep_modSecm | apply keep_ite)
      | split
      | with_reducible refine keep_set ?_ ?_ ?_ ?_ ?_ ?_
      | rfl
      | assumption
      | (rename_i hm; exact ⟨by simp [lcLegal], hm.2⟩)
  try clear_value x0
  repeat' first
    | with_reducible assumption | intro _
    | (with_reducible first | apply keep_logC | apply keep_clearKeys | apply keep_modSecm | apply keep_ite)
    | split
    | with_reducible refine keep_set ?_ ?_ ?_ ?_ ?_ ?_
    | rfl
    | assumption
    | (rename_i hm; exact ⟨by simp [lcLegal], hm.2⟩)

theorem keep_tamperMark {a0 a1} (h : Keeps s₀ a1) : Keeps s₀ (tamperMark a0 a1) := by
  delta tamperMark
  repeat' first
    | with_reducible assumption | intro _
    | (with_reducible first | apply keep_modSecm)
    | with_reducible refine keep_set ?_ ?_ ?_ ?_ ?_ ?_
    | rfl
    | assumption
    | (rename_i hm; exact ⟨by simp [lcLegal], hm.2⟩)

theorem keep_selfTamper {a0} (h : Keeps s₀ a0) : Keeps s₀ (selfTamper a0) := by
  delta selfTamper
  repeat' first
    | with_reducible assumption | intro _
    | (with_reducible first | apply keep_takeReset | apply keep_tamperMark | apply keep_clearKeys)

theorem keep_tamperDetect {a0 a1} (h : Keeps s₀ a1) : Keeps s₀ (tamperDetect a0 a1) := by
  delta tamperDetect
  extract_lets x0
  have h0 : Keeps s₀ x0 := by
    try subst x0
    repeat' first
      | with_reducible assumption | intro _
      | (with_reducible first | apply keep_selfTamper | apply keep_when_ | apply keep_modRst | apply keep_modSecm | apply keep_zeroise | apply keep_tamperMark | apply keep_ite)
      | split
      | with_reducible refine keep_set ?_ ?_ ?_ ?_ ?_ ?_
      | rfl
      | assumption
      | (rename_i hm; exact ⟨by simp [lcLegal], hm.2⟩)
  try clear_value x0
  repeat' first
    | with_reducible assumption | intro _
    | (with_reducible first | apply keep_selfTamper | apply keep_when_ | apply keep_modRst | apply keep_modSecm | apply keep_zeroise | apply keep_tamperMark | apply keep_ite)
    | split
    | with_reducible refine keep_set ?_ ?_ ?_ ?_ ?_ ?_
    | rfl
    | assumption
    | (rename_i hm; exact ⟨by simp [lcLegal], hm.2⟩)

theorem keep_execTamperDetect {a0 a1} {t} (h : Keeps s₀ a1) (e : execTamperDetect a0 a1 = .next t) : Keeps s₀ t := by
  delta execTamperDetect at e
  refine keep_run e ?_
  clear e
  repeat' first
    | with_reducible assumption | intro _
    | (with_reducible first | apply keep_tamperDetect)

theorem keep_selftestFail {a0 a1 a2} (h : Keeps s₀ a2) : Keeps s₀ (selftestFail a0 a1 a2) := by
  delta selftestFail
  extract_lets x0
  have h0 : Keeps s₀ x0 := by
    try subst x0
    repeat' first
      | with_reducible assumption | intro _
      | (with_reducible first | apply keep_logC | apply keep_modSecm | apply keep_selfTamper | apply keep_ite)
      | split
      | with_reducible refine keep_set ?_ ?_ ?_ ?_ ?_ ?_
      | rfl
      | assumption
      | (rename_i hm; exact ⟨by simp [lcLegal], hm.2⟩)
  try clear_value x0
  repeat' first
    | with_reducible assumption | intro _
    | (with_reducible first | apply keep_logC | apply keep_modSecm | apply keep_selfTamper | apply keep_ite)
    | split
    | with_reducible refine keep_set ?_ ?_ ?_ ?_ ?_ ?_
    | rfl
    | assumption
    | (rename_i hm; exact ⟨by simp [lcLegal], hm.2⟩)

theorem keep_execSelftestFail {a0 a1 a2} {t} (h : Keeps s₀ a2) (e : execSelftestFail a0 a1 a2 = .next t) : Keeps s₀ t := by
  delta execSelftestFail at e
  refine keep_run e ?_
  clear e
  repeat' first
    | with_reducible assumption | intro _
    | (with_reducible first | apply keep_selftestFail)

theorem keep_secmCmd {a0 a1 a2 a3 a4} (ha3 : ∀ y0, Keeps s₀ y0 → Keeps s₀ (a3 y0)) (h : Keeps s₀ a4) : Keeps s₀ (secmCmd a0 a1 a2 a3 a4) := by
  delta secmCmd
  extract_lets x0 x1
  have h1 : Keeps s₀ x1 := by
    try subst x1
    repeat' first
      | with_reducible assumption | intro _
      | (with_reducible first | apply ha3 | apply keep_modSess | apply keep_secmEnd | apply keep_ite)
      | split
  try clear_value x1; try clear_value x0
  repeat' first
    | with_reducible assumption | intro _
    | (with_reducible first | apply ha3 | apply keep_modSess | apply keep_secmEnd | apply keep_ite)
    | split

theorem keep_secmStatus {a0 a1} (h : Keeps s₀ a1) : Keeps s₀ (secmStatus a0 a1) := by
  delta secmStatus
  repeat' first
    | with_reducible assumption | intro _
    | (with_reducible first | apply keep_secmCmd | apply keep_fresh | apply keep_secmAnswer | apply keep_modSecm)
    | with_reducible refine keep_set ?_ ?_ ?_ ?_ ?_ ?_
    | rfl
    | assumption
    | (rename_i hm; exact ⟨by simp [lcLegal], hm.2⟩)

theorem keep_selftest {a0 a1 a2} (h : Keeps s₀ a2) : Keeps s₀ (selftest a0 a1 a2) := by
  delta selftest
  repeat' first
    | with_reducible assumption | intro _
    | (with_reducible first | apply keep_secmCmd | apply keep_secmEnd | apply keep_logC | apply keep_selftestFail)
    | extract_lets | split
    | refine keep_eq2 (by with_reducible assumption) ?_ | refine keep_eq1 (by with_reducible assumption) ?_

theorem keep_authChallenge {a0 a1} (h : Keeps s₀ a1) : Keeps s₀ (authChallenge a0 a1) := by
  delta authChallenge
  repeat' first
    | with_reducible assumption | intro _
    | (with_reducible first | apply keep_secmCmd | apply keep_drbgBytes | apply keep_secmAnswer | apply keep_modSess)

theorem keep_authResponse {a0 a1} (h : Keeps s₀ a1) : Keeps s₀ (authResponse a0 a1) := by
  delta authResponse
  repeat' first
    | with_reducible assumption | intro _
    | (with_reducible first | apply keep_secmCmd | apply keep_modSess | apply keep_secmEnd | apply keep_logC | apply keep_modSecm | apply keep_bumpSat | apply keep_ite | apply keep_ite1 | apply keep_ite2 | apply keep_ite3)
    | split
    | with_reducible refine keep_set ?_ ?_ ?_ ?_ ?_ ?_
    | rfl
    | (with_reducible first | apply memory_put | apply memory_putBytes | apply memory_filter | apply memory_delRange | apply memory_copyRange | apply memory_foldl | apply memory_setRange | apply memory_rowApply | apply memory_unitApply)
    | assumption
    | (rename_i hm; exact ⟨by simp [lcLegal], hm.2⟩)

theorem keep_endSession {a0 a1} (h : Keeps s₀ a1) : Keeps s₀ (endSession a0 a1) := by
  delta endSession
  repeat' first
    | with_reducible assumption | intro _
    | (with_reducible first | apply keep_modSess)

theorem keep_logout {a0 a1} (h : Keeps s₀ a1) : Keeps s₀ (logout a0 a1) := by
  delta logout
  repeat' first
    | with_reducible assumption | intro _
    | (with_reducible first | apply keep_secmCmd | apply keep_secmEnd | apply keep_endSession)

theorem keep_sessionTimeout {a0 a1} (h : Keeps s₀ a1) : Keeps s₀ (sessionTimeout a0 a1) := by
  delta sessionTimeout
  repeat' first
    | with_reducible assumption | intro _
    | (with_reducible first | apply keep_endSession | apply keep_ite)
    | split

theorem keep_attest {a0 a1} (h : Keeps s₀ a1) : Keeps s₀ (attest a0 a1) := by
  delta attest
  repeat' first
    | with_reducible assumption | intro _
    | (with_reducible first | apply keep_secmCmd | apply keep_secmEnd | apply keep_secmAnswer | apply keep_modSecm | apply keep_ite)
    | split
    | with_reducible refine keep_set ?_ ?_ ?_ ?_ ?_ ?_
    | rfl
    | assumption
    | (rename_i hm; exact ⟨by simp [lcLegal], hm.2⟩)

theorem keep_random {a0 a1} (h : Keeps s₀ a1) : Keeps s₀ (random a0 a1) := by
  delta random
  repeat' first
    | with_reducible assumption | intro _
    | (with_reducible first | apply keep_secmCmd | apply keep_secmEnd | apply keep_drbgBytes | apply keep_reseed | apply keep_secmAnswer | apply keep_ite | apply keep_ite1 | apply keep_ite2 | apply keep_ite3)
    | split

theorem keep_setSlot {a0 a1 a2 a3} (h : Keeps s₀ a3) : Keeps s₀ (setSlot a0 a1 a2 a3) := by
  delta setSlot
  repeat' first
    | with_reducible assumption | intro _
    | (with_reducible first | apply keep_modSecm)
    | extract_lets | split
    | refine keep_eq2 (by with_reducible assumption) ?_ | refine keep_eq1 (by with_reducible assumption) ?_
    | with_reducible refine keep_set ?_ ?_ ?_ ?_ ?_ ?_
    | rfl
    | (with_reducible first | apply memory_put | apply memory_putBytes | apply memory_filter | apply memory_delRange | apply memory_copyRange | apply memory_foldl | apply memory_setRange | apply memory_rowApply | apply memory_unitApply)
    | assumption
    | (rename_i hm; exact ⟨by simp [lcLegal], hm.2⟩)

theorem keep_provisionSlot {a0 a1} (h : Keeps s₀ a1) : Keeps s₀ (provisionSlot a0 a1) := by
  delta provisionSlot
  repeat' first
    | with_reducible assumption | intro _
    | (with_reducible first | apply keep_secmCmd | apply keep_secmEnd | apply keep_logC | apply keep_setSlot | apply keep_modSecm | apply keep_ite)
    | extract_lets | split
    | refine keep_eq2 (by with_reducible assumption) ?_ | refine keep_eq1 (by with_reducible assumption) ?_
    | with_reducible refine keep_set ?_ ?_ ?_ ?_ ?_ ?_
    | rfl
    | assumption
    | (rename_i hm; exact ⟨by simp [lcLegal], hm.2⟩)

theorem keep_clearSlot {a0 a1} (h : Keeps s₀ a1) : Keeps s₀ (clearSlot a0 a1) := by
  delta clearSlot
  repeat' first
    | with_reducible assumption | intro _
    | (with_reducible first | apply keep_secmCmd | apply keep_secmEnd | apply keep_logC | apply keep_setSlot | apply keep_ite)
    | split

theorem keep_lcProvision {a0 a1} (h : Keeps s₀ a1) : Keeps s₀ (lcProvision a0 a1) := by
  delta lcProvision
  repeat' first
    | with_reducible assumption | intro _
    | (with_reducible first | apply keep_secmCmd | apply keep_secmEnd | apply keep_logC | apply keep_nvPulse | apply keep_modSecm | apply keep_ite | apply keep_ite1 | apply keep_ite2 | apply keep_ite3)
    | split
    | with_reducible refine keep_set ?_ ?_ ?_ ?_ ?_ ?_
    | rfl
    | assumption
    | (rename_i hm; exact ⟨by simp [lcLegal], hm.2⟩)

theorem keep_zeroiseFor {a0 a1 a2 a3} (h : Keeps s₀ a3) : Keeps s₀ (zeroiseFor a0 a1 a2 a3) := by
  delta zeroiseFor
  repeat' first
    | with_reducible assumption | intro _
    | (with_reducible first | apply keep_modSess | apply keep_modSecm | apply keep_zeroise)
    | with_reducible refine keep_set ?_ ?_ ?_ ?_ ?_ ?_
    | rfl
    | assumption
    | (rename_i hm; exact ⟨by simp [lcLegal], hm.2⟩)

theorem keep_lcAdvance {a0 a1} (h : Keeps s₀ a1) : Keeps s₀ (lcAdvance a0 a1) := by
  delta lcAdvance
  repeat' first
    | with_reducible assumption | intro _
    | (with_reducible first | apply keep_secmCmd | apply keep_secmEnd | apply keep_logC | apply keep_nvPulse | apply keep_modSecm | apply keep_zeroiseFor | apply keep_ite)
    | split
    | with_reducible refine keep_set ?_ ?_ ?_ ?_ ?_ ?_
    | rfl
    | assumption
    | (rename_i hm; exact ⟨by simp [lcLegal], hm.2⟩)

theorem keep_ctrRaise {a0 a1} (h : Keeps s₀ a1) : Keeps s₀ (ctrRaise a0 a1) := by
  delta ctrRaise
  repeat' first
    | with_reducible assumption | intro _
    | (with_reducible first | apply keep_secmCmd | apply keep_secmEnd | apply keep_raiseCtr | apply keep_ite | apply keep_ite1 | apply keep_ite2 | apply keep_ite3)
    | split

theorem keep_openDebug {a0} (h : Keeps s₀ a0) : Keeps s₀ (openDebug a0) := by
  delta openDebug
  repeat' first
    | with_reducible assumption | intro _
    | (with_reducible first | apply keep_logC | apply keep_modSecm)
    | with_reducible refine keep_set ?_ ?_ ?_ ?_ ?_ ?_
    | rfl
    | assumption
    | (rename_i hm; exact ⟨by simp [lcLegal], hm.2⟩)

theorem keep_debugUnlock {a0 a1} (h : Keeps s₀ a1) : Keeps s₀ (debugUnlock a0 a1) := by
  delta debugUnlock
  repeat' first
    | with_reducible assumption | intro _
    | (with_reducible first | apply keep_secmCmd | apply keep_zeroiseFor | apply keep_secmEnd | apply keep_openDebug | apply keep_ite)
    | split

theorem keep_zeroiseCmd {a0 a1} (h : Keeps s₀ a1) : Keeps s₀ (zeroiseCmd a0 a1) := by
  delta zeroiseCmd
  repeat' first
    | with_reducible assumption | intro _
    | (with_reducible first | apply keep_secmCmd | apply keep_zeroiseFor)

theorem keep_runKept {a0 a1} (h : Keeps s₀ a1) : Keeps s₀ (runKept a0 a1) := by
  delta runKept
  extract_lets x0
  have h0 : Keeps s₀ x0 := by
    try subst x0
    repeat' first
      | with_reducible assumption | intro _
      | (with_reducible first | apply keep_modSess | apply keep_secmStatus | apply keep_selftest | apply keep_authChallenge | apply keep_authResponse | apply keep_logout | apply keep_attest | apply keep_random | apply keep_provisionSlot | apply keep_clearSlot | apply keep_lcProvision | apply keep_lcAdvance | apply keep_ctrRaise | apply keep_debugUnlock | apply keep_zeroiseCmd)
      | extract_lets | split
      | refine keep_eq2 (by with_reducible assumption) ?_ | refine keep_eq1 (by with_reducible assumption) ?_
  try clear_value x0
  repeat' first
    | with_reducible assumption | intro _
    | (with_reducible first | apply keep_modSess | apply keep_secmStatus | apply keep_selftest | apply keep_authChallenge | apply keep_authResponse | apply keep_logout | apply keep_attest | apply keep_random | apply keep_provisionSlot | apply keep_clearSlot | apply keep_lcProvision | apply keep_lcAdvance | apply keep_ctrRaise | apply keep_debugUnlock | apply keep_zeroiseCmd)
    | extract_lets | split
    | refine keep_eq2 (by with_reducible assumption) ?_ | refine keep_eq1 (by with_reducible assumption) ?_

theorem keep_afterErase {o : Option (Nat × Nat)} {s} (h : Keeps s₀ s) : Keeps s₀ (match o with
    | some (2, c) => secmEnd c 0 (logC 0x1408 [0xF] (nvPulse s (modSecm (fun m => { m with lc := 0xF, hukGone := true }) s)))
    | some (3, c) => secmEnd c 0 (openDebug s)
    | some (_, c) => secmEnd c 0 s
    | none => s) := by
  have h15 : Keeps s₀ (modSecm (fun m => { m with lc := 0xF, hukGone := true }) s) :=
    keep_modSecm h (fun m hm => ⟨by simp [lcLegal], hm.2⟩)
  split
  · exact keep_secmEnd (keep_logC (keep_nvPulse h h15))
  · exact keep_secmEnd (keep_openDebug h)
  · exact keep_secmEnd h
  · exact h

theorem keep_eraseComplete {a0} (h : Keeps s₀ a0) : Keeps s₀ (eraseComplete a0) := by
  delta eraseComplete
  extract_lets x0 x1 x2
  have h1 : Keeps s₀ x1 := keep_modSecm h (fun m hm => hm)
  have h2 : Keeps s₀ x2 := keep_afterErase h1
  clear_value x2
  clear h1
  clear_value x1
  repeat' first
    | with_reducible assumption | intro _
    | (with_reducible first | apply keep_modSecm | apply keep_takeHeld | apply keep_takeReset | apply keep_runKept | apply keep_modRst | apply keep_ite)
    | extract_lets | split | assumption

theorem keep_execZeroiseEraseComplete {a0} {t} (h : Keeps s₀ a0) (e : execZeroiseEraseComplete a0 = .next t) : Keeps s₀ t := by
  delta execZeroiseEraseComplete at e
  refine keep_run e ?_
  clear e
  repeat' first
    | with_reducible assumption | intro _
    | (with_reducible first | apply keep_eraseComplete)

theorem keep_execSecmStatus {a0 a1} {t} (h : Keeps s₀ a1) (e : execSecmStatus a0 a1 = .next t) : Keeps s₀ t := by
  delta execSecmStatus at e
  refine keep_run e ?_
  clear e
  repeat' first
    | with_reducible assumption | intro _
    | (with_reducible first | apply keep_secmStatus)

theorem keep_execSelftest {a0 a1 a2} {t} (h : Keeps s₀ a2) (e : execSelftest a0 a1 a2 = .next t) : Keeps s₀ t := by
  delta execSelftest at e
  refine keep_run e ?_
  clear e
  repeat' first
    | with_reducible assumption | intro _
    | (with_reducible first | apply keep_selftest)

theorem keep_execAuthChallenge {a0 a1} {t} (h : Keeps s₀ a1) (e : execAuthChallenge a0 a1 = .next t) : Keeps s₀ t := by
  delta execAuthChallenge at e
  refine keep_run e ?_
  clear e
  repeat' first
    | with_reducible assumption | intro _
    | (with_reducible first | apply keep_authChallenge)

theorem keep_execAuthResponse {a0 a1} {t} (h : Keeps s₀ a1) (e : execAuthResponse a0 a1 = .next t) : Keeps s₀ t := by
  delta execAuthResponse at e
  refine keep_run e ?_
  clear e
  repeat' first
    | with_reducible assumption | intro _
    | (with_reducible first | apply keep_authResponse)

theorem keep_execLogout {a0 a1} {t} (h : Keeps s₀ a1) (e : execLogout a0 a1 = .next t) : Keeps s₀ t := by
  delta execLogout at e
  refine keep_run e ?_
  clear e
  repeat' first
    | with_reducible assumption | intro _
    | (with_reducible first | apply keep_logout)

theorem keep_execSessionTimeout {a0 a1} {t} (h : Keeps s₀ a1) (e : execSessionTimeout a0 a1 = .next t) : Keeps s₀ t := by
  delta execSessionTimeout at e
  refine keep_run e ?_
  clear e
  repeat' first
    | with_reducible assumption | intro _
    | (with_reducible first | apply keep_sessionTimeout)

theorem keep_execAttest {a0 a1} {t} (h : Keeps s₀ a1) (e : execAttest a0 a1 = .next t) : Keeps s₀ t := by
  delta execAttest at e
  refine keep_run e ?_
  clear e
  repeat' first
    | with_reducible assumption | intro _
    | (with_reducible first | apply keep_attest)

theorem keep_execRandom {a0 a1} {t} (h : Keeps s₀ a1) (e : execRandom a0 a1 = .next t) : Keeps s₀ t := by
  delta execRandom at e
  refine keep_run e ?_
  clear e
  repeat' first
    | with_reducible assumption | intro _
    | (with_reducible first | apply keep_random)

theorem keep_execProvisionSlot {a0 a1} {t} (h : Keeps s₀ a1) (e : execProvisionSlot a0 a1 = .next t) : Keeps s₀ t := by
  delta execProvisionSlot at e
  refine keep_run e ?_
  clear e
  repeat' first
    | with_reducible assumption | intro _
    | (with_reducible first | apply keep_provisionSlot)

theorem keep_execClearSlot {a0 a1} {t} (h : Keeps s₀ a1) (e : execClearSlot a0 a1 = .next t) : Keeps s₀ t := by
  delta execClearSlot at e
  refine keep_run e ?_
  clear e
  repeat' first
    | with_reducible assumption | intro _
    | (with_reducible first | apply keep_clearSlot)

theorem keep_execLcProvision {a0 a1} {t} (h : Keeps s₀ a1) (e : execLcProvision a0 a1 = .next t) : Keeps s₀ t := by
  delta execLcProvision at e
  refine keep_run e ?_
  clear e
  repeat' first
    | with_reducible assumption | intro _
    | (with_reducible first | apply keep_lcProvision)

theorem keep_execLcAdvance {a0 a1} {t} (h : Keeps s₀ a1) (e : execLcAdvance a0 a1 = .next t) : Keeps s₀ t := by
  delta execLcAdvance at e
  refine keep_run e ?_
  clear e
  repeat' first
    | with_reducible assumption | intro _
    | (with_reducible first | apply keep_lcAdvance)

theorem keep_execCtrRaise {a0 a1} {t} (h : Keeps s₀ a1) (e : execCtrRaise a0 a1 = .next t) : Keeps s₀ t := by
  delta execCtrRaise at e
  refine keep_run e ?_
  clear e
  repeat' first
    | with_reducible assumption | intro _
    | (with_reducible first | apply keep_ctrRaise)

theorem keep_execDebugUnlock {a0 a1} {t} (h : Keeps s₀ a1) (e : execDebugUnlock a0 a1 = .next t) : Keeps s₀ t := by
  delta execDebugUnlock at e
  refine keep_run e ?_
  clear e
  repeat' first
    | with_reducible assumption | intro _
    | (with_reducible first | apply keep_debugUnlock)

theorem keep_execZeroise {a0 a1} {t} (h : Keeps s₀ a1) (e : execZeroise a0 a1 = .next t) : Keeps s₀ t := by
  delta execZeroise at e
  refine keep_run e ?_
  clear e
  repeat' first
    | with_reducible assumption | intro _
    | (with_reducible first | apply keep_zeroiseCmd)

/-! ### Image -/

theorem keep_modImg {a0 a1} (h : Keeps s₀ a1) : Keeps s₀ (modImg a0 a1) := by
  delta modImg
  repeat' first
    | with_reducible assumption | intro _
    | with_reducible refine keep_set ?_ ?_ ?_ ?_ ?_ ?_
    | rfl
    | assumption

theorem keep_setLoader {a0 a1} (h : Keeps s₀ a1) : Keeps s₀ (setLoader a0 a1) := by
  delta setLoader
  repeat' first
    | with_reducible assumption | intro _
    | (with_reducible first | apply keep_ccInt | apply keep_devEvent | apply keep_modImg)

theorem keep_beginDrain {a0 a1} (h : Keeps s₀ a1) : Keeps s₀ (beginDrain a0 a1) := by
  delta beginDrain
  extract_lets x0 x1 x2 x3
  have h2 : Keeps s₀ x2 := by
    try subst x2
    repeat' first
      | with_reducible assumption | intro _
      | (with_reducible first | apply keep_dlyIns | apply keep_modImg | apply keep_forEach | apply keep_refuseReq | apply keep_dropTimers)
  try clear_value x3; try clear_value x2; try clear_value x1; try clear_value x0
  repeat' first
    | with_reducible assumption | intro _
    | (with_reducible first | apply keep_dlyIns | apply keep_modImg | apply keep_forEach | apply keep_refuseReq | apply keep_dropTimers)

theorem keep_endDrain {a0 a1} (h : Keeps s₀ a1) : Keeps s₀ (endDrain a0 a1) := by
  delta endDrain
  extract_lets x0
  have h0 : Keeps s₀ x0 := by
    try subst x0
    repeat' first
      | with_reducible assumption | intro _
      | (with_reducible first | apply keep_modImg | apply keep_when_ | apply keep_clrBit)
  try clear_value x0
  repeat' first
    | with_reducible assumption | intro _
    | (with_reducible first | apply keep_modImg | apply keep_when_ | apply keep_clrBit)

theorem keep_liftDrains {a0} (h : Keeps s₀ a0) : Keeps s₀ (liftDrains a0) := by
  delta liftDrains
  extract_lets x0
  try clear_value x0
  repeat' first
    | with_reducible assumption | intro _
    | (with_reducible first | apply keep_forEach | apply keep_endDrain | apply keep_modImg)

theorem keep_dropForced {a0 a1} (h : Keeps s₀ a1) : Keeps s₀ (dropForced a0 a1) := by
  delta dropForced
  extract_lets x0 x1 x2 x3 x4 x5 x6 x7
  have h2 : Keeps s₀ x2 := by
    try subst x2
    repeat' first
      | with_reducible assumption | intro _
      | (with_reducible first | apply keep_orderShadow | apply keep_finishPend | apply keep_finishOpen | apply keep_forEach | apply keep_modFree | apply keep_releasePages | apply keep_modEnt | apply keep_modSide | apply keep_dropTimers | apply keep_dlyIns | apply keep_orphan | apply keep_endReq | apply keep_maskReq | apply keep_toDraining | apply keep_toClosing | apply keep_ite | apply keep_ite1 | apply keep_ite2 | apply keep_ite3)
      | split
  have h3 : Keeps s₀ x3 := by
    try subst x3
    repeat' first
      | with_reducible assumption | intro _
      | (with_reducible first | apply keep_orderShadow | apply keep_finishPend | apply keep_finishOpen | apply keep_forEach | apply keep_modFree | apply keep_releasePages | apply keep_modEnt | apply keep_modSide | apply keep_dropTimers | apply keep_dlyIns | apply keep_orphan | apply keep_endReq | apply keep_maskReq | apply keep_toDraining | apply keep_toClosing | apply keep_ite | apply keep_ite1 | apply keep_ite2 | apply keep_ite3)
      | split
  have h4 : Keeps s₀ x4 := by
    try subst x4
    repeat' first
      | with_reducible assumption | intro _
      | (with_reducible first | apply keep_orderShadow | apply keep_finishPend | apply keep_finishOpen | apply keep_forEach | apply keep_modFree | apply keep_releasePages | apply keep_modEnt | apply keep_modSide | apply keep_dropTimers | apply keep_dlyIns | apply keep_orphan | apply keep_endReq | apply keep_maskReq | apply keep_toDraining | apply keep_toClosing | apply keep_ite | apply keep_ite1 | apply keep_ite2 | apply keep_ite3)
      | split
  have h5 : Keeps s₀ x5 := by
    try subst x5
    repeat' first
      | with_reducible assumption | intro _
      | (with_reducible first | apply keep_orderShadow | apply keep_finishPend | apply keep_finishOpen | apply keep_forEach | apply keep_modFree | apply keep_releasePages | apply keep_modEnt | apply keep_modSide | apply keep_dropTimers | apply keep_dlyIns | apply keep_orphan | apply keep_endReq | apply keep_maskReq | apply keep_toDraining | apply keep_toClosing | apply keep_ite | apply keep_ite1 | apply keep_ite2 | apply keep_ite3)
      | split
  have h6 : Keeps s₀ x6 := by
    try subst x6
    repeat' first
      | with_reducible assumption | intro _
      | (with_reducible first | apply keep_orderShadow | apply keep_finishPend | apply keep_finishOpen | apply keep_forEach | apply keep_modFree | apply keep_releasePages | apply keep_modEnt | apply keep_modSide | apply keep_dropTimers | apply keep_dlyIns | apply keep_orphan | apply keep_endReq | apply keep_maskReq | apply keep_toDraining | apply keep_toClosing | apply keep_ite | apply keep_ite1 | apply keep_ite2 | apply keep_ite3)
      | split
  have h7 : Keeps s₀ x7 := by
    try subst x7
    repeat' first
      | with_reducible assumption | intro _
      | (with_reducible first | apply keep_orderShadow | apply keep_finishPend | apply keep_finishOpen | apply keep_forEach | apply keep_modFree | apply keep_releasePages | apply keep_modEnt | apply keep_modSide | apply keep_dropTimers | apply keep_dlyIns | apply keep_orphan | apply keep_endReq | apply keep_maskReq | apply keep_toDraining | apply keep_toClosing | apply keep_ite | apply keep_ite1 | apply keep_ite2 | apply keep_ite3)
      | split
  try clear_value x7; try clear_value x6; try clear_value x5; try clear_value x4; try clear_value x3; try clear_value x2; try clear_value x1; try clear_value x0
  repeat' first
    | with_reducible assumption | intro _
    | (with_reducible first | apply keep_orderShadow | apply keep_finishPend | apply keep_finishOpen | apply keep_forEach | apply keep_modFree | apply keep_releasePages | apply keep_modEnt | apply keep_modSide | apply keep_dropTimers | apply keep_dlyIns | apply keep_orphan | apply keep_endReq | apply keep_maskReq | apply keep_toDraining | apply keep_toClosing | apply keep_ite | apply keep_ite1 | apply keep_ite2 | apply keep_ite3)
    | split

theorem keep_drainDue {a0 a1} (h : Keeps s₀ a1) : Keeps s₀ (drainDue a0 a1) := by
  delta drainDue
  extract_lets x0 x1 x2
  try clear_value x2; try clear_value x0
  repeat' first
    | with_reducible assumption | intro _
    | (with_reducible first | apply keep_logEv | apply keep_forEach | apply keep_dropForced | apply keep_ite | apply keep_ite1 | apply keep_ite2 | apply keep_ite3)
    | split

theorem keep_execDrain {a0} {t} (h : Keeps s₀ a0) (e : execDrain a0 = .next t) : Keeps s₀ t := by
  delta execDrain at e
  refine keep_run e ?_
  clear e
  repeat' first
    | with_reducible assumption | intro _
    | (with_reducible first | apply keep_fire | apply keep_drainDue | apply keep_ite)
    | split

theorem keep_imgDrainWrite {a0 a1} (h : Keeps s₀ a1) : Keeps s₀ (imgDrainWrite a0 a1) := by
  delta imgDrainWrite
  extract_lets x0 x1 x2
  have h1 : Keeps s₀ x1 := by
    try subst x1
    repeat' first
      | with_reducible assumption | intro _
      | (with_reducible first | apply keep_wr | apply keep_forEach | apply keep_endDrain | apply keep_beginDrain)
  have h2 : Keeps s₀ x2 := by
    try subst x2
    repeat' first
      | with_reducible assumption | intro _
      | (with_reducible first | apply keep_wr | apply keep_forEach | apply keep_endDrain | apply keep_beginDrain)
  try clear_value x2; try clear_value x1; try clear_value x0
  repeat' first
    | with_reducible assumption | intro _
    | (with_reducible first | apply keep_wr | apply keep_forEach | apply keep_endDrain | apply keep_beginDrain)

theorem keep_execImgDrainWrite {a0 a1} {t} (h : Keeps s₀ a1) (e : execImgDrainWrite a0 a1 = .next t) : Keeps s₀ t := by
  delta execImgDrainWrite at e
  refine keep_run e ?_
  clear e
  repeat' first
    | with_reducible assumption | intro _
    | (with_reducible first | apply keep_imgDrainWrite)

theorem keep_enterFailed {a0 a1} (h : Keeps s₀ a1) : Keeps s₀ (enterFailed a0 a1) := by
  delta enterFailed
  extract_lets x0 x1
  have h0 : Keeps s₀ x0 := by
    try subst x0
    repeat' first
      | with_reducible assumption | intro _
      | (with_reducible first | apply keep_wr | apply keep_logC | apply keep_liftDrains | apply keep_modSecm | apply keep_setLoader | apply keep_modImg)
      | with_reducible refine keep_set ?_ ?_ ?_ ?_ ?_ ?_
      | rfl
      | assumption
  have h1 : Keeps s₀ x1 := by
    try subst x1
    repeat' first
      | with_reducible assumption | intro _
      | (with_reducible first | apply keep_wr | apply keep_logC | apply keep_liftDrains | apply keep_modSecm | apply keep_setLoader | apply keep_modImg)
      | with_reducible refine keep_set ?_ ?_ ?_ ?_ ?_ ?_
      | rfl
      | assumption
  try clear_value x1; try clear_value x0
  repeat' first
    | with_reducible assumption | intro _
    | (with_reducible first | apply keep_wr | apply keep_logC | apply keep_liftDrains | apply keep_modSecm | apply keep_setLoader | apply keep_modImg)
    | with_reducible refine keep_set ?_ ?_ ?_ ?_ ?_ ?_
    | rfl
    | assumption

theorem keep_abortOwn {a0 a1} (h : Keeps s₀ a1) : Keeps s₀ (abortOwn a0 a1) := by
  delta abortOwn
  extract_lets x0
  try clear_value x0
  repeat' first
    | with_reducible assumption | intro _
    | (with_reducible first | apply keep_enterFailed | apply keep_ite | apply keep_ite1 | apply keep_ite2 | apply keep_ite3)
    | split

theorem keep_execImgAbort {a0 a1} {t} (h : Keeps s₀ a1) (e : execImgAbort a0 a1 = .next t) : Keeps s₀ t := by
  delta execImgAbort at e
  refine keep_run e ?_
  clear e
  repeat' first
    | with_reducible assumption | intro _
    | (with_reducible first | apply keep_abortOwn)

theorem keep_toAllChips {a0 a1 a2 a3} (h : Keeps s₀ a3) : Keeps s₀ (toAllChips a0 a1 a2 a3) := by
  delta toAllChips
  repeat' first
    | with_reducible assumption | intro _
    | (with_reducible first | apply keep_forEach | apply keep_ctlToChip)

theorem keep_abortBundle {a0 a1} (h : Keeps s₀ a1) : Keeps s₀ (abortBundle a0 a1) := by
  delta abortBundle
  extract_lets x0
  have h0 : Keeps s₀ x0 := by
    try subst x0
    repeat' first
      | with_reducible assumption | intro _
      | (with_reducible first | apply keep_modImg | apply keep_abortOwn | apply keep_toAllChips)
  try clear_value x0
  repeat' first
    | with_reducible assumption | intro _
    | (with_reducible first | apply keep_modImg | apply keep_abortOwn | apply keep_toAllChips)

theorem keep_armBundle {a0 a1} (h : Keeps s₀ a1) : Keeps s₀ (armBundle a0 a1) := by
  delta armBundle
  extract_lets x0 x1 x2
  have h2 : Keeps s₀ x2 := by
    try subst x2
    repeat' first
      | with_reducible assumption | intro _
      | (with_reducible first | apply keep_toAllChips | apply keep_modImg | apply keep_ite)
      | split
  try clear_value x2; try clear_value x1; try clear_value x0
  repeat' first
    | with_reducible assumption | intro _
    | (with_reducible first | apply keep_toAllChips | apply keep_modImg | apply keep_ite)
    | split

theorem keep_takeReport {a0 a1 a2 a3} (h : Keeps s₀ a3) : Keeps s₀ (takeReport a0 a1 a2 a3) := by
  delta takeReport
  extract_lets x0 x1 x2 x3 x4
  have h2 : Keeps s₀ x2.2 := by
    try subst x2
    repeat' first
      | with_reducible assumption | intro _
      | (with_reducible first | apply keep_fresh | apply keep_modImg | apply keep_abortBundle | apply keep_armBundle | apply keep_ite | apply keep_ite1 | apply keep_ite2 | apply keep_ite3)
      | split
  have h3 : Keeps s₀ x3 := by
    try subst x3
    repeat' first
      | with_reducible assumption | intro _
      | (with_reducible first | apply keep_fresh | apply keep_modImg | apply keep_abortBundle | apply keep_armBundle | apply keep_ite | apply keep_ite1 | apply keep_ite2 | apply keep_ite3)
      | split
  have h4 : Keeps s₀ x4 := by
    try subst x4
    repeat' first
      | with_reducible assumption | intro _
      | (with_reducible first | apply keep_fresh | apply keep_modImg | apply keep_abortBundle | apply keep_armBundle | apply keep_ite | apply keep_ite1 | apply keep_ite2 | apply keep_ite3)
      | split
  try clear_value x4; try clear_value x3; try clear_value x2; try clear_value x1; try clear_value x0
  repeat' first
    | with_reducible assumption | intro _
    | (with_reducible first | apply keep_fresh | apply keep_modImg | apply keep_abortBundle | apply keep_armBundle | apply keep_ite | apply keep_ite1 | apply keep_ite2 | apply keep_ite3)
    | split

theorem keep_imgReport {a0 a1} (h : Keeps s₀ a1) : Keeps s₀ (imgReport a0 a1) := by
  delta imgReport
  extract_lets x0
  try clear_value x0
  repeat' first
    | with_reducible assumption | intro _
    | (with_reducible first | apply keep_takeReport | apply keep_ite)
    | split

theorem keep_execImgReport {a0 a1} {t} (h : Keeps s₀ a1) (e : execImgReport a0 a1 = .next t) : Keeps s₀ t := by
  delta execImgReport at e
  refine keep_run e ?_
  clear e
  repeat' first
    | with_reducible assumption | intro _
    | (with_reducible first | apply keep_imgReport)

theorem keep_memberReport {a0 a1 a2} (h : Keeps s₀ a2) : Keeps s₀ (memberReport a0 a1 a2) := by
  delta memberReport
  extract_lets x0
  try clear_value x0
  repeat' first
    | with_reducible assumption | intro _
    | (with_reducible first | apply keep_takeReport | apply keep_ctlUp | apply keep_ite)
    | split

theorem keep_imgFail {a0 a1} (h : Keeps s₀ a1) : Keeps s₀ (imgFail a0 a1) := by
  delta imgFail
  extract_lets x0 x1
  have h1 : Keeps s₀ x1 := by
    try subst x1
    repeat' first
      | with_reducible assumption | intro _
      | (with_reducible first | apply keep_memberReport | apply keep_enterFailed | apply keep_takeReset | apply keep_ite | apply keep_ite1 | apply keep_ite2 | apply keep_ite3)
      | split
  try clear_value x1; try clear_value x0
  repeat' first
    | with_reducible assumption | intro _
    | (with_reducible first | apply keep_memberReport | apply keep_enterFailed | apply keep_takeReset | apply keep_ite | apply keep_ite1 | apply keep_ite2 | apply keep_ite3)
    | split

theorem keep_imgCtlAbort {a0} (h : Keeps s₀ a0) : Keeps s₀ (imgCtlAbort a0) := by
  delta imgCtlAbort
  repeat' first
    | with_reducible assumption | intro _
    | (with_reducible first | apply keep_memberReport | apply keep_enterFailed | apply keep_ite | apply keep_ite1 | apply keep_ite2 | apply keep_ite3)
    | split

theorem keep_execImgCtlAbort {a0} {t} (h : Keeps s₀ a0) (e : execImgCtlAbort a0 = .next t) : Keeps s₀ t := by
  delta execImgCtlAbort at e
  refine keep_run e ?_
  clear e
  repeat' first
    | with_reducible assumption | intro _
    | (with_reducible first | apply keep_imgCtlAbort)

theorem keep_bundleTimeout {a0} (h : Keeps s₀ a0) : Keeps s₀ (bundleTimeout a0) := by
  delta bundleTimeout
  extract_lets x0
  try clear_value x0
  repeat' first
    | with_reducible assumption | intro _
    | (with_reducible first | apply keep_abortBundle | apply keep_ite)
    | extract_lets | split
    | refine keep_eq2 (by with_reducible assumption) ?_ | refine keep_eq1 (by with_reducible assumption) ?_

theorem keep_execBundleTimeout {a0} {t} (h : Keeps s₀ a0) (e : execBundleTimeout a0 = .next t) : Keeps s₀ t := by
  delta execBundleTimeout at e
  refine keep_run e ?_
  clear e
  repeat' first
    | with_reducible assumption | intro _
    | (with_reducible first | apply keep_bundleTimeout)

theorem keep_beginFetch {a0 a1 a2} (h : Keeps s₀ a2) : Keeps s₀ (beginFetch a0 a1 a2) := by
  delta beginFetch
  extract_lets x0
  try clear_value x0
  repeat' first
    | with_reducible assumption | intro _
    | (with_reducible first | apply keep_setLoader | apply keep_wr)
    | with_reducible refine keep_set ?_ ?_ ?_ ?_ ?_ ?_
    | rfl
    | assumption

theorem keep_imgStart {a0 a1} (h : Keeps s₀ a1) : Keeps s₀ (imgStart a0 a1) := by
  delta imgStart
  extract_lets x0
  have h0 : Keeps s₀ x0 := by
    try subst x0
    repeat' first
      | with_reducible assumption | intro _
      | (with_reducible first | apply keep_wrf | apply keep_logC | apply keep_beginFetch | apply keep_ite)
      | split
  try clear_value x0
  repeat' first
    | with_reducible assumption | intro _
    | (with_reducible first | apply keep_wrf | apply keep_logC | apply keep_beginFetch | apply keep_ite)
    | split

theorem keep_execImgStart {a0 a1} {t} (h : Keeps s₀ a1) (e : execImgStart a0 a1 = .next t) : Keeps s₀ t := by
  delta execImgStart at e
  refine keep_run e ?_
  clear e
  repeat' first
    | with_reducible assumption | intro _
    | (with_reducible first | apply keep_imgStart)

theorem keep_stagePlain {a0 a1} (h : Keeps s₀ a1) : Keeps s₀ (stagePlain a0 a1) := by
  delta stagePlain
  refine keep_modNmc h fun m hm => ?_
  refine memory_foldl (fun l x hl => ?_) hm
  show Memory.wf (if x.1.encrypted then _ else l) = true
  split
  · exact memory_foldl (fun _ _ hk => memory_setRange hk _ _) hl
  · exact hl

theorem keep_ownFrame {a0 a1} (h : Keeps s₀ a1) : Keeps s₀ (ownFrame a0 a1) := by
  delta ownFrame
  extract_lets x0 x1 x2 x3 x4 x5
  have h2 : Keeps s₀ x2 := by
    try subst x2
    repeat' first
      | with_reducible assumption | intro _
      | (with_reducible first | apply keep_modImg | apply keep_imgFail | apply keep_when_ | apply keep_modSecm | apply keep_wr | apply keep_stagePlain | apply keep_ite | apply keep_ite1 | apply keep_ite2 | apply keep_ite3)
      | extract_lets | split
      | refine keep_eq2 (by with_reducible assumption) ?_ | refine keep_eq1 (by with_reducible assumption) ?_
      | with_reducible refine keep_set ?_ ?_ ?_ ?_ ?_ ?_
      | rfl
      | assumption
  have h3 : Keeps s₀ x3 := by
    try subst x3
    repeat' first
      | with_reducible assumption | intro _
      | (with_reducible first | apply keep_modImg | apply keep_imgFail | apply keep_when_ | apply keep_modSecm | apply keep_wr | apply keep_stagePlain | apply keep_ite | apply keep_ite1 | apply keep_ite2 | apply keep_ite3)
      | extract_lets | split
      | refine keep_eq2 (by with_reducible assumption) ?_ | refine keep_eq1 (by with_reducible assumption) ?_
      | with_reducible refine keep_set ?_ ?_ ?_ ?_ ?_ ?_
      | rfl
      | assumption
  have h4 : Keeps s₀ x4 := by
    try subst x4
    repeat' first
      | with_reducible assumption | intro _
      | (with_reducible first | apply keep_modImg | apply keep_imgFail | apply keep_when_ | apply keep_modSecm | apply keep_wr | apply keep_stagePlain | apply keep_ite | apply keep_ite1 | apply keep_ite2 | apply keep_ite3)
      | extract_lets | split
      | refine keep_eq2 (by with_reducible assumption) ?_ | refine keep_eq1 (by with_reducible assumption) ?_
      | with_reducible refine keep_set ?_ ?_ ?_ ?_ ?_ ?_
      | rfl
      | assumption
  have h5 : Keeps s₀ x5 := by
    try subst x5
    repeat' first
      | with_reducible assumption | intro _
      | (with_reducible first | apply keep_modImg | apply keep_imgFail | apply keep_when_ | apply keep_modSecm | apply keep_wr | apply keep_stagePlain | apply keep_ite | apply keep_ite1 | apply keep_ite2 | apply keep_ite3)
      | extract_lets | split
      | refine keep_eq2 (by with_reducible assumption) ?_ | refine keep_eq1 (by with_reducible assumption) ?_
      | with_reducible refine keep_set ?_ ?_ ?_ ?_ ?_ ?_
      | rfl
      | assumption
  try clear_value x5; try clear_value x4; try clear_value x3; try clear_value x2; try clear_value x1; try clear_value x0
  repeat' first
    | with_reducible assumption | intro _
    | (with_reducible first | apply keep_modImg | apply keep_imgFail | apply keep_when_ | apply keep_modSecm | apply keep_wr | apply keep_stagePlain | apply keep_ite | apply keep_ite1 | apply keep_ite2 | apply keep_ite3)
    | extract_lets | split
    | refine keep_eq2 (by with_reducible assumption) ?_ | refine keep_eq1 (by with_reducible assumption) ?_
    | with_reducible refine keep_set ?_ ?_ ?_ ?_ ?_ ?_
    | rfl
    | assumption

theorem keep_forwardFrame {a0 a1 a2 a3 a4} (h : Keeps s₀ a4) : Keeps s₀ (forwardFrame a0 a1 a2 a3 a4) := by
  delta forwardFrame
  extract_lets x0
  try clear_value x0
  repeat' first
    | with_reducible assumption | intro _
    | (with_reducible first | apply keep_imgFail | apply keep_ctlToChip | apply keep_modImg | apply keep_ite | apply keep_ite1 | apply keep_ite2 | apply keep_ite3)
    | extract_lets | split
    | refine keep_eq2 (by with_reducible assumption) ?_ | refine keep_eq1 (by with_reducible assumption) ?_

theorem keep_firstFrame {a0 a1} (h : Keeps s₀ a1) : Keeps s₀ (firstFrame a0 a1) := by
  delta firstFrame
  extract_lets x0 x1 x2 x3 x4
  have h1 : Keeps s₀ x1 := by
    try subst x1
    repeat' first
      | with_reducible assumption | intro _
      | (with_reducible first | apply keep_modImg | apply keep_setLoader | apply keep_imgFail | apply keep_when_ | apply keep_forwardFrame | apply keep_ownFrame | apply keep_ite | apply keep_ite1 | apply keep_ite2 | apply keep_ite3)
      | extract_lets | split
      | refine keep_eq2 (by with_reducible assumption) ?_ | refine keep_eq1 (by with_reducible assumption) ?_
  have h2 : Keeps s₀ x2 := by
    try subst x2
    repeat' first
      | with_reducible assumption | intro _
      | (with_reducible first | apply keep_modImg | apply keep_setLoader | apply keep_imgFail | apply keep_when_ | apply keep_forwardFrame | apply keep_ownFrame | apply keep_ite | apply keep_ite1 | apply keep_ite2 | apply keep_ite3)
      | extract_lets | split
      | refine keep_eq2 (by with_reducible assumption) ?_ | refine keep_eq1 (by with_reducible assumption) ?_
  have h4 : Keeps s₀ x4 := by
    try subst x4
    repeat' first
      | with_reducible assumption | intro _
      | (with_reducible first | apply keep_modImg | apply keep_setLoader | apply keep_imgFail | apply keep_when_ | apply keep_forwardFrame | apply keep_ownFrame | apply keep_ite | apply keep_ite1 | apply keep_ite2 | apply keep_ite3)
      | extract_lets | split
      | refine keep_eq2 (by with_reducible assumption) ?_ | refine keep_eq1 (by with_reducible assumption) ?_
  try clear_value x4; try clear_value x3; try clear_value x2; try clear_value x1; try clear_value x0
  repeat' first
    | with_reducible assumption | intro _
    | (with_reducible first | apply keep_modImg | apply keep_setLoader | apply keep_imgFail | apply keep_when_ | apply keep_forwardFrame | apply keep_ownFrame | apply keep_ite | apply keep_ite1 | apply keep_ite2 | apply keep_ite3)
    | extract_lets | split
    | refine keep_eq2 (by with_reducible assumption) ?_ | refine keep_eq1 (by with_reducible assumption) ?_

theorem keep_frameFetched {a0 a1} (h : Keeps s₀ a1) : Keeps s₀ (frameFetched a0 a1) := by
  delta frameFetched
  extract_lets x0
  try clear_value x0
  repeat' first
    | with_reducible assumption | intro _
    | (with_reducible first | apply keep_wakeDom | apply keep_imgFail | apply keep_forwardFrame | apply keep_firstFrame | apply keep_ownFrame | apply keep_ite | apply keep_ite1 | apply keep_ite2 | apply keep_ite3)
    | extract_lets | split
    | refine keep_eq2 (by with_reducible assumption) ?_ | refine keep_eq1 (by with_reducible assumption) ?_

theorem keep_execImageFrameFetched {a0 a1} {t} (h : Keeps s₀ a1) (e : execImageFrameFetched a0 a1 = .next t) : Keeps s₀ t := by
  delta execImageFrameFetched at e
  refine keep_run e ?_
  clear e
  repeat' first
    | with_reducible assumption | intro _
    | (with_reducible first | apply keep_frameFetched)

theorem keep_imgDataNow {a0 a1} (h : Keeps s₀ a1) : Keeps s₀ (imgDataNow a0 a1) := by
  delta imgDataNow
  extract_lets x0 x1 x2 x3 x4 x5
  try clear_value x5; try clear_value x2; try clear_value x1; try clear_value x0
  repeat' first
    | with_reducible assumption | intro _
    | (with_reducible first | apply keep_modImg | apply keep_beginFetch | apply keep_imgFail | apply keep_ite | apply keep_ite1 | apply keep_ite2 | apply keep_ite3)
    | split
    | with_reducible refine keep_set ?_ ?_ ?_ ?_ ?_ ?_
    | rfl
    | (with_reducible first | apply memory_put | apply memory_putBytes | apply memory_filter | apply memory_delRange | apply memory_copyRange | apply memory_foldl | apply memory_setRange | apply memory_rowApply | apply memory_unitApply)
    | assumption

theorem keep_imgData {a0 a1} (h : Keeps s₀ a1) : Keeps s₀ (imgData a0 a1) := by
  delta imgData
  repeat' first
    | with_reducible assumption | intro _
    | (with_reducible first | apply keep_imgDataNow | apply keep_wakeDom | apply keep_await | apply keep_ite)
    | split

theorem keep_execImgData {a0 a1} {t} (h : Keeps s₀ a1) (e : execImgData a0 a1 = .next t) : Keeps s₀ t := by
  delta execImgData at e
  refine keep_run e ?_
  clear e
  repeat' first
    | with_reducible assumption | intro _
    | (with_reducible first | apply keep_imgData)

theorem keep_commitSpring {a0} (h : Keeps s₀ a0) : Keeps s₀ (commitSpring a0) := by
  delta commitSpring
  extract_lets x0 x1 x2 x3 x4 x5 x6 x7
  try clear_value x7; try clear_value x6; try clear_value x2; try clear_value x1; try clear_value x0
  repeat' first
    | with_reducible assumption | intro _
    | (with_reducible first | apply keep_ite | apply keep_ite1 | apply keep_ite2 | apply keep_ite3 | apply keep_foldl | apply keep_foldl1 | apply keep_foldl2 | apply keep_foldl3)
    | extract_lets | split
    | refine keep_eq2 (by with_reducible assumption) ?_ | refine keep_eq1 (by with_reducible assumption) ?_
    | with_reducible refine keep_set ?_ ?_ ?_ ?_ ?_ ?_
    | rfl
    | (with_reducible first | apply memory_put | apply memory_putBytes | apply memory_filter | apply memory_delRange | apply memory_copyRange | apply memory_foldl | apply memory_setRange | apply memory_rowApply | apply memory_unitApply)
    | assumption

theorem keep_setLeads {a0 a1} (h : Keeps s₀ a1) : Keeps s₀ (setLeads a0 a1) := by
  delta setLeads
  extract_lets x0
  try clear_value x0
  repeat' first
    | with_reducible assumption | intro _
    | (with_reducible first | apply keep_forEach | apply keep_wr)
    | with_reducible refine keep_set ?_ ?_ ?_ ?_ ?_ ?_
    | rfl
    | (with_reducible first | apply memory_put | apply memory_putBytes | apply memory_filter | apply memory_delRange | apply memory_copyRange | apply memory_foldl | apply memory_setRange | apply memory_rowApply | apply memory_unitApply)
    | assumption

theorem keep_setPower {a0} (h : Keeps s₀ a0) : Keeps s₀ (setPower a0) := by
  delta setPower
  repeat' first
    | with_reducible assumption | intro _
    | (with_reducible first | apply keep_forEach | apply keep_wr)

theorem keep_pinModel {a0 a1} (h : Keeps s₀ a1) : Keeps s₀ (pinModel a0 a1) := by
  delta pinModel
  extract_lets x0 x1 x2
  have h2 : Keeps s₀ x2 := by
    try subst x2
    repeat' first
      | with_reducible assumption | intro _
      | (with_reducible first | apply keep_forEach | apply keep_allocPages | apply keep_putPages | apply keep_modCore | apply keep_ite | apply keep_ite1 | apply keep_ite2 | apply keep_ite3)
      | split
      | with_reducible refine keep_set ?_ ?_ ?_ ?_ ?_ ?_
      | rfl
      | (with_reducible first | apply memory_put | apply memory_putBytes | apply memory_filter | apply memory_delRange | apply memory_copyRange | apply memory_foldl | apply memory_setRange | apply memory_rowApply | apply memory_unitApply)
      | assumption
  try clear_value x2; try clear_value x1; try clear_value x0
  repeat' first
    | with_reducible assumption | intro _
    | (with_reducible first | apply keep_forEach | apply keep_allocPages | apply keep_putPages | apply keep_modCore | apply keep_ite | apply keep_ite1 | apply keep_ite2 | apply keep_ite3)
    | split
    | with_reducible refine keep_set ?_ ?_ ?_ ?_ ?_ ?_
    | rfl
    | (with_reducible first | apply memory_put | apply memory_putBytes | apply memory_filter | apply memory_delRange | apply memory_copyRange | apply memory_foldl | apply memory_setRange | apply memory_rowApply | apply memory_unitApply)
    | assumption

theorem keep_unpinModel {a0 a1} (h : Keeps s₀ a1) : Keeps s₀ (unpinModel a0 a1) := by
  delta unpinModel
  extract_lets x0 x1 x2 x3 x4
  have h2 : Keeps s₀ x2 := by
    try subst x2
    repeat' first
      | with_reducible assumption | intro _
      | (with_reducible first | apply keep_forEach | apply keep_freePage | apply keep_dropAdapter | apply keep_modWks)
      | with_reducible refine keep_set ?_ ?_ ?_ ?_ ?_ ?_
      | rfl
      | (with_reducible first | apply memory_put | apply memory_putBytes | apply memory_filter | apply memory_delRange | apply memory_copyRange | apply memory_foldl | apply memory_setRange | apply memory_rowApply | apply memory_unitApply)
      | assumption
  have h3 : Keeps s₀ x3 := by
    try subst x3
    repeat' first
      | with_reducible assumption | intro _
      | (with_reducible first | apply keep_forEach | apply keep_freePage | apply keep_dropAdapter | apply keep_modWks)
      | with_reducible refine keep_set ?_ ?_ ?_ ?_ ?_ ?_
      | rfl
      | (with_reducible first | apply memory_put | apply memory_putBytes | apply memory_filter | apply memory_delRange | apply memory_copyRange | apply memory_foldl | apply memory_setRange | apply memory_rowApply | apply memory_unitApply)
      | assumption
  try clear_value x4; try clear_value x3; try clear_value x2; try clear_value x1; try clear_value x0
  repeat' first
    | with_reducible assumption | intro _
    | (with_reducible first | apply keep_forEach | apply keep_freePage | apply keep_dropAdapter | apply keep_modWks)
    | with_reducible refine keep_set ?_ ?_ ?_ ?_ ?_ ?_
    | rfl
    | (with_reducible first | apply memory_put | apply memory_putBytes | apply memory_filter | apply memory_delRange | apply memory_copyRange | apply memory_foldl | apply memory_setRange | apply memory_rowApply | apply memory_unitApply)
    | assumption

theorem keep_rebuild {a0} (h : Keeps s₀ a0) : Keeps s₀ (rebuild a0) := by
  delta rebuild
  extract_lets x0 x1 x2 x3 x4
  have h0 : Keeps s₀ x0 := by
    try subst x0
    repeat' first
      | with_reducible assumption | intro _
      | (with_reducible first | apply keep_setPower | apply keep_setLeads | apply keep_forEach | apply keep_pinModel | apply keep_ite | apply keep_ite1 | apply keep_ite2 | apply keep_ite3)
      | split
      | with_reducible refine keep_set ?_ ?_ ?_ ?_ ?_ ?_
      | rfl
      | assumption
  have h2 : Keeps s₀ x2 := by
    try subst x2
    repeat' first
      | with_reducible assumption | intro _
      | (with_reducible first | apply keep_setPower | apply keep_setLeads | apply keep_forEach | apply keep_pinModel | apply keep_ite | apply keep_ite1 | apply keep_ite2 | apply keep_ite3)
      | split
      | with_reducible refine keep_set ?_ ?_ ?_ ?_ ?_ ?_
      | rfl
      | assumption
  try clear_value x4; try clear_value x3; try clear_value x2; try clear_value x1; try clear_value x0
  repeat' first
    | with_reducible assumption | intro _
    | (with_reducible first | apply keep_setPower | apply keep_setLeads | apply keep_forEach | apply keep_pinModel | apply keep_ite | apply keep_ite1 | apply keep_ite2 | apply keep_ite3)
    | split
    | with_reducible refine keep_set ?_ ?_ ?_ ?_ ?_ ?_
    | rfl
    | assumption

theorem keep_commitRoutes {a0} (h : Keeps s₀ a0) : Keeps s₀ (commitRoutes a0) := by
  delta commitRoutes
  extract_lets x0
  try clear_value x0
  repeat' first
    | with_reducible assumption | intro _
    | (with_reducible first | apply keep_modFab | apply keep_armIfStaged | apply keep_ctlUp | apply keep_ite | apply keep_ite1 | apply keep_ite2 | apply keep_ite3)
    | extract_lets | split
    | refine keep_eq2 (by with_reducible assumption) ?_ | refine keep_eq1 (by with_reducible assumption) ?_

theorem keep_stopModules {a0 a1} (h : Keeps s₀ a1) : Keeps s₀ (stopModules a0 a1) := by
  delta stopModules
  extract_lets x0
  try clear_value x0
  repeat' first
    | with_reducible assumption | intro _
    | (with_reducible first | apply keep_forEach | apply keep_callModule)

theorem keep_logModules {a0 a1} (h : Keeps s₀ a1) : Keeps s₀ (logModules a0 a1) := by
  delta logModules
  extract_lets x0
  try clear_value x0
  repeat' first
    | with_reducible assumption | intro _
    | (with_reducible first | apply keep_forEach | apply keep_logC)

theorem keep_startModules {a0 a1} (h : Keeps s₀ a1) : Keeps s₀ (startModules a0 a1) := by
  delta startModules
  repeat' first
    | with_reducible assumption | intro _
    | (with_reducible first | apply keep_forEach | apply keep_callModule | apply keep_ite | apply keep_ite1 | apply keep_ite2 | apply keep_ite3)
    | split

theorem keep_commitImage {a0 a1} (h : Keeps s₀ a1) : Keeps s₀ (commitImage a0 a1) := by
  delta commitImage
  extract_lets x0 x1 x2 x3 x4 x5 x6 x7 x8 x9 x10 x11 x12 x13 x14 x15 x16 x17 x18 x19 x20
  have h4 : Keeps s₀ x4 := by
    try subst x4
    repeat' first
      | with_reducible assumption | intro _
      | (with_reducible first | apply keep_forEach | apply keep_unpinModel | apply keep_stopModules | apply keep_bumpGen | apply keep_commitSpring | apply keep_pinModel | apply keep_setPower | apply keep_setLeads | apply keep_startModules | apply keep_logModules | apply keep_wr | apply keep_modSecm | apply keep_commitRoutes | apply keep_setLoader | apply keep_liftDrains | apply keep_raiseCtr | apply keep_modImg | apply keep_logC | apply keep_ite | apply keep_ite1 | apply keep_ite2 | apply keep_ite3)
      | split
      | with_reducible refine keep_set ?_ ?_ ?_ ?_ ?_ ?_
      | rfl
      | (with_reducible first | apply memory_put | apply memory_putBytes | apply memory_filter | apply memory_delRange | apply memory_copyRange | apply memory_foldl | apply memory_setRange | apply memory_rowApply | apply memory_unitApply)
      | assumption
  have h6 : Keeps s₀ x6 := by
    try subst x6
    repeat' first
      | with_reducible assumption | intro _
      | (with_reducible first | apply keep_forEach | apply keep_unpinModel | apply keep_stopModules | apply keep_bumpGen | apply keep_commitSpring | apply keep_pinModel | apply keep_setPower | apply keep_setLeads | apply keep_startModules | apply keep_logModules | apply keep_wr | apply keep_modSecm | apply keep_commitRoutes | apply keep_setLoader | apply keep_liftDrains | apply keep_raiseCtr | apply keep_modImg | apply keep_logC | apply keep_ite | apply keep_ite1 | apply keep_ite2 | apply keep_ite3)
      | split
      | with_reducible refine keep_set ?_ ?_ ?_ ?_ ?_ ?_
      | rfl
      | (with_reducible first | apply memory_put | apply memory_putBytes | apply memory_filter | apply memory_delRange | apply memory_copyRange | apply memory_foldl | apply memory_setRange | apply memory_rowApply | apply memory_unitApply)
      | assumption
  have h7 : Keeps s₀ x7 := by
    try subst x7
    repeat' first
      | with_reducible assumption | intro _
      | (with_reducible first | apply keep_forEach | apply keep_unpinModel | apply keep_stopModules | apply keep_bumpGen | apply keep_commitSpring | apply keep_pinModel | apply keep_setPower | apply keep_setLeads | apply keep_startModules | apply keep_logModules | apply keep_wr | apply keep_modSecm | apply keep_commitRoutes | apply keep_setLoader | apply keep_liftDrains | apply keep_raiseCtr | apply keep_modImg | apply keep_logC | apply keep_ite | apply keep_ite1 | apply keep_ite2 | apply keep_ite3)
      | split
      | with_reducible refine keep_set ?_ ?_ ?_ ?_ ?_ ?_
      | rfl
      | (with_reducible first | apply memory_put | apply memory_putBytes | apply memory_filter | apply memory_delRange | apply memory_copyRange | apply memory_foldl | apply memory_setRange | apply memory_rowApply | apply memory_unitApply)
      | assumption
  have h9 : Keeps s₀ x9 := by
    try subst x9
    repeat' first
      | with_reducible assumption | intro _
      | (with_reducible first | apply keep_forEach | apply keep_unpinModel | apply keep_stopModules | apply keep_bumpGen | apply keep_commitSpring | apply keep_pinModel | apply keep_setPower | apply keep_setLeads | apply keep_startModules | apply keep_logModules | apply keep_wr | apply keep_modSecm | apply keep_commitRoutes | apply keep_setLoader | apply keep_liftDrains | apply keep_raiseCtr | apply keep_modImg | apply keep_logC | apply keep_ite | apply keep_ite1 | apply keep_ite2 | apply keep_ite3)
      | split
      | with_reducible refine keep_set ?_ ?_ ?_ ?_ ?_ ?_
      | rfl
      | (with_reducible first | apply memory_put | apply memory_putBytes | apply memory_filter | apply memory_delRange | apply memory_copyRange | apply memory_foldl | apply memory_setRange | apply memory_rowApply | apply memory_unitApply)
      | assumption
  have h10 : Keeps s₀ x10 := by
    try subst x10
    repeat' first
      | with_reducible assumption | intro _
      | (with_reducible first | apply keep_forEach | apply keep_unpinModel | apply keep_stopModules | apply keep_bumpGen | apply keep_commitSpring | apply keep_pinModel | apply keep_setPower | apply keep_setLeads | apply keep_startModules | apply keep_logModules | apply keep_wr | apply keep_modSecm | apply keep_commitRoutes | apply keep_setLoader | apply keep_liftDrains | apply keep_raiseCtr | apply keep_modImg | apply keep_logC | apply keep_ite | apply keep_ite1 | apply keep_ite2 | apply keep_ite3)
      | split
      | with_reducible refine keep_set ?_ ?_ ?_ ?_ ?_ ?_
      | rfl
      | (with_reducible first | apply memory_put | apply memory_putBytes | apply memory_filter | apply memory_delRange | apply memory_copyRange | apply memory_foldl | apply memory_setRange | apply memory_rowApply | apply memory_unitApply)
      | assumption
  have h11 : Keeps s₀ x11 := by
    try subst x11
    repeat' first
      | with_reducible assumption | intro _
      | (with_reducible first | apply keep_forEach | apply keep_unpinModel | apply keep_stopModules | apply keep_bumpGen | apply keep_commitSpring | apply keep_pinModel | apply keep_setPower | apply keep_setLeads | apply keep_startModules | apply keep_logModules | apply keep_wr | apply keep_modSecm | apply keep_commitRoutes | apply keep_setLoader | apply keep_liftDrains | apply keep_raiseCtr | apply keep_modImg | apply keep_logC | apply keep_ite | apply keep_ite1 | apply keep_ite2 | apply keep_ite3)
      | split
      | with_reducible refine keep_set ?_ ?_ ?_ ?_ ?_ ?_
      | rfl
      | (with_reducible first | apply memory_put | apply memory_putBytes | apply memory_filter | apply memory_delRange | apply memory_copyRange | apply memory_foldl | apply memory_setRange | apply memory_rowApply | apply memory_unitApply)
      | assumption
  have h12 : Keeps s₀ x12 := by
    try subst x12
    repeat' first
      | with_reducible assumption | intro _
      | (with_reducible first | apply keep_forEach | apply keep_unpinModel | apply keep_stopModules | apply keep_bumpGen | apply keep_commitSpring | apply keep_pinModel | apply keep_setPower | apply keep_setLeads | apply keep_startModules | apply keep_logModules | apply keep_wr | apply keep_modSecm | apply keep_commitRoutes | apply keep_setLoader | apply keep_liftDrains | apply keep_raiseCtr | apply keep_modImg | apply keep_logC | apply keep_ite | apply keep_ite1 | apply keep_ite2 | apply keep_ite3)
      | split
      | with_reducible refine keep_set ?_ ?_ ?_ ?_ ?_ ?_
      | rfl
      | (with_reducible first | apply memory_put | apply memory_putBytes | apply memory_filter | apply memory_delRange | apply memory_copyRange | apply memory_foldl | apply memory_setRange | apply memory_rowApply | apply memory_unitApply)
      | assumption
  have h13 : Keeps s₀ x13 := by
    try subst x13
    repeat' first
      | with_reducible assumption | intro _
      | (with_reducible first | apply keep_forEach | apply keep_unpinModel | apply keep_stopModules | apply keep_bumpGen | apply keep_commitSpring | apply keep_pinModel | apply keep_setPower | apply keep_setLeads | apply keep_startModules | apply keep_logModules | apply keep_wr | apply keep_modSecm | apply keep_commitRoutes | apply keep_setLoader | apply keep_liftDrains | apply keep_raiseCtr | apply keep_modImg | apply keep_logC | apply keep_ite | apply keep_ite1 | apply keep_ite2 | apply keep_ite3)
      | split
      | with_reducible refine keep_set ?_ ?_ ?_ ?_ ?_ ?_
      | rfl
      | (with_reducible first | apply memory_put | apply memory_putBytes | apply memory_filter | apply memory_delRange | apply memory_copyRange | apply memory_foldl | apply memory_setRange | apply memory_rowApply | apply memory_unitApply)
      | assumption
  have h14 : Keeps s₀ x14 := by
    try subst x14
    repeat' first
      | with_reducible assumption | intro _
      | (with_reducible first | apply keep_forEach | apply keep_unpinModel | apply keep_stopModules | apply keep_bumpGen | apply keep_commitSpring | apply keep_pinModel | apply keep_setPower | apply keep_setLeads | apply keep_startModules | apply keep_logModules | apply keep_wr | apply keep_modSecm | apply keep_commitRoutes | apply keep_setLoader | apply keep_liftDrains | apply keep_raiseCtr | apply keep_modImg | apply keep_logC | apply keep_ite | apply keep_ite1 | apply keep_ite2 | apply keep_ite3)
      | split
      | with_reducible refine keep_set ?_ ?_ ?_ ?_ ?_ ?_
      | rfl
      | (with_reducible first | apply memory_put | apply memory_putBytes | apply memory_filter | apply memory_delRange | apply memory_copyRange | apply memory_foldl | apply memory_setRange | apply memory_rowApply | apply memory_unitApply)
      | assumption
  have h15 : Keeps s₀ x15 := by
    try subst x15
    repeat' first
      | with_reducible assumption | intro _
      | (with_reducible first | apply keep_forEach | apply keep_unpinModel | apply keep_stopModules | apply keep_bumpGen | apply keep_commitSpring | apply keep_pinModel | apply keep_setPower | apply keep_setLeads | apply keep_startModules | apply keep_logModules | apply keep_wr | apply keep_modSecm | apply keep_commitRoutes | apply keep_setLoader | apply keep_liftDrains | apply keep_raiseCtr | apply keep_modImg | apply keep_logC | apply keep_ite | apply keep_ite1 | apply keep_ite2 | apply keep_ite3)
      | split
      | with_reducible refine keep_set ?_ ?_ ?_ ?_ ?_ ?_
      | rfl
      | (with_reducible first | apply memory_put | apply memory_putBytes | apply memory_filter | apply memory_delRange | apply memory_copyRange | apply memory_foldl | apply memory_setRange | apply memory_rowApply | apply memory_unitApply)
      | assumption
  have h16 : Keeps s₀ x16 := by
    try subst x16
    repeat' first
      | with_reducible assumption | intro _
      | (with_reducible first | apply keep_forEach | apply keep_unpinModel | apply keep_stopModules | apply keep_bumpGen | apply keep_commitSpring | apply keep_pinModel | apply keep_setPower | apply keep_setLeads | apply keep_startModules | apply keep_logModules | apply keep_wr | apply keep_modSecm | apply keep_commitRoutes | apply keep_setLoader | apply keep_liftDrains | apply keep_raiseCtr | apply keep_modImg | apply keep_logC | apply keep_ite | apply keep_ite1 | apply keep_ite2 | apply keep_ite3)
      | split
      | with_reducible refine keep_set ?_ ?_ ?_ ?_ ?_ ?_
      | rfl
      | (with_reducible first | apply memory_put | apply memory_putBytes | apply memory_filter | apply memory_delRange | apply memory_copyRange | apply memory_foldl | apply memory_setRange | apply memory_rowApply | apply memory_unitApply)
      | assumption
  have h17 : Keeps s₀ x17 := by
    try subst x17
    repeat' first
      | with_reducible assumption | intro _
      | (with_reducible first | apply keep_forEach | apply keep_unpinModel | apply keep_stopModules | apply keep_bumpGen | apply keep_commitSpring | apply keep_pinModel | apply keep_setPower | apply keep_setLeads | apply keep_startModules | apply keep_logModules | apply keep_wr | apply keep_modSecm | apply keep_commitRoutes | apply keep_setLoader | apply keep_liftDrains | apply keep_raiseCtr | apply keep_modImg | apply keep_logC | apply keep_ite | apply keep_ite1 | apply keep_ite2 | apply keep_ite3)
      | split
      | with_reducible refine keep_set ?_ ?_ ?_ ?_ ?_ ?_
      | rfl
      | (with_reducible first | apply memory_put | apply memory_putBytes | apply memory_filter | apply memory_delRange | apply memory_copyRange | apply memory_foldl | apply memory_setRange | apply memory_rowApply | apply memory_unitApply)
      | assumption
  have h18 : Keeps s₀ x18 := by
    try subst x18
    repeat' first
      | with_reducible assumption | intro _
      | (with_reducible first | apply keep_forEach | apply keep_unpinModel | apply keep_stopModules | apply keep_bumpGen | apply keep_commitSpring | apply keep_pinModel | apply keep_setPower | apply keep_setLeads | apply keep_startModules | apply keep_logModules | apply keep_wr | apply keep_modSecm | apply keep_commitRoutes | apply keep_setLoader | apply keep_liftDrains | apply keep_raiseCtr | apply keep_modImg | apply keep_logC | apply keep_ite | apply keep_ite1 | apply keep_ite2 | apply keep_ite3)
      | split
      | with_reducible refine keep_set ?_ ?_ ?_ ?_ ?_ ?_
      | rfl
      | (with_reducible first | apply memory_put | apply memory_putBytes | apply memory_filter | apply memory_delRange | apply memory_copyRange | apply memory_foldl | apply memory_setRange | apply memory_rowApply | apply memory_unitApply)
      | assumption
  have h19 : Keeps s₀ x19 := by
    try subst x19
    repeat' first
      | with_reducible assumption | intro _
      | (with_reducible first | apply keep_forEach | apply keep_unpinModel | apply keep_stopModules | apply keep_bumpGen | apply keep_commitSpring | apply keep_pinModel | apply keep_setPower | apply keep_setLeads | apply keep_startModules | apply keep_logModules | apply keep_wr | apply keep_modSecm | apply keep_commitRoutes | apply keep_setLoader | apply keep_liftDrains | apply keep_raiseCtr | apply keep_modImg | apply keep_logC | apply keep_ite | apply keep_ite1 | apply keep_ite2 | apply keep_ite3)
      | split
      | with_reducible refine keep_set ?_ ?_ ?_ ?_ ?_ ?_
      | rfl
      | (with_reducible first | apply memory_put | apply memory_putBytes | apply memory_filter | apply memory_delRange | apply memory_copyRange | apply memory_foldl | apply memory_setRange | apply memory_rowApply | apply memory_unitApply)
      | assumption
  have h20 : Keeps s₀ x20 := by
    try subst x20
    repeat' first
      | with_reducible assumption | intro _
      | (with_reducible first | apply keep_forEach | apply keep_unpinModel | apply keep_stopModules | apply keep_bumpGen | apply keep_commitSpring | apply keep_pinModel | apply keep_setPower | apply keep_setLeads | apply keep_startModules | apply keep_logModules | apply keep_wr | apply keep_modSecm | apply keep_commitRoutes | apply keep_setLoader | apply keep_liftDrains | apply keep_raiseCtr | apply keep_modImg | apply keep_logC | apply keep_ite | apply keep_ite1 | apply keep_ite2 | apply keep_ite3)
      | split
      | with_reducible refine keep_set ?_ ?_ ?_ ?_ ?_ ?_
      | rfl
      | (with_reducible first | apply memory_put | apply memory_putBytes | apply memory_filter | apply memory_delRange | apply memory_copyRange | apply memory_foldl | apply memory_setRange | apply memory_rowApply | apply memory_unitApply)
      | assumption
  try clear_value x20; try clear_value x19; try clear_value x18; try clear_value x17; try clear_value x16; try clear_value x15; try clear_value x14; try clear_value x13; try clear_value x12; try clear_value x11; try clear_value x10; try clear_value x9; try clear_value x7; try clear_value x6; try clear_value x4; try clear_value x3; try clear_value x2; try clear_value x1; try clear_value x0
  repeat' first
    | with_reducible assumption | intro _
    | (with_reducible first | apply keep_forEach | apply keep_unpinModel | apply keep_stopModules | apply keep_bumpGen | apply keep_commitSpring | apply keep_pinModel | apply keep_setPower | apply keep_setLeads | apply keep_startModules | apply keep_logModules | apply keep_wr | apply keep_modSecm | apply keep_commitRoutes | apply keep_setLoader | apply keep_liftDrains | apply keep_raiseCtr | apply keep_modImg | apply keep_logC | apply keep_ite | apply keep_ite1 | apply keep_ite2 | apply keep_ite3)
    | split
    | with_reducible refine keep_set ?_ ?_ ?_ ?_ ?_ ?_
    | rfl
    | (with_reducible first | apply memory_put | apply memory_putBytes | apply memory_filter | apply memory_delRange | apply memory_copyRange | apply memory_foldl | apply memory_setRange | apply memory_rowApply | apply memory_unitApply)
    | assumption

theorem keep_tryInstall {a0} (h : Keeps s₀ a0) : Keeps s₀ (tryInstall a0) := by
  delta tryInstall
  extract_lets x0 x1 x2 x3 x4
  have h1 : Keeps s₀ x1 := by
    try subst x1
    repeat' first
      | with_reducible assumption | intro _
      | (with_reducible first | apply keep_imgFail | apply keep_setLoader | apply keep_wakeDom | apply keep_modImg | apply keep_ite | apply keep_ite1 | apply keep_ite2 | apply keep_ite3)
      | extract_lets | split
      | refine keep_eq2 (by with_reducible assumption) ?_ | refine keep_eq1 (by with_reducible assumption) ?_
      | with_reducible refine keep_set ?_ ?_ ?_ ?_ ?_ ?_
      | rfl
      | assumption
  try clear_value x1; try clear_value x0
  repeat' first
    | with_reducible assumption | intro _
    | (with_reducible first | apply keep_imgFail | apply keep_setLoader | apply keep_wakeDom | apply keep_modImg | apply keep_ite | apply keep_ite1 | apply keep_ite2 | apply keep_ite3)
    | extract_lets | split
    | refine keep_eq2 (by with_reducible assumption) ?_ | refine keep_eq1 (by with_reducible assumption) ?_
    | with_reducible refine keep_set ?_ ?_ ?_ ?_ ?_ ?_
    | rfl
    | assumption

theorem keep_proceed {a0} (h : Keeps s₀ a0) : Keeps s₀ (proceed a0) := by
  delta proceed
  extract_lets x0 x1 x2 x3
  have h1 : Keeps s₀ x1 := by
    try subst x1
    repeat' first
      | with_reducible assumption | intro _
      | (with_reducible first | apply keep_setLoader | apply keep_modImg | apply keep_forEach | apply keep_beginDrain | apply keep_logEv | apply keep_setBit | apply keep_tryInstall)
  have h2 : Keeps s₀ x2 := by
    try subst x2
    repeat' first
      | with_reducible assumption | intro _
      | (with_reducible first | apply keep_setLoader | apply keep_modImg | apply keep_forEach | apply keep_beginDrain | apply keep_logEv | apply keep_setBit | apply keep_tryInstall)
  have h3 : Keeps s₀ x3 := by
    try subst x3
    repeat' first
      | with_reducible assumption | intro _
      | (with_reducible first | apply keep_setLoader | apply keep_modImg | apply keep_forEach | apply keep_beginDrain | apply keep_logEv | apply keep_setBit | apply keep_tryInstall)
  try clear_value x3; try clear_value x2; try clear_value x1; try clear_value x0
  repeat' first
    | with_reducible assumption | intro _
    | (with_reducible first | apply keep_setLoader | apply keep_modImg | apply keep_forEach | apply keep_beginDrain | apply keep_logEv | apply keep_setBit | apply keep_tryInstall)

theorem keep_imageStaged {a0} (h : Keeps s₀ a0) : Keeps s₀ (imageStaged a0) := by
  delta imageStaged
  extract_lets x0 x1
  have h1 : Keeps s₀ x1 := by
    try subst x1
    repeat' first
      | with_reducible assumption | intro _
      | (with_reducible first | apply keep_imgFail | apply keep_setLoader | apply keep_modSecm | apply keep_proceed | apply keep_ite)
      | extract_lets | split
      | refine keep_eq2 (by with_reducible assumption) ?_ | refine keep_eq1 (by with_reducible assumption) ?_
      | with_reducible refine keep_set ?_ ?_ ?_ ?_ ?_ ?_
      | rfl
      | assumption
  try clear_value x1; try clear_value x0
  repeat' first
    | with_reducible assumption | intro _
    | (with_reducible first | apply keep_imgFail | apply keep_setLoader | apply keep_modSecm | apply keep_proceed | apply keep_ite)
    | extract_lets | split
    | refine keep_eq2 (by with_reducible assumption) ?_ | refine keep_eq1 (by with_reducible assumption) ?_
    | with_reducible refine keep_set ?_ ?_ ?_ ?_ ?_ ?_
    | rfl
    | assumption

theorem keep_execImageStaged {a0} {t} (h : Keeps s₀ a0) (e : execImageStaged a0 = .next t) : Keeps s₀ t := by
  delta execImageStaged at e
  refine keep_run e ?_
  clear e
  repeat' first
    | with_reducible assumption | intro _
    | (with_reducible first | apply keep_imageStaged)

theorem keep_execImgActivate {a0} {t} (h : Keeps s₀ a0) (e : execImgActivate a0 = .next t) : Keeps s₀ t := by
  delta execImgActivate at e
  refine keep_run e ?_
  clear e
  repeat' first
    | with_reducible assumption | intro _
    | (with_reducible first | apply keep_proceed | apply keep_ite)
    | split

theorem keep_stallDrained {a0 a1} (h : Keeps s₀ a1) : Keeps s₀ (stallDrained a0 a1) := by
  delta stallDrained
  repeat' first
    | with_reducible assumption | intro _
    | (with_reducible first | apply keep_tryInstall | apply keep_logEv | apply keep_setBit | apply keep_ite)
    | split

theorem keep_execStallDrained {a0 a1} {t} (h : Keeps s₀ a1) (e : execStallDrained a0 a1 = .next t) : Keeps s₀ t := by
  delta execStallDrained at e
  refine keep_run e ?_
  clear e
  repeat' first
    | with_reducible assumption | intro _
    | (with_reducible first | apply keep_stallDrained)

theorem keep_writeStore {a0} (h : Keeps s₀ a0) : Keeps s₀ (writeStore a0) := by
  delta writeStore
  extract_lets x0 x1 x2
  have h2 : Keeps s₀ x2 := by
    try subst x2
    repeat' first
      | with_reducible assumption | intro _
      | (with_reducible first | apply keep_modImg | apply keep_forEach | apply keep_fresh | apply keep_modNmc)
      | extract_lets | split
      | refine keep_eq2 (by with_reducible assumption) ?_ | refine keep_eq1 (by with_reducible assumption) ?_
      | with_reducible refine keep_set ?_ ?_ ?_ ?_ ?_ ?_
      | rfl
      | (with_reducible first | apply memory_put | apply memory_putBytes | apply memory_filter | apply memory_delRange | apply memory_copyRange | apply memory_foldl | apply memory_setRange | apply memory_rowApply | apply memory_unitApply)
      | assumption
  try clear_value x2; try clear_value x1; try clear_value x0
  repeat' first
    | with_reducible assumption | intro _
    | (with_reducible first | apply keep_modImg | apply keep_forEach | apply keep_fresh | apply keep_modNmc)
    | extract_lets | split
    | refine keep_eq2 (by with_reducible assumption) ?_ | refine keep_eq1 (by with_reducible assumption) ?_
    | with_reducible refine keep_set ?_ ?_ ?_ ?_ ?_ ?_
    | rfl
    | (with_reducible first | apply memory_put | apply memory_putBytes | apply memory_filter | apply memory_delRange | apply memory_copyRange | apply memory_foldl | apply memory_setRange | apply memory_rowApply | apply memory_unitApply)
    | assumption

theorem keep_installComplete {a0} (h : Keeps s₀ a0) : Keeps s₀ (installComplete a0) := by
  delta installComplete
  extract_lets x0
  have h0 : Keeps s₀ x0 := by
    try subst x0
    repeat' first
      | with_reducible assumption | intro _
      | (with_reducible first | apply keep_writeStore | apply keep_memberReport | apply keep_setLoader | apply keep_commitImage | apply keep_ite)
      | split
  try clear_value x0
  repeat' first
    | with_reducible assumption | intro _
    | (with_reducible first | apply keep_writeStore | apply keep_memberReport | apply keep_setLoader | apply keep_commitImage | apply keep_ite)
    | split

theorem keep_execInstallComplete {a0} {t} (h : Keeps s₀ a0) (e : execInstallComplete a0 = .next t) : Keeps s₀ t := by
  delta execInstallComplete at e
  refine keep_run e ?_
  clear e
  repeat' first
    | with_reducible assumption | intro _
    | (with_reducible first | apply keep_installComplete)

theorem keep_imgArm {a0 a1} (h : Keeps s₀ a1) : Keeps s₀ (imgArm a0 a1) := by
  delta imgArm
  extract_lets x0
  try clear_value x0
  repeat' first
    | with_reducible assumption | intro _
    | (with_reducible first | apply keep_commitImage | apply keep_modImg | apply keep_ite)
    | split

theorem keep_execImgArm {a0 a1} {t} (h : Keeps s₀ a1) (e : execImgArm a0 a1 = .next t) : Keeps s₀ t := by
  delta execImgArm at e
  refine keep_run e ?_
  clear e
  repeat' first
    | with_reducible assumption | intro _
    | (with_reducible first | apply keep_imgArm)

theorem keep_bundleCommit {a0} (h : Keeps s₀ a0) : Keeps s₀ (bundleCommit a0) := by
  delta bundleCommit
  repeat' first
    | with_reducible assumption | intro _
    | (with_reducible first | apply keep_commitImage | apply keep_ite)
    | extract_lets | split
    | refine keep_eq2 (by with_reducible assumption) ?_ | refine keep_eq1 (by with_reducible assumption) ?_

theorem keep_execBundleCommit {a0} {t} (h : Keeps s₀ a0) (e : execBundleCommit a0 = .next t) : Keeps s₀ t := by
  delta execBundleCommit at e
  refine keep_run e ?_
  clear e
  repeat' first
    | with_reducible assumption | intro _
    | (with_reducible first | apply keep_bundleCommit)

theorem keep_firmwareReloaded {a0} (h : Keeps s₀ a0) : Keeps s₀ (firmwareReloaded a0) := by
  delta firmwareReloaded
  extract_lets x0 x1 x2 x3
  have h0 : Keeps s₀ x0 := by
    try subst x0
    repeat' first
      | with_reducible assumption | intro _
      | (with_reducible first | apply keep_modImg | apply keep_ccReload | apply keep_ite | apply keep_ite1 | apply keep_ite2 | apply keep_ite3)
      | split
      | with_reducible refine keep_set ?_ ?_ ?_ ?_ ?_ ?_
      | rfl
      | assumption
  have h2 : Keeps s₀ x2 := by
    try subst x2
    repeat' first
      | with_reducible assumption | intro _
      | (with_reducible first | apply keep_modImg | apply keep_ccReload | apply keep_ite | apply keep_ite1 | apply keep_ite2 | apply keep_ite3)
      | split
      | with_reducible refine keep_set ?_ ?_ ?_ ?_ ?_ ?_
      | rfl
      | assumption
  try clear_value x2; try clear_value x0
  repeat' first
    | with_reducible assumption | intro _
    | (with_reducible first | apply keep_modImg | apply keep_ccReload | apply keep_ite | apply keep_ite1 | apply keep_ite2 | apply keep_ite3)
    | split
    | with_reducible refine keep_set ?_ ?_ ?_ ?_ ?_ ?_
    | rfl
    | assumption

theorem keep_execFirmwareReloaded {a0} {t} (h : Keeps s₀ a0) (e : execFirmwareReloaded a0 = .next t) : Keeps s₀ t := by
  delta execFirmwareReloaded at e
  refine keep_run e ?_
  clear e
  repeat' first
    | with_reducible assumption | intro _
    | (with_reducible first | apply keep_firmwareReloaded)

theorem keep_loaderStart {a0 a1 a2} (h : Keeps s₀ a2) : Keeps s₀ (loaderStart a0 a1 a2) := by
  delta loaderStart
  extract_lets x0
  have h0 : Keeps s₀ x0 := by
    try subst x0
    repeat' first
      | with_reducible assumption | intro _
      | (with_reducible first | apply keep_wrf | apply keep_setLoader | apply keep_beginFetch | apply keep_modImg | apply keep_ite)
      | extract_lets | split
      | refine keep_eq2 (by with_reducible assumption) ?_ | refine keep_eq1 (by with_reducible assumption) ?_
  try clear_value x0
  repeat' first
    | with_reducible assumption | intro _
    | (with_reducible first | apply keep_wrf | apply keep_setLoader | apply keep_beginFetch | apply keep_modImg | apply keep_ite)
    | extract_lets | split
    | refine keep_eq2 (by with_reducible assumption) ?_ | refine keep_eq1 (by with_reducible assumption) ?_

end Sys2Proof.Laws
end

