-- ==== Sys2Proof/Laws/KeepHost.lean ====
section
/-! SUPPORT. What `Keeps` of Laws/Keep.lean says, operation by operation and command by command: resets, the host link and register accesses. Each lemma
says that an operation applied to a state that keeps the invariants of `s₀` keeps them. -/
namespace Sys2Proof.Laws
open Sys2Proof.Machine Sys2Proof.Safety
set_option Elab.async false
set_option linter.unusedTactic false
set_option linter.unreachableTactic false
set_option linter.unusedVariables false
variable {s₀ : State}

/-! ### Registers -/

theorem keep_readReg {a0 a1 a2} (h : Keeps s₀ a2) : Keeps s₀ (readReg a0 a1 a2).2 := by
  delta readReg
  extract_lets x0 x1
  try clear_value x1; try clear_value x0
  repeat' first
    | with_reducible assumption | intro _
    | (with_reducible first | apply keep_ite | apply keep_ite1 | apply keep_ite2 | apply keep_ite3)
    | extract_lets | split
    | refine keep_eq2 (by with_reducible assumption) ?_ | refine keep_eq1 (by with_reducible assumption) ?_
    | with_reducible refine keep_set ?_ ?_ ?_ ?_ ?_ ?_
    | rfl
    | (with_reducible first | apply memory_put | apply memory_putBytes | apply memory_filter | apply memory_delRange | apply memory_copyRange | apply memory_foldl | apply memory_setRange | apply memory_rowApply | apply memory_unitApply)
    | assumption

theorem keep_plainWrite {a0 a1 a2} (h : Keeps s₀ a2) : Keeps s₀ (plainWrite a0 a1 a2) := by
  delta plainWrite
  repeat' first
    | with_reducible assumption | intro _
    | (with_reducible first | apply keep_wr)
    | extract_lets | split
    | refine keep_eq2 (by with_reducible assumption) ?_ | refine keep_eq1 (by with_reducible assumption) ?_

/-! ### Faults -/

theorem keep_haltAssert {a0 a1} (h : Keeps s₀ a1) : Keeps s₀ (haltAssert a0 a1) := by
  delta haltAssert
  extract_lets x0
  have h0 : Keeps s₀ x0.1 := by
    try subst x0
    repeat' first
      | with_reducible assumption | intro _
      | (with_reducible first | apply keep_log1 | apply keep_emit | apply keep_wr | apply keep_freezeCheck)
  try clear_value x0
  repeat' first
    | with_reducible assumption | intro _
    | (with_reducible first | apply keep_log1 | apply keep_emit | apply keep_wr | apply keep_freezeCheck)

theorem keep_haltEnWrite {a0 a1} (h : Keeps s₀ a1) : Keeps s₀ (haltEnWrite a0 a1) := by
  delta haltEnWrite
  extract_lets x0 x1 x2
  have h1 : Keeps s₀ x1 := by
    try subst x1
    repeat' first
      | with_reducible assumption | intro _
      | (with_reducible first | apply keep_wr | apply keep_haltAssert | apply keep_ite)
      | split
  try clear_value x2; try clear_value x1; try clear_value x0
  repeat' first
    | with_reducible assumption | intro _
    | (with_reducible first | apply keep_wr | apply keep_haltAssert | apply keep_ite)
    | split

theorem keep_execHaltEnWrite {a0 a1} {t} (h : Keeps s₀ a1) (e : execHaltEnWrite a0 a1 = .next t) : Keeps s₀ t := by
  delta execHaltEnWrite at e
  refine keep_run e ?_
  clear e
  repeat' first
    | with_reducible assumption | intro _
    | (with_reducible first | apply keep_haltEnWrite)

theorem keep_haltCtlClear {a0} (h : Keeps s₀ a0) : Keeps s₀ (haltCtlClear a0) := by
  delta haltCtlClear
  repeat' first
    | with_reducible assumption | intro _
    | (with_reducible first | apply keep_setBit | apply keep_emit | apply keep_wrf | apply keep_ite)
    | split

theorem keep_execHaltCtlClear {a0} {t} (h : Keeps s₀ a0) (e : execHaltCtlClear a0 = .next t) : Keeps s₀ t := by
  delta execHaltCtlClear at e
  refine keep_run e ?_
  clear e
  repeat' first
    | with_reducible assumption | intro _
    | (with_reducible first | apply keep_haltCtlClear)

theorem keep_execHaltCtlForce {a0} {t} (h : Keeps s₀ a0) (e : execHaltCtlForce a0 = .next t) : Keeps s₀ t := by
  delta execHaltCtlForce at e
  refine keep_run e ?_
  clear e
  repeat' first
    | with_reducible assumption | intro _
    | (with_reducible first | apply keep_haltRaise)

/-- A write of LOG_HEAD consumes unread entries or nothing. -/
theorem keep_logHeadWrite {a0 a1} (h : Keeps s₀ a1) : Keeps s₀ (logHeadWrite a0 a1) := by
  unfold logHeadWrite
  simp only
  split
  · exact h
  · rename_i hk
    refine h.trans ⟨id, fun m => ?_, id, List.prefix_refl _, ⟨rfl, rfl, rfl⟩, Nat.le_refl _⟩
    obtain ⟨m1, m2, m3, m4⟩ := m
    refine ⟨?_, ?_, ?_, m4⟩
    · simp only; omega
    · simp only [bits]; omega
    · simp only [bits] at *; omega

theorem keep_execLogHeadWrite {a0 a1} {t} (h : Keeps s₀ a1) (e : execLogHeadWrite a0 a1 = .next t) : Keeps s₀ t := by
  delta execLogHeadWrite at e
  refine keep_run e ?_
  clear e
  repeat' first
    | with_reducible assumption | intro _
    | (with_reducible first | apply keep_logHeadWrite)

theorem keep_logUnfreeze {a0} (h : Keeps s₀ a0) : Keeps s₀ (logUnfreeze a0) := by
  unfold logUnfreeze
  split
  · exact keep_logC (keep_frozen h false)
  · exact h

theorem keep_execLogUnfreeze {a0} {t} (h : Keeps s₀ a0) (e : execLogUnfreeze a0 = .next t) : Keeps s₀ t := by
  delta execLogUnfreeze at e
  refine keep_run e ?_
  clear e
  repeat' first
    | with_reducible assumption | intro _
    | (with_reducible first | apply keep_logUnfreeze)

/-! ### Reset -/

theorem keep_execPor {a0} {t} (h : Keeps s₀ a0) (e : execPor a0 = .next t) : Keeps s₀ t := by
  delta execPor at e
  refine keep_run e ?_
  clear e
  repeat' first
    | with_reducible assumption | intro _
    | (with_reducible first | apply keep_takeReset)

theorem keep_execPinCold {a0} {t} (h : Keeps s₀ a0) (e : execPinCold a0 = .next t) : Keeps s₀ t := by
  delta execPinCold at e
  refine keep_run e ?_
  clear e
  repeat' first
    | with_reducible assumption | intro _
    | (with_reducible first | apply keep_takeReset | apply keep_modRst)

theorem keep_execPinWarm {a0} {t} (h : Keeps s₀ a0) (e : execPinWarm a0 = .next t) : Keeps s₀ t := by
  delta execPinWarm at e
  refine keep_run e ?_
  clear e
  repeat' first
    | with_reducible assumption | intro _
    | (with_reducible first | apply keep_takeReset | apply keep_modRst)

theorem keep_execSwCold {a0} {t} (h : Keeps s₀ a0) (e : execSwCold a0 = .next t) : Keeps s₀ t := by
  delta execSwCold at e
  refine keep_run e ?_
  clear e
  repeat' first
    | with_reducible assumption | intro _
    | (with_reducible first | apply keep_takeReset)

theorem keep_execSwWarm {a0} {t} (h : Keeps s₀ a0) (e : execSwWarm a0 = .next t) : Keeps s₀ t := by
  delta execSwWarm at e
  refine keep_run e ?_
  clear e
  repeat' first
    | with_reducible assumption | intro _
    | (with_reducible first | apply keep_takeReset)

theorem keep_pinRise {a0 a1} (h : Keeps s₀ a1) : Keeps s₀ (pinRise a0 a1) := by
  delta pinRise
  extract_lets x0
  have h0 : Keeps s₀ x0 := by
    try subst x0
    repeat' first
      | with_reducible assumption | intro _
      | (with_reducible first | apply keep_modRst | apply keep_beginRelease | apply keep_ite)
      | split
  try clear_value x0
  repeat' first
    | with_reducible assumption | intro _
    | (with_reducible first | apply keep_modRst | apply keep_beginRelease | apply keep_ite)
    | split

theorem keep_execResetPinRise {a0 a1} {t} (h : Keeps s₀ a1) (e : execResetPinRise a0 a1 = .next t) : Keeps s₀ t := by
  delta execResetPinRise at e
  refine keep_run e ?_
  clear e
  repeat' first
    | with_reducible assumption | intro _
    | (with_reducible first | apply keep_pinRise)

theorem keep_perstAssert {a0} (h : Keeps s₀ a0) : Keeps s₀ (perstAssert a0) := by
  delta perstAssert
  extract_lets x0
  have h0 : Keeps s₀ x0 := by
    try subst x0
    repeat' first
      | with_reducible assumption | intro _
      | (with_reducible first | apply keep_modRst | apply keep_takeReset | apply keep_ite)
      | split
  try clear_value x0
  repeat' first
    | with_reducible assumption | intro _
    | (with_reducible first | apply keep_modRst | apply keep_takeReset | apply keep_ite)
    | split

theorem keep_execPciePerst {a0} {t} (h : Keeps s₀ a0) (e : execPciePerst a0 = .next t) : Keeps s₀ t := by
  delta execPciePerst at e
  refine keep_run e ?_
  clear e
  repeat' first
    | with_reducible assumption | intro _
    | (with_reducible first | apply keep_perstAssert)

theorem keep_perstDeassert {a0} (h : Keeps s₀ a0) : Keeps s₀ (perstDeassert a0) := by
  delta perstDeassert
  extract_lets x0 x1
  have h0 : Keeps s₀ x0 := by
    try subst x0
    repeat' first
      | with_reducible assumption | intro _
      | (with_reducible first | apply keep_modRst | apply keep_powerUp | apply keep_ite)
      | split
  try clear_value x1; try clear_value x0
  repeat' first
    | with_reducible assumption | intro _
    | (with_reducible first | apply keep_modRst | apply keep_powerUp | apply keep_ite)
    | split

theorem keep_execPerstDeassert {a0} {t} (h : Keeps s₀ a0) (e : execPerstDeassert a0 = .next t) : Keeps s₀ t := by
  delta execPerstDeassert at e
  refine keep_run e ?_
  clear e
  repeat' first
    | with_reducible assumption | intro _
    | (with_reducible first | apply keep_perstDeassert)

theorem keep_wdtKick {a0 a1} (h : Keeps s₀ a1) : Keeps s₀ (wdtKick a0 a1) := by
  delta wdtKick
  extract_lets x0
  try clear_value x0
  repeat' first
    | with_reducible assumption | intro _
    | (with_reducible first | apply keep_modRst | apply keep_wrf | apply keep_ite)
    | split

theorem keep_execWdtKick {a0 a1} {t} (h : Keeps s₀ a1) (e : execWdtKick a0 a1 = .next t) : Keeps s₀ t := by
  delta execWdtKick at e
  refine keep_run e ?_
  clear e
  repeat' first
    | with_reducible assumption | intro _
    | (with_reducible first | apply keep_wdtKick)

theorem keep_wdtExpire {a0} (h : Keeps s₀ a0) : Keeps s₀ (wdtExpire a0) := by
  delta wdtExpire
  repeat' first
    | with_reducible assumption | intro _
    | (with_reducible first | apply keep_takeReset | apply keep_modRst | apply keep_ite)
    | extract_lets | split
    | refine keep_eq2 (by with_reducible assumption) ?_ | refine keep_eq1 (by with_reducible assumption) ?_

theorem keep_execWdtExpire {a0} {t} (h : Keeps s₀ a0) (e : execWdtExpire a0 = .next t) : Keeps s₀ t := by
  delta execWdtExpire at e
  refine keep_run e ?_
  clear e
  repeat' first
    | with_reducible assumption | intro _
    | (with_reducible first | apply keep_wdtExpire)

theorem keep_rstFab {a0 a1} (h : Keeps s₀ a1) : Keeps s₀ (rstFab a0 a1) := by
  delta rstFab
  extract_lets x0 x1 x2
  have h1 : Keeps s₀ x1 := by
    try subst x1
    repeat' first
      | with_reducible assumption | intro _
      | (with_reducible first | apply keep_wrf | apply keep_when_ | apply keep_clrBit | apply keep_setBit | apply keep_takeReset | apply keep_ctlToChip | apply keep_ite)
      | extract_lets | split
      | refine keep_eq2 (by with_reducible assumption) ?_ | refine keep_eq1 (by with_reducible assumption) ?_
  have h2 : Keeps s₀ x2 := by
    try subst x2
    repeat' first
      | with_reducible assumption | intro _
      | (with_reducible first | apply keep_wrf | apply keep_when_ | apply keep_clrBit | apply keep_setBit | apply keep_takeReset | apply keep_ctlToChip | apply keep_ite)
      | extract_lets | split
      | refine keep_eq2 (by with_reducible assumption) ?_ | refine keep_eq1 (by with_reducible assumption) ?_
  try clear_value x2; try clear_value x1; try clear_value x0
  repeat' first
    | with_reducible assumption | intro _
    | (with_reducible first | apply keep_wrf | apply keep_when_ | apply keep_clrBit | apply keep_setBit | apply keep_takeReset | apply keep_ctlToChip | apply keep_ite)
    | extract_lets | split
    | refine keep_eq2 (by with_reducible assumption) ?_ | refine keep_eq1 (by with_reducible assumption) ?_

theorem keep_execRstFabGo {a0 a1} {t} (h : Keeps s₀ a1) (e : execRstFabGo a0 a1 = .next t) : Keeps s₀ t := by
  delta execRstFabGo at e
  refine keep_run e ?_
  clear e
  repeat' first
    | with_reducible assumption | intro _
    | (with_reducible first | apply keep_rstFab)

theorem keep_resetMsg {a0 a1} (h : Keeps s₀ a1) : Keeps s₀ (resetMsg a0 a1) := by
  delta resetMsg
  extract_lets x0
  try clear_value x0
  repeat' first
    | with_reducible assumption | intro _
    | (with_reducible first | apply keep_takeReset | apply keep_ite)
    | split

theorem keep_execReset {a0 a1} {t} (h : Keeps s₀ a1) (e : execReset a0 a1 = .next t) : Keeps s₀ t := by
  delta execReset at e
  refine keep_run e ?_
  clear e
  repeat' first
    | with_reducible assumption | intro _
    | (with_reducible first | apply keep_resetMsg)

theorem keep_safeClr {a0 a1} (h : Keeps s₀ a1) : Keeps s₀ (safeClr a0 a1) := by
  delta safeClr
  extract_lets x0
  have h0 : Keeps s₀ x0 := by
    try subst x0
    repeat' first
      | with_reducible assumption | intro _
      | (with_reducible first | apply keep_modRst | apply keep_loaderStart | apply keep_ite)
      | split
  try clear_value x0
  repeat' first
    | with_reducible assumption | intro _
    | (with_reducible first | apply keep_modRst | apply keep_loaderStart | apply keep_ite)
    | split

theorem keep_execSafeClr {a0 a1} {t} (h : Keeps s₀ a1) (e : execSafeClr a0 a1 = .next t) : Keeps s₀ t := by
  delta execSafeClr at e
  refine keep_run e ?_
  clear e
  repeat' first
    | with_reducible assumption | intro _
    | (with_reducible first | apply keep_safeClr)

theorem keep_warmTake {a0} (h : Keeps s₀ a0) : Keeps s₀ (warmTake a0) := by
  delta warmTake
  extract_lets x0
  have h0 : Keeps s₀ x0 := by
    try subst x0
    repeat' first
      | with_reducible assumption | intro _
      | (with_reducible first | apply keep_farewellOf | apply keep_announceReset | apply keep_modRst | apply keep_ite)
      | split
  try clear_value x0
  repeat' first
    | with_reducible assumption | intro _
    | (with_reducible first | apply keep_farewellOf | apply keep_announceReset | apply keep_modRst | apply keep_ite)
    | split

theorem keep_execWarmResetTaken {a0} {t} (h : Keeps s₀ a0) (e : execWarmResetTaken a0 = .next t) : Keeps s₀ t := by
  delta execWarmResetTaken at e
  refine keep_run e ?_
  clear e
  repeat' first
    | with_reducible assumption | intro _
    | (with_reducible first | apply keep_warmTake)

theorem keep_farewellEnd {a0} (h : Keeps s₀ a0) : Keeps s₀ (farewellEnd a0) := by
  delta farewellEnd
  repeat' first
    | with_reducible assumption | intro _
    | (with_reducible first | apply keep_applyReset | apply keep_logC | apply keep_ite)
    | extract_lets | split
    | refine keep_eq2 (by with_reducible assumption) ?_ | refine keep_eq1 (by with_reducible assumption) ?_

theorem keep_execFarewellEnd {a0} {t} (h : Keeps s₀ a0) (e : execFarewellEnd a0 = .next t) : Keeps s₀ t := by
  delta execFarewellEnd at e
  refine keep_run e ?_
  clear e
  repeat' first
    | with_reducible assumption | intro _
    | (with_reducible first | apply keep_farewellEnd)

theorem keep_nvPulseEnd {a0} (h : Keeps s₀ a0) : Keeps s₀ (nvPulseEnd a0) := by
  delta nvPulseEnd
  extract_lets x0 x1 x2
  have h2 : Keeps s₀ x2 := by
    try subst x2
    repeat' first
      | with_reducible assumption | intro _
      | (with_reducible first | apply keep_modRst | apply keep_takeHeld | apply keep_ite)
      | extract_lets | split
      | refine keep_eq2 (by with_reducible assumption) ?_ | refine keep_eq1 (by with_reducible assumption) ?_
  try clear_value x2; try clear_value x1; try clear_value x0
  repeat' first
    | with_reducible assumption | intro _
    | (with_reducible first | apply keep_modRst | apply keep_takeHeld | apply keep_ite)
    | extract_lets | split
    | refine keep_eq2 (by with_reducible assumption) ?_ | refine keep_eq1 (by with_reducible assumption) ?_

theorem keep_execNvPulseEnd {a0} {t} (h : Keeps s₀ a0) (e : execNvPulseEnd a0 = .next t) : Keeps s₀ t := by
  delta execNvPulseEnd at e
  refine keep_run e ?_
  clear e
  repeat' first
    | with_reducible assumption | intro _
    | (with_reducible first | apply keep_nvPulseEnd)

theorem keep_strapSample {a0 a1} (h : Keeps s₀ a1) : Keeps s₀ (strapSample a0 a1) := by
  delta strapSample
  extract_lets x0 x1 x2 x3
  have h0 : Keeps s₀ x0 := by
    try subst x0
    repeat' first
      | with_reducible assumption | intro _
      | (with_reducible first | apply keep_modRst | apply keep_forEach | apply keep_wrf | apply keep_clkChange | apply keep_enterHoldover | apply keep_ite)
      | split
      | with_reducible refine keep_set ?_ ?_ ?_ ?_ ?_ ?_
      | rfl
      | assumption
  have h1 : Keeps s₀ x1 := by
    try subst x1
    repeat' first
      | with_reducible assumption | intro _
      | (with_reducible first | apply keep_modRst | apply keep_forEach | apply keep_wrf | apply keep_clkChange | apply keep_enterHoldover | apply keep_ite)
      | split
      | with_reducible refine keep_set ?_ ?_ ?_ ?_ ?_ ?_
      | rfl
      | assumption
  have h2 : Keeps s₀ x2 := by
    try subst x2
    repeat' first
      | with_reducible assumption | intro _
      | (with_reducible first | apply keep_modRst | apply keep_forEach | apply keep_wrf | apply keep_clkChange | apply keep_enterHoldover | apply keep_ite)
      | split
      | with_reducible refine keep_set ?_ ?_ ?_ ?_ ?_ ?_
      | rfl
      | assumption
  have h3 : Keeps s₀ x3 := by
    try subst x3
    repeat' first
      | with_reducible assumption | intro _
      | (with_reducible first | apply keep_modRst | apply keep_forEach | apply keep_wrf | apply keep_clkChange | apply keep_enterHoldover | apply keep_ite)
      | split
      | with_reducible refine keep_set ?_ ?_ ?_ ?_ ?_ ?_
      | rfl
      | assumption
  try clear_value x3; try clear_value x2; try clear_value x1; try clear_value x0
  repeat' first
    | with_reducible assumption | intro _
    | (with_reducible first | apply keep_modRst | apply keep_forEach | apply keep_wrf | apply keep_clkChange | apply keep_enterHoldover | apply keep_ite)
    | split
    | with_reducible refine keep_set ?_ ?_ ?_ ?_ ?_ ?_
    | rfl
    | assumption

theorem keep_execStrapSample {a0 a1} {t} (h : Keeps s₀ a1) (e : execStrapSample a0 a1 = .next t) : Keeps s₀ t := by
  delta execStrapSample at e
  refine keep_run e ?_
  clear e
  repeat' first
    | with_reducible assumption | intro _
    | (with_reducible first | apply keep_strapSample)

theorem keep_secmPass {a0} (h : Keeps s₀ a0) : Keeps s₀ (secmPass a0) := by
  delta secmPass
  refine keep_logC (h.same rfl rfl rfl rfl rfl ?_ ?_ rfl ⟨rfl, rfl, rfl⟩ rfl) <;> simp only <;> (repeat' split) <;> rfl

theorem keep_blockReady {a0} (h : Keeps s₀ a0) : Keeps s₀ (blockReady a0) := by
  delta blockReady
  extract_lets x0 x1 x2 x3 x4
  have h1 : Keeps s₀ x1 := by
    try subst x1
    repeat' first
      | with_reducible assumption | intro _
      | (with_reducible first | apply keep_secmPass | apply keep_modRst | apply keep_powerUp | apply keep_ite)
      | split
  have h4 : Keeps s₀ x4 := by
    try subst x4
    repeat' first
      | with_reducible assumption | intro _
      | (with_reducible first | apply keep_secmPass | apply keep_modRst | apply keep_powerUp | apply keep_ite)
      | split
  try clear_value x4; try clear_value x3; try clear_value x2; try clear_value x1; try clear_value x0
  repeat' first
    | with_reducible assumption | intro _
    | (with_reducible first | apply keep_secmPass | apply keep_modRst | apply keep_powerUp | apply keep_ite)
    | split

theorem keep_execBlockReady {a0} {t} (h : Keeps s₀ a0) (e : execBlockReady a0 = .next t) : Keeps s₀ t := by
  delta execBlockReady at e
  refine keep_run e ?_
  clear e
  repeat' first
    | with_reducible assumption | intro _
    | (with_reducible first | apply keep_blockReady)

theorem keep_releaseComplete {a0} (h : Keeps s₀ a0) : Keeps s₀ (releaseComplete a0) := by
  delta releaseComplete
  extract_lets x0 x1 x2 x3 x4 x5 x6
  have h2 : Keeps s₀ x2 := by
    try subst x2
    repeat' first
      | with_reducible assumption | intro _
      | (with_reducible first | apply keep_modRst | apply keep_logC | apply keep_when_ | apply keep_modSecm | apply keep_loaderStart | apply keep_restoreRecs | apply keep_restoreGens | apply keep_rebuild | apply keep_ite)
      | split
      | with_reducible refine keep_set ?_ ?_ ?_ ?_ ?_ ?_
      | rfl
      | assumption
  have h3 : Keeps s₀ x3 := by
    try subst x3
    repeat' first
      | with_reducible assumption | intro _
      | (with_reducible first | apply keep_modRst | apply keep_logC | apply keep_when_ | apply keep_modSecm | apply keep_loaderStart | apply keep_restoreRecs | apply keep_restoreGens | apply keep_rebuild | apply keep_ite)
      | split
      | with_reducible refine keep_set ?_ ?_ ?_ ?_ ?_ ?_
      | rfl
      | assumption
  have h4 : Keeps s₀ x4 := by
    try subst x4
    repeat' first
      | with_reducible assumption | intro _
      | (with_reducible first | apply keep_modRst | apply keep_logC | apply keep_when_ | apply keep_modSecm | apply keep_loaderStart | apply keep_restoreRecs | apply keep_restoreGens | apply keep_rebuild | apply keep_ite)
      | split
      | with_reducible refine keep_set ?_ ?_ ?_ ?_ ?_ ?_
      | rfl
      | assumption
  have h5 : Keeps s₀ x5 := by
    try subst x5
    repeat' first
      | with_reducible assumption | intro _
      | (with_reducible first | apply keep_modRst | apply keep_logC | apply keep_when_ | apply keep_modSecm | apply keep_loaderStart | apply keep_restoreRecs | apply keep_restoreGens | apply keep_rebuild | apply keep_ite)
      | split
      | with_reducible refine keep_set ?_ ?_ ?_ ?_ ?_ ?_
      | rfl
      | assumption
  have h6 : Keeps s₀ x6 := by
    try subst x6
    repeat' first
      | with_reducible assumption | intro _
      | (with_reducible first | apply keep_modRst | apply keep_logC | apply keep_when_ | apply keep_modSecm | apply keep_loaderStart | apply keep_restoreRecs | apply keep_restoreGens | apply keep_rebuild | apply keep_ite)
      | split
      | with_reducible refine keep_set ?_ ?_ ?_ ?_ ?_ ?_
      | rfl
      | assumption
  try clear_value x6; try clear_value x5; try clear_value x4; try clear_value x3; try clear_value x2; try clear_value x1; try clear_value x0
  repeat' first
    | with_reducible assumption | intro _
    | (with_reducible first | apply keep_modRst | apply keep_logC | apply keep_when_ | apply keep_modSecm | apply keep_loaderStart | apply keep_restoreRecs | apply keep_restoreGens | apply keep_rebuild | apply keep_ite)
    | split
    | with_reducible refine keep_set ?_ ?_ ?_ ?_ ?_ ?_
    | rfl
    | assumption

theorem keep_execReleaseComplete {a0} {t} (h : Keeps s₀ a0) (e : execReleaseComplete a0 = .next t) : Keeps s₀ t := by
  delta execReleaseComplete at e
  refine keep_run e ?_
  clear e
  repeat' first
    | with_reducible assumption | intro _
    | (with_reducible first | apply keep_releaseComplete)

theorem keep_rstBlockStall {a0 a1} (h : Keeps s₀ a1) : Keeps s₀ (rstBlockStall a0 a1) := by
  delta rstBlockStall
  repeat' first
    | with_reducible assumption | intro _
    | (with_reducible first | apply keep_blockStat | apply keep_stallBegin | apply keep_ite)
    | split

theorem keep_execRstBlockStall {a0 a1} {t} (h : Keeps s₀ a1) (e : execRstBlockStall a0 a1 = .next t) : Keeps s₀ t := by
  delta execRstBlockStall at e
  refine keep_run e ?_
  clear e
  repeat' first
    | with_reducible assumption | intro _
    | (with_reducible first | apply keep_rstBlockStall)

theorem keep_vfFlr {a0 a1} (h : Keeps s₀ a1) : Keeps s₀ (vfFlr a0 a1) := by
  delta vfFlr
  repeat' first
    | with_reducible assumption | intro _
    | (with_reducible first | apply keep_await | apply keep_stallBegin | apply keep_ite)
    | extract_lets | split
    | refine keep_eq2 (by with_reducible assumption) ?_ | refine keep_eq1 (by with_reducible assumption) ?_

theorem keep_execVfFlr {a0 a1} {t} (h : Keeps s₀ a1) (e : execVfFlr a0 a1 = .next t) : Keeps s₀ t := by
  delta execVfFlr at e
  refine keep_run e ?_
  clear e
  repeat' first
    | with_reducible assumption | intro _
    | (with_reducible first | apply keep_vfFlr)

theorem keep_execPfFlr {a0} {t} (h : Keeps s₀ a0) (e : execPfFlr a0 = .next t) : Keeps s₀ t := by
  delta execPfFlr at e
  refine keep_run e ?_
  clear e
  repeat' first
    | with_reducible assumption | intro _
    | (with_reducible first | apply keep_takeReset)

theorem keep_dropFrames {a0} (h : Keeps s₀ a0) : Keeps s₀ (dropFrames a0) := by
  delta dropFrames
  extract_lets x0 x1
  have h0 : Keeps s₀ x0 := by
    try subst x0
    repeat' first
      | with_reducible assumption | intro _
      | (with_reducible first | apply keep_forEach | apply keep_settleFrame | apply keep_portCount | apply keep_modSpg)
  have h1 : Keeps s₀ x1 := by
    try subst x1
    repeat' first
      | with_reducible assumption | intro _
      | (with_reducible first | apply keep_forEach | apply keep_settleFrame | apply keep_portCount | apply keep_modSpg)
  try clear_value x1; try clear_value x0
  repeat' first
    | with_reducible assumption | intro _
    | (with_reducible first | apply keep_forEach | apply keep_settleFrame | apply keep_portCount | apply keep_modSpg)

theorem keep_egrCycle {a0} (h : Keeps s₀ a0) : Keeps s₀ (egrCycle a0) := by
  delta egrCycle
  extract_lets x0
  have h0 : Keeps s₀ x0 := by
    try subst x0
    repeat' first
      | with_reducible assumption | intro _
      | (with_reducible first | apply keep_cycleDom | apply keep_modSpg)
      | with_reducible refine keep_set ?_ ?_ ?_ ?_ ?_ ?_
      | rfl
      | (with_reducible first | apply memory_put | apply memory_putBytes | apply memory_filter | apply memory_delRange | apply memory_copyRange | apply memory_foldl | apply memory_setRange | apply memory_rowApply | apply memory_unitApply)
      | assumption
  try clear_value x0
  repeat' first
    | with_reducible assumption | intro _
    | (with_reducible first | apply keep_cycleDom | apply keep_modSpg)
    | with_reducible refine keep_set ?_ ?_ ?_ ?_ ?_ ?_
    | rfl
    | (with_reducible first | apply memory_put | apply memory_putBytes | apply memory_filter | apply memory_delRange | apply memory_copyRange | apply memory_foldl | apply memory_setRange | apply memory_rowApply | apply memory_unitApply)
    | assumption

theorem keep_rstBlockEgr {a0} (h : Keeps s₀ a0) : Keeps s₀ (rstBlockEgr a0) := by
  delta rstBlockEgr
  extract_lets x0
  have h0 : Keeps s₀ x0 := by
    try subst x0
    repeat' first
      | with_reducible assumption | intro _
      | (with_reducible first | apply keep_egrCycle | apply keep_blockStat | apply keep_dropFrames | apply keep_modRst | apply keep_await | apply keep_ite | apply keep_ite1 | apply keep_ite2 | apply keep_ite3)
      | extract_lets | split
      | refine keep_eq2 (by with_reducible assumption) ?_ | refine keep_eq1 (by with_reducible assumption) ?_
  try clear_value x0
  repeat' first
    | with_reducible assumption | intro _
    | (with_reducible first | apply keep_egrCycle | apply keep_blockStat | apply keep_dropFrames | apply keep_modRst | apply keep_await | apply keep_ite | apply keep_ite1 | apply keep_ite2 | apply keep_ite3)
    | extract_lets | split
    | refine keep_eq2 (by with_reducible assumption) ?_ | refine keep_eq1 (by with_reducible assumption) ?_

theorem keep_execRstBlockEgr {a0} {t} (h : Keeps s₀ a0) (e : execRstBlockEgr a0 = .next t) : Keeps s₀ t := by
  delta execRstBlockEgr at e
  refine keep_run e ?_
  clear e
  repeat' first
    | with_reducible assumption | intro _
    | (with_reducible first | apply keep_rstBlockEgr)

theorem keep_rstBlockCcr {a0} (h : Keeps s₀ a0) : Keeps s₀ (rstBlockCcr a0) := by
  delta rstBlockCcr
  extract_lets x0 x1 x2 x3
  have h0 : Keeps s₀ x0 := by
    try subst x0
    repeat' first
      | with_reducible assumption | intro _
      | (with_reducible first | apply keep_blockStat | apply keep_modRst | apply keep_forEach | apply keep_modThread | apply keep_modWks | apply keep_cycleDom | apply keep_ite | apply keep_ite1 | apply keep_ite2 | apply keep_ite3)
      | split
  have h2 : Keeps s₀ x2 := by
    try subst x2
    repeat' first
      | with_reducible assumption | intro _
      | (with_reducible first | apply keep_blockStat | apply keep_modRst | apply keep_forEach | apply keep_modThread | apply keep_modWks | apply keep_cycleDom | apply keep_ite | apply keep_ite1 | apply keep_ite2 | apply keep_ite3)
      | split
  have h3 : Keeps s₀ x3 := by
    try subst x3
    repeat' first
      | with_reducible assumption | intro _
      | (with_reducible first | apply keep_blockStat | apply keep_modRst | apply keep_forEach | apply keep_modThread | apply keep_modWks | apply keep_cycleDom | apply keep_ite | apply keep_ite1 | apply keep_ite2 | apply keep_ite3)
      | split
  try clear_value x3; try clear_value x2; try clear_value x0
  repeat' first
    | with_reducible assumption | intro _
    | (with_reducible first | apply keep_blockStat | apply keep_modRst | apply keep_forEach | apply keep_modThread | apply keep_modWks | apply keep_cycleDom | apply keep_ite | apply keep_ite1 | apply keep_ite2 | apply keep_ite3)
    | split

theorem keep_execRstBlockCcr {a0} {t} (h : Keeps s₀ a0) (e : execRstBlockCcr a0 = .next t) : Keeps s₀ t := by
  delta execRstBlockCcr at e
  refine keep_run e ?_
  clear e
  repeat' first
    | with_reducible assumption | intro _
    | (with_reducible first | apply keep_rstBlockCcr)

theorem keep_quiesceTimeout {a0} (h : Keeps s₀ a0) : Keeps s₀ (quiesceTimeout a0) := by
  delta quiesceTimeout
  repeat' first
    | with_reducible assumption | intro _
    | (with_reducible first | apply keep_setBit | apply keep_logC | apply keep_stallApply | apply keep_egrCycle | apply keep_cycleDom | apply keep_ite)
    | extract_lets | split
    | refine keep_eq2 (by with_reducible assumption) ?_ | refine keep_eq1 (by with_reducible assumption) ?_

theorem keep_execQuiesceTimeout {a0} {t} (h : Keeps s₀ a0) (e : execQuiesceTimeout a0 = .next t) : Keeps s₀ t := by
  delta execQuiesceTimeout at e
  refine keep_run e ?_
  clear e
  repeat' first
    | with_reducible assumption | intro _
    | (with_reducible first | apply keep_quiesceTimeout)

/-! ### HostLink -/

theorem keep_linkChange {a0 a1 a2} (h : Keeps s₀ a2) : Keeps s₀ (linkChange a0 a1 a2) := by
  delta linkChange
  repeat' first
    | with_reducible assumption | intro _
    | (with_reducible first | apply keep_logC | apply keep_wrf | apply keep_ite)
    | split

theorem keep_execPcieLinkChange {a0 a1 a2} {t} (h : Keeps s₀ a2) (e : execPcieLinkChange a0 a1 a2 = .next t) : Keeps s₀ t := by
  delta execPcieLinkChange at e
  refine keep_run e ?_
  clear e
  repeat' first
    | with_reducible assumption | intro _
    | (with_reducible first | apply keep_linkChange)

theorem keep_l1Entry {a0} (h : Keeps s₀ a0) : Keeps s₀ (l1Entry a0) := by
  delta l1Entry
  repeat' first
    | with_reducible assumption | intro _
    | (with_reducible first | apply keep_emit | apply keep_modSpg | apply keep_ite)
    | split

theorem keep_execAspmL1Entry {a0} {t} (h : Keeps s₀ a0) (e : execAspmL1Entry a0 = .next t) : Keeps s₀ t := by
  delta execAspmL1Entry at e
  refine keep_run e ?_
  clear e
  repeat' first
    | with_reducible assumption | intro _
    | (with_reducible first | apply keep_l1Entry)

theorem keep_execPfD3hot {a0} {t} (h : Keeps s₀ a0) (e : execPfD3hot a0 = .next t) : Keeps s₀ t := by
  delta execPfD3hot at e
  refine keep_run e ?_
  clear e
  repeat' first
    | with_reducible assumption | intro _
    | (with_reducible first | apply keep_emit | apply keep_modSpg)

theorem keep_l1Leave {a0} (h : Keeps s₀ a0) : Keeps s₀ (l1Leave a0) := by
  delta l1Leave
  repeat' first
    | with_reducible assumption | intro _
    | (with_reducible first | apply keep_emit | apply keep_modSpg | apply keep_ite)
    | split

theorem keep_execL1Exit {a0} {t} (h : Keeps s₀ a0) (e : execL1Exit a0 = .next t) : Keeps s₀ t := by
  delta execL1Exit at e
  refine keep_run e ?_
  clear e
  repeat' first
    | with_reducible assumption | intro _
    | (with_reducible first | apply keep_l1Leave)

theorem keep_execDmaError {a0 a1} {t} (h : Keeps s₀ a1) (e : execDmaError a0 a1 = .next t) : Keeps s₀ t := by
  delta execDmaError at e
  refine keep_run e ?_
  clear e
  repeat' first
    | with_reducible assumption | intro _
    | (with_reducible first | apply keep_dmaFail)

theorem keep_smbServe {a0 a1 a2} (ha1 : ∀ y0, Keeps s₀ y0 → Keeps s₀ (a1 y0)) (h : Keeps s₀ a2) : Keeps s₀ (smbServe a0 a1 a2) := by
  delta smbServe
  repeat' first
    | with_reducible assumption | intro _
    | (with_reducible first | apply ha1 | apply keep_bumpSat | apply keep_ite)
    | split

theorem keep_smbAnswer {a0 a1 a2} (h : Keeps s₀ a2) : Keeps s₀ (smbAnswer a0 a1 a2) := by
  delta smbAnswer
  repeat' first
    | with_reducible assumption | intro _
    | (with_reducible first | apply keep_smbServe | apply keep_emit)

theorem keep_execSmbSerial {a0 a1} {t} (h : Keeps s₀ a1) (e : execSmbSerial a0 a1 = .next t) : Keeps s₀ t := by
  delta execSmbSerial at e
  refine keep_run e ?_
  clear e
  repeat' first
    | with_reducible assumption | intro _
    | (with_reducible first | apply keep_smbAnswer)

theorem keep_execSmbTemp {a0 a1} {t} (h : Keeps s₀ a1) (e : execSmbTemp a0 a1 = .next t) : Keeps s₀ t := by
  delta execSmbTemp at e
  refine keep_run e ?_
  clear e
  repeat' first
    | with_reducible assumption | intro _
    | (with_reducible first | apply keep_smbAnswer)

theorem keep_execSmbResetCause {a0 a1} {t} (h : Keeps s₀ a1) (e : execSmbResetCause a0 a1 = .next t) : Keeps s₀ t := by
  delta execSmbResetCause at e
  refine keep_run e ?_
  clear e
  repeat' first
    | with_reducible assumption | intro _
    | (with_reducible first | apply keep_smbAnswer)

theorem keep_execSmbLogSummary {a0 a1} {t} (h : Keeps s₀ a1) (e : execSmbLogSummary a0 a1 = .next t) : Keeps s₀ t := by
  delta execSmbLogSummary at e
  refine keep_run e ?_
  clear e
  repeat' first
    | with_reducible assumption | intro _
    | (with_reducible first | apply keep_smbAnswer)

theorem keep_execSmbPower {a0 a1} {t} (h : Keeps s₀ a1) (e : execSmbPower a0 a1 = .next t) : Keeps s₀ t := by
  delta execSmbPower at e
  refine keep_run e ?_
  clear e
  repeat' first
    | with_reducible assumption | intro _
    | (with_reducible first | apply keep_smbAnswer)

theorem keep_execSmbFt {a0 a1} {t} (h : Keeps s₀ a1) (e : execSmbFt a0 a1 = .next t) : Keeps s₀ t := by
  delta execSmbFt at e
  refine keep_run e ?_
  clear e
  repeat' first
    | with_reducible assumption | intro _
    | (with_reducible first | apply keep_smbAnswer)

theorem keep_execSmbWake {a0 a1 a2} {t} (h : Keeps s₀ a2) (e : execSmbWake a0 a1 a2 = .next t) : Keeps s₀ t := by
  delta execSmbWake at e
  refine keep_run e ?_
  clear e
  repeat' first
    | with_reducible assumption | intro _
    | (with_reducible first | apply keep_smbServe | apply keep_wakeAll | apply keep_logC)

theorem keep_tapInstr {a0 a1} (h : Keeps s₀ a1) : Keeps s₀ (tapInstr a0 a1) := by
  delta tapInstr
  repeat' first
    | with_reducible assumption | intro _
    | (with_reducible first | apply keep_modSpg)

theorem keep_execBypass {a0} {t} (h : Keeps s₀ a0) (e : execBypass a0 = .next t) : Keeps s₀ t := by
  delta execBypass at e
  refine keep_run e ?_
  clear e
  repeat' first
    | with_reducible assumption | intro _
    | (with_reducible first | apply keep_tapInstr)

theorem keep_tapIdcode {a0} (h : Keeps s₀ a0) : Keeps s₀ (tapIdcode a0) := by
  delta tapIdcode
  repeat' first
    | with_reducible assumption | intro _
    | (with_reducible first | apply keep_emit | apply keep_modSpg | apply keep_tapInstr)

theorem keep_execIdcode {a0} {t} (h : Keeps s₀ a0) (e : execIdcode a0 = .next t) : Keeps s₀ t := by
  delta execIdcode at e
  refine keep_run e ?_
  clear e
  repeat' first
    | with_reducible assumption | intro _
    | (with_reducible first | apply keep_tapIdcode)

theorem keep_execSamplePreload {a0} {t} (h : Keeps s₀ a0) (e : execSamplePreload a0 = .next t) : Keeps s₀ t := by
  delta execSamplePreload at e
  refine keep_run e ?_
  clear e
  repeat' first
    | with_reducible assumption | intro _
    | (with_reducible first | apply keep_tapInstr)

theorem keep_execExtest {a0} {t} (h : Keeps s₀ a0) (e : execExtest a0 = .next t) : Keeps s₀ t := by
  delta execExtest at e
  refine keep_run e ?_
  clear e
  repeat' first
    | with_reducible assumption | intro _
    | (with_reducible first | apply keep_tapInstr)

theorem keep_execClamp {a0} {t} (h : Keeps s₀ a0) (e : execClamp a0 = .next t) : Keeps s₀ t := by
  delta execClamp at e
  refine keep_run e ?_
  clear e
  repeat' first
    | with_reducible assumption | intro _
    | (with_reducible first | apply keep_tapInstr)

theorem keep_execHighz {a0} {t} (h : Keeps s₀ a0) (e : execHighz a0 = .next t) : Keeps s₀ t := by
  delta execHighz at e
  refine keep_run e ?_
  clear e
  repeat' first
    | with_reducible assumption | intro _
    | (with_reducible first | apply keep_tapInstr)

/-! ### Access -/

theorem keep_rstCtl {a0 a1 a2} (h : Keeps s₀ a2) : Keeps s₀ (rstCtl a0 a1 a2) := by
  delta rstCtl
  extract_lets x0 x1
  have h0 : Keeps s₀ x0 := by
    try subst x0
    repeat' first
      | with_reducible assumption | intro _
      | (with_reducible first | apply keep_when_ | apply keep_safeClr | apply keep_takeResets | apply keep_ite)
      | split
  try clear_value x1; try clear_value x0
  repeat' first
    | with_reducible assumption | intro _
    | (with_reducible first | apply keep_when_ | apply keep_safeClr | apply keep_takeResets | apply keep_ite)
    | split

theorem keep_rstBlock {a0 a1} (h : Keeps s₀ a1) : Keeps s₀ (rstBlock a0 a1) := by
  delta rstBlock
  extract_lets x0
  try clear_value x0
  repeat' first
    | with_reducible assumption | intro _
    | (with_reducible first | apply keep_rstBlockStall | apply keep_rstBlockEgr | apply keep_rstBlockCcr | apply keep_blockStat | apply keep_ite)
    | split

theorem keep_logCtl {a0 a1} (h : Keeps s₀ a1) : Keeps s₀ (logCtl a0 a1) := by
  delta logCtl
  repeat' first
    | with_reducible assumption | intro _
    | (with_reducible first | apply keep_when_ | apply keep_logUnfreeze | apply keep_plainWrite)

theorem keep_haltCtl {a0 a1} (h : Keeps s₀ a1) : Keeps s₀ (haltCtl a0 a1) := by
  delta haltCtl
  repeat' first
    | with_reducible assumption | intro _
    | (with_reducible first | apply keep_when_ | apply keep_haltRaise | apply keep_haltCtlClear | apply keep_plainWrite)

theorem keep_imgCtl {a0 a1} (h : Keeps s₀ a1) : Keeps s₀ (imgCtl a0 a1) := by
  delta imgCtl
  extract_lets x0 x1 x2
  have h1 : Keeps s₀ x1 := by
    try subst x1
    repeat' first
      | with_reducible assumption | intro _
      | (with_reducible first | apply keep_imgStart | apply keep_wrf | apply keep_proceed | apply keep_when_ | apply keep_imgCtlAbort | apply keep_ite)
      | split
  have h2 : Keeps s₀ x2 := by
    try subst x2
    repeat' first
      | with_reducible assumption | intro _
      | (with_reducible first | apply keep_imgStart | apply keep_wrf | apply keep_proceed | apply keep_when_ | apply keep_imgCtlAbort | apply keep_ite)
      | split
  try clear_value x2; try clear_value x1; try clear_value x0
  repeat' first
    | with_reducible assumption | intro _
    | (with_reducible first | apply keep_imgStart | apply keep_wrf | apply keep_proceed | apply keep_when_ | apply keep_imgCtlAbort | apply keep_ite)
    | split

theorem keep_discCtl {a0 a1} (h : Keeps s₀ a1) : Keeps s₀ (discCtl a0 a1) := by
  delta discCtl
  repeat' first
    | with_reducible assumption | intro _
    | (with_reducible first | apply keep_when_ | apply keep_fabDiscStart | apply keep_plainWrite)

theorem keep_linkCtl {a0 a1 a2} (h : Keeps s₀ a2) : Keeps s₀ (linkCtl a0 a1 a2) := by
  delta linkCtl
  extract_lets x0
  have h0 : Keeps s₀ x0 := by
    try subst x0
    repeat' first
      | with_reducible assumption | intro _
      | (with_reducible first | apply keep_linkEnWrite | apply keep_leaveService | apply keep_ite)
      | split
  try clear_value x0
  repeat' first
    | with_reducible assumption | intro _
    | (with_reducible first | apply keep_linkEnWrite | apply keep_leaveService | apply keep_ite)
    | split

theorem keep_secmOp {a0 a1 a2} (h : Keeps s₀ a2) : Keeps s₀ (secmOp a0 a1 a2) := by
  delta secmOp
  repeat' first
    | with_reducible assumption | intro _
    | (with_reducible first | apply keep_secmStatus | apply keep_selftest | apply keep_authChallenge | apply keep_authResponse | apply keep_logout | apply keep_attest | apply keep_random | apply keep_provisionSlot | apply keep_clearSlot | apply keep_lcProvision | apply keep_lcAdvance | apply keep_ctrRaise | apply keep_debugUnlock | apply keep_zeroiseCmd | apply keep_modSess | apply keep_secmEnd | apply keep_ite)
    | extract_lets | split
    | refine keep_eq2 (by with_reducible assumption) ?_ | refine keep_eq1 (by with_reducible assumption) ?_

theorem keep_secmWrite {a0 a1 a2 a3} (h : Keeps s₀ a3) : Keeps s₀ (secmWrite a0 a1 a2 a3) := by
  delta secmWrite
  extract_lets x0
  try clear_value x0
  repeat' first
    | with_reducible assumption | intro _
    | (with_reducible first | apply keep_secmOp | apply keep_modSess | apply keep_plainWrite | apply keep_ite)
    | split

theorem keep_egrWrite {a0 a1 a2} (h : Keeps s₀ a2) : Keeps s₀ (egrWrite a0 a1 a2) := by
  delta egrWrite
  extract_lets x0
  try clear_value x0
  repeat' first
    | with_reducible assumption | intro _
    | (with_reducible first | apply keep_egrLoad | apply keep_when_ | apply keep_ptpActivate | apply keep_modSpg | apply keep_modPort | apply keep_modLease | apply keep_leaseGrant | apply keep_plainWrite | apply keep_ite)
    | extract_lets | split
    | refine keep_eq2 (by with_reducible assumption) ?_ | refine keep_eq1 (by with_reducible assumption) ?_

theorem keep_stallWrite {a0 a1 a2 a3 a4} (h : Keeps s₀ a4) : Keeps s₀ (stallWrite a0 a1 a2 a3 a4) := by
  delta stallWrite
  extract_lets x0
  try clear_value x0
  repeat' first
    | with_reducible assumption | intro _
    | (with_reducible first | apply keep_chCreate | apply keep_chDestroy | apply keep_chModify | apply keep_chCode | apply keep_sqDb | apply keep_cqDb | apply keep_tillSnap | apply keep_ringCreate | apply keep_ringDestroy | apply keep_ringDb | apply keep_plainWrite | apply keep_ite)
    | extract_lets | split
    | refine keep_eq2 (by with_reducible assumption) ?_ | refine keep_eq1 (by with_reducible assumption) ?_

theorem keep_writeReg {a0 a1 a2 a3} (h : Keeps s₀ a3) : Keeps s₀ (writeReg a0 a1 a2 a3) := by
  delta writeReg
  extract_lets x0 x1
  try clear_value x1; try clear_value x0
  repeat' first
    | with_reducible assumption | intro _
    | (with_reducible first | apply keep_rstCtl | apply keep_rstBlock | apply keep_wdtKick | apply keep_rstFab | apply keep_plainWrite | apply keep_pwrReq | apply keep_rechoose | apply keep_secmWrite | apply keep_logCtl | apply keep_logHeadWrite | apply keep_imgCtl | apply keep_imgDrainWrite | apply keep_haltEnWrite | apply keep_haltCtl | apply keep_discCtl | apply keep_farqHeadWrite | apply keep_linkCtl | apply keep_spgBind | apply keep_spgUnbind | apply keep_ruleEnWrite | apply keep_egrWrite | apply keep_mbxFree | apply keep_mbxPost | apply keep_coreRepair | apply keep_wksSubmitGo | apply keep_setBit | apply keep_clearFlag | apply keep_postFlag | apply keep_dlyRemove | apply keep_dlyInsert | apply keep_maskStage | apply keep_maskCommit | apply keep_maskRelease | apply keep_when_ | apply keep_pimAbort | apply keep_pimGo | apply keep_stallWrite | apply keep_ite)
    | extract_lets | split
    | refine keep_eq2 (by with_reducible assumption) ?_ | refine keep_eq1 (by with_reducible assumption) ?_

theorem keep_writeNow {a0 a1 a2 a3} (h : Keeps s₀ a3) : Keeps s₀ (writeNow a0 a1 a2 a3) := by
  delta writeNow
  extract_lets x0
  have h0 : Keeps s₀ x0 := by
    try subst x0
    repeat' first
      | with_reducible assumption | intro _
      | (with_reducible first | apply keep_writeReg | apply keep_wr | apply keep_ite | apply keep_ite1 | apply keep_ite2 | apply keep_ite3)
      | extract_lets | split
      | refine keep_eq2 (by with_reducible assumption) ?_ | refine keep_eq1 (by with_reducible assumption) ?_
      | with_reducible refine keep_set ?_ ?_ ?_ ?_ ?_ ?_
      | rfl
      | assumption
  try clear_value x0
  repeat' first
    | with_reducible assumption | intro _
    | (with_reducible first | apply keep_writeReg | apply keep_wr | apply keep_ite | apply keep_ite1 | apply keep_ite2 | apply keep_ite3)
    | extract_lets | split
    | refine keep_eq2 (by with_reducible assumption) ?_ | refine keep_eq1 (by with_reducible assumption) ?_
    | with_reducible refine keep_set ?_ ?_ ?_ ?_ ?_ ?_
    | rfl
    | assumption

theorem keep_perform {a0 a1 a2 a3} (h : Keeps s₀ a3) : Keeps s₀ (perform a0 a1 a2 a3) := by
  delta perform
  extract_lets x0
  have h0 : Keeps s₀ x0.2 := by
    try subst x0
    repeat' first
      | with_reducible assumption | intro _
      | (with_reducible first | apply keep_writeNow | apply keep_readReg | apply keep_emit | apply keep_ite | apply keep_ite1 | apply keep_ite2 | apply keep_ite3)
      | extract_lets | split
      | refine keep_eq2 (by with_reducible assumption) ?_ | refine keep_eq1 (by with_reducible assumption) ?_
  try clear_value x0
  repeat' first
    | with_reducible assumption | intro _
    | (with_reducible first | apply keep_writeNow | apply keep_readReg | apply keep_emit | apply keep_ite | apply keep_ite1 | apply keep_ite2 | apply keep_ite3)
    | extract_lets | split
    | refine keep_eq2 (by with_reducible assumption) ?_ | refine keep_eq1 (by with_reducible assumption) ?_

theorem keep_access {a0 a1 a2 a3 a4} (h : Keeps s₀ a4) : Keeps s₀ (access a0 a1 a2 a3 a4) := by
  delta access
  extract_lets x0 x1
  have h1 : Keeps s₀ x1 := by
    try subst x1
    repeat' first
      | with_reducible assumption | intro _
      | (with_reducible first | apply keep_await | apply keep_modSpg | apply keep_perform | apply keep_touch | apply keep_emit | apply keep_wakeDom | apply keep_ite)
      | extract_lets | split
      | refine keep_eq2 (by with_reducible assumption) ?_ | refine keep_eq1 (by with_reducible assumption) ?_
  try clear_value x1; try clear_value x0
  repeat' first
    | with_reducible assumption | intro _
    | (with_reducible first | apply keep_await | apply keep_modSpg | apply keep_perform | apply keep_touch | apply keep_emit | apply keep_wakeDom | apply keep_ite)
    | extract_lets | split
    | refine keep_eq2 (by with_reducible assumption) ?_ | refine keep_eq1 (by with_reducible assumption) ?_

theorem keep_execRegisterAccessWake {a0 a1 a2 a3} {t} (h : Keeps s₀ a3) (e : execRegisterAccessWake a0 a1 a2 a3 = .next t) : Keeps s₀ t := by
  delta execRegisterAccessWake at e
  refine keep_run e ?_
  clear e
  repeat' first
    | with_reducible assumption | intro _
    | (with_reducible first | apply keep_access)

theorem keep_execRegisterAccessOff {a0 a1 a2 a3} {t} (h : Keeps s₀ a3) (e : execRegisterAccessOff a0 a1 a2 a3 = .next t) : Keeps s₀ t := by
  delta execRegisterAccessOff at e
  refine keep_run e ?_
  clear e
  repeat' first
    | with_reducible assumption | intro _
    | (with_reducible first | apply keep_access)

theorem keep_execRegisterWrite {a0 a1 a2 a3} {t} (h : Keeps s₀ a3) (e : execRegisterWrite a0 a1 a2 a3 = .next t) : Keeps s₀ t := by
  delta execRegisterWrite at e
  refine keep_run e ?_
  clear e
  repeat' first
    | with_reducible assumption | intro _
    | (with_reducible first | apply keep_access)

theorem keep_undecoded {a0 a1 a2 a3} (h : Keeps s₀ a3) : Keeps s₀ (undecoded a0 a1 a2 a3) := by
  delta undecoded
  repeat' first
    | with_reducible assumption | intro _
    | (with_reducible first | apply keep_await | apply keep_emit | apply keep_ite)
    | split

theorem keep_execUndecodedAccess {a0 a1 a2 a3} {t} (h : Keeps s₀ a3) (e : execUndecodedAccess a0 a1 a2 a3 = .next t) : Keeps s₀ t := by
  delta execUndecodedAccess at e
  refine keep_run e ?_
  clear e
  repeat' first
    | with_reducible assumption | intro _
    | (with_reducible first | apply keep_undecoded)

theorem keep_bar2Write {a0 a1 a2} (h : Keeps s₀ a2) : Keeps s₀ (bar2Write a0 a1 a2) := by
  delta bar2Write
  extract_lets x0 x1
  have h0 : Keeps s₀ x0 := by
    try subst x0
    repeat' first
      | with_reducible assumption | intro _
      | (with_reducible first | apply keep_await | apply keep_modSpg | apply keep_wakeDom | apply keep_ite | apply keep_ite1 | apply keep_ite2 | apply keep_ite3 | apply keep_foldl | apply keep_foldl1 | apply keep_foldl2 | apply keep_foldl3)
      | extract_lets | split
      | refine keep_eq2 (by with_reducible assumption) ?_ | refine keep_eq1 (by with_reducible assumption) ?_
      | with_reducible refine keep_set ?_ ?_ ?_ ?_ ?_ ?_
      | rfl
      | (with_reducible first | apply memory_put | apply memory_putBytes | apply memory_filter | apply memory_delRange | apply memory_copyRange | apply memory_foldl | apply memory_setRange | apply memory_rowApply | apply memory_unitApply)
      | assumption
  try clear_value x1; try clear_value x0
  repeat' first
    | with_reducible assumption | intro _
    | (with_reducible first | apply keep_await | apply keep_modSpg | apply keep_wakeDom | apply keep_ite | apply keep_ite1 | apply keep_ite2 | apply keep_ite3 | apply keep_foldl | apply keep_foldl1 | apply keep_foldl2 | apply keep_foldl3)
    | extract_lets | split
    | refine keep_eq2 (by with_reducible assumption) ?_ | refine keep_eq1 (by with_reducible assumption) ?_
    | with_reducible refine keep_set ?_ ?_ ?_ ?_ ?_ ?_
    | rfl
    | (with_reducible first | apply memory_put | apply memory_putBytes | apply memory_filter | apply memory_delRange | apply memory_copyRange | apply memory_foldl | apply memory_setRange | apply memory_rowApply | apply memory_unitApply)
    | assumption

theorem keep_execBar2Write {a0 a1 a2} {t} (h : Keeps s₀ a2) (e : execBar2Write a0 a1 a2 = .next t) : Keeps s₀ t := by
  delta execBar2Write at e
  refine keep_run e ?_
  clear e
  repeat' first
    | with_reducible assumption | intro _
    | (with_reducible first | apply keep_bar2Write)

theorem keep_bar2Read {a0 a1 a2 a3} (h : Keeps s₀ a3) : Keeps s₀ (bar2Read a0 a1 a2 a3) := by
  delta bar2Read
  extract_lets x0 x1 x2 x3 x4 x5
  have h0 : Keeps s₀ x0 := by
    try subst x0
    repeat' first
      | with_reducible assumption | intro _
      | (with_reducible first | apply keep_await | apply keep_modSpg | apply keep_wakeDom | apply keep_forEach | apply keep_logC | apply keep_emit | apply keep_ite)
      | extract_lets | split
      | refine keep_eq2 (by with_reducible assumption) ?_ | refine keep_eq1 (by with_reducible assumption) ?_
  have h5 : Keeps s₀ x5 := by
    try subst x5
    repeat' first
      | with_reducible assumption | intro _
      | (with_reducible first | apply keep_await | apply keep_modSpg | apply keep_wakeDom | apply keep_forEach | apply keep_logC | apply keep_emit | apply keep_ite)
      | extract_lets | split
      | refine keep_eq2 (by with_reducible assumption) ?_ | refine keep_eq1 (by with_reducible assumption) ?_
  try clear_value x5; try clear_value x4; try clear_value x3; try clear_value x2; try clear_value x1; try clear_value x0
  repeat' first
    | with_reducible assumption | intro _
    | (with_reducible first | apply keep_await | apply keep_modSpg | apply keep_wakeDom | apply keep_forEach | apply keep_logC | apply keep_emit | apply keep_ite)
    | extract_lets | split
    | refine keep_eq2 (by with_reducible assumption) ?_ | refine keep_eq1 (by with_reducible assumption) ?_

theorem keep_execBar2Read {a0 a1 a2 a3} {t} (h : Keeps s₀ a3) (e : execBar2Read a0 a1 a2 a3 = .next t) : Keeps s₀ t := by
  delta execBar2Read at e
  refine keep_run e ?_
  clear e
  repeat' first
    | with_reducible assumption | intro _
    | (with_reducible first | apply keep_bar2Read)

end Sys2Proof.Laws
end

