-- ==== Sys2Proof/Laws/State.lean ====
section
/-! SUPPORT. For each operation that changes one component of the state: that component after it, and every other
component as it was. -/
namespace Sys2Proof.Laws
open Sys2Proof.Machine

variable (s : State)

/-! ### modFab -/

@[simp] theorem modFab_fab {f} : (modFab f s).fab = f s.fab := rfl
@[simp] theorem modFab_ft {f} : (modFab f s).ft = s.ft := rfl
@[simp] theorem modFab_regs {f} : (modFab f s).regs = s.regs := rfl
@[simp] theorem modFab_setNow {f} : (modFab f s).setNow = s.setNow := rfl
@[simp] theorem modFab_ccNow {f} : (modFab f s).ccNow = s.ccNow := rfl
@[simp] theorem modFab_serial {f} : (modFab f s).serial = s.serial := rfl
@[simp] theorem modFab_stepping {f} : (modFab f s).stepping = s.stepping := rfl
@[simp] theorem modFab_partX {f} : (modFab f s).partX = s.partX := rfl
@[simp] theorem modFab_straps {f} : (modFab f s).straps = s.straps := rfl
@[simp] theorem modFab_gpio {f} : (modFab f s).gpio = s.gpio := rfl
@[simp] theorem modFab_rst {f} : (modFab f s).rst = s.rst := rfl
@[simp] theorem modFab_doms {f} : (modFab f s).doms = s.doms := rfl
@[simp] theorem modFab_clk {f} : (modFab f s).clk = s.clk := rfl
@[simp] theorem modFab_spg {f} : (modFab f s).spg = s.spg := rfl
@[simp] theorem modFab_conf {f} : (modFab f s).conf = s.conf := rfl
@[simp] theorem modFab_chans {f} : (modFab f s).chans = s.chans := rfl
@[simp] theorem modFab_tills {f} : (modFab f s).tills = s.tills := rfl
@[simp] theorem modFab_tillNow {f} : (modFab f s).tillNow = s.tillNow := rfl
@[simp] theorem modFab_rings {f} : (modFab f s).rings = s.rings := rfl
@[simp] theorem modFab_rtb {f} : (modFab f s).rtb = s.rtb := rfl
@[simp] theorem modFab_side {f} : (modFab f s).side = s.side := rfl
@[simp] theorem modFab_gens {f} : (modFab f s).gens = s.gens := rfl
@[simp] theorem modFab_rtbLatch {f} : (modFab f s).rtbLatch = s.rtbLatch := rfl
@[simp] theorem modFab_pairLatch {f} : (modFab f s).pairLatch = s.pairLatch := rfl
@[simp] theorem modFab_pfx {f} : (modFab f s).pfx = s.pfx := rfl
@[simp] theorem modFab_pfxPages {f} : (modFab f s).pfxPages = s.pfxPages := rfl
@[simp] theorem modFab_listPages {f} : (modFab f s).listPages = s.listPages := rfl
@[simp] theorem modFab_listBlocks {f} : (modFab f s).listBlocks = s.listBlocks := rfl
@[simp] theorem modFab_free {f} : (modFab f s).free = s.free := rfl
@[simp] theorem modFab_pageOwner {f} : (modFab f s).pageOwner = s.pageOwner := rfl
@[simp] theorem modFab_pond {f} : (modFab f s).pond = s.pond := rfl
@[simp] theorem modFab_poison {f} : (modFab f s).poison = s.poison := rfl
@[simp] theorem modFab_admq {f} : (modFab f s).admq = s.admq := rfl
@[simp] theorem modFab_admNext {f} : (modFab f s).admNext = s.admNext := rfl
@[simp] theorem modFab_steps {f} : (modFab f s).steps = s.steps := rfl
@[simp] theorem modFab_aisles {f} : (modFab f s).aisles = s.aisles := rfl
@[simp] theorem modFab_batches {f} : (modFab f s).batches = s.batches := rfl
@[simp] theorem modFab_batchNum {f} : (modFab f s).batchNum = s.batchNum := rfl
@[simp] theorem modFab_fixed {f} : (modFab f s).fixed = s.fixed := rfl
@[simp] theorem modFab_wks {f} : (modFab f s).wks = s.wks := rfl
@[simp] theorem modFab_cc {f} : (modFab f s).cc = s.cc := rfl
@[simp] theorem modFab_masks {f} : (modFab f s).masks = s.masks := rfl
@[simp] theorem modFab_adps {f} : (modFab f s).adps = s.adps := rfl
@[simp] theorem modFab_adpFetch {f} : (modFab f s).adpFetch = s.adpFetch := rfl
@[simp] theorem modFab_adpPages {f} : (modFab f s).adpPages = s.adpPages := rfl
@[simp] theorem modFab_pinPages {f} : (modFab f s).pinPages = s.pinPages := rfl
@[simp] theorem modFab_nmc {f} : (modFab f s).nmc = s.nmc := rfl
@[simp] theorem modFab_secm {f} : (modFab f s).secm = s.secm := rfl
@[simp] theorem modFab_img {f} : (modFab f s).img = s.img := rfl
@[simp] theorem modFab_log {f} : (modFab f s).log = s.log := rfl
@[simp] theorem modFab_heldAcc {f} : (modFab f s).heldAcc = s.heldAcc := rfl
@[simp] theorem modFab_freshN {f} : (modFab f s).freshN = s.freshN := rfl
@[simp] theorem modFab_out {f} : (modFab f s).out = s.out := rfl
@[simp] theorem modFab_pending {f} : (modFab f s).pending = s.pending := rfl

/-! ### setLink -/

@[simp] theorem setLink_fab {p l} : (setLink p l s).fab = { s.fab with links := put s.fab.links p l {} } := rfl
@[simp] theorem setLink_ft {p l} : (setLink p l s).ft = s.ft := rfl
@[simp] theorem setLink_regs {p l} : (setLink p l s).regs = s.regs := rfl
@[simp] theorem setLink_setNow {p l} : (setLink p l s).setNow = s.setNow := rfl
@[simp] theorem setLink_ccNow {p l} : (setLink p l s).ccNow = s.ccNow := rfl
@[simp] theorem setLink_serial {p l} : (setLink p l s).serial = s.serial := rfl
@[simp] theorem setLink_stepping {p l} : (setLink p l s).stepping = s.stepping := rfl
@[simp] theorem setLink_partX {p l} : (setLink p l s).partX = s.partX := rfl
@[simp] theorem setLink_straps {p l} : (setLink p l s).straps = s.straps := rfl
@[simp] theorem setLink_gpio {p l} : (setLink p l s).gpio = s.gpio := rfl
@[simp] theorem setLink_rst {p l} : (setLink p l s).rst = s.rst := rfl
@[simp] theorem setLink_doms {p l} : (setLink p l s).doms = s.doms := rfl
@[simp] theorem setLink_clk {p l} : (setLink p l s).clk = s.clk := rfl
@[simp] theorem setLink_spg {p l} : (setLink p l s).spg = s.spg := rfl
@[simp] theorem setLink_conf {p l} : (setLink p l s).conf = s.conf := rfl
@[simp] theorem setLink_chans {p l} : (setLink p l s).chans = s.chans := rfl
@[simp] theorem setLink_tills {p l} : (setLink p l s).tills = s.tills := rfl
@[simp] theorem setLink_tillNow {p l} : (setLink p l s).tillNow = s.tillNow := rfl
@[simp] theorem setLink_rings {p l} : (setLink p l s).rings = s.rings := rfl
@[simp] theorem setLink_rtb {p l} : (setLink p l s).rtb = s.rtb := rfl
@[simp] theorem setLink_side {p l} : (setLink p l s).side = s.side := rfl
@[simp] theorem setLink_gens {p l} : (setLink p l s).gens = s.gens := rfl
@[simp] theorem setLink_rtbLatch {p l} : (setLink p l s).rtbLatch = s.rtbLatch := rfl
@[simp] theorem setLink_pairLatch {p l} : (setLink p l s).pairLatch = s.pairLatch := rfl
@[simp] theorem setLink_pfx {p l} : (setLink p l s).pfx = s.pfx := rfl
@[simp] theorem setLink_pfxPages {p l} : (setLink p l s).pfxPages = s.pfxPages := rfl
@[simp] theorem setLink_listPages {p l} : (setLink p l s).listPages = s.listPages := rfl
@[simp] theorem setLink_listBlocks {p l} : (setLink p l s).listBlocks = s.listBlocks := rfl
@[simp] theorem setLink_free {p l} : (setLink p l s).free = s.free := rfl
@[simp] theorem setLink_pageOwner {p l} : (setLink p l s).pageOwner = s.pageOwner := rfl
@[simp] theorem setLink_pond {p l} : (setLink p l s).pond = s.pond := rfl
@[simp] theorem setLink_poison {p l} : (setLink p l s).poison = s.poison := rfl
@[simp] theorem setLink_admq {p l} : (setLink p l s).admq = s.admq := rfl
@[simp] theorem setLink_admNext {p l} : (setLink p l s).admNext = s.admNext := rfl
@[simp] theorem setLink_steps {p l} : (setLink p l s).steps = s.steps := rfl
@[simp] theorem setLink_aisles {p l} : (setLink p l s).aisles = s.aisles := rfl
@[simp] theorem setLink_batches {p l} : (setLink p l s).batches = s.batches := rfl
@[simp] theorem setLink_batchNum {p l} : (setLink p l s).batchNum = s.batchNum := rfl
@[simp] theorem setLink_fixed {p l} : (setLink p l s).fixed = s.fixed := rfl
@[simp] theorem setLink_wks {p l} : (setLink p l s).wks = s.wks := rfl
@[simp] theorem setLink_cc {p l} : (setLink p l s).cc = s.cc := rfl
@[simp] theorem setLink_masks {p l} : (setLink p l s).masks = s.masks := rfl
@[simp] theorem setLink_adps {p l} : (setLink p l s).adps = s.adps := rfl
@[simp] theorem setLink_adpFetch {p l} : (setLink p l s).adpFetch = s.adpFetch := rfl
@[simp] theorem setLink_adpPages {p l} : (setLink p l s).adpPages = s.adpPages := rfl
@[simp] theorem setLink_pinPages {p l} : (setLink p l s).pinPages = s.pinPages := rfl
@[simp] theorem setLink_nmc {p l} : (setLink p l s).nmc = s.nmc := rfl
@[simp] theorem setLink_secm {p l} : (setLink p l s).secm = s.secm := rfl
@[simp] theorem setLink_img {p l} : (setLink p l s).img = s.img := rfl
@[simp] theorem setLink_log {p l} : (setLink p l s).log = s.log := rfl
@[simp] theorem setLink_heldAcc {p l} : (setLink p l s).heldAcc = s.heldAcc := rfl
@[simp] theorem setLink_freshN {p l} : (setLink p l s).freshN = s.freshN := rfl
@[simp] theorem setLink_out {p l} : (setLink p l s).out = s.out := rfl
@[simp] theorem setLink_pending {p l} : (setLink p l s).pending = s.pending := rfl

/-! ### modLink -/

@[simp] theorem modLink_fab {p f} : (modLink p f s).fab = { s.fab with links := put s.fab.links p (f (link s p)) {} } := rfl
@[simp] theorem modLink_ft {p f} : (modLink p f s).ft = s.ft := rfl
@[simp] theorem modLink_regs {p f} : (modLink p f s).regs = s.regs := rfl
@[simp] theorem modLink_setNow {p f} : (modLink p f s).setNow = s.setNow := rfl
@[simp] theorem modLink_ccNow {p f} : (modLink p f s).ccNow = s.ccNow := rfl
@[simp] theorem modLink_serial {p f} : (modLink p f s).serial = s.serial := rfl
@[simp] theorem modLink_stepping {p f} : (modLink p f s).stepping = s.stepping := rfl
@[simp] theorem modLink_partX {p f} : (modLink p f s).partX = s.partX := rfl
@[simp] theorem modLink_straps {p f} : (modLink p f s).straps = s.straps := rfl
@[simp] theorem modLink_gpio {p f} : (modLink p f s).gpio = s.gpio := rfl
@[simp] theorem modLink_rst {p f} : (modLink p f s).rst = s.rst := rfl
@[simp] theorem modLink_doms {p f} : (modLink p f s).doms = s.doms := rfl
@[simp] theorem modLink_clk {p f} : (modLink p f s).clk = s.clk := rfl
@[simp] theorem modLink_spg {p f} : (modLink p f s).spg = s.spg := rfl
@[simp] theorem modLink_conf {p f} : (modLink p f s).conf = s.conf := rfl
@[simp] theorem modLink_chans {p f} : (modLink p f s).chans = s.chans := rfl
@[simp] theorem modLink_tills {p f} : (modLink p f s).tills = s.tills := rfl
@[simp] theorem modLink_tillNow {p f} : (modLink p f s).tillNow = s.tillNow := rfl
@[simp] theorem modLink_rings {p f} : (modLink p f s).rings = s.rings := rfl
@[simp] theorem modLink_rtb {p f} : (modLink p f s).rtb = s.rtb := rfl
@[simp] theorem modLink_side {p f} : (modLink p f s).side = s.side := rfl
@[simp] theorem modLink_gens {p f} : (modLink p f s).gens = s.gens := rfl
@[simp] theorem modLink_rtbLatch {p f} : (modLink p f s).rtbLatch = s.rtbLatch := rfl
@[simp] theorem modLink_pairLatch {p f} : (modLink p f s).pairLatch = s.pairLatch := rfl
@[simp] theorem modLink_pfx {p f} : (modLink p f s).pfx = s.pfx := rfl
@[simp] theorem modLink_pfxPages {p f} : (modLink p f s).pfxPages = s.pfxPages := rfl
@[simp] theorem modLink_listPages {p f} : (modLink p f s).listPages = s.listPages := rfl
@[simp] theorem modLink_listBlocks {p f} : (modLink p f s).listBlocks = s.listBlocks := rfl
@[simp] theorem modLink_free {p f} : (modLink p f s).free = s.free := rfl
@[simp] theorem modLink_pageOwner {p f} : (modLink p f s).pageOwner = s.pageOwner := rfl
@[simp] theorem modLink_pond {p f} : (modLink p f s).pond = s.pond := rfl
@[simp] theorem modLink_poison {p f} : (modLink p f s).poison = s.poison := rfl
@[simp] theorem modLink_admq {p f} : (modLink p f s).admq = s.admq := rfl
@[simp] theorem modLink_admNext {p f} : (modLink p f s).admNext = s.admNext := rfl
@[simp] theorem modLink_steps {p f} : (modLink p f s).steps = s.steps := rfl
@[simp] theorem modLink_aisles {p f} : (modLink p f s).aisles = s.aisles := rfl
@[simp] theorem modLink_batches {p f} : (modLink p f s).batches = s.batches := rfl
@[simp] theorem modLink_batchNum {p f} : (modLink p f s).batchNum = s.batchNum := rfl
@[simp] theorem modLink_fixed {p f} : (modLink p f s).fixed = s.fixed := rfl
@[simp] theorem modLink_wks {p f} : (modLink p f s).wks = s.wks := rfl
@[simp] theorem modLink_cc {p f} : (modLink p f s).cc = s.cc := rfl
@[simp] theorem modLink_masks {p f} : (modLink p f s).masks = s.masks := rfl
@[simp] theorem modLink_adps {p f} : (modLink p f s).adps = s.adps := rfl
@[simp] theorem modLink_adpFetch {p f} : (modLink p f s).adpFetch = s.adpFetch := rfl
@[simp] theorem modLink_adpPages {p f} : (modLink p f s).adpPages = s.adpPages := rfl
@[simp] theorem modLink_pinPages {p f} : (modLink p f s).pinPages = s.pinPages := rfl
@[simp] theorem modLink_nmc {p f} : (modLink p f s).nmc = s.nmc := rfl
@[simp] theorem modLink_secm {p f} : (modLink p f s).secm = s.secm := rfl
@[simp] theorem modLink_img {p f} : (modLink p f s).img = s.img := rfl
@[simp] theorem modLink_log {p f} : (modLink p f s).log = s.log := rfl
@[simp] theorem modLink_heldAcc {p f} : (modLink p f s).heldAcc = s.heldAcc := rfl
@[simp] theorem modLink_freshN {p f} : (modLink p f s).freshN = s.freshN := rfl
@[simp] theorem modLink_out {p f} : (modLink p f s).out = s.out := rfl
@[simp] theorem modLink_pending {p f} : (modLink p f s).pending = s.pending := rfl

/-! ### modNmc -/

@[simp] theorem modNmc_nmc {f} : (modNmc f s).nmc = f s.nmc := rfl
@[simp] theorem modNmc_ft {f} : (modNmc f s).ft = s.ft := rfl
@[simp] theorem modNmc_regs {f} : (modNmc f s).regs = s.regs := rfl
@[simp] theorem modNmc_setNow {f} : (modNmc f s).setNow = s.setNow := rfl
@[simp] theorem modNmc_ccNow {f} : (modNmc f s).ccNow = s.ccNow := rfl
@[simp] theorem modNmc_serial {f} : (modNmc f s).serial = s.serial := rfl
@[simp] theorem modNmc_stepping {f} : (modNmc f s).stepping = s.stepping := rfl
@[simp] theorem modNmc_partX {f} : (modNmc f s).partX = s.partX := rfl
@[simp] theorem modNmc_straps {f} : (modNmc f s).straps = s.straps := rfl
@[simp] theorem modNmc_gpio {f} : (modNmc f s).gpio = s.gpio := rfl
@[simp] theorem modNmc_rst {f} : (modNmc f s).rst = s.rst := rfl
@[simp] theorem modNmc_doms {f} : (modNmc f s).doms = s.doms := rfl
@[simp] theorem modNmc_clk {f} : (modNmc f s).clk = s.clk := rfl
@[simp] theorem modNmc_fab {f} : (modNmc f s).fab = s.fab := rfl
@[simp] theorem modNmc_spg {f} : (modNmc f s).spg = s.spg := rfl
@[simp] theorem modNmc_conf {f} : (modNmc f s).conf = s.conf := rfl
@[simp] theorem modNmc_chans {f} : (modNmc f s).chans = s.chans := rfl
@[simp] theorem modNmc_tills {f} : (modNmc f s).tills = s.tills := rfl
@[simp] theorem modNmc_tillNow {f} : (modNmc f s).tillNow = s.tillNow := rfl
@[simp] theorem modNmc_rings {f} : (modNmc f s).rings = s.rings := rfl
@[simp] theorem modNmc_rtb {f} : (modNmc f s).rtb = s.rtb := rfl
@[simp] theorem modNmc_side {f} : (modNmc f s).side = s.side := rfl
@[simp] theorem modNmc_gens {f} : (modNmc f s).gens = s.gens := rfl
@[simp] theorem modNmc_rtbLatch {f} : (modNmc f s).rtbLatch = s.rtbLatch := rfl
@[simp] theorem modNmc_pairLatch {f} : (modNmc f s).pairLatch = s.pairLatch := rfl
@[simp] theorem modNmc_pfx {f} : (modNmc f s).pfx = s.pfx := rfl
@[simp] theorem modNmc_pfxPages {f} : (modNmc f s).pfxPages = s.pfxPages := rfl
@[simp] theorem modNmc_listPages {f} : (modNmc f s).listPages = s.listPages := rfl
@[simp] theorem modNmc_listBlocks {f} : (modNmc f s).listBlocks = s.listBlocks := rfl
@[simp] theorem modNmc_free {f} : (modNmc f s).free = s.free := rfl
@[simp] theorem modNmc_pageOwner {f} : (modNmc f s).pageOwner = s.pageOwner := rfl
@[simp] theorem modNmc_pond {f} : (modNmc f s).pond = s.pond := rfl
@[simp] theorem modNmc_poison {f} : (modNmc f s).poison = s.poison := rfl
@[simp] theorem modNmc_admq {f} : (modNmc f s).admq = s.admq := rfl
@[simp] theorem modNmc_admNext {f} : (modNmc f s).admNext = s.admNext := rfl
@[simp] theorem modNmc_steps {f} : (modNmc f s).steps = s.steps := rfl
@[simp] theorem modNmc_aisles {f} : (modNmc f s).aisles = s.aisles := rfl
@[simp] theorem modNmc_batches {f} : (modNmc f s).batches = s.batches := rfl
@[simp] theorem modNmc_batchNum {f} : (modNmc f s).batchNum = s.batchNum := rfl
@[simp] theorem modNmc_fixed {f} : (modNmc f s).fixed = s.fixed := rfl
@[simp] theorem modNmc_wks {f} : (modNmc f s).wks = s.wks := rfl
@[simp] theorem modNmc_cc {f} : (modNmc f s).cc = s.cc := rfl
@[simp] theorem modNmc_masks {f} : (modNmc f s).masks = s.masks := rfl
@[simp] theorem modNmc_adps {f} : (modNmc f s).adps = s.adps := rfl
@[simp] theorem modNmc_adpFetch {f} : (modNmc f s).adpFetch = s.adpFetch := rfl
@[simp] theorem modNmc_adpPages {f} : (modNmc f s).adpPages = s.adpPages := rfl
@[simp] theorem modNmc_pinPages {f} : (modNmc f s).pinPages = s.pinPages := rfl
@[simp] theorem modNmc_secm {f} : (modNmc f s).secm = s.secm := rfl
@[simp] theorem modNmc_img {f} : (modNmc f s).img = s.img := rfl
@[simp] theorem modNmc_log {f} : (modNmc f s).log = s.log := rfl
@[simp] theorem modNmc_heldAcc {f} : (modNmc f s).heldAcc = s.heldAcc := rfl
@[simp] theorem modNmc_freshN {f} : (modNmc f s).freshN = s.freshN := rfl
@[simp] theorem modNmc_out {f} : (modNmc f s).out = s.out := rfl
@[simp] theorem modNmc_pending {f} : (modNmc f s).pending = s.pending := rfl

/-! ### modCc -/

@[simp] theorem modCc_cc {f} : (modCc f s).cc = f s.cc := rfl
@[simp] theorem modCc_ft {f} : (modCc f s).ft = s.ft := rfl
@[simp] theorem modCc_regs {f} : (modCc f s).regs = s.regs := rfl
@[simp] theorem modCc_setNow {f} : (modCc f s).setNow = s.setNow := rfl
@[simp] theorem modCc_ccNow {f} : (modCc f s).ccNow = s.ccNow := rfl
@[simp] theorem modCc_serial {f} : (modCc f s).serial = s.serial := rfl
@[simp] theorem modCc_stepping {f} : (modCc f s).stepping = s.stepping := rfl
@[simp] theorem modCc_partX {f} : (modCc f s).partX = s.partX := rfl
@[simp] theorem modCc_straps {f} : (modCc f s).straps = s.straps := rfl
@[simp] theorem modCc_gpio {f} : (modCc f s).gpio = s.gpio := rfl
@[simp] theorem modCc_rst {f} : (modCc f s).rst = s.rst := rfl
@[simp] theorem modCc_doms {f} : (modCc f s).doms = s.doms := rfl
@[simp] theorem modCc_clk {f} : (modCc f s).clk = s.clk := rfl
@[simp] theorem modCc_fab {f} : (modCc f s).fab = s.fab := rfl
@[simp] theorem modCc_spg {f} : (modCc f s).spg = s.spg := rfl
@[simp] theorem modCc_conf {f} : (modCc f s).conf = s.conf := rfl
@[simp] theorem modCc_chans {f} : (modCc f s).chans = s.chans := rfl
@[simp] theorem modCc_tills {f} : (modCc f s).tills = s.tills := rfl
@[simp] theorem modCc_tillNow {f} : (modCc f s).tillNow = s.tillNow := rfl
@[simp] theorem modCc_rings {f} : (modCc f s).rings = s.rings := rfl
@[simp] theorem modCc_rtb {f} : (modCc f s).rtb = s.rtb := rfl
@[simp] theorem modCc_side {f} : (modCc f s).side = s.side := rfl
@[simp] theorem modCc_gens {f} : (modCc f s).gens = s.gens := rfl
@[simp] theorem modCc_rtbLatch {f} : (modCc f s).rtbLatch = s.rtbLatch := rfl
@[simp] theorem modCc_pairLatch {f} : (modCc f s).pairLatch = s.pairLatch := rfl
@[simp] theorem modCc_pfx {f} : (modCc f s).pfx = s.pfx := rfl
@[simp] theorem modCc_pfxPages {f} : (modCc f s).pfxPages = s.pfxPages := rfl
@[simp] theorem modCc_listPages {f} : (modCc f s).listPages = s.listPages := rfl
@[simp] theorem modCc_listBlocks {f} : (modCc f s).listBlocks = s.listBlocks := rfl
@[simp] theorem modCc_free {f} : (modCc f s).free = s.free := rfl
@[simp] theorem modCc_pageOwner {f} : (modCc f s).pageOwner = s.pageOwner := rfl
@[simp] theorem modCc_pond {f} : (modCc f s).pond = s.pond := rfl
@[simp] theorem modCc_poison {f} : (modCc f s).poison = s.poison := rfl
@[simp] theorem modCc_admq {f} : (modCc f s).admq = s.admq := rfl
@[simp] theorem modCc_admNext {f} : (modCc f s).admNext = s.admNext := rfl
@[simp] theorem modCc_steps {f} : (modCc f s).steps = s.steps := rfl
@[simp] theorem modCc_aisles {f} : (modCc f s).aisles = s.aisles := rfl
@[simp] theorem modCc_batches {f} : (modCc f s).batches = s.batches := rfl
@[simp] theorem modCc_batchNum {f} : (modCc f s).batchNum = s.batchNum := rfl
@[simp] theorem modCc_fixed {f} : (modCc f s).fixed = s.fixed := rfl
@[simp] theorem modCc_wks {f} : (modCc f s).wks = s.wks := rfl
@[simp] theorem modCc_masks {f} : (modCc f s).masks = s.masks := rfl
@[simp] theorem modCc_adps {f} : (modCc f s).adps = s.adps := rfl
@[simp] theorem modCc_adpFetch {f} : (modCc f s).adpFetch = s.adpFetch := rfl
@[simp] theorem modCc_adpPages {f} : (modCc f s).adpPages = s.adpPages := rfl
@[simp] theorem modCc_pinPages {f} : (modCc f s).pinPages = s.pinPages := rfl
@[simp] theorem modCc_nmc {f} : (modCc f s).nmc = s.nmc := rfl
@[simp] theorem modCc_secm {f} : (modCc f s).secm = s.secm := rfl
@[simp] theorem modCc_img {f} : (modCc f s).img = s.img := rfl
@[simp] theorem modCc_log {f} : (modCc f s).log = s.log := rfl
@[simp] theorem modCc_heldAcc {f} : (modCc f s).heldAcc = s.heldAcc := rfl
@[simp] theorem modCc_freshN {f} : (modCc f s).freshN = s.freshN := rfl
@[simp] theorem modCc_out {f} : (modCc f s).out = s.out := rfl
@[simp] theorem modCc_pending {f} : (modCc f s).pending = s.pending := rfl

/-! ### modClk -/

@[simp] theorem modClk_clk {f} : (modClk f s).clk = f s.clk := rfl
@[simp] theorem modClk_ft {f} : (modClk f s).ft = s.ft := rfl
@[simp] theorem modClk_regs {f} : (modClk f s).regs = s.regs := rfl
@[simp] theorem modClk_setNow {f} : (modClk f s).setNow = s.setNow := rfl
@[simp] theorem modClk_ccNow {f} : (modClk f s).ccNow = s.ccNow := rfl
@[simp] theorem modClk_serial {f} : (modClk f s).serial = s.serial := rfl
@[simp] theorem modClk_stepping {f} : (modClk f s).stepping = s.stepping := rfl
@[simp] theorem modClk_partX {f} : (modClk f s).partX = s.partX := rfl
@[simp] theorem modClk_straps {f} : (modClk f s).straps = s.straps := rfl
@[simp] theorem modClk_gpio {f} : (modClk f s).gpio = s.gpio := rfl
@[simp] theorem modClk_rst {f} : (modClk f s).rst = s.rst := rfl
@[simp] theorem modClk_doms {f} : (modClk f s).doms = s.doms := rfl
@[simp] theorem modClk_fab {f} : (modClk f s).fab = s.fab := rfl
@[simp] theorem modClk_spg {f} : (modClk f s).spg = s.spg := rfl
@[simp] theorem modClk_conf {f} : (modClk f s).conf = s.conf := rfl
@[simp] theorem modClk_chans {f} : (modClk f s).chans = s.chans := rfl
@[simp] theorem modClk_tills {f} : (modClk f s).tills = s.tills := rfl
@[simp] theorem modClk_tillNow {f} : (modClk f s).tillNow = s.tillNow := rfl
@[simp] theorem modClk_rings {f} : (modClk f s).rings = s.rings := rfl
@[simp] theorem modClk_rtb {f} : (modClk f s).rtb = s.rtb := rfl
@[simp] theorem modClk_side {f} : (modClk f s).side = s.side := rfl
@[simp] theorem modClk_gens {f} : (modClk f s).gens = s.gens := rfl
@[simp] theorem modClk_rtbLatch {f} : (modClk f s).rtbLatch = s.rtbLatch := rfl
@[simp] theorem modClk_pairLatch {f} : (modClk f s).pairLatch = s.pairLatch := rfl
@[simp] theorem modClk_pfx {f} : (modClk f s).pfx = s.pfx := rfl
@[simp] theorem modClk_pfxPages {f} : (modClk f s).pfxPages = s.pfxPages := rfl
@[simp] theorem modClk_listPages {f} : (modClk f s).listPages = s.listPages := rfl
@[simp] theorem modClk_listBlocks {f} : (modClk f s).listBlocks = s.listBlocks := rfl
@[simp] theorem modClk_free {f} : (modClk f s).free = s.free := rfl
@[simp] theorem modClk_pageOwner {f} : (modClk f s).pageOwner = s.pageOwner := rfl
@[simp] theorem modClk_pond {f} : (modClk f s).pond = s.pond := rfl
@[simp] theorem modClk_poison {f} : (modClk f s).poison = s.poison := rfl
@[simp] theorem modClk_admq {f} : (modClk f s).admq = s.admq := rfl
@[simp] theorem modClk_admNext {f} : (modClk f s).admNext = s.admNext := rfl
@[simp] theorem modClk_steps {f} : (modClk f s).steps = s.steps := rfl
@[simp] theorem modClk_aisles {f} : (modClk f s).aisles = s.aisles := rfl
@[simp] theorem modClk_batches {f} : (modClk f s).batches = s.batches := rfl
@[simp] theorem modClk_batchNum {f} : (modClk f s).batchNum = s.batchNum := rfl
@[simp] theorem modClk_fixed {f} : (modClk f s).fixed = s.fixed := rfl
@[simp] theorem modClk_wks {f} : (modClk f s).wks = s.wks := rfl
@[simp] theorem modClk_cc {f} : (modClk f s).cc = s.cc := rfl
@[simp] theorem modClk_masks {f} : (modClk f s).masks = s.masks := rfl
@[simp] theorem modClk_adps {f} : (modClk f s).adps = s.adps := rfl
@[simp] theorem modClk_adpFetch {f} : (modClk f s).adpFetch = s.adpFetch := rfl
@[simp] theorem modClk_adpPages {f} : (modClk f s).adpPages = s.adpPages := rfl
@[simp] theorem modClk_pinPages {f} : (modClk f s).pinPages = s.pinPages := rfl
@[simp] theorem modClk_nmc {f} : (modClk f s).nmc = s.nmc := rfl
@[simp] theorem modClk_secm {f} : (modClk f s).secm = s.secm := rfl
@[simp] theorem modClk_img {f} : (modClk f s).img = s.img := rfl
@[simp] theorem modClk_log {f} : (modClk f s).log = s.log := rfl
@[simp] theorem modClk_heldAcc {f} : (modClk f s).heldAcc = s.heldAcc := rfl
@[simp] theorem modClk_freshN {f} : (modClk f s).freshN = s.freshN := rfl
@[simp] theorem modClk_out {f} : (modClk f s).out = s.out := rfl
@[simp] theorem modClk_pending {f} : (modClk f s).pending = s.pending := rfl

/-! ### modSpg -/

@[simp] theorem modSpg_spg {f} : (modSpg f s).spg = f s.spg := rfl
@[simp] theorem modSpg_ft {f} : (modSpg f s).ft = s.ft := rfl
@[simp] theorem modSpg_regs {f} : (modSpg f s).regs = s.regs := rfl
@[simp] theorem modSpg_setNow {f} : (modSpg f s).setNow = s.setNow := rfl
@[simp] theorem modSpg_ccNow {f} : (modSpg f s).ccNow = s.ccNow := rfl
@[simp] theorem modSpg_serial {f} : (modSpg f s).serial = s.serial := rfl
@[simp] theorem modSpg_stepping {f} : (modSpg f s).stepping = s.stepping := rfl
@[simp] theorem modSpg_partX {f} : (modSpg f s).partX = s.partX := rfl
@[simp] theorem modSpg_straps {f} : (modSpg f s).straps = s.straps := rfl
@[simp] theorem modSpg_gpio {f} : (modSpg f s).gpio = s.gpio := rfl
@[simp] theorem modSpg_rst {f} : (modSpg f s).rst = s.rst := rfl
@[simp] theorem modSpg_doms {f} : (modSpg f s).doms = s.doms := rfl
@[simp] theorem modSpg_clk {f} : (modSpg f s).clk = s.clk := rfl
@[simp] theorem modSpg_fab {f} : (modSpg f s).fab = s.fab := rfl
@[simp] theorem modSpg_conf {f} : (modSpg f s).conf = s.conf := rfl
@[simp] theorem modSpg_chans {f} : (modSpg f s).chans = s.chans := rfl
@[simp] theorem modSpg_tills {f} : (modSpg f s).tills = s.tills := rfl
@[simp] theorem modSpg_tillNow {f} : (modSpg f s).tillNow = s.tillNow := rfl
@[simp] theorem modSpg_rings {f} : (modSpg f s).rings = s.rings := rfl
@[simp] theorem modSpg_rtb {f} : (modSpg f s).rtb = s.rtb := rfl
@[simp] theorem modSpg_side {f} : (modSpg f s).side = s.side := rfl
@[simp] theorem modSpg_gens {f} : (modSpg f s).gens = s.gens := rfl
@[simp] theorem modSpg_rtbLatch {f} : (modSpg f s).rtbLatch = s.rtbLatch := rfl
@[simp] theorem modSpg_pairLatch {f} : (modSpg f s).pairLatch = s.pairLatch := rfl
@[simp] theorem modSpg_pfx {f} : (modSpg f s).pfx = s.pfx := rfl
@[simp] theorem modSpg_pfxPages {f} : (modSpg f s).pfxPages = s.pfxPages := rfl
@[simp] theorem modSpg_listPages {f} : (modSpg f s).listPages = s.listPages := rfl
@[simp] theorem modSpg_listBlocks {f} : (modSpg f s).listBlocks = s.listBlocks := rfl
@[simp] theorem modSpg_free {f} : (modSpg f s).free = s.free := rfl
@[simp] theorem modSpg_pageOwner {f} : (modSpg f s).pageOwner = s.pageOwner := rfl
@[simp] theorem modSpg_pond {f} : (modSpg f s).pond = s.pond := rfl
@[simp] theorem modSpg_poison {f} : (modSpg f s).poison = s.poison := rfl
@[simp] theorem modSpg_admq {f} : (modSpg f s).admq = s.admq := rfl
@[simp] theorem modSpg_admNext {f} : (modSpg f s).admNext = s.admNext := rfl
@[simp] theorem modSpg_steps {f} : (modSpg f s).steps = s.steps := rfl
@[simp] theorem modSpg_aisles {f} : (modSpg f s).aisles = s.aisles := rfl
@[simp] theorem modSpg_batches {f} : (modSpg f s).batches = s.batches := rfl
@[simp] theorem modSpg_batchNum {f} : (modSpg f s).batchNum = s.batchNum := rfl
@[simp] theorem modSpg_fixed {f} : (modSpg f s).fixed = s.fixed := rfl
@[simp] theorem modSpg_wks {f} : (modSpg f s).wks = s.wks := rfl
@[simp] theorem modSpg_cc {f} : (modSpg f s).cc = s.cc := rfl
@[simp] theorem modSpg_masks {f} : (modSpg f s).masks = s.masks := rfl
@[simp] theorem modSpg_adps {f} : (modSpg f s).adps = s.adps := rfl
@[simp] theorem modSpg_adpFetch {f} : (modSpg f s).adpFetch = s.adpFetch := rfl
@[simp] theorem modSpg_adpPages {f} : (modSpg f s).adpPages = s.adpPages := rfl
@[simp] theorem modSpg_pinPages {f} : (modSpg f s).pinPages = s.pinPages := rfl
@[simp] theorem modSpg_nmc {f} : (modSpg f s).nmc = s.nmc := rfl
@[simp] theorem modSpg_secm {f} : (modSpg f s).secm = s.secm := rfl
@[simp] theorem modSpg_img {f} : (modSpg f s).img = s.img := rfl
@[simp] theorem modSpg_log {f} : (modSpg f s).log = s.log := rfl
@[simp] theorem modSpg_heldAcc {f} : (modSpg f s).heldAcc = s.heldAcc := rfl
@[simp] theorem modSpg_freshN {f} : (modSpg f s).freshN = s.freshN := rfl
@[simp] theorem modSpg_out {f} : (modSpg f s).out = s.out := rfl
@[simp] theorem modSpg_pending {f} : (modSpg f s).pending = s.pending := rfl

/-! ### modPort -/

@[simp] theorem modPort_spg {p f} : (modPort p f s).spg = { s.spg with ports := upd s.spg.ports p {} f } := rfl
@[simp] theorem modPort_ft {p f} : (modPort p f s).ft = s.ft := rfl
@[simp] theorem modPort_regs {p f} : (modPort p f s).regs = s.regs := rfl
@[simp] theorem modPort_setNow {p f} : (modPort p f s).setNow = s.setNow := rfl
@[simp] theorem modPort_ccNow {p f} : (modPort p f s).ccNow = s.ccNow := rfl
@[simp] theorem modPort_serial {p f} : (modPort p f s).serial = s.serial := rfl
@[simp] theorem modPort_stepping {p f} : (modPort p f s).stepping = s.stepping := rfl
@[simp] theorem modPort_partX {p f} : (modPort p f s).partX = s.partX := rfl
@[simp] theorem modPort_straps {p f} : (modPort p f s).straps = s.straps := rfl
@[simp] theorem modPort_gpio {p f} : (modPort p f s).gpio = s.gpio := rfl
@[simp] theorem modPort_rst {p f} : (modPort p f s).rst = s.rst := rfl
@[simp] theorem modPort_doms {p f} : (modPort p f s).doms = s.doms := rfl
@[simp] theorem modPort_clk {p f} : (modPort p f s).clk = s.clk := rfl
@[simp] theorem modPort_fab {p f} : (modPort p f s).fab = s.fab := rfl
@[simp] theorem modPort_conf {p f} : (modPort p f s).conf = s.conf := rfl
@[simp] theorem modPort_chans {p f} : (modPort p f s).chans = s.chans := rfl
@[simp] theorem modPort_tills {p f} : (modPort p f s).tills = s.tills := rfl
@[simp] theorem modPort_tillNow {p f} : (modPort p f s).tillNow = s.tillNow := rfl
@[simp] theorem modPort_rings {p f} : (modPort p f s).rings = s.rings := rfl
@[simp] theorem modPort_rtb {p f} : (modPort p f s).rtb = s.rtb := rfl
@[simp] theorem modPort_side {p f} : (modPort p f s).side = s.side := rfl
@[simp] theorem modPort_gens {p f} : (modPort p f s).gens = s.gens := rfl
@[simp] theorem modPort_rtbLatch {p f} : (modPort p f s).rtbLatch = s.rtbLatch := rfl
@[simp] theorem modPort_pairLatch {p f} : (modPort p f s).pairLatch = s.pairLatch := rfl
@[simp] theorem modPort_pfx {p f} : (modPort p f s).pfx = s.pfx := rfl
@[simp] theorem modPort_pfxPages {p f} : (modPort p f s).pfxPages = s.pfxPages := rfl
@[simp] theorem modPort_listPages {p f} : (modPort p f s).listPages = s.listPages := rfl
@[simp] theorem modPort_listBlocks {p f} : (modPort p f s).listBlocks = s.listBlocks := rfl
@[simp] theorem modPort_free {p f} : (modPort p f s).free = s.free := rfl
@[simp] theorem modPort_pageOwner {p f} : (modPort p f s).pageOwner = s.pageOwner := rfl
@[simp] theorem modPort_pond {p f} : (modPort p f s).pond = s.pond := rfl
@[simp] theorem modPort_poison {p f} : (modPort p f s).poison = s.poison := rfl
@[simp] theorem modPort_admq {p f} : (modPort p f s).admq = s.admq := rfl
@[simp] theorem modPort_admNext {p f} : (modPort p f s).admNext = s.admNext := rfl
@[simp] theorem modPort_steps {p f} : (modPort p f s).steps = s.steps := rfl
@[simp] theorem modPort_aisles {p f} : (modPort p f s).aisles = s.aisles := rfl
@[simp] theorem modPort_batches {p f} : (modPort p f s).batches = s.batches := rfl
@[simp] theorem modPort_batchNum {p f} : (modPort p f s).batchNum = s.batchNum := rfl
@[simp] theorem modPort_fixed {p f} : (modPort p f s).fixed = s.fixed := rfl
@[simp] theorem modPort_wks {p f} : (modPort p f s).wks = s.wks := rfl
@[simp] theorem modPort_cc {p f} : (modPort p f s).cc = s.cc := rfl
@[simp] theorem modPort_masks {p f} : (modPort p f s).masks = s.masks := rfl
@[simp] theorem modPort_adps {p f} : (modPort p f s).adps = s.adps := rfl
@[simp] theorem modPort_adpFetch {p f} : (modPort p f s).adpFetch = s.adpFetch := rfl
@[simp] theorem modPort_adpPages {p f} : (modPort p f s).adpPages = s.adpPages := rfl
@[simp] theorem modPort_pinPages {p f} : (modPort p f s).pinPages = s.pinPages := rfl
@[simp] theorem modPort_nmc {p f} : (modPort p f s).nmc = s.nmc := rfl
@[simp] theorem modPort_secm {p f} : (modPort p f s).secm = s.secm := rfl
@[simp] theorem modPort_img {p f} : (modPort p f s).img = s.img := rfl
@[simp] theorem modPort_log {p f} : (modPort p f s).log = s.log := rfl
@[simp] theorem modPort_heldAcc {p f} : (modPort p f s).heldAcc = s.heldAcc := rfl
@[simp] theorem modPort_freshN {p f} : (modPort p f s).freshN = s.freshN := rfl
@[simp] theorem modPort_out {p f} : (modPort p f s).out = s.out := rfl
@[simp] theorem modPort_pending {p f} : (modPort p f s).pending = s.pending := rfl

/-! ### modLease -/

@[simp] theorem modLease_spg {n f} : (modLease n f s).spg = { s.spg with leases := upd s.spg.leases n {} f } := rfl
@[simp] theorem modLease_ft {n f} : (modLease n f s).ft = s.ft := rfl
@[simp] theorem modLease_regs {n f} : (modLease n f s).regs = s.regs := rfl
@[simp] theorem modLease_setNow {n f} : (modLease n f s).setNow = s.setNow := rfl
@[simp] theorem modLease_ccNow {n f} : (modLease n f s).ccNow = s.ccNow := rfl
@[simp] theorem modLease_serial {n f} : (modLease n f s).serial = s.serial := rfl
@[simp] theorem modLease_stepping {n f} : (modLease n f s).stepping = s.stepping := rfl
@[simp] theorem modLease_partX {n f} : (modLease n f s).partX = s.partX := rfl
@[simp] theorem modLease_straps {n f} : (modLease n f s).straps = s.straps := rfl
@[simp] theorem modLease_gpio {n f} : (modLease n f s).gpio = s.gpio := rfl
@[simp] theorem modLease_rst {n f} : (modLease n f s).rst = s.rst := rfl
@[simp] theorem modLease_doms {n f} : (modLease n f s).doms = s.doms := rfl
@[simp] theorem modLease_clk {n f} : (modLease n f s).clk = s.clk := rfl
@[simp] theorem modLease_fab {n f} : (modLease n f s).fab = s.fab := rfl
@[simp] theorem modLease_conf {n f} : (modLease n f s).conf = s.conf := rfl
@[simp] theorem modLease_chans {n f} : (modLease n f s).chans = s.chans := rfl
@[simp] theorem modLease_tills {n f} : (modLease n f s).tills = s.tills := rfl
@[simp] theorem modLease_tillNow {n f} : (modLease n f s).tillNow = s.tillNow := rfl
@[simp] theorem modLease_rings {n f} : (modLease n f s).rings = s.rings := rfl
@[simp] theorem modLease_rtb {n f} : (modLease n f s).rtb = s.rtb := rfl
@[simp] theorem modLease_side {n f} : (modLease n f s).side = s.side := rfl
@[simp] theorem modLease_gens {n f} : (modLease n f s).gens = s.gens := rfl
@[simp] theorem modLease_rtbLatch {n f} : (modLease n f s).rtbLatch = s.rtbLatch := rfl
@[simp] theorem modLease_pairLatch {n f} : (modLease n f s).pairLatch = s.pairLatch := rfl
@[simp] theorem modLease_pfx {n f} : (modLease n f s).pfx = s.pfx := rfl
@[simp] theorem modLease_pfxPages {n f} : (modLease n f s).pfxPages = s.pfxPages := rfl
@[simp] theorem modLease_listPages {n f} : (modLease n f s).listPages = s.listPages := rfl
@[simp] theorem modLease_listBlocks {n f} : (modLease n f s).listBlocks = s.listBlocks := rfl
@[simp] theorem modLease_free {n f} : (modLease n f s).free = s.free := rfl
@[simp] theorem modLease_pageOwner {n f} : (modLease n f s).pageOwner = s.pageOwner := rfl
@[simp] theorem modLease_pond {n f} : (modLease n f s).pond = s.pond := rfl
@[simp] theorem modLease_poison {n f} : (modLease n f s).poison = s.poison := rfl
@[simp] theorem modLease_admq {n f} : (modLease n f s).admq = s.admq := rfl
@[simp] theorem modLease_admNext {n f} : (modLease n f s).admNext = s.admNext := rfl
@[simp] theorem modLease_steps {n f} : (modLease n f s).steps = s.steps := rfl
@[simp] theorem modLease_aisles {n f} : (modLease n f s).aisles = s.aisles := rfl
@[simp] theorem modLease_batches {n f} : (modLease n f s).batches = s.batches := rfl
@[simp] theorem modLease_batchNum {n f} : (modLease n f s).batchNum = s.batchNum := rfl
@[simp] theorem modLease_fixed {n f} : (modLease n f s).fixed = s.fixed := rfl
@[simp] theorem modLease_wks {n f} : (modLease n f s).wks = s.wks := rfl
@[simp] theorem modLease_cc {n f} : (modLease n f s).cc = s.cc := rfl
@[simp] theorem modLease_masks {n f} : (modLease n f s).masks = s.masks := rfl
@[simp] theorem modLease_adps {n f} : (modLease n f s).adps = s.adps := rfl
@[simp] theorem modLease_adpFetch {n f} : (modLease n f s).adpFetch = s.adpFetch := rfl
@[simp] theorem modLease_adpPages {n f} : (modLease n f s).adpPages = s.adpPages := rfl
@[simp] theorem modLease_pinPages {n f} : (modLease n f s).pinPages = s.pinPages := rfl
@[simp] theorem modLease_nmc {n f} : (modLease n f s).nmc = s.nmc := rfl
@[simp] theorem modLease_secm {n f} : (modLease n f s).secm = s.secm := rfl
@[simp] theorem modLease_img {n f} : (modLease n f s).img = s.img := rfl
@[simp] theorem modLease_log {n f} : (modLease n f s).log = s.log := rfl
@[simp] theorem modLease_heldAcc {n f} : (modLease n f s).heldAcc = s.heldAcc := rfl
@[simp] theorem modLease_freshN {n f} : (modLease n f s).freshN = s.freshN := rfl
@[simp] theorem modLease_out {n f} : (modLease n f s).out = s.out := rfl
@[simp] theorem modLease_pending {n f} : (modLease n f s).pending = s.pending := rfl

/-! ### modImg -/

@[simp] theorem modImg_img {f} : (modImg f s).img = f s.img := rfl
@[simp] theorem modImg_ft {f} : (modImg f s).ft = s.ft := rfl
@[simp] theorem modImg_regs {f} : (modImg f s).regs = s.regs := rfl
@[simp] theorem modImg_setNow {f} : (modImg f s).setNow = s.setNow := rfl
@[simp] theorem modImg_ccNow {f} : (modImg f s).ccNow = s.ccNow := rfl
@[simp] theorem modImg_serial {f} : (modImg f s).serial = s.serial := rfl
@[simp] theorem modImg_stepping {f} : (modImg f s).stepping = s.stepping := rfl
@[simp] theorem modImg_partX {f} : (modImg f s).partX = s.partX := rfl
@[simp] theorem modImg_straps {f} : (modImg f s).straps = s.straps := rfl
@[simp] theorem modImg_gpio {f} : (modImg f s).gpio = s.gpio := rfl
@[simp] theorem modImg_rst {f} : (modImg f s).rst = s.rst := rfl
@[simp] theorem modImg_doms {f} : (modImg f s).doms = s.doms := rfl
@[simp] theorem modImg_clk {f} : (modImg f s).clk = s.clk := rfl
@[simp] theorem modImg_fab {f} : (modImg f s).fab = s.fab := rfl
@[simp] theorem modImg_spg {f} : (modImg f s).spg = s.spg := rfl
@[simp] theorem modImg_conf {f} : (modImg f s).conf = s.conf := rfl
@[simp] theorem modImg_chans {f} : (modImg f s).chans = s.chans := rfl
@[simp] theorem modImg_tills {f} : (modImg f s).tills = s.tills := rfl
@[simp] theorem modImg_tillNow {f} : (modImg f s).tillNow = s.tillNow := rfl
@[simp] theorem modImg_rings {f} : (modImg f s).rings = s.rings := rfl
@[simp] theorem modImg_rtb {f} : (modImg f s).rtb = s.rtb := rfl
@[simp] theorem modImg_side {f} : (modImg f s).side = s.side := rfl
@[simp] theorem modImg_gens {f} : (modImg f s).gens = s.gens := rfl
@[simp] theorem modImg_rtbLatch {f} : (modImg f s).rtbLatch = s.rtbLatch := rfl
@[simp] theorem modImg_pairLatch {f} : (modImg f s).pairLatch = s.pairLatch := rfl
@[simp] theorem modImg_pfx {f} : (modImg f s).pfx = s.pfx := rfl
@[simp] theorem modImg_pfxPages {f} : (modImg f s).pfxPages = s.pfxPages := rfl
@[simp] theorem modImg_listPages {f} : (modImg f s).listPages = s.listPages := rfl
@[simp] theorem modImg_listBlocks {f} : (modImg f s).listBlocks = s.listBlocks := rfl
@[simp] theorem modImg_free {f} : (modImg f s).free = s.free := rfl
@[simp] theorem modImg_pageOwner {f} : (modImg f s).pageOwner = s.pageOwner := rfl
@[simp] theorem modImg_pond {f} : (modImg f s).pond = s.pond := rfl
@[simp] theorem modImg_poison {f} : (modImg f s).poison = s.poison := rfl
@[simp] theorem modImg_admq {f} : (modImg f s).admq = s.admq := rfl
@[simp] theorem modImg_admNext {f} : (modImg f s).admNext = s.admNext := rfl
@[simp] theorem modImg_steps {f} : (modImg f s).steps = s.steps := rfl
@[simp] theorem modImg_aisles {f} : (modImg f s).aisles = s.aisles := rfl
@[simp] theorem modImg_batches {f} : (modImg f s).batches = s.batches := rfl
@[simp] theorem modImg_batchNum {f} : (modImg f s).batchNum = s.batchNum := rfl
@[simp] theorem modImg_fixed {f} : (modImg f s).fixed = s.fixed := rfl
@[simp] theorem modImg_wks {f} : (modImg f s).wks = s.wks := rfl
@[simp] theorem modImg_cc {f} : (modImg f s).cc = s.cc := rfl
@[simp] theorem modImg_masks {f} : (modImg f s).masks = s.masks := rfl
@[simp] theorem modImg_adps {f} : (modImg f s).adps = s.adps := rfl
@[simp] theorem modImg_adpFetch {f} : (modImg f s).adpFetch = s.adpFetch := rfl
@[simp] theorem modImg_adpPages {f} : (modImg f s).adpPages = s.adpPages := rfl
@[simp] theorem modImg_pinPages {f} : (modImg f s).pinPages = s.pinPages := rfl
@[simp] theorem modImg_nmc {f} : (modImg f s).nmc = s.nmc := rfl
@[simp] theorem modImg_secm {f} : (modImg f s).secm = s.secm := rfl
@[simp] theorem modImg_log {f} : (modImg f s).log = s.log := rfl
@[simp] theorem modImg_heldAcc {f} : (modImg f s).heldAcc = s.heldAcc := rfl
@[simp] theorem modImg_freshN {f} : (modImg f s).freshN = s.freshN := rfl
@[simp] theorem modImg_out {f} : (modImg f s).out = s.out := rfl
@[simp] theorem modImg_pending {f} : (modImg f s).pending = s.pending := rfl

/-! ### setDom -/

@[simp] theorem setDom_doms {d v} : (setDom d v s).doms = put s.doms d v {} := rfl
@[simp] theorem setDom_ft {d v} : (setDom d v s).ft = s.ft := rfl
@[simp] theorem setDom_regs {d v} : (setDom d v s).regs = s.regs := rfl
@[simp] theorem setDom_setNow {d v} : (setDom d v s).setNow = s.setNow := rfl
@[simp] theorem setDom_ccNow {d v} : (setDom d v s).ccNow = s.ccNow := rfl
@[simp] theorem setDom_serial {d v} : (setDom d v s).serial = s.serial := rfl
@[simp] theorem setDom_stepping {d v} : (setDom d v s).stepping = s.stepping := rfl
@[simp] theorem setDom_partX {d v} : (setDom d v s).partX = s.partX := rfl
@[simp] theorem setDom_straps {d v} : (setDom d v s).straps = s.straps := rfl
@[simp] theorem setDom_gpio {d v} : (setDom d v s).gpio = s.gpio := rfl
@[simp] theorem setDom_rst {d v} : (setDom d v s).rst = s.rst := rfl
@[simp] theorem setDom_clk {d v} : (setDom d v s).clk = s.clk := rfl
@[simp] theorem setDom_fab {d v} : (setDom d v s).fab = s.fab := rfl
@[simp] theorem setDom_spg {d v} : (setDom d v s).spg = s.spg := rfl
@[simp] theorem setDom_conf {d v} : (setDom d v s).conf = s.conf := rfl
@[simp] theorem setDom_chans {d v} : (setDom d v s).chans = s.chans := rfl
@[simp] theorem setDom_tills {d v} : (setDom d v s).tills = s.tills := rfl
@[simp] theorem setDom_tillNow {d v} : (setDom d v s).tillNow = s.tillNow := rfl
@[simp] theorem setDom_rings {d v} : (setDom d v s).rings = s.rings := rfl
@[simp] theorem setDom_rtb {d v} : (setDom d v s).rtb = s.rtb := rfl
@[simp] theorem setDom_side {d v} : (setDom d v s).side = s.side := rfl
@[simp] theorem setDom_gens {d v} : (setDom d v s).gens = s.gens := rfl
@[simp] theorem setDom_rtbLatch {d v} : (setDom d v s).rtbLatch = s.rtbLatch := rfl
@[simp] theorem setDom_pairLatch {d v} : (setDom d v s).pairLatch = s.pairLatch := rfl
@[simp] theorem setDom_pfx {d v} : (setDom d v s).pfx = s.pfx := rfl
@[simp] theorem setDom_pfxPages {d v} : (setDom d v s).pfxPages = s.pfxPages := rfl
@[simp] theorem setDom_listPages {d v} : (setDom d v s).listPages = s.listPages := rfl
@[simp] theorem setDom_listBlocks {d v} : (setDom d v s).listBlocks = s.listBlocks := rfl
@[simp] theorem setDom_free {d v} : (setDom d v s).free = s.free := rfl
@[simp] theorem setDom_pageOwner {d v} : (setDom d v s).pageOwner = s.pageOwner := rfl
@[simp] theorem setDom_pond {d v} : (setDom d v s).pond = s.pond := rfl
@[simp] theorem setDom_poison {d v} : (setDom d v s).poison = s.poison := rfl
@[simp] theorem setDom_admq {d v} : (setDom d v s).admq = s.admq := rfl
@[simp] theorem setDom_admNext {d v} : (setDom d v s).admNext = s.admNext := rfl
@[simp] theorem setDom_steps {d v} : (setDom d v s).steps = s.steps := rfl
@[simp] theorem setDom_aisles {d v} : (setDom d v s).aisles = s.aisles := rfl
@[simp] theorem setDom_batches {d v} : (setDom d v s).batches = s.batches := rfl
@[simp] theorem setDom_batchNum {d v} : (setDom d v s).batchNum = s.batchNum := rfl
@[simp] theorem setDom_fixed {d v} : (setDom d v s).fixed = s.fixed := rfl
@[simp] theorem setDom_wks {d v} : (setDom d v s).wks = s.wks := rfl
@[simp] theorem setDom_cc {d v} : (setDom d v s).cc = s.cc := rfl
@[simp] theorem setDom_masks {d v} : (setDom d v s).masks = s.masks := rfl
@[simp] theorem setDom_adps {d v} : (setDom d v s).adps = s.adps := rfl
@[simp] theorem setDom_adpFetch {d v} : (setDom d v s).adpFetch = s.adpFetch := rfl
@[simp] theorem setDom_adpPages {d v} : (setDom d v s).adpPages = s.adpPages := rfl
@[simp] theorem setDom_pinPages {d v} : (setDom d v s).pinPages = s.pinPages := rfl
@[simp] theorem setDom_nmc {d v} : (setDom d v s).nmc = s.nmc := rfl
@[simp] theorem setDom_secm {d v} : (setDom d v s).secm = s.secm := rfl
@[simp] theorem setDom_img {d v} : (setDom d v s).img = s.img := rfl
@[simp] theorem setDom_log {d v} : (setDom d v s).log = s.log := rfl
@[simp] theorem setDom_heldAcc {d v} : (setDom d v s).heldAcc = s.heldAcc := rfl
@[simp] theorem setDom_freshN {d v} : (setDom d v s).freshN = s.freshN := rfl
@[simp] theorem setDom_out {d v} : (setDom d v s).out = s.out := rfl
@[simp] theorem setDom_pending {d v} : (setDom d v s).pending = s.pending := rfl

/-! ### modDom -/

@[simp] theorem modDom_doms {d f} : (modDom d f s).doms = put s.doms d (f (dom s d)) {} := rfl
@[simp] theorem modDom_ft {d f} : (modDom d f s).ft = s.ft := rfl
@[simp] theorem modDom_regs {d f} : (modDom d f s).regs = s.regs := rfl
@[simp] theorem modDom_setNow {d f} : (modDom d f s).setNow = s.setNow := rfl
@[simp] theorem modDom_ccNow {d f} : (modDom d f s).ccNow = s.ccNow := rfl
@[simp] theorem modDom_serial {d f} : (modDom d f s).serial = s.serial := rfl
@[simp] theorem modDom_stepping {d f} : (modDom d f s).stepping = s.stepping := rfl
@[simp] theorem modDom_partX {d f} : (modDom d f s).partX = s.partX := rfl
@[simp] theorem modDom_straps {d f} : (modDom d f s).straps = s.straps := rfl
@[simp] theorem modDom_gpio {d f} : (modDom d f s).gpio = s.gpio := rfl
@[simp] theorem modDom_rst {d f} : (modDom d f s).rst = s.rst := rfl
@[simp] theorem modDom_clk {d f} : (modDom d f s).clk = s.clk := rfl
@[simp] theorem modDom_fab {d f} : (modDom d f s).fab = s.fab := rfl
@[simp] theorem modDom_spg {d f} : (modDom d f s).spg = s.spg := rfl
@[simp] theorem modDom_conf {d f} : (modDom d f s).conf = s.conf := rfl
@[simp] theorem modDom_chans {d f} : (modDom d f s).chans = s.chans := rfl
@[simp] theorem modDom_tills {d f} : (modDom d f s).tills = s.tills := rfl
@[simp] theorem modDom_tillNow {d f} : (modDom d f s).tillNow = s.tillNow := rfl
@[simp] theorem modDom_rings {d f} : (modDom d f s).rings = s.rings := rfl
@[simp] theorem modDom_rtb {d f} : (modDom d f s).rtb = s.rtb := rfl
@[simp] theorem modDom_side {d f} : (modDom d f s).side = s.side := rfl
@[simp] theorem modDom_gens {d f} : (modDom d f s).gens = s.gens := rfl
@[simp] theorem modDom_rtbLatch {d f} : (modDom d f s).rtbLatch = s.rtbLatch := rfl
@[simp] theorem modDom_pairLatch {d f} : (modDom d f s).pairLatch = s.pairLatch := rfl
@[simp] theorem modDom_pfx {d f} : (modDom d f s).pfx = s.pfx := rfl
@[simp] theorem modDom_pfxPages {d f} : (modDom d f s).pfxPages = s.pfxPages := rfl
@[simp] theorem modDom_listPages {d f} : (modDom d f s).listPages = s.listPages := rfl
@[simp] theorem modDom_listBlocks {d f} : (modDom d f s).listBlocks = s.listBlocks := rfl
@[simp] theorem modDom_free {d f} : (modDom d f s).free = s.free := rfl
@[simp] theorem modDom_pageOwner {d f} : (modDom d f s).pageOwner = s.pageOwner := rfl
@[simp] theorem modDom_pond {d f} : (modDom d f s).pond = s.pond := rfl
@[simp] theorem modDom_poison {d f} : (modDom d f s).poison = s.poison := rfl
@[simp] theorem modDom_admq {d f} : (modDom d f s).admq = s.admq := rfl
@[simp] theorem modDom_admNext {d f} : (modDom d f s).admNext = s.admNext := rfl
@[simp] theorem modDom_steps {d f} : (modDom d f s).steps = s.steps := rfl
@[simp] theorem modDom_aisles {d f} : (modDom d f s).aisles = s.aisles := rfl
@[simp] theorem modDom_batches {d f} : (modDom d f s).batches = s.batches := rfl
@[simp] theorem modDom_batchNum {d f} : (modDom d f s).batchNum = s.batchNum := rfl
@[simp] theorem modDom_fixed {d f} : (modDom d f s).fixed = s.fixed := rfl
@[simp] theorem modDom_wks {d f} : (modDom d f s).wks = s.wks := rfl
@[simp] theorem modDom_cc {d f} : (modDom d f s).cc = s.cc := rfl
@[simp] theorem modDom_masks {d f} : (modDom d f s).masks = s.masks := rfl
@[simp] theorem modDom_adps {d f} : (modDom d f s).adps = s.adps := rfl
@[simp] theorem modDom_adpFetch {d f} : (modDom d f s).adpFetch = s.adpFetch := rfl
@[simp] theorem modDom_adpPages {d f} : (modDom d f s).adpPages = s.adpPages := rfl
@[simp] theorem modDom_pinPages {d f} : (modDom d f s).pinPages = s.pinPages := rfl
@[simp] theorem modDom_nmc {d f} : (modDom d f s).nmc = s.nmc := rfl
@[simp] theorem modDom_secm {d f} : (modDom d f s).secm = s.secm := rfl
@[simp] theorem modDom_img {d f} : (modDom d f s).img = s.img := rfl
@[simp] theorem modDom_log {d f} : (modDom d f s).log = s.log := rfl
@[simp] theorem modDom_heldAcc {d f} : (modDom d f s).heldAcc = s.heldAcc := rfl
@[simp] theorem modDom_freshN {d f} : (modDom d f s).freshN = s.freshN := rfl
@[simp] theorem modDom_out {d f} : (modDom d f s).out = s.out := rfl
@[simp] theorem modDom_pending {d f} : (modDom d f s).pending = s.pending := rfl

/-! ### await -/

@[simp] theorem await_heldAcc {d c} : (await d c s).heldAcc = s.heldAcc ++ [(d, c)] := rfl
@[simp] theorem await_ft {d c} : (await d c s).ft = s.ft := rfl
@[simp] theorem await_regs {d c} : (await d c s).regs = s.regs := rfl
@[simp] theorem await_setNow {d c} : (await d c s).setNow = s.setNow := rfl
@[simp] theorem await_ccNow {d c} : (await d c s).ccNow = s.ccNow := rfl
@[simp] theorem await_serial {d c} : (await d c s).serial = s.serial := rfl
@[simp] theorem await_stepping {d c} : (await d c s).stepping = s.stepping := rfl
@[simp] theorem await_partX {d c} : (await d c s).partX = s.partX := rfl
@[simp] theorem await_straps {d c} : (await d c s).straps = s.straps := rfl
@[simp] theorem await_gpio {d c} : (await d c s).gpio = s.gpio := rfl
@[simp] theorem await_rst {d c} : (await d c s).rst = s.rst := rfl
@[simp] theorem await_doms {d c} : (await d c s).doms = s.doms := rfl
@[simp] theorem await_clk {d c} : (await d c s).clk = s.clk := rfl
@[simp] theorem await_fab {d c} : (await d c s).fab = s.fab := rfl
@[simp] theorem await_spg {d c} : (await d c s).spg = s.spg := rfl
@[simp] theorem await_conf {d c} : (await d c s).conf = s.conf := rfl
@[simp] theorem await_chans {d c} : (await d c s).chans = s.chans := rfl
@[simp] theorem await_tills {d c} : (await d c s).tills = s.tills := rfl
@[simp] theorem await_tillNow {d c} : (await d c s).tillNow = s.tillNow := rfl
@[simp] theorem await_rings {d c} : (await d c s).rings = s.rings := rfl
@[simp] theorem await_rtb {d c} : (await d c s).rtb = s.rtb := rfl
@[simp] theorem await_side {d c} : (await d c s).side = s.side := rfl
@[simp] theorem await_gens {d c} : (await d c s).gens = s.gens := rfl
@[simp] theorem await_rtbLatch {d c} : (await d c s).rtbLatch = s.rtbLatch := rfl
@[simp] theorem await_pairLatch {d c} : (await d c s).pairLatch = s.pairLatch := rfl
@[simp] theorem await_pfx {d c} : (await d c s).pfx = s.pfx := rfl
@[simp] theorem await_pfxPages {d c} : (await d c s).pfxPages = s.pfxPages := rfl
@[simp] theorem await_listPages {d c} : (await d c s).listPages = s.listPages := rfl
@[simp] theorem await_listBlocks {d c} : (await d c s).listBlocks = s.listBlocks := rfl
@[simp] theorem await_free {d c} : (await d c s).free = s.free := rfl
@[simp] theorem await_pageOwner {d c} : (await d c s).pageOwner = s.pageOwner := rfl
@[simp] theorem await_pond {d c} : (await d c s).pond = s.pond := rfl
@[simp] theorem await_poison {d c} : (await d c s).poison = s.poison := rfl
@[simp] theorem await_admq {d c} : (await d c s).admq = s.admq := rfl
@[simp] theorem await_admNext {d c} : (await d c s).admNext = s.admNext := rfl
@[simp] theorem await_steps {d c} : (await d c s).steps = s.steps := rfl
@[simp] theorem await_aisles {d c} : (await d c s).aisles = s.aisles := rfl
@[simp] theorem await_batches {d c} : (await d c s).batches = s.batches := rfl
@[simp] theorem await_batchNum {d c} : (await d c s).batchNum = s.batchNum := rfl
@[simp] theorem await_fixed {d c} : (await d c s).fixed = s.fixed := rfl
@[simp] theorem await_wks {d c} : (await d c s).wks = s.wks := rfl
@[simp] theorem await_cc {d c} : (await d c s).cc = s.cc := rfl
@[simp] theorem await_masks {d c} : (await d c s).masks = s.masks := rfl
@[simp] theorem await_adps {d c} : (await d c s).adps = s.adps := rfl
@[simp] theorem await_adpFetch {d c} : (await d c s).adpFetch = s.adpFetch := rfl
@[simp] theorem await_adpPages {d c} : (await d c s).adpPages = s.adpPages := rfl
@[simp] theorem await_pinPages {d c} : (await d c s).pinPages = s.pinPages := rfl
@[simp] theorem await_nmc {d c} : (await d c s).nmc = s.nmc := rfl
@[simp] theorem await_secm {d c} : (await d c s).secm = s.secm := rfl
@[simp] theorem await_img {d c} : (await d c s).img = s.img := rfl
@[simp] theorem await_log {d c} : (await d c s).log = s.log := rfl
@[simp] theorem await_freshN {d c} : (await d c s).freshN = s.freshN := rfl
@[simp] theorem await_out {d c} : (await d c s).out = s.out := rfl
@[simp] theorem await_pending {d c} : (await d c s).pending = s.pending := rfl

/-! ### modAisle -/

@[simp] theorem modAisle_aisles {a f} : (modAisle a f s).aisles = upd s.aisles a {} f := rfl
@[simp] theorem modAisle_ft {a f} : (modAisle a f s).ft = s.ft := rfl
@[simp] theorem modAisle_regs {a f} : (modAisle a f s).regs = s.regs := rfl
@[simp] theorem modAisle_setNow {a f} : (modAisle a f s).setNow = s.setNow := rfl
@[simp] theorem modAisle_ccNow {a f} : (modAisle a f s).ccNow = s.ccNow := rfl
@[simp] theorem modAisle_serial {a f} : (modAisle a f s).serial = s.serial := rfl
@[simp] theorem modAisle_stepping {a f} : (modAisle a f s).stepping = s.stepping := rfl
@[simp] theorem modAisle_partX {a f} : (modAisle a f s).partX = s.partX := rfl
@[simp] theorem modAisle_straps {a f} : (modAisle a f s).straps = s.straps := rfl
@[simp] theorem modAisle_gpio {a f} : (modAisle a f s).gpio = s.gpio := rfl
@[simp] theorem modAisle_rst {a f} : (modAisle a f s).rst = s.rst := rfl
@[simp] theorem modAisle_doms {a f} : (modAisle a f s).doms = s.doms := rfl
@[simp] theorem modAisle_clk {a f} : (modAisle a f s).clk = s.clk := rfl
@[simp] theorem modAisle_fab {a f} : (modAisle a f s).fab = s.fab := rfl
@[simp] theorem modAisle_spg {a f} : (modAisle a f s).spg = s.spg := rfl
@[simp] theorem modAisle_conf {a f} : (modAisle a f s).conf = s.conf := rfl
@[simp] theorem modAisle_chans {a f} : (modAisle a f s).chans = s.chans := rfl
@[simp] theorem modAisle_tills {a f} : (modAisle a f s).tills = s.tills := rfl
@[simp] theorem modAisle_tillNow {a f} : (modAisle a f s).tillNow = s.tillNow := rfl
@[simp] theorem modAisle_rings {a f} : (modAisle a f s).rings = s.rings := rfl
@[simp] theorem modAisle_rtb {a f} : (modAisle a f s).rtb = s.rtb := rfl
@[simp] theorem modAisle_side {a f} : (modAisle a f s).side = s.side := rfl
@[simp] theorem modAisle_gens {a f} : (modAisle a f s).gens = s.gens := rfl
@[simp] theorem modAisle_rtbLatch {a f} : (modAisle a f s).rtbLatch = s.rtbLatch := rfl
@[simp] theorem modAisle_pairLatch {a f} : (modAisle a f s).pairLatch = s.pairLatch := rfl
@[simp] theorem modAisle_pfx {a f} : (modAisle a f s).pfx = s.pfx := rfl
@[simp] theorem modAisle_pfxPages {a f} : (modAisle a f s).pfxPages = s.pfxPages := rfl
@[simp] theorem modAisle_listPages {a f} : (modAisle a f s).listPages = s.listPages := rfl
@[simp] theorem modAisle_listBlocks {a f} : (modAisle a f s).listBlocks = s.listBlocks := rfl
@[simp] theorem modAisle_free {a f} : (modAisle a f s).free = s.free := rfl
@[simp] theorem modAisle_pageOwner {a f} : (modAisle a f s).pageOwner = s.pageOwner := rfl
@[simp] theorem modAisle_pond {a f} : (modAisle a f s).pond = s.pond := rfl
@[simp] theorem modAisle_poison {a f} : (modAisle a f s).poison = s.poison := rfl
@[simp] theorem modAisle_admq {a f} : (modAisle a f s).admq = s.admq := rfl
@[simp] theorem modAisle_admNext {a f} : (modAisle a f s).admNext = s.admNext := rfl
@[simp] theorem modAisle_steps {a f} : (modAisle a f s).steps = s.steps := rfl
@[simp] theorem modAisle_batches {a f} : (modAisle a f s).batches = s.batches := rfl
@[simp] theorem modAisle_batchNum {a f} : (modAisle a f s).batchNum = s.batchNum := rfl
@[simp] theorem modAisle_fixed {a f} : (modAisle a f s).fixed = s.fixed := rfl
@[simp] theorem modAisle_wks {a f} : (modAisle a f s).wks = s.wks := rfl
@[simp] theorem modAisle_cc {a f} : (modAisle a f s).cc = s.cc := rfl
@[simp] theorem modAisle_masks {a f} : (modAisle a f s).masks = s.masks := rfl
@[simp] theorem modAisle_adps {a f} : (modAisle a f s).adps = s.adps := rfl
@[simp] theorem modAisle_adpFetch {a f} : (modAisle a f s).adpFetch = s.adpFetch := rfl
@[simp] theorem modAisle_adpPages {a f} : (modAisle a f s).adpPages = s.adpPages := rfl
@[simp] theorem modAisle_pinPages {a f} : (modAisle a f s).pinPages = s.pinPages := rfl
@[simp] theorem modAisle_nmc {a f} : (modAisle a f s).nmc = s.nmc := rfl
@[simp] theorem modAisle_secm {a f} : (modAisle a f s).secm = s.secm := rfl
@[simp] theorem modAisle_img {a f} : (modAisle a f s).img = s.img := rfl
@[simp] theorem modAisle_log {a f} : (modAisle a f s).log = s.log := rfl
@[simp] theorem modAisle_heldAcc {a f} : (modAisle a f s).heldAcc = s.heldAcc := rfl
@[simp] theorem modAisle_freshN {a f} : (modAisle a f s).freshN = s.freshN := rfl
@[simp] theorem modAisle_out {a f} : (modAisle a f s).out = s.out := rfl
@[simp] theorem modAisle_pending {a f} : (modAisle a f s).pending = s.pending := rfl

/-! ### modFree -/

@[simp] theorem modFree_free {m f} : (modFree m f s).free = upd s.free (freeKey m) {} f := rfl
@[simp] theorem modFree_ft {m f} : (modFree m f s).ft = s.ft := rfl
@[simp] theorem modFree_regs {m f} : (modFree m f s).regs = s.regs := rfl
@[simp] theorem modFree_setNow {m f} : (modFree m f s).setNow = s.setNow := rfl
@[simp] theorem modFree_ccNow {m f} : (modFree m f s).ccNow = s.ccNow := rfl
@[simp] theorem modFree_serial {m f} : (modFree m f s).serial = s.serial := rfl
@[simp] theorem modFree_stepping {m f} : (modFree m f s).stepping = s.stepping := rfl
@[simp] theorem modFree_partX {m f} : (modFree m f s).partX = s.partX := rfl
@[simp] theorem modFree_straps {m f} : (modFree m f s).straps = s.straps := rfl
@[simp] theorem modFree_gpio {m f} : (modFree m f s).gpio = s.gpio := rfl
@[simp] theorem modFree_rst {m f} : (modFree m f s).rst = s.rst := rfl
@[simp] theorem modFree_doms {m f} : (modFree m f s).doms = s.doms := rfl
@[simp] theorem modFree_clk {m f} : (modFree m f s).clk = s.clk := rfl
@[simp] theorem modFree_fab {m f} : (modFree m f s).fab = s.fab := rfl
@[simp] theorem modFree_spg {m f} : (modFree m f s).spg = s.spg := rfl
@[simp] theorem modFree_conf {m f} : (modFree m f s).conf = s.conf := rfl
@[simp] theorem modFree_chans {m f} : (modFree m f s).chans = s.chans := rfl
@[simp] theorem modFree_tills {m f} : (modFree m f s).tills = s.tills := rfl
@[simp] theorem modFree_tillNow {m f} : (modFree m f s).tillNow = s.tillNow := rfl
@[simp] theorem modFree_rings {m f} : (modFree m f s).rings = s.rings := rfl
@[simp] theorem modFree_rtb {m f} : (modFree m f s).rtb = s.rtb := rfl
@[simp] theorem modFree_side {m f} : (modFree m f s).side = s.side := rfl
@[simp] theorem modFree_gens {m f} : (modFree m f s).gens = s.gens := rfl
@[simp] theorem modFree_rtbLatch {m f} : (modFree m f s).rtbLatch = s.rtbLatch := rfl
@[simp] theorem modFree_pairLatch {m f} : (modFree m f s).pairLatch = s.pairLatch := rfl
@[simp] theorem modFree_pfx {m f} : (modFree m f s).pfx = s.pfx := rfl
@[simp] theorem modFree_pfxPages {m f} : (modFree m f s).pfxPages = s.pfxPages := rfl
@[simp] theorem modFree_listPages {m f} : (modFree m f s).listPages = s.listPages := rfl
@[simp] theorem modFree_listBlocks {m f} : (modFree m f s).listBlocks = s.listBlocks := rfl
@[simp] theorem modFree_pageOwner {m f} : (modFree m f s).pageOwner = s.pageOwner := rfl
@[simp] theorem modFree_pond {m f} : (modFree m f s).pond = s.pond := rfl
@[simp] theorem modFree_poison {m f} : (modFree m f s).poison = s.poison := rfl
@[simp] theorem modFree_admq {m f} : (modFree m f s).admq = s.admq := rfl
@[simp] theorem modFree_admNext {m f} : (modFree m f s).admNext = s.admNext := rfl
@[simp] theorem modFree_steps {m f} : (modFree m f s).steps = s.steps := rfl
@[simp] theorem modFree_aisles {m f} : (modFree m f s).aisles = s.aisles := rfl
@[simp] theorem modFree_batches {m f} : (modFree m f s).batches = s.batches := rfl
@[simp] theorem modFree_batchNum {m f} : (modFree m f s).batchNum = s.batchNum := rfl
@[simp] theorem modFree_fixed {m f} : (modFree m f s).fixed = s.fixed := rfl
@[simp] theorem modFree_wks {m f} : (modFree m f s).wks = s.wks := rfl
@[simp] theorem modFree_cc {m f} : (modFree m f s).cc = s.cc := rfl
@[simp] theorem modFree_masks {m f} : (modFree m f s).masks = s.masks := rfl
@[simp] theorem modFree_adps {m f} : (modFree m f s).adps = s.adps := rfl
@[simp] theorem modFree_adpFetch {m f} : (modFree m f s).adpFetch = s.adpFetch := rfl
@[simp] theorem modFree_adpPages {m f} : (modFree m f s).adpPages = s.adpPages := rfl
@[simp] theorem modFree_pinPages {m f} : (modFree m f s).pinPages = s.pinPages := rfl
@[simp] theorem modFree_nmc {m f} : (modFree m f s).nmc = s.nmc := rfl
@[simp] theorem modFree_secm {m f} : (modFree m f s).secm = s.secm := rfl
@[simp] theorem modFree_img {m f} : (modFree m f s).img = s.img := rfl
@[simp] theorem modFree_log {m f} : (modFree m f s).log = s.log := rfl
@[simp] theorem modFree_heldAcc {m f} : (modFree m f s).heldAcc = s.heldAcc := rfl
@[simp] theorem modFree_freshN {m f} : (modFree m f s).freshN = s.freshN := rfl
@[simp] theorem modFree_out {m f} : (modFree m f s).out = s.out := rfl
@[simp] theorem modFree_pending {m f} : (modFree m f s).pending = s.pending := rfl

/-! ### modRst -/

@[simp] theorem modRst_rst {f} : (modRst f s).rst = f s.rst := rfl
@[simp] theorem modRst_ft {f} : (modRst f s).ft = s.ft := rfl
@[simp] theorem modRst_regs {f} : (modRst f s).regs = s.regs := rfl
@[simp] theorem modRst_setNow {f} : (modRst f s).setNow = s.setNow := rfl
@[simp] theorem modRst_ccNow {f} : (modRst f s).ccNow = s.ccNow := rfl
@[simp] theorem modRst_serial {f} : (modRst f s).serial = s.serial := rfl
@[simp] theorem modRst_stepping {f} : (modRst f s).stepping = s.stepping := rfl
@[simp] theorem modRst_partX {f} : (modRst f s).partX = s.partX := rfl
@[simp] theorem modRst_straps {f} : (modRst f s).straps = s.straps := rfl
@[simp] theorem modRst_gpio {f} : (modRst f s).gpio = s.gpio := rfl
@[simp] theorem modRst_doms {f} : (modRst f s).doms = s.doms := rfl
@[simp] theorem modRst_clk {f} : (modRst f s).clk = s.clk := rfl
@[simp] theorem modRst_fab {f} : (modRst f s).fab = s.fab := rfl
@[simp] theorem modRst_spg {f} : (modRst f s).spg = s.spg := rfl
@[simp] theorem modRst_conf {f} : (modRst f s).conf = s.conf := rfl
@[simp] theorem modRst_chans {f} : (modRst f s).chans = s.chans := rfl
@[simp] theorem modRst_tills {f} : (modRst f s).tills = s.tills := rfl
@[simp] theorem modRst_tillNow {f} : (modRst f s).tillNow = s.tillNow := rfl
@[simp] theorem modRst_rings {f} : (modRst f s).rings = s.rings := rfl
@[simp] theorem modRst_rtb {f} : (modRst f s).rtb = s.rtb := rfl
@[simp] theorem modRst_side {f} : (modRst f s).side = s.side := rfl
@[simp] theorem modRst_gens {f} : (modRst f s).gens = s.gens := rfl
@[simp] theorem modRst_rtbLatch {f} : (modRst f s).rtbLatch = s.rtbLatch := rfl
@[simp] theorem modRst_pairLatch {f} : (modRst f s).pairLatch = s.pairLatch := rfl
@[simp] theorem modRst_pfx {f} : (modRst f s).pfx = s.pfx := rfl
@[simp] theorem modRst_pfxPages {f} : (modRst f s).pfxPages = s.pfxPages := rfl
@[simp] theorem modRst_listPages {f} : (modRst f s).listPages = s.listPages := rfl
@[simp] theorem modRst_listBlocks {f} : (modRst f s).listBlocks = s.listBlocks := rfl
@[simp] theorem modRst_free {f} : (modRst f s).free = s.free := rfl
@[simp] theorem modRst_pageOwner {f} : (modRst f s).pageOwner = s.pageOwner := rfl
@[simp] theorem modRst_pond {f} : (modRst f s).pond = s.pond := rfl
@[simp] theorem modRst_poison {f} : (modRst f s).poison = s.poison := rfl
@[simp] theorem modRst_admq {f} : (modRst f s).admq = s.admq := rfl
@[simp] theorem modRst_admNext {f} : (modRst f s).admNext = s.admNext := rfl
@[simp] theorem modRst_steps {f} : (modRst f s).steps = s.steps := rfl
@[simp] theorem modRst_aisles {f} : (modRst f s).aisles = s.aisles := rfl
@[simp] theorem modRst_batches {f} : (modRst f s).batches = s.batches := rfl
@[simp] theorem modRst_batchNum {f} : (modRst f s).batchNum = s.batchNum := rfl
@[simp] theorem modRst_fixed {f} : (modRst f s).fixed = s.fixed := rfl
@[simp] theorem modRst_wks {f} : (modRst f s).wks = s.wks := rfl
@[simp] theorem modRst_cc {f} : (modRst f s).cc = s.cc := rfl
@[simp] theorem modRst_masks {f} : (modRst f s).masks = s.masks := rfl
@[simp] theorem modRst_adps {f} : (modRst f s).adps = s.adps := rfl
@[simp] theorem modRst_adpFetch {f} : (modRst f s).adpFetch = s.adpFetch := rfl
@[simp] theorem modRst_adpPages {f} : (modRst f s).adpPages = s.adpPages := rfl
@[simp] theorem modRst_pinPages {f} : (modRst f s).pinPages = s.pinPages := rfl
@[simp] theorem modRst_nmc {f} : (modRst f s).nmc = s.nmc := rfl
@[simp] theorem modRst_secm {f} : (modRst f s).secm = s.secm := rfl
@[simp] theorem modRst_img {f} : (modRst f s).img = s.img := rfl
@[simp] theorem modRst_log {f} : (modRst f s).log = s.log := rfl
@[simp] theorem modRst_heldAcc {f} : (modRst f s).heldAcc = s.heldAcc := rfl
@[simp] theorem modRst_freshN {f} : (modRst f s).freshN = s.freshN := rfl
@[simp] theorem modRst_out {f} : (modRst f s).out = s.out := rfl
@[simp] theorem modRst_pending {f} : (modRst f s).pending = s.pending := rfl

/-! ### modMask -/

@[simp] theorem modMask_masks {m f} : (modMask m f s).masks = upd s.masks m {} f := rfl
@[simp] theorem modMask_ft {m f} : (modMask m f s).ft = s.ft := rfl
@[simp] theorem modMask_regs {m f} : (modMask m f s).regs = s.regs := rfl
@[simp] theorem modMask_setNow {m f} : (modMask m f s).setNow = s.setNow := rfl
@[simp] theorem modMask_ccNow {m f} : (modMask m f s).ccNow = s.ccNow := rfl
@[simp] theorem modMask_serial {m f} : (modMask m f s).serial = s.serial := rfl
@[simp] theorem modMask_stepping {m f} : (modMask m f s).stepping = s.stepping := rfl
@[simp] theorem modMask_partX {m f} : (modMask m f s).partX = s.partX := rfl
@[simp] theorem modMask_straps {m f} : (modMask m f s).straps = s.straps := rfl
@[simp] theorem modMask_gpio {m f} : (modMask m f s).gpio = s.gpio := rfl
@[simp] theorem modMask_rst {m f} : (modMask m f s).rst = s.rst := rfl
@[simp] theorem modMask_doms {m f} : (modMask m f s).doms = s.doms := rfl
@[simp] theorem modMask_clk {m f} : (modMask m f s).clk = s.clk := rfl
@[simp] theorem modMask_fab {m f} : (modMask m f s).fab = s.fab := rfl
@[simp] theorem modMask_spg {m f} : (modMask m f s).spg = s.spg := rfl
@[simp] theorem modMask_conf {m f} : (modMask m f s).conf = s.conf := rfl
@[simp] theorem modMask_chans {m f} : (modMask m f s).chans = s.chans := rfl
@[simp] theorem modMask_tills {m f} : (modMask m f s).tills = s.tills := rfl
@[simp] theorem modMask_tillNow {m f} : (modMask m f s).tillNow = s.tillNow := rfl
@[simp] theorem modMask_rings {m f} : (modMask m f s).rings = s.rings := rfl
@[simp] theorem modMask_rtb {m f} : (modMask m f s).rtb = s.rtb := rfl
@[simp] theorem modMask_side {m f} : (modMask m f s).side = s.side := rfl
@[simp] theorem modMask_gens {m f} : (modMask m f s).gens = s.gens := rfl
@[simp] theorem modMask_rtbLatch {m f} : (modMask m f s).rtbLatch = s.rtbLatch := rfl
@[simp] theorem modMask_pairLatch {m f} : (modMask m f s).pairLatch = s.pairLatch := rfl
@[simp] theorem modMask_pfx {m f} : (modMask m f s).pfx = s.pfx := rfl
@[simp] theorem modMask_pfxPages {m f} : (modMask m f s).pfxPages = s.pfxPages := rfl
@[simp] theorem modMask_listPages {m f} : (modMask m f s).listPages = s.listPages := rfl
@[simp] theorem modMask_listBlocks {m f} : (modMask m f s).listBlocks = s.listBlocks := rfl
@[simp] theorem modMask_free {m f} : (modMask m f s).free = s.free := rfl
@[simp] theorem modMask_pageOwner {m f} : (modMask m f s).pageOwner = s.pageOwner := rfl
@[simp] theorem modMask_pond {m f} : (modMask m f s).pond = s.pond := rfl
@[simp] theorem modMask_poison {m f} : (modMask m f s).poison = s.poison := rfl
@[simp] theorem modMask_admq {m f} : (modMask m f s).admq = s.admq := rfl
@[simp] theorem modMask_admNext {m f} : (modMask m f s).admNext = s.admNext := rfl
@[simp] theorem modMask_steps {m f} : (modMask m f s).steps = s.steps := rfl
@[simp] theorem modMask_aisles {m f} : (modMask m f s).aisles = s.aisles := rfl
@[simp] theorem modMask_batches {m f} : (modMask m f s).batches = s.batches := rfl
@[simp] theorem modMask_batchNum {m f} : (modMask m f s).batchNum = s.batchNum := rfl
@[simp] theorem modMask_fixed {m f} : (modMask m f s).fixed = s.fixed := rfl
@[simp] theorem modMask_wks {m f} : (modMask m f s).wks = s.wks := rfl
@[simp] theorem modMask_cc {m f} : (modMask m f s).cc = s.cc := rfl
@[simp] theorem modMask_adps {m f} : (modMask m f s).adps = s.adps := rfl
@[simp] theorem modMask_adpFetch {m f} : (modMask m f s).adpFetch = s.adpFetch := rfl
@[simp] theorem modMask_adpPages {m f} : (modMask m f s).adpPages = s.adpPages := rfl
@[simp] theorem modMask_pinPages {m f} : (modMask m f s).pinPages = s.pinPages := rfl
@[simp] theorem modMask_nmc {m f} : (modMask m f s).nmc = s.nmc := rfl
@[simp] theorem modMask_secm {m f} : (modMask m f s).secm = s.secm := rfl
@[simp] theorem modMask_img {m f} : (modMask m f s).img = s.img := rfl
@[simp] theorem modMask_log {m f} : (modMask m f s).log = s.log := rfl
@[simp] theorem modMask_heldAcc {m f} : (modMask m f s).heldAcc = s.heldAcc := rfl
@[simp] theorem modMask_freshN {m f} : (modMask m f s).freshN = s.freshN := rfl
@[simp] theorem modMask_out {m f} : (modMask m f s).out = s.out := rfl
@[simp] theorem modMask_pending {m f} : (modMask m f s).pending = s.pending := rfl

/-! ### modSecm -/

@[simp] theorem modSecm_secm {f} : (modSecm f s).secm = f s.secm := rfl
@[simp] theorem modSecm_ft {f} : (modSecm f s).ft = s.ft := rfl
@[simp] theorem modSecm_regs {f} : (modSecm f s).regs = s.regs := rfl
@[simp] theorem modSecm_setNow {f} : (modSecm f s).setNow = s.setNow := rfl
@[simp] theorem modSecm_ccNow {f} : (modSecm f s).ccNow = s.ccNow := rfl
@[simp] theorem modSecm_serial {f} : (modSecm f s).serial = s.serial := rfl
@[simp] theorem modSecm_stepping {f} : (modSecm f s).stepping = s.stepping := rfl
@[simp] theorem modSecm_partX {f} : (modSecm f s).partX = s.partX := rfl
@[simp] theorem modSecm_straps {f} : (modSecm f s).straps = s.straps := rfl
@[simp] theorem modSecm_gpio {f} : (modSecm f s).gpio = s.gpio := rfl
@[simp] theorem modSecm_rst {f} : (modSecm f s).rst = s.rst := rfl
@[simp] theorem modSecm_doms {f} : (modSecm f s).doms = s.doms := rfl
@[simp] theorem modSecm_clk {f} : (modSecm f s).clk = s.clk := rfl
@[simp] theorem modSecm_fab {f} : (modSecm f s).fab = s.fab := rfl
@[simp] theorem modSecm_spg {f} : (modSecm f s).spg = s.spg := rfl
@[simp] theorem modSecm_conf {f} : (modSecm f s).conf = s.conf := rfl
@[simp] theorem modSecm_chans {f} : (modSecm f s).chans = s.chans := rfl
@[simp] theorem modSecm_tills {f} : (modSecm f s).tills = s.tills := rfl
@[simp] theorem modSecm_tillNow {f} : (modSecm f s).tillNow = s.tillNow := rfl
@[simp] theorem modSecm_rings {f} : (modSecm f s).rings = s.rings := rfl
@[simp] theorem modSecm_rtb {f} : (modSecm f s).rtb = s.rtb := rfl
@[simp] theorem modSecm_side {f} : (modSecm f s).side = s.side := rfl
@[simp] theorem modSecm_gens {f} : (modSecm f s).gens = s.gens := rfl
@[simp] theorem modSecm_rtbLatch {f} : (modSecm f s).rtbLatch = s.rtbLatch := rfl
@[simp] theorem modSecm_pairLatch {f} : (modSecm f s).pairLatch = s.pairLatch := rfl
@[simp] theorem modSecm_pfx {f} : (modSecm f s).pfx = s.pfx := rfl
@[simp] theorem modSecm_pfxPages {f} : (modSecm f s).pfxPages = s.pfxPages := rfl
@[simp] theorem modSecm_listPages {f} : (modSecm f s).listPages = s.listPages := rfl
@[simp] theorem modSecm_listBlocks {f} : (modSecm f s).listBlocks = s.listBlocks := rfl
@[simp] theorem modSecm_free {f} : (modSecm f s).free = s.free := rfl
@[simp] theorem modSecm_pageOwner {f} : (modSecm f s).pageOwner = s.pageOwner := rfl
@[simp] theorem modSecm_pond {f} : (modSecm f s).pond = s.pond := rfl
@[simp] theorem modSecm_poison {f} : (modSecm f s).poison = s.poison := rfl
@[simp] theorem modSecm_admq {f} : (modSecm f s).admq = s.admq := rfl
@[simp] theorem modSecm_admNext {f} : (modSecm f s).admNext = s.admNext := rfl
@[simp] theorem modSecm_steps {f} : (modSecm f s).steps = s.steps := rfl
@[simp] theorem modSecm_aisles {f} : (modSecm f s).aisles = s.aisles := rfl
@[simp] theorem modSecm_batches {f} : (modSecm f s).batches = s.batches := rfl
@[simp] theorem modSecm_batchNum {f} : (modSecm f s).batchNum = s.batchNum := rfl
@[simp] theorem modSecm_fixed {f} : (modSecm f s).fixed = s.fixed := rfl
@[simp] theorem modSecm_wks {f} : (modSecm f s).wks = s.wks := rfl
@[simp] theorem modSecm_cc {f} : (modSecm f s).cc = s.cc := rfl
@[simp] theorem modSecm_masks {f} : (modSecm f s).masks = s.masks := rfl
@[simp] theorem modSecm_adps {f} : (modSecm f s).adps = s.adps := rfl
@[simp] theorem modSecm_adpFetch {f} : (modSecm f s).adpFetch = s.adpFetch := rfl
@[simp] theorem modSecm_adpPages {f} : (modSecm f s).adpPages = s.adpPages := rfl
@[simp] theorem modSecm_pinPages {f} : (modSecm f s).pinPages = s.pinPages := rfl
@[simp] theorem modSecm_nmc {f} : (modSecm f s).nmc = s.nmc := rfl
@[simp] theorem modSecm_img {f} : (modSecm f s).img = s.img := rfl
@[simp] theorem modSecm_log {f} : (modSecm f s).log = s.log := rfl
@[simp] theorem modSecm_heldAcc {f} : (modSecm f s).heldAcc = s.heldAcc := rfl
@[simp] theorem modSecm_freshN {f} : (modSecm f s).freshN = s.freshN := rfl
@[simp] theorem modSecm_out {f} : (modSecm f s).out = s.out := rfl
@[simp] theorem modSecm_pending {f} : (modSecm f s).pending = s.pending := rfl

/-! ### modSess -/

@[simp] theorem modSess_secm {c f} : (modSess c f s).secm = { s.secm with chans := put s.secm.chans c (f (look s.secm.chans c {})) {} } := rfl
@[simp] theorem modSess_ft {c f} : (modSess c f s).ft = s.ft := rfl
@[simp] theorem modSess_regs {c f} : (modSess c f s).regs = s.regs := rfl
@[simp] theorem modSess_setNow {c f} : (modSess c f s).setNow = s.setNow := rfl
@[simp] theorem modSess_ccNow {c f} : (modSess c f s).ccNow = s.ccNow := rfl
@[simp] theorem modSess_serial {c f} : (modSess c f s).serial = s.serial := rfl
@[simp] theorem modSess_stepping {c f} : (modSess c f s).stepping = s.stepping := rfl
@[simp] theorem modSess_partX {c f} : (modSess c f s).partX = s.partX := rfl
@[simp] theorem modSess_straps {c f} : (modSess c f s).straps = s.straps := rfl
@[simp] theorem modSess_gpio {c f} : (modSess c f s).gpio = s.gpio := rfl
@[simp] theorem modSess_rst {c f} : (modSess c f s).rst = s.rst := rfl
@[simp] theorem modSess_doms {c f} : (modSess c f s).doms = s.doms := rfl
@[simp] theorem modSess_clk {c f} : (modSess c f s).clk = s.clk := rfl
@[simp] theorem modSess_fab {c f} : (modSess c f s).fab = s.fab := rfl
@[simp] theorem modSess_spg {c f} : (modSess c f s).spg = s.spg := rfl
@[simp] theorem modSess_conf {c f} : (modSess c f s).conf = s.conf := rfl
@[simp] theorem modSess_chans {c f} : (modSess c f s).chans = s.chans := rfl
@[simp] theorem modSess_tills {c f} : (modSess c f s).tills = s.tills := rfl
@[simp] theorem modSess_tillNow {c f} : (modSess c f s).tillNow = s.tillNow := rfl
@[simp] theorem modSess_rings {c f} : (modSess c f s).rings = s.rings := rfl
@[simp] theorem modSess_rtb {c f} : (modSess c f s).rtb = s.rtb := rfl
@[simp] theorem modSess_side {c f} : (modSess c f s).side = s.side := rfl
@[simp] theorem modSess_gens {c f} : (modSess c f s).gens = s.gens := rfl
@[simp] theorem modSess_rtbLatch {c f} : (modSess c f s).rtbLatch = s.rtbLatch := rfl
@[simp] theorem modSess_pairLatch {c f} : (modSess c f s).pairLatch = s.pairLatch := rfl
@[simp] theorem modSess_pfx {c f} : (modSess c f s).pfx = s.pfx := rfl
@[simp] theorem modSess_pfxPages {c f} : (modSess c f s).pfxPages = s.pfxPages := rfl
@[simp] theorem modSess_listPages {c f} : (modSess c f s).listPages = s.listPages := rfl
@[simp] theorem modSess_listBlocks {c f} : (modSess c f s).listBlocks = s.listBlocks := rfl
@[simp] theorem modSess_free {c f} : (modSess c f s).free = s.free := rfl
@[simp] theorem modSess_pageOwner {c f} : (modSess c f s).pageOwner = s.pageOwner := rfl
@[simp] theorem modSess_pond {c f} : (modSess c f s).pond = s.pond := rfl
@[simp] theorem modSess_poison {c f} : (modSess c f s).poison = s.poison := rfl
@[simp] theorem modSess_admq {c f} : (modSess c f s).admq = s.admq := rfl
@[simp] theorem modSess_admNext {c f} : (modSess c f s).admNext = s.admNext := rfl
@[simp] theorem modSess_steps {c f} : (modSess c f s).steps = s.steps := rfl
@[simp] theorem modSess_aisles {c f} : (modSess c f s).aisles = s.aisles := rfl
@[simp] theorem modSess_batches {c f} : (modSess c f s).batches = s.batches := rfl
@[simp] theorem modSess_batchNum {c f} : (modSess c f s).batchNum = s.batchNum := rfl
@[simp] theorem modSess_fixed {c f} : (modSess c f s).fixed = s.fixed := rfl
@[simp] theorem modSess_wks {c f} : (modSess c f s).wks = s.wks := rfl
@[simp] theorem modSess_cc {c f} : (modSess c f s).cc = s.cc := rfl
@[simp] theorem modSess_masks {c f} : (modSess c f s).masks = s.masks := rfl
@[simp] theorem modSess_adps {c f} : (modSess c f s).adps = s.adps := rfl
@[simp] theorem modSess_adpFetch {c f} : (modSess c f s).adpFetch = s.adpFetch := rfl
@[simp] theorem modSess_adpPages {c f} : (modSess c f s).adpPages = s.adpPages := rfl
@[simp] theorem modSess_pinPages {c f} : (modSess c f s).pinPages = s.pinPages := rfl
@[simp] theorem modSess_nmc {c f} : (modSess c f s).nmc = s.nmc := rfl
@[simp] theorem modSess_img {c f} : (modSess c f s).img = s.img := rfl
@[simp] theorem modSess_log {c f} : (modSess c f s).log = s.log := rfl
@[simp] theorem modSess_heldAcc {c f} : (modSess c f s).heldAcc = s.heldAcc := rfl
@[simp] theorem modSess_freshN {c f} : (modSess c f s).freshN = s.freshN := rfl
@[simp] theorem modSess_out {c f} : (modSess c f s).out = s.out := rfl
@[simp] theorem modSess_pending {c f} : (modSess c f s).pending = s.pending := rfl

/-! ### modWks -/

@[simp] theorem modWks_wks {f} : (modWks f s).wks = f s.wks := rfl
@[simp] theorem modWks_ft {f} : (modWks f s).ft = s.ft := rfl
@[simp] theorem modWks_regs {f} : (modWks f s).regs = s.regs := rfl
@[simp] theorem modWks_setNow {f} : (modWks f s).setNow = s.setNow := rfl
@[simp] theorem modWks_ccNow {f} : (modWks f s).ccNow = s.ccNow := rfl
@[simp] theorem modWks_serial {f} : (modWks f s).serial = s.serial := rfl
@[simp] theorem modWks_stepping {f} : (modWks f s).stepping = s.stepping := rfl
@[simp] theorem modWks_partX {f} : (modWks f s).partX = s.partX := rfl
@[simp] theorem modWks_straps {f} : (modWks f s).straps = s.straps := rfl
@[simp] theorem modWks_gpio {f} : (modWks f s).gpio = s.gpio := rfl
@[simp] theorem modWks_rst {f} : (modWks f s).rst = s.rst := rfl
@[simp] theorem modWks_doms {f} : (modWks f s).doms = s.doms := rfl
@[simp] theorem modWks_clk {f} : (modWks f s).clk = s.clk := rfl
@[simp] theorem modWks_fab {f} : (modWks f s).fab = s.fab := rfl
@[simp] theorem modWks_spg {f} : (modWks f s).spg = s.spg := rfl
@[simp] theorem modWks_conf {f} : (modWks f s).conf = s.conf := rfl
@[simp] theorem modWks_chans {f} : (modWks f s).chans = s.chans := rfl
@[simp] theorem modWks_tills {f} : (modWks f s).tills = s.tills := rfl
@[simp] theorem modWks_tillNow {f} : (modWks f s).tillNow = s.tillNow := rfl
@[simp] theorem modWks_rings {f} : (modWks f s).rings = s.rings := rfl
@[simp] theorem modWks_rtb {f} : (modWks f s).rtb = s.rtb := rfl
@[simp] theorem modWks_side {f} : (modWks f s).side = s.side := rfl
@[simp] theorem modWks_gens {f} : (modWks f s).gens = s.gens := rfl
@[simp] theorem modWks_rtbLatch {f} : (modWks f s).rtbLatch = s.rtbLatch := rfl
@[simp] theorem modWks_pairLatch {f} : (modWks f s).pairLatch = s.pairLatch := rfl
@[simp] theorem modWks_pfx {f} : (modWks f s).pfx = s.pfx := rfl
@[simp] theorem modWks_pfxPages {f} : (modWks f s).pfxPages = s.pfxPages := rfl
@[simp] theorem modWks_listPages {f} : (modWks f s).listPages = s.listPages := rfl
@[simp] theorem modWks_listBlocks {f} : (modWks f s).listBlocks = s.listBlocks := rfl
@[simp] theorem modWks_free {f} : (modWks f s).free = s.free := rfl
@[simp] theorem modWks_pageOwner {f} : (modWks f s).pageOwner = s.pageOwner := rfl
@[simp] theorem modWks_pond {f} : (modWks f s).pond = s.pond := rfl
@[simp] theorem modWks_poison {f} : (modWks f s).poison = s.poison := rfl
@[simp] theorem modWks_admq {f} : (modWks f s).admq = s.admq := rfl
@[simp] theorem modWks_admNext {f} : (modWks f s).admNext = s.admNext := rfl
@[simp] theorem modWks_steps {f} : (modWks f s).steps = s.steps := rfl
@[simp] theorem modWks_aisles {f} : (modWks f s).aisles = s.aisles := rfl
@[simp] theorem modWks_batches {f} : (modWks f s).batches = s.batches := rfl
@[simp] theorem modWks_batchNum {f} : (modWks f s).batchNum = s.batchNum := rfl
@[simp] theorem modWks_fixed {f} : (modWks f s).fixed = s.fixed := rfl
@[simp] theorem modWks_cc {f} : (modWks f s).cc = s.cc := rfl
@[simp] theorem modWks_masks {f} : (modWks f s).masks = s.masks := rfl
@[simp] theorem modWks_adps {f} : (modWks f s).adps = s.adps := rfl
@[simp] theorem modWks_adpFetch {f} : (modWks f s).adpFetch = s.adpFetch := rfl
@[simp] theorem modWks_adpPages {f} : (modWks f s).adpPages = s.adpPages := rfl
@[simp] theorem modWks_pinPages {f} : (modWks f s).pinPages = s.pinPages := rfl
@[simp] theorem modWks_nmc {f} : (modWks f s).nmc = s.nmc := rfl
@[simp] theorem modWks_secm {f} : (modWks f s).secm = s.secm := rfl
@[simp] theorem modWks_img {f} : (modWks f s).img = s.img := rfl
@[simp] theorem modWks_log {f} : (modWks f s).log = s.log := rfl
@[simp] theorem modWks_heldAcc {f} : (modWks f s).heldAcc = s.heldAcc := rfl
@[simp] theorem modWks_freshN {f} : (modWks f s).freshN = s.freshN := rfl
@[simp] theorem modWks_out {f} : (modWks f s).out = s.out := rfl
@[simp] theorem modWks_pending {f} : (modWks f s).pending = s.pending := rfl

/-! ### setItem -/

@[simp] theorem setItem_wks {k i} : (setItem k i s).wks = { s.wks with pool := put s.wks.pool k i {} } := rfl
@[simp] theorem setItem_ft {k i} : (setItem k i s).ft = s.ft := rfl
@[simp] theorem setItem_regs {k i} : (setItem k i s).regs = s.regs := rfl
@[simp] theorem setItem_setNow {k i} : (setItem k i s).setNow = s.setNow := rfl
@[simp] theorem setItem_ccNow {k i} : (setItem k i s).ccNow = s.ccNow := rfl
@[simp] theorem setItem_serial {k i} : (setItem k i s).serial = s.serial := rfl
@[simp] theorem setItem_stepping {k i} : (setItem k i s).stepping = s.stepping := rfl
@[simp] theorem setItem_partX {k i} : (setItem k i s).partX = s.partX := rfl
@[simp] theorem setItem_straps {k i} : (setItem k i s).straps = s.straps := rfl
@[simp] theorem setItem_gpio {k i} : (setItem k i s).gpio = s.gpio := rfl
@[simp] theorem setItem_rst {k i} : (setItem k i s).rst = s.rst := rfl
@[simp] theorem setItem_doms {k i} : (setItem k i s).doms = s.doms := rfl
@[simp] theorem setItem_clk {k i} : (setItem k i s).clk = s.clk := rfl
@[simp] theorem setItem_fab {k i} : (setItem k i s).fab = s.fab := rfl
@[simp] theorem setItem_spg {k i} : (setItem k i s).spg = s.spg := rfl
@[simp] theorem setItem_conf {k i} : (setItem k i s).conf = s.conf := rfl
@[simp] theorem setItem_chans {k i} : (setItem k i s).chans = s.chans := rfl
@[simp] theorem setItem_tills {k i} : (setItem k i s).tills = s.tills := rfl
@[simp] theorem setItem_tillNow {k i} : (setItem k i s).tillNow = s.tillNow := rfl
@[simp] theorem setItem_rings {k i} : (setItem k i s).rings = s.rings := rfl
@[simp] theorem setItem_rtb {k i} : (setItem k i s).rtb = s.rtb := rfl
@[simp] theorem setItem_side {k i} : (setItem k i s).side = s.side := rfl
@[simp] theorem setItem_gens {k i} : (setItem k i s).gens = s.gens := rfl
@[simp] theorem setItem_rtbLatch {k i} : (setItem k i s).rtbLatch = s.rtbLatch := rfl
@[simp] theorem setItem_pairLatch {k i} : (setItem k i s).pairLatch = s.pairLatch := rfl
@[simp] theorem setItem_pfx {k i} : (setItem k i s).pfx = s.pfx := rfl
@[simp] theorem setItem_pfxPages {k i} : (setItem k i s).pfxPages = s.pfxPages := rfl
@[simp] theorem setItem_listPages {k i} : (setItem k i s).listPages = s.listPages := rfl
@[simp] theorem setItem_listBlocks {k i} : (setItem k i s).listBlocks = s.listBlocks := rfl
@[simp] theorem setItem_free {k i} : (setItem k i s).free = s.free := rfl
@[simp] theorem setItem_pageOwner {k i} : (setItem k i s).pageOwner = s.pageOwner := rfl
@[simp] theorem setItem_pond {k i} : (setItem k i s).pond = s.pond := rfl
@[simp] theorem setItem_poison {k i} : (setItem k i s).poison = s.poison := rfl
@[simp] theorem setItem_admq {k i} : (setItem k i s).admq = s.admq := rfl
@[simp] theorem setItem_admNext {k i} : (setItem k i s).admNext = s.admNext := rfl
@[simp] theorem setItem_steps {k i} : (setItem k i s).steps = s.steps := rfl
@[simp] theorem setItem_aisles {k i} : (setItem k i s).aisles = s.aisles := rfl
@[simp] theorem setItem_batches {k i} : (setItem k i s).batches = s.batches := rfl
@[simp] theorem setItem_batchNum {k i} : (setItem k i s).batchNum = s.batchNum := rfl
@[simp] theorem setItem_fixed {k i} : (setItem k i s).fixed = s.fixed := rfl
@[simp] theorem setItem_cc {k i} : (setItem k i s).cc = s.cc := rfl
@[simp] theorem setItem_masks {k i} : (setItem k i s).masks = s.masks := rfl
@[simp] theorem setItem_adps {k i} : (setItem k i s).adps = s.adps := rfl
@[simp] theorem setItem_adpFetch {k i} : (setItem k i s).adpFetch = s.adpFetch := rfl
@[simp] theorem setItem_adpPages {k i} : (setItem k i s).adpPages = s.adpPages := rfl
@[simp] theorem setItem_pinPages {k i} : (setItem k i s).pinPages = s.pinPages := rfl
@[simp] theorem setItem_nmc {k i} : (setItem k i s).nmc = s.nmc := rfl
@[simp] theorem setItem_secm {k i} : (setItem k i s).secm = s.secm := rfl
@[simp] theorem setItem_img {k i} : (setItem k i s).img = s.img := rfl
@[simp] theorem setItem_log {k i} : (setItem k i s).log = s.log := rfl
@[simp] theorem setItem_heldAcc {k i} : (setItem k i s).heldAcc = s.heldAcc := rfl
@[simp] theorem setItem_freshN {k i} : (setItem k i s).freshN = s.freshN := rfl
@[simp] theorem setItem_out {k i} : (setItem k i s).out = s.out := rfl
@[simp] theorem setItem_pending {k i} : (setItem k i s).pending = s.pending := rfl

/-! ### modItem -/

@[simp] theorem modItem_wks {k f} : (modItem k f s).wks = { s.wks with pool := put s.wks.pool k (f (item s k)) {} } := rfl
@[simp] theorem modItem_ft {k f} : (modItem k f s).ft = s.ft := rfl
@[simp] theorem modItem_regs {k f} : (modItem k f s).regs = s.regs := rfl
@[simp] theorem modItem_setNow {k f} : (modItem k f s).setNow = s.setNow := rfl
@[simp] theorem modItem_ccNow {k f} : (modItem k f s).ccNow = s.ccNow := rfl
@[simp] theorem modItem_serial {k f} : (modItem k f s).serial = s.serial := rfl
@[simp] theorem modItem_stepping {k f} : (modItem k f s).stepping = s.stepping := rfl
@[simp] theorem modItem_partX {k f} : (modItem k f s).partX = s.partX := rfl
@[simp] theorem modItem_straps {k f} : (modItem k f s).straps = s.straps := rfl
@[simp] theorem modItem_gpio {k f} : (modItem k f s).gpio = s.gpio := rfl
@[simp] theorem modItem_rst {k f} : (modItem k f s).rst = s.rst := rfl
@[simp] theorem modItem_doms {k f} : (modItem k f s).doms = s.doms := rfl
@[simp] theorem modItem_clk {k f} : (modItem k f s).clk = s.clk := rfl
@[simp] theorem modItem_fab {k f} : (modItem k f s).fab = s.fab := rfl
@[simp] theorem modItem_spg {k f} : (modItem k f s).spg = s.spg := rfl
@[simp] theorem modItem_conf {k f} : (modItem k f s).conf = s.conf := rfl
@[simp] theorem modItem_chans {k f} : (modItem k f s).chans = s.chans := rfl
@[simp] theorem modItem_tills {k f} : (modItem k f s).tills = s.tills := rfl
@[simp] theorem modItem_tillNow {k f} : (modItem k f s).tillNow = s.tillNow := rfl
@[simp] theorem modItem_rings {k f} : (modItem k f s).rings = s.rings := rfl
@[simp] theorem modItem_rtb {k f} : (modItem k f s).rtb = s.rtb := rfl
@[simp] theorem modItem_side {k f} : (modItem k f s).side = s.side := rfl
@[simp] theorem modItem_gens {k f} : (modItem k f s).gens = s.gens := rfl
@[simp] theorem modItem_rtbLatch {k f} : (modItem k f s).rtbLatch = s.rtbLatch := rfl
@[simp] theorem modItem_pairLatch {k f} : (modItem k f s).pairLatch = s.pairLatch := rfl
@[simp] theorem modItem_pfx {k f} : (modItem k f s).pfx = s.pfx := rfl
@[simp] theorem modItem_pfxPages {k f} : (modItem k f s).pfxPages = s.pfxPages := rfl
@[simp] theorem modItem_listPages {k f} : (modItem k f s).listPages = s.listPages := rfl
@[simp] theorem modItem_listBlocks {k f} : (modItem k f s).listBlocks = s.listBlocks := rfl
@[simp] theorem modItem_free {k f} : (modItem k f s).free = s.free := rfl
@[simp] theorem modItem_pageOwner {k f} : (modItem k f s).pageOwner = s.pageOwner := rfl
@[simp] theorem modItem_pond {k f} : (modItem k f s).pond = s.pond := rfl
@[simp] theorem modItem_poison {k f} : (modItem k f s).poison = s.poison := rfl
@[simp] theorem modItem_admq {k f} : (modItem k f s).admq = s.admq := rfl
@[simp] theorem modItem_admNext {k f} : (modItem k f s).admNext = s.admNext := rfl
@[simp] theorem modItem_steps {k f} : (modItem k f s).steps = s.steps := rfl
@[simp] theorem modItem_aisles {k f} : (modItem k f s).aisles = s.aisles := rfl
@[simp] theorem modItem_batches {k f} : (modItem k f s).batches = s.batches := rfl
@[simp] theorem modItem_batchNum {k f} : (modItem k f s).batchNum = s.batchNum := rfl
@[simp] theorem modItem_fixed {k f} : (modItem k f s).fixed = s.fixed := rfl
@[simp] theorem modItem_cc {k f} : (modItem k f s).cc = s.cc := rfl
@[simp] theorem modItem_masks {k f} : (modItem k f s).masks = s.masks := rfl
@[simp] theorem modItem_adps {k f} : (modItem k f s).adps = s.adps := rfl
@[simp] theorem modItem_adpFetch {k f} : (modItem k f s).adpFetch = s.adpFetch := rfl
@[simp] theorem modItem_adpPages {k f} : (modItem k f s).adpPages = s.adpPages := rfl
@[simp] theorem modItem_pinPages {k f} : (modItem k f s).pinPages = s.pinPages := rfl
@[simp] theorem modItem_nmc {k f} : (modItem k f s).nmc = s.nmc := rfl
@[simp] theorem modItem_secm {k f} : (modItem k f s).secm = s.secm := rfl
@[simp] theorem modItem_img {k f} : (modItem k f s).img = s.img := rfl
@[simp] theorem modItem_log {k f} : (modItem k f s).log = s.log := rfl
@[simp] theorem modItem_heldAcc {k f} : (modItem k f s).heldAcc = s.heldAcc := rfl
@[simp] theorem modItem_freshN {k f} : (modItem k f s).freshN = s.freshN := rfl
@[simp] theorem modItem_out {k f} : (modItem k f s).out = s.out := rfl
@[simp] theorem modItem_pending {k f} : (modItem k f s).pending = s.pending := rfl

/-! ### modEnt -/

@[simp] theorem modEnt_rtb {r f} : (modEnt r f s).rtb = put s.rtb r (f (ent s r)) {} := rfl
@[simp] theorem modEnt_ft {r f} : (modEnt r f s).ft = s.ft := rfl
@[simp] theorem modEnt_regs {r f} : (modEnt r f s).regs = s.regs := rfl
@[simp] theorem modEnt_setNow {r f} : (modEnt r f s).setNow = s.setNow := rfl
@[simp] theorem modEnt_ccNow {r f} : (modEnt r f s).ccNow = s.ccNow := rfl
@[simp] theorem modEnt_serial {r f} : (modEnt r f s).serial = s.serial := rfl
@[simp] theorem modEnt_stepping {r f} : (modEnt r f s).stepping = s.stepping := rfl
@[simp] theorem modEnt_partX {r f} : (modEnt r f s).partX = s.partX := rfl
@[simp] theorem modEnt_straps {r f} : (modEnt r f s).straps = s.straps := rfl
@[simp] theorem modEnt_gpio {r f} : (modEnt r f s).gpio = s.gpio := rfl
@[simp] theorem modEnt_rst {r f} : (modEnt r f s).rst = s.rst := rfl
@[simp] theorem modEnt_doms {r f} : (modEnt r f s).doms = s.doms := rfl
@[simp] theorem modEnt_clk {r f} : (modEnt r f s).clk = s.clk := rfl
@[simp] theorem modEnt_fab {r f} : (modEnt r f s).fab = s.fab := rfl
@[simp] theorem modEnt_spg {r f} : (modEnt r f s).spg = s.spg := rfl
@[simp] theorem modEnt_conf {r f} : (modEnt r f s).conf = s.conf := rfl
@[simp] theorem modEnt_chans {r f} : (modEnt r f s).chans = s.chans := rfl
@[simp] theorem modEnt_tills {r f} : (modEnt r f s).tills = s.tills := rfl
@[simp] theorem modEnt_tillNow {r f} : (modEnt r f s).tillNow = s.tillNow := rfl
@[simp] theorem modEnt_rings {r f} : (modEnt r f s).rings = s.rings := rfl
@[simp] theorem modEnt_side {r f} : (modEnt r f s).side = s.side := rfl
@[simp] theorem modEnt_gens {r f} : (modEnt r f s).gens = s.gens := rfl
@[simp] theorem modEnt_rtbLatch {r f} : (modEnt r f s).rtbLatch = s.rtbLatch := rfl
@[simp] theorem modEnt_pairLatch {r f} : (modEnt r f s).pairLatch = s.pairLatch := rfl
@[simp] theorem modEnt_pfx {r f} : (modEnt r f s).pfx = s.pfx := rfl
@[simp] theorem modEnt_pfxPages {r f} : (modEnt r f s).pfxPages = s.pfxPages := rfl
@[simp] theorem modEnt_listPages {r f} : (modEnt r f s).listPages = s.listPages := rfl
@[simp] theorem modEnt_listBlocks {r f} : (modEnt r f s).listBlocks = s.listBlocks := rfl
@[simp] theorem modEnt_free {r f} : (modEnt r f s).free = s.free := rfl
@[simp] theorem modEnt_pageOwner {r f} : (modEnt r f s).pageOwner = s.pageOwner := rfl
@[simp] theorem modEnt_pond {r f} : (modEnt r f s).pond = s.pond := rfl
@[simp] theorem modEnt_poison {r f} : (modEnt r f s).poison = s.poison := rfl
@[simp] theorem modEnt_admq {r f} : (modEnt r f s).admq = s.admq := rfl
@[simp] theorem modEnt_admNext {r f} : (modEnt r f s).admNext = s.admNext := rfl
@[simp] theorem modEnt_steps {r f} : (modEnt r f s).steps = s.steps := rfl
@[simp] theorem modEnt_aisles {r f} : (modEnt r f s).aisles = s.aisles := rfl
@[simp] theorem modEnt_batches {r f} : (modEnt r f s).batches = s.batches := rfl
@[simp] theorem modEnt_batchNum {r f} : (modEnt r f s).batchNum = s.batchNum := rfl
@[simp] theorem modEnt_fixed {r f} : (modEnt r f s).fixed = s.fixed := rfl
@[simp] theorem modEnt_wks {r f} : (modEnt r f s).wks = s.wks := rfl
@[simp] theorem modEnt_cc {r f} : (modEnt r f s).cc = s.cc := rfl
@[simp] theorem modEnt_masks {r f} : (modEnt r f s).masks = s.masks := rfl
@[simp] theorem modEnt_adps {r f} : (modEnt r f s).adps = s.adps := rfl
@[simp] theorem modEnt_adpFetch {r f} : (modEnt r f s).adpFetch = s.adpFetch := rfl
@[simp] theorem modEnt_adpPages {r f} : (modEnt r f s).adpPages = s.adpPages := rfl
@[simp] theorem modEnt_pinPages {r f} : (modEnt r f s).pinPages = s.pinPages := rfl
@[simp] theorem modEnt_nmc {r f} : (modEnt r f s).nmc = s.nmc := rfl
@[simp] theorem modEnt_secm {r f} : (modEnt r f s).secm = s.secm := rfl
@[simp] theorem modEnt_img {r f} : (modEnt r f s).img = s.img := rfl
@[simp] theorem modEnt_log {r f} : (modEnt r f s).log = s.log := rfl
@[simp] theorem modEnt_heldAcc {r f} : (modEnt r f s).heldAcc = s.heldAcc := rfl
@[simp] theorem modEnt_freshN {r f} : (modEnt r f s).freshN = s.freshN := rfl
@[simp] theorem modEnt_out {r f} : (modEnt r f s).out = s.out := rfl
@[simp] theorem modEnt_pending {r f} : (modEnt r f s).pending = s.pending := rfl

/-! ### modSide -/

@[simp] theorem modSide_side {r f} : (modSide r f s).side = put s.side r (f (side s r)) {} := rfl
@[simp] theorem modSide_ft {r f} : (modSide r f s).ft = s.ft := rfl
@[simp] theorem modSide_regs {r f} : (modSide r f s).regs = s.regs := rfl
@[simp] theorem modSide_setNow {r f} : (modSide r f s).setNow = s.setNow := rfl
@[simp] theorem modSide_ccNow {r f} : (modSide r f s).ccNow = s.ccNow := rfl
@[simp] theorem modSide_serial {r f} : (modSide r f s).serial = s.serial := rfl
@[simp] theorem modSide_stepping {r f} : (modSide r f s).stepping = s.stepping := rfl
@[simp] theorem modSide_partX {r f} : (modSide r f s).partX = s.partX := rfl
@[simp] theorem modSide_straps {r f} : (modSide r f s).straps = s.straps := rfl
@[simp] theorem modSide_gpio {r f} : (modSide r f s).gpio = s.gpio := rfl
@[simp] theorem modSide_rst {r f} : (modSide r f s).rst = s.rst := rfl
@[simp] theorem modSide_doms {r f} : (modSide r f s).doms = s.doms := rfl
@[simp] theorem modSide_clk {r f} : (modSide r f s).clk = s.clk := rfl
@[simp] theorem modSide_fab {r f} : (modSide r f s).fab = s.fab := rfl
@[simp] theorem modSide_spg {r f} : (modSide r f s).spg = s.spg := rfl
@[simp] theorem modSide_conf {r f} : (modSide r f s).conf = s.conf := rfl
@[simp] theorem modSide_chans {r f} : (modSide r f s).chans = s.chans := rfl
@[simp] theorem modSide_tills {r f} : (modSide r f s).tills = s.tills := rfl
@[simp] theorem modSide_tillNow {r f} : (modSide r f s).tillNow = s.tillNow := rfl
@[simp] theorem modSide_rings {r f} : (modSide r f s).rings = s.rings := rfl
@[simp] theorem modSide_rtb {r f} : (modSide r f s).rtb = s.rtb := rfl
@[simp] theorem modSide_gens {r f} : (modSide r f s).gens = s.gens := rfl
@[simp] theorem modSide_rtbLatch {r f} : (modSide r f s).rtbLatch = s.rtbLatch := rfl
@[simp] theorem modSide_pairLatch {r f} : (modSide r f s).pairLatch = s.pairLatch := rfl
@[simp] theorem modSide_pfx {r f} : (modSide r f s).pfx = s.pfx := rfl
@[simp] theorem modSide_pfxPages {r f} : (modSide r f s).pfxPages = s.pfxPages := rfl
@[simp] theorem modSide_listPages {r f} : (modSide r f s).listPages = s.listPages := rfl
@[simp] theorem modSide_listBlocks {r f} : (modSide r f s).listBlocks = s.listBlocks := rfl
@[simp] theorem modSide_free {r f} : (modSide r f s).free = s.free := rfl
@[simp] theorem modSide_pageOwner {r f} : (modSide r f s).pageOwner = s.pageOwner := rfl
@[simp] theorem modSide_pond {r f} : (modSide r f s).pond = s.pond := rfl
@[simp] theorem modSide_poison {r f} : (modSide r f s).poison = s.poison := rfl
@[simp] theorem modSide_admq {r f} : (modSide r f s).admq = s.admq := rfl
@[simp] theorem modSide_admNext {r f} : (modSide r f s).admNext = s.admNext := rfl
@[simp] theorem modSide_steps {r f} : (modSide r f s).steps = s.steps := rfl
@[simp] theorem modSide_aisles {r f} : (modSide r f s).aisles = s.aisles := rfl
@[simp] theorem modSide_batches {r f} : (modSide r f s).batches = s.batches := rfl
@[simp] theorem modSide_batchNum {r f} : (modSide r f s).batchNum = s.batchNum := rfl
@[simp] theorem modSide_fixed {r f} : (modSide r f s).fixed = s.fixed := rfl
@[simp] theorem modSide_wks {r f} : (modSide r f s).wks = s.wks := rfl
@[simp] theorem modSide_cc {r f} : (modSide r f s).cc = s.cc := rfl
@[simp] theorem modSide_masks {r f} : (modSide r f s).masks = s.masks := rfl
@[simp] theorem modSide_adps {r f} : (modSide r f s).adps = s.adps := rfl
@[simp] theorem modSide_adpFetch {r f} : (modSide r f s).adpFetch = s.adpFetch := rfl
@[simp] theorem modSide_adpPages {r f} : (modSide r f s).adpPages = s.adpPages := rfl
@[simp] theorem modSide_pinPages {r f} : (modSide r f s).pinPages = s.pinPages := rfl
@[simp] theorem modSide_nmc {r f} : (modSide r f s).nmc = s.nmc := rfl
@[simp] theorem modSide_secm {r f} : (modSide r f s).secm = s.secm := rfl
@[simp] theorem modSide_img {r f} : (modSide r f s).img = s.img := rfl
@[simp] theorem modSide_log {r f} : (modSide r f s).log = s.log := rfl
@[simp] theorem modSide_heldAcc {r f} : (modSide r f s).heldAcc = s.heldAcc := rfl
@[simp] theorem modSide_freshN {r f} : (modSide r f s).freshN = s.freshN := rfl
@[simp] theorem modSide_out {r f} : (modSide r f s).out = s.out := rfl
@[simp] theorem modSide_pending {r f} : (modSide r f s).pending = s.pending := rfl

/-! ### modChan -/

@[simp] theorem modChan_chans {c f} : (modChan c f s).chans = put s.chans c (f (chan s c)) {} := rfl
@[simp] theorem modChan_ft {c f} : (modChan c f s).ft = s.ft := rfl
@[simp] theorem modChan_regs {c f} : (modChan c f s).regs = s.regs := rfl
@[simp] theorem modChan_setNow {c f} : (modChan c f s).setNow = s.setNow := rfl
@[simp] theorem modChan_ccNow {c f} : (modChan c f s).ccNow = s.ccNow := rfl
@[simp] theorem modChan_serial {c f} : (modChan c f s).serial = s.serial := rfl
@[simp] theorem modChan_stepping {c f} : (modChan c f s).stepping = s.stepping := rfl
@[simp] theorem modChan_partX {c f} : (modChan c f s).partX = s.partX := rfl
@[simp] theorem modChan_straps {c f} : (modChan c f s).straps = s.straps := rfl
@[simp] theorem modChan_gpio {c f} : (modChan c f s).gpio = s.gpio := rfl
@[simp] theorem modChan_rst {c f} : (modChan c f s).rst = s.rst := rfl
@[simp] theorem modChan_doms {c f} : (modChan c f s).doms = s.doms := rfl
@[simp] theorem modChan_clk {c f} : (modChan c f s).clk = s.clk := rfl
@[simp] theorem modChan_fab {c f} : (modChan c f s).fab = s.fab := rfl
@[simp] theorem modChan_spg {c f} : (modChan c f s).spg = s.spg := rfl
@[simp] theorem modChan_conf {c f} : (modChan c f s).conf = s.conf := rfl
@[simp] theorem modChan_tills {c f} : (modChan c f s).tills = s.tills := rfl
@[simp] theorem modChan_tillNow {c f} : (modChan c f s).tillNow = s.tillNow := rfl
@[simp] theorem modChan_rings {c f} : (modChan c f s).rings = s.rings := rfl
@[simp] theorem modChan_rtb {c f} : (modChan c f s).rtb = s.rtb := rfl
@[simp] theorem modChan_side {c f} : (modChan c f s).side = s.side := rfl
@[simp] theorem modChan_gens {c f} : (modChan c f s).gens = s.gens := rfl
@[simp] theorem modChan_rtbLatch {c f} : (modChan c f s).rtbLatch = s.rtbLatch := rfl
@[simp] theorem modChan_pairLatch {c f} : (modChan c f s).pairLatch = s.pairLatch := rfl
@[simp] theorem modChan_pfx {c f} : (modChan c f s).pfx = s.pfx := rfl
@[simp] theorem modChan_pfxPages {c f} : (modChan c f s).pfxPages = s.pfxPages := rfl
@[simp] theorem modChan_listPages {c f} : (modChan c f s).listPages = s.listPages := rfl
@[simp] theorem modChan_listBlocks {c f} : (modChan c f s).listBlocks = s.listBlocks := rfl
@[simp] theorem modChan_free {c f} : (modChan c f s).free = s.free := rfl
@[simp] theorem modChan_pageOwner {c f} : (modChan c f s).pageOwner = s.pageOwner := rfl
@[simp] theorem modChan_pond {c f} : (modChan c f s).pond = s.pond := rfl
@[simp] theorem modChan_poison {c f} : (modChan c f s).poison = s.poison := rfl
@[simp] theorem modChan_admq {c f} : (modChan c f s).admq = s.admq := rfl
@[simp] theorem modChan_admNext {c f} : (modChan c f s).admNext = s.admNext := rfl
@[simp] theorem modChan_steps {c f} : (modChan c f s).steps = s.steps := rfl
@[simp] theorem modChan_aisles {c f} : (modChan c f s).aisles = s.aisles := rfl
@[simp] theorem modChan_batches {c f} : (modChan c f s).batches = s.batches := rfl
@[simp] theorem modChan_batchNum {c f} : (modChan c f s).batchNum = s.batchNum := rfl
@[simp] theorem modChan_fixed {c f} : (modChan c f s).fixed = s.fixed := rfl
@[simp] theorem modChan_wks {c f} : (modChan c f s).wks = s.wks := rfl
@[simp] theorem modChan_cc {c f} : (modChan c f s).cc = s.cc := rfl
@[simp] theorem modChan_masks {c f} : (modChan c f s).masks = s.masks := rfl
@[simp] theorem modChan_adps {c f} : (modChan c f s).adps = s.adps := rfl
@[simp] theorem modChan_adpFetch {c f} : (modChan c f s).adpFetch = s.adpFetch := rfl
@[simp] theorem modChan_adpPages {c f} : (modChan c f s).adpPages = s.adpPages := rfl
@[simp] theorem modChan_pinPages {c f} : (modChan c f s).pinPages = s.pinPages := rfl
@[simp] theorem modChan_nmc {c f} : (modChan c f s).nmc = s.nmc := rfl
@[simp] theorem modChan_secm {c f} : (modChan c f s).secm = s.secm := rfl
@[simp] theorem modChan_img {c f} : (modChan c f s).img = s.img := rfl
@[simp] theorem modChan_log {c f} : (modChan c f s).log = s.log := rfl
@[simp] theorem modChan_heldAcc {c f} : (modChan c f s).heldAcc = s.heldAcc := rfl
@[simp] theorem modChan_freshN {c f} : (modChan c f s).freshN = s.freshN := rfl
@[simp] theorem modChan_out {c f} : (modChan c f s).out = s.out := rfl
@[simp] theorem modChan_pending {c f} : (modChan c f s).pending = s.pending := rfl

/-! ### modTill -/

@[simp] theorem modTill_tills {c f} : (modTill c f s).tills = put s.tills c (f (till s c)) {} := rfl
@[simp] theorem modTill_tillNow {c f} : (modTill c f s).tillNow = put s.tillNow c { (if (look s.tillNow c {}).at_ = s.ft then look s.tillNow c {} else { at_ := s.ft, before := till s c }) with since := f (if (look s.tillNow c {}).at_ = s.ft then look s.tillNow c {} else { at_ := s.ft, before := till s c }).since } {} := rfl
@[simp] theorem modTill_ft {c f} : (modTill c f s).ft = s.ft := rfl
@[simp] theorem modTill_regs {c f} : (modTill c f s).regs = s.regs := rfl
@[simp] theorem modTill_setNow {c f} : (modTill c f s).setNow = s.setNow := rfl
@[simp] theorem modTill_ccNow {c f} : (modTill c f s).ccNow = s.ccNow := rfl
@[simp] theorem modTill_serial {c f} : (modTill c f s).serial = s.serial := rfl
@[simp] theorem modTill_stepping {c f} : (modTill c f s).stepping = s.stepping := rfl
@[simp] theorem modTill_partX {c f} : (modTill c f s).partX = s.partX := rfl
@[simp] theorem modTill_straps {c f} : (modTill c f s).straps = s.straps := rfl
@[simp] theorem modTill_gpio {c f} : (modTill c f s).gpio = s.gpio := rfl
@[simp] theorem modTill_rst {c f} : (modTill c f s).rst = s.rst := rfl
@[simp] theorem modTill_doms {c f} : (modTill c f s).doms = s.doms := rfl
@[simp] theorem modTill_clk {c f} : (modTill c f s).clk = s.clk := rfl
@[simp] theorem modTill_fab {c f} : (modTill c f s).fab = s.fab := rfl
@[simp] theorem modTill_spg {c f} : (modTill c f s).spg = s.spg := rfl
@[simp] theorem modTill_conf {c f} : (modTill c f s).conf = s.conf := rfl
@[simp] theorem modTill_chans {c f} : (modTill c f s).chans = s.chans := rfl
@[simp] theorem modTill_rings {c f} : (modTill c f s).rings = s.rings := rfl
@[simp] theorem modTill_rtb {c f} : (modTill c f s).rtb = s.rtb := rfl
@[simp] theorem modTill_side {c f} : (modTill c f s).side = s.side := rfl
@[simp] theorem modTill_gens {c f} : (modTill c f s).gens = s.gens := rfl
@[simp] theorem modTill_rtbLatch {c f} : (modTill c f s).rtbLatch = s.rtbLatch := rfl
@[simp] theorem modTill_pairLatch {c f} : (modTill c f s).pairLatch = s.pairLatch := rfl
@[simp] theorem modTill_pfx {c f} : (modTill c f s).pfx = s.pfx := rfl
@[simp] theorem modTill_pfxPages {c f} : (modTill c f s).pfxPages = s.pfxPages := rfl
@[simp] theorem modTill_listPages {c f} : (modTill c f s).listPages = s.listPages := rfl
@[simp] theorem modTill_listBlocks {c f} : (modTill c f s).listBlocks = s.listBlocks := rfl
@[simp] theorem modTill_free {c f} : (modTill c f s).free = s.free := rfl
@[simp] theorem modTill_pageOwner {c f} : (modTill c f s).pageOwner = s.pageOwner := rfl
@[simp] theorem modTill_pond {c f} : (modTill c f s).pond = s.pond := rfl
@[simp] theorem modTill_poison {c f} : (modTill c f s).poison = s.poison := rfl
@[simp] theorem modTill_admq {c f} : (modTill c f s).admq = s.admq := rfl
@[simp] theorem modTill_admNext {c f} : (modTill c f s).admNext = s.admNext := rfl
@[simp] theorem modTill_steps {c f} : (modTill c f s).steps = s.steps := rfl
@[simp] theorem modTill_aisles {c f} : (modTill c f s).aisles = s.aisles := rfl
@[simp] theorem modTill_batches {c f} : (modTill c f s).batches = s.batches := rfl
@[simp] theorem modTill_batchNum {c f} : (modTill c f s).batchNum = s.batchNum := rfl
@[simp] theorem modTill_fixed {c f} : (modTill c f s).fixed = s.fixed := rfl
@[simp] theorem modTill_wks {c f} : (modTill c f s).wks = s.wks := rfl
@[simp] theorem modTill_cc {c f} : (modTill c f s).cc = s.cc := rfl
@[simp] theorem modTill_masks {c f} : (modTill c f s).masks = s.masks := rfl
@[simp] theorem modTill_adps {c f} : (modTill c f s).adps = s.adps := rfl
@[simp] theorem modTill_adpFetch {c f} : (modTill c f s).adpFetch = s.adpFetch := rfl
@[simp] theorem modTill_adpPages {c f} : (modTill c f s).adpPages = s.adpPages := rfl
@[simp] theorem modTill_pinPages {c f} : (modTill c f s).pinPages = s.pinPages := rfl
@[simp] theorem modTill_nmc {c f} : (modTill c f s).nmc = s.nmc := rfl
@[simp] theorem modTill_secm {c f} : (modTill c f s).secm = s.secm := rfl
@[simp] theorem modTill_img {c f} : (modTill c f s).img = s.img := rfl
@[simp] theorem modTill_log {c f} : (modTill c f s).log = s.log := rfl
@[simp] theorem modTill_heldAcc {c f} : (modTill c f s).heldAcc = s.heldAcc := rfl
@[simp] theorem modTill_freshN {c f} : (modTill c f s).freshN = s.freshN := rfl
@[simp] theorem modTill_out {c f} : (modTill c f s).out = s.out := rfl
@[simp] theorem modTill_pending {c f} : (modTill c f s).pending = s.pending := rfl

/-! ### modRing -/

@[simp] theorem modRing_rings {i f} : (modRing i f s).rings = put s.rings i (f (ring s i)) {} := rfl
@[simp] theorem modRing_ft {i f} : (modRing i f s).ft = s.ft := rfl
@[simp] theorem modRing_regs {i f} : (modRing i f s).regs = s.regs := rfl
@[simp] theorem modRing_setNow {i f} : (modRing i f s).setNow = s.setNow := rfl
@[simp] theorem modRing_ccNow {i f} : (modRing i f s).ccNow = s.ccNow := rfl
@[simp] theorem modRing_serial {i f} : (modRing i f s).serial = s.serial := rfl
@[simp] theorem modRing_stepping {i f} : (modRing i f s).stepping = s.stepping := rfl
@[simp] theorem modRing_partX {i f} : (modRing i f s).partX = s.partX := rfl
@[simp] theorem modRing_straps {i f} : (modRing i f s).straps = s.straps := rfl
@[simp] theorem modRing_gpio {i f} : (modRing i f s).gpio = s.gpio := rfl
@[simp] theorem modRing_rst {i f} : (modRing i f s).rst = s.rst := rfl
@[simp] theorem modRing_doms {i f} : (modRing i f s).doms = s.doms := rfl
@[simp] theorem modRing_clk {i f} : (modRing i f s).clk = s.clk := rfl
@[simp] theorem modRing_fab {i f} : (modRing i f s).fab = s.fab := rfl
@[simp] theorem modRing_spg {i f} : (modRing i f s).spg = s.spg := rfl
@[simp] theorem modRing_conf {i f} : (modRing i f s).conf = s.conf := rfl
@[simp] theorem modRing_chans {i f} : (modRing i f s).chans = s.chans := rfl
@[simp] theorem modRing_tills {i f} : (modRing i f s).tills = s.tills := rfl
@[simp] theorem modRing_tillNow {i f} : (modRing i f s).tillNow = s.tillNow := rfl
@[simp] theorem modRing_rtb {i f} : (modRing i f s).rtb = s.rtb := rfl
@[simp] theorem modRing_side {i f} : (modRing i f s).side = s.side := rfl
@[simp] theorem modRing_gens {i f} : (modRing i f s).gens = s.gens := rfl
@[simp] theorem modRing_rtbLatch {i f} : (modRing i f s).rtbLatch = s.rtbLatch := rfl
@[simp] theorem modRing_pairLatch {i f} : (modRing i f s).pairLatch = s.pairLatch := rfl
@[simp] theorem modRing_pfx {i f} : (modRing i f s).pfx = s.pfx := rfl
@[simp] theorem modRing_pfxPages {i f} : (modRing i f s).pfxPages = s.pfxPages := rfl
@[simp] theorem modRing_listPages {i f} : (modRing i f s).listPages = s.listPages := rfl
@[simp] theorem modRing_listBlocks {i f} : (modRing i f s).listBlocks = s.listBlocks := rfl
@[simp] theorem modRing_free {i f} : (modRing i f s).free = s.free := rfl
@[simp] theorem modRing_pageOwner {i f} : (modRing i f s).pageOwner = s.pageOwner := rfl
@[simp] theorem modRing_pond {i f} : (modRing i f s).pond = s.pond := rfl
@[simp] theorem modRing_poison {i f} : (modRing i f s).poison = s.poison := rfl
@[simp] theorem modRing_admq {i f} : (modRing i f s).admq = s.admq := rfl
@[simp] theorem modRing_admNext {i f} : (modRing i f s).admNext = s.admNext := rfl
@[simp] theorem modRing_steps {i f} : (modRing i f s).steps = s.steps := rfl
@[simp] theorem modRing_aisles {i f} : (modRing i f s).aisles = s.aisles := rfl
@[simp] theorem modRing_batches {i f} : (modRing i f s).batches = s.batches := rfl
@[simp] theorem modRing_batchNum {i f} : (modRing i f s).batchNum = s.batchNum := rfl
@[simp] theorem modRing_fixed {i f} : (modRing i f s).fixed = s.fixed := rfl
@[simp] theorem modRing_wks {i f} : (modRing i f s).wks = s.wks := rfl
@[simp] theorem modRing_cc {i f} : (modRing i f s).cc = s.cc := rfl
@[simp] theorem modRing_masks {i f} : (modRing i f s).masks = s.masks := rfl
@[simp] theorem modRing_adps {i f} : (modRing i f s).adps = s.adps := rfl
@[simp] theorem modRing_adpFetch {i f} : (modRing i f s).adpFetch = s.adpFetch := rfl
@[simp] theorem modRing_adpPages {i f} : (modRing i f s).adpPages = s.adpPages := rfl
@[simp] theorem modRing_pinPages {i f} : (modRing i f s).pinPages = s.pinPages := rfl
@[simp] theorem modRing_nmc {i f} : (modRing i f s).nmc = s.nmc := rfl
@[simp] theorem modRing_secm {i f} : (modRing i f s).secm = s.secm := rfl
@[simp] theorem modRing_img {i f} : (modRing i f s).img = s.img := rfl
@[simp] theorem modRing_log {i f} : (modRing i f s).log = s.log := rfl
@[simp] theorem modRing_heldAcc {i f} : (modRing i f s).heldAcc = s.heldAcc := rfl
@[simp] theorem modRing_freshN {i f} : (modRing i f s).freshN = s.freshN := rfl
@[simp] theorem modRing_out {i f} : (modRing i f s).out = s.out := rfl
@[simp] theorem modRing_pending {i f} : (modRing i f s).pending = s.pending := rfl

/-! ### takePage -/

@[simp] theorem takePage_pageOwner {n p} : (takePage n p s).pageOwner = put s.pageOwner p (n + 1) 0 := rfl
@[simp] theorem takePage_ft {n p} : (takePage n p s).ft = s.ft := rfl
@[simp] theorem takePage_regs {n p} : (takePage n p s).regs = s.regs := rfl
@[simp] theorem takePage_setNow {n p} : (takePage n p s).setNow = s.setNow := rfl
@[simp] theorem takePage_ccNow {n p} : (takePage n p s).ccNow = s.ccNow := rfl
@[simp] theorem takePage_serial {n p} : (takePage n p s).serial = s.serial := rfl
@[simp] theorem takePage_stepping {n p} : (takePage n p s).stepping = s.stepping := rfl
@[simp] theorem takePage_partX {n p} : (takePage n p s).partX = s.partX := rfl
@[simp] theorem takePage_straps {n p} : (takePage n p s).straps = s.straps := rfl
@[simp] theorem takePage_gpio {n p} : (takePage n p s).gpio = s.gpio := rfl
@[simp] theorem takePage_rst {n p} : (takePage n p s).rst = s.rst := rfl
@[simp] theorem takePage_doms {n p} : (takePage n p s).doms = s.doms := rfl
@[simp] theorem takePage_clk {n p} : (takePage n p s).clk = s.clk := rfl
@[simp] theorem takePage_fab {n p} : (takePage n p s).fab = s.fab := rfl
@[simp] theorem takePage_spg {n p} : (takePage n p s).spg = s.spg := rfl
@[simp] theorem takePage_conf {n p} : (takePage n p s).conf = s.conf := rfl
@[simp] theorem takePage_chans {n p} : (takePage n p s).chans = s.chans := rfl
@[simp] theorem takePage_tills {n p} : (takePage n p s).tills = s.tills := rfl
@[simp] theorem takePage_tillNow {n p} : (takePage n p s).tillNow = s.tillNow := rfl
@[simp] theorem takePage_rings {n p} : (takePage n p s).rings = s.rings := rfl
@[simp] theorem takePage_rtb {n p} : (takePage n p s).rtb = s.rtb := rfl
@[simp] theorem takePage_side {n p} : (takePage n p s).side = s.side := rfl
@[simp] theorem takePage_gens {n p} : (takePage n p s).gens = s.gens := rfl
@[simp] theorem takePage_rtbLatch {n p} : (takePage n p s).rtbLatch = s.rtbLatch := rfl
@[simp] theorem takePage_pairLatch {n p} : (takePage n p s).pairLatch = s.pairLatch := rfl
@[simp] theorem takePage_pfx {n p} : (takePage n p s).pfx = s.pfx := rfl
@[simp] theorem takePage_pfxPages {n p} : (takePage n p s).pfxPages = s.pfxPages := rfl
@[simp] theorem takePage_listPages {n p} : (takePage n p s).listPages = s.listPages := rfl
@[simp] theorem takePage_listBlocks {n p} : (takePage n p s).listBlocks = s.listBlocks := rfl
@[simp] theorem takePage_free {n p} : (takePage n p s).free = s.free := rfl
@[simp] theorem takePage_pond {n p} : (takePage n p s).pond = s.pond := rfl
@[simp] theorem takePage_poison {n p} : (takePage n p s).poison = s.poison := rfl
@[simp] theorem takePage_admq {n p} : (takePage n p s).admq = s.admq := rfl
@[simp] theorem takePage_admNext {n p} : (takePage n p s).admNext = s.admNext := rfl
@[simp] theorem takePage_steps {n p} : (takePage n p s).steps = s.steps := rfl
@[simp] theorem takePage_aisles {n p} : (takePage n p s).aisles = s.aisles := rfl
@[simp] theorem takePage_batches {n p} : (takePage n p s).batches = s.batches := rfl
@[simp] theorem takePage_batchNum {n p} : (takePage n p s).batchNum = s.batchNum := rfl
@[simp] theorem takePage_fixed {n p} : (takePage n p s).fixed = s.fixed := rfl
@[simp] theorem takePage_wks {n p} : (takePage n p s).wks = s.wks := rfl
@[simp] theorem takePage_cc {n p} : (takePage n p s).cc = s.cc := rfl
@[simp] theorem takePage_masks {n p} : (takePage n p s).masks = s.masks := rfl
@[simp] theorem takePage_adps {n p} : (takePage n p s).adps = s.adps := rfl
@[simp] theorem takePage_adpFetch {n p} : (takePage n p s).adpFetch = s.adpFetch := rfl
@[simp] theorem takePage_adpPages {n p} : (takePage n p s).adpPages = s.adpPages := rfl
@[simp] theorem takePage_pinPages {n p} : (takePage n p s).pinPages = s.pinPages := rfl
@[simp] theorem takePage_nmc {n p} : (takePage n p s).nmc = s.nmc := rfl
@[simp] theorem takePage_secm {n p} : (takePage n p s).secm = s.secm := rfl
@[simp] theorem takePage_img {n p} : (takePage n p s).img = s.img := rfl
@[simp] theorem takePage_log {n p} : (takePage n p s).log = s.log := rfl
@[simp] theorem takePage_heldAcc {n p} : (takePage n p s).heldAcc = s.heldAcc := rfl
@[simp] theorem takePage_freshN {n p} : (takePage n p s).freshN = s.freshN := rfl
@[simp] theorem takePage_out {n p} : (takePage n p s).out = s.out := rfl
@[simp] theorem takePage_pending {n p} : (takePage n p s).pending = s.pending := rfl

/-! ### freePage -/

@[simp] theorem freePage_pageOwner {p} : (freePage p s).pageOwner = put s.pageOwner p 0 0 := rfl
@[simp] theorem freePage_ft {p} : (freePage p s).ft = s.ft := rfl
@[simp] theorem freePage_regs {p} : (freePage p s).regs = s.regs := rfl
@[simp] theorem freePage_setNow {p} : (freePage p s).setNow = s.setNow := rfl
@[simp] theorem freePage_ccNow {p} : (freePage p s).ccNow = s.ccNow := rfl
@[simp] theorem freePage_serial {p} : (freePage p s).serial = s.serial := rfl
@[simp] theorem freePage_stepping {p} : (freePage p s).stepping = s.stepping := rfl
@[simp] theorem freePage_partX {p} : (freePage p s).partX = s.partX := rfl
@[simp] theorem freePage_straps {p} : (freePage p s).straps = s.straps := rfl
@[simp] theorem freePage_gpio {p} : (freePage p s).gpio = s.gpio := rfl
@[simp] theorem freePage_rst {p} : (freePage p s).rst = s.rst := rfl
@[simp] theorem freePage_doms {p} : (freePage p s).doms = s.doms := rfl
@[simp] theorem freePage_clk {p} : (freePage p s).clk = s.clk := rfl
@[simp] theorem freePage_fab {p} : (freePage p s).fab = s.fab := rfl
@[simp] theorem freePage_spg {p} : (freePage p s).spg = s.spg := rfl
@[simp] theorem freePage_conf {p} : (freePage p s).conf = s.conf := rfl
@[simp] theorem freePage_chans {p} : (freePage p s).chans = s.chans := rfl
@[simp] theorem freePage_tills {p} : (freePage p s).tills = s.tills := rfl
@[simp] theorem freePage_tillNow {p} : (freePage p s).tillNow = s.tillNow := rfl
@[simp] theorem freePage_rings {p} : (freePage p s).rings = s.rings := rfl
@[simp] theorem freePage_rtb {p} : (freePage p s).rtb = s.rtb := rfl
@[simp] theorem freePage_side {p} : (freePage p s).side = s.side := rfl
@[simp] theorem freePage_gens {p} : (freePage p s).gens = s.gens := rfl
@[simp] theorem freePage_rtbLatch {p} : (freePage p s).rtbLatch = s.rtbLatch := rfl
@[simp] theorem freePage_pairLatch {p} : (freePage p s).pairLatch = s.pairLatch := rfl
@[simp] theorem freePage_pfx {p} : (freePage p s).pfx = s.pfx := rfl
@[simp] theorem freePage_pfxPages {p} : (freePage p s).pfxPages = s.pfxPages := rfl
@[simp] theorem freePage_listPages {p} : (freePage p s).listPages = s.listPages := rfl
@[simp] theorem freePage_listBlocks {p} : (freePage p s).listBlocks = s.listBlocks := rfl
@[simp] theorem freePage_free {p} : (freePage p s).free = s.free := rfl
@[simp] theorem freePage_pond {p} : (freePage p s).pond = s.pond := rfl
@[simp] theorem freePage_poison {p} : (freePage p s).poison = s.poison := rfl
@[simp] theorem freePage_admq {p} : (freePage p s).admq = s.admq := rfl
@[simp] theorem freePage_admNext {p} : (freePage p s).admNext = s.admNext := rfl
@[simp] theorem freePage_steps {p} : (freePage p s).steps = s.steps := rfl
@[simp] theorem freePage_aisles {p} : (freePage p s).aisles = s.aisles := rfl
@[simp] theorem freePage_batches {p} : (freePage p s).batches = s.batches := rfl
@[simp] theorem freePage_batchNum {p} : (freePage p s).batchNum = s.batchNum := rfl
@[simp] theorem freePage_fixed {p} : (freePage p s).fixed = s.fixed := rfl
@[simp] theorem freePage_wks {p} : (freePage p s).wks = s.wks := rfl
@[simp] theorem freePage_cc {p} : (freePage p s).cc = s.cc := rfl
@[simp] theorem freePage_masks {p} : (freePage p s).masks = s.masks := rfl
@[simp] theorem freePage_adps {p} : (freePage p s).adps = s.adps := rfl
@[simp] theorem freePage_adpFetch {p} : (freePage p s).adpFetch = s.adpFetch := rfl
@[simp] theorem freePage_adpPages {p} : (freePage p s).adpPages = s.adpPages := rfl
@[simp] theorem freePage_pinPages {p} : (freePage p s).pinPages = s.pinPages := rfl
@[simp] theorem freePage_nmc {p} : (freePage p s).nmc = s.nmc := rfl
@[simp] theorem freePage_secm {p} : (freePage p s).secm = s.secm := rfl
@[simp] theorem freePage_img {p} : (freePage p s).img = s.img := rfl
@[simp] theorem freePage_log {p} : (freePage p s).log = s.log := rfl
@[simp] theorem freePage_heldAcc {p} : (freePage p s).heldAcc = s.heldAcc := rfl
@[simp] theorem freePage_freshN {p} : (freePage p s).freshN = s.freshN := rfl
@[simp] theorem freePage_out {p} : (freePage p s).out = s.out := rfl
@[simp] theorem freePage_pending {p} : (freePage p s).pending = s.pending := rfl

/-! ### modNode -/

@[simp] theorem modNode_pfx {i f} : (modNode i f s).pfx = put s.pfx i (f (node s i)) {} := rfl
@[simp] theorem modNode_pond {i f} : (modNode i f s).pond = if (f (node s i)).valid || (node s i).valid then putBytes s.pond (64 * (f (node s i)).place) (nodeBytes (f (node s i))) else s.pond := rfl
@[simp] theorem modNode_ft {i f} : (modNode i f s).ft = s.ft := rfl
@[simp] theorem modNode_regs {i f} : (modNode i f s).regs = s.regs := rfl
@[simp] theorem modNode_setNow {i f} : (modNode i f s).setNow = s.setNow := rfl
@[simp] theorem modNode_ccNow {i f} : (modNode i f s).ccNow = s.ccNow := rfl
@[simp] theorem modNode_serial {i f} : (modNode i f s).serial = s.serial := rfl
@[simp] theorem modNode_stepping {i f} : (modNode i f s).stepping = s.stepping := rfl
@[simp] theorem modNode_partX {i f} : (modNode i f s).partX = s.partX := rfl
@[simp] theorem modNode_straps {i f} : (modNode i f s).straps = s.straps := rfl
@[simp] theorem modNode_gpio {i f} : (modNode i f s).gpio = s.gpio := rfl
@[simp] theorem modNode_rst {i f} : (modNode i f s).rst = s.rst := rfl
@[simp] theorem modNode_doms {i f} : (modNode i f s).doms = s.doms := rfl
@[simp] theorem modNode_clk {i f} : (modNode i f s).clk = s.clk := rfl
@[simp] theorem modNode_fab {i f} : (modNode i f s).fab = s.fab := rfl
@[simp] theorem modNode_spg {i f} : (modNode i f s).spg = s.spg := rfl
@[simp] theorem modNode_conf {i f} : (modNode i f s).conf = s.conf := rfl
@[simp] theorem modNode_chans {i f} : (modNode i f s).chans = s.chans := rfl
@[simp] theorem modNode_tills {i f} : (modNode i f s).tills = s.tills := rfl
@[simp] theorem modNode_tillNow {i f} : (modNode i f s).tillNow = s.tillNow := rfl
@[simp] theorem modNode_rings {i f} : (modNode i f s).rings = s.rings := rfl
@[simp] theorem modNode_rtb {i f} : (modNode i f s).rtb = s.rtb := rfl
@[simp] theorem modNode_side {i f} : (modNode i f s).side = s.side := rfl
@[simp] theorem modNode_gens {i f} : (modNode i f s).gens = s.gens := rfl
@[simp] theorem modNode_rtbLatch {i f} : (modNode i f s).rtbLatch = s.rtbLatch := rfl
@[simp] theorem modNode_pairLatch {i f} : (modNode i f s).pairLatch = s.pairLatch := rfl
@[simp] theorem modNode_pfxPages {i f} : (modNode i f s).pfxPages = s.pfxPages := rfl
@[simp] theorem modNode_listPages {i f} : (modNode i f s).listPages = s.listPages := rfl
@[simp] theorem modNode_listBlocks {i f} : (modNode i f s).listBlocks = s.listBlocks := rfl
@[simp] theorem modNode_free {i f} : (modNode i f s).free = s.free := rfl
@[simp] theorem modNode_pageOwner {i f} : (modNode i f s).pageOwner = s.pageOwner := rfl
@[simp] theorem modNode_poison {i f} : (modNode i f s).poison = s.poison := rfl
@[simp] theorem modNode_admq {i f} : (modNode i f s).admq = s.admq := rfl
@[simp] theorem modNode_admNext {i f} : (modNode i f s).admNext = s.admNext := rfl
@[simp] theorem modNode_steps {i f} : (modNode i f s).steps = s.steps := rfl
@[simp] theorem modNode_aisles {i f} : (modNode i f s).aisles = s.aisles := rfl
@[simp] theorem modNode_batches {i f} : (modNode i f s).batches = s.batches := rfl
@[simp] theorem modNode_batchNum {i f} : (modNode i f s).batchNum = s.batchNum := rfl
@[simp] theorem modNode_fixed {i f} : (modNode i f s).fixed = s.fixed := rfl
@[simp] theorem modNode_wks {i f} : (modNode i f s).wks = s.wks := rfl
@[simp] theorem modNode_cc {i f} : (modNode i f s).cc = s.cc := rfl
@[simp] theorem modNode_masks {i f} : (modNode i f s).masks = s.masks := rfl
@[simp] theorem modNode_adps {i f} : (modNode i f s).adps = s.adps := rfl
@[simp] theorem modNode_adpFetch {i f} : (modNode i f s).adpFetch = s.adpFetch := rfl
@[simp] theorem modNode_adpPages {i f} : (modNode i f s).adpPages = s.adpPages := rfl
@[simp] theorem modNode_pinPages {i f} : (modNode i f s).pinPages = s.pinPages := rfl
@[simp] theorem modNode_nmc {i f} : (modNode i f s).nmc = s.nmc := rfl
@[simp] theorem modNode_secm {i f} : (modNode i f s).secm = s.secm := rfl
@[simp] theorem modNode_img {i f} : (modNode i f s).img = s.img := rfl
@[simp] theorem modNode_log {i f} : (modNode i f s).log = s.log := rfl
@[simp] theorem modNode_heldAcc {i f} : (modNode i f s).heldAcc = s.heldAcc := rfl
@[simp] theorem modNode_freshN {i f} : (modNode i f s).freshN = s.freshN := rfl
@[simp] theorem modNode_out {i f} : (modNode i f s).out = s.out := rfl
@[simp] theorem modNode_pending {i f} : (modNode i f s).pending = s.pending := rfl

/-! ### setBit -/

@[simp] theorem setBit_regs {o i} : (setBit o i s).regs = put s.regs o (w32 (rd s o - rdf s o i i * 2 ^ i + 1 % 2 ^ (i + 1 - i) * 2 ^ i)) (regReset o) := rfl
@[simp] theorem setBit_setNow {o i} : (setBit o i s).setNow = (s.ft, (if s.setNow.1 = s.ft then s.setNow.2 else []) ++ [(o, i)]) := rfl
@[simp] theorem setBit_ft {o i} : (setBit o i s).ft = s.ft := rfl
@[simp] theorem setBit_ccNow {o i} : (setBit o i s).ccNow = s.ccNow := rfl
@[simp] theorem setBit_serial {o i} : (setBit o i s).serial = s.serial := rfl
@[simp] theorem setBit_stepping {o i} : (setBit o i s).stepping = s.stepping := rfl
@[simp] theorem setBit_partX {o i} : (setBit o i s).partX = s.partX := rfl
@[simp] theorem setBit_straps {o i} : (setBit o i s).straps = s.straps := rfl
@[simp] theorem setBit_gpio {o i} : (setBit o i s).gpio = s.gpio := rfl
@[simp] theorem setBit_rst {o i} : (setBit o i s).rst = s.rst := rfl
@[simp] theorem setBit_doms {o i} : (setBit o i s).doms = s.doms := rfl
@[simp] theorem setBit_clk {o i} : (setBit o i s).clk = s.clk := rfl
@[simp] theorem setBit_fab {o i} : (setBit o i s).fab = s.fab := rfl
@[simp] theorem setBit_spg {o i} : (setBit o i s).spg = s.spg := rfl
@[simp] theorem setBit_conf {o i} : (setBit o i s).conf = s.conf := rfl
@[simp] theorem setBit_chans {o i} : (setBit o i s).chans = s.chans := rfl
@[simp] theorem setBit_tills {o i} : (setBit o i s).tills = s.tills := rfl
@[simp] theorem setBit_tillNow {o i} : (setBit o i s).tillNow = s.tillNow := rfl
@[simp] theorem setBit_rings {o i} : (setBit o i s).rings = s.rings := rfl
@[simp] theorem setBit_rtb {o i} : (setBit o i s).rtb = s.rtb := rfl
@[simp] theorem setBit_side {o i} : (setBit o i s).side = s.side := rfl
@[simp] theorem setBit_gens {o i} : (setBit o i s).gens = s.gens := rfl
@[simp] theorem setBit_rtbLatch {o i} : (setBit o i s).rtbLatch = s.rtbLatch := rfl
@[simp] theorem setBit_pairLatch {o i} : (setBit o i s).pairLatch = s.pairLatch := rfl
@[simp] theorem setBit_pfx {o i} : (setBit o i s).pfx = s.pfx := rfl
@[simp] theorem setBit_pfxPages {o i} : (setBit o i s).pfxPages = s.pfxPages := rfl
@[simp] theorem setBit_listPages {o i} : (setBit o i s).listPages = s.listPages := rfl
@[simp] theorem setBit_listBlocks {o i} : (setBit o i s).listBlocks = s.listBlocks := rfl
@[simp] theorem setBit_free {o i} : (setBit o i s).free = s.free := rfl
@[simp] theorem setBit_pageOwner {o i} : (setBit o i s).pageOwner = s.pageOwner := rfl
@[simp] theorem setBit_pond {o i} : (setBit o i s).pond = s.pond := rfl
@[simp] theorem setBit_poison {o i} : (setBit o i s).poison = s.poison := rfl
@[simp] theorem setBit_admq {o i} : (setBit o i s).admq = s.admq := rfl
@[simp] theorem setBit_admNext {o i} : (setBit o i s).admNext = s.admNext := rfl
@[simp] theorem setBit_steps {o i} : (setBit o i s).steps = s.steps := rfl
@[simp] theorem setBit_aisles {o i} : (setBit o i s).aisles = s.aisles := rfl
@[simp] theorem setBit_batches {o i} : (setBit o i s).batches = s.batches := rfl
@[simp] theorem setBit_batchNum {o i} : (setBit o i s).batchNum = s.batchNum := rfl
@[simp] theorem setBit_fixed {o i} : (setBit o i s).fixed = s.fixed := rfl
@[simp] theorem setBit_wks {o i} : (setBit o i s).wks = s.wks := rfl
@[simp] theorem setBit_cc {o i} : (setBit o i s).cc = s.cc := rfl
@[simp] theorem setBit_masks {o i} : (setBit o i s).masks = s.masks := rfl
@[simp] theorem setBit_adps {o i} : (setBit o i s).adps = s.adps := rfl
@[simp] theorem setBit_adpFetch {o i} : (setBit o i s).adpFetch = s.adpFetch := rfl
@[simp] theorem setBit_adpPages {o i} : (setBit o i s).adpPages = s.adpPages := rfl
@[simp] theorem setBit_pinPages {o i} : (setBit o i s).pinPages = s.pinPages := rfl
@[simp] theorem setBit_nmc {o i} : (setBit o i s).nmc = s.nmc := rfl
@[simp] theorem setBit_secm {o i} : (setBit o i s).secm = s.secm := rfl
@[simp] theorem setBit_img {o i} : (setBit o i s).img = s.img := rfl
@[simp] theorem setBit_log {o i} : (setBit o i s).log = s.log := rfl
@[simp] theorem setBit_heldAcc {o i} : (setBit o i s).heldAcc = s.heldAcc := rfl
@[simp] theorem setBit_freshN {o i} : (setBit o i s).freshN = s.freshN := rfl
@[simp] theorem setBit_out {o i} : (setBit o i s).out = s.out := rfl
@[simp] theorem setBit_pending {o i} : (setBit o i s).pending = s.pending := rfl

/-! ### wr -/

@[simp] theorem wr_regs {o v} : (wr o v s).regs = put s.regs o (w32 v) (regReset o) := rfl
@[simp] theorem wr_ft {o v} : (wr o v s).ft = s.ft := rfl
@[simp] theorem wr_setNow {o v} : (wr o v s).setNow = s.setNow := rfl
@[simp] theorem wr_ccNow {o v} : (wr o v s).ccNow = s.ccNow := rfl
@[simp] theorem wr_serial {o v} : (wr o v s).serial = s.serial := rfl
@[simp] theorem wr_stepping {o v} : (wr o v s).stepping = s.stepping := rfl
@[simp] theorem wr_partX {o v} : (wr o v s).partX = s.partX := rfl
@[simp] theorem wr_straps {o v} : (wr o v s).straps = s.straps := rfl
@[simp] theorem wr_gpio {o v} : (wr o v s).gpio = s.gpio := rfl
@[simp] theorem wr_rst {o v} : (wr o v s).rst = s.rst := rfl
@[simp] theorem wr_doms {o v} : (wr o v s).doms = s.doms := rfl
@[simp] theorem wr_clk {o v} : (wr o v s).clk = s.clk := rfl
@[simp] theorem wr_fab {o v} : (wr o v s).fab = s.fab := rfl
@[simp] theorem wr_spg {o v} : (wr o v s).spg = s.spg := rfl
@[simp] theorem wr_conf {o v} : (wr o v s).conf = s.conf := rfl
@[simp] theorem wr_chans {o v} : (wr o v s).chans = s.chans := rfl
@[simp] theorem wr_tills {o v} : (wr o v s).tills = s.tills := rfl
@[simp] theorem wr_tillNow {o v} : (wr o v s).tillNow = s.tillNow := rfl
@[simp] theorem wr_rings {o v} : (wr o v s).rings = s.rings := rfl
@[simp] theorem wr_rtb {o v} : (wr o v s).rtb = s.rtb := rfl
@[simp] theorem wr_side {o v} : (wr o v s).side = s.side := rfl
@[simp] theorem wr_gens {o v} : (wr o v s).gens = s.gens := rfl
@[simp] theorem wr_rtbLatch {o v} : (wr o v s).rtbLatch = s.rtbLatch := rfl
@[simp] theorem wr_pairLatch {o v} : (wr o v s).pairLatch = s.pairLatch := rfl
@[simp] theorem wr_pfx {o v} : (wr o v s).pfx = s.pfx := rfl
@[simp] theorem wr_pfxPages {o v} : (wr o v s).pfxPages = s.pfxPages := rfl
@[simp] theorem wr_listPages {o v} : (wr o v s).listPages = s.listPages := rfl
@[simp] theorem wr_listBlocks {o v} : (wr o v s).listBlocks = s.listBlocks := rfl
@[simp] theorem wr_free {o v} : (wr o v s).free = s.free := rfl
@[simp] theorem wr_pageOwner {o v} : (wr o v s).pageOwner = s.pageOwner := rfl
@[simp] theorem wr_pond {o v} : (wr o v s).pond = s.pond := rfl
@[simp] theorem wr_poison {o v} : (wr o v s).poison = s.poison := rfl
@[simp] theorem wr_admq {o v} : (wr o v s).admq = s.admq := rfl
@[simp] theorem wr_admNext {o v} : (wr o v s).admNext = s.admNext := rfl
@[simp] theorem wr_steps {o v} : (wr o v s).steps = s.steps := rfl
@[simp] theorem wr_aisles {o v} : (wr o v s).aisles = s.aisles := rfl
@[simp] theorem wr_batches {o v} : (wr o v s).batches = s.batches := rfl
@[simp] theorem wr_batchNum {o v} : (wr o v s).batchNum = s.batchNum := rfl
@[simp] theorem wr_fixed {o v} : (wr o v s).fixed = s.fixed := rfl
@[simp] theorem wr_wks {o v} : (wr o v s).wks = s.wks := rfl
@[simp] theorem wr_cc {o v} : (wr o v s).cc = s.cc := rfl
@[simp] theorem wr_masks {o v} : (wr o v s).masks = s.masks := rfl
@[simp] theorem wr_adps {o v} : (wr o v s).adps = s.adps := rfl
@[simp] theorem wr_adpFetch {o v} : (wr o v s).adpFetch = s.adpFetch := rfl
@[simp] theorem wr_adpPages {o v} : (wr o v s).adpPages = s.adpPages := rfl
@[simp] theorem wr_pinPages {o v} : (wr o v s).pinPages = s.pinPages := rfl
@[simp] theorem wr_nmc {o v} : (wr o v s).nmc = s.nmc := rfl
@[simp] theorem wr_secm {o v} : (wr o v s).secm = s.secm := rfl
@[simp] theorem wr_img {o v} : (wr o v s).img = s.img := rfl
@[simp] theorem wr_log {o v} : (wr o v s).log = s.log := rfl
@[simp] theorem wr_heldAcc {o v} : (wr o v s).heldAcc = s.heldAcc := rfl
@[simp] theorem wr_freshN {o v} : (wr o v s).freshN = s.freshN := rfl
@[simp] theorem wr_out {o v} : (wr o v s).out = s.out := rfl
@[simp] theorem wr_pending {o v} : (wr o v s).pending = s.pending := rfl

/-! ### modCore -/

@[simp] theorem modCore_wks {p f} : (modCore p f s).wks = { s.wks with cores := upd s.wks.cores p {} f } := rfl
@[simp] theorem modCore_ft {p f} : (modCore p f s).ft = s.ft := rfl
@[simp] theorem modCore_regs {p f} : (modCore p f s).regs = s.regs := rfl
@[simp] theorem modCore_setNow {p f} : (modCore p f s).setNow = s.setNow := rfl
@[simp] theorem modCore_ccNow {p f} : (modCore p f s).ccNow = s.ccNow := rfl
@[simp] theorem modCore_serial {p f} : (modCore p f s).serial = s.serial := rfl
@[simp] theorem modCore_stepping {p f} : (modCore p f s).stepping = s.stepping := rfl
@[simp] theorem modCore_partX {p f} : (modCore p f s).partX = s.partX := rfl
@[simp] theorem modCore_straps {p f} : (modCore p f s).straps = s.straps := rfl
@[simp] theorem modCore_gpio {p f} : (modCore p f s).gpio = s.gpio := rfl
@[simp] theorem modCore_rst {p f} : (modCore p f s).rst = s.rst := rfl
@[simp] theorem modCore_doms {p f} : (modCore p f s).doms = s.doms := rfl
@[simp] theorem modCore_clk {p f} : (modCore p f s).clk = s.clk := rfl
@[simp] theorem modCore_fab {p f} : (modCore p f s).fab = s.fab := rfl
@[simp] theorem modCore_spg {p f} : (modCore p f s).spg = s.spg := rfl
@[simp] theorem modCore_conf {p f} : (modCore p f s).conf = s.conf := rfl
@[simp] theorem modCore_chans {p f} : (modCore p f s).chans = s.chans := rfl
@[simp] theorem modCore_tills {p f} : (modCore p f s).tills = s.tills := rfl
@[simp] theorem modCore_tillNow {p f} : (modCore p f s).tillNow = s.tillNow := rfl
@[simp] theorem modCore_rings {p f} : (modCore p f s).rings = s.rings := rfl
@[simp] theorem modCore_rtb {p f} : (modCore p f s).rtb = s.rtb := rfl
@[simp] theorem modCore_side {p f} : (modCore p f s).side = s.side := rfl
@[simp] theorem modCore_gens {p f} : (modCore p f s).gens = s.gens := rfl
@[simp] theorem modCore_rtbLatch {p f} : (modCore p f s).rtbLatch = s.rtbLatch := rfl
@[simp] theorem modCore_pairLatch {p f} : (modCore p f s).pairLatch = s.pairLatch := rfl
@[simp] theorem modCore_pfx {p f} : (modCore p f s).pfx = s.pfx := rfl
@[simp] theorem modCore_pfxPages {p f} : (modCore p f s).pfxPages = s.pfxPages := rfl
@[simp] theorem modCore_listPages {p f} : (modCore p f s).listPages = s.listPages := rfl
@[simp] theorem modCore_listBlocks {p f} : (modCore p f s).listBlocks = s.listBlocks := rfl
@[simp] theorem modCore_free {p f} : (modCore p f s).free = s.free := rfl
@[simp] theorem modCore_pageOwner {p f} : (modCore p f s).pageOwner = s.pageOwner := rfl
@[simp] theorem modCore_pond {p f} : (modCore p f s).pond = s.pond := rfl
@[simp] theorem modCore_poison {p f} : (modCore p f s).poison = s.poison := rfl
@[simp] theorem modCore_admq {p f} : (modCore p f s).admq = s.admq := rfl
@[simp] theorem modCore_admNext {p f} : (modCore p f s).admNext = s.admNext := rfl
@[simp] theorem modCore_steps {p f} : (modCore p f s).steps = s.steps := rfl
@[simp] theorem modCore_aisles {p f} : (modCore p f s).aisles = s.aisles := rfl
@[simp] theorem modCore_batches {p f} : (modCore p f s).batches = s.batches := rfl
@[simp] theorem modCore_batchNum {p f} : (modCore p f s).batchNum = s.batchNum := rfl
@[simp] theorem modCore_fixed {p f} : (modCore p f s).fixed = s.fixed := rfl
@[simp] theorem modCore_cc {p f} : (modCore p f s).cc = s.cc := rfl
@[simp] theorem modCore_masks {p f} : (modCore p f s).masks = s.masks := rfl
@[simp] theorem modCore_adps {p f} : (modCore p f s).adps = s.adps := rfl
@[simp] theorem modCore_adpFetch {p f} : (modCore p f s).adpFetch = s.adpFetch := rfl
@[simp] theorem modCore_adpPages {p f} : (modCore p f s).adpPages = s.adpPages := rfl
@[simp] theorem modCore_pinPages {p f} : (modCore p f s).pinPages = s.pinPages := rfl
@[simp] theorem modCore_nmc {p f} : (modCore p f s).nmc = s.nmc := rfl
@[simp] theorem modCore_secm {p f} : (modCore p f s).secm = s.secm := rfl
@[simp] theorem modCore_img {p f} : (modCore p f s).img = s.img := rfl
@[simp] theorem modCore_log {p f} : (modCore p f s).log = s.log := rfl
@[simp] theorem modCore_heldAcc {p f} : (modCore p f s).heldAcc = s.heldAcc := rfl
@[simp] theorem modCore_freshN {p f} : (modCore p f s).freshN = s.freshN := rfl
@[simp] theorem modCore_out {p f} : (modCore p f s).out = s.out := rfl
@[simp] theorem modCore_pending {p f} : (modCore p f s).pending = s.pending := rfl

end Sys2Proof.Laws
end

