-- ==== Sys2Proof/Laws/Ops.lean ====
section
/-! SUPPORT. The shared operations of Machine/Ops.lean: what each of them leaves alone. Registers, what leaves the chip, the
log and power domains change only as their own definitions say. -/
namespace Sys2Proof.Laws
open Sys2Proof.Machine

set_option Elab.async false

variable {s : State}

/-! ### wrf -/

@[simp] theorem wrf_ft {o h l v} : (wrf o h l v s).ft = s.ft := rfl
@[simp] theorem wrf_setNow {o h l v} : (wrf o h l v s).setNow = s.setNow := rfl
@[simp] theorem wrf_ccNow {o h l v} : (wrf o h l v s).ccNow = s.ccNow := rfl
@[simp] theorem wrf_serial {o h l v} : (wrf o h l v s).serial = s.serial := rfl
@[simp] theorem wrf_stepping {o h l v} : (wrf o h l v s).stepping = s.stepping := rfl
@[simp] theorem wrf_partX {o h l v} : (wrf o h l v s).partX = s.partX := rfl
@[simp] theorem wrf_straps {o h l v} : (wrf o h l v s).straps = s.straps := rfl
@[simp] theorem wrf_gpio {o h l v} : (wrf o h l v s).gpio = s.gpio := rfl
@[simp] theorem wrf_rst {o h l v} : (wrf o h l v s).rst = s.rst := rfl
@[simp] theorem wrf_doms {o h l v} : (wrf o h l v s).doms = s.doms := rfl
@[simp] theorem wrf_clk {o h l v} : (wrf o h l v s).clk = s.clk := rfl
@[simp] theorem wrf_fab {o h l v} : (wrf o h l v s).fab = s.fab := rfl
@[simp] theorem wrf_spg {o h l v} : (wrf o h l v s).spg = s.spg := rfl
@[simp] theorem wrf_conf {o h l v} : (wrf o h l v s).conf = s.conf := rfl
@[simp] theorem wrf_chans {o h l v} : (wrf o h l v s).chans = s.chans := rfl
@[simp] theorem wrf_tills {o h l v} : (wrf o h l v s).tills = s.tills := rfl
@[simp] theorem wrf_tillNow {o h l v} : (wrf o h l v s).tillNow = s.tillNow := rfl
@[simp] theorem wrf_rings {o h l v} : (wrf o h l v s).rings = s.rings := rfl
@[simp] theorem wrf_rtb {o h l v} : (wrf o h l v s).rtb = s.rtb := rfl
@[simp] theorem wrf_side {o h l v} : (wrf o h l v s).side = s.side := rfl
@[simp] theorem wrf_gens {o h l v} : (wrf o h l v s).gens = s.gens := rfl
@[simp] theorem wrf_rtbLatch {o h l v} : (wrf o h l v s).rtbLatch = s.rtbLatch := rfl
@[simp] theorem wrf_pairLatch {o h l v} : (wrf o h l v s).pairLatch = s.pairLatch := rfl
@[simp] theorem wrf_pfx {o h l v} : (wrf o h l v s).pfx = s.pfx := rfl
@[simp] theorem wrf_pfxPages {o h l v} : (wrf o h l v s).pfxPages = s.pfxPages := rfl
@[simp] theorem wrf_listPages {o h l v} : (wrf o h l v s).listPages = s.listPages := rfl
@[simp] theorem wrf_listBlocks {o h l v} : (wrf o h l v s).listBlocks = s.listBlocks := rfl
@[simp] theorem wrf_free {o h l v} : (wrf o h l v s).free = s.free := rfl
@[simp] theorem wrf_pageOwner {o h l v} : (wrf o h l v s).pageOwner = s.pageOwner := rfl
@[simp] theorem wrf_pond {o h l v} : (wrf o h l v s).pond = s.pond := rfl
@[simp] theorem wrf_poison {o h l v} : (wrf o h l v s).poison = s.poison := rfl
@[simp] theorem wrf_admq {o h l v} : (wrf o h l v s).admq = s.admq := rfl
@[simp] theorem wrf_admNext {o h l v} : (wrf o h l v s).admNext = s.admNext := rfl
@[simp] theorem wrf_steps {o h l v} : (wrf o h l v s).steps = s.steps := rfl
@[simp] theorem wrf_aisles {o h l v} : (wrf o h l v s).aisles = s.aisles := rfl
@[simp] theorem wrf_batches {o h l v} : (wrf o h l v s).batches = s.batches := rfl
@[simp] theorem wrf_batchNum {o h l v} : (wrf o h l v s).batchNum = s.batchNum := rfl
@[simp] theorem wrf_fixed {o h l v} : (wrf o h l v s).fixed = s.fixed := rfl
@[simp] theorem wrf_wks {o h l v} : (wrf o h l v s).wks = s.wks := rfl
@[simp] theorem wrf_cc {o h l v} : (wrf o h l v s).cc = s.cc := rfl
@[simp] theorem wrf_masks {o h l v} : (wrf o h l v s).masks = s.masks := rfl
@[simp] theorem wrf_adps {o h l v} : (wrf o h l v s).adps = s.adps := rfl
@[simp] theorem wrf_adpFetch {o h l v} : (wrf o h l v s).adpFetch = s.adpFetch := rfl
@[simp] theorem wrf_adpPages {o h l v} : (wrf o h l v s).adpPages = s.adpPages := rfl
@[simp] theorem wrf_pinPages {o h l v} : (wrf o h l v s).pinPages = s.pinPages := rfl
@[simp] theorem wrf_nmc {o h l v} : (wrf o h l v s).nmc = s.nmc := rfl
@[simp] theorem wrf_secm {o h l v} : (wrf o h l v s).secm = s.secm := rfl
@[simp] theorem wrf_img {o h l v} : (wrf o h l v s).img = s.img := rfl
@[simp] theorem wrf_log {o h l v} : (wrf o h l v s).log = s.log := rfl
@[simp] theorem wrf_heldAcc {o h l v} : (wrf o h l v s).heldAcc = s.heldAcc := rfl
@[simp] theorem wrf_freshN {o h l v} : (wrf o h l v s).freshN = s.freshN := rfl
@[simp] theorem wrf_out {o h l v} : (wrf o h l v s).out = s.out := rfl
@[simp] theorem wrf_pending {o h l v} : (wrf o h l v s).pending = s.pending := rfl

/-! ### clrBit -/

@[simp] theorem clrBit_ft {o i} : (clrBit o i s).ft = s.ft := rfl
@[simp] theorem clrBit_setNow {o i} : (clrBit o i s).setNow = s.setNow := rfl
@[simp] theorem clrBit_ccNow {o i} : (clrBit o i s).ccNow = s.ccNow := rfl
@[simp] theorem clrBit_serial {o i} : (clrBit o i s).serial = s.serial := rfl
@[simp] theorem clrBit_stepping {o i} : (clrBit o i s).stepping = s.stepping := rfl
@[simp] theorem clrBit_partX {o i} : (clrBit o i s).partX = s.partX := rfl
@[simp] theorem clrBit_straps {o i} : (clrBit o i s).straps = s.straps := rfl
@[simp] theorem clrBit_gpio {o i} : (clrBit o i s).gpio = s.gpio := rfl
@[simp] theorem clrBit_rst {o i} : (clrBit o i s).rst = s.rst := rfl
@[simp] theorem clrBit_doms {o i} : (clrBit o i s).doms = s.doms := rfl
@[simp] theorem clrBit_clk {o i} : (clrBit o i s).clk = s.clk := rfl
@[simp] theorem clrBit_fab {o i} : (clrBit o i s).fab = s.fab := rfl
@[simp] theorem clrBit_spg {o i} : (clrBit o i s).spg = s.spg := rfl
@[simp] theorem clrBit_conf {o i} : (clrBit o i s).conf = s.conf := rfl
@[simp] theorem clrBit_chans {o i} : (clrBit o i s).chans = s.chans := rfl
@[simp] theorem clrBit_tills {o i} : (clrBit o i s).tills = s.tills := rfl
@[simp] theorem clrBit_tillNow {o i} : (clrBit o i s).tillNow = s.tillNow := rfl
@[simp] theorem clrBit_rings {o i} : (clrBit o i s).rings = s.rings := rfl
@[simp] theorem clrBit_rtb {o i} : (clrBit o i s).rtb = s.rtb := rfl
@[simp] theorem clrBit_side {o i} : (clrBit o i s).side = s.side := rfl
@[simp] theorem clrBit_gens {o i} : (clrBit o i s).gens = s.gens := rfl
@[simp] theorem clrBit_rtbLatch {o i} : (clrBit o i s).rtbLatch = s.rtbLatch := rfl
@[simp] theorem clrBit_pairLatch {o i} : (clrBit o i s).pairLatch = s.pairLatch := rfl
@[simp] theorem clrBit_pfx {o i} : (clrBit o i s).pfx = s.pfx := rfl
@[simp] theorem clrBit_pfxPages {o i} : (clrBit o i s).pfxPages = s.pfxPages := rfl
@[simp] theorem clrBit_listPages {o i} : (clrBit o i s).listPages = s.listPages := rfl
@[simp] theorem clrBit_listBlocks {o i} : (clrBit o i s).listBlocks = s.listBlocks := rfl
@[simp] theorem clrBit_free {o i} : (clrBit o i s).free = s.free := rfl
@[simp] theorem clrBit_pageOwner {o i} : (clrBit o i s).pageOwner = s.pageOwner := rfl
@[simp] theorem clrBit_pond {o i} : (clrBit o i s).pond = s.pond := rfl
@[simp] theorem clrBit_poison {o i} : (clrBit o i s).poison = s.poison := rfl
@[simp] theorem clrBit_admq {o i} : (clrBit o i s).admq = s.admq := rfl
@[simp] theorem clrBit_admNext {o i} : (clrBit o i s).admNext = s.admNext := rfl
@[simp] theorem clrBit_steps {o i} : (clrBit o i s).steps = s.steps := rfl
@[simp] theorem clrBit_aisles {o i} : (clrBit o i s).aisles = s.aisles := rfl
@[simp] theorem clrBit_batches {o i} : (clrBit o i s).batches = s.batches := rfl
@[simp] theorem clrBit_batchNum {o i} : (clrBit o i s).batchNum = s.batchNum := rfl
@[simp] theorem clrBit_fixed {o i} : (clrBit o i s).fixed = s.fixed := rfl
@[simp] theorem clrBit_wks {o i} : (clrBit o i s).wks = s.wks := rfl
@[simp] theorem clrBit_cc {o i} : (clrBit o i s).cc = s.cc := rfl
@[simp] theorem clrBit_masks {o i} : (clrBit o i s).masks = s.masks := rfl
@[simp] theorem clrBit_adps {o i} : (clrBit o i s).adps = s.adps := rfl
@[simp] theorem clrBit_adpFetch {o i} : (clrBit o i s).adpFetch = s.adpFetch := rfl
@[simp] theorem clrBit_adpPages {o i} : (clrBit o i s).adpPages = s.adpPages := rfl
@[simp] theorem clrBit_pinPages {o i} : (clrBit o i s).pinPages = s.pinPages := rfl
@[simp] theorem clrBit_nmc {o i} : (clrBit o i s).nmc = s.nmc := rfl
@[simp] theorem clrBit_secm {o i} : (clrBit o i s).secm = s.secm := rfl
@[simp] theorem clrBit_img {o i} : (clrBit o i s).img = s.img := rfl
@[simp] theorem clrBit_log {o i} : (clrBit o i s).log = s.log := rfl
@[simp] theorem clrBit_heldAcc {o i} : (clrBit o i s).heldAcc = s.heldAcc := rfl
@[simp] theorem clrBit_freshN {o i} : (clrBit o i s).freshN = s.freshN := rfl
@[simp] theorem clrBit_out {o i} : (clrBit o i s).out = s.out := rfl
@[simp] theorem clrBit_pending {o i} : (clrBit o i s).pending = s.pending := rfl

/-! ### bumpSat -/

@[simp] theorem bumpSat_ft {o} : (bumpSat o s).ft = s.ft := rfl
@[simp] theorem bumpSat_setNow {o} : (bumpSat o s).setNow = s.setNow := rfl
@[simp] theorem bumpSat_ccNow {o} : (bumpSat o s).ccNow = s.ccNow := rfl
@[simp] theorem bumpSat_serial {o} : (bumpSat o s).serial = s.serial := rfl
@[simp] theorem bumpSat_stepping {o} : (bumpSat o s).stepping = s.stepping := rfl
@[simp] theorem bumpSat_partX {o} : (bumpSat o s).partX = s.partX := rfl
@[simp] theorem bumpSat_straps {o} : (bumpSat o s).straps = s.straps := rfl
@[simp] theorem bumpSat_gpio {o} : (bumpSat o s).gpio = s.gpio := rfl
@[simp] theorem bumpSat_rst {o} : (bumpSat o s).rst = s.rst := rfl
@[simp] theorem bumpSat_doms {o} : (bumpSat o s).doms = s.doms := rfl
@[simp] theorem bumpSat_clk {o} : (bumpSat o s).clk = s.clk := rfl
@[simp] theorem bumpSat_fab {o} : (bumpSat o s).fab = s.fab := rfl
@[simp] theorem bumpSat_spg {o} : (bumpSat o s).spg = s.spg := rfl
@[simp] theorem bumpSat_conf {o} : (bumpSat o s).conf = s.conf := rfl
@[simp] theorem bumpSat_chans {o} : (bumpSat o s).chans = s.chans := rfl
@[simp] theorem bumpSat_tills {o} : (bumpSat o s).tills = s.tills := rfl
@[simp] theorem bumpSat_tillNow {o} : (bumpSat o s).tillNow = s.tillNow := rfl
@[simp] theorem bumpSat_rings {o} : (bumpSat o s).rings = s.rings := rfl
@[simp] theorem bumpSat_rtb {o} : (bumpSat o s).rtb = s.rtb := rfl
@[simp] theorem bumpSat_side {o} : (bumpSat o s).side = s.side := rfl
@[simp] theorem bumpSat_gens {o} : (bumpSat o s).gens = s.gens := rfl
@[simp] theorem bumpSat_rtbLatch {o} : (bumpSat o s).rtbLatch = s.rtbLatch := rfl
@[simp] theorem bumpSat_pairLatch {o} : (bumpSat o s).pairLatch = s.pairLatch := rfl
@[simp] theorem bumpSat_pfx {o} : (bumpSat o s).pfx = s.pfx := rfl
@[simp] theorem bumpSat_pfxPages {o} : (bumpSat o s).pfxPages = s.pfxPages := rfl
@[simp] theorem bumpSat_listPages {o} : (bumpSat o s).listPages = s.listPages := rfl
@[simp] theorem bumpSat_listBlocks {o} : (bumpSat o s).listBlocks = s.listBlocks := rfl
@[simp] theorem bumpSat_free {o} : (bumpSat o s).free = s.free := rfl
@[simp] theorem bumpSat_pageOwner {o} : (bumpSat o s).pageOwner = s.pageOwner := rfl
@[simp] theorem bumpSat_pond {o} : (bumpSat o s).pond = s.pond := rfl
@[simp] theorem bumpSat_poison {o} : (bumpSat o s).poison = s.poison := rfl
@[simp] theorem bumpSat_admq {o} : (bumpSat o s).admq = s.admq := rfl
@[simp] theorem bumpSat_admNext {o} : (bumpSat o s).admNext = s.admNext := rfl
@[simp] theorem bumpSat_steps {o} : (bumpSat o s).steps = s.steps := rfl
@[simp] theorem bumpSat_aisles {o} : (bumpSat o s).aisles = s.aisles := rfl
@[simp] theorem bumpSat_batches {o} : (bumpSat o s).batches = s.batches := rfl
@[simp] theorem bumpSat_batchNum {o} : (bumpSat o s).batchNum = s.batchNum := rfl
@[simp] theorem bumpSat_fixed {o} : (bumpSat o s).fixed = s.fixed := rfl
@[simp] theorem bumpSat_wks {o} : (bumpSat o s).wks = s.wks := rfl
@[simp] theorem bumpSat_cc {o} : (bumpSat o s).cc = s.cc := rfl
@[simp] theorem bumpSat_masks {o} : (bumpSat o s).masks = s.masks := rfl
@[simp] theorem bumpSat_adps {o} : (bumpSat o s).adps = s.adps := rfl
@[simp] theorem bumpSat_adpFetch {o} : (bumpSat o s).adpFetch = s.adpFetch := rfl
@[simp] theorem bumpSat_adpPages {o} : (bumpSat o s).adpPages = s.adpPages := rfl
@[simp] theorem bumpSat_pinPages {o} : (bumpSat o s).pinPages = s.pinPages := rfl
@[simp] theorem bumpSat_nmc {o} : (bumpSat o s).nmc = s.nmc := rfl
@[simp] theorem bumpSat_secm {o} : (bumpSat o s).secm = s.secm := rfl
@[simp] theorem bumpSat_img {o} : (bumpSat o s).img = s.img := rfl
@[simp] theorem bumpSat_log {o} : (bumpSat o s).log = s.log := rfl
@[simp] theorem bumpSat_heldAcc {o} : (bumpSat o s).heldAcc = s.heldAcc := rfl
@[simp] theorem bumpSat_freshN {o} : (bumpSat o s).freshN = s.freshN := rfl
@[simp] theorem bumpSat_out {o} : (bumpSat o s).out = s.out := rfl
@[simp] theorem bumpSat_pending {o} : (bumpSat o s).pending = s.pending := rfl

/-! ### addWrap -/

@[simp] theorem addWrap_ft {o n} : (addWrap o n s).ft = s.ft := rfl
@[simp] theorem addWrap_setNow {o n} : (addWrap o n s).setNow = s.setNow := rfl
@[simp] theorem addWrap_ccNow {o n} : (addWrap o n s).ccNow = s.ccNow := rfl
@[simp] theorem addWrap_serial {o n} : (addWrap o n s).serial = s.serial := rfl
@[simp] theorem addWrap_stepping {o n} : (addWrap o n s).stepping = s.stepping := rfl
@[simp] theorem addWrap_partX {o n} : (addWrap o n s).partX = s.partX := rfl
@[simp] theorem addWrap_straps {o n} : (addWrap o n s).straps = s.straps := rfl
@[simp] theorem addWrap_gpio {o n} : (addWrap o n s).gpio = s.gpio := rfl
@[simp] theorem addWrap_rst {o n} : (addWrap o n s).rst = s.rst := rfl
@[simp] theorem addWrap_doms {o n} : (addWrap o n s).doms = s.doms := rfl
@[simp] theorem addWrap_clk {o n} : (addWrap o n s).clk = s.clk := rfl
@[simp] theorem addWrap_fab {o n} : (addWrap o n s).fab = s.fab := rfl
@[simp] theorem addWrap_spg {o n} : (addWrap o n s).spg = s.spg := rfl
@[simp] theorem addWrap_conf {o n} : (addWrap o n s).conf = s.conf := rfl
@[simp] theorem addWrap_chans {o n} : (addWrap o n s).chans = s.chans := rfl
@[simp] theorem addWrap_tills {o n} : (addWrap o n s).tills = s.tills := rfl
@[simp] theorem addWrap_tillNow {o n} : (addWrap o n s).tillNow = s.tillNow := rfl
@[simp] theorem addWrap_rings {o n} : (addWrap o n s).rings = s.rings := rfl
@[simp] theorem addWrap_rtb {o n} : (addWrap o n s).rtb = s.rtb := rfl
@[simp] theorem addWrap_side {o n} : (addWrap o n s).side = s.side := rfl
@[simp] theorem addWrap_gens {o n} : (addWrap o n s).gens = s.gens := rfl
@[simp] theorem addWrap_rtbLatch {o n} : (addWrap o n s).rtbLatch = s.rtbLatch := rfl
@[simp] theorem addWrap_pairLatch {o n} : (addWrap o n s).pairLatch = s.pairLatch := rfl
@[simp] theorem addWrap_pfx {o n} : (addWrap o n s).pfx = s.pfx := rfl
@[simp] theorem addWrap_pfxPages {o n} : (addWrap o n s).pfxPages = s.pfxPages := rfl
@[simp] theorem addWrap_listPages {o n} : (addWrap o n s).listPages = s.listPages := rfl
@[simp] theorem addWrap_listBlocks {o n} : (addWrap o n s).listBlocks = s.listBlocks := rfl
@[simp] theorem addWrap_free {o n} : (addWrap o n s).free = s.free := rfl
@[simp] theorem addWrap_pageOwner {o n} : (addWrap o n s).pageOwner = s.pageOwner := rfl
@[simp] theorem addWrap_pond {o n} : (addWrap o n s).pond = s.pond := rfl
@[simp] theorem addWrap_poison {o n} : (addWrap o n s).poison = s.poison := rfl
@[simp] theorem addWrap_admq {o n} : (addWrap o n s).admq = s.admq := rfl
@[simp] theorem addWrap_admNext {o n} : (addWrap o n s).admNext = s.admNext := rfl
@[simp] theorem addWrap_steps {o n} : (addWrap o n s).steps = s.steps := rfl
@[simp] theorem addWrap_aisles {o n} : (addWrap o n s).aisles = s.aisles := rfl
@[simp] theorem addWrap_batches {o n} : (addWrap o n s).batches = s.batches := rfl
@[simp] theorem addWrap_batchNum {o n} : (addWrap o n s).batchNum = s.batchNum := rfl
@[simp] theorem addWrap_fixed {o n} : (addWrap o n s).fixed = s.fixed := rfl
@[simp] theorem addWrap_wks {o n} : (addWrap o n s).wks = s.wks := rfl
@[simp] theorem addWrap_cc {o n} : (addWrap o n s).cc = s.cc := rfl
@[simp] theorem addWrap_masks {o n} : (addWrap o n s).masks = s.masks := rfl
@[simp] theorem addWrap_adps {o n} : (addWrap o n s).adps = s.adps := rfl
@[simp] theorem addWrap_adpFetch {o n} : (addWrap o n s).adpFetch = s.adpFetch := rfl
@[simp] theorem addWrap_adpPages {o n} : (addWrap o n s).adpPages = s.adpPages := rfl
@[simp] theorem addWrap_pinPages {o n} : (addWrap o n s).pinPages = s.pinPages := rfl
@[simp] theorem addWrap_nmc {o n} : (addWrap o n s).nmc = s.nmc := rfl
@[simp] theorem addWrap_secm {o n} : (addWrap o n s).secm = s.secm := rfl
@[simp] theorem addWrap_img {o n} : (addWrap o n s).img = s.img := rfl
@[simp] theorem addWrap_log {o n} : (addWrap o n s).log = s.log := rfl
@[simp] theorem addWrap_heldAcc {o n} : (addWrap o n s).heldAcc = s.heldAcc := rfl
@[simp] theorem addWrap_freshN {o n} : (addWrap o n s).freshN = s.freshN := rfl
@[simp] theorem addWrap_out {o n} : (addWrap o n s).out = s.out := rfl
@[simp] theorem addWrap_pending {o n} : (addWrap o n s).pending = s.pending := rfl

/-! ### wr64 -/

@[simp] theorem wr64_ft {o v} : (wr64 o v s).ft = s.ft := rfl
@[simp] theorem wr64_setNow {o v} : (wr64 o v s).setNow = s.setNow := rfl
@[simp] theorem wr64_ccNow {o v} : (wr64 o v s).ccNow = s.ccNow := rfl
@[simp] theorem wr64_serial {o v} : (wr64 o v s).serial = s.serial := rfl
@[simp] theorem wr64_stepping {o v} : (wr64 o v s).stepping = s.stepping := rfl
@[simp] theorem wr64_partX {o v} : (wr64 o v s).partX = s.partX := rfl
@[simp] theorem wr64_straps {o v} : (wr64 o v s).straps = s.straps := rfl
@[simp] theorem wr64_gpio {o v} : (wr64 o v s).gpio = s.gpio := rfl
@[simp] theorem wr64_rst {o v} : (wr64 o v s).rst = s.rst := rfl
@[simp] theorem wr64_doms {o v} : (wr64 o v s).doms = s.doms := rfl
@[simp] theorem wr64_clk {o v} : (wr64 o v s).clk = s.clk := rfl
@[simp] theorem wr64_fab {o v} : (wr64 o v s).fab = s.fab := rfl
@[simp] theorem wr64_spg {o v} : (wr64 o v s).spg = s.spg := rfl
@[simp] theorem wr64_conf {o v} : (wr64 o v s).conf = s.conf := rfl
@[simp] theorem wr64_chans {o v} : (wr64 o v s).chans = s.chans := rfl
@[simp] theorem wr64_tills {o v} : (wr64 o v s).tills = s.tills := rfl
@[simp] theorem wr64_tillNow {o v} : (wr64 o v s).tillNow = s.tillNow := rfl
@[simp] theorem wr64_rings {o v} : (wr64 o v s).rings = s.rings := rfl
@[simp] theorem wr64_rtb {o v} : (wr64 o v s).rtb = s.rtb := rfl
@[simp] theorem wr64_side {o v} : (wr64 o v s).side = s.side := rfl
@[simp] theorem wr64_gens {o v} : (wr64 o v s).gens = s.gens := rfl
@[simp] theorem wr64_rtbLatch {o v} : (wr64 o v s).rtbLatch = s.rtbLatch := rfl
@[simp] theorem wr64_pairLatch {o v} : (wr64 o v s).pairLatch = s.pairLatch := rfl
@[simp] theorem wr64_pfx {o v} : (wr64 o v s).pfx = s.pfx := rfl
@[simp] theorem wr64_pfxPages {o v} : (wr64 o v s).pfxPages = s.pfxPages := rfl
@[simp] theorem wr64_listPages {o v} : (wr64 o v s).listPages = s.listPages := rfl
@[simp] theorem wr64_listBlocks {o v} : (wr64 o v s).listBlocks = s.listBlocks := rfl
@[simp] theorem wr64_free {o v} : (wr64 o v s).free = s.free := rfl
@[simp] theorem wr64_pageOwner {o v} : (wr64 o v s).pageOwner = s.pageOwner := rfl
@[simp] theorem wr64_pond {o v} : (wr64 o v s).pond = s.pond := rfl
@[simp] theorem wr64_poison {o v} : (wr64 o v s).poison = s.poison := rfl
@[simp] theorem wr64_admq {o v} : (wr64 o v s).admq = s.admq := rfl
@[simp] theorem wr64_admNext {o v} : (wr64 o v s).admNext = s.admNext := rfl
@[simp] theorem wr64_steps {o v} : (wr64 o v s).steps = s.steps := rfl
@[simp] theorem wr64_aisles {o v} : (wr64 o v s).aisles = s.aisles := rfl
@[simp] theorem wr64_batches {o v} : (wr64 o v s).batches = s.batches := rfl
@[simp] theorem wr64_batchNum {o v} : (wr64 o v s).batchNum = s.batchNum := rfl
@[simp] theorem wr64_fixed {o v} : (wr64 o v s).fixed = s.fixed := rfl
@[simp] theorem wr64_wks {o v} : (wr64 o v s).wks = s.wks := rfl
@[simp] theorem wr64_cc {o v} : (wr64 o v s).cc = s.cc := rfl
@[simp] theorem wr64_masks {o v} : (wr64 o v s).masks = s.masks := rfl
@[simp] theorem wr64_adps {o v} : (wr64 o v s).adps = s.adps := rfl
@[simp] theorem wr64_adpFetch {o v} : (wr64 o v s).adpFetch = s.adpFetch := rfl
@[simp] theorem wr64_adpPages {o v} : (wr64 o v s).adpPages = s.adpPages := rfl
@[simp] theorem wr64_pinPages {o v} : (wr64 o v s).pinPages = s.pinPages := rfl
@[simp] theorem wr64_nmc {o v} : (wr64 o v s).nmc = s.nmc := rfl
@[simp] theorem wr64_secm {o v} : (wr64 o v s).secm = s.secm := rfl
@[simp] theorem wr64_img {o v} : (wr64 o v s).img = s.img := rfl
@[simp] theorem wr64_log {o v} : (wr64 o v s).log = s.log := rfl
@[simp] theorem wr64_heldAcc {o v} : (wr64 o v s).heldAcc = s.heldAcc := rfl
@[simp] theorem wr64_freshN {o v} : (wr64 o v s).freshN = s.freshN := rfl
@[simp] theorem wr64_out {o v} : (wr64 o v s).out = s.out := rfl
@[simp] theorem wr64_pending {o v} : (wr64 o v s).pending = s.pending := rfl

/-! ### ccInt -/

@[simp] theorem ccInt_ft {i} : (ccInt i s).ft = s.ft := rfl
@[simp] theorem ccInt_ccNow {i} : (ccInt i s).ccNow = s.ccNow := rfl
@[simp] theorem ccInt_serial {i} : (ccInt i s).serial = s.serial := rfl
@[simp] theorem ccInt_stepping {i} : (ccInt i s).stepping = s.stepping := rfl
@[simp] theorem ccInt_partX {i} : (ccInt i s).partX = s.partX := rfl
@[simp] theorem ccInt_straps {i} : (ccInt i s).straps = s.straps := rfl
@[simp] theorem ccInt_gpio {i} : (ccInt i s).gpio = s.gpio := rfl
@[simp] theorem ccInt_rst {i} : (ccInt i s).rst = s.rst := rfl
@[simp] theorem ccInt_doms {i} : (ccInt i s).doms = s.doms := rfl
@[simp] theorem ccInt_clk {i} : (ccInt i s).clk = s.clk := rfl
@[simp] theorem ccInt_fab {i} : (ccInt i s).fab = s.fab := rfl
@[simp] theorem ccInt_spg {i} : (ccInt i s).spg = s.spg := rfl
@[simp] theorem ccInt_conf {i} : (ccInt i s).conf = s.conf := rfl
@[simp] theorem ccInt_chans {i} : (ccInt i s).chans = s.chans := rfl
@[simp] theorem ccInt_tills {i} : (ccInt i s).tills = s.tills := rfl
@[simp] theorem ccInt_tillNow {i} : (ccInt i s).tillNow = s.tillNow := rfl
@[simp] theorem ccInt_rings {i} : (ccInt i s).rings = s.rings := rfl
@[simp] theorem ccInt_rtb {i} : (ccInt i s).rtb = s.rtb := rfl
@[simp] theorem ccInt_side {i} : (ccInt i s).side = s.side := rfl
@[simp] theorem ccInt_gens {i} : (ccInt i s).gens = s.gens := rfl
@[simp] theorem ccInt_rtbLatch {i} : (ccInt i s).rtbLatch = s.rtbLatch := rfl
@[simp] theorem ccInt_pairLatch {i} : (ccInt i s).pairLatch = s.pairLatch := rfl
@[simp] theorem ccInt_pfx {i} : (ccInt i s).pfx = s.pfx := rfl
@[simp] theorem ccInt_pfxPages {i} : (ccInt i s).pfxPages = s.pfxPages := rfl
@[simp] theorem ccInt_listPages {i} : (ccInt i s).listPages = s.listPages := rfl
@[simp] theorem ccInt_listBlocks {i} : (ccInt i s).listBlocks = s.listBlocks := rfl
@[simp] theorem ccInt_free {i} : (ccInt i s).free = s.free := rfl
@[simp] theorem ccInt_pageOwner {i} : (ccInt i s).pageOwner = s.pageOwner := rfl
@[simp] theorem ccInt_pond {i} : (ccInt i s).pond = s.pond := rfl
@[simp] theorem ccInt_poison {i} : (ccInt i s).poison = s.poison := rfl
@[simp] theorem ccInt_admq {i} : (ccInt i s).admq = s.admq := rfl
@[simp] theorem ccInt_admNext {i} : (ccInt i s).admNext = s.admNext := rfl
@[simp] theorem ccInt_steps {i} : (ccInt i s).steps = s.steps := rfl
@[simp] theorem ccInt_aisles {i} : (ccInt i s).aisles = s.aisles := rfl
@[simp] theorem ccInt_batches {i} : (ccInt i s).batches = s.batches := rfl
@[simp] theorem ccInt_batchNum {i} : (ccInt i s).batchNum = s.batchNum := rfl
@[simp] theorem ccInt_fixed {i} : (ccInt i s).fixed = s.fixed := rfl
@[simp] theorem ccInt_wks {i} : (ccInt i s).wks = s.wks := rfl
@[simp] theorem ccInt_cc {i} : (ccInt i s).cc = s.cc := rfl
@[simp] theorem ccInt_masks {i} : (ccInt i s).masks = s.masks := rfl
@[simp] theorem ccInt_adps {i} : (ccInt i s).adps = s.adps := rfl
@[simp] theorem ccInt_adpFetch {i} : (ccInt i s).adpFetch = s.adpFetch := rfl
@[simp] theorem ccInt_adpPages {i} : (ccInt i s).adpPages = s.adpPages := rfl
@[simp] theorem ccInt_pinPages {i} : (ccInt i s).pinPages = s.pinPages := rfl
@[simp] theorem ccInt_nmc {i} : (ccInt i s).nmc = s.nmc := rfl
@[simp] theorem ccInt_secm {i} : (ccInt i s).secm = s.secm := rfl
@[simp] theorem ccInt_img {i} : (ccInt i s).img = s.img := rfl
@[simp] theorem ccInt_log {i} : (ccInt i s).log = s.log := rfl
@[simp] theorem ccInt_heldAcc {i} : (ccInt i s).heldAcc = s.heldAcc := rfl
@[simp] theorem ccInt_freshN {i} : (ccInt i s).freshN = s.freshN := rfl
@[simp] theorem ccInt_out {i} : (ccInt i s).out = s.out := rfl
@[simp] theorem ccInt_pending {i} : (ccInt i s).pending = s.pending := rfl

/-! ### What a log entry or a wake can change -/

/-- `t` differs from `s` in registers, bits set now, log, what was sent and the FT of the last TLP only. -/
def LogFrame (s t : State) : Prop :=
  ∃ regs now log out last, t = { s with regs := regs, setNow := now, log := log, out := out, spg := { s.spg with lastTlp := last } }

/-- The same, and power domains. -/
def WakeFrame (s t : State) : Prop := ∃ doms, LogFrame { s with doms := doms } t

theorem LogFrame.refl (s : State) : LogFrame s s := ⟨_, _, _, _, _, rfl⟩
theorem LogFrame.trans {s t u : State} (h : LogFrame s t) (k : LogFrame t u) : LogFrame s u := by
  obtain ⟨_, _, _, _, _, rfl⟩ := h
  obtain ⟨_, _, _, _, _, rfl⟩ := k
  exact ⟨_, _, _, _, _, rfl⟩
theorem LogFrame.wake {s t : State} (h : LogFrame s t) : WakeFrame s t := ⟨s.doms, h⟩
theorem WakeFrame.refl (s : State) : WakeFrame s s := (LogFrame.refl s).wake
theorem WakeFrame.trans {s t u : State} (h : WakeFrame s t) (k : WakeFrame t u) : WakeFrame s u := by
  obtain ⟨_, _, _, _, _, _, rfl⟩ := h
  obtain ⟨_, _, _, _, _, _, rfl⟩ := k
  exact ⟨_, _, _, _, _, _, rfl⟩

theorem frame_wr {a v} : LogFrame s (wr a v s) := ⟨_, _, _, _, _, rfl⟩
theorem frame_setBit {a v} : LogFrame s (setBit a v s) := ⟨_, _, _, _, _, rfl⟩
theorem frame_emit {e} : LogFrame s (emit e s) := by
  by_cases h : e.tlp = true
  · exact ⟨s.regs, s.setNow, s.log, _, s.ft, by simp only [emit, h]; rfl⟩
  · exact ⟨s.regs, s.setNow, s.log, _, s.spg.lastTlp, by simp only [emit, h]; rfl⟩
theorem frame_devEvent {n} : LogFrame s (devEvent n s) := frame_emit
theorem frame_log1 {c st a} : LogFrame s (log1 c st a s).1 := by
  unfold log1 when_
  dsimp only
  split
  · exact LogFrame.trans ⟨_, _, _, _, _, rfl⟩ frame_devEvent
  · exact ⟨_, _, _, _, _, rfl⟩
theorem frame_haltSet {c} : LogFrame s (haltSet c s) :=
  ((frame_setBit.trans frame_setBit).trans frame_emit).trans frame_log1
theorem frame_freezeCheck {c w} : LogFrame s (freezeCheck c w s) := by
  unfold freezeCheck when_
  dsimp only
  split
  · have h : LogFrame s (log1 0x1501 0xFF [] { s with log := { s.log with frozen := true } }).1 :=
      LogFrame.trans ⟨_, _, _, _, _, rfl⟩ frame_log1
    split
    · exact h.trans frame_haltSet
    · exact h
  · exact LogFrame.refl s
theorem frame_haltRaise {c} : LogFrame s (haltRaise c s) := by
  unfold haltRaise
  split
  · exact (((frame_setBit.trans frame_setBit).trans frame_emit).trans frame_log1).trans frame_freezeCheck
  · exact LogFrame.refl s
theorem frame_logEv {c st a} : LogFrame s (logEv c st a s) := by
  unfold logEv when_
  dsimp only
  split
  · exact (frame_log1.trans frame_haltRaise).trans frame_freezeCheck
  · exact frame_log1.trans frame_freezeCheck
theorem frame_setDom {d v} : WakeFrame s (setDom d v s) := ⟨put s.doms d v {}, s.regs, s.setNow, s.log, s.out, s.spg.lastTlp, rfl⟩
theorem frame_modDom {d f} : WakeFrame s (modDom d f s) := frame_setDom
theorem frame_startTrans {d q} : WakeFrame s (startTrans d q s) := frame_setDom
theorem WakeFrame.ite {c : Prop} [Decidable c] {s a b : State} (ha : WakeFrame s a) (hb : WakeFrame s b) :
    WakeFrame s (if c then a else b) := by
  split <;> assumption
theorem frame_undoExpiry {d} : WakeFrame s (undoExpiry d s) := WakeFrame.ite frame_setDom (WakeFrame.refl s)
theorem frame_wakeDom {d} : WakeFrame s (wakeDom d s) := by
  unfold wakeDom
  split
  · exact WakeFrame.refl s
  · have h := frame_undoExpiry (s := s) (d := d)
    revert h
    generalize undoExpiry d s = u
    intro h
    dsimp only [when_]
    generalize hv : modDom d (fun x => { x with idle := 0, worked := true }) u = v
    have hv' : WakeFrame s v := h.trans (hv ▸ frame_modDom)
    generalize hw : (if ((match (dom u d).held with | some .on => false | some _ => true | none => false) || (dom u d).via.isSome) = true
        then setBit rPwrReq 7 (modDom d (fun x => { x with held := none, via := none }) v) else v) = w
    have hw' : WakeFrame s w := by
      subst hw
      exact WakeFrame.ite (hv'.trans (frame_modDom.trans frame_setBit.wake)) hv'
    refine hw'.trans ?_
    clear hw' hw hv' hv h
    repeat' split
    all_goals first
      | exact WakeFrame.refl w
      | exact frame_startTrans
      | exact frame_modDom
      | exact frame_modDom.trans frame_logEv.wake
theorem frame_forEach {α : Type} {f : α → State → State} (hf : ∀ a t, WakeFrame t (f a t)) (l : List α) :
    WakeFrame s (forEach l f s) := by
  induction l generalizing s with
  | nil => exact WakeFrame.refl s
  | cons a r ih => exact (hf a s).trans ih
theorem frame_wakeAll {i ds} : WakeFrame s (wakeAll i ds s) := by
  unfold wakeAll when_
  dsimp only
  split
  · exact frame_setBit.wake.trans (frame_forEach (fun _ _ => frame_wakeDom) _)
  · exact frame_forEach (fun _ _ => frame_wakeDom) _

theorem LogFrame.ft {s t : State} (h : LogFrame s t) : t.ft = s.ft := by obtain ⟨_, _, _, _, _, rfl⟩ := h; rfl
theorem LogFrame.ccNow {s t : State} (h : LogFrame s t) : t.ccNow = s.ccNow := by obtain ⟨_, _, _, _, _, rfl⟩ := h; rfl
theorem LogFrame.serial {s t : State} (h : LogFrame s t) : t.serial = s.serial := by obtain ⟨_, _, _, _, _, rfl⟩ := h; rfl
theorem LogFrame.stepping {s t : State} (h : LogFrame s t) : t.stepping = s.stepping := by obtain ⟨_, _, _, _, _, rfl⟩ := h; rfl
theorem LogFrame.partX {s t : State} (h : LogFrame s t) : t.partX = s.partX := by obtain ⟨_, _, _, _, _, rfl⟩ := h; rfl
theorem LogFrame.straps {s t : State} (h : LogFrame s t) : t.straps = s.straps := by obtain ⟨_, _, _, _, _, rfl⟩ := h; rfl
theorem LogFrame.gpio {s t : State} (h : LogFrame s t) : t.gpio = s.gpio := by obtain ⟨_, _, _, _, _, rfl⟩ := h; rfl
theorem LogFrame.rst {s t : State} (h : LogFrame s t) : t.rst = s.rst := by obtain ⟨_, _, _, _, _, rfl⟩ := h; rfl
theorem LogFrame.doms {s t : State} (h : LogFrame s t) : t.doms = s.doms := by obtain ⟨_, _, _, _, _, rfl⟩ := h; rfl
theorem LogFrame.clk {s t : State} (h : LogFrame s t) : t.clk = s.clk := by obtain ⟨_, _, _, _, _, rfl⟩ := h; rfl
theorem LogFrame.fab {s t : State} (h : LogFrame s t) : t.fab = s.fab := by obtain ⟨_, _, _, _, _, rfl⟩ := h; rfl
theorem LogFrame.conf {s t : State} (h : LogFrame s t) : t.conf = s.conf := by obtain ⟨_, _, _, _, _, rfl⟩ := h; rfl
theorem LogFrame.chans {s t : State} (h : LogFrame s t) : t.chans = s.chans := by obtain ⟨_, _, _, _, _, rfl⟩ := h; rfl
theorem LogFrame.tills {s t : State} (h : LogFrame s t) : t.tills = s.tills := by obtain ⟨_, _, _, _, _, rfl⟩ := h; rfl
theorem LogFrame.tillNow {s t : State} (h : LogFrame s t) : t.tillNow = s.tillNow := by obtain ⟨_, _, _, _, _, rfl⟩ := h; rfl
theorem LogFrame.rings {s t : State} (h : LogFrame s t) : t.rings = s.rings := by obtain ⟨_, _, _, _, _, rfl⟩ := h; rfl
theorem LogFrame.rtb {s t : State} (h : LogFrame s t) : t.rtb = s.rtb := by obtain ⟨_, _, _, _, _, rfl⟩ := h; rfl
theorem LogFrame.side {s t : State} (h : LogFrame s t) : t.side = s.side := by obtain ⟨_, _, _, _, _, rfl⟩ := h; rfl
theorem LogFrame.gens {s t : State} (h : LogFrame s t) : t.gens = s.gens := by obtain ⟨_, _, _, _, _, rfl⟩ := h; rfl
theorem LogFrame.rtbLatch {s t : State} (h : LogFrame s t) : t.rtbLatch = s.rtbLatch := by obtain ⟨_, _, _, _, _, rfl⟩ := h; rfl
theorem LogFrame.pairLatch {s t : State} (h : LogFrame s t) : t.pairLatch = s.pairLatch := by obtain ⟨_, _, _, _, _, rfl⟩ := h; rfl
theorem LogFrame.pfx {s t : State} (h : LogFrame s t) : t.pfx = s.pfx := by obtain ⟨_, _, _, _, _, rfl⟩ := h; rfl
theorem LogFrame.pfxPages {s t : State} (h : LogFrame s t) : t.pfxPages = s.pfxPages := by obtain ⟨_, _, _, _, _, rfl⟩ := h; rfl
theorem LogFrame.listPages {s t : State} (h : LogFrame s t) : t.listPages = s.listPages := by obtain ⟨_, _, _, _, _, rfl⟩ := h; rfl
theorem LogFrame.listBlocks {s t : State} (h : LogFrame s t) : t.listBlocks = s.listBlocks := by obtain ⟨_, _, _, _, _, rfl⟩ := h; rfl
theorem LogFrame.free {s t : State} (h : LogFrame s t) : t.free = s.free := by obtain ⟨_, _, _, _, _, rfl⟩ := h; rfl
theorem LogFrame.pageOwner {s t : State} (h : LogFrame s t) : t.pageOwner = s.pageOwner := by obtain ⟨_, _, _, _, _, rfl⟩ := h; rfl
theorem LogFrame.pond {s t : State} (h : LogFrame s t) : t.pond = s.pond := by obtain ⟨_, _, _, _, _, rfl⟩ := h; rfl
theorem LogFrame.poison {s t : State} (h : LogFrame s t) : t.poison = s.poison := by obtain ⟨_, _, _, _, _, rfl⟩ := h; rfl
theorem LogFrame.admq {s t : State} (h : LogFrame s t) : t.admq = s.admq := by obtain ⟨_, _, _, _, _, rfl⟩ := h; rfl
theorem LogFrame.admNext {s t : State} (h : LogFrame s t) : t.admNext = s.admNext := by obtain ⟨_, _, _, _, _, rfl⟩ := h; rfl
theorem LogFrame.steps {s t : State} (h : LogFrame s t) : t.steps = s.steps := by obtain ⟨_, _, _, _, _, rfl⟩ := h; rfl
theorem LogFrame.aisles {s t : State} (h : LogFrame s t) : t.aisles = s.aisles := by obtain ⟨_, _, _, _, _, rfl⟩ := h; rfl
theorem LogFrame.batches {s t : State} (h : LogFrame s t) : t.batches = s.batches := by obtain ⟨_, _, _, _, _, rfl⟩ := h; rfl
theorem LogFrame.batchNum {s t : State} (h : LogFrame s t) : t.batchNum = s.batchNum := by obtain ⟨_, _, _, _, _, rfl⟩ := h; rfl
theorem LogFrame.fixed {s t : State} (h : LogFrame s t) : t.fixed = s.fixed := by obtain ⟨_, _, _, _, _, rfl⟩ := h; rfl
theorem LogFrame.wks {s t : State} (h : LogFrame s t) : t.wks = s.wks := by obtain ⟨_, _, _, _, _, rfl⟩ := h; rfl
theorem LogFrame.cc {s t : State} (h : LogFrame s t) : t.cc = s.cc := by obtain ⟨_, _, _, _, _, rfl⟩ := h; rfl
theorem LogFrame.masks {s t : State} (h : LogFrame s t) : t.masks = s.masks := by obtain ⟨_, _, _, _, _, rfl⟩ := h; rfl
theorem LogFrame.adps {s t : State} (h : LogFrame s t) : t.adps = s.adps := by obtain ⟨_, _, _, _, _, rfl⟩ := h; rfl
theorem LogFrame.adpFetch {s t : State} (h : LogFrame s t) : t.adpFetch = s.adpFetch := by obtain ⟨_, _, _, _, _, rfl⟩ := h; rfl
theorem LogFrame.adpPages {s t : State} (h : LogFrame s t) : t.adpPages = s.adpPages := by obtain ⟨_, _, _, _, _, rfl⟩ := h; rfl
theorem LogFrame.pinPages {s t : State} (h : LogFrame s t) : t.pinPages = s.pinPages := by obtain ⟨_, _, _, _, _, rfl⟩ := h; rfl
theorem LogFrame.nmc {s t : State} (h : LogFrame s t) : t.nmc = s.nmc := by obtain ⟨_, _, _, _, _, rfl⟩ := h; rfl
theorem LogFrame.secm {s t : State} (h : LogFrame s t) : t.secm = s.secm := by obtain ⟨_, _, _, _, _, rfl⟩ := h; rfl
theorem LogFrame.img {s t : State} (h : LogFrame s t) : t.img = s.img := by obtain ⟨_, _, _, _, _, rfl⟩ := h; rfl
theorem LogFrame.heldAcc {s t : State} (h : LogFrame s t) : t.heldAcc = s.heldAcc := by obtain ⟨_, _, _, _, _, rfl⟩ := h; rfl
theorem LogFrame.freshN {s t : State} (h : LogFrame s t) : t.freshN = s.freshN := by obtain ⟨_, _, _, _, _, rfl⟩ := h; rfl
theorem LogFrame.pending {s t : State} (h : LogFrame s t) : t.pending = s.pending := by obtain ⟨_, _, _, _, _, rfl⟩ := h; rfl
theorem LogFrame.spg_ops {s t : State} (h : LogFrame s t) : t.spg.ops = s.spg.ops := by obtain ⟨_, _, _, _, _, rfl⟩ := h; rfl
theorem LogFrame.spg_map {s t : State} (h : LogFrame s t) : t.spg.map = s.spg.map := by obtain ⟨_, _, _, _, _, rfl⟩ := h; rfl
theorem LogFrame.spg_rules {s t : State} (h : LogFrame s t) : t.spg.rules = s.spg.rules := by obtain ⟨_, _, _, _, _, rfl⟩ := h; rfl
theorem LogFrame.spg_keys {s t : State} (h : LogFrame s t) : t.spg.keys = s.spg.keys := by obtain ⟨_, _, _, _, _, rfl⟩ := h; rfl
theorem LogFrame.spg_buf {s t : State} (h : LogFrame s t) : t.spg.buf = s.spg.buf := by obtain ⟨_, _, _, _, _, rfl⟩ := h; rfl
theorem LogFrame.spg_ports {s t : State} (h : LogFrame s t) : t.spg.ports = s.spg.ports := by obtain ⟨_, _, _, _, _, rfl⟩ := h; rfl
theorem LogFrame.spg_tmpls {s t : State} (h : LogFrame s t) : t.spg.tmpls = s.spg.tmpls := by obtain ⟨_, _, _, _, _, rfl⟩ := h; rfl
theorem LogFrame.spg_emap {s t : State} (h : LogFrame s t) : t.spg.emap = s.spg.emap := by obtain ⟨_, _, _, _, _, rfl⟩ := h; rfl
theorem LogFrame.spg_leases {s t : State} (h : LogFrame s t) : t.spg.leases = s.spg.leases := by obtain ⟨_, _, _, _, _, rfl⟩ := h; rfl
theorem LogFrame.spg_load {s t : State} (h : LogFrame s t) : t.spg.load = s.spg.load := by obtain ⟨_, _, _, _, _, rfl⟩ := h; rfl
theorem LogFrame.spg_jobs {s t : State} (h : LogFrame s t) : t.spg.jobs = s.spg.jobs := by obtain ⟨_, _, _, _, _, rfl⟩ := h; rfl
theorem LogFrame.spg_ptp {s t : State} (h : LogFrame s t) : t.spg.ptp = s.spg.ptp := by obtain ⟨_, _, _, _, _, rfl⟩ := h; rfl
theorem LogFrame.spg_ptpNext {s t : State} (h : LogFrame s t) : t.spg.ptpNext = s.spg.ptpNext := by obtain ⟨_, _, _, _, _, rfl⟩ := h; rfl
theorem LogFrame.spg_l1 {s t : State} (h : LogFrame s t) : t.spg.l1 = s.spg.l1 := by obtain ⟨_, _, _, _, _, rfl⟩ := h; rfl
theorem LogFrame.spg_d3 {s t : State} (h : LogFrame s t) : t.spg.d3 = s.spg.d3 := by obtain ⟨_, _, _, _, _, rfl⟩ := h; rfl
theorem LogFrame.spg_jtag {s t : State} (h : LogFrame s t) : t.spg.jtag = s.spg.jtag := by obtain ⟨_, _, _, _, _, rfl⟩ := h; rfl
theorem LogFrame.spg_jtagDr {s t : State} (h : LogFrame s t) : t.spg.jtagDr = s.spg.jtagDr := by obtain ⟨_, _, _, _, _, rfl⟩ := h; rfl

theorem WakeFrame.ft {s t : State} (h : WakeFrame s t) : t.ft = s.ft := by obtain ⟨_, _, _, _, _, _, rfl⟩ := h; rfl
theorem WakeFrame.ccNow {s t : State} (h : WakeFrame s t) : t.ccNow = s.ccNow := by obtain ⟨_, _, _, _, _, _, rfl⟩ := h; rfl
theorem WakeFrame.serial {s t : State} (h : WakeFrame s t) : t.serial = s.serial := by obtain ⟨_, _, _, _, _, _, rfl⟩ := h; rfl
theorem WakeFrame.stepping {s t : State} (h : WakeFrame s t) : t.stepping = s.stepping := by obtain ⟨_, _, _, _, _, _, rfl⟩ := h; rfl
theorem WakeFrame.partX {s t : State} (h : WakeFrame s t) : t.partX = s.partX := by obtain ⟨_, _, _, _, _, _, rfl⟩ := h; rfl
theorem WakeFrame.straps {s t : State} (h : WakeFrame s t) : t.straps = s.straps := by obtain ⟨_, _, _, _, _, _, rfl⟩ := h; rfl
theorem WakeFrame.gpio {s t : State} (h : WakeFrame s t) : t.gpio = s.gpio := by obtain ⟨_, _, _, _, _, _, rfl⟩ := h; rfl
theorem WakeFrame.rst {s t : State} (h : WakeFrame s t) : t.rst = s.rst := by obtain ⟨_, _, _, _, _, _, rfl⟩ := h; rfl
theorem WakeFrame.clk {s t : State} (h : WakeFrame s t) : t.clk = s.clk := by obtain ⟨_, _, _, _, _, _, rfl⟩ := h; rfl
theorem WakeFrame.fab {s t : State} (h : WakeFrame s t) : t.fab = s.fab := by obtain ⟨_, _, _, _, _, _, rfl⟩ := h; rfl
theorem WakeFrame.conf {s t : State} (h : WakeFrame s t) : t.conf = s.conf := by obtain ⟨_, _, _, _, _, _, rfl⟩ := h; rfl
theorem WakeFrame.chans {s t : State} (h : WakeFrame s t) : t.chans = s.chans := by obtain ⟨_, _, _, _, _, _, rfl⟩ := h; rfl
theorem WakeFrame.tills {s t : State} (h : WakeFrame s t) : t.tills = s.tills := by obtain ⟨_, _, _, _, _, _, rfl⟩ := h; rfl
theorem WakeFrame.tillNow {s t : State} (h : WakeFrame s t) : t.tillNow = s.tillNow := by obtain ⟨_, _, _, _, _, _, rfl⟩ := h; rfl
theorem WakeFrame.rings {s t : State} (h : WakeFrame s t) : t.rings = s.rings := by obtain ⟨_, _, _, _, _, _, rfl⟩ := h; rfl
theorem WakeFrame.rtb {s t : State} (h : WakeFrame s t) : t.rtb = s.rtb := by obtain ⟨_, _, _, _, _, _, rfl⟩ := h; rfl
theorem WakeFrame.side {s t : State} (h : WakeFrame s t) : t.side = s.side := by obtain ⟨_, _, _, _, _, _, rfl⟩ := h; rfl
theorem WakeFrame.gens {s t : State} (h : WakeFrame s t) : t.gens = s.gens := by obtain ⟨_, _, _, _, _, _, rfl⟩ := h; rfl
theorem WakeFrame.rtbLatch {s t : State} (h : WakeFrame s t) : t.rtbLatch = s.rtbLatch := by obtain ⟨_, _, _, _, _, _, rfl⟩ := h; rfl
theorem WakeFrame.pairLatch {s t : State} (h : WakeFrame s t) : t.pairLatch = s.pairLatch := by obtain ⟨_, _, _, _, _, _, rfl⟩ := h; rfl
theorem WakeFrame.pfx {s t : State} (h : WakeFrame s t) : t.pfx = s.pfx := by obtain ⟨_, _, _, _, _, _, rfl⟩ := h; rfl
theorem WakeFrame.pfxPages {s t : State} (h : WakeFrame s t) : t.pfxPages = s.pfxPages := by obtain ⟨_, _, _, _, _, _, rfl⟩ := h; rfl
theorem WakeFrame.listPages {s t : State} (h : WakeFrame s t) : t.listPages = s.listPages := by obtain ⟨_, _, _, _, _, _, rfl⟩ := h; rfl
theorem WakeFrame.listBlocks {s t : State} (h : WakeFrame s t) : t.listBlocks = s.listBlocks := by obtain ⟨_, _, _, _, _, _, rfl⟩ := h; rfl
theorem WakeFrame.free {s t : State} (h : WakeFrame s t) : t.free = s.free := by obtain ⟨_, _, _, _, _, _, rfl⟩ := h; rfl
theorem WakeFrame.pageOwner {s t : State} (h : WakeFrame s t) : t.pageOwner = s.pageOwner := by obtain ⟨_, _, _, _, _, _, rfl⟩ := h; rfl
theorem WakeFrame.pond {s t : State} (h : WakeFrame s t) : t.pond = s.pond := by obtain ⟨_, _, _, _, _, _, rfl⟩ := h; rfl
theorem WakeFrame.poison {s t : State} (h : WakeFrame s t) : t.poison = s.poison := by obtain ⟨_, _, _, _, _, _, rfl⟩ := h; rfl
theorem WakeFrame.admq {s t : State} (h : WakeFrame s t) : t.admq = s.admq := by obtain ⟨_, _, _, _, _, _, rfl⟩ := h; rfl
theorem WakeFrame.admNext {s t : State} (h : WakeFrame s t) : t.admNext = s.admNext := by obtain ⟨_, _, _, _, _, _, rfl⟩ := h; rfl
theorem WakeFrame.steps {s t : State} (h : WakeFrame s t) : t.steps = s.steps := by obtain ⟨_, _, _, _, _, _, rfl⟩ := h; rfl
theorem WakeFrame.aisles {s t : State} (h : WakeFrame s t) : t.aisles = s.aisles := by obtain ⟨_, _, _, _, _, _, rfl⟩ := h; rfl
theorem WakeFrame.batches {s t : State} (h : WakeFrame s t) : t.batches = s.batches := by obtain ⟨_, _, _, _, _, _, rfl⟩ := h; rfl
theorem WakeFrame.batchNum {s t : State} (h : WakeFrame s t) : t.batchNum = s.batchNum := by obtain ⟨_, _, _, _, _, _, rfl⟩ := h; rfl
theorem WakeFrame.fixed {s t : State} (h : WakeFrame s t) : t.fixed = s.fixed := by obtain ⟨_, _, _, _, _, _, rfl⟩ := h; rfl
theorem WakeFrame.wks {s t : State} (h : WakeFrame s t) : t.wks = s.wks := by obtain ⟨_, _, _, _, _, _, rfl⟩ := h; rfl
theorem WakeFrame.cc {s t : State} (h : WakeFrame s t) : t.cc = s.cc := by obtain ⟨_, _, _, _, _, _, rfl⟩ := h; rfl
theorem WakeFrame.masks {s t : State} (h : WakeFrame s t) : t.masks = s.masks := by obtain ⟨_, _, _, _, _, _, rfl⟩ := h; rfl
theorem WakeFrame.adps {s t : State} (h : WakeFrame s t) : t.adps = s.adps := by obtain ⟨_, _, _, _, _, _, rfl⟩ := h; rfl
theorem WakeFrame.adpFetch {s t : State} (h : WakeFrame s t) : t.adpFetch = s.adpFetch := by obtain ⟨_, _, _, _, _, _, rfl⟩ := h; rfl
theorem WakeFrame.adpPages {s t : State} (h : WakeFrame s t) : t.adpPages = s.adpPages := by obtain ⟨_, _, _, _, _, _, rfl⟩ := h; rfl
theorem WakeFrame.pinPages {s t : State} (h : WakeFrame s t) : t.pinPages = s.pinPages := by obtain ⟨_, _, _, _, _, _, rfl⟩ := h; rfl
theorem WakeFrame.nmc {s t : State} (h : WakeFrame s t) : t.nmc = s.nmc := by obtain ⟨_, _, _, _, _, _, rfl⟩ := h; rfl
theorem WakeFrame.secm {s t : State} (h : WakeFrame s t) : t.secm = s.secm := by obtain ⟨_, _, _, _, _, _, rfl⟩ := h; rfl
theorem WakeFrame.img {s t : State} (h : WakeFrame s t) : t.img = s.img := by obtain ⟨_, _, _, _, _, _, rfl⟩ := h; rfl
theorem WakeFrame.heldAcc {s t : State} (h : WakeFrame s t) : t.heldAcc = s.heldAcc := by obtain ⟨_, _, _, _, _, _, rfl⟩ := h; rfl
theorem WakeFrame.freshN {s t : State} (h : WakeFrame s t) : t.freshN = s.freshN := by obtain ⟨_, _, _, _, _, _, rfl⟩ := h; rfl
theorem WakeFrame.pending {s t : State} (h : WakeFrame s t) : t.pending = s.pending := by obtain ⟨_, _, _, _, _, _, rfl⟩ := h; rfl
theorem WakeFrame.spg_ops {s t : State} (h : WakeFrame s t) : t.spg.ops = s.spg.ops := by obtain ⟨_, _, _, _, _, _, rfl⟩ := h; rfl
theorem WakeFrame.spg_map {s t : State} (h : WakeFrame s t) : t.spg.map = s.spg.map := by obtain ⟨_, _, _, _, _, _, rfl⟩ := h; rfl
theorem WakeFrame.spg_rules {s t : State} (h : WakeFrame s t) : t.spg.rules = s.spg.rules := by obtain ⟨_, _, _, _, _, _, rfl⟩ := h; rfl
theorem WakeFrame.spg_keys {s t : State} (h : WakeFrame s t) : t.spg.keys = s.spg.keys := by obtain ⟨_, _, _, _, _, _, rfl⟩ := h; rfl
theorem WakeFrame.spg_buf {s t : State} (h : WakeFrame s t) : t.spg.buf = s.spg.buf := by obtain ⟨_, _, _, _, _, _, rfl⟩ := h; rfl
theorem WakeFrame.spg_ports {s t : State} (h : WakeFrame s t) : t.spg.ports = s.spg.ports := by obtain ⟨_, _, _, _, _, _, rfl⟩ := h; rfl
theorem WakeFrame.spg_tmpls {s t : State} (h : WakeFrame s t) : t.spg.tmpls = s.spg.tmpls := by obtain ⟨_, _, _, _, _, _, rfl⟩ := h; rfl
theorem WakeFrame.spg_emap {s t : State} (h : WakeFrame s t) : t.spg.emap = s.spg.emap := by obtain ⟨_, _, _, _, _, _, rfl⟩ := h; rfl
theorem WakeFrame.spg_leases {s t : State} (h : WakeFrame s t) : t.spg.leases = s.spg.leases := by obtain ⟨_, _, _, _, _, _, rfl⟩ := h; rfl
theorem WakeFrame.spg_load {s t : State} (h : WakeFrame s t) : t.spg.load = s.spg.load := by obtain ⟨_, _, _, _, _, _, rfl⟩ := h; rfl
theorem WakeFrame.spg_jobs {s t : State} (h : WakeFrame s t) : t.spg.jobs = s.spg.jobs := by obtain ⟨_, _, _, _, _, _, rfl⟩ := h; rfl
theorem WakeFrame.spg_ptp {s t : State} (h : WakeFrame s t) : t.spg.ptp = s.spg.ptp := by obtain ⟨_, _, _, _, _, _, rfl⟩ := h; rfl
theorem WakeFrame.spg_ptpNext {s t : State} (h : WakeFrame s t) : t.spg.ptpNext = s.spg.ptpNext := by obtain ⟨_, _, _, _, _, _, rfl⟩ := h; rfl
theorem WakeFrame.spg_l1 {s t : State} (h : WakeFrame s t) : t.spg.l1 = s.spg.l1 := by obtain ⟨_, _, _, _, _, _, rfl⟩ := h; rfl
theorem WakeFrame.spg_d3 {s t : State} (h : WakeFrame s t) : t.spg.d3 = s.spg.d3 := by obtain ⟨_, _, _, _, _, _, rfl⟩ := h; rfl
theorem WakeFrame.spg_jtag {s t : State} (h : WakeFrame s t) : t.spg.jtag = s.spg.jtag := by obtain ⟨_, _, _, _, _, _, rfl⟩ := h; rfl
theorem WakeFrame.spg_jtagDr {s t : State} (h : WakeFrame s t) : t.spg.jtagDr = s.spg.jtagDr := by obtain ⟨_, _, _, _, _, _, rfl⟩ := h; rfl

/-! ### emit -/

@[simp] theorem emit_ft {e} : (emit e s).ft = s.ft := frame_emit.ft
@[simp] theorem emit_ccNow {e} : (emit e s).ccNow = s.ccNow := frame_emit.ccNow
@[simp] theorem emit_serial {e} : (emit e s).serial = s.serial := frame_emit.serial
@[simp] theorem emit_stepping {e} : (emit e s).stepping = s.stepping := frame_emit.stepping
@[simp] theorem emit_partX {e} : (emit e s).partX = s.partX := frame_emit.partX
@[simp] theorem emit_straps {e} : (emit e s).straps = s.straps := frame_emit.straps
@[simp] theorem emit_gpio {e} : (emit e s).gpio = s.gpio := frame_emit.gpio
@[simp] theorem emit_rst {e} : (emit e s).rst = s.rst := frame_emit.rst
@[simp] theorem emit_doms {e} : (emit e s).doms = s.doms := frame_emit.doms
@[simp] theorem emit_clk {e} : (emit e s).clk = s.clk := frame_emit.clk
@[simp] theorem emit_fab {e} : (emit e s).fab = s.fab := frame_emit.fab
@[simp] theorem emit_conf {e} : (emit e s).conf = s.conf := frame_emit.conf
@[simp] theorem emit_chans {e} : (emit e s).chans = s.chans := frame_emit.chans
@[simp] theorem emit_tills {e} : (emit e s).tills = s.tills := frame_emit.tills
@[simp] theorem emit_tillNow {e} : (emit e s).tillNow = s.tillNow := frame_emit.tillNow
@[simp] theorem emit_rings {e} : (emit e s).rings = s.rings := frame_emit.rings
@[simp] theorem emit_rtb {e} : (emit e s).rtb = s.rtb := frame_emit.rtb
@[simp] theorem emit_side {e} : (emit e s).side = s.side := frame_emit.side
@[simp] theorem emit_gens {e} : (emit e s).gens = s.gens := frame_emit.gens
@[simp] theorem emit_rtbLatch {e} : (emit e s).rtbLatch = s.rtbLatch := frame_emit.rtbLatch
@[simp] theorem emit_pairLatch {e} : (emit e s).pairLatch = s.pairLatch := frame_emit.pairLatch
@[simp] theorem emit_pfx {e} : (emit e s).pfx = s.pfx := frame_emit.pfx
@[simp] theorem emit_pfxPages {e} : (emit e s).pfxPages = s.pfxPages := frame_emit.pfxPages
@[simp] theorem emit_listPages {e} : (emit e s).listPages = s.listPages := frame_emit.listPages
@[simp] theorem emit_listBlocks {e} : (emit e s).listBlocks = s.listBlocks := frame_emit.listBlocks
@[simp] theorem emit_free {e} : (emit e s).free = s.free := frame_emit.free
@[simp] theorem emit_pageOwner {e} : (emit e s).pageOwner = s.pageOwner := frame_emit.pageOwner
@[simp] theorem emit_pond {e} : (emit e s).pond = s.pond := frame_emit.pond
@[simp] theorem emit_poison {e} : (emit e s).poison = s.poison := frame_emit.poison
@[simp] theorem emit_admq {e} : (emit e s).admq = s.admq := frame_emit.admq
@[simp] theorem emit_admNext {e} : (emit e s).admNext = s.admNext := frame_emit.admNext
@[simp] theorem emit_steps {e} : (emit e s).steps = s.steps := frame_emit.steps
@[simp] theorem emit_aisles {e} : (emit e s).aisles = s.aisles := frame_emit.aisles
@[simp] theorem emit_batches {e} : (emit e s).batches = s.batches := frame_emit.batches
@[simp] theorem emit_batchNum {e} : (emit e s).batchNum = s.batchNum := frame_emit.batchNum
@[simp] theorem emit_fixed {e} : (emit e s).fixed = s.fixed := frame_emit.fixed
@[simp] theorem emit_wks {e} : (emit e s).wks = s.wks := frame_emit.wks
@[simp] theorem emit_cc {e} : (emit e s).cc = s.cc := frame_emit.cc
@[simp] theorem emit_masks {e} : (emit e s).masks = s.masks := frame_emit.masks
@[simp] theorem emit_adps {e} : (emit e s).adps = s.adps := frame_emit.adps
@[simp] theorem emit_adpFetch {e} : (emit e s).adpFetch = s.adpFetch := frame_emit.adpFetch
@[simp] theorem emit_adpPages {e} : (emit e s).adpPages = s.adpPages := frame_emit.adpPages
@[simp] theorem emit_pinPages {e} : (emit e s).pinPages = s.pinPages := frame_emit.pinPages
@[simp] theorem emit_nmc {e} : (emit e s).nmc = s.nmc := frame_emit.nmc
@[simp] theorem emit_secm {e} : (emit e s).secm = s.secm := frame_emit.secm
@[simp] theorem emit_img {e} : (emit e s).img = s.img := frame_emit.img
@[simp] theorem emit_heldAcc {e} : (emit e s).heldAcc = s.heldAcc := frame_emit.heldAcc
@[simp] theorem emit_freshN {e} : (emit e s).freshN = s.freshN := frame_emit.freshN
@[simp] theorem emit_pending {e} : (emit e s).pending = s.pending := frame_emit.pending
@[simp] theorem emit_spg_ops {e} : (emit e s).spg.ops = s.spg.ops := frame_emit.spg_ops
@[simp] theorem emit_spg_map {e} : (emit e s).spg.map = s.spg.map := frame_emit.spg_map
@[simp] theorem emit_spg_rules {e} : (emit e s).spg.rules = s.spg.rules := frame_emit.spg_rules
@[simp] theorem emit_spg_keys {e} : (emit e s).spg.keys = s.spg.keys := frame_emit.spg_keys
@[simp] theorem emit_spg_buf {e} : (emit e s).spg.buf = s.spg.buf := frame_emit.spg_buf
@[simp] theorem emit_spg_ports {e} : (emit e s).spg.ports = s.spg.ports := frame_emit.spg_ports
@[simp] theorem emit_spg_tmpls {e} : (emit e s).spg.tmpls = s.spg.tmpls := frame_emit.spg_tmpls
@[simp] theorem emit_spg_emap {e} : (emit e s).spg.emap = s.spg.emap := frame_emit.spg_emap
@[simp] theorem emit_spg_leases {e} : (emit e s).spg.leases = s.spg.leases := frame_emit.spg_leases
@[simp] theorem emit_spg_load {e} : (emit e s).spg.load = s.spg.load := frame_emit.spg_load
@[simp] theorem emit_spg_jobs {e} : (emit e s).spg.jobs = s.spg.jobs := frame_emit.spg_jobs
@[simp] theorem emit_spg_ptp {e} : (emit e s).spg.ptp = s.spg.ptp := frame_emit.spg_ptp
@[simp] theorem emit_spg_ptpNext {e} : (emit e s).spg.ptpNext = s.spg.ptpNext := frame_emit.spg_ptpNext
@[simp] theorem emit_spg_l1 {e} : (emit e s).spg.l1 = s.spg.l1 := frame_emit.spg_l1
@[simp] theorem emit_spg_d3 {e} : (emit e s).spg.d3 = s.spg.d3 := frame_emit.spg_d3
@[simp] theorem emit_spg_jtag {e} : (emit e s).spg.jtag = s.spg.jtag := frame_emit.spg_jtag
@[simp] theorem emit_spg_jtagDr {e} : (emit e s).spg.jtagDr = s.spg.jtagDr := frame_emit.spg_jtagDr

/-! ### devEvent -/

@[simp] theorem devEvent_ft {n} : (devEvent n s).ft = s.ft := frame_devEvent.ft
@[simp] theorem devEvent_ccNow {n} : (devEvent n s).ccNow = s.ccNow := frame_devEvent.ccNow
@[simp] theorem devEvent_serial {n} : (devEvent n s).serial = s.serial := frame_devEvent.serial
@[simp] theorem devEvent_stepping {n} : (devEvent n s).stepping = s.stepping := frame_devEvent.stepping
@[simp] theorem devEvent_partX {n} : (devEvent n s).partX = s.partX := frame_devEvent.partX
@[simp] theorem devEvent_straps {n} : (devEvent n s).straps = s.straps := frame_devEvent.straps
@[simp] theorem devEvent_gpio {n} : (devEvent n s).gpio = s.gpio := frame_devEvent.gpio
@[simp] theorem devEvent_rst {n} : (devEvent n s).rst = s.rst := frame_devEvent.rst
@[simp] theorem devEvent_doms {n} : (devEvent n s).doms = s.doms := frame_devEvent.doms
@[simp] theorem devEvent_clk {n} : (devEvent n s).clk = s.clk := frame_devEvent.clk
@[simp] theorem devEvent_fab {n} : (devEvent n s).fab = s.fab := frame_devEvent.fab
@[simp] theorem devEvent_conf {n} : (devEvent n s).conf = s.conf := frame_devEvent.conf
@[simp] theorem devEvent_chans {n} : (devEvent n s).chans = s.chans := frame_devEvent.chans
@[simp] theorem devEvent_tills {n} : (devEvent n s).tills = s.tills := frame_devEvent.tills
@[simp] theorem devEvent_tillNow {n} : (devEvent n s).tillNow = s.tillNow := frame_devEvent.tillNow
@[simp] theorem devEvent_rings {n} : (devEvent n s).rings = s.rings := frame_devEvent.rings
@[simp] theorem devEvent_rtb {n} : (devEvent n s).rtb = s.rtb := frame_devEvent.rtb
@[simp] theorem devEvent_side {n} : (devEvent n s).side = s.side := frame_devEvent.side
@[simp] theorem devEvent_gens {n} : (devEvent n s).gens = s.gens := frame_devEvent.gens
@[simp] theorem devEvent_rtbLatch {n} : (devEvent n s).rtbLatch = s.rtbLatch := frame_devEvent.rtbLatch
@[simp] theorem devEvent_pairLatch {n} : (devEvent n s).pairLatch = s.pairLatch := frame_devEvent.pairLatch
@[simp] theorem devEvent_pfx {n} : (devEvent n s).pfx = s.pfx := frame_devEvent.pfx
@[simp] theorem devEvent_pfxPages {n} : (devEvent n s).pfxPages = s.pfxPages := frame_devEvent.pfxPages
@[simp] theorem devEvent_listPages {n} : (devEvent n s).listPages = s.listPages := frame_devEvent.listPages
@[simp] theorem devEvent_listBlocks {n} : (devEvent n s).listBlocks = s.listBlocks := frame_devEvent.listBlocks
@[simp] theorem devEvent_free {n} : (devEvent n s).free = s.free := frame_devEvent.free
@[simp] theorem devEvent_pageOwner {n} : (devEvent n s).pageOwner = s.pageOwner := frame_devEvent.pageOwner
@[simp] theorem devEvent_pond {n} : (devEvent n s).pond = s.pond := frame_devEvent.pond
@[simp] theorem devEvent_poison {n} : (devEvent n s).poison = s.poison := frame_devEvent.poison
@[simp] theorem devEvent_admq {n} : (devEvent n s).admq = s.admq := frame_devEvent.admq
@[simp] theorem devEvent_admNext {n} : (devEvent n s).admNext = s.admNext := frame_devEvent.admNext
@[simp] theorem devEvent_steps {n} : (devEvent n s).steps = s.steps := frame_devEvent.steps
@[simp] theorem devEvent_aisles {n} : (devEvent n s).aisles = s.aisles := frame_devEvent.aisles
@[simp] theorem devEvent_batches {n} : (devEvent n s).batches = s.batches := frame_devEvent.batches
@[simp] theorem devEvent_batchNum {n} : (devEvent n s).batchNum = s.batchNum := frame_devEvent.batchNum
@[simp] theorem devEvent_fixed {n} : (devEvent n s).fixed = s.fixed := frame_devEvent.fixed
@[simp] theorem devEvent_wks {n} : (devEvent n s).wks = s.wks := frame_devEvent.wks
@[simp] theorem devEvent_cc {n} : (devEvent n s).cc = s.cc := frame_devEvent.cc
@[simp] theorem devEvent_masks {n} : (devEvent n s).masks = s.masks := frame_devEvent.masks
@[simp] theorem devEvent_adps {n} : (devEvent n s).adps = s.adps := frame_devEvent.adps
@[simp] theorem devEvent_adpFetch {n} : (devEvent n s).adpFetch = s.adpFetch := frame_devEvent.adpFetch
@[simp] theorem devEvent_adpPages {n} : (devEvent n s).adpPages = s.adpPages := frame_devEvent.adpPages
@[simp] theorem devEvent_pinPages {n} : (devEvent n s).pinPages = s.pinPages := frame_devEvent.pinPages
@[simp] theorem devEvent_nmc {n} : (devEvent n s).nmc = s.nmc := frame_devEvent.nmc
@[simp] theorem devEvent_secm {n} : (devEvent n s).secm = s.secm := frame_devEvent.secm
@[simp] theorem devEvent_img {n} : (devEvent n s).img = s.img := frame_devEvent.img
@[simp] theorem devEvent_heldAcc {n} : (devEvent n s).heldAcc = s.heldAcc := frame_devEvent.heldAcc
@[simp] theorem devEvent_freshN {n} : (devEvent n s).freshN = s.freshN := frame_devEvent.freshN
@[simp] theorem devEvent_pending {n} : (devEvent n s).pending = s.pending := frame_devEvent.pending
@[simp] theorem devEvent_spg_ops {n} : (devEvent n s).spg.ops = s.spg.ops := frame_devEvent.spg_ops
@[simp] theorem devEvent_spg_map {n} : (devEvent n s).spg.map = s.spg.map := frame_devEvent.spg_map
@[simp] theorem devEvent_spg_rules {n} : (devEvent n s).spg.rules = s.spg.rules := frame_devEvent.spg_rules
@[simp] theorem devEvent_spg_keys {n} : (devEvent n s).spg.keys = s.spg.keys := frame_devEvent.spg_keys
@[simp] theorem devEvent_spg_buf {n} : (devEvent n s).spg.buf = s.spg.buf := frame_devEvent.spg_buf
@[simp] theorem devEvent_spg_ports {n} : (devEvent n s).spg.ports = s.spg.ports := frame_devEvent.spg_ports
@[simp] theorem devEvent_spg_tmpls {n} : (devEvent n s).spg.tmpls = s.spg.tmpls := frame_devEvent.spg_tmpls
@[simp] theorem devEvent_spg_emap {n} : (devEvent n s).spg.emap = s.spg.emap := frame_devEvent.spg_emap
@[simp] theorem devEvent_spg_leases {n} : (devEvent n s).spg.leases = s.spg.leases := frame_devEvent.spg_leases
@[simp] theorem devEvent_spg_load {n} : (devEvent n s).spg.load = s.spg.load := frame_devEvent.spg_load
@[simp] theorem devEvent_spg_jobs {n} : (devEvent n s).spg.jobs = s.spg.jobs := frame_devEvent.spg_jobs
@[simp] theorem devEvent_spg_ptp {n} : (devEvent n s).spg.ptp = s.spg.ptp := frame_devEvent.spg_ptp
@[simp] theorem devEvent_spg_ptpNext {n} : (devEvent n s).spg.ptpNext = s.spg.ptpNext := frame_devEvent.spg_ptpNext
@[simp] theorem devEvent_spg_l1 {n} : (devEvent n s).spg.l1 = s.spg.l1 := frame_devEvent.spg_l1
@[simp] theorem devEvent_spg_d3 {n} : (devEvent n s).spg.d3 = s.spg.d3 := frame_devEvent.spg_d3
@[simp] theorem devEvent_spg_jtag {n} : (devEvent n s).spg.jtag = s.spg.jtag := frame_devEvent.spg_jtag
@[simp] theorem devEvent_spg_jtagDr {n} : (devEvent n s).spg.jtagDr = s.spg.jtagDr := frame_devEvent.spg_jtagDr

/-! ### log1 -/

@[simp] theorem log1_ft {c st a} : ((log1 c st a s).1).ft = s.ft := frame_log1.ft
@[simp] theorem log1_ccNow {c st a} : ((log1 c st a s).1).ccNow = s.ccNow := frame_log1.ccNow
@[simp] theorem log1_serial {c st a} : ((log1 c st a s).1).serial = s.serial := frame_log1.serial
@[simp] theorem log1_stepping {c st a} : ((log1 c st a s).1).stepping = s.stepping := frame_log1.stepping
@[simp] theorem log1_partX {c st a} : ((log1 c st a s).1).partX = s.partX := frame_log1.partX
@[simp] theorem log1_straps {c st a} : ((log1 c st a s).1).straps = s.straps := frame_log1.straps
@[simp] theorem log1_gpio {c st a} : ((log1 c st a s).1).gpio = s.gpio := frame_log1.gpio
@[simp] theorem log1_rst {c st a} : ((log1 c st a s).1).rst = s.rst := frame_log1.rst
@[simp] theorem log1_doms {c st a} : ((log1 c st a s).1).doms = s.doms := frame_log1.doms
@[simp] theorem log1_clk {c st a} : ((log1 c st a s).1).clk = s.clk := frame_log1.clk
@[simp] theorem log1_fab {c st a} : ((log1 c st a s).1).fab = s.fab := frame_log1.fab
@[simp] theorem log1_conf {c st a} : ((log1 c st a s).1).conf = s.conf := frame_log1.conf
@[simp] theorem log1_chans {c st a} : ((log1 c st a s).1).chans = s.chans := frame_log1.chans
@[simp] theorem log1_tills {c st a} : ((log1 c st a s).1).tills = s.tills := frame_log1.tills
@[simp] theorem log1_tillNow {c st a} : ((log1 c st a s).1).tillNow = s.tillNow := frame_log1.tillNow
@[simp] theorem log1_rings {c st a} : ((log1 c st a s).1).rings = s.rings := frame_log1.rings
@[simp] theorem log1_rtb {c st a} : ((log1 c st a s).1).rtb = s.rtb := frame_log1.rtb
@[simp] theorem log1_side {c st a} : ((log1 c st a s).1).side = s.side := frame_log1.side
@[simp] theorem log1_gens {c st a} : ((log1 c st a s).1).gens = s.gens := frame_log1.gens
@[simp] theorem log1_rtbLatch {c st a} : ((log1 c st a s).1).rtbLatch = s.rtbLatch := frame_log1.rtbLatch
@[simp] theorem log1_pairLatch {c st a} : ((log1 c st a s).1).pairLatch = s.pairLatch := frame_log1.pairLatch
@[simp] theorem log1_pfx {c st a} : ((log1 c st a s).1).pfx = s.pfx := frame_log1.pfx
@[simp] theorem log1_pfxPages {c st a} : ((log1 c st a s).1).pfxPages = s.pfxPages := frame_log1.pfxPages
@[simp] theorem log1_listPages {c st a} : ((log1 c st a s).1).listPages = s.listPages := frame_log1.listPages
@[simp] theorem log1_listBlocks {c st a} : ((log1 c st a s).1).listBlocks = s.listBlocks := frame_log1.listBlocks
@[simp] theorem log1_free {c st a} : ((log1 c st a s).1).free = s.free := frame_log1.free
@[simp] theorem log1_pageOwner {c st a} : ((log1 c st a s).1).pageOwner = s.pageOwner := frame_log1.pageOwner
@[simp] theorem log1_pond {c st a} : ((log1 c st a s).1).pond = s.pond := frame_log1.pond
@[simp] theorem log1_poison {c st a} : ((log1 c st a s).1).poison = s.poison := frame_log1.poison
@[simp] theorem log1_admq {c st a} : ((log1 c st a s).1).admq = s.admq := frame_log1.admq
@[simp] theorem log1_admNext {c st a} : ((log1 c st a s).1).admNext = s.admNext := frame_log1.admNext
@[simp] theorem log1_steps {c st a} : ((log1 c st a s).1).steps = s.steps := frame_log1.steps
@[simp] theorem log1_aisles {c st a} : ((log1 c st a s).1).aisles = s.aisles := frame_log1.aisles
@[simp] theorem log1_batches {c st a} : ((log1 c st a s).1).batches = s.batches := frame_log1.batches
@[simp] theorem log1_batchNum {c st a} : ((log1 c st a s).1).batchNum = s.batchNum := frame_log1.batchNum
@[simp] theorem log1_fixed {c st a} : ((log1 c st a s).1).fixed = s.fixed := frame_log1.fixed
@[simp] theorem log1_wks {c st a} : ((log1 c st a s).1).wks = s.wks := frame_log1.wks
@[simp] theorem log1_cc {c st a} : ((log1 c st a s).1).cc = s.cc := frame_log1.cc
@[simp] theorem log1_masks {c st a} : ((log1 c st a s).1).masks = s.masks := frame_log1.masks
@[simp] theorem log1_adps {c st a} : ((log1 c st a s).1).adps = s.adps := frame_log1.adps
@[simp] theorem log1_adpFetch {c st a} : ((log1 c st a s).1).adpFetch = s.adpFetch := frame_log1.adpFetch
@[simp] theorem log1_adpPages {c st a} : ((log1 c st a s).1).adpPages = s.adpPages := frame_log1.adpPages
@[simp] theorem log1_pinPages {c st a} : ((log1 c st a s).1).pinPages = s.pinPages := frame_log1.pinPages
@[simp] theorem log1_nmc {c st a} : ((log1 c st a s).1).nmc = s.nmc := frame_log1.nmc
@[simp] theorem log1_secm {c st a} : ((log1 c st a s).1).secm = s.secm := frame_log1.secm
@[simp] theorem log1_img {c st a} : ((log1 c st a s).1).img = s.img := frame_log1.img
@[simp] theorem log1_heldAcc {c st a} : ((log1 c st a s).1).heldAcc = s.heldAcc := frame_log1.heldAcc
@[simp] theorem log1_freshN {c st a} : ((log1 c st a s).1).freshN = s.freshN := frame_log1.freshN
@[simp] theorem log1_pending {c st a} : ((log1 c st a s).1).pending = s.pending := frame_log1.pending
@[simp] theorem log1_spg_ops {c st a} : ((log1 c st a s).1).spg.ops = s.spg.ops := frame_log1.spg_ops
@[simp] theorem log1_spg_map {c st a} : ((log1 c st a s).1).spg.map = s.spg.map := frame_log1.spg_map
@[simp] theorem log1_spg_rules {c st a} : ((log1 c st a s).1).spg.rules = s.spg.rules := frame_log1.spg_rules
@[simp] theorem log1_spg_keys {c st a} : ((log1 c st a s).1).spg.keys = s.spg.keys := frame_log1.spg_keys
@[simp] theorem log1_spg_buf {c st a} : ((log1 c st a s).1).spg.buf = s.spg.buf := frame_log1.spg_buf
@[simp] theorem log1_spg_ports {c st a} : ((log1 c st a s).1).spg.ports = s.spg.ports := frame_log1.spg_ports
@[simp] theorem log1_spg_tmpls {c st a} : ((log1 c st a s).1).spg.tmpls = s.spg.tmpls := frame_log1.spg_tmpls
@[simp] theorem log1_spg_emap {c st a} : ((log1 c st a s).1).spg.emap = s.spg.emap := frame_log1.spg_emap
@[simp] theorem log1_spg_leases {c st a} : ((log1 c st a s).1).spg.leases = s.spg.leases := frame_log1.spg_leases
@[simp] theorem log1_spg_load {c st a} : ((log1 c st a s).1).spg.load = s.spg.load := frame_log1.spg_load
@[simp] theorem log1_spg_jobs {c st a} : ((log1 c st a s).1).spg.jobs = s.spg.jobs := frame_log1.spg_jobs
@[simp] theorem log1_spg_ptp {c st a} : ((log1 c st a s).1).spg.ptp = s.spg.ptp := frame_log1.spg_ptp
@[simp] theorem log1_spg_ptpNext {c st a} : ((log1 c st a s).1).spg.ptpNext = s.spg.ptpNext := frame_log1.spg_ptpNext
@[simp] theorem log1_spg_l1 {c st a} : ((log1 c st a s).1).spg.l1 = s.spg.l1 := frame_log1.spg_l1
@[simp] theorem log1_spg_d3 {c st a} : ((log1 c st a s).1).spg.d3 = s.spg.d3 := frame_log1.spg_d3
@[simp] theorem log1_spg_jtag {c st a} : ((log1 c st a s).1).spg.jtag = s.spg.jtag := frame_log1.spg_jtag
@[simp] theorem log1_spg_jtagDr {c st a} : ((log1 c st a s).1).spg.jtagDr = s.spg.jtagDr := frame_log1.spg_jtagDr

/-! ### haltRaise -/

@[simp] theorem haltRaise_ft {c} : (haltRaise c s).ft = s.ft := frame_haltRaise.ft
@[simp] theorem haltRaise_ccNow {c} : (haltRaise c s).ccNow = s.ccNow := frame_haltRaise.ccNow
@[simp] theorem haltRaise_serial {c} : (haltRaise c s).serial = s.serial := frame_haltRaise.serial
@[simp] theorem haltRaise_stepping {c} : (haltRaise c s).stepping = s.stepping := frame_haltRaise.stepping
@[simp] theorem haltRaise_partX {c} : (haltRaise c s).partX = s.partX := frame_haltRaise.partX
@[simp] theorem haltRaise_straps {c} : (haltRaise c s).straps = s.straps := frame_haltRaise.straps
@[simp] theorem haltRaise_gpio {c} : (haltRaise c s).gpio = s.gpio := frame_haltRaise.gpio
@[simp] theorem haltRaise_rst {c} : (haltRaise c s).rst = s.rst := frame_haltRaise.rst
@[simp] theorem haltRaise_doms {c} : (haltRaise c s).doms = s.doms := frame_haltRaise.doms
@[simp] theorem haltRaise_clk {c} : (haltRaise c s).clk = s.clk := frame_haltRaise.clk
@[simp] theorem haltRaise_fab {c} : (haltRaise c s).fab = s.fab := frame_haltRaise.fab
@[simp] theorem haltRaise_conf {c} : (haltRaise c s).conf = s.conf := frame_haltRaise.conf
@[simp] theorem haltRaise_chans {c} : (haltRaise c s).chans = s.chans := frame_haltRaise.chans
@[simp] theorem haltRaise_tills {c} : (haltRaise c s).tills = s.tills := frame_haltRaise.tills
@[simp] theorem haltRaise_tillNow {c} : (haltRaise c s).tillNow = s.tillNow := frame_haltRaise.tillNow
@[simp] theorem haltRaise_rings {c} : (haltRaise c s).rings = s.rings := frame_haltRaise.rings
@[simp] theorem haltRaise_rtb {c} : (haltRaise c s).rtb = s.rtb := frame_haltRaise.rtb
@[simp] theorem haltRaise_side {c} : (haltRaise c s).side = s.side := frame_haltRaise.side
@[simp] theorem haltRaise_gens {c} : (haltRaise c s).gens = s.gens := frame_haltRaise.gens
@[simp] theorem haltRaise_rtbLatch {c} : (haltRaise c s).rtbLatch = s.rtbLatch := frame_haltRaise.rtbLatch
@[simp] theorem haltRaise_pairLatch {c} : (haltRaise c s).pairLatch = s.pairLatch := frame_haltRaise.pairLatch
@[simp] theorem haltRaise_pfx {c} : (haltRaise c s).pfx = s.pfx := frame_haltRaise.pfx
@[simp] theorem haltRaise_pfxPages {c} : (haltRaise c s).pfxPages = s.pfxPages := frame_haltRaise.pfxPages
@[simp] theorem haltRaise_listPages {c} : (haltRaise c s).listPages = s.listPages := frame_haltRaise.listPages
@[simp] theorem haltRaise_listBlocks {c} : (haltRaise c s).listBlocks = s.listBlocks := frame_haltRaise.listBlocks
@[simp] theorem haltRaise_free {c} : (haltRaise c s).free = s.free := frame_haltRaise.free
@[simp] theorem haltRaise_pageOwner {c} : (haltRaise c s).pageOwner = s.pageOwner := frame_haltRaise.pageOwner
@[simp] theorem haltRaise_pond {c} : (haltRaise c s).pond = s.pond := frame_haltRaise.pond
@[simp] theorem haltRaise_poison {c} : (haltRaise c s).poison = s.poison := frame_haltRaise.poison
@[simp] theorem haltRaise_admq {c} : (haltRaise c s).admq = s.admq := frame_haltRaise.admq
@[simp] theorem haltRaise_admNext {c} : (haltRaise c s).admNext = s.admNext := frame_haltRaise.admNext
@[simp] theorem haltRaise_steps {c} : (haltRaise c s).steps = s.steps := frame_haltRaise.steps
@[simp] theorem haltRaise_aisles {c} : (haltRaise c s).aisles = s.aisles := frame_haltRaise.aisles
@[simp] theorem haltRaise_batches {c} : (haltRaise c s).batches = s.batches := frame_haltRaise.batches
@[simp] theorem haltRaise_batchNum {c} : (haltRaise c s).batchNum = s.batchNum := frame_haltRaise.batchNum
@[simp] theorem haltRaise_fixed {c} : (haltRaise c s).fixed = s.fixed := frame_haltRaise.fixed
@[simp] theorem haltRaise_wks {c} : (haltRaise c s).wks = s.wks := frame_haltRaise.wks
@[simp] theorem haltRaise_cc {c} : (haltRaise c s).cc = s.cc := frame_haltRaise.cc
@[simp] theorem haltRaise_masks {c} : (haltRaise c s).masks = s.masks := frame_haltRaise.masks
@[simp] theorem haltRaise_adps {c} : (haltRaise c s).adps = s.adps := frame_haltRaise.adps
@[simp] theorem haltRaise_adpFetch {c} : (haltRaise c s).adpFetch = s.adpFetch := frame_haltRaise.adpFetch
@[simp] theorem haltRaise_adpPages {c} : (haltRaise c s).adpPages = s.adpPages := frame_haltRaise.adpPages
@[simp] theorem haltRaise_pinPages {c} : (haltRaise c s).pinPages = s.pinPages := frame_haltRaise.pinPages
@[simp] theorem haltRaise_nmc {c} : (haltRaise c s).nmc = s.nmc := frame_haltRaise.nmc
@[simp] theorem haltRaise_secm {c} : (haltRaise c s).secm = s.secm := frame_haltRaise.secm
@[simp] theorem haltRaise_img {c} : (haltRaise c s).img = s.img := frame_haltRaise.img
@[simp] theorem haltRaise_heldAcc {c} : (haltRaise c s).heldAcc = s.heldAcc := frame_haltRaise.heldAcc
@[simp] theorem haltRaise_freshN {c} : (haltRaise c s).freshN = s.freshN := frame_haltRaise.freshN
@[simp] theorem haltRaise_pending {c} : (haltRaise c s).pending = s.pending := frame_haltRaise.pending
@[simp] theorem haltRaise_spg_ops {c} : (haltRaise c s).spg.ops = s.spg.ops := frame_haltRaise.spg_ops
@[simp] theorem haltRaise_spg_map {c} : (haltRaise c s).spg.map = s.spg.map := frame_haltRaise.spg_map
@[simp] theorem haltRaise_spg_rules {c} : (haltRaise c s).spg.rules = s.spg.rules := frame_haltRaise.spg_rules
@[simp] theorem haltRaise_spg_keys {c} : (haltRaise c s).spg.keys = s.spg.keys := frame_haltRaise.spg_keys
@[simp] theorem haltRaise_spg_buf {c} : (haltRaise c s).spg.buf = s.spg.buf := frame_haltRaise.spg_buf
@[simp] theorem haltRaise_spg_ports {c} : (haltRaise c s).spg.ports = s.spg.ports := frame_haltRaise.spg_ports
@[simp] theorem haltRaise_spg_tmpls {c} : (haltRaise c s).spg.tmpls = s.spg.tmpls := frame_haltRaise.spg_tmpls
@[simp] theorem haltRaise_spg_emap {c} : (haltRaise c s).spg.emap = s.spg.emap := frame_haltRaise.spg_emap
@[simp] theorem haltRaise_spg_leases {c} : (haltRaise c s).spg.leases = s.spg.leases := frame_haltRaise.spg_leases
@[simp] theorem haltRaise_spg_load {c} : (haltRaise c s).spg.load = s.spg.load := frame_haltRaise.spg_load
@[simp] theorem haltRaise_spg_jobs {c} : (haltRaise c s).spg.jobs = s.spg.jobs := frame_haltRaise.spg_jobs
@[simp] theorem haltRaise_spg_ptp {c} : (haltRaise c s).spg.ptp = s.spg.ptp := frame_haltRaise.spg_ptp
@[simp] theorem haltRaise_spg_ptpNext {c} : (haltRaise c s).spg.ptpNext = s.spg.ptpNext := frame_haltRaise.spg_ptpNext
@[simp] theorem haltRaise_spg_l1 {c} : (haltRaise c s).spg.l1 = s.spg.l1 := frame_haltRaise.spg_l1
@[simp] theorem haltRaise_spg_d3 {c} : (haltRaise c s).spg.d3 = s.spg.d3 := frame_haltRaise.spg_d3
@[simp] theorem haltRaise_spg_jtag {c} : (haltRaise c s).spg.jtag = s.spg.jtag := frame_haltRaise.spg_jtag
@[simp] theorem haltRaise_spg_jtagDr {c} : (haltRaise c s).spg.jtagDr = s.spg.jtagDr := frame_haltRaise.spg_jtagDr

/-! ### logEv -/

@[simp] theorem logEv_ft {c st a} : (logEv c st a s).ft = s.ft := frame_logEv.ft
@[simp] theorem logEv_ccNow {c st a} : (logEv c st a s).ccNow = s.ccNow := frame_logEv.ccNow
@[simp] theorem logEv_serial {c st a} : (logEv c st a s).serial = s.serial := frame_logEv.serial
@[simp] theorem logEv_stepping {c st a} : (logEv c st a s).stepping = s.stepping := frame_logEv.stepping
@[simp] theorem logEv_partX {c st a} : (logEv c st a s).partX = s.partX := frame_logEv.partX
@[simp] theorem logEv_straps {c st a} : (logEv c st a s).straps = s.straps := frame_logEv.straps
@[simp] theorem logEv_gpio {c st a} : (logEv c st a s).gpio = s.gpio := frame_logEv.gpio
@[simp] theorem logEv_rst {c st a} : (logEv c st a s).rst = s.rst := frame_logEv.rst
@[simp] theorem logEv_doms {c st a} : (logEv c st a s).doms = s.doms := frame_logEv.doms
@[simp] theorem logEv_clk {c st a} : (logEv c st a s).clk = s.clk := frame_logEv.clk
@[simp] theorem logEv_fab {c st a} : (logEv c st a s).fab = s.fab := frame_logEv.fab
@[simp] theorem logEv_conf {c st a} : (logEv c st a s).conf = s.conf := frame_logEv.conf
@[simp] theorem logEv_chans {c st a} : (logEv c st a s).chans = s.chans := frame_logEv.chans
@[simp] theorem logEv_tills {c st a} : (logEv c st a s).tills = s.tills := frame_logEv.tills
@[simp] theorem logEv_tillNow {c st a} : (logEv c st a s).tillNow = s.tillNow := frame_logEv.tillNow
@[simp] theorem logEv_rings {c st a} : (logEv c st a s).rings = s.rings := frame_logEv.rings
@[simp] theorem logEv_rtb {c st a} : (logEv c st a s).rtb = s.rtb := frame_logEv.rtb
@[simp] theorem logEv_side {c st a} : (logEv c st a s).side = s.side := frame_logEv.side
@[simp] theorem logEv_gens {c st a} : (logEv c st a s).gens = s.gens := frame_logEv.gens
@[simp] theorem logEv_rtbLatch {c st a} : (logEv c st a s).rtbLatch = s.rtbLatch := frame_logEv.rtbLatch
@[simp] theorem logEv_pairLatch {c st a} : (logEv c st a s).pairLatch = s.pairLatch := frame_logEv.pairLatch
@[simp] theorem logEv_pfx {c st a} : (logEv c st a s).pfx = s.pfx := frame_logEv.pfx
@[simp] theorem logEv_pfxPages {c st a} : (logEv c st a s).pfxPages = s.pfxPages := frame_logEv.pfxPages
@[simp] theorem logEv_listPages {c st a} : (logEv c st a s).listPages = s.listPages := frame_logEv.listPages
@[simp] theorem logEv_listBlocks {c st a} : (logEv c st a s).listBlocks = s.listBlocks := frame_logEv.listBlocks
@[simp] theorem logEv_free {c st a} : (logEv c st a s).free = s.free := frame_logEv.free
@[simp] theorem logEv_pageOwner {c st a} : (logEv c st a s).pageOwner = s.pageOwner := frame_logEv.pageOwner
@[simp] theorem logEv_pond {c st a} : (logEv c st a s).pond = s.pond := frame_logEv.pond
@[simp] theorem logEv_poison {c st a} : (logEv c st a s).poison = s.poison := frame_logEv.poison
@[simp] theorem logEv_admq {c st a} : (logEv c st a s).admq = s.admq := frame_logEv.admq
@[simp] theorem logEv_admNext {c st a} : (logEv c st a s).admNext = s.admNext := frame_logEv.admNext
@[simp] theorem logEv_steps {c st a} : (logEv c st a s).steps = s.steps := frame_logEv.steps
@[simp] theorem logEv_aisles {c st a} : (logEv c st a s).aisles = s.aisles := frame_logEv.aisles
@[simp] theorem logEv_batches {c st a} : (logEv c st a s).batches = s.batches := frame_logEv.batches
@[simp] theorem logEv_batchNum {c st a} : (logEv c st a s).batchNum = s.batchNum := frame_logEv.batchNum
@[simp] theorem logEv_fixed {c st a} : (logEv c st a s).fixed = s.fixed := frame_logEv.fixed
@[simp] theorem logEv_wks {c st a} : (logEv c st a s).wks = s.wks := frame_logEv.wks
@[simp] theorem logEv_cc {c st a} : (logEv c st a s).cc = s.cc := frame_logEv.cc
@[simp] theorem logEv_masks {c st a} : (logEv c st a s).masks = s.masks := frame_logEv.masks
@[simp] theorem logEv_adps {c st a} : (logEv c st a s).adps = s.adps := frame_logEv.adps
@[simp] theorem logEv_adpFetch {c st a} : (logEv c st a s).adpFetch = s.adpFetch := frame_logEv.adpFetch
@[simp] theorem logEv_adpPages {c st a} : (logEv c st a s).adpPages = s.adpPages := frame_logEv.adpPages
@[simp] theorem logEv_pinPages {c st a} : (logEv c st a s).pinPages = s.pinPages := frame_logEv.pinPages
@[simp] theorem logEv_nmc {c st a} : (logEv c st a s).nmc = s.nmc := frame_logEv.nmc
@[simp] theorem logEv_secm {c st a} : (logEv c st a s).secm = s.secm := frame_logEv.secm
@[simp] theorem logEv_img {c st a} : (logEv c st a s).img = s.img := frame_logEv.img
@[simp] theorem logEv_heldAcc {c st a} : (logEv c st a s).heldAcc = s.heldAcc := frame_logEv.heldAcc
@[simp] theorem logEv_freshN {c st a} : (logEv c st a s).freshN = s.freshN := frame_logEv.freshN
@[simp] theorem logEv_pending {c st a} : (logEv c st a s).pending = s.pending := frame_logEv.pending
@[simp] theorem logEv_spg_ops {c st a} : (logEv c st a s).spg.ops = s.spg.ops := frame_logEv.spg_ops
@[simp] theorem logEv_spg_map {c st a} : (logEv c st a s).spg.map = s.spg.map := frame_logEv.spg_map
@[simp] theorem logEv_spg_rules {c st a} : (logEv c st a s).spg.rules = s.spg.rules := frame_logEv.spg_rules
@[simp] theorem logEv_spg_keys {c st a} : (logEv c st a s).spg.keys = s.spg.keys := frame_logEv.spg_keys
@[simp] theorem logEv_spg_buf {c st a} : (logEv c st a s).spg.buf = s.spg.buf := frame_logEv.spg_buf
@[simp] theorem logEv_spg_ports {c st a} : (logEv c st a s).spg.ports = s.spg.ports := frame_logEv.spg_ports
@[simp] theorem logEv_spg_tmpls {c st a} : (logEv c st a s).spg.tmpls = s.spg.tmpls := frame_logEv.spg_tmpls
@[simp] theorem logEv_spg_emap {c st a} : (logEv c st a s).spg.emap = s.spg.emap := frame_logEv.spg_emap
@[simp] theorem logEv_spg_leases {c st a} : (logEv c st a s).spg.leases = s.spg.leases := frame_logEv.spg_leases
@[simp] theorem logEv_spg_load {c st a} : (logEv c st a s).spg.load = s.spg.load := frame_logEv.spg_load
@[simp] theorem logEv_spg_jobs {c st a} : (logEv c st a s).spg.jobs = s.spg.jobs := frame_logEv.spg_jobs
@[simp] theorem logEv_spg_ptp {c st a} : (logEv c st a s).spg.ptp = s.spg.ptp := frame_logEv.spg_ptp
@[simp] theorem logEv_spg_ptpNext {c st a} : (logEv c st a s).spg.ptpNext = s.spg.ptpNext := frame_logEv.spg_ptpNext
@[simp] theorem logEv_spg_l1 {c st a} : (logEv c st a s).spg.l1 = s.spg.l1 := frame_logEv.spg_l1
@[simp] theorem logEv_spg_d3 {c st a} : (logEv c st a s).spg.d3 = s.spg.d3 := frame_logEv.spg_d3
@[simp] theorem logEv_spg_jtag {c st a} : (logEv c st a s).spg.jtag = s.spg.jtag := frame_logEv.spg_jtag
@[simp] theorem logEv_spg_jtagDr {c st a} : (logEv c st a s).spg.jtagDr = s.spg.jtagDr := frame_logEv.spg_jtagDr

/-! ### wakeDom -/

@[simp] theorem wakeDom_ft {d} : (wakeDom d s).ft = s.ft := frame_wakeDom.ft
@[simp] theorem wakeDom_ccNow {d} : (wakeDom d s).ccNow = s.ccNow := frame_wakeDom.ccNow
@[simp] theorem wakeDom_serial {d} : (wakeDom d s).serial = s.serial := frame_wakeDom.serial
@[simp] theorem wakeDom_stepping {d} : (wakeDom d s).stepping = s.stepping := frame_wakeDom.stepping
@[simp] theorem wakeDom_partX {d} : (wakeDom d s).partX = s.partX := frame_wakeDom.partX
@[simp] theorem wakeDom_straps {d} : (wakeDom d s).straps = s.straps := frame_wakeDom.straps
@[simp] theorem wakeDom_gpio {d} : (wakeDom d s).gpio = s.gpio := frame_wakeDom.gpio
@[simp] theorem wakeDom_rst {d} : (wakeDom d s).rst = s.rst := frame_wakeDom.rst
@[simp] theorem wakeDom_clk {d} : (wakeDom d s).clk = s.clk := frame_wakeDom.clk
@[simp] theorem wakeDom_fab {d} : (wakeDom d s).fab = s.fab := frame_wakeDom.fab
@[simp] theorem wakeDom_conf {d} : (wakeDom d s).conf = s.conf := frame_wakeDom.conf
@[simp] theorem wakeDom_chans {d} : (wakeDom d s).chans = s.chans := frame_wakeDom.chans
@[simp] theorem wakeDom_tills {d} : (wakeDom d s).tills = s.tills := frame_wakeDom.tills
@[simp] theorem wakeDom_tillNow {d} : (wakeDom d s).tillNow = s.tillNow := frame_wakeDom.tillNow
@[simp] theorem wakeDom_rings {d} : (wakeDom d s).rings = s.rings := frame_wakeDom.rings
@[simp] theorem wakeDom_rtb {d} : (wakeDom d s).rtb = s.rtb := frame_wakeDom.rtb
@[simp] theorem wakeDom_side {d} : (wakeDom d s).side = s.side := frame_wakeDom.side
@[simp] theorem wakeDom_gens {d} : (wakeDom d s).gens = s.gens := frame_wakeDom.gens
@[simp] theorem wakeDom_rtbLatch {d} : (wakeDom d s).rtbLatch = s.rtbLatch := frame_wakeDom.rtbLatch
@[simp] theorem wakeDom_pairLatch {d} : (wakeDom d s).pairLatch = s.pairLatch := frame_wakeDom.pairLatch
@[simp] theorem wakeDom_pfx {d} : (wakeDom d s).pfx = s.pfx := frame_wakeDom.pfx
@[simp] theorem wakeDom_pfxPages {d} : (wakeDom d s).pfxPages = s.pfxPages := frame_wakeDom.pfxPages
@[simp] theorem wakeDom_listPages {d} : (wakeDom d s).listPages = s.listPages := frame_wakeDom.listPages
@[simp] theorem wakeDom_listBlocks {d} : (wakeDom d s).listBlocks = s.listBlocks := frame_wakeDom.listBlocks
@[simp] theorem wakeDom_free {d} : (wakeDom d s).free = s.free := frame_wakeDom.free
@[simp] theorem wakeDom_pageOwner {d} : (wakeDom d s).pageOwner = s.pageOwner := frame_wakeDom.pageOwner
@[simp] theorem wakeDom_pond {d} : (wakeDom d s).pond = s.pond := frame_wakeDom.pond
@[simp] theorem wakeDom_poison {d} : (wakeDom d s).poison = s.poison := frame_wakeDom.poison
@[simp] theorem wakeDom_admq {d} : (wakeDom d s).admq = s.admq := frame_wakeDom.admq
@[simp] theorem wakeDom_admNext {d} : (wakeDom d s).admNext = s.admNext := frame_wakeDom.admNext
@[simp] theorem wakeDom_steps {d} : (wakeDom d s).steps = s.steps := frame_wakeDom.steps
@[simp] theorem wakeDom_aisles {d} : (wakeDom d s).aisles = s.aisles := frame_wakeDom.aisles
@[simp] theorem wakeDom_batches {d} : (wakeDom d s).batches = s.batches := frame_wakeDom.batches
@[simp] theorem wakeDom_batchNum {d} : (wakeDom d s).batchNum = s.batchNum := frame_wakeDom.batchNum
@[simp] theorem wakeDom_fixed {d} : (wakeDom d s).fixed = s.fixed := frame_wakeDom.fixed
@[simp] theorem wakeDom_wks {d} : (wakeDom d s).wks = s.wks := frame_wakeDom.wks
@[simp] theorem wakeDom_cc {d} : (wakeDom d s).cc = s.cc := frame_wakeDom.cc
@[simp] theorem wakeDom_masks {d} : (wakeDom d s).masks = s.masks := frame_wakeDom.masks
@[simp] theorem wakeDom_adps {d} : (wakeDom d s).adps = s.adps := frame_wakeDom.adps
@[simp] theorem wakeDom_adpFetch {d} : (wakeDom d s).adpFetch = s.adpFetch := frame_wakeDom.adpFetch
@[simp] theorem wakeDom_adpPages {d} : (wakeDom d s).adpPages = s.adpPages := frame_wakeDom.adpPages
@[simp] theorem wakeDom_pinPages {d} : (wakeDom d s).pinPages = s.pinPages := frame_wakeDom.pinPages
@[simp] theorem wakeDom_nmc {d} : (wakeDom d s).nmc = s.nmc := frame_wakeDom.nmc
@[simp] theorem wakeDom_secm {d} : (wakeDom d s).secm = s.secm := frame_wakeDom.secm
@[simp] theorem wakeDom_img {d} : (wakeDom d s).img = s.img := frame_wakeDom.img
@[simp] theorem wakeDom_heldAcc {d} : (wakeDom d s).heldAcc = s.heldAcc := frame_wakeDom.heldAcc
@[simp] theorem wakeDom_freshN {d} : (wakeDom d s).freshN = s.freshN := frame_wakeDom.freshN
@[simp] theorem wakeDom_pending {d} : (wakeDom d s).pending = s.pending := frame_wakeDom.pending
@[simp] theorem wakeDom_spg_ops {d} : (wakeDom d s).spg.ops = s.spg.ops := frame_wakeDom.spg_ops
@[simp] theorem wakeDom_spg_map {d} : (wakeDom d s).spg.map = s.spg.map := frame_wakeDom.spg_map
@[simp] theorem wakeDom_spg_rules {d} : (wakeDom d s).spg.rules = s.spg.rules := frame_wakeDom.spg_rules
@[simp] theorem wakeDom_spg_keys {d} : (wakeDom d s).spg.keys = s.spg.keys := frame_wakeDom.spg_keys
@[simp] theorem wakeDom_spg_buf {d} : (wakeDom d s).spg.buf = s.spg.buf := frame_wakeDom.spg_buf
@[simp] theorem wakeDom_spg_ports {d} : (wakeDom d s).spg.ports = s.spg.ports := frame_wakeDom.spg_ports
@[simp] theorem wakeDom_spg_tmpls {d} : (wakeDom d s).spg.tmpls = s.spg.tmpls := frame_wakeDom.spg_tmpls
@[simp] theorem wakeDom_spg_emap {d} : (wakeDom d s).spg.emap = s.spg.emap := frame_wakeDom.spg_emap
@[simp] theorem wakeDom_spg_leases {d} : (wakeDom d s).spg.leases = s.spg.leases := frame_wakeDom.spg_leases
@[simp] theorem wakeDom_spg_load {d} : (wakeDom d s).spg.load = s.spg.load := frame_wakeDom.spg_load
@[simp] theorem wakeDom_spg_jobs {d} : (wakeDom d s).spg.jobs = s.spg.jobs := frame_wakeDom.spg_jobs
@[simp] theorem wakeDom_spg_ptp {d} : (wakeDom d s).spg.ptp = s.spg.ptp := frame_wakeDom.spg_ptp
@[simp] theorem wakeDom_spg_ptpNext {d} : (wakeDom d s).spg.ptpNext = s.spg.ptpNext := frame_wakeDom.spg_ptpNext
@[simp] theorem wakeDom_spg_l1 {d} : (wakeDom d s).spg.l1 = s.spg.l1 := frame_wakeDom.spg_l1
@[simp] theorem wakeDom_spg_d3 {d} : (wakeDom d s).spg.d3 = s.spg.d3 := frame_wakeDom.spg_d3
@[simp] theorem wakeDom_spg_jtag {d} : (wakeDom d s).spg.jtag = s.spg.jtag := frame_wakeDom.spg_jtag
@[simp] theorem wakeDom_spg_jtagDr {d} : (wakeDom d s).spg.jtagDr = s.spg.jtagDr := frame_wakeDom.spg_jtagDr

/-! ### wakeAll -/

@[simp] theorem wakeAll_ft {i ds} : (wakeAll i ds s).ft = s.ft := frame_wakeAll.ft
@[simp] theorem wakeAll_ccNow {i ds} : (wakeAll i ds s).ccNow = s.ccNow := frame_wakeAll.ccNow
@[simp] theorem wakeAll_serial {i ds} : (wakeAll i ds s).serial = s.serial := frame_wakeAll.serial
@[simp] theorem wakeAll_stepping {i ds} : (wakeAll i ds s).stepping = s.stepping := frame_wakeAll.stepping
@[simp] theorem wakeAll_partX {i ds} : (wakeAll i ds s).partX = s.partX := frame_wakeAll.partX
@[simp] theorem wakeAll_straps {i ds} : (wakeAll i ds s).straps = s.straps := frame_wakeAll.straps
@[simp] theorem wakeAll_gpio {i ds} : (wakeAll i ds s).gpio = s.gpio := frame_wakeAll.gpio
@[simp] theorem wakeAll_rst {i ds} : (wakeAll i ds s).rst = s.rst := frame_wakeAll.rst
@[simp] theorem wakeAll_clk {i ds} : (wakeAll i ds s).clk = s.clk := frame_wakeAll.clk
@[simp] theorem wakeAll_fab {i ds} : (wakeAll i ds s).fab = s.fab := frame_wakeAll.fab
@[simp] theorem wakeAll_conf {i ds} : (wakeAll i ds s).conf = s.conf := frame_wakeAll.conf
@[simp] theorem wakeAll_chans {i ds} : (wakeAll i ds s).chans = s.chans := frame_wakeAll.chans
@[simp] theorem wakeAll_tills {i ds} : (wakeAll i ds s).tills = s.tills := frame_wakeAll.tills
@[simp] theorem wakeAll_tillNow {i ds} : (wakeAll i ds s).tillNow = s.tillNow := frame_wakeAll.tillNow
@[simp] theorem wakeAll_rings {i ds} : (wakeAll i ds s).rings = s.rings := frame_wakeAll.rings
@[simp] theorem wakeAll_rtb {i ds} : (wakeAll i ds s).rtb = s.rtb := frame_wakeAll.rtb
@[simp] theorem wakeAll_side {i ds} : (wakeAll i ds s).side = s.side := frame_wakeAll.side
@[simp] theorem wakeAll_gens {i ds} : (wakeAll i ds s).gens = s.gens := frame_wakeAll.gens
@[simp] theorem wakeAll_rtbLatch {i ds} : (wakeAll i ds s).rtbLatch = s.rtbLatch := frame_wakeAll.rtbLatch
@[simp] theorem wakeAll_pairLatch {i ds} : (wakeAll i ds s).pairLatch = s.pairLatch := frame_wakeAll.pairLatch
@[simp] theorem wakeAll_pfx {i ds} : (wakeAll i ds s).pfx = s.pfx := frame_wakeAll.pfx
@[simp] theorem wakeAll_pfxPages {i ds} : (wakeAll i ds s).pfxPages = s.pfxPages := frame_wakeAll.pfxPages
@[simp] theorem wakeAll_listPages {i ds} : (wakeAll i ds s).listPages = s.listPages := frame_wakeAll.listPages
@[simp] theorem wakeAll_listBlocks {i ds} : (wakeAll i ds s).listBlocks = s.listBlocks := frame_wakeAll.listBlocks
@[simp] theorem wakeAll_free {i ds} : (wakeAll i ds s).free = s.free := frame_wakeAll.free
@[simp] theorem wakeAll_pageOwner {i ds} : (wakeAll i ds s).pageOwner = s.pageOwner := frame_wakeAll.pageOwner
@[simp] theorem wakeAll_pond {i ds} : (wakeAll i ds s).pond = s.pond := frame_wakeAll.pond
@[simp] theorem wakeAll_poison {i ds} : (wakeAll i ds s).poison = s.poison := frame_wakeAll.poison
@[simp] theorem wakeAll_admq {i ds} : (wakeAll i ds s).admq = s.admq := frame_wakeAll.admq
@[simp] theorem wakeAll_admNext {i ds} : (wakeAll i ds s).admNext = s.admNext := frame_wakeAll.admNext
@[simp] theorem wakeAll_steps {i ds} : (wakeAll i ds s).steps = s.steps := frame_wakeAll.steps
@[simp] theorem wakeAll_aisles {i ds} : (wakeAll i ds s).aisles = s.aisles := frame_wakeAll.aisles
@[simp] theorem wakeAll_batches {i ds} : (wakeAll i ds s).batches = s.batches := frame_wakeAll.batches
@[simp] theorem wakeAll_batchNum {i ds} : (wakeAll i ds s).batchNum = s.batchNum := frame_wakeAll.batchNum
@[simp] theorem wakeAll_fixed {i ds} : (wakeAll i ds s).fixed = s.fixed := frame_wakeAll.fixed
@[simp] theorem wakeAll_wks {i ds} : (wakeAll i ds s).wks = s.wks := frame_wakeAll.wks
@[simp] theorem wakeAll_cc {i ds} : (wakeAll i ds s).cc = s.cc := frame_wakeAll.cc
@[simp] theorem wakeAll_masks {i ds} : (wakeAll i ds s).masks = s.masks := frame_wakeAll.masks
@[simp] theorem wakeAll_adps {i ds} : (wakeAll i ds s).adps = s.adps := frame_wakeAll.adps
@[simp] theorem wakeAll_adpFetch {i ds} : (wakeAll i ds s).adpFetch = s.adpFetch := frame_wakeAll.adpFetch
@[simp] theorem wakeAll_adpPages {i ds} : (wakeAll i ds s).adpPages = s.adpPages := frame_wakeAll.adpPages
@[simp] theorem wakeAll_pinPages {i ds} : (wakeAll i ds s).pinPages = s.pinPages := frame_wakeAll.pinPages
@[simp] theorem wakeAll_nmc {i ds} : (wakeAll i ds s).nmc = s.nmc := frame_wakeAll.nmc
@[simp] theorem wakeAll_secm {i ds} : (wakeAll i ds s).secm = s.secm := frame_wakeAll.secm
@[simp] theorem wakeAll_img {i ds} : (wakeAll i ds s).img = s.img := frame_wakeAll.img
@[simp] theorem wakeAll_heldAcc {i ds} : (wakeAll i ds s).heldAcc = s.heldAcc := frame_wakeAll.heldAcc
@[simp] theorem wakeAll_freshN {i ds} : (wakeAll i ds s).freshN = s.freshN := frame_wakeAll.freshN
@[simp] theorem wakeAll_pending {i ds} : (wakeAll i ds s).pending = s.pending := frame_wakeAll.pending
@[simp] theorem wakeAll_spg_ops {i ds} : (wakeAll i ds s).spg.ops = s.spg.ops := frame_wakeAll.spg_ops
@[simp] theorem wakeAll_spg_map {i ds} : (wakeAll i ds s).spg.map = s.spg.map := frame_wakeAll.spg_map
@[simp] theorem wakeAll_spg_rules {i ds} : (wakeAll i ds s).spg.rules = s.spg.rules := frame_wakeAll.spg_rules
@[simp] theorem wakeAll_spg_keys {i ds} : (wakeAll i ds s).spg.keys = s.spg.keys := frame_wakeAll.spg_keys
@[simp] theorem wakeAll_spg_buf {i ds} : (wakeAll i ds s).spg.buf = s.spg.buf := frame_wakeAll.spg_buf
@[simp] theorem wakeAll_spg_ports {i ds} : (wakeAll i ds s).spg.ports = s.spg.ports := frame_wakeAll.spg_ports
@[simp] theorem wakeAll_spg_tmpls {i ds} : (wakeAll i ds s).spg.tmpls = s.spg.tmpls := frame_wakeAll.spg_tmpls
@[simp] theorem wakeAll_spg_emap {i ds} : (wakeAll i ds s).spg.emap = s.spg.emap := frame_wakeAll.spg_emap
@[simp] theorem wakeAll_spg_leases {i ds} : (wakeAll i ds s).spg.leases = s.spg.leases := frame_wakeAll.spg_leases
@[simp] theorem wakeAll_spg_load {i ds} : (wakeAll i ds s).spg.load = s.spg.load := frame_wakeAll.spg_load
@[simp] theorem wakeAll_spg_jobs {i ds} : (wakeAll i ds s).spg.jobs = s.spg.jobs := frame_wakeAll.spg_jobs
@[simp] theorem wakeAll_spg_ptp {i ds} : (wakeAll i ds s).spg.ptp = s.spg.ptp := frame_wakeAll.spg_ptp
@[simp] theorem wakeAll_spg_ptpNext {i ds} : (wakeAll i ds s).spg.ptpNext = s.spg.ptpNext := frame_wakeAll.spg_ptpNext
@[simp] theorem wakeAll_spg_l1 {i ds} : (wakeAll i ds s).spg.l1 = s.spg.l1 := frame_wakeAll.spg_l1
@[simp] theorem wakeAll_spg_d3 {i ds} : (wakeAll i ds s).spg.d3 = s.spg.d3 := frame_wakeAll.spg_d3
@[simp] theorem wakeAll_spg_jtag {i ds} : (wakeAll i ds s).spg.jtag = s.spg.jtag := frame_wakeAll.spg_jtag
@[simp] theorem wakeAll_spg_jtagDr {i ds} : (wakeAll i ds s).spg.jtagDr = s.spg.jtagDr := frame_wakeAll.spg_jtagDr

/-! ### startTrans -/

@[simp] theorem startTrans_ft {d q} : (startTrans d q s).ft = s.ft := rfl
@[simp] theorem startTrans_regs {d q} : (startTrans d q s).regs = s.regs := rfl
@[simp] theorem startTrans_setNow {d q} : (startTrans d q s).setNow = s.setNow := rfl
@[simp] theorem startTrans_ccNow {d q} : (startTrans d q s).ccNow = s.ccNow := rfl
@[simp] theorem startTrans_serial {d q} : (startTrans d q s).serial = s.serial := rfl
@[simp] theorem startTrans_stepping {d q} : (startTrans d q s).stepping = s.stepping := rfl
@[simp] theorem startTrans_partX {d q} : (startTrans d q s).partX = s.partX := rfl
@[simp] theorem startTrans_straps {d q} : (startTrans d q s).straps = s.straps := rfl
@[simp] theorem startTrans_gpio {d q} : (startTrans d q s).gpio = s.gpio := rfl
@[simp] theorem startTrans_rst {d q} : (startTrans d q s).rst = s.rst := rfl
@[simp] theorem startTrans_clk {d q} : (startTrans d q s).clk = s.clk := rfl
@[simp] theorem startTrans_fab {d q} : (startTrans d q s).fab = s.fab := rfl
@[simp] theorem startTrans_spg {d q} : (startTrans d q s).spg = s.spg := rfl
@[simp] theorem startTrans_conf {d q} : (startTrans d q s).conf = s.conf := rfl
@[simp] theorem startTrans_chans {d q} : (startTrans d q s).chans = s.chans := rfl
@[simp] theorem startTrans_tills {d q} : (startTrans d q s).tills = s.tills := rfl
@[simp] theorem startTrans_tillNow {d q} : (startTrans d q s).tillNow = s.tillNow := rfl
@[simp] theorem startTrans_rings {d q} : (startTrans d q s).rings = s.rings := rfl
@[simp] theorem startTrans_rtb {d q} : (startTrans d q s).rtb = s.rtb := rfl
@[simp] theorem startTrans_side {d q} : (startTrans d q s).side = s.side := rfl
@[simp] theorem startTrans_gens {d q} : (startTrans d q s).gens = s.gens := rfl
@[simp] theorem startTrans_rtbLatch {d q} : (startTrans d q s).rtbLatch = s.rtbLatch := rfl
@[simp] theorem startTrans_pairLatch {d q} : (startTrans d q s).pairLatch = s.pairLatch := rfl
@[simp] theorem startTrans_pfx {d q} : (startTrans d q s).pfx = s.pfx := rfl
@[simp] theorem startTrans_pfxPages {d q} : (startTrans d q s).pfxPages = s.pfxPages := rfl
@[simp] theorem startTrans_listPages {d q} : (startTrans d q s).listPages = s.listPages := rfl
@[simp] theorem startTrans_listBlocks {d q} : (startTrans d q s).listBlocks = s.listBlocks := rfl
@[simp] theorem startTrans_free {d q} : (startTrans d q s).free = s.free := rfl
@[simp] theorem startTrans_pageOwner {d q} : (startTrans d q s).pageOwner = s.pageOwner := rfl
@[simp] theorem startTrans_pond {d q} : (startTrans d q s).pond = s.pond := rfl
@[simp] theorem startTrans_poison {d q} : (startTrans d q s).poison = s.poison := rfl
@[simp] theorem startTrans_admq {d q} : (startTrans d q s).admq = s.admq := rfl
@[simp] theorem startTrans_admNext {d q} : (startTrans d q s).admNext = s.admNext := rfl
@[simp] theorem startTrans_steps {d q} : (startTrans d q s).steps = s.steps := rfl
@[simp] theorem startTrans_aisles {d q} : (startTrans d q s).aisles = s.aisles := rfl
@[simp] theorem startTrans_batches {d q} : (startTrans d q s).batches = s.batches := rfl
@[simp] theorem startTrans_batchNum {d q} : (startTrans d q s).batchNum = s.batchNum := rfl
@[simp] theorem startTrans_fixed {d q} : (startTrans d q s).fixed = s.fixed := rfl
@[simp] theorem startTrans_wks {d q} : (startTrans d q s).wks = s.wks := rfl
@[simp] theorem startTrans_cc {d q} : (startTrans d q s).cc = s.cc := rfl
@[simp] theorem startTrans_masks {d q} : (startTrans d q s).masks = s.masks := rfl
@[simp] theorem startTrans_adps {d q} : (startTrans d q s).adps = s.adps := rfl
@[simp] theorem startTrans_adpFetch {d q} : (startTrans d q s).adpFetch = s.adpFetch := rfl
@[simp] theorem startTrans_adpPages {d q} : (startTrans d q s).adpPages = s.adpPages := rfl
@[simp] theorem startTrans_pinPages {d q} : (startTrans d q s).pinPages = s.pinPages := rfl
@[simp] theorem startTrans_nmc {d q} : (startTrans d q s).nmc = s.nmc := rfl
@[simp] theorem startTrans_secm {d q} : (startTrans d q s).secm = s.secm := rfl
@[simp] theorem startTrans_img {d q} : (startTrans d q s).img = s.img := rfl
@[simp] theorem startTrans_log {d q} : (startTrans d q s).log = s.log := rfl
@[simp] theorem startTrans_heldAcc {d q} : (startTrans d q s).heldAcc = s.heldAcc := rfl
@[simp] theorem startTrans_freshN {d q} : (startTrans d q s).freshN = s.freshN := rfl
@[simp] theorem startTrans_out {d q} : (startTrans d q s).out = s.out := rfl
@[simp] theorem startTrans_pending {d q} : (startTrans d q s).pending = s.pending := rfl

/-! ### touch -/

@[simp] theorem touch_ft {d} : (touch d s).ft = s.ft := rfl
@[simp] theorem touch_regs {d} : (touch d s).regs = s.regs := rfl
@[simp] theorem touch_setNow {d} : (touch d s).setNow = s.setNow := rfl
@[simp] theorem touch_ccNow {d} : (touch d s).ccNow = s.ccNow := rfl
@[simp] theorem touch_serial {d} : (touch d s).serial = s.serial := rfl
@[simp] theorem touch_stepping {d} : (touch d s).stepping = s.stepping := rfl
@[simp] theorem touch_partX {d} : (touch d s).partX = s.partX := rfl
@[simp] theorem touch_straps {d} : (touch d s).straps = s.straps := rfl
@[simp] theorem touch_gpio {d} : (touch d s).gpio = s.gpio := rfl
@[simp] theorem touch_rst {d} : (touch d s).rst = s.rst := rfl
@[simp] theorem touch_clk {d} : (touch d s).clk = s.clk := rfl
@[simp] theorem touch_fab {d} : (touch d s).fab = s.fab := rfl
@[simp] theorem touch_spg {d} : (touch d s).spg = s.spg := rfl
@[simp] theorem touch_conf {d} : (touch d s).conf = s.conf := rfl
@[simp] theorem touch_chans {d} : (touch d s).chans = s.chans := rfl
@[simp] theorem touch_tills {d} : (touch d s).tills = s.tills := rfl
@[simp] theorem touch_tillNow {d} : (touch d s).tillNow = s.tillNow := rfl
@[simp] theorem touch_rings {d} : (touch d s).rings = s.rings := rfl
@[simp] theorem touch_rtb {d} : (touch d s).rtb = s.rtb := rfl
@[simp] theorem touch_side {d} : (touch d s).side = s.side := rfl
@[simp] theorem touch_gens {d} : (touch d s).gens = s.gens := rfl
@[simp] theorem touch_rtbLatch {d} : (touch d s).rtbLatch = s.rtbLatch := rfl
@[simp] theorem touch_pairLatch {d} : (touch d s).pairLatch = s.pairLatch := rfl
@[simp] theorem touch_pfx {d} : (touch d s).pfx = s.pfx := rfl
@[simp] theorem touch_pfxPages {d} : (touch d s).pfxPages = s.pfxPages := rfl
@[simp] theorem touch_listPages {d} : (touch d s).listPages = s.listPages := rfl
@[simp] theorem touch_listBlocks {d} : (touch d s).listBlocks = s.listBlocks := rfl
@[simp] theorem touch_free {d} : (touch d s).free = s.free := rfl
@[simp] theorem touch_pageOwner {d} : (touch d s).pageOwner = s.pageOwner := rfl
@[simp] theorem touch_pond {d} : (touch d s).pond = s.pond := rfl
@[simp] theorem touch_poison {d} : (touch d s).poison = s.poison := rfl
@[simp] theorem touch_admq {d} : (touch d s).admq = s.admq := rfl
@[simp] theorem touch_admNext {d} : (touch d s).admNext = s.admNext := rfl
@[simp] theorem touch_steps {d} : (touch d s).steps = s.steps := rfl
@[simp] theorem touch_aisles {d} : (touch d s).aisles = s.aisles := rfl
@[simp] theorem touch_batches {d} : (touch d s).batches = s.batches := rfl
@[simp] theorem touch_batchNum {d} : (touch d s).batchNum = s.batchNum := rfl
@[simp] theorem touch_fixed {d} : (touch d s).fixed = s.fixed := rfl
@[simp] theorem touch_wks {d} : (touch d s).wks = s.wks := rfl
@[simp] theorem touch_cc {d} : (touch d s).cc = s.cc := rfl
@[simp] theorem touch_masks {d} : (touch d s).masks = s.masks := rfl
@[simp] theorem touch_adps {d} : (touch d s).adps = s.adps := rfl
@[simp] theorem touch_adpFetch {d} : (touch d s).adpFetch = s.adpFetch := rfl
@[simp] theorem touch_adpPages {d} : (touch d s).adpPages = s.adpPages := rfl
@[simp] theorem touch_pinPages {d} : (touch d s).pinPages = s.pinPages := rfl
@[simp] theorem touch_nmc {d} : (touch d s).nmc = s.nmc := rfl
@[simp] theorem touch_secm {d} : (touch d s).secm = s.secm := rfl
@[simp] theorem touch_img {d} : (touch d s).img = s.img := rfl
@[simp] theorem touch_log {d} : (touch d s).log = s.log := rfl
@[simp] theorem touch_heldAcc {d} : (touch d s).heldAcc = s.heldAcc := rfl
@[simp] theorem touch_freshN {d} : (touch d s).freshN = s.freshN := rfl
@[simp] theorem touch_out {d} : (touch d s).out = s.out := rfl
@[simp] theorem touch_pending {d} : (touch d s).pending = s.pending := rfl


/-! ### fresh -/

@[simp] theorem fresh_ft : (fresh s).2.ft = s.ft := rfl
@[simp] theorem fresh_regs : (fresh s).2.regs = s.regs := rfl
@[simp] theorem fresh_setNow : (fresh s).2.setNow = s.setNow := rfl
@[simp] theorem fresh_ccNow : (fresh s).2.ccNow = s.ccNow := rfl
@[simp] theorem fresh_serial : (fresh s).2.serial = s.serial := rfl
@[simp] theorem fresh_stepping : (fresh s).2.stepping = s.stepping := rfl
@[simp] theorem fresh_partX : (fresh s).2.partX = s.partX := rfl
@[simp] theorem fresh_straps : (fresh s).2.straps = s.straps := rfl
@[simp] theorem fresh_gpio : (fresh s).2.gpio = s.gpio := rfl
@[simp] theorem fresh_rst : (fresh s).2.rst = s.rst := rfl
@[simp] theorem fresh_doms : (fresh s).2.doms = s.doms := rfl
@[simp] theorem fresh_clk : (fresh s).2.clk = s.clk := rfl
@[simp] theorem fresh_fab : (fresh s).2.fab = s.fab := rfl
@[simp] theorem fresh_spg : (fresh s).2.spg = s.spg := rfl
@[simp] theorem fresh_conf : (fresh s).2.conf = s.conf := rfl
@[simp] theorem fresh_chans : (fresh s).2.chans = s.chans := rfl
@[simp] theorem fresh_tills : (fresh s).2.tills = s.tills := rfl
@[simp] theorem fresh_tillNow : (fresh s).2.tillNow = s.tillNow := rfl
@[simp] theorem fresh_rings : (fresh s).2.rings = s.rings := rfl
@[simp] theorem fresh_rtb : (fresh s).2.rtb = s.rtb := rfl
@[simp] theorem fresh_side : (fresh s).2.side = s.side := rfl
@[simp] theorem fresh_gens : (fresh s).2.gens = s.gens := rfl
@[simp] theorem fresh_rtbLatch : (fresh s).2.rtbLatch = s.rtbLatch := rfl
@[simp] theorem fresh_pairLatch : (fresh s).2.pairLatch = s.pairLatch := rfl
@[simp] theorem fresh_pfx : (fresh s).2.pfx = s.pfx := rfl
@[simp] theorem fresh_pfxPages : (fresh s).2.pfxPages = s.pfxPages := rfl
@[simp] theorem fresh_listPages : (fresh s).2.listPages = s.listPages := rfl
@[simp] theorem fresh_listBlocks : (fresh s).2.listBlocks = s.listBlocks := rfl
@[simp] theorem fresh_free : (fresh s).2.free = s.free := rfl
@[simp] theorem fresh_pageOwner : (fresh s).2.pageOwner = s.pageOwner := rfl
@[simp] theorem fresh_pond : (fresh s).2.pond = s.pond := rfl
@[simp] theorem fresh_poison : (fresh s).2.poison = s.poison := rfl
@[simp] theorem fresh_admq : (fresh s).2.admq = s.admq := rfl
@[simp] theorem fresh_admNext : (fresh s).2.admNext = s.admNext := rfl
@[simp] theorem fresh_steps : (fresh s).2.steps = s.steps := rfl
@[simp] theorem fresh_aisles : (fresh s).2.aisles = s.aisles := rfl
@[simp] theorem fresh_batches : (fresh s).2.batches = s.batches := rfl
@[simp] theorem fresh_batchNum : (fresh s).2.batchNum = s.batchNum := rfl
@[simp] theorem fresh_fixed : (fresh s).2.fixed = s.fixed := rfl
@[simp] theorem fresh_wks : (fresh s).2.wks = s.wks := rfl
@[simp] theorem fresh_cc : (fresh s).2.cc = s.cc := rfl
@[simp] theorem fresh_masks : (fresh s).2.masks = s.masks := rfl
@[simp] theorem fresh_adps : (fresh s).2.adps = s.adps := rfl
@[simp] theorem fresh_adpFetch : (fresh s).2.adpFetch = s.adpFetch := rfl
@[simp] theorem fresh_adpPages : (fresh s).2.adpPages = s.adpPages := rfl
@[simp] theorem fresh_pinPages : (fresh s).2.pinPages = s.pinPages := rfl
@[simp] theorem fresh_nmc : (fresh s).2.nmc = s.nmc := rfl
@[simp] theorem fresh_secm : (fresh s).2.secm = s.secm := rfl
@[simp] theorem fresh_img : (fresh s).2.img = s.img := rfl
@[simp] theorem fresh_log : (fresh s).2.log = s.log := rfl
@[simp] theorem fresh_heldAcc : (fresh s).2.heldAcc = s.heldAcc := rfl
@[simp] theorem fresh_out : (fresh s).2.out = s.out := rfl
@[simp] theorem fresh_pending : (fresh s).2.pending = s.pending := rfl

/-! ### Outcomes -/

/-- A command whose operands the hardware can carry completes with its effect, the queue as it was. -/
theorem run_wf {c : Instr} {t : State} (h : c.wf = true) : run c s t = .next { t with pending := s.pending } := by
  simp [run, h]

/-- One that it cannot carry stops. -/
theorem run_not_wf {c : Instr} {t : State} (h : c.wf = false) : run c s t = .fault .operandRange := by
  simp [run, h]

/-! ### Registers -/

theorem rd_wr_ne {a b v : Nat} (h : a ≠ b) : rd (wr a v s) b = rd s b := by
  unfold rd wr
  rw [look_put_ne h.symm]

/-- A register reads as it was written; the registers being in canonical form. -/
theorem rd_wr_self {a v : Nat} (h : smapWf regReset s.regs = true) : rd (wr a v s) a = v % 2 ^ 32 := by
  unfold rd wr
  rw [look_put_self (smapWf_iff.1 h).1]
  simp

end Sys2Proof.Laws
end

