-- ==== Sys2Proof/Laws/Run.lean ====
section
/-! SUPPORT. How a meaning's state becomes the answer of its command, and what a channel's front entry does when a
command of its kind is accepted. -/
namespace Sys2Proof.Laws
open Sys2Proof Sys2Proof.Machine Sys2Proof.Safety

theorem gives_run {c : Instr} {s t : State} {P : State → Prop} (h : c.wf = true) (k : P { t with pending := s.pending }) :
    ∃ u, run c s t = .next u ∧ P u := ⟨_, run_wf h, k⟩

theorem leaves_run {c : Instr} {s t e : State} (h : c.wf = true) (k : e = t) :
    run c s e = .next { t with pending := s.pending } := by subst k; exact run_wf h

theorem settleAcc_takes {s : State} {c op : Nat} {e : Sqe} (h : Takes s c op e) (n : Nat) : settleAcc c n s = s := by
  cases n with
  | zero => rfl
  | succ n => simp [settleAcc, h.1, h.2.1]

/-- A command at the front of its channel is taken off, acted on, and what is at the front then is settled. -/
theorem accept_takes {s : State} {c op : Nat} {e : Sqe} (h : Takes s c op e) (act : Sqe → State → State) :
    accept c op act s = nextUp c (act e (takenOff c s)) := by
  unfold accept
  simp only [settleAcc_takes h]
  rw [h.1]
  simp only [nextUp, takenOff]
  rw [if_neg]
  simp [h.2.2.1]
  have := h.2.2.2
  simp_all

theorem settleAcc_none {s : State} {c : Nat} (h : (chan s c).acc = []) (n : Nat) : settleAcc c n s = s := by
  cases n with
  | zero => rfl
  | succ n => simp [settleAcc, headCmd, h]

/-- With nothing accepted on the channel, only an entry that it holds back may follow (R217). -/
theorem accept_none {s : State} {c op : Nat} (h : (chan s c).acc = []) (act : Sqe → State → State) : accept c op act s = takeHeldEntry c s := by
  unfold accept
  simp [settleAcc_none h, headCmd, h]

end Sys2Proof.Laws
end

