-- ==== Sys2Proof/Tests/Slice0.lean ====
section
/-! SUPPORT. Tests. Ill-formed commands that the range checks refuse; small tests whose expected results come from
the spec's own figures, its worked cases, or published check values; and for every statement of
Certificates/Slice0/Obligations.lean states and operands that meet its hypotheses, clause by clause (a variable
that a hypothesis only names, and no other hypothesis uses, is left out). -/
set_option Elab.async false
set_option linter.unusedVariables false
set_option maxRecDepth 20000
namespace Sys2Proof.Tests
open Sys2Proof Sys2Proof.Machine Sys2Proof.Safety

/-- A chip out of reset: every domain ON, straps sampled. -/
def up : State :=
  { State.reset with
    rst := { phase := 0, sampled := true }
    doms := (List.range 11).map (fun d => (d, { st := .on }))
    secm := { st := 1 } }

/-- `up` at FT 1,000 with a port in a given condition. -/
def onPort (q : Port) : State := modPort 0 (fun _ => q) { up with ft := 1000 }
/-- A frame of `n` bytes being parsed. -/
def arriving (n : Nat) : Parse := { sfd := 0, frame := zeros n, fcsOk := true }
/-- An open channel with room for completions. -/
def chanOpen : Chan := { st := 1, sqK := 6, cqK := 6 }
/-- The root chip. -/
def rootUp : State := { up with straps := { up.straps with root := true } }
/-- A control message: its length of path, its body. -/
def msgOf (pathLen : Nat) (body : Bytes) : Bytes := fit 64 (ctlBytes { sub := 0, pathLen := pathLen, body := body })
/-- `up` with a link in a given condition. -/
def onLink (l : Link) : State := modLink 7 (fun _ => l) { up with ft := 1600000 }
/-- The fabric time of a state. -/
def atFt (n : Nat) (s : State) : State := { s with ft := n }
/-- The configuration of a state. -/
def withConf (c : Conf) (s : State) : State := { s with conf := c }
/-- The image loader of a state. -/
def withImg (i : Img) (s : State) : State := { s with img := i }
/-- The trouble log of a state. -/
def withLog (l : Log) (s : State) : State := { s with log := l }
/-- The state that an answer gives, or the one before it. -/
def after (o : Host.Outcome State Fault Refusal) (s : State) : State := match o with | .next t => t | _ => s
/-- An answer is a next state whose queue is as it was. -/
def stays (o : Host.Outcome State Fault Refusal) (s : State) : Bool := match o with | .next t => decide (t.pending = s.pending) | _ => false
/-- What `stays` says of a command. -/
theorem leaves_after {c : Instr} {s : State} (h : stays (exec c s) s = true) : Leaves c s (after (exec c s) s) := by
  unfold Leaves
  cases hx : exec c s with
  | next t => simp [stays, hx] at h; simp [after, ← h]
  | fault f => simp [stays, hx] at h
  | refused r => simp [stays, hx] at h
/-- Nothing is there, so nothing is said of it. -/
theorem noSome {α : Type} {P : Prop} {o : Option α} {x : α} (h : o = none) : o = some x → P := by simp [h]
/-- What holds of 0 to 7 holds of any remainder by 8. -/
theorem below8 {P : Nat → Prop} (h : ∀ m < 8, P m) (n : Nat) : P (n % 8) := h _ (Nat.mod_lt _ (by decide))

/-! ### Ill-formed commands are refused (one for each check) -/

theorem test_illFormed_ports :
    [Instr.springMatch 2, .frameSfdReceive 2 [] true, .hostFrameTransmit 0 (zeros 15) [], .hostFrameTransmit 2 (zeros 16) [],
      .fcsVerdict 0 (zeros 17), .fcsVerdict 2 (zeros 16), .tokenArrival 64 0 [], .stepCommitConfirm 64 0 0,
      .stepCommitConfirm 0 0 256, .leaseGrant 64 0, .spgRuleEnWrite 8 0, .portLinkChange 2 true].all (fun c => !c.wf) = true := by
  decide

theorem test_illFormed_links :
    [Instr.linkEnWrite 8 0, .abandonedFlit 8 0 0, .abandonedFlit 0 8 0, .creditReturn 0 0 2 0, .flitReceive 8 0 (zeros 80),
      .flitReceive 0 2 (zeros 80), .flitReceive 0 0 (zeros 79), .pw [] 0, .rd [zeros 81], .pwack (zeros 79),
      .farFault (zeros 63), .wake (zeros 65), .pwackSend 256 0, .pwackSend 0 32, .routeHoldRelease 32 0].all (fun c => !c.wf) = true := by
  decide

theorem test_illFormed_power_and_registers :
    [Instr.idleTimerExpire 12, .domainWake 12 0, .domainWake 0 8, .thermalSample (List.replicate 7 0),
      .registerAccessWake .pf 0x4000000 none, .registerAccessOff (.vf 32) 0 none, .registerWrite (.vf 0) 0x10000 0,
      .registerWrite .cc 2 0, .undecodedAccess .pf 0x4000000 4, .bar2Write 0 [], .bar2Write 0x7FFFFFF (zeros 2), .bar2Read 0 0 [],
      .bar2Read 0 257 [], .bar2Read 0x7FFFFFF 2 [], .bar4Write 0xFFFFFFFFF (zeros 2), .bar4Read 0xFFFFFFFFF 2 [],
      .imageFrameFetched (some (zeros 64))].all (fun c => !c.wf) = true := by
  decide +kernel

theorem test_illFormed_requests :
    [Instr.chCreate 32 .pf, .chCreate 0 (.vf 32), .dmaError (.vf 32), .chDestroy 32 0, .stallDrained 32,
      .adapterFetchComplete 32 0, .adapterFetchComplete 0 65536, .commandFetch 4096 none, .commandFetch 0 (some (zeros 63)),
      .submit 4096 none, .cancelEffect 0x1000000, .ringDmaFail 8192, .proxyRelease 0 4096, .stepRecordReceive []].all
      (fun c => !c.wf) = true := by
  decide

theorem test_illFormed_cores_and_memories :
    [Instr.coreIdle 68, .workItemReady 4096, .jobFault .illegal 4096 [] 0, .jobFault .illegal 0 [64] 0,
      .jobFault .illegal 0 [] 16384, .evtPost 1024, .epost 4 0, .epost 0 1024, .bmove 4, .mbxDbPost 4, .admBlock 0 4096 true,
      .handshakePreempt 2, .refreshDue 16, .lakeAccess 8 0 none 0, .lakeAccess 0 0x800000000 none 0,
      .lakeAccess 0 0x7FFFFFFFF (some (zeros 2)) 0].all (fun c => !c.wf) = true := by
  decide

theorem test_illFormed_rest :
    [Instr.vfFlr 32, .strapSample ⟨false, false, 4, false, 0, false, 0, 0⟩, .strapSample ⟨false, false, 0, false, 4, false, 0, 0⟩,
      .strapSample ⟨false, false, 0, false, 0, false, 4, 0⟩, .strapSample ⟨false, false, 0, false, 0, false, 0, 256⟩,
      .secmStatus 2, .tamperDetect 8, .selftestFail 256 false].all (fun c => !c.wf) = true := by
  decide

/-- An operand out of range stops the command and nothing else does. -/
theorem test_illFormed_stops : step { up with pending := [.springMatch 2] } = .fault .operandRange := by rfl

/-! ### Fields, times and checksums -/

/-- R5, R6: little-endian fields. The four bytes 78 56 34 12 are 0x12345678, whose bits 15:8 are 0x56. -/
theorem test_fields : u32 [0x78, 0x56, 0x34, 0x12] 0 = 0x12345678 ∧ bits 0x12345678 15 8 = 0x56 := by decide

/-- R10: with bit 47 of FT about to carry, a field of 5 is in the next period; just after, a field of 2^48 − 1 in the last. -/
theorem test_truncatedTimes : expandFt 48 5 (2 ^ 48 - 1) = 2 ^ 48 + 5 ∧ expandFt 48 (2 ^ 48 - 1) (2 ^ 48 + 1) = 2 ^ 48 - 1 := by
  decide

/-- The worked case of R10: a deadline 3,200 FT after FT 0x12_3456_7800, kept as its low 40 bits, denotes 0x12_3456_8480. -/
theorem test_workedDeadline : expandFt 40 0x1234568480 0x1234567800 = 0x1234568480 ∧ 0x1234567800 + 3200 = 0x1234568480 := by
  decide

/-- The published check values over the nine digits "123456789": CRC-32C E3069283, CRC-16 with polynomial 0x1021 from
0xFFFF 29B1 (R36), and the SMBus CRC-8 F4. -/
theorem test_checksums :
    crc32c [0x31, 0x32, 0x33, 0x34, 0x35, 0x36, 0x37, 0x38, 0x39] = 0xE3069283
    ∧ crc16 [0x31, 0x32, 0x33, 0x34, 0x35, 0x36, 0x37, 0x38, 0x39] = 0x29B1
    ∧ [0x31, 0x32, 0x33, 0x34, 0x35, 0x36, 0x37, 0x38, 0x39].foldl crc8Byte 0 = 0xF4 := by
  decide +kernel

/-- GLB_ID reads VENDOR 0x1F3C and DEVICE 0x7A10. -/
theorem test_glbId : rd State.reset 0 = 0x7A101F3C := by decide +kernel

/-- R325 to R327: at reset addressable core 63 is the last used core of cluster 3, and no addressable core is a spare. -/
theorem test_coreMap : physOf State.reset 63 = some 66 ∧ physOf State.reset 16 = some 17 ∧ addrOf State.reset 16 = none := by
  decide +kernel

/-! ### One command of each family -/

/-- Whether a command answers a next state with a property. -/
def nextIs (c : Instr) (s : State) (p : State → Bool) : Bool :=
  match exec c s with
  | .next t => p t
  | _ => false

/-- R512: IDCODE reads 0x17A103C7. -/
theorem test_idcode : nextIs .idcode up (fun t => t.spg.jtagDr == 0x17A103C7) = true := by decide +kernel

/-- R357, R358: with EVT_ARM 1 a host post sets its flag and a host clear clears its flag alone. -/
theorem test_flags :
    nextIs (.evtPost 1023) (wr 0x000E11FC 0x40000000 up) (fun t => rd t 0x000E107C == 0x80000000) = true
    ∧ nextIs (.evtClear 5) (wr 0x000E1100 0x400 (wr 0x000E1000 0x21 up)) (fun t => rd t 0x000E1000 == 1) = true := by
  decide +kernel

/-- R335: a fenced core is not eligible: with core 0 fenced the item takes core 1. -/
theorem test_fencedCoreIsPassedOver :
    nextIs (.workItemReady 0) (modCore 0 (fun x => { x with fenced := true })
        (modItem 0 (fun _ => { st := .ready, rowMask := 1 }) (withConf { stalls := [(0, { cores := 3 })] } up)))
      (fun t => (Machine.core t 1).item == some 0 && (Machine.core t 0).item.isNone) = true := by
  decide +kernel

/-- R7, R620: register words live at their own offset, and a VF reaches its own stall's window alone. -/
theorem test_windowOfAVf :
    nextIs (.registerWrite (.vf 3) 0x204 7) (withConf { stalls := [(3, { enabled := true })] } up) (fun t => rd t (win 3 0x204) == 7 && rd t (win 2 0x204) == 0) = true := by
  decide +kernel

/-- BAR2: host writes to a staged mask page take place byte for byte; those to other pages do nothing. -/
theorem test_pondBytes :
    nextIs (.bar2Write 5 [0xAA, 0xBB]) { up with masks := [(0, { staged := some 0 })] }
      (fun t => lookBytes t.pond 4 4 == [0, 0xAA, 0xBB, 0]) = true
    ∧ nextIs (.bar2Write 5 [0xAA, 0xBB]) up (fun t => lookBytes t.pond 4 4 == [0, 0, 0, 0]) = true := by
  decide +kernel

/-- R548, R560: COLD_RST_N low is a cold reset, whose release waits for the pin to rise. -/
theorem test_pinCold : nextIs .pinCold up (fun t => t.rst.waiting && t.rst.cold && t.rst.pinHeld) = true := by decide +kernel

/-- Chapter 12's worked case: the verdict of a 200-byte frame falls 107 FT after its SFD. -/
theorem test_workedVerdict :
    nextIs (.fcsVerdict 0 (zeros 16)) (atFt 107 (onPort { parse := [{ arriving 200 with matched := true }] }))
      (fun t => (port t 0).parse.isEmpty) = true
    ∧ nextIs (.fcsVerdict 0 (zeros 16)) (atFt 106 (onPort { parse := [{ arriving 200 with matched := true }] }))
      (fun t => (port t 0).parse.length == 1) = true := by
  decide +kernel

/-- Chapter 08's worked case: of 40 TTL_PAUSE entries due at one boundary, 16 are processed and 24 carry LATE. -/
theorem test_workedPauses :
    nextIs .delayListProcess
      { modDly (fun d => { d with l1 := (List.range 40).map (fun i => { due := 96000000, kind := 3, id := i }) }) (atFt 96000000 up)
          with straps := { up.straps with tick := 1 } }
      (fun t => t.wks.dly.fired.length == 16 && t.wks.dly.l1.length == 24 && t.wks.dly.l1.all DlyEntry.late) = true := by
  decide +kernel

/-- Chapter 16's worked case: 90 °C is level 2 with 12 cores a cluster on a C part, and no throttle on an X part. -/
theorem test_workedThrottle :
    nextIs (.thermalSample (List.replicate 8 90)) up (fun t => rdf t rTherm 1 0 == 2 && coresIn t == 12) = true
    ∧ nextIs (.thermalSample (List.replicate 8 90)) { up with partX := true } (fun t => rdf t rTherm 1 0 == 0 && coresIn t == 16) = true := by
  decide +kernel

/-! ### States and operands that meet each statement's hypotheses -/

theorem witness_StepRunsTheFrontCommand :
    ∃ s : State, s.pending = [] :=
  ⟨State.reset, rfl⟩

theorem witness_CommandsInRangeComplete :
    (∃ (c : Instr), c.wf = true)
    ∧ (∃ (c : Instr), c.wf = false) :=
  ⟨⟨Instr.springMatch 0, by decide +kernel⟩,
   ⟨Instr.springMatch 2, by decide +kernel⟩⟩

theorem witness_ResetHoldsTheInvariants :
    (∃ (d : Nat), d < 11)
    ∧ (∃ (p : Nat), p < 8) :=
  ⟨⟨0, by decide +kernel⟩,
   ⟨0, by decide +kernel⟩⟩

theorem witness_MemoriesStayCanonical :
    ∃ s t : State, step s = .next t ∧ MemOk s :=
  ⟨up, _, rfl, by unfold MemOk; decide +kernel⟩

theorem witness_TroubleLogKeepsItsForm :
    ∃ s t : State, step s = .next t ∧ LogOk s :=
  ⟨up, _, rfl, by unfold LogOk; decide +kernel⟩

theorem witness_LifecycleAndIdentityStand :
    ∃ s t : State, step s = .next t ∧ LcOk s :=
  ⟨up, _, rfl, by unfold LcOk lcLegal; decide +kernel⟩

theorem witness_TruncatedTimesDenoteTheNearestInstant :
    (∃ (n : Nat) (f : Nat), 1 ≤ n ∧ f < 2 ^ n)
    ∧ (∃ (n : Nat) (f : Nat) (now : Nat) (c : Nat), 1 ≤ n ∧ f < 2 ^ n ∧ c % 2 ^ n = f ∧ c + 2 ^ (n - 1) ≥ now ∧ c < now + 2 ^ (n - 1))
    ∧ (∃ n f now : Nat, 1 ≤ n ∧ f < 2 ^ n ∧ ∀ c : Nat, c % 2 ^ n = f → c + 2 ^ (n - 1) < now ∨ now + 2 ^ (n - 1) ≤ c) :=
  ⟨⟨1, 0, by decide +kernel⟩,
   ⟨1, 0, 0, 0, by decide +kernel⟩,
   ⟨1, 1, 0, by decide, by decide, fun c h => by omega⟩⟩

theorem witness_EmptyWindowsReadZero :
    (∃ (o : Nat), o / 65536 = 24)
    ∧ (∃ (s : State) (n : Nat) (o : Nat), n < 32 ∧ 1 ≤ o ∧ o < 65536 ∧ (stallCfg s n).enabled = false)
    ∧ (∃ (n : Nat), n < 32) :=
  ⟨⟨0x180000, by decide +kernel⟩,
   ⟨State.reset, 0, 1, by decide +kernel⟩,
   ⟨0, by decide +kernel⟩⟩

theorem witness_FramesAreParsed_1 :
    (∃ (p : Nat), p < 2)
    ∧ (∃ (s : State) (p : Nat) (f : Parse), (port s p).parse = [f] ∧ (p < 2 ∧ f.matched = false ∧ 14 ≤ List.length f.frame ∧ byteAt s p f 13 ≤ s.ft))
    ∧ (∃ (s : State) (p : Nat), p < 2 ∧ (port s p).parse = [])
    ∧ (∃ (s : State) (p : Nat) (f : Parse) (x : Nat), parsing s p = some f ∧ BitVec.toNat (look s.spg.ops f.pc 0) = x ∧ (p < 2 ∧ f.ops < 64 ∧ bits x 7 0 = 1))
    ∧ (∃ (s : State) (p : Nat) (f : Parse) (x : Nat), parsing s p = some f ∧ BitVec.toNat (look s.spg.ops f.pc 0) = x ∧ (p < 2 ∧ f.ops < 64 ∧ bits x 7 0 = 2))
    ∧ (∃ (s : State) (p : Nat) (f : Parse) (x : Nat), parsing s p = some f ∧ BitVec.toNat (look s.spg.ops f.pc 0) = x ∧ (p < 2 ∧ f.ops < 64 ∧ bits x 7 0 = 3))
    ∧ (∃ (s : State) (p : Nat) (f : Parse) (x : Nat), parsing s p = some f ∧ BitVec.toNat (look s.spg.ops f.pc 0) = x ∧ (p < 2 ∧ f.ops < 64 ∧ bits x 7 0 = 4))
    ∧ (∃ (s : State) (p : Nat) (f : Parse) (x : Nat), parsing s p = some f ∧ BitVec.toNat (look s.spg.ops f.pc 0) = x ∧ (p < 2 ∧ f.ops < 64 ∧ bits x 7 0 = 5))
    ∧ (∃ (s : State) (p : Nat) (f : Parse) (x : Nat), parsing s p = some f ∧ BitVec.toNat (look s.spg.ops f.pc 0) = x ∧ (p < 2 ∧ f.ops < 64 ∧ bits x 7 0 = 8 ∧ f.tokens.length < 8))
    ∧ (∃ (s : State) (p : Nat) (f : Parse) (x : Nat) (u : State), parsing s p = some f ∧ BitVec.toNat (look s.spg.ops f.pc 0) = x ∧ (u = modFrame p f.sfd (fun xq => { f with pc := f.pc + 1, ops := f.ops + 1, readyAt := s.ft + 1 }) s) ∧ (p < 2 ∧ f.ops < 64 ∧ bits x 7 0 = 6 ∧ ((rule u (bits x 15 8)).loaded && (rule u (bits x 15 8)).enabled) = true))
    ∧ (∃ (s : State) (p : Nat) (f : Parse) (x : Nat) (u : State), parsing s p = some f ∧ BitVec.toNat (look s.spg.ops f.pc 0) = x ∧ (u = modFrame p f.sfd (fun xq => { f with pc := f.pc + 1, ops := f.ops + 1, readyAt := s.ft + 1 }) s) ∧ (p < 2 ∧ f.ops < 64 ∧ bits x 7 0 = 6 ∧ ((rule u (bits x 15 8)).loaded && (rule u (bits x 15 8)).enabled) = false))
    ∧ (∃ (s : State) (p : Nat) (f : Parse) (x : Nat), parsing s p = some f ∧ BitVec.toNat (look s.spg.ops f.pc 0) = x ∧ (p < 2 ∧ f.ops < 64 ∧ bits x 7 0 = 10)) :=
  ⟨⟨0, by decide +kernel⟩,
   ⟨onPort { parse := [arriving 14] }, 0, _, rfl, by decide +kernel⟩,
   ⟨State.reset, 0, by decide +kernel⟩,
   ⟨modSpg (fun g => { g with ops := [(0, 1)] }) (onPort { parse := [{ arriving 64 with first := some 0 }] }), 0, _, _, rfl, rfl, by decide +kernel⟩,
   ⟨modSpg (fun g => { g with ops := [(0, 2)] }) (onPort { parse := [{ arriving 64 with first := some 0 }] }), 0, _, _, rfl, rfl, by decide +kernel⟩,
   ⟨modSpg (fun g => { g with ops := [(0, 3)] }) (onPort { parse := [{ arriving 64 with first := some 0 }] }), 0, _, _, rfl, rfl, by decide +kernel⟩,
   ⟨modSpg (fun g => { g with ops := [(0, 4)] }) (onPort { parse := [{ arriving 64 with first := some 0 }] }), 0, _, _, rfl, rfl, by decide +kernel⟩,
   ⟨modSpg (fun g => { g with ops := [(0, 5)] }) (onPort { parse := [{ arriving 64 with first := some 0 }] }), 0, _, _, rfl, rfl, by decide +kernel⟩,
   ⟨modSpg (fun g => { g with ops := [(0, 8)] }) (onPort { parse := [{ arriving 64 with first := some 0 }] }), 0, _, _, rfl, rfl, by decide +kernel⟩,
   ⟨modSpg (fun g => { g with ops := [(0, 6)], rules := [(0, { loaded := true, enabled := true })] }) (onPort { parse := [{ arriving 64 with first := some 0 }] }), 0, _, _, _, rfl, rfl, rfl, by decide +kernel⟩,
   ⟨modSpg (fun g => { g with ops := [(0, 6)] }) (onPort { parse := [{ arriving 64 with first := some 0 }] }), 0, _, _, _, rfl, rfl, rfl, by decide +kernel⟩,
   ⟨modSpg (fun g => { g with ops := [(0, 10)] }) (onPort { parse := [{ arriving 64 with first := some 0 }] }), 0, _, _, rfl, rfl, by decide +kernel⟩⟩

theorem witness_FramesAreParsed_2 :
    (∃ (s : State) (p : Nat) (f : Parse) (x : Nat), parsing s p = some f ∧ BitVec.toNat (look s.spg.ops f.pc 0) = x ∧ (p < 2 ∧ f.ops < 64 ∧ bits x 7 0 = 9 ∧ f.rule.isSome = true))
    ∧ (∃ (s : State) (p : Nat) (f : Parse), parsing s p = some f ∧ (p < 2 ∧ 64 ≤ f.ops))
    ∧ (∃ (s : State) (p : Nat) (f : Parse) (o : Nat), (port s p).parse = [f] ∧ f.loading = some o ∧ (p < 2 ∧ f.ended = none ∧ f.readyAt ≤ s.ft ∧ 1 ≤ bits o 15 8 ∧ bits o 15 8 ≤ 4 ∧ bits o 31 16 + bits o 15 8 ≤ frameLen f)) :=
  ⟨⟨modSpg (fun g => { g with ops := [(0, 9)] }) (onPort { parse := [{ arriving 64 with first := some 0, rule := some (0, 0) }] }), 0, _, _, rfl, rfl, by decide +kernel⟩,
   ⟨onPort { parse := [{ arriving 64 with first := some 0, ops := 64 }] }, 0, _, rfl, by decide +kernel⟩,
   ⟨onPort { parse := [{ arriving 64 with first := some 0, loading := some 0x400 }] }, 0, _, _, rfl, rfl, by decide +kernel⟩⟩

theorem witness_TriggersAreDecided :
    (∃ (s : State) (p : Nat) (f : Parse) (j : Nat) (a : Nat) (g : Rule) (c : Nat) (u : State), (port s p).parse = [f] ∧ f.rule = some (j, a) ∧ g = rule s j ∧ c = g.channel ∧ (u = modTill c (fun t => { t with triggers := sat32 (t.triggers + 1) }) s) ∧ (p < 2 ∧ f.decided = none ∧ f.ended ≠ some false ∧ a + 28 ≤ s.ft ∧ (chan s c).st = 1 ∧ refuseCause u g f.key = none))
    ∧ (∃ (s : State) (p : Nat) (f : Parse) (j : Nat) (a : Nat) (g : Rule) (c : Nat) (u : State) (k : Nat), (port s p).parse = [f] ∧ f.rule = some (j, a) ∧ g = rule s j ∧ c = g.channel ∧ (u = modTill c (fun t => { t with triggers := sat32 (t.triggers + 1) }) s) ∧ refuseCause u g f.key = some k ∧ (p < 2 ∧ f.decided = none ∧ f.ended ≠ some false ∧ a + 28 ≤ s.ft ∧ (chan s c).st = 1 ∧ f.verdict = none))
    ∧ (∃ (s : State), 8 ≤ s.spg.buf.length)
    ∧ (∃ (s : State) (g : Rule), s.spg.buf.length < 8 ∧ ((chan s g.channel).st ≠ 1 ∨ cqFree (chan s g.channel) = 0))
    ∧ (∃ (s : State) (g : Rule) (k : Nat) (r : Nat) (n : Nat), boundReq s g.channel k = some (r, n) ∧ (s.spg.buf.length < 8 ∧ (chan s g.channel).st = 1 ∧ cqFree (chan s g.channel) ≠ 0 ∧ leaving s = false ∧ quiescing s (chan s g.channel).stall = false ∧ ((side s r).pend.isSome = true ∨ 2 ≤ load_ s r)))
    ∧ (∃ (s : State) (g : Rule) (k : Nat) (r : Nat) (n : Nat), boundReq s g.channel k = some (r, n) ∧ (s.spg.buf.length < 8 ∧ (chan s g.channel).st = 1 ∧ cqFree (chan s g.channel) ≠ 0 ∧ leaving s = false ∧ quiescing s (chan s g.channel).stall = false ∧ (side s r).pend = none ∧ load_ s r < 2 ∧ ((ent s r).st = RState.pausing ∨ (ent s r).st = RState.paused ∨ (ent s r).st = RState.closing)))
    ∧ (∃ (s : State) (g : Rule) (k : Nat) (r : Nat) (n : Nat), boundReq s g.channel k = some (r, n) ∧ (s.spg.buf.length < 8 ∧ (chan s g.channel).st = 1 ∧ cqFree (chan s g.channel) ≠ 0 ∧ leaving s = false ∧ quiescing s (chan s g.channel).stall = false ∧ (side s r).pend = none ∧ load_ s r < 2 ∧ (ent s r).st = RState.decode))
    ∧ (∃ (s : State) (g : Rule) (k : Nat), s.spg.buf.length < 8 ∧ (chan s g.channel).st = 1 ∧ cqFree (chan s g.channel) ≠ 0 ∧ leaving s = false ∧ quiescing s (chan s g.channel).stall = false ∧ boundReq s g.channel k = none) :=
  ⟨⟨modChan 3 (fun _ => chanOpen) (modSpg (fun g => { g with rules := [(0, { channel := 3, submitOk := true })] }) (onPort { parse := [{ arriving 64 with rule := some (0, 972) }] })), 0, _, _, _, _, _, _, rfl, rfl, rfl, rfl, rfl, by decide +kernel⟩,
   ⟨modChan 3 (fun _ => chanOpen) (modSpg (fun g => { g with rules := [(0, { channel := 3 })] }) (onPort { parse := [{ arriving 64 with rule := some (0, 972) }] })), 0, _, _, _, _, _, _, _, rfl, rfl, rfl, rfl, rfl, rfl, by decide +kernel⟩,
   ⟨modChan 3 (fun _ => chanOpen) (modSpg (fun g => { g with rules := [(0, { channel := 3 })], buf := List.replicate 8 { port := 0, rule := 0, channel := 0, key := 0, tokens := [], sfd := 0, deadline := none, bound := none } }) (onPort { parse := [{ arriving 64 with rule := some (0, 972) }] })), by decide +kernel⟩,
   ⟨State.reset, { channel := 3 }, by decide +kernel⟩,
   ⟨modSide 0 (fun x => { x with open_ := .submit, pend := some { isClose := false } }) (modSide 0 (fun x => { x with open_ := .none_ }) (modEnt 0 (fun e => { e with st := .decode }) (modChan 3 (fun _ => chanOpen) (modSpg (fun g => { g with keys := [(3, 0, 0, 1)] }) up)))), { channel := 3 }, 0, _, _, rfl, by decide +kernel⟩,
   ⟨modSide 0 (fun x => { x with open_ := .none_ }) (modEnt 0 (fun e => { e with st := .paused }) (modChan 3 (fun _ => chanOpen) (modSpg (fun g => { g with keys := [(3, 0, 0, 1)] }) up))), { channel := 3 }, 0, _, _, rfl, by decide +kernel⟩,
   ⟨modSide 0 (fun x => { x with open_ := .none_ }) (modEnt 0 (fun e => { e with st := .decode }) (modChan 3 (fun _ => chanOpen) (modSpg (fun g => { g with keys := [(3, 0, 0, 1)] }) up))), { channel := 3 }, 0, _, _, rfl, by decide +kernel⟩,
   ⟨modChan 3 (fun _ => chanOpen) (modSpg (fun g => { g with rules := [(0, { channel := 3, submitOk := true })] }) (onPort { parse := [{ arriving 64 with rule := some (0, 972) }] })), { channel := 3 }, 0, by decide +kernel⟩⟩

theorem witness_VerdictsAndKeyTable_1 :
    (∃ (s : State) (p : Nat) (f : Parse) (d : Bytes), (port s p).parse = [f] ∧ (p < 2 ∧ List.length d = 16 ∧ f.verdict = none ∧ f.matched = true ∧ f.sfd + fecRx s p + byteFt s p (frameLen f) + 4 ≤ s.ft ∧ (List.length f.frame < 64 ∨ List.length f.frame ≤ 2048 ∧ f.fcsOk = false)))
    ∧ (∃ (s : State) (p : Nat) (f : Parse) (d : Bytes), (port s p).parse = [f] ∧ (p < 2 ∧ List.length d = 16 ∧ f.verdict = none ∧ f.matched = true ∧ f.sfd + fecRx s p + byteFt s p (frameLen f) + 4 ≤ s.ft ∧ 2048 < List.length f.frame))
    ∧ (∃ (s : State) (p : Nat) (f : Parse) (d : Bytes), (port s p).parse = [f] ∧ (∃ j, f.first = some j ∧ (rule (portCount p 0 s) j).hostCopy = false) ∧ (p < 2 ∧ List.length d = 16 ∧ f.verdict = none ∧ f.matched = true ∧ f.sfd + fecRx s p + byteFt s p (frameLen f) + 4 ≤ s.ft ∧ 64 ≤ List.length f.frame ∧ List.length f.frame ≤ 2048 ∧ f.fcsOk = true ∧ slice f.frame 12 2 ≠ [136, 8] ∧ f.ended ≠ some false ∧ f.decided ≠ some false))
    ∧ (∃ (s : State) (p : Nat) (f : Parse) (d : Bytes), (port s p).parse = [f] ∧ (p < 2 ∧ List.length d = 16 ∧ f.verdict = none ∧ f.matched = true ∧ f.sfd + fecRx s p + byteFt s p (frameLen f) + 4 ≤ s.ft ∧ 64 ≤ List.length f.frame ∧ List.length f.frame ≤ 2048 ∧ f.fcsOk = true ∧ slice f.frame 12 2 ≠ [136, 8] ∧ f.first = none ∧ bit (rd (portCount p 0 s) (rPort p 0)) 3 = true))
    ∧ (∃ (s : State) (p : Nat) (f : Parse), (port s p).parse = [f] ∧ (p < 2 ∧ f.decided = some true ∧ f.verdict = some true ∧ f.ended = some true ∧ f.decidedAt + 25 ≤ s.ft ∧ f.lastEmit + 4 ≤ s.ft))
    ∧ (∃ (s : State) (t : Trig) (rest : List Trig), s.spg.buf = t :: rest ∧ (t.delivered = true ∧ isOn s dSEQ = true ∧ s.admq.length < 32 ∧ leaving s = false ∧ trigWaits s t = false))
    ∧ (∃ (s : State) (t : Trig) (rest : List Trig), s.spg.buf = t :: rest ∧ t.delivered = false)
    ∧ (∃ (s : State) (c : Nat) (k : Nat) (h : Nat), (c, k) = bindKeyOf s ∧ h = rd64 s 589896 ∧ handleOk s 2 h = false)
    ∧ (∃ (s : State) (c : Nat) (k : Nat) (h : Nat) (r : Nat), (c, k) = bindKeyOf s ∧ h = rd64 s 589896 ∧ r = hIdx h ∧ (handleOk s 2 h = true ∧ hChip h = s.fab.chip ∧ (ent s r).st = RState.decode ∧ (ent s r).shadow = false ∧ isHolder r = false ∧ (ent s r).channel ≠ c))
    ∧ (∃ (s : State) (c : Nat) (k : Nat) (h : Nat) (r : Nat), (c, k) = bindKeyOf s ∧ h = rd64 s 589896 ∧ r = hIdx h ∧ (handleOk s 2 h = true ∧ hChip h = s.fab.chip ∧ (ent s r).st = RState.decode ∧ (ent s r).shadow = false ∧ isHolder r = false ∧ (ent s r).channel = c ∧ (chan s c).st = 1 ∧ (ent s r).orphan = false ∧ (boundReq s c k).isSome = true))
    ∧ (∃ (s : State) (c : Nat) (k : Nat) (h : Nat) (r : Nat), (c, k) = bindKeyOf s ∧ h = rd64 s 589896 ∧ r = hIdx h ∧ (handleOk s 2 h = true ∧ hChip h = s.fab.chip ∧ (ent s r).st = RState.decode ∧ (ent s r).shadow = false ∧ isHolder r = false ∧ (ent s r).channel = c ∧ (chan s c).st = 1 ∧ (ent s r).orphan = false ∧ boundReq s c k = none ∧ s.spg.keys.length < 4096))
    ∧ (∃ (s : State) (c : Nat) (k : Nat), (c, k) = bindKeyOf s ∧ (boundReq s c k).isSome = true) :=
  ⟨⟨onPort { parse := [{ arriving 63 with matched := true }] }, 0, _, zeros 16, rfl, by decide +kernel⟩,
   ⟨{ onPort { parse := [{ arriving 2049 with matched := true }] } with ft := 2000 }, 0, _, zeros 16, rfl, by decide +kernel⟩,
   ⟨onPort { parse := [{ arriving 64 with matched := true, first := some 0 }] }, 0, _, zeros 16, rfl, ⟨_, rfl, by decide +kernel⟩, by decide +kernel⟩,
   ⟨wr (rPort 0 0) 8 (onPort { parse := [{ arriving 64 with matched := true }] }), 0, _, zeros 16, rfl, by decide +kernel⟩,
   ⟨onPort { parse := [{ arriving 64 with matched := true, rule := some (0, 0), decided := some true, verdict := some true, ended := some true, decidedAt := 975, lastEmit := 996 }] }, 0, _, rfl, by decide +kernel⟩,
   ⟨modSpg (fun g => { g with buf := [{ port := 0, rule := 0, channel := 3, key := 0, tokens := [], sfd := 0, deadline := none, bound := none, delivered := true }] }) up, _, _, rfl, by decide +kernel⟩,
   ⟨modSpg (fun g => { g with buf := [{ port := 0, rule := 0, channel := 3, key := 0, tokens := [], sfd := 0, deadline := none, bound := none, delivered := false }] }) up, _, _, rfl, by decide +kernel⟩,
   ⟨State.reset, _, _, _, rfl, rfl, by decide +kernel⟩,
   ⟨modEnt 0 (fun e => { e with st := .decode, channel := 3 }) (wr 0x9004C 0x01000200  up), _, _, _, _, rfl, rfl, rfl, by decide +kernel⟩,
   ⟨modSpg (fun g => { g with keys := [(0, 0, 0, 1)] }) (modChan 0 (fun _ => chanOpen) (modEnt 0 (fun e => { e with st := .decode }) (wr 0x9004C 0x01000200  up))), _, _, _, _, rfl, rfl, rfl, by decide +kernel⟩,
   ⟨modChan 0 (fun _ => chanOpen) (modEnt 0 (fun e => { e with st := .decode }) (wr 0x9004C 0x01000200  up)), _, _, _, _, rfl, rfl, rfl, by decide +kernel⟩,
   ⟨modSpg (fun g => { g with keys := [(0, 0, 0, 1)] }) (modChan 0 (fun _ => chanOpen) (modEnt 0 (fun e => { e with st := .decode }) (wr 0x9004C 0x01000200  up))), _, _, rfl, by decide +kernel⟩⟩

theorem witness_VerdictsAndKeyTable_2 :
    (∃ (s : State) (c : Nat) (k : Nat), (c, k) = bindKeyOf s ∧ boundReq s c k = none)
    ∧ (∃ (j : Nat), j < 8) :=
  ⟨⟨State.reset, _, _, rfl, by decide +kernel⟩,
   ⟨0, by decide +kernel⟩⟩

theorem witness_PtpQueuesAndLeases :
    (∃ (s : State) (m : PtpMap), m = ptpStaged s ∧ m.ft ≤ s.ft)
    ∧ (∃ (s : State) (m : PtpMap), m = ptpStaged s ∧ s.ft < m.ft)
    ∧ (∃ (s : State) (m : PtpMap), s.spg.ptpNext = some m ∧ m.ft ≤ s.ft)
    ∧ (∃ (s : State) (m : PtpMap), s.spg.ptpNext = some m ∧ s.ft < m.ft)
    ∧ (∃ (p : Nat), p < 2)
    ∧ (∃ (n : Nat) (v : Word), n < 64 ∧ bit (BitVec.toNat v) 31 = false)
    ∧ (∃ (n : Nat) (v : Word), n < 64 ∧ bit (BitVec.toNat v) 31 = true ∧ bit (BitVec.toNat v) 30 = true)
    ∧ (∃ (s : State) (n : Nat) (v : Word) (l : Lease), l = lease s n ∧ (n < 64 ∧ bit (BitVec.toNat v) 31 = true ∧ bit (BitVec.toNat v) 30 = false ∧ BitVec.toNat l.start = (BitVec.toNat l.next + l.left) % 2 ^ 32))
    ∧ (∃ (s : State) (n : Nat) (v : Word) (l : Lease), l = lease s n ∧ (n < 64 ∧ bit (BitVec.toNat v) 31 = true ∧ bit (BitVec.toNat v) 30 = false ∧ BitVec.toNat l.start ≠ (BitVec.toNat l.next + l.left) % 2 ^ 32)) :=
  ⟨⟨State.reset, _, rfl, by decide +kernel⟩,
   ⟨wr 0x000A0100 1 up, _, rfl, by decide +kernel⟩,
   ⟨modSpg (fun g => { g with ptpNext := some { ft := 0 } }) up, _, rfl, by decide +kernel⟩,
   ⟨modSpg (fun g => { g with ptpNext := some { ft := 1 } }) up, _, rfl, by decide +kernel⟩,
   ⟨0, by decide +kernel⟩,
   ⟨0, 0x00000000#32, by decide +kernel⟩,
   ⟨0, 0xc0000000#32, by decide +kernel⟩,
   ⟨State.reset, 0, 0x80000000#32, _, rfl, by decide +kernel⟩,
   ⟨modLease 63 (fun l => { l with start := 1 }) up, 63, 0x80000000#32, _, rfl, by decide +kernel⟩⟩

theorem witness_EgressLoadsCommitWhole :
    (∃ (s : State), s.spg.load = none)
    ∧ (∃ (s : State), s.spg.load.isSome = true)
    ∧ (∃ (s : State) (l : EgrLoad), s.spg.load = some l ∧ isOn s dEGR = true)
    ∧ (∃ (s : State) (l : EgrLoad) (b : Bytes), s.spg.load = some l ∧ (isOn s dEGR = true ∧ l.isMap = false ∧ List.length b = 336 ∧ l.index < 1024 ∧ tmplBad b = false))
    ∧ (∃ (s : State) (l : EgrLoad) (b : Bytes), s.spg.load = some l ∧ (isOn s dEGR = true ∧ l.isMap = false ∧ List.length b = 336 ∧ (1024 ≤ l.index ∨ tmplBad b = true)))
    ∧ (∃ (s : State) (l : EgrLoad) (b : Bytes), s.spg.load = some l ∧ (isOn s dEGR = true ∧ l.isMap = true ∧ List.length b = 8 * l.count ∧ l.count ≠ 0)) :=
  ⟨⟨State.reset, by decide +kernel⟩,
   ⟨modSpg (fun g => { g with load := some ⟨false, 1023, 1, 0⟩ }) up, by decide +kernel⟩,
   ⟨modSpg (fun g => { g with load := some ⟨false, 1023, 1, 0⟩ }) up, _, rfl, by decide +kernel⟩,
   ⟨modSpg (fun g => { g with load := some ⟨false, 1023, 1, 0⟩ }) up, _, [60] ++ zeros 335, rfl, by decide +kernel⟩,
   ⟨modSpg (fun g => { g with load := some ⟨false, 1024, 1, 0⟩ }) up, _, [60] ++ zeros 335, rfl, by decide +kernel⟩,
   ⟨modSpg (fun g => { g with load := some ⟨true, 65535, 1, 0⟩ }) up, _, zeros 8, rfl, by decide +kernel⟩⟩

theorem witness_FramesLeave :
    (∃ (s : State) (p : Nat) (f : QFrame) (rest : List QFrame), (port s p).q = f :: rest ∧ (p < 2 ∧ f.ready ≤ s.ft ∧ (port s p).busyUntil ≤ s.ft ∧ (port s p).link = true ∧ isOn s dEGR = true ∧ bit (rd s rHaltStat) 8 = true))
    ∧ (∃ (s : State) (p : Nat) (f : QFrame) (rest : List QFrame), (port s p).q = f :: rest ∧ (p < 2 ∧ f.ready ≤ s.ft ∧ (port s p).busyUntil ≤ s.ft ∧ (port s p).link = true ∧ isOn s dEGR = true ∧ bit (rd s rHaltStat) 8 = false ∧ f.deadline = none))
    ∧ (∃ (s : State) (p : Nat) (f : QFrame) (rest : List QFrame) (d : Nat), (port s p).q = f :: rest ∧ f.deadline = some d ∧ (p < 2 ∧ f.ready ≤ s.ft ∧ (port s p).busyUntil ≤ s.ft ∧ (port s p).link = true ∧ isOn s dEGR = true ∧ bit (rd s rHaltStat) 8 = false ∧ s.ft ≤ d))
    ∧ (∃ (s : State) (p : Nat) (f : QFrame) (rest : List QFrame) (d : Nat), (port s p).q = f :: rest ∧ f.deadline = some d ∧ (p < 2 ∧ f.ready ≤ s.ft ∧ (port s p).busyUntil ≤ s.ft ∧ (port s p).link = true ∧ isOn s dEGR = true ∧ bit (rd s rHaltStat) 8 = false ∧ d < s.ft ∧ f.late = false))
    ∧ (∃ (s : State) (j : PatchJob), s.spg.jobs = [j] ∧ (j.at_ ≤ s.ft ∧ isOn s dEGR = true ∧ j.tmpl.requireAll = false))
    ∧ (∃ (s : State) (j : PatchJob) (p : Patch), s.spg.jobs = [j] ∧ (j.at_ ≤ s.ft ∧ isOn s dEGR = true ∧ j.tmpl.requireAll = true ∧ p ∈ j.tmpl.patches ∧ (∀ k ∈ j.tokens, k.1 ≠ p.pos)))
    ∧ (∃ (s : State) (p : Nat) (d : Bytes) (n : Nat), n = u16 d 8 ∧ (p < 2 ∧ List.length d = 16 ∧ (port s p).txHead ≠ (port s p).txTail ∧ (port s p).q = [] ∧ (port s p).busyUntil ≤ s.ft ∧ (port s p).link = true ∧ isOn s dEGR = true ∧ n ≤ rdf s (rPort p 0) 15 4))
    ∧ (∃ (s : State) (p : Nat) (d : Bytes) (n : Nat), n = u16 d 8 ∧ (p < 2 ∧ List.length d = 16 ∧ (port s p).txHead ≠ (port s p).txTail ∧ (port s p).q = [] ∧ (port s p).busyUntil ≤ s.ft ∧ (port s p).link = true ∧ isOn s dEGR = true ∧ rdf s (rPort p 0) 15 4 < n)) :=
  ⟨⟨wr rHaltStat 256 (onPort { q := [{ frame := zeros 64, req := 0, gen := 1, deadline := none, late := false, ready := 1000, acc := 0 }], busyUntil := 1000, link := true }), 0, _, _, rfl, by decide +kernel⟩,
   ⟨wr rHaltStat 0 (onPort { q := [{ frame := zeros 64, req := 0, gen := 1, deadline := none, late := false, ready := 1000, acc := 0 }], busyUntil := 1000, link := true }), 0, _, _, rfl, by decide +kernel⟩,
   ⟨wr rHaltStat 0 (onPort { q := [{ frame := zeros 64, req := 0, gen := 1, deadline := some 1000, late := false, ready := 1000, acc := 0 }], busyUntil := 1000, link := true }), 0, _, _, _, rfl, rfl, by decide +kernel⟩,
   ⟨wr rHaltStat 0 (onPort { q := [{ frame := zeros 64, req := 0, gen := 1, deadline := some 999, late := false, ready := 1000, acc := 0 }], busyUntil := 1000, link := true }), 0, _, _, _, rfl, rfl, by decide +kernel⟩,
   ⟨modSpg (fun g => { g with jobs := [{ template := 0, tokens := [], req := 0, gen := 1, deadline := none, late := false, at_ := 0, tmpl := {  }, frame := [], acc := 0 }] }) up, _, rfl, by decide +kernel⟩,
   ⟨modSpg (fun g => { g with jobs := [{ template := 0, tokens := [], req := 0, gen := 1, deadline := none, late := false, at_ := 0, tmpl := { requireAll := true, patches := [⟨0, 1, 0, 0⟩] }, frame := [], acc := 0 }] }) up, _, { pos := 0, width := 1, ofs := 0, base := 0 }, rfl, by decide +kernel⟩,
   ⟨wr (rPort 0 0) 0x10 (onPort { txTail := 1, link := true }), 0, zeros 16, _, rfl, by decide +kernel⟩,
   ⟨wr (rPort 0 0) 0x10 (onPort { txTail := 1, link := true }), 0, zeros 8 ++ [2] ++ zeros 7, _, rfl, by decide +kernel⟩⟩

theorem witness_LinksTrain_1 :
    (∃ (s : State) (p : Nat) (v : Word), p < 8 ∧ bit (BitVec.toNat v) 0 = true ∧ (link s p).st = 0)
    ∧ (∃ (s : State) (p : Nat) (v : Word), p < 8 ∧ bit (BitVec.toNat v) 0 = true ∧ (link s p).st ≠ 0)
    ∧ (∃ (p : Nat) (v : Word), p < 8 ∧ bit (BitVec.toNat v) 0 = false)
    ∧ (∃ (s : State) (p : Nat), p < 8 ∧ (link s p).st = 1)
    ∧ (∃ (s : State) (p : Nat), p < 8 ∧ (link s p).st = 2)
    ∧ (∃ (s : State) (p : Nat), p < 8 ∧ (link s p).st = 3)
    ∧ (∃ (s : State) (p : Nat), p < 8 ∧ 1 ≤ (link s p).st ∧ (link s p).st ≤ 4 ∧ (link s p).trainAt + trainLimit s p ≤ s.ft ∧ (link s p).attempts < 2)
    ∧ (∃ (s : State) (p : Nat), p < 8 ∧ 1 ≤ (link s p).st ∧ (link s p).st ≤ 4 ∧ (link s p).trainAt + trainLimit s p ≤ s.ft ∧ 2 ≤ (link s p).attempts)
    ∧ (∃ (s : State) (p : Nat), p < 8 ∧ (link s p).st = 5 ∧ (link s p).mismatch = true)
    ∧ (∃ (s : State) (p : Nat) (v : Word), p < 8 ∧ bit (BitVec.toNat v) 2 = true ∧ (link s p).st = 6)
    ∧ (∃ (s : State) (p : Nat), (link s p).st = 7)
    ∧ (∃ (p : Nat) (msg : Bytes) (b : Bytes), b = (ctlOf msg).body ∧ (p < 8 ∧ List.length msg = 64 ∧ bit (u8 b 8) 0 = false)) :=
  ⟨⟨onLink { st := 0 }, 7, 0x00000001#32, by decide +kernel⟩,
   ⟨State.reset, 0, 0x00000001#32, by decide +kernel⟩,
   ⟨0, 0x00000000#32, by decide +kernel⟩,
   ⟨State.reset, 0, by decide +kernel⟩,
   ⟨onLink { st := 2 }, 7, by decide +kernel⟩,
   ⟨onLink { st := 3 }, 7, by decide +kernel⟩,
   ⟨onLink { st := 0 }, 0, by decide +kernel⟩,
   ⟨onLink { st := 2, attempts := 2 }, 7, by decide +kernel⟩,
   ⟨onLink { st := 5, mismatch := true }, 7, by decide +kernel⟩,
   ⟨onLink { st := 6 }, 7, 0xffffffff#32, by decide +kernel⟩,
   ⟨onLink { st := 7, attempts := 1 }, 7, by decide +kernel⟩,
   ⟨0, msgOf 0 [], _, rfl, by decide +kernel⟩⟩

theorem witness_LinksTrain_2 :
    (∃ (s : State) (p : Nat) (msg : Bytes) (b : Bytes) (l : Link), b = (ctlOf msg).body ∧ l = link s p ∧ (p < 8 ∧ List.length msg = 64 ∧ bit (u8 b 8) 0 = true ∧ l.st = 4 ∧ l.echoes.length < 63 ∧ u8 b 9 = l.echoes.length))
    ∧ (∃ (s : State) (p : Nat) (msg : Bytes) (b : Bytes) (l : Link), b = (ctlOf msg).body ∧ l = link s p ∧ (p < 8 ∧ List.length msg = 64 ∧ bit (u8 b 8) 0 = true ∧ l.st = 4 ∧ l.echoes.length = 63 ∧ u8 b 9 = 63))
    ∧ (∃ (s : State) (p : Nat) (l : Link), l = link s p ∧ (p < 8 ∧ l.st = 4 ∧ l.echoes.length = 64 ∧ stable l.echoes = false))
    ∧ (∃ (s : State) (p : Nat) (l : Link), l = link s p ∧ (p < 8 ∧ l.st = 4 ∧ l.echoes.length = 64 ∧ stable l.echoes = true))
    ∧ (∃ (s : State) (p : Nat) (msg : Bytes), p < 8 ∧ List.length msg = 64 ∧ (link s p).st = 6)
    ∧ (∃ (s : State) (p : Nat) (msg : Bytes), p < 8 ∧ List.length msg = 64 ∧ ((link s p).st = 4 ∨ (link s p).st = 5))
    ∧ (∃ (s : State) (p : Nat) (n : Nbr), (link s p).nbr = some n ∧ ((link s p).st = 5 ∧ n.coded ≠ (link s p).coded ∧ (link s p).mismatch = false))
    ∧ (∃ (s : State) (p : Nat) (n : Nbr), (link s p).nbr = some n ∧ ((link s p).st = 5 ∧ n.coded = (link s p).coded ∧ n.serial ≠ s.serial ∧ s.clk.ftValid = false)) :=
  ⟨⟨onLink { st := 4 }, 7, msgOf 0 (zeros 8 ++ [1, 0]), _, _, rfl, rfl, by decide +kernel⟩,
   ⟨onLink { st := 4, echoes := (List.range 63) }, 7, msgOf 0 (zeros 8 ++ [1, 63]), _, _, rfl, rfl, by decide +kernel⟩,
   ⟨onLink { st := 4, echoes := (List.range 64) }, 7, _, rfl, by decide +kernel⟩,
   ⟨onLink { st := 4, echoes := List.replicate 64 400 }, 7, _, rfl, by decide +kernel⟩,
   ⟨onLink { st := 6 }, 7, msgOf 0 (zeros 8 ++ [1, 0]), by decide +kernel⟩,
   ⟨onLink { st := 4 }, 7, msgOf 0 (zeros 8 ++ [1, 0]), by decide +kernel⟩,
   ⟨onLink { st := 5, nbr := some { coded := true } }, 7, _, rfl, by decide +kernel⟩,
   ⟨onLink { st := 5, nbr := some { serial := 1 } }, 7, _, rfl, by decide +kernel⟩⟩

theorem witness_LinksReplayAndAreLost :
    (∃ (s : State) (p : Nat), p < 8 ∧ (link s p).st = 6)
    ∧ (∃ (s : State) (p : Nat), p < 8 ∧ ((link s p).st = 4 ∨ (link s p).st = 5))
    ∧ (∃ (s : State) (p : Nat) (vc : Nat) (set : Nat) (x : RxPart), s.fab.parts = [x] ∧ x.vc = vc ∧ x.set = set ∧ x.port = p ∧ (p < 8 ∧ vc < 4 ∧ set < 2 ∧ x.dead = 1 ∧ x.fwd = none))
    ∧ (∃ (s : State) (p : Nat) (vc : Nat) (set : Nat) (x : RxPart) (q : Nat), s.fab.parts = [x] ∧ x.vc = vc ∧ x.set = set ∧ x.port = p ∧ x.fwd = some q ∧ (p < 8 ∧ vc < 4 ∧ set < 2 ∧ x.dead = 1 ∧ q < 8 ∧ x.eopIn = true))
    ∧ (∃ (s : State) (p : Nat) (u : State), u = bumpSat (rLink p 16) s ∧ (p < 8 ∧ (link s p).st = 6 ∧ discards u p = false))
    ∧ (∃ (s : State) (p : Nat) (u : State), u = bumpSat (rLink p 16) s ∧ (p < 8 ∧ (link s p).st = 6 ∧ discards u p = true))
    ∧ (∃ (s : State) (p : Nat) (n : Nat) (l : Link), l = link s p ∧ (p < 8 ∧ l.st = 6 ∧ 1 ≤ n))
    ∧ (∃ (s : State) (p : Nat) (l : Link), l = link s p ∧ (p < 8 ∧ l.st = 6 ∧ l.fails < 4))
    ∧ (∃ (s : State) (p : Nat) (l : Link), l = link s p ∧ (p < 8 ∧ l.st = 6 ∧ 4 ≤ l.fails))
    ∧ (∃ (p : Nat) (n : Nat), p < 8 ∧ 1 ≤ n)
    ∧ (∃ (p : Nat) (vc : Nat) (set : Nat), p < 8 ∧ vc < 4 ∧ set < 2) :=
  ⟨⟨onLink { st := 6 }, 7, by decide +kernel⟩,
   ⟨onLink { st := 4 }, 7, by decide +kernel⟩,
   ⟨modFab (fun f => { f with parts := [{ port := 7, vc := 3, set := 1, flits := [], dead := 1 }] }) up, _, _, _, _, rfl, rfl, rfl, rfl, by decide +kernel⟩,
   ⟨modFab (fun f => { f with parts := [{ port := 7, vc := 3, set := 1, flits := [(7, [0x80] ++ zeros 79)], dead := 1, fwd := some 0 }] }) up, _, _, _, _, _, rfl, rfl, rfl, rfl, rfl, by decide +kernel⟩,
   ⟨onLink { st := 6 }, 7, _, rfl, by decide +kernel⟩,
   ⟨onLink { st := 6, discarding := true, discardTill := 1600001 }, 7, _, rfl, by decide +kernel⟩,
   ⟨onLink { st := 6 }, 7, 1, _, rfl, by decide +kernel⟩,
   ⟨onLink { st := 6 }, 7, _, rfl, by decide +kernel⟩,
   ⟨onLink { st := 6, replay := [{ vc := 0, set := 0, flit := zeros 80 }], fails := 4 }, 7, _, rfl, by decide +kernel⟩,
   ⟨0, 1, by decide +kernel⟩,
   ⟨0, 0, 0, by decide +kernel⟩⟩

theorem witness_FlitsAndPackets :
    (∃ (s : State) (p : Nat) (set : Nat) (f : Bytes) (u : State), (u = when_ (!aonFlit (hdrOf f) f) (wakeAll 5 [dLNK]) (emit (Emit.linkSym p 1 0 0 1) (addWrap (rLink p 28) 1 (modLink p (fun l => { l with discarding := false }) s)))) ∧ (p < 8 ∧ set < 2 ∧ List.length f = 80 ∧ (link s p).st = 6 ∧ ((link s p).coded = true ∨ u16 f 14 = (crc16 (List.take 14 f ++ List.drop 16 f)).toNat) ∧ discards s p = false ∧ (link u p).rxHeld = [] ∧ mustWait u p set f = false))
    ∧ (∃ (s : State) (p : Nat) (set : Nat) (f : Bytes) (u : State), (u = when_ (!aonFlit (hdrOf f) f) (wakeAll 5 [dLNK]) (emit (Emit.linkSym p 1 0 0 1) (addWrap (rLink p 28) 1 (modLink p (fun l => { l with discarding := false }) s)))) ∧ (p < 8 ∧ set < 2 ∧ List.length f = 80 ∧ (link s p).st = 6 ∧ ((link s p).coded = true ∨ u16 f 14 = (crc16 (List.take 14 f ++ List.drop 16 f)).toNat) ∧ discards s p = false ∧ mustWait u p set f = true))
    ∧ (∃ (s : State) (p : Nat) (set : Nat) (f : Bytes), p < 8 ∧ set < 2 ∧ List.length f = 80 ∧ (link s p).st = 6 ∧ ((link s p).coded = true ∨ u16 f 14 = (crc16 (List.take 14 f ++ List.drop 16 f)).toNat) ∧ discards s p = true)
    ∧ (∃ (s : State) (p : Nat) (set : Nat) (f : Bytes), p < 8 ∧ set < 2 ∧ List.length f = 80 ∧ (link s p).st = 6 ∧ (link s p).coded = false ∧ u16 f 14 ≠ (crc16 (List.take 14 f ++ List.drop 16 f)).toNat)
    ∧ (∃ (s : State) (f : Bytes) (h : Hdr) (d : DstStream), h = hdrOf f ∧ d = look s.fab.dstStreams (dstKey h.src h.stall) { next := 0, faults := 0, lost := 0, unacked := 0, oldest := none } ∧ (List.length f = 80 ∧ h.seq = d.next ∧ h.abt = false ∧ pwCause s h 0 1 = 0))
    ∧ (∃ (s : State) (f : Bytes) (h : Hdr) (d : DstStream) (x : Nat) (k : Nat), h = hdrOf f ∧ d = look s.fab.dstStreams (dstKey h.src h.stall) { next := 0, faults := 0, lost := 0, unacked := 0, oldest := none } ∧ pwCause s h x 1 = k ∧ (List.length f = 80 ∧ h.seq = d.next ∧ h.abt = false ∧ k ≠ 0))
    ∧ (∃ (s : State) (f : Bytes) (h : Hdr) (d : DstStream), h = hdrOf f ∧ d = look s.fab.dstStreams (dstKey h.src h.stall) { next := 0, faults := 0, lost := 0, unacked := 0, oldest := none } ∧ (List.length f = 80 ∧ h.seq = d.next ∧ h.abt = true))
    ∧ (∃ (f : Bytes) (h : Hdr), h = hdrOf f ∧ (List.length f = 80 ∧ h.abt = false))
    ∧ (∃ (f : Bytes) (h : Hdr), h = hdrOf f ∧ (List.length f = 80 ∧ h.abt = true))
    ∧ (∃ (s : State) (f : Bytes) (h : Hdr) (x : ReadRec), h = hdrOf f ∧ s.fab.reads = [x] ∧ (List.length f = 80 ∧ h.abt = false ∧ x.dst = h.src ∧ x.handle = BitVec.ofNat 64 (handleOf h.gen s.fab.chip h.stall h.kind h.index))) :=
  ⟨⟨{ onLink { st := 6, coded := true } with clk := { up.clk with source := 2 } }, 7, 0, zeros 80, _, rfl, by decide +kernel⟩,
   ⟨onLink { st := 6, coded := true }, 7, 0, zeros 80, _, rfl, by decide +kernel⟩,
   ⟨onLink { st := 6, coded := true, discarding := true, discardTill := 1600001 }, 7, 0, zeros 80, by decide +kernel⟩,
   ⟨onLink { st := 6 }, 7, 0, zeros 80, by decide +kernel⟩,
   ⟨State.reset, zeros 80, _, _, rfl, rfl, by decide +kernel⟩,
   ⟨State.reset, zeros 80, _, _, 1, _, rfl, rfl, rfl, by decide +kernel⟩,
   ⟨State.reset, zeros 13 ++ [0x80] ++ zeros 66, _, _, rfl, rfl, by decide +kernel⟩,
   ⟨zeros 80, _, rfl, by decide +kernel⟩,
   ⟨zeros 13 ++ [0x80] ++ zeros 66, _, rfl, by decide +kernel⟩,
   ⟨modFab (fun f => { f with reads := [{ dst := 0, handle := 0 }] }) up, zeros 80, _, _, rfl, rfl, by decide +kernel⟩⟩

theorem witness_PwackAndFarFaults :
    (∃ (s : State) (c : Nat) (n : Nat) (d : DstStream), d = look s.fab.dstStreams (dstKey c n) { next := 0, faults := 0, lost := 0, unacked := 0, oldest := none } ∧ (c < 256 ∧ n < 32 ∧ 16 ≤ d.unacked))
    ∧ (∃ (s : State) (c : Nat) (n : Nat) (d : DstStream) (t : Nat), d = look s.fab.dstStreams (dstKey c n) { next := 0, faults := 0, lost := 0, unacked := 0, oldest := none } ∧ d.oldest = some t ∧ (c < 256 ∧ n < 32 ∧ d.unacked < 16 ∧ s.ft < t + 64))
    ∧ (∃ (s : State) (f : Bytes) (h : Hdr) (z : SrcStream) (a : Nat), h = hdrOf f ∧ z = look s.fab.srcStreams (srcKey h.stall h.src) { next := 0, acked := 0, faults := 0, losses := 0, waiting := none, out := [], holdFor := none, lastTx := 0, held := [] } ∧ a = (u16 (payload f) 0 + 1 + 65536 - z.acked) % 65536 ∧ (List.length f = 80 ∧ 0 < a ∧ a ≤ 32768))
    ∧ (∃ (s : State) (f : Bytes) (h : Hdr) (z : SrcStream) (a : Nat), h = hdrOf f ∧ z = look s.fab.srcStreams (srcKey h.stall h.src) { next := 0, acked := 0, faults := 0, losses := 0, waiting := none, out := [], holdFor := none, lastTx := 0, held := [] } ∧ a = 0 ∧ (List.length f = 80 ∧ a = (u16 (payload f) 0 + 1 + 65536 - z.acked) % 65536 ∧ z.waiting = none))
    ∧ (∃ (s : State) (n : Nat) (c : Nat) (z : SrcStream) (d : Nat), z = look s.fab.srcStreams (srcKey n c) { next := 0, acked := 0, faults := 0, losses := 0, waiting := none, out := [], holdFor := none, lastTx := 0, held := [] } ∧ z.holdFor = some d ∧ (n < 32 ∧ c < 256 ∧ streamQueued s n c = false ∧ z.lastTx + d ≤ s.ft))
    ∧ (∃ (s : State) (n : Nat) (c : Nat) (z : SrcStream) (d : Nat), z = look s.fab.srcStreams (srcKey n c) { next := 0, acked := 0, faults := 0, losses := 0, waiting := none, out := [], holdFor := none, lastTx := 0, held := [] } ∧ z.holdFor = some d ∧ (n < 32 ∧ c < 256 ∧ (streamQueued s n c = true ∨ s.ft < z.lastTx + d)))
    ∧ (∃ (s : State) (pl : Bytes), List.length pl = 64 ∧ s.fab.farHist.contains (slice pl 1 23) = true)
    ∧ (∃ (s : State) (pl : Bytes), List.length pl = 64 ∧ s.fab.farHist.contains (slice pl 1 23) = false ∧ s.fab.farq.length < 256 ∧ namesRead s pl = false)
    ∧ (∃ (s : State) (pl : Bytes), List.length pl = 64 ∧ s.fab.farHist.contains (slice pl 1 23) = false ∧ s.fab.farq.length < 256 ∧ namesRead s pl = true)
    ∧ (∃ (s : State) (pl : Bytes), List.length pl = 64 ∧ s.fab.farHist.contains (slice pl 1 23) = false ∧ 256 ≤ s.fab.farq.length)
    ∧ (∃ (s : State) (v : Word) (n : Nat), n = (BitVec.toNat v % 256 + 256 - s.fab.farqHead) % 256 ∧ n ≤ s.fab.farq.length)
    ∧ (∃ (s : State) (v : Word) (n : Nat), n = (BitVec.toNat v % 256 + 256 - s.fab.farqHead) % 256 ∧ s.fab.farq.length < n) :=
  ⟨⟨modFab (fun f => { f with dstStreams := [(dstKey 255 31, { unacked := 16, oldest := some 0 })] }) up, 255, 31, _, rfl, by decide +kernel⟩,
   ⟨modFab (fun f => { f with dstStreams := [(dstKey 255 31, { unacked := 15, oldest := some 0 })] }) { up with ft := 63 }, 255, 31, _, _, rfl, rfl, by decide +kernel⟩,
   ⟨State.reset, zeros 80, _, _, _, rfl, rfl, rfl, by decide +kernel⟩,
   ⟨modFab (fun f => { f with srcStreams := [(srcKey 0 0, { acked := 1 })] }) up, zeros 80, _, _, _, rfl, rfl, rfl, by decide +kernel⟩,
   ⟨modFab (fun f => { f with srcStreams := [(srcKey 31 255, { holdFor := some 0 })] }) up, 31, 255, _, _, rfl, rfl, by decide +kernel⟩,
   ⟨modFab (fun f => { f with srcStreams := [(srcKey 31 255, { holdFor := some 1 })] }) up, 31, 255, _, _, rfl, rfl, by decide +kernel⟩,
   ⟨modFab (fun f => { f with farHist := [zeros 23] }) up, zeros 64, by decide +kernel⟩,
   ⟨State.reset, zeros 64, by decide +kernel⟩,
   ⟨State.reset, [0, 5] ++ zeros 62, by decide +kernel⟩,
   ⟨modFab (fun f => { f with farq := List.replicate 256 [] }) up, zeros 64, by decide +kernel⟩,
   ⟨State.reset, 0x00000000#32, _, rfl, by decide +kernel⟩,
   ⟨State.reset, 0x00000001#32, _, rfl, by decide +kernel⟩⟩

theorem witness_NoticesAndEpochs :
    (∃ (pl : Bytes), List.length pl = 64)
    ∧ (∃ (s : State) (pl : Bytes), List.length pl = 64 ∧ s.ft < u64 pl 16)
    ∧ (∃ (s : State) (pl : Bytes) (t : Step) (x : Row) (a : Nat) (h : Nat), h = u64 pl 8 ∧ s.steps = [t] ∧ t.aisle = a ∧ t.rows = [x] ∧ (List.length pl = 64 ∧ a = u8 pl 1 ∧ u64 pl 16 ≤ s.ft ∧ x.req = hIdx h ∧ x.gen = hGen h))
    ∧ (∃ (s : State) (pl : Bytes), List.length pl = 64 ∧ (u8 pl 1 = s.fab.chip ∨ s.fab.lost.contains (u8 pl 1) = true))
    ∧ (∃ (s : State) (pl : Bytes), List.length pl = 64 ∧ u8 pl 1 ≠ s.fab.chip ∧ s.fab.lost.contains (u8 pl 1) = false ∧ u8 pl 3 ≠ 3)
    ∧ (∃ (s : State) (pl : Bytes), List.length pl = 64 ∧ u8 pl 1 ≠ s.fab.chip ∧ s.fab.lost.contains (u8 pl 1) = false ∧ u8 pl 3 = 3)
    ∧ (∃ (s : State), isRoot s = true)
    ∧ (∃ (s : State), isRoot s = false)
    ∧ (∃ (s : State) (m : Bytes) (b : Bytes), b = (ctlOf m).body ∧ s.ft ≤ u64 b 8)
    ∧ (∃ (s : State) (m : Bytes) (b : Bytes), b = (ctlOf m).body ∧ u64 b 8 < s.ft)
    ∧ (∃ (s : State) (n : Nat) (t : Nat), s.fab.armed = some (n, t) ∧ (s.fab.stagedNum = n ∧ t ≤ s.ft))
    ∧ (∃ (s : State) (n : Nat) (t : Nat), s.fab.armed = some (n, t) ∧ (s.fab.stagedNum = n ∧ s.ft < t)) :=
  ⟨⟨zeros 64, by decide +kernel⟩,
   ⟨State.reset, zeros 16 ++ [2] ++ zeros 47, by decide +kernel⟩,
   ⟨(fun s : State => { s with steps := [{ num := 0, aisle := 0, model := 0, issue := 0, rows := [{ req := 0, gen := 0, committed := 0, prompt := [], new := 0, spec := 0, rung := 0, orders := 0, aslot := 0, lane := 0, verify := 0 }], adapters := [] }] }) up, zeros 64, _, _, _, _, rfl, rfl, rfl, rfl, by decide +kernel⟩,
   ⟨State.reset, zeros 64, by decide +kernel⟩,
   ⟨State.reset, [0, 1] ++ zeros 62, by decide +kernel⟩,
   ⟨State.reset, [0, 1, 0, 3] ++ zeros 60, by decide +kernel⟩,
   ⟨rootUp, by decide +kernel⟩,
   ⟨State.reset, by decide +kernel⟩,
   ⟨State.reset, zeros 64, _, rfl, by decide +kernel⟩,
   ⟨{ up with ft := 1 }, zeros 64, _, rfl, by decide +kernel⟩,
   ⟨modFab (fun f => { f with armed := some (0, 0) }) up, _, _, rfl, by decide +kernel⟩,
   ⟨modFab (fun f => { f with armed := some (0, 1) }) up, _, _, rfl, by decide +kernel⟩⟩

theorem witness_DiscoveryAssignsIds :
    (∃ (s : State), isRoot s = true ∧ s.fab.routeActive = false)
    ∧ (∃ (s : State), isRoot s = true ∧ s.fab.routeActive = true)
    ∧ (∃ (s : State), isRoot s = true ∧ s.fab.discWant = true ∧ (∀ p < 8, settled s p = true))
    ∧ (∃ (s : State) (m : Bytes) (c : Ctl) (ser : BitVec 64), c = ctlOf m ∧ ser = BitVec.ofNat 64 (u64 c.body 0) ∧ (isRoot s = true ∧ s.fab.discBusy = true ∧ u16 c.body 10 = s.fab.discNum % 65536 ∧ ((s.fab.chips.any fun x => x.serial == ser) = false) ∧ s.fab.chips.length < 256))
    ∧ (∃ (s : State) (m : Bytes) (c : Ctl) (ser : BitVec 64), c = ctlOf m ∧ ser = BitVec.ofNat 64 (u64 c.body 0) ∧ (isRoot s = true ∧ s.fab.discBusy = true ∧ u16 c.body 10 = s.fab.discNum % 65536 ∧ ((s.fab.chips.any fun x => x.serial == ser) = true)))
    ∧ (∃ (s : State) (byStrap : Bool), byStrap = bit (rd s 524292) 1 ∧ (isRoot s = true ∧ s.fab.discBusy = true ∧ s.fab.discWant = false ∧ (discClosed s = true ∨ s.fab.discAt + 1600000 ≤ s.ft) ∧ (byStrap = false ∨ badStraps s.serial s.fab.chips = none)))
    ∧ (∃ (s : State) (byStrap : Bool) (a : W64) (b : W64), byStrap = true ∧ badStraps s.serial s.fab.chips = some (a, b) ∧ (isRoot s = true ∧ s.fab.discBusy = true ∧ s.fab.discWant = false ∧ (discClosed s = true ∨ s.fab.discAt + 1600000 ≤ s.ft) ∧ byStrap = bit (rd s 524292) 1))
    ∧ (∃ (s : State) (p : Nat) (m : Bytes) (c : Ctl) (num : Nat), c = ctlOf m ∧ num = u16 c.body 8 ∧ (p < 8 ∧ c.pathLen ≠ 0 ∧ (isRoot s = true ∨ s.fab.discSeen = some num)))
    ∧ (∃ (s : State) (p : Nat) (m : Bytes) (c : Ctl) (num : Nat), c = ctlOf m ∧ num = u16 c.body 8 ∧ (p < 8 ∧ c.pathLen ≠ 0 ∧ isRoot s = false ∧ s.fab.discSeen ≠ some num ∧ c.pathLen < 32))
    ∧ (∃ (s : State) (p : Nat) (m : Bytes) (b : Bytes), b = (ctlOf m).body ∧ (p < 8 ∧ u64 b 0 = BitVec.toNat s.serial))
    ∧ (∃ (s : State) (p : Nat) (m : Bytes) (b : Bytes), b = (ctlOf m).body ∧ (p < 8 ∧ u64 b 0 ≠ BitVec.toNat s.serial))
    ∧ (∃ (s : State) (p : Nat) (c : ChipRec), s.fab.chips = [c] ∧ (p < 8 ∧ isRoot s = true ∧ s.fab.discDone = true ∧ c.serial ≠ s.serial)) :=
  ⟨⟨rootUp, by decide +kernel⟩,
   ⟨modFab (fun f => { f with routeActive := true }) rootUp, by decide +kernel⟩,
   ⟨modFab (fun f => { f with discWant := true, links := (List.range 8).map (fun p => (p, { st := 8 })) }) rootUp, by decide +kernel⟩,
   ⟨modFab (fun f => { f with discBusy := true }) rootUp, zeros 64, _, _, rfl, rfl, by decide +kernel⟩,
   ⟨modFab (fun f => { f with discBusy := true, chips := [{ serial := 0, path := [], pathLen := 0, strapCid := 0, links := [] }] }) rootUp, zeros 64, _, _, rfl, rfl, by decide +kernel⟩,
   ⟨modFab (fun f => { f with discBusy := true }) rootUp, _, rfl, by decide +kernel⟩,
   ⟨wr 0x80004 2 (modFab (fun f => { f with discBusy := true, chips := [{ serial := 1, path := [], pathLen := 0, strapCid := 5, links := [] }, { serial := 2, path := [], pathLen := 0, strapCid := 5, links := [] }] }) rootUp), _, _, _, rfl, rfl, by decide +kernel⟩,
   ⟨rootUp, 0, msgOf 1 [], _, _, rfl, rfl, by decide +kernel⟩,
   ⟨State.reset, 0, msgOf 1 [], _, _, rfl, rfl, by decide +kernel⟩,
   ⟨State.reset, 0, zeros 64, _, rfl, by decide +kernel⟩,
   ⟨State.reset, 0, msgOf 0 [1], _, rfl, by decide +kernel⟩,
   ⟨modFab (fun f => { f with discDone := true, chips := [{ serial := 1, path := [], pathLen := 0, strapCid := 0, links := [] }] }) rootUp, 0, _, rfl, by decide +kernel⟩⟩

theorem witness_RejoinAndStallReset :
    (∃ (s : State) (body : Bytes) (u : State) (v : State), body = leBytes 8 (BitVec.toNat s.serial) ++ [BitVec.ofNat 8 s.fab.chip] ++ zeros 7 ++ imgDigest s ∧ u = { s with rst := { s.rst with rejoin := false } } ∧ (v = if isRoot s = true then u else ctlUp 34 0 body u) ∧ (s.rst.rejoin = true ∧ s.clk.ftValid = true ∧ s.fab.valid = true ∧ s.conf.present = true ∧ s.rst.phase = 0 ∧ v.fab.routeActive = false))
    ∧ (∃ (s : State) (body : Bytes) (u : State) (v : State), body = leBytes 8 (BitVec.toNat s.serial) ++ [BitVec.ofNat 8 s.fab.chip] ++ zeros 7 ++ imgDigest s ∧ u = { s with rst := { s.rst with rejoin := false } } ∧ (v = if isRoot s = true then u else ctlUp 34 0 body u) ∧ (s.rst.rejoin = true ∧ s.clk.ftValid = true ∧ s.fab.valid = true ∧ s.conf.present = true ∧ s.rst.phase = 0 ∧ v.fab.routeActive = true))
    ∧ (∃ (s : State), s.rst.rejoin = false)
    ∧ (∃ (s : State) (m : Bytes) (c : Ctl) (id : Nat) (u : State) (v : State), c = ctlOf m ∧ id = u8 c.body 8 ∧ (u = modFab (fun f => { f with lost := List.filter (fun x => x != id) f.lost }) s) ∧ (v = if allZero (slice c.body 16 48) = true then u else forEach (List.filter (fun a => isHead u a.1 && a.2.any fun mq => mq.1 == id) u.conf.aisles) (fun a sq => forEach (List.filter (fun mq => mq.1 == id) a.2) (fun mq sq => { sq with free := put sq.free (mq.1 * 32 + mq.2) { pages := 0, entries := 0, slots := 0, lost := false } { pages := 0, entries := 0, slots := 0, lost := false } }) sq) u) ∧ (isRoot v = true ∧ c.mode ≠ 2))
    ∧ (∃ (s : State) (m : Bytes) (c : Ctl) (id : Nat) (u : State) (v : State), c = ctlOf m ∧ id = u8 c.body 8 ∧ (u = modFab (fun f => { f with lost := List.filter (fun x => x != id) f.lost }) s) ∧ (v = if allZero (slice c.body 16 48) = true then u else forEach (List.filter (fun a => isHead u a.1 && a.2.any fun mq => mq.1 == id) u.conf.aisles) (fun a sq => forEach (List.filter (fun mq => mq.1 == id) a.2) (fun mq sq => { sq with free := put sq.free (mq.1 * 32 + mq.2) { pages := 0, entries := 0, slots := 0, lost := false } { pages := 0, entries := 0, slots := 0, lost := false } }) sq) u) ∧ isRoot v = false)
    ∧ (∃ (s : State) (m : Bytes) (b : Bytes) (a : Nat), b = (ctlOf m).body ∧ a = u8 b 0 ∧ isHead s a = true)
    ∧ (∃ (s : State) (m : Bytes) (b : Bytes) (a : Nat), b = (ctlOf m).body ∧ a = u8 b 0 ∧ (isHead s a = false ∧ (∃ x ∈ chain s a, x.1 = s.fab.chip)))
    ∧ (∃ (s : State) (m : Bytes) (b : Bytes) (a : Nat), b = (ctlOf m).body ∧ a = u8 b 0 ∧ (isHead s a = false ∧ (∀ x ∈ chain s a, x.1 ≠ s.fab.chip))) :=
  ⟨⟨{ up with rst := { up.rst with rejoin := true }, clk := { up.clk with ftValid := true }, fab := { up.fab with valid := true }, conf := { up.conf with present := true } }, _, _, _, rfl, rfl, rfl, by decide +kernel⟩,
   ⟨modFab (fun f => { f with routeActive := true }) ({ up with rst := { up.rst with rejoin := true }, clk := { up.clk with ftValid := true }, fab := { up.fab with valid := true }, conf := { up.conf with present := true } }), _, _, _, rfl, rfl, rfl, by decide +kernel⟩,
   ⟨State.reset, by decide +kernel⟩,
   ⟨rootUp, zeros 64, _, _, _, _, rfl, rfl, rfl, rfl, by decide +kernel⟩,
   ⟨State.reset, zeros 64, _, _, _, _, rfl, rfl, rfl, rfl, by decide +kernel⟩,
   ⟨{ up with conf := { up.conf with aisles := [(0, [(0, 0)])] } }, zeros 64, _, _, rfl, rfl, by decide +kernel⟩,
   ⟨withConf { aisles := [(0, [(1, 0), (0, 0)])] } up, zeros 64, _, _, rfl, rfl, by decide +kernel⟩,
   ⟨State.reset, zeros 64, _, _, rfl, rfl, by decide +kernel⟩⟩

theorem witness_ClockAndFabricTime_1 :
    (∃ (s : State), isRoot s = true ∧ s.clk.refclk = true ∧ s.clk.source ≠ 4 ∧ s.clk.locked = false)
    ∧ (∃ (s : State) (p : Nat), s.clk.up = some p ∧ (isRoot s = false ∧ s.clk.source ≠ 4 ∧ (link s p).st = 6 ∧ s.clk.locked = false))
    ∧ (∃ (s : State), isRoot s = false ∧ s.clk.source = 2)
    ∧ (∃ (s : State), isRoot s = true)
    ∧ (∃ (s : State) (p : Nat), s.clk.alt = some p ∧ (isRoot s = false ∧ s.clk.source = 4 ∧ (clkOk s p).isSome = true))
    ∧ (∃ (s : State), isRoot s = true ∧ s.clk.source = 4)
    ∧ (∃ (p : Nat), p < 8)
    ∧ (∃ (s : State) (h : Nat), s.clk.holdStart = some h ∧ (s.clk.source = 4 ∧ h + 80000000 ≤ s.ft ∧ s.clk.holdLost = false))
    ∧ (∃ (s : State) (h : Nat), s.clk.holdStart = some h ∧ (s.clk.source = 4 ∧ s.ft < h + 80000000))
    ∧ (∃ (s : State) (h : Nat), s.clk.holdStart = some h ∧ (s.clk.source = 4 ∧ h + us (rdf s rHaltEn 23 8) ≤ s.ft ∧ s.clk.holdHalted = false))
    ∧ (∃ (s : State) (h : Nat), s.clk.holdStart = some h ∧ (s.clk.source = 4 ∧ s.clk.holdHalted = true))
    ∧ (∃ (s : State) (p : Nat) (m : Bytes) (b : Bytes), b = (ctlOf m).body ∧ s.clk.port = p ∧ (p < 8 ∧ isRoot s = false ∧ s.clk.locked = true ∧ u8 b 9 % 4 ≠ s.straps.tick)) :=
  ⟨⟨rootUp, by decide +kernel⟩,
   ⟨{ (onLink { st := 6 }) with clk := { up.clk with up := some 7 } }, _, rfl, by decide +kernel⟩,
   ⟨{ up with clk := { up.clk with source := 2 } }, by decide +kernel⟩,
   ⟨rootUp, by decide +kernel⟩,
   ⟨{ (onLink { st := 6, nbr := some { rank := 30 } }) with clk := { up.clk with source := 4, alt := some 7 } }, _, rfl, by decide +kernel⟩,
   ⟨{ rootUp with clk := { rootUp.clk with source := 4 } }, by decide +kernel⟩,
   ⟨0, by decide +kernel⟩,
   ⟨{ up with ft := 80000000, clk := { up.clk with source := 4, holdStart := some 0 } }, _, rfl, by decide +kernel⟩,
   ⟨{ up with clk := { up.clk with source := 4, holdStart := some 0 } }, _, rfl, by decide +kernel⟩,
   ⟨{ up with ft := 80000000, clk := { up.clk with source := 4, holdStart := some 0 } }, _, rfl, by decide +kernel⟩,
   ⟨{ up with clk := { up.clk with source := 4, holdStart := some 0, holdHalted := true } }, _, rfl, by decide +kernel⟩,
   ⟨{ up with clk := { up.clk with locked := true } }, _, msgOf 0 (zeros 9 ++ [1]), _, rfl, rfl, by decide +kernel⟩⟩

theorem witness_ClockAndFabricTime_2 :
    (∃ (s : State) (p : Nat) (m : Bytes) (b : Bytes), b = (ctlOf m).body ∧ s.clk.port = p ∧ (p < 8 ∧ isRoot s = false ∧ s.clk.locked = true ∧ u8 b 9 % 4 = s.straps.tick ∧ s.clk.ftValid = false))
    ∧ (∃ (s : State) (p : Nat) (m : Bytes) (e : Nat) (b : Bytes) (x16 : Int) (tgt : Int) (corr : Int), b = (ctlOf m).body ∧ s.clk.port = p ∧ x16 = 16 * ↑(u64 b 0) + sint 8 (u8 b 8) + ↑(link s p).lat16 ∧ tgt = (x16 + 8) / 16 ∧ corr = ↑(tgt.toNat + e) - ↑s.ft ∧ (p < 8 ∧ isRoot s = false ∧ s.clk.locked = true ∧ u8 b 9 % 4 = s.straps.tick ∧ s.clk.ftValid = true ∧ 16 < corr.natAbs))
    ∧ (∃ (s : State) (p : Nat) (m : Bytes) (e : Nat) (b : Bytes) (x16 : Int) (tgt : Int) (corr : Int), b = (ctlOf m).body ∧ s.clk.port = p ∧ x16 = 16 * ↑(u64 b 0) + sint 8 (u8 b 8) + ↑(link s p).lat16 ∧ tgt = (x16 + 8) / 16 ∧ corr = ↑(tgt.toNat + e) - ↑s.ft ∧ (p < 8 ∧ isRoot s = false ∧ s.clk.locked = true ∧ u8 b 9 % 4 = s.straps.tick ∧ s.clk.ftValid = true ∧ corr.natAbs ≤ 16))
    ∧ (∃ (s : State) (p : Nat) (m : Bytes) (b : Bytes) (k : Nat) (u : State), b = (ctlOf m).body ∧ k = (16 * ↑s.ft + s.clk.resid - 16 * ↑(u64 b 0) - sint 8 (u8 b 8) - ↑(link s p).lat16).natAbs ∧ u = wr rSkew (max (rd s rSkew) (min k 255)) s ∧ (p < 8 ∧ s.clk.ftValid = true ∧ ((link u p).st ≠ 6 ∨ (link u p).checked = true) ∧ k ≤ 32))
    ∧ (∃ (s : State) (p : Nat) (m : Bytes) (b : Bytes) (k : Nat) (u : State), b = (ctlOf m).body ∧ k = (16 * ↑s.ft + s.clk.resid - 16 * ↑(u64 b 0) - sint 8 (u8 b 8) - ↑(link s p).lat16).natAbs ∧ u = wr rSkew (max (rd s rSkew) (min k 255)) s ∧ (p < 8 ∧ s.clk.ftValid = true ∧ ((link u p).st ≠ 6 ∨ (link u p).checked = true) ∧ 32 < k ∧ u.clk.slewing = false ∧ (link u p).nbr = none))
    ∧ (∃ (s : State), (s.clk.slew = 0 ∨ s.rst.aon < s.clk.slewNext))
    ∧ (∃ (s : State), 0 < s.clk.slew ∧ s.clk.slewNext ≤ s.rst.aon)
    ∧ (∃ (s : State), s.clk.slew < 0 ∧ s.clk.slewNext ≤ s.rst.aon) :=
  ⟨⟨{ up with clk := { up.clk with locked := true } }, _, zeros 64, _, rfl, rfl, by decide +kernel⟩,
   ⟨{ up with clk := { up.clk with locked := true, ftValid := true } }, _, zeros 64, 63, _, _, _, _, rfl, rfl, rfl, rfl, rfl, by decide +kernel⟩,
   ⟨{ up with clk := { up.clk with locked := true, ftValid := true } }, _, zeros 64, 0, _, _, _, _, rfl, rfl, rfl, rfl, rfl, by decide +kernel⟩,
   ⟨{ up with clk := { up.clk with locked := true, ftValid := true } }, 0, zeros 64, _, _, _, rfl, rfl, rfl, by decide +kernel⟩,
   ⟨{ up with clk := { up.clk with locked := true, ftValid := true } }, 0, msgOf 0 [17], _, _, _, rfl, rfl, rfl, by decide +kernel⟩,
   ⟨State.reset, by decide +kernel⟩,
   ⟨{ up with clk := { up.clk with slew := 1 } }, by decide +kernel⟩,
   ⟨{ up with clk := { up.clk with slew := -1 } }, by decide +kernel⟩⟩

theorem witness_DomainsChangeState_1 :
    (∃ (v : Word), bit (BitVec.toNat v) 6 = false)
    ∧ (∃ (v : Word) (d : Nat), d = bits (BitVec.toNat v) 3 0 ∧ (bit (BitVec.toNat v) 6 = true ∧ 12 ≤ d))
    ∧ (∃ (s : State) (v : Word) (d : Nat) (q : Nat) (u : State), d = bits (BitVec.toNat v) 3 0 ∧ q = bits (BitVec.toNat v) 5 4 ∧ (u = if bit (BitVec.toNat v) 7 = true then clrBit rPwrReq 7 (wrf rPwrReq 5 0 (BitVec.toNat v % 64) s) else wrf rPwrReq 5 0 (BitVec.toNat v % 64) s) ∧ (bit (BitVec.toNat v) 6 = true ∧ floorState u d < q))
    ∧ (∃ (s : State) (v : Word) (d : Nat) (q : Nat) (u : State), d = bits (BitVec.toNat v) 3 0 ∧ q = bits (BitVec.toNat v) 5 4 ∧ (u = if bit (BitVec.toNat v) 7 = true then clrBit rPwrReq 7 (wrf rPwrReq 5 0 (BitVec.toNat v % 64) s) else wrf rPwrReq 5 0 (BitVec.toNat v % 64) s) ∧ (bit (BitVec.toNat v) 6 = true ∧ reqRefused u d q = false ∧ ((dom u d).done.isSome = true ∨ (dom u d).reload.isSome = true)))
    ∧ (∃ (s : State) (v : Word) (d : Nat) (q : Nat) (u : State), d = bits (BitVec.toNat v) 3 0 ∧ q = bits (BitVec.toNat v) 5 4 ∧ (u = if bit (BitVec.toNat v) 7 = true then clrBit rPwrReq 7 (wrf rPwrReq 5 0 (BitVec.toNat v % 64) s) else wrf rPwrReq 5 0 (BitVec.toNat v % 64) s) ∧ (bit (BitVec.toNat v) 6 = true ∧ reqRefused u d q = false ∧ (dom u d).done = none ∧ (dom u d).reload = none ∧ (dom u d).via = none))
    ∧ (∃ (s : State) (d : Nat) (t : Nat), (dom s d).done = some t ∧ (d < 12 ∧ s.ft < t))
    ∧ (∃ (s : State) (d : Nat) (t : Nat), (dom s d).done = some t ∧ (d < 12 ∧ t ≤ s.ft ∧ ((dom s d).st = PState.on ∨ (dom s d).st = PState.cg)))
    ∧ (∃ (s : State) (d : Nat) (t : Nat), (dom s d).done = some t ∧ (d < 12 ∧ t ≤ s.ft ∧ (dom s d).st = PState.off))
    ∧ (∃ (s : State) (d : Nat) (t : Nat), (dom s d).done = some t ∧ (d < 12 ∧ t ≤ s.ft ∧ (dom s d).st = PState.ret))
    ∧ (∃ (s : State) (d : Nat) (t : Nat) (l : List Nat), (dom s d).reload = some t ∧ (d < 4 ∧ ((l.all fun p => decide (p < 68)) = true) ∧ t ≤ s.ft ∧ repairing s d = false))
    ∧ (∃ (s : State) (t : Nat), (dom s dCCR).reload = some t ∧ (t ≤ s.ft ∧ repairing s dCCR = false))
    ∧ (∃ (s : State) (d : Nat) (t : Nat), (dom s d).reload = some t ∧ (d < 12 ∧ s.ft < t)) :=
  ⟨⟨0x00, by decide +kernel⟩,
   ⟨0x4c, _, rfl, by decide +kernel⟩,
   ⟨State.reset, 0x79, _, _, _, rfl, rfl, rfl, by decide +kernel⟩,
   ⟨{ up with ft := 10, doms := [(0, { st := .on, done := some 11 })] }, 0x40, _, _, _, rfl, rfl, rfl, by decide +kernel⟩,
   ⟨State.reset, 0x40, _, _, _, rfl, rfl, rfl, by decide +kernel⟩,
   ⟨{ up with ft := 10, doms := [(0, { st := .on, done := some 11 })] }, 0, _, rfl, by decide +kernel⟩,
   ⟨{ up with ft := 10, doms := [(0, { st := .on, done := some 10 })] }, 0, _, rfl, by decide +kernel⟩,
   ⟨{ up with ft := 10, doms := [(11, { st := .off, done := some 10 })] }, 11, _, rfl, by decide +kernel⟩,
   ⟨{ up with ft := 10, doms := [(4, { st := .ret, done := some 10 })] }, 4, _, rfl, by decide +kernel⟩,
   ⟨{ up with ft := 10, doms := [(3, { st := .on, reload := some 10 })] }, 3, _, [], rfl, by decide +kernel⟩,
   ⟨{ up with ft := 10, doms := [(11, { st := .on, reload := some 10 })] }, _, rfl, by decide +kernel⟩,
   ⟨{ up with ft := 10, doms := [(11, { st := .on, reload := some 11 })] }, 11, _, rfl, by decide +kernel⟩⟩

theorem witness_DomainsChangeState_2 :
    (∃ (d : Nat) (src : Nat), d < 12 ∧ src < 6)
    ∧ (∃ (s : State) (d : Nat), (dom s d).done = none ∧ (dom s d).via = none ∧ (dom s d).held = none ∧ heldOff s d = false ∧ (dom s d).st ≠ PState.on) :=
  ⟨⟨0, 5, by decide +kernel⟩,
   ⟨up, 11, by decide +kernel⟩⟩

theorem witness_IdleTimersAndThermalDuty :
    (∃ (s : State), s.ft % tickLen s = 0 ∧ s.wks.tickAt ≠ some s.ft)
    ∧ (∃ (s : State), (s.ft % tickLen s ≠ 0 ∨ s.wks.tickAt = some s.ft))
    ∧ (∃ (s : State) (d : Nat) (p : Nat) (q : Nat), p = rd s (rPolicy d) ∧ q = min (min (bits p 17 16) (bits p 19 18)) (floorState s d) ∧ (d < 12 ∧ bits p 15 0 ≠ 0 ∧ bits p 15 0 ≤ (dom s d).idle ∧ (dom s d).done = none ∧ (dom s d).reload = none ∧ (dom s d).via = none ∧ domWork s d = false ∧ s.rst.phase = 0 ∧ (dom s d).st.num < q))
    ∧ (∃ (s : State) (d : Nat) (p : Nat), p = rd s (rPolicy d) ∧ (d < 12 ∧ (bits p 15 0 = 0 ∨ domWork s d = true)))
    ∧ (∃ (s : State), s.wks.quiet < 64)
    ∧ (∃ (s : State), 64 ≤ s.wks.quiet)
    ∧ (∃ (s : State) (t : List Int) (m : Int) (l : Nat) (u : State), m = List.foldl max (t.headD 0) t ∧ u = wrf rTherm 15 8 (toTwos 8 m) (wrf rTherm 1 0 l s) ∧ l = rdf s rTherm 1 0 ∧ (t.length = 8 ∧ l = nextLevel s (rdf s rTherm 1 0) m ∧ m < tmax u + 10 ∧ u.rst.thermalWait = false))
    ∧ (∃ (s : State) (t : List Int) (m : Int) (l : Nat) (u : State) (x : State), m = List.foldl max (t.headD 0) t ∧ l = nextLevel s (rdf s rTherm 1 0) m ∧ u = wrf rTherm 15 8 (toTwos 8 m) (wrf rTherm 1 0 l s) ∧ x = callback 5 (2 ^ 32 - 1) (ccInt 3 (devEvent 5 (logC 513 [] (wrf rDuty 8 4 (dutyCores l) (wrf rDuty 2 0 (dutyRun l) u))))) ∧ (t.length = 8 ∧ l ≠ rdf s rTherm 1 0 ∧ l ≠ 3 ∧ m < tmax x + 10 ∧ x.rst.thermalWait = false))
    ∧ (∃ (s : State) (t : List Int) (m : Int) (l : Nat) (u : State) (x : State) (y : State), m = List.foldl max (t.headD 0) t ∧ u = wrf rTherm 15 8 (toTwos 8 m) (wrf rTherm 1 0 l s) ∧ x = callback 5 (2 ^ 32 - 1) (ccInt 3 (devEvent 5 (logC 513 [] (wrf rDuty 8 4 (dutyCores l) (wrf rDuty 2 0 (dutyRun l) u))))) ∧ l = 3 ∧ y = haltRaise 3 x ∧ (t.length = 8 ∧ l = nextLevel s (rdf s rTherm 1 0) m ∧ l ≠ rdf s rTherm 1 0 ∧ m < tmax y + 10 ∧ y.rst.thermalWait = false))
    ∧ (∃ (s : State) (t : List Int) (m : Int) (l : Nat) (u : State) (z : State), m = List.foldl max (t.headD 0) t ∧ u = wrf rTherm 15 8 (toTwos 8 m) (wrf rTherm 1 0 l s) ∧ l = rdf s rTherm 1 0 ∧ z = takeReset 9 (logC 516 [] u) ∧ (t.length = 8 ∧ l = nextLevel s (rdf s rTherm 1 0) m ∧ tmax u + 10 ≤ m ∧ sint 8 (rdf s rTherm 15 8) < tmax u + 10 ∧ z.rst.thermalWait = false)) :=
  ⟨⟨State.reset, by decide +kernel⟩,
   ⟨{ up with ft := 9 }, by decide +kernel⟩,
   ⟨wr (rPolicy 6) 0xF0001 (modDom 6 (fun x => { x with idle := 1 }) up), 6, _, _, rfl, rfl, by decide +kernel⟩,
   ⟨State.reset, 0, _, rfl, by decide +kernel⟩,
   ⟨State.reset, by decide +kernel⟩,
   ⟨modWks (fun w => { w with quiet := 64, waiters := [(3, 0)] }) up, by decide +kernel⟩,
   ⟨State.reset, List.replicate 8 0, _, _, _, rfl, rfl, rfl, by decide +kernel⟩,
   ⟨State.reset, List.replicate 8 90, _, _, _, _, rfl, rfl, rfl, rfl, by decide +kernel⟩,
   ⟨State.reset, List.replicate 8 100, _, _, _, _, _, rfl, rfl, rfl, rfl, rfl, by decide +kernel⟩,
   ⟨wr rTherm 3 up, List.replicate 8 105, _, _, _, _, rfl, rfl, rfl, rfl, by decide +kernel⟩⟩

theorem witness_DelayListsAndFlags_1 :
    (∃ (s : State), s.ft % tickLen s = 0 ∧ s.wks.dly.last ≠ some s.ft)
    ∧ (∃ (s : State), (s.ft % tickLen s ≠ 0 ∨ s.wks.dly.last = some s.ft))
    ∧ (∃ (s : State) (e : DlyEntry) (r : List DlyEntry), s.wks.dly.fired = e :: r ∧ e.kind = 5)
    ∧ (∃ (s : State) (e : DlyEntry) (r : List DlyEntry), s.wks.dly.fired = e :: r ∧ e.kind ≠ 5)
    ∧ (∃ (s : State) (e : DlyEntry) (r : List DlyEntry) (u : State) (k : Nat), s.wks.dly.fired = e :: r ∧ (u = modDly (fun d => { d with fired := r }) s) ∧ k = bits (BitVec.toNat e.arg) 11 0 ∧ (e.kind = 6 ∧ (item u k).st = WState.timed))
    ∧ (∃ (s : State) (e : DlyEntry) (r : List DlyEntry) (u : State) (k : Nat), s.wks.dly.fired = e :: r ∧ (u = modDly (fun d => { d with fired := r }) s) ∧ k = bits (BitVec.toNat e.arg) 11 0 ∧ (e.kind = 6 ∧ (item u k).st ≠ WState.timed))
    ∧ (∃ (s : State) (e : DlyEntry) (r : List DlyEntry), s.wks.dly.fired = e :: r ∧ e.kind = 8)
    ∧ (∃ (v : Word) (l : Nat), l = bits (BitVec.toNat v) 1 0 ∧ (bit (BitVec.toNat v) 31 = true ∧ l < 2))
    ∧ (∃ (s : State) (v : Word) (l : Nat), l = bits (BitVec.toNat v) 1 0 ∧ (bit (BitVec.toNat v) 31 = true ∧ 2 ≤ l ∧ 8192 ≤ (dlyList s.wks.dly l).length))
    ∧ (∃ (s : State) (v : Word) (l : Nat) (w1 : Nat) (e : DlyEntry), l = bits (BitVec.toNat v) 1 0 ∧ w1 = rd s 983108 ∧ e = { due := expandFt 48 (rd s 983104 + bits w1 15 0 * 2 ^ 32) s.ft, kind := bits w1 23 16, late := false, arg := BitVec.ofNat 64 (rd64 s 983112), id := dlyId s.wks.dly l } ∧ (bit (BitVec.toNat v) 31 = true ∧ 2 ≤ l ∧ (dlyList s.wks.dly l).length < 8192 ∧ kindAllowed l e.kind = true))
    ∧ (∃ (s : State) (v : Word) (l : Nat) (w1 : Nat) (e : DlyEntry), l = bits (BitVec.toNat v) 1 0 ∧ w1 = rd s 983108 ∧ e = { due := expandFt 48 (rd s 983104 + bits w1 15 0 * 2 ^ 32) s.ft, kind := bits w1 23 16, late := false, arg := BitVec.ofNat 64 (rd64 s 983112), id := dlyId s.wks.dly l } ∧ (bit (BitVec.toNat v) 31 = true ∧ 2 ≤ l ∧ (dlyList s.wks.dly l).length < 8192 ∧ kindAllowed l e.kind = false))
    ∧ (∃ (s : State) (v : Word) (l : Nat) (id : Nat) (e : DlyEntry), l = bits (BitVec.toNat v) 1 0 ∧ id = bits (BitVec.toNat v) 28 16 ∧ (bit (BitVec.toNat v) 31 = true ∧ 2 ≤ l ∧ e ∈ dlyList s.wks.dly l ∧ e.id = id)) :=
  ⟨⟨State.reset, by decide +kernel⟩,
   ⟨{ up with ft := 1 }, by decide +kernel⟩,
   ⟨modWks (fun w => { w with dly := { fired := [{ due := 0, kind := 5, arg := 0 }] } }) (up), _, _, rfl, by decide +kernel⟩,
   ⟨modWks (fun w => { w with dly := { fired := [{ due := 0, kind := 6, arg := 0 }] } }) (modItem 0 (fun _ => { st := .timed }) (up)), _, _, rfl, by decide +kernel⟩,
   ⟨modWks (fun w => { w with dly := { fired := [{ due := 0, kind := 6, arg := 0 }] } }) (modItem 0 (fun _ => { st := .timed }) (up)), _, _, _, _, rfl, rfl, rfl, by decide +kernel⟩,
   ⟨modWks (fun w => { w with dly := { fired := [{ due := 0, kind := 6, arg := 0 }] } }) (up), _, _, _, _, rfl, rfl, rfl, by decide +kernel⟩,
   ⟨modWks (fun w => { w with dly := { fired := [{ due := 0, kind := 8, arg := 0 }] } }) (up), _, _, rfl, by decide +kernel⟩,
   ⟨0x80000000, _, rfl, by decide +kernel⟩,
   ⟨modWks (fun w => { w with dly := { l2 := List.replicate 8192 { due := 0, kind := 5 } } }) (up), 0x80000002, _, rfl, by decide +kernel⟩,
   ⟨wr 983108 0x50000 up, 0x80000002, _, _, _, rfl, rfl, rfl, by decide +kernel⟩,
   ⟨State.reset, 0x80000002, _, _, _, rfl, rfl, rfl, by decide +kernel⟩,
   ⟨modWks (fun w => { w with dly := { l2 := List.replicate 8192 { due := 0, kind := 5 } } }) (up), 0x80000002, _, _, { due := 0, kind := 5 }, rfl, rfl, by decide +kernel⟩⟩

theorem witness_DelayListsAndFlags_2 :
    (∃ (s : State) (v : Word) (l : Nat) (id : Nat), l = bits (BitVec.toNat v) 1 0 ∧ id = bits (BitVec.toNat v) 28 16 ∧ (bit (BitVec.toNat v) 31 = true ∧ 2 ≤ l ∧ (∀ e ∈ dlyList s.wks.dly l, e.id ≠ id)))
    ∧ (∃ (s : State) (f : Nat), f < 1024 ∧ armOf s f = 1)
    ∧ (∃ (s : State) (f : Nat), f < 1024 ∧ armOf s f ≠ 1) :=
  ⟨⟨State.reset, 0x80000002, _, _, rfl, rfl, by decide +kernel⟩,
   ⟨wr 0xE1100 1 up, 0, by decide +kernel⟩,
   ⟨State.reset, 0, by decide +kernel⟩⟩

theorem witness_WorkItemsRun_1 :
    (∃ (s : State) (k : Nat) (i : Item) (a : Nat), i = item s k ∧ tierCore s i = some a ∧ (k < 4096 ∧ i.st = WState.ready ∧ i.list = none ∧ i.hold = false ∧ (i.rowMask ≠ 0 ∨ i.loose = true) ∧ hasCore s i = true))
    ∧ (∃ (s : State) (k : Nat) (i : Item), i = item s k ∧ (k < 4096 ∧ i.st = WState.ready ∧ i.list = none ∧ i.hold = false ∧ (i.rowMask ≠ 0 ∨ i.loose = true) ∧ hasCore s i = true ∧ tierCore s i = none))
    ∧ (∃ (s : State) (k : Nat) (i : Item), i = item s k ∧ (k < 4096 ∧ i.st = WState.ready ∧ i.list = none ∧ i.hold = false ∧ i.rowMask = 0 ∧ i.loose = false))
    ∧ (∃ (s : State) (k : Nat) (i : Item), i = item s k ∧ (k < 4096 ∧ i.st = WState.ready ∧ i.list = none ∧ i.hold = false ∧ (i.rowMask ≠ 0 ∨ i.loose = true) ∧ hasCore s i = false))
    ∧ (∃ (s : State) (k : Nat), k < 4096 ∧ (item s k).st ≠ WState.ready)
    ∧ (∃ (s : State) (p : Nat) (a : Nat) (k : Nat), addrOf s p = some a ∧ List.findSome? (fromLists s a) (clusterOrder (a / 16)) = some k ∧ (p < 68 ∧ coreFree s a = true ∧ ((item s k).rowMask ≠ 0 ∨ (item s k).loose = true)))
    ∧ (∃ (s : State) (p : Nat) (a : Nat) (k : Nat), addrOf s p = some a ∧ List.findSome? (fromLists s a) (clusterOrder (a / 16)) = some k ∧ (p < 68 ∧ coreFree s a = true ∧ (item s k).rowMask = 0 ∧ (item s k).loose = false))
    ∧ (∃ (s : State) (p : Nat) (a : Nat), addrOf s p = some a ∧ (p < 68 ∧ coreFree s a = false))
    ∧ (∃ (v : Word), bit (BitVec.toNat v) 0 = false)
    ∧ (∃ (s : State) (v : Word) (i : Item), i = itemOf (submitBytes s) s.ft ∧ (bit (BitVec.toNat v) 0 = true ∧ poolFits s i.stall 1 = false))
    ∧ (∃ (s : State) (v : Word) (i : Item) (k : Nat), i = itemOf (submitBytes s) s.ft ∧ ((lowest 4096 fun kq => (item s kq).st == WState.free) = some k) ∧ (bit (BitVec.toNat v) 0 = true ∧ poolFits s i.stall 1 = true))
    ∧ (∃ (s : State), s.wks.waiting = []) :=
  ⟨⟨modItem 0 (fun _ => { st := .ready, rowMask := 1 }) (withConf { stalls := [(0, { cores := 1 })] } (up)), 0, _, _, rfl, rfl, by decide +kernel⟩,
   ⟨modCore 0 (fun _ => { item := some 5 }) (modItem 0 (fun _ => { st := .ready, rowMask := 1 }) (withConf { stalls := [(0, { cores := 1 })] } (up))), 0, _, rfl, by decide +kernel⟩,
   ⟨modItem 0 (fun _ => { st := .ready }) (up), 0, _, rfl, by decide +kernel⟩,
   ⟨modItem 0 (fun _ => { st := .ready, rowMask := 1 }) (up), 0, _, rfl, by decide +kernel⟩,
   ⟨State.reset, 0, by decide +kernel⟩,
   ⟨modItem 0 (fun _ => { st := .ready, rowMask := 1, list := some 0 }) (withConf { stalls := [(0, { cores := 1 })] } (up)), 0, _, _, rfl, rfl, by decide +kernel⟩,
   ⟨modItem 0 (fun _ => { st := .ready, list := some 0 }) (withConf { stalls := [(0, { cores := 1 })] } (up)), 0, _, _, rfl, rfl, by decide +kernel⟩,
   ⟨modCore 0 (fun _ => { item := some 0 }) (up), 0, _, rfl, by decide +kernel⟩,
   ⟨0x00000000#32, by decide +kernel⟩,
   ⟨wr 0xE0004 1 (modItem 0 (fun _ => { st := .ready }) (up)), 0x00000001#32, _, rfl, by decide +kernel⟩,
   ⟨State.reset, 0x00000001#32, _, _, rfl, rfl, by decide +kernel⟩,
   ⟨State.reset, by decide +kernel⟩⟩

theorem witness_WorkItemsRun_2 :
    (∃ (s : State) (w : Nat × Nat × List Item × Nat) (i : Item), s.wks.waiting = [w] ∧ w.2.2.1 = [i] ∧ poolFits s (w.2.2.1.headD { st := WState.free, kernel := 0, stall := 0, prio := 0, timed := false, wait := false, post := false, cyc := false, rep := false, dlk := false, step := 0, rowMask := 0, inp := 0, inLen := 0, out := 0, outLen := 0, affinity := 0, due := 0, event := 0, waitFlag := 0, arg := 0, loose := false, list := none, order := 0, aisle := 0, notCore := none, stage := 0, hold := false, gather := false }).stall w.2.2.1.length = true)
    ∧ (∃ (s : State) (p : Nat) (k : Nat) (g : Nat), (Machine.core s p).item = some k ∧ g = (kernel s (item s k).kernel).tag ∧ (p < 68 ∧ (Machine.core s p).started = none ∧ (Machine.core s p).filling = none ∧ (Machine.core s p).startAt ≤ s.ft ∧ isOn s (p / 17) = true ∧ (g = 0 ∨ ((Machine.core s p).windows.any fun w => w.tag == g) = true)))
    ∧ (∃ (s : State) (p : Nat) (k : Nat) (g : Nat) (m : Nat), (Machine.core s p).item = some k ∧ g = (kernel s (item s k).kernel).tag ∧ m = (item s k).kernel / 256 ∧ (p < 68 ∧ (Machine.core s p).started = none ∧ (Machine.core s p).filling = none ∧ (Machine.core s p).startAt ≤ s.ft ∧ isOn s (p / 17) = true ∧ g ≠ 0 ∧ (((Machine.core s p).windows.any fun w => w.tag == g) = false) ∧ (model s m).pinned = true))
    ∧ (∃ (s : State) (p : Nat) (k : Nat) (g : Nat) (m : Nat), (Machine.core s p).item = some k ∧ g = (kernel s (item s k).kernel).tag ∧ m = (item s k).kernel / 256 ∧ (p < 68 ∧ (Machine.core s p).started = none ∧ (Machine.core s p).filling = none ∧ (Machine.core s p).startAt ≤ s.ft ∧ isOn s (p / 17) = true ∧ g ≠ 0 ∧ (((Machine.core s p).windows.any fun w => w.tag == g) = false) ∧ (model s m).pinned = false ∧ (∀ x ∈ s.wks.cores, x.2.filling = none)))
    ∧ (∃ (s : State) (p : Nat), p < 68 ∧ (Machine.core s p).item = none)
    ∧ (∃ (s : State) (p : Nat) (k : Nat) (g : Nat), (Machine.core s p).item = some k ∧ (Machine.core s p).filling = some g ∧ (p < 68 ∧ (Machine.core s p).startAt ≤ s.ft))
    ∧ (∃ (s : State) (p : Nat) (k : Nat) (t : Nat) (i : Item), (Machine.core s p).item = some k ∧ (Machine.core s p).started = some t ∧ i = item s k ∧ (p < 68 ∧ s.ft ≤ t + 2 * (kernel s i.kernel).bound ∧ i.rowMask ≠ 0 ∧ i.cyc = false ∧ i.loose = false))
    ∧ (∃ (s : State) (p : Nat) (k : Nat) (t : Nat) (i : Item), (Machine.core s p).item = some k ∧ (Machine.core s p).started = some t ∧ i = item s k ∧ (p < 68 ∧ s.ft ≤ t + 2 * (kernel s i.kernel).bound ∧ i.rowMask ≠ 0 ∧ i.cyc = true ∧ i.loose = false))
    ∧ (∃ (s : State) (p : Nat) (k : Nat) (t : Nat) (i : Item), (Machine.core s p).item = some k ∧ (Machine.core s p).started = some t ∧ i = item s k ∧ (p < 68 ∧ s.ft ≤ t + 2 * (kernel s i.kernel).bound ∧ i.rowMask ≠ 0 ∧ i.loose = true)) :=
  ⟨⟨modWks (fun w => { w with waiting := [(0, 0, [{}], 0)] }) (up), _, _, rfl, rfl, by decide +kernel⟩,
   ⟨modCore 0 (fun _ => { item := some 0 }) (up), 0, _, _, rfl, rfl, by decide +kernel⟩,
   ⟨modCore 0 (fun _ => { item := some 0 }) (withConf { kernels := [(0, { tag := 5 })], models := [(0, { pinned := true })] } (up)), 0, _, _, _, rfl, rfl, rfl, by decide +kernel⟩,
   ⟨modCore 0 (fun _ => { item := some 0 }) (withConf { kernels := [(0, { tag := 5 })] } (up)), 0, _, _, _, rfl, rfl, rfl, by decide +kernel⟩,
   ⟨State.reset, 0, by decide +kernel⟩,
   ⟨modCore 0 (fun _ => { item := some 0, filling := some 1 }) (up), 0, _, _, rfl, rfl, by decide +kernel⟩,
   ⟨modCore 0 (fun _ => { item := some 0, started := some 0 }) (modItem 0 (fun _ => { st := .running, rowMask := 1, post := true }) (up)), 0, _, _, _, rfl, rfl, rfl, by decide +kernel⟩,
   ⟨modCore 0 (fun _ => { item := some 0, started := some 0 }) (modItem 0 (fun _ => { st := .running, rowMask := 1, cyc := true }) (up)), 0, _, _, _, rfl, rfl, rfl, by decide +kernel⟩,
   ⟨modCore 0 (fun _ => { item := some 0, started := some 0 }) (modItem 0 (fun _ => { st := .running, rowMask := 1, loose := true }) (up)), 0, _, _, _, rfl, rfl, rfl, by decide +kernel⟩⟩

theorem witness_CoresFaultAndAreRepaired_1 :
    (∃ (s : State) (p : Nat) (k : Nat) (t : Nat), (Machine.core s p).item = some k ∧ (Machine.core s p).started = some t ∧ (p < 68 ∧ t + 2 * (kernel s (item s k).kernel).bound ≤ s.ft))
    ∧ (∃ (s : State) (p : Nat) (k : Nat) (t : Nat), (Machine.core s p).item = some k ∧ (Machine.core s p).started = some t ∧ (p < 68 ∧ s.ft < t + 2 * (kernel s (item s k).kernel).bound))
    ∧ (∃ (s : State) (p : Nat), p < 68 ∧ (Machine.core s p).fenced = false)
    ∧ (∃ (s : State) (p : Nat), p < 68 ∧ (Machine.core s p).fenced = true ∧ s.wks.repair = none)
    ∧ (∃ (s : State) (k : JobKind) (sl : Nat) (rows : List Nat) (pg : Nat) (u : State), u = bumpSat 852000 (logEv (jobCode k) (item s sl).stall [] s) ∧ (sl < 4096 ∧ (∀ r ∈ rows, r < 64) ∧ pg < 16384 ∧ k ≠ JobKind.pondEcc ∧ isFixed u = false))
    ∧ (∃ (s : State) (k : JobKind) (sl : Nat) (rows : List Nat) (pg : Nat) (u : State), u = bumpSat 852000 (logEv (jobCode k) (item s sl).stall [] s) ∧ (sl < 4096 ∧ (∀ r ∈ rows, r < 64) ∧ pg < 16384 ∧ k ≠ JobKind.pondEcc ∧ isFixed u = true))
    ∧ (∃ (s : State) (k : JobKind) (sl : Nat) (rows : List Nat) (pg : Nat) (u : State) (v : State), u = bumpSat 852000 (logEv (jobCode k) (item s sl).stall [] s) ∧ k = JobKind.pondEcc ∧ (v = match nodeOfPage u pg with | some n => modNode n (fun x => { x with valid := false }) u | none => u) ∧ (sl < 4096 ∧ (∀ r ∈ rows, r < 64) ∧ pg < 16384 ∧ isFixed v = false))
    ∧ (∃ (v : Word), bit (BitVec.toNat v) 31 = false)
    ∧ (∃ (s : State) (v : Word), bit (BitVec.toNat v) 31 = true ∧ s.wks.repair.isSome = true)
    ∧ (∃ (s : State) (v : Word) (c : Nat) (busy : Bool), c = bits (BitVec.toNat v) 1 0 ∧ busy = true ∧ ((busy = (isFixed s && (activePlan s).any fun g => (List.range 17).any fun i => bit g.cores.toNat (17 * c + i))) ∧ bit (BitVec.toNat v) 31 = true ∧ s.wks.repair = none))
    ∧ (∃ (s : State) (v : Word) (c : Nat) (busy : Bool), c = bits (BitVec.toNat v) 1 0 ∧ busy = false ∧ ((busy = (isFixed s && (activePlan s).any fun g => (List.range 17).any fun i => bit g.cores.toNat (17 * c + i))) ∧ bit (BitVec.toNat v) 31 = true ∧ s.wks.repair = none))
    ∧ (∃ (s : State) (c : Nat) (t : Nat), s.wks.repair = some (c, 1) ∧ (dom s c).reload = some t ∧ t ≤ s.ft) :=
  ⟨⟨modCore 0 (fun _ => { item := some 0, started := some 0 }) (up), 0, _, _, rfl, rfl, by decide +kernel⟩,
   ⟨modCore 0 (fun _ => { item := some 0, started := some 0 }) (withConf { kernels := [(0, { bound := 1 })] } (up)), 0, _, _, rfl, rfl, by decide +kernel⟩,
   ⟨State.reset, 0, by decide +kernel⟩,
   ⟨modCore 0 (fun _ => { fenced := true }) (up), 0, by decide +kernel⟩,
   ⟨State.reset, .adapter, 0, [63], 0, _, rfl, by decide +kernel⟩,
   ⟨withConf { chipMode := 2 } (up), .adapter, 0, [63], 0, _, rfl, by decide +kernel⟩,
   ⟨State.reset, _, 0, [63], 0, _, _, rfl, rfl, rfl, by decide +kernel⟩,
   ⟨0, by decide +kernel⟩,
   ⟨modWks (fun w => { w with repair := some (0, 1) }) (modDom 0 (fun x => { x with reload := some 0 }) up), 0x80000000, by decide +kernel⟩,
   ⟨withConf { chipMode := 2, cycle := some { period := 1, phase := 0, slots := [{ len := 1, model := 0, rung := 0, depth := 0, idle := false, group := 0, rows := 0, cores := 1 }], spares := [] } } (up), 0x80000000, _, _, rfl, rfl, by decide +kernel⟩,
   ⟨State.reset, 0x80000000, _, _, rfl, rfl, by decide +kernel⟩,
   ⟨modWks (fun w => { w with repair := some (0, 1) }) (modDom 0 (fun x => { x with reload := some 0 }) up), _, _, rfl, rfl, by decide +kernel⟩⟩

theorem witness_CoresFaultAndAreRepaired_2 :
    ∃ (s : State), s.wks.repair = none :=
  ⟨State.reset, by decide +kernel⟩

theorem witness_ControlCoreInstructions_1 :
    (∃ (s : State) (t : Nat) (f : Nat), t < 4 ∧ f < 1024 ∧ threadRuns s t = true)
    ∧ (∃ (s : State) (t : Nat) (f : Nat), t < 4 ∧ f < 1024 ∧ threadRuns s t = true ∧ flagOpen s f = true)
    ∧ (∃ (s : State) (t : Nat) (f : Nat), t < 4 ∧ f < 1024 ∧ threadRuns s t = true ∧ flagOpen s f = false)
    ∧ (∃ (s : State) (t : Nat) (f : Nat), t < 4 ∧ f < 1024 ∧ threadRuns s t = false)
    ∧ (∃ (s : State) (t : Nat), t < 4 ∧ threadRuns s t = true ∧ (thread s t).bulk = none ∧ greg s t 3 = 0)
    ∧ (∃ (s : State) (t : Nat), t < 4 ∧ threadRuns s t = true ∧ (thread s t).bulk = none ∧ greg s t 3 ≠ 0 ∧ bulkFault s t 0 = true)
    ∧ (∃ (s : State) (t : Nat), t < 4 ∧ threadRuns s t = true ∧ (thread s t).bulk = none ∧ greg s t 3 ≠ 0 ∧ bulkFault s t 0 = false)
    ∧ (∃ (s : State) (t : Nat), t < 4 ∧ threadRuns s t = true ∧ (thread s t).bulk = none ∧ greg s t 3 ≠ 0 ∧ bulkFault s t 1 = false)
    ∧ (∃ (s : State) (t : Nat), t < 4 ∧ threadRuns s t = true ∧ (thread s t).bulk = none ∧ greg s t 3 ≠ 0 ∧ bulkFault s t 2 = false)
    ∧ (∃ (s : State) (t : Nat), t < 4 ∧ (thread s t).bulk = some { op := 0 } ∧ bulkRuns s t = true ∧ greg s t 1 < ccLake ∧ greg s t 2 < ccLake)
    ∧ (∃ (s : State) (t : Nat) (x : Bytes) (i : Nat), x = ccRead s (greg s t 1) 64 ∧ scanHit (touch dCCR s) t x = some i ∧ (t < 4 ∧ (thread s t).bulk = some { op := 1 } ∧ bulkRuns s t = true ∧ greg s t 1 < ccLake))
    ∧ (∃ (s : State) (t : Nat) (x : Bytes), x = ccRead s (greg s t 1) 64 ∧ (t < 4 ∧ (thread s t).bulk = some { op := 1 } ∧ bulkRuns s t = true ∧ greg s t 1 < ccLake ∧ scanHit (touch dCCR s) t x = none)) :=
  ⟨⟨modDom 11 (fun x => { x with st := .on }) ((fun s : State => { s with cc := { s.cc with run := 0, threads := [(0, { st := 0 })] } }) (up)), 0, 0, by decide +kernel⟩,
   ⟨modDom 11 (fun x => { x with st := .on }) ((fun s : State => { s with cc := { s.cc with run := 0, threads := [(0, { st := 0 })] } }) (wr 0xE1000 1 up)), 0, 0, by decide +kernel⟩,
   ⟨modDom 11 (fun x => { x with st := .on }) ((fun s : State => { s with cc := { s.cc with run := 0, threads := [(0, { st := 0 })] } }) (up)), 0, 0, by decide +kernel⟩,
   ⟨State.reset, 0, 0, by decide +kernel⟩,
   ⟨modDom 11 (fun x => { x with st := .on }) ((fun s : State => { s with cc := { s.cc with run := 0, threads := [(0, { st := 0 })] } }) (up)), 0, by decide +kernel⟩,
   ⟨modDom 11 (fun x => { x with st := .on }) ((fun s : State => { s with cc := { s.cc with run := 0, threads := [(0, { st := 0, g := [(3, 1)] })] } }) (up)), 0, by decide +kernel⟩,
   ⟨modDom 11 (fun x => { x with st := .on }) ((fun s : State => { s with cc := { s.cc with run := 0, threads := [(0, { st := 0, g := [(2, 128), (3, 64)] })] } }) (up)), 0, by decide +kernel⟩,
   ⟨modDom 11 (fun x => { x with st := .on }) ((fun s : State => { s with cc := { s.cc with run := 0, threads := [(0, { st := 0, g := [(2, 128), (3, 64)] })] } }) (up)), 0, by decide +kernel⟩,
   ⟨modDom 11 (fun x => { x with st := .on }) ((fun s : State => { s with cc := { s.cc with run := 0, threads := [(0, { st := 0, g := [(2, 128), (3, 64)] })] } }) (up)), 0, by decide +kernel⟩,
   ⟨modDom 11 (fun x => { x with st := .on }) ((fun s : State => { s with cc := { s.cc with run := 0, threads := [(0, { st := 0, bulk := some { op := 0 } })] } }) (up)), 0, by decide +kernel⟩,
   ⟨modDom 11 (fun x => { x with st := .on }) ((fun s : State => { s with cc := { s.cc with run := 0, threads := [(0, { st := 0, bulk := some { op := 1 } })] } }) (up)), 0, _, _, rfl, rfl, by decide +kernel⟩,
   ⟨modDom 11 (fun x => { x with st := .on }) ((fun s : State => { s with cc := { s.cc with run := 0, threads := [(0, { st := 0, bulk := some { op := 1 }, g := [(4, 1)] })] } }) (up)), 0, _, rfl, by decide +kernel⟩⟩

theorem witness_ControlCoreInstructions_2 :
    (∃ (s : State) (t : Nat), t < 4 ∧ (thread s t).bulk = some { op := 2 } ∧ bulkRuns s t = true ∧ greg s t 1 < ccLake)
    ∧ (∃ (s : State) (t : Nat) (op : Nat), t < 4 ∧ (thread s t).bulk = some { op := op } ∧ op ≤ 2 ∧ bulkRuns s t = true ∧ ccLake ≤ greg s t 1 ∧ lakeNow s (greg s t 1 - ccLake) 64 6 = true ∧ (op = 0 → greg s t 2 < ccLake))
    ∧ (∃ (s : State) (t : Nat), t < 4 ∧ (thread s t).bulk = none) :=
  ⟨⟨modDom 11 (fun x => { x with st := .on }) ((fun s : State => { s with cc := { s.cc with run := 0, threads := [(0, { st := 0, bulk := some { op := 2 } })] } }) (up)), 0, by decide +kernel⟩,
   ⟨modDom 11 (fun x => { x with st := .on }) ((fun s : State => { s with cc := { s.cc with run := 0, threads := [(0, { st := 0, bulk := some { op := 0 }, g := [(1, 0x1000000000)] })] } }) (up)), 0, 0, by decide +kernel⟩,
   ⟨State.reset, 0, by decide +kernel⟩⟩

theorem witness_InterruptsAndMailbox_1 :
    (∃ (s : State) (t : Nat) (b : Nat) (p : Nat), nextInt s t = some (b, p) ∧ (t < 4 ∧ isOn s dCCR = true ∧ s.cc.run = 0 ∧ (thread s t).st = 0))
    ∧ (∃ (s : State) (t : Nat), t < 4 ∧ nextInt s t = none)
    ∧ (∃ (s : State) (t : Nat) (k : Nat) (i : Nat), (thread s t).modl = some (k, i) ∧ t < 4)
    ∧ (∃ (s : State) (t : Nat), t < 4 ∧ (thread s t).modl = none)
    ∧ (∃ (s : State) (m : Nat), m < 8 ∧ (modl s m).st = 1 ∧ s.wks.dly.l3.length < 8192)
    ∧ (∃ (s : State), s.wks.dly.l3.length < 8192)
    ∧ (∃ (s : State), 8192 ≤ s.wks.dly.l3.length)
    ∧ (∃ (s : State) (m : Nat) (c : Nat) (n : Nat), n = (chan s c).stall ∧ (c < 4096 ∧ (chan s c).st ≠ 0 ∧ serviceOk s m n = true))
    ∧ (∃ (s : State) (c : Nat), c < 4096 ∧ (chan s c).st = 0)
    ∧ (∃ (s : State) (k : Nat), k < 4 ∧ mbxState s k = 0)
    ∧ (∃ (s : State) (k : Nat), k < 4 ∧ mbxState s k = 3)
    ∧ (∃ (s : State) (k : Nat) (c : Bytes), c = mbxCmd s k ∧ (k < 4 ∧ isOn s dCCR = true ∧ s.cc.run = 0 ∧ mbxState s k = 1 ∧ (∀ j < k, mbxState s j ≠ 1) ∧ (u8 c 0 = 0 ∨ 5 < u8 c 0))) :=
  ⟨⟨modDom 11 (fun x => { x with st := .on }) ((fun s : State => { s with cc := { s.cc with run := 0, threads := [(0, { st := 0 })] } }) (wr rIntPend 1 up)), 0, _, _, rfl, by decide +kernel⟩,
   ⟨State.reset, 0, by decide +kernel⟩,
   ⟨modDom 11 (fun x => { x with st := .on }) ((fun s : State => { s with cc := { s.cc with run := 0, threads := [(0, { modl := some (0, 0) })] } }) (up)), 0, _, _, rfl, by decide +kernel⟩,
   ⟨State.reset, 0, by decide +kernel⟩,
   ⟨withConf { modules := [(0, { st := 1 })] } (up), 0, by decide +kernel⟩,
   ⟨State.reset, by decide +kernel⟩,
   ⟨modWks (fun w => { w with dly := { l3 := List.replicate 8192 { due := 0, kind := 8 } } }) (up), by decide +kernel⟩,
   ⟨modChan 0 (fun _ => chanOpen) (withConf { modules := [(0, { st := 1, stalls := 1 })] } (up)), 0, 0, _, rfl, by decide +kernel⟩,
   ⟨State.reset, 0, by decide +kernel⟩,
   ⟨State.reset, 0, by decide +kernel⟩,
   ⟨modDom 11 (fun x => { x with st := .on }) ((fun s : State => { s with cc := { s.cc with run := 0, threads := [(0, { st := 0 })] } }) ((fun s : State => { s with cc := { s.cc with mbx := [(0, 3)] } }) (up))), 0, by decide +kernel⟩,
   ⟨modDom 11 (fun x => { x with st := .on }) ((fun s : State => { s with cc := { s.cc with run := 0, threads := [(0, { st := 0 })] } }) ((fun s : State => { s with cc := { s.cc with mbx := [(0, 1)] } }) (up))), 0, _, rfl, by decide +kernel⟩⟩

theorem witness_InterruptsAndMailbox_2 :
    (∃ (s : State) (k : Nat) (c : Bytes), c = mbxCmd s k ∧ (k < 4 ∧ isOn s dCCR = true ∧ s.cc.run = 0 ∧ mbxState s k = 1 ∧ (∀ j < k, mbxState s j ≠ 1) ∧ u8 c 0 = 1))
    ∧ (∃ (s : State) (k : Nat) (c : Bytes), c = mbxCmd s k ∧ (k < 4 ∧ isOn s dCCR = true ∧ s.cc.run = 0 ∧ mbxState s k = 1 ∧ (∀ j < k, mbxState s j ≠ 1) ∧ u8 c 0 = 2 ∧ 7 < u8 c 8))
    ∧ (∃ (s : State) (k : Nat) (c : Bytes) (u : State) (f : Nat × State) (m : Nat), c = mbxCmd s k ∧ u = touch dCCR s ∧ f = fresh u ∧ m = u8 c 8 ∧ (k < 4 ∧ isOn s dCCR = true ∧ s.cc.run = 0 ∧ mbxState s k = 1 ∧ (∀ j < k, mbxState s j ≠ 1) ∧ u8 c 0 = 2 ∧ m ≤ 7 ∧ (modl f.2 m).st = 0))
    ∧ (∃ (s : State) (k : Nat) (c : Bytes) (u : State) (f : Nat × State) (m : Nat), c = mbxCmd s k ∧ u = touch dCCR s ∧ f = fresh u ∧ m = u8 c 8 ∧ (k < 4 ∧ isOn s dCCR = true ∧ s.cc.run = 0 ∧ mbxState s k = 1 ∧ (∀ j < k, mbxState s j ≠ 1) ∧ u8 c 0 = 2 ∧ m ≤ 7 ∧ (modl f.2 m).st = 3))
    ∧ (∃ (s : State) (k : Nat) (c : Bytes) (u : State) (f : Nat × State) (m : Nat), c = mbxCmd s k ∧ u = touch dCCR s ∧ f = fresh u ∧ m = u8 c 8 ∧ (k < 4 ∧ isOn s dCCR = true ∧ s.cc.run = 0 ∧ mbxState s k = 1 ∧ (∀ j < k, mbxState s j ≠ 1) ∧ u8 c 0 = 2 ∧ m ≤ 7 ∧ (modl f.2 m).st = 1))
    ∧ (∃ (s : State) (k : Nat) (c : Bytes) (u : State) (f : Nat × State) (m : Nat), c = mbxCmd s k ∧ u = touch dCCR s ∧ f = fresh u ∧ m = u8 c 8 ∧ (k < 4 ∧ isOn s dCCR = true ∧ s.cc.run = 0 ∧ mbxState s k = 1 ∧ (∀ j < k, mbxState s j ≠ 1) ∧ u8 c 0 = 2 ∧ m ≤ 7 ∧ (modl f.2 m).st = 2))
    ∧ (∃ (s : State) (k : Nat) (c : Bytes) (u : State) (f : Nat × State) (m : Nat), c = mbxCmd s k ∧ u = touch dCCR s ∧ f = fresh u ∧ m = f.1 % 8 ∧ (modl f.2 m).st = 1 ∧ (modl f.2 m).entries.getD 4 65535 ≠ 65535 ∧ (k < 4 ∧ isOn s dCCR = true ∧ s.cc.run = 0 ∧ mbxState s k = 1 ∧ (∀ j < k, mbxState s j ≠ 1) ∧ u8 c 0 = 3))
    ∧ (∃ (s : State) (k : Nat) (c : Bytes) (u : State) (f : Nat × State) (m : Nat), c = mbxCmd s k ∧ u = touch dCCR s ∧ f = fresh u ∧ m = f.1 % 8 ∧ (k < 4 ∧ isOn s dCCR = true ∧ s.cc.run = 0 ∧ mbxState s k = 1 ∧ (∀ j < k, mbxState s j ≠ 1) ∧ u8 c 0 = 3 ∧ (modl f.2 m).st ≠ 1))
    ∧ (∃ (s : State) (k : Nat) (c : Bytes), c = mbxCmd s k ∧ (k < 4 ∧ isOn s dCCR = true ∧ s.cc.run = 0 ∧ mbxState s k = 1 ∧ (∀ j < k, mbxState s j ≠ 1) ∧ u8 c 0 = 4))
    ∧ (∃ (s : State) (k : Nat) (c : Bytes) (u : State), c = mbxCmd s k ∧ u = touch dCCR s ∧ (k < 4 ∧ isOn s dCCR = true ∧ s.cc.run = 0 ∧ mbxState s k = 1 ∧ (∀ j < k, mbxState s j ≠ 1) ∧ u8 c 0 = 5 ∧ handleOk u 2 (u64 c 8) = true ∧ isFw (hIdx (u64 c 8)) = true ∧ (ent u (hIdx (u64 c 8))).st ≠ RState.free))
    ∧ (∃ (s : State) (k : Nat) (c : Bytes) (u : State), c = mbxCmd s k ∧ u = touch dCCR s ∧ (k < 4 ∧ isOn s dCCR = true ∧ s.cc.run = 0 ∧ mbxState s k = 1 ∧ (∀ j < k, mbxState s j ≠ 1) ∧ u8 c 0 = 5 ∧ handleOk u 2 (u64 c 8) = false)) :=
  ⟨⟨modDom 11 (fun x => { x with st := .on }) ((fun s : State => { s with cc := { s.cc with run := 0, threads := [(0, { st := 0 })] } }) ((fun s : State => { s with cc := { s.cc with mbx := [(0, 1)] } }) (wr (rMbx 0 0) 1 (up)))), 0, _, rfl, by decide +kernel⟩,
   ⟨modDom 11 (fun x => { x with st := .on }) ((fun s : State => { s with cc := { s.cc with run := 0, threads := [(0, { st := 0 })] } }) ((fun s : State => { s with cc := { s.cc with mbx := [(0, 1)] } }) (wr (rMbx 0 2) 8 (wr (rMbx 0 0) 2 (up))))), 0, _, rfl, by decide +kernel⟩,
   ⟨modDom 11 (fun x => { x with st := .on }) ((fun s : State => { s with cc := { s.cc with run := 0, threads := [(0, { st := 0 })] } }) ((fun s : State => { s with cc := { s.cc with mbx := [(0, 1)] } }) (wr (rMbx 0 0) 2 (up)))), 0, _, _, _, _, rfl, rfl, rfl, rfl, by decide +kernel⟩,
   ⟨modDom 11 (fun x => { x with st := .on }) ((fun s : State => { s with cc := { s.cc with run := 0, threads := [(0, { st := 0 })] } }) ((fun s : State => { s with cc := { s.cc with mbx := [(0, 1)] } }) (wr (rMbx 0 0) 2 (withConf { modules := [(0, { st := 3 })] } (up))))), 0, _, _, _, _, rfl, rfl, rfl, rfl, by decide +kernel⟩,
   ⟨modDom 11 (fun x => { x with st := .on }) ((fun s : State => { s with cc := { s.cc with run := 0, threads := [(0, { st := 0 })] } }) ((fun s : State => { s with cc := { s.cc with mbx := [(0, 1)] } }) (wr (rMbx 0 0) 2 (withConf { modules := [(0, { st := 1 })] } (up))))), 0, _, _, _, _, rfl, rfl, rfl, rfl, by decide +kernel⟩,
   ⟨modDom 11 (fun x => { x with st := .on }) ((fun s : State => { s with cc := { s.cc with run := 0, threads := [(0, { st := 0 })] } }) ((fun s : State => { s with cc := { s.cc with mbx := [(0, 1)] } }) (wr (rMbx 0 0) 2 (withConf { modules := [(0, { st := 2 })] } (up))))), 0, _, _, _, _, rfl, rfl, rfl, rfl, by decide +kernel⟩,
   ⟨modDom 11 (fun x => { x with st := .on }) ((fun s : State => { s with cc := { s.cc with run := 0, threads := [(0, { st := 0 })] } }) ((fun s : State => { s with cc := { s.cc with mbx := [(0, 1)] } }) (wr (rMbx 0 0) 3 (withConf { modules := (List.range 8).map (fun m => (m, { st := 1, entries := [0, 0, 0, 0, 0] })) } (up))))), 0, _, _, _, _, rfl, rfl, rfl, rfl, below8 (P := fun m => (modl _ m).st = 1) (by decide +kernel) _, below8 (P := fun m => (modl _ m).entries.getD 4 65535 ≠ 65535) (by decide +kernel) _, by decide +kernel⟩,
   ⟨modDom 11 (fun x => { x with st := .on }) ((fun s : State => { s with cc := { s.cc with run := 0, threads := [(0, { st := 0 })] } }) ((fun s : State => { s with cc := { s.cc with mbx := [(0, 1)] } }) (wr (rMbx 0 0) 3 (up)))), 0, _, _, _, _, rfl, rfl, rfl, rfl, by decide +kernel⟩,
   ⟨modDom 11 (fun x => { x with st := .on }) ((fun s : State => { s with cc := { s.cc with run := 0, threads := [(0, { st := 0 })] } }) ((fun s : State => { s with cc := { s.cc with mbx := [(0, 1)] } }) (wr (rMbx 0 0) 4 (up)))), 0, _, rfl, by decide +kernel⟩,
   ⟨modDom 11 (fun x => { x with st := .on }) ((fun s : State => { s with cc := { s.cc with run := 0, threads := [(0, { st := 0 })] } }) ((fun s : State => { s with cc := { s.cc with mbx := [(0, 1)] } }) (wr (rMbx 0 3) 16777728 (wr (rMbx 0 2) 4096 (wr (rMbx 0 0) 5 (modEnt 4096 (fun e => { e with st := .ready }) up)))))), 0, _, _, rfl, rfl, by decide +kernel⟩,
   ⟨modDom 11 (fun x => { x with st := .on }) ((fun s : State => { s with cc := { s.cc with run := 0, threads := [(0, { st := 0 })] } }) ((fun s : State => { s with cc := { s.cc with mbx := [(0, 1)] } }) (wr (rMbx 0 0) 5 (up)))), 0, _, _, rfl, rfl, by decide +kernel⟩⟩

theorem witness_ChannelsAndDoorbells_1 :
    (∃ (s : State) (n : Nat) (src : Src), n < 32 ∧ srcOk src = true ∧ ownWindow src n = true ∧ chBusy s n = true)
    ∧ (∃ (s : State) (n : Nat) (src : Src) (cfg : Nat), cfg = rd s (win n 64) ∧ (n < 32 ∧ srcOk src = true ∧ ownWindow src n = true ∧ chBusy s n = false ∧ (bits cfg 3 0 < 4 ∨ 12 < bits cfg 3 0 ∨ bits cfg 7 4 < 4 ∨ 12 < bits cfg 7 4 ∨ rd64 s (win n 48) % 4096 ≠ 0 ∨ rd64 s (win n 56) % 4096 ≠ 0)))
    ∧ (∃ (s : State) (n : Nat) (src : Src) (cfg : Nat), cfg = rd s (win n 64) ∧ (n < 32 ∧ srcOk src = true ∧ ownWindow src n = true ∧ chBusy s n = false ∧ 4 ≤ bits cfg 3 0 ∧ bits cfg 3 0 ≤ 12 ∧ 4 ≤ bits cfg 7 4 ∧ bits cfg 7 4 ≤ 12 ∧ rd64 s (win n 48) % 4096 = 0 ∧ rd64 s (win n 56) % 4096 = 0 ∧ (∀ j < (stallCfg s n).chCount, (chan s ((stallCfg s n).chBase + j)).st ≠ 0)))
    ∧ (∃ (s : State) (n : Nat) (src : Src) (cfg : Nat) (i : Nat) (k : Nat), cfg = rd s (win n 64) ∧ k = (stallCfg s n).chBase + i ∧ (n < 32 ∧ srcOk src = true ∧ ownWindow src n = true ∧ chBusy s n = false ∧ 4 ≤ bits cfg 3 0 ∧ bits cfg 3 0 ≤ 12 ∧ 4 ≤ bits cfg 7 4 ∧ bits cfg 7 4 ≤ 12 ∧ rd64 s (win n 48) % 4096 = 0 ∧ rd64 s (win n 56) % 4096 = 0 ∧ i < (stallCfg s n).chCount ∧ (chan s k).st = 0 ∧ (∀ j < i, (chan s ((stallCfg s n).chBase + j)).st ≠ 0)))
    ∧ (∃ (s : State) (n : Nat) (i : Nat), n < 32 ∧ chBusy s n = false ∧ localChan s n i = none)
    ∧ (∃ (s : State) (n : Nat) (i : Nat) (c : Nat), localChan s n i = some c ∧ (n < 32 ∧ chBusy s n = false))
    ∧ (∃ (s : State) (n : Nat) (v : Word) (c : Nat) (x : Chan), localChan s n (bits (BitVec.toNat v) 9 0) = some c ∧ x = chan s c ∧ (n < 32 ∧ 2 ^ x.sqK ≤ bits (BitVec.toNat v) 21 10))
    ∧ (∃ (s : State) (n : Nat) (v : Word) (c : Nat) (x : Chan), localChan s n (bits (BitVec.toNat v) 9 0) = some c ∧ x = chan s c ∧ (n < 32 ∧ bits (BitVec.toNat v) 21 10 < 2 ^ x.sqK ∧ x.st = 1 ∧ bits (BitVec.toNat v) 21 10 ≠ x.sqHead))
    ∧ (∃ (s : State) (n : Nat) (v : Word) (c : Nat) (x : Chan), localChan s n (bits (BitVec.toNat v) 9 0) = some c ∧ x = chan s c ∧ (n < 32 ∧ bits (BitVec.toNat v) 21 10 < 2 ^ x.sqK ∧ (x.st ≠ 1 ∨ bits (BitVec.toNat v) 21 10 = x.sqHead)))
    ∧ (∃ (s : State) (n : Nat) (v : Word) (c : Nat) (x : Chan), localChan s n (bits (BitVec.toNat v) 9 0) = some c ∧ x = chan s c ∧ (n < 32 ∧ 2 ^ x.cqK ≤ bits (BitVec.toNat v) 21 10))
    ∧ (∃ (s : State) (n : Nat) (v : Word) (c : Nat) (x : Chan), localChan s n (bits (BitVec.toNat v) 9 0) = some c ∧ x = chan s c ∧ (n < 32 ∧ bits (BitVec.toNat v) 21 10 < 2 ^ x.cqK))
    ∧ (∃ (s : State) (n : Nat) (v : Word), n < 32 ∧ localChan s n (bits (BitVec.toNat v) 9 0) = none) :=
  ⟨⟨wr (rChResult 0) 0x100 up, 0, Sys2Proof.Src.pf, by decide +kernel⟩,
   ⟨State.reset, 0, Sys2Proof.Src.pf, _, rfl, by decide +kernel⟩,
   ⟨wr (win 0 64) 0x44 up, 0, Sys2Proof.Src.pf, _, rfl, by decide +kernel⟩,
   ⟨wr (win 0 64) 0x44 (withConf { stalls := [(0, { chCount := 1 })] } (up)), 0, Sys2Proof.Src.pf, _, 0, _, rfl, rfl, by decide +kernel⟩,
   ⟨State.reset, 0, 0, by decide +kernel⟩,
   ⟨modChan 0 (fun _ => chanOpen) (withConf { stalls := [(0, { chCount := 1 })] } (up)), 0, 0, _, rfl, by decide +kernel⟩,
   ⟨modChan 0 (fun _ => chanOpen) (withConf { stalls := [(0, { chCount := 1 })] } (up)), 0, 0x10000, _, _, rfl, rfl, by decide +kernel⟩,
   ⟨modChan 0 (fun _ => chanOpen) (withConf { stalls := [(0, { chCount := 1 })] } (up)), 0, 0x400, _, _, rfl, rfl, by decide +kernel⟩,
   ⟨modChan 0 (fun _ => chanOpen) (withConf { stalls := [(0, { chCount := 1 })] } (up)), 0, 0, _, _, rfl, rfl, by decide +kernel⟩,
   ⟨modChan 0 (fun _ => chanOpen) (withConf { stalls := [(0, { chCount := 1 })] } (up)), 0, 0x10000, _, _, rfl, rfl, by decide +kernel⟩,
   ⟨modChan 0 (fun _ => chanOpen) (withConf { stalls := [(0, { chCount := 1 })] } (up)), 0, 0, _, _, rfl, rfl, by decide +kernel⟩,
   ⟨State.reset, 0, 0, by decide +kernel⟩⟩

theorem witness_ChannelsAndDoorbells_2 :
    (∃ (s : State) (n : Nat) (v : Word) (i : Nat), i = bits (BitVec.toNat v) 9 0 ∧ (n < 32 ∧ (bit (BitVec.toNat v) 31 = false ∨ (stallCfg s n).chCount ≤ i)))
    ∧ (∃ (s : State) (n : Nat) (v : Word) (i : Nat) (c : Nat), i = bits (BitVec.toNat v) 9 0 ∧ c = (stallCfg s n).chBase + i ∧ (n < 32 ∧ bit (BitVec.toNat v) 31 = true ∧ i < (stallCfg s n).chCount ∧ (look s.tillNow c { at_ := 0, before := { snapFt := 0, cmds := 0, triggers := 0, admits := 0, fallback := 0, defer_ := 0, displaced := 0, refused := [], lateDropped := 0, lateFinished := 0, faults := 0, specRejected := 0, waitSum := 0, waitMax := 0, tokens := 0, hist := [] }, since := { snapFt := 0, cmds := 0, triggers := 0, admits := 0, fallback := 0, defer_ := 0, displaced := 0, refused := [], lateDropped := 0, lateFinished := 0, faults := 0, specRejected := 0, waitSum := 0, waitMax := 0, tokens := 0, hist := [] } }).at_ ≠ s.ft))
    ∧ (∃ (s : State) (n : Nat) (v : Word) (i : Nat) (c : Nat) (w : TillNow), i = bits (BitVec.toNat v) 9 0 ∧ c = (stallCfg s n).chBase + i ∧ w = look s.tillNow c { at_ := 0, before := { snapFt := 0, cmds := 0, triggers := 0, admits := 0, fallback := 0, defer_ := 0, displaced := 0, refused := [], lateDropped := 0, lateFinished := 0, faults := 0, specRejected := 0, waitSum := 0, waitMax := 0, tokens := 0, hist := [] }, since := { snapFt := 0, cmds := 0, triggers := 0, admits := 0, fallback := 0, defer_ := 0, displaced := 0, refused := [], lateDropped := 0, lateFinished := 0, faults := 0, specRejected := 0, waitSum := 0, waitMax := 0, tokens := 0, hist := [] } } ∧ (n < 32 ∧ bit (BitVec.toNat v) 31 = true ∧ i < (stallCfg s n).chCount ∧ w.at_ = s.ft)) :=
  ⟨⟨State.reset, 0, 0, _, rfl, by decide +kernel⟩,
   ⟨atFt 1 (withConf { stalls := [(0, { chCount := 1 })] } (up)), 0, 0x80000000, _, _, rfl, rfl, by decide +kernel⟩,
   ⟨wr (win 0 64) 0x44 (withConf { stalls := [(0, { chCount := 1 })] } (up)), 0, 0x80000000, _, _, _, rfl, rfl, rfl, by decide +kernel⟩⟩

theorem witness_CommandsAreFetchedAndPosted_1 :
    (∃ (s : State) (c : Nat) (b : Option Bytes), c < 4096 ∧ sizeOk 64 b = true ∧ chanCorrupt s c = true)
    ∧ (∃ (s : State) (c : Nat) (b : Option Bytes), c < 4096 ∧ sizeOk 64 b = true ∧ chanCorrupt s c = false ∧ mayFetch s c = false)
    ∧ (∃ (s : State) (c : Nat) (b : Bytes), c < 4096 ∧ List.length b = 64 ∧ chanCorrupt s c = false ∧ mayFetch s c = true)
    ∧ (∃ (s : State) (c : Nat), c < 4096 ∧ chanCorrupt s c = false ∧ mayFetch s c = true)
    ∧ (∃ (s : State) (c : Nat), c < 4096 ∧ (chan s c).st = 1)
    ∧ (∃ (s : State) (c : Nat), c < 4096 ∧ (chan s c).st = 2)
    ∧ (∃ (s : State) (c : Nat), c < 4096 ∧ ((chan s c).st = 0 ∨ (chan s c).st = 3))
    ∧ (∃ (s : State) (c : Nat) (x : Chan) (q : Cqe) (r : List Cqe), x = chan s c ∧ x.compq = q :: r ∧ (c < 4096 ∧ x.st ≠ 0 ∧ x.st ≠ 3 ∧ isOn s dHST = true ∧ s.spg.l1 = false ∧ x.unsig + 1 < x.coalN))
    ∧ (∃ (s : State) (c : Nat) (x : Chan) (q : Cqe) (r : List Cqe), x = chan s c ∧ x.compq = q :: r ∧ (c < 4096 ∧ x.st ≠ 0 ∧ x.st ≠ 3 ∧ isOn s dHST = true ∧ s.spg.l1 = false ∧ x.coalN ≤ x.unsig + 1))
    ∧ (∃ (s : State) (c : Nat), c < 4096 ∧ ((chan s c).compq = [] ∨ (chan s c).st = 0 ∨ (chan s c).st = 3 ∨ isOn s dHST = false ∨ s.spg.l1 = true))
    ∧ (∃ (s : State) (c : Nat), c < 4096 ∧ (chan s c).unsigAt = none)
    ∧ (∃ (s : State) (c : Nat) (t : Nat), (chan s c).unsigAt = some t ∧ (c < 4096 ∧ t + us (chan s c).coalT ≤ s.ft)) :=
  ⟨⟨modChan 0 (fun _ => { chanOpen with sqHead := 64 }) (up), 0, none, by decide +kernel⟩,
   ⟨State.reset, 0, none, by decide +kernel⟩,
   ⟨modChan 0 (fun _ => { chanOpen with sqTail := 1 }) (up), 0, zeros 64, by decide +kernel⟩,
   ⟨modChan 0 (fun _ => { chanOpen with sqTail := 1 }) (up), 0, by decide +kernel⟩,
   ⟨modChan 0 (fun _ => { chanOpen with sqTail := 1 }) (up), 0, by decide +kernel⟩,
   ⟨modChan 0 (fun _ => { chanOpen with st := 2 }) (up), 0, by decide +kernel⟩,
   ⟨State.reset, 0, by decide +kernel⟩,
   ⟨modChan 0 (fun _ => { chanOpen with compq := [{ final := true, status := 0, cid := 0, req := 0, outcome := 0, rung := 0, deferred := false, cstat := 0, displaced := 0, specAcc := 0, predict := 0, ingress := 0, admits := 0, first := 0, last := 0 }], coalN := 2 }) (up), 0, _, _, _, rfl, rfl, by decide +kernel⟩,
   ⟨modChan 0 (fun _ => { chanOpen with compq := [{ final := true, status := 0, cid := 0, req := 0, outcome := 0, rung := 0, deferred := false, cstat := 0, displaced := 0, specAcc := 0, predict := 0, ingress := 0, admits := 0, first := 0, last := 0 }], coalN := 1 }) (up), 0, _, _, _, rfl, rfl, by decide +kernel⟩,
   ⟨State.reset, 0, by decide +kernel⟩,
   ⟨State.reset, 0, by decide +kernel⟩,
   ⟨modChan 0 (fun _ => { chanOpen with unsigAt := some 0 }) (up), 0, _, rfl, by decide +kernel⟩⟩

theorem witness_CommandsAreFetchedAndPosted_2 :
    (∃ (s : State) (c : Nat) (t : Nat), (chan s c).unsigAt = some t ∧ (c < 4096 ∧ s.ft < t + us (chan s c).coalT))
    ∧ (∃ (s : State) (c : Nat), c < 4096 ∧ (chan s c).st ≠ 0 ∧ (chan s c).period ≠ 0 ∧ s.ft % us (chan s c).period = 0)
    ∧ (∃ (s : State) (c : Nat), c < 4096 ∧ ((chan s c).st = 0 ∨ (chan s c).period = 0 ∨ s.ft % us (chan s c).period ≠ 0)) :=
  ⟨⟨modChan 0 (fun _ => { chanOpen with unsigAt := some 0, coalT := 1 }) (up), 0, _, rfl, by decide +kernel⟩,
   ⟨modChan 0 (fun _ => { chanOpen with period := 1 }) (up), 0, by decide +kernel⟩,
   ⟨State.reset, 0, by decide +kernel⟩⟩

theorem witness_SubmitAppendAndBatch_1 :
    (∃ (s : State) (c : Nat), Waits s c opSubmit ∧ c < 4096)
    ∧ (∃ (s : State) (c : Nat), Waits s c opAppend ∧ c < 4096)
    ∧ (∃ (s : State) (c : Nat), Waits s c opBatch ∧ c < 4096)
    ∧ (∃ (s : State) (c : Nat), Waits s c opFence ∧ c < 4096)
    ∧ (∃ (s : State) (c : Nat), Waits s c opCancel ∧ c < 4096)
    ∧ (∃ (s : State) (c : Nat), Waits s c opClose ∧ c < 4096)
    ∧ (∃ (s : State) (c : Nat), Waits s c opSetDeadline ∧ c < 4096)
    ∧ (∃ (s : State) (c : Nat), Waits s c opPause ∧ c < 4096)
    ∧ (∃ (s : State) (c : Nat), Waits s c opResume ∧ c < 4096)
    ∧ (∃ (s : State) (c : Nat), Waits s c opAdopt ∧ c < 4096)
    ∧ (∃ (s : State) (c : Nat) (e : Sqe) (k : Nat) (u : State) (t : State) (ws : Option (List Word)), headCmd s c = some e ∧ k = staticStat s c e ∧ u = reject c e k (takenOff c s) ∧ Leaves (Instr.submit c ws) u t ∧ ((chan s c).st ≠ 0 ∧ k ≠ 0))
    ∧ (∃ (s : State) (c : Nat) (e : Sqe) (k : Nat) (u : State) (t : State) (ws : Option (List Word)), headCmd s c = some e ∧ k = staticStat s c e ∧ u = reject c e k (takenOff c s) ∧ Leaves (Instr.append c ws) u t ∧ ((chan s c).st ≠ 0 ∧ k ≠ 0)) :=
  ⟨⟨State.reset, 0, .inl (by decide +kernel), by decide +kernel⟩,
   ⟨State.reset, 0, .inl (by decide +kernel), by decide +kernel⟩,
   ⟨State.reset, 0, .inl (by decide +kernel), by decide +kernel⟩,
   ⟨State.reset, 0, .inl (by decide +kernel), by decide +kernel⟩,
   ⟨State.reset, 0, .inl (by decide +kernel), by decide +kernel⟩,
   ⟨State.reset, 0, .inl (by decide +kernel), by decide +kernel⟩,
   ⟨State.reset, 0, .inl (by decide +kernel), by decide +kernel⟩,
   ⟨State.reset, 0, .inl (by decide +kernel), by decide +kernel⟩,
   ⟨State.reset, 0, .inl (by decide +kernel), by decide +kernel⟩,
   ⟨State.reset, 0, .inl (by decide +kernel), by decide +kernel⟩,
   ⟨modChan 0 (fun _ => { chanOpen with acc := [{ op := 99 }] }) (up), 0, _, _, _, _, none, rfl, rfl, rfl, leaves_after (by decide +kernel), by decide +kernel⟩,
   ⟨modChan 0 (fun _ => { chanOpen with acc := [{ op := 99 }] }) (up), 0, _, _, _, _, none, rfl, rfl, rfl, leaves_after (by decide +kernel), by decide +kernel⟩⟩

theorem witness_SubmitAppendAndBatch_2 :
    (∃ (s : State) (c : Nat) (e : Sqe) (k : Nat) (u : State) (t : State) (ms : Option (List (Bytes × List Word))), headCmd s c = some e ∧ k = staticStat s c e ∧ u = reject c e k (takenOff c s) ∧ Leaves (Instr.batch c ms) u t ∧ ((chan s c).st ≠ 0 ∧ k ≠ 0))
    ∧ (∃ (s : State) (c : Nat) (e : Sqe) (k : Nat) (u : State) (t : State), headCmd s c = some e ∧ k = staticStat s c e ∧ u = reject c e k (takenOff c s) ∧ Leaves (Instr.fence c) u t ∧ ((chan s c).st ≠ 0 ∧ k ≠ 0))
    ∧ (∃ (s : State) (c : Nat) (e : Sqe) (k : Nat) (u : State) (t : State), headCmd s c = some e ∧ k = staticStat s c e ∧ u = reject c e k (takenOff c s) ∧ Leaves (Instr.cancel c) u t ∧ ((chan s c).st ≠ 0 ∧ k ≠ 0))
    ∧ (∃ (s : State) (c : Nat) (e : Sqe) (k : Nat) (u : State) (t : State), headCmd s c = some e ∧ k = staticStat s c e ∧ u = reject c e k (takenOff c s) ∧ Leaves (Instr.close c) u t ∧ ((chan s c).st ≠ 0 ∧ k ≠ 0))
    ∧ (∃ (s : State) (c : Nat) (e : Sqe) (k : Nat) (u : State) (t : State), headCmd s c = some e ∧ k = staticStat s c e ∧ u = reject c e k (takenOff c s) ∧ Leaves (Instr.setDeadline c) u t ∧ ((chan s c).st ≠ 0 ∧ k ≠ 0))
    ∧ (∃ (s : State) (c : Nat) (e : Sqe) (k : Nat) (u : State) (t : State), headCmd s c = some e ∧ k = staticStat s c e ∧ u = reject c e k (takenOff c s) ∧ Leaves (Instr.pause c) u t ∧ ((chan s c).st ≠ 0 ∧ k ≠ 0))
    ∧ (∃ (s : State) (c : Nat) (e : Sqe) (k : Nat) (u : State) (t : State), headCmd s c = some e ∧ k = staticStat s c e ∧ u = reject c e k (takenOff c s) ∧ Leaves (Instr.resume c) u t ∧ ((chan s c).st ≠ 0 ∧ k ≠ 0))
    ∧ (∃ (s : State) (c : Nat) (e : Sqe) (k : Nat) (u : State) (t : State), headCmd s c = some e ∧ k = staticStat s c e ∧ u = reject c e k (takenOff c s) ∧ Leaves (Instr.adopt c) u t ∧ ((chan s c).st ≠ 0 ∧ k ≠ 0))
    ∧ (∃ (s : State) (c : Nat) (e : Sqe) (ws : Option (List Word)) (l : Nat × List Nat), Takes s c opSubmit e ∧ l = listOf e ws ∧ (c < 4096 ∧ l.1 ≠ 0))
    ∧ (∃ (s : State) (c : Nat) (e : Sqe) (u : State) (ws : Option (List Word)) (l : Nat × List Nat) (g : Nat × Option Nat), Takes s c opSubmit e ∧ u = takenOff c s ∧ l = listOf e ws ∧ g = ringCheck u (chan u c).stall (BitVec.toNat e.ring) ∧ (c < 4096 ∧ l.1 = 0 ∧ g.1 ≠ 0))
    ∧ (∃ (s : State) (c : Nat) (e : Sqe) (u : State) (ws : Option (List Word)) (l : Nat × List Nat) (g : Nat × Option Nat), Takes s c opSubmit e ∧ u = takenOff c s ∧ l = listOf e ws ∧ g = ringCheck u (chan u c).stall (BitVec.toNat e.ring) ∧ (c < 4096 ∧ l.1 = 0 ∧ g.1 = 0))
    ∧ (∃ (s : State) (c : Nat) (e : Sqe), Takes s c opBatch e ∧ c < 4096) :=
  ⟨⟨modChan 0 (fun _ => { chanOpen with acc := [{ op := 99 }] }) (up), 0, _, _, _, _, none, rfl, rfl, rfl, leaves_after (by decide +kernel), by decide +kernel⟩,
   ⟨modChan 0 (fun _ => { chanOpen with acc := [{ op := 99 }] }) (up), 0, _, _, _, _, rfl, rfl, rfl, leaves_after (by decide +kernel), by decide +kernel⟩,
   ⟨modChan 0 (fun _ => { chanOpen with acc := [{ op := 99 }] }) (up), 0, _, _, _, _, rfl, rfl, rfl, leaves_after (by decide +kernel), by decide +kernel⟩,
   ⟨modChan 0 (fun _ => { chanOpen with acc := [{ op := 99 }] }) (up), 0, _, _, _, _, rfl, rfl, rfl, leaves_after (by decide +kernel), by decide +kernel⟩,
   ⟨modChan 0 (fun _ => { chanOpen with acc := [{ op := 99 }] }) (up), 0, _, _, _, _, rfl, rfl, rfl, leaves_after (by decide +kernel), by decide +kernel⟩,
   ⟨modChan 0 (fun _ => { chanOpen with acc := [{ op := 99 }] }) (up), 0, _, _, _, _, rfl, rfl, rfl, leaves_after (by decide +kernel), by decide +kernel⟩,
   ⟨modChan 0 (fun _ => { chanOpen with acc := [{ op := 99 }] }) (up), 0, _, _, _, _, rfl, rfl, rfl, leaves_after (by decide +kernel), by decide +kernel⟩,
   ⟨modChan 0 (fun _ => { chanOpen with acc := [{ op := 99 }] }) (up), 0, _, _, _, _, rfl, rfl, rfl, leaves_after (by decide +kernel), by decide +kernel⟩,
   ⟨modChan 0 (fun _ => { chanOpen with acc := [{ op := 1, count := 1 }] }) (up), 0, { op := 1, count := 1 }, none, _, by unfold Takes; decide +kernel, rfl, by decide +kernel⟩,
   ⟨modChan 0 (fun _ => { chanOpen with acc := [{ op := 1, count := 1 }] }) (up), 0, { op := 1, count := 1 }, _, some [1], _, _, by unfold Takes; decide +kernel, rfl, rfl, rfl, by decide +kernel⟩,
   ⟨modChan 0 (fun _ => { chanOpen with acc := [{ op := 1, ring := 0x0100030000000000 }] }) ({ up with rings := [(0, { st := 1 })] }), 0, { op := 1, ring := 0x0100030000000000 }, _, none, _, _, by unfold Takes; decide +kernel, rfl, rfl, rfl, by decide +kernel⟩,
   ⟨modChan 0 (fun _ => { chanOpen with acc := [{ op := 8, count := 1 }] }) (withConf { stalls := [(0, { mode := 1 })] } (up)), 0, { op := 8, count := 1 }, by unfold Takes; decide +kernel, by decide +kernel⟩⟩

theorem witness_SubmitAppendAndBatch_3 :
    (∃ (s : State) (c : Nat) (e : Sqe) (u : State) (v : State) (l : List (Bytes × List Word)) (w : State), Takes s c opBatch e ∧ u = takenOff c s ∧ v = readList c e 64 u ∧ (w = forEach (List.take e.count l) (fun m => readList c (sqeOf m.1) 4) v) ∧ (c < 4096 ∧ batchStat w c e l ≠ 0))
    ∧ (∃ (s : State) (c : Nat) (e : Sqe) (u : State) (v : State) (l : List (Bytes × List Word)) (w : State), Takes s c opBatch e ∧ u = takenOff c s ∧ v = readList c e 64 u ∧ (w = forEach (List.take e.count l) (fun m => readList c (sqeOf m.1) 4) v) ∧ (c < 4096 ∧ batchStat w c e l = 0))
    ∧ (∃ (s : State) (c : Nat) (e : Sqe), Takes s c opFence e ∧ c < 4096)
    ∧ (∃ (s : State) (c : Nat), c < 4096 ∧ (chan s c).fences = [])
    ∧ (∃ (s : State) (c : Nat) (f : FenceRec) (rest : List FenceRec) (x : Chan), x = chan s c ∧ x.fences = f :: rest ∧ (c < 4096 ∧ fenceReached s x.stall f = false))
    ∧ (∃ (s : State) (c : Nat) (f : FenceRec) (rest : List FenceRec) (x : Chan), x = chan s c ∧ x.fences = f :: rest ∧ (c < 4096 ∧ fenceReached s x.stall f = true ∧ (∀ w ∈ x.faulted, f.upto ≤ w.1)))
    ∧ (∃ (s : State) (c : Nat) (f : FenceRec) (rest : List FenceRec) (x : Chan) (n : Nat) (seq : Nat) (h : W64) (stall : Nat), x = chan s c ∧ x.fences = f :: rest ∧ (firstIssued (List.filter (fun w => decide (w.1 < f.upto)) x.faulted) = some (n, seq, h, stall)) ∧ (c < 4096 ∧ fenceReached s x.stall f = true))
    ∧ (∃ (s : State) (c : Nat) (e : Sqe) (ws : Option (List Word)) (l : Nat × List Nat), Takes s c opAppend e ∧ l = listOf e ws ∧ (c < 4096 ∧ l.1 ≠ 0))
    ∧ (∃ (s : State) (c : Nat) (e : Sqe) (u : State) (r : Nat) (ws : Option (List Word)) (l : Nat × List Nat) (x : Entry) (y : Side), Takes s c opAppend e ∧ u = takenOff c s ∧ r = hIdx (BitVec.toNat e.handle) ∧ l = listOf e ws ∧ x = ent u r ∧ y = side u r ∧ (c < 4096 ∧ l.1 = 0 ∧ x.poison = true ∧ y.open_ = OpenCmd.none_ ∧ y.pend = none ∧ x.st ≠ RState.closing))
    ∧ (∃ (s : State) (c : Nat) (e : Sqe) (u : State) (v : State) (r : Nat) (ws : Option (List Word)) (l : Nat × List Nat) (x : Entry) (y : Side), Takes s c opAppend e ∧ u = takenOff c s ∧ v = readList c e 4 u ∧ r = hIdx (BitVec.toNat e.handle) ∧ l = listOf e ws ∧ x = ent u r ∧ y = side u r ∧ (c < 4096 ∧ l.1 = 0 ∧ (¬(x.poison = true ∧ y.open_ = OpenCmd.none_ ∧ y.pend = none ∧ x.st ≠ RState.closing)) ∧ (y.pend ≠ none ∨ noAppend v r = true)))
    ∧ (∃ (s : State) (c : Nat) (e : Sqe) (u : State) (v : State) (r : Nat) (ws : Option (List Word)) (l : Nat × List Nat) (x : Entry) (y : Side), Takes s c opAppend e ∧ u = takenOff c s ∧ v = readList c e 4 u ∧ r = hIdx (BitVec.toNat e.handle) ∧ l = listOf e ws ∧ x = ent u r ∧ y = side u r ∧ (c < 4096 ∧ l.1 = 0 ∧ (¬(x.poison = true ∧ y.open_ = OpenCmd.none_ ∧ y.pend = none ∧ x.st ≠ RState.closing)) ∧ y.pend = none ∧ noAppend v r = false ∧ e.supersede = true ∧ (x.st = RState.pausing ∨ x.st = RState.paused ∨ x.st = RState.resuming)))
    ∧ (∃ (s : State) (c : Nat) (e : Sqe) (u : State) (v : State) (r : Nat) (ws : Option (List Word)) (l : Nat × List Nat) (x : Entry) (y : Side), Takes s c opAppend e ∧ u = takenOff c s ∧ v = readList c e 4 u ∧ r = hIdx (BitVec.toNat e.handle) ∧ l = listOf e ws ∧ x = ent u r ∧ y = side u r ∧ (c < 4096 ∧ l.1 = 0 ∧ (¬(x.poison = true ∧ y.open_ = OpenCmd.none_ ∧ y.pend = none ∧ x.st ≠ RState.closing)) ∧ y.pend = none ∧ noAppend v r = false ∧ e.supersede = true ∧ running x = true)) :=
  ⟨⟨modChan 0 (fun _ => { chanOpen with acc := [{ op := 8, count := 1 }] }) (withConf { stalls := [(0, { mode := 1 })] } (up)), 0, { op := 8, count := 1 }, _, _, [], _, by unfold Takes; decide +kernel, rfl, rfl, rfl, by decide +kernel⟩,
   ⟨modChan 0 (fun _ => { chanOpen with acc := [{ op := 8, count := 1 }] }) (withConf { stalls := [(0, { mode := 1 })] } ({ up with rings := [(0, { st := 1 })] })), 0, { op := 8, count := 1 }, _, _, [([1] ++ zeros 39 ++ [0, 0, 0, 0, 0, 3, 0, 1] ++ zeros 16, [])], _, by unfold Takes; decide +kernel, rfl, rfl, rfl, by decide +kernel⟩,
   ⟨modChan 0 (fun _ => { chanOpen with acc := [{ op := 9 }] }) (up), 0, { op := 9 }, by unfold Takes; decide +kernel, by decide +kernel⟩,
   ⟨State.reset, 0, by decide +kernel⟩,
   ⟨modChan 0 (fun _ => { chanOpen with fences := [{ cid := 0, upto := 1, accepted := 0 }] }) (modFab (fun f => { f with srcStreams := [(0, { out := [{ num := 0, seq := 0, handle := 0, chans := [0] }] })] }) up), 0, _, _, _, rfl, rfl, by decide +kernel⟩,
   ⟨modChan 0 (fun _ => { chanOpen with fences := [{ cid := 0, upto := 0, accepted := 0 }] }) (up), 0, _, _, _, rfl, rfl, by decide +kernel⟩,
   ⟨modChan 0 (fun _ => { chanOpen with fences := [{ cid := 0, upto := 1, accepted := 0 }], faulted := [(0, 0, 0, 0)] }) (up), 0, _, _, _, _, _, _, _, rfl, rfl, rfl, by decide +kernel⟩,
   ⟨modChan 0 (fun _ => { chanOpen with acc := [{ op := 2, handle := 0x0100020000000000, count := 1 }] }) (modEnt 0 (fun e => { e with st := .ready }) (up)), 0, { op := 2, handle := 0x0100020000000000, count := 1 }, none, _, by unfold Takes; decide +kernel, rfl, by decide +kernel⟩,
   ⟨modChan 0 (fun _ => { chanOpen with acc := [{ op := 2, handle := 0x0100020000000000 }] }) (modEnt 0 (fun e => { e with st := .ready, poison := true }) (up)), 0, { op := 2, handle := 0x0100020000000000 }, _, _, none, _, _, _, by unfold Takes; decide +kernel, rfl, rfl, rfl, rfl, rfl, by decide +kernel⟩,
   ⟨modChan 0 (fun _ => { chanOpen with acc := [{ op := 2, handle := 0x0100020000000000 }] }) (modSide 0 (fun x => { x with pend := some { isClose := false } }) (modEnt 0 (fun e => { e with st := .ready }) (up))), 0, { op := 2, handle := 0x0100020000000000 }, _, _, _, none, _, _, _, by unfold Takes; decide +kernel, rfl, rfl, rfl, rfl, rfl, rfl, by decide +kernel⟩,
   ⟨modChan 0 (fun _ => { chanOpen with acc := [{ op := 2, handle := 0x0100020000000000, supersede := true }] }) (modEnt 0 (fun e => { e with st := .paused }) (modSide 0 (fun x => { x with open_ := .resume }) (up))), 0, { op := 2, handle := 0x0100020000000000, supersede := true }, _, _, _, none, _, _, _, by unfold Takes; decide +kernel, rfl, rfl, rfl, rfl, rfl, rfl, by decide +kernel⟩,
   ⟨modChan 0 (fun _ => { chanOpen with acc := [{ op := 2, handle := 0x0100020000000000, supersede := true }] }) (modEnt 0 (fun e => { e with st := .decode }) (up)), 0, { op := 2, handle := 0x0100020000000000, supersede := true }, _, _, _, none, _, _, _, by unfold Takes; decide +kernel, rfl, rfl, rfl, rfl, rfl, rfl, by decide +kernel⟩⟩

theorem witness_SubmitAppendAndBatch_4 :
    (∃ (s : State) (c : Nat) (e : Sqe) (u : State) (v : State) (r : Nat) (ws : Option (List Word)) (l : Nat × List Nat) (x : Entry) (y : Side), Takes s c opAppend e ∧ u = takenOff c s ∧ v = readList c e 4 u ∧ r = hIdx (BitVec.toNat e.handle) ∧ l = listOf e ws ∧ x = ent u r ∧ y = side u r ∧ (c < 4096 ∧ l.1 = 0 ∧ (¬(x.poison = true ∧ y.open_ = OpenCmd.none_ ∧ y.pend = none ∧ x.st ≠ RState.closing)) ∧ y.pend = none ∧ noAppend v r = false ∧ x.st = RState.ready))
    ∧ (∃ (s : State) (c : Nat) (e : Sqe) (u : State) (v : State) (r : Nat) (ws : Option (List Word)) (l : Nat × List Nat) (x : Entry) (y : Side), Takes s c opAppend e ∧ u = takenOff c s ∧ v = readList c e 4 u ∧ r = hIdx (BitVec.toNat e.handle) ∧ l = listOf e ws ∧ x = ent u r ∧ y = side u r ∧ (c < 4096 ∧ l.1 = 0 ∧ (¬(x.poison = true ∧ y.open_ = OpenCmd.none_ ∧ y.pend = none ∧ x.st ≠ RState.closing)) ∧ y.pend = none ∧ noAppend v r = false ∧ e.supersede = false ∧ x.st = RState.resuming))
    ∧ (∃ (s : State) (c : Nat) (e : Sqe) (u : State) (v : State) (r : Nat) (ws : Option (List Word)) (l : Nat × List Nat) (x : Entry) (y : Side), Takes s c opAppend e ∧ u = takenOff c s ∧ v = readList c e 4 u ∧ r = hIdx (BitVec.toNat e.handle) ∧ l = listOf e ws ∧ x = ent u r ∧ y = side u r ∧ (c < 4096 ∧ l.1 = 0 ∧ (¬(x.poison = true ∧ y.open_ = OpenCmd.none_ ∧ y.pend = none ∧ x.st ≠ RState.closing)) ∧ y.pend = none ∧ noAppend v r = false ∧ (e.supersede = false ∨ running x = false ∧ x.st ≠ RState.pausing ∧ x.st ≠ RState.paused) ∧ x.st ≠ RState.ready ∧ x.st ≠ RState.resuming))
    ∧ (∃ (s : State) (r : Nat) (t : Nat), (side s r).cancelAt = some (t, false) ∧ (r < 2 ^ 24 ∧ (s.ft < t ∨ isOn s dSEQ = false)))
    ∧ (∃ (s : State) (r : Nat) (t : Nat), (side s r).cancelAt = some (t, false) ∧ (r < 2 ^ 24 ∧ t ≤ s.ft ∧ isOn s dSEQ = true ∧ running (ent s r) = true))
    ∧ (∃ (s : State) (r : Nat) (t : Nat), (side s r).cancelAt = some (t, false) ∧ (r < 2 ^ 24 ∧ t ≤ s.ft ∧ isOn s dSEQ = true ∧ running (ent s r) = false))
    ∧ (∃ (s : State) (r : Nat), r < 2 ^ 24 ∧ (side s r).cancelAt = none) :=
  ⟨⟨modChan 0 (fun _ => { chanOpen with acc := [{ op := 2, handle := 0x0100020000000000 }] }) (modEnt 0 (fun e => { e with st := .ready }) (up)), 0, { op := 2, handle := 0x0100020000000000 }, _, _, _, none, _, _, _, by unfold Takes; decide +kernel, rfl, rfl, rfl, rfl, rfl, rfl, by decide +kernel⟩,
   ⟨modChan 0 (fun _ => { chanOpen with acc := [{ op := 2, handle := 0x0100020000000000 }] }) (modSide 0 (fun x => { x with open_ := .resume }) (modEnt 0 (fun e => { e with st := .resuming }) (up))), 0, { op := 2, handle := 0x0100020000000000 }, _, _, _, none, _, _, _, by unfold Takes; decide +kernel, rfl, rfl, rfl, rfl, rfl, rfl, by decide +kernel⟩,
   ⟨modChan 0 (fun _ => { chanOpen with acc := [{ op := 2, handle := 0x0100020000000000 }] }) (modEnt 0 (fun e => { e with st := .decode }) (up)), 0, { op := 2, handle := 0x0100020000000000 }, _, _, _, none, _, _, _, by unfold Takes; decide +kernel, rfl, rfl, rfl, rfl, rfl, rfl, by decide +kernel⟩,
   ⟨modSide 0 (fun x => { x with cancelAt := some (1, false) }) (up), 0, _, rfl, by decide +kernel⟩,
   ⟨modSide 0 (fun x => { x with cancelAt := some (0, false) }) (modEnt 0 (fun e => { e with st := .decode }) (up)), 0, _, rfl, by decide +kernel⟩,
   ⟨modSide 0 (fun x => { x with cancelAt := some (0, false) }) (up), 0, _, rfl, by decide +kernel⟩,
   ⟨State.reset, 0, by decide +kernel⟩⟩

theorem witness_CancelCloseAndDeadlines :
    (∃ (s : State) (c : Nat) (e : Sqe) (u : State) (r : Nat), u = takenOff c s ∧ r = hIdx (BitVec.toNat e.handle) ∧ Takes s c opCancel e ∧ (c < 4096 ∧ (ent u r).st = RState.closing))
    ∧ (∃ (s : State) (c : Nat) (e : Sqe) (u : State) (r : Nat), u = takenOff c s ∧ r = hIdx (BitVec.toNat e.handle) ∧ Takes s c opCancel e ∧ (c < 4096 ∧ (ent u r).st ≠ RState.closing))
    ∧ (∃ (s : State) (c : Nat) (e : Sqe) (u : State) (r : Nat), u = takenOff c s ∧ r = hIdx (BitVec.toNat e.handle) ∧ Takes s c opClose e ∧ (c < 4096 ∧ ((ent u r).st = RState.closing ∨ (Option.map Pend.isClose (side u r).pend).getD false = true)))
    ∧ (∃ (s : State) (c : Nat) (e : Sqe) (u : State) (r : Nat), u = takenOff c s ∧ r = hIdx (BitVec.toNat e.handle) ∧ Takes s c opClose e ∧ (c < 4096 ∧ (ent u r).st ≠ RState.closing ∧ (Option.map Pend.isClose (side u r).pend).getD false = false))
    ∧ (∃ (s : State) (c : Nat) (e : Sqe) (u : State) (r : Nat), u = takenOff c s ∧ r = hIdx (BitVec.toNat e.handle) ∧ Takes s c opSetDeadline e ∧ (c < 4096 ∧ ((side u r).open_ = OpenCmd.none_ ∨ (side u r).open_ = OpenCmd.close ∨ (ent u r).st = RState.closing)))
    ∧ (∃ (s : State) (c : Nat) (e : Sqe) (u : State) (r : Nat) (w : State) (z : State), u = takenOff c s ∧ r = hIdx (BitVec.toNat e.handle) ∧ Takes s c opSetDeadline e ∧ w = ackNow c e 0 (namedReq e) 0 u ∧ (z = modEnt r (fun x => { x with deadline := deadlineOf w e }) (dlyDel 1 (reqHandle w r) w)) ∧ (c < 4096 ∧ (side u r).open_ ≠ OpenCmd.none_ ∧ (side u r).open_ ≠ OpenCmd.close ∧ (ent u r).st ≠ RState.closing ∧ ((ent u r).st = RState.deferred ∨ (ent u r).st = RState.resuming ∨ running (ent z r) = true)))
    ∧ (∃ (s : State) (c : Nat) (e : Sqe) (u : State) (r : Nat) (w : State) (z : State), u = takenOff c s ∧ r = hIdx (BitVec.toNat e.handle) ∧ Takes s c opSetDeadline e ∧ w = ackNow c e 0 (namedReq e) 0 u ∧ (z = modEnt r (fun x => { x with deadline := deadlineOf w e }) (dlyDel 1 (reqHandle w r) w)) ∧ (c < 4096 ∧ (side u r).open_ ≠ OpenCmd.none_ ∧ (side u r).open_ ≠ OpenCmd.close ∧ (ent u r).st ≠ RState.closing ∧ (ent u r).st ≠ RState.deferred ∧ (ent u r).st ≠ RState.resuming ∧ running (ent z r) = false))
    ∧ (∃ (s : State) (r : Nat) (t : Nat), (side s r).cancelAt = some (t, true) ∧ (r < 2 ^ 24 ∧ (s.ft < t ∨ isOn s dSEQ = false ∨ (ent s r).st = RState.admitting)))
    ∧ (∃ (s : State) (r : Nat) (t : Nat), (side s r).cancelAt = some (t, true) ∧ (r < 2 ^ 24 ∧ t ≤ s.ft ∧ isOn s dSEQ = true ∧ (ent s r).st ≠ RState.admitting))
    ∧ (∃ (s : State) (r : Nat), r < 2 ^ 24 ∧ (side s r).cancelAt = none) :=
  ⟨⟨modChan 0 (fun _ => { chanOpen with acc := [{ op := 3, handle := 0x0100020000000000 }] }) (modEnt 0 (fun e => { e with st := .closing }) (up)), 0, { op := 3, handle := 0x0100020000000000 }, _, _, rfl, rfl, by unfold Takes; decide +kernel, by decide +kernel⟩,
   ⟨modChan 0 (fun _ => { chanOpen with acc := [{ op := 3, handle := 0x0100020000000000 }] }) (modEnt 0 (fun e => { e with st := .ready }) (up)), 0, { op := 3, handle := 0x0100020000000000 }, _, _, rfl, rfl, by unfold Takes; decide +kernel, by decide +kernel⟩,
   ⟨modChan 0 (fun _ => { chanOpen with acc := [{ op := 6, handle := 0x0100020000000000 }] }) (modEnt 0 (fun e => { e with st := .closing }) (up)), 0, { op := 6, handle := 0x0100020000000000 }, _, _, rfl, rfl, by unfold Takes; decide +kernel, by decide +kernel⟩,
   ⟨modChan 0 (fun _ => { chanOpen with acc := [{ op := 6, handle := 0x0100020000000000 }] }) (modEnt 0 (fun e => { e with st := .ready }) (up)), 0, { op := 6, handle := 0x0100020000000000 }, _, _, rfl, rfl, by unfold Takes; decide +kernel, by decide +kernel⟩,
   ⟨modChan 0 (fun _ => { chanOpen with acc := [{ op := 7, handle := 0x0100020000000000 }] }) (modEnt 0 (fun e => { e with st := .ready }) (up)), 0, { op := 7, handle := 0x0100020000000000 }, _, _, rfl, rfl, by unfold Takes; decide +kernel, by decide +kernel⟩,
   ⟨modChan 0 (fun _ => { chanOpen with acc := [{ op := 7, handle := 0x0100020000000000 }] }) (modSide 0 (fun x => { x with open_ := .submit }) (modEnt 0 (fun e => { e with st := .deferred }) (up))), 0, { op := 7, handle := 0x0100020000000000 }, _, _, _, _, rfl, rfl, by unfold Takes; decide +kernel, rfl, rfl, by decide +kernel⟩,
   ⟨modChan 0 (fun _ => { chanOpen with acc := [{ op := 7, handle := 0x0100020000000000 }] }) (modSide 0 (fun x => { x with open_ := .submit }) (modEnt 0 (fun e => { e with st := .admitting }) (up))), 0, { op := 7, handle := 0x0100020000000000 }, _, _, _, _, rfl, rfl, by unfold Takes; decide +kernel, rfl, rfl, by decide +kernel⟩,
   ⟨modSide 0 (fun x => { x with cancelAt := some (1, true) }) (up), 0, _, rfl, by decide +kernel⟩,
   ⟨modSide 0 (fun x => { x with cancelAt := some (0, true) }) (up), 0, _, rfl, by decide +kernel⟩,
   ⟨State.reset, 0, by decide +kernel⟩⟩

theorem witness_PauseResumeAndTimers_1 :
    (∃ (s : State) (c : Nat) (e : Sqe) (u : State) (r : Nat), u = takenOff c s ∧ r = hIdx (BitVec.toNat e.handle) ∧ Takes s c opPause e ∧ (c < 4096 ∧ (ent u r).st ≠ RState.ready))
    ∧ (∃ (s : State) (c : Nat) (e : Sqe) (u : State) (r : Nat), u = takenOff c s ∧ r = hIdx (BitVec.toNat e.handle) ∧ Takes s c opPause e ∧ (c < 4096 ∧ (ent u r).st = RState.ready ∧ slotsSuffice u r = false))
    ∧ (∃ (s : State) (c : Nat) (e : Sqe) (u : State) (r : Nat), u = takenOff c s ∧ r = hIdx (BitVec.toNat e.handle) ∧ Takes s c opPause e ∧ (c < 4096 ∧ (ent u r).st = RState.ready ∧ slotsSuffice u r = true))
    ∧ (∃ (s : State) (c : Nat) (e : Sqe) (u : State) (r : Nat), u = takenOff c s ∧ r = hIdx (BitVec.toNat e.handle) ∧ Takes s c opResume e ∧ (c < 4096 ∧ ((ent u r).st = RState.paused ∨ (ent u r).st = RState.pausing) ∧ (side u r).open_ = OpenCmd.none_ ∧ (side u r).pend = none))
    ∧ (∃ (s : State) (c : Nat) (e : Sqe) (u : State) (r : Nat), u = takenOff c s ∧ r = hIdx (BitVec.toNat e.handle) ∧ Takes s c opResume e ∧ (c < 4096 ∧ ((ent u r).st ≠ RState.paused ∧ (ent u r).st ≠ RState.pausing ∨ (side u r).open_ ≠ OpenCmd.none_ ∨ (side u r).pend ≠ none)))
    ∧ (∃ (s : State) (c : Nat) (e : Sqe) (u : State) (g : Nat × Option Nat), u = takenOff c s ∧ g = ringCheck u (chan u c).stall (BitVec.toNat e.ring) ∧ Takes s c opAdopt e ∧ (c < 4096 ∧ g.1 ≠ 0))
    ∧ (∃ (s : State) (c : Nat) (e : Sqe) (u : State) (r : Nat) (g : Nat × Option Nat), u = takenOff c s ∧ r = hIdx (BitVec.toNat e.handle) ∧ g = ringCheck u (chan u c).stall (BitVec.toNat e.ring) ∧ Takes s c opAdopt e ∧ (c < 4096 ∧ g.1 = 0 ∧ memberLost u r = true))
    ∧ (∃ (s : State) (c : Nat) (e : Sqe) (u : State) (r : Nat) (g : Nat × Option Nat) (i : Nat), u = takenOff c s ∧ r = hIdx (BitVec.toNat e.handle) ∧ g = ringCheck u (chan u c).stall (BitVec.toNat e.ring) ∧ Takes s c opAdopt e ∧ g.2 = some i ∧ (c < 4096 ∧ g.1 = 0 ∧ memberLost u r = false))
    ∧ (∃ (s : State) (r : Nat) (t : Nat), t = rd s (win (ent s r).stall 516) ∧ (r < 2 ^ 24 ∧ (ent s r).st = RState.ready ∧ (ent s r).shadow = false ∧ t ≠ 0 ∧ (side s r).pend = none ∧ isOn s dSEQ = true ∧ (side s r).idleSince + us t ≤ s.ft ∧ slotsSuffice s r = true))
    ∧ (∃ (s : State) (r : Nat) (t : Nat), t = rd s (win (ent s r).stall 516) ∧ (r < 2 ^ 24 ∧ (ent s r).st = RState.ready ∧ (ent s r).shadow = false ∧ t ≠ 0 ∧ (side s r).pend = none ∧ isOn s dSEQ = true ∧ (side s r).idleSince + us t ≤ s.ft ∧ slotsSuffice s r = false))
    ∧ (∃ (s : State) (r : Nat) (t : Nat), t = rd s (win (ent s r).stall 516) ∧ (r < 2 ^ 24 ∧ ((ent s r).st ≠ RState.ready ∨ (ent s r).shadow = true ∨ t = 0 ∨ s.ft < (side s r).idleSince + us t ∨ (side s r).pend ≠ none ∨ isOn s dSEQ = false)))
    ∧ (∃ (s : State) (r : Nat), r < 2 ^ 24 ∧ isOn s dNMC = true ∧ (ent s r).shadow = true ∧ (ent s r).st = RState.pausing) :=
  ⟨⟨modChan 0 (fun _ => { chanOpen with acc := [{ op := 4, handle := 0x0100020000000000 }] }) (modEnt 0 (fun e => { e with st := .decode }) (up)), 0, { op := 4, handle := 0x0100020000000000 }, _, _, rfl, rfl, by unfold Takes; decide +kernel, by decide +kernel⟩,
   ⟨modChan 0 (fun _ => { chanOpen with acc := [{ op := 4, handle := 0x0100020000000000 }] }) (modEnt 0 (fun e => { e with st := .ready, pages := [(0, false)] }) (up)), 0, { op := 4, handle := 0x0100020000000000 }, _, _, rfl, rfl, by unfold Takes; decide +kernel, by decide +kernel⟩,
   ⟨modChan 0 (fun _ => { chanOpen with acc := [{ op := 4, handle := 0x0100020000000000 }] }) (modEnt 0 (fun e => { e with st := .ready }) (up)), 0, { op := 4, handle := 0x0100020000000000 }, _, _, rfl, rfl, by unfold Takes; decide +kernel, by decide +kernel⟩,
   ⟨modChan 0 (fun _ => { chanOpen with acc := [{ op := 5, handle := 0x0100020000000000 }] }) (modEnt 0 (fun e => { e with st := .paused }) (up)), 0, { op := 5, handle := 0x0100020000000000 }, _, _, rfl, rfl, by unfold Takes; decide +kernel, by decide +kernel⟩,
   ⟨modChan 0 (fun _ => { chanOpen with acc := [{ op := 5, handle := 0x0100020000000000 }] }) (modEnt 0 (fun e => { e with st := .decode }) (up)), 0, { op := 5, handle := 0x0100020000000000 }, _, _, rfl, rfl, by unfold Takes; decide +kernel, by decide +kernel⟩,
   ⟨modChan 0 (fun _ => { chanOpen with acc := [{ op := 10, handle := 0x0100020000000000 }] }) (modEnt 0 (fun e => { e with st := .paused, orphan := true }) (up)), 0, { op := 10, handle := 0x0100020000000000 }, _, _, rfl, rfl, by unfold Takes; decide +kernel, by decide +kernel⟩,
   ⟨modChan 0 (fun _ => { chanOpen with acc := [{ op := 10, handle := 0x0100020000000000, ring := 0x0100030000000000 }] }) (modFab (fun f => { f with lost := [1] }) (modEnt 0 (fun e => { e with st := .paused, orphan := true }) (withConf { stalls := [(0, { aisle := 0 })], aisles := [(0, [(0, 0), (1, 0)])] } ({ up with rings := [(0, { st := 1 })] })))), 0, { op := 10, handle := 0x0100020000000000, ring := 0x0100030000000000 }, _, _, _, rfl, rfl, rfl, by unfold Takes; decide +kernel, by decide +kernel⟩,
   ⟨modChan 0 (fun _ => { chanOpen with acc := [{ op := 10, handle := 0x0100020000000000, ring := 0x0100030000000000 }] }) (modEnt 0 (fun e => { e with st := .paused, orphan := true }) ({ up with rings := [(0, { st := 1 })] })), 0, { op := 10, handle := 0x0100020000000000, ring := 0x0100030000000000 }, _, _, _, _, rfl, rfl, rfl, by unfold Takes; decide +kernel, rfl, by decide +kernel⟩,
   ⟨atFt 1600 (wr (win 0 516) 1 (modEnt 0 (fun e => { e with st := .ready }) (up))), 0, _, rfl, by decide +kernel⟩,
   ⟨atFt 1600 (wr (win 0 516) 1 (modEnt 0 (fun e => { e with st := .ready, pages := [(0, false)] }) (up))), 0, _, rfl, by decide +kernel⟩,
   ⟨State.reset, 0, _, rfl, by decide +kernel⟩,
   ⟨modEnt 0 (fun e => { e with st := .pausing, shadow := true }) (up), 0, by decide +kernel⟩⟩

theorem witness_PauseResumeAndTimers_2 :
    (∃ (s : State) (r : Nat), r < 2 ^ 24 ∧ isOn s dNMC = true ∧ (ent s r).shadow = true ∧ (ent s r).st = RState.resuming)
    ∧ (∃ (s : State) (r : Nat) (n : Nat) (u : State) (w : State) (v : State) (x : Side), n = (ent s r).stall ∧ u = releasePages r (lakeCopy r s) ∧ (w = forEach (remotes u n).zipIdx (fun m z => modFree m.1 (fun f => { f with pages := f.pages - (side z r).slots.getD m.2 0 }) z) u) ∧ (v = modEnt r (fun e => { e with st := RState.paused }) (modSide r (fun xq => { xq with idleSince := w.ft, slots := List.map (fun x_1 => x_1 + xq.pfxDepth) xq.slots, pfxNode := none, pfxDepth := 0, away := true }) w)) ∧ x = side v r ∧ (r < 2 ^ 24 ∧ isOn s dNMC = true ∧ (ent s r).shadow = false ∧ (ent s r).st = RState.pausing ∧ (x.open_ = OpenCmd.resume ∨ x.open_ = OpenCmd.adopt) ∧ x.acked = false))
    ∧ (∃ (s : State) (r : Nat) (n : Nat) (u : State) (w : State) (v : State) (x : Side) (wb : State), n = (ent s r).stall ∧ u = releasePages r (lakeCopy r s) ∧ (w = forEach (remotes u n).zipIdx (fun m z => modFree m.1 (fun f => { f with pages := f.pages - (side z r).slots.getD m.2 0 }) z) u) ∧ (v = modEnt r (fun e => { e with st := RState.paused }) (modSide r (fun xq => { xq with idleSince := w.ft, slots := List.map (fun x_1 => x_1 + xq.pfxDepth) xq.slots, pfxNode := none, pfxDepth := 0, away := true }) w)) ∧ x = side v r ∧ (wb = if (ent s r).ttlDue ≤ v.ft then dlyIns 3 (reqHandle v r) (ent s r).ttlDue (dlyDel 3 (reqHandle v r) v) else v) ∧ (r < 2 ^ 24 ∧ isOn s dNMC = true ∧ (ent s r).shadow = false ∧ (ent s r).st = RState.pausing ∧ x.open_ ≠ OpenCmd.resume ∧ x.open_ ≠ OpenCmd.adopt ∧ x.pend = none ∧ (chan wb (ent s r).channel).st = 1))
    ∧ (∃ (s : State) (r : Nat) (n : Nat) (u : State) (w : State) (v : State) (x : Side) (wb : State), n = (ent s r).stall ∧ u = releasePages r (lakeCopy r s) ∧ (w = forEach (remotes u n).zipIdx (fun m z => modFree m.1 (fun f => { f with pages := f.pages - (side z r).slots.getD m.2 0 }) z) u) ∧ (v = modEnt r (fun e => { e with st := RState.paused }) (modSide r (fun xq => { xq with idleSince := w.ft, slots := List.map (fun x_1 => x_1 + xq.pfxDepth) xq.slots, pfxNode := none, pfxDepth := 0, away := true }) w)) ∧ x = side v r ∧ (wb = if (ent s r).ttlDue ≤ v.ft then dlyIns 3 (reqHandle v r) (ent s r).ttlDue (dlyDel 3 (reqHandle v r) v) else v) ∧ (r < 2 ^ 24 ∧ isOn s dNMC = true ∧ (ent s r).shadow = false ∧ (ent s r).st = RState.pausing ∧ x.open_ ≠ OpenCmd.resume ∧ x.open_ ≠ OpenCmd.adopt ∧ x.pend = none ∧ (chan wb (ent s r).channel).st ≠ 1))
    ∧ (∃ (s : State) (r : Nat) (n : Nat) (u : State) (w : State) (v : State) (x : Side) (p : Pend), n = (ent s r).stall ∧ u = releasePages r (lakeCopy r s) ∧ (w = forEach (remotes u n).zipIdx (fun m z => modFree m.1 (fun f => { f with pages := f.pages - (side z r).slots.getD m.2 0 }) z) u) ∧ (v = modEnt r (fun e => { e with st := RState.paused }) (modSide r (fun xq => { xq with idleSince := w.ft, slots := List.map (fun x_1 => x_1 + xq.pfxDepth) xq.slots, pfxNode := none, pfxDepth := 0, away := true }) w)) ∧ x = side v r ∧ x.pend = some p ∧ (r < 2 ^ 24 ∧ isOn s dNMC = true ∧ (ent s r).shadow = false ∧ (ent s r).st = RState.pausing ∧ x.open_ ≠ OpenCmd.resume ∧ x.open_ ≠ OpenCmd.adopt ∧ p.isClose = true))
    ∧ (∃ (s : State) (r : Nat), r < 2 ^ 24 ∧ isOn s dNMC = true ∧ (ent s r).shadow = false ∧ (ent s r).st = RState.resuming)
    ∧ (∃ (s : State) (r : Nat) (u : State), u = finishOpen r 1 (dlyDel 1 (reqHandle s r) (dropLake r (pondCopy r s))) ∧ (r < 2 ^ 24 ∧ isOn s dNMC = true ∧ (ent s r).shadow = false ∧ (ent s r).st = RState.resuming ∧ (side u r).r2 = 2))
    ∧ (∃ (s : State) (r : Nat) (u : State), u = finishOpen r 1 (dlyDel 1 (reqHandle s r) (dropLake r (pondCopy r s))) ∧ (r < 2 ^ 24 ∧ isOn s dNMC = true ∧ (ent s r).shadow = false ∧ (ent s r).st = RState.resuming ∧ (side u r).r2 ≠ 2))
    ∧ (∃ (s : State) (r : Nat), r < 2 ^ 24 ∧ ((ent s r).st ≠ RState.pausing ∨ isOn s dNMC = false))
    ∧ (∃ (s : State) (r : Nat), r < 2 ^ 24 ∧ ((ent s r).st ≠ RState.resuming ∨ isOn s dNMC = false))
    ∧ (∃ (s : State), (isOn s dSEQ = false ∨ s.wks.dly.fired = []))
    ∧ (∃ (s : State) (d : DlyEntry) (rest : List DlyEntry), s.wks.dly.fired = d :: rest ∧ (isOn s dSEQ = true ∧ d.kind ≠ 1)) :=
  ⟨⟨modEnt 0 (fun e => { e with st := .resuming, shadow := true }) (up), 0, by decide +kernel⟩,
   ⟨modSide 0 (fun x => { x with open_ := .resume }) (modEnt 0 (fun e => { e with st := .pausing }) (up)), 0, _, _, _, _, _, rfl, rfl, rfl, rfl, rfl, by decide +kernel⟩,
   ⟨modChan 0 (fun _ => chanOpen) (modEnt 0 (fun e => { e with st := .pausing }) (up)), 0, _, _, _, _, _, _, rfl, rfl, rfl, rfl, rfl, rfl, by decide +kernel⟩,
   ⟨modEnt 0 (fun e => { e with st := .pausing }) (up), 0, _, _, _, _, _, _, rfl, rfl, rfl, rfl, rfl, rfl, by decide +kernel⟩,
   ⟨modSide 0 (fun x => { x with pend := some { isClose := true } }) (modEnt 0 (fun e => { e with st := .pausing }) (up)), 0, _, _, _, _, _, _, rfl, rfl, rfl, rfl, rfl, rfl, by decide +kernel⟩,
   ⟨modEnt 0 (fun e => { e with st := .resuming }) (up), 0, by decide +kernel⟩,
   ⟨modSide 0 (fun x => { x with r2 := 2 }) (modEnt 0 (fun e => { e with st := .resuming }) (up)), 0, _, rfl, by decide +kernel⟩,
   ⟨modEnt 0 (fun e => { e with st := .resuming }) (up), 0, _, rfl, by decide +kernel⟩,
   ⟨State.reset, 0, by decide +kernel⟩,
   ⟨State.reset, 0, by decide +kernel⟩,
   ⟨State.reset, by decide +kernel⟩,
   ⟨modWks (fun w => { w with dly := { fired := [{ due := 0, kind := 3, arg := 0x0100020000000000 }] } }) (modEnt 0 (fun e => { e with st := .paused }) (up)), _, _, rfl, by decide +kernel⟩⟩

theorem witness_PauseResumeAndTimers_3 :
    (∃ (s : State) (d : DlyEntry) (rest : List DlyEntry), s.wks.dly.fired = d :: rest ∧ (isOn s dSEQ = true ∧ d.kind ≠ 2))
    ∧ (∃ (s : State) (d : DlyEntry) (rest : List DlyEntry), s.wks.dly.fired = d :: rest ∧ (isOn s dSEQ = true ∧ d.kind ≠ 3))
    ∧ (∃ (s : State) (d : DlyEntry) (rest : List DlyEntry), s.wks.dly.fired = d :: rest ∧ (isOn s dSEQ = true ∧ d.kind ≠ 4))
    ∧ (∃ (s : State) (d : DlyEntry) (rest : List DlyEntry) (u : State) (r : Nat), s.wks.dly.fired = d :: rest ∧ (u = modDly (fun dq => { dq with fired := rest }) s) ∧ r = hIdx (BitVec.toNat d.arg) ∧ (isOn s dSEQ = true ∧ d.kind = 1 ∧ (hGen (BitVec.toNat d.arg) ≠ genOf u 2 r ∨ (ent u r).st ≠ RState.blocked ∨ (side u r).exempt = true)))
    ∧ (∃ (s : State) (d : DlyEntry) (rest : List DlyEntry) (u : State) (r : Nat), s.wks.dly.fired = d :: rest ∧ (u = modDly (fun dq => { dq with fired := rest }) s) ∧ r = hIdx (BitVec.toNat d.arg) ∧ (isOn s dSEQ = true ∧ d.kind = 1 ∧ hGen (BitVec.toNat d.arg) = genOf u 2 r ∧ (ent u r).st = RState.blocked ∧ (side u r).exempt = false))
    ∧ (∃ (s : State) (d : DlyEntry) (rest : List DlyEntry) (u : State) (r : Nat), s.wks.dly.fired = d :: rest ∧ (u = modDly (fun dq => { dq with fired := rest }) s) ∧ r = hIdx (BitVec.toNat d.arg) ∧ (isOn s dSEQ = true ∧ d.kind = 3 ∧ hGen (BitVec.toNat d.arg) = genOf u 2 r ∧ (ent u r).st = RState.paused ∧ (ent u r).expired = false))
    ∧ (∃ (s : State) (d : DlyEntry) (rest : List DlyEntry) (u : State) (r : Nat), s.wks.dly.fired = d :: rest ∧ (u = modDly (fun dq => { dq with fired := rest }) s) ∧ r = hIdx (BitVec.toNat d.arg) ∧ (isOn s dSEQ = true ∧ d.kind = 3 ∧ (hGen (BitVec.toNat d.arg) ≠ genOf u 2 r ∨ (ent u r).st ≠ RState.paused ∨ (ent u r).expired = true)))
    ∧ (∃ (s : State) (d : DlyEntry) (rest : List DlyEntry) (u : State) (i : Nat), s.wks.dly.fired = d :: rest ∧ (u = modDly (fun dq => { dq with fired := rest }) s) ∧ i = bits (BitVec.toNat d.arg) 17 0 ∧ (isOn s dSEQ = true ∧ d.kind = 4 ∧ (node u i).valid = true ∧ (node u i).refs = 0))
    ∧ (∃ (s : State) (d : DlyEntry) (rest : List DlyEntry) (u : State) (i : Nat), s.wks.dly.fired = d :: rest ∧ (u = modDly (fun dq => { dq with fired := rest }) s) ∧ i = bits (BitVec.toNat d.arg) 17 0 ∧ (isOn s dSEQ = true ∧ d.kind = 4 ∧ ((node u i).valid = false ∨ (node u i).refs ≠ 0)))
    ∧ (∃ (s : State) (d : DlyEntry) (rest : List DlyEntry) (u : State) (r : Nat), s.wks.dly.fired = d :: rest ∧ (u = modDly (fun dq => { dq with fired := rest }) s) ∧ r = hIdx (BitVec.toNat d.arg) ∧ (isOn s dSEQ = true ∧ d.kind = 2 ∧ (hGen (BitVec.toNat d.arg) ≠ genOf u 2 r ∨ (ent u r).st ≠ RState.deferred ∨ (side u r).batch ≠ none)))
    ∧ (∃ (s : State) (d : DlyEntry) (rest : List DlyEntry) (u : State) (r : Nat), s.wks.dly.fired = d :: rest ∧ (u = modDly (fun dq => { dq with fired := rest }) s) ∧ r = hIdx (BitVec.toNat d.arg) ∧ (isOn s dSEQ = true ∧ d.kind = 2 ∧ hGen (BitVec.toNat d.arg) = genOf u 2 r ∧ (ent u r).st = RState.deferred ∧ (side u r).batch = none ∧ resOk u (askOf u r) (ent u r).rung = true))
    ∧ (∃ (s : State) (d : DlyEntry) (rest : List DlyEntry) (u : State) (r : Nat) (v : State) (g : Nat) (x : Nat), s.wks.dly.fired = d :: rest ∧ (u = modDly (fun dq => { dq with fired := rest }) s) ∧ r = hIdx (BitVec.toNat d.arg) ∧ v = underLimits r u ∧ verdict v (askOf u r) = Verdict.admits g x ∧ (isOn s dSEQ = true ∧ d.kind = 2 ∧ hGen (BitVec.toNat d.arg) = genOf u 2 r ∧ (ent u r).st = RState.deferred ∧ (side u r).batch = none ∧ resOk u (askOf u r) (ent u r).rung = false)) :=
  ⟨⟨modWks (fun w => { w with dly := { fired := [{ due := 0, kind := 1, arg := 0 }] } }) (up), _, _, rfl, by decide +kernel⟩,
   ⟨modWks (fun w => { w with dly := { fired := [{ due := 0, kind := 1, arg := 0 }] } }) (up), _, _, rfl, by decide +kernel⟩,
   ⟨modWks (fun w => { w with dly := { fired := [{ due := 0, kind := 1, arg := 0 }] } }) (up), _, _, rfl, by decide +kernel⟩,
   ⟨modWks (fun w => { w with dly := { fired := [{ due := 0, kind := 1, arg := 0 }] } }) (up), _, _, _, _, rfl, rfl, rfl, by decide +kernel⟩,
   ⟨modWks (fun w => { w with dly := { fired := [{ due := 0, kind := 1, arg := 0x0100020000000000 }] } }) (modEnt 0 (fun e => { e with st := .blocked }) (up)), _, _, _, _, rfl, rfl, rfl, by decide +kernel⟩,
   ⟨modWks (fun w => { w with dly := { fired := [{ due := 0, kind := 3, arg := 0x0100020000000000 }] } }) (modEnt 0 (fun e => { e with st := .paused }) (up)), _, _, _, _, rfl, rfl, rfl, by decide +kernel⟩,
   ⟨modWks (fun w => { w with dly := { fired := [{ due := 0, kind := 3, arg := 0 }] } }) (up), _, _, _, _, rfl, rfl, rfl, by decide +kernel⟩,
   ⟨modWks (fun w => { w with dly := { fired := [{ due := 0, kind := 4, arg := 0 }] } }) (modNode 0 (fun x => { x with valid := true }) up), _, _, _, _, rfl, rfl, rfl, by decide +kernel⟩,
   ⟨modWks (fun w => { w with dly := { fired := [{ due := 0, kind := 4, arg := 0 }] } }) (up), _, _, _, _, rfl, rfl, rfl, by decide +kernel⟩,
   ⟨modWks (fun w => { w with dly := { fired := [{ due := 0, kind := 2, arg := 0 }] } }) (up), _, _, _, _, rfl, rfl, rfl, by decide +kernel⟩,
   ⟨modWks (fun w => { w with dly := { fired := [{ due := 0, kind := 2, arg := 0x0100020000000000 }] } }) (modEnt 0 (fun e => { e with st := .deferred, rung := 2 }) (up)), _, _, _, _, rfl, rfl, rfl, by decide +kernel⟩,
   ⟨(fun s : State => { s with clk := { ftValid := true } }) (modWks (fun w => { w with dly := { fired := [{ due := 0, kind := 2, arg := 0x0100020000000000 }] } }) (modSide 0 (fun x => { x with acked := false }) (modEnt 0 (fun e => { e with st := .deferred, rung := 0, prompt := [1], maxNew := 1, maxRung := 2 }) (withConf { models := [(0, { loaded := true, stalls := [0], pageTokens := 1, layerCount := 1, specHeads := 2 })], costs := [(0, { rung2 := some 0 })] } (modChan 0 (fun _ => chanOpen) up))))), _, _, _, _, _, _, _, rfl, rfl, rfl, rfl, rfl, by decide +kernel⟩⟩

theorem witness_PauseResumeAndTimers_4 :
    (∃ (s : State) (d : DlyEntry) (rest : List DlyEntry) (u : State) (r : Nat) (v : State) (k : Nat), s.wks.dly.fired = d :: rest ∧ (u = modDly (fun dq => { dq with fired := rest }) s) ∧ r = hIdx (BitVec.toNat d.arg) ∧ v = underLimits r u ∧ verdict v (askOf u r) = Verdict.refuse k ∧ (isOn s dSEQ = true ∧ d.kind = 2 ∧ hGen (BitVec.toNat d.arg) = genOf u 2 r ∧ (ent u r).st = RState.deferred ∧ (side u r).batch = none ∧ resOk u (askOf u r) (ent u r).rung = false))
    ∧ (∃ (s : State) (d : DlyEntry) (rest : List DlyEntry) (u : State) (r : Nat) (v : State) (g : Nat) (t : Nat), s.wks.dly.fired = d :: rest ∧ (u = modDly (fun dq => { dq with fired := rest }) s) ∧ r = hIdx (BitVec.toNat d.arg) ∧ v = underLimits r u ∧ verdict v (askOf u r) = Verdict.defer_ g t ∧ (isOn s dSEQ = true ∧ d.kind = 2 ∧ hGen (BitVec.toNat d.arg) = genOf u 2 r ∧ (ent u r).st = RState.deferred ∧ (side u r).batch = none ∧ resOk u (askOf u r) (ent u r).rung = false)) :=
  ⟨⟨(fun s : State => { s with clk := { ftValid := true } }) (modWks (fun w => { w with dly := { fired := [{ due := 0, kind := 2, arg := 0x0100020000000000 }] } }) (modSide 0 (fun x => { x with acked := false }) (modEnt 0 (fun e => { e with st := .deferred, rung := 0 }) (withConf { stalls := [(0, { mode := 2 })] } (modChan 0 (fun _ => chanOpen) up))))), _, _, _, _, _, _, rfl, rfl, rfl, rfl, rfl, by decide +kernel⟩,
   ⟨(fun s : State => { s with clk := { ftValid := true } }) (wr (win 0 0x380) 4 (modEnt 1 (fun e => { e with st := .closing, committed := 2, pages := [(0, false)] }) (modWks (fun w => { w with dly := { fired := [{ due := 0, kind := 2, arg := 0x0100020000000000 }] } }) (modSide 0 (fun x => { x with acked := false }) (modEnt 0 (fun e => { e with st := .deferred, rung := 0, prompt := [1, 2], maxNew := 1 }) (withConf { models := [(0, { loaded := true, stalls := [0], pageTokens := 1, layerCount := 1 })], stalls := [(0, { pondPages := 2, entries := 4 })] } (modChan 0 (fun _ => chanOpen) up))))))), _, _, _, _, _, _, _, rfl, rfl, rfl, rfl, rfl, by decide +kernel⟩⟩

theorem witness_RequestsAreAdmitted_1 :
    (∃ (s : State) (a : AdmCmd) (rest : List AdmCmd), s.admq = a :: rest ∧ (s.ft < outcomeAt s a ∨ isOn s dSEQ = false))
    ∧ (∃ (s : State) (a : AdmCmd) (rest : List AdmCmd), s.admq = a :: rest ∧ (outcomeAt s a ≤ s.ft ∧ isOn s dSEQ = true ∧ a.isBatch = true))
    ∧ (∃ (s : State) (a : AdmCmd) (rest : List AdmCmd) (u : State) (w : State) (g : Nat) (fin : Nat), s.admq = a :: rest ∧ u = { s with admq := rest, admNext := s.ft } ∧ w = takeSeed a.req (underLimits a.req u) ∧ verdict w (askOf w a.req) = Verdict.admits g fin ∧ (outcomeAt s a ≤ s.ft ∧ isOn s dSEQ = true ∧ a.isBatch = false ∧ (side w a.req).r2 ≠ 1))
    ∧ (∃ (s : State) (a : AdmCmd) (rest : List AdmCmd) (u : State) (w : State) (g : Nat) (t : Nat), s.admq = a :: rest ∧ u = { s with admq := rest, admNext := s.ft } ∧ w = takeSeed a.req (underLimits a.req u) ∧ verdict w (askOf w a.req) = Verdict.defer_ g t ∧ (outcomeAt s a ≤ s.ft ∧ isOn s dSEQ = true ∧ a.isBatch = false ∧ (side w a.req).r2 ≠ 1))
    ∧ (∃ (s : State) (a : AdmCmd) (rest : List AdmCmd) (u : State) (w : State) (st : Nat), s.admq = a :: rest ∧ u = { s with admq := rest, admNext := s.ft } ∧ w = takeSeed a.req (underLimits a.req u) ∧ verdict w (askOf w a.req) = Verdict.refuse st ∧ (outcomeAt s a ≤ s.ft ∧ isOn s dSEQ = true ∧ a.isBatch = false ∧ (side w a.req).r2 ≠ 1))
    ∧ (∃ (s : State) (a : AdmCmd) (rest : List AdmCmd) (u : State) (w : State), s.admq = a :: rest ∧ u = { s with admq := rest, admNext := s.ft } ∧ w = takeSeed a.req (underLimits a.req u) ∧ (outcomeAt s a ≤ s.ft ∧ isOn s dSEQ = true ∧ a.isBatch = false ∧ (side w a.req).r2 = 1))
    ∧ (∃ (s : State), s.admq = [])
    ∧ (∃ (s : State) (n : Nat), n < 32 ∧ ((∃ b ∈ s.batches, b.stall = n ∧ b.admitted = true ∧ b.running = true) ∨ ∀ b ∈ s.batches, b.stall = n → b.admitted = false))
    ∧ (∃ (s : State) (n : Nat) (b : Batch), stallBatches s n = [b] ∧ (n < 32 ∧ b.running = false))
    ∧ (∃ (s : State) (n : Nat) (a : Nat) (d : Bool), d = false ∧ (n < 32 ∧ a < 65536 ∧ (d = s.adpFetch.any fun f => f.1 == n && f.2.1 == a && decide (f.2.2 ≤ s.ft))))
    ∧ (∃ (s : State) (n : Nat) (a : Nat) (d : Bool) (m : Nat × Model), d = true ∧ (List.find? (fun mq => mq.2.adapters.any fun x => x.id == a) s.conf.models = some m) ∧ (n < 32 ∧ a < 65536 ∧ (d = s.adpFetch.any fun f => f.1 == n && f.2.1 == a && decide (f.2.2 ≤ s.ft))))
    ∧ (∃ (s : State) (m : Nat) (r : Nat), serviceOk s m (ent s r).stall = false) :=
  ⟨⟨{ up with admq := [{ req := 0, at_ := 0 }] }, _, _, rfl, by decide +kernel⟩,
   ⟨{ up with ft := 16, admq := [{ req := 0, at_ := 0, isBatch := true }] }, _, _, rfl, by decide +kernel⟩,
   ⟨(fun s : State => { s with clk := { ftValid := true } }) (withConf { models := [(0, { loaded := true, stalls := [0] })] } ({ up with ft := 16, admq := [{ req := 0, at_ := 0 }] })), _, _, _, _, _, _, rfl, rfl, rfl, rfl, by decide +kernel⟩,
   ⟨(fun s : State => { s with ft := 16, admq := [{ req := 0, at_ := 0 }], clk := { ftValid := true } }) (wr (win 0 0x380) 4 (modEnt 1 (fun e => { e with st := .closing, committed := 2, pages := [(0, false)] }) (modSide 0 (fun x => { x with open_ := .append }) (modEnt 0 (fun e => { e with st := .admitting, rung := 0, prompt := [1, 2], maxNew := 1 }) (withConf { models := [(0, { loaded := true, stalls := [0], pageTokens := 1, layerCount := 1 })], stalls := [(0, { pondPages := 2, entries := 4 })] } (modChan 0 (fun _ => chanOpen) up)))))), _, _, _, _, _, _, rfl, rfl, rfl, rfl, by decide +kernel⟩,
   ⟨{ up with ft := 16, admq := [{ req := 0, at_ := 0 }] }, _, _, _, _, _, rfl, rfl, rfl, rfl, by decide +kernel⟩,
   ⟨(fun s : State => { s with clk := { ftValid := true } }) (withConf { models := [(0, { loaded := true, stalls := [0] })] } ((fun s : State => { s with ft := 16, admq := [{ req := 0, at_ := 0 }] }) (modSide 0 (fun x => { x with r2 := 1 }) (modEnt 0 (fun e => { e with st := .resuming }) (up))))), _, _, _, _, rfl, rfl, rfl, by decide +kernel⟩,
   ⟨State.reset, by decide +kernel⟩,
   ⟨State.reset, 0, by decide +kernel⟩,
   ⟨{ up with batches := [{ num := 0, stall := 0, channel := 0, cid := 0, prio := 0, accept := 0, members := [], admitted := true }] }, 0, _, rfl, by decide +kernel⟩,
   ⟨State.reset, 0, 0, _, rfl, by decide +kernel⟩,
   ⟨withConf { models := [(0, { adapters := [{ id := 0, rank := 0, targets := 0, scale := 0, bytes := 0 }] })] } ({ up with adpFetch := [(0, 0, 0)] }), 0, 0, _, _, rfl, rfl, by decide +kernel⟩,
   ⟨State.reset, 0, 0, by decide +kernel⟩⟩

theorem witness_RequestsAreAdmitted_2 :
    (∃ (s : State) (r : Nat), ((ent s r).st ≠ RState.admitting ∨ isFw r = false ∨ (look s.cc.recs r { since := none, proxy := none }).since = none))
    ∧ (∃ (s : State) (m : Nat) (r : Nat) (u : State) (a : Ask) (e : Nat), u = takeSeed r (underLimits r (fwTaken r s)) ∧ a = askOf u r ∧ earlyRefusal u a = some e ∧ ((ent s r).st = RState.admitting ∧ isFw r = true ∧ (look s.cc.recs r { since := none, proxy := none }).since.isSome = true ∧ serviceOk s m (ent s r).stall = true))
    ∧ (∃ (s : State) (m : Nat) (r : Nat) (u : State) (a : Ask), u = takeSeed r (underLimits r (fwTaken r s)) ∧ a = askOf u r ∧ ((ent s r).st = RState.admitting ∧ isFw r = true ∧ (look s.cc.recs r { since := none, proxy := none }).since.isSome = true ∧ serviceOk s m (ent s r).stall = true ∧ earlyRefusal u a = none))
    ∧ (∃ (s : State) (m : Nat) (r : Nat) (x : Nat) (u : State) (a : Ask) (g : Nat), u = takeSeed r (underLimits r (fwTaken r s)) ∧ a = askOf u r ∧ ((ent s r).st = RState.admitting ∧ isFw r = true ∧ (look s.cc.recs r { since := none, proxy := none }).since.isSome = true ∧ serviceOk s m (ent s r).stall = true ∧ earlyRefusal u a = none ∧ (g = match verdict u a with | Verdict.admits g fin => max g 1 | x => 1)))
    ∧ (∃ (s : State) (m : Nat) (r : Nat) (u : State) (a : Ask) (o : Nat), u = takeSeed r (underLimits r (fwTaken r s)) ∧ a = askOf u r ∧ ((ent s r).st = RState.admitting ∧ isFw r = true ∧ (look s.cc.recs r { since := none, proxy := none }).since.isSome = true ∧ serviceOk s m (ent s r).stall = true ∧ earlyRefusal u a = none ∧ 2 < o))
    ∧ (∃ (s : State) (r : Nat), (look s.cc.recs r { since := none, proxy := none }).since = none)
    ∧ (∃ (s : State) (r : Nat) (t : Nat), (look s.cc.recs r { since := none, proxy := none }).since = some t ∧ (s.ft < t + 3200 ∨ (ent s r).st ≠ RState.admitting ∨ s.img.reloading = true))
    ∧ (∃ (s : State) (r : Nat) (t : Nat), (look s.cc.recs r { since := none, proxy := none }).since = some t ∧ (t + 3200 ≤ s.ft ∧ (ent s r).st = RState.admitting ∧ s.img.reloading = false))
    ∧ (∃ (s : State) (r : Nat) (m : Nat) (e : Entry) (p : Nat), e = ent s r ∧ (isFw r = true ∧ running e = true ∧ (look s.cc.recs r { since := none, proxy := none }).proxy = none ∧ serviceOk s m e.stall = true ∧ liveEntries s e.stall < (stallCfg s e.stall).entries ∧ p < 4096 ∧ (ent s p).st = RState.free ∧ (∀ j < p, (ent s j).st ≠ RState.free)))
    ∧ (∃ (s : State) (r : Nat) (e : Entry), e = ent s r ∧ (isFw r = false ∨ running e = false ∨ (look s.cc.recs r { since := none, proxy := none }).proxy ≠ none ∨ (stallCfg s e.stall).entries ≤ liveEntries s e.stall))
    ∧ (∃ (s : State) (p : Nat), p < 4096 ∧ (∀ q ∈ s.cc.recs, q.2.proxy ≠ some p))
    ∧ (∃ (s : State) (m : Nat) (p : Nat) (r : Nat) (x : FwRec), (List.find? (fun q => q.2.proxy == some p) s.cc.recs = some (r, x)) ∧ (p < 4096 ∧ serviceOk s m (ent s r).stall = true ∧ (side s r).inStep = none)) :=
  ⟨⟨State.reset, 0, by decide +kernel⟩,
   ⟨(fun s : State => { s with cc := { s.cc with recs := [(4096, { since := some 0 })] } }) (modEnt 4096 (fun e => { e with st := .admitting }) (withConf { modules := [(0, { st := 1, stalls := 1 })] } (up))), 0, 4096, _, _, _, rfl, rfl, rfl, by decide +kernel⟩,
   ⟨(fun s : State => { s with cc := { s.cc with recs := [(4096, { since := some 0 })] } }) (modEnt 4096 (fun e => { e with st := .admitting }) (modChan 0 (fun _ => chanOpen) { (withConf { modules := [(0, { st := 1, stalls := 1 })], models := [(0, { loaded := true, stalls := [0] })] } (up)) with clk := { ftValid := true } })), 0, 4096, _, _, rfl, rfl, by decide +kernel⟩,
   ⟨(fun s : State => { s with cc := { s.cc with recs := [(4096, { since := some 0 })] } }) (modEnt 4096 (fun e => { e with st := .admitting }) (modChan 0 (fun _ => chanOpen) { (withConf { modules := [(0, { st := 1, stalls := 1 })], models := [(0, { loaded := true, stalls := [0] })] } (up)) with clk := { ftValid := true } })), 0, 4096, 0, _, _, 1, rfl, rfl, by decide +kernel⟩,
   ⟨(fun s : State => { s with cc := { s.cc with recs := [(4096, { since := some 0 })] } }) (modEnt 4096 (fun e => { e with st := .admitting }) (modChan 0 (fun _ => chanOpen) { (withConf { modules := [(0, { st := 1, stalls := 1 })], models := [(0, { loaded := true, stalls := [0] })] } (up)) with clk := { ftValid := true } })), 0, 4096, _, _, 3, rfl, rfl, by decide +kernel⟩,
   ⟨State.reset, 0, by decide +kernel⟩,
   ⟨(fun s : State => { s with cc := { s.cc with recs := [(4096, { since := some 0 })] } }) (modEnt 4096 (fun e => { e with st := .admitting }) (withConf { modules := [(0, { st := 1, stalls := 1 })] } (up))), 4096, _, rfl, by decide +kernel⟩,
   ⟨atFt 3200 ((fun s : State => { s with cc := { s.cc with recs := [(4096, { since := some 0 })] } }) (modEnt 4096 (fun e => { e with st := .admitting }) (withConf { modules := [(0, { st := 1, stalls := 1 })] } (up)))), 4096, _, rfl, by decide +kernel⟩,
   ⟨(fun s : State => { s with cc := { s.cc with recs := [(4096, { since := none })] } }) (modEnt 4096 (fun e => { e with st := .decode }) (withConf { modules := [(0, { st := 1, stalls := 1 })], stalls := [(0, { entries := 1 })] } (up))), 4096, 0, _, 0, rfl, by decide +kernel⟩,
   ⟨State.reset, 0, _, rfl, by decide +kernel⟩,
   ⟨State.reset, 0, by decide +kernel⟩,
   ⟨(fun s : State => { s with cc := { s.cc with recs := [(4096, { proxy := some 0 })] } }) (modEnt 4096 (fun e => { e with st := .decode }) (withConf { modules := [(0, { st := 1, stalls := 1 })] } (up))), 0, 0, _, _, rfl, by decide +kernel⟩⟩

theorem witness_RequestsAreAdmitted_3 :
    ∃ (s : State) (m : Nat) (p : Nat) (r : Nat) (x : FwRec), (List.find? (fun q => q.2.proxy == some p) s.cc.recs = some (r, x)) ∧ (p < 4096 ∧ (serviceOk s m (ent s r).stall = false ∨ (side s r).inStep ≠ none)) :=
  ⟨(fun s : State => { s with cc := { s.cc with recs := [(4096, { proxy := some 0 })] } }) (modEnt 4096 (fun e => { e with st := .decode }) (withConf { modules := [(0, { st := 1, stalls := 1 })] } (up))), 1, 0, _, _, rfl, by decide +kernel⟩

theorem witness_StepsAreComposedAndIssued :
    (∃ (s : State) (a : Nat), a < 64 ∧ (isHead s a = false ∨ isOn s dSEQ = false ∨ leaving s = true ∨ cyclic s (headStall s a) = true ∨ ∃ t ∈ s.steps, t.aisle = a ∧ t.issued = false))
    ∧ (∃ (s : State) (a : Nat) (u : State) (x : Aisle), u = endPoisoned a s ∧ x = aisle u a ∧ (a < 64 ∧ isHead s a = true ∧ isOn s dSEQ = true ∧ leaving s = false ∧ cyclic s (headStall s a) = false ∧ (∀ t ∈ s.steps, t.aisle = a → t.issued = true) ∧ (candidates u a = [] ∨ u.ft + 24 < (Option.map (fun x_1 => x_1 + x.ivl) x.lastIssue).getD 0 ∨ batchWaits u a = true)))
    ∧ (∃ (s : State) (a : Nat) (u : State) (x : Aisle), u = endPoisoned a s ∧ x = aisle u a ∧ (a < 64 ∧ isHead s a = true ∧ isOn s dSEQ = true ∧ leaving s = false ∧ cyclic s (headStall s a) = false ∧ (∀ t ∈ s.steps, t.aisle = a → t.issued = true) ∧ candidates u a ≠ [] ∧ ((Option.map (fun x_1 => x_1 + x.ivl) x.lastIssue).getD 0 ≤ u.ft + 24) ∧ batchWaits u a = false ∧ rdf u rDuty 2 0 ≠ 0 ∧ rdf u rDuty 2 0 ≤ x.dutyRun))
    ∧ (∃ (s : State) (a : Nat) (u : State) (x : Aisle) (rd : List Nat) (t : Nat) (l : Nat), u = endPoisoned a s ∧ x = aisle u a ∧ rd = ascending (List.map (stepModel u) (candidates u a)) ∧ pickTurn u rd x.turn x.turnsLeft = some (t, l) ∧ (a < 64 ∧ isHead s a = true ∧ isOn s dSEQ = true ∧ leaving s = false ∧ cyclic s (headStall s a) = false ∧ (∀ t ∈ s.steps, t.aisle = a → t.issued = true) ∧ candidates u a ≠ [] ∧ ((Option.map (fun x_1 => x_1 + x.ivl) x.lastIssue).getD 0 ≤ u.ft + 24) ∧ batchWaits u a = false ∧ (rdf u rDuty 2 0 = 0 ∨ x.dutyRun < rdf u rDuty 2 0)))
    ∧ (∃ (s : State) (a : Nat), a < 64 ∧ (∀ t ∈ s.steps, t.aisle = a → t.issued = true))
    ∧ (∃ (s : State) (a : Nat) (t : Step), (List.find? (fun tq => tq.aisle == a && !tq.issued) s.steps = some t) ∧ (a < 64 ∧ (s.ft < t.issue ∨ isOn s dSEQ = false ∨ leaving s = true)))
    ∧ (∃ (s : State) (a : Nat) (t : Step) (n : Nat), (List.find? (fun tq => tq.aisle == a && !tq.issued) s.steps = some t) ∧ n = headStall s a ∧ (a < 64 ∧ t.issue ≤ s.ft ∧ isOn s dSEQ = true ∧ leaving s = false ∧ remotes s n ≠ [] ∧ isOn s dLNK = false))
    ∧ (∃ (s : State) (a : Nat) (t : Step) (n : Nat), (List.find? (fun tq => tq.aisle == a && !tq.issued) s.steps = some t) ∧ n = headStall s a ∧ (a < 64 ∧ t.issue ≤ s.ft ∧ isOn s dSEQ = true ∧ leaving s = false ∧ (remotes s n = [] ∨ isOn s dLNK = true) ∧ poolFits s n (stepItems t n 0 s).1.length = true))
    ∧ (∃ (s : State) (a : Nat) (t : Step) (n : Nat), (List.find? (fun tq => tq.aisle == a && !tq.issued) s.steps = some t) ∧ n = headStall s a ∧ (a < 64 ∧ t.issue ≤ s.ft ∧ isOn s dSEQ = true ∧ leaving s = false ∧ (remotes s n = [] ∨ isOn s dLNK = true) ∧ poolFits s n (stepItems t n 0 s).1.length = false)) :=
  ⟨⟨State.reset, 0, by decide +kernel⟩,
   ⟨withConf { aisles := [(0, [(0, 0)])], stalls := [(0, { aisle := 0 })] } (up), 0, _, _, rfl, rfl, by decide +kernel⟩,
   ⟨(fun s : State => { s with aisles := [(0, { dutyRun := 1 })] }) (wr rDuty 1 (modEnt 0 (fun e => { e with st := .decode }) (withConf { aisles := [(0, [(0, 0)])], stalls := [(0, { aisle := 0 })] } (up)))), 0, _, _, rfl, rfl, by decide +kernel⟩,
   ⟨modEnt 0 (fun e => { e with st := .decode }) (withConf { aisles := [(0, [(0, 0)])], stalls := [(0, { aisle := 0 })] } (up)), 0, _, _, _, _, _, rfl, rfl, rfl, rfl, by decide +kernel⟩,
   ⟨State.reset, 0, by decide +kernel⟩,
   ⟨(fun s : State => { s with steps := [{ num := 0, aisle := 0, model := 0, issue := 1, rows := [], adapters := [] }] }) (withConf { aisles := [(0, [(0, 0)])], stalls := [(0, { aisle := 0 })] } (up)), 0, _, rfl, by decide +kernel⟩,
   ⟨(fun s : State => { s with doms := (List.range 7).map (fun d => (d, { st := .on })) }) ((fun s : State => { s with steps := [{ num := 0, aisle := 0, model := 0, issue := 0, rows := [], adapters := [] }] }) (withConf { aisles := [(0, [(0, 0), (1, 0)])], stalls := [(0, { aisle := 0 })] } (up))), 0, _, _, rfl, rfl, by decide +kernel⟩,
   ⟨(fun s : State => { s with steps := [{ num := 0, aisle := 0, model := 0, issue := 0, rows := [], adapters := [] }] }) (withConf { aisles := [(0, [(0, 0)])], stalls := [(0, { aisle := 0 })] } (up)), 0, _, _, rfl, rfl, by decide +kernel⟩,
   ⟨(fun s : State => { s with steps := [{ num := 0, aisle := 0, model := 0, issue := 0, rows := [], adapters := [] }] }) (wr 0xE0004 1 (modItem 0 (fun _ => { st := .ready, kernel := 257 }) (withConf { aisles := [(0, [(0, 0)])], stalls := [(0, { aisle := 0 })], kernels := [(1, { loaded := true, cls := 1 })] } (up)))), 0, _, _, rfl, rfl, by decide +kernel⟩⟩

theorem witness_StepsEndAndAreRecorded_1 :
    (∃ (s : State) (a : Nat) (n : Nat), a < 64 ∧ (∀ t ∈ s.steps, t.aisle = a → t.num ≠ n))
    ∧ (∃ (s : State) (a : Nat) (n : Nat) (t : Step), (List.find? (fun tq => tq.aisle == a && tq.num == n) s.steps = some t) ∧ (a < 64 ∧ (t.phase ≠ 1 ∨ isOn s dSEQ = false ∨ t.doneAt = none)))
    ∧ (∃ (s : State) (a : Nat) (n : Nat) (t : Step) (d : Nat), (List.find? (fun tq => tq.aisle == a && tq.num == n) s.steps = some t) ∧ t.doneAt = some d ∧ (a < 64 ∧ s.ft < d + samplerFt s t))
    ∧ (∃ (s : State) (a : Nat) (n : Nat) (t : Step) (rows : List RowOut) (d : Nat) (ws : List Row) (u : State), (List.find? (fun tq => tq.aisle == a && tq.num == n) s.steps = some t) ∧ t.doneAt = some d ∧ (ws = List.map (fun w => { w with live := w.live && !(w.samples && samplesHere s a t w.rung) }) t.rows) ∧ (u = modStep a n (fun tq => { tq with phase := 2, rows := ws, sampledAt := s.ft }) s) ∧ (a < 64 ∧ t.phase = 1 ∧ isOn s dSEQ = true ∧ d + samplerFt s t ≤ s.ft ∧ t.tainted = true ∧ isHead u a = true))
    ∧ (∃ (s : State) (a : Nat) (n : Nat) (t : Step) (rows : List RowOut) (d : Nat) (ws : List Row) (u : State), (List.find? (fun tq => tq.aisle == a && tq.num == n) s.steps = some t) ∧ t.doneAt = some d ∧ (ws = List.map (fun w => { w with live := w.live && !(w.samples && samplesHere s a t w.rung) }) t.rows) ∧ (u = modStep a n (fun tq => { tq with phase := 2, rows := ws, sampledAt := s.ft }) s) ∧ (a < 64 ∧ t.phase = 1 ∧ isOn s dSEQ = true ∧ d + samplerFt s t ≤ s.ft ∧ t.tainted = true ∧ isHead u a = false))
    ∧ (∃ (s : State) (a : Nat) (n : Nat) (t : Step) (rows : List RowOut) (d : Nat) (r : List Row × Bool × State) (v : State) (u : State), (List.find? (fun tq => tq.aisle == a && tq.num == n) s.steps = some t) ∧ t.doneAt = some d ∧ r = sampleRows a t rows t.rows s ∧ (v = if r.2.1 = true then bumpSat (rSmp 2) r.2.2 else r.2.2) ∧ (u = modStep a n (fun tq => { tq with phase := 2, rows := r.1, sampledAt := v.ft }) v) ∧ (a < 64 ∧ t.phase = 1 ∧ isOn s dSEQ = true ∧ d + samplerFt s t ≤ s.ft ∧ t.tainted = false ∧ isHead u a = true))
    ∧ (∃ (s : State) (a : Nat) (n : Nat) (t : Step) (rows : List RowOut) (d : Nat) (r : List Row × Bool × State) (v : State) (u : State), (List.find? (fun tq => tq.aisle == a && tq.num == n) s.steps = some t) ∧ t.doneAt = some d ∧ r = sampleRows a t rows t.rows s ∧ (v = if r.2.1 = true then bumpSat (rSmp 2) r.2.2 else r.2.2) ∧ (u = modStep a n (fun tq => { tq with phase := 2, rows := r.1, sampledAt := v.ft }) v) ∧ (a < 64 ∧ t.phase = 1 ∧ isOn s dSEQ = true ∧ d + samplerFt s t ≤ s.ft ∧ t.tainted = false ∧ isHead u a = false))
    ∧ (∃ (s : State) (a : Nat) (n : Nat) (t : Step), (List.find? (fun tq => tq.aisle == a && tq.num == n) s.steps = some t) ∧ (a < 64 ∧ (isHead s a = false ∨ t.issued = false ∨ t.phase = 3 ∨ isOn s dSEQ = false)))
    ∧ (∃ (s : State) (a : Nat) (n : Nat) (t : Step), (List.find? (fun tq => tq.aisle == a && tq.num == n) s.steps = some t) ∧ (a < 64 ∧ isHead s a = true ∧ t.issued = true ∧ t.phase ≠ 3 ∧ isOn s dSEQ = true))
    ∧ (∃ (s : State) (a : Nat) (n : Nat) (t : Step) (rem : List Arrived) (w : Row), (List.find? (fun tq => tq.aisle == a && tq.num == n) s.steps = some t) ∧ t.rows = [w] ∧ (a < 64 ∧ isHead s a = true ∧ t.issued = true ∧ t.phase ≠ 3 ∧ isOn s dSEQ = true ∧ (w.arrived = true ∨ w.samples = false ∨ w.gen ≠ genOf s 2 w.req ∨ outOf t w rem = none)))
    ∧ (∃ (s : State) (a : Nat) (n : Nat) (t : Step) (rem : List Arrived) (w : Row) (o : RowTok) (gs : List Guess) (ft : Nat) (c : Nat), (List.find? (fun tq => tq.aisle == a && tq.num == n) s.steps = some t) ∧ t.rows = [w] ∧ outOf t w rem = some (o, gs, ft) ∧ (side s w.req).cutoff = some c ∧ (a < 64 ∧ isHead s a = true ∧ t.issued = true ∧ t.phase ≠ 3 ∧ isOn s dSEQ = true ∧ w.arrived = false ∧ w.samples = true ∧ w.live = true ∧ w.gen = genOf s 2 w.req ∧ c ≤ ft))
    ∧ (∃ (s : State) (a : Nat) (n : Nat) (t : Step) (rem : List Arrived) (w : Row) (o : RowTok) (gs : List Guess) (ft : Nat) (c : Settle) (z : List Tok × Option Nat) (r0 : Nat) (u : State) (v : State) (x : Side) (ts : List Nat) (f : State), (List.find? (fun tq => tq.aisle == a && tq.num == n) s.steps = some t) ∧ t.rows = [w] ∧ outOf t w rem = some (o, gs, ft) ∧ r0 = w.req ∧ c = openSettle s t w ft ∧ z = standing c 0 o.toks ∧ (u = modSide r0 (fun xq => { xq with specAcc := xq.specAcc + (List.filter Tok.accepted z.1).length, guesses := gs }) (countRejected r0 (o.rejected + (o.toks.length - z.1.length)) s)) ∧ v = forEach (recsOf c (running (ent s r0)) z.1) (deliver r0) u ∧ x = side v r0 ∧ ts = frameToks o.toks gs ∧ (ts = [] ∨ (ent v r0).genLen ≠ 0 ∨ x.open_ = OpenCmd.none_ → f = v) ∧ (a < 64 ∧ isHead s a = true ∧ t.issued = true ∧ t.phase ≠ 3 ∧ isOn s dSEQ = true ∧ w.arrived = false ∧ w.samples = true ∧ w.live = true ∧ w.gen = genOf s 2 w.req ∧ (side s w.req).cutoff = none ∧ (side s w.req).r2 ≠ 2 ∧ w.joined = 0 ∧ w.rung ≠ 2 ∧ z.2 ≠ none ∧ (ts ≠ [] → (ent v r0).genLen = 0 → x.open_ ≠ OpenCmd.none_ → f = startPatch r0 x.template x.acceptAt (ent v r0).deadline (ent v r0).late ts v))) :=
  ⟨⟨State.reset, 0, 0, by decide +kernel⟩,
   ⟨(fun s : State => { s with steps := [{ num := 0, aisle := 0, model := 0, issue := 0, rows := [], adapters := [], phase := 1 }] }) (withConf { aisles := [(0, [(0, 0)])], stalls := [(0, { aisle := 0 })] } (up)), 0, 0, _, rfl, by decide +kernel⟩,
   ⟨(fun s : State => { s with steps := [{ num := 0, aisle := 0, model := 0, issue := 0, rows := [], adapters := [], phase := 1, doneAt := some 0 }] }) (withConf { aisles := [(0, [(0, 0)])], stalls := [(0, { aisle := 0 })] } (up)), 0, 0, _, _, rfl, rfl, by decide +kernel⟩,
   ⟨atFt 100 ((fun s : State => { s with steps := [{ num := 0, aisle := 0, model := 0, issue := 0, rows := [], adapters := [], phase := 1, doneAt := some 0, tainted := true }] }) (withConf { aisles := [(0, [(0, 0)])], stalls := [(0, { aisle := 0 })] } (up))), 0, 0, _, [], _, _, _, rfl, rfl, rfl, rfl, by decide +kernel⟩,
   ⟨atFt 100 ((fun s : State => { s with steps := [{ num := 0, aisle := 0, model := 0, issue := 0, rows := [], adapters := [], phase := 1, doneAt := some 0, tainted := true }] }) (withConf { aisles := [(0, [(1, 0)])] } (up))), 0, 0, _, [], _, _, _, rfl, rfl, rfl, rfl, by decide +kernel⟩,
   ⟨atFt 100 ((fun s : State => { s with steps := [{ num := 0, aisle := 0, model := 0, issue := 0, rows := [], adapters := [], phase := 1, doneAt := some 0 }] }) (withConf { aisles := [(0, [(0, 0)])], stalls := [(0, { aisle := 0 })] } (up))), 0, 0, _, [], _, _, _, _, rfl, rfl, rfl, rfl, rfl, by decide +kernel⟩,
   ⟨atFt 100 ((fun s : State => { s with steps := [{ num := 0, aisle := 0, model := 0, issue := 0, rows := [], adapters := [], phase := 1, doneAt := some 0 }] }) (withConf { aisles := [(0, [(1, 0)])] } (up))), 0, 0, _, [], _, _, _, _, rfl, rfl, rfl, rfl, rfl, by decide +kernel⟩,
   ⟨(fun s : State => { s with steps := [{ num := 0, aisle := 0, model := 0, issue := 0, rows := [], adapters := [], phase := 1 }] }) (withConf { aisles := [(0, [(0, 0)])], stalls := [(0, { aisle := 0 })] } (up)), 0, 0, _, rfl, by decide +kernel⟩,
   ⟨(fun s : State => { s with steps := [{ num := 0, aisle := 0, model := 0, issue := 0, rows := [], adapters := [], issued := true }] }) (withConf { aisles := [(0, [(0, 0)])], stalls := [(0, { aisle := 0 })] } (up)), 0, 0, _, rfl, by decide +kernel⟩,
   ⟨(fun s : State => { s with steps := [{ num := 0, aisle := 0, model := 0, issue := 0, adapters := [], issued := true, rows := [{ req := 0, gen := 1, committed := 0, prompt := [], new := 0, spec := 0, rung := 0, orders := 0, aslot := 0, lane := 0, verify := 0, samples := true }] }] }) (withConf { aisles := [(0, [(0, 0)])], stalls := [(0, { aisle := 0 })] } (up)), 0, 0, _, [], _, rfl, rfl, by decide +kernel⟩,
   ⟨(fun s : State => { s with steps := [{ num := 0, aisle := 0, model := 0, issue := 0, adapters := [], issued := true, rows := [{ req := 0, gen := 1, committed := 0, prompt := [], new := 0, spec := 0, rung := 0, orders := 0, aslot := 0, lane := 0, verify := 0, samples := true }] }] }) (modSide 0 (fun x => { x with cutoff := some 3 }) (withConf { aisles := [(0, [(0, 0)])], stalls := [(0, { aisle := 0 })] } (up))), 0, 0, _, [{ ft := 5, rows := [{ req := 0, toks := [⟨7, false, 0⟩] }] }], _, _, _, _, _, rfl, rfl, rfl, rfl, by decide +kernel⟩,
   ⟨(fun s : State => { s with steps := [{ num := 0, aisle := 0, model := 0, issue := 0, adapters := [], issued := true, rows := [{ req := 0, gen := 1, committed := 0, prompt := [], new := 0, spec := 0, rung := 0, orders := 0, aslot := 0, lane := 0, verify := 0, samples := true }] }] }) (withConf { aisles := [(0, [(0, 0)])], stalls := [(0, { aisle := 0 })] } (up)), 0, 0, _, [{ ft := 5, rows := [{ req := 0, toks := [⟨7, false, 0⟩] }] }], _, _, _, _, _, _, _, _, _, _, _, _, rfl, rfl, rfl, rfl, rfl, rfl, rfl, rfl, rfl, rfl, fun _ => rfl, by decide +kernel⟩⟩

theorem witness_StepsEndAndAreRecorded_2 :
    (∃ (s : State) (a : Nat) (n : Nat) (t : Step), (List.find? (fun tq => tq.aisle == a && tq.num == n) s.steps = some t) ∧ (a < 64 ∧ (t.issued = false ∨ isOn s dSEQ = false ∨ itemsDone s a n = false)))
    ∧ (∃ (s : State) (a : Nat) (n : Nat) (t : Step), (List.find? (fun tq => tq.aisle == a && tq.num == n) s.steps = some t) ∧ (a < 64 ∧ t.issued = true ∧ isOn s dSEQ = true ∧ itemsDone s a n = true ∧ isHead s a = true ∧ (∀ w ∈ t.rows, rowDone w = true ∧ rowBack s t w = true)))
    ∧ (∃ (s : State) (a : Nat) (n : Nat) (t : Step), (List.find? (fun tq => tq.aisle == a && tq.num == n) s.steps = some t) ∧ (a < 64 ∧ t.issued = true ∧ isOn s dSEQ = true ∧ itemsDone s a n = true ∧ isHead s a = true ∧ (∃ w ∈ t.rows, rowDone w = false ∨ rowBack s t w = false)))
    ∧ (∃ (s : State) (a : Nat) (n : Nat) (t : Step), (List.find? (fun tq => tq.aisle == a && tq.num == n) s.steps = some t) ∧ (a < 64 ∧ t.issued = true ∧ isOn s dSEQ = true ∧ itemsDone s a n = true ∧ isHead s a = false))
    ∧ (∃ (s : State) (a : Nat) (c : Nat), a < 64 ∧ c < 256 ∧ aisleReqs s a = [])
    ∧ (∃ (a : Nat) (c : Nat), a < 64 ∧ c < 256)
    ∧ (∃ (s : State) (r : Nat), r < 2 ^ 24 ∧ finalDue s r = false)
    ∧ (∃ (s : State) (r : Nat) (st : Nat) (x : Side), x = side s r ∧ x.ending = some st ∧ (r < 2 ^ 24 ∧ finalDue s r = true ∧ x.open_ ≠ OpenCmd.none_))
    ∧ (∃ (s : State) (r : Nat) (st : Nat) (x : Side), x = side s r ∧ x.ending = some st ∧ (r < 2 ^ 24 ∧ finalDue s r = true ∧ x.open_ = OpenCmd.none_))
    ∧ (∃ (s : State) (b : List Byte) (a : Nat), a = u8 b 14 ∧ (b ≠ [] ∧ ((chain s a)[myPos s a]? = none ∨ myPos s a = 0)))
    ∧ (∃ (s : State) (b : List Byte) (a : Nat) (p : Nat) (c : Nat) (n : Nat) (head : Nat × Nat), a = u8 b 14 ∧ p = myPos s a ∧ (chain s a)[p]? = some (c, n) ∧ (chain s a).head? = some head ∧ (b ≠ [] ∧ p ≠ 0 ∧ isOn s dSEQ = false))
    ∧ (∃ (s : State) (b : List Byte) (a : Nat) (p : Nat) (c : Nat) (n : Nat) (head : Nat × Nat) (f : Nat × State) (u : State) (as : List Nat) (k : List Row × State) (t : Step) (v : State) (is : List Item × State) (w : State) (here : Bool), a = u8 b 14 ∧ p = myPos s a ∧ (chain s a)[p]? = some (c, n) ∧ (chain s a).head? = some head ∧ f = fresh s ∧ ((chain s a)[p + 1]? = none → u = s) ∧ (∀ (d m : ℕ), (chain s a)[p + 1]? = some (d, m) → u = touch dLNK (issuePW n d 0 0 0 (f.1 % 2 ^ 21) [] false b f.2)) ∧ (as = List.map (fun i => u16 b (20 + 2 * i)) (List.range 16)) ∧ k = recordRows head n (u32 b 0) (u8 b 12) as b (u8 b 13) u ∧ (t = { num := u32 b 0, aisle := a, model := u8 b 12, issue := u64 b 4, issued := true, phase := 1, rows := k.1, adapters := as, cyc := if bit (u8 b 15) 0 = true then some (u16 b 16) else none, blockedAt := none, sampledAt := 0, occ := 0, fed := false, sent := false, doneAt := none, tainted := false }) ∧ v = { k.2 with steps := k.2.steps ++ [t] } ∧ is = stepItems t n 0 v ∧ (w = touch dSEQ (if (t.rows.any fun wq => wq.new != 0) = true then placeItems a (u32 b 0) n is.1 is.2 else v)) ∧ here = false ∧ (b ≠ [] ∧ p ≠ 0 ∧ isOn s dSEQ = true ∧ (here = ((!t.rows.any fun wq => wq.new != 0) || t.rows.any fun z => (side w z.req).fed)))) :=
  ⟨⟨(fun s : State => { s with steps := [{ num := 0, aisle := 0, model := 0, issue := 0, rows := [], adapters := [], phase := 1 }] }) (withConf { aisles := [(0, [(0, 0)])], stalls := [(0, { aisle := 0 })] } (up)), 0, 0, _, rfl, by decide +kernel⟩,
   ⟨(fun s : State => { s with steps := [{ num := 0, aisle := 0, model := 0, issue := 0, rows := [], adapters := [], issued := true }] }) (withConf { aisles := [(0, [(0, 0)])], stalls := [(0, { aisle := 0 })] } (up)), 0, 0, _, rfl, by decide +kernel⟩,
   ⟨(fun s : State => { s with steps := [{ num := 0, aisle := 0, model := 0, issue := 0, adapters := [], issued := true, rows := [{ req := 0, gen := 1, committed := 0, prompt := [], new := 0, spec := 0, rung := 0, orders := 0, aslot := 0, lane := 0, verify := 0, samples := true }] }] }) (withConf { aisles := [(0, [(0, 0)])], stalls := [(0, { aisle := 0 })] } (up)), 0, 0, _, rfl, by decide +kernel⟩,
   ⟨(fun s : State => { s with steps := [{ num := 0, aisle := 0, model := 0, issue := 0, rows := [], adapters := [], issued := true }] }) (withConf { aisles := [(0, [(1, 0)])] } (up)), 0, 0, _, rfl, by decide +kernel⟩,
   ⟨State.reset, 0, 0, by decide +kernel⟩,
   ⟨0, 0, by decide +kernel⟩,
   ⟨State.reset, 0, by decide +kernel⟩,
   ⟨modSide 0 (fun x => { x with ending := some 0, open_ := .close }) (modEnt 0 (fun e => { e with st := .draining }) (up)), 0, _, _, rfl, rfl, by decide +kernel⟩,
   ⟨modEnt 0 (fun e => { e with st := .draining }) (modSide 0 (fun x => { x with ending := some 0 }) (withConf { aisles := [(0, [(0, 0)])], stalls := [(0, { aisle := 0 })] } (up))), 0, _, _, rfl, rfl, by decide +kernel⟩,
   ⟨State.reset, zeros 64, _, rfl, by decide +kernel⟩,
   ⟨{ (withConf { aisles := [(0, [(1, 0), (0, 1)])] } (up)) with doms := [] }, zeros 64, _, _, _, _, _, rfl, rfl, rfl, rfl, by decide +kernel⟩,
   ⟨modEnt 0 (fun e => { e with st := .decode, shadow := true, seed := BitVec.ofNat 64 (handleOf 0 1 0 2 0) }) (withConf { aisles := [(0, [(1, 0), (0, 0)])], stalls := [(0, { aisle := 0 })] } (up)), zeros 13 ++ [1] ++ zeros 56 ++ [1] ++ zeros 9, _, _, _, _, _, _, _, _, _, _, _, _, _, _, rfl, rfl, rfl, rfl, rfl, fun _ => rfl, fun _ _ => noSome (by decide +kernel), rfl, rfl, rfl, rfl, rfl, rfl, rfl, by decide +kernel⟩⟩

theorem witness_StepsEndAndAreRecorded_3 :
    ∃ (s : State) (b : List Byte) (a : Nat) (p : Nat) (c : Nat) (n : Nat) (head : Nat × Nat) (f : Nat × State) (u : State) (as : List Nat) (k : List Row × State) (t : Step) (v : State) (is : List Item × State) (w : State) (here : Bool), a = u8 b 14 ∧ p = myPos s a ∧ (chain s a)[p]? = some (c, n) ∧ (chain s a).head? = some head ∧ f = fresh s ∧ ((chain s a)[p + 1]? = none → u = s) ∧ (∀ (d m : ℕ), (chain s a)[p + 1]? = some (d, m) → u = touch dLNK (issuePW n d 0 0 0 (f.1 % 2 ^ 21) [] false b f.2)) ∧ (as = List.map (fun i => u16 b (20 + 2 * i)) (List.range 16)) ∧ k = recordRows head n (u32 b 0) (u8 b 12) as b (u8 b 13) u ∧ (t = { num := u32 b 0, aisle := a, model := u8 b 12, issue := u64 b 4, issued := true, phase := 1, rows := k.1, adapters := as, cyc := if bit (u8 b 15) 0 = true then some (u16 b 16) else none, blockedAt := none, sampledAt := 0, occ := 0, fed := false, sent := false, doneAt := none, tainted := false }) ∧ v = { k.2 with steps := k.2.steps ++ [t] } ∧ is = stepItems t n 0 v ∧ (w = touch dSEQ (if (t.rows.any fun wq => wq.new != 0) = true then placeItems a (u32 b 0) n is.1 is.2 else v)) ∧ here = true ∧ (b ≠ [] ∧ p ≠ 0 ∧ isOn s dSEQ = true ∧ (here = ((!t.rows.any fun wq => wq.new != 0) || t.rows.any fun z => (side w z.req).fed))) :=
  ⟨withConf { aisles := [(0, [(1, 0), (0, 1)])] } (up), zeros 64, _, _, _, _, _, _, _, _, _, _, _, _, _, _, rfl, rfl, rfl, rfl, rfl, fun _ => rfl, fun _ _ => noSome (by decide +kernel), rfl, rfl, rfl, rfl, rfl, rfl, rfl, by decide +kernel⟩

theorem witness_FixedCycle :
    (∃ (s : State), cycleRuns s = true ∧ cycleBoundary s = true ∧ (s.fixed.at_ ≠ s.ft ∨ rd s rCycles = 0))
    ∧ (∃ (s : State), (cycleRuns s = false ∨ cycleBoundary s = false ∨ s.fixed.at_ = s.ft ∧ rd s rCycles ≠ 0))
    ∧ (∃ (s : State) (g : CycSlot), (planSlots s)[s.fixed.slot]? = some g ∧ (cycleRuns s = false ∨ rd s rCycles = 0 ∨ s.ft < s.fixed.at_ + slotOfs s s.fixed.slot))
    ∧ (∃ (s : State) (g : CycSlot), (planSlots s)[s.fixed.slot]? = some g ∧ (cycleRuns s = true ∧ rd s rCycles ≠ 0 ∧ s.fixed.at_ + slotOfs s s.fixed.slot ≤ s.ft ∧ (g.idle = true ∨ s.fixed.idled = true)))
    ∧ (∃ (s : State) (g : CycSlot), (planSlots s)[s.fixed.slot]? = some g ∧ (cycleRuns s = true ∧ rd s rCycles ≠ 0 ∧ s.fixed.at_ + slotOfs s s.fixed.slot ≤ s.ft ∧ g.idle = false ∧ s.fixed.idled = false))
    ∧ (∃ (s : State), (planSlots s)[s.fixed.slot]? = none)
    ∧ (∃ (s : State), (s.fixed.stopped = none ∨ isFixed s = false ∨ isOn s dSEQ = false ∨ s.ft < phaseFt s))
    ∧ (∃ (s : State) (o : Nat), o = (s.ft - phaseFt s) % periodFt s ∧ (s.fixed.stopped.isSome = true ∧ isFixed s = true ∧ isOn s dSEQ = true ∧ phaseFt s ≤ s.ft ∧ (∀ i < (planSlots s).length, slotOfs s i ≠ o)))
    ∧ (∃ (s : State) (o : Nat) (i : Nat), o = (s.ft - phaseFt s) % periodFt s ∧ (List.find? (fun iq => slotOfs s iq == o) (List.range (planSlots s).length) = some i) ∧ (s.fixed.stopped.isSome = true ∧ isFixed s = true ∧ isOn s dSEQ = true ∧ phaseFt s ≤ s.ft ∧ i ≠ 0))
    ∧ (∃ (s : State) (o : Nat) (i : Nat), o = (s.ft - phaseFt s) % periodFt s ∧ i = 0 ∧ (s.fixed.stopped.isSome = true ∧ isFixed s = true ∧ isOn s dSEQ = true ∧ phaseFt s ≤ s.ft ∧ (List.find? (fun iq => slotOfs s iq == o) (List.range (planSlots s).length) = some i))) :=
  ⟨⟨atFt 8 (withConf { chipMode := 2, cycle := some { period := 1, phase := 0, slots := [{ len := 1, model := 0, rung := 0, depth := 0, idle := true, group := 0, rows := 0, cores := 0 }], spares := [] } } (up)), by decide +kernel⟩,
   ⟨State.reset, by decide +kernel⟩,
   ⟨atFt 8 (withConf { chipMode := 2, cycle := some { period := 1, phase := 0, slots := [{ len := 1, model := 0, rung := 0, depth := 0, idle := true, group := 0, rows := 0, cores := 0 }], spares := [] } } (up)), _, rfl, by decide +kernel⟩,
   ⟨wr rCycles 1 (withConf { chipMode := 2, cycle := some { period := 1, phase := 0, slots := [{ len := 1, model := 0, rung := 0, depth := 0, idle := true, group := 0, rows := 0, cores := 0 }], spares := [] } } (up)), _, rfl, by decide +kernel⟩,
   ⟨wr rCycles 1 (withConf { chipMode := 2, cycle := some { period := 1, phase := 0, slots := [{ len := 1, model := 0, rung := 0, depth := 0, idle := false, group := 0, rows := 0, cores := 0 }], spares := [] } } (up)), _, rfl, by decide +kernel⟩,
   ⟨State.reset, by decide +kernel⟩,
   ⟨State.reset, by decide +kernel⟩,
   ⟨atFt 3 ((fun s : State => { s with fixed := { stopped := some 0 } }) (withConf { chipMode := 2, cycle := some { period := 2, phase := 0, slots := [{ len := 1, model := 0, rung := 0, depth := 0, idle := true, group := 0, rows := 0, cores := 0 }, { len := 1, model := 0, rung := 0, depth := 0, idle := true, group := 0, rows := 0, cores := 0 }], spares := [] } } (up))), _, rfl, by decide +kernel⟩,
   ⟨atFt 8 ((fun s : State => { s with fixed := { stopped := some 0 } }) (withConf { chipMode := 2, cycle := some { period := 2, phase := 0, slots := [{ len := 1, model := 0, rung := 0, depth := 0, idle := true, group := 0, rows := 0, cores := 0 }, { len := 1, model := 0, rung := 0, depth := 0, idle := true, group := 0, rows := 0, cores := 0 }], spares := [] } } (up))), _, _, rfl, rfl, by decide +kernel⟩,
   ⟨atFt 16 ((fun s : State => { s with fixed := { stopped := some 0 } }) (withConf { chipMode := 2, cycle := some { period := 2, phase := 0, slots := [{ len := 1, model := 0, rung := 0, depth := 0, idle := true, group := 0, rows := 0, cores := 0 }, { len := 1, model := 0, rung := 0, depth := 0, idle := true, group := 0, rows := 0, cores := 0 }], spares := [] } } (up))), _, _, rfl, rfl, by decide +kernel⟩⟩

theorem witness_MasksAndRings_1 :
    (∃ (s : State) (m : Nat) (n : Nat) (x : Mask), maskSel s = (m, n) ∧ x = mask s m ∧ ((x.page.isSome = true ∨ x.staged.isSome = true) ∧ x.stall ≠ n))
    ∧ (∃ (s : State) (m : Nat) (n : Nat) (x : Mask), maskSel s = (m, n) ∧ x = mask s m ∧ ((x.stall = n ∨ x.page = none ∧ x.staged = none) ∧ (x.releasing = true ∨ x.staged.isSome = true)))
    ∧ (∃ (s : State) (m : Nat) (n : Nat) (x : Mask), maskSel s = (m, n) ∧ x = mask s m ∧ ((x.stall = n ∨ x.page = none ∧ x.staged = none) ∧ x.releasing = false ∧ x.staged = none ∧ spare s n 1 = false))
    ∧ (∃ (s : State) (m : Nat) (n : Nat) (x : Mask) (p : Nat) (u : State), maskSel s = (m, n) ∧ x = mask s m ∧ allocPage n s = (some p, u) ∧ ((x.stall = n ∨ x.page = none ∧ x.staged = none) ∧ x.releasing = false ∧ x.staged = none ∧ spare s n 1 = true))
    ∧ (∃ (s : State) (m : Nat) (n : Nat) (x : Mask) (u : State), maskSel s = (m, n) ∧ x = mask s m ∧ (x.staged = none → u = s) ∧ (∀ (p : ℕ), x.staged = some p → u = freePage p s) ∧ (x.stall = n ∨ x.page = none ∧ x.staged = none))
    ∧ (∃ (s : State) (m : Nat) (n : Nat) (x : Mask), maskSel s = (m, n) ∧ x = mask s m ∧ x.staged = none)
    ∧ (∃ (s : State) (m : Nat) (n : Nat) (x : Mask) (p : Nat), maskSel s = (m, n) ∧ x = mask s m ∧ x.staged = some p ∧ x.stall ≠ n)
    ∧ (∃ (s : State) (m : Nat) (n : Nat) (x : Mask) (p : Nat), maskSel s = (m, n) ∧ x = mask s m ∧ x.staged = some p ∧ x.stall = n)
    ∧ (∃ (s : State) (n : Nat) (src : Src) (c : Nat) (k : Nat) (b : Nat) (v : Bool), c = rd s (win n 280) ∧ k = bits c 3 0 ∧ b = rd64 s (win n 272) ∧ (v = true ↔ ∃ m, src = Src.vf m) ∧ (n < 32 ∧ srcOk src = true ∧ ownWindow src n = true ∧ (k < 4 ∨ 12 < k ∨ bits c 12 11 = 3 ∨ bit c 4 = true ∧ v = true ∨ bit c 4 = false ∧ b % min (16 * 2 ^ k) 4096 ≠ 0)))
    ∧ (∃ (s : State) (n : Nat) (src : Src) (c : Nat) (k : Nat) (b : Nat) (v : Bool), c = rd s (win n 280) ∧ k = bits c 3 0 ∧ b = rd64 s (win n 272) ∧ (v = true ↔ ∃ m, src = Src.vf m) ∧ (bit c 4 = true → v = false) ∧ (n < 32 ∧ srcOk src = true ∧ ownWindow src n = true ∧ 4 ≤ k ∧ k ≤ 12 ∧ bits c 12 11 ≠ 3 ∧ (bit c 4 = false → b % min (16 * 2 ^ k) 4096 = 0) ∧ ((stallCfg s n).rings ≤ (List.filter (fun g => g.2.stall == n && g.2.st != 0) s.rings).length ∨ ∀ j < 8192, (ring s j).st ≠ 0)))
    ∧ (∃ (s : State) (n : Nat) (src : Src) (c : Nat) (k : Nat) (b : Nat) (v : Bool) (i : Nat), c = rd s (win n 280) ∧ k = bits c 3 0 ∧ b = rd64 s (win n 272) ∧ (v = true ↔ ∃ m, src = Src.vf m) ∧ (bit c 4 = true → v = false) ∧ (n < 32 ∧ srcOk src = true ∧ ownWindow src n = true ∧ 4 ≤ k ∧ k ≤ 12 ∧ bits c 12 11 ≠ 3 ∧ (bit c 4 = false → b % min (16 * 2 ^ k) 4096 = 0) ∧ ((List.filter (fun g => g.2.stall == n && g.2.st != 0) s.rings).length < (stallCfg s n).rings) ∧ i < 8192 ∧ (ring s i).st = 0 ∧ (∀ j < i, (ring s j).st ≠ 0) ∧ bit c 4 = false))
    ∧ (∃ (s : State) (n : Nat) (src : Src) (c : Nat) (k : Nat) (b : Nat) (v : Bool) (i : Nat) (pages : Nat), c = rd s (win n 280) ∧ k = bits c 3 0 ∧ b = rd64 s (win n 272) ∧ (v = true ↔ ∃ m, src = Src.vf m) ∧ (bit c 4 = true → v = false) ∧ pages = cdiv (16 * 2 ^ k) 8192 ∧ (n < 32 ∧ srcOk src = true ∧ ownWindow src n = true ∧ 4 ≤ k ∧ k ≤ 12 ∧ bits c 12 11 ≠ 3 ∧ (bit c 4 = false → b % min (16 * 2 ^ k) 4096 = 0) ∧ ((List.filter (fun g => g.2.stall == n && g.2.st != 0) s.rings).length < (stallCfg s n).rings) ∧ i < 8192 ∧ (ring s i).st = 0 ∧ (∀ j < i, (ring s j).st ≠ 0) ∧ bit c 4 = true ∧ (spare s n pages = false ∨ findRun s n pages = none))) :=
  ⟨⟨(fun s : State => { s with masks := [(0, { page := some 0, stall := 1 })] }) (up), _, _, _, rfl, rfl, by decide +kernel⟩,
   ⟨(fun s : State => { s with masks := [(0, { staged := some 0 })] }) (up), _, _, _, rfl, rfl, by decide +kernel⟩,
   ⟨State.reset, _, _, _, rfl, rfl, by decide +kernel⟩,
   ⟨withConf { stalls := [(0, { pondPages := 1, rings := 1 })] } (up), _, _, _, _, _, rfl, rfl, rfl, by decide +kernel⟩,
   ⟨State.reset, _, _, _, _, rfl, rfl, fun _ => rfl, fun _ => noSome (by decide +kernel), by decide +kernel⟩,
   ⟨State.reset, _, _, _, rfl, rfl, by decide +kernel⟩,
   ⟨(fun s : State => { s with masks := [(0, { staged := some 0, stall := 1 })] }) (up), _, _, _, _, rfl, rfl, rfl, by decide +kernel⟩,
   ⟨(fun s : State => { s with masks := [(0, { staged := some 0 })] }) (up), _, _, _, _, rfl, rfl, rfl, by decide +kernel⟩,
   ⟨State.reset, 0, Sys2Proof.Src.pf, _, _, _, false, rfl, rfl, rfl, by simp, by decide +kernel⟩,
   ⟨wr (win 0 280) 4 up, 0, Sys2Proof.Src.pf, _, _, _, _, rfl, rfl, rfl, by simp, fun _ => rfl, by decide +kernel⟩,
   ⟨wr (win 0 280) 4 (withConf { stalls := [(0, { pondPages := 1, rings := 1 })] } (up)), 0, Sys2Proof.Src.pf, _, _, _, _, 0, rfl, rfl, rfl, by simp, fun _ => rfl, by decide +kernel⟩,
   ⟨wr (win 0 280) 0x14 (withConf { stalls := [(0, { pondPages := 0, entries := 4, rings := 1 })] } (up)), 0, Sys2Proof.Src.pf, _, _, _, _, 0, _, rfl, rfl, rfl, by simp, fun _ => rfl, rfl, by decide +kernel⟩⟩

theorem witness_MasksAndRings_2 :
    (∃ (s : State) (n : Nat) (src : Src) (c : Nat) (k : Nat) (b : Nat) (v : Bool) (i : Nat) (pages : Nat) (p : Nat), c = rd s (win n 280) ∧ k = bits c 3 0 ∧ b = rd64 s (win n 272) ∧ (v = true ↔ ∃ m, src = Src.vf m) ∧ (bit c 4 = true → v = false) ∧ pages = cdiv (16 * 2 ^ k) 8192 ∧ findRun s n pages = some p ∧ (n < 32 ∧ srcOk src = true ∧ ownWindow src n = true ∧ 4 ≤ k ∧ k ≤ 12 ∧ bits c 12 11 ≠ 3 ∧ (bit c 4 = false → b % min (16 * 2 ^ k) 4096 = 0) ∧ ((List.filter (fun g => g.2.stall == n && g.2.st != 0) s.rings).length < (stallCfg s n).rings) ∧ i < 8192 ∧ (ring s i).st = 0 ∧ (∀ j < i, (ring s j).st ≠ 0) ∧ bit c 4 = true ∧ spare s n pages = true))
    ∧ (∃ (s : State) (n : Nat) (i : Nat) (g : Ring), g = ring s i ∧ (n < 32 ∧ (g.st = 0 ∨ g.stall ≠ n)))
    ∧ (∃ (s : State) (n : Nat) (i : Nat) (g : Ring), g = ring s i ∧ (n < 32 ∧ g.st ≠ 0 ∧ g.stall = n ∧ g.req.isSome = true))
    ∧ (∃ (s : State) (n : Nat) (i : Nat) (g : Ring), g = ring s i ∧ (n < 32 ∧ g.st ≠ 0 ∧ g.stall = n ∧ g.req = none ∧ g.pond = false))
    ∧ (∃ (s : State) (n : Nat) (i : Nat) (g : Ring), g = ring s i ∧ (n < 32 ∧ g.st ≠ 0 ∧ g.stall = n ∧ g.req = none ∧ g.pond = true))
    ∧ (∃ (s : State) (n : Nat) (v : Word) (i : Nat) (g : Ring), i = bits (BitVec.toNat v) 12 0 ∧ g = ring s i ∧ (n < 32 ∧ (g.st = 0 ∨ g.stall ≠ n)))
    ∧ (∃ (s : State) (n : Nat) (v : Word) (i : Nat) (g : Ring) (k : Nat), i = bits (BitVec.toNat v) 12 0 ∧ g = ring s i ∧ k = (bits (BitVec.toNat v) 24 13 + 2 ^ g.k - (g.tail + 2 ^ g.k - g.unread) % 2 ^ g.k) % 2 ^ g.k ∧ (n < 32 ∧ g.st ≠ 0 ∧ g.stall = n ∧ (2 ^ g.k ≤ bits (BitVec.toNat v) 24 13 ∨ g.unread < k)))
    ∧ (∃ (s : State) (n : Nat) (v : Word) (i : Nat) (g : Ring) (k : Nat), i = bits (BitVec.toNat v) 12 0 ∧ g = ring s i ∧ k = (bits (BitVec.toNat v) 24 13 + 2 ^ g.k - (g.tail + 2 ^ g.k - g.unread) % 2 ^ g.k) % 2 ^ g.k ∧ (n < 32 ∧ g.st ≠ 0 ∧ g.stall = n ∧ bits (BitVec.toNat v) 24 13 < 2 ^ g.k ∧ k ≤ g.unread ∧ g.req = none))
    ∧ (∃ (s : State) (n : Nat) (v : Word) (i : Nat) (g : Ring) (k : Nat) (u : State) (r : Nat) (e : Entry) (late : Bool), i = bits (BitVec.toNat v) 12 0 ∧ g = ring s i ∧ k = (bits (BitVec.toNat v) 24 13 + 2 ^ g.k - (g.tail + 2 ^ g.k - g.unread) % 2 ^ g.k) % 2 ^ g.k ∧ (u = wakeAll 2 (dSEQ :: clustersOf (stallCfg s n) ++ halvesOf s n) (modRing i (fun gq => { gq with unread := gq.unread - k }) s)) ∧ g.req = some r ∧ e = ent u r ∧ late = true ∧ (n < 32 ∧ g.st ≠ 0 ∧ g.stall = n ∧ bits (BitVec.toNat v) 24 13 < 2 ^ g.k ∧ k ≤ g.unread ∧ (late = (e.st == RState.blocked && !(side u r).exempt && Option.any (fun d => decide (d < u.ft)) e.deadline))))
    ∧ (∃ (s : State) (n : Nat) (v : Word) (i : Nat) (g : Ring) (k : Nat) (u : State) (r : Nat) (e : Entry) (late : Bool) (w : State), i = bits (BitVec.toNat v) 12 0 ∧ g = ring s i ∧ k = (bits (BitVec.toNat v) 24 13 + 2 ^ g.k - (g.tail + 2 ^ g.k - g.unread) % 2 ^ g.k) % 2 ^ g.k ∧ (u = wakeAll 2 (dSEQ :: clustersOf (stallCfg s n) ++ halvesOf s n) (modRing i (fun gq => { gq with unread := gq.unread - k }) s)) ∧ g.req = some r ∧ e = ent u r ∧ w = writeHeld r i 4 u ∧ late = false ∧ (n < 32 ∧ g.st ≠ 0 ∧ g.stall = n ∧ bits (BitVec.toNat v) 24 13 < 2 ^ g.k ∧ k ≤ g.unread ∧ (late = (e.st == RState.blocked && !(side u r).exempt && Option.any (fun d => decide (d < u.ft)) e.deadline)) ∧ (ent w r).st = RState.blocked ∧ (side w r).heldRecs = []))
    ∧ (∃ (s : State) (n : Nat) (v : Word) (i : Nat) (g : Ring) (k : Nat) (u : State) (r : Nat) (e : Entry) (late : Bool) (w : State), i = bits (BitVec.toNat v) 12 0 ∧ g = ring s i ∧ k = (bits (BitVec.toNat v) 24 13 + 2 ^ g.k - (g.tail + 2 ^ g.k - g.unread) % 2 ^ g.k) % 2 ^ g.k ∧ (u = wakeAll 2 (dSEQ :: clustersOf (stallCfg s n) ++ halvesOf s n) (modRing i (fun gq => { gq with unread := gq.unread - k }) s)) ∧ g.req = some r ∧ e = ent u r ∧ w = writeHeld r i 4 u ∧ late = false ∧ (n < 32 ∧ g.st ≠ 0 ∧ g.stall = n ∧ bits (BitVec.toNat v) 24 13 < 2 ^ g.k ∧ k ≤ g.unread ∧ (late = (e.st == RState.blocked && !(side u r).exempt && Option.any (fun d => decide (d < u.ft)) e.deadline)) ∧ ((ent w r).st ≠ RState.blocked ∨ (side w r).heldRecs ≠ [])))
    ∧ (∃ (s : State) (i : Nat) (g : Ring), g = ring s i ∧ (i < 8192 ∧ (g.st = 1 ∨ g.st = 2) ∧ g.req = none)) :=
  ⟨⟨wr (win 0 280) 0x14 (withConf { stalls := [(0, { pondPages := 1, entries := 4, rings := 1 })] } (up)), 0, Sys2Proof.Src.pf, _, _, _, _, 0, _, _, rfl, rfl, rfl, by simp, fun _ => rfl, rfl, rfl, by decide +kernel⟩,
   ⟨State.reset, 0, 0, _, rfl, by decide +kernel⟩,
   ⟨{ up with rings := [(0, { st := 1, req := some 0 })] }, 0, 0, _, rfl, by decide +kernel⟩,
   ⟨{ up with rings := [(0, { st := 1 })] }, 0, 0, _, rfl, by decide +kernel⟩,
   ⟨{ up with rings := [(0, { st := 1, pond := true })] }, 0, 0, _, rfl, by decide +kernel⟩,
   ⟨State.reset, 0, 0, _, _, rfl, rfl, by decide +kernel⟩,
   ⟨{ up with rings := [(0, { st := 1, req := some 0 })] }, 0, 0x2000, _, _, _, rfl, rfl, rfl, by decide +kernel⟩,
   ⟨{ up with rings := [(0, { st := 1 })] }, 0, 0, _, _, _, rfl, rfl, rfl, by decide +kernel⟩,
   ⟨atFt 9 (modEnt 0 (fun e => { e with st := .blocked, deadline := some 0 }) ({ up with rings := [(0, { st := 1, req := some 0 })] })), 0, 0, _, _, _, _, _, _, _, rfl, rfl, rfl, rfl, rfl, rfl, rfl, by decide +kernel⟩,
   ⟨modEnt 0 (fun e => { e with st := .blocked }) ({ up with rings := [(0, { st := 1, req := some 0 })] }), 0, 0, _, _, _, _, _, _, _, _, rfl, rfl, rfl, rfl, rfl, rfl, rfl, rfl, by decide +kernel⟩,
   ⟨{ up with rings := [(0, { st := 1, req := some 0 })] }, 0, 0, _, _, _, _, _, _, _, _, rfl, rfl, rfl, rfl, rfl, rfl, rfl, rfl, by decide +kernel⟩,
   ⟨{ up with rings := [(0, { st := 1 })] }, 0, _, rfl, by decide +kernel⟩⟩

theorem witness_MasksAndRings_3 :
    (∃ (s : State) (i : Nat) (g : Ring) (r : Nat), g = ring s i ∧ g.req = some r ∧ (i < 8192 ∧ (g.st = 1 ∨ g.st = 2)))
    ∧ (∃ (s : State) (i : Nat) (g : Ring), g = ring s i ∧ (i < 8192 ∧ g.st ≠ 1 ∧ g.st ≠ 2)) :=
  ⟨⟨{ up with rings := [(0, { st := 1, req := some 0 })] }, 0, _, _, rfl, rfl, by decide +kernel⟩,
   ⟨State.reset, 0, _, rfl, by decide +kernel⟩⟩

theorem witness_InBankCommandsRun_1 :
    (∃ (s : State), (64 ≤ (List.filter (fun r => !r.running) s.nmc.q).length))
    ∧ (∃ (s : State) (d : PimDesc) (w : State) (x : Nat), d = pimDesc (pimRaw s) ∧ w = wakeDom dNMC s ∧ x = pimRefusal w d ∧ (((List.filter (fun r => !r.running) s.nmc.q).length < 64) ∧ x ≠ 0))
    ∧ (∃ (s : State) (d : PimDesc) (w : State) (x : Nat), d = pimDesc (pimRaw s) ∧ w = wakeDom dNMC s ∧ x = 0 ∧ (x = pimRefusal w d ∧ ((List.filter (fun r => !r.running) s.nmc.q).length < 64)))
    ∧ (∃ (s : State) (id : Nat) (r : PimRun), pimRun s id = some r ∧ (r.running = false ∧ (∀ y ∈ List.takeWhile (fun y => y.id != id) s.nmc.q, y.desc.shares r.desc = false) ∧ (∀ p ∈ s.heldAcc, r.before.contains p.2 = false) ∧ runMay s r = true))
    ∧ (∃ (s : State) (id : Nat) (r : PimRun), pimRun s id = some r ∧ (r.running = true ∨ (∃ y ∈ List.takeWhile (fun y => y.id != id) s.nmc.q, y.desc.shares r.desc = true) ∨ (∃ p ∈ s.heldAcc, r.before.contains p.2 = true) ∨ runMay s r = false))
    ∧ (∃ (s : State) (id : Nat) (r : PimRun), pimRun s id = some r ∧ r.finished = false)
    ∧ (∃ (s : State) (id : Nat) (r : PimRun) (u : State), pimRun s id = some r ∧ (u = if r.desc.post = true then postFlag r.desc.event (pimStatus r.status (addWrap 1703984 1 (dropRun id s))) else pimStatus r.status (addWrap 1703984 1 (dropRun id s))) ∧ (r.finished = true ∧ bit (rd u rPimCtl) 0 = false))
    ∧ (∃ (s : State) (id : Nat) (r : PimRun) (u : State), pimRun s id = some r ∧ (u = if r.desc.post = true then postFlag r.desc.event (pimStatus r.status (addWrap 1703984 1 (dropRun id s))) else pimStatus r.status (addWrap 1703984 1 (dropRun id s))) ∧ (r.finished = true ∧ bit (rd u rPimCtl) 0 = true))
    ∧ (∃ (s : State) (id : Nat), pimRun s id = none)
    ∧ (∃ (s : State) (u : State), (u = modNmc (fun m => { m with q := List.filter (fun x => x.running) m.q }) s) ∧ (∀ r ∈ u.nmc.q, r.finished = true))
    ∧ (∃ (s : State) (id : Nat) (r : PimRun), pimRun s id = some r ∧ (r.running = true ∧ r.since = none ∧ r.finished = false ∧ r.status = 0 ∧ runMay s r = true ∧ r.desc.op = 1))
    ∧ (∃ (s : State) (id : Nat) (r : PimRun), pimRun s id = some r ∧ (r.running = true ∧ r.since = none ∧ r.finished = false ∧ r.status = 0 ∧ runMay s r = true ∧ r.desc.op = 2)) :=
  ⟨⟨modNmc (fun n => { n with q := List.replicate 64 { id := 0, desc := { op := 1, scope := 0, resume := false, chan := 0, bank := 0, a := 0, b := 0, c := 0, d := 0, count := 1, dbank := 0, maskId := 0, maskStall := 0, event := 0, post := false, raw := [] } } }) up, by decide +kernel⟩,
   ⟨State.reset, _, _, _, rfl, rfl, rfl, by decide +kernel⟩,
   ⟨wr 0x1A0000 1 (wr 0x1A000C 1 up), _, _, _, rfl, rfl, rfl, by decide +kernel⟩,
   ⟨modNmc (fun n => { n with q := [{ id := 0, desc := { op := 1, scope := 0, resume := false, chan := 0, bank := 0, a := 0, b := 0, c := 0, d := 0, count := 1, dbank := 0, maskId := 0, maskStall := 0, event := 0, post := false, raw := [] } }] }) (withConf { nmc := { hsMask := 1 } } (up)), 0, _, rfl, by decide +kernel⟩,
   ⟨modNmc (fun n => { n with q := List.replicate 64 { id := 0, desc := { op := 1, scope := 0, resume := false, chan := 0, bank := 0, a := 0, b := 0, c := 0, d := 0, count := 1, dbank := 0, maskId := 0, maskStall := 0, event := 0, post := false, raw := [] } } }) up, 0, _, rfl, by decide +kernel⟩,
   ⟨modNmc (fun n => { n with q := List.replicate 64 { id := 0, desc := { op := 1, scope := 0, resume := false, chan := 0, bank := 0, a := 0, b := 0, c := 0, d := 0, count := 1, dbank := 0, maskId := 0, maskStall := 0, event := 0, post := false, raw := [] } } }) up, 0, _, rfl, by decide +kernel⟩,
   ⟨modNmc (fun n => { n with q := [{ id := 0, desc := { op := 1, scope := 0, resume := false, chan := 0, bank := 0, a := 0, b := 0, c := 0, d := 0, count := 1, dbank := 0, maskId := 0, maskStall := 0, event := 0, post := false, raw := [] }, finished := true }] }) (withConf { nmc := { hsMask := 1 } } (up)), 0, _, _, rfl, rfl, by decide +kernel⟩,
   ⟨wr rPimCtl 1 (modNmc (fun n => { n with q := [{ id := 0, desc := { op := 1, scope := 0, resume := false, chan := 0, bank := 0, a := 0, b := 0, c := 0, d := 0, count := 1, dbank := 0, maskId := 0, maskStall := 0, event := 0, post := false, raw := [] }, finished := true }] }) (withConf { nmc := { hsMask := 1 } } (up))), 0, _, _, rfl, rfl, by decide +kernel⟩,
   ⟨State.reset, 0, by decide +kernel⟩,
   ⟨State.reset, _, rfl, by decide +kernel⟩,
   ⟨modNmc (fun n => { n with q := [{ id := 0, desc := { op := 1, scope := 0, resume := false, chan := 0, bank := 0, a := 0, b := 0, c := 0, d := 0, count := 1, dbank := 0, maskId := 0, maskStall := 0, event := 0, post := false, raw := [] }, running := true }] }) (withConf { nmc := { hsMask := 1 } } (up)), 0, _, rfl, by decide +kernel⟩,
   ⟨modNmc (fun n => { n with q := [{ id := 0, desc := { op := 2, scope := 0, resume := false, chan := 0, bank := 0, a := 0, b := 0, c := 0, d := 0, count := 1, dbank := 0, maskId := 0, maskStall := 0, event := 0, post := false, raw := [] }, running := true }] }) (withConf { nmc := { hsMask := 1 } } (up)), 0, _, rfl, by decide +kernel⟩⟩

theorem witness_InBankCommandsRun_2 :
    (∃ (s : State) (id : Nat) (r : PimRun), pimRun s id = some r ∧ (r.running = true ∧ r.since = none ∧ r.finished = false ∧ r.status = 0 ∧ runMay s r = true ∧ r.desc.op = 3))
    ∧ (∃ (s : State) (id : Nat) (r : PimRun), pimRun s id = some r ∧ (r.running = true ∧ r.since = none ∧ r.finished = false ∧ r.status = 0 ∧ runMay s r = true ∧ r.desc.op = 4))
    ∧ (∃ (s : State) (id : Nat) (r : PimRun), pimRun s id = some r ∧ (r.running = true ∧ r.since = none ∧ r.finished = false ∧ r.status = 0 ∧ runMay s r = true ∧ r.desc.op = 5))
    ∧ (∃ (s : State) (id : Nat) (r : PimRun), pimRun s id = some r ∧ (r.running = true ∧ r.since = none ∧ r.finished = false ∧ r.status = 0 ∧ runMay s r = true ∧ r.desc.op = 6))
    ∧ (∃ (s : State) (id : Nat) (r : PimRun), pimRun s id = some r ∧ (r.running = true ∧ r.since = none ∧ r.finished = false ∧ r.status = 0 ∧ runMay s r = true ∧ r.desc.op = 7))
    ∧ (∃ (s : State) (id : Nat) (r : PimRun), pimRun s id = some r ∧ (r.running = true ∧ r.since = none ∧ r.finished = false ∧ r.status = 0 ∧ runMay s r = true ∧ r.desc.op = 8))
    ∧ (∃ (s : State) (id : Nat) (r : PimRun) (u : State) (x : Nat × Nat × State), pimRun s id = some r ∧ (u = busyBegin r.desc (touch dNMC (modRun id (fun rq => { rq with since := some s.ft }) s))) ∧ x = stageMask r.desc.maskId r.desc.maskStall u ∧ (r.running = true ∧ r.since = none ∧ r.finished = false ∧ r.status = 0 ∧ runMay s r = true ∧ r.desc.op = 9 ∧ x.1 = 0))
    ∧ (∃ (s : State) (id : Nat) (r : PimRun) (u : State) (x : Nat × Nat × State), pimRun s id = some r ∧ (u = busyBegin r.desc (touch dNMC (modRun id (fun rq => { rq with since := some s.ft }) s))) ∧ x = stageMask r.desc.maskId r.desc.maskStall u ∧ (r.running = true ∧ r.since = none ∧ r.finished = false ∧ r.status = 0 ∧ runMay s r = true ∧ r.desc.op = 9 ∧ x.1 ≠ 0))
    ∧ (∃ (s : State) (id : Nat) (r : PimRun), pimRun s id = some r ∧ (r.running = false ∨ r.since.isSome = true ∨ r.finished = true ∨ r.status ≠ 0 ∨ runMay s r = false))
    ∧ (∃ (s : State) (id : Nat) (r : PimRun), pimRun s id = some r ∧ r.desc.op ≠ 1)
    ∧ (∃ (s : State) (id : Nat) (r : PimRun), pimRun s id = some r ∧ r.desc.op ≠ 2)
    ∧ (∃ (s : State) (id : Nat) (r : PimRun), pimRun s id = some r ∧ r.desc.op ≠ 3) :=
  ⟨⟨modNmc (fun n => { n with q := [{ id := 0, desc := { op := 3, scope := 0, resume := false, chan := 0, bank := 0, a := 0, b := 0, c := 0, d := 0, count := 1, dbank := 0, maskId := 0, maskStall := 0, event := 0, post := false, raw := [] }, running := true }] }) (withConf { nmc := { hsMask := 1 } } (up)), 0, _, rfl, by decide +kernel⟩,
   ⟨modNmc (fun n => { n with q := [{ id := 0, desc := { op := 4, scope := 0, resume := false, chan := 0, bank := 0, a := 0, b := 0, c := 0, d := 0, count := 1, dbank := 0, maskId := 0, maskStall := 0, event := 0, post := false, raw := [] }, running := true }] }) (withConf { nmc := { hsMask := 1 } } (up)), 0, _, rfl, by decide +kernel⟩,
   ⟨modNmc (fun n => { n with q := [{ id := 0, desc := { op := 5, scope := 0, resume := false, chan := 0, bank := 0, a := 0, b := 0, c := 0, d := 0, count := 1, dbank := 0, maskId := 0, maskStall := 0, event := 0, post := false, raw := [] }, running := true }] }) (withConf { nmc := { hsMask := 1 } } (up)), 0, _, rfl, by decide +kernel⟩,
   ⟨modNmc (fun n => { n with q := [{ id := 0, desc := { op := 6, scope := 0, resume := false, chan := 0, bank := 0, a := 0, b := 0, c := 0, d := 0, count := 1, dbank := 0, maskId := 0, maskStall := 0, event := 0, post := false, raw := [] }, running := true }] }) (withConf { nmc := { hsMask := 1 } } (up)), 0, _, rfl, by decide +kernel⟩,
   ⟨modNmc (fun n => { n with q := [{ id := 0, desc := { op := 7, scope := 0, resume := false, chan := 0, bank := 0, a := 0, b := 0, c := 0, d := 0, count := 1, dbank := 0, maskId := 0, maskStall := 0, event := 0, post := false, raw := [] }, running := true }] }) (withConf { nmc := { hsMask := 1 } } (up)), 0, _, rfl, by decide +kernel⟩,
   ⟨modNmc (fun n => { n with q := [{ id := 0, desc := { op := 8, scope := 0, resume := false, chan := 0, bank := 0, a := 0, b := 0, c := 0, d := 0, count := 1, dbank := 0, maskId := 0, maskStall := 0, event := 0, post := false, raw := [] }, running := true }] }) (withConf { nmc := { hsMask := 1 } } (up)), 0, _, rfl, by decide +kernel⟩,
   ⟨modNmc (fun n => { n with q := [{ id := 0, desc := { op := 9, scope := 0, resume := false, chan := 0, bank := 0, a := 0, b := 0, c := 0, d := 0, count := 1, dbank := 0, maskId := 0, maskStall := 0, event := 0, post := false, raw := [] }, running := true }] }) (withConf { nmc := { hsMask := 1 }, stalls := [(0, { pondPages := 4 })] } (up)), 0, _, _, _, rfl, rfl, rfl, by decide +kernel⟩,
   ⟨modNmc (fun n => { n with q := [{ id := 0, desc := { op := 9, scope := 0, resume := false, chan := 0, bank := 0, a := 0, b := 0, c := 0, d := 0, count := 1, dbank := 0, maskId := 0, maskStall := 0, event := 0, post := false, raw := [] }, running := true }] }) (withConf { nmc := { hsMask := 1 } } (up)), 0, _, _, _, rfl, rfl, rfl, by decide +kernel⟩,
   ⟨modNmc (fun n => { n with q := List.replicate 64 { id := 0, desc := { op := 1, scope := 0, resume := false, chan := 0, bank := 0, a := 0, b := 0, c := 0, d := 0, count := 1, dbank := 0, maskId := 0, maskStall := 0, event := 0, post := false, raw := [] } } }) up, 0, _, rfl, by decide +kernel⟩,
   ⟨modNmc (fun n => { n with q := [{ id := 0, desc := { op := 2, scope := 0, resume := false, chan := 0, bank := 0, a := 0, b := 0, c := 0, d := 0, count := 1, dbank := 0, maskId := 0, maskStall := 0, event := 0, post := false, raw := [] }, running := true }] }) (withConf { nmc := { hsMask := 1 } } (up)), 0, _, rfl, by decide +kernel⟩,
   ⟨modNmc (fun n => { n with q := List.replicate 64 { id := 0, desc := { op := 1, scope := 0, resume := false, chan := 0, bank := 0, a := 0, b := 0, c := 0, d := 0, count := 1, dbank := 0, maskId := 0, maskStall := 0, event := 0, post := false, raw := [] } } }) up, 0, _, rfl, by decide +kernel⟩,
   ⟨modNmc (fun n => { n with q := List.replicate 64 { id := 0, desc := { op := 1, scope := 0, resume := false, chan := 0, bank := 0, a := 0, b := 0, c := 0, d := 0, count := 1, dbank := 0, maskId := 0, maskStall := 0, event := 0, post := false, raw := [] } } }) up, 0, _, rfl, by decide +kernel⟩⟩

theorem witness_InBankCommandsRun_3 :
    (∃ (s : State) (id : Nat) (r : PimRun), pimRun s id = some r ∧ r.desc.op ≠ 4)
    ∧ (∃ (s : State) (id : Nat) (r : PimRun), pimRun s id = some r ∧ r.desc.op ≠ 5)
    ∧ (∃ (s : State) (id : Nat) (r : PimRun), pimRun s id = some r ∧ r.desc.op ≠ 6)
    ∧ (∃ (s : State) (id : Nat) (r : PimRun), pimRun s id = some r ∧ r.desc.op ≠ 7)
    ∧ (∃ (s : State) (id : Nat) (r : PimRun), pimRun s id = some r ∧ r.desc.op ≠ 8)
    ∧ (∃ (s : State) (id : Nat) (r : PimRun), pimRun s id = some r ∧ r.desc.op ≠ 9)
    ∧ (∃ (s : State) (id : Nat) (r : PimRun), pimRun s id = some r ∧ r.since = none)
    ∧ (∃ (s : State) (id : Nat) (r : PimRun) (t : Nat), pimRun s id = some r ∧ r.since = some t ∧ s.ft < t + rowFt r.desc.op)
    ∧ (∃ (s : State) (id : Nat) (r : PimRun) (t : Nat), pimRun s id = some r ∧ r.since = some t ∧ (t + rowFt r.desc.op ≤ s.ft ∧ r.status = 4))
    ∧ (∃ (s : State) (id : Nat) (r : PimRun) (t : Nat), pimRun s id = some r ∧ r.since = some t ∧ (t + rowFt r.desc.op ≤ s.ft ∧ r.status ≠ 4 ∧ r.desc.op ≠ 9))
    ∧ (∃ (s : State) (id : Nat) (r : PimRun) (t : Nat), pimRun s id = some r ∧ r.since = some t ∧ (t + rowFt r.desc.op ≤ s.ft ∧ r.status ≠ 4 ∧ r.desc.op = 9)) :=
  ⟨⟨modNmc (fun n => { n with q := List.replicate 64 { id := 0, desc := { op := 1, scope := 0, resume := false, chan := 0, bank := 0, a := 0, b := 0, c := 0, d := 0, count := 1, dbank := 0, maskId := 0, maskStall := 0, event := 0, post := false, raw := [] } } }) up, 0, _, rfl, by decide +kernel⟩,
   ⟨modNmc (fun n => { n with q := List.replicate 64 { id := 0, desc := { op := 1, scope := 0, resume := false, chan := 0, bank := 0, a := 0, b := 0, c := 0, d := 0, count := 1, dbank := 0, maskId := 0, maskStall := 0, event := 0, post := false, raw := [] } } }) up, 0, _, rfl, by decide +kernel⟩,
   ⟨modNmc (fun n => { n with q := List.replicate 64 { id := 0, desc := { op := 1, scope := 0, resume := false, chan := 0, bank := 0, a := 0, b := 0, c := 0, d := 0, count := 1, dbank := 0, maskId := 0, maskStall := 0, event := 0, post := false, raw := [] } } }) up, 0, _, rfl, by decide +kernel⟩,
   ⟨modNmc (fun n => { n with q := List.replicate 64 { id := 0, desc := { op := 1, scope := 0, resume := false, chan := 0, bank := 0, a := 0, b := 0, c := 0, d := 0, count := 1, dbank := 0, maskId := 0, maskStall := 0, event := 0, post := false, raw := [] } } }) up, 0, _, rfl, by decide +kernel⟩,
   ⟨modNmc (fun n => { n with q := List.replicate 64 { id := 0, desc := { op := 1, scope := 0, resume := false, chan := 0, bank := 0, a := 0, b := 0, c := 0, d := 0, count := 1, dbank := 0, maskId := 0, maskStall := 0, event := 0, post := false, raw := [] } } }) up, 0, _, rfl, by decide +kernel⟩,
   ⟨modNmc (fun n => { n with q := List.replicate 64 { id := 0, desc := { op := 1, scope := 0, resume := false, chan := 0, bank := 0, a := 0, b := 0, c := 0, d := 0, count := 1, dbank := 0, maskId := 0, maskStall := 0, event := 0, post := false, raw := [] } } }) up, 0, _, rfl, by decide +kernel⟩,
   ⟨modNmc (fun n => { n with q := List.replicate 64 { id := 0, desc := { op := 1, scope := 0, resume := false, chan := 0, bank := 0, a := 0, b := 0, c := 0, d := 0, count := 1, dbank := 0, maskId := 0, maskStall := 0, event := 0, post := false, raw := [] } } }) up, 0, _, rfl, by decide +kernel⟩,
   ⟨modNmc (fun n => { n with q := [{ id := 0, desc := { op := 1, scope := 0, resume := false, chan := 0, bank := 0, a := 0, b := 0, c := 0, d := 0, count := 1, dbank := 0, maskId := 0, maskStall := 0, event := 0, post := false, raw := [] }, running := true, since := some 0 }] }) (withConf { nmc := { hsMask := 1 } } (up)), 0, _, _, rfl, rfl, by decide +kernel⟩,
   ⟨atFt 100 (modNmc (fun n => { n with q := [{ id := 0, desc := { op := 1, scope := 0, resume := false, chan := 0, bank := 0, a := 0, b := 0, c := 0, d := 0, count := 1, dbank := 0, maskId := 0, maskStall := 0, event := 0, post := false, raw := [] }, running := true, since := some 0, status := 4 }] }) (withConf { nmc := { hsMask := 1 } } (up))), 0, _, _, rfl, rfl, by decide +kernel⟩,
   ⟨atFt 64 (modNmc (fun n => { n with q := [{ id := 0, desc := { op := 1, scope := 0, resume := false, chan := 0, bank := 0, a := 0, b := 0, c := 0, d := 0, count := 1, dbank := 0, maskId := 0, maskStall := 0, event := 0, post := false, raw := [] }, running := true, since := some 0 }] }) (withConf { nmc := { hsMask := 0 } } (up))), 0, _, _, rfl, rfl, by decide +kernel⟩,
   ⟨atFt 256 (modNmc (fun n => { n with q := [{ id := 0, desc := { op := 9, scope := 0, resume := false, chan := 0, bank := 0, a := 0, b := 0, c := 0, d := 0, count := 1, dbank := 0, maskId := 0, maskStall := 0, event := 0, post := false, raw := [] }, running := true, since := some 0 }] }) (withConf { nmc := { hsMask := 1 } } (up))), 0, _, _, rfl, rfl, by decide +kernel⟩⟩

theorem witness_RowBytesAreBitwise :
    ∃ (i : Nat), i < 8 :=
  ⟨0, by decide +kernel⟩

theorem witness_RefreshAndPreemption_1 :
    (∃ (s : State) (c : Nat), c < 16 ∧ isOn s dNMC = false)
    ∧ (∃ (s : State) (c : Nat) (i : Nat) (l : Nat) (k : Nat), k = 0 ∧ (c < 16 ∧ isOn s dNMC = true ∧ handshake s c = false ∧ slotNow s = some (i, k, l) ∧ 176 ≤ l ∧ s.nmc.refreshed.contains c = false ∧ (∀ x ∈ List.take i s.conf.nmc.slots, x.2 ≠ 0)))
    ∧ (∃ (s : State) (c : Nat) (i : Nat) (l : Nat) (k : Nat), slotNow s = some (i, k, l) ∧ (c < 16 ∧ isOn s dNMC = true ∧ handshake s c = false ∧ (k ≠ 0 ∨ l < 176 ∨ s.nmc.refreshed.contains c = true ∨ ∃ x ∈ List.take i s.conf.nmc.slots, x.2 = 0)))
    ∧ (∃ (s : State) (c : Nat) (due : Bool), due = false ∧ (c < 16 ∧ isOn s dNMC = true ∧ (handshake s c = true ∨ slotNow s = none) ∧ (due = decide ((look s.nmc.lastRefresh c 0 + if hot s (dieOf c) = true then 3125 else 6250) ≤ s.ft + 1)) ∧ s.nmc.refresh.contains c = false))
    ∧ (∃ (s : State) (c : Nat) (due : Bool), (due = decide ((look s.nmc.lastRefresh c 0 + if hot s (dieOf c) = true then 3125 else 6250) ≤ s.ft + 1)) ∧ (c < 16 ∧ isOn s dNMC = true ∧ (handshake s c = true ∨ slotNow s = none) ∧ (s.nmc.refresh.contains c = true ∨ due = true) ∧ handshake s c = true ∧ dieWorks s (dieOf c) = true ∧ s.nmc.refresh.contains c = true))
    ∧ (∃ (s : State) (c : Nat) (due : Bool), (due = decide ((look s.nmc.lastRefresh c 0 + if hot s (dieOf c) = true then 3125 else 6250) ≤ s.ft + 1)) ∧ (c < 16 ∧ isOn s dNMC = true ∧ (handshake s c = true ∨ slotNow s = none) ∧ (s.nmc.refresh.contains c = true ∨ due = true) ∧ handshake s c = true ∧ dieWorks s (dieOf c) = true ∧ s.nmc.refresh.contains c = false))
    ∧ (∃ (s : State) (c : Nat) (due : Bool), (due = decide ((look s.nmc.lastRefresh c 0 + if hot s (dieOf c) = true then 3125 else 6250) ≤ s.ft + 1)) ∧ (c < 16 ∧ isOn s dNMC = true ∧ (handshake s c = true ∨ slotNow s = none) ∧ (s.nmc.refresh.contains c = true ∨ due = true) ∧ (handshake s c = false ∨ dieWorks s (dieOf c) = false)))
    ∧ (∃ (s : State), s.conf.nmc.frame ≠ 0 ∧ s.ft % s.conf.nmc.frame = 0)
    ∧ (∃ (s : State), (s.conf.nmc.frame = 0 ∨ s.ft % s.conf.nmc.frame ≠ 0))
    ∧ (∃ (s : State) (d : Nat) (t : Int), d < 2 ∧ hot s d = decide (85 < t))
    ∧ (∃ (s : State) (d : Nat) (t : Int), d < 2 ∧ hot s d ≠ decide (85 < t))
    ∧ (∃ (s : State) (d : Nat), d < 2 ∧ (isOn s dNMC = false ∨ diePending s d = false ∨ rowBusy s d = true ∨ dieWorks s d = false ∨ s.nmc.burst.contains d = true)) :=
  ⟨⟨State.reset, 0, by decide +kernel⟩,
   ⟨(fun s : State => { s with conf := { s.conf with nmc := { frame := 200, slots := [(200, 0)] } } }) (up), 0, 0, 200, _, rfl, by decide +kernel⟩,
   ⟨(fun s : State => { s with conf := { s.conf with nmc := { frame := 200, slots := [(200, 1)] } } }) (up), 0, _, _, _, rfl, by decide +kernel⟩,
   ⟨up, 0, _, rfl, by decide +kernel⟩,
   ⟨modNmc (fun n => { n with refresh := [0] }) (modNmc (fun n => { n with q := [{ id := 0, desc := { op := 1, scope := 0, resume := false, chan := 0, bank := 0, a := 0, b := 0, c := 0, d := 0, count := 1, dbank := 0, maskId := 0, maskStall := 0, event := 0, post := false, raw := [] }, running := true }] }) (withConf { nmc := { hsMask := 1, burst := 1 } } (up))), 0, _, rfl, by decide +kernel⟩,
   ⟨atFt 6249 (modNmc (fun n => { n with q := [{ id := 0, desc := { op := 1, scope := 0, resume := false, chan := 0, bank := 0, a := 0, b := 0, c := 0, d := 0, count := 1, dbank := 0, maskId := 0, maskStall := 0, event := 0, post := false, raw := [] }, running := true }] }) (withConf { nmc := { hsMask := 1 } } (up))), 0, _, rfl, by decide +kernel⟩,
   ⟨atFt 6249 (up), 0, _, rfl, by decide +kernel⟩,
   ⟨(fun s : State => { s with conf := { s.conf with nmc := { frame := 1 } } }) (up), by decide +kernel⟩,
   ⟨State.reset, by decide +kernel⟩,
   ⟨State.reset, 0, 0, by decide +kernel⟩,
   ⟨State.reset, 0, 86, by decide +kernel⟩,
   ⟨State.reset, 0, by decide +kernel⟩⟩

theorem witness_RefreshAndPreemption_2 :
    ∃ (s : State) (d : Nat), d < 2 ∧ isOn s dNMC = true ∧ diePending s d = true ∧ rowBusy s d = false ∧ dieWorks s d = true ∧ s.nmc.burst.contains d = false :=
  ⟨modNmc (fun n => { n with refresh := [0] }) (modNmc (fun n => { n with q := [{ id := 0, desc := { op := 1, scope := 0, resume := false, chan := 0, bank := 0, a := 0, b := 0, c := 0, d := 0, count := 1, dbank := 0, maskId := 0, maskStall := 0, event := 0, post := false, raw := [] }, running := true }] }) (withConf { nmc := { hsMask := 1, burst := 1 } } (up))), 0, by decide +kernel⟩

theorem witness_LakeAccesses :
    (∃ (s : State) (k : Nat) (o : Nat) (w : Option (List Byte)) (n : Nat), (∀ (b : List Byte), w = some b → o + b.length ≤ 2 ^ 35) ∧ n = (Option.map List.length w).getD 64 ∧ (k < 8 ∧ o < 2 ^ 35 ∧ lakeNow s o n k = true ∧ lakeBehind s o k = false))
    ∧ (∃ (s : State) (k : Nat) (o : Nat) (w : Option (List Byte)) (n : Nat), (∀ (b : List Byte), w = some b → o + b.length ≤ 2 ^ 35) ∧ n = (Option.map List.length w).getD 64 ∧ (k < 8 ∧ o < 2 ^ 35 ∧ (lakeNow s o n k = false ∨ lakeBehind s o k = true)))
    ∧ (∃ (s : State) (k : Nat) (o : Nat) (b : Bytes), k < 8 ∧ o < 2 ^ 35 ∧ o + List.length b ≤ 2 ^ 35 ∧ lakeNow s o (List.length b) k = true ∧ lakeBehind s o k = false)
    ∧ (∃ (s : State) (k : Nat) (o : Nat), k < 8 ∧ o < 2 ^ 35 ∧ lakeNow s o 64 k = true ∧ lakeBehind s o k = false)
    ∧ (∃ (s : State) (o : Nat) (d : Bytes) (n : Nat), o + List.length d ≤ 2 ^ 36 ∧ o + n ≤ 2 ^ 36 ∧ s.spg.l1 = true)
    ∧ (∃ (s : State) (o : Nat) (d : Bytes) (n : Nat), o + List.length d ≤ 2 ^ 36 ∧ o + n ≤ 2 ^ 36 ∧ s.spg.l1 = false ∧ 2 ^ 35 ≤ o)
    ∧ (∃ (s : State) (o : Nat) (d : Bytes) (n : Nat) (u : State), u = { s with spg := { s.spg with lastTlp := s.ft } } ∧ (o + List.length d ≤ 2 ^ 36 ∧ o + n ≤ 2 ^ 36 ∧ s.spg.l1 = false ∧ o < 2 ^ 35 ∧ lakeNow u o (List.length d) 5 = true ∧ lakeBehind u o 5 = false))
    ∧ (∃ (s : State) (o : Nat) (d : Bytes) (n : Nat) (u : State), u = { s with spg := { s.spg with lastTlp := s.ft } } ∧ (o + List.length d ≤ 2 ^ 36 ∧ o + n ≤ 2 ^ 36 ∧ s.spg.l1 = false ∧ o < 2 ^ 35 ∧ (lakeNow u o (List.length d) 5 = false ∨ lakeBehind u o 5 = true)))
    ∧ (∃ (s : State) (o : Nat) (d : Bytes) (n : Nat) (u : State), u = { s with spg := { s.spg with lastTlp := s.ft } } ∧ (o + List.length d ≤ 2 ^ 36 ∧ o + n ≤ 2 ^ 36 ∧ s.spg.l1 = false ∧ o < 2 ^ 35 ∧ lakeNow u o n 5 = true ∧ lakeBehind u o 5 = false))
    ∧ (∃ (s : State) (o : Nat) (d : Bytes) (n : Nat) (u : State), u = { s with spg := { s.spg with lastTlp := s.ft } } ∧ (o + List.length d ≤ 2 ^ 36 ∧ o + n ≤ 2 ^ 36 ∧ s.spg.l1 = false ∧ o < 2 ^ 35 ∧ (lakeNow u o n 5 = false ∨ lakeBehind u o 5 = true))) :=
  ⟨⟨up, 0, 0, none, _, (by intro b h; cases h), rfl, by decide +kernel⟩,
   ⟨State.reset, 0, 0, none, _, (by intro b h; cases h), rfl, by decide +kernel⟩,
   ⟨up, 0, 0, zeros 64, by decide +kernel⟩,
   ⟨up, 0, 0, by decide +kernel⟩,
   ⟨(fun s : State => { s with spg := { s.spg with l1 := true } }) up, 0, zeros 64, 0, by decide +kernel⟩,
   ⟨State.reset, 34359738368, zeros 64, 0, by decide +kernel⟩,
   ⟨up, 0, zeros 64, 0, _, rfl, by decide +kernel⟩,
   ⟨State.reset, 0, zeros 64, 0, _, rfl, by decide +kernel⟩,
   ⟨up, 0, zeros 64, 0, _, rfl, by decide +kernel⟩,
   ⟨State.reset, 0, zeros 64, 0, _, rfl, by decide +kernel⟩⟩

theorem witness_ImagesAreStaged_1 :
    (∃ (s : State), s.rst.safeHold = true)
    ∧ (∃ (s : State), s.rst.safeHold = false ∧ loaderIdle s = false)
    ∧ (∃ (s : State), s.rst.safeHold = false ∧ loaderIdle s = true)
    ∧ (∃ (s : State) (x : Option Bytes), sizeOk 4096 x = true ∧ (s.img.st ≠ 1 ∨ s.img.ended = true ∨ framesDone s = true ∧ (readsBundle s && s.img.hdr.member) = false))
    ∧ (∃ (s : State) (x : Option Bytes), sizeOk 4096 x = true ∧ s.img.st = 1 ∧ s.img.ended = false ∧ (framesDone s = false ∨ (readsBundle s && s.img.hdr.member) = true) ∧ nextFrame s x = none ∧ isOn s dNMC = true)
    ∧ (∃ (s : State) (x : Option Bytes), sizeOk 4096 x = true ∧ s.img.st = 1 ∧ s.img.ended = false ∧ (framesDone s = false ∨ (readsBundle s && s.img.hdr.member) = true) ∧ nextFrame s x = none ∧ isOn s dNMC = false)
    ∧ (∃ (s : State) (x : Option Bytes), sizeOk 4096 x = true ∧ s.img.st = 1 ∧ s.img.ended = false ∧ (framesDone s = false ∨ (readsBundle s && s.img.hdr.member) = true) ∧ nextFrame s x = some none)
    ∧ (∃ (s : State) (x : Option Bytes) (f : Bytes) (c : Nat) (k : Nat) (n : Nat), nextFrame s x = some (some f) ∧ s.img.fwd = some (c, k, n) ∧ (sizeOk 4096 x = true ∧ s.img.st = 1 ∧ s.img.ended = false ∧ (framesDone s = false ∨ (readsBundle s && s.img.hdr.member) = true)))
    ∧ (∃ (s : State) (x : Option Bytes) (f : Bytes), nextFrame s x = some (some f) ∧ (sizeOk 4096 x = true ∧ s.img.st = 1 ∧ s.img.ended = false ∧ (framesDone s = false ∨ (readsBundle s && s.img.hdr.member) = true) ∧ s.img.fwd = none ∧ (s.img.frames.isEmpty || framesDone s) = true))
    ∧ (∃ (s : State) (x : Option Bytes) (f : Bytes), nextFrame s x = some (some f) ∧ (sizeOk 4096 x = true ∧ s.img.st = 1 ∧ s.img.ended = false ∧ (framesDone s = false ∨ (readsBundle s && s.img.hdr.member) = true) ∧ s.img.fwd = none ∧ (s.img.frames.isEmpty || framesDone s) = false))
    ∧ (∃ (s : State), (s.img.st ≠ 1 ∨ framesDone s = false ∨ (readsBundle s && s.img.hdr.member) = true ∧ s.img.ended = false))
    ∧ (∃ (s : State) (b : Bad), stagedBad s = some b ∧ (s.img.st = 1 ∧ framesDone s = true ∧ ((readsBundle s && s.img.hdr.member) = false ∨ s.img.ended = true))) :=
  ⟨⟨modRst (fun r => { r with safeHold := true }) up, by decide +kernel⟩,
   ⟨withImg { st := 1 } (up), by decide +kernel⟩,
   ⟨State.reset, by decide +kernel⟩,
   ⟨State.reset, none, by decide +kernel⟩,
   ⟨withImg { st := 1, source := 2 } (up), none, by decide +kernel⟩,
   ⟨withImg { st := 1, source := 2 } ({ up with doms := [] }), none, by decide +kernel⟩,
   ⟨withImg { st := 1 } (up), none, by decide +kernel⟩,
   ⟨withImg { st := 1, fwd := some (0, 0, 1) } (rootUp), some (zeros 4096), _, _, _, _, rfl, rfl, by decide +kernel⟩,
   ⟨withImg { st := 1 } (up), some (zeros 4096), _, rfl, by decide +kernel⟩,
   ⟨withImg { st := 1, frames := [zeros 4096], hdr := { frames := 2 } } (up), some (zeros 4096), _, rfl, by decide +kernel⟩,
   ⟨State.reset, by decide +kernel⟩,
   ⟨withImg { st := 1, frames := [zeros 4096], hdr := { frames := 1 } } (up), _, rfl, by decide +kernel⟩⟩

theorem witness_ImagesAreStaged_2 :
    (∃ (s : State) (u : State), (u = setLoader 2 (modSecm (fun m => { m with imgKey := false }) s)) ∧ (s.img.st = 1 ∧ framesDone s = true ∧ ((readsBundle s && s.img.hdr.member) = false ∨ s.img.ended = true) ∧ stagedBad s = none ∧ (s.img.boot || bit (rd u rImgCtl) 5) = true))
    ∧ (∃ (s : State) (u : State), (u = setLoader 2 (modSecm (fun m => { m with imgKey := false }) s)) ∧ (s.img.st = 1 ∧ framesDone s = true ∧ ((readsBundle s && s.img.hdr.member) = false ∨ s.img.ended = true) ∧ stagedBad s = none ∧ (s.img.boot || bit (rd u rImgCtl) 5) = false))
    ∧ (∃ (s : State), 1 ≤ s.img.st ∧ s.img.st ≤ 3)
    ∧ (∃ (s : State), (s.img.st = 0 ∨ 4 ≤ s.img.st))
    ∧ (∃ (s : State), isOn s dNMC = false)
    ∧ (∃ (s : State) (m : Bytes), isOn s dNMC = true ∧ (u8 (ctlOf m).body 8 ≠ s.fab.chip ∨ s.rst.safeHold = true))
    ∧ (∃ (s : State) (m : Bytes) (b : Bytes) (k : Nat) (at_ : BitVec 64) (first : State → State) (kept : State → State), b = (ctlOf m).body ∧ at_ = BitVec.ofNat 64 (u64 b 0) ∧ (∀ (t : State), kept t = modImg (fun i => { i with pos := k + 1 }) { t with nmc := { t.nmc with lake := setRange t.nmc.lake (25769803776 + 4096 * k) (slice b 32 4096) } }) ∧ (∀ (t : State), first t = kept (modImg (fun i => { i with hdr := { kind := 0, encrypted := false, member := true, advance := false, sections := 0, chip := 0, stall := 255, frames := 0, version := 0, topo := 0, bundle := at_, members := 0, iv := [], digest := [], signKey := 0, wrapKey := 0 }, bundleNow := some at_ }) t)) ∧ k = 0 ∧ (isOn s dNMC = true ∧ u8 b 8 = s.fab.chip ∧ s.rst.safeHold = false ∧ k = u32 b 12 ∧ takesFromRoot s = true))
    ∧ (∃ (s : State) (m : Bytes) (b : Bytes) (k : Nat) (at_ : BitVec 64) (first : State → State) (kept : State → State), b = (ctlOf m).body ∧ at_ = BitVec.ofNat 64 (u64 b 0) ∧ (∀ (t : State), kept t = modImg (fun i => { i with pos := k + 1 }) { t with nmc := { t.nmc with lake := setRange t.nmc.lake (25769803776 + 4096 * k) (slice b 32 4096) } }) ∧ (∀ (t : State), first t = kept (modImg (fun i => { i with hdr := { kind := 0, encrypted := false, member := true, advance := false, sections := 0, chip := 0, stall := 255, frames := 0, version := 0, topo := 0, bundle := at_, members := 0, iv := [], digest := [], signKey := 0, wrapKey := 0 }, bundleNow := some at_ }) t)) ∧ k = 0 ∧ (isOn s dNMC = true ∧ u8 b 8 = s.fab.chip ∧ s.rst.safeHold = false ∧ k = u32 b 12 ∧ takesFromRoot s = false ∧ s.img.st = 1 ∧ s.img.source = 2 ∧ s.img.pos = 0))
    ∧ (∃ (s : State) (m : Bytes) (b : Bytes) (k : Nat) (at_ : BitVec 64) (first : State → State) (kept : State → State), b = (ctlOf m).body ∧ (∀ (t : State), kept t = modImg (fun i => { i with pos := k + 1 }) { t with nmc := { t.nmc with lake := setRange t.nmc.lake (25769803776 + 4096 * k) (slice b 32 4096) } }) ∧ (∀ (t : State), first t = kept (modImg (fun i => { i with hdr := { kind := 0, encrypted := false, member := true, advance := false, sections := 0, chip := 0, stall := 255, frames := 0, version := 0, topo := 0, bundle := at_, members := 0, iv := [], digest := [], signKey := 0, wrapKey := 0 }, bundleNow := some at_ }) t)) ∧ s.img.bundleNow = some at_ ∧ k = s.img.pos ∧ (isOn s dNMC = true ∧ u8 b 8 = s.fab.chip ∧ s.rst.safeHold = false ∧ k = u32 b 12 ∧ at_ = BitVec.ofNat 64 (u64 b 0) ∧ (k ≠ 0 ∨ s.img.pos ≠ 0) ∧ s.img.st = 1 ∧ s.img.source = 2 ∧ k < 1048576))
    ∧ (∃ (s : State) (m : Bytes) (b : Bytes) (k : Nat) (at_ : BitVec 64) (first : State → State) (kept : State → State), b = (ctlOf m).body ∧ k = u32 b 12 ∧ (∀ (t : State), kept t = modImg (fun i => { i with pos := k + 1 }) { t with nmc := { t.nmc with lake := setRange t.nmc.lake (25769803776 + 4096 * k) (slice b 32 4096) } }) ∧ (∀ (t : State), first t = kept (modImg (fun i => { i with hdr := { kind := 0, encrypted := false, member := true, advance := false, sections := 0, chip := 0, stall := 255, frames := 0, version := 0, topo := 0, bundle := at_, members := 0, iv := [], digest := [], signKey := 0, wrapKey := 0 }, bundleNow := some at_ }) t)) ∧ s.img.bundleNow = some at_ ∧ (isOn s dNMC = true ∧ u8 b 8 = s.fab.chip ∧ s.rst.safeHold = false ∧ at_ = BitVec.ofNat 64 (u64 b 0) ∧ (k ≠ 0 ∨ s.img.pos ≠ 0) ∧ s.img.st = 1 ∧ s.img.source = 2 ∧ (k ≠ s.img.pos ∨ 1048576 ≤ k)))
    ∧ (∃ (s : State) (m : Bytes) (b : Bytes) (k : Nat) (at_ : BitVec 64) (first : State → State) (kept : State → State), b = (ctlOf m).body ∧ k = u32 b 12 ∧ at_ = BitVec.ofNat 64 (u64 b 0) ∧ (∀ (t : State), kept t = modImg (fun i => { i with pos := k + 1 }) { t with nmc := { t.nmc with lake := setRange t.nmc.lake (25769803776 + 4096 * k) (slice b 32 4096) } }) ∧ (∀ (t : State), first t = kept (modImg (fun i => { i with hdr := { kind := 0, encrypted := false, member := true, advance := false, sections := 0, chip := 0, stall := 255, frames := 0, version := 0, topo := 0, bundle := at_, members := 0, iv := [], digest := [], signKey := 0, wrapKey := 0 }, bundleNow := some at_ }) t)) ∧ (isOn s dNMC = true ∧ u8 b 8 = s.fab.chip ∧ s.rst.safeHold = false ∧ (k ≠ 0 ∨ takesFromRoot s = false) ∧ (s.img.st ≠ 1 ∨ s.img.source ≠ 2 ∨ (k ≠ 0 ∨ s.img.pos ≠ 0) ∧ s.img.bundleNow ≠ some at_))) :=
  ⟨⟨withImg { st := 1, frames := [zeros 4096], hdr := { frames := 1, kind := 5 }, boot := true } (up), _, rfl, by decide +kernel⟩,
   ⟨withImg { st := 1, frames := [zeros 4096], hdr := { frames := 1, kind := 5 } } (up), _, rfl, by decide +kernel⟩,
   ⟨withImg { st := 1 } (up), by decide +kernel⟩,
   ⟨State.reset, by decide +kernel⟩,
   ⟨State.reset, by decide +kernel⟩,
   ⟨up, msgOf 0 (zeros 8 ++ [1]), by decide +kernel⟩,
   ⟨up, zeros 64, _, _, _, _, _, rfl, rfl, fun _ => rfl, fun _ => rfl, rfl, by decide +kernel⟩,
   ⟨withImg { st := 1, source := 2 } (up), zeros 64, _, _, _, _, _, rfl, rfl, fun _ => rfl, fun _ => rfl, rfl, by decide +kernel⟩,
   ⟨withImg { source := 2, st := 1, pos := 1, bundleNow := some 0 } (up), msgOf 0 [0, 0, 0, 0, 0, 0, 0, 0, 0, 0, 0, 0, 1], _, _, _, _, _, rfl, fun _ => rfl, fun _ => rfl, rfl, rfl, by decide +kernel⟩,
   ⟨withImg { source := 2, st := 1, pos := 1, bundleNow := some 0 } (up), zeros 64, _, _, _, _, _, rfl, rfl, fun _ => rfl, fun _ => rfl, rfl, by decide +kernel⟩,
   ⟨up, msgOf 0 [0, 0, 0, 0, 0, 0, 0, 0, 0, 0, 0, 0, 1], _, _, _, _, _, rfl, rfl, rfl, fun _ => rfl, fun _ => rfl, by decide +kernel⟩⟩

theorem witness_ImagesAreInstalledAndCommit_1 :
    (∃ (s : State), s.img.st = 2)
    ∧ (∃ (s : State), s.img.st ≠ 2)
    ∧ (∃ (s : State) (n : Nat), n < 32 ∧ draining s n = true ∧ bit (rd s rDrained) n = false ∧ stallEmpty s n = true ∧ isOn s dSEQ = true)
    ∧ (∃ (s : State) (n : Nat), n < 32 ∧ (draining s n = false ∨ bit (rd s rDrained) n = true ∨ stallEmpty s n = false ∨ isOn s dSEQ = false))
    ∧ (∃ (s : State), (isOn s dSEQ = false ∨ s.wks.dly.fired = []))
    ∧ (∃ (s : State) (e : DlyEntry) (rest : List DlyEntry) (n : Nat) (past : Nat → Prop), s.wks.dly.fired = e :: rest ∧ n = BitVec.toNat e.arg % 32 ∧ (∀ (k : ℕ), past k ↔ look s.img.drainAt k 0 ≠ 0 ∧ look s.img.drainAt k 0 ≤ s.ft + 1) ∧ (isOn s dSEQ = true ∧ e.kind = 7 ∧ (¬past n) ∧ (¬past (32 + n))))
    ∧ (∃ (s : State) (e : DlyEntry) (rest : List DlyEntry) (n : Nat) (past : Nat → Prop), s.wks.dly.fired = e :: rest ∧ n = BitVec.toNat e.arg % 32 ∧ (∀ (k : ℕ), past k ↔ look s.img.drainAt k 0 ≠ 0 ∧ look s.img.drainAt k 0 ≤ s.ft + 1) ∧ (isOn s dSEQ = true ∧ e.kind = 7 ∧ (past n ∨ past (32 + n))))
    ∧ (∃ (s : State), s.img.st ≠ 4)
    ∧ (∃ (s : State), s.img.st = 4 ∧ (writeStore s).img.hdr.member = false)
    ∧ (∃ (s : State), s.img.st = 4 ∧ (writeStore s).img.hdr.member = true)
    ∧ (∃ (s : State), (s.img.reloading = false ∨ s.img.st = 4 ∨ s.img.st = 5 ∨ isOn s dCCR = false ∨ (List.any s.cc.threads fun t => t.2.bulk.isSome) = true))
    ∧ (∃ (s : State), s.img.reloading = true ∧ s.img.st ≠ 4 ∧ s.img.st ≠ 5 ∧ isOn s dCCR = true ∧ ((List.any s.cc.threads fun t => t.2.bulk.isSome) = false) ∧ s.conf.firmware.isSome = true) :=
  ⟨⟨withImg { st := 2 } (up), by decide +kernel⟩,
   ⟨State.reset, by decide +kernel⟩,
   ⟨wr 0x60020 1 up, 0, by decide +kernel⟩,
   ⟨State.reset, 0, by decide +kernel⟩,
   ⟨State.reset, by decide +kernel⟩,
   ⟨modWks (fun w => { w with dly := { fired := [{ due := 0, kind := 7, arg := 0 }] } }) (up), _, _, _, _, rfl, rfl, fun _ => Iff.rfl, by decide +kernel⟩,
   ⟨withImg { drainAt := [(0, 1)] } (modWks (fun w => { w with dly := { fired := [{ due := 0, kind := 7, arg := 0 }] } }) (up)), _, _, _, _, rfl, rfl, fun _ => Iff.rfl, by decide +kernel⟩,
   ⟨State.reset, by decide +kernel⟩,
   ⟨withImg { st := 4 } (up), by decide +kernel⟩,
   ⟨withImg { st := 4, hdr := { member := true } } (up), by decide +kernel⟩,
   ⟨State.reset, by decide +kernel⟩,
   ⟨withImg { st := 6, reloading := true } (modDom 11 (fun x => { x with st := .on }) (withConf { firmware := some { version := 0, format := 0, code := 0, data := 0, entry := 0, lake := 0 } } (up))), by decide +kernel⟩⟩

theorem witness_ImagesAreInstalledAndCommit_2 :
    (∃ (s : State), s.img.reloading = true ∧ s.img.st ≠ 4 ∧ s.img.st ≠ 5 ∧ isOn s dCCR = true ∧ ((List.any s.cc.threads fun t => t.2.bulk.isSome) = false) ∧ s.conf.firmware.isSome = false)
    ∧ (∃ (s : State), isRoot s = true)
    ∧ (∃ (s : State), isRoot s = false)
    ∧ (∃ (s : State) (m : Bytes) (b : Bytes), b = (ctlOf m).body ∧ (s.img.st = 5 ∧ s.img.hdr.bundle = BitVec.ofNat 64 (u64 b 0) ∧ u64 b 8 < s.ft))
    ∧ (∃ (s : State) (m : Bytes) (b : Bytes), b = (ctlOf m).body ∧ (s.img.st = 5 ∧ s.img.hdr.bundle = BitVec.ofNat 64 (u64 b 0) ∧ s.ft ≤ u64 b 8))
    ∧ (∃ (s : State) (m : Bytes) (b : Bytes), b = (ctlOf m).body ∧ (s.img.st ≠ 5 ∨ s.img.hdr.bundle ≠ BitVec.ofNat 64 (u64 b 0)))
    ∧ (∃ (s : State) (t : Nat), s.img.armed = some t ∧ (s.img.st = 5 ∧ t ≤ s.ft))
    ∧ (∃ (s : State), (s.img.armed = none ∨ s.img.st ≠ 5 ∨ ∃ t, s.img.armed = some t ∧ s.ft < t))
    ∧ (∃ (s : State) (m : Bytes) (b : BitVec 64), s.img.hdr.bundle = b ∧ (b = BitVec.ofNat 64 (u64 (ctlOf m).body 0) ∧ s.img.hdr.member = true ∧ 1 ≤ s.img.st ∧ s.img.st ≤ 5))
    ∧ (∃ (s : State) (m : Bytes) (b : BitVec 64), b = BitVec.ofNat 64 (u64 (ctlOf m).body 0) ∧ (s.img.hdr.member = false ∨ s.img.hdr.bundle ≠ b ∨ s.img.st = 0 ∨ 5 < s.img.st))
    ∧ (∃ (s : State) (d : Nat) (t : Nat), s.img.firstReport = some t ∧ ((d = if 1 ≤ rdf s 393260 9 0 ∧ rdf s 393260 9 0 ≤ 1000 then rdf s 393260 9 0 else 10) ∧ isRoot s = true ∧ t + us (1000 * d) ≤ s.ft))
    ∧ (∃ (s : State) (d : Nat), (s.img.firstReport = none ∨ isRoot s = false ∨ ∃ t, s.img.firstReport = some t ∧ s.ft < t + us (1000 * d)) ∧ (d = if 1 ≤ rdf s 393260 9 0 ∧ rdf s 393260 9 0 ≤ 1000 then rdf s 393260 9 0 else 10)) :=
  ⟨⟨modDom 11 (fun x => { x with st := .on }) (withImg { st := 6, reloading := true } (up)), by decide +kernel⟩,
   ⟨rootUp, by decide +kernel⟩,
   ⟨State.reset, by decide +kernel⟩,
   ⟨withImg { st := 5 } (atFt 1 (up)), zeros 64, _, rfl, by decide +kernel⟩,
   ⟨withImg { st := 5 } (up), zeros 64, _, rfl, by decide +kernel⟩,
   ⟨State.reset, zeros 64, _, rfl, by decide +kernel⟩,
   ⟨withImg { st := 5, armed := some 0 } (up), _, rfl, by decide +kernel⟩,
   ⟨State.reset, .inl (by decide +kernel)⟩,
   ⟨withImg { st := 4, hdr := { member := true } } (up), zeros 64, _, rfl, by decide +kernel⟩,
   ⟨State.reset, zeros 64, _, rfl, by decide +kernel⟩,
   ⟨withImg { firstReport := some 0 } (wr 393260 1 (atFt 1600000 (rootUp))), 1, _, rfl, by decide +kernel⟩,
   ⟨State.reset, 10, .inl (by decide +kernel), by decide +kernel⟩⟩

theorem witness_SecmSessionsAndAnswers_1 :
    (∃ (s : State) (c : Nat) (i : Instr), (i = Instr.secmStatus c ∨ (∃ f, i = Instr.selftest c f) ∨ i = Instr.authChallenge c ∨ i = Instr.authResponse c ∨ i = Instr.logout c ∨ i = Instr.attest c ∨ i = Instr.random c ∨ i = Instr.provisionSlot c ∨ i = Instr.clearSlot c ∨ i = Instr.lcProvision c ∨ i = Instr.lcAdvance c ∨ i = Instr.ctrRaise c ∨ i = Instr.debugUnlock c ∨ i = Instr.zeroise c) ∧ (c < 2 ∧ (sess s c).busy = true))
    ∧ (∃ (s : State) (c : Nat) (i : Instr), (i = Instr.secmStatus c ∨ (∃ f, i = Instr.selftest c f) ∨ i = Instr.authChallenge c ∨ i = Instr.authResponse c ∨ i = Instr.logout c ∨ i = Instr.attest c ∨ i = Instr.random c ∨ i = Instr.provisionSlot c ∨ i = Instr.clearSlot c ∨ i = Instr.lcProvision c ∨ i = Instr.lcAdvance c ∨ i = Instr.ctrRaise c ∨ i = Instr.debugUnlock c ∨ i = Instr.zeroise c) ∧ (c < 2 ∧ (sess s c).busy = false ∧ s.secm.st = 2))
    ∧ (∃ (s : State) (c : Nat) (i : Instr), (i = Instr.secmStatus c ∨ (∃ f, i = Instr.selftest c f) ∨ i = Instr.authChallenge c ∨ i = Instr.authResponse c ∨ i = Instr.logout c ∨ i = Instr.attest c ∨ i = Instr.random c ∨ i = Instr.provisionSlot c ∨ i = Instr.clearSlot c ∨ i = Instr.lcProvision c ∨ i = Instr.lcAdvance c ∨ i = Instr.ctrRaise c ∨ i = Instr.debugUnlock c ∨ i = Instr.zeroise c) ∧ (c < 2 ∧ (sess s c).busy = false ∧ s.secm.st = 0))
    ∧ (∃ (s : State) (c : Nat) (i : Instr), (i = Instr.secmStatus c ∨ (∃ f, i = Instr.selftest c f) ∨ i = Instr.authChallenge c ∨ i = Instr.authResponse c ∨ i = Instr.logout c ∨ i = Instr.attest c ∨ i = Instr.random c ∨ i = Instr.provisionSlot c ∨ i = Instr.clearSlot c ∨ i = Instr.lcProvision c ∨ i = Instr.lcAdvance c ∨ i = Instr.ctrRaise c ∨ i = Instr.debugUnlock c ∨ i = Instr.zeroise c) ∧ (c < 2 ∧ (sess s c).busy = false ∧ s.secm.st = 3))
    ∧ (∃ (s : State) (c : Nat) (i : Instr), (i = Instr.secmStatus c ∨ (∃ f, i = Instr.selftest c f) ∨ i = Instr.authChallenge c ∨ i = Instr.authResponse c ∨ i = Instr.logout c ∨ i = Instr.attest c ∨ i = Instr.random c ∨ i = Instr.provisionSlot c ∨ i = Instr.clearSlot c ∨ i = Instr.lcProvision c ∨ i = Instr.lcAdvance c ∨ i = Instr.ctrRaise c ∨ i = Instr.debugUnlock c ∨ i = Instr.zeroise c) ∧ Listens s c ∧ (c < 2 ∧ (sess s c).role = 0 ∧ (i = Instr.logout c ∨ i = Instr.attest c ∨ i = Instr.random c)))
    ∧ (∃ (s : State) (c : Nat) (i : Instr), (i = Instr.secmStatus c ∨ (∃ f, i = Instr.selftest c f) ∨ i = Instr.authChallenge c ∨ i = Instr.authResponse c ∨ i = Instr.logout c ∨ i = Instr.attest c ∨ i = Instr.random c ∨ i = Instr.provisionSlot c ∨ i = Instr.clearSlot c ∨ i = Instr.lcProvision c ∨ i = Instr.lcAdvance c ∨ i = Instr.ctrRaise c ∨ i = Instr.debugUnlock c ∨ i = Instr.zeroise c) ∧ Listens s c ∧ (c < 2 ∧ (sess s c).role ≠ 2 ∧ (i = Instr.provisionSlot c ∨ i = Instr.clearSlot c ∨ i = Instr.lcAdvance c ∨ i = Instr.ctrRaise c ∨ i = Instr.debugUnlock c)))
    ∧ (∃ (s : State) (c : Nat), Listens s c ∧ c < 2)
    ∧ (∃ (s : State) (c : Nat) (t : Nat), Listens s c ∧ (c < 2 ∧ t < 256))
    ∧ (∃ (s : State) (c : Nat) (arg : Bytes) (id : Nat), Listens s c ∧ arg = secmArg (heard c s) c ∧ id = u8 arg 0 ∧ (c < 2 ∧ (4 ≤ id ∧ id < 16 ∨ 24 ≤ id)))
    ∧ (∃ (s : State) (c : Nat) (arg : Bytes) (id : Nat), Listens s c ∧ arg = secmArg (heard c s) c ∧ id = u8 arg 0 ∧ (c < 2 ∧ (id < 4 ∨ 16 ≤ id ∧ id < 24) ∧ s.secm.locked.contains id = true))
    ∧ (∃ (s : State) (c : Nat) (arg : Bytes) (id : Nat), Listens s c ∧ arg = secmArg (heard c s) c ∧ id = u8 arg 0 ∧ (c < 2 ∧ (id < 4 ∨ 16 ≤ id ∧ id < 24) ∧ s.secm.locked.contains id = false))
    ∧ (∃ (s : State) (c : Nat), Listens s c ∧ (c < 2 ∧ (sess s c).role ≠ 0)) :=
  ⟨⟨modSess 0 (fun _ => { busy := true }) (modSecm (fun x => { x with lc := 1 }) (up)), 0, Instr.secmStatus 0, by simp, by decide +kernel⟩,
   ⟨modSess 0 (fun _ => {  }) (modSecm (fun x => { x with lc := 1, st := 2 }) (up)), 0, Instr.secmStatus 0, by simp, by decide +kernel⟩,
   ⟨State.reset, 0, Instr.secmStatus 0, by simp, by decide +kernel⟩,
   ⟨modSess 0 (fun _ => {  }) (modSecm (fun x => { x with lc := 1, st := 3 }) (up)), 0, Instr.secmStatus 0, by simp, by decide +kernel⟩,
   ⟨up, 0, Instr.logout 0, by simp, by unfold Listens; decide +kernel, by decide +kernel⟩,
   ⟨up, 0, Instr.provisionSlot 0, by simp, by unfold Listens; decide +kernel, by decide +kernel⟩,
   ⟨up, 0, by unfold Listens; decide +kernel, by decide +kernel⟩,
   ⟨up, 0, 0, by unfold Listens; decide +kernel, by decide +kernel⟩,
   ⟨modSess 0 (fun _ => {  }) (modSecm (fun x => { x with lc := 1 }) (wr (0x40100 + 0) 4 (up))), 0, _, _, by unfold Listens; decide +kernel, rfl, rfl, by decide +kernel⟩,
   ⟨modSess 0 (fun _ => {  }) (modSecm (fun x => { x with lc := 1, locked := [0] }) (up)), 0, _, _, by unfold Listens; decide +kernel, rfl, rfl, by decide +kernel⟩,
   ⟨up, 0, _, _, by unfold Listens; decide +kernel, rfl, rfl, by decide +kernel⟩,
   ⟨modSess 0 (fun _ => { role := 1 }) (modSecm (fun x => { x with lc := 1 }) (up)), 0, by unfold Listens; decide +kernel, by decide +kernel⟩⟩

theorem witness_SecmSessionsAndAnswers_2 :
    (∃ (s : State) (c : Nat), c < 2 ∧ (sess s c).role ≠ 0 ∧ (sess s c).last + us 60000000 ≤ s.ft)
    ∧ (∃ (s : State) (c : Nat), c < 2 ∧ ((sess s c).role = 0 ∨ s.ft < (sess s c).last + us 60000000))
    ∧ (∃ (s : State) (c : Nat), Listens s c ∧ (c < 2 ∧ (sess s c).role ≠ 0 ∧ (s.secm.lc = 1 ∨ s.secm.lc = 15)))
    ∧ (∃ (s : State) (c : Nat), Listens s c ∧ (c < 2 ∧ (sess s c).role ≠ 0 ∧ s.secm.lc ≠ 1 ∧ s.secm.lc ≠ 15))
    ∧ (∃ (s : State) (c : Nat) (n : Nat), Listens s c ∧ n = u16 (secmArg (heard c s) c) 0 ∧ (c < 2 ∧ (sess s c).role ≠ 0 ∧ (n = 0 ∨ 512 < n)))
    ∧ (∃ (s : State) (c : Nat) (n : Nat), Listens s c ∧ n = u16 (secmArg (heard c s) c) 0 ∧ (c < 2 ∧ (sess s c).role ≠ 0 ∧ 1 ≤ n ∧ n ≤ 512))
    ∧ (∃ (s : State), s.secm.drbg = true ∧ (1048576 ≤ s.secm.requests ∨ s.secm.reseedAt + us 1000000 ≤ s.ft))
    ∧ (∃ (s : State), (s.secm.drbg = false ∨ s.secm.requests < 1048576 ∧ s.ft < s.secm.reseedAt + us 1000000))
    ∧ (∃ (s : State), s.secm.drbg = true)
    ∧ (∃ (s : State), s.secm.drbg = false) :=
  ⟨⟨atFt 96000000000000 (modSess 0 (fun _ => { role := 1 }) (modSecm (fun x => { x with lc := 1 }) (up))), 0, by decide +kernel⟩,
   ⟨State.reset, 0, by decide +kernel⟩,
   ⟨modSess 0 (fun _ => { role := 1 }) (modSecm (fun x => { x with lc := 1 }) (up)), 0, by unfold Listens; decide +kernel, by decide +kernel⟩,
   ⟨modSess 0 (fun _ => { role := 1 }) (modSecm (fun x => { x with lc := 3 }) (up)), 0, by unfold Listens; decide +kernel, by decide +kernel⟩,
   ⟨modSess 0 (fun _ => { role := 1 }) (modSecm (fun x => { x with lc := 1 }) (up)), 0, _, by unfold Listens; decide +kernel, rfl, by decide +kernel⟩,
   ⟨modSess 0 (fun _ => { role := 1 }) (modSecm (fun x => { x with lc := 1 }) (wr (0x40100 + 0) 1 (up))), 0, _, by unfold Listens; decide +kernel, rfl, by decide +kernel⟩,
   ⟨modSess 0 (fun _ => {  }) (modSecm (fun x => { x with lc := 1, drbg := true, requests := 1048576 }) (up)), by decide +kernel⟩,
   ⟨State.reset, by decide +kernel⟩,
   ⟨modSess 0 (fun _ => {  }) (modSecm (fun x => { x with lc := 1, drbg := true, requests := 1048576 }) (up)), by decide +kernel⟩,
   ⟨State.reset, by decide +kernel⟩⟩

theorem witness_SecmKeysAndLifecycle_1 :
    (∃ (s : State) (c : Nat), Listens s c ∧ (c < 2 ∧ s.secm.lc ≠ 1))
    ∧ (∃ (s : State) (c : Nat) (a : Bytes) (u : State), Listens s c ∧ u = heard c s ∧ a = secmArg u c ∧ (c < 2 ∧ s.secm.lc = 1 ∧ (u8 a 0 = 0 ∨ 4 < u8 a 0)))
    ∧ (∃ (s : State) (c : Nat) (a : Bytes) (u : State), Listens s c ∧ u = heard c s ∧ a = secmArg u c ∧ (c < 2 ∧ s.secm.lc = 1 ∧ 1 ≤ u8 a 0 ∧ u8 a 0 ≤ 4 ∧ 2 ≤ s.secm.banks.length))
    ∧ (∃ (s : State) (c : Nat) (a : Bytes) (u : State), Listens s c ∧ u = heard c s ∧ a = secmArg u c ∧ (c < 2 ∧ s.secm.lc = 1 ∧ 1 ≤ u8 a 0 ∧ u8 a 0 ≤ 4 ∧ s.secm.banks.length < 2))
    ∧ (∃ (s : State) (c : Nat), Listens s c ∧ c < 2)
    ∧ (∃ (s : State) (c : Nat), Listens s c ∧ (c < 2 ∧ (sess s c).role = 2 ∧ s.secm.lc ≠ 3 ∧ s.secm.lc ≠ 7))
    ∧ (∃ (s : State) (c : Nat) (a : Bytes) (u : State), Listens s c ∧ u = heard c s ∧ a = secmArg u c ∧ (c < 2 ∧ (sess s c).role = 2 ∧ (s.secm.lc = 3 ∨ s.secm.lc = 7) ∧ (2 < u8 a 0 ∨ 7 < u8 a 1 ∨ u8 a 0 = 0 ∧ u8 a 1 = 0)))
    ∧ (∃ (s : State) (c : Nat) (a : Bytes) (u : State), Listens s c ∧ u = heard c s ∧ a = secmArg u c ∧ (c < 2 ∧ (sess s c).role = 2 ∧ s.secm.lc = 7 ∧ u8 a 0 ≤ 2 ∧ u8 a 1 ≤ 7 ∧ (u8 a 0 ≠ 0 ∨ u8 a 1 ≠ 0) ∧ List.isEmpty (slotOfType s (u8 a 0) (u8 a 1)) = false))
    ∧ (∃ (s : State) (c : Nat) (a : Bytes) (u : State), Listens s c ∧ u = heard c s ∧ a = secmArg u c ∧ (c < 2 ∧ (sess s c).role = 2 ∧ (s.secm.lc = 3 ∨ s.secm.lc = 7 ∧ List.isEmpty (slotOfType s (u8 a 0) (u8 a 1)) = true) ∧ u8 a 0 ≤ 2 ∧ u8 a 1 ≤ 7 ∧ (u8 a 0 ≠ 0 ∨ u8 a 1 ≠ 0)))
    ∧ (∃ (s : State) (c : Nat) (a : Bytes) (u : State), Listens s c ∧ u = heard c s ∧ a = secmArg u c ∧ (c < 2 ∧ (sess s c).role = 2 ∧ (2 < u8 a 0 ∨ 7 < u8 a 1 ∨ u8 a 0 = 0 ∧ u8 a 1 = 0)))
    ∧ (∃ (s : State) (c : Nat) (a : Bytes) (u : State), Listens s c ∧ u = heard c s ∧ a = secmArg u c ∧ (c < 2 ∧ (sess s c).role = 2 ∧ u8 a 0 ≤ 2 ∧ u8 a 1 ≤ 7 ∧ (u8 a 0 ≠ 0 ∨ u8 a 1 ≠ 0)))
    ∧ (∃ (s : State) (c : Nat) (a : Bytes) (u : State), Listens s c ∧ u = heard c s ∧ a = secmArg u c ∧ (c < 2 ∧ (sess s c).role = 2 ∧ s.secm.lc = 3 ∧ u8 a 0 = 7)) :=
  ⟨⟨modSess 0 (fun _ => {  }) (modSecm (fun x => { x with lc := 3 }) (up)), 0, by unfold Listens; decide +kernel, by decide +kernel⟩,
   ⟨up, 0, _, _, by unfold Listens; decide +kernel, rfl, rfl, by decide +kernel⟩,
   ⟨modSess 0 (fun _ => {  }) (modSecm (fun x => { x with lc := 1, banks := [([], true), ([], true)] }) (wr (0x40100 + 0) 1 (up))), 0, _, _, by unfold Listens; decide +kernel, rfl, rfl, by decide +kernel⟩,
   ⟨modSess 0 (fun _ => {  }) (modSecm (fun x => { x with lc := 1 }) (wr (0x40100 + 0) 1 (up))), 0, _, _, by unfold Listens; decide +kernel, rfl, rfl, by decide +kernel⟩,
   ⟨up, 0, by unfold Listens; decide +kernel, by decide +kernel⟩,
   ⟨modSess 0 (fun _ => { role := 2 }) (modSecm (fun x => { x with lc := 1 }) (up)), 0, by unfold Listens; decide +kernel, by decide +kernel⟩,
   ⟨modSess 0 (fun _ => { role := 2 }) (modSecm (fun x => { x with lc := 3 }) (up)), 0, _, _, by unfold Listens; decide +kernel, rfl, rfl, by decide +kernel⟩,
   ⟨modSess 0 (fun _ => { role := 2 }) (modSecm (fun x => { x with lc := 7, sign := [(1, [1])] }) (wr (0x40100 + 0) 256 (up))), 0, _, _, by unfold Listens; decide +kernel, rfl, rfl, by decide +kernel⟩,
   ⟨modSess 0 (fun _ => { role := 2 }) (modSecm (fun x => { x with lc := 3 }) (wr (0x40100 + 0) 256 (up))), 0, _, _, by unfold Listens; decide +kernel, rfl, rfl, by decide +kernel⟩,
   ⟨modSess 0 (fun _ => { role := 2 }) (modSecm (fun x => { x with lc := 1 }) (up)), 0, _, _, by unfold Listens; decide +kernel, rfl, rfl, by decide +kernel⟩,
   ⟨modSess 0 (fun _ => { role := 2 }) (modSecm (fun x => { x with lc := 3 }) (wr (0x40100 + 0) 256 (up))), 0, _, _, by unfold Listens; decide +kernel, rfl, rfl, by decide +kernel⟩,
   ⟨modSess 0 (fun _ => { role := 2 }) (modSecm (fun x => { x with lc := 3 }) (wr (0x40100 + 0) 7 (up))), 0, _, _, by unfold Listens; decide +kernel, rfl, rfl, by decide +kernel⟩⟩

theorem witness_SecmKeysAndLifecycle_2 :
    (∃ (s : State) (c : Nat) (a : Bytes) (u : State), Listens s c ∧ u = heard c s ∧ a = secmArg u c ∧ (c < 2 ∧ (sess s c).role = 2 ∧ (s.secm.lc = 3 ∨ s.secm.lc = 7) ∧ u8 a 0 = 15))
    ∧ (∃ (s : State) (c : Nat) (a : Bytes) (u : State), Listens s c ∧ u = heard c s ∧ a = secmArg u c ∧ (c < 2 ∧ (sess s c).role = 2 ∧ s.secm.lc = 3 ∧ u8 a 0 ≠ 7 ∧ u8 a 0 ≠ 15))
    ∧ (∃ (s : State) (c : Nat) (a : Bytes) (u : State), Listens s c ∧ u = heard c s ∧ a = secmArg u c ∧ (c < 2 ∧ (sess s c).role = 2 ∧ s.secm.lc = 7 ∧ u8 a 0 ≠ 15))
    ∧ (∃ (s : State) (c : Nat) (a : Bytes) (u : State), Listens s c ∧ u = heard c s ∧ a = secmArg u c ∧ (c < 2 ∧ (sess s c).role = 2 ∧ (u8 a 0 = 0 ∨ 5 < u8 a 0)))
    ∧ (∃ (s : State) (c : Nat) (a : Bytes) (u : State) (k : Nat), Listens s c ∧ u = heard c s ∧ a = secmArg u c ∧ k = u8 a 0 - 1 ∧ (c < 2 ∧ (sess s c).role = 2 ∧ 1 ≤ u8 a 0 ∧ u8 a 0 ≤ 5 ∧ u32 a 4 ≤ look s.secm.ctr k 0))
    ∧ (∃ (s : State) (c : Nat) (a : Bytes) (u : State) (k : Nat), Listens s c ∧ u = heard c s ∧ a = secmArg u c ∧ k = u8 a 0 - 1 ∧ (c < 2 ∧ (sess s c).role = 2 ∧ 1 ≤ u8 a 0 ∧ u8 a 0 ≤ 5 ∧ look s.secm.ctr k 0 < u32 a 4 ∧ 4096 ≤ look s.secm.ctrUse k 0))
    ∧ (∃ (s : State) (c : Nat) (a : Bytes) (u : State) (k : Nat), Listens s c ∧ u = heard c s ∧ a = secmArg u c ∧ k = u8 a 0 - 1 ∧ (c < 2 ∧ (sess s c).role = 2 ∧ 1 ≤ u8 a 0 ∧ u8 a 0 ≤ 5 ∧ look s.secm.ctr k 0 < u32 a 4 ∧ look s.secm.ctrUse k 0 < 4096))
    ∧ (∃ (s : State) (c : Nat), Listens s c ∧ (c < 2 ∧ (sess s c).role = 2 ∧ s.secm.lc = 7))
    ∧ (∃ (s : State) (c : Nat), Listens s c ∧ (c < 2 ∧ (sess s c).role = 2 ∧ s.secm.lc ≠ 7)) :=
  ⟨⟨modSess 0 (fun _ => { role := 2 }) (modSecm (fun x => { x with lc := 3 }) (wr (0x40100 + 0) 15 (up))), 0, _, _, by unfold Listens; decide +kernel, rfl, rfl, by decide +kernel⟩,
   ⟨modSess 0 (fun _ => { role := 2 }) (modSecm (fun x => { x with lc := 3 }) (up)), 0, _, _, by unfold Listens; decide +kernel, rfl, rfl, by decide +kernel⟩,
   ⟨modSess 0 (fun _ => { role := 2 }) (modSecm (fun x => { x with lc := 7 }) (up)), 0, _, _, by unfold Listens; decide +kernel, rfl, rfl, by decide +kernel⟩,
   ⟨modSess 0 (fun _ => { role := 2 }) (modSecm (fun x => { x with lc := 1 }) (up)), 0, _, _, by unfold Listens; decide +kernel, rfl, rfl, by decide +kernel⟩,
   ⟨modSess 0 (fun _ => { role := 2 }) (modSecm (fun x => { x with lc := 3 }) (wr (0x40100 + 0) 1 (up))), 0, _, _, _, by unfold Listens; decide +kernel, rfl, rfl, rfl, by decide +kernel⟩,
   ⟨modSess 0 (fun _ => { role := 2 }) (modSecm (fun x => { x with lc := 7, ctrUse := [(0, 4096)] }) (wr (0x40100 + 4) 1 (wr (0x40100 + 0) 1 (up)))), 0, _, _, _, by unfold Listens; decide +kernel, rfl, rfl, rfl, by decide +kernel⟩,
   ⟨modSess 0 (fun _ => { role := 2 }) (modSecm (fun x => { x with lc := 7 }) (wr (0x40100 + 4) 1 (wr (0x40100 + 0) 1 (up)))), 0, _, _, _, by unfold Listens; decide +kernel, rfl, rfl, rfl, by decide +kernel⟩,
   ⟨modSess 0 (fun _ => { role := 2 }) (modSecm (fun x => { x with lc := 7 }) (up)), 0, by unfold Listens; decide +kernel, by decide +kernel⟩,
   ⟨modSess 0 (fun _ => { role := 2 }) (modSecm (fun x => { x with lc := 1 }) (up)), 0, by unfold Listens; decide +kernel, by decide +kernel⟩⟩

theorem witness_TamperAndErase :
    (∃ (s : State) (k : Nat), k < 8 ∧ (k = 0 ∨ k = 7 ∨ k = 5 ∧ bit (rd s 262216) 0 = false))
    ∧ (∃ (k : Nat), k = 6 ∧ k < 8)
    ∧ (∃ (s : State) (k : Nat), k < 8 ∧ 1 ≤ k ∧ (k ≤ 4 ∨ k = 5 ∧ bit (rd s 262216) 0 = true))
    ∧ (∃ (t : Nat), t < 256)
    ∧ (∃ (s : State) (t : Nat) (u : State), u = logC 5122 [t] s ∧ (t < 256 ∧ u.secm.st = 0 ∧ bit u.rst.causes.toNat 10 = true ∧ u.secm.tamperCause = 6))
    ∧ (∃ (s : State) (t : Nat) (u : State), u = logC 5122 [t] s ∧ (t < 256 ∧ (u.secm.st ≠ 0 ∨ bit u.rst.causes.toNat 10 = false ∨ u.secm.tamperCause ≠ 6)))
    ∧ (∃ (s : State), (s.secm.erasing = none ∨ s.rst.nvUntil.isSome = true))
    ∧ (∃ (s : State) (u : State) (v : State), (u = modSecm (fun m => { m with st := 1, wrap := [], user := [], erasing := none, erasePending := false, after := none }) s) ∧ (s.secm.after = none ∧ v = u ∨ (∃ c, s.secm.after = some (2, c) ∧ v = secmEnd c 0 (logC 5128 [15] (nvPulse u (modSecm (fun m => { m with lc := 15, hukGone := true }) u)))) ∨ (∃ c, s.secm.after = some (3, c) ∧ v = secmEnd c 0 (openDebug u)) ∨ ∃ w c, s.secm.after = some (w, c) ∧ w ≠ 2 ∧ w ≠ 3 ∧ v = secmEnd c 0 u) ∧ (s.secm.erasing.isSome = true ∧ s.rst.nvUntil = none ∧ v.secm.tamperWait = none))
    ∧ (∃ (s : State) (u : State) (v : State) (k : Nat) (w : State), (u = modSecm (fun m => { m with st := 1, wrap := [], user := [], erasing := none, erasePending := false, after := none }) s) ∧ (s.secm.after = none ∧ v = u ∨ (∃ c, s.secm.after = some (2, c) ∧ v = secmEnd c 0 (logC 5128 [15] (nvPulse u (modSecm (fun m => { m with lc := 15, hukGone := true }) u)))) ∨ (∃ c, s.secm.after = some (3, c) ∧ v = secmEnd c 0 (openDebug u)) ∨ ∃ w c, s.secm.after = some (w, c) ∧ w ≠ 2 ∧ w ≠ 3 ∧ v = secmEnd c 0 u) ∧ v.secm.tamperWait = some k ∧ (w = modSecm (fun m => { m with tamperWait := none }) v) ∧ (s.secm.erasing.isSome = true ∧ s.rst.nvUntil = none ∧ bit w.rst.nvHeld.toNat 10 = true ∧ w.rst.nvUntil = none))
    ∧ (∃ (s : State) (u : State) (v : State) (k : Nat) (w : State), (u = modSecm (fun m => { m with st := 1, wrap := [], user := [], erasing := none, erasePending := false, after := none }) s) ∧ (s.secm.after = none ∧ v = u ∨ (∃ c, s.secm.after = some (2, c) ∧ v = secmEnd c 0 (logC 5128 [15] (nvPulse u (modSecm (fun m => { m with lc := 15, hukGone := true }) u)))) ∨ (∃ c, s.secm.after = some (3, c) ∧ v = secmEnd c 0 (openDebug u)) ∨ ∃ w c, s.secm.after = some (w, c) ∧ w ≠ 2 ∧ w ≠ 3 ∧ v = secmEnd c 0 u) ∧ v.secm.tamperWait = some k ∧ (w = modSecm (fun m => { m with tamperWait := none }) v) ∧ (s.secm.erasing.isSome = true ∧ s.rst.nvUntil = none ∧ (bit w.rst.nvHeld.toNat 10 = false ∨ w.rst.nvUntil.isSome = true))) :=
  ⟨⟨State.reset, 0, by decide +kernel⟩,
   ⟨_, rfl, by decide +kernel⟩,
   ⟨State.reset, 1, by decide +kernel⟩,
   ⟨0, by decide +kernel⟩,
   ⟨modRst (fun r => { r with causes := 0x400 }) ((fun s : State => { s with secm := { st := 0, tamperCause := 6 } }) up), 0, _, rfl, by decide +kernel⟩,
   ⟨State.reset, 0, _, rfl, by decide +kernel⟩,
   ⟨State.reset, by decide +kernel⟩,
   ⟨modSecm (fun x => { x with erasing := some 0 }) up, _, _, rfl, .inl ⟨by decide +kernel, rfl⟩, by decide +kernel⟩,
   ⟨modRst (fun r => { r with nvHeld := 0x400 }) (modSecm (fun x => { x with erasing := some 0, tamperWait := some 6 }) up), _, _, _, _, rfl, .inl ⟨by decide +kernel, rfl⟩, rfl, rfl, by decide +kernel⟩,
   ⟨modSecm (fun x => { x with erasing := some 0, tamperWait := some 6 }) up, _, _, _, _, rfl, .inl ⟨by decide +kernel, rfl⟩, rfl, rfl, by decide +kernel⟩⟩

theorem witness_HaltAndTroubleLog :
    (∃ (s : State) (v : Word) (t : State) (m : Nat), t = wr rHaltEn (BitVec.toNat v % 2 ^ 24 ||| 67) s ∧ m = 0 ∧ m = rd t rHaltEn % 256 - (rd t rHaltEn &&& rd s rHaltEn) % 256 &&& haltInForce t)
    ∧ (∃ (s : State) (v : Word) (t : State) (m : Nat), t = wr rHaltEn (BitVec.toNat v % 2 ^ 24 ||| 67) s ∧ m = rd t rHaltEn % 256 - (rd t rHaltEn &&& rd s rHaltEn) % 256 &&& haltInForce t ∧ m ≠ 0)
    ∧ (∃ (s : State), haltInForce s &&& rd s rHaltEn % 256 = 0 ∧ s.img.st = 6)
    ∧ (∃ (s : State), (s.img.st ≠ 6 ∨ haltInForce s &&& rd s rHaltEn % 256 ≠ 0))
    ∧ (∃ (s : State) (v : Word) (k : Nat), k = (BitVec.toNat v % 2048 + 2048 - s.log.head) % 2048 ∧ k ≤ s.log.unread)
    ∧ (∃ (s : State) (v : Word) (k : Nat), k = (BitVec.toNat v % 2048 + 2048 - s.log.head) % 2048 ∧ s.log.unread < k)
    ∧ (∃ (s : State), s.log.frozen = true)
    ∧ (∃ (s : State), s.log.frozen = false) :=
  ⟨⟨State.reset, 0, _, _, rfl, rfl, by decide +kernel⟩,
   ⟨withLog { frozen := true } (up), 2047, _, _, rfl, rfl, by decide +kernel⟩,
   ⟨withImg { st := 6 } (up), by decide +kernel⟩,
   ⟨State.reset, by decide +kernel⟩,
   ⟨State.reset, 0, _, rfl, by decide +kernel⟩,
   ⟨State.reset, 2047, _, rfl, by decide +kernel⟩,
   ⟨withLog { frozen := true } (up), by decide +kernel⟩,
   ⟨State.reset, by decide +kernel⟩⟩

theorem witness_RegisterAccessesWaitOrTakePlace :
    (∃ (s : State) (src : Src) (off : Nat) (w : Option Word) (i : Instr), (i = Instr.registerAccessWake src off w ∨ i = Instr.registerAccessOff src off w ∨ ∃ v, w = some v ∧ i = Instr.registerWrite src off v) ∧ (offOk src off = true ∧ off % 4 = 0 ∧ src ≠ Src.cc ∧ s.spg.l1 = true))
    ∧ (∃ (s : State) (src : Src) (off : Nat) (w : Option Word) (o : Nat) (i : Instr), o = pfOffset src off ∧ (i = Instr.registerAccessWake src off w ∨ i = Instr.registerAccessOff src off w ∨ ∃ v, w = some v ∧ i = Instr.registerWrite src off v) ∧ (offOk src off = true ∧ off % 4 = 0 ∧ (src = Src.cc ∨ s.spg.l1 = false) ∧ domOf o = none))
    ∧ (∃ (s : State) (src : Src) (off : Nat) (w : Option Word) (o : Nat) (i : Instr) (d : Nat), o = pfOffset src off ∧ (i = Instr.registerAccessWake src off w ∨ i = Instr.registerAccessOff src off w ∨ ∃ v, w = some v ∧ i = Instr.registerWrite src off v) ∧ domOf o = some d ∧ (offOk src off = true ∧ off % 4 = 0 ∧ (src = Src.cc ∨ s.spg.l1 = false) ∧ isOn s d = true))
    ∧ (∃ (s : State) (src : Src) (off : Nat) (w : Option Word) (o : Nat) (i : Instr) (d : Nat), o = pfOffset src off ∧ (i = Instr.registerAccessWake src off w ∨ i = Instr.registerAccessOff src off w ∨ ∃ v, w = some v ∧ i = Instr.registerWrite src off v) ∧ domOf o = some d ∧ (offOk src off = true ∧ off % 4 = 0 ∧ (src = Src.cc ∨ s.spg.l1 = false) ∧ isOn s d = false ∧ (dom s d).st = PState.off ∧ (dom s d).done = none ∧ w.isSome = true))
    ∧ (∃ (s : State) (src : Src) (off : Nat) (w : Option Word) (o : Nat) (i : Instr) (d : Nat), o = pfOffset src off ∧ (i = Instr.registerAccessWake src off w ∨ i = Instr.registerAccessOff src off w ∨ ∃ v, w = some v ∧ i = Instr.registerWrite src off v) ∧ domOf o = some d ∧ w = none ∧ (offOk src off = true ∧ off % 4 = 0 ∧ (src = Src.cc ∨ s.spg.l1 = false) ∧ isOn s d = false ∧ (dom s d).st = PState.off ∧ (dom s d).done = none))
    ∧ (∃ (s : State) (src : Src) (off : Nat) (w : Option Word) (o : Nat) (i : Instr) (d : Nat), o = pfOffset src off ∧ (i = Instr.registerAccessWake src off w ∨ i = Instr.registerAccessOff src off w ∨ ∃ v, w = some v ∧ i = Instr.registerWrite src off v) ∧ domOf o = some d ∧ (offOk src off = true ∧ off % 4 = 0 ∧ (src = Src.cc ∨ s.spg.l1 = false) ∧ isOn s d = false ∧ ((dom s d).st ≠ PState.off ∨ (dom s d).done.isSome = true)))
    ∧ (∃ (s : State) (src : Src) (off : Nat) (n : Nat), offOk src off = true ∧ (decodedOff src off = false ∨ n ≠ 4 ∨ off % 4 ≠ 0) ∧ (src = Src.cc ∨ s.spg.l1 = false))
    ∧ (∃ (s : State) (src : Src) (off : Nat) (n : Nat), offOk src off = true ∧ (decodedOff src off = false ∨ n ≠ 4 ∨ off % 4 ≠ 0) ∧ src ≠ Src.cc ∧ s.spg.l1 = true)
    ∧ (∃ (src : Src) (off : Nat), offOk src off = true ∧ decodedOff src off = true ∧ off % 4 = 0) :=
  ⟨⟨(fun s : State => { s with spg := { s.spg with l1 := true } }) up, Sys2Proof.Src.pf, 0, none, Instr.registerAccessWake .pf 0 none, by simp, by decide +kernel⟩,
   ⟨State.reset, Sys2Proof.Src.pf, 0, none, _, Instr.registerAccessWake .pf 0 none, rfl, by simp, by decide +kernel⟩,
   ⟨up, Sys2Proof.Src.pf, 0x130000, none, _, Instr.registerAccessWake .pf 0x130000 none, _, rfl, by simp, rfl, by decide +kernel⟩,
   ⟨State.reset, Sys2Proof.Src.pf, 0x130000, some 0, _, Instr.registerAccessWake .pf 0x130000 (some 0), _, rfl, by simp, rfl, by decide +kernel⟩,
   ⟨State.reset, Sys2Proof.Src.pf, 0x130000, _, _, Instr.registerAccessWake .pf 0x130000 none, _, rfl, by simp, rfl, rfl, by decide +kernel⟩,
   ⟨modDom 6 (fun x => { x with st := .ret }) up, Sys2Proof.Src.pf, 0x130000, none, _, Instr.registerAccessWake .pf 0x130000 none, _, rfl, by simp, rfl, by decide +kernel⟩,
   ⟨State.reset, Sys2Proof.Src.pf, 0, 0, by decide +kernel⟩,
   ⟨(fun s : State => { s with spg := { s.spg with l1 := true } }) up, Sys2Proof.Src.pf, 0, 0, by decide +kernel⟩,
   ⟨Sys2Proof.Src.pf, 0, by decide +kernel⟩⟩

theorem witness_RegisterBitsFollowTheirCodes :
    (∃ (s : State) (o : Nat) (r : RegSpec) (b : Nat), regAt o = some r ∧ (smapWf regReset s.regs = true ∧ b < 32))
    ∧ (∃ (o : Nat), regAt o = none)
    ∧ (∃ (o : Nat) (p : Nat), p ≠ o)
    ∧ (∃ (o : Nat) (b : Nat), (¬(16 ≤ o / 65536 ∧ o / 65536 < 20)) ∧ (¬(32 ≤ o / 65536 ∧ o / 65536 < 40)) ∧ (readMask o).testBit b = false) :=
  ⟨⟨State.reset, 0, _, 0, rfl, by decide +kernel⟩,
   ⟨2, by decide +kernel⟩,
   ⟨0, 1, by decide +kernel⟩,
   ⟨0x90004, 31, by decide +kernel⟩⟩

theorem witness_PondWindowReadsAndWrites :
    (∃ (s : State) (a : Nat) (d : Bytes), 1 ≤ List.length d ∧ List.length d ≤ 256 ∧ a + List.length d ≤ 2 ^ 27 ∧ s.spg.l1 = true)
    ∧ (∃ (s : State) (a : Nat) (d : Bytes) (h : Nat), sleepingHalf s a (List.length d) = some h ∧ (1 ≤ List.length d ∧ List.length d ≤ 256 ∧ a + List.length d ≤ 2 ^ 27 ∧ s.spg.l1 = false))
    ∧ (∃ (s : State) (a : Nat) (d : Bytes), 1 ≤ List.length d ∧ List.length d ≤ 256 ∧ a + List.length d ≤ 2 ^ 27 ∧ s.spg.l1 = false ∧ sleepingHalf s a (List.length d) = none ∧ Memory.wf s.pond = true)
    ∧ (∃ (s : State) (a : Nat) (n : Nat), 1 ≤ n ∧ n ≤ 256 ∧ a + n ≤ 2 ^ 27 ∧ s.spg.l1 = true)
    ∧ (∃ (s : State) (a : Nat) (n : Nat) (h : Nat), sleepingHalf s a n = some h ∧ (1 ≤ n ∧ n ≤ 256 ∧ a + n ≤ 2 ^ 27 ∧ s.spg.l1 = false))
    ∧ (∃ (s : State) (a : Nat) (n : Nat), 1 ≤ n ∧ n ≤ 256 ∧ a + n ≤ 2 ^ 27 ∧ s.spg.l1 = false ∧ sleepingHalf s a n = none) :=
  ⟨⟨(fun s : State => { s with spg := { s.spg with l1 := true } }) up, 0, zeros 1, by decide +kernel⟩,
   ⟨modDom 4 (fun x => { x with st := .ret }) up, 0, zeros 1, _, rfl, by decide +kernel⟩,
   ⟨State.reset, 0, zeros 1, by decide +kernel⟩,
   ⟨(fun s : State => { s with spg := { s.spg with l1 := true } }) up, 0, 1, by decide +kernel⟩,
   ⟨modDom 4 (fun x => { x with st := .ret }) up, 0, 1, _, rfl, by decide +kernel⟩,
   ⟨State.reset, 0, 1, by decide +kernel⟩⟩

theorem witness_PcieLinkChangesAndSleeps :
    (∃ (s : State) (w : Nat) (r : Nat), w % 16 = rdf s rHlkLink 3 0 ∧ r % 8 = rdf s rHlkLink 6 4)
    ∧ (∃ (s : State) (w : Nat) (r : Nat), (w % 16 ≠ rdf s rHlkLink 3 0 ∨ r % 8 ≠ rdf s rHlkLink 6 4))
    ∧ (∃ (s : State), s.spg.l1 = false ∧ s.spg.lastTlp + 102400 ≤ s.ft)
    ∧ (∃ (s : State), (s.spg.l1 = true ∨ s.ft < s.spg.lastTlp + 102400))
    ∧ (∃ (s : State), s.spg.l1 = true)
    ∧ (∃ (s : State), s.spg.l1 = false)
    ∧ (∃ (src : Src), srcOk src = true) :=
  ⟨⟨State.reset, 0, 0, by decide +kernel⟩,
   ⟨State.reset, 0, 1, by decide +kernel⟩,
   ⟨atFt 102400 (up), by decide +kernel⟩,
   ⟨State.reset, by decide +kernel⟩,
   ⟨(fun s : State => { s with spg := { s.spg with l1 := true } }) up, by decide +kernel⟩,
   ⟨State.reset, by decide +kernel⟩,
   ⟨Sys2Proof.Src.pf, by decide +kernel⟩⟩

theorem witness_SmbusAndBoundaryScan :
    ∃ (i : Bool → Instr) (d : State → Bytes), (i = .smbSerial ∧ d = serialData) ∨ (i = .smbFt ∧ d = ftData) :=
  ⟨_, _, .inl ⟨rfl, rfl⟩⟩

theorem witness_ResetSourcesAreTaken_1 :
    (∃ (s : State), s.straps.hosten = true)
    ∧ (∃ (s : State), s.straps.hosten = false)
    ∧ (∃ (s : State), s.rst.wdtAt = none)
    ∧ (∃ (s : State) (t : Nat), s.rst.wdtAt = some t ∧ t + us (rdf s rWdt 15 0) ≤ s.ft)
    ∧ (∃ (s : State) (t : Nat), s.rst.wdtAt = some t ∧ s.ft < t + us (rdf s rWdt 15 0))
    ∧ (∃ (v : Word), bit (BitVec.toNat v) 31 = false)
    ∧ (∃ (s : State) (v : Word) (n : Nat) (u : State), n = BitVec.toNat v % 256 ∧ (u = if bit (BitVec.toNat v) 30 = true then clrBit 65568 30 (wrf 65568 7 0 n s) else wrf 65568 7 0 n s) ∧ (bit (BitVec.toNat v) 31 = true ∧ isRoot u = false))
    ∧ (∃ (s : State) (v : Word) (n : Nat) (u : State), n = BitVec.toNat v % 256 ∧ (u = if bit (BitVec.toNat v) 30 = true then clrBit 65568 30 (wrf 65568 7 0 n s) else wrf 65568 7 0 n s) ∧ (bit (BitVec.toNat v) 31 = true ∧ isRoot u = true ∧ chipRec u n = none))
    ∧ (∃ (s : State) (v : Word) (n : Nat) (u : State) (c : ChipRec), n = BitVec.toNat v % 256 ∧ (u = if bit (BitVec.toNat v) 30 = true then clrBit 65568 30 (wrf 65568 7 0 n s) else wrf 65568 7 0 n s) ∧ chipRec u n = some c ∧ (bit (BitVec.toNat v) 31 = true ∧ isRoot u = true ∧ c.serial = u.serial))
    ∧ (∃ (s : State) (v : Word) (n : Nat) (u : State) (c : ChipRec), n = BitVec.toNat v % 256 ∧ (u = if bit (BitVec.toNat v) 30 = true then clrBit 65568 30 (wrf 65568 7 0 n s) else wrf 65568 7 0 n s) ∧ chipRec u n = some c ∧ (bit (BitVec.toNat v) 31 = true ∧ isRoot u = true ∧ c.serial ≠ u.serial))
    ∧ (∃ (s : State) (m : Bytes) (b : Bytes), b = (ctlOf m).body ∧ (u8 b 0 = s.fab.chip ∧ u64 b 8 = BitVec.toNat s.serial))
    ∧ (∃ (s : State) (m : Bytes) (b : Bytes), b = (ctlOf m).body ∧ (u8 b 0 ≠ s.fab.chip ∨ u64 b 8 ≠ BitVec.toNat s.serial)) :=
  ⟨⟨{ up with straps := { up.straps with hosten := true } }, by decide +kernel⟩,
   ⟨State.reset, by decide +kernel⟩,
   ⟨State.reset, by decide +kernel⟩,
   ⟨modRst (fun r => { r with wdtAt := some 0 }) (up), _, rfl, by decide +kernel⟩,
   ⟨modRst (fun r => { r with wdtAt := some 0 }) (wr rWdt 1 up), _, rfl, by decide +kernel⟩,
   ⟨0, by decide +kernel⟩,
   ⟨State.reset, 0x80000000, _, _, rfl, rfl, by decide +kernel⟩,
   ⟨rootUp, 0x80000000, _, _, rfl, rfl, by decide +kernel⟩,
   ⟨modFab (fun f => { f with chips := [{ serial := 1, path := [], pathLen := 0, strapCid := 0, links := [] }] }) { rootUp with serial := 1 }, 0x80000000, _, _, _, rfl, rfl, rfl, by decide +kernel⟩,
   ⟨modFab (fun f => { f with chips := [{ serial := 1, path := [], pathLen := 0, strapCid := 0, links := [] }] }) rootUp, 0x80000000, _, _, _, rfl, rfl, rfl, by decide +kernel⟩,
   ⟨State.reset, zeros 64, _, rfl, by decide +kernel⟩,
   ⟨State.reset, msgOf 0 [1], _, rfl, by decide +kernel⟩⟩

theorem witness_ResetSourcesAreTaken_2 :
    (∃ (s : State) (c : Src), srcOk c = true ∧ (c ≠ Src.pf ∨ s.rst.safeHold = false))
    ∧ (∃ (s : State) (c : Src), srcOk c = true ∧ s.rst.safeHold = true) :=
  ⟨⟨State.reset, Sys2Proof.Src.pf, by decide +kernel⟩,
   ⟨modRst (fun r => { r with safeHold := true }) (up), Sys2Proof.Src.pf, by decide +kernel⟩⟩

theorem witness_ResetsJoinWaitAndEnd_1 :
    (∃ (s : State) (n : Nat) (u : State) (tell : Nat → State → State), (n ≠ 0 → u = haltRaise 1 (modRst (fun r => { r with block := none, blockDom := none }) s)) ∧ (∀ (b : ℕ) (t : State), tell b t = if n = 0 then t else announceReset b t) ∧ (n < 12 ∧ (n = 0 → u = modRst (fun r => { r with block := none, blockDom := none }) s) ∧ n ≠ 0 ∧ s.rst.nvUntil.isSome = true))
    ∧ (∃ (s : State) (n : Nat) (u : State) (tell : Nat → State → State) (b : Nat), (n = 0 → u = modRst (fun r => { r with block := none, blockDom := none }) s) ∧ (∀ (b : ℕ) (t : State), tell b t = if n = 0 then t else announceReset b t) ∧ b = s.rst.causes.toNat ||| 2 ^ n ∧ (n < 12 ∧ (n ≠ 0 → u = haltRaise 1 (modRst (fun r => { r with block := none, blockDom := none }) s)) ∧ (n = 0 ∨ s.rst.nvUntil = none) ∧ inReset s = true))
    ∧ (∃ (s : State) (n : Nat) (u : State) (tell : Nat → State → State) (b : Nat), (n = 0 → u = modRst (fun r => { r with block := none, blockDom := none }) s) ∧ (∀ (b : ℕ) (t : State), tell b t = if n = 0 then t else announceReset b t) ∧ b = s.rst.causes.toNat ||| 2 ^ n ∧ (n < 12 ∧ (n ≠ 0 → u = haltRaise 1 (modRst (fun r => { r with block := none, blockDom := none }) s)) ∧ (n = 0 ∨ s.rst.nvUntil = none) ∧ inReset s = false ∧ (s.rst.warmTaken = true ∨ s.rst.farewell.isSome = true)))
    ∧ (∃ (s : State) (n : Nat) (u : State) (tell : Nat → State → State), (n ≠ 0 → u = haltRaise 1 (modRst (fun r => { r with block := none, blockDom := none }) s)) ∧ (∀ (b : ℕ) (t : State), tell b t = if n = 0 then t else announceReset b t) ∧ (n < 12 ∧ (n = 0 → u = modRst (fun r => { r with block := none, blockDom := none }) s) ∧ (n = 0 ∨ s.rst.nvUntil = none) ∧ inReset s = false ∧ s.rst.warmTaken = false ∧ s.rst.farewell = none ∧ (n = 2 ∨ n = 4 ∨ n = 6 ∨ n = 7 ∨ n = 8 ∨ n = 9)))
    ∧ (∃ (s : State) (n : Nat) (u : State) (tell : Nat → State → State), (n = 0 → u = modRst (fun r => { r with block := none, blockDom := none }) s) ∧ (∀ (b : ℕ) (t : State), tell b t = if n = 0 then t else announceReset b t) ∧ (n < 12 ∧ (n ≠ 0 → u = haltRaise 1 (modRst (fun r => { r with block := none, blockDom := none }) s)) ∧ (n = 0 ∨ s.rst.nvUntil = none) ∧ inReset s = false ∧ s.rst.warmTaken = false ∧ s.rst.farewell = none ∧ (n = 0 ∨ n = 1 ∨ n = 5 ∨ n = 10)))
    ∧ (∃ (s : State) (n : Nat) (u : State) (tell : Nat → State → State), (n ≠ 0 → u = haltRaise 1 (modRst (fun r => { r with block := none, blockDom := none }) s)) ∧ (∀ (b : ℕ) (t : State), tell b t = if n = 0 then t else announceReset b t) ∧ (n < 12 ∧ (n = 0 → u = modRst (fun r => { r with block := none, blockDom := none }) s) ∧ (n = 0 ∨ s.rst.nvUntil = none) ∧ inReset s = false ∧ s.rst.warmTaken = false ∧ s.rst.farewell = none ∧ (n = 3 ∨ n = 11)))
    ∧ (∃ (s : State), s.rst.warmTaken = false)
    ∧ (∃ (s : State), s.rst.warmTaken = true)
    ∧ (∃ (s : State), s.rst.farewell = none)
    ∧ (∃ (s : State) (t : Nat), s.rst.farewell = some t ∧ (farewellDone (fun x => true) s = true))
    ∧ (∃ (s : State) (t : Nat), s.rst.farewell = some t ∧ ((farewellDone (fun x => true) s = false) ∧ t ≤ s.ft))
    ∧ (∃ (s : State) (t : Nat), s.rst.farewell = some t ∧ ((farewellDone (fun x => true) s = false) ∧ s.ft < t)) :=
  ⟨⟨modRst (fun r => { r with nvUntil := some 1 }) (up), 1, _, _, fun _ => rfl, fun _ _ => rfl, by decide +kernel⟩,
   ⟨State.reset, 0, _, _, _, fun _ => rfl, fun _ _ => rfl, rfl, by decide +kernel⟩,
   ⟨modRst (fun r => { r with warmTaken := true }) (up), 0, _, _, _, fun _ => rfl, fun _ _ => rfl, rfl, by decide +kernel⟩,
   ⟨up, 2, _, _, fun _ => rfl, fun _ _ => rfl, by decide +kernel⟩,
   ⟨up, 0, _, _, fun _ => rfl, fun _ _ => rfl, by decide +kernel⟩,
   ⟨up, 3, _, _, fun _ => rfl, fun _ _ => rfl, by decide +kernel⟩,
   ⟨State.reset, by decide +kernel⟩,
   ⟨modRst (fun r => { r with warmTaken := true }) (up), by decide +kernel⟩,
   ⟨State.reset, by decide +kernel⟩,
   ⟨modRst (fun r => { r with farewell := some 0 }) (up), _, rfl, by decide +kernel⟩,
   ⟨modRst (fun r => { r with farewell := some 0 }) (modChan 0 (fun _ => { chanOpen with compq := [{ final := true, status := 0, cid := 0, req := 0, outcome := 0, rung := 0, deferred := false, cstat := 0, displaced := 0, specAcc := 0, predict := 0, ingress := 0, admits := 0, first := 0, last := 0 }] }) (up)), _, rfl, by decide +kernel⟩,
   ⟨modRst (fun r => { r with farewell := some 1 }) (modChan 0 (fun _ => { chanOpen with compq := [{ final := true, status := 0, cid := 0, req := 0, outcome := 0, rung := 0, deferred := false, cstat := 0, displaced := 0, specAcc := 0, predict := 0, ingress := 0, admits := 0, first := 0, last := 0 }] }) (up)), _, rfl, by decide +kernel⟩⟩

theorem witness_ResetsJoinWaitAndEnd_2 :
    (∃ (s : State), s.rst.nvUntil = none)
    ∧ (∃ (s : State) (t : Nat), s.rst.nvUntil = some t ∧ s.ft < t)
    ∧ (∃ (s : State) (t : Nat) (w : BitVec 13) (b : Nat), s.rst.nvUntil = some t ∧ (w = if s.secm.tamperWait.isSome = true then s.rst.nvHeld &&& 1024#13 else 0#13) ∧ b = 0 ∧ (b = (s.rst.nvHeld &&& ~~~w).toNat ∧ t ≤ s.ft))
    ∧ (∃ (s : State) (t : Nat) (w : BitVec 13) (b : Nat), s.rst.nvUntil = some t ∧ (w = if s.secm.tamperWait.isSome = true then s.rst.nvHeld &&& 1024#13 else 0#13) ∧ b = (s.rst.nvHeld &&& ~~~w).toNat ∧ (t ≤ s.ft ∧ b ≠ 0)) :=
  ⟨⟨State.reset, by decide +kernel⟩,
   ⟨modRst (fun r => { r with nvUntil := some 1 }) (up), _, rfl, by decide +kernel⟩,
   ⟨modRst (fun r => { r with nvUntil := some 0 }) (up), _, _, _, rfl, rfl, rfl, by decide +kernel⟩,
   ⟨modRst (fun r => { r with nvUntil := some 0, nvHeld := 1 }) (up), _, _, _, rfl, rfl, rfl, by decide +kernel⟩⟩

theorem witness_SourcesTogetherAreOneColdReset :
    ∃ (s : State) (b : Nat) (n : Nat), b < 4096 ∧ coldCauses b = true ∧ n < 12 ∧ bit b n = true ∧ coldCauses (2 ^ n) = false ∧ s.rst.nvUntil = none ∧ inReset s = false ∧ s.rst.warmTaken = false ∧ s.rst.farewell = none :=
  ⟨up, 5, 2, by decide +kernel⟩

theorem witness_WhatResetsReach :
    (∃ (s : State) (b : Nat), (leaving s = true → b = s.rst.causes.toNat ||| 1) ∧ (leaving s = false → b = 1))
    ∧ (∃ (b : Nat), b < 8192)
    ∧ (∃ (s : State) (b : Nat), b < 8192 ∧ s.nmc.q = [])
    ∧ (∃ (s : State) (b : Nat), b < 8192 ∧ smapWf regReset s.regs = true ∧ s.nmc.q = [])
    ∧ (∃ (s : State) (b : Nat) (n : Nat), b < 8192 ∧ (Machine.core s n).fenced = true)
    ∧ (∃ (b : Nat), b < 8192 ∧ bit b 8 = true)
    ∧ (∃ (b : Nat), b < 8192 ∧ bit b 8 = false) :=
  ⟨⟨State.reset, _, fun _ => rfl, by decide +kernel⟩,
   ⟨8190, by decide +kernel⟩,
   ⟨State.reset, 8190, by decide +kernel⟩,
   ⟨State.reset, 8190, by decide +kernel⟩,
   ⟨modCore 0 (fun _ => { fenced := true }) (up), 8190, 0, by decide +kernel⟩,
   ⟨8190, by decide +kernel⟩,
   ⟨2, by decide +kernel⟩⟩

theorem witness_BlocksAreReleasedInOrder :
    (∃ (s : State) (t : Straps), t.boot < 4 ∧ t.tick < 4 ∧ t.smb < 4 ∧ t.cid < 256 ∧ (s.rst.phase ≠ 1 ∨ s.rst.cold = false ∨ s.rst.sampled = true ∨ s.ft < 128))
    ∧ (∃ (s : State) (t : Straps), t.boot < 4 ∧ t.tick < 4 ∧ t.smb < 4 ∧ t.cid < 256 ∧ s.rst.phase = 1 ∧ s.rst.cold = true ∧ s.rst.sampled = false ∧ 128 ≤ s.ft ∧ t.root = false)
    ∧ (∃ (s : State) (t : Straps) (u : State) (v : State), (u = wrf rImgCtl 4 3 (min t.boot 2 - if t.boot = 3 then 1 else 0) (forEach (List.range 8) (fun p => wrf (rLink p 0) 1 1 (b2n t.linkmode)) (modRst (fun r => { r with sampled := true, rootPin := t.root }) { s with straps := t }))) ∧ (v = clkChange (fun c => { c with source := 1, locked := true, ftValid := true, rank := 0 }) u) ∧ (t.boot < 4 ∧ t.tick < 4 ∧ t.smb < 4 ∧ t.cid < 256 ∧ s.rst.phase = 1 ∧ s.rst.cold = true ∧ s.rst.sampled = false ∧ 128 ≤ s.ft ∧ t.root = true ∧ v.clk.refclk = true))
    ∧ (∃ (s : State) (t : Straps) (u : State) (v : State), (u = wrf rImgCtl 4 3 (min t.boot 2 - if t.boot = 3 then 1 else 0) (forEach (List.range 8) (fun p => wrf (rLink p 0) 1 1 (b2n t.linkmode)) (modRst (fun r => { r with sampled := true, rootPin := t.root }) { s with straps := t }))) ∧ (v = clkChange (fun c => { c with source := 1, locked := true, ftValid := true, rank := 0 }) u) ∧ (t.boot < 4 ∧ t.tick < 4 ∧ t.smb < 4 ∧ t.cid < 256 ∧ s.rst.phase = 1 ∧ s.rst.cold = true ∧ s.rst.sampled = false ∧ 128 ≤ s.ft ∧ t.root = true ∧ v.clk.refclk = false))
    ∧ (∃ (s : State) (p : Nat), p = s.rst.phase ∧ (p = 0 ∨ 9 ≤ p ∨ s.ft < s.rst.readyAt ∨ s.rst.sampled = false ∨ s.secm.st = 2 ∨ (blockDoms p).all (isOn s) = false))
    ∧ (∃ (s : State) (p : Nat), p = s.rst.phase ∧ (1 ≤ p ∧ p < 9 ∧ s.rst.readyAt ≤ s.ft ∧ s.rst.sampled = true ∧ s.secm.st ≠ 2 ∧ (blockDoms p).all (isOn s) = true))
    ∧ (∃ (p : Nat), p ≠ 1 ∧ p ≠ 6)
    ∧ (∃ (s : State), (s.rst.phase ≠ 9 ∨ s.ft < s.rst.readyAt ∨ isOn s dCCR = false))
    ∧ (∃ (s : State) (u : State) (v : State) (w : State) (b : Nat), b = s.rst.causes.toNat ∧ (u = logC 257 [b] (modRst (fun r => { r with phase := 0, cold := false, causes := 0, nvLog := 0 }) s)) ∧ (s.rst.nvLog = 0 → v = u) ∧ (v.secm.tamperLog = false → w = v) ∧ (s.rst.phase = 9 ∧ s.rst.readyAt ≤ s.ft ∧ isOn s dCCR = true ∧ (s.rst.nvLog ≠ 0 → v = logC 259 [s.rst.nvLog.toNat] u) ∧ (v.secm.tamperLog = true → w = modSecm (fun m => { m with tamperLog := false }) (logC 5136 [v.secm.tamperCause] v)))) :=
  ⟨⟨State.reset, ⟨true, false, 0, false, 3, false, 3, 255⟩, by decide +kernel⟩,
   ⟨{ State.reset with ft := 128 }, ⟨false, false, 0, false, 3, false, 3, 255⟩, by decide +kernel⟩,
   ⟨{ State.reset with ft := 128 }, ⟨true, false, 0, false, 3, false, 3, 255⟩, _, _, rfl, rfl, by decide +kernel⟩,
   ⟨{ State.reset with ft := 128, clk := { refclk := false } }, ⟨true, false, 0, false, 3, false, 3, 255⟩, _, _, rfl, rfl, by decide +kernel⟩,
   ⟨State.reset, _, rfl, by decide +kernel⟩,
   ⟨{ State.reset with ft := 256, secm := { st := 1 }, rst := { State.reset.rst with sampled := true, phase := 1 } }, _, rfl, by decide +kernel⟩,
   ⟨0, by decide +kernel⟩,
   ⟨State.reset, by decide +kernel⟩,
   ⟨modDom 11 (fun x => { x with st := .on }) ({ up with ft := 256, rst := { State.reset.rst with phase := 9 } }), _, _, _, _, rfl, rfl, fun _ => rfl, fun _ => rfl, by decide +kernel⟩⟩

theorem witness_BlockResetsQuiesceFirst_1 :
    (∃ (s : State) (n : Nat), n < 32 ∧ blockBusy s = true)
    ∧ (∃ (s : State) (n : Nat), n < 32 ∧ blockBusy s = false)
    ∧ (∃ (s : State) (n : Nat) (k : Nat) (t : Nat), s.rst.block = some (k, t) ∧ n < 32)
    ∧ (∃ (s : State) (n : Nat), n < 32 ∧ s.rst.block = none ∧ blockBusy s = true)
    ∧ (∃ (s : State), blockBusy s = true)
    ∧ (∃ (s : State), (∀ (t : ℕ), s.rst.block ≠ some (32, t)) ∧ blockBusy s = true)
    ∧ (∃ (s : State) (t : Nat), s.rst.block = some (32, t))
    ∧ (∃ (s : State), blockBusy s = false)
    ∧ (∃ (s : State) (u : State) (inUnit : Nat → Bool), (u = blockStat 0 (modRst (fun r => { r with block := some (33, s.ft + qtoFt s) }) s)) ∧ (∀ (t : ℕ), inUnit t = ((thread u t).st == 0 && (thread u t).bulk.isSome)) ∧ (blockBusy s = false ∧ (List.range 4).any inUnit = true))
    ∧ (∃ (s : State) (u : State) (inUnit : Nat → Bool), (u = blockStat 0 (modRst (fun r => { r with block := some (33, s.ft + qtoFt s) }) s)) ∧ (∀ (t : ℕ), inUnit t = ((thread u t).st == 0 && (thread u t).bulk.isSome)) ∧ (blockBusy s = false ∧ (List.range 4).any inUnit = false))
    ∧ (∃ (s : State) (n : Nat) (t : Nat), s.rst.block = some (n, t) ∧ s.ft < t)
    ∧ (∃ (s : State) (n : Nat) (t : Nat), s.rst.block = some (n, t) ∧ t ≤ s.ft) :=
  ⟨⟨{ up with rst := { up.rst with block := some (0, 0) } }, 0, by decide +kernel⟩,
   ⟨State.reset, 0, by decide +kernel⟩,
   ⟨{ up with rst := { up.rst with block := some (0, 0) } }, 0, _, _, rfl, by decide +kernel⟩,
   ⟨modRst (fun r => { r with blockDom := some 11 }) (up), 0, by decide +kernel⟩,
   ⟨{ up with rst := { up.rst with block := some (0, 0) } }, by decide +kernel⟩,
   ⟨{ up with rst := { up.rst with block := some (0, 0) } }, (by intro t h; cases h), by decide +kernel⟩,
   ⟨{ up with rst := { up.rst with block := some (32, 0) } }, _, rfl⟩,
   ⟨State.reset, by decide +kernel⟩,
   ⟨modDom 11 (fun x => { x with st := .on }) ((fun s : State => { s with cc := { s.cc with run := 0, threads := [(0, { st := 0, bulk := some { op := 1 } })] } }) (up)), _, _, rfl, fun _ => rfl, by decide +kernel⟩,
   ⟨State.reset, _, _, rfl, fun _ => rfl, by decide +kernel⟩,
   ⟨{ up with rst := { up.rst with block := some (31, 1) } }, _, _, rfl, by decide +kernel⟩,
   ⟨{ up with rst := { up.rst with block := some (0, 0) } }, _, _, rfl, by decide +kernel⟩⟩

theorem witness_BlockResetsQuiesceFirst_2 :
    ∃ (s : State), s.rst.block = none :=
  ⟨State.reset, by decide +kernel⟩

end Sys2Proof.Tests
end

section
namespace Sys2Proof.Proofs
open Sys2Proof Sys2Proof.Machine Sys2Proof.Safety

/-! ### Truncated times (R10): the instant nearest to now -/

/-- The instant with low `n` bits `f` in the period of `2 ^ n` FT units that holds `now`. -/
def periodInstant (n f now : Nat) : Nat := now / 2 ^ n * 2 ^ n + f

/-- Within half a period of `now`; of two instants exactly half a period away, only the earlier one (R10). -/
def NearestTo (n now c : Nat) : Prop := now ≤ c + 2 ^ (n - 1) ∧ c < now + 2 ^ (n - 1)

theorem periodInstant_def (n f now : Nat) : periodInstant n f now = now / 2 ^ n * 2 ^ n + f := rfl

theorem periodInstant_mod {n f : Nat} (now : Nat) (hf : f < 2 ^ n) : periodInstant n f now % 2 ^ n = f := by
  rw [periodInstant_def, Nat.mul_add_mod_self_right, Nat.mod_eq_of_lt hf]

/-- The instant of the period that holds `now` is less than a period away from it. -/
theorem periodInstant_within_period {n f : Nat} (now : Nat) (hf : f < 2 ^ n) :
    now < periodInstant n f now + 2 ^ n ∧ periodInstant n f now < now + 2 ^ n := by
  have hnow : now / 2 ^ n * 2 ^ n + now % 2 ^ n = now := Nat.div_add_mod' now (2 ^ n)
  have hlow : now % 2 ^ n < 2 ^ n := Nat.mod_lt now (Nat.two_pow_pos n)
  rw [periodInstant_def]
  omega

/-- An instant of FT's first period is its own low bits. -/
theorem periodInstant_eq_field_of_lt {n f now : Nat} (hf : f < 2 ^ n) (hlt : periodInstant n f now < 2 ^ n) :
    periodInstant n f now = f :=
  (Nat.mod_eq_of_lt hlt).symm.trans (periodInstant_mod now hf)

/-- What `expandFt` can denote: the instant of the period that holds `now`, of the next or of the one before, each
where it is the nearest; or, where FT has no period before, the field's own value. -/
theorem expandFt_cases {n f : Nat} (now : Nat) (hn : 1 ≤ n) (hf : f < 2 ^ n) :
    (expandFt n f now = periodInstant n f now ∧ NearestTo n now (expandFt n f now)) ∨
    (expandFt n f now = periodInstant n f now + 2 ^ n ∧ NearestTo n now (expandFt n f now)) ∨
    (expandFt n f now + 2 ^ n = periodInstant n f now ∧ NearestTo n now (expandFt n f now)) ∨
    (expandFt n f now = f ∧ now + 2 ^ (n - 1) ≤ f) := by
  have hhalf : 2 ^ (n - 1) * 2 = 2 ^ n := Nat.two_pow_pred_mul_two hn
  have hperiod := periodInstant_within_period now hf
  generalize hexpand : expandFt n f now = e
  simp only [expandFt, Nat.mod_eq_of_lt hf, ← periodInstant_def] at hexpand
  unfold NearestTo
  split_ifs at hexpand with hpast hnearPast hsecond hnearBefore
  · exact .inl (by omega)
  · exact .inr (.inl (by omega))
  · exact .inr (.inr (.inl (by omega)))
  · exact .inl (by omega)
  · have hfield : periodInstant n f now = f := periodInstant_eq_field_of_lt hf (by omega)
    by_cases hfar : now + 2 ^ (n - 1) ≤ f
    · exact .inr (.inr (.inr (by omega)))
    · exact .inl (by omega)

theorem expandFt_mod {n f : Nat} (now : Nat) (hn : 1 ≤ n) (hf : f < 2 ^ n) : expandFt n f now % 2 ^ n = f := by
  obtain ⟨hsame, -⟩ | ⟨hnext, -⟩ | ⟨hprev, -⟩ | ⟨hfield, -⟩ := expandFt_cases now hn hf
  · rw [hsame, periodInstant_mod now hf]
  · rw [hnext, Nat.add_mod_right, periodInstant_mod now hf]
  · rw [← Nat.add_mod_right, hprev, periodInstant_mod now hf]
  · rw [hfield, Nat.mod_eq_of_lt hf]

/-- A field denotes the nearest instant or, where that lies before FT 0, its own value. -/
theorem expandFt_nearest_or_field {n f : Nat} (now : Nat) (hn : 1 ≤ n) (hf : f < 2 ^ n) :
    NearestTo n now (expandFt n f now) ∨ expandFt n f now = f ∧ now + 2 ^ (n - 1) ≤ f := by
  obtain ⟨-, hnear⟩ | ⟨-, hnear⟩ | ⟨-, hnear⟩ | hfield := expandFt_cases now hn hf
  · exact .inl hnear
  · exact .inl hnear
  · exact .inl hnear
  · exact .inr hfield

/-- No two instants with the same low bits are both nearest. -/
theorem NearestTo.eq_of_mod_eq {n now c d : Nat} (hn : 1 ≤ n) (hc : NearestTo n now c) (hd : NearestTo n now d)
    (hmod : c % 2 ^ n = d % 2 ^ n) : c = d := by
  have hhalf : 2 ^ (n - 1) * 2 = 2 ^ n := Nat.two_pow_pred_mul_two hn
  obtain ⟨hcLow, hcHigh⟩ := hc
  obtain ⟨hdLow, hdHigh⟩ := hd
  have hclose : |(d : ℤ) - c| < (2 ^ n : ℕ) := by
    rw [abs_lt]
    omega
  exact Nat.ModEq.eq_of_abs_lt hmod hclose

/-- Where the nearest instant would lie before FT 0, no instant with the field's low bits is nearest. -/
theorem not_nearestTo_of_field_far {n f now c : Nat} (hfar : now + 2 ^ (n - 1) ≤ f) (hmod : c % 2 ^ n = f) :
    ¬ NearestTo n now c := by
  rintro ⟨-, hhigh⟩
  have hle : f ≤ c := hmod ▸ Nat.mod_le c (2 ^ n)
  omega

/-- Settles O7: the denoted instant is the nearest or the field itself, and a nearest instant is unique. -/
theorem truncatedTimesDenoteTheNearestInstant : Obligations.TruncatedTimesDenoteTheNearestInstant := by
  unfold Obligations.TruncatedTimesDenoteTheNearestInstant
  intro n f now hn hf
  have hmod := expandFt_mod now hn hf
  refine ⟨hmod, fun c hc hlow hhigh => ?_, fun hnone => ?_⟩
  · obtain hnear | ⟨-, hfar⟩ := expandFt_nearest_or_field now hn hf
    · exact hnear.eq_of_mod_eq hn ⟨hlow, hhigh⟩ (hmod.trans hc.symm)
    · exact absurd ⟨hlow, hhigh⟩ (not_nearestTo_of_field_far hfar hc)
  · obtain ⟨hlow, hhigh⟩ | ⟨hfield, hfar⟩ := expandFt_nearest_or_field now hn hf
    · have := hnone _ hmod
      omega
    · have hhalf : 2 ^ (n - 1) * 2 = 2 ^ n := Nat.two_pow_pred_mul_two hn
      exact ⟨hfield, by omega⟩

end Sys2Proof.Proofs
end

section
namespace Sys2Proof.Proofs
open Sys2Proof Sys2Proof.Machine Sys2Proof.Safety Sys2Proof.Laws

variable {s : State}

/-! ### What logging does to the registers: HALT_STAT alone is written (R538, R542 to R546) -/

/-- What `f` leaves unchanged stays so when `f` applies only on a condition. -/
theorem when_keeps {α : Type} {view : State → α} {f : State → State} (h : view (f s) = view s) (p : Bool) :
    view (when_ p f s) = view s := by
  cases p
  · rfl
  · exact h

theorem rd_of_regs_eq {t : State} (h : t.regs = s.regs) (o : Nat) : rd t o = rd s o := by
  rw [rd, rd, h]

@[simp] theorem emit_regs (e : Emit) : (emit e s).regs = s.regs := rfl

@[simp] theorem log1_regs (c st : Nat) (a : List Nat) : (log1 c st a s).1.regs = s.regs := by
  unfold log1
  dsimp only
  rw [when_keeps (view := State.regs) rfl]

theorem rd_setBit_ne {a o : Nat} (h : a ≠ o) (i : Nat) : rd (setBit a i s) o = rd s o :=
  (rd_of_regs_eq rfl o).trans (rd_wr_ne h)

theorem rd_haltSet_ne {o : Nat} (h : rHaltStat ≠ o) (c : Nat) : rd (haltSet c s) o = rd s o :=
  calc rd (haltSet c s) o
    _ = rd (setBit rHaltStat 8 (setBit rHaltStat c s)) o := rd_of_regs_eq (by simp only [haltSet, log1_regs, emit_regs]) o
    _ = rd s o := (rd_setBit_ne h 8).trans (rd_setBit_ne h c)

theorem rd_freezeCheck_ne {o : Nat} (h : rHaltStat ≠ o) (c : Nat) (w : Bool) : rd (freezeCheck c w s) o = rd s o := by
  have hfreeze : rd (log1 0x1501 0xFF [] { s with log := { s.log with frozen := true } }).1 o = rd s o :=
    rd_of_regs_eq (log1_regs ..) o
  unfold freezeCheck
  split_ifs
  · exact (when_keeps (view := (rd · o)) (rd_haltSet_ne h 7) _).trans hfreeze
  · rfl

theorem rd_haltRaise_ne {o : Nat} (h : rHaltStat ≠ o) (c : Nat) : rd (haltRaise c s) o = rd s o := by
  unfold haltRaise
  split_ifs
  · exact (rd_freezeCheck_ne h _ _).trans (rd_haltSet_ne h c)
  · rfl

theorem rd_logEv_ne {o : Nat} (h : rHaltStat ≠ o) (c st : Nat) (a : List Nat) : rd (logEv c st a s) o = rd s o := by
  have hentry : rd (log1 c st a s).1 o = rd s o := rd_of_regs_eq (log1_regs ..) o
  unfold logEv
  dsimp only
  rw [rd_freezeCheck_ne h]
  exact (when_keeps (view := (rd · o)) (rd_haltRaise_ne h 0) _).trans hentry

/-! ### A cold reset shows its own causes (R549, R550) -/

/-- Over any register map, canonical or not: a value other than the reset value is stored. -/
theorem rd_wr_self_of_ne_reset {a v : Nat} (h : w32 v ≠ regReset a) : rd (wr a v s) a = v % 2 ^ 32 := by
  unfold rd wr
  rw [put, if_neg h, look_ins_self, BitVec.toNat_ofNat]

theorem regReset_rCause : regReset rCause = 0 := by decide

theorem rd_wr_rCause {v : Nat} (h0 : v ≠ 0) (hv : v < 2 ^ 32) : rd (wr rCause v s) rCause = v := by
  have hne : w32 v ≠ regReset rCause := by
    rw [regReset_rCause]
    bv_omega
  rw [rd_wr_self_of_ne_reset hne, Nat.mod_eq_of_lt hv]

theorem rd_coldApply_rCause {b : Nat} (h0 : b ≠ 0) (hb : b < 8192) : rd (coldApply b s) rCause = b := by
  unfold coldApply
  rw [Nat.mod_eq_of_lt hb]
  exact rd_wr_rCause h0 (by omega)

@[simp] theorem coldApply_cold (b : Nat) : (coldApply b s).rst.cold = true := rfl

@[simp] theorem coldApply_causes (b : Nat) : (coldApply b s).rst.causes = BitVec.ofNat 13 b := rfl

/-- The release that follows a reset keeps the causes and the kind of the reset, logged SAFE_HOLD or not (R565). -/
theorem beginRelease_keeps_reset (s : State) :
    rd (beginRelease s) rCause = rd s rCause ∧ (beginRelease s).rst.cold = s.rst.cold ∧
      (beginRelease s).rst.causes = s.rst.causes := by
  unfold beginRelease
  extract_lets
  split_ifs
  · exact ⟨rfl, rfl, rfl⟩
  · exact ⟨rfl, rfl, rfl⟩
  · have hlog : ∀ t, (logC 0x0104 [] t).rst = t.rst := fun _ => logEv_rst
    exact ⟨when_keeps (view := (rd · rCause)) (rd_logEv_ne (by decide) ..) _,
      when_keeps (view := (·.rst.cold)) (congrArg Rst.cold (hlog _)) _,
      when_keeps (view := (·.rst.causes)) (congrArg Rst.causes (hlog _)) _⟩
  · exact ⟨rfl, rfl, rfl⟩

/-- Applied and released, a cold reset shows its causes both in RST_CAUSE and in the reset unit. -/
theorem applyReset_cold_shows {b : Nat} (h0 : b ≠ 0) (hb : b < 8192) (s : State) :
    rd (applyReset b true s) rCause = b ∧ (applyReset b true s).rst.cold = true ∧
      (applyReset b true s).rst.causes.toNat = b := by
  have happly : applyReset b true s = beginRelease (emit (.pcie 2) (coldApply b s)) := rfl
  obtain ⟨hreg, hcold, hcauses⟩ := beginRelease_keeps_reset (emit (.pcie 2) (coldApply b s))
  rw [happly, hreg, hcold, hcauses]
  refine ⟨rd_coldApply_rCause h0 hb, rfl, ?_⟩
  rw [emit_rst, coldApply_causes, BitVec.toNat_ofNat, Nat.mod_eq_of_lt hb]

/-! ### Sources raised together on a chip that is not leaving -/

theorem inReset_of_rst_eq {t : State} (h : t.rst = s.rst) : inReset t = inReset s := by
  rw [inReset, inReset, h]

/-- A cold source in the set makes the one reset of the whole set cold: no farewell begins (R549). -/
theorem takeNow_of_coldCauses {b : Nat} (hc : coldCauses b = true) (hin : inReset s = false)
    (hw : s.rst.warmTaken = false) (hf : s.rst.farewell = none) :
    takeNow b s = applyReset b true (when_ (!bit b 0) (announceReset b) (when_ (!bit b 0) (haltRaise 1) s)) := by
  have hin' : inReset (when_ (!bit b 0) (haltRaise 1) s) = false := (when_keeps (inReset_of_rst_eq haltRaise_rst) _).trans hin
  unfold takeNow
  dsimp only
  rw [if_neg (by simp [hin']), if_neg (by simp [hw, hf]), if_pos (.inl hc), hc]

/-- Where no write pulse holds them, sources are taken now, and a block reset in progress is dropped (R563, R572). -/
theorem takeResets_of_nvUntil_none {b : Nat} (hnv : s.rst.nvUntil = none) :
    takeResets b s = takeNow b (modRst (fun r => { r with block := none, blockDom := none }) s) := by
  unfold takeResets
  exact if_neg (by simp [hnv])

/-- Pending sources with a cold one among them are one cold reset with the cause bits of all of them (R549). -/
theorem takeResets_of_coldCauses {b : Nat} (hc : coldCauses b = true) (hnv : s.rst.nvUntil = none)
    (hin : inReset s = false) (hw : s.rst.warmTaken = false) (hf : s.rst.farewell = none) :
    ∃ t, takeResets b s = applyReset b true t :=
  ⟨_, (takeResets_of_nvUntil_none hnv).trans (takeNow_of_coldCauses hc hin hw hf)⟩

theorem ne_zero_of_coldCauses {b : Nat} (h : coldCauses b = true) : b ≠ 0 := by
  rintro rfl
  exact absurd h (by decide)

/-- Settles O57: the set is taken at once as one cold reset, which loads RST_CAUSE with the bits of the set. -/
theorem sourcesTogetherAreOneColdReset : Obligations.SourcesTogetherAreOneColdReset := by
  unfold Obligations.SourcesTogetherAreOneColdReset
  intro s b n hb hcold _ _ _ hnv hin hwarm hfarewell
  obtain ⟨t, htaken⟩ := takeResets_of_coldCauses hcold hnv hin hwarm hfarewell
  rw [htaken]
  exact applyReset_cold_shows (ne_zero_of_coldCauses hcold) (by omega) t

end Sys2Proof.Proofs
end

section
namespace Sys2Proof.Proofs
open Sys2Proof Sys2Proof.Machine Sys2Proof.Safety Sys2Proof.Laws

variable {s : State}

/-! ### The PND block and the stall windows (R621, R626) -/

theorem regAt_of_pnd {o : Nat} (h : o / 0x10000 = 0x18) : regAt o = none := by
  simp [regAt, h, blockRegs]

theorem readMask_of_regAt_none {o : Nat} (h : regAt o = none) : readMask o = 0 := by
  rw [readMask, h]

theorem plainWrite_of_regAt_none {o : Nat} (h : regAt o = none) (v : Word) : plainWrite o v s = s := by
  rw [plainWrite, h]

theorem view_of_pnd {o : Nat} (h : o / 0x10000 = 0x18) (src : Src) : view s src o = 0 := by
  have hmask : readMask o = 0 := readMask_of_regAt_none (regAt_of_pnd h)
  have hword : view s src o = rd s o &&& readMask o := by
    unfold view
    simp only [h]
    rfl
  rw [hword, hmask, Nat.and_zero]

theorem writeReg_of_pnd {o : Nat} (h : o / 0x10000 = 0x18) (src : Src) (v : Word) : writeReg src o v s = s := by
  have hplain : writeReg src o v s = plainWrite o v s := by
    unfold writeReg
    simp only [h]
    rfl
  rw [hplain, plainWrite_of_regAt_none (regAt_of_pnd h)]

theorem win_div {o : Nat} (ho : o < 0x10000) (n : Nat) : win n o / 0x10000 = 0x40 + n := by
  unfold win
  omega

theorem win_mod {o : Nat} (ho : o < 0x10000) (n : Nat) : win n o % 0x10000 = o := by
  unfold win
  omega

/-- A word of a stall's window shows what the window holds there. -/
theorem view_win {n o : Nat} (hn : n < 32) (ho : o < 0x10000) (src : Src) :
    view s src (win n o) = viewStall s n o &&& readMask (win n o) := by
  unfold view
  simp only [win_div ho, win_mod ho, Nat.add_sub_cancel_left]
  simp (disch := omega) only [if_neg, if_pos]
  rfl

theorem viewStall_of_not_enabled {n o : Nat} (h : (stallCfg s n).enabled = false) (ho : 1 ≤ o) : viewStall s n o = 0 := by
  unfold viewStall
  dsimp only
  rw [if_neg (by omega), h]
  rfl

/-- The low five bits of STALL_ID are the stall's number. -/
theorem viewStall_zero_mod {n : Nat} (hn : n < 32) : viewStall s n 0 % 32 = n := by
  unfold viewStall at_
  dsimp only
  rw [if_pos rfl]
  omega

theorem blockRegs_of_stall {n : Nat} (hn : n < 32) : blockRegs (0x40 + n) = stallRegs := by
  unfold blockRegs
  split
  case h_23 => exact if_pos (by omega)
  all_goals omega

theorem readMask_win_zero_mod {n : Nat} (hn : n < 32) : readMask (win n 0) % 32 = 31 := by
  have hreg : regAt (win n 0) = stallRegs.head? := by
    unfold regAt
    rw [if_pos (by unfold win; omega), win_div (by omega), win_mod (by omega), blockRegs_of_stall hn]
    rfl
  rw [readMask, hreg]
  rfl

theorem view_win_zero_mod {n : Nat} (hn : n < 32) (src : Src) : view s src (win n 0) % 32 = n :=
  calc view s src (win n 0) % 2 ^ 5
    _ = (viewStall s n 0 % 2 ^ 5) &&& (readMask (win n 0) % 2 ^ 5) := by
      rw [view_win hn (by omega), Nat.and_mod_two_pow]
    _ = n &&& (2 ^ 5 - 1) := congrArg₂ _ (viewStall_zero_mod hn) (readMask_win_zero_mod hn)
    _ = n := by rw [Nat.and_two_pow_sub_one_eq_mod, Nat.mod_eq_of_lt hn]

/-- No source's write reaches the window of a stall that is not ENABLED (R626). -/
theorem mayWrite_win_of_not_enabled {n o : Nat} (hn : n < 32) (ho : o < 0x10000)
    (h : (stallCfg s n).enabled = false) (src : Src) : mayWrite s src (win n o) = false := by
  have hlast : 0x40 + n < 0x60 := by omega
  simp [mayWrite, win_div ho, h, hlast]

theorem perform_of_not_mayWrite {src : Src} {o : Nat} (h : mayWrite s src o = false) (v : Word) :
    perform src o (some v) s = s := by
  simp [perform, h]

/-- Settles O8: no register lies in the PND block, and of a window that is not ENABLED only STALL_ID shows. -/
theorem emptyWindowsReadZero : Obligations.EmptyWindowsReadZero := by
  unfold Obligations.EmptyWindowsReadZero
  refine ⟨fun s src o v h => ⟨view_of_pnd h src, writeReg_of_pnd h src v⟩, fun n o => rfl, ?_,
    fun s src n hn => view_win_zero_mod hn src, fun n o => rfl⟩
  intro s src n o v hn hpos ho hoff
  refine ⟨?_, perform_of_not_mayWrite (mayWrite_win_of_not_enabled hn ho hoff src) v,
    perform_of_not_mayWrite (mayWrite_win_of_not_enabled hn (by omega) hoff src) v⟩
  rw [view_win hn ho, viewStall_of_not_enabled hoff hpos, Nat.zero_and]

/-! ### What a host access leaves on its way (R648) -/

/-- The state once a TLP of the host has come: the link's idle time starts again. -/
abbrev tlpSeen (s : State) : State := modSpg (fun g => { g with lastTlp := s.ft }) s

/-- The state once an access has reached the chip: the control core's do not cross the link. -/
def reached (src : Src) (s : State) : State := if src = .cc then s else tlpSeen s

@[simp] theorem dom_reached (src : Src) (d : Nat) : dom (reached src s) d = dom s d := by
  unfold reached
  split <;> rfl

@[simp] theorem isOn_reached (src : Src) (d : Nat) : isOn (reached src s) d = isOn s d := by
  unfold reached
  split <;> rfl

/-! ### Where a register access goes (R622, R623, R625) -/

theorem not_waits_for_link {src : Src} (hlink : src = .cc ∨ s.spg.l1 = false) : ¬(src ≠ .cc ∧ s.spg.l1 = true) := by
  rintro ⟨hsrc, hl1⟩
  obtain hcc | hl0 := hlink
  · exact hsrc hcc
  · exact absurd hl1 (by simp [hl0])

section Access
variable {c : Instr} {src : Src} {off d : Nat} {w : Option Word}

theorem access_of_l1 (hsrc : src ≠ .cc) (hl1 : s.spg.l1 = true) : access c src off w s = await dL0 c s := by
  unfold access
  exact if_pos ⟨hsrc, hl1⟩

theorem access_of_no_domain (hlink : src = .cc ∨ s.spg.l1 = false) (hdom : domOf (pfOffset src off) = none) :
    access c src off w s = perform src (pfOffset src off) w (reached src s) := by
  unfold access
  dsimp only
  rw [if_neg (not_waits_for_link hlink), hdom]
  rfl

/-- Past the link, the domain of the block that the offset names decides. -/
theorem access_of_domain (hlink : src = .cc ∨ s.spg.l1 = false) (hdom : domOf (pfOffset src off) = some d) :
    access c src off w s =
      if isOn s d = true then perform src (pfOffset src off) w (touch d (reached src s))
      else if (dom s d).st = .off ∧ (dom s d).done.isNone = true then
        (if w.isSome = true then reached src s else emit (.complete src (zeros 4) false) (reached src s))
      else await d c (wakeDom d (reached src s)) := by
  rw [← isOn_reached src, ← dom_reached src]
  unfold access
  dsimp only
  rw [if_neg (not_waits_for_link hlink), hdom]
  rfl

section Domain
variable (hlink : src = .cc ∨ s.spg.l1 = false) (hdom : domOf (pfOffset src off) = some d)
include hlink hdom

theorem access_of_isOn (hon : isOn s d = true) :
    access c src off w s = perform src (pfOffset src off) w (touch d (reached src s)) := by
  rw [access_of_domain hlink hdom, if_pos hon]

theorem access_write_of_off (hon : isOn s d = false) (hst : (dom s d).st = .off) (hdone : (dom s d).done = none)
    (hw : w.isSome = true) : access c src off w s = reached src s := by
  rw [access_of_domain hlink hdom, if_neg (by simp [hon]), if_pos (by simp [hst, hdone]), if_pos hw]

theorem access_read_of_off (hon : isOn s d = false) (hst : (dom s d).st = .off) (hdone : (dom s d).done = none)
    (hw : w = none) : access c src off w s = emit (.complete src (zeros 4) false) (reached src s) := by
  rw [access_of_domain hlink hdom, if_neg (by simp [hon]), if_pos (by simp [hst, hdone]), if_neg (by simp [hw])]

/-- The domain sleeps, or is OFF in transition. (log 9) -/
theorem access_of_sleeping (hon : isOn s d = false) (hsleep : (dom s d).st ≠ .off ∨ (dom s d).done.isSome = true) :
    access c src off w s = await d c (wakeDom d (reached src s)) := by
  have hnotOff : ¬((dom s d).st = .off ∧ (dom s d).done.isNone = true) := by
    rintro ⟨hst, hdone⟩
    obtain hne | hsome := hsleep
    · exact hne hst
    · exact absurd hdone (by simp [Option.isSome_iff_ne_none.1 hsome])
  rw [access_of_domain hlink hdom, if_neg (by simp [hon]), if_neg hnotOff]

end Domain

/-- The three commands of a register access have one meaning. -/
theorem leaves_access {i : Instr} (hoff : offOk src off = true) (hal : off % 4 = 0)
    (hi : i = .registerAccessWake src off w ∨ i = .registerAccessOff src off w ∨ ∃ v, w = some v ∧ i = .registerWrite src off v)
    {t : State} (ht : access i src off w s = t) : Leaves i s t := by
  have hwf : (offOk src off && off % 4 == 0) = true := by simp [hoff, hal]
  obtain rfl | rfl | ⟨v, rfl, rfl⟩ := hi
  · exact leaves_run hwf ht
  · exact leaves_run hwf ht
  · exact leaves_run hwf ht

end Access

section Undecoded
variable {src : Src} {off n : Nat}

theorem leaves_undecodedAccess (hoff : offOk src off = true) {t : State} (ht : undecoded src off n s = t) :
    Leaves (.undecodedAccess src off n) s t :=
  leaves_run hoff ht

theorem undecoded_of_decoded (hdec : decodedOff src off = true) (hn : n = 4) (hal : off % 4 = 0) :
    undecoded src off n s = s := by
  simp [undecoded, hdec, hn, hal]

section Unsupported
variable (h : decodedOff src off = false ∨ n ≠ 4 ∨ off % 4 ≠ 0)
include h

theorem undecoded_of_unsupported :
    undecoded src off n s =
      if src ≠ .cc ∧ s.spg.l1 = true then await dL0 (.undecodedAccess src off n) s else emit (.ur src) s := by
  have hbad : ¬(n = 4 ∧ off % 4 = 0 ∧ decodedOff src off = true) := by
    rintro ⟨hn, hal, hdec⟩
    simp [hn, hal, hdec] at h
  exact if_neg hbad

theorem undecoded_of_l1 (hsrc : src ≠ .cc) (hl1 : s.spg.l1 = true) :
    undecoded src off n s = await dL0 (.undecodedAccess src off n) s := by
  rw [undecoded_of_unsupported h, if_pos ⟨hsrc, hl1⟩]

theorem undecoded_of_link (hlink : src = .cc ∨ s.spg.l1 = false) : undecoded src off n s = emit (.ur src) s := by
  rw [undecoded_of_unsupported h, if_neg (not_waits_for_link hlink)]

end Unsupported

end Undecoded

/-- Settles O50: an access goes where the link, then the domain of its block, lets it. -/
theorem registerAccessesWaitOrTakePlace : Obligations.RegisterAccessesWaitOrTakePlace := by
  unfold Obligations.RegisterAccessesWaitOrTakePlace
  refine ⟨?_, ?_⟩
  · rintro s src off w _ i hoff hal rfl hi
    refine ⟨fun hsrc hl1 => leaves_access hoff hal hi (access_of_l1 hsrc hl1), ?_⟩
    rintro _ rfl hlink
    refine ⟨fun hdom => leaves_access hoff hal hi (access_of_no_domain hlink hdom), fun d hdom => ?_⟩
    have hleaves {t : State} (ht : access i src off w s = t) : Leaves i s t := leaves_access hoff hal hi ht
    exact ⟨fun hon => hleaves (access_of_isOn hlink hdom hon),
      fun hon hst hdone hw => hleaves (access_write_of_off hlink hdom hon hst hdone hw),
      fun hon hst hdone hw => hleaves (access_read_of_off hlink hdom hon hst hdone hw),
      fun hon hsleep => hleaves (access_of_sleeping hlink hdom hon hsleep)⟩
  · intro s src off n hoff
    exact ⟨fun h => ⟨fun hlink => leaves_undecodedAccess hoff (undecoded_of_link h hlink),
        fun hsrc hl1 => leaves_undecodedAccess hoff (undecoded_of_l1 h hsrc hl1)⟩,
      fun hdec hn hal => leaves_undecodedAccess hoff (undecoded_of_decoded hdec hn hal)⟩

/-! ### The pond window (R627 to R629) -/

/-- Write those of the numbered bytes, at their numbers after `off`, whose address passes `p`. -/
def writeWhere (p : Nat → Bool) (off : Nat) (l : List (Byte × Nat)) (m : SMap Byte) : SMap Byte :=
  (l.filter (fun b => p (off + b.2))).foldl (fun m b => put m (off + b.2) b.1 0) m

/-- A byte of pond that a BAR2 write reaches: on a staged page, in an awake half (R628). -/
def takesBar2 (s : State) (x : Nat) : Bool := stagedPage s (x / 8192) && isOn s (halfOf x)

theorem writeWhere_nil (p : Nat → Bool) (off : Nat) (m : SMap Byte) : writeWhere p off [] m = m := rfl

theorem writeWhere_cons (p : Nat → Bool) (off : Nat) (b : Byte × Nat) (l : List (Byte × Nat)) (m : SMap Byte) :
    writeWhere p off (b :: l) m = writeWhere p off l (if p (off + b.2) then put m (off + b.2) b.1 0 else m) := by
  simp only [writeWhere, List.filter_cons]
  split <;> rfl

/-- Each byte of the range whose address passes reads as written, and no other byte changes. -/
theorem look_writeWhere {m : SMap Byte} (hm : Memory.wf m = true) (p : Nat → Bool) (off k : Nat) (d : Bytes) (x : Nat) :
    look (writeWhere p off (d.zipIdx k) m) x 0 =
      if off + k ≤ x ∧ x < off + k + d.length ∧ p x = true then d.getD (x - (off + k)) 0 else look m x 0 := by
  induction d generalizing m k with
  | nil =>
    rw [List.zipIdx_nil, writeWhere_nil, if_neg]
    simp only [List.length_nil]
    omega
  | cons b d ih =>
    rw [List.zipIdx_cons, writeWhere_cons]
    obtain rfl | hx := eq_or_ne x (off + k)
    · by_cases hp : p (off + k) = true
      · rw [if_pos hp, ih (memory_put hm ..), if_neg (by omega), look_put_self (smapWf_iff.1 hm).1]
        simp [hp]
      · rw [if_neg hp, ih hm, if_neg (by omega), if_neg (by tauto)]
    · have hrest : look (if p (off + k) then put m (off + k) b 0 else m) x 0 = look m x 0 := by
        split
        · exact look_put_ne hx b 0 0
        · rfl
      have hwf : Memory.wf (if p (off + k) then put m (off + k) b 0 else m) = true := by
        split
        · exact memory_put hm _ _
        · exact hm
      rw [ih hwf, hrest]
      by_cases hin : off + k < x
      · have hidx : x - (off + k) = x - (off + (k + 1)) + 1 := by omega
        rw [hidx, List.getD_cons_succ]
        refine if_congr ?_ rfl rfl
        rw [← and_assoc, ← and_assoc, List.length_cons]
        exact and_congr_left' (by omega)
      · rw [if_neg (by omega), if_neg (by omega)]

/-- The 64-byte units of a read that lie in an awake half. -/
def awakeUnits (s : State) (a n : Nat) : List Nat := (unitsOf a n).filter (fun u => isOn s (halfOf (64 * u)))

/-- Those of them with an uncorrectable error among `e` (R629). -/
def failedUnits (s : State) (a n : Nat) (e : List Nat) : List Nat :=
  (awakeUnits s a n).filter (fun u => (e.map (· / 64)).contains u)

/-- The bytes that a read answers: pond's, and zeros of a half that is OFF. -/
def shownBytes (s : State) (a n : Nat) : Bytes :=
  (List.range n).map (fun i => if isOn s (halfOf (a + i)) then look s.pond (a + i) 0 else 0)

@[simp] theorem sleepingHalf_tlpSeen (a n : Nat) : sleepingHalf (tlpSeen s) a n = sleepingHalf s a n := rfl

section Bar2
variable {a n h : Nat} {d : Bytes} {e : List Nat}

theorem bar2Write_of_l1 (hl1 : s.spg.l1 = true) : bar2Write a d s = await dL0 (.bar2Write a d) s := if_pos hl1

theorem bar2Write_of_sleeping (hl1 : s.spg.l1 = false) (hs : sleepingHalf s a d.length = some h) :
    bar2Write a d s = await h (.bar2Write a d) (wakeDom h (tlpSeen s)) := by
  simp [bar2Write, hl1, hs]

theorem bar2Write_of_awake (hl1 : s.spg.l1 = false) (hs : sleepingHalf s a d.length = none) :
    bar2Write a d s = { tlpSeen s with pond := writeWhere (takesBar2 s) a d.zipIdx s.pond } := by
  simp only [bar2Write, hl1, sleepingHalf_tlpSeen, hs]
  rfl

theorem bar2Read_of_l1 (hl1 : s.spg.l1 = true) : bar2Read a n e s = await dL0 (.bar2Read a n e) s := if_pos hl1

theorem bar2Read_of_sleeping (hl1 : s.spg.l1 = false) (hs : sleepingHalf s a n = some h) :
    bar2Read a n e s = await h (.bar2Read a n e) (wakeDom h (tlpSeen s)) := by
  simp [bar2Read, hl1, hs]

theorem bar2Read_of_awake (hl1 : s.spg.l1 = false) (hs : sleepingHalf s a n = none) :
    bar2Read a n e s =
      emit (.complete .pf (shownBytes s a n)
          ((awakeUnits s a n).any (fun u => (failedUnits s a n e).contains u || look s.poison u 0 != 0)))
        (forEach (failedUnits s a n e) (fun _ => logC 0x1101 []) (tlpSeen s)) := by
  simp only [bar2Read, hl1, sleepingHalf_tlpSeen, hs]
  rfl

theorem leaves_bar2Write (h1 : 1 ≤ d.length) (h256 : d.length ≤ 256) (hend : a + d.length ≤ 2 ^ 27) {t : State}
    (ht : bar2Write a d s = t) : Leaves (.bar2Write a d) s t :=
  leaves_run (by simpa [Instr.wf] using ⟨⟨h1, h256⟩, hend⟩) ht

theorem leaves_bar2Read (h1 : 1 ≤ n) (h256 : n ≤ 256) (hend : a + n ≤ 2 ^ 27) {t : State}
    (ht : bar2Read a n e s = t) : Leaves (.bar2Read a n e) s t :=
  leaves_run (by simpa [Instr.wf] using ⟨⟨h1, h256⟩, hend⟩) ht

end Bar2

/-- Settles O52: past the link and its halves, a write changes the bytes that staged pages take, and a read shows them. -/
theorem pondWindowReadsAndWrites : Obligations.PondWindowReadsAndWrites := by
  unfold Obligations.PondWindowReadsAndWrites
  refine ⟨fun s a d h1 h256 hend hl1 => leaves_bar2Write h1 h256 hend (bar2Write_of_l1 hl1),
    fun s a d h h1 h256 hend hl1 hs => leaves_bar2Write h1 h256 hend (bar2Write_of_sleeping hl1 hs),
    fun s a d h1 h256 hend hl1 hs hm =>
      ⟨_, leaves_bar2Write h1 h256 hend (bar2Write_of_awake hl1 hs), fun x => ?_⟩,
    fun s a n e h1 h256 hend hl1 => leaves_bar2Read h1 h256 hend (bar2Read_of_l1 hl1),
    fun s a n e h h1 h256 hend hl1 hs => leaves_bar2Read h1 h256 hend (bar2Read_of_sleeping hl1 hs), ?_⟩
  · rw [look_writeWhere hm]
    simp [takesBar2]
  · rintro s a n e _ _ h1 h256 hend hl1 hs rfl rfl
    exact leaves_bar2Read h1 h256 hend (bar2Read_of_awake hl1 hs)

end Sys2Proof.Proofs
end

section
namespace Sys2Proof.Proofs
open Sys2Proof Sys2Proof.Machine Sys2Proof.Safety Sys2Proof.Laws

/- The text compiles as one, in parallel. This file and those after it take their declarations in turn, as the laws' files do,
so that threads do not pile up behind the long kernel evaluations of the tests. -/
set_option Elab.async false

variable {s t : State}

/-! ### One step of the block -/

theorem step_of_cons {c : Instr} {rest : List Instr} (h : s.pending = c :: rest) :
    step s = exec c { s with pending := rest } := by
  rw [step, h]

theorem step_of_nil (h : s.pending = []) : step s = .next (idle s) := by
  rw [step, h]

/-- Every arm of `exec` runs its command's effect through `run`. -/
theorem exec_eq_run (c : Instr) (s : State) : ∃ t, exec c s = run c s t := by
  cases c <;> exact ⟨_, rfl⟩

theorem exec_of_wf {c : Instr} (h : c.wf = true) (s : State) : ∃ t, exec c s = .next t ∧ t.pending = s.pending := by
  obtain ⟨t, ht⟩ := exec_eq_run c s
  exact ⟨_, ht.trans (run_wf h), rfl⟩

theorem exec_of_not_wf {c : Instr} (h : c.wf = false) (s : State) : exec c s = .fault .operandRange := by
  obtain ⟨t, ht⟩ := exec_eq_run c s
  exact ht.trans (run_not_wf h)

/-- Settles O1: `step` matches on the queue. -/
theorem stepRunsTheFrontCommand : Obligations.StepRunsTheFrontCommand := by
  unfold Obligations.StepRunsTheFrontCommand
  exact ⟨fun c s => step_of_cons rfl, fun s h => step_of_nil h⟩

/-- Settles O2: every arm answers through `run`, which asks for operands in range and nothing else. -/
theorem commandsInRangeComplete : Obligations.CommandsInRangeComplete := by
  unfold Obligations.CommandsInRangeComplete
  exact ⟨fun c s h => exec_of_wf h s, fun c s h => exec_of_not_wf h s⟩

/-! ### What every step keeps -/

/-- Every command keeps what `Keeps` speaks of: the memories' form, the log's, the lifecycle, the fuses and the output. -/
theorem keeps_exec {c : Instr} (h : exec c s = .next t) : Keeps s t := by
  cases c with
  | frameSfdReceive _ _ _ => exact keep_execFrameSfdReceive (.refl s) h
  | springMatch _ => exact keep_execSpringMatch (.refl s) h
  | springOperation _ => exact keep_execSpringOperation (.refl s) h
  | springLdComplete _ => exact keep_execSpringLdComplete (.refl s) h
  | triggerDecision _ => exact keep_execTriggerDecision (.refl s) h
  | fcsVerdict _ _ => exact keep_execFcsVerdict (.refl s) h
  | triggerDeliver _ => exact keep_execTriggerDeliver (.refl s) h
  | rxqDb _ _ => exact keep_execRxqDb (.refl s) h
  | txqDb _ _ => exact keep_execTxqDb (.refl s) h
  | hostFrameTransmit _ _ _ => exact keep_execHostFrameTransmit (.refl s) h
  | tokenArrival _ _ _ => exact keep_execTokenArrival (.refl s) h
  | egressTransmitStart _ => exact keep_execEgressTransmitStart (.refl s) h
  | egrLoadCommit _ => exact keep_execEgrLoadCommit (.refl s) h
  | leaseGrant _ _ => exact keep_execLeaseGrant (.refl s) h
  | spgRuleEnWrite _ _ => exact keep_execSpgRuleEnWrite (.refl s) h
  | linkEnWrite _ _ => exact keep_execLinkEnWrite (.refl s) h
  | linkRetrainWrite _ _ => exact keep_execLinkRetrainWrite (.refl s) h
  | linkFarEndDetect _ => exact keep_execLinkFarEndDetect (.refl s) h
  | linkSymbolLock _ => exact keep_execLinkSymbolLock (.refl s) h
  | linkDeskewDone _ => exact keep_execLinkDeskewDone (.refl s) h
  | measureComplete _ => exact keep_execMeasureComplete (.refl s) h
  | linkTrainingTimeout _ => exact keep_execLinkTrainingTimeout (.refl s) h
  | echo _ _ _ => exact keep_execEcho (.refl s) h
  | hello _ _ => exact keep_execHello (.refl s) h
  | laneLockLoss _ => exact keep_execLaneLockLoss (.refl s) h
  | keepaliveTimeout _ => exact keep_execKeepaliveTimeout (.refl s) h
  | abandonedFlit _ _ _ => exact keep_execAbandonedFlit (.refl s) h
  | flitCrcError _ => exact keep_execFlitCrcError (.refl s) h
  | replayRequest _ _ => exact keep_execReplayRequest (.refl s) h
  | linkAck _ _ => exact keep_execLinkAck (.refl s) h
  | creditReturn _ _ _ _ => exact keep_execCreditReturn (.refl s) h
  | flitReceive _ _ _ => exact keep_execFlitReceive (.refl s) h
  | pw _ _ => exact keep_execPw (.refl s) h
  | rd _ => exact keep_execRd (.refl s) h
  | rdr _ => exact keep_execRdr (.refl s) h
  | pwackSend _ _ => exact keep_execPwackSend (.refl s) h
  | pwack _ => exact keep_execPwack (.refl s) h
  | farFault _ => exact keep_execFarFault (.refl s) h
  | wake _ => exact keep_execWake (.refl s) h
  | rowMask _ => exact keep_execRowMask (.refl s) h
  | chipLost _ => exact keep_execChipLost (.refl s) h
  | fabFarqHeadWrite _ => exact keep_execFabFarqHeadWrite (.refl s) h
  | discover _ _ => exact keep_execDiscover (.refl s) h
  | report _ => exact keep_execReport (.refl s) h
  | assign _ _ => exact keep_execAssign (.refl s) h
  | staged _ => exact keep_execStaged (.refl s) h
  | epochArm _ => exact keep_execEpochArm (.refl s) h
  | routeHoldRelease _ _ => exact keep_execRouteHoldRelease (.refl s) h
  | rejoin _ => exact keep_execRejoin (.refl s) h
  | unassignedChipSeen _ _ => exact keep_execUnassignedChipSeen (.refl s) h
  | imgData _ => exact keep_execImgData (.refl s) h
  | imgReport _ => exact keep_execImgReport (.refl s) h
  | imgArm _ => exact keep_execImgArm (.refl s) h
  | imgAbort _ => exact keep_execImgAbort (.refl s) h
  | stallReset _ => exact keep_execStallReset (.refl s) h
  | reset _ => exact keep_execReset (.refl s) h
  | clkStatus _ _ => exact keep_execClkStatus (.refl s) h
  | ftReq _ => exact keep_execFtReq (.refl s) h
  | ftSet _ _ _ => exact keep_execFtSet (.refl s) h
  | ftCheck _ _ => exact keep_execFtCheck (.refl s) h
  | idleTimerExpire _ => exact keep_execIdleTimerExpire (.refl s) h
  | pwrTransitionComplete _ => exact keep_execPwrTransitionComplete (.refl s) h
  | domainReloadComplete _ _ => exact keep_execDomainReloadComplete (.refl s) h
  | domainWake _ _ => exact keep_execDomainWake (.refl s) h
  | pwrReq _ => exact keep_execPwrReq (.refl s) h
  | thermalSample _ => exact keep_execThermalSample (.refl s) h
  | registerAccessWake _ _ _ => exact keep_execRegisterAccessWake (.refl s) h
  | registerAccessOff _ _ _ => exact keep_execRegisterAccessOff (.refl s) h
  | undecodedAccess _ _ _ => exact keep_execUndecodedAccess (.refl s) h
  | registerWrite _ _ _ => exact keep_execRegisterWrite (.refl s) h
  | bar2Write _ _ => exact keep_execBar2Write (.refl s) h
  | bar2Read _ _ _ => exact keep_execBar2Read (.refl s) h
  | bar4Write _ _ => exact keep_execBar4Write (.refl s) h
  | bar4Read _ _ _ => exact keep_execBar4Read (.refl s) h
  | imgStart _ => exact keep_execImgStart (.refl s) h
  | imageFrameFetched _ => exact keep_execImageFrameFetched (.refl s) h
  | imgDrainWrite _ => exact keep_execImgDrainWrite (.refl s) h
  | stallDrained _ => exact keep_execStallDrained (.refl s) h
  | chCreate _ _ => exact keep_execChCreate (.refl s) h
  | chDestroy _ _ => exact keep_execChDestroy (.refl s) h
  | chModify _ _ => exact keep_execChModify (.refl s) h
  | sqDb _ _ => exact keep_execSqDb (.refl s) h
  | cqDb _ _ => exact keep_execCqDb (.refl s) h
  | commandFetch _ _ => exact keep_execCommandFetch (.refl s) h
  | queueDmaFail _ => exact keep_execQueueDmaFail (.refl s) h
  | completionPost _ => exact keep_execCompletionPost (.refl s) h
  | coalesceTimer _ => exact keep_execCoalesceTimer (.refl s) h
  | budgetPeriodStart _ => exact keep_execBudgetPeriodStart (.refl s) h
  | tillSnap _ _ => exact keep_execTillSnap (.refl s) h
  | submit _ _ => exact keep_execSubmit (.refl s) h
  | append _ _ => exact keep_execAppend (.refl s) h
  | cancel _ => exact keep_execCancel (.refl s) h
  | cancelEffect _ => exact keep_execCancelEffect (.refl s) h
  | supersedeEffect _ => exact keep_execSupersedeEffect (.refl s) h
  | pause _ => exact keep_execPause (.refl s) h
  | resume _ => exact keep_execResume (.refl s) h
  | close _ => exact keep_execClose (.refl s) h
  | setDeadline _ => exact keep_execSetDeadline (.refl s) h
  | batch _ _ => exact keep_execBatch (.refl s) h
  | fence _ => exact keep_execFence (.refl s) h
  | fenceComplete _ => exact keep_execFenceComplete (.refl s) h
  | adopt _ => exact keep_execAdopt (.refl s) h
  | fwAdmissionTimeout _ => exact keep_execFwAdmissionTimeout (.refl s) h
  | admPost _ _ _ _ => exact keep_execAdmPost (.refl s) h
  | composeStep _ => exact keep_execComposeStep (.refl s) h
  | stepIssue _ => exact keep_execStepIssue (.refl s) h
  | stepRecordReceive _ => exact keep_execStepRecordReceive (.refl s) h
  | stepCommitConfirm _ _ _ => exact keep_execStepCommitConfirm (.refl s) h
  | stepEnd _ _ => exact keep_execStepEnd (.refl s) h
  | generationFinal _ => exact keep_execGenerationFinal (.refl s) h
  | rtbIdleExpire _ => exact keep_execRtbIdleExpire (.refl s) h
  | pauseComplete _ => exact keep_execPauseComplete (.refl s) h
  | resumeComplete _ _ => exact keep_execResumeComplete (.refl s) h
  | proxyStage _ _ => exact keep_execProxyStage (.refl s) h
  | proxyRelease _ _ => exact keep_execProxyRelease (.refl s) h
  | batchStart _ => exact keep_execBatchStart (.refl s) h
  | workItemReady _ => exact keep_execWorkItemReady (.refl s) h
  | coreIdle _ => exact keep_execCoreIdle (.refl s) h
  | kernelStart _ => exact keep_execKernelStart (.refl s) h
  | kernelComplete _ _ => exact keep_execKernelComplete (.refl s) h
  | watchdogTrip _ => exact keep_execWatchdogTrip (.refl s) h
  | coreStoreEcc _ => exact keep_execCoreStoreEcc (.refl s) h
  | windowFillComplete _ => exact keep_execWindowFillComplete (.refl s) h
  | adapterFetchComplete _ _ => exact keep_execAdapterFetchComplete (.refl s) h
  | wksSubmitGo _ => exact keep_execWksSubmitGo (.refl s) h
  | jobFault _ _ _ _ => exact keep_execJobFault (.refl s) h
  | dlyInsert _ => exact keep_execDlyInsert (.refl s) h
  | dlyRemove _ => exact keep_execDlyRemove (.refl s) h
  | evtPost _ => exact keep_execEvtPost (.refl s) h
  | evtClear _ => exact keep_execEvtClear (.refl s) h
  | epost _ _ => exact keep_execEpost (.refl s) h
  | eclr _ _ => exact keep_execEclr (.refl s) h
  | ewait _ _ => exact keep_execEwait (.refl s) h
  | bmove _ => exact keep_execBmove (.refl s) h
  | bscan _ => exact keep_execBscan (.refl s) h
  | bcrc _ => exact keep_execBcrc (.refl s) h
  | bulkUnitComplete _ _ => exact keep_execBulkUnitComplete (.refl s) h
  | interruptTake _ => exact keep_execInterruptTake (.refl s) h
  | mbxDbPost _ => exact keep_execMbxDbPost (.refl s) h
  | mbxDbFree _ => exact keep_execMbxDbFree (.refl s) h
  | mbxInfo _ => exact keep_execMbxInfo (.refl s) h
  | moduleCtl _ => exact keep_execModuleCtl (.refl s) h
  | moduleMsg _ _ => exact keep_execModuleMsg (.refl s) h
  | powerSet _ => exact keep_execPowerSet (.refl s) h
  | fwRecord _ => exact keep_execFwRecord (.refl s) h
  | callbackFault _ _ => exact keep_execCallbackFault (.refl s) h
  | admBlock _ _ _ => exact keep_execAdmBlock (.refl s) h
  | timerSet _ _ _ => exact keep_execTimerSet (.refl s) h
  | sampleComplete _ _ _ => exact keep_execSampleComplete (.refl s) h
  | ringDb _ _ => exact keep_execRingDb (.refl s) h
  | ringDmaFail _ => exact keep_execRingDmaFail (.refl s) h
  | ringCreate _ _ => exact keep_execRingCreate (.refl s) h
  | ringDestroy _ _ => exact keep_execRingDestroy (.refl s) h
  | pimZero _ => exact keep_execPimZero (.refl s) h
  | pimCopy _ => exact keep_execPimCopy (.refl s) h
  | pimNot _ => exact keep_execPimNot (.refl s) h
  | pimAnd _ => exact keep_execPimAnd (.refl s) h
  | pimOr _ => exact keep_execPimOr (.refl s) h
  | pimMaj3 _ => exact keep_execPimMaj3 (.refl s) h
  | pimXor _ => exact keep_execPimXor (.refl s) h
  | pimXfer _ => exact keep_execPimXfer (.refl s) h
  | pimMaskout _ => exact keep_execPimMaskout (.refl s) h
  | pimCommandStart _ => exact keep_execPimCommandStart (.refl s) h
  | rowOperationComplete _ => exact keep_execRowOperationComplete (.refl s) h
  | pimCommandComplete _ => exact keep_execPimCommandComplete (.refl s) h
  | handshakePreempt _ => exact keep_execHandshakePreempt (.refl s) h
  | refreshDue _ => exact keep_execRefreshDue (.refl s) h
  | dieTempCross _ _ => exact keep_execDieTempCross (.refl s) h
  | lakeAccess _ _ _ _ => exact keep_execLakeAccess (.refl s) h
  | pcieLinkChange _ _ => exact keep_execPcieLinkChange (.refl s) h
  | vfFlr _ => exact keep_execVfFlr (.refl s) h
  | dmaError _ => exact keep_execDmaError (.refl s) h
  | smbSerial _ => exact keep_execSmbSerial (.refl s) h
  | smbTemp _ => exact keep_execSmbTemp (.refl s) h
  | smbResetCause _ => exact keep_execSmbResetCause (.refl s) h
  | smbLogSummary _ => exact keep_execSmbLogSummary (.refl s) h
  | smbPower _ => exact keep_execSmbPower (.refl s) h
  | smbFt _ => exact keep_execSmbFt (.refl s) h
  | smbWake _ _ => exact keep_execSmbWake (.refl s) h
  | coreRepair _ => exact keep_execCoreRepair (.refl s) h
  | repairComplete _ => exact keep_execRepairComplete (.refl s) h
  | haltEnWrite _ => exact keep_execHaltEnWrite (.refl s) h
  | logHeadWrite _ => exact keep_execLogHeadWrite (.refl s) h
  | safeClr _ => exact keep_execSafeClr (.refl s) h
  | wdtKick _ => exact keep_execWdtKick (.refl s) h
  | rstFabGo _ => exact keep_execRstFabGo (.refl s) h
  | strapSample _ => exact keep_execStrapSample (.refl s) h
  | rstBlockStall _ => exact keep_execRstBlockStall (.refl s) h
  | secmStatus _ => exact keep_execSecmStatus (.refl s) h
  | selftest _ _ => exact keep_execSelftest (.refl s) h
  | authChallenge _ => exact keep_execAuthChallenge (.refl s) h
  | authResponse _ => exact keep_execAuthResponse (.refl s) h
  | logout _ => exact keep_execLogout (.refl s) h
  | sessionTimeout _ => exact keep_execSessionTimeout (.refl s) h
  | attest _ => exact keep_execAttest (.refl s) h
  | random _ => exact keep_execRandom (.refl s) h
  | provisionSlot _ => exact keep_execProvisionSlot (.refl s) h
  | clearSlot _ => exact keep_execClearSlot (.refl s) h
  | lcProvision _ => exact keep_execLcProvision (.refl s) h
  | lcAdvance _ => exact keep_execLcAdvance (.refl s) h
  | ctrRaise _ => exact keep_execCtrRaise (.refl s) h
  | debugUnlock _ => exact keep_execDebugUnlock (.refl s) h
  | zeroise _ => exact keep_execZeroise (.refl s) h
  | tamperDetect _ => exact keep_execTamperDetect (.refl s) h
  | selftestFail _ _ => exact keep_execSelftestFail (.refl s) h
  | seedPoolRefill _ => exact keep_execSeedPoolRefill (.refl s) h
  | resetPinRise _ => exact keep_execResetPinRise (.refl s) h
  | portLinkChange _ _ => exact keep_execPortLinkChange (.refl s) h
  | triggerEnterAdmission => exact keep_execTriggerEnterAdmission (.refl s) h
  | ptpCmdLoad => exact keep_execPtpCmdLoad (.refl s) h
  | ptpMappingActivate => exact keep_execPtpMappingActivate (.refl s) h
  | egressPatch => exact keep_execEgressPatch (.refl s) h
  | egrLdTemplate => exact keep_execEgrLdTemplate (.refl s) h
  | egrLdMap => exact keep_execEgrLdMap (.refl s) h
  | spgBind => exact keep_execSpgBind (.refl s) h
  | spgUnbind => exact keep_execSpgUnbind (.refl s) h
  | fabDiscStart => exact keep_execFabDiscStart (.refl s) h
  | discoveryBegin => exact keep_execDiscoveryBegin (.refl s) h
  | discoveryComplete => exact keep_execDiscoveryComplete (.refl s) h
  | epochCommit => exact keep_execEpochCommit (.refl s) h
  | rejoinSend => exact keep_execRejoinSend (.refl s) h
  | clockLocked => exact keep_execClockLocked (.refl s) h
  | upstreamClockDepart => exact keep_execUpstreamClockDepart (.refl s) h
  | holdoverSwitch => exact keep_execHoldoverSwitch (.refl s) h
  | holdoverTimeout => exact keep_execHoldoverTimeout (.refl s) h
  | haltHoldExpire => exact keep_execHaltHoldExpire (.refl s) h
  | refclkLoss => exact keep_execRefclkLoss (.refl s) h
  | refclkReturn => exact keep_execRefclkReturn (.refl s) h
  | slewStep => exact keep_execSlewStep (.refl s) h
  | tickBoundary => exact keep_execTickBoundary (.refl s) h
  | delayListProcess => exact keep_execDelayListProcess (.refl s) h
  | deadline => exact keep_execDeadline (.refl s) h
  | deferStart => exact keep_execDeferStart (.refl s) h
  | ttlPause => exact keep_execTtlPause (.refl s) h
  | ttlNode => exact keep_execTtlNode (.refl s) h
  | prewarm => exact keep_execPrewarm (.refl s) h
  | timedWork => exact keep_execTimedWork (.refl s) h
  | drain => exact keep_execDrain (.refl s) h
  | fwTimer => exact keep_execFwTimer (.refl s) h
  | quietDeadlock => exact keep_execQuietDeadlock (.refl s) h
  | imgActivate => exact keep_execImgActivate (.refl s) h
  | imgCtlAbort => exact keep_execImgCtlAbort (.refl s) h
  | imageStaged => exact keep_execImageStaged (.refl s) h
  | installComplete => exact keep_execInstallComplete (.refl s) h
  | bundleCommit => exact keep_execBundleCommit (.refl s) h
  | bundleTimeout => exact keep_execBundleTimeout (.refl s) h
  | admissionDecision => exact keep_execAdmissionDecision (.refl s) h
  | cycleStart => exact keep_execCycleStart (.refl s) h
  | slotStart => exact keep_execSlotStart (.refl s) h
  | cycleRestart => exact keep_execCycleRestart (.refl s) h
  | poolSlotFree => exact keep_execPoolSlotFree (.refl s) h
  | maskStage => exact keep_execMaskStage (.refl s) h
  | maskCommit => exact keep_execMaskCommit (.refl s) h
  | maskRelease => exact keep_execMaskRelease (.refl s) h
  | pimCmdGo => exact keep_execPimCmdGo (.refl s) h
  | pimCmdAbort => exact keep_execPimCmdAbort (.refl s) h
  | bankFrameStart => exact keep_execBankFrameStart (.refl s) h
  | aspmL1Entry => exact keep_execAspmL1Entry (.refl s) h
  | l1Exit => exact keep_execL1Exit (.refl s) h
  | pfFlr => exact keep_execPfFlr (.refl s) h
  | bypass => exact keep_execBypass (.refl s) h
  | idcode => exact keep_execIdcode (.refl s) h
  | samplePreload => exact keep_execSamplePreload (.refl s) h
  | extest => exact keep_execExtest (.refl s) h
  | clamp => exact keep_execClamp (.refl s) h
  | highz => exact keep_execHighz (.refl s) h
  | haltCtlClear => exact keep_execHaltCtlClear (.refl s) h
  | haltCtlForce => exact keep_execHaltCtlForce (.refl s) h
  | logUnfreeze => exact keep_execLogUnfreeze (.refl s) h
  | por => exact keep_execPor (.refl s) h
  | pinCold => exact keep_execPinCold (.refl s) h
  | pinWarm => exact keep_execPinWarm (.refl s) h
  | pciePerst => exact keep_execPciePerst (.refl s) h
  | wdtExpire => exact keep_execWdtExpire (.refl s) h
  | swCold => exact keep_execSwCold (.refl s) h
  | swWarm => exact keep_execSwWarm (.refl s) h
  | warmResetTaken => exact keep_execWarmResetTaken (.refl s) h
  | farewellEnd => exact keep_execFarewellEnd (.refl s) h
  | nvPulseEnd => exact keep_execNvPulseEnd (.refl s) h
  | blockReady => exact keep_execBlockReady (.refl s) h
  | releaseComplete => exact keep_execReleaseComplete (.refl s) h
  | rstBlockEgr => exact keep_execRstBlockEgr (.refl s) h
  | rstBlockCcr => exact keep_execRstBlockCcr (.refl s) h
  | quiesceTimeout => exact keep_execQuiesceTimeout (.refl s) h
  | zeroiseEraseComplete => exact keep_execZeroiseEraseComplete (.refl s) h
  | drbgReseed => exact keep_execDrbgReseed (.refl s) h
  | perstDeassert => exact keep_execPerstDeassert (.refl s) h
  | firmwareReloaded => exact keep_execFirmwareReloaded (.refl s) h
  | pfD3hot => exact keep_execPfD3hot (.refl s) h

theorem keeps_pending (q : List Instr) : Keeps s { s with pending := q } :=
  (Keeps.refl s).same rfl rfl rfl rfl rfl rfl rfl rfl ⟨rfl, rfl, rfl⟩ rfl

theorem keeps_idle (s : State) : Keeps s (idle s) := by
  unfold idle
  split
  · exact (Keeps.refl s).same rfl rfl rfl rfl rfl rfl rfl rfl ⟨rfl, rfl, rfl⟩ rfl
  · exact keep_linkCycle ((Keeps.refl s).same rfl rfl rfl rfl rfl rfl rfl rfl ⟨rfl, rfl, rfl⟩ rfl)

/-- A step is a command on the rest of the queue, or idling: either keeps the invariants. -/
theorem keeps_step (h : step s = .next t) : Keeps s t := by
  cases hq : s.pending with
  | nil =>
    rw [step_of_nil hq] at h
    cases h
    exact keeps_idle s
  | cons c rest =>
    rw [step_of_cons hq] at h
    exact (keeps_pending rest).trans (keeps_exec h)

/-- Settles O4, from what every step keeps. -/
theorem memoriesStayCanonical : Obligations.MemoriesStayCanonical := by
  unfold Obligations.MemoriesStayCanonical
  exact fun s t h => (keeps_step h).mem

/-- Settles O5, from what every step keeps. -/
theorem troubleLogKeepsItsForm : Obligations.TroubleLogKeepsItsForm := by
  unfold Obligations.TroubleLogKeepsItsForm
  exact fun s t h => (keeps_step h).log

/-- Settles O6, from what every step keeps. -/
theorem lifecycleAndIdentityStand : Obligations.LifecycleAndIdentityStand := by
  unfold Obligations.LifecycleAndIdentityStand
  exact ⟨fun s t h => (keeps_step h).lc, fun s t h => ⟨(keeps_step h).fuses, (keeps_step h).out, (keeps_step h).free⟩⟩

/-! ### The state after reset -/

theorem memOk_reset : MemOk .reset := ⟨rfl, rfl, rfl, rfl⟩

theorem logOk_reset : LogOk .reset := by
  refine ⟨by decide, by decide, rfl, ?_⟩
  rintro p ⟨⟩

theorem lcOk_reset : LcOk .reset := by
  refine ⟨.inl rfl, ?_⟩
  rintro p ⟨⟩

/-- No domain is listed, and an unlisted one is OFF. -/
theorem dom_reset (d : Nat) : (dom .reset d).st = .off := rfl

theorem link_reset {p : Nat} (hp : p < 8) : (link .reset p).st = 1 := by
  interval_cases p <;> rfl

/-- Settles O3, field by field. -/
theorem resetHoldsTheInvariants : Obligations.ResetHoldsTheInvariants := by
  unfold Obligations.ResetHoldsTheInvariants
  exact ⟨memOk_reset, logOk_reset, lcOk_reset, rfl, rfl, fun d _ => dom_reset d, fun p hp => link_reset hp,
    by decide, by decide, rfl, rfl, rfl, rfl, rfl, rfl, rfl, rfl, rfl⟩

end Sys2Proof.Proofs
end

section
namespace Sys2Proof.Proofs
open Sys2Proof Sys2Proof.Machine Sys2Proof.Safety Sys2Proof.Laws

set_option Elab.async false

/-! ### From an effect to what a command leaves -/

/-- A command whose arm runs the effect `e`, with operands in range, leaves the state that `e` is. -/
theorem leaves_of_effect {c : Instr} {s t e : State} (hwf : c.wf = true) (he : e = t)
    (harm : exec c s = run c s e := by rfl) : Leaves c s t :=
  harm.trans (leaves_run hwf he)

@[simp] theorem when_true (f : State → State) (s : State) : when_ true f s = f s := rfl

@[simp] theorem when_false (f : State → State) (s : State) : when_ false f s = s := rfl

end Sys2Proof.Proofs
end

section
namespace Sys2Proof.Proofs
open Sys2Proof Sys2Proof.Machine Sys2Proof.Safety Sys2Proof.Laws

set_option Elab.async false

variable {s : State} {p : Nat} {f : Parse}

/-! ### Frames and the parser program (R478, R484 to R486) -/

theorem springMatch_of_byte13 (hq : (port s p).parse = [f]) (hm : f.matched = false) (hlen : 14 ≤ f.frame.length)
    (ht : byteAt s p f 13 ≤ s.ft) :
    springMatch p s =
      forEach ((matching s p f).filter (fun j => (rule s j).wake)) earlyWake
        (modFrame p f.sfd (fun g =>
          { g with matched := true
                   first := (matching s p f).head?
                   woke := (matching s p f).any (fun j => (rule s j).wake && (wakeSet s j).any (fun d => !isOn s d))
                   pc := ((matching s p f).head?.map (fun j => (rule s j).entry)).getD 0
                   readyAt := s.ft + 1 }) s) := by
  simp [springMatch, hq, hm, hlen, ht, List.any_filter]

theorem springMatch_of_no_frame (hq : (port s p).parse = []) : springMatch p s = s := by
  simp [springMatch, hq]

/-- The frame once its next operation has been taken from the program store. -/
abbrev fetched (s : State) (f : Parse) : Parse := { f with ops := f.ops + 1, pc := f.pc + 1, readyAt := s.ft + 1 }

section Operation
variable {x : Nat} (hf : parsing s p = some f)
include hf

theorem springOperation_of_65th (hops : 64 ≤ f.ops) :
    springOperation p s = endProgram p f false (setBit 0x00090008 0 s) := by
  simp [springOperation, hf, hops]

variable (hops : f.ops < 64) (hx : (look s.spg.ops f.pc 0).toNat = x)
include hops hx

theorem springOperation_of_ld (hop : bits x 7 0 = 1) :
    springOperation p s =
      modFrame p f.sfd (fun g =>
        { g with loading := some x
                 readyAt := max (s.ft + 1)
                   (byteAt (modFrame p f.sfd (fun _ => fetched s f) s) p g (bits x 31 16 + bits x 15 8 - 1) + 2) })
        (modFrame p f.sfd (fun _ => fetched s f) s) := by
  subst hx
  simp only [springOperation, hf, if_neg (Nat.not_le.2 hops), if_pos hop]
  rfl

/-- Every operation but LD acts on the frame as fetched. -/
theorem springOperation_of_op (hop : bits x 7 0 ≠ 1) :
    springOperation p s =
      oneOp p (fetched s f) (bits x 7 0) (bits x 15 8) (bits x 31 16) (bits x 63 32)
        (modFrame p f.sfd (fun _ => fetched s f) s) := by
  subst hx
  simp only [springOperation, hf, if_neg (Nat.not_le.2 hops), if_neg hop]

end Operation

theorem ldComplete_of_arrived {o : Nat} (hq : (port s p).parse = [f]) (ho : f.loading = some o) (he : f.ended = none)
    (hr : f.readyAt ≤ s.ft) (h1 : 1 ≤ bits o 15 8) (h4 : bits o 15 8 ≤ 4) (hlen : bits o 31 16 + bits o 15 8 ≤ frameLen f) :
    ldComplete p s = modFrame p f.sfd (fun g =>
      { g with acc := beNat (slice f.frame (bits o 31 16) (bits o 15 8)), loading := none, readyAt := s.ft + 1 }) s := by
  simp [ldComplete, hq, ho, he, hr, h1, h4, hlen]

/-- Settles O9: a frame is matched at byte 13, and each operation is taken on the frame as fetched. -/
theorem framesAreParsed : Obligations.FramesAreParsed := by
  unfold Obligations.FramesAreParsed
  refine ⟨⟨fun s p frame ok hp => leaves_of_effect (decide_eq_true hp) rfl,
      fun s p f hp hq hm hlen ht => leaves_of_effect (decide_eq_true hp) (springMatch_of_byte13 hq hm hlen ht),
      fun s p hp hq => leaves_of_effect (decide_eq_true hp) (springMatch_of_no_frame hq)⟩, ?_,
    fun s p f hp hf hops => leaves_of_effect (decide_eq_true hp) (springOperation_of_65th hf hops),
    fun s p f o hp hq ho he hr h1 h4 hlen =>
      leaves_of_effect (decide_eq_true hp) (ldComplete_of_arrived hq ho he hr h1 h4 hlen)⟩
  rintro s p f x _ hp hf hops hx rfl
  have hother (hop : bits x 7 0 ≠ 1) {t : State}
      (ht : oneOp p (fetched s f) (bits x 7 0) (bits x 15 8) (bits x 31 16) (bits x 63 32)
        (modFrame p f.sfd (fun _ => fetched s f) s) = t) : Leaves (.springOperation p) s t :=
    leaves_of_effect (decide_eq_true hp) ((springOperation_of_op hf hops hx hop).trans ht)
  refine ⟨fun hop => leaves_of_effect (decide_eq_true hp) (springOperation_of_ld hf hops hx hop), ?_, ?_, ?_, ?_, ?_, ?_, ?_, ?_, ?_⟩
  · exact fun hop => hother (by omega) (by rw [hop]; rfl)
  · exact fun hop => hother (by omega) (by rw [hop]; rfl)
  · exact fun hop => hother (by omega) (by rw [hop]; rfl)
  · exact fun hop => hother (by omega) (by rw [hop]; rfl)
  · exact fun hop htok => hother (by omega) (by rw [hop]; exact if_neg (Nat.not_le.2 htok))
  · exact fun hop hrule => hother (by omega) (by rw [hop]; exact if_pos hrule)
  · exact fun hop hrule => hother (by omega) (by rw [hop]; exact if_neg (by simp [hrule]))
  · exact fun hop => hother (by omega) (by rw [hop]; rfl)
  · exact fun hop hrule => hother (by omega) (by simp [hop, oneOp, hrule, endProgram])

end Sys2Proof.Proofs
end

section
namespace Sys2Proof.Proofs
open Sys2Proof Sys2Proof.Machine Sys2Proof.Safety Sys2Proof.Laws

set_option Elab.async false

variable {s : State} {p : Nat} {f : Parse}

/-! ### The trigger decision (R488 to R491) -/

section Decision
variable {j a : Nat} {u : State} (hq : (port s p).parse = [f]) (hd : f.decided = none) (he : f.ended ≠ some false)
  (hr : f.rule = some (j, a)) (ha : a + 28 ≤ s.ft) (hopen : (chan s (rule s j).channel).st = 1)
  (hu : u = modTill (rule s j).channel (fun t => { t with triggers := sat32 (t.triggers + 1) }) s)
include hq hd he hr ha hopen hu

/-- With its channel open a due trigger is counted, and then taken or refused by its cause. -/
theorem triggerDecision_of_due :
    triggerDecision p s =
      match refuseCause u (rule s j) f.key with
      | some k =>
        let t := tillRefuse (rule s j).channel 0x26 (bumpSat (0x00090010 + 4 * k) u)
        if f.verdict.isSome then dropFrame p f.sfd t else modFrame p f.sfd (fun x => { x with decided := some false }) t
      | none =>
        modFrame p f.sfd (fun x => { x with decided := some true, decidedAt := s.ft })
          (reserve (rule s j).channel 1 (modSpg (fun h => { h with buf := h.buf ++
            [{ port := p, rule := j, channel := (rule s j).channel, key := f.key, tokens := [], sfd := f.sfd
               deadline := if (rule s j).budget = 0 then none else some (f.sfd + (rule s j).budget)
               bound := boundReq u (rule s j).channel f.key }] }) u)) := by
  subst hu
  unfold triggerDecision
  rw [hq, List.find?_cons_of_pos (by simp [hd, he, hr, ha])]
  simp only [hr, Option.map_some, Option.getD_some, hopen, beq_self_eq_true, if_true] <;> rfl

theorem triggerDecision_of_accepted (hc : refuseCause u (rule s j) f.key = none) :
    triggerDecision p s =
      modFrame p f.sfd (fun x => { x with decided := some true, decidedAt := s.ft })
        (reserve (rule s j).channel 1 (modSpg (fun h => { h with buf := h.buf ++
          [{ port := p, rule := j, channel := (rule s j).channel, key := f.key, tokens := [], sfd := f.sfd
             deadline := if (rule s j).budget = 0 then none else some (f.sfd + (rule s j).budget)
             bound := boundReq u (rule s j).channel f.key }] }) u)) := by
  rw [triggerDecision_of_due hq hd he hr ha hopen hu, hc]

theorem triggerDecision_of_refused {k : Nat} (hc : refuseCause u (rule s j) f.key = some k) (hv : f.verdict = none) :
    triggerDecision p s =
      modFrame p f.sfd (fun x => { x with decided := some false })
        (tillRefuse (rule s j).channel 0x26 (bumpSat (0x00090010 + 4 * k) u)) := by
  rw [triggerDecision_of_due hq hd he hr ha hopen hu, hc]
  simp [hv]

end Decision

/-! ### The causes of a refusal (R491) -/

section Causes
variable {g : Rule} {k : Nat}

theorem refuseCause_of_full_buffer (hb : 8 ≤ s.spg.buf.length) : refuseCause s g k = some 0 := if_pos hb

theorem refuseCause_of_channel (hb : s.spg.buf.length < 8)
    (hc : (chan s g.channel).st ≠ 1 ∨ cqFree (chan s g.channel) = 0) : refuseCause s g k = some 1 := by
  unfold refuseCause
  dsimp only
  rw [if_neg (by omega), if_pos (by tauto)]

section Ready
variable (hb : s.spg.buf.length < 8) (hst : (chan s g.channel).st = 1) (hcq : cqFree (chan s g.channel) ≠ 0)
  (hl : leaving s = false) (hqu : quiescing s (chan s g.channel).stall = false)
include hb hst hcq hl hqu

/-- With room in the buffer and its channel able to take it, a trigger depends on what its key is bound to. -/
theorem refuseCause_of_ready :
    refuseCause s g k =
      match boundReq s g.channel k with
      | none => if g.submitOk then none else some 4
      | some (r, _) =>
        if (side s r).pend.isSome ∨ 2 ≤ load_ s r then some 2
        else if (ent s r).st = .pausing ∨ (ent s r).st = .paused ∨ (ent s r).st = .closing then some 3 else none := by
  unfold refuseCause
  dsimp only
  rw [if_neg (by omega), if_neg (by simp [hst, hcq, hl, hqu])] <;> rfl

theorem refuseCause_of_unbound (hk : boundReq s g.channel k = none) :
    refuseCause s g k = if g.submitOk then none else some 4 := by
  rw [refuseCause_of_ready hb hst hcq hl hqu, hk]

variable {r n : Nat} (hk : boundReq s g.channel k = some (r, n))
include hk

theorem refuseCause_of_loaded (hload : (side s r).pend.isSome = true ∨ 2 ≤ load_ s r) : refuseCause s g k = some 2 := by
  rw [refuseCause_of_ready hb hst hcq hl hqu, hk]
  exact if_pos hload

variable (hp : (side s r).pend = none) (hload : load_ s r < 2)
include hp hload

theorem refuseCause_of_request :
    refuseCause s g k =
      if (ent s r).st = .pausing ∨ (ent s r).st = .paused ∨ (ent s r).st = .closing then some 3 else none := by
  rw [refuseCause_of_ready hb hst hcq hl hqu, hk]
  exact if_neg (by simp [hp, hload])

theorem refuseCause_of_leaving (hs : (ent s r).st = .pausing ∨ (ent s r).st = .paused ∨ (ent s r).st = .closing) :
    refuseCause s g k = some 3 := by
  rw [refuseCause_of_request hb hst hcq hl hqu hk hp hload, if_pos hs]

theorem refuseCause_of_decode (hs : (ent s r).st = .decode) : refuseCause s g k = none := by
  rw [refuseCause_of_request hb hst hcq hl hqu hk hp hload, if_neg (by simp [hs])]

end Ready

end Causes

/-- Settles O10: the decision follows the cause, and the causes are told apart in R491's order. -/
theorem triggersAreDecided : Obligations.TriggersAreDecided := by
  unfold Obligations.TriggersAreDecided
  refine ⟨?_, fun s g k => refuseCause_of_full_buffer, fun s g k => refuseCause_of_channel, ?_,
    fun s g k => refuseCause_of_unbound⟩
  · rintro s p f j a _ _ u hp hq hd he hr ha rfl rfl hopen hu
    exact ⟨fun hc => leaves_of_effect (decide_eq_true hp) (triggerDecision_of_accepted hq hd he hr ha hopen hu hc),
      fun k hc hv => leaves_of_effect (decide_eq_true hp) (triggerDecision_of_refused hq hd he hr ha hopen hu hc hv)⟩
  · intro s g k r n hb hst hcq hl hqu hk
    exact ⟨refuseCause_of_loaded hb hst hcq hl hqu hk, refuseCause_of_leaving hb hst hcq hl hqu hk,
      refuseCause_of_decode hb hst hcq hl hqu hk⟩

end Sys2Proof.Proofs
end

section
namespace Sys2Proof.Proofs
open Sys2Proof Sys2Proof.Machine Sys2Proof.Safety Sys2Proof.Laws

set_option Elab.async false

variable {s : State} {p : Nat} {f : Parse}

/-! ### The end of a frame (R477, R487) -/

section Verdict
variable {d : Bytes} (hq : (port s p).parse = [f]) (hv : f.verdict = none) (hm : f.matched = true)
  (ht : f.sfd + fecRx s p + byteFt s p (frameLen f) + 4 ≤ s.ft)
include hq hv hm ht

theorem fcsVerdict_of_short_or_corrupt (hbad : f.frame.length < 64 ∨ (f.frame.length ≤ 2048 ∧ f.fcsOk = false)) :
    fcsVerdict p d s = dropFrame p f.sfd (withdraw p f.sfd (falseWake f (portCount p 1 s))) := by
  have hlen : ¬2048 < f.frame.length := by omega
  have hcut : 2048 < f.frame.length ∨ f.frame.length < 64 ∨ !f.fcsOk := by
    obtain hshort | ⟨-, hfcs⟩ := hbad
    · exact .inr (.inl hshort)
    · exact .inr (.inr (by simp [hfcs]))
  unfold fcsVerdict
  rw [hq, List.find?_cons_of_pos (by simp [hv, hm, ht])]
  dsimp only
  rw [if_pos hcut, if_neg hlen]

theorem fcsVerdict_of_long (hlong : 2048 < f.frame.length) :
    fcsVerdict p d s = dropFrame p f.sfd (withdraw p f.sfd (falseWake f (portCount p 2 s))) := by
  unfold fcsVerdict
  rw [hq, List.find?_cons_of_pos (by simp [hv, hm, ht])]
  dsimp only
  rw [if_pos (.inl hlong), if_pos hlong]

variable (h64 : 64 ≤ f.frame.length) (h2048 : f.frame.length ≤ 2048) (hfcs : f.fcsOk = true)
  (hmac : slice f.frame 12 2 ≠ [0x88, 0x08])
include h64 h2048 hfcs hmac

theorem fcsVerdict_of_good_match {j : Nat} (hj : f.first = some j) (hcopy : (rule (portCount p 0 s) j).hostCopy = false)
    (he : f.ended ≠ some false) (hd : f.decided ≠ some false) :
    fcsVerdict p d s = modFrame p f.sfd (fun x => { x with verdict := some true }) (portCount p 0 s) := by
  unfold fcsVerdict
  rw [hq, List.find?_cons_of_pos (by simp [hv, hm, ht])]
  dsimp only
  rw [if_neg (by simp [h64, h2048, hfcs])]
  simp only [beq_false_of_ne hmac, when_false, hj, hcopy, Bool.false_eq_true, if_false]
  exact if_neg (by simp [he, hd])

theorem fcsVerdict_of_good_unmatched (hf : f.first = none) (hcopy : bit (rd (portCount p 0 s) (rPort p 0)) 3 = true) :
    fcsVerdict p d s = dropFrame p f.sfd (hostReceive p f.sfd 0xFF f.frame d (portCount p 0 s)) := by
  unfold fcsVerdict
  rw [hq, List.find?_cons_of_pos (by simp [hv, hm, ht])]
  dsimp only
  rw [if_neg (by simp [h64, h2048, hfcs])]
  simp only [beq_false_of_ne hmac, when_false, hf, hcopy, if_true]
  rfl

end Verdict

/-! ### Delivery and entry into admission (R487, R488) -/

theorem triggerDeliver_of_complete (hq : (port s p).parse = [f]) (hd : f.decided = some true) (hv : f.verdict = some true)
    (he : f.ended = some true) (h25 : f.decidedAt + 25 ≤ s.ft) (h4 : f.lastEmit + 4 ≤ s.ft) :
    triggerDeliver p s =
      dropFrame p f.sfd (bumpSat 0x0009000C (modSpg (fun g => { g with buf := g.buf.map (fun t =>
        if t.port == p && t.sfd == f.sfd then { t with delivered := true, tokens := f.tokens } else t) }) s)) := by
  unfold triggerDeliver
  rw [hq, List.find?_cons_of_pos (by simp [hd, hv, he, h25, h4])]

section Enter
variable {t : Trig} {rest : List Trig} (hb : s.spg.buf = t :: rest)
include hb

theorem enterAdmission_of_delivered (hd : t.delivered = true) (hon : isOn s dSEQ = true) (hroom : s.admq.length < 32)
    (hl : leaving s = false) (hw : trigWaits s t = false) :
    enterAdmission s = enterTrigger t (modSpg (fun g => { g with buf := rest }) s) := by
  unfold enterAdmission
  rw [hb]
  exact if_neg (by simp [hd, hon, hroom, hl, hw])

theorem enterAdmission_of_undelivered (hd : t.delivered = false) : enterAdmission s = s := by
  unfold enterAdmission
  rw [hb]
  exact if_pos (by simp [hd])

end Enter

/-! ### The key table (R490) -/

section Bind
variable {c k : Nat} (hck : (c, k) = bindKeyOf s)
include hck

theorem spgUnbind_of_bound (h : (boundReq s c k).isSome = true) :
    spgUnbind s =
      bindStat 0 (modSpg (fun g => { g with keys := g.keys.filter (fun x => !(x.1 == c && x.2.1 == k)) }) s) := by
  simp only [spgUnbind, ← hck, h, if_true]

theorem spgUnbind_of_unbound (h : boundReq s c k = none) : spgUnbind s = bindStat 2 s := by
  simp [spgUnbind, ← hck, h]

end Bind

theorem spgBind_of_bad_handle (h : handleOk s 2 (rd64 s 0x00090048) = false) : spgBind s = bindStat 2 s :=
  if_pos (by simp [h])

section Live
variable {c k r : Nat} (hck : (c, k) = bindKeyOf s) (hr : r = hIdx (rd64 s 0x00090048))
  (hok : handleOk s 2 (rd64 s 0x00090048) = true) (hchip : hChip (rd64 s 0x00090048) = s.fab.chip)
  (hst : (ent s r).st = .decode) (hsh : (ent s r).shadow = false) (hhold : isHolder r = false)
include hck hr hok hchip hst hsh hhold

/-- A handle of a live request: whose channel it is of, whether the pair is bound and whether the table has room decide. -/
theorem spgBind_of_live :
    spgBind s =
      if (ent s r).channel ≠ c ∨ (chan s c).st ≠ 1 ∨ (ent s r).orphan then bindStat 3 s
      else if (boundReq s c k).isSome then bindStat 1 s
      else if 4096 ≤ s.spg.keys.length then bindStat 3 s
      else bindStat 0 (modSpg (fun g => { g with keys := g.keys ++ [(c, k, r, genOf s 2 r)] }) s) := by
  subst hr
  unfold spgBind
  rw [← hck]
  exact if_neg (by simp [hok, hchip, hst, hsh, hhold])

theorem spgBind_of_other_channel (hc : (ent s r).channel ≠ c) : spgBind s = bindStat 3 s := by
  rw [spgBind_of_live hck hr hok hchip hst hsh hhold, if_pos (.inl hc)]

variable (hc : (ent s r).channel = c) (hopen : (chan s c).st = 1) (horph : (ent s r).orphan = false)
include hc hopen horph

theorem spgBind_of_bound (hb : (boundReq s c k).isSome = true) : spgBind s = bindStat 1 s := by
  rw [spgBind_of_live hck hr hok hchip hst hsh hhold, if_neg (by simp [hc, hopen, horph]), if_pos hb]

theorem spgBind_of_unbound (hb : boundReq s c k = none) (hroom : s.spg.keys.length < 4096) :
    spgBind s = bindStat 0 (modSpg (fun g => { g with keys := g.keys ++ [(c, k, r, genOf s 2 r)] }) s) := by
  rw [spgBind_of_live hck hr hok hchip hst hsh hhold, if_neg (by simp [hc, hopen, horph]), if_neg (by simp [hb]),
    if_neg (Nat.not_le.2 hroom)]

end Live

/-- Settles O11: the verdict, delivery, entry into admission and the key table, case by case. -/
theorem verdictsAndKeyTable : Obligations.VerdictsAndKeyTable := by
  unfold Obligations.VerdictsAndKeyTable
  refine ⟨⟨?_,
      fun s p f hp hq hd hv he h25 h4 => leaves_of_effect (decide_eq_true hp) (triggerDeliver_of_complete hq hd hv he h25 h4),
      fun s t rest hb hd hon hroom hl hw => leaves_of_effect rfl (enterAdmission_of_delivered hb hd hon hroom hl hw),
      fun s t rest hb hd => leaves_of_effect rfl (enterAdmission_of_undelivered hb hd)⟩,
    ?_, ?_, fun s j v hj => leaves_of_effect (decide_eq_true hj) rfl⟩
  · intro s p f d hp hd hq hv hm ht
    have hwf : (Instr.fcsVerdict p d).wf = true := by simp [Instr.wf, hp, hd]
    refine ⟨fun hbad => leaves_of_effect hwf (fcsVerdict_of_short_or_corrupt hq hv hm ht hbad),
      fun hlong => leaves_of_effect hwf (fcsVerdict_of_long hq hv hm ht hlong), ?_,
      fun h64 h2048 hfcs hmac hf hcopy =>
        leaves_of_effect hwf (fcsVerdict_of_good_unmatched hq hv hm ht h64 h2048 hfcs hmac hf hcopy)⟩
    rintro h64 h2048 hfcs hmac ⟨j, hj, hcopy⟩ he hdec
    exact leaves_of_effect hwf (fcsVerdict_of_good_match hq hv hm ht h64 h2048 hfcs hmac hj hcopy he hdec)
  · rintro s c k _ r hck rfl hr
    exact ⟨fun h => leaves_of_effect rfl (spgBind_of_bad_handle h), fun hok hchip hst hsh hhold =>
      ⟨fun hc => leaves_of_effect rfl (spgBind_of_other_channel hck hr hok hchip hst hsh hhold hc), fun hc hopen horph =>
        ⟨fun hb => leaves_of_effect rfl (spgBind_of_bound hck hr hok hchip hst hsh hhold hc hopen horph hb),
          fun hb hroom => leaves_of_effect rfl (spgBind_of_unbound hck hr hok hchip hst hsh hhold hc hopen horph hb hroom)⟩⟩⟩
  · intro s c k hck
    exact ⟨fun h => leaves_of_effect rfl (spgUnbind_of_bound hck h), fun h => leaves_of_effect rfl (spgUnbind_of_unbound hck h)⟩

end Sys2Proof.Proofs
end

section
namespace Sys2Proof.Proofs
open Sys2Proof Sys2Proof.Machine Sys2Proof.Safety Sys2Proof.Laws

set_option Elab.async false

variable {s : State}

/-! ### PTP mappings, host queues and leases (R479, R499, R502) -/

theorem bits_low (w hi : Nat) : bits w hi 0 = w % 2 ^ (hi + 1) := by
  simp [bits]

theorem ptpActivate_of_due {m : PtpMap} (hm : s.spg.ptpNext = some m) (h : m.ft ≤ s.ft) :
    ptpActivate s = { s with spg := { s.spg with ptp := m, ptpNext := none } } := by
  rw [ptpActivate, hm]
  exact if_pos h

theorem ptpActivate_of_early {m : PtpMap} (hm : s.spg.ptpNext = some m) (h : s.ft < m.ft) : ptpActivate s = s := by
  rw [ptpActivate, hm]
  exact if_neg (Nat.not_le.2 h)

theorem ptpActivate_staged_of_due {m : PtpMap} (h : m.ft ≤ s.ft) :
    ptpActivate (modSpg (fun g => { g with ptpNext := some m }) s) =
      { s with spg := { s.spg with ptp := m, ptpNext := none } } := if_pos h

theorem ptpActivate_staged_of_early {m : PtpMap} (h : s.ft < m.ft) :
    ptpActivate (modSpg (fun g => { g with ptpNext := some m }) s) = { s with spg := { s.spg with ptpNext := some m } } :=
  if_neg (Nat.not_le.2 h)

section Lease
variable {n : Nat} {v : Word}

theorem leaseGrant_of_no_go (h : bit v.toNat 31 = false) : leaseGrant n v s = s :=
  if_pos (by simp [h])

variable (hgo : bit v.toNat 31 = true)
include hgo

theorem leaseGrant_of_reset (h : bit v.toNat 30 = true) :
    leaseGrant n v s = modLease n (fun x => { x with next := x.start, left := v.toNat % 2 ^ 24 }) s := by
  unfold leaseGrant
  rw [if_neg (by simp [hgo]), if_pos h, bits_low]

variable (hreset : bit v.toNat 30 = false)
include hreset

theorem leaseGrant_of_following
    (h : (lease s n).start.toNat = ((lease s n).next.toNat + (lease s n).left) % 2 ^ 32) :
    leaseGrant n v s = modLease n (fun x => { x with left := x.left + v.toNat % 2 ^ 24 }) s := by
  unfold leaseGrant
  rw [if_neg (by simp [hgo]), if_neg (by simp [hreset]), if_pos h, bits_low]

theorem leaseGrant_of_gap (h : (lease s n).start.toNat ≠ ((lease s n).next.toNat + (lease s n).left) % 2 ^ 32) :
    leaseGrant n v s = setBit 0x000A001C 0 s := by
  unfold leaseGrant
  rw [if_neg (by simp [hgo]), if_neg (by simp [hreset]), if_neg h]

end Lease

/-- Settles O12: mappings by their FT, doorbells by their low bits, leases by GO, RESET and where START lies. -/
theorem ptpQueuesAndLeases : Obligations.PtpQueuesAndLeases := by
  unfold Obligations.PtpQueuesAndLeases
  refine ⟨⟨?_, ?_, ?_, ?_, fun s p up hp => leaves_of_effect (decide_eq_true hp) rfl⟩, ?_⟩
  · rintro s _ rfl
    exact ⟨fun h => leaves_of_effect rfl (ptpActivate_staged_of_due h),
      fun h => leaves_of_effect rfl (ptpActivate_staged_of_early h)⟩
  · intro s m hm
    exact ⟨fun h => leaves_of_effect rfl (ptpActivate_of_due hm h), fun h => leaves_of_effect rfl (ptpActivate_of_early hm h)⟩
  · intro s p v hp
    rw [show v.toNat % 4096 = bits v.toNat 11 0 from (bits_low v.toNat 11).symm]
    exact leaves_of_effect (decide_eq_true hp) rfl
  · intro s p v hp
    rw [show v.toNat % 4096 = bits v.toNat 11 0 from (bits_low v.toNat 11).symm]
    exact leaves_of_effect (decide_eq_true hp) rfl
  · rintro s n v _ hn rfl
    exact ⟨fun h => leaves_of_effect (decide_eq_true hn) (leaseGrant_of_no_go h),
      fun hgo h => leaves_of_effect (decide_eq_true hn) (leaseGrant_of_reset hgo h),
      fun hgo hreset h => leaves_of_effect (decide_eq_true hn) (leaseGrant_of_following hgo hreset h),
      fun hgo hreset h => leaves_of_effect (decide_eq_true hn) (leaseGrant_of_gap hgo hreset h)⟩

/-! ### Loads of templates and map entries (R495) -/

theorem egrLoad_of_idle (isMap : Bool) (h : s.spg.load = none) :
    egrLoad isMap s =
      emit (.hostRead .pf (BitVec.ofNat 64 (rd64 s 0x000A0000)) (if isMap then 8 * rdf s 0x000A0008 31 16 else 336))
        (loadStat 3 (touch dEGR (modSpg (fun g => { g with load := some ⟨isMap, rdf s 0x000A0008 15 0,
          if isMap then rdf s 0x000A0008 31 16 else 1, BitVec.ofNat 64 (rd64 s 0x000A0000)⟩ }) s))) := by
  unfold egrLoad
  rw [h]
  cases isMap <;> rfl

theorem egrLoad_of_busy (isMap : Bool) (h : s.spg.load.isSome = true) : egrLoad isMap s = s := if_pos h

section Commit
variable {l : EgrLoad} {b : Bytes} (hl : s.spg.load = some l) (hon : isOn s dEGR = true)
include hl hon

theorem loadCommit_of_dma_error :
    loadCommit none s = loadStat 2 (touch dEGR (modSpg (fun g => { g with load := none }) s)) := by
  unfold loadCommit
  rw [hl]
  exact if_neg (by simp [hon])

section Template
variable (htmpl : l.isMap = false) (hlen : b.length = 336)
include htmpl hlen

/-- A template that arrives whole is committed or refused by R495's checks. -/
theorem loadCommit_of_template :
    loadCommit (some b) s =
      if 1024 ≤ l.index ∨ tmplBad b then loadStat 1 (touch dEGR (modSpg (fun g => { g with load := none }) s))
      else loadStat 0 (modSpg (fun g => { g with tmpls := put g.tmpls l.index (tmplOf b) {} })
        (touch dEGR (modSpg (fun g => { g with load := none }) s))) := by
  unfold loadCommit
  rw [hl]
  dsimp only
  rw [if_neg (by simp [hon]), htmpl, if_neg (by simp [hlen])]
  rfl

theorem loadCommit_of_good_template (hidx : l.index < 1024) (hb : tmplBad b = false) :
    loadCommit (some b) s = loadStat 0 (modSpg (fun g => { g with tmpls := put g.tmpls l.index (tmplOf b) {} })
      (touch dEGR (modSpg (fun g => { g with load := none }) s))) := by
  rw [loadCommit_of_template hl hon htmpl hlen, if_neg (by simp [hidx, hb])]

theorem loadCommit_of_bad_template (hbad : 1024 ≤ l.index ∨ tmplBad b = true) :
    loadCommit (some b) s = loadStat 1 (touch dEGR (modSpg (fun g => { g with load := none }) s)) := by
  rw [loadCommit_of_template hl hon htmpl hlen, if_pos hbad]

end Template

theorem loadCommit_of_map (hmap : l.isMap = true) (hlen : b.length = 8 * l.count) (hcount : l.count ≠ 0) :
    loadCommit (some b) s =
      loadStat 0 (modSpg (fun g => { g with emap := (List.range l.count).foldl (fun m i =>
        put m ((l.index + i) % 65536) (BitVec.ofNat 64 (u64 b (8 * i))) 0) g.emap })
          (touch dEGR (modSpg (fun g => { g with load := none }) s))) := by
  unfold loadCommit
  rw [hl]
  dsimp only
  rw [if_neg (by simp [hon]), hmap, if_neg (by simp [hlen]), if_pos rfl, if_neg hcount]

end Commit

/-- Settles O13: GO begins a load when none is under way, and what arrives is committed whole or refused whole. -/
theorem egressLoadsCommitWhole : Obligations.EgressLoadsCommitWhole := by
  unfold Obligations.EgressLoadsCommitWhole
  refine ⟨?_, ?_, ?_⟩
  · rintro s _ hl rfl
    exact ⟨leaves_of_effect rfl (egrLoad_of_idle false hl), leaves_of_effect rfl (egrLoad_of_idle true hl)⟩
  · intro s hl
    exact ⟨leaves_of_effect rfl (egrLoad_of_busy false hl), leaves_of_effect rfl (egrLoad_of_busy true hl)⟩
  · rintro s l _ hl hon rfl
    exact ⟨leaves_of_effect rfl (loadCommit_of_dma_error hl hon),
      fun b ht hlen hidx hb => leaves_of_effect rfl (loadCommit_of_good_template hl hon ht hlen hidx hb),
      fun b ht hlen hbad => leaves_of_effect rfl (loadCommit_of_bad_template hl hon ht hlen hbad),
      fun b hm hlen hc => leaves_of_effect rfl (loadCommit_of_map hl hon hm hlen hc)⟩

/-! ### Frames leaving a port (R501, R541) -/

/-- The port's state once the frame at its head has left its queue. -/
abbrev dequeued (p : Nat) (rest : List QFrame) (s : State) : State :=
  touch dEGR (modPort p (fun q => { q with q := rest }) s)

section Transmit
variable {p : Nat} {f : QFrame} {rest : List QFrame} (hq : (port s p).q = f :: rest) (hready : f.ready ≤ s.ft)
  (hwire : (port s p).busyUntil ≤ s.ft) (hlink : (port s p).link = true) (hon : isOn s dEGR = true)
include hq hready hwire hlink hon

theorem transmitStart_of_halt (hhalt : bit (rd s rHaltStat) 8 = true) :
    transmitStart p s = settleFrame f.req f.gen f.acc (logC 0x0604 [] (portCount p 6 (dequeued p rest s))) := by
  unfold transmitStart
  dsimp only
  rw [hq]
  dsimp only
  rw [if_neg (by simp [hready, hwire, hlink, hon])]
  exact if_pos hhalt

theorem transmitStart_of_in_time (hhalt : bit (rd s rHaltStat) 8 = false) (htime : ∀ d, f.deadline = some d → s.ft ≤ d) :
    transmitStart p s = settleFrame f.req f.gen f.acc (sendFrame p 4 f.frame (dequeued p rest s)) := by
  have hpast : f.deadline.any (fun d => decide (d < (dequeued p rest s).ft)) = false := by
    cases hd : f.deadline with
    | none => rfl
    | some d => exact decide_eq_false (Nat.not_lt.2 (htime d hd))
  have hhalt' : bit (rd (dequeued p rest s) rHaltStat) 8 = false := hhalt
  unfold transmitStart
  dsimp only
  rw [hq]
  dsimp only
  rw [if_neg (by simp [hready, hwire, hlink, hon]), hpast, if_neg (by simp [hhalt'])]
  rfl

theorem transmitStart_of_late {d : Nat} (hhalt : bit (rd s rHaltStat) 8 = false) (hd : f.deadline = some d)
    (hpast : d < s.ft) (hlate : f.late = false) :
    transmitStart p s =
      settleFrame f.req f.gen f.acc (lateDrop f.req f.gen f.acc (portCount p 6 (dequeued p rest s))) := by
  have hhalt' : bit (rd (dequeued p rest s) rHaltStat) 8 = false := hhalt
  unfold transmitStart
  dsimp only
  rw [hq]
  dsimp only
  rw [if_neg (by simp [hready, hwire, hlink, hon]), if_neg (by simp [hhalt']), if_pos (by simp [hd, hlate, hpast])]

end Transmit

section Patch
variable {j : PatchJob} (hj : s.spg.jobs = [j]) (hat : j.at_ ≤ s.ft) (hon : isOn s dEGR = true)
include hj hat hon

theorem egressPatch_of_no_requirement (hall : j.tmpl.requireAll = false) :
    egressPatch s = finishFrame j (touch dEGR (modSpg (fun g => { g with jobs := g.jobs.erase j }) s)) := by
  unfold egressPatch
  rw [hj, List.find?_cons_of_pos (by simpa using hat)]
  dsimp only
  rw [if_neg (by simp [hon]), if_neg (by simp [hall])]

theorem egressPatch_of_missing_token {p : Patch} (hall : j.tmpl.requireAll = true) (hp : p ∈ j.tmpl.patches)
    (hnone : ∀ k ∈ j.tokens, k.1 ≠ p.pos) :
    egressPatch s = settleFrame j.req j.gen j.acc
      (bumpSat 0x000A0014 (touch dEGR (modSpg (fun g => { g with jobs := g.jobs.erase j }) s))) := by
  have hmissing : j.tmpl.patches.any (fun p => !j.tokens.any (fun k => k.1 == p.pos)) = true :=
    List.any_eq_true.2 ⟨p, hp, by simpa using hnone⟩
  unfold egressPatch
  rw [hj, List.find?_cons_of_pos (by simpa using hat)]
  dsimp only
  rw [if_neg (by simp [hon]), if_pos ⟨hall, hmissing⟩]

end Patch

/-- The port's state once the next transmit descriptor has been taken. -/
abbrev descTaken (p : Nat) (s : State) : State :=
  touch dEGR (modPort p (fun q => { q with txHead := (q.txHead + 1) % txDepth s p }) s)

section HostFrame
variable {p n : Nat} {d f g : Bytes} (hne : (port s p).txHead ≠ (port s p).txTail) (hq : (port s p).q = [])
  (hwire : (port s p).busyUntil ≤ s.ft) (hlink : (port s p).link = true) (hon : isOn s dEGR = true) (hn : n = u16 d 8)
  (hg : g = (if bit (u8 d 10) 0 then oneStep s (fit n f) (u16 d 11) (u16 d 13) else fit n f))
include hne hq hwire hlink hon hn hg

theorem hostTransmit_of_fitting (hlen : n ≤ rdf s (rPort p 0) 15 4) :
    hostTransmit p d f s =
      devEvent 8 (emit (.hostWrite .pf (BitVec.ofNat 64 (rd64 s (rPort p 0x48) + 16 * (port s p).txHead))
        (leBytes 8 s.ft ++ slice d 8 7 ++ [1])) (sendFrame p 5 g (descTaken p s))) := by
  subst hn hg
  unfold hostTransmit
  dsimp only
  rw [if_neg (by simp [hne, hq, hwire, hlink, hon]), decide_eq_false (Nat.not_lt.2 hlen)]
  rfl

theorem hostTransmit_of_too_long (hlen : rdf s (rPort p 0) 15 4 < n) :
    hostTransmit p d f s =
      devEvent 8 (emit (.hostWrite .pf (BitVec.ofNat 64 (rd64 s (rPort p 0x48) + 16 * (port s p).txHead))
        (leBytes 8 (fresh (descTaken p s)).1 ++ slice d 8 7 ++ [3])) (fresh (descTaken p s)).2) := by
  subst hn hg
  unfold hostTransmit
  dsimp only
  rw [if_neg (by simp [hne, hq, hwire, hlink, hon]), decide_eq_true hlen]
  rfl

end HostFrame

/-- Settles O14: what the head of a port's queue, a due patch and the next host descriptor meet. -/
theorem framesLeave : Obligations.FramesLeave := by
  unfold Obligations.FramesLeave
  refine ⟨⟨?_, ?_⟩, ?_⟩
  · rintro s p f rest _ hp hq hready hwire hlink hon rfl
    refine ⟨fun hhalt => leaves_of_effect (decide_eq_true hp) (transmitStart_of_halt hq hready hwire hlink hon hhalt),
      fun hhalt hd => leaves_of_effect (decide_eq_true hp) (transmitStart_of_in_time hq hready hwire hlink hon hhalt (by simp [hd])),
      fun d hhalt hd hle =>
        leaves_of_effect (decide_eq_true hp) (transmitStart_of_in_time hq hready hwire hlink hon hhalt (by simpa [hd] using hle)),
      fun d hhalt hd hpast hlate =>
        leaves_of_effect (decide_eq_true hp) (transmitStart_of_late hq hready hwire hlink hon hhalt hd hpast hlate)⟩
  · rintro s j _ hj hat hon rfl
    exact ⟨fun hall => leaves_of_effect rfl (egressPatch_of_no_requirement hj hat hon hall),
      fun p hall hp hnone => leaves_of_effect rfl (egressPatch_of_missing_token hj hat hon hall hp hnone)⟩
  · rintro s p d f g n _ hp hd hne hq hwire hlink hon hn hg rfl
    have hwf : (Instr.hostFrameTransmit p d f).wf = true := by simp [Instr.wf, hp, hd]
    exact ⟨fun hlen => leaves_of_effect hwf (hostTransmit_of_fitting hne hq hwire hlink hon hn hg hlen),
      fun hlen => leaves_of_effect hwf (hostTransmit_of_too_long hne hq hwire hlink hon hn hg hlen)⟩

end Sys2Proof.Proofs
end

section
namespace Sys2Proof.Proofs
open Sys2Proof Sys2Proof.Machine Sys2Proof.Safety Sys2Proof.Laws

set_option Elab.async false

variable {s : State} {p : Nat}

/-! ### Training (R34, R39, R40) -/

section Enable
variable {v : Word}

theorem linkEnWrite_of_begin (hen : bit v.toNat 0 = true) (hst : (link s p).st = 0) :
    linkEnWrite p v s = startTraining p (modLink p (fun l => { l with attempts := 0 }) (wr (rLink p 0) (v.toNat % 4) s)) := by
  unfold linkEnWrite
  dsimp only
  rw [if_neg (by simp [hen]), if_pos hst]

theorem linkEnWrite_of_begun (hen : bit v.toNat 0 = true) (hst : (link s p).st ≠ 0) :
    linkEnWrite p v s = wr (rLink p 0) (v.toNat % 4) s := by
  unfold linkEnWrite
  dsimp only
  rw [if_neg (by simp [hen]), if_neg hst]

theorem linkEnWrite_of_clear (hen : bit v.toNat 0 = false) :
    linkEnWrite p v s =
      modLink p (fun l => { l with st := 0, nbr := none, attempts := 0 })
        (if (link s p).st = 6 then leaveService p (wr (rLink p 0) (v.toNat % 4) s) else wr (rLink p 0) (v.toNat % 4) s) := by
  unfold linkEnWrite
  dsimp only
  rw [if_pos (by simp [hen])]
  simp only [when_, beq_iff_eq]

end Enable

theorem failAttempt_of_retry (h : (link s p).attempts < 2) :
    failAttempt p s = startTraining p (modLink p (fun l => { l with attempts := (link s p).attempts + 1 }) s) :=
  if_neg (by omega)

theorem failAttempt_of_third (h : 2 ≤ (link s p).attempts) :
    failAttempt p s = modLink p (fun l => { l with st := 8, attempts := 3 }) s :=
  if_pos (by omega)

section Timeout
variable (hp : p < 8)
include hp

theorem leaves_linkTrainingTimeout_of_due (h1 : 1 ≤ (link s p).st) (h4 : (link s p).st ≤ 4)
    (ht : (link s p).trainAt + trainLimit s p ≤ s.ft) {t : State} (hfail : failAttempt p s = t) :
    Leaves (.linkTrainingTimeout p) s t :=
  have hdue : 1 ≤ (link s p).st ∧ (link s p).st ≤ 5 ∧ ¬((link s p).st = 5 ∧ (link s p).mismatch = true) ∧
      (link s p).trainAt + trainLimit s p ≤ s.ft := ⟨h1, by omega, by omega, ht⟩
  leaves_of_effect (decide_eq_true hp) ((if_pos hdue).trans hfail)

/-- A link whose ends are configured for different modes stays in HELLO (R35). -/
theorem leaves_linkTrainingTimeout_of_mismatch (hst : (link s p).st = 5) (hm : (link s p).mismatch = true) :
    Leaves (.linkTrainingTimeout p) s s :=
  have hkept : ¬(1 ≤ (link s p).st ∧ (link s p).st ≤ 5 ∧ ¬((link s p).st = 5 ∧ (link s p).mismatch = true) ∧
      (link s p).trainAt + trainLimit s p ≤ s.ft) := by simp [hst, hm]
  leaves_of_effect (decide_eq_true hp) (if_neg hkept)

end Timeout

/-! ### Echoes and HELLO (R41, R50) -/

section Echo
variable {msg b : Bytes} {count : Nat} (hb : b = (ctlOf msg).body)
include hb

theorem echoMsg_of_request (hr : bit (u8 b 8) 0 = false) :
    echoMsg p msg count s =
      forEach (ctlFlits (if s.fab.valid then farId s p else 0) (if s.fab.valid then s.fab.chip else 0)
        (ctlBytes { sub := 0x01, body := slice b 0 8 ++ [1, BitVec.ofNat 8 (u8 b 9)] ++ zeros 22, noids := !s.fab.valid }))
        (fun f => txFlit p 3 0 f (s.ft + 16)) s := by
  subst hb
  exact if_neg (by simp [hr])

variable (hr : bit (u8 b 8) 0 = true) (hst : (link s p).st = 4)
include hr hst

theorem echoMsg_of_return (hlen : (link s p).echoes.length < 63) (hn : u8 b 9 = (link s p).echoes.length) :
    echoMsg p msg count s =
      sendEcho p ((link s p).echoes.length + 1) (modLink p (fun l => { l with echoes := l.echoes ++ [count - u64 b 0] }) s) := by
  subst hb
  unfold echoMsg
  dsimp only
  rw [if_pos hr, if_pos ⟨hst, by omega, hn⟩, if_pos hlen]

theorem echoMsg_of_last_return (hlen : (link s p).echoes.length = 63) (hn : u8 b 9 = 63) :
    echoMsg p msg count s = modLink p (fun l => { l with echoes := l.echoes ++ [count - u64 b 0] }) s := by
  subst hb
  unfold echoMsg
  dsimp only
  rw [if_pos hr, if_pos ⟨hst, by omega, by omega⟩, if_neg (by omega)]

end Echo

section Measure
variable (hst : (link s p).st = 4) (hlen : (link s p).echoes.length = 64)
include hst hlen

theorem measureComplete_of_unstable (h : stable (link s p).echoes = false) :
    measureComplete p s = sendEcho p 0 (modLink p (fun l => { l with echoes := [] }) s) := by
  unfold measureComplete
  dsimp only
  rw [if_neg (by simp [hst, hlen]), if_pos (by simp [h])]

theorem measureComplete_of_stable {m : Nat} {u : State} (h : stable (link s p).echoes = true)
    (hm : m = ((link s p).echoes.sum + 4) / 8 - 128)
    (hu : u = modLink p (fun x => { x with st := 5, lat16 := m, hoplat :=
      if m ≤ 16 * (if (link s p).coded then 118 else 29) then (if (link s p).coded then 118 else 29) else cdiv m 16 }) s) :
    measureComplete p s = agree p (ctlLink p 0x02 (helloBody u p) u) := by
  unfold measureComplete
  dsimp only
  rw [if_neg (by simp [hst, hlen]), if_neg (by simp [h]), ← hm, ← hu]

end Measure

section Hello
variable {msg b : Bytes} {u : State} (hb : b = (ctlOf msg).body)
  (hu : u = setLink p { link s p with nbr := some ⟨BitVec.ofNat 64 (u64 b 0), u8 b 8, bit (u8 b 9) 0,
    BitVec.ofNat 8 (u8 b 10), u8 b 11, u8 b 12 % 4⟩ } s)
include hb hu

theorem helloMsg_of_active (hst : (link s p).st = 6) : helloMsg p msg s = rechoose u := by
  subst hb hu
  unfold helloMsg
  dsimp only
  rw [if_pos (by omega), if_pos hst]

theorem helloMsg_of_training (hst : (link s p).st = 4 ∨ (link s p).st = 5) : helloMsg p msg s = agree p u := by
  subst hb hu
  unfold helloMsg
  dsimp only
  rw [if_pos (by omega), if_neg (by omega)]

end Hello

section Agree
variable {n : Nbr} (hn : (link s p).nbr = some n) (hst : (link s p).st = 5)
include hn hst

theorem agree_of_other_mode (hc : n.coded ≠ (link s p).coded) (hm : (link s p).mismatch = false) :
    agree p s = logC 0x0403 [] (modLink p (fun l => { l with mismatch := true }) s) := by
  unfold agree
  dsimp only
  rw [hn]
  dsimp only
  rw [if_neg (by simp [hst]), if_pos hc, if_neg (by simp [hm])]

theorem agree_of_same_mode (hc : n.coded = (link s p).coded) (hser : n.serial ≠ s.serial) (hft : s.clk.ftValid = false) :
    agree p s = rechoose (logC 0x0402 []
      (modLink p (fun l => { l with st := 6, mismatch := false, attempts := 0, checked := false }) s)) := by
  unfold agree
  dsimp only
  rw [hn]
  dsimp only
  rw [if_neg (by simp [hst]), if_neg (by simp [hc]), if_neg hser, logEv_clk, modLink_clk, hft, when_false]

end Agree

/-- Settles O15: each state of training and each message of it, by the link's state. -/
theorem linksTrain : Obligations.LinksTrain := by
  unfold Obligations.LinksTrain
  refine ⟨⟨fun s p v hp hen hst => leaves_of_effect (decide_eq_true hp) (linkEnWrite_of_begin hen hst),
      fun s p v hp hen hst => leaves_of_effect (decide_eq_true hp) (linkEnWrite_of_begun hen hst), ?_,
      fun s p hp hst => leaves_of_effect (decide_eq_true hp) (if_pos hst),
      fun s p hp hst => leaves_of_effect (decide_eq_true hp) (if_pos hst),
      fun s p hp hst => leaves_of_effect (decide_eq_true hp) (if_pos hst),
      fun s p hp h1 h4 ht =>
        ⟨fun h => leaves_linkTrainingTimeout_of_due hp h1 h4 ht (failAttempt_of_retry h),
          fun h => leaves_linkTrainingTimeout_of_due hp h1 h4 ht (failAttempt_of_third h)⟩,
      fun s p hp hst hm => leaves_linkTrainingTimeout_of_mismatch hp hst hm,
      fun s p v hp hr hst => leaves_of_effect (decide_eq_true hp) (if_pos (And.intro hr hst)),
      fun s p hst => if_pos hst⟩,
    fun s p msg count b hp hb _ hr => leaves_of_effect (decide_eq_true hp) (echoMsg_of_request hb hr),
    ?_, ?_, ?_, ?_, ?_,
    fun s p n hn hst => ⟨fun hc hm => agree_of_other_mode hn hst hc hm,
      fun hc hser hft => agree_of_same_mode hn hst hc hser hft⟩⟩
  · rintro s p v _ hp hen rfl
    exact leaves_of_effect (decide_eq_true hp) (linkEnWrite_of_clear hen)
  · rintro s p msg count b _ hp hb rfl _ hr hst hlen hn
    exact leaves_of_effect (decide_eq_true hp) (echoMsg_of_return hb hr hst hlen hn)
  · rintro s p msg count b _ hp hb rfl _ hr hst hlen hn
    exact leaves_of_effect (decide_eq_true hp) (echoMsg_of_last_return hb hr hst hlen hn)
  · rintro s p _ hp rfl hst hlen h
    exact leaves_of_effect (decide_eq_true hp) (measureComplete_of_unstable hst hlen h)
  · rintro s p _ m u hp rfl hst hlen h hm hu
    exact leaves_of_effect (decide_eq_true hp) (measureComplete_of_stable hst hlen h hm hu)
  · intro s p msg b u hp _ hb hu
    exact ⟨fun hst => leaves_of_effect (decide_eq_true hp) (helloMsg_of_active hb hu hst),
      fun hst => leaves_of_effect (decide_eq_true hp) (helloMsg_of_training hb hu hst)⟩

/-! ### Links that are lost (R42, R90) -/

/-- A link with lock on aligned lanes: in MEASURE, HELLO or ACTIVE. -/
theorem upish_of_st (h : (link s p).st = 4 ∨ (link s p).st = 5 ∨ (link s p).st = 6) : upish s p = true := by
  simp [upish, or_assoc, h]

theorem linkDown_of_active (h : (link s p).st = 6) :
    linkDown p s = leaveService p (devEvent 0 (setBit (rLink p 4) 4 (logC 0x0401 [] s))) :=
  if_pos h

theorem linkDown_of_training (h : (link s p).st ≠ 6) :
    linkDown p s = failAttempt p (portOut p (devEvent 0 (setBit (rLink p 4) 4 (logC 0x0401 [] s)))) :=
  if_neg h

/-- Losing lock and losing the keep-alive are one: the link is declared down. -/
theorem leaves_loss {t : State} (hp : p < 8) (hup : upish s p = true) (ht : linkDown p s = t) :
    Leaves (.laneLockLoss p) s t ∧ Leaves (.keepaliveTimeout p) s t :=
  ⟨leaves_of_effect (decide_eq_true hp) ((if_pos hup).trans ht), leaves_of_effect (decide_eq_true hp) ((if_pos hup).trans ht)⟩

section Abandoned
variable {vc set : Nat} {x : RxPart} (hx : s.fab.parts = [x]) (hdead : x.dead = 1) (hvc : x.vc = vc) (hset : x.set = set)
  (hport : x.port = p)
include hx hdead hvc hset hport

theorem abandonedFlit_of_not_forwarded (hf : x.fwd = none) :
    abandonedFlit p vc set s = modFab (fun b => { b with parts := [{ x with dead := 2 }] }) s := by
  unfold abandonedFlit
  rw [hx, List.find?_cons_of_pos (by simp [hdead, hvc, hset, hport])]
  simp [hf, modFab, hx]

theorem abandonedFlit_of_forwarded {q : Nat} (hf : x.fwd = some q) (hq : q < 8) (heop : x.eopIn = true) :
    abandonedFlit p vc set s =
      sendPacket vc x.hdr.dst set [mkFlit { x.hdr with eop := true, abt := true, len := 0 } []] 0
        (modFab (fun b => { b with parts := [] }) s) := by
  unfold abandonedFlit
  rw [hx, List.find?_cons_of_pos (by simp [hdead, hvc, hset, hport])]
  simp [hf, heop, modFab, hx, Nat.not_le.2 hq]

end Abandoned

/-! ### Replay (R37, R38) -/

section Replay
variable (hst : (link s p).st = 6)
include hst

theorem flitCrcError_of_first (hd : discards (bumpSat (rLink p 0x10) s) p = false) :
    flitCrcError p s = emit (.linkSym p 0 0 0 0)
      (modLink p (fun l => { l with discarding := true, discardTill := s.ft + replayCost l.coded })
        (bumpSat (rLink p 0x10) s)) := by
  unfold flitCrcError
  rw [if_pos (upish_of_st (.inr (.inr hst)))]
  dsimp only
  rw [if_neg (by simp [hd])]
  rfl

theorem flitCrcError_of_awaited (hd : discards (bumpSat (rLink p 0x10) s) p = true) :
    flitCrcError p s = bumpSat (rLink p 0x10) s := by
  unfold flitCrcError
  rw [if_pos (upish_of_st (.inr (.inr hst)))]
  exact if_pos hd

theorem replayRequest_of_progress {n : Nat} (hn : 1 ≤ n) :
    replayRequest p n s =
      forEach ((link s p).replay.drop n) (fun q t => addWrap (rLink p 0x18) 1 (emit (.flit p (onLink (link s p).coded q.flit)) t))
        (bumpSat (rLink p 0x0C) (setLink p { link s p with replay := (link s p).replay.drop n, fails := 1 } s)) := by
  unfold replayRequest
  dsimp only
  rw [if_neg (by simp [upish_of_st (.inr (.inr hst))]), if_neg (by omega : n ≠ 0)]
  rfl

theorem replayRequest_of_fails (hf : (link s p).fails < 4) :
    replayRequest p 0 s =
      forEach (link s p).replay (fun q t => addWrap (rLink p 0x18) 1 (emit (.flit p (onLink (link s p).coded q.flit)) t))
        (bumpSat (rLink p 0x0C) (setLink p { link s p with fails := (link s p).fails + 1 } s)) := by
  unfold replayRequest
  dsimp only
  rw [if_neg (by simp [upish_of_st (.inr (.inr hst))]), if_pos rfl, if_neg (by omega)]
  rfl

theorem replayRequest_of_fifth (hf : 4 ≤ (link s p).fails) :
    replayRequest p 0 s = linkDown p (setLink p { link s p with fails := (link s p).fails + 1 } s) := by
  unfold replayRequest
  dsimp only
  rw [if_neg (by simp [upish_of_st (.inr (.inr hst))]), if_pos rfl, if_pos (by omega)]
  rfl

end Replay

/-- Settles O16: losses by the link's state, replay by what the request frees and how often it has failed. -/
theorem linksReplayAndAreLost : Obligations.LinksReplayAndAreLost := by
  unfold Obligations.LinksReplayAndAreLost
  refine ⟨⟨?_, ?_⟩, ?_, ?_, ?_, ?_, ?_, ?_⟩
  · rintro s p _ hp rfl
    exact ⟨fun hst => leaves_loss hp (upish_of_st (by omega)) (linkDown_of_active hst),
      fun hst => leaves_loss hp (upish_of_st (by omega)) (linkDown_of_training (by omega))⟩
  · intro s p vc set x hp hvc hset hx hdead hxvc hxset hport
    have hwf : (Instr.abandonedFlit p vc set).wf = true := by
      have : vc < 8 := by omega
      simp [Instr.wf, hp, hset, this]
    exact ⟨fun hf => leaves_of_effect hwf (abandonedFlit_of_not_forwarded hx hdead hxvc hxset hport hf),
      fun q hf hq heop => leaves_of_effect hwf (abandonedFlit_of_forwarded hx hdead hxvc hxset hport hf hq heop)⟩
  · rintro s p _ hp hst rfl
    exact ⟨fun hd => leaves_of_effect (decide_eq_true hp) (flitCrcError_of_first hst hd),
      fun hd => leaves_of_effect (decide_eq_true hp) (flitCrcError_of_awaited hst hd)⟩
  · rintro s p n _ hp rfl hst hn
    exact leaves_of_effect (decide_eq_true hp) (replayRequest_of_progress hst hn)
  · rintro s p _ hp rfl hst hf
    exact leaves_of_effect (decide_eq_true hp) (replayRequest_of_fails hst hf)
  · rintro s p _ hp rfl hst hf
    exact leaves_of_effect (decide_eq_true hp) (replayRequest_of_fifth hst hf)
  · rintro s p n _ hp hn rfl
    have h0 : n ≠ 0 := by omega
    refine leaves_of_effect (decide_eq_true hp) ?_
    simp only [if_neg h0]
  · rintro s p vc set n _ hp hvc hset rfl
    have hwf : (Instr.creditReturn p vc set n).wf = true := by
      have : vc < 8 := by omega
      simp [Instr.wf, hp, hset, this]
    exact leaves_of_effect hwf rfl

end Sys2Proof.Proofs
end

section
namespace Sys2Proof.Proofs
open Sys2Proof Sys2Proof.Machine Sys2Proof.Safety Sys2Proof.Laws

set_option Elab.async false

variable {s : State} {p set : Nat} {f : Bytes}

/-! ### Flits on an ACTIVE link (R36, R37, R45, R83) -/

/-- A flit counted and acknowledged at link level; one that is not for the AON logic wakes LNK (R120). -/
abbrev flitCounted (p : Nat) (f : Bytes) (s : State) : State :=
  when_ (!aonFlit (hdrOf f) f) (wakeAll 5 [dLNK])
    (emit (.linkSym p 1 0 0 1) (addWrap (rLink p 0x1C) 1 (modLink p (fun l => { l with discarding := false }) s)))

section Receive
variable (hst : (link s p).st = 6)
include hst

theorem flitReceive_of_bad_crc (hm : (link s p).coded = false)
    (hcrc : u16 f 14 ≠ (crc16 (f.take 14 ++ f.drop 16)).toNat) : flitReceive p set f s = flitCrcError p s := by
  unfold flitReceive
  dsimp only
  rw [if_neg (by simp [hst]), if_pos (by simp [hm, hcrc])]

variable (hcrc : (link s p).coded = true ∨ u16 f 14 = (crc16 (f.take 14 ++ f.drop 16)).toNat)
include hcrc

theorem flitReceive_of_discarded (hd : discards s p = true) : flitReceive p set f s = s := by
  unfold flitReceive
  dsimp only
  rw [if_neg (by simp [hst]), if_neg (by grind), if_pos hd]

variable (hd : discards s p = false)
include hd

/-- A good flit goes on unless one before it is held or it has to wait itself. -/
theorem flitReceive_of_good :
    flitReceive p set f s =
      if behind (link (flitCounted p f s) p).rxHeld set f ∨ mustWait (flitCounted p f s) p set f then
        modLink p (fun l => { l with rxHeld := l.rxHeld ++ [(set, f)] }) (flitCounted p f s)
      else consume p set f (flitCounted p f s) := by
  unfold flitReceive
  dsimp only
  rw [if_neg (by simp [hst]), if_neg (by grind), if_neg (by simp [hd])]

theorem flitReceive_of_free (hheld : (link (flitCounted p f s) p).rxHeld = [])
    (hw : mustWait (flitCounted p f s) p set f = false) : flitReceive p set f s = consume p set f (flitCounted p f s) := by
  rw [flitReceive_of_good hst hcrc hd, if_neg (by rw [hheld, hw]; simp [behind])]

theorem flitReceive_of_waiting (hw : mustWait (flitCounted p f s) p set f = true) :
    flitReceive p set f s = modLink p (fun l => { l with rxHeld := l.rxHeld ++ [(set, f)] }) (flitCounted p f s) := by
  rw [flitReceive_of_good hst hcrc hd, if_pos (.inr hw)]

end Receive

/-! ### Posted writes and reads of one flit (R70, R72, R77, R89) -/

/-- A write stream's record past a packet in its order: `n` is the packet's cause, `m` what is lost with it. -/
abbrev recordPast (s : State) (h : Hdr) (n m : Nat) : DstStream :=
  let d := look s.fab.dstStreams (dstKey h.src h.stall) {}
  { next := (h.seq + 1) % 65536, faults := if n = 0 then d.faults else (d.faults + 1) % 65536,
    lost := (d.lost + m) % 65536, unacked := d.unacked + 1, oldest := d.oldest.or (some s.ft) }

/-- The state with that record. -/
abbrev streamPast (s : State) (h : Hdr) (n m : Nat) : State :=
  modFab (fun b => { b with dstStreams := put b.dstStreams (dstKey h.src h.stall) (recordPast s h n m) {} }) s

section Write
variable {x : Nat} {h : Hdr} (hh : h = hdrOf f) (hseq : h.seq = (look s.fab.dstStreams (dstKey h.src h.stall) {}).next)
include hh hseq

/-- The packet that its stream expects leaves no gap, and is closed, meets a cause or is applied. -/
theorem pwArrive_in_order :
    pwArrive [f] x s =
      if h.abt then streamPast s h 0 1
      else if pwCause s h x 1 ≠ 0 then
        logC 0x0406 [h.seq, h.src, h.stall]
          (sendFault (pwCause s h x 1) h.src h.stall h.dst h.seq
            (handleOf h.gen (handleChip (streamPast s h (pwCause s h x 1) 0) h) h.stall h.kind h.index) h.ofs
            (faultArg (streamPast s h (pwCause s h x 1) 0) h (pwCause s h x 1)).1
            (faultArg (streamPast s h (pwCause s h x 1) 0) h (pwCause s h x 1)).2)
      else
        { streamPast s h 0 0 with
          pond := putBytes s.pond (64 * h.ofs) ((payload f).take (h.len + 1))
          poison := put s.poison h.ofs (if h.poison then 1 else 0) 0 } := by
  have hgap : (h.seq + 65536 - (look s.fab.dstStreams (dstKey h.src h.stall) {}).next) % 65536 = 0 := by omega
  subst hh
  simp only [pwArrive, List.head?_cons, List.any_cons, List.any_nil, Bool.or_false, hgap, Nat.add_zero]
  rw [if_neg (by omega)]
  cases habt : (hdrOf f).abt
  · by_cases hk : pwCause s (hdrOf f) x 1 = 0
    · have hlen : pwCause s (hdrOf f) x [f].length = 0 := hk
      simp only [hk, hlen, Bool.false_eq_true, if_false, ne_eq, not_true_eq_false]
      rfl
    · have hlen : pwCause s (hdrOf f) x [f].length = pwCause s (hdrOf f) x 1 := rfl
      simp only [streamPast, recordPast, hk, hlen, Bool.false_eq_true, if_false, ne_eq, not_false_eq_true, if_true,
        Nat.add_zero]
  · simp only [if_true]
    rfl

theorem pwTaken_in_order : pwTaken [f] x s = (!h.abt && pwCause s h x 1 == 0) := by
  have hgap : (h.seq + 65536 - (look s.fab.dstStreams (dstKey h.src h.stall) {}).next) % 65536 = 0 := by omega
  subst hh
  simp only [pwTaken, List.head?_cons, List.any_cons, List.any_nil, Bool.or_false, hgap]
  cases (hdrOf f).abt <;> rfl

theorem pwStep_of_closed (habt : h.abt = true) : pwStep [f] x s = streamPast s h 0 1 := by
  rw [pwStep, pwTaken_in_order hh hseq, pwArrive_in_order hh hseq, habt]
  rfl

variable (habt : h.abt = false)
include habt

theorem pwStep_of_cause {k : Nat} (hk : pwCause s h x 1 = k) (hk0 : k ≠ 0) :
    pwStep [f] x s =
      logC 0x0406 [h.seq, h.src, h.stall]
        (sendFault k h.src h.stall h.dst h.seq (handleOf h.gen (handleChip (streamPast s h k 0) h) h.stall h.kind h.index) h.ofs
          (faultArg (streamPast s h k 0) h k).1 (faultArg (streamPast s h k 0) h k).2) := by
  rw [pwStep, pwTaken_in_order hh hseq, pwArrive_in_order hh hseq, habt, hk, beq_false_of_ne hk0]
  exact if_pos hk0

theorem pwStep_of_applied (hk : pwCause s h 0 1 = 0) :
    pwStep [f] 0 s =
      takeActs [f] { streamPast s h 0 0 with
        pond := putBytes s.pond (64 * h.ofs) ((payload f).take (h.len + 1))
        poison := put s.poison h.ofs (if h.poison then 1 else 0) 0 } := by
  rw [pwStep, pwTaken_in_order hh hseq, pwArrive_in_order hh hseq, habt, hk]
  rfl

end Write

theorem rdArrive_of_request (habt : (hdrOf f).abt = false) :
    rdArrive [f] s = sendPacket 1 (hdrOf f).src 0 [mkFlit
      { hdrOf f with type := 3, vc := 1, dst := (hdrOf f).src, src := s.fab.chip, eop := true,
                     poison := look s.poison (hdrOf f).ofs 0 != 0, ep := bit s.fab.cur 0, rsv := false }
      (lookBytes s.pond (64 * (hdrOf f).ofs) ((hdrOf f).len + 1))] 0 s := by
  simp only [rdArrive, List.head?_cons, List.any_cons, List.any_nil, Bool.or_false, habt]
  rfl

theorem rdArrive_of_closed (habt : (hdrOf f).abt = true) : rdArrive [f] s = s := by
  simp [rdArrive, habt]

theorem rdrArrive_of_closed (habt : (hdrOf f).abt = true) : rdrArrive [f] s = s := by
  simp [rdrArrive, habt]

theorem rdrArrive_of_read {x : ReadRec} (habt : (hdrOf f).abt = false) (hx : s.fab.reads = [x]) (hdst : x.dst = (hdrOf f).src)
    (hh : x.handle = BitVec.ofNat 64 (handleOf (hdrOf f).gen s.fab.chip (hdrOf f).stall (hdrOf f).kind (hdrOf f).index)) :
    rdrArrive [f] s = modFab (fun b => { b with reads := [] }) s := by
  simp [rdrArrive, habt, hx, hdst, hh, modFab]

/-- Settles O17: a flit by its CRC and what it meets, a packet of one flit by its type. -/
theorem flitsAndPackets : Obligations.FlitsAndPackets := by
  unfold Obligations.FlitsAndPackets
  refine ⟨?_, ?_, ?_, ?_⟩
  · rintro s p set f _ hp hset hlen hst rfl
    have hwf : (Instr.flitReceive p set f).wf = true := by simp [Instr.wf, hp, hset, hlen]
    exact ⟨fun hcrc => ⟨fun hd hheld hw => leaves_of_effect hwf (flitReceive_of_free hst hcrc hd hheld hw),
        fun hd hw => leaves_of_effect hwf (flitReceive_of_waiting hst hcrc hd hw),
        fun hd => leaves_of_effect hwf (flitReceive_of_discarded hst hcrc hd)⟩,
      fun hm hcrc => leaves_of_effect hwf (flitReceive_of_bad_crc hst hm hcrc)⟩
  · rintro s f _ _ _ _ rfl hlen rfl hseq rfl rfl
    have hwf (x : Nat) : (Instr.pw [f] x).wf = true := by simp [Instr.wf, hlen]
    refine ⟨fun habt hk => leaves_of_effect (hwf 0) (pwStep_of_applied rfl hseq habt hk), ?_,
      fun x habt => leaves_of_effect (hwf x) (pwStep_of_closed rfl hseq habt)⟩
    rintro x k _ habt hk hk0 rfl
    exact leaves_of_effect (hwf x) (pwStep_of_cause rfl hseq habt hk hk0)
  · rintro s f _ rfl hlen
    have hrd : (Instr.rd [f]).wf = true := by simp [Instr.wf, hlen]
    have hrdr : (Instr.rdr [f]).wf = true := by simp [Instr.wf, hlen]
    exact ⟨fun habt => leaves_of_effect hrd (rdArrive_of_request habt),
      fun habt => ⟨leaves_of_effect hrd (rdArrive_of_closed habt), leaves_of_effect hrdr (rdrArrive_of_closed habt)⟩⟩
  · rintro s f _ x rfl hlen habt hx hdst hh
    have hrdr : (Instr.rdr [f]).wf = true := by simp [Instr.wf, hlen]
    exact leaves_of_effect hrdr (rdrArrive_of_read habt hx hdst hh)

/-! ### Acknowledgements and routes (R72 to R74, R87) -/

section Pwack
variable {c n : Nat} {d : DstStream} (hd : d = look s.fab.dstStreams (dstKey c n) {})
include hd

theorem pwackSend_of_sixteen (h16 : 16 ≤ d.unacked) :
    pwackSend c n s =
      sendPacket 1 c 0 [mkFlit { type := 4, vc := 1, dst := c, src := s.fab.chip, stall := n, len := 5, ep := bit s.fab.cur 0 }
        (leBytes 2 ((d.next + 65535) % 65536) ++ leBytes 2 d.faults ++ leBytes 2 d.lost ++ zeros 58)] 0
        (modFab (fun b => { b with dstStreams := put b.dstStreams (dstKey c n) { d with unacked := 0, oldest := none } {} }) s) := by
  subst hd
  exact if_pos (.inl h16)

theorem pwackSend_of_early {t : Nat} (h16 : d.unacked < 16) (ht : d.oldest = some t) (hearly : s.ft < t + 64) :
    pwackSend c n s = s := by
  subst hd
  refine if_neg ?_
  rintro (h | ⟨-, h⟩)
  · omega
  · rw [ht] at h
    exact absurd h (Nat.not_le.2 hearly)

end Pwack

section Ack
variable {z : SrcStream} {a : Nat} (hz : z = look s.fab.srcStreams (srcKey (hdrOf f).stall (hdrOf f).src) {})
  (ha : a = ((u16 (payload f) 0 + 1) + 65536 - z.acked) % 65536)
include hz ha

theorem pwackArrive_of_ahead {w : SrcStream} (h0 : 0 < a) (hle : a ≤ 32768)
    (hw : w = { z with waiting := some (u16 (payload f) 0, u16 (payload f) 2, u16 (payload f) 4) }) :
    pwackArrive f s = tryAck (hdrOf f).stall (hdrOf f).src
      (modFab (fun b => { b with srcStreams := put b.srcStreams (srcKey (hdrOf f).stall (hdrOf f).src) w {} }) s) := by
  subst hz ha hw
  unfold pwackArrive
  dsimp only
  rw [if_neg (by omega)]

theorem pwackArrive_of_known (h0 : a = 0) (hw : z.waiting = none) : pwackArrive f s = s := by
  subst hz ha
  unfold pwackArrive tryAck
  dsimp only
  rw [if_pos (.inl h0), hw]

end Ack

section Hold
variable {n c d : Nat} {z : SrcStream} (hz : z = look s.fab.srcStreams (srcKey n c) {}) (hd : z.holdFor = some d)
include hz hd

theorem routeHoldRelease_of_due (hq : streamQueued s n c = false) (ht : z.lastTx + d ≤ s.ft) :
    routeHoldRelease n c s = releaseHeld n c
      (modFab (fun b => { b with srcStreams := put b.srcStreams (srcKey n c) { z with holdFor := none } {} }) s) := by
  subst hz
  unfold routeHoldRelease
  dsimp only
  rw [hd]
  exact if_pos ⟨by simp [hq], ht⟩

theorem routeHoldRelease_of_early (h : streamQueued s n c = true ∨ s.ft < z.lastTx + d) : routeHoldRelease n c s = s := by
  subst hz
  unfold routeHoldRelease
  dsimp only
  rw [hd]
  refine if_neg ?_
  rintro ⟨hq, ht⟩
  obtain h | h := h
  · simp [h] at hq
  · omega

end Hold

/-! ### Far faults (R80 to R82, R89) -/

section FarFault
variable {pl : Bytes}

theorem takeFault_of_repeat (h : s.fab.farHist.contains (slice pl 1 23) = true) : takeFault pl s = s := if_pos h

variable (hnew : s.fab.farHist.contains (slice pl 1 23) = false)
include hnew

theorem takeFault_of_full (h : 256 ≤ s.fab.farq.length) :
    takeFault pl s = modFab (fun b => { b with farHeld := b.farHeld ++ [pl] }) s :=
  (if_neg (by simp only [hnew, Bool.false_eq_true, not_false_eq_true])).trans (if_pos h)

theorem takeFault_of_room (h : s.fab.farq.length < 256) :
    takeFault pl s = acceptFault pl (when_ (namesRead s pl) (failRead (u8 pl 5) (BitVec.ofNat 64 (u64 pl 8))) s) :=
  (if_neg (by simp only [hnew, Bool.false_eq_true, not_false_eq_true])).trans (if_neg (Nat.not_le.2 h))

end FarFault

theorem leaves_farFault {pl : Bytes} {t : State} (hlen : pl.length = 64) (ht : takeFault pl s = t) :
    Leaves (.farFault pl) s (drainAll (tryAck (u8 pl 4 % 32) (u8 pl 5) t)) := by
  subst ht
  exact leaves_of_effect (by simp [Instr.wf, hlen]) rfl

section FarqHead
variable {v : Word} {n : Nat} (hn : n = (v.toNat % 256 + 256 - s.fab.farqHead) % 256)
include hn

theorem farqHeadWrite_of_present (h : n ≤ s.fab.farq.length) :
    farqHeadWrite v s = drainAll (applyHeld s.fab.farHeld.length
      (modFab (fun b => { b with farqHead := v.toNat % 256, farq := b.farq.drop n }) s)) := by
  subst hn
  exact if_neg (Nat.not_lt.2 h)

theorem farqHeadWrite_of_absent (h : s.fab.farq.length < n) : farqHeadWrite v s = s := by
  subst hn
  exact if_pos h

end FarqHead

/-- Settles O18: acknowledgements by what they cover, far faults by what FAB_FARQ and its history hold. -/
theorem pwackAndFarFaults : Obligations.PwackAndFarFaults := by
  unfold Obligations.PwackAndFarFaults
  refine ⟨⟨?_, ?_, ?_⟩, ?_, ?_⟩
  · intro s c n d hc hn hd
    have hwf : (Instr.pwackSend c n).wf = true := by simp [Instr.wf, hc, hn]
    exact ⟨fun h16 => leaves_of_effect hwf (pwackSend_of_sixteen hd h16),
      fun t h16 ht hearly => leaves_of_effect hwf (pwackSend_of_early hd h16 ht hearly)⟩
  · rintro s f _ z a rfl hlen hz ha
    have hwf : (Instr.pwack f).wf = true := by simp [Instr.wf, hlen]
    refine ⟨?_, fun h0 hw => leaves_of_effect hwf (pwackArrive_of_known hz ha h0 hw)⟩
    exact fun w h0 hle hw => leaves_of_effect hwf (pwackArrive_of_ahead hz ha h0 hle hw)
  · intro s n c z d hn hc hz hd
    have hwf : (Instr.routeHoldRelease n c).wf = true := by simp [Instr.wf, hc, hn]
    exact ⟨fun hq ht => leaves_of_effect hwf (routeHoldRelease_of_due hz hd hq ht),
      fun h => leaves_of_effect hwf (routeHoldRelease_of_early hz hd h)⟩
  · rintro s pl _ hlen rfl
    exact ⟨fun h => leaves_farFault hlen (takeFault_of_repeat h),
      fun hnew hroom hr => leaves_farFault hlen (by rw [takeFault_of_room hnew hroom, hr, when_false]),
      fun hnew hroom hr => leaves_farFault hlen (by rw [takeFault_of_room hnew hroom, hr, when_true]),
      fun hnew hfull => leaves_farFault hlen (takeFault_of_full hnew hfull)⟩
  · intro s v n hn
    exact ⟨fun h => leaves_of_effect rfl (farqHeadWrite_of_present hn h),
      fun h => leaves_of_effect rfl (farqHeadWrite_of_absent hn h)⟩

end Sys2Proof.Proofs
end

section
namespace Sys2Proof.Proofs
open Sys2Proof Sys2Proof.Machine Sys2Proof.Safety Sys2Proof.Laws

set_option Elab.async false

variable {s : State} {p : Nat} {m : Bytes}

/-! ### Row masks, lost chips and epochs (R86, R271, R532) -/

section RowMask
variable {pl : Bytes}

theorem rowMaskMsg_of_early (h : s.ft < u64 pl 16) : rowMaskMsg pl s = await (dAt (u64 pl 16)) (.rowMask pl) s := by
  rw [rowMaskMsg]
  exact if_pos h

/-- At its effect FT, or late with 0x0802, the notice masks the request's row in the one step that holds it. -/
theorem rowMaskMsg_of_due {t : Step} {x : Row} (h : u64 pl 16 ≤ s.ft) (ht : s.steps = [t]) (ha : t.aisle = u8 pl 1)
    (hx : t.rows = [x]) (hreq : x.req = hIdx (u64 pl 8)) (hgen : x.gen = hGen (u64 pl 8)) :
    rowMaskMsg pl s = maskStep (u8 pl 1) t.num 0 (modStep (u8 pl 1) t.num (fun t => { t with rows := t.rows.map (fun x =>
      if x.req == hIdx (u64 pl 8) && x.gen == hGen (u64 pl 8) then { x with live := false } else x) })
      (if u64 pl 16 < s.ft then logC 0x0802 [] s else s)) := by
  have hsteps : (when_ (decide (u64 pl 16 < s.ft)) (logC 0x0802) s).steps = [t] :=
    (when_keeps (view := State.steps) logEv_steps _).trans ht
  have hhits : [t].filter (fun t => t.aisle == u8 pl 1 && t.rows.any (fun x => x.req == hIdx (u64 pl 8) && x.gen == hGen (u64 pl 8))) = [t] := by
    simp [ha, hx, hreq, hgen]
  have hrow : t.rows.findIdx (fun x => x.req == hIdx (u64 pl 8) && x.gen == hGen (u64 pl 8)) = 0 := by
    simp [hx, hreq, hgen, List.findIdx_cons]
  unfold rowMaskMsg
  dsimp only
  rw [if_neg (Nat.not_lt.2 h), hsteps, hhits]
  simp only [forEach, List.foldl_cons, List.foldl_nil, hrow, when_, decide_eq_true_eq]

end RowMask

section ChipLost
variable {pl : Bytes}

theorem chipLostMsg_of_known (h : u8 pl 1 = s.fab.chip ∨ s.fab.lost.contains (u8 pl 1) = true) : chipLostMsg pl s = s :=
  if_pos h

variable (hchip : u8 pl 1 ≠ s.fab.chip) (hlost : s.fab.lost.contains (u8 pl 1) = false)
include hchip hlost

theorem chipLostMsg_of_new (hkind : u8 pl 3 ≠ 3) : chipLostMsg pl s = declareLost (u8 pl 1) (u8 pl 3) (u8 pl 2) s :=
  (if_neg (by simp only [hchip, hlost, Bool.false_eq_true, or_self, not_false_eq_true])).trans (if_neg hkind)

theorem chipLostMsg_of_cycle_stop (hkind : u8 pl 3 = 3) : chipLostMsg pl s = loseMember (u8 pl 1) 3 (postArmed 3 s) :=
  (if_neg (by simp only [hchip, hlost, Bool.false_eq_true, or_self, not_false_eq_true])).trans (if_pos hkind)

end ChipLost

theorem stagedMsg_of_root (h : isRoot s = true) :
    stagedMsg m s = armIfStaged (u16 (ctlOf m).body 0)
      (modFab (fun f => { f with reports := (f.reports ++ [u16 (ctlOf m).body 0 * 256 + u8 (ctlOf m).body 2]).dedup }) s) :=
  if_pos h

theorem stagedMsg_of_not_root (h : isRoot s = false) : stagedMsg m s = s := if_neg (by simp [h])

section EpochArm
variable {b : Bytes} {u : State} (hb : b = (ctlOf m).body)
  (hu : u = modFab (fun f => { f with armed := some (u16 b 0, u64 b 8), epochAt := u64 b 8 }) (if s.fab.stagedNum = u16 b 0 then s
    else modFab (fun f => { f with stagedNum := u16 b 0, stagedTab := f.active }) s))
include hb hu

theorem epochArmMsg_eq : epochArmMsg m s = if u64 b 8 < s.ft then commitEpoch (u16 b 0) 0x0409 u else u := by
  have hft : u.ft = s.ft := by
    rw [hu, modFab_ft]
    split <;> rfl
  subst hb
  rw [← hft]
  subst hu
  rfl

theorem epochArmMsg_of_early (h : s.ft ≤ u64 b 8) : epochArmMsg m s = u := by
  rw [epochArmMsg_eq hb hu, if_neg (Nat.not_lt.2 h)]

theorem epochArmMsg_of_passed (h : u64 b 8 < s.ft) : epochArmMsg m s = commitEpoch (u16 b 0) 0x0409 u := by
  rw [epochArmMsg_eq hb hu, if_pos h]

end EpochArm

section EpochCommit
variable {n t : Nat} (ha : s.fab.armed = some (n, t)) (hn : s.fab.stagedNum = n)
include ha hn

theorem epochCommit_of_due (h : t ≤ s.ft) : epochCommit s = commitEpoch n 0x0408 s := by
  rw [epochCommit, ha]
  exact if_pos ⟨h, hn⟩

omit hn in
theorem epochCommit_of_early (h : s.ft < t) : epochCommit s = s := by
  rw [epochCommit, ha]
  exact if_neg (by omega)

end EpochCommit

/-- Settles O19: each notice by its instant or its chip, each epoch message by its FT. -/
theorem noticesAndEpochs : Obligations.NoticesAndEpochs := by
  unfold Obligations.NoticesAndEpochs
  refine ⟨⟨fun s pl hlen => leaves_of_effect (by simp [Instr.wf, hlen]) rfl, ?_, ?_⟩, ?_, ?_, ?_⟩
  · intro s pl hlen
    have hwf : (Instr.rowMask pl).wf = true := by simp [Instr.wf, hlen]
    refine ⟨fun h => leaves_of_effect hwf (rowMaskMsg_of_early h), ?_⟩
    rintro _ t x _ _ rfl rfl rfl h ht ha hx hreq hgen
    exact leaves_of_effect hwf (rowMaskMsg_of_due h ht ha hx hreq hgen)
  · intro s pl hlen
    have hwf : (Instr.chipLost pl).wf = true := by simp [Instr.wf, hlen]
    exact ⟨fun h => leaves_of_effect hwf (chipLostMsg_of_known h),
      fun hc hl hk => leaves_of_effect hwf (chipLostMsg_of_new hc hl hk),
      fun hc hl hk => leaves_of_effect hwf (chipLostMsg_of_cycle_stop hc hl hk)⟩
  · rintro s m _ rfl
    exact ⟨fun h => leaves_of_effect rfl (stagedMsg_of_root h), fun h => leaves_of_effect rfl (stagedMsg_of_not_root h)⟩
  · intro s m b u hb hu
    exact ⟨fun h => leaves_of_effect rfl (epochArmMsg_of_early hb hu h),
      fun h => leaves_of_effect rfl (epochArmMsg_of_passed hb hu h)⟩
  · intro s n t ha hn
    exact ⟨fun h => leaves_of_effect rfl (epochCommit_of_due ha hn h),
      fun h => leaves_of_effect rfl (epochCommit_of_early ha h)⟩

/-! ### Discovery (R65 to R69) -/

section Root
variable (hroot : isRoot s = true)
include hroot

theorem fabDiscStart_of_no_routes (h : s.fab.routeActive = false) :
    fabDiscStart s = modFab (fun b => { b with discWant := true, discBusy := true, discDone := false }) s :=
  if_pos ⟨hroot, by simp [h]⟩

omit hroot in
theorem fabDiscStart_of_routes (h : s.fab.routeActive = true) : fabDiscStart s = s :=
  if_neg (by simp [h])

theorem discoveryBegin_of_settled {u : State} (hw : s.fab.discWant = true) (hset : ∀ p, p < 8 → settled s p = true)
    (hu : u = modFab (fun b => { b with discWant := false, discBusy := true, discNum := s.fab.discNum + 1, discAt := s.ft, chips :=
      [{ serial := s.serial, path := [], pathLen := 0, strapCid := s.straps.cid, links := linkRecs s }] }) s) :
    discoveryBegin s = forEach ((List.range 8).filter (fun p => (link u p).st == 6)) (fun p t =>
      ctlOn p (farId t p) { sub := 0x10, mode := 1, pathLen := 1, hop := 0, path := withOut 0 0 p,
                            body := leBytes 8 t.serial.toNat ++ leBytes 2 (s.fab.discNum + 1) } t) u := by
  have hall : (List.range 8).all (settled s) = true := by simpa using hset
  subst hu
  exact if_pos ⟨hroot, .inl hw, hall⟩

section Report
variable {c : Ctl} {ser : W64} (hc : c = ctlOf m) (hser : ser = BitVec.ofNat 64 (u64 c.body 0))
include hc hser

theorem reportMsg_of_first {ls : List (Nat × W64 × Nat × Nat × Nat)} (hbusy : s.fab.discBusy = true)
    (hnum : u16 c.body 10 = s.fab.discNum % 65536)
    (hls : ls = (List.range (min (u8 c.body 9) 8)).map (fun i => (u8 c.body (32 + 16 * i), BitVec.ofNat 64 (u64 c.body (32 + 16 * i + 1)),
      u8 c.body (32 + 16 * i + 9), u8 c.body (32 + 16 * i + 10), u16 c.body (32 + 16 * i + 12))))
    (hnew : s.fab.chips.any (fun x => x.serial == ser) = false) (hroom : s.fab.chips.length < 256) :
    reportMsg m s = modFab (fun f => { f with
      chips := f.chips ++ [{ serial := ser, path := leBytes 24 c.path, pathLen := c.pathLen, strapCid := u8 c.body 8, links := ls }] }) s := by
  subst hc hser hls
  exact if_pos ⟨hroot, hbusy, hnum, by simp only [hnew, Bool.not_false], hroom⟩

omit hroot in
theorem reportMsg_of_recorded (h : s.fab.chips.any (fun x => x.serial == ser) = true) : reportMsg m s = s := by
  subst hc hser
  refine if_neg ?_
  rintro ⟨-, -, -, hnew, -⟩
  simp only [h, Bool.not_true, Bool.false_eq_true] at hnew

end Report

section Complete
variable (hbusy : s.fab.discBusy = true) (hw : s.fab.discWant = false)
  (hdone : discClosed s = true ∨ s.fab.discAt + 1600000 ≤ s.ft) {byStrap : Bool} (hby : byStrap = bit (rd s 0x00080004) 1)
include hbusy hw hdone hby

theorem discoveryComplete_of_ids {cs : List ChipRec} {n : Nat}
    (hids : byStrap = false ∨ badStraps s.serial s.fab.chips = none) (hcs : cs = withIds byStrap s.serial s.fab.chips)
    (hn : n = cs.length) :
    discoveryComplete s =
      forEach (cs.filter (fun c => c.serial != s.serial)) (fun c t =>
          ctlToChip 0x12 c (leBytes 8 c.serial.toNat ++ [BitVec.ofNat 8 c.id] ++ leBytes 2 n ++ zeros 5 ++ leBytes 8 t.serial.toNat) t)
        (wr 0x0008000C (topoFp cs).toNat (modFab (fun f => { f with
          chips := cs, market := n, discBusy := false, discDone := true, valid := true
          chip := ((cs.find? (fun c => c.serial == s.serial)).map ChipRec.id).getD 0 }) s)) := by
  have hgood : (if byStrap then badStraps s.serial s.fab.chips else none) = none := by
    obtain h | h := hids
    · simp [h]
    · simp [h]
  subst hby hcs hn
  unfold discoveryComplete
  dsimp only
  rw [if_pos ⟨hroot, hbusy, by simp [hw], hdone⟩, hgood]
  rfl

theorem discoveryComplete_of_bad_straps {a b : W64} (hst : byStrap = true) (hbad : badStraps s.serial s.fab.chips = some (a, b)) :
    discoveryComplete s = logC 0x0407 [a.toNat % 2 ^ 32, a.toNat / 2 ^ 32, b.toNat % 2 ^ 32, b.toNat / 2 ^ 32]
      (setBit 0x00080008 2 (modFab (fun f => { f with discBusy := false }) s)) := by
  subst hby
  unfold discoveryComplete
  dsimp only
  rw [if_pos ⟨hroot, hbusy, by simp [hw], hdone⟩, hst, if_pos rfl, hbad]

end Complete

theorem leaves_unassignedChipSeen {c : ChipRec} (hp : p < 8) (hdone : s.fab.discDone = true) (hc : s.fab.chips = [c])
    (hser : c.serial ≠ s.serial) :
    Leaves (.unassignedChipSeen p c.serial) s
      (ctlToChip 0x12 c (leBytes 8 c.serial.toNat ++ [BitVec.ofNat 8 c.id] ++ leBytes 2 s.fab.market ++ zeros 5 ++
        leBytes 8 s.serial.toNat) s) := by
  refine leaves_of_effect (decide_eq_true hp) ?_
  rw [if_pos ⟨hroot, hdone⟩, hc, List.find?_cons_of_pos (by simp [hser])]

end Root

section Discover
variable {c : Ctl} {num path : Nat} {body : Bytes} {u : State → State} (hc : c = ctlOf m) (hlen : c.pathLen ≠ 0)
  (hnum : num = u16 c.body 8) (hpath : path = withIn c.path (c.pathLen - 1) p)
  (hbody : body = leBytes 8 s.serial.toNat ++ [BitVec.ofNat 8 s.straps.cid, BitVec.ofNat 8 (linkRecs s).length] ++ leBytes 2 num ++ zeros 20 ++
    ((linkRecs s).map (fun l => [BitVec.ofNat 8 l.1] ++ leBytes 8 l.2.1.toNat ++
      [BitVec.ofNat 8 l.2.2.1, BitVec.ofNat 8 l.2.2.2.1, 0] ++ leBytes 2 l.2.2.2.2 ++ zeros 2)).flatten)
  (hu : u = ctlOn p 0 { sub := 0x11, mode := 1, reverse := true, pathLen := c.pathLen, hop := c.pathLen - 1, path := path, body := body })
include hc hlen hnum hpath hbody hu

/-- A DISCOVER of a number already seen, or one that comes back to the root, is only answered. -/
theorem discoverMsg_of_seen (h : isRoot s = true ∨ s.fab.discSeen = some num) : discoverMsg p m s = u s := by
  have hfirst : (!isRoot s && s.fab.discSeen != some num) = false := by
    obtain h | h := h
    · simp [h]
    · simp [h]
  subst hc hnum hpath hbody hu
  unfold discoverMsg
  dsimp only
  rw [if_neg hlen, hfirst, when_false, if_neg (by simp)]

/-- The first of its number is answered and forwarded. -/
theorem discoverMsg_of_first {v : State} (hr : isRoot s = false) (hseen : s.fab.discSeen ≠ some num) (h32 : c.pathLen < 32)
    (hv : v = u (modFab (fun b => { b with discSeen := some num, upPort := some p }) s)) :
    discoverMsg p m s =
      forEach ((List.range 8).filter (fun q => q != p && (link v q).st == 6)) (fun q t =>
        ctlOn q (farId t q) { c with mode := 1, pathLen := c.pathLen + 1, hop := c.pathLen, path := withOut path c.pathLen q } t) v := by
  have hfirst : (!isRoot s && s.fab.discSeen != some num) = true := by simp [hr, hseen]
  subst hc hnum hpath hbody hu hv
  unfold discoverMsg
  dsimp only
  rw [if_neg hlen, hfirst, when_true, if_pos ⟨rfl, h32⟩]

end Discover

theorem assignMsg_of_own (h : u64 (ctlOf m).body 0 = s.serial.toNat) :
    assignMsg p m s = modFab (fun f => { f with
      chip := u8 (ctlOf m).body 8, valid := true, market := u16 (ctlOf m).body 9, upPort := f.upPort.or (some p) }) s := by
  rw [assignMsg]
  exact if_pos h

theorem assignMsg_of_other (h : u64 (ctlOf m).body 0 ≠ s.serial.toNat) : assignMsg p m s = s := by
  rw [assignMsg]
  exact if_neg h

/-- Settles O20: the root's part of discovery, then what a chip answers and forwards. -/
theorem discoveryAssignsIds : Obligations.DiscoveryAssignsIds := by
  unfold Obligations.DiscoveryAssignsIds
  refine ⟨⟨?_, ?_, ?_, ?_⟩, ?_, ?_, fun s p c hp hr hdone hc hser => leaves_unassignedChipSeen hr hp hdone hc hser⟩
  · exact fun s hr => ⟨fun h => leaves_of_effect rfl (fabDiscStart_of_no_routes hr h),
      fun h => leaves_of_effect rfl (fabDiscStart_of_routes h)⟩
  · exact fun s u hr hw hset hu => leaves_of_effect rfl (discoveryBegin_of_settled hr hw hset hu)
  · exact fun s m c ser ls hc hser hr hbusy hnum hls =>
      ⟨fun hnew hroom => leaves_of_effect rfl (reportMsg_of_first hr hc hser hbusy hnum hls hnew hroom),
        fun h => leaves_of_effect rfl (reportMsg_of_recorded hc hser h)⟩
  · exact fun s cs n byStrap hr hbusy hw hdone hby =>
      ⟨fun hids hcs hn => leaves_of_effect rfl (discoveryComplete_of_ids hr hbusy hw hdone hby hids hcs hn),
        fun a b hst hbad => leaves_of_effect rfl (discoveryComplete_of_bad_straps hr hbusy hw hdone hby hst hbad)⟩
  · exact fun s p m c num path body u hp hc hlen hnum hpath hbody hu =>
      ⟨fun h => leaves_of_effect (decide_eq_true hp) (discoverMsg_of_seen hc hlen hnum hpath hbody hu h),
        fun v hr hseen h32 hv =>
          leaves_of_effect (decide_eq_true hp) (discoverMsg_of_first hc hlen hnum hpath hbody hu hr hseen h32 hv)⟩
  · rintro s p m _ hp rfl
    exact ⟨fun h => leaves_of_effect (decide_eq_true hp) (assignMsg_of_own h),
      fun h => leaves_of_effect (decide_eq_true hp) (assignMsg_of_other h)⟩

/-! ### Rejoining and STALL_RESET (R574, R575, R582, R583) -/

theorem rejoinSend_of_none (h : s.rst.rejoin = false) : rejoinSend s = s := if_neg (by simp [h])

section RejoinSend
variable {body : Bytes} {hs : List Nat} {v : State} (hre : s.rst.rejoin = true) (hft : s.clk.ftValid = true)
  (hid : s.fab.valid = true) (hconf : s.conf.present = true) (hph : s.rst.phase = 0)
  (hbody : body = leBytes 8 s.serial.toNat ++ [BitVec.ofNat 8 s.fab.chip] ++ zeros 7 ++ imgDigest s)
  (hhs : hs = (((s.conf.aisles.filter (fun a => a.2.any (fun m => m.1 == s.fab.chip))).filterMap (fun a => a.2.head?.map Prod.fst)).dedup).filter
    (fun h => h != s.fab.chip && h != 0))
  (hv : v = (if isRoot ({ s with rst := { s.rst with rejoin := false } } : State) then { s with rst := { s.rst with rejoin := false } }
    else ctlUp 0x22 0 body { s with rst := { s.rst with rejoin := false } }))
include hre hft hid hconf hph hbody hhs hv

theorem rejoinSend_of_rebuilt :
    rejoinSend s = if v.fab.routeActive then forEach hs (fun h => ctlUp 0x22 h body) v else v := by
  subst hbody hhs hv
  exact if_pos ⟨hre, hft, hid, hconf, hph⟩

theorem rejoinSend_of_no_routes (h : v.fab.routeActive = false) : rejoinSend s = v := by
  rw [rejoinSend_of_rebuilt hre hft hid hconf hph hbody hhs hv, if_neg (by simp [h])]

theorem rejoinSend_of_routes (h : v.fab.routeActive = true) : rejoinSend s = forEach hs (fun h => ctlUp 0x22 h body) v := by
  rw [rejoinSend_of_rebuilt hre hft hid hconf hph hbody hhs hv, if_pos h]

end RejoinSend

section Rejoin
variable {c : Ctl} {id : Nat} {u v : State} (hc : c = ctlOf m) (hid : id = u8 c.body 8)
  (hu : u = modFab (fun f => { f with lost := f.lost.filter (· != id) }) s)
  (hv : v = (if allZero (slice c.body 16 48) then u else
    forEach (u.conf.aisles.filter (fun a => isHead u a.1 && a.2.any (fun m => m.1 == id))) (fun a s =>
      forEach (a.2.filter (fun m => m.1 == id)) (fun m s => { s with free := put s.free (m.1 * 32 + m.2) {} {} }) s) u))
include hc hid hu hv

theorem rejoinMsg_of_root (hr : isRoot v = true) (hm : c.mode ≠ 2) :
    rejoinMsg m s = modFab (fun f => { f with rejoined := (f.rejoined ++ [id]).dedup }) (armEpoch (v.fab.cur + 1) v) := by
  subst hc hid hu hv
  unfold rejoinMsg
  dsimp only
  rw [if_pos hr, if_neg hm]

theorem rejoinMsg_of_not_root (hr : isRoot v = false) : rejoinMsg m s = v := by
  subst hc hid hu hv
  exact if_neg (by simp only [hr, Bool.false_eq_true, not_false_eq_true])

end Rejoin

section StallReset
variable {b : Bytes} {a : Nat} (hb : b = (ctlOf m).body) (ha : a = u8 b 0)
include hb ha

theorem stallResetMsg_of_head (h : isHead s a = true) :
    stallResetMsg m s = { dropAisleItems a (resetAisle a s) with
      free := put (dropAisleItems a (resetAisle a s)).free (u8 b 1 * 32 + u8 b 2) {} {}
      steps := (dropAisleItems a (resetAisle a s)).steps.filter (fun t => t.aisle != a) } := by
  subst hb ha
  exact if_pos h

variable (hhead : isHead s a = false)
include hhead

theorem stallResetMsg_of_member (h : ∃ x ∈ chain s a, x.1 = s.fab.chip) :
    stallResetMsg m s = dropAisleItems a
      { (forEach ((s.rtb.filter (fun (p : Nat × Entry) => p.2.shadow && (aisleOf s p.2.stall) == some a && p.2.st != .paused)).map Prod.fst) freeShadow s) with
        steps := s.steps.filter (fun t => t.aisle != a) } := by
  have hmem : (chain s a).any (fun m => m.1 == s.fab.chip) = true := by simpa using h
  subst hb ha
  unfold stallResetMsg
  dsimp only
  rw [if_neg (by simp [hhead]), if_pos hmem]

theorem stallResetMsg_of_outside (h : ∀ x ∈ chain s a, x.1 ≠ s.fab.chip) : stallResetMsg m s = s := by
  have hmem : (chain s a).any (fun m => m.1 == s.fab.chip) = false := by simpa using h
  subst hb ha
  unfold stallResetMsg
  dsimp only
  rw [if_neg (by simp [hhead]), if_neg (by simp [hmem])]

end StallReset

/-- Settles O21: who is told of a rejoining chip, and what STALL_RESET means at head, member and elsewhere. -/
theorem rejoinAndStallReset : Obligations.RejoinAndStallReset := by
  unfold Obligations.RejoinAndStallReset
  refine ⟨?_, fun s h => leaves_of_effect rfl (rejoinSend_of_none h), ?_, ?_⟩
  · rintro s body hs _ v hre hft hid hconf hph hbody hhs rfl hv
    exact ⟨fun h => leaves_of_effect rfl (rejoinSend_of_no_routes hre hft hid hconf hph hbody hhs hv h),
      fun h => leaves_of_effect rfl (rejoinSend_of_routes hre hft hid hconf hph hbody hhs hv h)⟩
  · intro s m c id u v hc hid hu hv
    exact ⟨fun hr hm => leaves_of_effect rfl (rejoinMsg_of_root hc hid hu hv hr hm),
      fun hr => leaves_of_effect rfl (rejoinMsg_of_not_root hc hid hu hv hr)⟩
  · rintro s m b a _ hb ha rfl
    exact ⟨fun h => leaves_of_effect rfl (stallResetMsg_of_head hb ha h),
      fun hh h => leaves_of_effect rfl (stallResetMsg_of_member hb ha hh h),
      fun hh h => leaves_of_effect rfl (stallResetMsg_of_outside hb ha hh h)⟩

end Sys2Proof.Proofs
end

section
namespace Sys2Proof.Proofs
open Sys2Proof Sys2Proof.Machine Sys2Proof.Safety Sys2Proof.Laws

set_option Elab.async false

variable {s : State}

/-! ### PWR_REQ (R113, R125, R127) -/

section PwrReq
variable {v : Word} {u : State}
  (hu : u = (if bit v.toNat 7 then clrBit rPwrReq 7 (wrf rPwrReq 5 0 (v.toNat % 64) s) else wrf rPwrReq 5 0 (v.toNat % 64) s))
include hu

theorem pwrReq_of_no_go (h : bit v.toNat 6 = false) : pwrReq v s = u := by
  subst hu
  exact if_pos (by simp only [h, Bool.not_false])

variable (hgo : bit v.toNat 6 = true)
include hgo

/-- With GO the request is refused, held behind a transition, or performed. -/
theorem pwrReq_of_go {d q : Nat} (hd : d = bits v.toNat 3 0) (hq : q = bits v.toNat 5 4) :
    pwrReq v s =
      if reqRefused u d q then setBit rPwrReq 7 u
      else if (dom u d).done.isSome ∨ (dom u d).reload.isSome ∨ (dom u d).via.isSome then
        modDom d (fun x => { x with held := some (PState.ofNum q) }) u
      else startMove d (PState.ofNum q) u := by
  subst hu hd hq
  exact if_neg (by simp only [hgo, Bool.not_true, Bool.false_eq_true, not_false_eq_true])

end PwrReq

theorem reqRefused_of_no_domain {d q : Nat} (h : 12 ≤ d) : reqRefused s d q = true := by
  simp [reqRefused, h]

theorem reqRefused_of_floor {d q : Nat} (h : floorState s d < q) : reqRefused s d q = true := by
  simp [reqRefused, h]

/-! ### Transitions and reloads (R114 to R118) -/

theorem transDone_of_early {d t : Nat} (hd : (dom s d).done = some t) (h : s.ft < t) : transDone d s = s := by
  unfold transDone
  dsimp only
  rw [hd]
  exact if_pos h

section Transition
variable {d t r : Nat} {u : State} (hd : (dom s d).done = some t) (ht : t ≤ s.ft)
  (hr : r = (if (dom s d).st = .on ∧ (dom s d).src = .off then
    (if s.rst.phase ≠ 0 then releaseReload s.rst.cold d else reloadFt d) else 0))
  (hu : u = modDom d (fun x => { x with done := none, begun := none, reload := if r = 0 then none else some (t + r) }) s)
include hd ht hr hu

theorem transDone_of_powered (hst : (dom s d).st = .on ∨ (dom s d).st = .cg) : transDone d s = settleDom d u := by
  subst hr hu
  unfold transDone
  dsimp only
  rw [hd]
  dsimp only
  rw [if_neg (Nat.not_lt.2 ht)]
  obtain hst | hst := hst
  · rw [hst]
  · rw [hst]

theorem transDone_of_off (hst : (dom s d).st = .off) : transDone d s = settleDom d (offLoss d u) := by
  subst hr hu
  unfold transDone
  dsimp only
  rw [hd]
  dsimp only
  rw [if_neg (Nat.not_lt.2 ht), hst]

theorem transDone_of_ret (hst : (dom s d).st = .ret) : transDone d s = settleDom d (retLoss d u) := by
  subst hr hu
  unfold transDone
  dsimp only
  rw [hd]
  dsimp only
  rw [if_neg (Nat.not_lt.2 ht), hst]

end Transition

theorem reloadDone_of_early {d t : Nat} {l : List Nat} (hr : (dom s d).reload = some t) (h : s.ft < t) :
    reloadDone d l s = s := by
  rw [reloadDone, hr]
  exact if_pos (.inl h)

section Reload
variable {d t : Nat} {l : List Nat} (hr : (dom s d).reload = some t) (ht : t ≤ s.ft) (hrep : repairing s d = false)
include hr ht hrep

theorem reloadDone_of_cluster (hd : d < 4) :
    reloadDone d l s = settleDom d (forEach (l.filter (fun p => p / 17 == d && p < 68)) (fun p => fenceCore p 3)
      (modDom d (fun x => { x with reload := none }) s)) := by
  rw [reloadDone, hr]
  dsimp only
  rw [if_neg (by simp [hrep, ht]), if_pos hd]

theorem reloadDone_of_ccr (hd : d = dCCR) :
    reloadDone d l s = settleDom d (ccReload (modDom d (fun x => { x with reload := none }) s)) := by
  rw [reloadDone, hr]
  dsimp only
  rw [if_neg (by simp [hrep, ht]), if_neg (by rw [hd]; decide), if_pos hd]

end Reload

/-- A domain at rest below ON, with nothing held, begins its transition to ON at a wake. -/
theorem wakeDom_of_resting {d : Nat} (hdone : (dom s d).done = none) (hvia : (dom s d).via = none)
    (hheld : (dom s d).held = none) (hoff : heldOff s d = false) (hst : (dom s d).st ≠ .on) :
    wakeDom d s = startTrans d .on (modDom d (fun x => { x with idle := 0, worked := true }) s) := by
  have hundo : undoExpiry d s = s := if_neg (by simp [hdone])
  unfold wakeDom
  rw [if_neg (by simp [hoff]), hundo]
  dsimp only
  rw [hheld, hvia, hdone]
  exact if_neg hst

/-- Settles O23: the request by GO and what refuses it, the ends of transitions and reloads by their time. -/
theorem domainsChangeState : Obligations.DomainsChangeState := by
  unfold Obligations.DomainsChangeState
  refine ⟨?_, fun s d t hd hdone h => leaves_of_effect (decide_eq_true hd) (transDone_of_early hdone h), ?_, ?_, ?_,
    fun s d t hd hr h => leaves_of_effect (decide_eq_true hd) (reloadDone_of_early hr h), ?_, ?_⟩
  · intro s v d q u hd hq hu
    refine ⟨fun h => leaves_of_effect rfl (pwrReq_of_no_go hu h), fun hgo h => ?_, fun hgo h => ?_, fun hgo hok h => ?_,
      fun hgo hok hdone hrel hvia => ?_⟩
    · exact leaves_of_effect rfl ((pwrReq_of_go hu hgo hd hq).trans (if_pos (reqRefused_of_no_domain h)))
    · exact leaves_of_effect rfl ((pwrReq_of_go hu hgo hd hq).trans (if_pos (reqRefused_of_floor h)))
    · refine leaves_of_effect rfl ((pwrReq_of_go hu hgo hd hq).trans ?_)
      rw [if_neg (by simp [hok]), if_pos (by tauto)]
    · refine leaves_of_effect rfl ((pwrReq_of_go hu hgo hd hq).trans ?_)
      rw [if_neg (by simp [hok]), if_neg (by simp [hdone, hrel, hvia])]
  · intro s d t r u hd hdone ht hr hu
    exact ⟨fun h => leaves_of_effect (decide_eq_true hd) (transDone_of_powered hdone ht hr hu h),
      fun h => leaves_of_effect (decide_eq_true hd) (transDone_of_off hdone ht hr hu h),
      fun h => leaves_of_effect (decide_eq_true hd) (transDone_of_ret hdone ht hr hu h)⟩
  · intro s d t l hd _ hr ht hrep
    have hdom : d < 12 := by omega
    exact leaves_of_effect (decide_eq_true hdom) (reloadDone_of_cluster hr ht hrep hd)
  · exact fun s t hr ht hrep => leaves_of_effect rfl (reloadDone_of_ccr hr ht hrep rfl)
  · intro s d src hd hsrc
    have hwf : (Instr.domainWake d src).wf = true := by
      have : src < 8 := by omega
      simp [Instr.wf, hd, this]
    exact leaves_of_effect hwf (if_pos hsrc)
  · exact fun s d hdone hvia hheld hoff hst => wakeDom_of_resting hdone hvia hheld hoff hst

/-! ### Ticks, idle timers and the quiet count (R111, R124, R125, R360, R361) -/

theorem tickBoundary_of_boundary {u : State} (h : s.ft % tickLen s = 0) (hnew : s.wks.tickAt ≠ some s.ft)
    (hu : u = forEach (List.range 12) idleTick s) :
    tickBoundary s = modWks (fun w => { w with tickAt := some u.ft, quiet := if quietNow u then min 64 (w.quiet + 1) else 0 }) u := by
  subst hu
  exact if_neg (by simp only [h, hnew, ne_eq, not_true_eq_false, or_self, not_false_eq_true])

section Idle
variable {d p q : Nat} (hp : p = rd s (rPolicy d))
include hp

theorem idleExpire_of_idle (hq : q = min (min (bits p 17 16) (bits p 19 18)) (floorState s d)) (hn : bits p 15 0 ≠ 0)
    (hidle : bits p 15 0 ≤ (dom s d).idle) (hdone : (dom s d).done = none) (hrel : (dom s d).reload = none)
    (hvia : (dom s d).via = none) (hwork : domWork s d = false) (hph : s.rst.phase = 0) (hst : (dom s d).st.num < q) :
    idleExpire d s = modDom d (fun x => { x with byTimer := true }) (startMove d (PState.ofNum q) s) := by
  subst hp hq
  exact if_pos ⟨hn, hidle, by rw [hdone]; rfl, by rw [hrel]; rfl, by rw [hvia]; rfl, by rw [hwork]; rfl, hph, hst⟩

theorem idleExpire_of_kept (h : bits p 15 0 = 0 ∨ domWork s d = true) : idleExpire d s = s := by
  subst hp
  refine if_neg ?_
  rintro ⟨hn, -, -, -, -, hwork, -, -⟩
  obtain h | h := h
  · exact hn h
  · simp [h] at hwork

end Idle

theorem quietDeadlock_of_64 {ws : List (Nat × Nat)} {ps : List (Nat × Item)} {u : State} (h : 64 ≤ s.wks.quiet)
    (hws : ws = s.wks.waiters) (hps : ps = s.wks.pool.filter (fun p => p.2.st == .parked))
    (hu : u = modWks (fun w => { w with waiters := [], quiet := 0 }) (forEach ps (fun p => unpark p.1 true) (forEach ws (fun w => endWait w.1 1) s))) :
    quietDeadlock s = bumpSat 0x000E1204 (logC 0x0D01 [maskOf (ws.map Prod.fst), ps.length] (setBit 0x000E1200 31 u)) := by
  subst hws hps hu
  exact if_neg (Nat.not_lt.2 h)

/-! ### Thermal duty (R129 to R131) -/

section Thermal
variable {t : List Int} {m : Int} {l : Nat} {u x : State} (hm : m = t.foldl max (t.headD 0))
  (hl : l = nextLevel s (rdf s rTherm 1 0) m) (hu : u = wrf rTherm 15 8 (toTwos 8 m) (wrf rTherm 1 0 l s))
include hm hl hu

/-- A reading in three stages: the level's change, the thermal reset, and the release that waits for a cooler die. -/
theorem thermalSample_of_stages {v w : State} (hv : (if l = rdf s rTherm 1 0 then u else when_ (l == 3) (haltRaise 3)
      (callback 5 (2 ^ 32 - 1) (ccInt 3 (devEvent 5 (logC 0x0201 [] (wrf rDuty 8 4 (dutyCores l) (wrf rDuty 2 0 (dutyRun l) u))))))) = v)
    (hw : (if tmax v + 10 ≤ m ∧ sint 8 (rdf s rTherm 15 8) < tmax v + 10 then takeReset 9 (logC 0x0204 [] v) else v) = w)
    (hwait : w.rst.thermalWait = false) : thermalSample t s = w := by
  subst hm hl hu
  unfold thermalSample
  dsimp only
  rw [hv, hw]
  exact if_neg (by simp only [hwait, Bool.false_eq_true, not_false_eq_true])

/-- A reading that leaves the level alone, below the reset's threshold. -/
theorem thermalSample_of_same (h : l = rdf s rTherm 1 0) (hmax : m < tmax u + 10) (hw : u.rst.thermalWait = false) :
    thermalSample t s = u :=
  thermalSample_of_stages hm hl hu (if_pos h) (if_neg (fun h => absurd h.1 (by omega))) hw

/-- The same where it has crossed 10 °C above TMAX: the thermal reset with 0x0204. -/
theorem thermalSample_of_hot {z : State} (h : l = rdf s rTherm 1 0) (hmax : tmax u + 10 ≤ m)
    (hold : sint 8 (rdf s rTherm 15 8) < tmax u + 10) (hz : z = takeReset 9 (logC 0x0204 [] u))
    (hw : z.rst.thermalWait = false) : thermalSample t s = z :=
  thermalSample_of_stages hm hl hu (if_pos h) ((if_pos ⟨hmax, hold⟩).trans hz.symm) hw

variable (hx : x = callback 5 (2 ^ 32 - 1) (ccInt 3 (devEvent 5 (logC 0x0201 [] (wrf rDuty 8 4 (dutyCores l) (wrf rDuty 2 0 (dutyRun l) u))))))
  (hchange : l ≠ rdf s rTherm 1 0)
include hx hchange

theorem thermalSample_of_level (h3 : l ≠ 3) (hmax : m < tmax x + 10) (hw : x.rst.thermalWait = false) :
    thermalSample t s = x := by
  refine thermalSample_of_stages hm hl hu ?_ (if_neg (fun h => absurd h.1 (by omega))) hw
  rw [if_neg hchange, beq_false_of_ne h3, when_false, ← hx]

theorem thermalSample_of_level_3 {y : State} (h3 : l = 3) (hy : y = haltRaise 3 x) (hmax : m < tmax y + 10)
    (hw : y.rst.thermalWait = false) : thermalSample t s = y := by
  refine thermalSample_of_stages hm hl hu ?_ (if_neg (fun h => absurd h.1 (by omega))) hw
  rw [if_neg hchange, beq_iff_eq.2 h3, when_true, ← hx, ← hy]

end Thermal

/-- Settles O24: what a tick, an idle timer, the quiet count and a reading do, and when they do nothing. -/
theorem idleTimersAndThermalDuty : Obligations.IdleTimersAndThermalDuty := by
  unfold Obligations.IdleTimersAndThermalDuty
  refine ⟨⟨fun s u h hnew hu => leaves_of_effect rfl (tickBoundary_of_boundary h hnew hu),
      fun s h => leaves_of_effect rfl (if_pos h), ?_, fun s h => leaves_of_effect rfl (if_pos h),
      fun s ws ps u h hws hps hu => leaves_of_effect rfl (quietDeadlock_of_64 h hws hps hu)⟩, ?_⟩
  · intro s d p q hd hp hq
    exact ⟨fun hn hidle hdone hrel hvia hwork hph hst =>
        leaves_of_effect (decide_eq_true hd) (idleExpire_of_idle hp hq hn hidle hdone hrel hvia hwork hph hst),
      fun h => leaves_of_effect (decide_eq_true hd) (idleExpire_of_kept hp h)⟩
  · intro s t m l u x hlen hm hl hu hx
    have hwf : (Instr.thermalSample t).wf = true := by simp [Instr.wf, hlen]
    exact ⟨fun h hmax hw => leaves_of_effect hwf (thermalSample_of_same hm hl hu h hmax hw),
      fun hc h3 hmax hw => leaves_of_effect hwf (thermalSample_of_level hm hl hu hx hc h3 hmax hw),
      fun y hc h3 hy hmax hw => leaves_of_effect hwf (thermalSample_of_level_3 hm hl hu hx hc h3 hy hmax hw),
      fun z h hmax hold hz hw => leaves_of_effect hwf (thermalSample_of_hot hm hl hu h hmax hold hz hw)⟩

/-! ### Delay lists and event flags (R348 to R359) -/

theorem delayListProcess_of_boundary (h : s.ft % tickLen s = 0) (hnew : s.wks.dly.last ≠ some s.ft) :
    delayListProcess s = modDly (fun d => { d with last := some s.ft }) (processFw (forEach (List.range 4) processList s)) :=
  if_neg (by simp only [h, hnew, ne_eq, not_true_eq_false, or_self, not_false_eq_true])

section Fire
variable {e : DlyEntry} {r : List DlyEntry} {k : Nat} {act : DlyEntry → State → State} (hf : s.wks.dly.fired = e :: r)
include hf

theorem fire_of_kind (hk : e.kind = k) : fire k act s = act e (modDly (fun d => { d with fired := r }) s) := by
  rw [fire, hf]
  exact if_pos hk

theorem fire_of_other_kind (hk : e.kind ≠ k) : fire k act s = s := by
  rw [fire, hf]
  exact if_neg hk

end Fire

/-- R334: a TIMED item becomes READY, or parks where its flag is not posted. -/
theorem timedWork_of_timed {e : DlyEntry} {k : Nat} (hk : k = bits e.arg.toNat 11 0) (h : (item s k).st = .timed) :
    timedWork e s = modItem k (fun i => { i with st := if i.wait && !flagOpen s i.waitFlag then .parked else .ready }) s := by
  subst hk
  exact if_pos h

theorem fwTimer_of_flag {e : DlyEntry} {f : Nat} (hf : f = bits e.arg.toNat 9 0) :
    fwTimer e s = forEach ((postFlag f s).conf.modules.filter (fun m => m.2.st == 1 && m.2.flags.contains f))
      (fun m => callModule m.1 3) (postFlag f s) := by
  subst hf
  rfl

theorem timedWork_of_stale {e : DlyEntry} {k : Nat} (hk : k = bits e.arg.toNat 11 0) (h : (item s k).st ≠ .timed) :
    timedWork e s = setBit 0x000E0000 13 s := by
  subst hk
  exact if_neg h

section Dly
variable {v : Word} {l : Nat} (hl : l = bits v.toNat 1 0) (hgo : bit v.toNat 31 = true)
include hl hgo

theorem dlyInsert_of_served_list (h : l < 2) : dlyInsert v s = dlyStatus 2 s := by
  subst hl
  exact (if_neg (by simp only [hgo, Bool.not_true, Bool.false_eq_true, not_false_eq_true])).trans (if_pos h)

theorem dlyRemove_of_served_list (h : l < 2) : dlyRemove v s = dlyStatus 2 s := by
  subst hl
  exact (if_neg (by simp only [hgo, Bool.not_true, Bool.false_eq_true, not_false_eq_true])).trans (if_pos h)

variable (h2 : 2 ≤ l)
include h2

theorem dlyInsert_of_full (h : 8192 ≤ (dlyList s.wks.dly l).length) : dlyInsert v s = dlyStatus 1 s := by
  subst hl
  unfold dlyInsert
  dsimp only
  rw [if_neg (by simp [hgo]), if_neg (by omega), if_pos h]

/-- An entry of a kind that the list takes is inserted in order and its id answered. -/
theorem dlyInsert_of_room {w1 : Nat} {e : DlyEntry} (h : (dlyList s.wks.dly l).length < 8192) (hw : w1 = rd s 0x000F0044)
    (he : e = ⟨expandFt 48 (rd s 0x000F0040 + bits w1 15 0 * 2 ^ 32) s.ft, bits w1 23 16, false,
      BitVec.ofNat 64 (rd64 s 0x000F0048), dlyId s.wks.dly l⟩) :
    dlyInsert v s =
      if kindAllowed l e.kind then
        wrf rDlyResult 12 0 e.id (dlyStatus 0 (modDly (fun d => setDlyList l (dlySorted e (dlyList d l)) d) s))
      else dlyStatus 2 s := by
  subst hl hw he
  unfold dlyInsert
  dsimp only
  rw [if_neg (by simp [hgo]), if_neg (by omega), if_neg (by omega)]
  cases kindAllowed (bits v.toNat 1 0) (bits (rd s 0x000F0044) 23 16) <;> rfl

variable {id : Nat} (hid : id = bits v.toNat 28 16)
include hid

theorem dlyRemove_of_present {e : DlyEntry} (he : e ∈ dlyList s.wks.dly l) (heid : e.id = id) :
    dlyRemove v s = dlyStatus 0 (modDly (fun d => setDlyList l ((dlyList d l).filter (fun e => e.id != id)) d) s) := by
  have hany : (dlyList s.wks.dly l).any (fun e => e.id == id) = true := List.any_eq_true.2 ⟨e, he, by simp [heid]⟩
  subst hl hid
  unfold dlyRemove
  dsimp only
  rw [if_neg (by simp [hgo]), if_neg (by omega), if_pos hany]

theorem dlyRemove_of_absent (h : ∀ e ∈ dlyList s.wks.dly l, e.id ≠ id) : dlyRemove v s = dlyStatus 3 s := by
  have hany : (dlyList s.wks.dly l).any (fun e => e.id == id) = false := by simpa using h
  subst hl hid
  unfold dlyRemove
  dsimp only
  rw [if_neg (by simp [hgo]), if_neg (by omega), if_neg (by simp [hany])]

end Dly

/-- Settles O25: the lists at a boundary, the actions by kind, DLY_CMD by list and id, EVT_POST by arming. -/
theorem delayListsAndFlags : Obligations.DelayListsAndFlags := by
  unfold Obligations.DelayListsAndFlags
  refine ⟨⟨fun s h hnew => leaves_of_effect rfl (delayListProcess_of_boundary h hnew),
      fun s h => leaves_of_effect rfl (if_pos h), ?_⟩, ?_, ?_⟩
  · rintro s e r _ hf rfl
    refine ⟨fun hk => leaves_of_effect rfl (fire_of_kind hf hk), fun hk => leaves_of_effect rfl (fire_of_other_kind hf hk), ?_,
      ?_⟩
    · rintro k hk hkd
      have hfire := fire_of_kind (act := timedWork) hf hk
      exact ⟨fun hst => leaves_of_effect rfl (hfire.trans (timedWork_of_timed hkd hst)),
        fun hst => leaves_of_effect rfl (hfire.trans (timedWork_of_stale hkd hst))⟩
    · rintro f hk hfd
      have hfire := fire_of_kind (act := fwTimer) hf hk
      exact leaves_of_effect rfl (hfire.trans (fwTimer_of_flag hfd))
  · intro s v l hl hgo
    refine ⟨fun h => ⟨leaves_of_effect rfl (dlyInsert_of_served_list hl hgo h), leaves_of_effect rfl (dlyRemove_of_served_list hl hgo h)⟩,
      fun h2 h => leaves_of_effect rfl (dlyInsert_of_full hl hgo h2 h), fun w1 e h2 h hw he => ?_, fun id h2 hid => ?_⟩
    · have hins := dlyInsert_of_room hl hgo h2 h hw he
      exact ⟨fun hk => leaves_of_effect rfl (hins.trans (if_pos hk)),
        fun hk => leaves_of_effect rfl (hins.trans (if_neg (by simp [hk])))⟩
    · exact ⟨fun e he heid => leaves_of_effect rfl (dlyRemove_of_present hl hgo h2 hid he heid),
        fun h => leaves_of_effect rfl (dlyRemove_of_absent hl hgo h2 hid h)⟩
  · intro s f hf
    exact ⟨fun h => ⟨leaves_of_effect (decide_eq_true hf) (if_pos h), leaves_of_effect (decide_eq_true hf) (if_pos h)⟩,
      fun h => ⟨leaves_of_effect (decide_eq_true hf) (if_neg h), leaves_of_effect (decide_eq_true hf) (if_neg h)⟩⟩

end Sys2Proof.Proofs
end

section
namespace Sys2Proof.Proofs
open Sys2Proof Sys2Proof.Machine Sys2Proof.Safety Sys2Proof.Laws

set_option Elab.async false

variable {s : State}

/-! ### Dispatch (R333 to R338, R347, R518) -/

/-- An item with a row left, or outside any step, has something to run for. -/
theorem not_masked {m : W64} {l : Bool} (h : m ≠ 0 ∨ l = true) : ¬ (m = 0 ∧ (!l) = true) := by
  rintro ⟨hm, hl⟩
  obtain h | h := h
  · exact h hm
  · simp [h] at hl

section Ready
variable {k : Nat} {i : Item} (hi : i = item s k) (hst : i.st = .ready) (hlist : i.list = none) (hhold : i.hold = false)
include hi hst hlist hhold

/-- A READY item outside the lists with nothing to run for is dropped. -/
theorem readyItem_of_masked (hmask : i.rowMask = 0) (hloose : i.loose = false) : readyItem k s = dropItem k s := by
  subst hi
  unfold readyItem
  dsimp only
  rw [if_neg (by simp [hst, hlist, hhold]), if_pos (by simp [hmask, hloose])]

variable (hrows : i.rowMask ≠ 0 ∨ i.loose = true)
include hrows

theorem readyItem_of_no_core (hcore : hasCore s i = false) : readyItem k s = endItemRows k s := by
  subst hi
  unfold readyItem
  dsimp only
  rw [if_neg (by simp [hst, hlist, hhold]), if_neg (not_masked hrows),
    if_pos (by simp [hcore])]

variable (hcore : hasCore s i = true)
include hcore

theorem readyItem_of_idle_core {a : Nat} (ha : tierCore s i = some a) : readyItem k s = dispatch k a s := by
  subst hi
  unfold readyItem
  dsimp only
  rw [if_neg (by simp [hst, hlist, hhold]), if_neg (not_masked hrows),
    if_neg (by simp [hcore]), ha]

theorem readyItem_of_busy_cores (ha : tierCore s i = none) :
    readyItem k s = modWks (fun w => { w with joins := w.joins + 1 }) (modItem k (fun x => { x with
        list := (homeOf s i).or ((lowest 64 (fun a => owns s i.stall a && usable s a)).map (· / 16)), order := s.wks.joins }) s) := by
  subst hi
  unfold readyItem
  dsimp only
  rw [if_neg (by simp [hst, hlist, hhold]), if_neg (not_masked hrows),
    if_neg (by simp [hcore]), ha]

end Ready

section Idle
variable {p a k : Nat} (ha : addrOf s p = some a)
include ha

theorem coreIdle_of_busy (hfree : coreFree s a = false) : coreIdle p s = s := by
  rw [coreIdle, ha]
  exact if_pos (by simp [hfree])

variable (hfree : coreFree s a = true) (hk : (clusterOrder (a / 16)).findSome? (fromLists s a) = some k)
include hfree hk

theorem coreIdle_of_item (hrows : (item s k).rowMask ≠ 0 ∨ (item s k).loose = true) : coreIdle p s = dispatch k a s := by
  rw [coreIdle, ha]
  dsimp only
  rw [if_neg (by simp [hfree]), hk]
  exact if_neg (not_masked hrows)

theorem coreIdle_of_masked_item (hmask : (item s k).rowMask = 0) (hloose : (item s k).loose = false) : coreIdle p s = dropItem k s := by
  rw [coreIdle, ha]
  dsimp only
  rw [if_neg (by simp [hfree]), hk]
  exact if_pos (by simp [hmask, hloose])

end Idle

section Submit
variable {v : Word} {i : Item} (hi : i = itemOf (submitBytes s) s.ft)
include hi

omit hi in
theorem wksSubmitGo_of_no_go (hgo : bit v.toNat 0 = false) : wksSubmitGo v s = s :=
  if_pos (by rw [hgo]; rfl)

variable (hgo : bit v.toNat 0 = true)
include hgo

theorem wksSubmitGo_of_no_room (hfit : poolFits s i.stall 1 = false) : wksSubmitGo v s = wr 0x000E0140 (2 ^ 31) s := by
  subst hi
  unfold wksSubmitGo
  dsimp only
  rw [if_neg (by simp [hgo]), if_neg (by simp [hfit])]

theorem wksSubmitGo_of_room {k : Nat} (hfit : poolFits s i.stall 1 = true)
    (hk : lowest 4096 (fun k => (item s k).st == .free) = some k) :
    wksSubmitGo v s = wr 0x000E0140 k (setItem k { i with st := bornAs s i, list := none } s) := by
  subst hi
  unfold wksSubmitGo placeItem
  dsimp only
  rw [if_neg (by simp [hgo]), if_pos hfit, hk]

end Submit

/-- Nothing waits, so nothing is placed. -/
theorem placeWaiting_of_none {n : Nat} {l : List Nat} (h : s.wks.waiting = []) : placeWaiting n l s = s := by
  cases n with
  | zero => rfl
  | succ n => simp only [placeWaiting, h, List.find?_nil]

theorem placeItem_waiting (i : Item) : (placeItem i s).2.wks.waiting = s.wks.waiting := by
  unfold placeItem
  cases lowest 4096 (fun k => (item s k).st == .free) <;> rfl

/-- One waiting item that fits is placed, and its wait counted. -/
theorem placeWaiting_of_one {w : Nat × Nat × List Item × Nat} {i : Item} {n : Nat} (h : s.wks.waiting = [w])
    (hfit : poolFits s (w.2.2.1.headD {}).stall w.2.2.1.length = true) (hi : w.2.2.1 = [i]) :
    placeWaiting (n + 1) [] s =
      (placeItem i (wr (rWks 0) (sat32 (rd s (rWks 0) + (s.ft - w.2.2.2)))
        (modWks (fun x => { x with waiting := x.waiting.erase w }) s))).2 := by
  have hrest : (modWks (fun x => { x with waiting := x.waiting.erase w }) s).wks.waiting = [] := by
    simp [modWks, h]
  rw [placeWaiting, h, List.find?_cons_of_pos (by simp)]
  dsimp only
  rw [if_pos hfit, hi]
  exact placeWaiting_of_none (by simp only [forEach, List.foldl_cons, List.foldl_nil, placeItem_waiting, wr_wks, hrest])

/-! ### Kernels and windows (R339, R343 to R345, R368, R369) -/

section Start
variable {p k g m : Nat} (hitem : (Machine.core s p).item = some k) (hstart : (Machine.core s p).started = none)
  (hfill : (Machine.core s p).filling = none) (hft : (Machine.core s p).startAt ≤ s.ft) (hon : isOn s (p / 17) = true)
  (hg : g = (kernel s (item s k).kernel).tag) (hm : m = (item s k).kernel / 256)
include hitem hstart hfill hft hon hg

theorem kernelStart_of_held (h : g = 0 ∨ (Machine.core s p).windows.any (fun w => w.tag == g) = true) :
    kernelStart p s = startKernel p g s := by
  subst hg
  unfold kernelStart
  dsimp only
  rw [hitem]
  dsimp only
  rw [if_neg (by simp [hstart, hfill, hon, hft]), if_pos h]

variable (h0 : g ≠ 0) (hwin : (Machine.core s p).windows.any (fun w => w.tag == g) = false)
include h0 hwin hm

/-- A PINNED model's window is filled from pond at once. -/
theorem kernelStart_of_pinned (hpin : (model s m).pinned = true) :
    kernelStart p s = modCore p (fun c => { c with filling := some g, startAt := s.ft + cdiv (windowBytes s m g) 512 }) s := by
  subst hg hm
  unfold kernelStart
  dsimp only
  rw [hitem]
  dsimp only
  rw [if_neg (by simp [hstart, hfill, hon, hft]), if_neg (by simp [h0, hwin]), if_pos hpin, if_pos hpin]

/-- Another model's window is filled from the store at once where no other fill is under way. -/
theorem kernelStart_of_stored (hpin : (model s m).pinned = false) (hidle : ∀ x ∈ s.wks.cores, x.2.filling = none) :
    kernelStart p s = bumpSat (win (item s k).stall 0x410)
        (modCore p (fun c => { c with filling := some g, startAt := s.ft + cdiv (windowBytes s m g) 512 }) s) := by
  subst hg hm
  unfold kernelStart
  dsimp only
  rw [hitem]
  dsimp only
  rw [if_neg (by simp [hstart, hfill, hon, hft]), if_neg (by simp [h0, hwin]), if_neg (by simp [hpin]), if_neg (by simp [hpin]),
    List.filter_eq_nil_iff.2 (fun x hx => by simp [hidle x hx])]
  rfl

end Start

section NoItem
variable {p : Nat} (h : (Machine.core s p).item = none)
include h

theorem kernelStart_of_no_item : kernelStart p s = s := by simp only [kernelStart, h]
theorem kernelComplete_of_no_item {o : Bytes} {l : List RowProduct} : kernelComplete p o l s = s := by simp only [kernelComplete, h]
theorem windowFilled_of_no_item : windowFilled p s = s := by simp only [windowFilled, h]
theorem watchdogTrip_of_no_item : watchdogTrip p s = s := by simp only [watchdogTrip, h]

end NoItem

theorem windowFilled_of_due {p k g m n : Nat} (hitem : (Machine.core s p).item = some k) (hfill : (Machine.core s p).filling = some g)
    (hft : (Machine.core s p).startAt ≤ s.ft) (hm : m = (item s k).kernel / 256) (hn : n = windowBytes s m g) :
    windowFilled p s = startKernel p g (modCore p (fun c =>
        { c with windows := ⟨g, n, (model s m).pinned, s.ft, windowData s (item s k).stall m g n⟩ :: makeRoom c.windows.length n c.windows }) s) := by
  subst hm hn
  unfold windowFilled
  dsimp only
  rw [hitem, hfill]
  exact if_neg (Nat.not_lt.2 hft)

/-- A kernel completes within twice its BOUND: its output, its core, its slot, its event and its step. -/
theorem kernelComplete_in_bound {p k t : Nat} {o : Bytes} {l : List RowProduct} {i : Item} {u v : State}
    (hitem : (Machine.core s p).item = some k) (hstart : (Machine.core s p).started = some t) (hi : i = item s k)
    (hft : s.ft ≤ t + 2 * (kernel s i.kernel).bound) (hrows : i.rowMask ≠ 0)
    (hu : u = { s with pond := putBytes s.pond (64 * i.out) ((kernelOut s i o l).take (64 * i.outLen)) })
    (hv : v = modCore p (fun c => { c with item := none, started := none }) (if poisonedIn s i then taint i u else u)) :
    kernelComplete p o l s =
      (if i.loose then id else advance i.aisle i.step) (repairCycle (when_ i.post (postFlag i.event) (touch (p / 17)
        (if i.cyc ∨ i.loose then freeItem k v else modItem k (fun i => { i with st := .retained }) v)))) := by
  subst hi hu hv
  have hrun : ¬ ((item s k).rowMask = 0 ∧ (!(item s k).loose) = true) := fun h => hrows h.1
  unfold kernelComplete
  dsimp only
  rw [hitem, hstart]
  dsimp only
  rw [if_neg (Nat.not_lt.2 hft), if_neg hrun]
  cases (item s k).loose <;> rfl

/-- Settles O26: where an item, an idle core, a submission and a kernel go on, by the state of item, pool, core and window. -/
theorem workItemsRun : Obligations.WorkItemsRun := by
  unfold Obligations.WorkItemsRun
  refine ⟨⟨?_, fun s k hk h => leaves_of_effect (decide_eq_true hk) (if_pos (Or.inl h)), ?_, ?_,
    fun s h => leaves_of_effect rfl (placeWaiting_of_none h), fun s w i h hfit hi => leaves_of_effect rfl (placeWaiting_of_one h hfit hi)⟩,
    ?_, ?_, ?_, ?_⟩
  · intro s k i hk hi hst hlist hhold
    have hwf : (Instr.workItemReady k).wf = true := decide_eq_true hk
    exact ⟨fun a hrows hcore ha => leaves_of_effect hwf (readyItem_of_idle_core hi hst hlist hhold hrows hcore ha),
      fun hrows hcore ha => leaves_of_effect hwf (readyItem_of_busy_cores hi hst hlist hhold hrows hcore ha),
      fun hmask hloose => leaves_of_effect hwf (readyItem_of_masked hi hst hlist hhold hmask hloose),
      fun hrows hcore => leaves_of_effect hwf (readyItem_of_no_core hi hst hlist hhold hrows hcore)⟩
  · intro s p a hp ha
    have hwf : (Instr.coreIdle p).wf = true := decide_eq_true hp
    exact ⟨fun k hfree hk => ⟨fun hrows => leaves_of_effect hwf (coreIdle_of_item ha hfree hk hrows),
        fun hmask hloose => leaves_of_effect hwf (coreIdle_of_masked_item ha hfree hk hmask hloose)⟩,
      fun hfree => leaves_of_effect hwf (coreIdle_of_busy ha hfree)⟩
  · intro s v i hi
    exact ⟨fun hgo => leaves_of_effect rfl (wksSubmitGo_of_no_go hgo), fun hgo hfit => leaves_of_effect rfl (wksSubmitGo_of_no_room hi hgo hfit),
      fun k hgo hfit hk => leaves_of_effect rfl (wksSubmitGo_of_room hi hgo hfit hk)⟩
  · intro s p k g m hp hitem hstart hfill hft hon hg hm
    have hwf : (Instr.kernelStart p).wf = true := decide_eq_true hp
    exact ⟨fun h => leaves_of_effect hwf (kernelStart_of_held hitem hstart hfill hft hon hg h),
      fun h0 hwin hpin => leaves_of_effect hwf (kernelStart_of_pinned hitem hstart hfill hft hon hg hm h0 hwin hpin),
      fun h0 hwin hpin hidle => leaves_of_effect hwf (kernelStart_of_stored hitem hstart hfill hft hon hg hm h0 hwin hpin hidle)⟩
  · intro s p hp h
    exact ⟨leaves_of_effect (decide_eq_true hp) (kernelStart_of_no_item h),
      fun o l => leaves_of_effect (decide_eq_true hp) (kernelComplete_of_no_item h),
      leaves_of_effect (decide_eq_true hp) (windowFilled_of_no_item h), leaves_of_effect (decide_eq_true hp) (watchdogTrip_of_no_item h)⟩
  · exact fun s p k g m n hp hitem hfill hft hm hn => leaves_of_effect (decide_eq_true hp) (windowFilled_of_due hitem hfill hft hm hn)
  · intro s p o l k t i u v hp hitem hstart hi hft hrows hu hv
    have hwf : (Instr.kernelComplete p ⟨o, l⟩).wf = true := decide_eq_true hp
    have hdone := kernelComplete_in_bound (o := o) (l := l) hitem hstart hi hft hrows hu hv
    refine ⟨fun hcyc hloose => leaves_of_effect hwf (hdone.trans ?_), fun hcyc hloose => leaves_of_effect hwf (hdone.trans ?_),
      fun hloose => leaves_of_effect hwf (hdone.trans ?_)⟩
    · rw [if_neg (by simp [hloose]), if_neg (by simp [hcyc, hloose])]
    · rw [if_neg (by simp [hloose]), if_pos (Or.inl hcyc)]
    · rw [if_pos hloose, if_pos (Or.inr hloose), id]

/-! ### Fences, job faults and repair (R342, R513 to R516, R522 to R528) -/

section Watchdog
variable {p k t : Nat} (hitem : (Machine.core s p).item = some k) (hstart : (Machine.core s p).started = some t)
include hitem hstart

theorem watchdogTrip_of_bound (h : t + 2 * (kernel s (item s k).kernel).bound ≤ s.ft) :
    watchdogTrip p s = repairCycle (fenceCore p 2 (bumpSat rCoreWdt s)) := by
  rw [watchdogTrip, hitem, hstart]
  exact if_neg (Nat.not_lt.2 h)

theorem watchdogTrip_of_early (h : s.ft < t + 2 * (kernel s (item s k).kernel).bound) : watchdogTrip p s = s := by
  rw [watchdogTrip, hitem, hstart]
  exact if_pos h

end Watchdog

/-- A core that is fenced stays as it is. -/
theorem fenceCore_of_fenced {p c : Nat} (h : (Machine.core s p).fenced = true) : fenceCore p c s = s :=
  if_pos h

theorem repairCycle_of_none (h : s.wks.repair = none) : repairCycle s = s := by
  simp only [repairCycle, h]

section Fault
variable {k : JobKind} {sl pg : Nat} {rows : List Nat} {u : State} {rs : List Nat}
  (hu : u = bumpSat 0x000D0020 (logEv (jobCode k) (item s sl).stall [] s))
include hu

/-- A fault of an item is its rows'. -/
theorem jobFault_of_rows (hk : k ≠ .pondEcc)
    (hrs : rs = rowReqs u (item s sl) (if rows.isEmpty then (item s sl).rowMask else BitVec.ofNat 64 (maskOf rows) &&& (item s sl).rowMask)) :
    jobFault k sl rows pg s = if isFixed u then stopCycle u else forEach rs tearDown u := by
  subst hu hrs
  cases k with
  | pondEcc => exact absurd rfl hk
  | illegal => rfl
  | pageBound => rfl
  | adapter => rfl

/-- A fault of pond memory is every holder's of the page. -/
theorem jobFault_of_page {v : State} (hk : k = .pondEcc)
    (hrs : rs = (u.rtb.filter (fun p => p.2.st != .free && p.2.pages.any (fun g => g.1 == pg))).map Prod.fst)
    (hv : v = (match nodeOfPage u pg with | some n => modNode n (fun x => { x with valid := false }) u | none => u)) :
    jobFault k sl rows pg s = if isFixed v then stopCycle v else forEach rs tearDown v := by
  subst hk hu hrs hv
  unfold jobFault
  dsimp only
  cases nodeOfPage (bumpSat 0x000D0020 (logEv (jobCode .pondEcc) (item s sl).stall [] s)) pg <;> rfl

end Fault

section Repair
variable {v : Word} {c : Nat} {busy : Bool} (hc : c = bits v.toNat 1 0)
  (hbusy : busy = (isFixed s && (activePlan s).any (fun g => (List.range 17).any (fun i => bit g.cores.toNat (17 * c + i)))))
  (hgo : bit v.toNat 31 = true)
include hc hbusy hgo

omit hc hbusy hgo in
theorem coreRepair_of_no_go (hgo : bit v.toNat 31 = false) : coreRepair v s = s :=
  if_pos (by rw [hgo]; rfl)

omit hc hbusy in
theorem coreRepair_of_repair (h : s.wks.repair.isSome = true) : coreRepair v s = wrf rRepairStat 1 0 1 s := by
  unfold coreRepair
  dsimp only
  rw [if_neg (by simp [hgo]), if_pos h]

theorem coreRepair_of_planned (h : s.wks.repair = none) (hb : busy = true) : coreRepair v s = wrf rRepairStat 1 0 2 s := by
  have hplan := Bool.and_eq_true_iff.1 (hbusy.symm.trans hb)
  subst hc
  unfold coreRepair
  dsimp only
  rw [if_neg (by simp [hgo]), if_neg (by simp [h]), if_pos hplan]

theorem coreRepair_of_free (h : s.wks.repair = none) (hb : busy = false) : coreRepair v s =
    repairCycle (moveLists c (logC 0x0E04 [] (modWks (fun w => { w with repair := some (c, 0) })
      (setBit rRepairStat 2 (wrf rRepairStat 1 0 0 s))))) := by
  have hplan : ¬ (_ ∧ _) := fun h => Bool.false_ne_true ((hbusy.symm.trans hb).symm.trans (Bool.and_eq_true_iff.2 h))
  subst hc
  unfold coreRepair
  dsimp only
  rw [if_neg (by simp [hgo]), if_neg (by simp [h]), if_neg hplan]

end Repair

/-- The end of a repair: the fenced cores that pass are back, those that fail are fenced. -/
theorem repairComplete_of_due {l mine good : List Nat} {c t : Nat} {u v : State} (hrep : s.wks.repair = some (c, 1))
    (hrel : (dom s c).reload = some t) (ht : t ≤ s.ft) (hmine : mine = (List.range 17).map (fun i => 17 * c + i))
    (hgood : good = mine.filter (fun p => (Machine.core s p).fenced && !l.contains p))
    (hu : u = forEach good unfence (modWks (fun w => { w with repair := none }) (modDom c (fun x => { x with reload := none, begun := none }) s)))
    (hv : v = forEach (mine.filter (fun p => l.contains p && !(Machine.core u p).fenced)) (fun p => fenceCore p 3) u) :
    repairComplete l s = settleDom c (logC 0x0E06 [good.length] (wrf rRepairStat 8 4 good.length (clrBit rRepairStat 2 v))) := by
  subst hmine hgood hu hv
  simp only [repairComplete, hrep, hrel]
  exact if_neg (Nat.not_lt.2 ht)

theorem repairComplete_of_none {l : List Nat} (h : s.wks.repair = none) : repairComplete l s = s := by
  simp only [repairComplete, h]

/-- Settles O27: the watchdog by its bound, ECC by the fence, a job fault by its kind, a repair from GO to its end. -/
theorem coresFaultAndAreRepaired : Obligations.CoresFaultAndAreRepaired := by
  unfold Obligations.CoresFaultAndAreRepaired
  refine ⟨⟨?_, fun s p hp _ => leaves_of_effect (decide_eq_true hp) rfl, ?_⟩, ?_, ?_, ?_, ?_⟩
  · intro s p k t hp hitem hstart
    exact ⟨fun h => leaves_of_effect (decide_eq_true hp) (watchdogTrip_of_bound hitem hstart h),
      fun h => leaves_of_effect (decide_eq_true hp) (watchdogTrip_of_early hitem hstart h)⟩
  · intro s p hp hf hrep
    exact leaves_of_effect (decide_eq_true hp) ((congrArg repairCycle (fenceCore_of_fenced hf)).trans (repairCycle_of_none hrep))
  · intro s k sl rows pg u hsl hrows hpg hu
    have hwf : (Instr.jobFault k sl rows pg).wf = true := by simpa [Instr.wf, hsl, hpg] using hrows
    refine ⟨fun rs hk hrs => ?_, fun rs v hk hrs hv hfix => leaves_of_effect hwf ((jobFault_of_page hu hk hrs hv).trans (if_neg (by simp [hfix])))⟩
    exact ⟨fun hfix => leaves_of_effect hwf ((jobFault_of_rows hu hk hrs).trans (if_neg (by simp [hfix]))),
      fun hfix => leaves_of_effect hwf ((jobFault_of_rows hu hk hrs).trans (if_pos hfix))⟩
  · intro s v c busy hc hbusy
    exact ⟨fun hgo => leaves_of_effect rfl (coreRepair_of_no_go hgo),
      fun hgo h => leaves_of_effect rfl (coreRepair_of_repair hgo h),
      fun hgo h hb => leaves_of_effect rfl (coreRepair_of_planned hc hbusy hgo h hb),
      fun hgo h hb => leaves_of_effect rfl (coreRepair_of_free hc hbusy hgo h hb)⟩
  · exact fun s l c t u v mine good hrep hrel ht hmine hgood hu hv =>
      leaves_of_effect rfl (repairComplete_of_due hrep hrel ht hmine hgood hu hv)
  · exact fun s l h => leaves_of_effect rfl (repairComplete_of_none h)

end Sys2Proof.Proofs
end

section
namespace Sys2Proof.Proofs
open Sys2Proof Sys2Proof.Machine Sys2Proof.Safety Sys2Proof.Laws

set_option Elab.async false

variable {s : State}

/-! ### Event and bulk instructions (R357, R358, R382, R390 to R393) -/

section Runs
variable {t : Nat} (hrun : threadRuns s t = true)
include hrun

theorem ewait_of_open {f : Nat} (h : flagOpen s f = true) : ewait t f s = endWait t 0 s := by
  unfold ewait
  rw [if_neg (by simp [hrun]), if_pos h]

theorem ewait_of_closed {f : Nat} (h : flagOpen s f = false) : ewait t f s =
    modWks (fun w => { w with waiters := w.waiters ++ [(t, f)] }) (modThread t (fun x => { x with st := 1 }) s) := by
  unfold ewait
  rw [if_neg (by simp [hrun]), if_neg (by simp [h])]

variable (hbulk : (thread s t).bulk = none) {op : Nat}
include hbulk

/-- G3 = 0: over at once (the model's choice, log 46). -/
theorem bulkBegin_of_empty (hn : greg s t 3 = 0) : bulkBegin t op s = retire t (if op = 1 then setG t 2 0 s else s) := by
  unfold bulkBegin
  rw [if_neg (by simp [hrun, hbulk]), if_pos hn]

theorem bulkBegin_of_fault (hn : greg s t 3 ≠ 0) (h : bulkFault s t op = true) : bulkBegin t op s = threadFault t 2 s := by
  unfold bulkBegin
  rw [if_neg (by simp [hrun, hbulk]), if_neg hn, if_pos h]

theorem bulkBegin_of_operands (hn : greg s t 3 ≠ 0) (h : bulkFault s t op = false) :
    bulkBegin t op s = touch dCCR (modThread t (fun x => { x with bulk := some ⟨op⟩ }) s) := by
  unfold bulkBegin
  rw [if_neg (by simp [hrun, hbulk]), if_neg hn, if_neg (by simp [h])]

end Runs

section Stopped
variable {t : Nat} (hrun : threadRuns s t = false)
include hrun

theorem epost_of_stopped {f : Nat} : epost t f s = s := if_neg (by simp [hrun])
theorem eclr_of_stopped {f : Nat} : eclr t f s = s := if_neg (by simp [hrun])
theorem ewait_of_stopped {f : Nat} : ewait t f s = s := if_pos (by simp [hrun])
theorem bulkBegin_of_stopped {op : Nat} : bulkBegin t op s = s := if_pos (by simp [hrun])

end Stopped

/-- What a unit of a bulk instruction with its operands in SRAM does, by the instruction: `a` is its G1 and `x` its bytes. -/
def sramUnit (t op a : Nat) (x : Bytes) (u : State) : State :=
  match op with
  | 0 => bulkAdvance t 0 (ccWrite (greg u t 2) x u)
  | 1 => match scanHit u t x with
    | some i => bulkEnd t (setG t 2 (a + 8 * i) u)
    | none => bulkAdvance t 1 u
  | _ => bulkAdvance t 2 (setG t 4 (x.foldl crc32cByte (w32 (greg u t 4))).toNat u)

theorem sramUnit_of_hit {t a i : Nat} {x : Bytes} {u : State} (h : scanHit u t x = some i) :
    sramUnit t 1 a x u = bulkEnd t (setG t 2 (a + 8 * i) u) := by
  unfold sramUnit
  rw [h]
  rfl

theorem sramUnit_of_no_hit {t a : Nat} {x : Bytes} {u : State} (h : scanHit u t x = none) :
    sramUnit t 1 a x u = bulkAdvance t 1 u := by
  unfold sramUnit
  rw [h]
  rfl

section Unit
variable {t op : Nat} {e : Bool} (hbulk : (thread s t).bulk = some ⟨op⟩) (hrun : bulkRuns s t = true)
include hbulk hrun

/-- A unit whose operands lie in SRAM does not wait for the lake and meets none of its errors. -/
theorem bulkUnit_of_sram (ha : greg s t 1 < ccLake) (hb : op = 0 → greg s t 2 < ccLake) :
    bulkUnit t e s = ccrStop t (sramUnit t op (greg s t 1) (ccRead s (greg s t 1) 64) (touch dCCR s)) := by
  have ha' : decide (ccLake ≤ greg s t 1) = false := decide_eq_false (Nat.not_le.2 ha)
  have hb' : (op == 0 && decide (ccLake ≤ greg s t 2)) = false := by
    by_cases h0 : op = 0
    · rw [decide_eq_false (Nat.not_le.2 (hb h0)), Bool.and_false]
    · rw [beq_false_of_ne h0, Bool.false_and]
  unfold bulkUnit
  split
  · simp_all
  obtain rfl : _ = (⟨op⟩ : Bulk) := Option.some.inj (‹_ = some _›.symm.trans hbulk)
  dsimp only
  rw [ha', hb', hrun, Bool.false_and, Bool.false_and, Bool.or_false, if_neg (by simp), if_neg (by simp)]
  rfl

/-- A lake error faults the thread, once the lake is there for the operands in it. -/
theorem bulkUnit_of_lake_error (ha : ccLake ≤ greg s t 1) (hnow : lakeNow s (greg s t 1 - ccLake) 64 6 = true)
    (hb : op = 0 → greg s t 2 < ccLake) : bulkUnit t true s = threadFault t 3 s := by
  have ha' : decide (ccLake ≤ greg s t 1) = true := decide_eq_true ha
  have hb' : (op == 0 && decide (ccLake ≤ greg s t 2)) = false := by
    by_cases h0 : op = 0
    · rw [decide_eq_false (Nat.not_le.2 (hb h0)), Bool.and_false]
    · rw [beq_false_of_ne h0, Bool.false_and]
  unfold bulkUnit
  split
  · simp_all
  obtain rfl : _ = (⟨op⟩ : Bulk) := Option.some.inj (‹_ = some _›.symm.trans hbulk)
  dsimp only
  rw [ha', hb', hrun, hnow, if_neg (by simp), if_pos (by simp)]

end Unit

theorem bulkUnit_of_none {t : Nat} {e : Bool} (h : (thread s t).bulk = none) : bulkUnit t e s = s := by
  simp only [bulkUnit, h]

/-- Settles O28: each instruction by whether its thread runs, its operands and its unit. -/
theorem controlCoreInstructions : Obligations.ControlCoreInstructions := by
  unfold Obligations.ControlCoreInstructions
  have hwf2 : ∀ {t f : Nat}, t < 4 → f < 1024 → (decide (t < 4) && decide (f < 1024)) = true := by
    intro t f ht hf
    simp [ht, hf]
  refine ⟨fun s t f ht hf hrun => ?_, fun s t f ht hf hrun => ?_, fun s t ht hrun hbulk => ?_, fun s t e ht hbulk hrun ha hb => ?_,
    fun s t e x ht hbulk hrun ha hx => ?_, fun s t e x ht hbulk hrun ha hx => ?_, fun s t op ht hbulk _ hrun ha hnow hb => ?_,
    fun s t e ht h => leaves_of_effect (decide_eq_true ht) (bulkUnit_of_none h)⟩
  · exact ⟨leaves_of_effect (hwf2 ht hf) (if_pos hrun), leaves_of_effect (hwf2 ht hf) (if_pos hrun),
      fun h => leaves_of_effect (hwf2 ht hf) (ewait_of_open hrun h), fun h => leaves_of_effect (hwf2 ht hf) (ewait_of_closed hrun h)⟩
  · exact ⟨leaves_of_effect (hwf2 ht hf) (epost_of_stopped hrun), leaves_of_effect (hwf2 ht hf) (eclr_of_stopped hrun),
      leaves_of_effect (hwf2 ht hf) (ewait_of_stopped hrun), leaves_of_effect (decide_eq_true ht) (bulkBegin_of_stopped hrun),
      leaves_of_effect (decide_eq_true ht) (bulkBegin_of_stopped hrun), leaves_of_effect (decide_eq_true ht) (bulkBegin_of_stopped hrun)⟩
  · exact ⟨fun hn => ⟨leaves_of_effect (decide_eq_true ht) (bulkBegin_of_empty hrun hbulk hn),
        leaves_of_effect (decide_eq_true ht) (bulkBegin_of_empty hrun hbulk hn), leaves_of_effect (decide_eq_true ht) (bulkBegin_of_empty hrun hbulk hn)⟩,
      fun hn h => leaves_of_effect (decide_eq_true ht) (bulkBegin_of_fault hrun hbulk hn h),
      fun hn h => leaves_of_effect (decide_eq_true ht) (bulkBegin_of_operands hrun hbulk hn h),
      fun hn h => leaves_of_effect (decide_eq_true ht) (bulkBegin_of_operands hrun hbulk hn h),
      fun hn h => leaves_of_effect (decide_eq_true ht) (bulkBegin_of_operands hrun hbulk hn h)⟩
  · exact leaves_of_effect (decide_eq_true ht) (bulkUnit_of_sram hbulk hrun ha (fun _ => hb))
  · have hunit := bulkUnit_of_sram (e := e) hbulk hrun ha (fun h => absurd h (by decide))
    rw [← hx] at hunit
    exact ⟨fun i hi => leaves_of_effect (decide_eq_true ht) (hunit.trans (congrArg (ccrStop t) (sramUnit_of_hit hi))),
      fun hi => leaves_of_effect (decide_eq_true ht) (hunit.trans (congrArg (ccrStop t) (sramUnit_of_no_hit hi)))⟩
  · rw [hx]
    exact leaves_of_effect (decide_eq_true ht) (bulkUnit_of_sram hbulk hrun ha (fun h => absurd h (by decide)))
  · exact leaves_of_effect (decide_eq_true ht) (bulkUnit_of_lake_error hbulk hrun ha hnow hb)

/-! ### Interrupts and callbacks (R349, R387 to R389, R399, R400) -/

theorem interruptTake_of_pending {t b p : Nat} (hon : isOn s dCCR = true) (hrun : s.cc.run = 0) (hst : (thread s t).st = 0)
    (hint : nextInt s t = some (b, p)) : interruptTake t s =
      touch dCCR (modWks (fun w => { w with waiters := w.waiters.filter (fun y => y.1 != t) })
        (modThread t (fun x => { x with handlers := p :: x.handlers.filter (p < ·) }) (clrBit rIntPend b s))) := by
  unfold interruptTake
  dsimp only
  rw [if_neg (by simp [hon, hrun, hst]), hint]
  dsimp only
  rw [if_neg (by simp [hst])]

theorem interruptTake_of_none {t : Nat} (hint : nextInt s t = none) : interruptTake t s = s := by
  unfold interruptTake
  dsimp only
  rw [hint]
  exact ite_self s

theorem callbackFault_of_module {t k i : Nat} {w : Bool} (h : (thread s t).modl = some (k, i)) : callbackFault t w s =
    threadDone t (modCc (fun c => { c with calls := c.calls.filter (fun x => x.1 != k) })
      (logC (if w then 0x1302 else 0x1303) [k] (modModl k (fun x => { x with st := 2 }) s))) := by
  rw [callbackFault, h]

theorem callbackFault_of_none {t : Nat} {w : Bool} (h : (thread s t).modl = none) : callbackFault t w s = s := by
  rw [callbackFault, h]

section Timer
variable {d f : Nat}

theorem timerSet_of_module {m : Nat} (hm : m < 8) (hst : (modl s m).st = 1) (hroom : s.wks.dly.l3.length < 8192) : timerSet m d f s =
    dlyIns 8 f (expandFt 48 d s.ft) (modModl m (fun x => { x with flags := x.flags.filter (· != f) ++ [f] }) s) := by
  unfold timerSet
  dsimp only
  rw [if_neg (by simp [hst, hroom]), if_pos hm]
  rfl

theorem timerSet_of_firmware (hroom : s.wks.dly.l3.length < 8192) : timerSet 8 d f s = dlyIns 8 f (expandFt 48 d s.ft) s := by
  unfold timerSet
  dsimp only
  rw [if_neg (by simp [hroom]), if_neg (by decide)]

theorem timerSet_of_full {m : Nat} (hfull : 8192 ≤ s.wks.dly.l3.length) : timerSet m d f s = s := if_pos (Or.inr hfull)

end Timer

theorem admBlock_of_service {m c n i : Nat} {b : Bool} (hn : n = (chan s c).stall) (hi : i = c - (stallCfg s n).chBase)
    (hst : (chan s c).st ≠ 0) (hok : serviceOk s m n = true) :
    admBlock m c b s = (if b then setBit else clrBit) (win n 0x300 + 4 * (i / 32)) (i % 32) s := by
  subst hn hi
  exact if_neg (by simp [hst, hok])

theorem admBlock_of_free {m c : Nat} {b : Bool} (hst : (chan s c).st = 0) : admBlock m c b s = s := if_pos (Or.inl hst)

/-! ### The mailbox (R384 to R386) -/

theorem mbxPost_of_done {k : Nat} (h : mbxState s k = 3) : mbxPost k s = setBit 0x000C0304 8 s := if_neg (by simp [h])

theorem mbxFree_of_free {k : Nat} (h : mbxState s k = 0) : mbxFree k s = setBit 0x000C0304 8 s := if_neg (by simp [h])

section Serve
variable {k : Nat} {c : Bytes} {u : State} (hon : isOn s dCCR = true) (hrun : s.cc.run = 0) (hst : mbxState s k = 1)
  (hfirst : ∀ j, j < k → mbxState s j ≠ 1) (hc : c = mbxCmd s k)
include hon hrun hst hfirst hc

/-- What base firmware does with the first POSTED slot. -/
theorem mbxServe_of_first {op : Nat} {act : Bytes → State → State} : mbxServe k op act s =
    if u8 c 0 = 0 ∨ 5 < u8 c 0 then mbxAnswer k 1 [] s else if u8 c 0 ≠ op then s else act c (touch dCCR s) := by
  have hno : (List.range k).any (fun j => mbxState s j == 1) = false := by
    simpa using hfirst
  subst hc
  exact if_neg (by simp [hon, hrun, hst, hno])

theorem mbxServe_of_bad_op {op : Nat} {act : Bytes → State → State} (h : u8 c 0 = 0 ∨ 5 < u8 c 0) :
    mbxServe k op act s = mbxAnswer k 1 [] s :=
  (mbxServe_of_first hon hrun hst hfirst hc).trans (if_pos h)

theorem mbxServe_of_op {op : Nat} {act : Bytes → State → State} (h : u8 c 0 = op) (hop : op ≠ 0 ∧ op ≤ 5) :
    mbxServe k op act s = act c (touch dCCR s) := by
  rw [mbxServe_of_first hon hrun hst hfirst hc, if_neg (by omega), if_neg (by simp [h])]

theorem powerSet_of_first (h : u8 c 0 = 4) : powerSet k s =
    mbxAnswer k 0 [] (forEach (List.range 12) (fun n => wr (rPolicy n) (u32 c (8 + 4 * n) % 2 ^ 20)) (touch dCCR s)) := by
  rw [powerSet, mbxServe_of_op hon hrun hst hfirst hc h (by decide)]

variable {f : Nat × State} (hf : f = fresh (touch dCCR s))
include hf

theorem mbxInfo_of_first (h : u8 c 0 = 1) : mbxInfo k s = mbxAnswer k 0 (leBytes 56 f.1) f.2 := by
  subst hf
  exact mbxServe_of_op hon hrun hst hfirst hc h (by decide)

theorem moduleCtl_of_enabled {m : Nat} (h : u8 c 0 = 2) (hm : m = u8 c 8) (h7 : m ≤ 7) (hmod : (modl f.2 m).st = 1) :
    moduleCtl k s = mbxAnswer k 0 [] (if f.1 % 2 = 1 then f.2 else modModl m (fun x => { x with st := 2 }) (callModule m 7 f.2)) := by
  rw [moduleCtl, mbxServe_of_op hon hrun hst hfirst hc h (by decide), ← hf, ← hm]
  dsimp only
  rw [if_neg (by omega), if_neg (by omega), if_neg (by omega)]
  by_cases hodd : f.1 % 2 = 1
  · rw [if_pos hodd, if_pos hodd, if_pos hmod]
  · rw [if_neg hodd, if_neg hodd]

theorem moduleCtl_of_disabled {m : Nat} (h : u8 c 0 = 2) (hm : m = u8 c 8) (h7 : m ≤ 7) (hmod : (modl f.2 m).st = 2) :
    moduleCtl k s = mbxAnswer k 0 [] (if f.1 % 2 = 1 then callModule m 0 (modModl m (fun x => { x with st := 1 }) f.2)
      else modModl m (fun x => { x with st := 2 }) (callModule m 7 f.2)) := by
  rw [moduleCtl, mbxServe_of_op hon hrun hst hfirst hc h (by decide), ← hf, ← hm]
  dsimp only
  rw [if_neg (by omega), if_neg (by omega), if_neg (by omega)]
  by_cases hodd : f.1 % 2 = 1
  · rw [if_pos hodd, if_pos hodd, if_neg (by omega)]
  · rw [if_neg hodd, if_neg hodd]

theorem moduleCtl_of_absent {m : Nat} (h : u8 c 0 = 2) (hm : m = u8 c 8) (h7 : m ≤ 7) (hmod : (modl f.2 m).st = 0) :
    moduleCtl k s = mbxAnswer k 2 [] f.2 := by
  rw [moduleCtl, mbxServe_of_op hon hrun hst hfirst hc h (by decide), ← hf, ← hm]
  dsimp only
  rw [if_neg (by omega), if_pos hmod]

theorem moduleCtl_of_faulted {m : Nat} (h : u8 c 0 = 2) (hm : m = u8 c 8) (h7 : m ≤ 7) (hmod : (modl f.2 m).st = 3) :
    moduleCtl k s = mbxAnswer k 3 [] f.2 := by
  rw [moduleCtl, mbxServe_of_op hon hrun hst hfirst hc h (by decide), ← hf, ← hm]
  dsimp only
  rw [if_neg (by omega), if_neg (by omega), if_pos hmod]

theorem moduleCtl_of_no_module (h : u8 c 0 = 2) (h7 : 7 < u8 c 8) : moduleCtl k s = mbxAnswer k 4 [] f.2 := by
  rw [moduleCtl, mbxServe_of_op hon hrun hst hfirst hc h (by decide), ← hf]
  exact if_pos h7

theorem moduleMsg_of_reply {m : Nat} {b : Bytes} (h : u8 c 0 = 3) (hm : m = f.1 % 8) (hmod : (modl f.2 m).st = 1)
    (hmsg : (modl f.2 m).entries.getD 4 0xFFFF ≠ 0xFFFF) : moduleMsg k (some b) s = mbxAnswer k 0 b f.2 := by
  subst hf hm
  rw [moduleMsg, mbxServe_of_op hon hrun hst hfirst hc h (by decide)]
  exact (if_neg (not_not.2 hmod)).trans (if_neg hmsg)

theorem moduleMsg_of_no_reply {m : Nat} (h : u8 c 0 = 3) (hm : m = f.1 % 8) (hmod : (modl f.2 m).st = 1) :
    moduleMsg k none s = mbxAnswer k 3 [] f.2 := by
  subst hf hm
  rw [moduleMsg, mbxServe_of_op hon hrun hst hfirst hc h (by decide)]
  exact if_neg (not_not.2 hmod)

theorem moduleMsg_of_disabled {m : Nat} {b : Option Bytes} (h : u8 c 0 = 3) (hm : m = f.1 % 8) (hmod : (modl f.2 m).st ≠ 1) :
    moduleMsg k b s = mbxAnswer k 2 [] f.2 := by
  subst hf hm
  rw [moduleMsg, mbxServe_of_op hon hrun hst hfirst hc h (by decide)]
  exact if_pos hmod

omit hf in
theorem fwRecord_of_bad_handle (h : u8 c 0 = 5) (hh : handleOk (touch dCCR s) 2 (u64 c 8) = false) :
    fwRecord k s = mbxAnswer k 4 [] (touch dCCR s) := by
  rw [fwRecord, mbxServe_of_op hon hrun hst hfirst hc h (by decide)]
  exact if_neg (by simp [hh])

theorem fwRecord_of_handle (h : u8 c 0 = 5) (hh : handleOk (touch dCCR s) 2 (u64 c 8) = true) (hfw : isFw (hIdx (u64 c 8)) = true)
    (hent : (ent (touch dCCR s) (hIdx (u64 c 8))).st ≠ .free) : fwRecord k s = mbxAnswer k 0 (leBytes 56 f.1) f.2 := by
  subst hf
  rw [fwRecord, mbxServe_of_op hon hrun hst hfirst hc h (by decide)]
  exact if_pos ⟨hh, hfw, hent⟩

end Serve

/-- Settles O29: interrupts, callbacks and services by their conditions, the mailbox by the slot's state and its command. -/
theorem interruptsAndMailbox : Obligations.InterruptsAndMailbox := by
  unfold Obligations.InterruptsAndMailbox
  refine ⟨⟨fun s t b p ht hon hrun hst hint => leaves_of_effect (decide_eq_true ht) (interruptTake_of_pending hon hrun hst hint),
      fun s t ht hint => leaves_of_effect (decide_eq_true ht) (interruptTake_of_none hint),
      fun s t w k i ht h => leaves_of_effect (decide_eq_true ht) (callbackFault_of_module h),
      fun s t w ht h => leaves_of_effect (decide_eq_true ht) (callbackFault_of_none h),
      fun s m d f hm hst hroom => leaves_of_effect rfl (timerSet_of_module hm hst hroom),
      fun s d f hroom => leaves_of_effect rfl (timerSet_of_firmware hroom),
      fun s m d f hfull => leaves_of_effect rfl (timerSet_of_full hfull), ?_,
      fun s m c b hc hst => leaves_of_effect (decide_eq_true hc) (admBlock_of_free hst)⟩, ?_, ?_⟩
  · intro s m c n i hc hn hi hst hok
    exact ⟨leaves_of_effect (decide_eq_true hc) (admBlock_of_service hn hi hst hok),
      leaves_of_effect (decide_eq_true hc) (admBlock_of_service hn hi hst hok)⟩
  · intro s k hk
    exact ⟨fun h => ⟨leaves_of_effect (decide_eq_true hk) (if_pos h), leaves_of_effect (decide_eq_true hk) (mbxFree_of_free h)⟩,
      fun h => ⟨leaves_of_effect (decide_eq_true hk) (if_pos h), leaves_of_effect (decide_eq_true hk) (mbxPost_of_done h)⟩⟩
  · rintro s k c u f hk hon hrun hst hfirst hc rfl hf
    refine ⟨fun h => leaves_of_effect (decide_eq_true hk) (mbxServe_of_bad_op hon hrun hst hfirst hc h), fun h => ?_,
      fun h h7 => leaves_of_effect (decide_eq_true hk) (moduleCtl_of_no_module hon hrun hst hfirst hc hf h h7), fun m h hm h7 => ?_,
      fun b m h hm hmod hmsg => ?_,
      fun b m h hm hmod => leaves_of_effect (decide_eq_true hk) (moduleMsg_of_disabled hon hrun hst hfirst hc hf h hm hmod),
      fun h => leaves_of_effect (decide_eq_true hk) (powerSet_of_first hon hrun hst hfirst hc h),
      fun h hh hfw hent => leaves_of_effect (decide_eq_true hk) (fwRecord_of_handle hon hrun hst hfirst hc hf h hh hfw hent),
      fun h hh => leaves_of_effect (decide_eq_true hk) (fwRecord_of_bad_handle hon hrun hst hfirst hc h hh)⟩
    · exact leaves_of_effect (decide_eq_true hk) (mbxInfo_of_first hon hrun hst hfirst hc hf h)
    · exact ⟨fun hmod => leaves_of_effect (decide_eq_true hk) (moduleCtl_of_absent hon hrun hst hfirst hc hf h hm h7 hmod),
        fun hmod => leaves_of_effect (decide_eq_true hk) (moduleCtl_of_faulted hon hrun hst hfirst hc hf h hm h7 hmod),
        fun hmod => leaves_of_effect (decide_eq_true hk) (moduleCtl_of_enabled hon hrun hst hfirst hc hf h hm h7 hmod),
        fun hmod => leaves_of_effect (decide_eq_true hk) (moduleCtl_of_disabled hon hrun hst hfirst hc hf h hm h7 hmod)⟩
    · exact ⟨leaves_of_effect (decide_eq_true hk) (moduleMsg_of_reply hon hrun hst hfirst hc hf h hm hmod hmsg),
        leaves_of_effect (decide_eq_true hk) (moduleMsg_of_no_reply hon hrun hst hfirst hc hf h hm hmod)⟩

end Sys2Proof.Proofs
end

section
namespace Sys2Proof.Proofs
open Sys2Proof Sys2Proof.Machine Sys2Proof.Safety Sys2Proof.Laws

set_option Elab.async false

variable {s : State}

/-! ### CH_CMD (R193 to R197) -/

/-- The first index that qualifies is the lowest. -/
theorem lowest_eq_some {n i : Nat} {p : Nat → Bool} (hi : i < n) (hp : p i = true) (hmin : ∀ j, j < i → p j = false) :
    lowest n p = some i := by
  simp only [lowest, List.find?_range_eq_some, hp, List.mem_range, hi, true_and]
  exact fun j hj => by simp [hmin j hj]

theorem lowest_eq_none {n : Nat} {p : Nat → Bool} (h : ∀ j, j < n → p j = false) : lowest n p = none := by
  simp only [lowest, List.find?_eq_none, List.mem_range]
  exact fun j hj => by simp [h j hj]

section Command
variable {n i : Nat}

theorem chCreate_of_busy {src : Src} (h : chBusy s n = true) : chCreate n src s = chCode n 4 s := if_pos h
theorem chDestroy_of_busy (h : chBusy s n = true) : chDestroy n i s = chCode n 4 s := if_pos h
theorem chModify_of_busy (h : chBusy s n = true) : chModify n i s = chCode n 4 s := if_pos h

variable (hbusy : chBusy s n = false)
include hbusy

theorem chDestroy_of_none (h : localChan s n i = none) : chDestroy n i s = chCode n 3 s := by
  unfold chDestroy
  rw [if_neg (by simp [hbusy]), h]

theorem chModify_of_none (h : localChan s n i = none) : chModify n i s = chCode n 3 s := by
  unfold chModify
  rw [if_neg (by simp [hbusy]), h]

theorem chModify_of_open {c : Nat} (h : localChan s n i = some c) : chModify n i s =
    chCode n 0 (modChan c (fun x => { x with modify := some (w32 (rd s (win n 0x044)), w32 (rd s (win n 0x048))) }) s) := by
  unfold chModify
  rw [if_neg (by simp [hbusy]), h]

theorem chDestroy_of_open {c : Nat} {u v w : State} (h : localChan s n i = some c)
    (hu : u = setBit (rChResult n) 8 (modChan c (fun x => { x with st := 2 }) s))
    (hv : v = { u with spg := { u.spg with keys := u.spg.keys.filter (fun k => k.1 != c) } })
    (hw : w = forEach (chanReqs v c) (fun r s => if (ent s r).st = .pausing ∨ (ent s r).st = .closing then s else takeClose r false 0 s) v) :
    chDestroy n i s = freeChan c (forEach ((w.rtb.filter (fun e => e.2.channel == c && e.2.st == .paused && !e.2.shadow)).map Prod.fst) orphan w) := by
  subst hu hv hw
  unfold chDestroy
  rw [if_neg (by simp [hbusy]), h]

variable {src : Src} {cfg : Nat} (hcfg : cfg = rd s (win n 0x040))
include hcfg

theorem chCreate_of_bad_config (h : bits cfg 3 0 < 4 ∨ 12 < bits cfg 3 0 ∨ bits cfg 7 4 < 4 ∨ 12 < bits cfg 7 4 ∨
    rd64 s (win n 0x030) % 4096 ≠ 0 ∨ rd64 s (win n 0x038) % 4096 ≠ 0) : chCreate n src s = chCode n 2 s := by
  subst hcfg
  unfold chCreate
  rw [if_neg (by simp [hbusy])]
  refine if_pos ?_
  simp only [Bool.or_eq_true, Bool.not_eq_true', Bool.and_eq_false_iff, decide_eq_false_iff_not, bne_iff_ne, Nat.not_le]
  tauto

/-- The index a configuration in range opens. -/
theorem chCreate_of_config (hsq : 4 ≤ bits cfg 3 0) (hsq' : bits cfg 3 0 ≤ 12) (hcq : 4 ≤ bits cfg 7 4) (hcq' : bits cfg 7 4 ≤ 12)
    (hsb : rd64 s (win n 0x030) % 4096 = 0) (hcb : rd64 s (win n 0x038) % 4096 = 0) {o : Option Nat}
    (ho : lowest (stallCfg s n).chCount (fun i => (chan s ((stallCfg s n).chBase + i)).st == 0) = o) :
    (o = none → chCreate n src s = chCode n 1 s) ∧
    (∀ i k u w, o = some i → k = (stallCfg s n).chBase + i →
      u = chLimits (rd s (win n 0x044)) (rd s (win n 0x048)) {
        st := 1, stall := n, src := src, sqBase := BitVec.ofNat 64 (rd64 s (win n 0x030)), cqBase := BitVec.ofNat 64 (rd64 s (win n 0x038)),
        sqK := bits cfg 3 0, cqK := bits cfg 7 4, vec := bits cfg 13 8, coalN := bits cfg 17 14, coalT := bits cfg 25 18, phase := true, fenceFrom := s.ft } →
      w = { modChan k (fun _ => { u with left := u.tokens }) s with tills := put s.tills k { snapFt := s.ft } {}, tillNow := del s.tillNow k } →
      chCreate n src s = wr64 (win n 0x028) (chHandle w k) (chCode n 0 w)) := by
  subst hcfg
  have hok : ¬ ((!(decide (4 ≤ bits (rd s (win n 0x040)) 3 0) && decide (bits (rd s (win n 0x040)) 3 0 ≤ 12))
      || !(decide (4 ≤ bits (rd s (win n 0x040)) 7 4) && decide (bits (rd s (win n 0x040)) 7 4 ≤ 12))
      || rd64 s (win n 0x030) % 4096 != 0 || rd64 s (win n 0x038) % 4096 != 0) = true) := by
    simp [hsq, hsq', hcq, hcq', hsb, hcb]
  constructor
  · rintro rfl
    unfold chCreate
    dsimp only
    rw [if_neg (by simp [hbusy]), if_neg hok, ho]
  · rintro i k u w rfl rfl rfl rfl
    unfold chCreate
    dsimp only
    rw [if_neg (by simp [hbusy]), if_neg hok, ho]
    rfl

end Command

/-! ### Doorbells and tills (R213, R217, R225) -/

section Bell
variable {n c : Nat} {v : Word} {x : Chan} (hc : localChan s n (bits v.toNat 9 0) = some c) (hx : x = chan s c)
include hc hx

theorem sqDb_of_deep (h : 2 ^ x.sqK ≤ bits v.toNat 21 10) : sqDb n v s = badBell n s := by
  subst hx
  rw [sqDb, hc]
  exact if_pos h

variable (hsq : bits v.toNat 21 10 < 2 ^ x.sqK) in
include hsq in
theorem sqDb_of_new (hst : x.st = 1) (hnew : bits v.toNat 21 10 ≠ x.sqHead) :
    sqDb n v s = bellWake n (modChan c (fun x => { x with sqTail := bits v.toNat 21 10 }) s) := by
  subst hx
  rw [sqDb, hc]
  dsimp only
  rw [if_neg (Nat.not_le.2 hsq), if_neg (by simp [hst, hnew])]

variable (hsq : bits v.toNat 21 10 < 2 ^ x.sqK) in
include hsq in
theorem sqDb_of_idle (h : x.st ≠ 1 ∨ bits v.toNat 21 10 = x.sqHead) : sqDb n v s = s := by
  subst hx
  rw [sqDb, hc]
  dsimp only
  rw [if_neg (Nat.not_le.2 hsq), if_pos h]

theorem cqDb_of_deep (h : 2 ^ x.cqK ≤ bits v.toNat 21 10) : cqDb n v s = badBell n s := by
  subst hx
  rw [cqDb, hc]
  exact if_pos h

theorem cqDb_of_head (h : bits v.toNat 21 10 < 2 ^ x.cqK) : cqDb n v s = takeHeldEntry c (bellWake n (modChan c (fun y =>
      { y with cqHead := bits v.toNat 21 10, posted := y.posted - (bits v.toNat 21 10 + 2 ^ x.cqK - x.cqHead) % 2 ^ x.cqK }) s)) := by
  subst hx
  rw [cqDb, hc]
  exact if_neg (Nat.not_le.2 h)

end Bell

section NoChannel
variable {n : Nat} {v : Word} (h : localChan s n (bits v.toNat 9 0) = none)
include h

theorem sqDb_of_none : sqDb n v s = s := by rw [sqDb, h]
theorem cqDb_of_none : cqDb n v s = s := by rw [cqDb, h]

end NoChannel

theorem stallCfg_wrf {o hi lo v n : Nat} : stallCfg (wrf o hi lo v s) n = stallCfg s n := rfl

section Snap
variable {n i c : Nat} {v : Word} {u : State} {a : W64} (hi : i = bits v.toNat 9 0) (hc : c = (stallCfg s n).chBase + i)
  (hu : u = wrf (win n 0x090) 9 0 i s) (ha : a = BitVec.ofNat 64 (rd64 u (win n 0x094) / 128 * 128))
include hi hu

theorem tillSnap_of_idle (h : bit v.toNat 31 = false ∨ (stallCfg s n).chCount ≤ i) : tillSnap n v s = u := by
  subst hi hu
  exact if_pos (by simpa [stallCfg_wrf] using h)

variable (hgo : bit v.toNat 31 = true) (hlt : i < (stallCfg s n).chCount)
include hc ha hgo hlt

theorem tillSnap_of_new (h : (look s.tillNow c {}).at_ ≠ s.ft) : tillSnap n v s =
    emit (.hostWrite (chan s c).src a (tillBytes (till s c)))
      { u with tills := put s.tills c { snapFt := s.ft } {}, tillNow := put s.tillNow c { at_ := s.ft, before := { snapFt := s.ft }, since := {} } {} } := by
  have hrun : ¬ ((!bit v.toNat 31) = true ∨ (stallCfg u n).chCount ≤ i) := by
    simpa [hu, hgo, stallCfg_wrf] using hlt
  subst hi hc ha hu
  unfold tillSnap
  dsimp only
  rw [if_neg hrun]
  simp only [stallCfg_wrf, wrf_tillNow, wrf_ft, h, ↓reduceIte]
  rfl

theorem tillSnap_of_same_ft {w : TillNow} (hw : w = look s.tillNow c {}) (h : w.at_ = s.ft) : tillSnap n v s =
    emit (.hostWrite (chan s c).src a (tillBytes w.before))
      { u with tills := put s.tills c { w.since with snapFt := s.ft } {}, tillNow := put s.tillNow c { at_ := s.ft, before := { snapFt := s.ft }, since := { w.since with snapFt := 0 } } {} } := by
  have hrun : ¬ ((!bit v.toNat 31) = true ∨ (stallCfg u n).chCount ≤ i) := by
    simpa [hu, hgo, stallCfg_wrf] using hlt
  subst hw hi hc ha hu
  unfold tillSnap
  dsimp only
  rw [if_neg hrun]
  simp only [stallCfg_wrf, wrf_tillNow, wrf_ft, h, ↓reduceIte]
  rfl

end Snap

/-- Settles O30: the channel commands by their checks, the doorbells by depth and state, the snapshot by what this FT counted. -/
theorem channelsAndDoorbells : Obligations.ChannelsAndDoorbells := by
  unfold Obligations.ChannelsAndDoorbells
  have hwfC : ∀ {n : Nat} {src : Src}, n < 32 → srcOk src = true → ownWindow src n = true → (Instr.chCreate n src).wf = true := by
    intro n src hn hs hw
    simp [Instr.wf, hn, hs, hw]
  refine ⟨⟨fun s n src i hn hsrc hown h => ?_, fun s n src cfg hn hsrc hown hbusy hcfg => ?_, fun s n i hn hbusy h => ?_,
    fun s n i c hn hbusy h => ?_⟩, fun s n v c x hn hc hx => ?_, fun s n v hn h => ?_, fun s n v i c u a hn hi hc hu ha => ?_⟩
  · exact ⟨leaves_of_effect (hwfC hn hsrc hown) (chCreate_of_busy h), leaves_of_effect (decide_eq_true hn) (chDestroy_of_busy h),
      leaves_of_effect (decide_eq_true hn) (chModify_of_busy h)⟩
  · refine ⟨fun h => leaves_of_effect (hwfC hn hsrc hown) (chCreate_of_bad_config hbusy hcfg h),
      fun hsq hsq' hcq hcq' hsb hcb => ⟨fun hall => ?_, fun i k u w hi hk hst hmin hu hw => ?_⟩⟩
    · have hlow : lowest (stallCfg s n).chCount (fun i => (chan s ((stallCfg s n).chBase + i)).st == 0) = none :=
        lowest_eq_none fun j hj => by simpa using hall j hj
      exact leaves_of_effect (hwfC hn hsrc hown) ((chCreate_of_config hbusy hcfg hsq hsq' hcq hcq' hsb hcb hlow).1 rfl)
    · have hlow : lowest (stallCfg s n).chCount (fun i => (chan s ((stallCfg s n).chBase + i)).st == 0) = some i :=
        lowest_eq_some hi (by simp [← hk, hst]) fun j hj => by simpa using hmin j hj
      exact leaves_of_effect (hwfC hn hsrc hown) ((chCreate_of_config hbusy hcfg hsq hsq' hcq hcq' hsb hcb hlow).2 i k u w rfl hk hu hw)
  · exact ⟨leaves_of_effect (decide_eq_true hn) (chDestroy_of_none hbusy h), leaves_of_effect (decide_eq_true hn) (chModify_of_none hbusy h)⟩
  · exact ⟨leaves_of_effect (decide_eq_true hn) (chModify_of_open hbusy h),
      fun u v w hu hv hw => leaves_of_effect (decide_eq_true hn) (chDestroy_of_open hbusy h hu hv hw)⟩
  · exact ⟨fun h => leaves_of_effect (decide_eq_true hn) (sqDb_of_deep hc hx h),
      fun h hst hnew => leaves_of_effect (decide_eq_true hn) (sqDb_of_new hc hx h hst hnew),
      fun h hidle => leaves_of_effect (decide_eq_true hn) (sqDb_of_idle hc hx h hidle),
      fun h => leaves_of_effect (decide_eq_true hn) (cqDb_of_deep hc hx h), fun h => leaves_of_effect (decide_eq_true hn) (cqDb_of_head hc hx h)⟩
  · exact ⟨leaves_of_effect (decide_eq_true hn) (sqDb_of_none h), leaves_of_effect (decide_eq_true hn) (cqDb_of_none h)⟩
  · exact ⟨fun h => leaves_of_effect (decide_eq_true hn) (tillSnap_of_idle hi hu h),
      fun hgo hlt h => leaves_of_effect (decide_eq_true hn) (tillSnap_of_new hi hc hu ha hgo hlt h),
      fun w hgo hlt hw h => leaves_of_effect (decide_eq_true hn) (tillSnap_of_same_ft hi hc hu ha hgo hlt hw h)⟩

/-! ### Fetching and posting (R197, R206, R210, R214, R216, R217, R220, R292, R528) -/

section Fetch
variable {c : Nat}

theorem commandFetch_of_corrupt {b : Option Bytes} (h : chanCorrupt s c = true) : commandFetch c b s = chanError c 0x0808 s := if_pos h

variable (hok : chanCorrupt s c = false)
include hok

theorem commandFetch_of_blocked {b : Option Bytes} (h : mayFetch s c = false) : commandFetch c b s = s := by
  unfold commandFetch fetchEntry
  rw [if_neg (by simp [hok]), if_pos (by simp [h])]

variable (hmay : mayFetch s c = true)
include hmay

theorem commandFetch_of_failed_read : commandFetch c none s = queueFail c s := by
  unfold commandFetch fetchEntry
  rw [if_neg (by simp [hok]), if_neg (by simp [hmay])]

theorem commandFetch_of_entry {b : Bytes} {e : Sqe} {x : Chan} (he : e = sqeOf b) (hx : x = chan s c) : commandFetch c (some b) s =
    takeHeldEntry c (emit (.hostRead x.src (x.sqBase + BitVec.ofNat 64 (64 * x.sqHead)) 64)
      (modChan c (fun x => { x with held := some (e, 1 + finalsOf e) })
      (modChan c (fun x => { x with sqHead := (x.sqHead + 1) % 2 ^ x.sqK }) (modTill c (fun t => { t with cmds := sat32 (t.cmds + 1) }) s)))) := by
  subst he hx
  unfold commandFetch fetchEntry
  rw [if_neg (by simp [hok]), if_neg (by simp [hmay])]

end Fetch

section Fail
variable {c : Nat}

theorem queueFail_of_active (h : (chan s c).st = 1) : queueFail c s = chanError c 0x0731 s := if_pos h

theorem queueFail_of_ending (h : (chan s c).st = 2) :
    queueFail c s = freeChan c (modChan c (fun x => { x with st := 2 }) (chanError c 0x0731 s)) := by
  unfold queueFail
  dsimp only
  rw [if_neg (by omega), if_pos h]

theorem queueFail_of_closed (h : (chan s c).st = 0 ∨ (chan s c).st = 3) : queueFail c s = s := by
  unfold queueFail
  dsimp only
  rw [if_neg (by omega), if_neg (by omega)]

end Fail

/-- A completion goes to its slot with the phase; COAL_N says whether it is signalled. -/
theorem completionPost_of_entry {c : Nat} {x : Chan} {q : Cqe} {r : List Cqe} {w : Bool} {u : State} (hx : x = chan s c)
    (hq : x.compq = q :: r) (h0 : x.st ≠ 0) (h3 : x.st ≠ 3) (hon : isOn s dHST = true) (hl1 : s.spg.l1 = false)
    (hw : w = (x.cqTail + 1 == 2 ^ x.cqK))
    (hu : u = modChan c (fun y => { y with
      compq := r, cqTail := if w then 0 else y.cqTail + 1, phase := if w then !y.phase else y.phase, posted := y.posted + 1, reserved := y.reserved - 1, unsig := y.unsig + 1, unsigAt := y.unsigAt.or (some s.ft) })
      (emit (.hostWrite x.src (x.cqBase + BitVec.ofNat 64 (32 * x.cqTail)) (cqeBytes x.phase q)) s)) :
    completionPost c s = stallTry (freeChan c (if x.coalN ≤ x.unsig + 1 then chSignal c u else u)) := by
  subst hx hw hu
  unfold completionPost
  dsimp only
  rw [hq]
  dsimp only
  rw [if_neg (by simp [h0, h3, hon, hl1])]
  simp only [beq_iff_eq]
  rfl

theorem completionPost_of_blocked {c : Nat} (h : (chan s c).compq = [] ∨ (chan s c).st = 0 ∨ (chan s c).st = 3 ∨ isOn s dHST = false ∨ s.spg.l1 = true) :
    completionPost c s = s := by
  unfold completionPost
  dsimp only
  split
  · rfl
  · rename_i q r hq
    exact if_pos (by simpa [hq] using h)

section Coalesce
variable {c t : Nat} (hat : (chan s c).unsigAt = some t)
include hat

theorem coalesceTimer_of_due (h : t + us (chan s c).coalT ≤ s.ft) : coalesceTimer c s = chSignal c s := by
  unfold coalesceTimer
  dsimp only
  rw [hat]
  exact if_pos h

theorem coalesceTimer_of_early (h : s.ft < t + us (chan s c).coalT) : coalesceTimer c s = s := by
  unfold coalesceTimer
  dsimp only
  rw [hat]
  exact if_neg (Nat.not_le.2 h)

end Coalesce

theorem coalesceTimer_of_none {c : Nat} (h : (chan s c).unsigAt = none) : coalesceTimer c s = s := by
  unfold coalesceTimer
  dsimp only
  rw [h]

theorem budgetPeriod_of_boundary {c : Nat} (hst : (chan s c).st ≠ 0) (hp : (chan s c).period ≠ 0) (h : s.ft % us (chan s c).period = 0) :
    budgetPeriod c s = modChan c (fun x => { x with left := x.tokens }) s := if_pos ⟨hst, hp, h⟩

theorem budgetPeriod_of_other {c : Nat} (h : (chan s c).st = 0 ∨ (chan s c).period = 0 ∨ s.ft % us (chan s c).period ≠ 0) :
    budgetPeriod c s = s := if_neg (by tauto)

/-- Settles O31: fetches by the channel's state, completions by what holds them back, timers and budgets by their instant. -/
theorem commandsAreFetchedAndPosted : Obligations.CommandsAreFetchedAndPosted := by
  unfold Obligations.CommandsAreFetchedAndPosted
  have hwfF : ∀ {c : Nat} {b : Option Bytes}, c < 4096 → sizeOk 64 b = true → (Instr.commandFetch c b).wf = true := by
    intro c b hc hb
    simp [Instr.wf, hc, hb]
  refine ⟨fun s c b hc hb => ?_, fun s c b e x hc hb hok hmay he hx => ?_, fun s c hc hok hmay => ?_, fun s c hc => ?_,
    fun s c x q r w u hc hx hq h0 h3 hon hl1 hw hu => ?_, fun s c hc h => leaves_of_effect (decide_eq_true hc) (completionPost_of_blocked h),
    fun s c hc => ?_, fun s c hc => ?_⟩
  · exact ⟨fun h => leaves_of_effect (hwfF hc hb) (commandFetch_of_corrupt h),
      fun hok h => leaves_of_effect (hwfF hc hb) (commandFetch_of_blocked hok h)⟩
  · exact leaves_of_effect (hwfF hc (by simp [sizeOk, hb])) (commandFetch_of_entry hok hmay he hx)
  · exact leaves_of_effect (hwfF hc rfl) (commandFetch_of_failed_read hok hmay)
  · exact ⟨fun h => leaves_of_effect (decide_eq_true hc) (queueFail_of_active h), fun h => leaves_of_effect (decide_eq_true hc) (queueFail_of_ending h),
      fun h => leaves_of_effect (decide_eq_true hc) (queueFail_of_closed h)⟩
  · have hpost := completionPost_of_entry hx hq h0 h3 hon hl1 hw hu
    refine ⟨fun h => leaves_of_effect (decide_eq_true hc) (hpost.trans ?_), fun h => leaves_of_effect (decide_eq_true hc) (hpost.trans ?_)⟩
    · rw [if_neg (Nat.not_le.2 h)]
    · rw [if_pos h]
  · exact ⟨fun h => leaves_of_effect (decide_eq_true hc) (coalesceTimer_of_none h),
      fun t ht => ⟨fun h => leaves_of_effect (decide_eq_true hc) (coalesceTimer_of_due ht h),
        fun h => leaves_of_effect (decide_eq_true hc) (coalesceTimer_of_early ht h)⟩⟩
  · exact ⟨fun hst hp h => leaves_of_effect (decide_eq_true hc) (budgetPeriod_of_boundary hst hp h),
      fun h => leaves_of_effect (decide_eq_true hc) (budgetPeriod_of_other h)⟩

end Sys2Proof.Proofs
end

section
namespace Sys2Proof.Proofs
open Sys2Proof Sys2Proof.Machine Sys2Proof.Safety Sys2Proof.Laws

set_option Elab.async false

variable {s : State}

/-! ### The next command of a channel (R192, R204, R210, R217, R270) -/

/-- With nothing of its opcode to take, a command lets in at most the entry that the channel holds back. -/
theorem accept_waits {c op : Nat} {act : Sqe → State → State} (h : Waits s c op) : accept c op act s = takeHeldEntry c s := by
  have hsettle : ∀ n, settleAcc c n s = s := by
    rintro (_ | n)
    · rfl
    · obtain h | ⟨e, h, hst, -⟩ := h
      · simp only [settleAcc, h]
      · simp only [settleAcc, h, hst, if_true]
  unfold accept
  rw [hsettle]
  dsimp only
  obtain h | ⟨e, h, -, hop⟩ := h
  · rw [h]
  · rw [h]
    exact if_pos hop

theorem leaves_of_waits {c op : Nat} {act : Sqe → State → State} {cmd : Instr} (hwf : cmd.wf = true) (h : Waits s c op)
    (harm : exec cmd s = run cmd s (accept c op act s) := by rfl) : Leaves cmd s (takeHeldEntry c s) :=
  leaves_of_effect hwf (accept_waits h) harm

/-- A change of a channel that is not the value of an absent one reads back. -/
theorem chan_modChan {c : Nat} {f : Chan → Chan} (h : f (chan s c) ≠ {}) : chan (modChan c f s) c = f (chan s c) := by
  have hput : put s.chans c (f (chan s c)) {} = ins s.chans c (f (chan s c)) := if_neg h
  rw [chan, modChan_chans, hput]
  exact look_ins_self ..

/-- An open channel keeps its state and its accepted entries when a change keeps them. -/
theorem chan_modChan_acc {c : Nat} {f : Chan → Chan} (h : (chan s c).st ≠ 0) (hst : (f (chan s c)).st = (chan s c).st)
    (hacc : (f (chan s c)).acc = (chan s c).acc) :
    (chan (modChan c f s) c).st = (chan s c).st ∧ (chan (modChan c f s) c).acc = (chan s c).acc := by
  have hne : f (chan s c) ≠ {} := fun he => h (hst.symm.trans (congrArg Chan.st he))
  rw [chan_modChan hne]
  exact ⟨hst, hacc⟩

/-- Answering a command leaves the channel's state and accepted entries alone. -/
theorem chan_reject_acc {c k : Nat} {e : Sqe} (h : (chan s c).st ≠ 0) :
    (chan (reject c e k s) c).acc = (chan s c).acc := by
  obtain ⟨hst, hacc⟩ := chan_modChan_acc (f := fun x => { x with reserved := x.reserved - finalsOf e }) h rfl rfl
  unfold reject ackNow post
  split
  · exact (chan_modChan_acc (f := fun x => { x with reserved := x.reserved - 1 }) (hst.trans_ne h) rfl rfl).2.trans hacc
  · exact (chan_modChan_acc (f := fun x => { x with compq := x.compq ++ [_] }) (hst.trans_ne h) rfl rfl).2.trans hacc

theorem reject_pending {c k : Nat} {e : Sqe} : (reject c e k s).pending = s.pending := by
  unfold reject ackNow post
  split <;> rfl

/-- What a channel does once the front entry that fails the checks every command meets has completed is what it does. -/
theorem accept_of_reject {c op k : Nat} {e : Sqe} {act : Sqe → State → State} (hopen : (chan s c).st ≠ 0) (hhead : headCmd s c = some e)
    (hk : k = staticStat s c e) (h0 : k ≠ 0) : accept c op act s = accept c op act (reject c e k (takenOff c s)) := by
  have hacc : ∃ r, (chan s c).acc = e :: r := by
    unfold headCmd at hhead
    split at hhead
    · exact List.head?_eq_some_iff.1 hhead
    · cases hhead
  obtain ⟨r, hacc⟩ := hacc
  have hoff : chan (takenOff c s) c = { chan s c with acc := r } := by
    rw [takenOff, chan_modChan (fun he => hopen (congrArg Chan.st he)), hacc]
    rfl
  have hleft : (chan (reject c e k (takenOff c s)) c).acc = r := by
    rw [chan_reject_acc (by rw [hoff]; exact hopen), hoff]
  unfold accept
  rw [hacc, hleft, List.length_cons, settleAcc, hhead]
  dsimp only
  rw [← hk, if_neg h0]
  rfl

/-- A command that runs the channel's next entry leaves what it leaves after the failing entry at the front has completed. -/
theorem leaves_of_reject {c op k : Nat} {e : Sqe} {act : Sqe → State → State} {cmd : Instr} {u t : State} (hopen : (chan s c).st ≠ 0)
    (hhead : headCmd s c = some e) (hk : k = staticStat s c e) (h0 : k ≠ 0) (hu : u = reject c e k (takenOff c s)) (hl : Leaves cmd u t)
    (harm : ∀ z, exec cmd z = run cmd z (accept c op act z) := by intro z; rfl) : Leaves cmd s t := by
  have hp : u.pending = s.pending := by rw [hu, reject_pending]; rfl
  have hacc : accept c op act s = accept c op act u := by rw [hu]; exact accept_of_reject hopen hhead hk h0
  unfold Leaves at hl ⊢
  rw [harm, run] at hl ⊢
  rw [hacc, ← hp]
  exact hl

/-- A command at the front of its channel leaves its own effect, and what follows it (R217). -/
theorem leaves_of_takes {c op : Nat} {e : Sqe} {act : Sqe → State → State} {cmd : Instr} {t : State} (hwf : cmd.wf = true)
    (h : Takes s c op e) (he : act e (takenOff c s) = t) (harm : exec cmd s = run cmd s (accept c op act s) := by rfl) :
    Leaves cmd s (nextUp c t) :=
  leaves_of_effect hwf ((accept_takes h act).trans (congrArg (nextUp c) he)) harm

/-! ### SUBMIT, BATCH and FENCE (R76, R201, R234, R322) -/

section Submit
variable {c : Nat} {e : Sqe} {u v : State} {ws : Option (List Word)} {l : Nat × List Nat} {g : Nat × Option Nat}
  (hv : v = readList c e 4 u) (hl : l = listOf e ws) (hg : g = ringCheck u (chan u c).stall e.ring.toNat)
include hv hl hg

omit hg in
theorem submitAct_of_bad_list (h : l.1 ≠ 0) : submitAct c ws e u = reject c e l.1 v := by
  subst hv hl
  exact if_pos h

variable (hl0 : l.1 = 0)
include hl0

theorem submitAct_of_bad_ring (h : g.1 ≠ 0) : submitAct c ws e u = reject c e g.1 v := by
  subst hv hl hg
  exact (if_neg (not_not.2 hl0)).trans (if_pos h)

theorem submitAct_of_list (h : g.1 = 0) {r : Nat × State} (hr : r = openSubmit c e l.2 g.2 0xFFFF false (deadlineOf v e) v.ft v) :
    submitAct c ws e u = closeIfLeaving c r.1 (enqueue r.1 false r.2) := by
  subst hv hl hg hr
  exact (if_neg (not_not.2 hl0)).trans (if_neg (not_not.2 h))

end Submit

section Batch
variable {c : Nat} {e : Sqe} {u v w : State} {l : List (Bytes × List Word)} (hv : v = readList c e 64 u)
  (hw : w = forEach (l.take e.count) (fun m => readList c (sqeOf m.1) 4) v)
include hv

theorem batchAct_of_unread : batchAct c none e u = reject c e 6 v := by
  subst hv
  rfl

include hw

theorem batchAct_of_bad_member (h : batchStat w c e l ≠ 0) : batchAct c (some l) e u = reject c e (batchStat w c e l) w := by
  subst hv hw
  exact if_pos h

theorem batchAct_of_members {n : Nat} {r : List Nat × State} (h : batchStat w c e l = 0) (hn : n = w.batchNum)
    (hr : r = openMembers c n (l.take e.count) { w with batchNum := n + 1 }) :
    batchAct c (some l) e u = forEach r.1 (closeIfLeaving c) { r.2 with
      batches := r.2.batches ++ [{ num := n, stall := (chan w c).stall, channel := c, cid := e.cid, prio := prioOf w c e.prio, accept := w.ft, members := r.1, askPrio := e.prio }],
      admq := r.2.admq ++ [{ req := n, isBatch := true, at_ := w.ft }] } := by
  subst hv hw hn hr
  exact if_neg (not_not.2 h)

end Batch

section Fence
variable {c : Nat} {x : Chan} {f : FenceRec} {rest : List FenceRec} (hx : x = chan s c) (hf : x.fences = f :: rest)
include hx hf

theorem fenceComplete_of_early (h : fenceReached s x.stall f = false) : fenceComplete c s = s := by
  subst hx
  unfold fenceComplete
  dsimp only
  rw [hf]
  exact if_pos (by simp [h])

/-- A FENCE that is reached completes, with the first faulted write that it covers. -/
theorem fenceComplete_of_reached {u : State} {q : Cqe} (h : fenceReached s x.stall f = true)
    (hu : u = modChan c (fun x => { x with fences := rest, fenceFrom := f.accepted, faulted := x.faulted.filter (fun w => !decide (w.1 < f.upto)) }) s)
    (hq : q = { plainAck u f.cid 0 0 with ingress := f.accepted % 2 ^ 48 }) {o : Option (Nat × Nat × W64 × Nat)}
    (ho : firstIssued (x.faulted.filter (fun w => decide (w.1 < f.upto))) = o) :
    (o = none → fenceComplete c s = post c q u) ∧
    (∀ n seq h stall, o = some (n, seq, h, stall) → fenceComplete c s =
      post c { q with req := hGen h.toNat * 2 ^ 24 + hIdx h.toNat, predict := seq + u.fab.chip * 2 ^ 16 + (stall % 32 + 128) * 2 ^ 24 } u) := by
  subst hx hu hq
  constructor
  · rintro rfl
    unfold fenceComplete
    dsimp only
    rw [hf]
    dsimp only
    rw [if_neg (by simp [h]), ho]
  · rintro n seq h' stall rfl
    unfold fenceComplete
    dsimp only
    rw [hf]
    dsimp only
    rw [if_neg (by simp [h]), ho]

end Fence

theorem fenceComplete_of_none {c : Nat} (h : (chan s c).fences = []) : fenceComplete c s = s := by
  unfold fenceComplete
  dsimp only
  rw [h]

/-! ### APPEND and SUPERSEDE (R227, R270, R274, R276, R531) -/

/-- A running request is in none of the states around them. -/
theorem not_running_of {x : Entry} (h : x.st = .ready ∨ x.st = .pausing ∨ x.st = .paused ∨ x.st = .resuming) : running x = false := by
  obtain h | h | h | h := h <;> simp [running, h]

section Append
variable {c r : Nat} {e : Sqe} {u v : State} {ws : Option (List Word)} {l : Nat × List Nat} {x : Entry} {y : Side}
  (hv : v = readList c e 4 u) (hr : r = hIdx e.handle.toNat) (hl : l = listOf e ws) (hx : x = ent u r) (hy : y = side u r)
include hv hr hl hx hy

omit hr hx hy in
theorem appendAct_of_bad_list (h : l.1 ≠ 0) : appendAct c ws e u = reject c e l.1 v := by
  subst hv hl
  exact if_pos h

theorem appendAct_of_poison (hl0 : l.1 = 0) (h : x.poison = true ∧ y.open_ = .none_ ∧ y.pend = none ∧ x.st ≠ .closing) :
    appendAct c ws e u = poisonEnd c e v := by
  have h' : x.poison = true ∧ y.open_ = .none_ ∧ y.pend.isNone = true ∧ x.st ≠ .closing := by simpa using h
  subst hv hr hl hx hy
  exact (if_neg (not_not.2 hl0)).trans (if_pos h')

variable (hl0 : l.1 = 0) (hp : ¬ (x.poison = true ∧ y.open_ = .none_ ∧ y.pend = none ∧ x.st ≠ .closing))
include hl0 hp

theorem appendAct_of_taken (h : y.pend ≠ none ∨ noAppend v r = true) : appendAct c ws e u = reject c e 4 v := by
  have hp' : ¬ (x.poison = true ∧ y.open_ = .none_ ∧ y.pend.isNone = true ∧ x.st ≠ .closing) := by simpa using hp
  have h' : y.pend.isSome = true ∨ noAppend v r = true := by simpa [Option.isSome_iff_ne_none] using h
  subst hv hr hl hx hy
  exact (if_neg (not_not.2 hl0)).trans ((if_neg hp').trans (if_pos h'))

variable (hpend : y.pend = none) (hno : noAppend v r = false)
include hpend hno

/-- An APPEND that its request may take, by what the request does. -/
theorem appendAct_of_room : appendAct c ws e u =
    if e.supersede ∧ (x.st = .pausing ∨ x.st = .paused ∨ x.st = .resuming) then reject c e 4 v
    else if e.supersede ∧ running x then fixEffect c r false (modSide r (fun z => { z with pend := some (pendOf c e l.2 v) }) v)
    else takePend r (pendOf c e l.2 v) v := by
  have hp' : ¬ (x.poison = true ∧ y.open_ = .none_ ∧ y.pend.isNone = true ∧ x.st ≠ .closing) := by simpa using hp
  have h' : ¬ (y.pend.isSome = true ∨ noAppend v r = true) := by simp [hpend, hno]
  subst hv hr hl hx hy
  exact (if_neg (not_not.2 hl0)).trans ((if_neg hp').trans (if_neg h'))

theorem appendAct_of_lake (hsup : e.supersede = true) (h : x.st = .pausing ∨ x.st = .paused ∨ x.st = .resuming) :
    appendAct c ws e u = reject c e 4 v := by
  rw [appendAct_of_room hv hr hl hx hy hl0 hp hpend hno, if_pos ⟨hsup, h⟩]

variable {w : State} (hw : w = modSide r (fun z => { z with pend := some (pendOf c e l.2 v) }) v)
include hw

theorem appendAct_of_running (hsup : e.supersede = true) (hrun : running x = true) : appendAct c ws e u = fixEffect c r false w := by
  have hst : ¬ (e.supersede = true ∧ (x.st = .pausing ∨ x.st = .paused ∨ x.st = .resuming)) := by
    rintro ⟨-, h⟩
    rw [not_running_of (.inr h)] at hrun
    cases hrun
  rw [appendAct_of_room hv hr hl hx hy hl0 hp hpend hno, if_neg hst, if_pos ⟨hsup, hrun⟩, hw]

/-- Where nothing is superseded the request takes the APPEND as its pending command. -/
theorem appendAct_of_plain (hsup : e.supersede = false ∨ (running x = false ∧ x.st ≠ .pausing ∧ x.st ≠ .paused ∧ x.st ≠ .resuming)) :
    appendAct c ws e u =
      if x.st = .ready then promote r w
      else if x.st = .resuming then enqueue r false (modSide r (fun x => { x with r2 := 1 }) w) else w := by
  have hst : ¬ (e.supersede = true ∧ (x.st = .pausing ∨ x.st = .paused ∨ x.st = .resuming)) := by
    rintro ⟨hs, h⟩
    simp [hs] at hsup
    tauto
  have hrun : ¬ (e.supersede = true ∧ running x = true) := by
    rintro ⟨hs, h⟩
    simp [hs, h] at hsup
  have hent : ent v r = x := by
    rw [hv, hx]
    unfold readList when_
    split <;> rfl
  rw [appendAct_of_room hv hr hl hx hy hl0 hp hpend hno, if_neg hst, if_neg hrun, takePend, hent, ← hw]

end Append

section Supersede
variable {r t : Nat} {u : State} (h : (side s r).cancelAt = some (t, false)) (hu : u = modSide r (fun x => { x with cancelAt := none }) s)
include h

theorem supersedeEffect_of_early (hearly : s.ft < t ∨ isOn s dSEQ = false) : supersedeEffect r s = s := by
  rw [supersedeEffect, h]
  exact if_pos (by simpa using hearly)

variable (ht : t ≤ s.ft) (hon : isOn s dSEQ = true)
include ht hon hu

theorem supersedeEffect_of_due : supersedeEffect r s =
    if running (ent s r) then toDraining r 0x11 true false false (modEnt r (fun e => { e with superseded := true }) (maskHere r u)) else u := by
  subst hu
  rw [supersedeEffect, h]
  exact if_neg (by simp [ht, hon])

end Supersede

theorem supersedeEffect_of_none {r : Nat} (h : (side s r).cancelAt = none) : supersedeEffect r s = s := by
  rw [supersedeEffect, h]

/-- Settles O32: commands in turn, then SUBMIT, BATCH, FENCE and APPEND by list, ring and the state of their request. -/
theorem submitAppendAndBatch : Obligations.SubmitAppendAndBatch := by
  unfold Obligations.SubmitAppendAndBatch
  refine ⟨⟨?_, ?_, ?_, ?_, ?_, fun s c hc h => leaves_of_effect (decide_eq_true hc) (fenceComplete_of_none h), ?_⟩, ?_, ?_,
    fun s r hr h => leaves_of_effect (decide_eq_true hr) (supersedeEffect_of_none h)⟩
  · intro s c ws ms hc
    exact ⟨fun h => leaves_of_waits (decide_eq_true hc) h, fun h => leaves_of_waits (decide_eq_true hc) h,
      fun h => leaves_of_waits (decide_eq_true hc) h, fun h => leaves_of_waits (decide_eq_true hc) h,
      fun h => leaves_of_waits (decide_eq_true hc) h, fun h => leaves_of_waits (decide_eq_true hc) h,
      fun h => leaves_of_waits (decide_eq_true hc) h, fun h => leaves_of_waits (decide_eq_true hc) h,
      fun h => leaves_of_waits (decide_eq_true hc) h, fun h => leaves_of_waits (decide_eq_true hc) h⟩
  · intro s c e k u t ws ms hopen hhead hk h0 hu
    exact ⟨fun h => leaves_of_reject hopen hhead hk h0 hu h, fun h => leaves_of_reject hopen hhead hk h0 hu h,
      fun h => leaves_of_reject hopen hhead hk h0 hu h, fun h => leaves_of_reject hopen hhead hk h0 hu h,
      fun h => leaves_of_reject hopen hhead hk h0 hu h, fun h => leaves_of_reject hopen hhead hk h0 hu h,
      fun h => leaves_of_reject hopen hhead hk h0 hu h, fun h => leaves_of_reject hopen hhead hk h0 hu h,
      fun h => leaves_of_reject hopen hhead hk h0 hu h, fun h => leaves_of_reject hopen hhead hk h0 hu h⟩
  · rintro s c e _ v ws l g hc htake rfl hv hl hg
    exact ⟨fun h => leaves_of_takes (decide_eq_true hc) htake (submitAct_of_bad_list hv hl h),
      fun hl0 h => leaves_of_takes (decide_eq_true hc) htake (submitAct_of_bad_ring hv hl hg hl0 h),
      fun r hl0 h hr => leaves_of_takes (decide_eq_true hc) htake (submitAct_of_list hv hl hg hl0 h hr)⟩
  · rintro s c e _ v hc htake rfl hv
    exact ⟨leaves_of_takes (decide_eq_true hc) htake (batchAct_of_unread hv),
      fun l w hw => ⟨fun h => leaves_of_takes (decide_eq_true hc) htake (batchAct_of_bad_member hv hw h),
        fun n r h hn hr => leaves_of_takes (decide_eq_true hc) htake (batchAct_of_members hv hw h hn hr)⟩⟩
  · rintro s c e _ hc htake rfl
    exact leaves_of_takes (decide_eq_true hc) htake rfl
  · intro s c f rest x u q hc hx hf hu hq
    refine ⟨fun h => leaves_of_effect (decide_eq_true hc) (fenceComplete_of_early hx hf h), fun h hnone => ?_, fun n seq h stall hreach hfirst =>
      leaves_of_effect (decide_eq_true hc) ((fenceComplete_of_reached hx hf hreach hu hq hfirst).2 n seq h stall rfl)⟩
    have hempty : firstIssued (x.faulted.filter (fun w => decide (w.1 < f.upto))) = none := by
      rw [List.filter_eq_nil_iff.2 (fun w hw => by simpa using hnone w hw)]
      rfl
    exact leaves_of_effect (decide_eq_true hc) ((fenceComplete_of_reached hx hf h hu hq hempty).1 rfl)
  · rintro s c e _ v r ws l x y hc htake rfl hv hr hl hx hy
    refine ⟨fun h => leaves_of_takes (decide_eq_true hc) htake (appendAct_of_bad_list hv hl h),
      fun hl0 h => leaves_of_takes (decide_eq_true hc) htake (appendAct_of_poison hv hr hl hx hy hl0 h),
      fun hl0 hp => ⟨fun h => leaves_of_takes (decide_eq_true hc) htake (appendAct_of_taken hv hr hl hx hy hl0 hp h), fun hpend hno =>
        ⟨fun hsup h => leaves_of_takes (decide_eq_true hc) htake (appendAct_of_lake hv hr hl hx hy hl0 hp hpend hno hsup h), fun w hw => ?_⟩⟩⟩
    have hplain := appendAct_of_plain hv hr hl hx hy hl0 hp hpend hno hw
    refine ⟨fun hsup hrun => leaves_of_takes (decide_eq_true hc) htake (appendAct_of_running hv hr hl hx hy hl0 hp hpend hno hw hsup hrun),
      fun hst => leaves_of_takes (decide_eq_true hc) htake ((hplain (.inr ?_)).trans (if_pos hst)),
      fun hsup hst => leaves_of_takes (decide_eq_true hc) htake ((hplain (.inl hsup)).trans ?_),
      fun hsup hready hres => leaves_of_takes (decide_eq_true hc) htake ((hplain (by tauto)).trans ?_)⟩
    · exact ⟨not_running_of (.inl hst), by simp [hst], by simp [hst], by simp [hst]⟩
    · rw [if_neg (by simp [hst]), if_pos hst]
    · rw [if_neg hready, if_neg hres]
  · intro s r t u hr h hu
    refine ⟨fun hearly => leaves_of_effect (decide_eq_true hr) (supersedeEffect_of_early h hearly), fun ht hon hrun => ?_, fun ht hon hrun => ?_⟩
    · exact leaves_of_effect (decide_eq_true hr) ((supersedeEffect_of_due h hu ht hon).trans (if_pos hrun))
    · exact leaves_of_effect (decide_eq_true hr) ((supersedeEffect_of_due h hu ht hon).trans (if_neg (by simp [hrun])))

end Sys2Proof.Proofs
end

section
namespace Sys2Proof.Proofs
open Sys2Proof Sys2Proof.Machine Sys2Proof.Safety Sys2Proof.Laws

set_option Elab.async false

variable {s : State}

/-! ### CANCEL, CLOSE and SET_DEADLINE (R207, R228, R270, R273, R276) -/

section Name
variable {c r : Nat} {e : Sqe} {u : State} (hr : r = hIdx e.handle.toNat)
include hr

theorem cancelAct_of_closing (h : (ent u r).st = .closing) : cancelAct c e u = reject c e 4 u := by
  subst hr
  exact if_pos h

theorem cancelAct_of_live (h : (ent u r).st ≠ .closing) :
    cancelAct c e u = fixEffect c r true (modSide r (fun x => { x with cancelCid := e.cid, cancelIn := u.ft }) u) := by
  subst hr
  exact if_neg h

theorem closeAct_of_closing (h : (ent u r).st = .closing ∨ ((side u r).pend.map Pend.isClose).getD false = true) :
    closeAct c e u = reject c e 4 u := by
  subst hr
  exact if_pos h

theorem closeAct_of_live (h : (ent u r).st ≠ .closing) (hp : ((side u r).pend.map Pend.isClose).getD false = false) :
    closeAct c e u = takeClose r true e.cid (post c (plainAck u e.cid 0 (namedReq e)) u) := by
  subst hr
  exact if_neg (by simp [h, hp])

theorem setDeadlineAct_of_none (h : (side u r).open_ = .none_ ∨ (side u r).open_ = .close ∨ (ent u r).st = .closing) :
    setDeadlineAct c e u = reject c e 4 u := by
  subst hr
  exact if_pos h

theorem setDeadlineAct_of_open {w z : State} (ho : (side u r).open_ ≠ .none_) (hc : (side u r).open_ ≠ .close) (hst : (ent u r).st ≠ .closing)
    (hw : w = ackNow c e 0 (namedReq e) 0 u) (hz : z = modEnt r (fun x => { x with deadline := deadlineOf w e }) (dlyDel 1 (reqHandle w r) w)) :
    setDeadlineAct c e u =
      if (ent u r).st = .deferred ∨ (ent u r).st = .resuming ∨ running (ent z r) = true then armDeadline r z else z := by
  subst hr hw hz
  exact if_neg (by simp [ho, hc, hst])

end Name

section Cancel
variable {r t : Nat}

theorem cancelEffect_of_none (h : (side s r).cancelAt = none) : cancelEffect r s = s := by
  rw [cancelEffect, h]

variable (h : (side s r).cancelAt = some (t, true))
include h

theorem cancelEffect_of_waiting (hw : s.ft < t ∨ isOn s dSEQ = false ∨ (ent s r).st = .admitting) : cancelEffect r s = s := by
  rw [cancelEffect, h]
  exact if_pos (by simpa using hw)

theorem cancelEffect_of_due (ht : t ≤ s.ft) (hon : isOn s dSEQ = true) (hst : (ent s r).st ≠ .admitting) : cancelEffect r s = cancelNow r s := by
  rw [cancelEffect, h]
  exact if_neg (by simp [ht, hon, hst])

end Cancel

/-- Settles O33: each command by the state of the request it names; a CANCEL's effect by its FT. -/
theorem cancelCloseAndDeadlines : Obligations.CancelCloseAndDeadlines := by
  unfold Obligations.CancelCloseAndDeadlines
  refine ⟨?_, fun s r t hr h => ?_, fun s r hr h => leaves_of_effect (decide_eq_true hr) (cancelEffect_of_none h)⟩
  · rintro s c e _ r hc rfl hr
    refine ⟨fun ht h => leaves_of_takes (decide_eq_true hc) ht (cancelAct_of_closing hr h),
      fun ht h => leaves_of_takes (decide_eq_true hc) ht (cancelAct_of_live hr h),
      fun ht h => leaves_of_takes (decide_eq_true hc) ht (closeAct_of_closing hr h),
      fun ht h hp => leaves_of_takes (decide_eq_true hc) ht (closeAct_of_live hr h hp),
      fun ht h => leaves_of_takes (decide_eq_true hc) ht (setDeadlineAct_of_none hr h), fun w z ht ho hcl hst hw hz => ?_⟩
    have hset := setDeadlineAct_of_open hr ho hcl hst hw hz
    exact ⟨fun h => leaves_of_takes (decide_eq_true hc) ht (hset.trans (if_pos h)),
      fun hd hrs hrun => leaves_of_takes (decide_eq_true hc) ht (hset.trans (if_neg (by simp [hd, hrs, hrun])))⟩
  · exact ⟨fun hw => leaves_of_effect (decide_eq_true hr) (cancelEffect_of_waiting h hw),
      fun ht hon hst => leaves_of_effect (decide_eq_true hr) (cancelEffect_of_due h ht hon hst)⟩

/-! ### PAUSE, RESUME and ADOPT (R258, R262 to R265, R268) -/

section Pause
variable {c r : Nat} {e : Sqe} {u : State} {g : Nat × Option Nat} (hr : r = hIdx e.handle.toNat)
  (hg : g = ringCheck u (chan u c).stall e.ring.toNat)
include hr

theorem pauseAct_of_not_ready (h : (ent u r).st ≠ .ready) : pauseAct c e u = reject c e 4 u := by
  subst hr
  exact if_pos h

theorem pauseAct_of_full (h : (ent u r).st = .ready) (hs : slotsSuffice u r = false) :
    pauseAct c e u = logEv 0x0806 (ent u r).stall [] (reject c e 4 u) := by
  subst hr
  exact (if_neg (not_not.2 h)).trans (if_pos (by simp [hs]))

theorem pauseAct_of_room (h : (ent u r).st = .ready) (hs : slotsSuffice u r = true) :
    pauseAct c e u = startPause r e.ttl (ackNow c e 0 (namedReq e) 0 u) := by
  subst hr
  exact (if_neg (not_not.2 h)).trans (if_neg (by simp [hs]))

theorem resumeAct_of_paused (h : (ent u r).st = .paused ∨ (ent u r).st = .pausing) (ho : (side u r).open_ = .none_)
    (hp : (side u r).pend = none) : resumeAct c e u = resumeTaken c e .resume u := by
  subst hr
  exact if_pos ⟨h, ho, by simp [hp]⟩

theorem resumeAct_of_other (h : ((ent u r).st ≠ .paused ∧ (ent u r).st ≠ .pausing) ∨ (side u r).open_ ≠ .none_ ∨ (side u r).pend ≠ none) :
    resumeAct c e u = reject c e 4 u := by
  subst hr
  refine if_neg ?_
  rintro ⟨hst, ho, hp⟩
  rw [Option.isNone_iff_eq_none] at hp
  tauto

include hg

omit hr in
theorem adoptAct_of_bad_ring (h : g.1 ≠ 0) : adoptAct c e u = reject c e g.1 u := by
  subst hg
  exact if_pos h

variable (hg0 : g.1 = 0)
include hg0

theorem adoptAct_of_lost (h : memberLost u r = true) : adoptAct c e u = resumeTaken c e .adopt u := by
  subst hr hg
  exact (if_neg (not_not.2 hg0)).trans (if_pos h)

variable (hlost : memberLost u r = false) {w : State}
  (hw : w = modEnt r (fun x => { x with channel := c, till := c, ring := g.2, orphan := false }) u)
include hlost hw

theorem adoptAct_without_ring (h : g.2 = none) : adoptAct c e u = resumeTaken c e .adopt w := by
  subst hr hg hw
  unfold adoptAct
  dsimp only
  rw [if_neg (not_not.2 hg0), if_neg (by simp [hlost]), h]

theorem adoptAct_with_ring {i : Nat} (h : g.2 = some i) :
    adoptAct c e u = resumeTaken c e .adopt (modRing i (fun y => { y with st := 2, req := some r }) w) := by
  subst hr hg hw
  unfold adoptAct
  dsimp only
  rw [if_neg (not_not.2 hg0), if_neg (by simp [hlost]), h]

end Pause

section IdleTimer
variable {r t : Nat} (ht : t = rd s (win (ent s r).stall 0x204))
include ht

theorem rtbIdle_of_other (h : (ent s r).st ≠ .ready ∨ (ent s r).shadow = true ∨ t = 0 ∨ s.ft < (side s r).idleSince + us t ∨
    (side s r).pend ≠ none ∨ isOn s dSEQ = false) : rtbIdle r s = s := by
  subst ht
  exact if_pos (by simpa [Option.isSome_iff_ne_none] using h)

variable (hst : (ent s r).st = .ready) (hsh : (ent s r).shadow = false) (h0 : t ≠ 0) (hp : (side s r).pend = none)
  (hon : isOn s dSEQ = true) (hft : (side s r).idleSince + us t ≤ s.ft)
include hst hsh h0 hp hon hft

theorem rtbIdle_of_expired : rtbIdle r s =
    if slotsSuffice s r then startPause r 0 s
    else logEv 0x0806 (ent s r).stall [] (modSide r (fun x => { x with idleSince := s.ft }) s) := by
  subst ht
  exact if_neg (by simp [hst, hsh, h0, hp, hon, hft])

end IdleTimer

section Lake
variable {r : Nat}

theorem pauseComplete_of_other (h : (ent s r).st ≠ .pausing ∨ isOn s dNMC = false) : pauseComplete r s = s :=
  if_pos (by simpa using h)

theorem resumeComplete_of_other {b : Bool} (h : (ent s r).st ≠ .resuming ∨ isOn s dNMC = false) : resumeComplete r b s = s :=
  if_pos (by simpa using h)

variable (hon : isOn s dNMC = true)
include hon

theorem pauseComplete_of_shadow (hst : (ent s r).st = .pausing) (hsh : (ent s r).shadow = true) :
    pauseComplete r s = modEnt r (fun e => { e with st := .paused }) (releasePages r (lakeCopy r s)) := by
  unfold pauseComplete
  dsimp only
  rw [if_neg (by simp [hst, hon]), if_pos hsh]

section Resume
variable (hst : (ent s r).st = .resuming)
include hst

theorem resumeComplete_of_shadow {b : Bool} (hsh : (ent s r).shadow = true) : resumeComplete r b s =
    if b then logEv 0x0805 (ent s r).stall [] s else modEnt r (fun e => { e with st := .ready }) (dropLake r (pondCopy r s)) := by
  unfold resumeComplete
  dsimp only
  rw [if_neg (by simp [hst, hon]), if_pos hsh]

variable (hsh : (ent s r).shadow = false)
include hsh

theorem resumeComplete_of_lake_error :
    resumeComplete r true s = logEv 0x0805 (ent s r).stall [] (toClosing r 0x40 0x40 0x12 false s) := by
  unfold resumeComplete
  dsimp only
  rw [if_neg (by simp [hst, hon]), if_neg (by simp [hsh]), if_pos rfl]

theorem resumeComplete_of_pages {u : State} (hu : u = finishOpen r 0x01 (dlyDel 1 (reqHandle s r) (dropLake r (pondCopy r s)))) :
    resumeComplete r false s =
      if (side u r).r2 = 2 then promoteR2 r u
      else toReady r (modSide r (fun x => { x with r2 := 0 })
        { u with admq := u.admq.filter (fun c => c.isBatch || c.req != r), cc := { u.cc with admq := u.cc.admq.filter (· != r) } }) := by
  subst hu
  unfold resumeComplete
  dsimp only
  rw [if_neg (by simp [hst, hon]), if_neg (by simp [hsh]), if_neg Bool.false_ne_true]

end Resume

section Master
variable (hsh : (ent s r).shadow = false) (hst : (ent s r).st = .pausing) {n : Nat} {u w v : State} (hn : n = (ent s r).stall)
  (hu : u = releasePages r (lakeCopy r s))
  (hw : w = forEach ((remotes u n).zipIdx) (fun m z => modFree m.1 (fun f => { f with pages := f.pages - (side z r).slots.getD m.2 0 }) z) u)
  (hv : v = modEnt r (fun e => { e with st := .paused }) (modSide r (fun x => { x with away := true, idleSince := w.ft, slots := x.slots.map (· + x.pfxDepth), pfxNode := none, pfxDepth := 0 }) w))
include hsh hst hn hu hw hv

/-- A RESUME or an ADOPT that came meanwhile goes on to admission. -/
theorem pauseComplete_of_resume (ho : (side v r).open_ = .resume ∨ (side v r).open_ = .adopt) (hack : (side v r).acked = false) :
    pauseComplete r s = modEnt r (fun e => { e with st := .admitting }) (modSide r (fun x => { x with before := .paused }) v) := by
  have hopen : (!(side v r).acked) = true := by rw [hack]; rfl
  subst hn hu hw hv
  unfold pauseComplete
  dsimp only
  rw [if_neg (by simp [hst, hon]), if_neg (by simp [hsh]), if_pos ho, if_pos hopen]

/-- With no resume under way: the TTL is armed, and a pending CLOSE or a channel that is gone takes the request. -/
theorem pauseComplete_at_rest (hr : (side v r).open_ ≠ .resume) (ha : (side v r).open_ ≠ .adopt) {z : State}
    (hz : z = (if (ent s r).ttlDue ≤ v.ft then dlyIns 3 (reqHandle v r) (ent s r).ttlDue (dlyDel 3 (reqHandle v r) v) else v))
    {o : Option Pend} (ho : (side v r).pend = o) :
    (o = none → pauseComplete r s = if (chan z (ent s r).channel).st = 1 then z else orphan r z) ∧
    (∀ p, o = some p → p.isClose = true → pauseComplete r s = takeClose r p.posts p.cid (modSide r (fun x => { x with pend := none }) z)) := by
  have hno : ¬ ((side v r).open_ = .resume ∨ (side v r).open_ = .adopt) := not_or.2 ⟨hr, ha⟩
  subst hn hu hw hv hz
  constructor
  · rintro rfl
    unfold pauseComplete
    dsimp only
    rw [if_neg (by simp [hst, hon]), if_neg (by simp [hsh]), if_neg hno, ho]
  · rintro p rfl hclose
    unfold pauseComplete
    dsimp only
    rw [if_neg (by simp [hst, hon]), if_neg (by simp [hsh]), if_neg hno, ho]
    exact if_pos hclose

end Master

end Lake

/-! ### Delay-list entries of requests and nodes (R255, R264, R296, R437) -/

section Due
variable {d : DlyEntry} {u : State} {r : Nat} (hr : r = hIdx d.arg.toNat)
include hr

omit hr in
theorem dueReq_eq_some (h : dueReq u d = some r) : (hGen d.arg.toNat = genOf u 2 r ∧ (ent u r).st ≠ .free) ∧ r = hIdx d.arg.toNat := by
  unfold dueReq at h
  dsimp only at h
  split at h
  · rename_i hok
    obtain rfl := Option.some.inj h
    exact ⟨hok, rfl⟩
  · cases h

theorem dueReq_of_current (hgen : hGen d.arg.toNat = genOf u 2 r) (hst : (ent u r).st ≠ .free) : dueReq u d = some r := by
  subst hr
  exact if_pos ⟨hgen, hst⟩

theorem deadlineDue_of_blocked (hgen : hGen d.arg.toNat = genOf u 2 r) (hst : (ent u r).st = .blocked) (hex : (side u r).exempt = false) :
    deadlineDue d u = toDraining r (if (ent u r).late then 0x31 else 0x30) true true true u := by
  rw [deadlineDue, dueReq_of_current hr hgen (by simp [hst])]
  exact if_pos (by simp [hst, hex])

theorem deadlineDue_of_other (h : hGen d.arg.toNat ≠ genOf u 2 r ∨ (ent u r).st ≠ .blocked ∨ (side u r).exempt = true) :
    deadlineDue d u = u := by
  subst hr
  unfold deadlineDue
  split
  · rfl
  · rename_i r' hdue
    obtain ⟨⟨hgen, -⟩, rfl⟩ := dueReq_eq_some hdue
    exact if_neg (by rintro ⟨hst, hex⟩; simp_all)

theorem ttlDue_of_paused (hgen : hGen d.arg.toNat = genOf u 2 r) (hst : (ent u r).st = .paused) (hex : (ent u r).expired = false) :
    ttlDue d u = logEv 0x0801 (ent u r).stall [] (modEnt r (fun e => { e with expired := true }) (dropLake r u)) := by
  rw [ttlDue, dueReq_of_current hr hgen (by simp [hst])]
  exact if_pos (by simp [hst, hex])

theorem ttlDue_of_other (h : hGen d.arg.toNat ≠ genOf u 2 r ∨ (ent u r).st ≠ .paused ∨ (ent u r).expired = true) : ttlDue d u = u := by
  subst hr
  unfold ttlDue
  split
  · rfl
  · rename_i r' hdue
    obtain ⟨⟨hgen, -⟩, rfl⟩ := dueReq_eq_some hdue
    exact if_neg (by rintro ⟨hst, hex⟩; simp_all)

theorem deferStart_of_other (h : hGen d.arg.toNat ≠ genOf u 2 r ∨ (ent u r).st ≠ .deferred ∨ (side u r).batch ≠ none) : deferStart d u = u := by
  subst hr
  exact if_pos (by simpa [Option.isSome_iff_ne_none] using h)

variable (hgen : hGen d.arg.toNat = genOf u 2 r) (hst : (ent u r).st = .deferred) (hb : (side u r).batch = none)
include hgen hst hb

theorem deferStart_of_free (h : resOk u (askOf u r) (ent u r).rung = true) : deferStart d u = beginWork r (ent u r).rung u := by
  subst hr
  unfold deferStart
  dsimp only
  rw [if_neg (by simp [hgen, hst, hb]), if_pos h]

/-- A deferred request whose resources are not free is decided again, under the limits as they then stand. -/
theorem deferStart_of_verdict {v : State} (h : resOk u (askOf u r) (ent u r).rung = false) (hv : v = underLimits r u) :
    (∀ g x, verdict v (askOf u r) = .admits g x → deferStart d u = beginWork r g v) ∧
    (∀ k, verdict v (askOf u r) = .refuse k → deferStart d u = refuseReq r k v) ∧
    (∀ g t, verdict v (askOf u r) = .defer_ g t → deferStart d u =
      dlyIns 2 (reqHandle v r) (max t (v.ft + 1)) (modEnt r (fun e => { e with rung := g }) (modSide r (fun x => { x with start := t }) v))) := by
  subst hr hv
  unfold deferStart
  dsimp only
  rw [if_neg (by simp [hgen, hst, hb]), if_neg (by simp [h])]
  refine ⟨fun g x hk => ?_, fun k hk => ?_, fun g t hk => ?_⟩
  · rw [hk]
  · rw [hk]
  · rw [hk]

end Due

section Node
variable {d : DlyEntry} {u : State} {i : Nat} (hi : i = bits d.arg.toNat 17 0)
include hi

theorem nodeDue_of_free (hv : (node u i).valid = true) (h0 : (node u i).refs = 0) :
    nodeDue d u = evictDue u.pfx.length (modNode i (fun n => { n with evictable := some d.due }) u) := by
  subst hi
  exact if_pos ⟨hv, h0⟩

theorem nodeDue_of_other (h : (node u i).valid = false ∨ (node u i).refs ≠ 0) : nodeDue d u = u := by
  subst hi
  exact if_neg (by rintro ⟨hv, h0⟩; simp_all)

end Node

/-- An action of a delay list that waits for SEQ does nothing while SEQ is not ON, or while nothing is at the front. -/
theorem fire_of_waiting {k : Nat} {act : DlyEntry → State → State} (h : isOn s dSEQ = false ∨ s.wks.dly.fired = []) :
    (if isOn s dSEQ then fire k act s else s) = s := by
  obtain h | h := h
  · exact if_neg (by simp [h])
  · split
    · rw [fire, h]
    · rfl

/-- With SEQ ON the front entry of its kind is acted on. -/
theorem fire_on {k : Nat} {act : DlyEntry → State → State} {d : DlyEntry} {rest : List DlyEntry} {u t : State} (hon : isOn s dSEQ = true)
    (hf : s.wks.dly.fired = d :: rest) (hu : u = modDly (fun d => { d with fired := rest }) s) (hk : d.kind = k) (ht : act d u = t) :
    (if isOn s dSEQ then fire k act s else s) = t := by
  rw [if_pos hon, fire_of_kind hf hk, ← hu, ht]

theorem fire_on_other {k : Nat} {act : DlyEntry → State → State} {d : DlyEntry} {rest : List DlyEntry} (hon : isOn s dSEQ = true)
    (hf : s.wks.dly.fired = d :: rest) (hk : d.kind ≠ k) : (if isOn s dSEQ then fire k act s else s) = s := by
  rw [if_pos hon, fire_of_other_kind hf hk]

/-- Settles O34: PAUSE, RESUME and ADOPT by state, slots and ring; their ends by what came meanwhile; the delay entries by kind. -/
theorem pauseResumeAndTimers : Obligations.PauseResumeAndTimers := by
  unfold Obligations.PauseResumeAndTimers
  refine ⟨⟨?_, ?_, ?_, ?_, ?_, fun s r b hr => ⟨fun h => leaves_of_effect (decide_eq_true hr) (pauseComplete_of_other h),
    fun h => leaves_of_effect (decide_eq_true hr) (resumeComplete_of_other h)⟩⟩, ?_, ?_⟩
  · rintro s c e _ r g hc rfl hr hg
    refine ⟨fun ht h => leaves_of_takes (decide_eq_true hc) ht (pauseAct_of_not_ready hr h),
      fun ht h hs => leaves_of_takes (decide_eq_true hc) ht (pauseAct_of_full hr h hs),
      fun ht h hs => leaves_of_takes (decide_eq_true hc) ht (pauseAct_of_room hr h hs),
      fun ht h ho hp => leaves_of_takes (decide_eq_true hc) ht (resumeAct_of_paused hr h ho hp),
      fun ht h => leaves_of_takes (decide_eq_true hc) ht (resumeAct_of_other hr h),
      fun ht h => leaves_of_takes (decide_eq_true hc) ht (adoptAct_of_bad_ring hg h),
      fun ht hg0 h => leaves_of_takes (decide_eq_true hc) ht (adoptAct_of_lost hr hg hg0 h), fun w ht hg0 hlost hw => ?_⟩
    exact ⟨fun h => leaves_of_takes (decide_eq_true hc) ht (adoptAct_without_ring hr hg hg0 hlost hw h),
      fun i h => leaves_of_takes (decide_eq_true hc) ht (adoptAct_with_ring hr hg hg0 hlost hw h)⟩
  · intro s r t hr ht
    refine ⟨fun hst hsh h0 hp hon hft => ?_, fun h => leaves_of_effect (decide_eq_true hr) (rtbIdle_of_other ht h)⟩
    have hidle := rtbIdle_of_expired ht hst hsh h0 hp hon hft
    exact ⟨fun h => leaves_of_effect (decide_eq_true hr) (hidle.trans (if_pos h)),
      fun h => leaves_of_effect (decide_eq_true hr) (hidle.trans (if_neg (by simp [h])))⟩
  · intro s r hr hon hsh
    exact ⟨fun hst => leaves_of_effect (decide_eq_true hr) (pauseComplete_of_shadow hon hst hsh),
      fun hst => ⟨leaves_of_effect (decide_eq_true hr) (resumeComplete_of_shadow (b := false) hon hst hsh),
        leaves_of_effect (decide_eq_true hr) (resumeComplete_of_shadow (b := true) hon hst hsh)⟩⟩
  · intro s r n u w v hr hon hsh hst hn hu hw hv
    refine ⟨?_, ?_⟩
    · rintro x rfl ho hack
      exact leaves_of_effect (decide_eq_true hr) (pauseComplete_of_resume hon hsh hst hn hu hw hv ho hack)
    · rintro x z rfl hres had hz
      have hrest := fun o ho => pauseComplete_at_rest hon hsh hst hn hu hw hv hres had hz (o := o) ho
      exact ⟨fun hp h => leaves_of_effect (decide_eq_true hr) (((hrest _ hp).1 rfl).trans (if_pos h)),
        fun hp h => leaves_of_effect (decide_eq_true hr) (((hrest _ hp).1 rfl).trans (if_neg h)),
        fun p hp hclose => leaves_of_effect (decide_eq_true hr) ((hrest _ hp).2 p rfl hclose)⟩
  · intro s r hr hon hsh hst
    refine ⟨leaves_of_effect (decide_eq_true hr) (resumeComplete_of_lake_error hon hst hsh), fun u hu => ?_⟩
    have hback := resumeComplete_of_pages hon hst hsh hu
    exact ⟨fun h => leaves_of_effect (decide_eq_true hr) (hback.trans (if_pos h)),
      fun h => leaves_of_effect (decide_eq_true hr) (hback.trans (if_neg h))⟩
  · exact fun s h => ⟨leaves_of_effect rfl (fire_of_waiting h), leaves_of_effect rfl (fire_of_waiting h), leaves_of_effect rfl (fire_of_waiting h),
      leaves_of_effect rfl (fire_of_waiting h)⟩
  · intro s d rest u r hon hf hu hr
    refine ⟨fun hk => leaves_of_effect rfl (fire_on_other hon hf hk), fun hk => leaves_of_effect rfl (fire_on_other hon hf hk),
      fun hk => leaves_of_effect rfl (fire_on_other hon hf hk), fun hk => leaves_of_effect rfl (fire_on_other hon hf hk),
      fun hk h => leaves_of_effect rfl (fire_on hon hf hu hk (deadlineDue_of_other hr h)),
      fun hk hgen hst hex => leaves_of_effect rfl (fire_on hon hf hu hk (deadlineDue_of_blocked hr hgen hst hex)),
      fun hk hgen hst hex => leaves_of_effect rfl (fire_on hon hf hu hk (ttlDue_of_paused hr hgen hst hex)),
      fun hk h => leaves_of_effect rfl (fire_on hon hf hu hk (ttlDue_of_other hr h)), fun i hk hi => ?_,
      fun hk h => leaves_of_effect rfl (fire_on hon hf hu hk (deferStart_of_other hr h)), fun hk hgen hst hb => ?_⟩
    · exact ⟨fun hv h0 => leaves_of_effect rfl (fire_on hon hf hu hk (nodeDue_of_free hi hv h0)),
        fun h => leaves_of_effect rfl (fire_on hon hf hu hk (nodeDue_of_other hi h))⟩
    · refine ⟨fun h => leaves_of_effect rfl (fire_on hon hf hu hk (deferStart_of_free hr hgen hst hb h)), fun v h hv => ?_⟩
      obtain ⟨hadm, href, hdef⟩ := deferStart_of_verdict hr hgen hst hb h hv
      exact ⟨fun g x hv' => leaves_of_effect rfl (fire_on hon hf hu hk (hadm g x hv')),
        fun k hv' => leaves_of_effect rfl (fire_on hon hf hu hk (href k hv')),
        fun g t hv' => leaves_of_effect rfl (fire_on hon hf hu hk (hdef g t hv'))⟩

end Sys2Proof.Proofs
end

section
namespace Sys2Proof.Proofs
open Sys2Proof Sys2Proof.Machine Sys2Proof.Safety Sys2Proof.Laws

set_option Elab.async false

variable {s : State}

/-! ### The admission decision (R288 to R297) -/

section Decision
variable {a : AdmCmd} {rest : List AdmCmd} {u w : State} (hq : s.admq = a :: rest) (hu : u = { s with admq := rest, admNext := s.ft })
include hq

theorem admissionDecision_of_waiting (h : s.ft < outcomeAt s a ∨ isOn s dSEQ = false) : admissionDecision s = s := by
  rw [admissionDecision, hq]
  exact if_pos (by simpa using h)

variable (hft : outcomeAt s a ≤ s.ft) (hon : isOn s dSEQ = true)
include hu hft hon

theorem admissionDecision_of_due : admissionDecision s = if a.isBatch then decideBatch a.req u else decide_ a.req u := by
  subst hu
  rw [admissionDecision, hq]
  exact if_neg (by simp [hft, hon])

end Decision

theorem admissionDecision_of_empty (h : s.admq = []) : admissionDecision s = s := by
  rw [admissionDecision, h]

/-! A request's command is decided under the limits as they then stand. -/

section Decide
variable {r : Nat} {u w : State} (hw : w = takeSeed r (underLimits r u))
include hw

theorem decide_of_r2 (h : (side w r).r2 = 1) : decide_ r u = decideR2 r (verdict w (askOf w r)) w := by
  unfold decide_
  dsimp only
  rw [← hw, if_pos h]

variable (h : (side w r).r2 ≠ 1)
include h

theorem decide_of_admits {g fin : Nat} (hv : verdict w (askOf w r) = .admits g fin) : decide_ r u = lateCancel r (admitReq r g fin w) := by
  unfold decide_
  dsimp only
  rw [← hw, if_neg h, hv]

theorem decide_of_defer {g t : Nat} (hv : verdict w (askOf w r) = .defer_ g t) : decide_ r u = lateCancel r (deferReq r g t w) := by
  unfold decide_
  dsimp only
  rw [← hw, if_neg h, hv]

theorem decide_of_refuse {st : Nat} (hv : verdict w (askOf w r) = .refuse st) : decide_ r u = lateCancel r (refuseReq r st w) := by
  unfold decide_
  dsimp only
  rw [← hw, if_neg h, hv]

end Decide

section BatchStart
variable {n : Nat}

theorem batchStart_of_running (h : ∃ b ∈ s.batches, b.stall = n ∧ b.admitted = true ∧ b.running = true) : batchStart n s = s := by
  obtain ⟨b, hb, hstall, hadm, hrun⟩ := h
  refine if_pos (List.any_eq_true.2 ⟨b, List.mem_filter.2 ⟨hb, ?_⟩, hrun⟩)
  simp [hstall, hadm]

theorem batchStart_of_none (h : ∀ b ∈ s.batches, b.stall = n → b.admitted = false) : batchStart n s = s := by
  have hnil : stallBatches s n = [] := List.filter_eq_nil_iff.2 fun b hb => by
    simpa using h b hb
  unfold batchStart
  dsimp only
  rw [hnil]
  rfl

theorem batchStart_of_one {b : Batch} (h : stallBatches s n = [b]) (hrun : b.running = false) : batchStart n s =
    forEach b.members (fun r s => if (ent s r).st = .deferred then beginWork r 0 s else s)
      { s with batches := s.batches.map (fun x => if x.num == b.num then { x with running := true } else x) } := by
  unfold batchStart
  dsimp only
  rw [h]
  exact if_neg (by simp [hrun])

end BatchStart

section Adapter
variable {n a : Nat} {u : State} {d : Bool} (hd : d = s.adpFetch.any (fun f => f.1 == n && f.2.1 == a && decide (f.2.2 ≤ s.ft)))
  (hu : u = { s with adpFetch := s.adpFetch.filter (fun f => !(f.1 == n && f.2.1 == a && decide (f.2.2 ≤ s.ft))) })
include hd hu

theorem adapterFetched_of_early (h : d = false) : adapterFetched n a s = u := by
  subst hu
  unfold adapterFetched
  dsimp only
  rw [← hd, h]
  cases s.conf.models.find? (fun m => m.2.adapters.any (fun (x : AdpCfg) => x.id == a)) <;> rfl

theorem adapterFetched_of_due {m : Nat × Model} (h : d = true)
    (hm : s.conf.models.find? (fun m => m.2.adapters.any (fun (x : AdpCfg) => x.id == a)) = some m) :
    adapterFetched n a s = { u with pond := (putPages (look s.adpPages (n * 65536 + a) [])
        ((m.2.adapters.find? (fun (x : AdpCfg) => x.id == a)).elim [] (fun (x : AdpCfg) => storeBytes s 5 m.1 x.ofs x.bytes)) s).pond } := by
  subst hu
  unfold adapterFetched
  dsimp only
  rw [← hd, h, hm]
  rfl

end Adapter

/-! ### Firmware-tracked requests (R257, R401, R402) -/

section Post
variable {m r : Nat}

theorem admPost_of_unserved {o x : Nat} (h : serviceOk s m (ent s r).stall = false) : admPost m r o x s = s :=
  if_pos (by simp [h])

theorem admPost_of_other {o x : Nat} (h : (ent s r).st ≠ .admitting ∨ isFw r = false ∨ (look s.cc.recs r {}).since = none) :
    admPost m r o x s = s := by
  refine if_pos ?_
  simp only [Option.isNone_iff_eq_none, Bool.not_eq_true']
  tauto

variable (hst : (ent s r).st = .admitting) (hfw : isFw r = true) (hsince : (look s.cc.recs r {}).since.isSome = true)
  (hok : serviceOk s m (ent s r).stall = true) {u : State} {a : Ask} (hu : u = takeSeed r (underLimits r (fwTaken r s))) (ha : a = askOf u r)
include hst hfw hsince hok hu ha

/-- The posted outcome decides, after the early reasons of R290. -/
theorem admPost_of_admitting {o x : Nat} : admPost m r o x s =
    lateCancel r (match (match earlyRefusal u a with
      | some st => Verdict.refuse st
      | none => match o with
        | 0 => .admits 0 (askFinish u a 0 (askStart u a 0))
        | 1 => .admits (match verdict u a with | .admits g _ => max g 1 | _ => 1) (askFinish u a 1 (askStart u a 0))
        | 2 => .defer_ 0 (match verdict u a with | .defer_ _ t => t | _ => askStart u a 0)
        | _ => .refuse x) with
      | .admits g fin => admitReq r g fin u
      | .defer_ g t => deferReq r g t u
      | .refuse st => refuseReq r st u) := by
  subst hu ha
  exact (if_neg (by simp [hst, hfw, hok, Option.isSome_iff_ne_none.1 hsince])).trans (by rfl)

theorem admPost_of_early_reason {o x e : Nat} (he : earlyRefusal u a = some e) : admPost m r o x s = lateCancel r (refuseReq r e u) := by
  rw [admPost_of_admitting hst hfw hsince hok hu ha, he]

variable (he : earlyRefusal u a = none) {x : Nat}
include he

theorem admPost_of_admit : admPost m r 0 x s = lateCancel r (admitReq r 0 (askFinish u a 0 (askStart u a 0)) u) := by
  rw [admPost_of_admitting hst hfw hsince hok hu ha, he]
  rfl

theorem admPost_of_fallback {g : Nat} (hg : g = (match verdict u a with | .admits g _ => max g 1 | _ => 1)) :
    admPost m r 1 x s = lateCancel r (admitReq r g (askFinish u a 1 (askStart u a 0)) u) := by
  rw [admPost_of_admitting hst hfw hsince hok hu ha, he, hg]
  rfl

theorem admPost_of_defer {t : Nat} (ht : t = (match verdict u a with | .defer_ _ t => t | _ => askStart u a 0)) :
    admPost m r 2 x s = lateCancel r (deferReq r 0 t u) := by
  rw [admPost_of_admitting hst hfw hsince hok hu ha, he, ht]
  rfl

theorem admPost_of_refuse {o : Nat} (ho : 2 < o) : admPost m r o x s = lateCancel r (refuseReq r x u) := by
  obtain ⟨k, rfl⟩ : ∃ k, o = k + 3 := ⟨o - 3, by omega⟩
  rw [admPost_of_admitting hst hfw hsince hok hu ha, he]
  rfl

end Post

section Timeout
variable {r : Nat}

theorem fwTimeout_of_none (h : (look s.cc.recs r {}).since = none) : fwTimeout r s = s := by
  rw [fwTimeout, h]

variable {t : Nat} (ht : (look s.cc.recs r {}).since = some t)
include ht

theorem fwTimeout_of_waiting (h : s.ft < t + 3200 ∨ (ent s r).st ≠ .admitting ∨ s.img.reloading = true) : fwTimeout r s = s := by
  have hno : ¬ (t + 3200 ≤ s.ft ∧ (ent s r).st = .admitting ∧ s.img.reloading = false) := by
    rintro ⟨hft, hst, himg⟩
    obtain h | h | h := h
    · omega
    · exact h hst
    · simp [himg] at h
  rw [fwTimeout, ht]
  dsimp only
  rw [if_neg hno]

theorem fwTimeout_of_due (hft : t + 3200 ≤ s.ft) (hst : (ent s r).st = .admitting) (himg : s.img.reloading = false) :
    fwTimeout r s = lateCancel r (refuseReq r 0x21 (fwTaken r (takeSeed r s))) := by
  have hdue : t + 3200 ≤ s.ft ∧ (ent s r).st = .admitting ∧ s.img.reloading = false := ⟨hft, hst, himg⟩
  rw [fwTimeout, ht]
  dsimp only
  rw [if_pos hdue]

end Timeout

section Proxy
variable {m r : Nat} {e : Entry} (he : e = ent s r)
include he

theorem proxyStage_of_other (h : isFw r = false ∨ running e = false ∨ (look s.cc.recs r {}).proxy ≠ none ∨
    (stallCfg s e.stall).entries ≤ liveEntries s e.stall) : proxyStage m r s = s := by
  have hno : (!isFw r) = true ∨ (!running e) = true ∨ (look s.cc.recs r {}).proxy.isSome = true ∨ (!serviceOk s m e.stall) = true ∨
      (stallCfg s e.stall).entries ≤ liveEntries s e.stall := by
    simp only [Bool.not_eq_true', Option.isSome_iff_ne_none]
    tauto
  subst he
  unfold proxyStage
  dsimp only
  rw [if_pos hno]

theorem proxyStage_of_unserved (h : serviceOk s m e.stall = false) : proxyStage m r s = s := by
  have hno : (!isFw r) = true ∨ (!running e) = true ∨ (look s.cc.recs r {}).proxy.isSome = true ∨ (!serviceOk s m e.stall) = true ∨
      (stallCfg s e.stall).entries ≤ liveEntries s e.stall := by
    simp [h]
  subst he
  unfold proxyStage
  dsimp only
  rw [if_pos hno]

theorem proxyStage_of_room (hfw : isFw r = true) (hrun : running e = true) (hp : (look s.cc.recs r {}).proxy = none)
    (hok : serviceOk s m e.stall = true) (hroom : liveEntries s e.stall < (stallCfg s e.stall).entries) {p : Nat}
    (hlow : lowest 4096 (fun k => (ent s k).st == .free) = some p) : proxyStage m r s = { s with
        rtb := put s.rtb p { e with st := .fw, fwOwned := true, committed := e.committed % 65536, maxLen := e.maxLen % 65536, ring := none, pages := [], prompt := [] } {},
        cc := { s.cc with recs := upd s.cc.recs r {} (fun y => { y with proxy := some p }) } } := by
  subst he
  unfold proxyStage
  dsimp only
  rw [if_neg (by simp [hfw, hrun, hp, hok, hroom]), hlow]

end Proxy

section Release
variable {m p : Nat}

theorem proxyRelease_of_none (h : ∀ q ∈ s.cc.recs, q.2.proxy ≠ some p) : proxyRelease m p s = s := by
  have hnone : s.cc.recs.find? (fun x => x.2.proxy == some p) = none := List.find?_eq_none.2 fun q hq => by simpa using h q hq
  rw [proxyRelease, hnone]

variable {r : Nat} {x : FwRec} (hx : s.cc.recs.find? (fun q => q.2.proxy == some p) = some (r, x))
include hx

theorem proxyRelease_of_idle (hok : serviceOk s m (ent s r).stall = true) (h : (side s r).inStep = none) : proxyRelease m p s = dropProxy r s := by
  rw [proxyRelease, hx]
  exact if_pos ⟨hok, by simp [h]⟩

theorem proxyRelease_of_busy (h : serviceOk s m (ent s r).stall = false ∨ (side s r).inStep ≠ none) : proxyRelease m p s = s := by
  rw [proxyRelease, hx]
  refine if_neg ?_
  rintro ⟨hok, hnone⟩
  rw [Option.isNone_iff_eq_none] at hnone
  simp [hok, hnone] at h

end Release

/-- Settles O35: the decision by its instant and verdict, batches, adapters, and the firmware's posts by their conditions. -/
theorem requestsAreAdmitted : Obligations.RequestsAreAdmitted := by
  unfold Obligations.RequestsAreAdmitted
  refine ⟨⟨?_, ?_, ?_, fun s n b hn h hrun => leaves_of_effect (decide_eq_true hn) (batchStart_of_one h hrun), ?_⟩, ?_, ?_, ?_, ?_, ?_, ?_⟩
  · intro s a rest u w hq hu
    refine ⟨fun h => leaves_of_effect rfl (admissionDecision_of_waiting hq h),
      fun hft hon hb => leaves_of_effect rfl ((admissionDecision_of_due hq hu hft hon).trans (if_pos hb)), fun hft hon hb hw => ?_⟩
    have hdec : admissionDecision s = decide_ a.req u := (admissionDecision_of_due hq hu hft hon).trans (if_neg (by simp [hb]))
    refine ⟨fun h1 => ⟨fun g fin hv => ?_, fun g t hv => ?_, fun st hv => ?_⟩, fun h1 => ?_⟩
    · exact leaves_of_effect rfl (hdec.trans (decide_of_admits hw h1 hv))
    · exact leaves_of_effect rfl (hdec.trans (decide_of_defer hw h1 hv))
    · exact leaves_of_effect rfl (hdec.trans (decide_of_refuse hw h1 hv))
    · exact leaves_of_effect rfl (hdec.trans (decide_of_r2 hw h1))
  · exact fun s h => leaves_of_effect rfl (admissionDecision_of_empty h)
  · rintro s n hn (h | h)
    · exact leaves_of_effect (decide_eq_true hn) (batchStart_of_running h)
    · exact leaves_of_effect (decide_eq_true hn) (batchStart_of_none h)
  · intro s n a u d hn ha hd hu
    have hwf : (Instr.adapterFetchComplete n a).wf = true := by simp [Instr.wf, hn, ha]
    exact ⟨fun h => leaves_of_effect hwf (adapterFetched_of_early hd hu h), fun m h hm => leaves_of_effect hwf (adapterFetched_of_due hd hu h hm)⟩
  · exact fun s m r o x h => ⟨leaves_of_effect rfl (admPost_of_unserved h), leaves_of_effect rfl (proxyStage_of_unserved rfl h)⟩
  · exact fun s m r o x h => leaves_of_effect rfl (admPost_of_other h)
  · intro s m r x u a hst hfw hsince hok hu ha
    exact ⟨fun e o he => leaves_of_effect rfl (admPost_of_early_reason hst hfw hsince hok hu ha he),
      fun he => ⟨leaves_of_effect rfl (admPost_of_admit hst hfw hsince hok hu ha he),
        fun g hg => leaves_of_effect rfl (admPost_of_fallback hst hfw hsince hok hu ha he hg),
        fun t ht => leaves_of_effect rfl (admPost_of_defer hst hfw hsince hok hu ha he ht),
        fun o ho => leaves_of_effect rfl (admPost_of_refuse hst hfw hsince hok hu ha he ho)⟩⟩
  · exact fun s r => ⟨fun h => leaves_of_effect rfl (fwTimeout_of_none h),
      fun t ht => ⟨fun h => leaves_of_effect rfl (fwTimeout_of_waiting ht h),
        fun hft hst himg => leaves_of_effect rfl (fwTimeout_of_due ht hft hst himg)⟩⟩
  · intro s r m e he
    refine ⟨fun hfw hrun hp hok hroom p hp4 hfree hmin => ?_, fun h => leaves_of_effect rfl (proxyStage_of_other he h)⟩
    have hlow : lowest 4096 (fun k => (ent s k).st == .free) = some p :=
      lowest_eq_some hp4 (by simp [hfree]) fun j hj => by simpa using hmin j hj
    exact leaves_of_effect rfl (proxyStage_of_room he hfw hrun hp hok hroom hlow)
  · intro s m p hp
    exact ⟨fun h => leaves_of_effect (decide_eq_true hp) (proxyRelease_of_none h), fun r x hx =>
      ⟨fun hok h => leaves_of_effect (decide_eq_true hp) (proxyRelease_of_idle hx hok h),
        fun h => leaves_of_effect (decide_eq_true hp) (proxyRelease_of_busy hx h)⟩⟩

/-! ### Composing and issuing a step (R129, R302, R305, R306, R333) -/

theorem composeStep_of_other {a : Nat} (h : isHead s a = false ∨ isOn s dSEQ = false ∨ leaving s = true ∨ cyclic s (headStall s a) = true ∨
    (∃ t ∈ s.steps, t.aisle = a ∧ t.issued = false)) : composeStep a s = s :=
  if_pos (by simpa using h)

section Compose
variable {a : Nat} {u : State} {x : Aisle} (hhead : isHead s a = true) (hon : isOn s dSEQ = true) (hleave : leaving s = false)
  (hcyc : cyclic s (headStall s a) = false) (hissued : ∀ t ∈ s.steps, t.aisle = a → t.issued = true) (hu : u = endPoisoned a s) (hx : x = aisle u a)
include hhead hon hleave hcyc hissued hu hx

/-- On the head of an aisle whose steps have all left. -/
theorem composeStep_of_head : composeStep a s =
    if (candidates u a).isEmpty ∨ u.ft + 24 < (x.lastIssue.map (· + x.ivl)).getD 0 ∨ batchWaits u a then u
    else if rdf u rDuty 2 0 ≠ 0 ∧ rdf u rDuty 2 0 ≤ x.dutyRun then modAisle a (fun x => { x with lastIssue := some (firstSlot u a u.ft), dutyRun := 0 }) u
    else match pickTurn u (ascending ((candidates u a).map (stepModel u))) x.turn x.turnsLeft with
      | none => u
      | some (t, l) => composeFor a (firstSlot u a u.ft) t l (jumpModel u a t (ascending ((candidates u a).map (stepModel u)))) u := by
  subst hu hx
  have hgo : ¬ ((!isHead s a) = true ∨ (!isOn s dSEQ) = true ∨ leaving s = true ∨ cyclic s (headStall s a) = true ∨
      s.steps.any (fun t => t.aisle == a && !t.issued) = true) := by
    rintro (h | h | h | h | h)
    · exact absurd hhead (by simpa using h)
    · exact absurd hon (by simpa using h)
    · exact absurd (hleave.symm.trans h) Bool.false_ne_true
    · exact absurd (hcyc.symm.trans h) Bool.false_ne_true
    · obtain ⟨t, ht, hta⟩ := List.any_eq_true.1 h
      simp only [Bool.and_eq_true, beq_iff_eq, Bool.not_eq_true'] at hta
      exact absurd (hissued t ht hta.1) (by simp [hta.2])
  exact (if_neg hgo).trans (by rfl)

theorem composeStep_of_nothing (h : candidates u a = [] ∨ u.ft + 24 < (x.lastIssue.map (· + x.ivl)).getD 0 ∨ batchWaits u a = true) :
    composeStep a s = u := by
  rw [composeStep_of_head hhead hon hleave hcyc hissued hu hx]
  exact if_pos (by simpa using h)

variable (hcs : candidates u a ≠ []) (hft : (x.lastIssue.map (· + x.ivl)).getD 0 ≤ u.ft + 24) (hb : batchWaits u a = false)
include hcs hft hb

theorem composeStep_of_duty (h0 : rdf u rDuty 2 0 ≠ 0) (hrun : rdf u rDuty 2 0 ≤ x.dutyRun) :
    composeStep a s = modAisle a (fun y => { y with lastIssue := some (firstSlot u a u.ft), dutyRun := 0 }) u := by
  rw [composeStep_of_head hhead hon hleave hcyc hissued hu hx, if_neg (by simp [hcs, hft, hb])]
  exact if_pos ⟨h0, hrun⟩

variable {rd : List Nat} (hrun : rdf u rDuty 2 0 = 0 ∨ x.dutyRun < rdf u rDuty 2 0) (hrd : rd = ascending ((candidates u a).map (stepModel u)))
include hrun hrd

theorem composeStep_of_turn {t l : Nat} (hp : pickTurn u rd x.turn x.turnsLeft = some (t, l)) :
    composeStep a s = composeFor a (firstSlot u a u.ft) t l (jumpModel u a t rd) u := by
  rw [composeStep_of_head hhead hon hleave hcyc hissued hu hx, if_neg (by simp [hcs, hft, hb]), if_neg (by omega), ← hrd, hp]

theorem composeStep_of_no_turn (hp : pickTurn u rd x.turn x.turnsLeft = none) : composeStep a s = u := by
  rw [composeStep_of_head hhead hon hleave hcyc hissued hu hx, if_neg (by simp [hcs, hft, hb]), if_neg (by omega), ← hrd, hp]

end Compose

section Issue
variable {a : Nat}

theorem stepIssue_of_none (h : ∀ t ∈ s.steps, t.aisle = a → t.issued = true) : stepIssue a s = s := by
  have hnone : s.steps.find? (fun t => t.aisle == a && !t.issued) = none := List.find?_eq_none.2 fun t ht => by
    simpa using h t ht
  rw [stepIssue, hnone]

variable {t : Step} {n : Nat} (ht : s.steps.find? (fun t => t.aisle == a && !t.issued) = some t) (hn : n = headStall s a)
include ht

theorem stepIssue_of_waiting (h : s.ft < t.issue ∨ isOn s dSEQ = false ∨ leaving s = true) : stepIssue a s = s := by
  rw [stepIssue, ht]
  exact if_pos (by simpa using h)

variable (hft : t.issue ≤ s.ft) (hon : isOn s dSEQ = true) (hleave : leaving s = false)
include hn hft hon hleave

theorem stepIssue_of_asleep (hr : remotes s n ≠ []) (hl : isOn s dLNK = false) : stepIssue a s = wakeDom dLNK s := by
  subst hn
  rw [stepIssue, ht]
  dsimp only
  rw [if_neg (by simp [hft, hon, hleave]), if_pos (by simp [hr, hl])]

theorem stepIssue_of_due (hl : remotes s n = [] ∨ isOn s dLNK = true) : stepIssue a s =
    if poolFits s n (stepItems t n 0 s).1.length then issueNow t s
    else modStep a t.num (fun t => { t with blockedAt := t.blockedAt.or (some s.ft) }) s := by
  subst hn
  rw [stepIssue, ht]
  dsimp only
  rw [if_neg (by simp [hft, hon, hleave]), if_neg (by obtain h | h := hl <;> simp [h])]

end Issue

/-- Settles O36: composition by head, candidates, duty and turn; issue by instant, LNK and pool. -/
theorem stepsAreComposedAndIssued : Obligations.StepsAreComposedAndIssued := by
  unfold Obligations.StepsAreComposedAndIssued
  refine ⟨fun s a ha h => leaves_of_effect (decide_eq_true ha) (composeStep_of_other h), fun s a u x ha hhead hon hleave hcyc hissued hu hx => ?_,
    fun s a ha h => leaves_of_effect (decide_eq_true ha) (stepIssue_of_none h), fun s a t n ha ht hn => ?_⟩
  · refine ⟨fun h => leaves_of_effect (decide_eq_true ha) (composeStep_of_nothing hhead hon hleave hcyc hissued hu hx h), fun hcs hft hb =>
      ⟨fun h0 hrun => leaves_of_effect (decide_eq_true ha) (composeStep_of_duty hhead hon hleave hcyc hissued hu hx hcs hft hb h0 hrun),
        fun rd hrun hrd => ⟨fun t l hp => ?_, fun hp => ?_⟩⟩⟩
    · exact leaves_of_effect (decide_eq_true ha) (composeStep_of_turn hhead hon hleave hcyc hissued hu hx hcs hft hb hrun hrd hp)
    · exact leaves_of_effect (decide_eq_true ha) (composeStep_of_no_turn hhead hon hleave hcyc hissued hu hx hcs hft hb hrun hrd hp)
  · refine ⟨fun h => leaves_of_effect (decide_eq_true ha) (stepIssue_of_waiting ht h), fun hft hon hleave =>
      ⟨fun hr hl => leaves_of_effect (decide_eq_true ha) (stepIssue_of_asleep ht hn hft hon hleave hr hl), fun hl => ?_⟩⟩
    have hdue := stepIssue_of_due ht hn hft hon hleave hl
    exact ⟨fun h => leaves_of_effect (decide_eq_true ha) (hdue.trans (if_pos h)),
      fun h => leaves_of_effect (decide_eq_true ha) (hdue.trans (if_neg (by simp [h])))⟩

end Sys2Proof.Proofs
end

section
namespace Sys2Proof.Proofs
open Sys2Proof Sys2Proof.Machine Sys2Proof.Safety Sys2Proof.Laws

set_option Elab.async false

variable {s : State}

/-! ### Sampling (R75, R408, R410) -/

/-- No step of the number is under way on the aisle. -/
theorem find_step_none {a n : Nat} (h : ∀ t ∈ s.steps, t.aisle = a → t.num ≠ n) :
    s.steps.find? (fun t => t.aisle == a && t.num == n) = none :=
  List.find?_eq_none.2 fun t ht => by simpa using h t ht

section NoStep
variable {a n : Nat} (h : s.steps.find? (fun t => t.aisle == a && t.num == n) = none)
include h

theorem sampleComplete_of_none {rows : List RowOut} : sampleComplete a n rows s = s := by rw [sampleComplete, h]
theorem tokenArrival_of_none {rem : List Arrived} : tokenArrival a n rem s = s := by rw [tokenArrival, h]
theorem stepEnd_of_none : stepEnd a n s = s := by rw [stepEnd, h]

end NoStep

/-- The sampler's time after `d`, as its readiness is decided. -/
theorem done_of_due {d k : Nat} (h : d + k ≤ s.ft) : ((some d).any fun d => decide (d + k ≤ s.ft)) = true := decide_eq_true h

theorem not_done_of_early {d k : Nat} (h : s.ft < d + k) : (!((some d).any fun d => decide (d + k ≤ s.ft))) = true := by
  simp [h]

section Sample
variable {a n : Nat} {t : Step} {rows : List RowOut} (ht : s.steps.find? (fun t => t.aisle == a && t.num == n) = some t)
include ht

theorem sampleComplete_of_waiting (h : t.phase ≠ 1 ∨ isOn s dSEQ = false ∨ t.doneAt = none) : sampleComplete a n rows s = s := by
  have hwait : t.phase ≠ 1 ∨ (!isOn s dSEQ) = true ∨ (!t.doneAt.any (fun d => decide (d + samplerFt s t ≤ s.ft))) = true := by
    obtain h | h | h := h <;> simp [h]
  unfold sampleComplete
  rw [ht]
  simp only [if_pos hwait]

theorem sampleComplete_of_early {d : Nat} (hd : t.doneAt = some d) (h : s.ft < d + samplerFt s t) : sampleComplete a n rows s = s := by
  have hwait : t.phase ≠ 1 ∨ (!isOn s dSEQ) = true ∨ (!t.doneAt.any (fun d => decide (d + samplerFt s t ≤ s.ft))) = true := by
    rw [hd]
    exact .inr (.inr (not_done_of_early h))
  unfold sampleComplete
  rw [ht]
  simp only [if_pos hwait]

variable {d : Nat} (hph : t.phase = 1) (hon : isOn s dSEQ = true) (hd : t.doneAt = some d) (hft : d + samplerFt s t ≤ s.ft)
include hph hon hd hft

/-- The sampler's output: the rows as sampled, the count of overlong masks, the tokens on their way to the head chip. -/
theorem sampleComplete_of_due {r : List Row × Bool × State}
    (hr : (if t.tainted then (t.rows.map (fun w => { w with live := w.live && !(w.samples && samplesHere s a t w.rung) }), false, s)
        else sampleRows a t rows t.rows s) = r) {v u : State} (hv : when_ r.2.1 (bumpSat (rSmp 2)) r.2.2 = v)
    (hu : modStep a n (fun t => { t with rows := r.1, sampledAt := v.ft, phase := 2 }) v = u) :
    sampleComplete a n rows s = reapMasks (if isHead u a then u else forEach r.1 sendTokens u) := by
  have hgo : ¬ (t.phase ≠ 1 ∨ (!isOn s dSEQ) = true ∨ (!t.doneAt.any (fun d => decide (d + samplerFt s t ≤ s.ft))) = true) := by
    rw [hd, hph, hon, done_of_due hft]
    decide
  unfold sampleComplete
  rw [ht]
  simp only [if_neg hgo, hr, hv, hu]

theorem sampleComplete_of_tainted {ws : List Row} {u : State} (htaint : t.tainted = true)
    (hws : ws = t.rows.map (fun w => { w with live := w.live && !(w.samples && samplesHere s a t w.rung) }))
    (hu : u = modStep a n (fun t => { t with rows := ws, sampledAt := s.ft, phase := 2 }) s) :
    sampleComplete a n rows s = reapMasks (if isHead u a then u else forEach ws sendTokens u) :=
  sampleComplete_of_due ht hph hon hd hft (r := (ws, false, s)) (by rw [if_pos htaint, hws]) rfl hu.symm

theorem sampleComplete_of_clean {r : List Row × Bool × State} {v u : State} (htaint : t.tainted = false)
    (hr : r = sampleRows a t rows t.rows s) (hv : v = (if r.2.1 then bumpSat (rSmp 2) r.2.2 else r.2.2))
    (hu : u = modStep a n (fun t => { t with rows := r.1, sampledAt := v.ft, phase := 2 }) v) :
    sampleComplete a n rows s = reapMasks (if isHead u a then u else forEach r.1 sendTokens u) :=
  sampleComplete_of_due ht hph hon hd hft (by rw [if_neg (by simp [htaint]), hr]) hv.symm hu.symm

end Sample

/-! ### Tokens arrive (R234, R237, R427, R435) -/

section Arrival
variable {a n : Nat} {t : Step} {rem : List Arrived} (ht : s.steps.find? (fun t => t.aisle == a && t.num == n) = some t)
include ht

theorem tokenArrival_of_waiting (h : isHead s a = false ∨ t.issued = false ∨ t.phase = 3 ∨ isOn s dSEQ = false) : tokenArrival a n rem s = s := by
  rw [tokenArrival, ht]
  exact if_pos (by simpa using h)

variable (hhead : isHead s a = true) (hissued : t.issued = true) (hph : t.phase ≠ 3) (hon : isOn s dSEQ = true)
include hhead hissued hph hon

theorem tokenArrival_of_issued {k : List Row × State} (hk : k = arriveRows t rem t.rows s) : tokenArrival a n rem s =
    touch dSEQ (modStep a n (fun t => { t with rows := k.1, phase := if k.1.all rowDone then 3 else t.phase }) k.2) := by
  subst hk
  rw [tokenArrival, ht]
  exact if_neg (by simp [hhead, hissued, hph, hon])

/-- A step of one row, by what arrives for the row. -/
theorem tokenArrival_of_row {w : Row} {k : Row × State} (hw : t.rows = [w]) (hk : arriveRow t rem w s = k) : tokenArrival a n rem s =
    touch dSEQ (modStep a n (fun t => { t with rows := [k.1], phase := if rowDone k.1 then 3 else t.phase }) k.2) := by
  have hrows : ([k.1], k.2) = arriveRows t rem t.rows s := by rw [hw, arriveRows, hk]; rfl
  rw [tokenArrival_of_issued ht hhead hissued hph hon hrows]
  simp only [List.all_cons, List.all_nil, Bool.and_true]

theorem tokenArrival_of_arrived {w : Row} {k : Row × State} (hw : t.rows = [w]) (hk : arriveRow t rem w s = k) (harr : k.1.arrived = true) :
    tokenArrival a n rem s = touch dSEQ (modStep a n (fun t => { t with rows := [k.1], phase := 3 }) k.2) := by
  have hdone : rowDone k.1 = true := by simp [rowDone, harr]
  rw [tokenArrival_of_row ht hhead hissued hph hon hw hk]
  simp only [hdone, if_true]

end Arrival

/-- Nothing arrives for a row that is settled, samples nothing, or belongs to another generation. -/
theorem arriveRow_of_nothing {t : Step} {rem : List Arrived} {w : Row}
    (h : w.arrived = true ∨ w.samples = false ∨ w.gen ≠ genOf s 2 w.req ∨ outOf t w rem = none) : arriveRow t rem w s = (w, s) := by
  unfold arriveRow
  split
  · rfl
  · rename_i hgo
    obtain h | h | h | h := h
    · exact absurd (.inl h) hgo
    · exact absurd (.inr (.inl (by simp [h]))) hgo
    · exact absurd (.inr (.inr (.inr h))) hgo
    · rw [h]

section Row
variable {t : Step} {rem : List Arrived} {w : Row} {o : RowTok} {gs : List Guess} {ft : Nat} (harr : w.arrived = false) (hsam : w.samples = true)
  (hlive : w.live = true) (hgen : w.gen = genOf s 2 w.req) (hout : outOf t w rem = some (o, gs, ft))
include harr hsam hlive hgen hout

/-- A row sampled at or after its cut-off is dropped. -/
theorem arriveRow_of_cutoff {c : Nat} (hc : (side s w.req).cutoff = some c) (hle : c ≤ ft) :
    arriveRow t rem w s = ({ w with arrived := true }, payRec w.req s) := by
  unfold arriveRow
  rw [if_neg (by simp [harr, hsam, hlive, hgen]), hout]
  exact if_pos (by simp [hc, hle])

theorem arriveRow_of_open (hc : (side s w.req).cutoff = none) (hr2 : (side s w.req).r2 ≠ 2) (hj : w.joined = 0) :
    arriveRow t rem w s = ((arriveOpen t w o gs ft s).1, payRec w.req (arriveOpen t w o gs ft s).2) := by
  unfold arriveRow
  rw [if_neg (by simp [harr, hsam, hlive, hgen]), hout]
  dsimp only
  rw [if_neg (by simp [hc]), if_neg hr2, if_pos (.inl hj)]

end Row

/-- The tokens of an ordinary row of which the last ends the generation: those that stand are counted, recorded and framed. -/
theorem arriveOpen_of_ending {t : Step} {w : Row} {o : RowTok} {gs : List Guess} {ft r0 : Nat} {c : Settle} {z : List Tok × Option Nat}
    {u v f : State} {x : Side} {ts : List Nat} (hj : w.joined = 0) (hrung : w.rung ≠ 2) (hr0 : r0 = w.req) (hc : c = openSettle s t w ft)
    (hz : z = standing c 0 o.toks) (hend : z.2 ≠ none)
    (hu : u = modSide r0 (fun x => { x with specAcc := x.specAcc + (z.1.filter Tok.accepted).length, guesses := gs }) (countRejected r0 (o.rejected + (o.toks.length - z.1.length)) s))
    (hv : v = forEach (recsOf c (running (ent s r0)) z.1) (deliver r0) u) (hx : x = side v r0) (hts : ts = frameToks o.toks gs)
    (hf : f = if (ent v r0).genLen = 0 ∧ ts ≠ [] ∧ x.open_ ≠ .none_ then startPatch r0 x.template x.acceptAt (ent v r0).deadline (ent v r0).late ts v else v) :
    arriveOpen t w o gs ft s = ({ w with arrived := true, taken := z.1.length, endSt := z.2.map (finishSt f r0) }, f) := by
  have hsome : z.2.isSome = true := Option.isSome_iff_ne_none.2 hend
  have hnone : z.2.isNone = false := by rw [← Option.not_isSome, hsome]; rfl
  obtain ⟨k, hk⟩ := Option.isSome_iff_exists.1 hsome
  subst hr0
  unfold arriveOpen
  dsimp only
  simp only [hj, hrung, ne_eq, not_true_eq_false, or_self, if_false, true_and]
  rw [← hc, ← hz, hsome, hnone, Bool.and_true, ← hu, ← hv]
  simp only [Bool.false_and, when_false, Bool.false_eq_true, if_false, Option.or_none]
  rw [← hx, ← hts]
  simp only [Bool.not_eq_true', List.isEmpty_eq_false_iff, ne_eq] at hf ⊢
  rw [← hf]

/-! ### The end of a step, and the FINAL (R237, R241, R243) -/

section StepEnd
variable {a n : Nat} {t : Step} {u : State} (ht : s.steps.find? (fun t => t.aisle == a && t.num == n) = some t)
  (hu : u = { s with steps := s.steps.filter (fun x => !(x.aisle == t.aisle && x.num == t.num)) })
include ht

theorem stepEnd_of_waiting (h : t.issued = false ∨ isOn s dSEQ = false ∨ itemsDone s a n = false) : stepEnd a n s = s := by
  rw [stepEnd, ht]
  exact if_pos (by simpa using h)

variable (hissued : t.issued = true) (hon : isOn s dSEQ = true) (hdone : itemsDone s a n = true)
include hissued hon hdone

theorem stepEnd_of_head_waiting (hhead : isHead s a = true) (h : ∃ w ∈ t.rows, rowDone w = false ∨ rowBack s t w = false) : stepEnd a n s = s := by
  obtain ⟨w, hw, hno⟩ := h
  have hall : t.rows.all (fun w => rowDone w && rowBack s t w) = false :=
    List.all_eq_false.2 ⟨w, hw, by obtain h | h := hno <;> simp [h]⟩
  rw [stepEnd, ht]
  dsimp only
  rw [if_neg (by simp [hissued, hon, hdone]), if_pos hhead, if_neg (by simp [hall])]

include hu

theorem stepEnd_of_head (hhead : isHead s a = true) (h : ∀ w ∈ t.rows, rowDone w = true ∧ rowBack s t w = true) :
    stepEnd a n s = releaseItems t.aisle t.num (forEach t.rows commitRow u) := by
  have hall : t.rows.all (fun w => rowDone w && rowBack s t w) = true := List.all_eq_true.2 fun w hw => by simp [h w hw]
  rw [stepEnd, ht]
  dsimp only
  rw [if_neg (by simp [hissued, hon, hdone]), if_pos hhead, if_pos hall, hu]
  rfl

theorem stepEnd_of_member {v w : State} (hhead : isHead s a = false)
    (hv : v = forEach t.rows (fun w => modSide w.req (fun x => { x with inStep := none, masked := false, cutoff := none })) u)
    (hw : w = forEach (t.rows.filter (fun w => bit w.orders 1)) (fun w => freeEntry w.req) v) :
    stepEnd a n s = emit (.confirm ((chain w t.aisle).headD (0, 0)).1 t.aisle t.num) (releaseItems t.aisle t.num w) := by
  rw [stepEnd, ht]
  dsimp only
  rw [if_neg (by simp [hissued, hon, hdone]), if_neg (by simp [hhead]), hw, hv, hu]
  rfl

end StepEnd

theorem stepCommitConfirm_of_none {a n c : Nat} (h : aisleReqs s a = []) : stepCommitConfirm a n c s = s := by
  rw [stepCommitConfirm, h]
  rfl

theorem generationFinal_of_early {r : Nat} (h : finalDue s r = false) : generationFinal r s = s := if_pos (by simp [h])

theorem generationFinal_of_due {r st k : Nat} {x : Side} (h : finalDue s r = true) (hx : x = side s r) (hst : x.ending = some st)
    (hk : k = (if st ≤ 2 ∧ x.lateFin = true ∧ x.template ≠ 0xFFFF then 0x31 else st)) :
    generationFinal r s = leaveDraining r k (if x.open_ = .none_ then s else finishOpen r k s) := by
  subst hx
  unfold generationFinal
  dsimp only
  rw [if_neg (by simp [h]), hst, Option.getD_some, ← hk]

/-! ### Step records on a member chip (R18, R243, R245, R306, R307) -/

section Record
variable {b : Bytes} {a p : Nat} (ha : a = u8 b 14) (hp : p = myPos s a)
include ha

theorem recordReceive_of_outside (h : (chain s a)[myPos s a]? = none ∨ myPos s a = 0) : recordReceive b s = s := by
  subst ha
  unfold recordReceive
  dsimp only
  split
  · rename_i hc _
    obtain h | h := h
    · simp [h] at hc
    · exact if_pos h
  · rfl

variable {c n : Nat} {head : Nat × Nat} (h0 : p ≠ 0) (hc : (chain s a)[p]? = some (c, n)) (hhead : (chain s a).head? = some head)
include hp h0 hc hhead

theorem recordReceive_of_asleep (hon : isOn s dSEQ = false) : recordReceive b s = await dSEQ (.stepRecordReceive b) s := by
  subst ha hp
  unfold recordReceive
  dsimp only
  rw [hc, hhead]
  dsimp only
  rw [if_neg h0, if_pos (by simp [hon])]

/-- The record goes on to the successor, if there is one. -/
theorem recordReceive_of_member (hon : isOn s dSEQ = true) {f : Nat × State} {u v w : State} {as : List Nat} {k : List Row × State} {t : Step}
    {is : List Item × State} {here : Bool} (hf : f = fresh s) (hlast : (chain s a)[p + 1]? = none → u = s)
    (hnext : ∀ d m, (chain s a)[p + 1]? = some (d, m) → u = touch dLNK (issuePW n d 0 0 0 (f.1 % 2 ^ 21) [] false b f.2))
    (has : as = (List.range 16).map (fun i => u16 b (20 + 2 * i))) (hk : k = recordRows head n (u32 b 0) (u8 b 12) as b (u8 b 13) u)
    (ht : t = { num := u32 b 0, aisle := a, model := u8 b 12, issue := u64 b 4, issued := true, phase := 1, rows := k.1, adapters := as,
                cyc := if bit (u8 b 15) 0 then some (u16 b 16) else none })
    (hv : v = { k.2 with steps := k.2.steps ++ [t] }) (his : is = stepItems t n 0 v)
    (hw : w = touch dSEQ (if t.rows.any (fun w => w.new != 0) then placeItems a (u32 b 0) n is.1 is.2 else v))
    (hhere : here = (!t.rows.any (fun w => w.new != 0) || t.rows.any (fun z => (side w z.req).fed))) :
    recordReceive b s = when_ here (feed a (u32 b 0)) (forEach t.rows (fun w => modSide w.req (fun x => { x with fed := false })) w) := by
  subst ha hp hf has hk ht hv his hw hhere
  unfold recordReceive
  dsimp only
  rw [hc, hhead]
  dsimp only
  rw [if_neg h0, if_neg (by simp [hon])]
  cases hsucc : (chain s (u8 b 14))[myPos s (u8 b 14) + 1]? with
  | none => rw [hlast hsucc]
  | some d => rw [hnext d.1 d.2 hsucc]

end Record

/-- Settles O37: sampling, arrival and the end of a step by its phase and rows; the FINAL by what is owed; records by position. -/
theorem stepsEndAndAreRecorded : Obligations.StepsEndAndAreRecorded := by
  unfold Obligations.StepsEndAndAreRecorded
  refine ⟨⟨?_, ?_, ?_, ?_, fun s a n c ha hc => ?_, fun s r hr => ?_⟩, ?_, ?_⟩
  · intro s a n rows rem ha h
    have hnone := find_step_none h
    exact ⟨leaves_of_effect (decide_eq_true ha) (sampleComplete_of_none hnone), leaves_of_effect (decide_eq_true ha) (tokenArrival_of_none hnone),
      leaves_of_effect (decide_eq_true ha) (stepEnd_of_none hnone)⟩
  · intro s a n t rows ha ht
    refine ⟨fun h => leaves_of_effect (decide_eq_true ha) (sampleComplete_of_waiting ht h),
      fun d hd h => leaves_of_effect (decide_eq_true ha) (sampleComplete_of_early ht hd h), fun d hph hon hd hft => ⟨?_, ?_⟩⟩
    · intro ws u htaint hws hu
      have hdue := sampleComplete_of_tainted (rows := rows) ht hph hon hd hft htaint hws hu
      exact ⟨fun h => leaves_of_effect (decide_eq_true ha) (hdue.trans (congrArg reapMasks (if_pos h))),
        fun h => leaves_of_effect (decide_eq_true ha) (hdue.trans (congrArg reapMasks (if_neg (by simp [h]))))⟩
    · intro r v u htaint hr hv hu
      have hdue := sampleComplete_of_clean ht hph hon hd hft htaint hr hv hu
      exact ⟨fun h => leaves_of_effect (decide_eq_true ha) (hdue.trans (congrArg reapMasks (if_pos h))),
        fun h => leaves_of_effect (decide_eq_true ha) (hdue.trans (congrArg reapMasks (if_neg (by simp [h]))))⟩
  · intro s a n t rem ha ht
    refine ⟨fun h => leaves_of_effect (decide_eq_true ha) (tokenArrival_of_waiting ht h), fun hhead hissued hph hon => ⟨?_, ?_, ?_⟩⟩
    · exact fun k hk => leaves_of_effect (decide_eq_true ha) (tokenArrival_of_issued ht hhead hissued hph hon hk)
    · exact fun w hw h => leaves_of_effect (decide_eq_true ha) (tokenArrival_of_row ht hhead hissued hph hon hw (arriveRow_of_nothing h))
    · intro w o gs ft hw harr hsam hlive hgen hout
      refine ⟨fun c hc hle => ?_, fun c z r0 u v x st ts f hc hr2 hj hrung hr0 hset hz hend hu hv hx hts hno hyes hst => ?_⟩
      · have hrow := tokenArrival_of_arrived ht hhead hissued hph hon hw (arriveRow_of_cutoff harr hsam hlive hgen hout hc hle) rfl
        exact leaves_of_effect (decide_eq_true ha) hrow
      · obtain rfl := hr0
        have hf : f = if (ent v w.req).genLen = 0 ∧ ts ≠ [] ∧ x.open_ ≠ .none_ then
            startPatch w.req x.template x.acceptAt (ent v w.req).deadline (ent v w.req).late ts v else v := by
          split
          · rename_i h
            exact hyes h.2.1 h.1 h.2.2
          · rename_i h
            exact hno (by tauto)
        have hopen := arriveRow_of_open harr hsam hlive hgen hout hc hr2 hj
        rw [arriveOpen_of_ending hj hrung rfl hset hz hend hu hv hx hts hf, ← hst] at hopen
        have hrow := tokenArrival_of_arrived ht hhead hissued hph hon hw hopen rfl
        exact leaves_of_effect (decide_eq_true ha) hrow
  · intro s a n t u ha ht hu
    exact ⟨fun h => leaves_of_effect (decide_eq_true ha) (stepEnd_of_waiting ht h), fun hissued hon hdone =>
      ⟨fun hhead h => leaves_of_effect (decide_eq_true ha) (stepEnd_of_head ht hu hissued hon hdone hhead h),
        fun hhead h => leaves_of_effect (decide_eq_true ha) (stepEnd_of_head_waiting ht hissued hon hdone hhead h),
        fun v w hhead hv hw => leaves_of_effect (decide_eq_true ha) (stepEnd_of_member ht hu hissued hon hdone hhead hv hw)⟩⟩
  · have hwf : (Instr.stepCommitConfirm a n c).wf = true := by simp [Instr.wf, ha, hc]
    exact ⟨fun h => leaves_of_effect hwf (stepCommitConfirm_of_none h), leaves_of_effect hwf rfl⟩
  · refine ⟨fun h => leaves_of_effect (decide_eq_true hr) (generationFinal_of_early h), fun st k x h hx hst hk => ?_⟩
    have hdue := generationFinal_of_due h hx hst hk
    exact ⟨fun ho => leaves_of_effect (decide_eq_true hr) (hdue.trans (congrArg _ (if_neg ho))),
      fun ho => leaves_of_effect (decide_eq_true hr) (hdue.trans (congrArg _ (if_pos ho)))⟩
  · intro s b a hb ha h
    exact leaves_of_effect (by simpa [Instr.wf] using hb) (recordReceive_of_outside ha h)
  · intro s b a p c n head hb ha hp h0 hc hhead
    have hwf : (Instr.stepRecordReceive b).wf = true := by simpa [Instr.wf] using hb
    refine ⟨fun hon => leaves_of_effect hwf (recordReceive_of_asleep ha hp h0 hc hhead hon),
      fun f u as k t v is w here hon hf hlast hnext has hk ht hv his hw hhere => ?_⟩
    have hrec := recordReceive_of_member ha hp h0 hc hhead hon hf hlast hnext has hk ht hv his hw hhere
    exact ⟨fun h => leaves_of_effect hwf (hrec.trans (by rw [h, when_false])), fun h => leaves_of_effect hwf (hrec.trans (by rw [h, when_true]))⟩

/-! ### Fixed-cycle operation (R132, R314, R318, R321, R529) -/

section Cycle

theorem cycleStart_of_boundary (hrun : cycleRuns s = true) (hb : cycleBoundary s = true) (h : s.fixed.at_ ≠ s.ft ∨ rd s rCycles = 0) :
    cycleStart s = beginCycle s := if_pos ⟨hrun, hb, h⟩

theorem cycleStart_of_other (h : cycleRuns s = false ∨ cycleBoundary s = false ∨ (s.fixed.at_ = s.ft ∧ rd s rCycles ≠ 0)) : cycleStart s = s := by
  refine if_neg ?_
  rintro ⟨hrun, hb, hnew⟩
  obtain h | h | ⟨hat, hc⟩ := h
  · simp [h] at hrun
  · simp [h] at hb
  · exact hnew.elim (· hat) hc

theorem slotStart_of_none (h : (planSlots s)[s.fixed.slot]? = none) : slotStart s = s := by
  unfold slotStart
  dsimp only
  rw [h]

variable {g : CycSlot} {t : State} (hg : (planSlots s)[s.fixed.slot]? = some g)
  (ht : t = { s with fixed := { s.fixed with slot := s.fixed.slot + 1 } })
include hg

theorem slotStart_of_early (h : cycleRuns s = false ∨ rd s rCycles = 0 ∨ s.ft < s.fixed.at_ + slotOfs s s.fixed.slot) : slotStart s = s := by
  unfold slotStart
  dsimp only
  rw [hg]
  exact if_pos (by simpa using h)

include ht

theorem slotStart_of_due (hrun : cycleRuns s = true) (hc : rd s rCycles ≠ 0) (hft : s.fixed.at_ + slotOfs s s.fixed.slot ≤ s.ft) :
    slotStart s = if g.idle ∨ s.fixed.idled then t else forEach (s.conf.aisles.map Prod.fst) (slotStep s.fixed.slot g) t := by
  subst ht
  unfold slotStart
  dsimp only
  rw [hg]
  exact if_neg (by simp [hrun, hc, hft])

end Cycle

section Restart

theorem cycleRestart_of_other (h : s.fixed.stopped = none ∨ isFixed s = false ∨ isOn s dSEQ = false ∨ s.ft < phaseFt s) : cycleRestart s = s :=
  if_pos (by simpa using h)

variable {o : Nat} (hstop : s.fixed.stopped.isSome = true) (hfix : isFixed s = true) (hon : isOn s dSEQ = true) (hft : phaseFt s ≤ s.ft)
  (ho : o = (s.ft - phaseFt s) % periodFt s)
include hstop hfix hon hft ho

theorem cycleRestart_of_between (h : ∀ i, i < (planSlots s).length → slotOfs s i ≠ o) : cycleRestart s = s := by
  have hnone : (List.range (planSlots s).length).find? (fun i => slotOfs s i == o) = none :=
    List.find?_eq_none.2 fun i hi => by simpa using h i (List.mem_range.1 hi)
  unfold cycleRestart
  rw [if_neg (by simp [Option.isSome_iff_ne_none.1 hstop, hfix, hon, hft]), ← ho]
  dsimp only
  rw [hnone]

theorem cycleRestart_of_slot {i : Nat} {u : State} (hi : (List.range (planSlots s).length).find? (fun i => slotOfs s i == o) = some i)
    (hu : u = logC 0x0A02 [] { s with fixed := { s.fixed with stopped := none, at_ := s.ft - o, slot := i } }) :
    cycleRestart s = if i = 0 then beginCycle u else u := by
  unfold cycleRestart
  rw [if_neg (by simp [Option.isSome_iff_ne_none.1 hstop, hfix, hon, hft]), ← ho]
  dsimp only
  rw [hi, hu]

end Restart

/-- Settles O38: the cycle at its boundary, its slots at their offsets, its restart at a slot boundary. -/
theorem fixedCycle : Obligations.FixedCycle := by
  unfold Obligations.FixedCycle
  refine ⟨fun s => ⟨fun hrun hb h => leaves_of_effect rfl (cycleStart_of_boundary hrun hb h), fun h => leaves_of_effect rfl (cycleStart_of_other h)⟩,
    fun s g t hg ht => ⟨fun h => leaves_of_effect rfl (slotStart_of_early hg h), fun hrun hc hft => ?_⟩,
    fun s h => leaves_of_effect rfl (slotStart_of_none h), fun s h => leaves_of_effect rfl (cycleRestart_of_other h),
    fun s o u hstop hfix hon hft ho => ⟨fun h => leaves_of_effect rfl (cycleRestart_of_between hstop hfix hon hft ho h), fun i hi hu => ?_⟩⟩
  · have hdue := slotStart_of_due hg ht hrun hc hft
    exact ⟨fun h => leaves_of_effect rfl (hdue.trans (if_pos h)), fun hidle hid => leaves_of_effect rfl (hdue.trans (if_neg (by simp [hidle, hid])))⟩
  · have hslot := cycleRestart_of_slot hstop hfix hon hft ho hi hu
    exact ⟨fun h => leaves_of_effect rfl (hslot.trans (if_neg h)), fun h => leaves_of_effect rfl (hslot.trans (if_pos h))⟩

end Sys2Proof.Proofs
end


section
namespace Sys2Proof.Proofs
open Sys2Proof Sys2Proof.Machine Sys2Proof.Safety Sys2Proof.Laws

set_option Elab.async false

variable {s u : State}

/-! ### Sampler masks (R411, R412) -/

section Masks

variable {m n : Nat} {x : Mask}

theorem maskStage_of_stage (hsel : maskSel s = (m, n)) {st p : Nat} (h : stageMask m n s = (st, p, u)) :
    maskStage s = maskStatus st (wrf 0x0016000C 13 0 p u) := by
  unfold maskStage
  rw [hsel]
  dsimp only
  rw [h]

theorem maskCommit_of_commit (hsel : maskSel s = (m, n)) {st : Nat} (h : commitMask m n s = (st, u)) : maskCommit s = maskStatus st u := by
  unfold maskCommit
  rw [hsel]
  dsimp only
  rw [h]

/-- STAGE and RELEASE answer 3 for an id that another stall uses; otherwise they go on. -/
theorem not_foreign (hown : x.stall = n ∨ (x.page = none ∧ x.staged = none)) : ¬((x.page.isSome ∨ x.staged.isSome) ∧ x.stall ≠ n) := by
  rintro ⟨hused, hne⟩
  rcases hown with h | ⟨hp, hs⟩
  · exact hne h
  · simp [hp, hs] at hused

variable (hx : x = mask s m)
include hx

theorem stageMask_of_foreign (hused : x.page.isSome = true ∨ x.staged.isSome = true) (hne : x.stall ≠ n) : stageMask m n s = (3, 0, s) := by
  subst hx
  exact if_pos ⟨hused, hne⟩

section Own
variable (hown : x.stall = n ∨ (x.page = none ∧ x.staged = none))
include hown

theorem stageMask_of_busy (h : x.releasing = true ∨ x.staged.isSome = true) : stageMask m n s = (4, 0, s) := by
  subst hx
  exact (if_neg (not_foreign hown)).trans (if_pos h)

theorem stageMask_of_full (hrel : x.releasing = false) (hst : x.staged = none) (hsp : spare s n 1 = false) : stageMask m n s = (1, 0, s) := by
  subst hx
  unfold stageMask
  dsimp only
  rw [if_neg (not_foreign hown), if_neg (by simp [hrel, hst]), if_pos (by simp [hsp])]

theorem stageMask_of_page (hrel : x.releasing = false) (hst : x.staged = none) (hsp : spare s n 1 = true) {p : Nat}
    (hal : allocPage n s = (some p, u)) : stageMask m n s = (0, p, modMask m (fun y => { y with stall := n, staged := some p }) u) := by
  subst hx
  unfold stageMask
  dsimp only
  rw [if_neg (not_foreign hown), if_neg (by simp [hrel, hst]), if_neg (by simp [hsp]), hal]

theorem stageMask_of_no_page (hrel : x.releasing = false) (hst : x.staged = none) (hsp : spare s n 1 = true)
    (hal : allocPage n s = (none, u)) : stageMask m n s = (1, 0, u) := by
  subst hx
  unfold stageMask
  dsimp only
  rw [if_neg (not_foreign hown), if_neg (by simp [hrel, hst]), if_neg (by simp [hsp]), hal]

theorem maskRelease_of_own (hsel : maskSel s = (m, n)) (hnone : x.staged = none → u = s) (hsome : ∀ p, x.staged = some p → u = freePage p s) :
    maskRelease s = maskStatus 0 (reapMasks (modMask m (fun y => { y with
      staged := none, page := none, releasing := y.page.isSome || !y.old.isEmpty,
      old := match y.page with | some q => y.old ++ [(q, u.ft)] | none => y.old }) u)) := by
  subst hx
  unfold maskRelease
  dsimp only
  rw [hsel]
  dsimp only
  rw [if_neg (not_foreign hown)]
  cases hst : (mask s m).staged with
  | none => obtain rfl := hnone hst; rfl
  | some p => obtain rfl := hsome p hst; rfl

end Own

theorem maskRelease_of_foreign (hsel : maskSel s = (m, n)) (hused : x.page.isSome = true ∨ x.staged.isSome = true) (hne : x.stall ≠ n) :
    maskRelease s = maskStatus 3 s := by
  subst hx
  unfold maskRelease
  dsimp only
  rw [hsel]
  exact if_pos ⟨hused, hne⟩

theorem commitMask_of_none (hst : x.staged = none) : commitMask m n s = (2, s) := by
  subst hx
  unfold commitMask
  dsimp only
  rw [hst]

theorem commitMask_of_foreign {p : Nat} (hst : x.staged = some p) (hne : x.stall ≠ n) : commitMask m n s = (3, s) := by
  subst hx
  unfold commitMask
  dsimp only
  rw [hst]
  exact if_pos hne

theorem commitMask_of_staged {p : Nat} (hst : x.staged = some p) (hn : x.stall = n) :
    commitMask m n s = (0, reapMasks (modMask m (fun y => { y with
      staged := none, page := some p, blocks := blocksOf s p, first := if y.page.isSome then y.first else s.ft,
      old := match y.page with | some q => y.old ++ [(q, s.ft)] | none => y.old }) s)) := by
  subst hx
  unfold commitMask
  dsimp only
  rw [hst]
  exact if_neg (not_not.2 hn)

end Masks

/-! ### Output rings (R431 to R438) -/

/-- A VF asks. -/
def byVf : Src → Bool
  | .vf _ => true
  | _ => false

theorem byVf_iff {src : Src} : byVf src = true ↔ ∃ m, src = .vf m := by cases src <;> simp [byVf]

section Create
variable {n k b : Nat} {src : Src} {c : Nat} {v : Bool} (hc : c = rd s (win n 0x118)) (hk : k = bits c 3 0) (hb : b = rd64 s (win n 0x110))
  (hv : v = byVf src)
include hc hk hb hv

theorem ringCreate_of_bad (h : k < 4 ∨ 12 < k ∨ bits c 12 11 = 3 ∨ (bit c 4 = true ∧ v = true) ∨ (bit c 4 = false ∧ b % min (16 * 2 ^ k) 4096 ≠ 0)) :
    ringCreate n src s = ringCode n 2 s := by
  unfold ringCreate
  dsimp only
  rw [← hc, ← hk, ← hb]
  refine if_pos ?_
  subst hv
  cases src <;> simpa [byVf] using h

section Good
variable (h4 : 4 ≤ k) (h12 : k ≤ 12) (hno : bits c 12 11 ≠ 3) (hpf : bit c 4 = true → v = false) (hal : bit c 4 = false → b % min (16 * 2 ^ k) 4096 = 0)
include h4 h12 hno hpf hal

omit hc hk hb in
/-- A configuration in range is not refused, whoever asks. -/
theorem not_refused : ¬(k < 4 ∨ 12 < k ∨ bits c 12 11 = 3 ∨ (bit c 4 && byVf src) = true ∨ (!bit c 4 && b % min (16 * 2 ^ k) 4096 != 0) = true) := by
  have h2 : ¬ k < 4 := by omega
  have h3 : ¬ 12 < k := by omega
  subst hv
  cases hpond : bit c 4 with
  | false => simp [h2, h3, hno, hal hpond]
  | true => simp [h2, h3, hno, hpf hpond]

theorem ringCreate_of_full (h : (stallCfg s n).rings ≤ (s.rings.filter (fun g => g.2.stall == n && g.2.st != 0)).length ∨ (∀ j, j < 8192 → (ring s j).st ≠ 0)) :
    ringCreate n src s = ringCode n 1 s := by
  unfold ringCreate
  dsimp only
  rw [← hc, ← hk, ← hb]
  refine (if_neg (not_refused hv h4 h12 hno hpf hal)).trans ?_
  rcases h with h | h
  · exact if_pos h
  · rw [lowest_eq_none fun j hj => by simpa using h j hj]
    exact ite_self _

section Free
variable {i pages : Nat} (hroom : (s.rings.filter (fun g => g.2.stall == n && g.2.st != 0)).length < (stallCfg s n).rings) (hi : i < 8192)
  (hfree : (ring s i).st = 0) (hlow : ∀ j, j < i → (ring s j).st ≠ 0) (hpages : pages = cdiv (16 * 2 ^ k) 8192)
include hroom hi hfree hlow hpages

omit hpages in
theorem ringCreate_of_host (hpond : bit c 4 = false)
    (hu : u = modRing i (fun _ => { st := 1, stall := n, src := src, base := BitVec.ofNat 64 b, k := k, pond := false, vec := bits c 10 5, notify := bits c 12 11, phase := true }) s) :
    ringCreate n src s = wr64 (win n 0x108) (ringHandle u i) (ringCode n 0 u) := by
  unfold ringCreate
  dsimp only
  rw [← hc, ← hk, ← hb]
  refine (if_neg (not_refused hv h4 h12 hno hpf hal)).trans ?_
  rw [if_neg (by omega), lowest_eq_some hi (by simp [hfree]) fun j hj => by simpa using hlow j hj, hpond, hu]
  rfl

theorem ringCreate_of_no_pages (hpond : bit c 4 = true) (h : spare s n pages = false ∨ findRun s n pages = none) :
    ringCreate n src s = ringCode n 5 s := by
  unfold ringCreate
  dsimp only
  rw [← hc, ← hk, ← hb, ← hpages]
  refine (if_neg (not_refused hv h4 h12 hno hpf hal)).trans ?_
  have hrun : (if spare s n pages = true then findRun s n pages else none) = none := by
    rcases h with h | h
    · rw [h]; rfl
    · rw [h]; exact ite_self _
  rw [if_neg (by omega), lowest_eq_some hi (by simp [hfree]) fun j hj => by simpa using hlow j hj, hpond, hrun]
  rfl

theorem ringCreate_of_pond {p : Nat} (hpond : bit c 4 = true) (hsp : spare s n pages = true) (hrun : findRun s n pages = some p)
    (hu : u = modRing i (fun _ => { st := 1, stall := n, src := src, base := BitVec.ofNat 64 (8192 * p), k := k, pond := true, vec := bits c 10 5, notify := bits c 12 11, phase := true })
      (wr64 (win n 0x110) (8192 * p) (forEach (List.range pages) (fun j => takePage n (p + j)) s))) :
    ringCreate n src s = wr64 (win n 0x108) (ringHandle u i) (ringCode n 0 u) := by
  have hdiv : 8192 * p / 8192 = p := Nat.mul_div_cancel_left p (by decide)
  unfold ringCreate
  dsimp only
  rw [← hc, ← hk, ← hb, ← hpages]
  refine (if_neg (not_refused hv h4 h12 hno hpf hal)).trans ?_
  rw [if_neg (by omega), lowest_eq_some hi (by simp [hfree]) fun j hj => by simpa using hlow j hj, hpond, hsp, hrun, hu]
  simp only [if_true, Option.map_some, hdiv]

end Free
end Good
end Create

section Destroy
variable {n i : Nat} {g : Ring} (hg : g = ring s i)
include hg

theorem ringDestroy_of_foreign (h : g.st = 0 ∨ g.stall ≠ n) : ringDestroy n i s = ringCode n 3 s := by
  subst hg
  exact if_pos h

variable (hst : g.st ≠ 0) (hn : g.stall = n)
include hst hn

theorem ringDestroy_of_bound (hr : g.req.isSome = true) : ringDestroy n i s = ringCode n 4 s := by
  subst hg
  exact (if_neg (by simp [hst, hn])).trans (if_pos hr)

theorem ringDestroy_of_host (hr : g.req = none) (hp : g.pond = false) :
    ringDestroy n i s = ringCode n 0 (bumpGen 3 i { s with rings := del s.rings i }) := by
  subst hg
  unfold ringDestroy
  dsimp only
  rw [if_neg (by simp [hst, hn]), if_neg (by simp [hr]), hp, if_neg Bool.false_ne_true]

theorem ringDestroy_of_pond (hr : g.req = none) (hp : g.pond = true)
    (hu : u = forEach (List.range (cdiv (16 * 2 ^ g.k) 8192)) (fun j => freePage (g.base.toNat / 8192 + j)) s) :
    ringDestroy n i s = ringCode n 0 (bumpGen 3 i { u with rings := del u.rings i }) := by
  subst hg hu
  unfold ringDestroy
  dsimp only
  rw [if_neg (by simp [hst, hn]), if_neg (by simp [hr]), hp, if_pos rfl]

end Destroy

section Doorbell
variable {n i k : Nat} {v : Word} {g : Ring} (hi : i = bits v.toNat 12 0) (hg : g = ring s i)
  (hk : k = (bits v.toNat 24 13 + 2 ^ g.k - (g.tail + 2 ^ g.k - g.unread) % 2 ^ g.k) % 2 ^ g.k)
include hi hg

theorem ringDb_of_foreign (h : g.st = 0 ∨ g.stall ≠ n) : ringDb n v s = s := by
  subst hi hg
  exact if_pos h

variable (hst : g.st ≠ 0) (hn : g.stall = n)
include hk hst hn

theorem ringDb_of_beyond (h : 2 ^ g.k ≤ bits v.toNat 24 13 ∨ g.unread < k) :
    ringDb n v s = logEv 0x0F05 n [] (setBit (win n 0x12C) 0 s) := by
  subst hi hg hk
  unfold ringDb
  dsimp only
  rw [if_neg (by simp [hst, hn])]
  exact if_pos h

section Within
variable (hd : bits v.toNat 24 13 < 2 ^ g.k) (hle : k ≤ g.unread)
  (hu : u = wakeAll 2 (dSEQ :: clustersOf (stallCfg s n) ++ halvesOf s n) (modRing i (fun g => { g with unread := g.unread - k }) s))
include hd hle hu

theorem ringDb_of_unbound (hr : g.req = none) : ringDb n v s = u := by
  subst hi hg hk hu
  unfold ringDb
  dsimp only
  rw [if_neg (by simp [hst, hn]), if_neg (by omega), hr]

variable {r : Nat} {e : Entry} {late : Bool} {w : State} (hr : g.req = some r) (he : e = ent u r)
  (hlate : late = (e.st == .blocked && !(side u r).exempt && e.deadline.any (fun d => decide (d < u.ft))))
include hr he hlate

theorem ringDb_of_late (h : late = true) : ringDb n v s = u := by
  subst hi hg hk
  unfold ringDb
  dsimp only
  rw [if_neg (by simp [hst, hn]), if_neg (by omega), hr, ← hu]
  dsimp only
  rw [← he, ← hlate]
  exact if_pos h

theorem ringDb_of_early (h : late = false) (hw : w = writeHeld r i 4 u) :
    ringDb n v s = if (ent w r).st = .blocked ∧ (side w r).heldRecs.isEmpty then modEnt r (fun e => { e with st := .decode }) w else w := by
  subst hi hg hk hw
  unfold ringDb
  dsimp only
  rw [if_neg (by simp [hst, hn]), if_neg (by omega), hr, ← hu]
  dsimp only
  rw [← he, ← hlate]
  exact if_neg (by simp [h])

end Within
end Doorbell

section Failure
variable {i : Nat} {g : Ring} (hg : g = ring s i)
include hg

theorem ringFail_of_other (h1 : g.st ≠ 1) (h2 : g.st ≠ 2) : ringFail i s = s := by
  subst hg
  exact if_pos ⟨h1, h2⟩

variable (hst : g.st = 1 ∨ g.st = 2)
  (hu : u = logEv 0x0F04 g.stall [i] (setBit (win g.stall 0x12C) 1 (modRing i (fun g => { g with st := 3 }) (dmaFail g.src s))))
include hst hu

theorem ringFail_of_unbound (hr : g.req = none) : ringFail i s = u := by
  subst hg hu
  unfold ringFail
  dsimp only
  rw [if_neg (by omega), hr]

theorem ringFail_of_bound {r : Nat} (hr : g.req = some r) : ringFail i s = toClosing r 0x40 0x40 0x12 false (maskReq r 3 u) := by
  subst hg hu
  unfold ringFail
  dsimp only
  rw [if_neg (by omega), hr]

end Failure

/-- Settles O39: the mask commands, RING_CMD, RING_DB and a failed ring write, case by case. -/
theorem masksAndRings : Obligations.MasksAndRings := by
  unfold Obligations.MasksAndRings
  refine ⟨fun s m n x hsel hx => ?_, ⟨fun s n src c k b v hn hsrc how hc hk hb hv => ?_, fun s n i g hn hg => ?_⟩, fun s n v i g k hn hi hg hk => ?_,
    fun s i g u hi hg hu => ?_⟩
  · have stages {st p : Nat} {t : State} (h : stageMask m n s = (st, p, t)) : Leaves .maskStage s (maskStatus st (wrf 0x0016000C 13 0 p t)) :=
      leaves_of_effect rfl (maskStage_of_stage hsel h)
    have commits {st : Nat} {t : State} (h : commitMask m n s = (st, t)) : Leaves .maskCommit s (maskStatus st t) :=
      leaves_of_effect rfl (maskCommit_of_commit hsel h)
    exact ⟨fun hu hne => ⟨stages (stageMask_of_foreign hx hu hne), leaves_of_effect rfl (maskRelease_of_foreign hx hsel hu hne)⟩,
      fun hown => ⟨fun h => stages (stageMask_of_busy hx hown h), fun hr hs hsp => stages (stageMask_of_full hx hown hr hs hsp),
        fun p u hr hs hsp ha => stages (stageMask_of_page hx hown hr hs hsp ha), fun u hr hs hsp ha => stages (stageMask_of_no_page hx hown hr hs hsp ha),
        fun u hn hs => leaves_of_effect rfl (maskRelease_of_own hx hown hsel hn hs)⟩,
      fun hs => commits (commitMask_of_none hx hs),
      fun p hs => ⟨fun hne => commits (commitMask_of_foreign hx hs hne), fun hn => commits (commitMask_of_staged hx hs hn)⟩⟩
  · replace hv : v = byVf src := Bool.eq_iff_iff.2 (hv.trans byVf_iff.symm)
    have creates {t : State} (h : ringCreate n src s = t) : Leaves (.ringCreate n src) s t :=
      leaves_of_effect (by simp [Instr.wf, hn, hsrc, how]) h
    exact ⟨fun h => creates (ringCreate_of_bad hc hk hb hv h), fun h4 h12 hno hpf hal =>
      ⟨fun h => creates (ringCreate_of_full hc hk hb hv h4 h12 hno hpf hal h), fun i pages hroom hi hfree hlow hpages =>
        ⟨fun u hp hu => creates (ringCreate_of_host hc hk hb hv h4 h12 hno hpf hal hroom hi hfree hlow hp hu),
          fun hp h => creates (ringCreate_of_no_pages hc hk hb hv h4 h12 hno hpf hal hroom hi hfree hlow hpages hp h),
          fun p u hp hsp hrun hu => creates (ringCreate_of_pond hc hk hb hv h4 h12 hno hpf hal hroom hi hfree hlow hpages hp hsp hrun hu)⟩⟩⟩
  · have destroys {t : State} (h : ringDestroy n i s = t) : Leaves (.ringDestroy n i) s t := leaves_of_effect (decide_eq_true hn) h
    exact ⟨fun h => destroys (ringDestroy_of_foreign hg h), fun hst hs hr => destroys (ringDestroy_of_bound hg hst hs hr),
      fun hst hs hr hp => destroys (ringDestroy_of_host hg hst hs hr hp), fun u hst hs hr hp hu => destroys (ringDestroy_of_pond hg hst hs hr hp hu)⟩
  · have rings {t : State} (h : ringDb n v s = t) : Leaves (.ringDb n v) s t := leaves_of_effect (decide_eq_true hn) h
    refine ⟨fun h => rings (ringDb_of_foreign hi hg h), fun hst hs h => rings (ringDb_of_beyond hi hg hk hst hs h), fun u hst hs hd hle hu =>
      ⟨fun hr => rings (ringDb_of_unbound hi hg hk hst hs hd hle hu hr), fun r e late w hr he hlate hw =>
        ⟨fun h => rings (ringDb_of_late hi hg hk hst hs hd hle hu hr he hlate h), fun h hb hh => rings ?_, fun h hor => rings ?_⟩⟩⟩
    · exact (ringDb_of_early hi hg hk hst hs hd hle hu hr he hlate h hw).trans (if_pos ⟨hb, by simp [hh]⟩)
    · exact (ringDb_of_early hi hg hk hst hs hd hle hu hr he hlate h hw).trans (if_neg (by simpa [imp_iff_not_or] using hor))
  · have fails {t : State} (h : ringFail i s = t) : Leaves (.ringDmaFail i) s t := leaves_of_effect (decide_eq_true hi) h
    exact ⟨fun hst hr => fails (ringFail_of_unbound hg hst hu hr), fun r hst hr => fails (ringFail_of_bound hg hst hu hr),
      fun h1 h2 => fails (ringFail_of_other hg h1 h2)⟩

end Sys2Proof.Proofs
end

section
namespace Sys2Proof.Proofs
open Sys2Proof Sys2Proof.Machine Sys2Proof.Safety Sys2Proof.Laws

set_option Elab.async false

variable {s u : State} {id : Nat} {r : PimRun}

/-! ### In-bank commands come and go (R451 to R461, R470) -/

section Go

theorem pimGo_of_full (h : 64 ≤ (s.nmc.q.filter (fun r => !r.running)).length) : pimGo s = setBit rPimStat 8 s := if_pos h

variable {d : PimDesc} {w : State} {x : Nat} (hd : d = pimDesc (pimRaw s)) (hw : w = wakeDom dNMC s) (hx : x = pimRefusal w d)
  (hroom : (s.nmc.q.filter (fun r => !r.running)).length < 64)
include hd hw hx hroom

theorem pimGo_of_refused (h : x ≠ 0) : pimGo s = logC 0x1204 [] (pimStatus x w) := by
  subst hd hw hx
  exact (if_neg (not_le.2 hroom)).trans (if_pos h)

theorem pimGo_of_taken (h : x = 0) {held : List Instr} (hheld : held = (w.heldAcc.filter (fun p => match atLake p with
      | some (off, n, _) => (List.range (n / 8192 + 2)).any (fun i => d.names (min (off + 8192 * i) (off + n - 1)))
      | none => false)).map Prod.snd) :
    pimGo s = modNmc (fun m => { m with
      q := m.q ++ [{ id := m.nextId, desc := d, index := if d.resume then rd w rPimProgress else 0, before := held }], nextId := m.nextId + 1 }) w := by
  subst hd hw hx hheld
  exact (if_neg (not_le.2 hroom)).trans (if_neg (not_not.2 h))

end Go

theorem pimStart_of_none (h : pimRun s id = none) : pimStart id s = s := by rw [pimStart, h]
theorem pimComplete_of_none (h : pimRun s id = none) : pimComplete id s = s := by rw [pimComplete, h]

section Found
variable (hr : pimRun s id = some r)
include hr

theorem pimStart_of_free (hrun : r.running = false) (hearlier : ∀ y ∈ s.nmc.q.takeWhile (fun y => y.id != id), y.desc.shares r.desc = false)
    (hheld : ∀ p ∈ s.heldAcc, r.before.contains p.2 = false) (hmay : runMay s r = true) :
    pimStart id s = touch dNMC (modRun id (fun r => { r with running := true }) s) := by
  unfold pimStart
  rw [hr]
  refine if_neg ?_
  rintro (h | h | h | h)
  · simp [hrun] at h
  · obtain ⟨y, hy, hs⟩ := List.any_eq_true.1 h
    simp [hearlier y hy] at hs
  · obtain ⟨p, hp, hb⟩ := List.any_eq_true.1 h
    rw [hheld p hp] at hb
    contradiction
  · simp [hmay] at h

theorem pimStart_of_waiting (h : r.running = true ∨ (∃ y ∈ s.nmc.q.takeWhile (fun y => y.id != id), y.desc.shares r.desc = true) ∨
    (∃ p ∈ s.heldAcc, r.before.contains p.2 = true) ∨ runMay s r = false) : pimStart id s = s := by
  unfold pimStart
  rw [hr]
  refine if_pos ?_
  rcases h with h | h | h | h
  · exact Or.inl h
  · exact Or.inr (Or.inl (List.any_eq_true.2 h))
  · exact Or.inr (Or.inr (Or.inl (List.any_eq_true.2 h)))
  · exact Or.inr (Or.inr (Or.inr (by simp [h])))

theorem pimComplete_of_unfinished (h : r.finished = false) : pimComplete id s = s := by
  unfold pimComplete
  rw [hr]
  exact if_pos (by simp [h])

theorem pimComplete_of_finished (h : r.finished = true)
    (hu : u = (if r.desc.post then postFlag r.desc.event (pimStatus r.status (addWrap 0x001A0030 1 (dropRun id s))) else pimStatus r.status (addWrap 0x001A0030 1 (dropRun id s)))) :
    pimComplete id s = when_ (bit (rd u rPimCtl) 0) (devEvent 2) u := by
  subst hu
  unfold pimComplete
  rw [hr]
  exact if_neg (by simp [h])

end Found

section Abort
variable (hu : u = modNmc (fun m => { m with q := m.q.filter (·.running) }) s)
include hu

theorem pimAbort_eq : pimAbort s = forEach (u.nmc.q.filter (fun r => !r.finished)) (fun r s =>
    if r.since.isSome then modRun r.id (fun r => { r with status := 4 }) s else pimStop r r.index s) u := by
  subst hu
  rfl

/-- With every command left finished, an abort has none to stop. -/
theorem pimAbort_of_finished (h : ∀ r ∈ u.nmc.q, r.finished = true) : pimAbort s = u := by
  rw [pimAbort_eq hu, List.filter_eq_nil_iff.2 fun r hr => by simp [h r hr]]
  rfl

end Abort

/-! ### Row operations (R450, R453, R460, R468 to R470) -/

section Begin
variable {op : Nat} {act : PimRun → State → State} (hr : pimRun s id = some r)
include hr

theorem rowBegin_of_may (hop : r.desc.op = op) (hrun : r.running = true) (hsince : r.since = none) (hfin : r.finished = false) (hst : r.status = 0)
    (hmay : runMay s r = true) (hu : u = busyBegin r.desc (touch dNMC (modRun id (fun r => { r with since := some s.ft }) s))) :
    rowBegin op id act s = act r u := by
  subst hu
  unfold rowBegin
  rw [hr]
  exact if_neg (by simp [hop, hrun, hsince, hfin, hst, hmay])

theorem rowBegin_of_idle (h : r.running = false ∨ r.since.isSome = true ∨ r.finished = true ∨ r.status ≠ 0 ∨ runMay s r = false) :
    rowBegin op id act s = s := by
  unfold rowBegin
  rw [hr]
  exact if_pos (Or.inr (by simpa using h))

theorem rowBegin_of_other (h : r.desc.op ≠ op) : rowBegin op id act s = s := by
  unfold rowBegin
  rw [hr]
  exact if_pos (Or.inl h)

end Begin

section Maskout
variable {x : Nat × Nat × State} (hx : x = stageMask r.desc.maskId r.desc.maskStall s)
include hx

theorem maskoutBegin_of_staged (h : x.1 = 0) : maskoutBegin r s = x.2.2 := by
  subst hx
  exact if_pos h

theorem maskoutBegin_of_refused (h : x.1 ≠ 0) :
    maskoutBegin r s = busyEnd r.desc (modRun r.id (fun r => { r with since := none, status := x.1 + 4, finished := true }) x.2.2) := by
  subst hx
  exact if_neg h

end Maskout

section Complete
variable (hr : pimRun s id = some r)
include hr

theorem rowComplete_of_idle (h : r.since = none) : rowComplete id s = s := by
  unfold rowComplete
  rw [hr]
  dsimp only
  rw [h]

variable {t : Nat} (ht : r.since = some t)
include ht

theorem rowComplete_of_early (h : s.ft < t + rowFt r.desc.op) : rowComplete id s = s := by
  unfold rowComplete
  rw [hr]
  dsimp only
  rw [ht]
  exact if_pos h

variable {n : Nat} {ds : List Nat} (hn : n = r.index + 1) (hds : ds = [0, 1].filter (r.desc.onDie s))
  (hu : u = modNmc (fun m => { m with burst := m.burst.filter (fun x => !ds.contains x) })
    (busyEnd r.desc (modRun id (fun r => { r with since := none, index := n, finished := n == r.desc.total }) s)))
  (hdue : t + rowFt r.desc.op ≤ s.ft)
include hn hds hu hdue

theorem rowComplete_of_aborted (h : r.status = 4) : rowComplete id s = pimStop r n u := by
  subst hn hds hu
  unfold rowComplete
  rw [hr]
  dsimp only
  rw [ht]
  exact (if_neg (not_lt.2 hdue)).trans (if_pos h)

theorem rowComplete_of_due (h : r.status ≠ 4) {v : State} (hv : v = (if n ≠ r.desc.total ∧ ds.any (diePending u) = true then wr rPimProgress n u else u)) :
    rowComplete id s = if r.desc.op = 9 then maskoutEnd r v else v := by
  have hw : v = when_ (n != r.desc.total && ds.any (diePending u)) (wr rPimProgress n) u := by
    rw [hv, when_]
    simp
  subst hn hds hw hu
  unfold rowComplete
  rw [hr]
  dsimp only
  rw [ht]
  exact (if_neg (not_lt.2 hdue)).trans (if_neg h)

end Complete

/-- Settles O40: the in-bank commands, and their row operations from start to end. -/
theorem inBankCommandsRun : Obligations.InBankCommandsRun := by
  unfold Obligations.InBankCommandsRun
  refine ⟨⟨fun s d w x hd hw hx => ⟨fun h => leaves_of_effect rfl (pimGo_of_full h), fun hroom =>
      ⟨fun h => leaves_of_effect rfl (pimGo_of_refused hd hw hx hroom h), fun held h hheld => leaves_of_effect rfl (pimGo_of_taken hd hw hx hroom h hheld)⟩⟩,
    fun s id r hr => ⟨fun h he hh hm => leaves_of_effect rfl (pimStart_of_free hr h he hh hm), fun h => leaves_of_effect rfl (pimStart_of_waiting hr h)⟩,
    fun s id r u hr => ⟨fun h => leaves_of_effect rfl (pimComplete_of_unfinished hr h), fun h hu => ?_⟩,
    fun s id hr => ⟨leaves_of_effect rfl (pimStart_of_none hr), leaves_of_effect rfl (pimComplete_of_none hr)⟩,
    fun s u hu => ⟨leaves_of_effect rfl (pimAbort_eq hu), fun h => leaves_of_effect rfl (pimAbort_of_finished hu h)⟩⟩,
    fun s id r u hr hrun hsince hfin hst hmay hu => ?_, fun s id r hr => ?_, fun s id r t n ds u v hr ht hn hds hu hv => ?_⟩
  · have hdone := pimComplete_of_finished hr h hu
    exact ⟨fun hb => leaves_of_effect rfl (hdone.trans (by rw [hb, when_false])), fun hb => leaves_of_effect rfl (hdone.trans (by rw [hb, when_true]))⟩
  · have begins {op : Nat} {act : PimRun → State → State} (hop : r.desc.op = op) : rowBegin op id act s = act r u :=
      rowBegin_of_may hr hop hrun hsince hfin hst hmay hu
    exact ⟨fun h => leaves_of_effect rfl (begins h), fun h => leaves_of_effect rfl (begins h), fun h => leaves_of_effect rfl (begins h),
      fun h => leaves_of_effect rfl (begins h), fun h => leaves_of_effect rfl (begins h), fun h => leaves_of_effect rfl (begins h),
      fun h => leaves_of_effect rfl (begins h), fun h => leaves_of_effect rfl (begins h), fun x h hx =>
        ⟨fun h0 => leaves_of_effect rfl ((begins h).trans (maskoutBegin_of_staged hx h0)),
          fun h0 => leaves_of_effect rfl ((begins h).trans (maskoutBegin_of_refused hx h0))⟩⟩
  · have other {op : Nat} {act : PimRun → State → State} (h : r.desc.op ≠ op) : rowBegin op id act s = s := rowBegin_of_other hr h
    refine ⟨fun h => ?_, fun h => leaves_of_effect rfl (other h), fun h => leaves_of_effect rfl (other h), fun h => leaves_of_effect rfl (other h),
      fun h => leaves_of_effect rfl (other h), fun h => leaves_of_effect rfl (other h), fun h => leaves_of_effect rfl (other h),
      fun h => leaves_of_effect rfl (other h), fun h => leaves_of_effect rfl (other h), fun h => leaves_of_effect rfl (other h),
      fun h => leaves_of_effect rfl (rowComplete_of_idle hr h)⟩
    have idle {op : Nat} {act : PimRun → State → State} : rowBegin op id act s = s := rowBegin_of_idle hr h
    exact ⟨leaves_of_effect rfl idle, leaves_of_effect rfl idle, leaves_of_effect rfl idle, leaves_of_effect rfl idle, leaves_of_effect rfl idle,
      leaves_of_effect rfl idle, leaves_of_effect rfl idle, leaves_of_effect rfl idle, leaves_of_effect rfl idle⟩
  · have hend (hdue : t + rowFt r.desc.op ≤ s.ft) (h : r.status ≠ 4) : rowComplete id s = if r.desc.op = 9 then maskoutEnd r v else v :=
      rowComplete_of_due hr ht hn hds hu hdue h hv
    exact ⟨fun h => leaves_of_effect rfl (rowComplete_of_early hr ht h), fun hdue h => leaves_of_effect rfl (rowComplete_of_aborted hr ht hn hds hu hdue h),
      fun hdue h hop => leaves_of_effect rfl ((hend hdue h).trans (if_neg hop)), fun hdue h hop => leaves_of_effect rfl ((hend hdue h).trans (if_pos hop))⟩

/-! ### What a row operation writes (R450) -/

/-- MAJ3 on one bit is the majority of the three. -/
theorem majority_bit (a b c : Bool) : (a && b || a && c || b && c) = decide (2 ≤ b2n a + b2n b + b2n c) := by
  cases a <;> cases b <;> cases c <;> rfl

/-- Settles O41: each operation's byte is the model's own clause; MAJ3 bit by bit by its majority table. -/
theorem rowBytesAreBitwise : Obligations.RowBytesAreBitwise := by
  unfold Obligations.RowBytesAreBitwise
  intro a b c
  refine ⟨rfl, rfl, rfl, rfl, rfl, rfl, rfl, fun i _ => ?_⟩
  rw [rowByte, BitVec.getLsbD_or, BitVec.getLsbD_or, BitVec.getLsbD_and, BitVec.getLsbD_and, BitVec.getLsbD_and]
  exact majority_bit _ _ _

end Sys2Proof.Proofs
end

section
namespace Sys2Proof.Proofs
open Sys2Proof Sys2Proof.Machine Sys2Proof.Safety Sys2Proof.Laws

set_option Elab.async false

variable {s u : State}

/-! ### Refresh, frames and temperature (R447, R464, R466) -/

section Refresh
variable {c : Nat}

theorem refreshDue_of_off (h : isOn s dNMC = false) : refreshDue c s = s := if_pos (by simp [h])

variable (hon : isOn s dNMC = true)
include hon

section Scheduled
variable {i l k : Nat} (hh : handshake s c = false) (hs : slotNow s = some (i, k, l))
include hh hs

theorem refreshDue_of_slot (hk : k = 0) (hl : 176 ≤ l) (hr : s.nmc.refreshed.contains c = false) (hfirst : ∀ x ∈ s.conf.nmc.slots.take i, x.2 ≠ 0) :
    refreshDue c s = refreshNow c s := by
  unfold refreshDue
  rw [if_neg (by simp [hon]), hh, if_neg Bool.false_ne_true, hs]
  exact if_pos ⟨hk, hl, by rw [hr]; rfl, List.all_eq_true.2 fun x hx => bne_iff_ne.2 (hfirst x hx)⟩

theorem refreshDue_of_no_slot (h : k ≠ 0 ∨ l < 176 ∨ s.nmc.refreshed.contains c = true ∨ ∃ x ∈ s.conf.nmc.slots.take i, x.2 = 0) :
    refreshDue c s = s := by
  unfold refreshDue
  rw [if_neg (by simp [hon]), hh, if_neg Bool.false_ne_true, hs]
  refine if_neg ?_
  rintro ⟨hk, hl, hr, hfirst⟩
  rcases h with h | h | h | ⟨x, hx, h⟩
  · exact h hk
  · omega
  · rw [h] at hr
    contradiction
  · exact bne_iff_ne.1 (List.all_eq_true.1 hfirst x hx) h

end Scheduled

section Interval
variable {due : Bool} (hm : handshake s c = true ∨ slotNow s = none)
  (hd : due = decide (look s.nmc.lastRefresh c 0 + (if hot s (dieOf c) then 3125 else 6250) ≤ s.ft + 1))
include hm hd

theorem refreshDue_of_interval : refreshDue c s =
    if s.nmc.refresh.contains c = false ∧ due = false then s
    else if handshake s c = true ∧ dieWorks s (dieOf c) = true then
      if s.nmc.refresh.contains c = true then s else modNmc (fun m => { m with refresh := m.refresh ++ [c] }) s
    else refreshNow c s := by
  have hslot : (if handshake s c = true then none else slotNow s) = none := by
    rcases hm with h | h
    · exact if_pos h
    · rw [h]; exact ite_self _
  unfold refreshDue
  rw [if_neg (by simp [hon]), hslot]
  dsimp only
  rw [← hd]
  simp only [Bool.not_eq_true']

end Interval
end Refresh

section Temperature
variable {d : Nat} {t : Int} (hu : u = modNmc (fun m => if d = 0 then { m with temp0 := t } else { m with temp1 := t }) s)
include hu

/-- The die reads hot after the change where the new temperature is above 85. -/
theorem hot_set_temp : hot u d = decide (85 < t) := by
  subst hu
  unfold hot modNmc
  by_cases h : d = 0 <;> simp [h]

theorem dieTemp_of_same (h : hot s d = decide (85 < t)) : dieTemp d t s = u := by
  have hsame : (hot u d != hot s d) = false := by simp [hot_set_temp hu, h]
  unfold dieTemp
  dsimp only
  rw [← hu, hsame, when_false]

theorem dieTemp_of_cross (h : hot s d ≠ decide (85 < t)) : dieTemp d t s = logC 0x1206 [] u := by
  have hcross : (hot u d != hot s d) = true := by simpa [hot_set_temp hu] using h.symm
  unfold dieTemp
  dsimp only
  rw [← hu, hcross, when_true]

end Temperature

theorem preempt_of_idle {d : Nat} (h : isOn s dNMC = false ∨ diePending s d = false ∨ rowBusy s d = true ∨ dieWorks s d = false ∨ s.nmc.burst.contains d = true) :
    preempt d s = s := by
  refine if_pos ?_
  rcases h with h | h | h | h | h
  · exact Or.inl (by rw [h]; rfl)
  · exact Or.inr (Or.inl (by rw [h]; rfl))
  · exact Or.inr (Or.inr (Or.inl h))
  · exact Or.inr (Or.inr (Or.inr (Or.inl (by rw [h]; rfl))))
  · exact Or.inr (Or.inr (Or.inr (Or.inr h)))

theorem preempt_of_ready {d : Nat} {rs : List Nat} {ws : List (Nat × Instr)} (hon : isOn s dNMC = true) (hp : diePending s d = true) (hb : rowBusy s d = false)
    (hw : dieWorks s d = true) (hn : s.nmc.burst.contains d = false) (hrs : rs = (s.nmc.refresh.filter (fun c => dieOf c == d)).take s.conf.nmc.burst)
    (hws : ws = (dieWaiting s d).take (s.conf.nmc.burst - rs.length)) :
    preempt d s = modNmc (fun m => { m with burst := m.burst ++ [d] })
      (forEach ws (fun p s => serveHeld p.2 { s with heldAcc := s.heldAcc.erase p }) (forEach rs refreshNow s)) := by
  subst hrs hws
  refine if_neg ?_
  rw [hon, hp, hb, hw, hn]
  decide

/-- Settles O42: refresh by slot and by interval, the frames, the die's temperature and the burst at PIM_RDY. -/
theorem refreshAndPreemption : Obligations.RefreshAndPreemption := by
  unfold Obligations.RefreshAndPreemption
  refine ⟨fun s c hc h => leaves_of_effect (decide_eq_true hc) (refreshDue_of_off h), fun s c i l k hc hon hh hs =>
      ⟨fun hk hl hr hf => leaves_of_effect (decide_eq_true hc) (refreshDue_of_slot hon hh hs hk hl hr hf),
        fun h => leaves_of_effect (decide_eq_true hc) (refreshDue_of_no_slot hon hh hs h)⟩,
    fun s c due hc hon hm hd => ?_, fun s => ⟨fun h h2 => leaves_of_effect rfl (if_neg (not_or.2 ⟨h, not_not.2 h2⟩)), fun h => leaves_of_effect rfl (if_pos h)⟩,
    fun s d t u hd hu => ⟨fun h => leaves_of_effect (decide_eq_true hd) (dieTemp_of_same hu h), fun h => leaves_of_effect (decide_eq_true hd) (dieTemp_of_cross hu h)⟩,
    fun s d hd => ⟨fun h => leaves_of_effect (decide_eq_true hd) (preempt_of_idle h),
      fun rs ws hon hp hb hw hn hrs hws => leaves_of_effect (decide_eq_true hd) (preempt_of_ready hon hp hb hw hn hrs hws)⟩⟩
  have hint := refreshDue_of_interval hon hm hd
  have refreshes {t : State} (h : refreshDue c s = t) : Leaves (.refreshDue c) s t := leaves_of_effect (decide_eq_true hc) h
  refine ⟨fun hp hdue => refreshes (hint.trans (if_pos ⟨hp, hdue⟩)), fun hor => ?_⟩
  have howed := hint.trans (if_neg (by rintro ⟨hp, hdue⟩; rw [hp, hdue] at hor; simp at hor))
  exact ⟨fun hh hw hp => refreshes (howed.trans ((if_pos ⟨hh, hw⟩).trans (if_pos hp))),
    fun hh hw hp => refreshes (howed.trans ((if_pos ⟨hh, hw⟩).trans (if_neg (by rw [hp]; exact Bool.false_ne_true)))),
    fun h => refreshes (howed.trans (if_neg (by rintro ⟨hh, hw⟩; simp [hh, hw] at h)))⟩

/-! ### Ordinary accesses (R443 to R448) -/

/-- An access that its controller and its turn let through. -/
theorem lakeTurn {o n k : Nat} (hnow : lakeNow s o n k = true) (hturn : lakeBehind s o k = false) : lakeNow s o n k ∧ !lakeBehind s o k :=
  ⟨hnow, by rw [hturn]; rfl⟩

theorem not_lakeTurn {o n k : Nat} (h : lakeNow s o n k = false ∨ lakeBehind s o k = true) : ¬(lakeNow s o n k ∧ !lakeBehind s o k) := by
  rintro ⟨hnow, hturn⟩
  rcases h with h | h
  · exact absurd hnow (by simp [h])
  · exact absurd hturn (by simp [h])

theorem lakeAccess_wf {k o e : Nat} {w : Option Bytes} (hk : k < 8) (ho : o < 2 ^ 35) (hw : ∀ b, w = some b → o + b.length ≤ 2 ^ 35) :
    (Instr.lakeAccess k o w e).wf = true := by
  cases w with
  | none => exact Bool.and_eq_true_iff.2 ⟨Bool.and_eq_true_iff.2 ⟨decide_eq_true hk, decide_eq_true ho⟩, rfl⟩
  | some b => exact Bool.and_eq_true_iff.2 ⟨Bool.and_eq_true_iff.2 ⟨decide_eq_true hk, decide_eq_true ho⟩, decide_eq_true (hw b rfl)⟩

/-- Errors found by an access change registers and the log, not what the memories hold. -/
theorem lakeEcc_memories (o e : Nat) (s : State) : (lakeEcc o e s).nmc = s.nmc ∧ (lakeEcc o e s).pond = s.pond := by
  unfold lakeEcc
  dsimp only
  split
  · exact ⟨rfl, rfl⟩
  · split
    · exact ⟨rfl, rfl⟩
    · split <;> simp [logC]

theorem lakeServe_write (o : Nat) (b : Bytes) (e : Nat) (s : State) :
    (lakeServe o (some b) e s).nmc.lake = putBytes s.nmc.lake o b ∧ (lakeServe o (some b) e s).pond = s.pond := by
  obtain ⟨hnmc, hpond⟩ := lakeEcc_memories o e s
  exact ⟨by simp [lakeServe, modNmc, hnmc], by simp [lakeServe, modNmc, hpond]⟩

theorem lakeServe_read (o e : Nat) (s : State) : (lakeServe o none e s).nmc.lake = s.nmc.lake ∧ (lakeServe o none e s).pond = s.pond := by
  obtain ⟨hnmc, hpond⟩ := lakeEcc_memories o e s
  exact ⟨by simp [lakeServe, hnmc], by simp [lakeServe, hpond]⟩

section Bar4
variable {c : Instr} {o n : Nat}

theorem bar4Access_of_sleep (h : s.spg.l1 = true) : bar4Access c o n s = await dL0 c s := if_pos h

variable (hl : s.spg.l1 = false) (hu : u = { s with spg := { s.spg with lastTlp := s.ft } })
include hl hu

theorem bar4Access_of_served (h : 2 ^ 35 ≤ o ∨ (lakeNow u o n 5 ∧ !lakeBehind u o 5)) : bar4Access c o n s = serveHeld c u := by
  subst hu
  exact (if_neg (by simp [hl])).trans (if_pos h)

theorem bar4Access_of_waits (ho : o < 2 ^ 35) (h : ¬(lakeNow u o n 5 ∧ !lakeBehind u o 5)) : bar4Access c o n s = await dNMC c (wakeDom dNMC u) := by
  subst hu
  have hno : ¬(2 ^ 35 ≤ o ∨ (lakeNow { s with spg := { s.spg with lastTlp := s.ft } } o n 5 ∧ !lakeBehind { s with spg := { s.spg with lastTlp := s.ft } } o 5)) := by
    rintro (h' | h')
    · exact absurd ho (not_lt.2 h')
    · exact h h'
  exact (if_neg (by simp [hl])).trans (if_neg hno)

end Bar4

/-- Settles O43: an access served or waiting, what a served one stores, and BAR4 below and beyond the lake. -/
theorem lakeAccesses : Obligations.LakeAccesses := by
  unfold Obligations.LakeAccesses
  refine ⟨fun s k o w e n hk ho hw hn => ?_, fun s k o b e hk ho hb hnow hturn => ?_, fun s k o e hk ho hnow hturn => ?_, fun s o d n x u hd hn hu => ?_⟩
  · subst hn
    exact ⟨fun hnow hturn => leaves_of_effect (lakeAccess_wf hk ho hw) (if_pos (lakeTurn hnow hturn)),
      fun h => leaves_of_effect (lakeAccess_wf hk ho hw) (if_neg (not_lakeTurn h))⟩
  · have hwf : (Instr.lakeAccess k o (some b) e).wf = true := lakeAccess_wf hk ho fun b' h => Option.some.inj h ▸ hb
    have hrun : exec (.lakeAccess k o (some b) e) s = run (.lakeAccess k o (some b) e) s (lakeServe o (some b) e s) :=
      congrArg (run _ s) (if_pos (lakeTurn hnow hturn))
    obtain ⟨hlake, hpond⟩ := lakeServe_write o b e s
    rw [Gives, hrun]
    exact gives_run hwf ⟨hlake, hpond, fun a ha => (congrArg (look · a 0) hlake).trans (look_putBytes_of_not_mem ha)⟩
  · have hwf : (Instr.lakeAccess k o none e).wf = true := lakeAccess_wf hk ho nofun
    have hrun : exec (.lakeAccess k o none e) s = run (.lakeAccess k o none e) s (lakeServe o none e s) :=
      congrArg (run _ s) (if_pos (lakeTurn hnow hturn))
    obtain ⟨hlake, hpond⟩ := lakeServe_read o e s
    rw [Gives, hrun]
    exact gives_run hwf ⟨hlake, hpond⟩
  · have writes {t : State} (h : bar4Access (.bar4Write o d) o d.length s = t) : Leaves (.bar4Write o d) s t := leaves_of_effect (decide_eq_true hd) h
    have reads {t : State} (h : bar4Access (.bar4Read o n x) o n s = t) : Leaves (.bar4Read o n x) s t := leaves_of_effect (decide_eq_true hn) h
    exact ⟨fun h => ⟨writes (bar4Access_of_sleep h), reads (bar4Access_of_sleep h)⟩,
      fun hl ho => ⟨writes (bar4Access_of_served hl hu (Or.inl ho)), reads (bar4Access_of_served hl hu (Or.inl ho))⟩, fun hl ho =>
        ⟨fun hnow hturn => writes (bar4Access_of_served hl hu (Or.inr (lakeTurn hnow hturn))), fun h => writes (bar4Access_of_waits hl hu ho (not_lakeTurn h)),
          fun hnow hturn => reads (bar4Access_of_served hl hu (Or.inr (lakeTurn hnow hturn))), fun h => reads (bar4Access_of_waits hl hu ho (not_lakeTurn h))⟩⟩

end Sys2Proof.Proofs
end

section
namespace Sys2Proof.Proofs
open Sys2Proof Sys2Proof.Machine Sys2Proof.Safety Sys2Proof.Laws

set_option Elab.async false

variable {s u : State}

/-! ### Starting, fetching and staging an image (R151 to R156, R165) -/

section Start
variable {v : Word} (hu : u = wrf rImgCtl 5 3 (bits v.toNat 5 3) s)
include hu

theorem imgStart_of_hold (h : s.rst.safeHold = true) : imgStart v s = u := by
  subst hu
  exact if_pos h

theorem imgStart_of_busy (h : s.rst.safeHold = false) (hi : loaderIdle s = false) : imgStart v s = logC 0x1618 [] u := by
  subst hu
  unfold imgStart
  dsimp only
  rw [wrf_rst, h, if_neg Bool.false_ne_true]
  exact if_pos (congrArg not hi)

theorem imgStart_of_idle (h : s.rst.safeHold = false) (hi : loaderIdle s = true) : imgStart v s = beginFetch (bits v.toNat 4 3) false u := by
  subst hu
  unfold imgStart
  dsimp only
  rw [wrf_rst, h, if_neg Bool.false_ne_true]
  exact if_neg (ne_true_of_eq_false (congrArg not hi))

end Start

section Frame
variable {x : Option Bytes}

theorem frameFetched_of_closed (h : s.img.st ≠ 1 ∨ s.img.ended = true ∨ (framesDone s = true ∧ (readsBundle s && s.img.hdr.member) = false)) :
    frameFetched x s = s := by
  refine if_pos ?_
  rcases h with h | h | ⟨hd, hb⟩
  · exact Or.inl h
  · exact Or.inr (Or.inl h)
  · exact Or.inr (Or.inr ⟨hd, congrArg not (decide_eq_false fun ⟨hr, hm⟩ => ne_true_of_eq_false hb (Bool.and_eq_true_iff.2 ⟨hr, hm⟩))⟩)

variable (hst : s.img.st = 1) (hend : s.img.ended = false) (hmore : framesDone s = false ∨ (readsBundle s && s.img.hdr.member) = true)
include hst hend hmore

/-- The loader fetches, and the image or the bundle has more. -/
theorem fetch_open : ¬(s.img.st ≠ 1 ∨ s.img.ended ∨ (framesDone s ∧ !(readsBundle s ∧ s.img.hdr.member))) := by
  rintro (h | h | ⟨hd, hb⟩)
  · exact h hst
  · simp [hend] at h
  · rcases hmore with h | h
    · simp [h] at hd
    · simp_all

theorem frameFetched_of_absent (hx : nextFrame s x = none) : frameFetched x s = if isOn s dNMC then s else wakeDom dNMC s := by
  unfold frameFetched
  dsimp only
  rw [if_neg (fetch_open hst hend hmore), hx]

theorem frameFetched_of_unread (hx : nextFrame s x = some none) : frameFetched x s = imgFail (0x1611, []) s := by
  unfold frameFetched
  dsimp only
  rw [if_neg (fetch_open hst hend hmore), hx]

variable {f : Bytes} (hx : nextFrame s x = some (some f))
include hx

theorem frameFetched_of_forward {c k n : Nat} (hf : s.img.fwd = some (c, k, n)) : frameFetched x s = forwardFrame c k n (fit 4096 f) s := by
  unfold frameFetched
  dsimp only
  rw [if_neg (fetch_open hst hend hmore), hx]
  dsimp only
  rw [hf]

theorem frameFetched_of_first (hf : s.img.fwd = none) (h : (s.img.frames.isEmpty || framesDone s) = true) : frameFetched x s = firstFrame (fit 4096 f) s := by
  unfold frameFetched
  dsimp only
  rw [if_neg (fetch_open hst hend hmore), hx]
  dsimp only
  rw [hf]
  exact if_pos (Bool.or_eq_true_iff.1 h)

theorem frameFetched_of_own (hf : s.img.fwd = none) (h : (s.img.frames.isEmpty || framesDone s) = false) : frameFetched x s = ownFrame (fit 4096 f) s := by
  unfold frameFetched
  dsimp only
  rw [if_neg (fetch_open hst hend hmore), hx]
  dsimp only
  rw [hf]
  exact if_neg fun hor => ne_true_of_eq_false h (Bool.or_eq_true_iff.2 hor)

end Frame

section Staged

theorem imageStaged_of_unready (h : s.img.st ≠ 1 ∨ framesDone s = false ∨ ((readsBundle s && s.img.hdr.member) = true ∧ s.img.ended = false)) :
    imageStaged s = s := by
  refine if_pos ?_
  rcases h with h | h | ⟨hb, he⟩
  · exact Or.inl h
  · exact Or.inr (Or.inl (congrArg not h))
  · obtain ⟨hr, hm⟩ := Bool.and_eq_true_iff.1 hb
    exact Or.inr (Or.inr ⟨hr, hm, congrArg not he⟩)

variable (hst : s.img.st = 1) (hd : framesDone s = true) (hb : (readsBundle s && s.img.hdr.member) = false ∨ s.img.ended = true)
include hst hd hb

/-- Every frame is there. -/
theorem staged_ready : ¬(s.img.st ≠ 1 ∨ !framesDone s ∨ (readsBundle s ∧ s.img.hdr.member ∧ !s.img.ended)) := by
  rintro (h | h | ⟨hr, hm, he⟩)
  · exact h hst
  · simp [hd] at h
  · rcases hb with h | h
    · simp [hr, hm] at h
    · simp [h] at he

theorem imageStaged_of_bad {b : Bad} (h : stagedBad s = some b) : imageStaged s = imgFail b s := by
  unfold imageStaged
  dsimp only
  rw [if_neg (staged_ready hst hd hb), h]

theorem imageStaged_of_good (h : stagedBad s = none) (hu : u = setLoader 2 (modSecm (fun m => { m with imgKey := false }) s)) :
    imageStaged s = if s.img.boot ∨ bit (rd u rImgCtl) 5 then proceed u else u := by
  subst hu
  unfold imageStaged
  dsimp only
  rw [if_neg (staged_ready hst hd hb), h]

end Staged

theorem imgCtlAbort_of_under_way (h1 : 1 ≤ s.img.st) (h3 : s.img.st ≤ 3) : imgCtlAbort s = memberReport true 0x1612 (enterFailed (0x1612, []) s) :=
  if_pos ⟨h1, h3⟩

theorem imgCtlAbort_of_other (h : s.img.st = 0 ∨ 4 ≤ s.img.st) : imgCtlAbort s = s := if_neg (by omega)

/-! ### A member's frames from the root (R152) -/

theorem imgData_of_off {m : Bytes} (h : isOn s dNMC = false) : imgData m s = wakeDom dNMC (await dNMC (.imgData m) s) := if_neg (ne_true_of_eq_false h)

theorem imgData_of_other {m : Bytes} (hon : isOn s dNMC = true) (h : u8 (ctlOf m).body 8 ≠ s.fab.chip ∨ s.rst.safeHold = true) : imgData m s = s :=
  (if_pos hon).trans (if_pos h)

/-- A frame of the bundle, stored at its place in the staging bank. -/
def keepFrame (b : Bytes) (k : Nat) (t : State) : State :=
  modImg (fun i => { i with pos := k + 1 }) { t with nmc := { t.nmc with lake := setRange t.nmc.lake (0x600000000 + 4096 * k) (slice b 32 4096) } }

/-- The bundle whose member the loader takes from the root. -/
def takeBundle (at_ : W64) (t : State) : State := modImg (fun i => { i with hdr := { member := true, bundle := at_ }, bundleNow := some at_ }) t

section Data
variable {m b : Bytes} {k : Nat} {at_ : W64} (hon : isOn s dNMC = true) (hb : b = (ctlOf m).body) (hchip : u8 b 8 = s.fab.chip) (hsafe : s.rst.safeHold = false)
  (hk : k = u32 b 12) (hat : at_ = BitVec.ofNat 64 (u64 b 0))
include hon hb hchip hsafe hk hat

/-- A frame of this chip's member, case by case. -/
theorem imgData_of_member : imgData m s =
    if k = 0 ∧ takesFromRoot s then keepFrame b k (takeBundle at_ (beginFetch 2 false s))
    else if k = 0 ∧ (s.img.st == 1 && s.img.source == 2) ∧ s.img.pos = 0 then keepFrame b k (takeBundle at_ s)
    else if (s.img.st == 1 && s.img.source == 2) ∧ s.img.bundleNow = some at_ then
      if k = s.img.pos ∧ k < 1048576 then keepFrame b k s else imgFail (0x1611, []) s
    else s := by
  subst hb hk hat
  refine (if_pos hon).trans ?_
  unfold imgDataNow
  refine (if_neg ?_).trans rfl
  rintro (h | h)
  · exact h hchip
  · simp [hsafe] at h

theorem imgData_of_first (h0 : k = 0) (ht : takesFromRoot s = true) : imgData m s = keepFrame b k (takeBundle at_ (beginFetch 2 false s)) :=
  (imgData_of_member hon hb hchip hsafe hk hat).trans (if_pos ⟨h0, ht⟩)

theorem imgData_of_awaited (h0 : k = 0) (ht : takesFromRoot s = false) (hst : s.img.st = 1) (hsrc : s.img.source = 2) (hpos : s.img.pos = 0) :
    imgData m s = keepFrame b k (takeBundle at_ s) := by
  rw [imgData_of_member hon hb hchip hsafe hk hat, if_neg (by simp [ht]), if_pos ⟨h0, by simp [hst, hsrc], hpos⟩]

theorem imgData_of_next (hany : k ≠ 0 ∨ s.img.pos ≠ 0) (hst : s.img.st = 1) (hsrc : s.img.source = 2) (hbn : s.img.bundleNow = some at_) :
    imgData m s = if k = s.img.pos ∧ k < 1048576 then keepFrame b k s else imgFail (0x1611, []) s := by
  rw [imgData_of_member hon hb hchip hsafe hk hat, if_neg (by simp [takesFromRoot, loaderIdle, hst]), if_neg (by rintro ⟨h0, -, hp⟩; omega),
    if_pos ⟨by simp [hst, hsrc], hbn⟩]

theorem imgData_of_ignored (hany : k ≠ 0 ∨ takesFromRoot s = false)
    (h : s.img.st ≠ 1 ∨ s.img.source ≠ 2 ∨ ((k ≠ 0 ∨ s.img.pos ≠ 0) ∧ s.img.bundleNow ≠ some at_)) : imgData m s = s := by
  rw [imgData_of_member hon hb hchip hsafe hk hat, if_neg (by rintro ⟨h0, ht⟩; simp [h0, ht] at hany)]
  rcases h with h | h | ⟨h, hbn⟩
  · simp [h]
  · simp [h]
  · rw [if_neg (by rintro ⟨h0, -, hp⟩; omega), if_neg fun ⟨_, h⟩ => hbn h]

end Data

/-- Settles O44: START, each frame as it comes, the last checks, ABORT and the frames that the root sends. -/
theorem imagesAreStaged : Obligations.ImagesAreStaged := by
  unfold Obligations.ImagesAreStaged
  refine ⟨fun s v u hu => ⟨fun h => leaves_of_effect rfl (imgStart_of_hold hu h), fun h hi => leaves_of_effect rfl (imgStart_of_busy hu h hi),
      fun h hi => leaves_of_effect rfl (imgStart_of_idle hu h hi)⟩, fun s x hx => ?_, fun s h => leaves_of_effect rfl (imageStaged_of_unready h),
    fun s u hst hd hb hu => ?_, fun s => ⟨fun h1 h3 => leaves_of_effect rfl (imgCtlAbort_of_under_way h1 h3), fun h => leaves_of_effect rfl (imgCtlAbort_of_other h)⟩,
    fun s m h => leaves_of_effect rfl (imgData_of_off h), fun s m hon h => leaves_of_effect rfl (imgData_of_other hon h),
    fun s m b k at_ first kept hon hb hc hsafe hk hat hkept hfirst => ?_⟩
  · have fetches {t : State} (h : frameFetched x s = t) : Leaves (.imageFrameFetched x) s t := leaves_of_effect hx h
    exact ⟨fun h => fetches (frameFetched_of_closed h), fun hst hend hmore =>
      ⟨fun hn hon => fetches ((frameFetched_of_absent hst hend hmore hn).trans (if_pos hon)),
        fun hn hoff => fetches ((frameFetched_of_absent hst hend hmore hn).trans (if_neg (ne_true_of_eq_false hoff))),
        fun hn => fetches (frameFetched_of_unread hst hend hmore hn), fun f hn => ⟨fun c k n hf => fetches (frameFetched_of_forward hst hend hmore hn hf),
          fun hf h => fetches (frameFetched_of_first hst hend hmore hn hf h), fun hf h => fetches (frameFetched_of_own hst hend hmore hn hf h)⟩⟩⟩
  · have hgood (h : stagedBad s = none) := imageStaged_of_good hst hd hb h hu
    exact ⟨fun b h => leaves_of_effect rfl (imageStaged_of_bad hst hd hb h),
      fun h hg => leaves_of_effect rfl ((hgood h).trans (if_pos (Bool.or_eq_true_iff.1 hg))),
      fun h hg => leaves_of_effect rfl ((hgood h).trans (if_neg fun hor => ne_true_of_eq_false hg (Bool.or_eq_true_iff.2 hor)))⟩
  · obtain rfl : kept = keepFrame b k := funext hkept
    obtain rfl : first = fun t => keepFrame b k (takeBundle at_ t) := funext hfirst
    have hnext (hany : k ≠ 0 ∨ s.img.pos ≠ 0) (hst : s.img.st = 1) (hsrc : s.img.source = 2) (hbn : s.img.bundleNow = some at_) :=
      imgData_of_next hon hb hc hsafe hk hat hany hst hsrc hbn
    exact ⟨fun h0 ht => leaves_of_effect rfl (imgData_of_first hon hb hc hsafe hk hat h0 ht),
      fun h0 ht hst hsrc hpos => leaves_of_effect rfl (imgData_of_awaited hon hb hc hsafe hk hat h0 ht hst hsrc hpos), fun hany hst hsrc hbn =>
        ⟨fun hp hlt => leaves_of_effect rfl ((hnext hany hst hsrc hbn).trans (if_pos ⟨hp, hlt⟩)),
          fun h => leaves_of_effect rfl ((hnext hany hst hsrc hbn).trans (if_neg (by rintro ⟨hp, hlt⟩; omega)))⟩,
      fun hany h => leaves_of_effect rfl (imgData_of_ignored hon hb hc hsafe hk hat hany h)⟩

end Sys2Proof.Proofs
end

section
namespace Sys2Proof.Proofs
open Sys2Proof Sys2Proof.Machine Sys2Proof.Safety Sys2Proof.Laws

set_option Elab.async false

variable {s u : State}

/-! ### Drains, installation and commit (R156 to R159, R166 to R170) -/

theorem stallDrained_of_empty {n : Nat} (hd : draining s n = true) (hn : bit (rd s rDrained) n = false) (he : stallEmpty s n = true) (hon : isOn s dSEQ = true) :
    stallDrained n s = tryInstall (logEv 0x1619 n [n] (setBit rDrained n s)) :=
  if_pos ⟨hd, congrArg not hn, he, hon⟩

theorem stallDrained_of_other {n : Nat} (h : draining s n = false ∨ bit (rd s rDrained) n = true ∨ stallEmpty s n = false ∨ isOn s dSEQ = false) :
    stallDrained n s = s := by
  refine if_neg ?_
  rintro ⟨hd, hn, he, hon⟩
  rcases h with h | h | h | h
  · simp [hd] at h
  · simp [h] at hn
  · simp [he] at h
  · simp [hon] at h

section Deadline
variable {e : DlyEntry} {n : Nat} {past : Nat → Prop} (hn : n = e.arg.toNat % 32)
  (hp : ∀ k, past k ↔ look s.img.drainAt k 0 ≠ 0 ∧ look s.img.drainAt k 0 ≤ s.ft + 1)
include hn hp

omit hn in
/-- The deadline of a drain of the stall, the host's or the loader's, has passed. -/
theorem drain_past_iff :
    ((look s.img.drainAt n 0 != 0 && decide (look s.img.drainAt n 0 ≤ s.ft + 1)) = true ∨
      (look s.img.drainAt (32 + n) 0 != 0 && decide (look s.img.drainAt (32 + n) 0 ≤ s.ft + 1)) = true) ↔ past n ∨ past (32 + n) := by
  simp [hp]

theorem drainDue_of_lifted (h : ¬ past n) (h32 : ¬ past (32 + n)) : drainDue e s = s := by
  have hno := (drain_past_iff (n := n) hp).not.2 (not_or.2 ⟨h, h32⟩)
  subst hn
  exact if_neg hno

theorem drainDue_of_past (h : past n ∨ past (32 + n)) {rs : List Nat}
    (hrs : rs = (s.rtb.filter (fun p => p.2.stall == n && !p.2.shadow && p.2.st != .free && p.2.st != .paused && p.2.st != .fw)).map Prod.fst) :
    drainDue e s = logEv 0x161A n [rs.length] (forEach rs dropForced s) := by
  have hyes := (drain_past_iff (n := n) hp).2 h
  subst hn hrs
  exact if_pos hyes

end Deadline

theorem installComplete_of_other (h : s.img.st ≠ 4) : installComplete s = s := if_pos h

theorem installComplete_of_single (h : s.img.st = 4) (hm : (writeStore s).img.hdr.member = false) :
    installComplete s = commitImage 0x1616 (writeStore s) :=
  (if_neg (not_not.2 h)).trans (if_neg (ne_true_of_eq_false hm))

theorem installComplete_of_member (h : s.img.st = 4) (hm : (writeStore s).img.hdr.member = true) :
    installComplete s = memberReport false 0 (setLoader 5 (writeStore s)) :=
  (if_neg (not_not.2 h)).trans (if_pos hm)

theorem firmwareReloaded_of_other (h : s.img.reloading = false ∨ s.img.st = 4 ∨ s.img.st = 5 ∨ isOn s dCCR = false ∨
    s.cc.threads.any (fun t => t.2.bulk.isSome) = true) : firmwareReloaded s = s := by
  refine if_neg ?_
  rintro ⟨hr, h4, h5, hon, hbulk⟩
  rcases h with h | h | h | h | h
  · simp [hr] at h
  · exact h4 h
  · exact h5 h
  · simp [hon] at h
  · rw [h] at hbulk
    contradiction

theorem firmwareReloaded_of_ready (hr : s.img.reloading = true) (h4 : s.img.st ≠ 4) (h5 : s.img.st ≠ 5) (hon : isOn s dCCR = true)
    (hbulk : s.cc.threads.any (fun t => t.2.bulk.isSome) = false)
    (hu : u = { modImg (fun i => { i with reloading := false }) s with
      cc := { s.cc with recs := s.cc.recs.map (fun (r : Nat × FwRec) => (r.1, { r.2 with since := r.2.since.map (fun _ => s.ft) })) } }) :
    firmwareReloaded s = if s.conf.firmware.isNone then { u with cc := { u.cc with run := 2 } } else ccReload u := by
  subst hu
  exact if_pos ⟨hr, h4, h5, hon, congrArg not hbulk⟩

/-! ### Bundles (R161 to R163) -/

section Arm
variable {m b : Bytes} (hb : b = (ctlOf m).body)
include hb

theorem imgReport_at_root (h : isRoot s = true) : imgReport m s = takeReport (BitVec.ofNat 64 (u64 b 0)) (u8 b 8) (u8 b 9 == 1) s := by
  subst hb
  exact if_pos h

omit hb in
theorem imgReport_elsewhere (h : isRoot s = false) : imgReport m s = s := if_neg (ne_true_of_eq_false h)

theorem imgArm_of_member (hst : s.img.st = 5) (hbun : s.img.hdr.bundle = BitVec.ofNat 64 (u64 b 0)) :
    imgArm m s = if u64 b 8 < s.ft then commitImage 0x1615 s else modImg (fun i => { i with armed := some (u64 b 8) }) s := by
  subst hb
  exact if_pos ⟨hst, hbun⟩

theorem imgArm_of_other (h : s.img.st ≠ 5 ∨ s.img.hdr.bundle ≠ BitVec.ofNat 64 (u64 b 0)) : imgArm m s = s := by
  subst hb
  exact if_neg (not_and_or.2 h)

end Arm

theorem bundleCommit_of_due {t : Nat} (ha : s.img.armed = some t) (hst : s.img.st = 5) (ht : t ≤ s.ft) : bundleCommit s = commitImage 0x1616 s := by
  unfold bundleCommit
  rw [ha]
  exact if_pos ⟨hst, ht⟩

theorem bundleCommit_of_other (h : s.img.armed = none ∨ s.img.st ≠ 5 ∨ ∃ t, s.img.armed = some t ∧ s.ft < t) : bundleCommit s = s := by
  unfold bundleCommit
  cases ha : s.img.armed with
  | none => rfl
  | some t =>
    refine if_neg ?_
    rintro ⟨hst, ht⟩
    rcases h with h | h | ⟨t', h, hlt⟩
    · simp [ha] at h
    · exact h hst
    · obtain rfl := Option.some.inj (ha.symm.trans h)
      omega

section Abort
variable {b : W64}

theorem abortOwn_of_member (hm : s.img.hdr.member = true) (hb : s.img.hdr.bundle = b) (h1 : 1 ≤ s.img.st) (h5 : s.img.st ≤ 5) :
    abortOwn b s = enterFailed (0x161B, []) s := if_pos ⟨hm, hb, h1, h5⟩

theorem abortOwn_of_other (h : s.img.hdr.member = false ∨ s.img.hdr.bundle ≠ b ∨ s.img.st = 0 ∨ 5 < s.img.st) : abortOwn b s = s := by
  refine if_neg ?_
  rintro ⟨hm, hb, h1, h5⟩
  rcases h with h | h | h | h
  · simp [hm] at h
  · exact h hb
  all_goals omega

end Abort

section Timeout
variable {d : Nat} (hd : d = if 1 ≤ rdf s 0x0006002C 9 0 ∧ rdf s 0x0006002C 9 0 ≤ 1000 then rdf s 0x0006002C 9 0 else 10)
include hd

theorem bundleTimeout_of_report {t : Nat} (ht : s.img.firstReport = some t) :
    bundleTimeout s = if isRoot s ∧ t + us (1000 * d) ≤ s.ft then abortBundle s.img.bundleId s else s := by
  unfold bundleTimeout
  dsimp only
  rw [ht, ← hd]

theorem bundleTimeout_of_other (h : s.img.firstReport = none ∨ isRoot s = false ∨ ∃ t, s.img.firstReport = some t ∧ s.ft < t + us (1000 * d)) :
    bundleTimeout s = s := by
  cases ht : s.img.firstReport with
  | none =>
    unfold bundleTimeout
    dsimp only
    rw [ht]
  | some t =>
    rw [bundleTimeout_of_report hd ht]
    refine if_neg ?_
    rintro ⟨hroot, hle⟩
    rcases h with h | h | ⟨t', h, hlt⟩
    · simp [ht] at h
    · simp [hroot] at h
    · obtain rfl := Option.some.inj (ht.symm.trans h)
      exact absurd hle (not_le.2 hlt)

end Timeout

/-- Settles O45: drains, installation and reload, then the bundle's reports, arming, commit, abort and time-out. -/
theorem imagesAreInstalledAndCommit : Obligations.ImagesAreInstalledAndCommit := by
  unfold Obligations.ImagesAreInstalledAndCommit
  refine ⟨⟨fun s => ⟨fun h => leaves_of_effect rfl (if_pos h), fun h => leaves_of_effect rfl (if_neg h)⟩, fun s v => leaves_of_effect rfl rfl,
    fun s n hn => ⟨fun hd hb he hon => leaves_of_effect (decide_eq_true hn) (stallDrained_of_empty hd hb he hon),
      fun h => leaves_of_effect (decide_eq_true hn) (stallDrained_of_other h)⟩,
    fun s h => leaves_of_effect rfl (fire_of_waiting h), fun s e rest u n past hon hf hk hn hu hp => ?_,
    fun s => ⟨fun h => leaves_of_effect rfl (installComplete_of_other h), fun h hm => leaves_of_effect rfl (installComplete_of_single h hm),
      fun h hm => leaves_of_effect rfl (installComplete_of_member h hm)⟩,
    fun s => ⟨fun h => leaves_of_effect rfl (firmwareReloaded_of_other h), fun u hr h4 h5 hon hbulk hu => ?_⟩⟩,
    fun s m b hb => ⟨fun h => leaves_of_effect rfl (imgReport_at_root hb h), fun h => leaves_of_effect rfl (imgReport_elsewhere h)⟩,
    fun s m b hb => ⟨fun hst hbun hlt => leaves_of_effect rfl ((imgArm_of_member hb hst hbun).trans (if_pos hlt)),
      fun hst hbun hle => leaves_of_effect rfl ((imgArm_of_member hb hst hbun).trans (if_neg (not_lt.2 hle))),
      fun h => leaves_of_effect rfl (imgArm_of_other hb h)⟩,
    fun s => ⟨fun t ha hst ht => leaves_of_effect rfl (bundleCommit_of_due ha hst ht), fun h => leaves_of_effect rfl (bundleCommit_of_other h)⟩,
    fun s m b hb => ⟨fun hm hbun h1 h5 => leaves_of_effect rfl (hb ▸ abortOwn_of_member hm hbun h1 h5),
      fun h => leaves_of_effect rfl (hb ▸ abortOwn_of_other h)⟩,
    fun s d hd => ⟨fun t ht hroot hle => leaves_of_effect rfl ((bundleTimeout_of_report hd ht).trans (if_pos ⟨hroot, hle⟩)),
      fun h => leaves_of_effect rfl (bundleTimeout_of_other hd h)⟩⟩
  · have hpu : ∀ k, past k ↔ look u.img.drainAt k 0 ≠ 0 ∧ look u.img.drainAt k 0 ≤ u.ft + 1 := by rw [hu]; exact hp
    exact ⟨fun h h32 => leaves_of_effect rfl (fire_on hon hf hu hk (drainDue_of_lifted hn hpu h h32)),
      fun rs h hrs => leaves_of_effect rfl (fire_on hon hf hu hk (drainDue_of_past hn hpu h (by rw [hu]; exact hrs)))⟩
  · have hready := firmwareReloaded_of_ready hr h4 h5 hon hbulk hu
    have hconf : u.conf = s.conf := by rw [hu]; rfl
    exact ⟨fun h => leaves_of_effect rfl (hready.trans (if_neg (by rw [Option.isNone_iff_eq_none]; exact Option.isSome_iff_ne_none.1 h))),
      fun h => leaves_of_effect rfl (hready.trans (if_pos (by simpa using h)))⟩

end Sys2Proof.Proofs
end

section
namespace Sys2Proof.Proofs
open Sys2Proof Sys2Proof.Machine Sys2Proof.Safety Sys2Proof.Laws

set_option Elab.async false

variable {s u : State} {c : Nat}

/-! ### What every command of the security module meets (R592, R593, R597) -/

section Command
variable {i : Instr} {role : Session → Bool} {act : State → State}

theorem secmCmd_of_busy (h : (sess s c).busy = true) : secmCmd c i role act s = modSess c (fun x => { x with status := 9 }) s := if_pos h

section Idle
variable (hb : (sess s c).busy = false)
include hb

theorem secmCmd_of_error (h : s.secm.st = 2) : secmCmd c i role act s = secmEnd c 10 s := by
  unfold secmCmd
  dsimp only
  rw [hb, h, if_neg Bool.false_ne_true, if_pos rfl]

theorem secmCmd_of_unreleased (h : s.secm.st = 0) : secmCmd c i role act s = secmEnd c 9 s := by
  unfold secmCmd
  dsimp only
  rw [hb, h, if_neg Bool.false_ne_true, if_neg (by decide), if_pos rfl]

theorem secmCmd_of_erasing (h : s.secm.st = 3) : secmCmd c i role act s = modSess c (fun x => { x with busy := true, queued := some i }) s := by
  unfold secmCmd
  dsimp only
  rw [hb, h, if_neg Bool.false_ne_true, if_neg (by decide), if_neg (by decide), if_pos rfl]

end Idle

section Listening
variable (hl : Listens s c)
include hl

theorem secmCmd_of_listens : secmCmd c i role act s = if role (sess s c) then act (heard c s) else secmEnd c 2 (heard c s) := by
  obtain ⟨hb, h⟩ := hl
  unfold secmCmd
  dsimp only
  rw [hb, h, if_neg Bool.false_ne_true, if_neg (by decide), if_neg (by decide), if_neg (by decide)]
  rfl

theorem secmCmd_of_role (hr : role (sess s c) = true) : secmCmd c i role act s = act (heard c s) := (secmCmd_of_listens hl).trans (if_pos hr)

theorem secmCmd_of_no_role (hr : role (sess s c) = false) : secmCmd c i role act s = secmEnd c 2 (heard c s) :=
  (secmCmd_of_listens hl).trans (if_neg (ne_true_of_eq_false hr))

end Listening
end Command

/-- The commands of channel `c`. -/
def IsSecm (c : Nat) (i : Instr) : Prop :=
  i = .secmStatus c ∨ (∃ f, i = .selftest c f) ∨ i = .authChallenge c ∨ i = .authResponse c ∨ i = .logout c ∨ i = .attest c ∨ i = .random c ∨
    i = .provisionSlot c ∨ i = .clearSlot c ∨ i = .lcProvision c ∨ i = .lcAdvance c ∨ i = .ctrRaise c ∨ i = .debugUnlock c ∨ i = .zeroise c

/-- The role that a command asks for (R593). -/
def roleOf : Instr → Session → Bool
  | .logout _ | .attest _ | .random _ => anyRole
  | .provisionSlot _ | .clearSlot _ | .lcAdvance _ | .ctrRaise _ | .debugUnlock _ => coRole
  | _ => noRole

/-- Every command of the module is taken through `secmCmd` with its own role. -/
theorem exec_secm {i : Instr} (hc : c < 2) (hi : IsSecm c i) (s : State) :
    i.wf = true ∧ ∃ act, exec i s = run i s (secmCmd c i (roleOf i) act s) := by
  rcases hi with rfl | ⟨f, rfl⟩ | rfl | rfl | rfl | rfl | rfl | rfl | rfl | rfl | rfl | rfl | rfl | rfl <;> exact ⟨decide_eq_true hc, _, rfl⟩

theorem roleOf_session {i : Instr} {x : Session} (hi : i = .logout c ∨ i = .attest c ∨ i = .random c) (h : x.role = 0) : roleOf i x = false := by
  rcases hi with rfl | rfl | rfl <;> simp [roleOf, anyRole, h]

theorem roleOf_officer {i : Instr} {x : Session} (hi : i = .provisionSlot c ∨ i = .clearSlot c ∨ i = .lcAdvance c ∨ i = .ctrRaise c ∨ i = .debugUnlock c)
    (h : x.role ≠ 2) : roleOf i x = false := by
  rcases hi with rfl | rfl | rfl | rfl | rfl <;> simp [roleOf, coRole, h]

theorem isSecm_session {i : Instr} (hi : i = .logout c ∨ i = .attest c ∨ i = .random c) : IsSecm c i := by
  unfold IsSecm
  tauto

theorem anyRole_of {x : Session} (h : x.role ≠ 0) : anyRole x = true := bne_iff_ne.2 h
theorem coRole_of {x : Session} (h : x.role = 2) : coRole x = true := beq_iff_eq.2 h

/-! ### Sessions, reports and random bytes (R593 to R596, R607 to R610) -/

section Answers
variable (hl : Listens s c)
include hl

theorem authChallenge_of_listens : authChallenge c s = secmAnswer c (drbgBytes 48 (heard c s)).1
    (modSess c (fun x => { x with challenge := some ((drbgBytes 48 (heard c s)).1, s.ft) }) (drbgBytes 48 (heard c s)).2) :=
  (secmCmd_of_role hl rfl).trans rfl

theorem selftest_of_pass : selftest c none s = secmEnd c 0 (logC 0x1401 [] (heard c s)) := secmCmd_of_role hl rfl

/-- A module that takes commands is past its power-on tests: a failing test is cause 6. -/
theorem selftest_of_fail {t : Nat} : selftest c (some t) s = selfTamper (logC 0x1402 [t] (heard c s)) := by
  have hst : (logC 0x1402 [t] (heard c s)).secm.st = 1 := by simp [logC, heard, hl.2]
  refine (secmCmd_of_role hl rfl).trans (if_neg ?_)
  rintro ⟨-, h0, -⟩
  exact absurd (hst.symm.trans h0) (by decide)

theorem secmStatus_of_listens : secmStatus c s =
    secmAnswer c (leBytes 768 (fresh (heard c s)).1) (modSecm (fun m => { m with dak := true, dtk := true }) (fresh (heard c s)).2) :=
  (secmCmd_of_role hl rfl).trans rfl

theorem logout_of_session (hr : (sess s c).role ≠ 0) : logout c s = secmEnd c 0 (endSession c (heard c s)) := secmCmd_of_role hl (anyRole_of hr)

theorem attest_of_session (hr : (sess s c).role ≠ 0) {b : Bytes} (hb : b = reportBytes (heard c s) ((secmArg (heard c s) c).take 48)) :
    attest c s = if s.secm.lc = 1 ∨ s.secm.lc = 15 then secmEnd c 6 (heard c s)
      else secmAnswer c (b ++ fit 96 (Config.ecdsaSign 0 (Config.sha384 b) s.secm.draws))
        (modSecm (fun m => { m with dak := true, dtk := true, draws := m.draws + 1, requests := m.requests + 1 }) (heard c s)) := by
  subst hb
  exact (secmCmd_of_role hl (anyRole_of hr)).trans rfl

theorem random_of_session (hr : (sess s c).role ≠ 0) {n : Nat} (hn : n = u16 (secmArg (heard c s) c) 0) :
    random c s = if n = 0 ∨ 512 < n then secmEnd c 5 (heard c s)
      else secmAnswer c (drbgBytes n (reseed (heard c s))).1 (drbgBytes n (reseed (heard c s))).2 := by
  subst hn
  exact (secmCmd_of_role hl (anyRole_of hr)).trans rfl

end Answers

/-- A value that is there, still good and right. -/
theorem verdict_iff {α : Type} {o : Option α} {good right : α → Bool} :
    ((o.filter good).map right).getD false = true ↔ ∃ x, o = some x ∧ good x = true ∧ right x = true := by
  cases o with
  | none => simp
  | some x => by_cases h : good x <;> simp [Option.filter, h]

/-- An officer's identity or a user's. -/
theorem identity_known {id : Nat} (hin : id < 4 ∨ (16 ≤ id ∧ id < 24)) : ¬(!(decide (id < 4) || decide (16 ≤ id ∧ id < 24))) = true := by
  simp only [Bool.not_eq_true', Bool.or_eq_false_iff, decide_eq_false_iff_not]
  omega

section Response
variable {arg : Bytes} {id : Nat} (hl : Listens s c) (harg : arg = secmArg (heard c s) c) (hid : id = u8 arg 0)
  (hu : u = modSess c (fun x => { x with challenge := none }) (heard c s))
include hl harg hid hu

theorem authResponse_of_no_identity (h : 4 ≤ id ∧ id < 16 ∨ 24 ≤ id) : authResponse c s = secmEnd c 5 u := by
  subst hu hid harg
  refine (secmCmd_of_role hl rfl).trans (if_pos ?_)
  simp only [Bool.not_eq_true', Bool.or_eq_false_iff, decide_eq_false_iff_not]
  omega

variable (hin : id < 4 ∨ (16 ≤ id ∧ id < 24))
include hin

theorem authResponse_of_locked (h : s.secm.locked.contains id = true) : authResponse c s = secmEnd c 4 (logC 0x1405 [] u) := by
  subst hu hid harg
  exact (secmCmd_of_role hl rfl).trans ((if_neg (identity_known hin)).trans (if_pos h))

theorem authResponse_of_unlocked (h : s.secm.locked.contains id = false) {ok : Bool}
    (hok : ok = true ↔ ∃ b t, (sess (heard c s) c).challenge = some (b, t) ∧ s.ft ≤ t + us 1000000 ∧ authOk u c id arg b = true)
    {n : Nat} (hn : n = look s.secm.fails id 0 + 1) :
    authResponse c s = if ok then secmEnd c 0 (modSess c (fun x => { x with role := if id < 4 then 2 else 1, ident := id, rsp := [] })
        (modSecm (fun m => { m with fails := put m.fails id 0 0 }) u))
      else secmEnd c 3 (logC 0x1404 [id, n] (bumpSat 0x00040050 (modSecm (fun m => { m with
        fails := put m.fails id n 0, locked := if n = 16 then m.locked ++ [id] else m.locked }) u))) := by
  have hverdict : (((sess (heard c s) c).challenge.filter (fun x => decide (s.ft ≤ x.2 + us 1000000))).map (fun x => authOk u c id arg x.1)).getD false = ok := by
    rw [Bool.eq_iff_iff, verdict_iff, hok]
    constructor
    · rintro ⟨⟨b, t⟩, hb, ht, ha⟩
      exact ⟨b, t, hb, of_decide_eq_true ht, ha⟩
    · rintro ⟨b, t, hb, ht, ha⟩
      exact ⟨(b, t), hb, decide_eq_true ht, ha⟩
  subst hverdict hu hid harg hn
  exact (secmCmd_of_role hl rfl).trans ((if_neg (identity_known hin)).trans ((if_neg (ne_true_of_eq_false h)).trans rfl))

end Response

theorem sessionTimeout_of_due (hr : (sess s c).role ≠ 0) (ht : (sess s c).last + us 60000000 ≤ s.ft) : sessionTimeout c s = endSession c s :=
  if_pos ⟨hr, ht⟩

theorem sessionTimeout_of_other (h : (sess s c).role = 0 ∨ s.ft < (sess s c).last + us 60000000) : sessionTimeout c s = s :=
  if_neg fun ⟨hr, ht⟩ => h.elim hr fun hlt => absurd ht (not_le.2 hlt)

/-- The reseed is due after 1,048,576 requests or a second (R609). -/
abbrev ReseedDue (s : State) : Prop := s.secm.drbg = true ∧ (1048576 ≤ s.secm.requests ∨ s.secm.reseedAt + us 1000000 ≤ s.ft)

theorem not_reseedDue (h : s.secm.drbg = false ∨ (s.secm.requests < 1048576 ∧ s.ft < s.secm.reseedAt + us 1000000)) : ¬ ReseedDue s := by
  rintro ⟨hd, hr⟩
  rcases h with h | ⟨h1, h2⟩
  · simp [hd] at h
  · exact hr.elim (not_le.2 h1) (not_le.2 h2)

/-- Settles O46: what every command meets, then each session command's answer by role, lifecycle and argument. -/
theorem secmSessionsAndAnswers : Obligations.SecmSessionsAndAnswers := by
  unfold Obligations.SecmSessionsAndAnswers
  refine ⟨fun s c i hc hi => ?_, fun s c hc hl => ?_, fun s c arg id u ok hc hl harg hid hu hok => ?_,
    fun s c hc hl hr => leaves_of_effect (decide_eq_true hc) (logout_of_session hl hr), fun s c hc => ?_, fun s c b hc hl hr hb => ?_,
    fun s c n hc hl hr hn => ?_, fun s => ?_⟩
  · obtain ⟨hwf, act, hexec⟩ := exec_secm hc hi s
    have takes {t : State} (h : secmCmd c i (roleOf i) act s = t) : Leaves i s t := leaves_of_effect hwf h hexec
    exact ⟨fun h => takes (secmCmd_of_busy h), fun hb h => takes (secmCmd_of_error hb h), fun hb h => takes (secmCmd_of_unreleased hb h),
      fun hb h => takes (secmCmd_of_erasing hb h), fun hl hr h => takes (secmCmd_of_no_role hl (roleOf_session h hr)),
      fun hl hr h => takes (secmCmd_of_no_role hl (roleOf_officer h hr))⟩
  · exact ⟨leaves_of_effect (decide_eq_true hc) (authChallenge_of_listens hl), leaves_of_effect (decide_eq_true hc) (selftest_of_pass hl),
      fun t _ => leaves_of_effect (decide_eq_true hc) (selftest_of_fail hl), leaves_of_effect (decide_eq_true hc) (secmStatus_of_listens hl)⟩
  · exact ⟨fun h => leaves_of_effect (decide_eq_true hc) (authResponse_of_no_identity hl harg hid hu h),
      fun hin h => leaves_of_effect (decide_eq_true hc) (authResponse_of_locked hl harg hid hu hin h),
      fun n hin h hn => leaves_of_effect (decide_eq_true hc) (authResponse_of_unlocked hl harg hid hu hin h hok hn)⟩
  · exact ⟨fun hr ht => leaves_of_effect (decide_eq_true hc) (sessionTimeout_of_due hr ht),
      fun h => leaves_of_effect (decide_eq_true hc) (sessionTimeout_of_other h)⟩
  · have hattest := attest_of_session hl hr hb
    exact ⟨fun h => leaves_of_effect (decide_eq_true hc) (hattest.trans (if_pos h)),
      fun h1 h15 => leaves_of_effect (decide_eq_true hc) (hattest.trans (if_neg (not_or.2 ⟨h1, h15⟩)))⟩
  · have hrandom := random_of_session hl hr hn
    exact ⟨fun h => leaves_of_effect (decide_eq_true hc) (hrandom.trans (if_pos h)),
      fun h1 h512 => leaves_of_effect (decide_eq_true hc) (hrandom.trans (if_neg (by omega)))⟩
  · exact ⟨fun hd h => leaves_of_effect rfl (if_pos (c := ReseedDue s) ⟨hd, h⟩), fun h => leaves_of_effect rfl (if_neg (not_reseedDue h)),
      fun k n hd hn => by subst hn; exact leaves_of_effect rfl (if_pos hd), fun k hd => leaves_of_effect rfl (if_neg (ne_true_of_eq_false hd))⟩

end Sys2Proof.Proofs
end

section
namespace Sys2Proof.Proofs
open Sys2Proof Sys2Proof.Machine Sys2Proof.Safety Sys2Proof.Laws

set_option Elab.async false

variable {s u : State} {c : Nat} {a : Bytes}

/-! ### Counters (R605, R606) -/

section Raise
variable {kind k v : Nat} (hk : k = kind - 1)
include hk

theorem raiseCtr_of_low (h : v ≤ look s.secm.ctr k 0) : raiseCtr kind v s = (5, s) := by
  subst hk
  exact if_pos h

theorem raiseCtr_of_spent (h : look s.secm.ctr k 0 < v) (hmax : 4096 ≤ look s.secm.ctrUse k 0) : raiseCtr kind v s = (8, logC 0x1406 [kind] s) := by
  subst hk
  exact (if_neg (not_le.2 h)).trans (if_pos hmax)

theorem raiseCtr_of_room (h : look s.secm.ctr k 0 < v) (hmax : look s.secm.ctrUse k 0 < 4096) :
    raiseCtr kind v s = (0, logC 0x1407 [kind, v] (nvPulse s
      (modSecm (fun m => { m with ctr := put m.ctr k v 0, ctrUse := put m.ctrUse k (look m.ctrUse k 0 + 1) 0 }) s))) := by
  subst hk
  exact (if_neg (not_le.2 h)).trans (if_neg (not_le.2 hmax))

end Raise

/-! ### Keys and the lifecycle (R589 to R591, R600, R601, R615) -/

section Taken
variable (hl : Listens s c) (hu : u = heard c s) (ha : a = secmArg u c)
include hl hu

theorem zeroiseCmd_of_listens : zeroiseCmd c s = zeroiseFor c 1 1 u := by
  subst hu
  exact secmCmd_of_role hl rfl

section Provision

theorem lcProvision_of_state (h : s.secm.lc ≠ 1) : lcProvision c s = secmEnd c 6 u := by
  subst hu
  exact (secmCmd_of_role hl rfl).trans (if_pos h)

include ha
variable (h : s.secm.lc = 1)
include h

theorem lcProvision_of_count (hn : u8 a 0 = 0 ∨ 4 < u8 a 0) : lcProvision c s = secmEnd c 5 u := by
  subst ha hu
  exact (secmCmd_of_role hl rfl).trans ((if_neg (not_not.2 h)).trans (if_pos hn))

theorem lcProvision_of_no_bank (h1 : 1 ≤ u8 a 0) (h4 : u8 a 0 ≤ 4) (hb : 2 ≤ s.secm.banks.length) :
    lcProvision c s = secmEnd c 8 (logC 0x1411 [] u) := by
  have hn : ¬(u8 a 0 = 0 ∨ 4 < u8 a 0) := by omega
  subst ha hu
  exact (secmCmd_of_role hl rfl).trans ((if_neg (not_not.2 h)).trans ((if_neg hn).trans (if_pos hb)))

theorem lcProvision_of_bank (h1 : 1 ≤ u8 a 0) (h4 : u8 a 0 ≤ 4) (hb : s.secm.banks.length < 2) :
    lcProvision c s = secmEnd c 0 (logC 0x1408 [3] (nvPulse u
      (modSecm (fun m => { m with banks := m.banks ++ [((List.range (u8 a 0)).map (fun i => slice a (1 + 48 * i) 48), true)], lc := 3 }) u))) := by
  have hn : ¬(u8 a 0 = 0 ∨ 4 < u8 a 0) := by omega
  subst ha hu
  exact (secmCmd_of_role hl rfl).trans ((if_neg (not_not.2 h)).trans ((if_neg hn).trans (if_neg (not_le.2 hb))))

end Provision

section Officer
variable (hr : (sess s c).role = 2)
include hr

theorem debugUnlock_of_officer : debugUnlock c s = if s.secm.lc = 7 then zeroiseFor c 3 3 u else secmEnd c 0 (openDebug u) := by
  subst hu
  exact secmCmd_of_role hl (coRole_of hr)

theorem provisionSlot_of_state (h3 : s.secm.lc ≠ 3) (h7 : s.secm.lc ≠ 7) : provisionSlot c s = secmEnd c 6 u := by
  subst hu
  exact (secmCmd_of_role hl (coRole_of hr)).trans (if_pos ⟨h3, h7⟩)

include ha

theorem lcAdvance_of_officer : lcAdvance c s =
    if s.secm.lc = 3 ∧ u8 a 0 = 7 then secmEnd c 0 (logC 0x1408 [7] (nvPulse u (modSecm (fun m => { m with lc := 7 }) u)))
    else if (s.secm.lc = 3 ∨ s.secm.lc = 7) ∧ u8 a 0 = 15 then zeroiseFor c 2 4 u
    else secmEnd c 6 u := by
  subst ha hu
  exact secmCmd_of_role hl (coRole_of hr)

theorem clearSlot_of_officer : clearSlot c s = if 2 < u8 a 0 ∨ 7 < u8 a 1 ∨ (u8 a 0 = 0 ∧ u8 a 1 = 0) then secmEnd c 5 u
    else secmEnd c 0 (logC 0x140B [] (setSlot (u8 a 0) (u8 a 1) [] u)) := by
  subst ha hu
  exact secmCmd_of_role hl (coRole_of hr)

theorem ctrRaise_of_kind (h : u8 a 0 = 0 ∨ 5 < u8 a 0) : ctrRaise c s = secmEnd c 5 u := by
  subst ha hu
  exact (secmCmd_of_role hl (coRole_of hr)).trans (if_pos h)

theorem ctrRaise_of_raise (h1 : 1 ≤ u8 a 0) (h5 : u8 a 0 ≤ 5) {st : Nat} {t : State} (hraise : raiseCtr (u8 a 0) (u32 a 4) u = (st, t)) :
    ctrRaise c s = secmEnd c st t := by
  have hn : ¬(u8 a 0 = 0 ∨ 5 < u8 a 0) := by omega
  subst ha hu
  refine (secmCmd_of_role hl (coRole_of hr)).trans ((if_neg hn).trans ?_)
  rw [hraise]

section Slot
variable (hlc : s.secm.lc = 3 ∨ s.secm.lc = 7)
include hlc

theorem provisionSlot_of_place (h : 2 < u8 a 0 ∨ 7 < u8 a 1 ∨ (u8 a 0 = 0 ∧ u8 a 1 = 0)) : provisionSlot c s = secmEnd c 5 u := by
  have hstate : ¬(s.secm.lc ≠ 3 ∧ s.secm.lc ≠ 7) := by omega
  subst ha hu
  exact (secmCmd_of_role hl (coRole_of hr)).trans ((if_neg hstate).trans (if_pos h))

variable (h2 : u8 a 0 ≤ 2) (h7 : u8 a 1 ≤ 7) (h0 : u8 a 0 ≠ 0 ∨ u8 a 1 ≠ 0)
include h2 h7 h0

omit hlc in
theorem provisionSlot_of_used (hd : s.secm.lc = 7) (hs : (slotOfType s (u8 a 0) (u8 a 1)).isEmpty = false) : provisionSlot c s = secmEnd c 7 u := by
  have hstate : ¬(s.secm.lc ≠ 3 ∧ s.secm.lc ≠ 7) := by omega
  have hplace : ¬(2 < u8 a 0 ∨ 7 < u8 a 1 ∨ (u8 a 0 = 0 ∧ u8 a 1 = 0)) := by omega
  subst ha hu
  exact (secmCmd_of_role hl (coRole_of hr)).trans ((if_neg hstate).trans ((if_neg hplace).trans (if_pos ⟨hd, congrArg not hs⟩)))

theorem provisionSlot_of_key (hd : s.secm.lc = 7 → (slotOfType s (u8 a 0) (u8 a 1)).isEmpty = true) {key : Option Bytes}
    (hkey : key = if u8 a 0 = 0 then some (slice a 2 96) else Config.kwUnwrap
      (Config.derive 3 (slice a 2 96 ++ [BitVec.ofNat 8 (u8 a 0), BitVec.ofNat 8 (u8 a 1)])) (slice a 98 (if u8 a 0 = 1 then 40 else 56))) :
    provisionSlot c s = key.elim (secmEnd c 5 u) (fun v =>
      secmEnd c 0 (logC 0x140B [] (setSlot (u8 a 0) (u8 a 1) v (modSecm (fun m => { m with ksk := true, dtk := m.dtk || u8 a 0 != 0 }) u)))) := by
  have hstate : ¬(s.secm.lc ≠ 3 ∧ s.secm.lc ≠ 7) := by omega
  have hplace : ¬(2 < u8 a 0 ∨ 7 < u8 a 1 ∨ (u8 a 0 = 0 ∧ u8 a 1 = 0)) := by omega
  have hfree : ¬(s.secm.lc = 7 ∧ !(slotOfType s (u8 a 0) (u8 a 1)).isEmpty) := by
    rintro ⟨h, hs⟩
    rw [hd h] at hs
    contradiction
  subst ha hu
  refine (secmCmd_of_role hl (coRole_of hr)).trans ((if_neg hstate).trans ((if_neg hplace).trans ((if_neg hfree).trans ?_)))
  dsimp only
  rw [← hkey]
  cases key <;> rfl

end Slot
end Officer
end Taken

/-- Settles O47: each key, lifecycle, counter and debug command by the lifecycle state and its argument. -/
theorem secmKeysAndLifecycle : Obligations.SecmKeysAndLifecycle := by
  unfold Obligations.SecmKeysAndLifecycle
  intro s c a u hc hl hu ha
  have provisions {t : State} (h : provisionSlot c s = t) : Leaves (.provisionSlot c) s t := leaves_of_effect (decide_eq_true hc) h
  have advances {t : State} (h : lcAdvance c s = t) : Leaves (.lcAdvance c) s t := leaves_of_effect (decide_eq_true hc) h
  refine ⟨fun h => leaves_of_effect (decide_eq_true hc) (lcProvision_of_state hl hu h),
    fun h hn => leaves_of_effect (decide_eq_true hc) (lcProvision_of_count hl hu ha h hn),
    fun h h1 h4 hb => leaves_of_effect (decide_eq_true hc) (lcProvision_of_no_bank hl hu ha h h1 h4 hb),
    fun h h1 h4 hb => leaves_of_effect (decide_eq_true hc) (lcProvision_of_bank hl hu ha h h1 h4 hb),
    leaves_of_effect (decide_eq_true hc) (zeroiseCmd_of_listens hl hu), fun hr => ?_⟩
  have hadvance := lcAdvance_of_officer hl hu ha hr
  have hclear := clearSlot_of_officer hl hu ha hr
  have hdebug := debugUnlock_of_officer hl hu hr
  refine ⟨fun h3 h7 => ⟨provisions (provisionSlot_of_state hl hu hr h3 h7),
      advances (hadvance.trans ((if_neg fun h => h3 h.1).trans (if_neg fun h => h.1.elim h3 h7)))⟩,
    fun hlc h => provisions (provisionSlot_of_place hl hu ha hr hlc h),
    fun h h2 h7 h0 hs => provisions (provisionSlot_of_used hl hu ha hr h2 h7 h0 h hs),
    fun key hlc h2 h7 h0 hkey => provisions (provisionSlot_of_key hl hu ha hr (hlc.imp id And.left) h2 h7 h0 (fun h => ?_) hkey),
    fun h => leaves_of_effect (decide_eq_true hc) (hclear.trans (if_pos h)),
    fun h2 h7 h0 => leaves_of_effect (decide_eq_true hc) (hclear.trans (if_neg (by omega))),
    fun h3 h => advances (hadvance.trans (if_pos ⟨h3, h⟩)),
    fun hlc h => advances (hadvance.trans ((if_neg (by omega)).trans (if_pos ⟨hlc, h⟩))),
    fun h3 h7 h15 => advances (hadvance.trans ((if_neg fun h => h7 h.2).trans (if_neg fun h => h15 h.2))),
    fun h7 h15 => advances (hadvance.trans ((if_neg (by omega)).trans (if_neg fun h => h15 h.2))),
    fun h => leaves_of_effect (decide_eq_true hc) (ctrRaise_of_kind hl hu ha hr h), fun k h1 h5 hk => ?_,
    fun h => leaves_of_effect (decide_eq_true hc) (hdebug.trans (if_pos h)), fun h => leaves_of_effect (decide_eq_true hc) (hdebug.trans (if_neg h))⟩
  · rcases hlc with h3 | ⟨-, hs⟩
    · exact absurd (h3.symm.trans h) (by decide)
    · exact hs
  · have hsecm : u.secm.ctr = s.secm.ctr ∧ u.secm.ctrUse = s.secm.ctrUse := by
      subst hu
      exact ⟨rfl, rfl⟩
    have raises {st : Nat} {t : State} (h : raiseCtr (u8 a 0) (u32 a 4) u = (st, t)) : Leaves (.ctrRaise c) s (secmEnd c st t) :=
      leaves_of_effect (decide_eq_true hc) (ctrRaise_of_raise hl hu ha hr h1 h5 h)
    rw [← hsecm.1, ← hsecm.2]
    exact ⟨fun h => raises (raiseCtr_of_low hk h), fun h hmax => raises (raiseCtr_of_spent hk h hmax), fun h hmax => raises (raiseCtr_of_room hk h hmax)⟩

end Sys2Proof.Proofs
end

section
namespace Sys2Proof.Proofs
open Sys2Proof Sys2Proof.Machine Sys2Proof.Safety Sys2Proof.Laws

set_option Elab.async false

variable {s u v : State}

/-! ### Tamper, self-tests and the erase (R563, R591, R611 to R618) -/

section Tamper
variable {k : Nat}

theorem tamperDetect_of_none (h : k = 0 ∨ k = 7 ∨ (k = 5 ∧ bit (rd s 0x00040048) 0 = false)) : tamperDetect k s = s := by
  refine if_pos ?_
  rcases h with h | h | ⟨h, hb⟩
  · exact Or.inl h
  · exact Or.inr (Or.inl (by omega))
  · exact Or.inr (Or.inr ⟨h, congrArg not hb⟩)

theorem tamperDetect_of_self (h : k = 6) : tamperDetect k s = selfTamper s := by
  subst h
  exact (if_neg (by simp)).trans (if_pos rfl)

theorem tamperDetect_of_cause (h1 : 1 ≤ k) (h : k ≤ 4 ∨ (k = 5 ∧ bit (rd s 0x00040048) 0 = true))
    (hu : u = if s.rst.nvUntil.isSome then modRst (fun r => { r with nvHeld := r.nvHeld ||| 0x400#13 }) s else s) :
    tamperDetect k s = modSecm (fun m => { m with tamperWait := some k }) (zeroise 2 (tamperMark k u)) := by
  have hcause : ¬(k = 0 ∨ 6 < k ∨ (k = 5 ∧ !bit (rd s 0x00040048) 0)) := by
    rintro (h' | h' | ⟨h', hb⟩)
    · omega
    · omega
    · rcases h with h | ⟨-, h⟩
      · omega
      · simp [h] at hb
  subst hu
  exact (if_neg hcause).trans (if_neg (by omega))

end Tamper

theorem selftestFail_of_conditional {t : Nat} : selftestFail t true s = selfTamper (logC 0x1403 [] s) := by
  simp [selftestFail]

section PowerOn
variable {t : Nat} (hu : u = logC 0x1402 [t] s)
include hu

theorem selftestFail_of_again (hst : u.secm.st = 0) (hb : bit u.rst.causes.toNat 10 = true) (hc : u.secm.tamperCause = 6) :
    selftestFail t false s = modSecm (fun m => { m with st := 2 }) u := by
  subst hu
  exact if_pos ⟨rfl, hst, hb, hc⟩

theorem selftestFail_of_first (h : u.secm.st ≠ 0 ∨ bit u.rst.causes.toNat 10 = false ∨ u.secm.tamperCause ≠ 6) :
    selftestFail t false s = selfTamper u := by
  subst hu
  refine if_neg ?_
  rintro ⟨-, hst, hb, hc⟩
  rcases h with h | h | h
  · exact h hst
  · exact ne_true_of_eq_false h hb
  · exact h hc

end PowerOn

theorem eraseComplete_of_none (h : s.secm.erasing = none ∨ s.rst.nvUntil.isSome = true) : eraseComplete s = s :=
  if_pos (h.imp Option.isNone_iff_eq_none.2 id)

/-- What the command that asked for the erase does when it is over. -/
def endErase (after : Option (Nat × Nat)) (s : State) : State :=
  match after with
  | some (2, c) => secmEnd c 0 (logC 0x1408 [0xF] (nvPulse s (modSecm (fun m => { m with lc := 0xF, hukGone := true }) s)))
  | some (3, c) => secmEnd c 0 (openDebug s)
  | some (_, c) => secmEnd c 0 s
  | none => s

theorem endErase_eq {after : Option (Nat × Nat)} (h : after = none ∧ v = u ∨
      (∃ c, after = some (2, c) ∧ v = secmEnd c 0 (logC 0x1408 [15] (nvPulse u (modSecm (fun m => { m with lc := 15, hukGone := true }) u)))) ∨
      (∃ c, after = some (3, c) ∧ v = secmEnd c 0 (openDebug u)) ∨
      (∃ w c, after = some (w, c) ∧ w ≠ 2 ∧ w ≠ 3 ∧ v = secmEnd c 0 u)) : endErase after u = v := by
  rcases h with ⟨rfl, rfl⟩ | ⟨c, rfl, rfl⟩ | ⟨c, rfl, rfl⟩ | ⟨w, c, rfl, h2, h3, rfl⟩
  · rfl
  · rfl
  · rfl
  · rw [endErase]
    · rintro ⟨⟩
      exact h2 rfl
    · rintro ⟨⟩
      exact h3 rfl

section Erase
variable (he : s.secm.erasing.isSome = true) (hnv : s.rst.nvUntil = none)
  (hv : v = endErase s.secm.after (modSecm (fun m => { m with wrap := [], user := [], erasing := none, erasePending := false, after := none, st := 1 }) s))
include he hnv hv

/-- With the erase over and no pulse running, the command is ended and what waits goes on. -/
theorem eraseComplete_of_over : eraseComplete s =
    match v.secm.tamperWait with
    | some _ =>
      let s := modSecm (fun m => { m with tamperWait := none }) v
      if bit s.rst.nvHeld.toNat 10 ∧ s.rst.nvUntil.isNone then takeHeld s.rst.nvHeld.toNat (modRst (fun r => { r with nvHeld := 0 }) s)
      else takeReset 10 s
    | none => runKept 1 (runKept 0 v) := by
  subst hv
  refine (if_neg ?_).trans (by rfl)
  rw [hnv]
  simp [Option.isSome_iff_ne_none.1 he]

theorem eraseComplete_of_kept (h : v.secm.tamperWait = none) : eraseComplete s = runKept 1 (runKept 0 v) := by
  rw [eraseComplete_of_over he hnv hv, h]

theorem eraseComplete_of_tamper {k : Nat} (h : v.secm.tamperWait = some k) {w : State} (hw : w = modSecm (fun m => { m with tamperWait := none }) v) :
    eraseComplete s = if bit w.rst.nvHeld.toNat 10 ∧ w.rst.nvUntil.isNone then takeHeld w.rst.nvHeld.toNat (modRst (fun r => { r with nvHeld := 0 }) w)
      else takeReset 10 w := by
  rw [eraseComplete_of_over he hnv hv, h, hw]

end Erase

/-- Settles O48: tamper causes, failing tests, and what goes on when the erase is over. -/
theorem tamperAndErase : Obligations.TamperAndErase := by
  unfold Obligations.TamperAndErase
  refine ⟨fun s k hk => ⟨fun h => leaves_of_effect (decide_eq_true hk) (tamperDetect_of_none h),
      fun h => leaves_of_effect (decide_eq_true hk) (tamperDetect_of_self h), fun u h1 h hu => leaves_of_effect (decide_eq_true hk) (tamperDetect_of_cause h1 h hu)⟩,
    fun s t ht => ⟨leaves_of_effect (decide_eq_true ht) selftestFail_of_conditional, fun u hu =>
      ⟨fun hst hb hc => leaves_of_effect (decide_eq_true ht) (selftestFail_of_again hu hst hb hc),
        fun h => leaves_of_effect (decide_eq_true ht) (selftestFail_of_first hu h)⟩⟩,
    fun s h => leaves_of_effect rfl (eraseComplete_of_none h), fun s u v he hnv hu hafter => ?_⟩
  have hv : v = endErase s.secm.after (modSecm (fun m => { m with wrap := [], user := [], erasing := none, erasePending := false, after := none, st := 1 }) s) :=
    (hu ▸ endErase_eq hafter).symm
  refine ⟨fun h => leaves_of_effect rfl (eraseComplete_of_kept he hnv hv h), fun k w h hw => ?_⟩
  have htamper := eraseComplete_of_tamper he hnv hv h hw
  exact ⟨fun hb hn => leaves_of_effect rfl (htamper.trans (if_pos ⟨hb, Option.isNone_iff_eq_none.2 hn⟩)),
    fun hor => leaves_of_effect rfl (htamper.trans (if_neg (by rintro ⟨hb, hn⟩; rw [Option.isNone_iff_eq_none.1 hn, hb] at hor; simp at hor)))⟩

/-! ### HALT_OUT and the trouble log (R538, R539, R544, R545) -/

theorem haltEnWrite_eq {w : Word} {t : State} {m : Nat} (ht : t = wr rHaltEn (w.toNat % 2 ^ 24 ||| 0x43) s)
    (hm : m = ((rd t rHaltEn % 256 - (rd t rHaltEn &&& rd s rHaltEn) % 256) &&& haltInForce t)) :
    haltEnWrite w s = if m = 0 then t else haltAssert m t := by
  subst ht hm
  rfl

theorem haltCtlClear_of_done (h : haltInForce s &&& rd s rHaltEn % 256 = 0) (hst : s.img.st = 6) :
    haltCtlClear s = emit (.halt false) (wrf rHaltStat 8 0 0 s) :=
  if_neg (not_or.2 ⟨not_not.2 h, not_not.2 hst⟩)

theorem haltCtlClear_of_refused (h : s.img.st ≠ 6 ∨ haltInForce s &&& rd s rHaltEn % 256 ≠ 0) : haltCtlClear s = setBit rHaltCtl 2 s :=
  if_pos h.symm

section Head
variable {w : Word} {k : Nat} (hk : k = (w.toNat % 2048 + 2048 - s.log.head) % 2048)
include hk

theorem logHeadWrite_of_unread (h : k ≤ s.log.unread) :
    logHeadWrite w s = { s with log := { s.log with head := w.toNat % 2048, unread := s.log.unread - k } } := by
  subst hk
  exact if_neg (not_lt.2 h)

theorem logHeadWrite_of_beyond (h : s.log.unread < k) : logHeadWrite w s = s := by
  subst hk
  exact if_pos h

end Head

theorem logUnfreeze_of_frozen (h : s.log.frozen = true) : logUnfreeze s = logC 0x1502 [] { s with log := { s.log with frozen := false } } := if_pos h
theorem logUnfreeze_of_running (h : s.log.frozen = false) : logUnfreeze s = s := if_neg (ne_true_of_eq_false h)

/-- Settles O49: the writes of HALT_EN, HALT_CTL, LOG_HEAD and LOG_CTL, case by case. -/
theorem haltAndTroubleLog : Obligations.HaltAndTroubleLog := by
  unfold Obligations.HaltAndTroubleLog
  refine ⟨fun s v t m ht hm => ⟨fun h => leaves_of_effect rfl ((haltEnWrite_eq ht hm).trans (if_pos h)),
      fun h => leaves_of_effect rfl ((haltEnWrite_eq ht hm).trans (if_neg h))⟩,
    fun s => ⟨fun h hst => leaves_of_effect rfl (haltCtlClear_of_done h hst), fun h => leaves_of_effect rfl (haltCtlClear_of_refused h), leaves_of_effect rfl rfl⟩,
    fun s v k hk => ⟨fun h => leaves_of_effect rfl (logHeadWrite_of_unread hk h), fun h => leaves_of_effect rfl (logHeadWrite_of_beyond hk h)⟩,
    fun s => ⟨fun h => leaves_of_effect rfl (logUnfreeze_of_frozen h), fun h => leaves_of_effect rfl (logUnfreeze_of_running h)⟩⟩

end Sys2Proof.Proofs
end

section
namespace Sys2Proof.Proofs
open Sys2Proof Sys2Proof.Machine Sys2Proof.Safety Sys2Proof.Laws

set_option Elab.async false

variable {s : State} {o : Nat}

/-! ### What a register's write and read do (R8, R11) -/

/-- The word that R11 leaves: RW bits from the value, W1C bits written one cleared unless the device set them, the others kept. -/
def written (old v rw w1c now : Word) : Word := ((old &&& ~~~rw) ||| (v &&& rw)) &&& ~~~(v &&& w1c &&& ~~~now)

theorem testBit_written {old v rw w1c now : Word} {b : Nat} (hb : b < 32) : (written old v rw w1c now).toNat.testBit b =
    if w1c.toNat.testBit b ∧ v.toNat.testBit b ∧ ¬ now.toNat.testBit b then false
    else if rw.toNat.testBit b then v.toNat.testBit b else old.toNat.testBit b := by
  simp only [written, BitVec.testBit_toNat, BitVec.getLsbD_and, BitVec.getLsbD_or, BitVec.getLsbD_not, hb, decide_true, Bool.true_and]
  cases old.getLsbD b <;> cases v.getLsbD b <;> cases rw.getLsbD b <;> cases w1c.getLsbD b <;> cases now.getLsbD b <;> rfl

theorem plainWrite_of_register {r : RegSpec} (h : regAt o = some r) (v : Word) : plainWrite o v s =
    wr o (written (w32 (rd s o)) v (rwMask s r) (r.maskOf (fun f => f.acc == .w1c)) (setNowMask s o)).toNat s := by
  unfold plainWrite
  rw [h]
  rfl

theorem rd_plainWrite_ne {p : Nat} (h : p ≠ o) (v : Word) : rd (plainWrite o v s) p = rd s p := by
  cases hr : regAt o with
  | none => rw [plainWrite_of_regAt_none hr]
  | some r => rw [plainWrite_of_register hr, rd_wr_ne h.symm]

theorem rd_plainWrite {r : RegSpec} (hs : smapWf regReset s.regs = true) (h : regAt o = some r) (v : Word) : rd (plainWrite o v s) o =
    (written (w32 (rd s o)) v (rwMask s r) (r.maskOf (fun f => f.acc == .w1c)) (setNowMask s o)).toNat := by
  rw [plainWrite_of_register h, rd_wr_self hs, Nat.mod_eq_of_lt (BitVec.isLt _)]

/-- Outside the windows of the request table and of the tills, only the bits of readable fields are shown. -/
theorem testBit_view_of_not_readMask {src : Src} {b : Nat} (hrtb : ¬(0x10 ≤ o / 0x10000 ∧ o / 0x10000 < 0x14))
    (htill : ¬(0x20 ≤ o / 0x10000 ∧ o / 0x10000 < 0x28)) (hm : (readMask o).testBit b = false) : (view s src o).testBit b = false := by
  unfold view
  dsimp only
  rw [if_neg hrtb, if_neg htill]
  exact (Nat.testBit_and _ _ _).trans ((congrArg _ hm).trans (Bool.and_false _))

/-- Settles O51: a write by the access codes, the registers it leaves alone, and what a read shows. -/
theorem registerBitsFollowTheirCodes : Obligations.RegisterBitsFollowTheirCodes := by
  unfold Obligations.RegisterBitsFollowTheirCodes
  refine ⟨fun s o v r b hs hr hb => ?_, fun s o v h => plainWrite_of_regAt_none h v, fun s o v p hp => rd_plainWrite_ne hp v,
    fun s src o b hrtb htill hm => testBit_view_of_not_readMask hrtb htill hm⟩
  have hold : (w32 (rd s o)).toNat = rd s o := (BitVec.toNat_ofNat _ _).trans (Nat.mod_eq_of_lt (BitVec.isLt _))
  rw [rd_plainWrite hs hr, testBit_written hb, hold]
  rfl

/-! ### The host link (R505, R509, R648) -/

section Link
variable {w r : Nat}

theorem linkChange_of_same (hw : w % 16 = rdf s rHlkLink 3 0) (hr : r % 8 = rdf s rHlkLink 6 4) : linkChange w r s = s := if_pos ⟨hw, hr⟩

theorem linkChange_of_other (h : w % 16 ≠ rdf s rHlkLink 3 0 ∨ r % 8 ≠ rdf s rHlkLink 6 4) :
    linkChange w r s = logC 0x0701 [] (wrf rHlkLink 6 4 r (wrf rHlkLink 3 0 w s)) := if_neg (not_and_or.2 h)

theorem l1Entry_of_idle (hl : s.spg.l1 = false) (ht : s.spg.lastTlp + 102400 ≤ s.ft) :
    l1Entry s = emit (.pcie 1) (modSpg (fun g => { g with l1 := true }) s) :=
  if_neg (not_or.2 ⟨ne_true_of_eq_false hl, not_lt.2 ht⟩)

theorem l1Entry_of_other (h : s.spg.l1 = true ∨ s.ft < s.spg.lastTlp + 102400) : l1Entry s = s := if_pos h

theorem l1Leave_of_sleep (hl : s.spg.l1 = true) : l1Leave s = emit (.pcie 0) (modSpg (fun g => { g with l1 := false, d3 := false, lastTlp := s.ft }) s) :=
  if_pos hl

theorem l1Leave_of_awake (hl : s.spg.l1 = false) : l1Leave s = s := if_neg (ne_true_of_eq_false hl)

end Link

/-- Settles O53: the link's width and rate, L1 and D3hot, and a failed DMA read. -/
theorem pcieLinkChangesAndSleeps : Obligations.PcieLinkChangesAndSleeps := by
  unfold Obligations.PcieLinkChangesAndSleeps
  exact ⟨fun s w r => ⟨fun hw hr => leaves_of_effect rfl (linkChange_of_same hw hr), fun h => leaves_of_effect rfl (linkChange_of_other h)⟩,
    fun s => ⟨fun hl ht => leaves_of_effect rfl (l1Entry_of_idle hl ht), fun h => leaves_of_effect rfl (l1Entry_of_other h), leaves_of_effect rfl rfl,
      fun hl => leaves_of_effect rfl (l1Leave_of_sleep hl), fun hl => leaves_of_effect rfl (l1Leave_of_awake hl)⟩,
    fun s src hsrc => leaves_of_effect hsrc rfl⟩

/-! ### The management ports (R511, R512) -/

/-- Settles O54: each SMBus command with a good and a bad PEC, the layout of its data, and each instruction of the TAP. -/
theorem smbusAndBoundaryScan : Obligations.SmbusAndBoundaryScan := by
  unfold Obligations.SmbusAndBoundaryScan
  refine ⟨fun s => ⟨fun i d h => ?_, fun m => ⟨leaves_of_effect rfl rfl, leaves_of_effect rfl rfl⟩, rfl, rfl, rfl, ?_⟩,
    fun s => ⟨leaves_of_effect rfl rfl, leaves_of_effect rfl rfl, leaves_of_effect rfl rfl, leaves_of_effect rfl rfl, leaves_of_effect rfl rfl,
      leaves_of_effect rfl rfl⟩⟩
  · rcases h with ⟨rfl, rfl⟩ | ⟨rfl, rfl⟩ | ⟨rfl, rfl⟩ | ⟨rfl, rfl⟩ | ⟨rfl, rfl⟩ | ⟨rfl, rfl⟩ <;>
      exact ⟨leaves_of_effect rfl rfl, leaves_of_effect rfl rfl⟩
  · cases hv : s.clk.ftValid with
    | false => simp [ftData, hv, b2n]
    | true => simp [ftData, hv, b2n]

end Sys2Proof.Proofs
end

section
namespace Sys2Proof.Proofs
open Sys2Proof Sys2Proof.Machine Sys2Proof.Safety Sys2Proof.Laws

set_option Elab.async false

variable {s u : State}

/-! ### Reset sources (R510, R548, R560, R566 to R569) -/

section Perst
variable (hu : u = modRst (fun r => { r with perst := true }) s)
include hu

theorem perstAssert_of_host (h : s.straps.hosten = true) : perstAssert s = takeReset 3 u := by
  subst hu
  exact if_pos h

theorem perstAssert_of_no_host (h : s.straps.hosten = false) : perstAssert s = u := by
  subst hu
  exact if_neg (ne_true_of_eq_false h)

end Perst

theorem wdtExpire_of_stopped (h : s.rst.wdtAt = none) : wdtExpire s = s := by
  unfold wdtExpire
  rw [h]

theorem wdtExpire_of_count {t : Nat} (h : s.rst.wdtAt = some t) :
    wdtExpire s = if t + us (rdf s rWdt 15 0) ≤ s.ft then takeReset 4 (modRst (fun r => { r with wdtAt := none }) s) else s := by
  unfold wdtExpire
  rw [h]

section Fabric
variable {v : Word} {n : Nat} (hn : n = v.toNat % 256)
  (hu : u = if bit v.toNat 30 then clrBit 0x00010020 30 (wrf 0x00010020 7 0 n s) else wrf 0x00010020 7 0 n s)
include hn hu

theorem rstFab_of_no_go (h : bit v.toNat 31 = false) : rstFab v s = u := by
  subst hn hu
  exact if_pos (congrArg not h)

variable (h : bit v.toNat 31 = true)
include h

theorem rstFab_elsewhere (hroot : isRoot u = false) : rstFab v s = setBit 0x00010020 30 u := by
  subst hn hu
  exact (if_neg (ne_true_of_eq_false (congrArg not h))).trans (if_pos (congrArg not hroot))

variable (hroot : isRoot u = true)
include hroot

theorem rstFab_of_unknown (hc : chipRec u n = none) : rstFab v s = u := by
  subst hn hu
  refine (if_neg (ne_true_of_eq_false (congrArg not h))).trans ((if_neg (ne_true_of_eq_false (congrArg not hroot))).trans ?_)
  rw [hc]

theorem rstFab_of_known {c : ChipRec} (hc : chipRec u n = some c) : rstFab v s =
    if c.serial = u.serial then takeReset 7 u else ctlToChip 0x41 c ([BitVec.ofNat 8 v.toNat] ++ zeros 7 ++ leBytes 8 c.serial.toNat) u := by
  subst hn hu
  refine (if_neg (ne_true_of_eq_false (congrArg not h))).trans ((if_neg (ne_true_of_eq_false (congrArg not hroot))).trans ?_)
  rw [hc]

end Fabric

section Message
variable {m b : Bytes} (hb : b = (ctlOf m).body)
include hb

theorem resetMsg_of_own (hc : u8 b 0 = s.fab.chip) (hs : u64 b 8 = s.serial.toNat) : resetMsg m s = takeReset 7 s := by
  subst hb
  exact if_pos ⟨hc, hs⟩

theorem resetMsg_of_other (h : u8 b 0 ≠ s.fab.chip ∨ u64 b 8 ≠ s.serial.toNat) : resetMsg m s = s := by
  subst hb
  exact if_neg (not_and_or.2 h)

end Message

theorem safeClr_of_other {c : Src} (h : c ≠ .pf ∨ s.rst.safeHold = false) : safeClr c s = s := if_pos (h.imp id (congrArg not))

theorem safeClr_of_hold (h : s.rst.safeHold = true) (hu : u = modRst (fun r => { r with safeHold := false }) s) :
    safeClr .pf s = if inReset s then u else loaderStart true (bit (rd s rCause) 11) u := by
  subst hu
  refine (if_neg ?_).trans rfl
  rintro (hne | hno)
  · exact hne rfl
  · simp [h] at hno

/-- Settles O55: each source as its cause, the pins' rise, the watchdog, RST_FAB, the RESET message and SAFE_CLR. -/
theorem resetSourcesAreTaken : Obligations.ResetSourcesAreTaken := by
  unfold Obligations.ResetSourcesAreTaken
  refine ⟨fun s => ⟨leaves_of_effect rfl rfl, leaves_of_effect rfl rfl, leaves_of_effect rfl rfl, leaves_of_effect rfl rfl, leaves_of_effect rfl rfl,
      leaves_of_effect rfl rfl, fun h => leaves_of_effect rfl (perstAssert_of_host rfl h), fun h => leaves_of_effect rfl (perstAssert_of_no_host rfl h)⟩,
    fun s u => ⟨fun hu => ?_, fun hu => ?_, fun hu => ?_⟩, fun s v p hp => ?_,
    fun s => ⟨fun h => leaves_of_effect rfl (wdtExpire_of_stopped h), fun t h => ⟨fun hle => leaves_of_effect rfl ((wdtExpire_of_count h).trans (if_pos hle)),
      fun hlt => leaves_of_effect rfl ((wdtExpire_of_count h).trans (if_neg (not_le.2 hlt)))⟩⟩,
    fun s v n u hn hu => ⟨fun h => leaves_of_effect rfl (rstFab_of_no_go hn hu h), fun h hr => leaves_of_effect rfl (rstFab_elsewhere hn hu h hr),
      fun h hr hc => leaves_of_effect rfl (rstFab_of_unknown hn hu h hr hc), fun c h hr hc =>
        ⟨fun heq => leaves_of_effect rfl ((rstFab_of_known hn hu h hr hc).trans (if_pos heq)),
          fun hne => leaves_of_effect rfl ((rstFab_of_known hn hu h hr hc).trans (if_neg hne))⟩⟩,
    fun s m b hb => ⟨fun hc hs => leaves_of_effect rfl (resetMsg_of_own hb hc hs), fun h => leaves_of_effect rfl (resetMsg_of_other hb h)⟩,
    fun s c hc => ⟨fun h => leaves_of_effect hc (safeClr_of_other h), fun u h hu => leaves_of_effect rfl (safeClr_of_hold h hu)⟩⟩
  · subst hu
    exact leaves_of_effect rfl rfl
  · subst hu
    exact leaves_of_effect rfl rfl
  · subst hu
    exact leaves_of_effect rfl rfl
  · subst hp
    exact leaves_of_effect rfl rfl

/-! ### Block resets (R510, R571 to R573) -/

section Block
variable {n : Nat}

theorem rstBlockStall_of_busy (h : blockBusy s = true) : rstBlockStall n s = blockStat 1 s := if_pos h
theorem rstBlockStall_of_free (h : blockBusy s = false) : rstBlockStall n s = stallBegin n (blockStat 0 s) := if_neg (ne_true_of_eq_false h)

/-- With no block reset in progress, none is recorded. -/
theorem block_of_free (h : blockBusy s = false) : s.rst.block = none :=
  Option.isNone_iff_eq_none.1 (by simpa using (Bool.or_eq_false_iff.1 h).1)

theorem vfFlr_of_block {k t : Nat} (h : s.rst.block = some (k, t)) : vfFlr n s = await (dAt (max t (s.ft + 1))) (.vfFlr n) s := by rw [vfFlr, h]

theorem vfFlr_of_no_block (h : s.rst.block = none) :
    vfFlr n s = if blockBusy s then await (s.rst.blockDom.getD dAON) (.vfFlr n) s else stallBegin n s := by rw [vfFlr, h]

/-- EGR's own reset in progress: the wires decide. -/
theorem rstBlockEgr_of_egr {t : Nat} (h : s.rst.block = some (32, t)) : rstBlockEgr s = if wireEnd s ≤ s.ft then egrCycle s else blockStat 1 s := by
  simp only [rstBlockEgr, h]

theorem rstBlockEgr_of_other (h : ∀ t, s.rst.block ≠ some (32, t)) : rstBlockEgr s =
    if blockBusy s then blockStat 1 s
    else if wireEnd (dropFrames (blockStat 0 (modRst (fun r => { r with block := some (32, s.ft + qtoFt s) }) s))) ≤
        (dropFrames (blockStat 0 (modRst (fun r => { r with block := some (32, s.ft + qtoFt s) }) s))).ft then
      egrCycle (dropFrames (blockStat 0 (modRst (fun r => { r with block := some (32, s.ft + qtoFt s) }) s)))
    else await (dAt (wireEnd (dropFrames (blockStat 0 (modRst (fun r => { r with block := some (32, s.ft + qtoFt s) }) s))))) .rstBlockEgr
      (dropFrames (blockStat 0 (modRst (fun r => { r with block := some (32, s.ft + qtoFt s) }) s))) := by
  unfold rstBlockEgr
  split
  · rename_i t hblock
    exact absurd hblock (h t)
  · rfl

theorem rstBlockEgr_of_busy (hb : blockBusy s = true) (h : ∀ t, s.rst.block ≠ some (32, t)) : rstBlockEgr s = blockStat 1 s :=
  (rstBlockEgr_of_other h).trans (if_pos hb)

theorem rstBlockEgr_of_free (hb : blockBusy s = false)
    (hu : u = dropFrames (blockStat 0 (modRst (fun r => { r with block := some (32, s.ft + qtoFt s) }) s))) :
    rstBlockEgr s = if wireEnd u ≤ u.ft then egrCycle u else await (dAt (wireEnd u)) .rstBlockEgr u := by
  subst hu
  exact (rstBlockEgr_of_other fun t h => by simp [block_of_free hb] at h).trans (if_neg (ne_true_of_eq_false hb))

theorem rstBlockCcr_of_free {v : State} {inUnit : Nat → Bool} (hb : blockBusy s = false)
    (hu : u = blockStat 0 (modRst (fun r => { r with block := some (33, s.ft + qtoFt s) }) s))
    (hunit : ∀ t, inUnit t = ((thread u t).st == 0 && (thread u t).bulk.isSome))
    (hv : v = modWks (fun w => { w with waiters := [] })
      (forEach ((List.range 4).filter (fun t => !inUnit t && (thread u t).st != 3)) (fun t => modThread t (fun x => { x with st := 2 })) u)) :
    rstBlockCcr s = if (List.range 4).any inUnit then v else cycleDom dCCR v := by
  obtain rfl : inUnit = fun t => (thread u t).st == 0 && (thread u t).bulk.isSome := funext hunit
  subst hv hu
  exact if_neg (ne_true_of_eq_false hb)

theorem quiesceTimeout_of_block {t : Nat} (h : s.rst.block = some (n, t)) (hu : u = setBit 0x00010018 3 (logC 0x0102 [n] s)) :
    quiesceTimeout s = if s.ft < t then s else if n < 32 then stallApply n u else if n = 32 then egrCycle u else cycleDom dCCR u := by
  subst hu
  rw [quiesceTimeout, h]

theorem quiesceTimeout_of_none (h : s.rst.block = none) : quiesceTimeout s = s := by rw [quiesceTimeout, h]

end Block

/-- Settles O60: block resets of a stall, EGR and CCR, a VF's FLR, and the forced reset at RST_QTO. -/
theorem blockResetsQuiesceFirst : Obligations.BlockResetsQuiesceFirst := by
  unfold Obligations.BlockResetsQuiesceFirst
  refine ⟨fun s n hn => ⟨fun h => leaves_of_effect (decide_eq_true hn) (rstBlockStall_of_busy h),
      fun h => ⟨leaves_of_effect (decide_eq_true hn) (rstBlockStall_of_free h),
        leaves_of_effect (decide_eq_true hn) ((vfFlr_of_no_block (block_of_free h)).trans (if_neg (ne_true_of_eq_false h)))⟩,
      fun k t h => leaves_of_effect (decide_eq_true hn) (vfFlr_of_block h),
      fun h hb => leaves_of_effect (decide_eq_true hn) ((vfFlr_of_no_block h).trans (if_pos hb))⟩,
    fun s => ⟨fun h => leaves_of_effect rfl (if_pos h), fun hb h => leaves_of_effect rfl (rstBlockEgr_of_busy hb h),
      fun t h => leaves_of_effect rfl (rstBlockEgr_of_egr h), fun u hb hu => leaves_of_effect rfl (rstBlockEgr_of_free hb hu)⟩,
    fun s u v inUnit hb hu hunit hv => ⟨fun h => leaves_of_effect rfl ((rstBlockCcr_of_free hb hu hunit hv).trans (if_pos h)),
      fun h => leaves_of_effect rfl ((rstBlockCcr_of_free hb hu hunit hv).trans (if_neg (ne_true_of_eq_false h)))⟩,
    fun s n t u h hu => ⟨fun hlt => leaves_of_effect rfl ((quiesceTimeout_of_block h hu).trans (if_pos hlt)),
      fun hle => leaves_of_effect rfl ((quiesceTimeout_of_block h hu).trans (if_neg (not_lt.2 hle)))⟩,
    fun s h => leaves_of_effect rfl (quiesceTimeout_of_none h)⟩

end Sys2Proof.Proofs
end

section
namespace Sys2Proof.Proofs
open Sys2Proof Sys2Proof.Machine Sys2Proof.Safety Sys2Proof.Laws

set_option Elab.async false

variable {s u : State} {n : Nat}

/-! ### One source (R548) -/

theorem bit_zero_of_source : ∀ n, n < 12 → bit (2 ^ n) 0 = decide (n = 0) := by decide
theorem coldCauses_of_source : ∀ n, n < 12 → coldCauses (2 ^ n) = decide (n = 0 ∨ n = 1 ∨ n = 5 ∨ n = 10) := by decide
theorem farewellCauses_of_source : ∀ n, n < 12 → farewellCauses (2 ^ n) = decide (n = 2 ∨ n = 4 ∨ n = 6 ∨ n = 7 ∨ n = 8 ∨ n = 9) := by decide

/-- HALT_OUT's condition 1, where the sources taken are not POR alone. -/
def haltFor (b : Nat) (s : State) : State := when_ (!bit b 0) (haltRaise 1) s
/-- CHIP_LOST first, likewise. -/
def tellFor (b causes : Nat) (s : State) : State := when_ (!bit b 0) (announceReset causes) s

section Source
variable (hn : n < 12)
include hn

theorem haltFor_source (hpor : n = 0 → u = s) (hother : n ≠ 0 → u = haltRaise 1 s) : haltFor (2 ^ n) s = u := by
  unfold haltFor
  rw [bit_zero_of_source n hn]
  by_cases h : n = 0
  · rw [hpor h, decide_eq_true h]
    rfl
  · rw [hother h, decide_eq_false h]
    rfl

theorem tellFor_source {tell : Nat → State → State} (ht : ∀ b t, tell b t = if n = 0 then t else announceReset b t) : tellFor (2 ^ n) = tell := by
  funext b t
  rw [ht, tellFor, bit_zero_of_source n hn]
  by_cases h : n = 0
  · rw [if_pos h, decide_eq_true h]
    rfl
  · rw [if_neg h, decide_eq_false h]
    rfl

theorem takeReset_of_pulse (h0 : n ≠ 0) (hnv : s.rst.nvUntil.isSome = true) :
    takeReset n s = modRst (fun r => { r with block := none, blockDom := none, nvHeld := r.nvHeld ||| BitVec.ofNat 13 (2 ^ n) }) s :=
  if_pos ⟨hnv, by rw [bit_zero_of_source n hn, decide_eq_false h0]; rfl⟩

theorem takeReset_of_no_pulse (h : n = 0 ∨ s.rst.nvUntil = none) :
    takeReset n s = takeNow (2 ^ n) (modRst (fun r => { r with block := none, blockDom := none }) s) := by
  rcases h with h | h
  · refine if_neg fun hp => ?_
    have hbit := hp.2
    rw [bit_zero_of_source n hn, decide_eq_true h] at hbit
    contradiction
  · exact takeResets_of_nvUntil_none h

end Source

section Now
variable {b causes : Nat} {t : State} (ht : t.rst = s.rst)
include ht

/-- Sources taken during a release join those in force. -/
theorem takeNow_in_release (ht' : haltFor b s = t) (hin : inReset s = true) (hb : causes = s.rst.causes.toNat ||| b) :
    takeNow b s = applyReset causes (s.rst.cold || coldCauses b) (tellFor b causes t) := by
  subst hb ht'
  exact if_pos ((inReset_of_rst_eq ht).trans hin)

section Outside
variable (ht' : haltFor b s = t) (hin : inReset s = false)
include ht' hin

omit ht' in
theorem not_inReset : ¬ inReset t = true := ne_true_of_eq_false ((inReset_of_rst_eq ht).trans hin)

/-- Sources taken during a farewell, or before one that is owed, end it at once. -/
theorem takeNow_in_farewell (hw : s.rst.warmTaken = true ∨ s.rst.farewell.isSome = true) (hb : causes = s.rst.causes.toNat ||| b) :
    takeNow b s = applyReset causes (coldCauses b) (tellFor b causes (if s.rst.farewell.isSome then logC 0x0102 [unposted t] t else t)) := by
  have hno := not_inReset ht hin
  subst hb ht'
  exact (if_neg hno).trans (if_pos hw)

variable (hw : s.rst.warmTaken = false) (hf : s.rst.farewell = none)
include hw hf

theorem takeNow_at_once (hc : coldCauses b = true ∨ farewellCauses b = false) : takeNow b s = applyReset b (coldCauses b) (tellFor b b t) := by
  have hno := not_inReset ht hin
  have hstay : ¬(s.rst.warmTaken = true ∨ s.rst.farewell.isSome = true) := by simp [hw, hf]
  subst ht'
  exact (if_neg hno).trans ((if_neg hstay).trans (if_pos (hc.imp id (congrArg not))))

theorem takeNow_with_farewell (hc : coldCauses b = false) (hfare : farewellCauses b = true) :
    takeNow b s = modRst (fun r => { r with warmTaken := true, causes := BitVec.ofNat 13 b }) t := by
  have hno := not_inReset ht hin
  have hstay : ¬(s.rst.warmTaken = true ∨ s.rst.farewell.isSome = true) := by simp [hw, hf]
  have hlater : ¬(coldCauses b = true ∨ (!farewellCauses b) = true) := by simp [hc, hfare]
  subst ht'
  exact (if_neg hno).trans ((if_neg hstay).trans (if_neg hlater))

end Outside
end Now

/-! ### The farewell and held resets (R553, R554, R563) -/

theorem warmTake_of_none (h : s.rst.warmTaken = false) : warmTake s = s := if_pos (congrArg not h)

theorem warmTake_of_owed (h : s.rst.warmTaken = true) (hu : u = farewellOf (fun _ => true) (announceReset s.rst.causes.toNat s)) :
    warmTake s = modRst (fun r => { r with warmTaken := false, farewell := some (u.ft + qtoFt u) }) u := by
  subst hu
  exact if_neg (ne_true_of_eq_false (congrArg not h))

theorem farewellEnd_of_none (h : s.rst.farewell = none) : farewellEnd s = s := by rw [farewellEnd, h]

theorem farewellEnd_of_farewell {t : Nat} (h : s.rst.farewell = some t) : farewellEnd s =
    if farewellDone (fun _ => true) s then applyReset s.rst.causes.toNat false s
    else if t ≤ s.ft then applyReset s.rst.causes.toNat false (logC 0x0102 [unposted s] s)
    else s := by rw [farewellEnd, h]

theorem nvPulseEnd_of_none (h : s.rst.nvUntil = none) : nvPulseEnd s = s := by rw [nvPulseEnd, h]

section Pulse
variable {t b : Nat} {w : BitVec 13} (h : s.rst.nvUntil = some t)
include h

theorem nvPulseEnd_of_early (ht : s.ft < t) : nvPulseEnd s = s := by
  rw [nvPulseEnd, h]
  exact if_pos ht

theorem nvPulseEnd_of_over (ht : t ≤ s.ft) (hw : w = if s.secm.tamperWait.isSome then s.rst.nvHeld &&& 0x400#13 else 0#13)
    (hb : b = (s.rst.nvHeld &&& ~~~w).toNat) (hu : u = modRst (fun r => { r with nvUntil := none, nvHeld := w }) s) :
    nvPulseEnd s = if b = 0 then u else takeHeld b u := by
  subst hb hu hw
  rw [nvPulseEnd, h]
  exact if_neg (not_lt.2 ht)

end Pulse

/-- Settles O56: a source taken, by pulse, release, farewell and kind; then the farewell's begin and end, and the held sources. -/
theorem resetsJoinWaitAndEnd : Obligations.ResetsJoinWaitAndEnd := by
  unfold Obligations.ResetsJoinWaitAndEnd
  refine ⟨fun s n u tell hn hpor hother htell => ⟨fun h0 hnv => takeReset_of_pulse hn h0 hnv, fun hfree => ?_⟩,
    fun s => ⟨fun h => leaves_of_effect rfl (warmTake_of_none h), fun u h hu => leaves_of_effect rfl (warmTake_of_owed h hu)⟩,
    fun s => ⟨fun h => leaves_of_effect rfl (farewellEnd_of_none h), fun t h => ?_⟩,
    fun s => ⟨fun h => leaves_of_effect rfl (nvPulseEnd_of_none h), fun t w b u h hw hb hu => ⟨fun ht => leaves_of_effect rfl (nvPulseEnd_of_early h ht),
      fun ht hb0 => leaves_of_effect rfl ((nvPulseEnd_of_over h ht hw hb hu).trans (if_pos hb0)),
      fun ht hb0 => leaves_of_effect rfl ((nvPulseEnd_of_over h ht hw hb hu).trans (if_neg hb0))⟩⟩⟩
  · have hnow := takeReset_of_no_pulse hn hfree
    have hhalt := haltFor_source hn hpor hother
    have hrst : u.rst = (modRst (fun r => { r with block := none, blockDom := none }) s).rst := by
      by_cases h : n = 0
      · rw [hpor h]
      · rw [hother h, haltRaise_rst]
    have hcold := coldCauses_of_source n hn
    have hfarewell := farewellCauses_of_source n hn
    rw [← tellFor_source hn htell]
    refine ⟨fun b c hin hb hc => ?_, fun b c hin hw hb hc => ?_, fun hin hw hf => ⟨fun h => ?_, fun h => ?_, fun h => ?_⟩⟩
    · obtain rfl : c = (s.rst.cold || coldCauses (2 ^ n)) := Bool.eq_iff_iff.2 (hc.trans (by rw [hcold]; simp))
      exact hnow.trans (takeNow_in_release hrst hhalt hin hb)
    · obtain rfl : c = coldCauses (2 ^ n) := Bool.eq_iff_iff.2 (hc.trans (by rw [hcold]; simp))
      exact hnow.trans (takeNow_in_farewell hrst hhalt hin hw hb)
    · exact hnow.trans (takeNow_with_farewell hrst hhalt hin hw hf (hcold.trans (decide_eq_false (by omega))) (hfarewell.trans (decide_eq_true h)))
    · have hc : coldCauses (2 ^ n) = true := hcold.trans (decide_eq_true h)
      exact (hnow.trans (takeNow_at_once hrst hhalt hin hw hf (Or.inl hc))).trans (by rw [hc])
    · have hc : coldCauses (2 ^ n) = false := hcold.trans (decide_eq_false (by omega))
      exact (hnow.trans (takeNow_at_once hrst hhalt hin hw hf (Or.inr (hfarewell.trans (decide_eq_false (by omega)))))).trans (by rw [hc])
  · have hend := farewellEnd_of_farewell h
    exact ⟨fun hd => leaves_of_effect rfl (hend.trans (if_pos hd)),
      fun hd ht => leaves_of_effect rfl (hend.trans ((if_neg (ne_true_of_eq_false hd)).trans (if_pos ht))),
      fun hd ht => leaves_of_effect rfl (hend.trans ((if_neg (ne_true_of_eq_false hd)).trans (if_neg (not_le.2 ht))))⟩

/-! ### The release sequence (R557 to R559, R577, R578) -/

section Straps
variable {t : Straps}

theorem strapSample_of_other (h : s.rst.phase ≠ 1 ∨ s.rst.cold = false ∨ s.rst.sampled = true ∨ s.ft < 128) : strapSample t s = s :=
  if_pos (h.imp id (Or.imp (congrArg not) id))

variable {v : State} (hu : u = wrf rImgCtl 4 3 (min t.boot 2 - if t.boot = 3 then 1 else 0) (forEach (List.range 8) (fun p => wrf (rLink p 0) 1 1 (b2n t.linkmode))
    (modRst (fun r => { r with sampled := true, rootPin := t.root }) { s with straps := t })))
  (hp : s.rst.phase = 1) (hc : s.rst.cold = true) (hs : s.rst.sampled = false) (hft : 128 ≤ s.ft)
include hu hp hc hs hft

theorem strapSample_of_release (hv : v = clkChange (fun c => { c with source := 1, locked := true, rank := 0, ftValid := true }) u) :
    strapSample t s = if t.root = false then u else if v.clk.refclk then v else enterHoldover v := by
  have hdue : ¬(s.rst.phase ≠ 1 ∨ (!s.rst.cold) = true ∨ s.rst.sampled = true ∨ s.ft < 128) := by
    rw [hp, hc, hs]
    simp [hft]
  subst hv hu
  refine (if_neg hdue).trans ?_
  simp only [Bool.not_eq_true']

end Straps

section Ready
variable {p q : Nat} (hp : p = s.rst.phase)
include hp

theorem blockReady_of_waiting (h : p = 0 ∨ 9 ≤ p ∨ s.ft < s.rst.readyAt ∨ s.rst.sampled = false ∨ s.secm.st = 2 ∨ (blockDoms p).all (isOn s) = false) :
    blockReady s = s := by
  subst hp
  exact if_pos (h.imp id (Or.imp id (Or.imp id (Or.imp (congrArg not) (Or.imp id (congrArg not))))))

theorem blockReady_of_ready (hu : u = if p = 1 ∧ s.rst.cold = true then secmPass s else s) (hq : q = nextPhase u p) (h1 : 1 ≤ p) (h9 : p < 9)
    (hft : s.rst.readyAt ≤ s.ft) (hs : s.rst.sampled = true) (hsecm : s.secm.st ≠ 2) (hon : (blockDoms p).all (isOn s) = true) :
    blockReady s = if q = 7 ∧ u.rst.perst = true then modRst (fun r => { r with phase := q, readyAt := u.ft + gapFt u }) u
      else powerUp (blockDoms q) (u.ft + gapFt u) (modRst (fun r => { r with phase := q, readyAt := u.ft + gapFt u }) u) := by
  have hready : ¬(p = 0 ∨ 9 ≤ p ∨ s.ft < s.rst.readyAt ∨ (!s.rst.sampled) = true ∨ s.secm.st = 2 ∨ (!(blockDoms p).all (isOn s)) = true) := by
    rw [hs, hon]
    simp [not_lt.2 hft, hsecm]
    omega
  subst hq hu hp
  exact if_neg hready

end Ready

theorem nextPhase_table : nextPhase s 1 = (if s.rst.cold then 2 else 3) ∧ nextPhase s 6 = (if s.straps.hosten then 7 else 8) ∧
    ∀ p, p ≠ 1 → p ≠ 6 → nextPhase s p = p + 1 := by
  refine ⟨?_, ?_, fun p h1 h6 => ?_⟩
  · cases h : s.rst.cold <;> simp [nextPhase, h]
  · cases h : s.straps.hosten <;> simp [nextPhase, h]
  · simp [nextPhase, h1, h6]

theorem releaseComplete_of_waiting (h : s.rst.phase ≠ 9 ∨ s.ft < s.rst.readyAt ∨ isOn s dCCR = false) : releaseComplete s = s :=
  if_pos (h.imp id (Or.imp id (congrArg not)))

theorem releaseComplete_of_last {v w : State} {b : Nat} (hp : s.rst.phase = 9) (hft : s.rst.readyAt ≤ s.ft) (hon : isOn s dCCR = true)
    (hb : b = s.rst.causes.toNat) (hu : u = logC 0x0101 [b] (modRst (fun r => { r with phase := 0, causes := 0, cold := false, nvLog := 0 }) s))
    (hv : v = when_ (s.rst.nvLog != 0) (logC 0x0103 [s.rst.nvLog.toNat]) u)
    (hw : w = when_ v.secm.tamperLog (fun s => modSecm (fun m => { m with tamperLog := false }) (logC 0x1410 [s.secm.tamperCause] s)) v) :
    releaseComplete s = if s.rst.cold = true then loaderStart true (bit b 11) w
      else loaderStart false (bit b 11) (rebuild (restoreRecs (fun _ => true) (bit b 8) 0xFF (restoreGens (pausedRecs (fun _ => true) w) w))) := by
  have hlast : ¬(s.rst.phase ≠ 9 ∨ s.ft < s.rst.readyAt ∨ (!isOn s dCCR) = true) := by
    rw [hon]
    simp [hp, not_lt.2 hft]
  subst hw hv hu hb
  exact if_neg hlast

/-- What a Boolean decides, by its two cases. -/
theorem when_of_cases {b : Bool} {f : State → State} {t : State} (hf : b = false → t = s) (ht : b = true → t = f s) : t = when_ b f s := by
  cases b with
  | false => exact hf rfl
  | true => exact ht rfl

/-- Settles O59: the straps, each block's power-up, the order of the table, and what the last block starts. -/
theorem blocksAreReleasedInOrder : Obligations.BlocksAreReleasedInOrder := by
  unfold Obligations.BlocksAreReleasedInOrder
  refine ⟨fun s t u v hboot htick hsmb hcid hu hv => ?_, fun s p hp => ⟨fun h => leaves_of_effect rfl (blockReady_of_waiting hp h),
      fun u q hu hq h1 h9 hft hs hsecm hon => leaves_of_effect rfl (blockReady_of_ready hp hu hq h1 h9 hft hs hsecm hon)⟩,
    fun s => nextPhase_table, fun s => ⟨fun h => leaves_of_effect rfl (releaseComplete_of_waiting h), fun u v w b hp hft hon hb hu hv0 hv1 hw0 hw1 => ?_⟩⟩
  · have samples {x : State} (h : strapSample t s = x) : Leaves (.strapSample t) s x :=
      leaves_of_effect (by simp [Instr.wf, hboot, htick, hsmb, hcid]) h
    refine ⟨fun h => samples (strapSample_of_other h), fun hp hc hs hft => ?_⟩
    have hdue := strapSample_of_release hu hp hc hs hft hv
    exact ⟨fun h => samples (hdue.trans (if_pos h)),
      fun h hr => samples (hdue.trans ((if_neg (by simp [h])).trans (if_pos hr))),
      fun h hr => samples (hdue.trans ((if_neg (by simp [h])).trans (if_neg (ne_true_of_eq_false hr))))⟩
  · exact leaves_of_effect rfl (releaseComplete_of_last hp hft hon hb hu
      (when_of_cases (fun h => hv0 (by simpa using h)) fun h => hv1 (by simpa using h)) (when_of_cases hw0 hw1))

end Sys2Proof.Proofs
end

section
namespace Sys2Proof.Proofs
open Sys2Proof Sys2Proof.Machine Sys2Proof.Safety Sys2Proof.Laws

set_option Elab.async false

variable {s u : State} {b : Nat}

/-! ### What a power-on reset leaves (R550, R551, R564) -/

/-- What a cell of the chip's fuses holds once POR has cut off the pulse that was writing it (R564). -/
def CutCell (s : State) (c : NvCells) : Prop := c = nvCells s.secm ∨ ∃ p ∈ s.secm.nvOld, s.ft < p.1 ∧ c = p.2

/-- A cut pulse changes the cells, the HUK flag and a free value's number, and nothing else. -/
theorem cutPulse_cells (s : State) : ∃ n c g, CutCell s c ∧
    cutPulse s = { s with freshN := n, secm := { s.secm with lc := c.lc, ctr := c.ctr, ctrUse := c.ctrUse, banks := c.banks, hukGone := g } } := by
  unfold cutPulse
  split
  · exact ⟨s.freshN, nvCells s.secm, s.secm.hukGone, Or.inl rfl, rfl⟩
  · rename_i p rest hold
    have cut {q : Nat × NvCells} (hq : q ∈ p :: rest) : CutCell s q.2 := by
      rw [← hold] at hq
      obtain ⟨hmem, hlt⟩ := List.mem_filter.1 hq
      exact Or.inr ⟨q, hmem, of_decide_eq_true hlt, rfl⟩
    refine ⟨_, _, _, ?_, rfl⟩
    split_ifs
    · exact cut (List.mem_cons_self ..)
    · cases rest with
      | nil => exact Or.inl rfl
      | cons q rest => exact cut (List.mem_cons_of_mem _ (List.mem_cons_self ..))

/-- The state that POR leaves before its release begins, with registers `r`, free values from `n`, cells `c` and HUK flag `g`. -/
def porState (b : Nat) (s : State) (r : SMap Word) (n : Nat) (c : NvCells) (g : Bool) : State :=
  { regs := r, serial := s.serial, stepping := s.stepping, partX := s.partX, gpio := s.gpio, clk := { refclk := s.clk.refclk }
    secm := secmCold { s.secm with lc := c.lc, ctr := c.ctr, ctrUse := c.ctrUse, banks := c.banks, hukGone := g }
    spg := { jtag := s.spg.jtag, jtagDr := s.spg.jtagDr }, freshN := n, out := s.out, pending := s.pending
    rst := { phase := 0, cold := true, causes := BitVec.ofNat 13 b, pinHeld := s.rst.pinHeld, rootPin := s.rst.rootPin, warmHeld := s.rst.warmHeld,
             perst := s.rst.perst, nvLog := s.rst.nvLog, coldTimes := [], safeHold := s.rst.safeHold && false, aon := 0 } }

theorem coldApply_of_por (h : bit b 0 = true) (s : State) : ∃ r n c g, CutCell s c ∧ coldApply b s = porState b s r n c g := by
  obtain ⟨n, c, g, hc, hcut⟩ := cutPulse_cells s
  refine ⟨(coldApply b s).regs, n, c, g, hc, ?_⟩
  unfold coldApply
  rw [h]
  dsimp only [when_true]
  rw [hcut]
  rfl

/-- A pin holds the release of a power-on reset. -/
theorem beginRelease_of_por_held (hpin : u.rst.pinHeld = true ∨ u.rst.warmHeld = true) :
    beginRelease u = { u with rst := { u.rst with waiting := true } } := by
  unfold beginRelease
  exact if_pos hpin

/-- Otherwise FT starts, and SAFE_HOLD is as it was: POR forgets the cold resets before it (R565). -/
theorem beginRelease_of_por_free (hcold : u.rst.cold = true) (hpor : bit u.rst.causes.toNat 0 = true)
    (hpin : ¬(u.rst.pinHeld = true ∨ u.rst.warmHeld = true)) : beginRelease u =
    { u with ft := 0, clk := { u.clk with ftValid := u.rst.rootPin }
             rst := { u.rst with waiting := false, phase := 1, readyAt := 256, coldTimes := [], thermalWait := false, safeHold := u.rst.safeHold || false } } := by
  unfold beginRelease
  dsimp only
  rw [if_neg hpin, hpor, hcold]
  simp only [Bool.not_true, Bool.false_eq_true, and_false, false_and, if_false, if_true, when_false]

section Por
variable {r : SMap Word} {n : Nat} {c : NvCells} {g : Bool}

/-- Everything that a power-on reset leaves but RST_CAUSE, given the state before its release. -/
theorem por_release {held : Bool} (hheld : held = (s.rst.pinHeld || s.rst.warmHeld)) (hbit : bit b 0 = true) (hb : b < 8192) {t : State}
    (ht : t = beginRelease (emit (.pcie 2) (porState b s r n c g))) :
    t.rst.phase = (if held then 0 else 1) ∧ t.rst.waiting = held ∧ t.rst.cold = true ∧ t.rst.safeHold = false ∧ t.ft = 0 ∧
      t.rtb = [] ∧ t.chans = [] ∧ t.rings = [] ∧ t.pfx = [] ∧ t.pond = [] ∧ t.nmc.lake = [] ∧ t.nmc.dir = [] ∧ t.log = {} ∧ t.wks.pool = [] ∧
      t.secm = (porState b s r n c g).secm ∧ t.serial = s.serial ∧ t.stepping = s.stepping ∧ t.partX = s.partX ∧
      t.out = if s.spg.jtag < 3 then s.out ++ [.pcie 2] else s.out := by
  have hcauses : bit (emit (.pcie 2) (porState b s r n c g)).rst.causes.toNat 0 = true := by
    have hmod : (BitVec.ofNat 13 b).toNat = b := (BitVec.toNat_ofNat ..).trans (Nat.mod_eq_of_lt hb)
    exact (congrArg (bit · 0) hmod).trans hbit
  have hout : (emit (.pcie 2) (porState b s r n c g)).out = if s.spg.jtag < 3 then s.out ++ [.pcie 2] else s.out := by
    simp [emit, carried, porState]
  have hhold : (s.rst.safeHold && false) = false := Bool.and_false _
  rw [ht, hheld]
  cases hpin : (s.rst.pinHeld || s.rst.warmHeld) with
  | true =>
    rw [beginRelease_of_por_held (u := emit (.pcie 2) (porState b s r n c g)) (Bool.or_eq_true_iff.1 hpin)]
    exact ⟨rfl, rfl, rfl, hhold, rfl, rfl, rfl, rfl, rfl, rfl, rfl, rfl, rfl, rfl, rfl, rfl, rfl, rfl, hout⟩
  | false =>
    rw [beginRelease_of_por_free rfl hcauses fun h => ne_true_of_eq_false hpin (Bool.or_eq_true_iff.2 h)]
    exact ⟨rfl, rfl, rfl, (Bool.or_false _).trans hhold, rfl, rfl, rfl, rfl, rfl, rfl, rfl, rfl, rfl, rfl, rfl, rfl, rfl, rfl, hout⟩

end Por

theorem haltFor_por (s : State) : haltFor 1 s = s := rfl
theorem tellFor_por (c : Nat) (s : State) : tellFor 1 c s = s := rfl

/-- Taken at any moment, POR is one cold reset, with the causes of the release or the farewell that it ends. -/
theorem takeNow_por (hidle : leaving s = false → b = 1) (hleave : leaving s = true → b = s.rst.causes.toNat ||| 1) :
    takeNow 1 s = applyReset b true (if inReset s = false ∧ s.rst.farewell.isSome = true then logC 0x0102 [unposted s] s else s) := by
  have hcold : coldCauses 1 = true := by decide
  cases hin : inReset s with
  | true =>
    rw [takeNow_in_release rfl (haltFor_por s) hin rfl, hleave (by simp [leaving, hin]), hcold, Bool.or_true, tellFor_por, if_neg (by simp)]
  | false =>
    by_cases hw : s.rst.warmTaken = true ∨ s.rst.farewell.isSome = true
    · rw [takeNow_in_farewell rfl (haltFor_por s) hin hw rfl, hleave (by simpa [leaving, hin] using hw), hcold, tellFor_por]
      simp only [true_and]
    · obtain ⟨hwarm, hfare⟩ := not_or.1 hw
      rw [takeNow_at_once rfl (haltFor_por s) hin (by simpa using hwarm) (by simpa using hfare) (Or.inl hcold), hcold, tellFor_por,
        hidle (by simp [leaving, hin, hwarm, hfare]), if_neg (by simp [hfare])]

/-- The state in which a power-on reset of `s` is applied: the farewell that it ends is logged. -/
def porFrom (s : State) : State :=
  let v := modRst (fun r => { r with block := none, blockDom := none }) s
  if inReset v = false ∧ v.rst.farewell.isSome = true then logC 0x0102 [unposted v] v else v

theorem porFrom_keeps (s : State) : (porFrom s).secm = s.secm ∧ (porFrom s).ft = s.ft ∧ (porFrom s).serial = s.serial ∧ (porFrom s).stepping = s.stepping ∧
    (porFrom s).partX = s.partX ∧ (porFrom s).rst.pinHeld = s.rst.pinHeld ∧ (porFrom s).rst.warmHeld = s.rst.warmHeld := by
  unfold porFrom
  dsimp only
  split
  · simp [logC, modRst]
  · exact ⟨rfl, rfl, rfl, rfl, rfl, rfl, rfl⟩

theorem porFrom_of_no_farewell (h : s.rst.farewell = none) : (porFrom s).out = s.out ∧ (porFrom s).spg.jtag = s.spg.jtag := by
  unfold porFrom
  dsimp only
  rw [if_neg (by simp [modRst, h])]
  exact ⟨rfl, rfl⟩

theorem takeReset_por (hidle : leaving s = false → b = 1) (hleave : leaving s = true → b = s.rst.causes.toNat ||| 1) :
    takeReset 0 s = applyReset b true (porFrom s) :=
  (takeReset_of_no_pulse (n := 0) (by decide) (Or.inl rfl)).trans
    (takeNow_por (s := modRst (fun r => { r with block := none, blockDom := none }) s) hidle hleave)

/-- The causes that POR shows: its own bit, and at most the thirteen of RST_CAUSE. -/
theorem por_causes (hidle : leaving s = false → b = 1) (hleave : leaving s = true → b = s.rst.causes.toNat ||| 1) :
    bit b 0 = true ∧ b ≠ 0 ∧ b < 8192 := by
  have hodd : bit b 0 = true → b ≠ 0 := by
    rintro h rfl
    exact absurd h (by decide)
  cases hl : leaving s with
  | false =>
    rw [hidle hl]
    decide
  | true =>
    have hlt : s.rst.causes.toNat ||| 1 < 2 ^ 13 := Nat.or_lt_two_pow s.rst.causes.isLt (by decide)
    have hbit : bit (s.rst.causes.toNat ||| 1) 0 = true := by
      simp [bit]
    rw [hleave hl] at hodd ⊢
    exact ⟨hbit, hodd hbit, hlt⟩

/-! ### What a warm reset leaves (R550, R552, R556) -/

/-- What every step of a list keeps, the list keeps. -/
theorem forEach_rel {α : Type} {R : State → State → Prop} (hrefl : ∀ s, R s s) (htrans : ∀ s t u, R s t → R t u → R s u) {f : α → State → State}
    (hf : ∀ a s, R s (f a s)) (l : List α) (s : State) : R s (forEach l f s) := by
  induction l generalizing s with
  | nil => exact hrefl s
  | cons a l ih => exact htrans _ _ _ (hf a s) (ih (f a s))

theorem logFrame_forEach {α : Type} {f : α → State → State} (hf : ∀ a s, LogFrame s (f a s)) (l : List α) (s : State) : LogFrame s (forEach l f s) :=
  forEach_rel LogFrame.refl (fun _ _ _ => LogFrame.trans) hf l s

/-- A reset of the in-bank engine changes its queue and busy times, registers, the log and what was sent. -/
theorem pimWarm_frame (s : State) : ∃ q busy, LogFrame { s with nmc := { s.nmc with q := q, busyAt := busy } } (pimWarm s) := by
  unfold pimWarm
  dsimp only
  split
  · exact ⟨s.nmc.q, s.nmc.busyAt, LogFrame.refl s⟩
  · have hbusy (t : State) : LogFrame t (forEach t.nmc.busyAt (fun x s => addWrap (0x00190100 + 4 * x.1) (s.ft + 1 - x.2) s) t) :=
      logFrame_forEach (fun _ _ => frame_wr) _ _
    have finish {t : State} (h : LogFrame s t) :
        ∃ q busy, LogFrame { s with nmc := { s.nmc with q := q, busyAt := busy } } (logC 0x1205 [] { t with nmc := { t.nmc with q := [], busyAt := [] } }) := by
      obtain ⟨_, _, _, _, _, rfl⟩ := h
      exact ⟨[], [], LogFrame.trans ⟨_, _, _, _, _, rfl⟩ frame_logEv⟩
    split
    · exact finish (hbusy s)
    · exact finish (((logFrame_forEach (fun _ _ => frame_wr) _ _).trans frame_wr).trans (hbusy _))

theorem pimWarm_of_idle (h : s.nmc.q = []) : pimWarm s = s := by
  unfold pimWarm
  rw [h]
  rfl

/-- `t` differs from `s` in generation numbers only. -/
def GensFrame (s t : State) : Prop := ∃ gens dirGen, t = { s with gens := gens, nmc := { s.nmc with dirGen := dirGen } }

theorem GensFrame.refl (s : State) : GensFrame s s := ⟨_, _, rfl⟩

theorem GensFrame.trans (s t u : State) (h : GensFrame s t) (k : GensFrame t u) : GensFrame s u := by
  obtain ⟨_, _, rfl⟩ := h
  obtain ⟨_, _, rfl⟩ := k
  exact ⟨_, _, rfl⟩

theorem gensFrame_of_nmc {gens : SMap Nat} {nmc : Nmc} {dirGen : SMap Nat} (h : nmc = { s.nmc with dirGen := dirGen }) :
    GensFrame s { s with gens := gens, nmc := nmc } := by
  subst h
  exact ⟨_, _, rfl⟩

theorem bumpGen_frame (k i : Nat) (s : State) : GensFrame s (bumpGen k i s) := by
  by_cases h : k = 2 ∧ i < 4096
  · exact gensFrame_of_nmc (if_pos h)
  · exact gensFrame_of_nmc (dirGen := s.nmc.dirGen) (if_neg h)

theorem freedGens_frame (s : State) : GensFrame s (freedGens s) :=
  GensFrame.trans _ _ _ (forEach_rel GensFrame.refl GensFrame.trans (fun _ s => bumpGen_frame 1 _ s) _ _)
    (forEach_rel GensFrame.refl GensFrame.trans (fun _ s => bumpGen_frame 3 _ s) _ _)

/-- The state before a warm reset's clearing: the engine stopped, the freed indices at their next generations. -/
def warmFrom (s : State) : State := freedGens (pimWarm s)

/-- Up to there, only registers, the log, what was sent, the engine's queue and generations have changed. -/
theorem warmFrom_frame (s : State) : ∃ q busy gens dirGen, LogFrame { s with gens := gens, nmc := { s.nmc with q := q, busyAt := busy, dirGen := dirGen } } (warmFrom s) ∧
    (warmFrom s).log = (pimWarm s).log ∧ (warmFrom s).regs = (pimWarm s).regs := by
  obtain ⟨q, busy, _, _, _, _, _, hpim⟩ := pimWarm_frame s
  obtain ⟨gens, dirGen, hgens⟩ := freedGens_frame (pimWarm s)
  refine ⟨q, busy, gens, dirGen, ?_, ?_, ?_⟩
  · rw [warmFrom, hgens, hpim]
    exact ⟨_, _, _, _, _, rfl⟩
  · rw [warmFrom, hgens]
  · rw [warmFrom, hgens]

/-- A change of values under which the key's entries stay as they are leaves what it reads as. -/
theorem look_filterMap_of_kept {α : Type} {m : SMap α} {f : Nat × α → Option (Nat × α)} {k : Nat} (hkey : ∀ p q, f p = some q → q.1 = p.1)
    (hkeep : ∀ v, (k, v) ∈ m → f (k, v) = some (k, v)) (d : α) : look (m.filterMap f) k d = look m k d := by
  induction m with
  | nil => rfl
  | cons p m ih =>
    obtain ⟨j, v⟩ := p
    have hrest := ih fun w hw => hkeep w (List.mem_cons_of_mem _ hw)
    by_cases hjk : j = k
    · subst hjk
      rw [List.filterMap_cons_some (hkeep v (List.mem_cons_self ..)), look_cons, look_cons, if_pos rfl, if_pos rfl]
    · rw [look_cons, if_neg hjk]
      cases hf : f (j, v) with
      | none => rw [List.filterMap_cons_none hf, hrest]
      | some q =>
        obtain ⟨i, w⟩ := q
        rw [List.filterMap_cons_some hf, look_cons, if_neg (fun h => hjk ((hkey _ _ hf).symm.trans h)), hrest]

/-- RST_CAUSE has no field that a warm reset clears (R567). -/
theorem rCause_kept_warm : ∃ r, regAt rCause = some r ∧ r.maskOf (fun f => f.rst.clearedBy .warm) = 0 := ⟨_, rfl, by decide⟩

theorem clearRegs_canonical {reach : ResetReach} {own : Nat → Bool} (h : smapWf regReset s.regs = true) : smapWf regReset (clearRegs reach own s).regs = true :=
  ((keep_clearRegs (a := reach) (b := own) (Keeps.refl { regs := s.regs })).mem ⟨h, rfl, rfl, rfl⟩).1

theorem rd_clearRegs_rCause (h : smapWf regReset s.regs = true) : rd (clearRegs .warm (fun _ => true) s) rCause = rd s rCause := by
  obtain ⟨r, hr, hmask⟩ := rCause_kept_warm
  refine congrArg BitVec.toNat (look_filterMap_of_kept (fun p q hq => ?_) (fun v hv => ?_) _)
  · split at hq
    · cases hq
      rfl
    · dsimp only at hq
      split_ifs at hq <;> cases hq <;> rfl
  · have hne : v ≠ regReset rCause := (smapWf_iff.1 h).2 _ hv
    have hall : v &&& 4294967295#32 = v := BitVec.and_allOnes
    simp [hr, hmask, hall, hne]

/-- Fenced cores stay fenced; what else a core holds is gone. -/
theorem fenced_filterMap {m : SMap Core} {n : Nat} (h : (look m n {}).fenced = true) :
    (look (m.filterMap (fun c => if c.2.fenced then some (c.1, { fenced := true }) else none)) n {} : Core).fenced = true := by
  induction m with
  | nil => exact h
  | cons p m ih =>
    obtain ⟨j, v⟩ := p
    rw [look_cons] at h
    by_cases hjn : j = n
    · rw [if_pos hjn] at h
      rw [List.filterMap_cons_some (by rw [h]; rfl), look_cons, if_pos hjn]
    · rw [if_neg hjn] at h
      cases hv : v.fenced with
      | false => rw [List.filterMap_cons_none (by rw [hv]; rfl), ih h]
      | true => rw [List.filterMap_cons_some (by rw [hv]; rfl), look_cons, if_neg hjn, ih h]

theorem warmApply_clears (b : Nat) (s : State) : (warmApply b s).rtb = [] ∧ (warmApply b s).chans = [] ∧ (warmApply b s).rings = [] ∧ (warmApply b s).tills = [] ∧
    (warmApply b s).pfx = [] ∧ (warmApply b s).pond = [] ∧ (warmApply b s).spg.keys = [] ∧ (warmApply b s).spg.leases = [] ∧ (warmApply b s).steps = [] ∧
    (warmApply b s).wks.pool = [] := ⟨rfl, rfl, rfl, rfl, rfl, rfl, rfl, rfl, rfl, rfl⟩

theorem warmApply_keeps (b : Nat) (s : State) : (warmApply b s).nmc.lake = s.nmc.lake ∧ (warmApply b s).nmc.dir = s.nmc.dir ∧ (warmApply b s).straps = s.straps ∧
    (warmApply b s).fab.chip = s.fab.chip ∧ (warmApply b s).fab.valid = s.fab.valid ∧ (warmApply b s).ft = s.ft ∧ (warmApply b s).spg.rules = s.spg.rules ∧
    (warmApply b s).spg.ops = s.spg.ops ∧ (warmApply b s).conf = s.conf ∧ (warmApply b s).wks.map = s.wks.map ∧ (warmApply b s).secm.lc = s.secm.lc ∧
    (warmApply b s).secm.ctr = s.secm.ctr := by
  obtain ⟨q, busy, gens, dirGen, ⟨_, _, _, _, _, hframe⟩, -, -⟩ := warmFrom_frame s
  unfold warmFrom at hframe
  unfold warmApply
  rw [hframe]
  exact ⟨rfl, rfl, rfl, rfl, rfl, rfl, rfl, rfl, rfl, rfl, rfl, rfl⟩

theorem warmApply_log (b : Nat) (s : State) : (warmApply b s).log = (pimWarm s).log := by
  obtain ⟨_, _, _, _, -, hlog, -⟩ := warmFrom_frame s
  exact hlog

theorem warmApply_fenced {n : Nat} (h : (Machine.core s n).fenced = true) : (Machine.core (warmApply b s) n).fenced = true := by
  obtain ⟨q, busy, gens, dirGen, ⟨_, _, _, _, _, hframe⟩, -, -⟩ := warmFrom_frame s
  have hcores : (warmFrom s).wks.cores = s.wks.cores := by rw [hframe]
  refine fenced_filterMap ?_
  exact (congrArg (fun m => (look m n ({} : Core)).fenced) hcores).trans h

theorem warmApply_clk (b : Nat) (s : State) : (warmApply b s).clk = if bit b 8 then { s.clk with ftValid := false } else s.clk := by
  obtain ⟨q, busy, gens, dirGen, ⟨_, _, _, _, _, hframe⟩, -, -⟩ := warmFrom_frame s
  have hclk : (warmFrom s).clk = s.clk := by rw [hframe]
  rw [← hclk]
  rfl

/-- With the in-bank engine idle, RST_CAUSE gains the causes of the reset. -/
theorem rd_warmApply_rCause (hb : b < 8192) (h : smapWf regReset s.regs = true) (hq : s.nmc.q = []) : rd (warmApply b s) rCause = rd s rCause ||| b := by
  obtain ⟨_, _, _, _, -, -, hregs⟩ := warmFrom_frame s
  have hregs' : (warmFrom s).regs = s.regs := by rw [hregs, pimWarm_of_idle hq]
  have hwf : smapWf regReset (warmFrom s).regs = true := by rw [hregs', h]
  have hold : rd (clearRegs .warm (fun _ => true) (warmFrom s)) rCause = rd s rCause :=
    (rd_clearRegs_rCause hwf).trans (rd_of_regs_eq hregs' _)
  calc rd (warmApply b s) rCause
      = rd (wr rCause (rd (clearRegs .warm (fun _ => true) (warmFrom s)) rCause ||| (b % 8192)) (clearRegs .warm (fun _ => true) (warmFrom s))) rCause := rfl
    _ = (rd s rCause ||| b % 8192) % 2 ^ 32 := by rw [rd_wr_self (clearRegs_canonical hwf), hold]
    _ = rd s rCause ||| b := by
      rw [Nat.mod_eq_of_lt hb]
      exact Nat.mod_eq_of_lt (Nat.or_lt_two_pow (BitVec.isLt _) (by omega))

/-- Settles O58: POR's one cold reset and the release that follows, then what a warm reset clears, keeps and gains. -/
theorem whatResetsReach : Obligations.WhatResetsReach := by
  unfold Obligations.WhatResetsReach
  refine ⟨fun s b held hheld hidle hleave => ?_, fun s b t hb ht => ?_⟩
  · obtain ⟨hbit, hb0, hb⟩ := por_causes hidle hleave
    obtain ⟨hsecm, hft, hserial, hstepping, hpartX, hpin, hwarm⟩ := porFrom_keeps s
    obtain ⟨r, n, c, g, hc, hcold⟩ := coldApply_of_por hbit (porFrom s)
    have happly : applyReset b true (porFrom s) = beginRelease (emit (.pcie 2) (porState b (porFrom s) r n c g)) :=
      congrArg (fun t => beginRelease (emit (.pcie 2) t)) hcold
    obtain ⟨hphase, hwait, hkind, hsafe, hft0, hrtb, hchans, hrings, hpfx, hpond, hlake, hdir, hlog, hpool, hsec, hser, hstep, hx, hout⟩ :=
      por_release (held := held) (by rw [hpin, hwarm]; exact hheld) hbit hb happly
    have hexec : exec .por s = run .por s (applyReset b true (porFrom s)) := congrArg (run .por s) (takeReset_por hidle hleave)
    rw [Gives, hexec]
    refine gives_run rfl ⟨(applyReset_cold_shows hb0 hb (porFrom s)).1, hphase, hwait, hkind, hsafe, hft0, hrtb, hchans, hrings, hpfx, hpond, hlake, hdir, hlog,
      hpool, ?_, ?_, ?_, ⟨c, ?_, ?_, ?_, ?_, ?_⟩, hser.trans hserial, hstep.trans hstepping, hx.trans hpartX, rfl, fun hf => ?_⟩
    · exact (congrArg Secm.sign hsec).trans (Eq.trans (b := (porFrom s).secm.sign) rfl (congrArg Secm.sign hsecm))
    · exact (congrArg Secm.wrap hsec).trans (Eq.trans (b := (porFrom s).secm.wrap) rfl (congrArg Secm.wrap hsecm))
    · exact (congrArg Secm.user hsec).trans (Eq.trans (b := (porFrom s).secm.user) rfl (congrArg Secm.user hsecm))
    · rw [CutCell, hsecm, hft] at hc
      exact hc
    · exact congrArg Secm.lc hsec
    · exact congrArg Secm.ctr hsec
    · exact congrArg Secm.ctrUse hsec
    · exact congrArg Secm.banks hsec
    · obtain ⟨ho, hj⟩ := porFrom_of_no_farewell hf
      rw [← ho, ← hj]
      exact hout
  · subst ht
    have hclk := warmApply_clk b s
    exact ⟨warmApply_clears b s, warmApply_keeps b s, ⟨warmApply_log b s, fun hq => (warmApply_log b s).trans (by rw [pimWarm_of_idle hq])⟩,
      fun h hq => rd_warmApply_rCause hb h hq, fun n h => warmApply_fenced h, fun h => hclk.trans (if_pos h), fun h => hclk.trans (if_neg (ne_true_of_eq_false h))⟩

end Sys2Proof.Proofs
end
